-- ==== Sys2Proof/Word.lean ====
section
/-! DEFINITION. The words of the part: bytes, 64-bit words, 96-bit instruction words (02 R61, R72; 00 R6). -/

namespace Sys2Proof

/-- The value of a register, an address or a scalar result (02 R92). -/
abbrev Word := BitVec 64

/-- One byte of memory (00 R6). -/
abbrev Byte := BitVec 8

/-- One instruction word (02 R61). -/
abbrev Word96 := BitVec 96

/-- One 64-byte line, sector or unit, byte 0 lowest (00 R6). -/
abbrev Line := BitVec 512

/-- The contents of a mask register (02 R92). -/
abbrev Mask := BitVec 1024

/-- All ones in a 64-bit word. -/
def allOnes64 : Word := BitVec.allOnes 64

end Sys2Proof
end

