-- ==== Sys2Proof/Syntax.lean ====
section
/-! DEFINITION. The steps of the part, one constructor of `Instr` per row of spec/opcode_table.json: hart and datum
instructions (02 R89), traverse legs (12 R481), and the events of engines, links, host and board. -/

namespace Sys2Proof

/-- Element types (02 R83). -/
inductive Ty
  | i8 | n8 | i16 | n16 | i32 | n32 | i64 | n64 | f32 | bf16 | f16 | e4m3 | e5m2 | e3m2 | e2m3 | e2m1 | e8m0 | bp8
  deriving DecidableEq, Repr

/-- Rounding codes (02 R84); `dyn` is code 6, the mode held in rmode. -/
inductive Rnd
  | rne | rtz | rup | rdn | rna | sr | dyn
  deriving DecidableEq, Repr

/-- Scopes and domains (01 R27, 02 R85). -/
inductive Scope
  | hart | core | clu | pair | quad | pkg | pod
  deriving DecidableEq, Repr

/-- An x-class operand: a scalar register or a scalar queue (02 R78). -/
inductive XOp
  | x (n : Fin 64)
  | q (n : Fin 8)
  deriving DecidableEq, Repr

/-- A v-class operand: a vector register or the vector queue q8 + n (02 R78). -/
inductive VOp
  | v (n : Fin 64)
  | q (n : Fin 6)
  deriving DecidableEq, Repr

/-- A source that BX or CX may make an x-class field (08, element-wise instructions). -/
inductive VSrc
  | v (o : VOp)
  | x (o : XOp)
  deriving DecidableEq, Repr

/-- The header fields that every instruction carries beside MAJ and FN (02 R72). -/
structure Hdr where
  gpn : Bool := false
  gp : Fin 8 := 0
  gmn : Bool := false
  gm : Fin 8 := 0
  ch : Fin 4 := 0
  y : Bool := false
  e : Bool := false
  b : Bool := false
  deriving DecidableEq, Repr

/-- A memory operand of format M (02 R86). -/
structure MemOp where
  base : XOp
  idx : XOp
  scl : Fin 4
  disp : BitVec 32
  deriving DecidableEq, Repr

/-- Conditions of BR (05 R207). -/
inductive BrCond
  | always | eq | ne | lt | ge | ltu | geu
  deriving DecidableEq, Repr

/-- Conditions of CMP and CMPI (05 R219). -/
inductive CmpCond
  | eq | ne | lt | ge | ltu | geu | tst
  deriving DecidableEq, Repr

/-- Conditions of VCMP (08 R361). -/
inductive VCond
  | eq | ne | lt | le | gt | ge | un | or
  deriving DecidableEq, Repr

/-- The count of a LOOP (05 R205). -/
inductive LoopCount
  | reg (a : XOp)
  | imm (n : BitVec 13)
  deriving DecidableEq, Repr

/-- Kinds of FENCE and VFENCE (05 R227). -/
inductive FenceKind
  | acq | rel | full
  deriving DecidableEq, Repr

/-- Operations of VRED and VSCAN (09 R390). -/
inductive RedOp
  | add | min | max | argmin | argmax | and | or | xor
  deriving DecidableEq, Repr

/-- Operations of the group collectives and of REDUCE legs (07 R314, 12 R484). -/
inductive GOp
  | add | min | max
  deriving DecidableEq, Repr

/-- Destination of VRED: a vector register or queue, or with DX an x-class field (09 R389). -/
inductive RedDst
  | v (o : VOp)
  | x (o : XOp)
  deriving DecidableEq, Repr

/-- Destinations of VREDP (09 R390). -/
inductive RedpDst
  | v (d e : VOp)
  | x (d e : XOp)
  deriving DecidableEq, Repr

/-- Targets of MWLD (11 R460). -/
inductive WldDst
  | own | partner | both | split
  deriving DecidableEq, Repr

/-- The CMD48 fields of MSTREAM (11 R461). -/
structure StreamCmd where
  pitch : BitVec 11
  kl : BitVec 13
  cons : Bool
  asc : Bool
  at_ : Ty
  row0 : BitVec 7
  m : BitVec 8
  deriving DecidableEq, Repr

/-- The CMD48 fields of MDRAIN other than IDX (11 R464). -/
structure DrainCmd where
  zero : Bool
  kn : Bool
  km : Fin 8
  rm : Rnd
  t : Ty
  col0 : BitVec 9
  m : BitVec 8
  row0 : BitVec 7
  deriving DecidableEq, Repr

/-- Budgeted resources (06 R274). -/
inductive Res
  | hbm | l2 | border | ual
  deriving DecidableEq, Repr

/-- Selections of LVLID (04 R187). -/
inductive LvlSel
  | x | y | z | rank | ex | ey | ez | count
  deriving DecidableEq, Repr

/-- Modes of DVERIFY (15 R610). -/
inductive VerMode
  | sig | fw | tok
  deriving DecidableEq, Repr

/-- Targets of LCSET (15 R608). -/
inductive LcTarget
  | prov | depl | debug | rma
  deriving DecidableEq, Repr

/-- The chunk fields of a leg (12 R481, R482); kr and ki are the codes 0, 1 and 3 read as 0, +1 and -1. -/
structure Chunk where
  kr : Int
  ki : Int
  lv : Bool
  k0 : BitVec 12
  off : BitVec 32
  len : BitVec 32
  deriving DecidableEq, Repr

/-- The peer fields of a leg (12 R481, R482). -/
structure Peer where
  rel : Bool
  p : BitVec 12
  deriving DecidableEq, Repr

/-- Element types of REDUCE (12 R484). -/
inductive LegTy
  | f32 | bf16 | i32
  deriving DecidableEq, Repr

/-- Kinds of the WAIT leg, with the fields each uses (12 R483, R484, R492). -/
inductive LegWaitKind
  | arr (sa : Fin 16) (count : BitVec 32)
  | drain
  | full (sa : Fin 16) (c : Chunk)
  | empty (sa : Fin 16) (c : Chunk)
  deriving DecidableEq, Repr

/-- A party that executes an instruction stream: a hart's stream A or X by hart slot (4 x core + hart), or the
datum core (01 R35, 15 R579). -/
inductive Party
  | stream (hart : Nat) (isX : Bool)
  | datum
  deriving DecidableEq, Repr

/-- A member's run of a traverse program (12 R479): the launch (its PODID, or its serial without POD) and the group's
exchange base name the group, k the run. -/
structure RunId where
  lid : Word
  exb : Word
  count : Nat
  k : Nat
  deriving DecidableEq, Repr

/-- A SEND on its way to its receiver (12 R487, R488, R508). A row of a ROW send that was granted names its slot
and row; `spill` rows go to the spill slot at an offset. -/
structure SendMsg where
  run : RunId
  src : Nat
  dst : Nat
  srcChan : Nat
  seq : Nat
  /-- number of the SEND among those of its run to this receiver (12 R487) -/
  k : Nat
  fin : Bool
  /-- the receiver's landing slot, and the row size of a ROW send: 0 without ROW, beyond any row when LEN is no
  multiple of the rows (12 R496) -/
  sb : Fin 16
  row : Nat
  /-- pieces: slot, offset within the slot, or a row claimed and so an offset counted in rows, data -/
  pieces : List (Fin 16 × Nat × Bool × List Byte)
  poison : Bool
  deriving DecidableEq, Repr

/-- A SIGNAL or RESERVE message on its way (12 R493, R494, R495). With `last` a member that has executed END gives a
count of 0 for its round and every later one. -/
structure CtlMsg where
  run : RunId
  src : Nat
  dst : Nat
  srcChan : Nat
  seq : Nat
  slot : Fin 16
  value : BitVec 32
  /-- for a det RESERVE: the round -/
  round : Nat
  det : Bool
  last : Bool
  deriving DecidableEq, Repr

/-- An acknowledgement of a SEND, SIGNAL or RESERVE (12 R485, R488); `bad` is the fault it carries for the sender
(12 R510), 0 for none; `value` is the old value of a claim. -/
structure AckMsg where
  run : RunId
  dst : Nat
  seq : Nat
  bad : Nat
  value : Word
  rows : Nat
  deriving DecidableEq, Repr

/-- An element train (07 R305, R306). -/
structure Train where
  srcRank : BitVec 10
  add : Bool
  serial : BitVec 16
  ty : Ty
  srcHart : Nat
  /-- physical address, size and data of each element, in record order -/
  elems : List (Nat × Nat × Word)
  /-- the element count that the tail bears -/
  tail : Nat
  deriving DecidableEq, Repr

/-- A remote package's read or atomic (07 R619). -/
structure RemoteReq where
  srcRank : BitVec 10
  id : Nat
  pa : Nat
  size : Nat
  /-- none: a read; otherwise ATOM's OP, operand and compare value -/
  atom : Option (Nat × Bool × Word × Word)
  deriving DecidableEq, Repr

/-- An input of a kind that the replay log lists (14 R568). -/
structure ReplayInput where
  kind : Fin 4
  f0 : Word
  f1 : Word
  f2 : Word
  deriving DecidableEq, Repr

/-- Where an uncorrectable error strikes (06 R285): a device sector, a unit of a launch's scratchpad on a core or of a tile
buffer, a register of a stream or of a hart's vector file. -/
inductive ErrPlace
  | device (pa : Nat)
  | scratch (core : Nat) (serial : Word) (off : Nat)
  | tile (array off : Nat)
  | xreg (hart : Nat) (isX : Bool) (n : Fin 64)
  | vreg (hart : Nat) (n : Fin 64)
  deriving DecidableEq, Repr

/-- One step of the part. Every hart instruction carries its header; events carry what the outside or the engine
supplies. -/
inductive Instr
  -- major 0x01 (05 R206)
  | br (h : Hdr) (c : BrCond) (a b : XOp) (off : BitVec 40)
  | jmp (h : Hdr) (a : XOp)
  | call (h : Hdr) (d : XOp) (off : BitVec 40)
  | callr (h : Hdr) (d a : XOp)
  | ret (h : Hdr) (a : XOp)
  | pushb (h : Hdr) (inv : Bool) (a : Fin 8)
  | brq (h : Hdr) (z : Bool) (off : BitVec 40)
  | loop (h : Hdr) (l : Bool) (c : LoopCount) (off : BitVec 40)
  | lexit (h : Hdr) (l : Bool)
  | nop (h : Hdr)
  -- major 0x02 (05 R234)
  | trap (h : Hdr) (code : BitVec 35)
  | eret (h : Hdr)
  | srr (h : Hdr) (d : XOp) (sr : BitVec 12)
  | srw (h : Hdr) (sr : BitVec 12) (a : XOp)
  | wait (h : Hdr) (a : XOp) (limit : BitVec 35)
  | yield (h : Hdr)
  | halt (h : Hdr)
  | fencei (h : Hdr)
  -- major 0x10 (05 R213)
  | add (h : Hdr) (w : Bool) (d a b : XOp)
  | sub (h : Hdr) (w : Bool) (d a b : XOp)
  | mul (h : Hdr) (w : Bool) (d a b : XOp)
  | mulh (h : Hdr) (w : Bool) (d a b : XOp)
  | mulhu (h : Hdr) (w : Bool) (d a b : XOp)
  | div (h : Hdr) (w : Bool) (d a b : XOp)
  | divu (h : Hdr) (w : Bool) (d a b : XOp)
  | rem (h : Hdr) (w : Bool) (d a b : XOp)
  | remu (h : Hdr) (w : Bool) (d a b : XOp)
  | and (h : Hdr) (w : Bool) (d a b : XOp)
  | or (h : Hdr) (w : Bool) (d a b : XOp)
  | xor (h : Hdr) (w : Bool) (d a b : XOp)
  | andn (h : Hdr) (w : Bool) (d a b : XOp)
  | shl (h : Hdr) (w : Bool) (d a b : XOp)
  | shr (h : Hdr) (w : Bool) (d a b : XOp)
  | sra (h : Hdr) (w : Bool) (d a b : XOp)
  | ror (h : Hdr) (w : Bool) (d a b : XOp)
  | min (h : Hdr) (w : Bool) (d a b : XOp)
  | max (h : Hdr) (w : Bool) (d a b : XOp)
  | minu (h : Hdr) (w : Bool) (d a b : XOp)
  | maxu (h : Hdr) (w : Bool) (d a b : XOp)
  | clz (h : Hdr) (w : Bool) (d a : XOp)
  | ctz (h : Hdr) (w : Bool) (d a : XOp)
  | popc (h : Hdr) (w : Bool) (d a : XOp)
  | bfx (h : Hdr) (sx : Bool) (d a b : XOp)
  | bfi (h : Hdr) (d a b c : XOp)
  | sel (h : Hdr) (d a b : XOp) (p : Fin 8)
  | lea (h : Hdr) (s : Fin 4) (d a b : XOp)
  -- major 0x11 (05 R213)
  | addImm (h : Hdr) (w : Bool) (d a : XOp) (imm : BitVec 48)
  | subImm (h : Hdr) (w : Bool) (d a : XOp) (imm : BitVec 48)
  | mulImm (h : Hdr) (w : Bool) (d a : XOp) (imm : BitVec 48)
  | mulhImm (h : Hdr) (w : Bool) (d a : XOp) (imm : BitVec 48)
  | mulhuImm (h : Hdr) (w : Bool) (d a : XOp) (imm : BitVec 48)
  | divImm (h : Hdr) (w : Bool) (d a : XOp) (imm : BitVec 48)
  | divuImm (h : Hdr) (w : Bool) (d a : XOp) (imm : BitVec 48)
  | remImm (h : Hdr) (w : Bool) (d a : XOp) (imm : BitVec 48)
  | remuImm (h : Hdr) (w : Bool) (d a : XOp) (imm : BitVec 48)
  | andImm (h : Hdr) (w : Bool) (d a : XOp) (imm : BitVec 48)
  | orImm (h : Hdr) (w : Bool) (d a : XOp) (imm : BitVec 48)
  | xorImm (h : Hdr) (w : Bool) (d a : XOp) (imm : BitVec 48)
  | andnImm (h : Hdr) (w : Bool) (d a : XOp) (imm : BitVec 48)
  | shlImm (h : Hdr) (w : Bool) (d a : XOp) (imm : BitVec 48)
  | shrImm (h : Hdr) (w : Bool) (d a : XOp) (imm : BitVec 48)
  | sraImm (h : Hdr) (w : Bool) (d a : XOp) (imm : BitVec 48)
  | rorImm (h : Hdr) (w : Bool) (d a : XOp) (imm : BitVec 48)
  | minImm (h : Hdr) (w : Bool) (d a : XOp) (imm : BitVec 48)
  | maxImm (h : Hdr) (w : Bool) (d a : XOp) (imm : BitVec 48)
  | minuImm (h : Hdr) (w : Bool) (d a : XOp) (imm : BitVec 48)
  | maxuImm (h : Hdr) (w : Bool) (d a : XOp) (imm : BitVec 48)
  | bfxImm (h : Hdr) (sx : Bool) (d a : XOp) (imm : BitVec 48)
  | bfiImm (h : Hdr) (d : Fin 64) (a : XOp) (imm : BitVec 48)
  | selImm (h : Hdr) (d a : XOp) (imm : BitVec 48) (p : Fin 8)
  | leaImm (h : Hdr) (s : Fin 4) (d a : XOp) (imm : BitVec 48)
  -- major 0x12 (05 R217)
  | movi (h : Hdr) (d : XOp) (imm : BitVec 62)
  | cmp (h : Hdr) (c : CmpCond) (w : Bool) (pd pc : Fin 8) (a b : XOp)
  | cmpi (h : Hdr) (c : CmpCond) (w : Bool) (pd : Fin 8) (a : XOp) (imm : BitVec 48)
  | plog (h : Hdr) (lut : BitVec 4) (d a b : Fin 8)
  | pmovToX (h : Hdr) (d : XOp)
  | pmovToP (h : Hdr) (a : XOp)
  -- major 0x13 (05 R222)
  | ld (h : Hdr) (t : Ty) (d : XOp) (m : MemOp)
  | st (h : Hdr) (t : Ty) (d : XOp) (m : MemOp)
  | lda (h : Hdr) (t : Ty) (sc : Scope) (d : XOp) (m : MemOp)
  | str (h : Hdr) (t : Ty) (sc : Scope) (d : XOp) (m : MemOp)
  | atomSwap (h : Hdr) (t : Ty) (sc : Option Scope) (d : Fin 64) (m : MemOp)
  | atomAdd (h : Hdr) (t : Ty) (sc : Option Scope) (d : Fin 64) (m : MemOp)
  | atomAnd (h : Hdr) (t : Ty) (sc : Option Scope) (d : Fin 64) (m : MemOp)
  | atomOr (h : Hdr) (t : Ty) (sc : Option Scope) (d : Fin 64) (m : MemOp)
  | atomXor (h : Hdr) (t : Ty) (sc : Option Scope) (d : Fin 64) (m : MemOp)
  | atomMin (h : Hdr) (t : Ty) (sc : Option Scope) (d : Fin 64) (m : MemOp)
  | atomMax (h : Hdr) (t : Ty) (sc : Option Scope) (d : Fin 64) (m : MemOp)
  | atomCas (h : Hdr) (t : Ty) (sc : Option Scope) (d : Fin 64) (a : XOp) (b : Fin 64) (disp : BitVec 32)
  | fence (h : Hdr) (k : FenceKind) (sc : Scope)
  -- major 0x20 (08 R360)
  | vadd (h : Hdr) (t : Ty) (rm : Rnd) (d a : VOp) (b : VSrc)
  | vsub (h : Hdr) (t : Ty) (rm : Rnd) (d a : VOp) (b : VSrc)
  | vmul (h : Hdr) (t : Ty) (rm : Rnd) (d a : VOp) (b : VSrc)
  | vfma (h : Hdr) (t : Ty) (rm : Rnd) (d a : VOp) (b c : VSrc)
  | vfms (h : Hdr) (t : Ty) (rm : Rnd) (d a : VOp) (b c : VSrc)
  | vfnma (h : Hdr) (t : Ty) (rm : Rnd) (d a : VOp) (b c : VSrc)
  | vdiv (h : Hdr) (t : Ty) (rm : Rnd) (d a : VOp) (b : VSrc)
  | vsqrt (h : Hdr) (t : Ty) (rm : Rnd) (d a : VOp)
  | vmin (h : Hdr) (t : Ty) (d a : VOp) (b : VSrc)
  | vmax (h : Hdr) (t : Ty) (d a : VOp) (b : VSrc)
  | vabs (h : Hdr) (t : Ty) (d a : VOp)
  | vneg (h : Hdr) (t : Ty) (d a : VOp)
  | vcmp (h : Hdr) (c : VCond) (t : Ty) (d : Fin 8) (a : VOp) (b : VSrc)
  | vclass (h : Hdr) (t : Ty) (d a : VOp)
  | twosum (h : Hdr) (t : Ty) (rm : Rnd) (d e a : VOp) (b : VSrc)
  -- major 0x21 (08 R364)
  | viadd (h : Hdr) (sat : Bool) (t : Ty) (d a : VOp) (b : VSrc)
  | visub (h : Hdr) (sat : Bool) (t : Ty) (d a : VOp) (b : VSrc)
  | vimul (h : Hdr) (t : Ty) (d a : VOp) (b : VSrc)
  | vimulh (h : Hdr) (t : Ty) (d a : VOp) (b : VSrc)
  | vimad (h : Hdr) (t : Ty) (d a : VOp) (b c : VSrc)
  | vimin (h : Hdr) (t : Ty) (d a : VOp) (b : VSrc)
  | vimax (h : Hdr) (t : Ty) (d a : VOp) (b : VSrc)
  | vand (h : Hdr) (t : Ty) (d a : VOp) (b : VSrc)
  | vor (h : Hdr) (t : Ty) (d a : VOp) (b : VSrc)
  | vxor (h : Hdr) (t : Ty) (d a : VOp) (b : VSrc)
  | vshl (h : Hdr) (t : Ty) (d a : VOp) (b : VSrc)
  | vshr (h : Hdr) (t : Ty) (d a : VOp) (b : VSrc)
  | vsra (h : Hdr) (t : Ty) (d a : VOp) (b : VSrc)
  | vclip (h : Hdr) (t : Ty) (d a : VOp) (b c : VSrc)
  -- major 0x22 (08 R365)
  | vmov (h : Hdr) (t : Ty) (d a : VOp)
  | vbcast (h : Hdr) (t : Ty) (d : VOp) (a : XOp)
  | viota (h : Hdr) (row : Bool) (t : Ty) (d : VOp)
  | vsel (h : Hdr) (t : Ty) (d a : VOp) (b : VSrc) (c : Fin 8)
  | vldi (h : Hdr) (t : Ty) (d : VOp) (imm : BitVec 48)
  -- major 0x23 (08 R350)
  | setvl (h : Hdr) (t : Ty) (d : XOp) (a : Fin 64)
  | setvlRel (h : Hdr) (d : XOp)
  | setrc (h : Hdr) (t : Ty) (d : XOp) (a : Fin 64)
  | alloc (h : Hdr) (d : XOp) (a : Fin 64)
  | shrink (h : Hdr) (d : XOp) (a : Fin 64)
  | strip (h : Hdr) (t : Ty) (d a b c : Fin 64) (sa sb sc : Fin 4)
  -- major 0x30 (08 R367)
  | vrcp (h : Hdr) (t : Ty) (rm : Rnd) (d a : VOp)
  | vrsq (h : Hdr) (t : Ty) (rm : Rnd) (d a : VOp)
  | vexp2 (h : Hdr) (t : Ty) (rm : Rnd) (d a : VOp)
  | vlog2 (h : Hdr) (t : Ty) (rm : Rnd) (d a : VOp)
  | vtanh (h : Hdr) (t : Ty) (rm : Rnd) (d a : VOp)
  -- major 0x31 (08 R368)
  | vcvt (h : Hdr) (t u : Ty) (rm : Rnd) (d a : VOp)
  | vqblk (h : Hdr) (t u : Ty) (rm : Rnd) (off : BitVec 7) (d c a : VOp)
  | vdqblk (h : Hdr) (t u : Ty) (rm : Rnd) (off : BitVec 7) (d a c : VOp)
  | vplane (h : Hdr) (d a : VOp)
  | vunplane (h : Hdr) (p : BitVec 4) (d a : VOp)
  | vrand (h : Hdr) (t : Ty) (d : VOp)
  -- major 0x32 (08 R374)
  | klog (h : Hdr) (lut : BitVec 4) (d a b : Fin 8)
  | kcnt (h : Hdr) (d : XOp) (a : Fin 8)
  | kfirst (h : Hdr) (d : XOp) (a : Fin 8)
  | mpush (h : Hdr) (a : Fin 8)
  | minv (h : Hdr)
  | mpop (h : Hdr)
  | mbrz (h : Hdr) (nz : Bool) (off : BitVec 40)
  | vtrip (h : Hdr) (t : Ty) (d a : VOp)
  | mloop (h : Hdr) (t : Ty) (a : VOp) (off : BitVec 40)
  -- major 0x40 (09 R390)
  | vred (h : Hdr) (op : RedOp) (seg : Bool) (t : Ty) (rm : Rnd) (d : RedDst) (a : VOp)
  | vredp (h : Hdr) (seg : Bool) (t : Ty) (d : RedpDst) (a : VOp) (b : Option VOp)
  | vscan (h : Hdr) (op : RedOp) (seg : Bool) (t : Ty) (rm : Rnd) (d a : VOp)
  | vperm (h : Hdr) (seg ix : Bool) (t : Ty) (d a b : VOp)
  | vslide (h : Hdr) (seg wrap : Bool) (t : Ty) (d a : VOp) (b : XOp)
  | vzip (h : Hdr) (seg hi : Bool) (t : Ty) (d a b : VOp)
  | vunzip (h : Hdr) (seg odd : Bool) (t : Ty) (d a b : VOp)
  | vtrn (h : Hdr) (t : Ty) (d a : VOp)
  | vcompress (h : Hdr) (z : Bool) (t : Ty) (d a : VOp) (e : XOp)
  | vexpand (h : Hdr) (z : Bool) (t : Ty) (d a : VOp)
  | vsortk (h : Hdr) (desc : Bool) (t : Ty) (d e a : VOp) (b : XOp)
  | vextr (h : Hdr) (t : Ty) (d : XOp) (a : VOp) (b : XOp)
  | vinsr (h : Hdr) (t : Ty) (d : VOp) (a b : XOp)
  | rdv (h : Hdr) (d : XOp)
  -- major 0x50 (07 R297)
  | vld (h : Hdr) (t : Ty) (d : VOp) (m : MemOp)
  | vlds (h : Hdr) (t : Ty) (d : VOp) (m : MemOp)
  | vldx (h : Hdr) (t : Ty) (ix : Bool) (d : VOp) (a : XOp) (b : VOp) (scl : Fin 4) (disp : BitVec 32)
  | vst (h : Hdr) (t : Ty) (d : VOp) (m : MemOp)
  | vsts (h : Hdr) (t : Ty) (d : VOp) (m : MemOp)
  | vstx (h : Hdr) (t : Ty) (ix : Bool) (d : VOp) (a : XOp) (b : VOp) (scl : Fin 4) (disp : BitVec 32)
  | vstu (h : Hdr) (t : Ty) (ix : Bool) (d : VOp) (a : XOp) (b : VOp) (scl : Fin 4) (disp : BitVec 32)
  | vstxa (h : Hdr) (t : Ty) (ix : Bool) (d : VOp) (a : XOp) (b : VOp) (scl : Fin 4) (disp : BitVec 32)
  | vfence (h : Hdr) (k : FenceKind) (sc : Scope)
  | pref (h : Hdr) (l2 : Bool) (d : XOp) (m : MemOp)
  -- major 0x51 (07 R314)
  | gset (h : Hdr) (d : Fin 8) (a b : XOp)
  | gsetFree (h : Hdr) (d : Fin 8)
  | vgred (h : Hdr) (op : GOp) (t : Ty) (d a : VOp) (c : Fin 8)
  | vgall (h : Hdr) (t : Ty) (d a : VOp) (c : Fin 8)
  | vgrs (h : Hdr) (op : GOp) (t : Ty) (d a : VOp) (c : Fin 8)
  | vgbc (h : Hdr) (t : Ty) (d a : VOp) (c : Fin 8) (b : XOp)
  -- major 0x52 (07 R320, R329)
  | stream (h : Hdr) (d a : XOp)
  | armw (h : Hdr) (d : XOp) (m : MemOp)
  | waitw (h : Hdr) (d : XOp) (m : MemOp)
  | jobwait (h : Hdr) (d a : XOp)
  -- major 0x60 (10 R422)
  | ovopen (h : Hdr) (d : XOp)
  | ovopenTry (h : Hdr) (d : XOp) (c : Fin 8)
  | ovset (h : Hdr) (a : XOp)
  | ovretire (h : Hdr) (d a : XOp)
  | ovcommit (h : Hdr) (sc : Scope) (d a : XOp)
  | ldo (h : Hdr) (t : Ty) (d a b : XOp) (disp : BitVec 32)
  | vldo (h : Hdr) (t : Ty) (d : VOp) (a b : XOp) (disp : BitVec 32)
  | ovstat (h : Hdr) (sel : Fin 3) (d a : XOp)
  -- major 0x68 (06 R287)
  | carve (h : Hdr) (d a : XOp)
  | cclean (h : Hdr) (l2 : Bool) (d : XOp) (m : MemOp)
  | cinv (h : Hdr) (l2 : Bool) (d : XOp) (m : MemOp)
  | cflush (h : Hdr) (l2 : Bool) (d : XOp) (m : MemOp)
  | tlbiAll (h : Hdr)
  | tlbiAsid (h : Hdr) (a : XOp)
  | tlbiRange (h : Hdr) (a b c : XOp)
  | digest (h : Hdr) (d a : XOp)
  | digestRng (h : Hdr) (d a b : XOp)
  | budget (h : Hdr) (d : XOp) (cls : Fin 16) (res : Res)
  | budgetW (h : Hdr) (d a : XOp) (cls : Fin 16) (res : Res)
  -- major 0x70 (11 R457)
  | mattach (h : Hdr) (d a : XOp)
  | mattachPair (h : Hdr) (d a : XOp)
  | mdetach (h : Hdr)
  | mwld (h : Hdr) (dst : WldDst) (d a : XOp)
  | mstream (h : Hdr) (c : StreamCmd) (d a : XOp)
  | mzeroFp (h : Hdr) (row0 : BitVec 7) (m : BitVec 8)
  | mzeroInt (h : Hdr) (row0 : BitVec 7) (m : BitVec 8)
  | mdrain (h : Hdr) (c : DrainCmd) (a b : XOp)
  | mdrainIdx (h : Hdr) (c : DrainCmd) (a : XOp) (d : VOp)
  | msave (h : Hdr) (d : XOp) (m : MemOp)
  | mrestore (h : Hdr) (d : XOp) (m : MemOp)
  | mlineEmpty (h : Hdr) (d : XOp) (m : MemOp)
  | mlineFull (h : Hdr) (d : XOp) (m : MemOp)
  | mlineWfull (h : Hdr) (d : XOp) (m : MemOp)
  | mlineWempty (h : Hdr) (d : XOp) (m : MemOp)
  | mwait (h : Hdr) (d a : XOp)
  | mstat (h : Hdr) (sel : Fin 4) (d a : XOp)
  -- major 0x80 (12 R514)
  | tvload (h : Hdr) (d a : XOp) (g : Fin 8)
  | tvloadFree (h : Hdr) (a : XOp)
  | tvstart (h : Hdr) (chn : Fin 17) (d a : XOp)
  | tvwait (h : Hdr) (d a : XOp)
  | tvstat (h : Hdr) (sel : Fin 3) (d a : XOp)
  -- major 0x81 (13 R545)
  | gzlook (h : Hdr) (d a : XOp)
  | gzupdate (h : Hdr) (d a : XOp)
  | gzver (h : Hdr) (ver : Fin 4) (d a : XOp)
  | gzpin (h : Hdr) (n : BitVec 13) (d a b : XOp)
  | gzpinUn (h : Hdr) (n : BitVec 13) (d a b : XOp)
  | gzwait (h : Hdr) (d a : XOp)
  -- major 0x88 (04, Instructions)
  | launch (h : Hdr) (d a : XOp)
  | launchTry (h : Hdr) (d a : XOp)
  | trig (h : Hdr)
  | bar (h : Hdr) (l : Fin 8)
  | waitl (h : Hdr) (sc : Scope) (d a b : XOp)
  | lvlid (h : Hdr) (lev : Fin 8) (sel : LvlSel) (d : XOp)
  -- major 0x90 (14 R571)
  | mtick (h : Hdr) (d : XOp)
  | mtickOrd (h : Hdr) (d : XOp)
  | svmark (h : Hdr) (code : BitVec 16) (a : XOp)
  | svsamp (h : Hdr) (n : BitVec 5) (a : XOp)
  | svsampOff (h : Hdr)
  | svread (h : Hdr) (sel : Fin 4) (d a : XOp)
  | svstop (h : Hdr) (d a : XOp)
  -- the rows below are kept last: compiled code can build at most 244 constructors that hold fields
  -- major 0x02 (05 R234)
  | waitWake (p : Party)
  -- major 0x13 (05 R222)
  | queueDeadlock (hart : Nat)
  -- major 0x40 (09 R390)
  | rendezvousComplete (hart : Nat) (serial : Nat)
  | laneArrive (hart : Nat) (serial : Nat) (lane : Fin 16)
  | vectorTrapCommit (hart : Nat)
  -- major 0x70 (11 R457)
  | mzeroApply (array : Fin 128)
  | streamChunk (array : Fin 128)
  | weightSwap (array : Fin 128)
  -- major 0x88 (04, Instructions)
  | barRelease (serial : Word) (level : Nat) (group : Nat)
  -- major 0x90 (14 R571)
  | clklock (h : Hdr) (p : Fin 8) (d : XOp)
  | clklockOff (h : Hdr) (d : XOp)
  -- major 0x98 (15 R608)
  | dhash (h : Hdr) (d a b : XOp)
  | dverify (h : Hdr) (mode : VerMode) (d a : XOp)
  | dsign (h : Hdr) (d a b : XOp)
  | dsignAtt (h : Hdr) (d a : XOp)
  | dsignPub (h : Hdr) (d : XOp)
  | fuserd (h : Hdr) (d a : XOp)
  | keywipe (h : Hdr) (d a : XOp)
  | keywipeAll (h : Hdr) (d : XOp)
  | mextend (h : Hdr) (idx : Fin 8) (a b : XOp)
  | mextendDbg (h : Hdr) (d : XOp)
  | lcset (h : Hdr) (t : LcTarget) (d : XOp)
  | dbgopen (h : Hdr) (mask : BitVec 32) (d : XOp)
  -- traverse legs (12 R483)
  | legSend (row fin : Bool) (p : Peer) (sa sb sc : Fin 16) (c : Chunk)
  | legRecv (fin full arr : Bool) (p : Peer) (sa : Fin 16) (c : Chunk)
  | legReduce (op : GOp) (dt : LegTy) (full arr : Bool) (sa sb sc : Fin 16) (c : Chunk)
  | legCopy (cvt full arr : Bool) (stride : BitVec 12) (sa sc : Fin 16) (c : Chunk)
  | legWait (k : LegWaitKind)
  | legSignal (p : Peer) (sb : Fin 16) (value : BitVec 32)
  | legReserve (spill : Bool) (p : Peer) (sb : Fin 16) (rows : BitVec 32)
  | legRepeat (lv : Bool) (count : BitVec 32) (target : BitVec 32)
  | legEnd
  -- traverse and task events (12 R479..R511, 04 R165, R166)
  | traverseRunStart (card : Word)
  | sendLand (m : SendMsg)
  | signalArrive (m : CtlMsg)
  | reserveClaimArrive (m : CtlMsg)
  | reserveRound (run : RunId) (dst : Nat) (round : Nat)
  | legAckArrive (m : AckMsg)
  | stopNotice (run : RunId) (dst : Nat)
  | cardStart (card : Word)
  | streamCopyJob (card : Word)
  | weightLoadJob (card : Word)
  | gzLookupJob (card : Word)
  | gzUpdateJob (card : Word)
  | gzageHalve (s : Fin 12)
  | cardComplete (card : Word)
  -- launch engine events (04)
  | ringWptrWrite (n : Fin 64) (w : Word)
  | ringReset (n : Fin 64) (v : Word)
  | ringEntryRead (n : Fin 64)
  | priorityAge (n : Fin 64)
  | depEval (serial : Word)
  | launchPlace (serial : Word)
  | podAdmission (podid : BitVec 32) (rank : BitVec 16)
  | launchComplete (serial : Word)
  | preemptWrite (serial : Word)
  | cancelWrite (serial : Word)
  | gangPreempt (serial : Word) (gang : Nat)
  | gangResume (serial : Word) (gang : Nat)
  | hostMrd (off : BitVec 16)
  | hostDrd (quad : Fin 4) (asid : BitVec 16) (va : Word) (len : Nat)
  | hostDwr (quad : Fin 4) (asid : BitVec 16) (va : Word) (data : List Byte)
  | hostCpl (id : Nat) (ok : Bool) (data : Word)
  | regWrite (off : BitVec 16) (v : Word)
  -- memory engine events (06, 07)
  | fqrespRetry (quad : Fin 4) (id : BitVec 32)
  | fqrespDecline (quad : Fin 4) (id : BitVec 32)
  | pageWalkDone
  | faultRecordPost (quad : Fin 4)
  | sideLogPerform (hart : Nat)
  | sideLogPageTrap (p : Party)
  | tagEndOvstaleTrap (p : Party)
  | roundProtTrap (p : Party)
  | wcbDrainTimeout (core : Nat)
  | l1LeaseExpire (core : Nat)
  | borderCopyInvalidate (quad : Fin 4) (sector : Nat)
  | budgetPeriod
  | roundApply (serial : Word)
  | trainReceive (t : Train)
  | trainAck (serial : BitVec 16)
  | trainRefusal (serial : BitVec 16)
  | ualinkReadServe (r : RemoteReq)
  | ualinkResponse (id : Nat) (data : Word)
  | tlbicmdAll
  | tlbicmdAsid (asid : BitVec 16)
  | tlbicmdRange (asid : BitVec 16)
  | tlbicmdDone
  | uncorrected (at_ : ErrPlace)
  | scrub (quad : Fin 4) (corrected : Bool)
  | ovgaddWrite (v : Word)
  | poolGrowDone
  | gzdsyncWrite (v : Word)
  | gzprobeWrite (v : Word)
  | gzprobeDone
  -- survey events (14)
  | tickAlign (tick : Word)
  | tickAlignLoss
  | sampleRecord (hart : Nat) (stages : List (Nat × Nat)) (total : Nat)
  | stopFire
  | svrunWrite (v : Word)
  | svstatDisarm (v : Word)
  | rlctlWrite (v : Word)
  | rlwptrSupply (v : Word)
  | replayInputArrive (i : ReplayInput)
  -- datum controller, power and management events (15)
  | powerGoodReset
  | dwinWrite (v : Word)
  | dmloadWrite (v : Word)
  | unitReady (bit : Fin 57)
  | unitLost (bit : Fin 57)
  | cdisWrite (w : Fin 8) (v : Word)
  | pcapWrite (board : Bool) (v : Word)
  | powerLimitRaise
  | powerLimitRelax
  | thermalLimitRaise
  | thermalTrip
  | thermalLimitRelax
  | pointChange
  | kctlLoad (slot : Fin 64)
  | kctlClearSeal (slot : Fin 64)
  | dunlkAbort
  | dchalDraw
  | debugScan
  | debugMemrd (pa : Nat)
  | debugMemwr (pa : Nat) (v : Word)
  | debugSvstop (tick : Word)
  | i3cEntdaa (addr : BitVec 7)
  | i3cRstdaa
  | i3cGetpid
  | i3cGetbcr
  | i3cGetdcr
  | i3cGetstatus
  | i3cPrivateWrite (off : BitVec 16) (v : Word)
  | laneComplete (hart : Nat) (serial : Nat) (lane : Fin 16)
  | meridianTick
  | ualinkErrorResponse (id : Nat)
  | gzdsyncDone
  | i3cPrivateRead (off : BitVec 16)
  deriving DecidableEq, Repr

end Sys2Proof
end

