-- ==== Sys2Proof/WellFormed.lean ====
section
/-! DEFINITION. Well-formed steps: the static part of step 2 of 02 R87 (operand codes, types, CH, GM, B and the
limits that an instruction's own fields break), and the static checks of a leg (12 R486). -/

namespace Sys2Proof

/-- Types of scalar memory, reductions and sorts: codes 0..10 (05 R223, 09 R390). -/
def Ty.isScalar : Ty → Bool
  | .i8 | .n8 | .i16 | .n16 | .i32 | .n32 | .i64 | .n64 | .f32 | .bf16 | .f16 => true
  | .e4m3 | .e5m2 | .e3m2 | .e2m3 | .e2m1 | .e8m0 | .bp8 => false

/-- Types of ATOM (05 R225). -/
def Ty.isAtom : Ty → Bool
  | .i32 | .n32 | .i64 | .n64 => true
  | .i8 | .n8 | .i16 | .n16 | .f32 | .bf16 | .f16 | .e4m3 | .e5m2 | .e3m2 | .e2m3 | .e2m1 | .e8m0 | .bp8 => false

/-- f32, bf16 and f16 (08 R360, R367). -/
def Ty.isFp : Ty → Bool
  | .f32 | .bf16 | .f16 => true
  | .i8 | .n8 | .i16 | .n16 | .i32 | .n32 | .i64 | .n64 | .e4m3 | .e5m2 | .e3m2 | .e2m3 | .e2m1 | .e8m0 | .bp8 => false

/-- Codes 0..7 (08 R364). -/
def Ty.isInteger : Ty → Bool
  | .i8 | .n8 | .i16 | .n16 | .i32 | .n32 | .i64 | .n64 => true
  | .f32 | .bf16 | .f16 | .e4m3 | .e5m2 | .e3m2 | .e2m3 | .e2m1 | .e8m0 | .bp8 => false

/-- Codes 0 and 11..15, the element types of block quantisation (08 R368). -/
def Ty.isMx : Ty → Bool
  | .i8 | .e4m3 | .e5m2 | .e3m2 | .e2m3 | .e2m1 => true
  | .n8 | .i16 | .n16 | .i32 | .n32 | .i64 | .n64 | .f32 | .bf16 | .f16 | .e8m0 | .bp8 => false

/-- Codes 0..14 and 16, the types of moves and of strided and indexed accesses (07 R297, 09 R390). -/
def Ty.isMove : Ty → Bool
  | .e2m1 | .bp8 => false
  | .i8 | .n8 | .i16 | .n16 | .i32 | .n32 | .i64 | .n64 | .f32 | .bf16 | .f16 | .e4m3 | .e5m2 | .e3m2 | .e2m3 | .e8m0 => true

/-- Codes 4..10, the types of scatter-add and of the collectives (07 R297, R314). -/
def Ty.isAddable : Ty → Bool
  | .i32 | .n32 | .i64 | .n64 | .f32 | .bf16 | .f16 => true
  | .i8 | .n8 | .i16 | .n16 | .e4m3 | .e5m2 | .e3m2 | .e2m3 | .e2m1 | .e8m0 | .bp8 => false

/-- Element width in bits as 08 R333 counts it. -/
def Ty.width : Ty → Nat
  | .i8 | .n8 | .e4m3 | .e5m2 | .e3m2 | .e2m3 | .e8m0 | .bp8 => 8
  | .i16 | .n16 | .bf16 | .f16 => 16
  | .i32 | .n32 | .f32 => 32
  | .i64 | .n64 => 64
  | .e2m1 => 4

/-- No mask guard (02 R74). -/
def Hdr.noMask (h : Hdr) : Bool := !h.gmn && h.gm == 0

/-- Families whose instructions may take a mask guard (02 R74). -/
def maskFamily (maj : Nat) : Bool :=
  [0x20, 0x21, 0x22, 0x23, 0x30, 0x31, 0x32, 0x40, 0x50, 0x51, 0x52, 0x60].contains maj

/-- Families whose instructions may take a cache hint (02 R75). -/
def hintFamily (maj : Nat) : Bool := [0x13, 0x50, 0x52, 0x60, 0x68, 0x70].contains maj

/-- Families whose instructions may set B (02 R75). -/
def barrierFamily (maj : Nat) : Bool :=
  [0x20, 0x21, 0x22, 0x23, 0x30, 0x31, 0x32, 0x50, 0x51, 0x52].contains maj

/-- The header checks of 02 R74 and R75. -/
def Hdr.ok (maj : Nat) (h : Hdr) : Bool :=
  (h.noMask || maskFamily maj) && (h.ch == 0 || hintFamily maj) && (!h.b || barrierFamily maj)

/-- Rounding field of VRED and VSCAN: a code other than 0 only on a floating add, and never `.sr` (09 R391). -/
def redRm (op : RedOp) (t : Ty) (rm : Rnd) : Bool :=
  if op == .add && t.isFp then rm != .sr else rm == .rne

/-- and, or, xor (09 R391). -/
def RedOp.isBitwise : RedOp → Bool
  | .and | .or | .xor => true
  | .add | .min | .max | .argmin | .argmax => false

/-- Is the destination an x-class field (DX)? -/
def RedDst.isX : RedDst → Bool
  | .x _ => true
  | .v _ => false

/-- Is the destination pair x-class (DX)? -/
def RedpDst.isX : RedpDst → Bool
  | .x _ _ => true
  | .v _ _ => false

/-- D and E differ, but for DX = 1 with both fields 0 (09 R391). -/
def RedpDst.distinct : RedpDst → Bool
  | .v d e => d != e
  | .x d e => d != e || d == .x 0

/-- Row ranges of the matrix instructions: M in 1..128 and ROW0 + M ≤ 128 (11 R461, R463, R464). -/
def rowsOk (row0 : BitVec 7) (m : BitVec 8) : Bool :=
  decide (1 ≤ m.toNat) && decide (row0.toNat + m.toNat ≤ 128)

/-- The static checks of MSTREAM (11 R461). -/
def StreamCmd.ok (c : StreamCmd) : Bool :=
  rowsOk c.row0 c.m && c.pitch != 0 && decide (c.kl.toNat ≤ 4096)
    && (c.at_.isMx || c.at_ == .bf16 || c.at_ == .f16) && (!c.asc || (c.at_.isMx && c.at_ != .i8))

/-- Types a drain may write: codes 0..12 (11 R464). -/
def Ty.isDrain : Ty → Bool
  | .i8 | .n8 | .i16 | .n16 | .i32 | .n32 | .i64 | .n64 | .f32 | .bf16 | .f16 | .e4m3 | .e5m2 => true
  | .e3m2 | .e2m3 | .e2m1 | .e8m0 | .bp8 => false

/-- The static checks of MDRAIN (11 R464). -/
def DrainCmd.ok (c : DrainCmd) : Bool := c.t.isDrain && rowsOk c.row0 c.m && c.km != 1

/-- An absolute or relative peer of 12 R481: P as a signed offset when REL is set. Every code is legal here. -/
def Peer.ok (_ : Peer) : Bool := true

/-- The coefficient codes of a chunk (12 R481, R486). -/
def Chunk.ok (c : Chunk) : Bool :=
  (c.kr == 0 || c.kr == 1 || c.kr == -1) && (c.ki == 0 || c.ki == 1 || c.ki == -1)

/-- The chunk of a WAIT leg (12 R483). -/
def LegWaitKind.ok : LegWaitKind → Bool
  | .arr _ _ => true
  | .drain => true
  | .full _ c => c.ok
  | .empty _ c => c.ok

/-- Major and header of a hart or datum instruction (02 R72, R89); none for legs and events. -/
def Instr.hdr? : Instr → Option (Nat × Hdr)
  | .br h _ _ _ _ => some (0x1, h)
  | .jmp h _ => some (0x1, h)
  | .call h _ _ => some (0x1, h)
  | .callr h _ _ => some (0x1, h)
  | .ret h _ => some (0x1, h)
  | .pushb h _ _ => some (0x1, h)
  | .brq h _ _ => some (0x1, h)
  | .loop h _ _ _ => some (0x1, h)
  | .lexit h _ => some (0x1, h)
  | .nop h => some (0x1, h)
  | .trap h _ => some (0x2, h)
  | .eret h => some (0x2, h)
  | .srr h _ _ => some (0x2, h)
  | .srw h _ _ => some (0x2, h)
  | .wait h _ _ => some (0x2, h)
  | .yield h => some (0x2, h)
  | .halt h => some (0x2, h)
  | .fencei h => some (0x2, h)
  | .add h _ _ _ _ => some (0x10, h)
  | .sub h _ _ _ _ => some (0x10, h)
  | .mul h _ _ _ _ => some (0x10, h)
  | .mulh h _ _ _ _ => some (0x10, h)
  | .mulhu h _ _ _ _ => some (0x10, h)
  | .div h _ _ _ _ => some (0x10, h)
  | .divu h _ _ _ _ => some (0x10, h)
  | .rem h _ _ _ _ => some (0x10, h)
  | .remu h _ _ _ _ => some (0x10, h)
  | .and h _ _ _ _ => some (0x10, h)
  | .or h _ _ _ _ => some (0x10, h)
  | .xor h _ _ _ _ => some (0x10, h)
  | .andn h _ _ _ _ => some (0x10, h)
  | .shl h _ _ _ _ => some (0x10, h)
  | .shr h _ _ _ _ => some (0x10, h)
  | .sra h _ _ _ _ => some (0x10, h)
  | .ror h _ _ _ _ => some (0x10, h)
  | .min h _ _ _ _ => some (0x10, h)
  | .max h _ _ _ _ => some (0x10, h)
  | .minu h _ _ _ _ => some (0x10, h)
  | .maxu h _ _ _ _ => some (0x10, h)
  | .clz h _ _ _ => some (0x10, h)
  | .ctz h _ _ _ => some (0x10, h)
  | .popc h _ _ _ => some (0x10, h)
  | .bfx h _ _ _ _ => some (0x10, h)
  | .bfi h _ _ _ _ => some (0x10, h)
  | .sel h _ _ _ _ => some (0x10, h)
  | .lea h _ _ _ _ => some (0x10, h)
  | .addImm h _ _ _ _ => some (0x11, h)
  | .subImm h _ _ _ _ => some (0x11, h)
  | .mulImm h _ _ _ _ => some (0x11, h)
  | .mulhImm h _ _ _ _ => some (0x11, h)
  | .mulhuImm h _ _ _ _ => some (0x11, h)
  | .divImm h _ _ _ _ => some (0x11, h)
  | .divuImm h _ _ _ _ => some (0x11, h)
  | .remImm h _ _ _ _ => some (0x11, h)
  | .remuImm h _ _ _ _ => some (0x11, h)
  | .andImm h _ _ _ _ => some (0x11, h)
  | .orImm h _ _ _ _ => some (0x11, h)
  | .xorImm h _ _ _ _ => some (0x11, h)
  | .andnImm h _ _ _ _ => some (0x11, h)
  | .shlImm h _ _ _ _ => some (0x11, h)
  | .shrImm h _ _ _ _ => some (0x11, h)
  | .sraImm h _ _ _ _ => some (0x11, h)
  | .rorImm h _ _ _ _ => some (0x11, h)
  | .minImm h _ _ _ _ => some (0x11, h)
  | .maxImm h _ _ _ _ => some (0x11, h)
  | .minuImm h _ _ _ _ => some (0x11, h)
  | .maxuImm h _ _ _ _ => some (0x11, h)
  | .bfxImm h _ _ _ _ => some (0x11, h)
  | .bfiImm h _ _ _ => some (0x11, h)
  | .selImm h _ _ _ _ => some (0x11, h)
  | .leaImm h _ _ _ _ => some (0x11, h)
  | .movi h _ _ => some (0x12, h)
  | .cmp h _ _ _ _ _ _ => some (0x12, h)
  | .cmpi h _ _ _ _ _ => some (0x12, h)
  | .plog h _ _ _ _ => some (0x12, h)
  | .pmovToX h _ => some (0x12, h)
  | .pmovToP h _ => some (0x12, h)
  | .ld h _ _ _ => some (0x13, h)
  | .st h _ _ _ => some (0x13, h)
  | .lda h _ _ _ _ => some (0x13, h)
  | .str h _ _ _ _ => some (0x13, h)
  | .atomSwap h _ _ _ _ => some (0x13, h)
  | .atomAdd h _ _ _ _ => some (0x13, h)
  | .atomAnd h _ _ _ _ => some (0x13, h)
  | .atomOr h _ _ _ _ => some (0x13, h)
  | .atomXor h _ _ _ _ => some (0x13, h)
  | .atomMin h _ _ _ _ => some (0x13, h)
  | .atomMax h _ _ _ _ => some (0x13, h)
  | .atomCas h _ _ _ _ _ _ => some (0x13, h)
  | .fence h _ _ => some (0x13, h)
  | .vadd h _ _ _ _ _ => some (0x20, h)
  | .vsub h _ _ _ _ _ => some (0x20, h)
  | .vmul h _ _ _ _ _ => some (0x20, h)
  | .vfma h _ _ _ _ _ _ => some (0x20, h)
  | .vfms h _ _ _ _ _ _ => some (0x20, h)
  | .vfnma h _ _ _ _ _ _ => some (0x20, h)
  | .vdiv h _ _ _ _ _ => some (0x20, h)
  | .vsqrt h _ _ _ _ => some (0x20, h)
  | .vmin h _ _ _ _ => some (0x20, h)
  | .vmax h _ _ _ _ => some (0x20, h)
  | .vabs h _ _ _ => some (0x20, h)
  | .vneg h _ _ _ => some (0x20, h)
  | .vcmp h _ _ _ _ _ => some (0x20, h)
  | .vclass h _ _ _ => some (0x20, h)
  | .twosum h _ _ _ _ _ _ => some (0x20, h)
  | .viadd h _ _ _ _ _ => some (0x21, h)
  | .visub h _ _ _ _ _ => some (0x21, h)
  | .vimul h _ _ _ _ => some (0x21, h)
  | .vimulh h _ _ _ _ => some (0x21, h)
  | .vimad h _ _ _ _ _ => some (0x21, h)
  | .vimin h _ _ _ _ => some (0x21, h)
  | .vimax h _ _ _ _ => some (0x21, h)
  | .vand h _ _ _ _ => some (0x21, h)
  | .vor h _ _ _ _ => some (0x21, h)
  | .vxor h _ _ _ _ => some (0x21, h)
  | .vshl h _ _ _ _ => some (0x21, h)
  | .vshr h _ _ _ _ => some (0x21, h)
  | .vsra h _ _ _ _ => some (0x21, h)
  | .vclip h _ _ _ _ _ => some (0x21, h)
  | .vmov h _ _ _ => some (0x22, h)
  | .vbcast h _ _ _ => some (0x22, h)
  | .viota h _ _ _ => some (0x22, h)
  | .vsel h _ _ _ _ _ => some (0x22, h)
  | .vldi h _ _ _ => some (0x22, h)
  | .setvl h _ _ _ => some (0x23, h)
  | .setvlRel h _ => some (0x23, h)
  | .setrc h _ _ _ => some (0x23, h)
  | .alloc h _ _ => some (0x23, h)
  | .shrink h _ _ => some (0x23, h)
  | .strip h _ _ _ _ _ _ _ _ => some (0x23, h)
  | .vrcp h _ _ _ _ => some (0x30, h)
  | .vrsq h _ _ _ _ => some (0x30, h)
  | .vexp2 h _ _ _ _ => some (0x30, h)
  | .vlog2 h _ _ _ _ => some (0x30, h)
  | .vtanh h _ _ _ _ => some (0x30, h)
  | .vcvt h _ _ _ _ _ => some (0x31, h)
  | .vqblk h _ _ _ _ _ _ _ => some (0x31, h)
  | .vdqblk h _ _ _ _ _ _ _ => some (0x31, h)
  | .vplane h _ _ => some (0x31, h)
  | .vunplane h _ _ _ => some (0x31, h)
  | .vrand h _ _ => some (0x31, h)
  | .klog h _ _ _ _ => some (0x32, h)
  | .kcnt h _ _ => some (0x32, h)
  | .kfirst h _ _ => some (0x32, h)
  | .mpush h _ => some (0x32, h)
  | .minv h => some (0x32, h)
  | .mpop h => some (0x32, h)
  | .mbrz h _ _ => some (0x32, h)
  | .vtrip h _ _ _ => some (0x32, h)
  | .mloop h _ _ _ => some (0x32, h)
  | .vred h _ _ _ _ _ _ => some (0x40, h)
  | .vredp h _ _ _ _ _ => some (0x40, h)
  | .vscan h _ _ _ _ _ _ => some (0x40, h)
  | .vperm h _ _ _ _ _ _ => some (0x40, h)
  | .vslide h _ _ _ _ _ _ => some (0x40, h)
  | .vzip h _ _ _ _ _ _ => some (0x40, h)
  | .vunzip h _ _ _ _ _ _ => some (0x40, h)
  | .vtrn h _ _ _ => some (0x40, h)
  | .vcompress h _ _ _ _ _ => some (0x40, h)
  | .vexpand h _ _ _ _ => some (0x40, h)
  | .vsortk h _ _ _ _ _ _ => some (0x40, h)
  | .vextr h _ _ _ _ => some (0x40, h)
  | .vinsr h _ _ _ _ => some (0x40, h)
  | .rdv h _ => some (0x40, h)
  | .vld h _ _ _ => some (0x50, h)
  | .vlds h _ _ _ => some (0x50, h)
  | .vldx h _ _ _ _ _ _ _ => some (0x50, h)
  | .vst h _ _ _ => some (0x50, h)
  | .vsts h _ _ _ => some (0x50, h)
  | .vstx h _ _ _ _ _ _ _ => some (0x50, h)
  | .vstu h _ _ _ _ _ _ _ => some (0x50, h)
  | .vstxa h _ _ _ _ _ _ _ => some (0x50, h)
  | .vfence h _ _ => some (0x50, h)
  | .pref h _ _ _ => some (0x50, h)
  | .gset h _ _ _ => some (0x51, h)
  | .gsetFree h _ => some (0x51, h)
  | .vgred h _ _ _ _ _ => some (0x51, h)
  | .vgall h _ _ _ _ => some (0x51, h)
  | .vgrs h _ _ _ _ _ => some (0x51, h)
  | .vgbc h _ _ _ _ _ => some (0x51, h)
  | .stream h _ _ => some (0x52, h)
  | .armw h _ _ => some (0x52, h)
  | .waitw h _ _ => some (0x52, h)
  | .jobwait h _ _ => some (0x52, h)
  | .ovopen h _ => some (0x60, h)
  | .ovopenTry h _ _ => some (0x60, h)
  | .ovset h _ => some (0x60, h)
  | .ovretire h _ _ => some (0x60, h)
  | .ovcommit h _ _ _ => some (0x60, h)
  | .ldo h _ _ _ _ _ => some (0x60, h)
  | .vldo h _ _ _ _ _ => some (0x60, h)
  | .ovstat h _ _ _ => some (0x60, h)
  | .carve h _ _ => some (0x68, h)
  | .cclean h _ _ _ => some (0x68, h)
  | .cinv h _ _ _ => some (0x68, h)
  | .cflush h _ _ _ => some (0x68, h)
  | .tlbiAll h => some (0x68, h)
  | .tlbiAsid h _ => some (0x68, h)
  | .tlbiRange h _ _ _ => some (0x68, h)
  | .digest h _ _ => some (0x68, h)
  | .digestRng h _ _ _ => some (0x68, h)
  | .budget h _ _ _ => some (0x68, h)
  | .budgetW h _ _ _ _ => some (0x68, h)
  | .mattach h _ _ => some (0x70, h)
  | .mattachPair h _ _ => some (0x70, h)
  | .mdetach h => some (0x70, h)
  | .mwld h _ _ _ => some (0x70, h)
  | .mstream h _ _ _ => some (0x70, h)
  | .mzeroFp h _ _ => some (0x70, h)
  | .mzeroInt h _ _ => some (0x70, h)
  | .mdrain h _ _ _ => some (0x70, h)
  | .mdrainIdx h _ _ _ => some (0x70, h)
  | .msave h _ _ => some (0x70, h)
  | .mrestore h _ _ => some (0x70, h)
  | .mlineEmpty h _ _ => some (0x70, h)
  | .mlineFull h _ _ => some (0x70, h)
  | .mlineWfull h _ _ => some (0x70, h)
  | .mlineWempty h _ _ => some (0x70, h)
  | .mwait h _ _ => some (0x70, h)
  | .mstat h _ _ _ => some (0x70, h)
  | .tvload h _ _ _ => some (0x80, h)
  | .tvloadFree h _ => some (0x80, h)
  | .tvstart h _ _ _ => some (0x80, h)
  | .tvwait h _ _ => some (0x80, h)
  | .tvstat h _ _ _ => some (0x80, h)
  | .gzlook h _ _ => some (0x81, h)
  | .gzupdate h _ _ => some (0x81, h)
  | .gzver h _ _ _ => some (0x81, h)
  | .gzpin h _ _ _ _ => some (0x81, h)
  | .gzpinUn h _ _ _ _ => some (0x81, h)
  | .gzwait h _ _ => some (0x81, h)
  | .launch h _ _ => some (0x88, h)
  | .launchTry h _ _ => some (0x88, h)
  | .trig h => some (0x88, h)
  | .bar h _ => some (0x88, h)
  | .waitl h _ _ _ _ => some (0x88, h)
  | .lvlid h _ _ _ => some (0x88, h)
  | .mtick h _ => some (0x90, h)
  | .mtickOrd h _ => some (0x90, h)
  | .svmark h _ _ => some (0x90, h)
  | .svsamp h _ _ => some (0x90, h)
  | .svsampOff h => some (0x90, h)
  | .svread h _ _ _ => some (0x90, h)
  | .svstop h _ _ => some (0x90, h)
  | .clklock h _ _ => some (0x90, h)
  | .clklockOff h _ => some (0x90, h)
  | .dhash h _ _ _ => some (0x98, h)
  | .dverify h _ _ _ => some (0x98, h)
  | .dsign h _ _ _ => some (0x98, h)
  | .dsignAtt h _ _ => some (0x98, h)
  | .dsignPub h _ => some (0x98, h)
  | .fuserd h _ _ => some (0x98, h)
  | .keywipe h _ _ => some (0x98, h)
  | .keywipeAll h _ => some (0x98, h)
  | .mextend h _ _ _ => some (0x98, h)
  | .mextendDbg h _ => some (0x98, h)
  | .lcset h _ _ => some (0x98, h)
  | .dbgopen h _ _ => some (0x98, h)
  | .waitWake _ => none
  | .queueDeadlock _ => none
  | .rendezvousComplete _ _ => none
  | .laneArrive _ _ _ => none
  | .vectorTrapCommit _ => none
  | .mzeroApply _ => none
  | .streamChunk _ => none
  | .weightSwap _ => none
  | .barRelease _ _ _ => none
  | .legSend _ _ _ _ _ _ _ => none
  | .legRecv _ _ _ _ _ _ => none
  | .legReduce _ _ _ _ _ _ _ _ => none
  | .legCopy _ _ _ _ _ _ _ => none
  | .legWait _ => none
  | .legSignal _ _ _ => none
  | .legReserve _ _ _ _ => none
  | .legRepeat _ _ _ => none
  | .legEnd => none
  | .traverseRunStart _ => none
  | .sendLand _ => none
  | .signalArrive _ => none
  | .reserveClaimArrive _ => none
  | .reserveRound _ _ _ => none
  | .legAckArrive _ => none
  | .stopNotice _ _ => none
  | .cardStart _ => none
  | .streamCopyJob _ => none
  | .weightLoadJob _ => none
  | .gzLookupJob _ => none
  | .gzUpdateJob _ => none
  | .gzageHalve _ => none
  | .cardComplete _ => none
  | .ringWptrWrite _ _ => none
  | .ringReset _ _ => none
  | .ringEntryRead _ => none
  | .priorityAge _ => none
  | .depEval _ => none
  | .launchPlace _ => none
  | .podAdmission _ _ => none
  | .launchComplete _ => none
  | .preemptWrite _ => none
  | .cancelWrite _ => none
  | .gangPreempt _ _ => none
  | .gangResume _ _ => none
  | .hostMrd _ => none
  | .hostDrd _ _ _ _ => none
  | .hostDwr _ _ _ _ => none
  | .hostCpl _ _ _ => none
  | .regWrite _ _ => none
  | .fqrespRetry _ _ => none
  | .fqrespDecline _ _ => none
  | .pageWalkDone => none
  | .faultRecordPost _ => none
  | .sideLogPerform _ => none
  | .sideLogPageTrap _ => none
  | .tagEndOvstaleTrap _ => none
  | .roundProtTrap _ => none
  | .wcbDrainTimeout _ => none
  | .l1LeaseExpire _ => none
  | .borderCopyInvalidate _ _ => none
  | .budgetPeriod => none
  | .roundApply _ => none
  | .trainReceive _ => none
  | .trainAck _ => none
  | .trainRefusal _ => none
  | .ualinkReadServe _ => none
  | .ualinkResponse _ _ => none
  | .tlbicmdAll => none
  | .tlbicmdAsid _ => none
  | .tlbicmdRange _ => none
  | .tlbicmdDone => none
  | .uncorrected _ => none
  | .scrub _ _ => none
  | .ovgaddWrite _ => none
  | .poolGrowDone => none
  | .gzdsyncWrite _ => none
  | .gzprobeWrite _ => none
  | .gzprobeDone => none
  | .tickAlign _ => none
  | .tickAlignLoss => none
  | .sampleRecord _ _ _ => none
  | .stopFire => none
  | .svrunWrite _ => none
  | .svstatDisarm _ => none
  | .rlctlWrite _ => none
  | .rlwptrSupply _ => none
  | .replayInputArrive _ => none
  | .powerGoodReset => none
  | .dwinWrite _ => none
  | .dmloadWrite _ => none
  | .unitReady _ => none
  | .unitLost _ => none
  | .cdisWrite _ _ => none
  | .pcapWrite _ _ => none
  | .powerLimitRaise => none
  | .powerLimitRelax => none
  | .thermalLimitRaise => none
  | .thermalTrip => none
  | .thermalLimitRelax => none
  | .pointChange => none
  | .kctlLoad _ => none
  | .kctlClearSeal _ => none
  | .dunlkAbort => none
  | .dchalDraw => none
  | .debugScan => none
  | .debugMemrd _ => none
  | .debugMemwr _ _ => none
  | .debugSvstop _ => none
  | .i3cEntdaa _ => none
  | .i3cRstdaa => none
  | .i3cGetpid => none
  | .i3cGetbcr => none
  | .i3cGetdcr => none
  | .i3cGetstatus => none
  | .i3cPrivateWrite _ _ => none
  | .laneComplete _ _ _ => none
  | .meridianTick => none
  | .ualinkErrorResponse _ => none
  | .gzdsyncDone => none
  | .i3cPrivateRead _ => none

/-- The checks on an instruction's own fields. -/
def Instr.formOk : Instr → Bool
  | .br _ _ _ _ _ => true
  | .jmp _ _ => true
  | .call _ _ _ => true
  | .callr _ _ _ => true
  | .ret _ _ => true
  | .pushb _ _ _ => true
  | .brq _ _ _ => true
  | .loop _ _ _ off => decide (0 < off.toInt)
  | .lexit _ _ => true
  | .nop _ => true
  | .trap _ _ => true
  | .eret _ => true
  | .srr _ _ _ => true
  | .srw _ _ _ => true
  | .wait _ a limit => !(a == .x 0 && limit == 0)
  | .yield _ => true
  | .halt _ => true
  | .fencei _ => true
  | .add _ _ _ _ _ => true
  | .sub _ _ _ _ _ => true
  | .mul _ _ _ _ _ => true
  | .mulh _ _ _ _ _ => true
  | .mulhu _ _ _ _ _ => true
  | .div _ _ _ _ _ => true
  | .divu _ _ _ _ _ => true
  | .rem _ _ _ _ _ => true
  | .remu _ _ _ _ _ => true
  | .and _ _ _ _ _ => true
  | .or _ _ _ _ _ => true
  | .xor _ _ _ _ _ => true
  | .andn _ _ _ _ _ => true
  | .shl _ _ _ _ _ => true
  | .shr _ _ _ _ _ => true
  | .sra _ _ _ _ _ => true
  | .ror _ _ _ _ _ => true
  | .min _ _ _ _ _ => true
  | .max _ _ _ _ _ => true
  | .minu _ _ _ _ _ => true
  | .maxu _ _ _ _ _ => true
  | .clz _ _ _ _ => true
  | .ctz _ _ _ _ => true
  | .popc _ _ _ _ => true
  | .bfx _ _ _ _ _ => true
  | .bfi _ _ _ _ _ => true
  | .sel _ _ _ _ _ => true
  | .lea _ _ _ _ _ => true
  | .addImm _ _ _ _ _ => true
  | .subImm _ _ _ _ _ => true
  | .mulImm _ _ _ _ _ => true
  | .mulhImm _ _ _ _ _ => true
  | .mulhuImm _ _ _ _ _ => true
  | .divImm _ _ _ _ _ => true
  | .divuImm _ _ _ _ _ => true
  | .remImm _ _ _ _ _ => true
  | .remuImm _ _ _ _ _ => true
  | .andImm _ _ _ _ _ => true
  | .orImm _ _ _ _ _ => true
  | .xorImm _ _ _ _ _ => true
  | .andnImm _ _ _ _ _ => true
  | .shlImm _ _ _ _ _ => true
  | .shrImm _ _ _ _ _ => true
  | .sraImm _ _ _ _ _ => true
  | .rorImm _ _ _ _ _ => true
  | .minImm _ _ _ _ _ => true
  | .maxImm _ _ _ _ _ => true
  | .minuImm _ _ _ _ _ => true
  | .maxuImm _ _ _ _ _ => true
  | .bfxImm _ _ _ _ _ => true
  | .bfiImm _ _ _ _ => true
  | .selImm _ _ _ _ _ => true
  | .leaImm _ _ _ _ _ => true
  | .movi _ _ _ => true
  | .cmp _ _ _ _ _ _ _ => true
  | .cmpi _ _ _ _ _ _ => true
  | .plog _ _ _ _ _ => true
  | .pmovToX _ _ => true
  | .pmovToP _ _ => true
  | .ld _ t _ _ => t.isScalar
  | .st _ t _ _ => t.isScalar
  | .lda _ t _ _ _ => t.isScalar
  | .str _ t _ _ _ => t.isScalar
  | .atomSwap _ t _ _ _ => t.isAtom
  | .atomAdd _ t _ _ _ => t.isAtom
  | .atomAnd _ t _ _ _ => t.isAtom
  | .atomOr _ t _ _ _ => t.isAtom
  | .atomXor _ t _ _ _ => t.isAtom
  | .atomMin _ t _ _ _ => t.isAtom
  | .atomMax _ t _ _ _ => t.isAtom
  | .atomCas _ t _ _ _ _ _ => t.isAtom
  | .fence _ _ _ => true
  | .vadd _ t _ _ _ _ => t.isFp
  | .vsub _ t _ _ _ _ => t.isFp
  | .vmul _ t _ _ _ _ => t.isFp
  | .vfma _ t _ _ _ _ _ => t.isFp
  | .vfms _ t _ _ _ _ _ => t.isFp
  | .vfnma _ t _ _ _ _ _ => t.isFp
  | .vdiv _ t _ _ _ _ => t.isFp
  | .vsqrt _ t _ _ _ => t.isFp
  | .vmin _ t _ _ _ => t.isFp
  | .vmax _ t _ _ _ => t.isFp
  | .vabs _ t _ _ => t.isFp
  | .vneg _ t _ _ => t.isFp
  | .vcmp _ c t d _ _ => (t.isFp || (t.isInteger && c != .un && c != .or)) && d != 1
  | .vclass _ t _ _ => t.isFp
  | .twosum _ t _ d e _ _ => t.isFp && d != e
  | .viadd _ _ t _ _ _ => t.isInteger
  | .visub _ _ t _ _ _ => t.isInteger
  | .vimul _ t _ _ _ => t.isInteger
  | .vimulh _ t _ _ _ => t.isInteger
  | .vimad _ t _ _ _ _ => t.isInteger
  | .vimin _ t _ _ _ => t.isInteger
  | .vimax _ t _ _ _ => t.isInteger
  | .vand _ t _ _ _ => t.isInteger
  | .vor _ t _ _ _ => t.isInteger
  | .vxor _ t _ _ _ => t.isInteger
  | .vshl _ t _ _ _ => t.isInteger
  | .vshr _ t _ _ _ => t.isInteger
  | .vsra _ t _ _ _ => t.isInteger
  | .vclip _ t _ _ _ _ => t.isInteger
  | .vmov _ t _ _ => t != .bp8
  | .vbcast _ t _ _ => t != .bp8
  | .viota _ _ t _ => t.isInteger
  | .vsel _ t _ _ _ _ => t != .bp8
  | .vldi _ t _ imm => t != .bp8 && (t.isInteger || decide (imm.toNat < 2 ^ t.width))
  | .setvl h _ _ _ => h.noMask
  | .setvlRel h _ => h.noMask
  | .setrc h _ _ _ => h.noMask
  | .alloc h _ _ => h.noMask
  | .shrink h _ _ => h.noMask
  | .strip h _ _ _ _ _ _ _ _ => h.noMask
  | .vrcp _ t _ _ _ => t.isFp
  | .vrsq _ t _ _ _ => t.isFp
  | .vexp2 _ t _ _ _ => t.isFp
  | .vlog2 _ t _ _ _ => t.isFp
  | .vtanh _ t _ _ _ => t.isFp
  | .vcvt _ t u _ _ _ => t != .bp8 && u != .bp8
  | .vqblk h t u _ _ d c _ => t.isMx && u.isFp && d != c && h.noMask
  | .vdqblk _ t u _ _ _ _ _ => t.isFp && u.isMx
  | .vplane h _ _ => h.noMask
  | .vunplane h p _ _ => decide (2 ≤ p.toNat) && decide (p.toNat ≤ 8) && h.noMask
  | .vrand _ t _ => t == .n32 || t == .f32
  | .klog h _ d _ _ => d != 1 && h.noMask
  | .kcnt h _ _ => h.noMask
  | .kfirst h _ _ => h.noMask
  | .mpush h _ => h.noMask
  | .minv h => h.noMask
  | .mpop h => h.noMask
  | .mbrz h _ _ => h.noMask
  | .vtrip _ t _ _ => t == .n16 || t == .n32
  | .mloop h t _ _ => (t == .n16 || t == .n32) && h.noMask
  | .vred _ op seg t rm d _ => t.isScalar && redRm op t rm && (!op.isBitwise || t.isInteger) && !(d.isX && seg)
  | .vredp _ seg t d _ _ => t.isFp && d.distinct && !(d.isX && seg)
  | .vscan _ op _ t rm _ _ => t.isScalar && redRm op t rm && (!op.isBitwise || t.isInteger) && op != .argmin && op != .argmax
  | .vperm _ _ _ t _ _ _ => t.isMove
  | .vslide _ _ _ t _ _ _ => t.isMove
  | .vzip _ _ _ t _ _ _ => t.isMove
  | .vunzip _ _ _ t _ _ _ => t.isMove
  | .vtrn _ t _ _ => t.isMove
  | .vcompress _ _ t _ _ _ => t.isMove
  | .vexpand _ _ t _ _ => t.isMove
  | .vsortk _ _ t d e _ _ => t.isScalar && d != e
  | .vextr h t _ _ _ => t.isMove && h.noMask
  | .vinsr _ t _ _ _ => t.isMove
  | .rdv h _ => h.noMask
  | .vld h t _ _ => !(t == .e2m1 || t == .bp8) || h.noMask
  | .vlds _ t _ _ => t.isMove
  | .vldx _ t _ _ _ _ _ _ => t.isMove
  | .vst h t _ _ => !(t == .e2m1 || t == .bp8) || h.noMask
  | .vsts _ t _ _ => t.isMove
  | .vstx _ t _ _ _ _ _ _ => t.isMove
  | .vstu _ t _ _ _ _ _ _ => t.isMove
  | .vstxa _ t _ _ _ _ _ _ => t.isAddable
  | .vfence _ _ _ => true
  | .pref h _ _ _ => h.noMask
  | .gset _ _ _ _ => true
  | .gsetFree _ _ => true
  | .vgred _ _ t _ _ _ => t.isAddable
  | .vgall h t _ _ _ => t.isAddable && h.noMask
  | .vgrs h _ t _ _ _ => t.isAddable && h.noMask
  | .vgbc h t _ _ _ _ => t.isAddable && h.noMask
  | .stream h _ _ => h.noMask
  | .armw h _ _ => h.noMask
  | .waitw h _ _ => h.noMask
  | .jobwait h _ _ => h.noMask
  | .ovopen h _ => h.noMask && h.ch == 0
  | .ovopenTry h _ _ => h.noMask && h.ch == 0
  | .ovset h _ => h.noMask && h.ch == 0
  | .ovretire h _ _ => h.noMask && h.ch == 0
  | .ovcommit h _ _ _ => h.noMask && h.ch == 0
  | .ldo h t _ _ _ _ => t.isScalar && h.noMask
  | .vldo h t _ _ _ _ => !(t == .e2m1 || t == .bp8) || h.noMask
  | .ovstat h sl _ a => h.noMask && h.ch == 0 && (sl == 0 || a == .x 0)
  | .carve _ _ _ => true
  | .cclean _ _ _ _ => true
  | .cinv _ _ _ _ => true
  | .cflush _ _ _ _ => true
  | .tlbiAll _ => true
  | .tlbiAsid _ _ => true
  | .tlbiRange _ _ _ _ => true
  | .digest _ _ _ => true
  | .digestRng _ _ _ _ => true
  | .budget _ _ _ _ => true
  | .budgetW _ _ _ _ _ => true
  | .mattach _ _ _ => true
  | .mattachPair _ _ _ => true
  | .mdetach _ => true
  | .mwld _ _ _ _ => true
  | .mstream _ c d _ => c.ok && (c.asc || d == .x 0)
  | .mzeroFp _ row0 m => rowsOk row0 m
  | .mzeroInt _ row0 m => rowsOk row0 m
  | .mdrain _ c _ _ => c.ok
  | .mdrainIdx _ c _ _ => c.ok
  | .msave _ _ _ => true
  | .mrestore _ _ _ => true
  | .mlineEmpty _ _ _ => true
  | .mlineFull _ _ _ => true
  | .mlineWfull _ _ _ => true
  | .mlineWempty _ _ _ => true
  | .mwait _ _ _ => true
  | .mstat _ sl _ a => sl == 3 || a == .x 0
  | .tvload _ _ _ _ => true
  | .tvloadFree _ _ => true
  | .tvstart _ _ _ _ => true
  | .tvwait _ _ _ => true
  | .tvstat _ _ _ _ => true
  | .gzlook _ _ _ => true
  | .gzupdate _ _ _ => true
  | .gzver _ _ _ _ => true
  | .gzpin _ n _ _ _ => decide (1 ≤ n.toNat) && decide (n.toNat ≤ 4096)
  | .gzpinUn _ n _ _ _ => decide (1 ≤ n.toNat) && decide (n.toNat ≤ 4096)
  | .gzwait _ _ _ => true
  | .launch _ _ _ => true
  | .launchTry _ _ _ => true
  | .trig _ => true
  | .bar _ _ => true
  | .waitl _ _ _ _ _ => true
  | .lvlid _ lev _ _ => lev != 0
  | .mtick _ _ => true
  | .mtickOrd _ _ => true
  | .svmark _ _ _ => true
  | .svsamp _ n _ => decide (6 ≤ n.toNat) && decide (n.toNat ≤ 20)
  | .svsampOff _ => true
  | .svread _ _ _ _ => true
  | .svstop _ _ _ => true
  | .waitWake _ => true
  | .queueDeadlock _ => true
  | .rendezvousComplete _ _ => true
  | .laneArrive _ _ _ => true
  | .vectorTrapCommit _ => true
  | .mzeroApply _ => true
  | .streamChunk _ => true
  | .weightSwap _ => true
  | .barRelease _ _ _ => true
  | .clklock _ _ _ => true
  | .clklockOff _ _ => true
  | .dhash _ _ _ _ => true
  | .dverify _ _ _ _ => true
  | .dsign _ _ _ _ => true
  | .dsignAtt _ _ _ => true
  | .dsignPub _ _ => true
  | .fuserd _ _ _ => true
  | .keywipe _ _ _ => true
  | .keywipeAll _ _ => true
  | .mextend _ _ _ _ => true
  | .mextendDbg _ _ => true
  | .lcset _ _ _ => true
  | .dbgopen _ _ _ => true
  | .legSend row _ p _ _ sc c => p.ok && c.ok && (row || sc == 0)
  | .legRecv _ _ _ p _ c => p.ok && c.ok
  | .legReduce _ _ _ _ _ _ _ c => c.ok
  | .legCopy _ _ _ _ _ _ c => c.ok
  | .legWait k => k.ok
  | .legSignal p _ value => p.ok && value != 0
  | .legReserve _ p _ rows => p.ok && decide (1 ≤ rows.toNat) && decide (rows.toNat ≤ 16)
  | .legRepeat _ _ _ => true
  | .legEnd => true
  | .traverseRunStart _ => true
  | .sendLand _ => true
  | .signalArrive _ => true
  | .reserveClaimArrive _ => true
  | .reserveRound _ _ _ => true
  | .legAckArrive _ => true
  | .stopNotice _ _ => true
  | .cardStart _ => true
  | .streamCopyJob _ => true
  | .weightLoadJob _ => true
  | .gzLookupJob _ => true
  | .gzUpdateJob _ => true
  | .gzageHalve _ => true
  | .cardComplete _ => true
  | .ringWptrWrite _ _ => true
  | .ringReset _ _ => true
  | .ringEntryRead _ => true
  | .priorityAge _ => true
  | .depEval _ => true
  | .launchPlace _ => true
  | .podAdmission _ _ => true
  | .launchComplete _ => true
  | .preemptWrite _ => true
  | .cancelWrite _ => true
  | .gangPreempt _ _ => true
  | .gangResume _ _ => true
  | .hostMrd _ => true
  | .hostDrd _ _ _ _ => true
  | .hostDwr _ _ _ _ => true
  | .hostCpl _ _ _ => true
  | .regWrite _ _ => true
  | .fqrespRetry _ _ => true
  | .fqrespDecline _ _ => true
  | .pageWalkDone => true
  | .faultRecordPost _ => true
  | .sideLogPerform _ => true
  | .sideLogPageTrap _ => true
  | .tagEndOvstaleTrap _ => true
  | .roundProtTrap _ => true
  | .wcbDrainTimeout _ => true
  | .l1LeaseExpire _ => true
  | .borderCopyInvalidate _ _ => true
  | .budgetPeriod => true
  | .roundApply _ => true
  | .trainReceive _ => true
  | .trainAck _ => true
  | .trainRefusal _ => true
  | .ualinkReadServe _ => true
  | .ualinkResponse _ _ => true
  | .tlbicmdAll => true
  | .tlbicmdAsid _ => true
  | .tlbicmdRange _ => true
  | .tlbicmdDone => true
  | .uncorrected _ => true
  | .scrub _ _ => true
  | .ovgaddWrite _ => true
  | .poolGrowDone => true
  | .gzdsyncWrite _ => true
  | .gzprobeWrite _ => true
  | .gzprobeDone => true
  | .tickAlign _ => true
  | .tickAlignLoss => true
  | .sampleRecord _ _ _ => true
  | .stopFire => true
  | .svrunWrite _ => true
  | .svstatDisarm _ => true
  | .rlctlWrite _ => true
  | .rlwptrSupply _ => true
  | .replayInputArrive _ => true
  | .powerGoodReset => true
  | .dwinWrite _ => true
  | .dmloadWrite _ => true
  | .unitReady _ => true
  | .unitLost _ => true
  | .cdisWrite _ _ => true
  | .pcapWrite _ _ => true
  | .powerLimitRaise => true
  | .powerLimitRelax => true
  | .thermalLimitRaise => true
  | .thermalTrip => true
  | .thermalLimitRelax => true
  | .pointChange => true
  | .kctlLoad _ => true
  | .kctlClearSeal _ => true
  | .dunlkAbort => true
  | .dchalDraw => true
  | .debugScan => true
  | .debugMemrd _ => true
  | .debugMemwr _ _ => true
  | .debugSvstop _ => true
  | .i3cEntdaa _ => true
  | .i3cRstdaa => true
  | .i3cGetpid => true
  | .i3cGetbcr => true
  | .i3cGetdcr => true
  | .i3cGetstatus => true
  | .i3cPrivateWrite _ _ => true
  | .laneComplete _ _ _ => true
  | .meridianTick => true
  | .ualinkErrorResponse _ => true
  | .gzdsyncDone => true
  | .i3cPrivateRead _ => true

/-- Well-formed: the header and the instruction's own fields pass the static checks. -/
def Instr.wf (i : Instr) : Bool :=
  (match i.hdr? with
    | some (maj, h) => h.ok maj
    | none => true) && i.formOk

end Sys2Proof
end

