-- ==== Sys2Proof/Decode.lean ====
section
/-! DEFINITION. Decoding and encoding of instruction words (02 R72..R91) and of traverse legs (12 R481..R484).
Definitions are marked noncomputable where they build a constructor beyond the 244 that compiled code can build;
the kernel evaluates them like any other.
A word is read as a list of field values, least significant field first. -/

namespace Sys2Proof

/-- The fields of a number by their widths, least significant first. -/
def unpack : List Nat → Nat → List Nat
  | [], _ => []
  | w :: ws, n => n % 2 ^ w :: unpack ws (n / 2 ^ w)

/-- The number with the given (width, value) fields, least significant first. -/
def pack : List (Nat × Nat) → Nat
  | [] => 0
  | (w, v) :: rest => v % 2 ^ w + 2 ^ w * pack rest

/-- A value below a bound. -/
def fin? (n : Nat) (v : Nat) : Option (Fin n) := if h : v < n then some ⟨v, h⟩ else none

/-- The 7-bit code of an x-class field (02 R78). -/
def XOp.code : XOp → Nat
  | .x n => n.val
  | .q n => 64 + n.val

/-- An x-class field (02 R78). -/
def xOp? (v : Nat) : Option XOp :=
  if h : v < 64 then some (.x ⟨v, h⟩)
  else if h : v - 64 < 8 then some (.q ⟨v - 64, h⟩) else none

/-- The 7-bit code of a v-class field (02 R78). -/
def VOp.code : VOp → Nat
  | .v n => n.val
  | .q n => 72 + n.val

/-- A v-class field (02 R78). -/
def vOp? (v : Nat) : Option VOp :=
  if h : v < 64 then some (.v ⟨v, h⟩)
  else if v < 72 then none
  else if h : v - 72 < 6 then some (.q ⟨v - 72, h⟩) else none

/-- The code of a field that BX or CX may turn into an x-class field. -/
def VSrc.code : VSrc → Nat
  | .v o => o.code
  | .x o => o.code

/-- BX or CX of the operand. -/
def VSrc.isX : VSrc → Bool
  | .v _ => false
  | .x _ => true

/-- A field with its BX or CX bit (08, element-wise instructions). -/
def vSrc? (x v : Nat) : Option VSrc := if x = 1 then (xOp? v).map .x else (vOp? v).map .v

/-- Element type codes (02 R83). -/
def Ty.code : Ty → Nat
  | .i8 => 0 | .n8 => 1 | .i16 => 2 | .n16 => 3 | .i32 => 4 | .n32 => 5 | .i64 => 6 | .n64 => 7 | .f32 => 8
  | .bf16 => 9 | .f16 => 10 | .e4m3 => 11 | .e5m2 => 12 | .e3m2 => 13 | .e2m3 => 14 | .e2m1 => 15 | .e8m0 => 16
  | .bp8 => 17

/-- Element types by code (02 R83); codes 18..31 are illegal. -/
def ty? : Nat → Option Ty
  | 0 => some .i8 | 1 => some .n8 | 2 => some .i16 | 3 => some .n16 | 4 => some .i32 | 5 => some .n32
  | 6 => some .i64 | 7 => some .n64 | 8 => some .f32 | 9 => some .bf16 | 10 => some .f16 | 11 => some .e4m3
  | 12 => some .e5m2 | 13 => some .e3m2 | 14 => some .e2m3 | 15 => some .e2m1 | 16 => some .e8m0 | 17 => some .bp8
  | _ => none

/-- Rounding codes (02 R84). -/
def Rnd.code : Rnd → Nat
  | .rne => 0 | .rtz => 1 | .rup => 2 | .rdn => 3 | .rna => 4 | .sr => 5 | .dyn => 6

/-- Rounding by code (02 R84); code 7 is illegal. -/
def rnd? : Nat → Option Rnd
  | 0 => some .rne | 1 => some .rtz | 2 => some .rup | 3 => some .rdn | 4 => some .rna | 5 => some .sr
  | 6 => some .dyn
  | _ => none

/-- Scope codes (01 R27, 02 R85). -/
def Scope.code : Scope → Nat
  | .hart => 1 | .core => 2 | .clu => 3 | .pair => 4 | .quad => 5 | .pkg => 6 | .pod => 7

/-- A required scope (02 R85): code 0 is illegal. -/
def scope? : Nat → Option Scope
  | 1 => some .hart | 2 => some .core | 3 => some .clu | 4 => some .pair | 5 => some .quad | 6 => some .pkg
  | 7 => some .pod
  | _ => none

/-- The code of an optional scope: 0 for none. -/
def optScopeCode : Option Scope → Nat
  | none => 0
  | some s => s.code

/-- An optional scope (05 R222, ATOM). -/
def optScope? : Nat → Option (Option Scope)
  | 0 => some none
  | n => (scope? n).map some

/-- COND of BR (05 R207). -/
def BrCond.code : BrCond → Nat
  | .always => 0 | .eq => 1 | .ne => 2 | .lt => 3 | .ge => 4 | .ltu => 5 | .geu => 6

/-- COND of BR (05 R207). -/
def brCond? : Nat → Option BrCond
  | 0 => some .always | 1 => some .eq | 2 => some .ne | 3 => some .lt | 4 => some .ge | 5 => some .ltu
  | 6 => some .geu
  | _ => none

/-- COND of CMP (05 R219). -/
def CmpCond.code : CmpCond → Nat
  | .eq => 0 | .ne => 1 | .lt => 2 | .ge => 3 | .ltu => 4 | .geu => 5 | .tst => 6

/-- COND of CMP (05 R219). -/
def cmpCond? : Nat → Option CmpCond
  | 0 => some .eq | 1 => some .ne | 2 => some .lt | 3 => some .ge | 4 => some .ltu | 5 => some .geu
  | 6 => some .tst
  | _ => none

/-- COND of VCMP (08 R361). -/
def VCond.code : VCond → Nat
  | .eq => 0 | .ne => 1 | .lt => 2 | .le => 3 | .gt => 4 | .ge => 5 | .un => 6 | .or => 7

/-- COND of VCMP (08 R361). -/
def vCond? : Nat → Option VCond
  | 0 => some .eq | 1 => some .ne | 2 => some .lt | 3 => some .le | 4 => some .gt | 5 => some .ge | 6 => some .un
  | 7 => some .or
  | _ => none

/-- KIND of FENCE (05 R227). -/
def FenceKind.code : FenceKind → Nat
  | .acq => 1 | .rel => 2 | .full => 3

/-- KIND of FENCE (05 R227). -/
def fenceKind? : Nat → Option FenceKind
  | 1 => some .acq | 2 => some .rel | 3 => some .full
  | _ => none

/-- OP of VRED (09 R390). -/
def RedOp.code : RedOp → Nat
  | .add => 0 | .min => 1 | .max => 2 | .argmin => 3 | .argmax => 4 | .and => 5 | .or => 6 | .xor => 7

/-- OP of VRED (09 R390). -/
def redOp? : Nat → Option RedOp
  | 0 => some .add | 1 => some .min | 2 => some .max | 3 => some .argmin | 4 => some .argmax | 5 => some .and
  | 6 => some .or | 7 => some .xor
  | _ => none

/-- OP of the collectives and ROP of REDUCE (07 R314, 12 R484). -/
def GOp.code : GOp → Nat
  | .add => 0 | .min => 1 | .max => 2

/-- OP of the collectives and ROP of REDUCE (07 R314, 12 R484). -/
def gOp? : Nat → Option GOp
  | 0 => some .add | 1 => some .min | 2 => some .max
  | _ => none

/-- RES of BUDGET (06 R274). -/
def Res.code : Res → Nat
  | .hbm => 0 | .l2 => 1 | .border => 2 | .ual => 3

/-- RES of BUDGET (06 R274). -/
def res? : Nat → Option Res
  | 0 => some .hbm | 1 => some .l2 | 2 => some .border | 3 => some .ual
  | _ => none

/-- SEL of LVLID (04 R187). -/
def LvlSel.code : LvlSel → Nat
  | .x => 0 | .y => 1 | .z => 2 | .rank => 3 | .ex => 4 | .ey => 5 | .ez => 6 | .count => 7

/-- SEL of LVLID (04 R187). -/
def lvlSel? : Nat → Option LvlSel
  | 0 => some .x | 1 => some .y | 2 => some .z | 3 => some .rank | 4 => some .ex | 5 => some .ey | 6 => some .ez
  | 7 => some .count
  | _ => none

/-- DST of MWLD (11 R460). -/
def WldDst.code : WldDst → Nat
  | .own => 0 | .partner => 1 | .both => 2 | .split => 3

/-- DST of MWLD (11 R460). -/
def wldDst? : Nat → Option WldDst
  | 0 => some .own | 1 => some .partner | 2 => some .both | 3 => some .split
  | _ => none

/-- MODE of DVERIFY (15 R608). -/
def VerMode.code : VerMode → Nat
  | .sig => 0 | .fw => 1 | .tok => 2

/-- MODE of DVERIFY (15 R608). -/
def verMode? : Nat → Option VerMode
  | 0 => some .sig | 1 => some .fw | 2 => some .tok
  | _ => none

/-- Target of LCSET (15 R608). -/
def LcTarget.code : LcTarget → Nat
  | .prov => 1 | .depl => 2 | .debug => 3 | .rma => 4

/-- Target of LCSET (15 R608). -/
def lcTarget? : Nat → Option LcTarget
  | 1 => some .prov | 2 => some .depl | 3 => some .debug | 4 => some .rma
  | _ => none

/-- A memory operand of format M (02 R86). -/
def memOp? (a b s d : Nat) : Option MemOp := do
  return ⟨← xOp? a, ← xOp? b, ← fin? 4 s, BitVec.ofNat 32 d⟩

/-- The register field of a LOOP's count (05 R205). -/
def LoopCount.regCode : LoopCount → Nat
  | .reg a => a.code
  | .imm _ => 0

/-- The immediate field of a LOOP's count (05 R205). -/
def LoopCount.immCode : LoopCount → Nat
  | .reg _ => 0
  | .imm n => n.toNat

/-- I of LOOP (05 R205). -/
def LoopCount.isImm : LoopCount → Bool
  | .reg _ => false
  | .imm _ => true

/-- The count of a LOOP (05 R205). -/
def loopCount? (i a n : Nat) : Option LoopCount :=
  if i = 1 then (if a = 0 then some (.imm (BitVec.ofNat 13 n)) else none)
  else if n = 0 then (xOp? a).map .reg else none

/-- The D field of VRED (09 R389). -/
def RedDst.code : RedDst → Nat
  | .v o => o.code
  | .x o => o.code

/-- Destination of VRED (09 R389). -/
def redDst? (x v : Nat) : Option RedDst := if x = 1 then (xOp? v).map .x else (vOp? v).map .v

/-- The D field of VREDP (09 R390). -/
def RedpDst.codeD : RedpDst → Nat
  | .v d _ => d.code
  | .x d _ => d.code

/-- The E field of VREDP (09 R390). -/
def RedpDst.codeE : RedpDst → Nat
  | .v _ e => e.code
  | .x _ e => e.code

/-- Destinations of VREDP (09 R390). -/
def redpDst? (x d e : Nat) : Option RedpDst :=
  if x = 1 then do return .x (← xOp? d) (← xOp? e) else do return .v (← vOp? d) (← vOp? e)

/-- The B field of VREDP: 0 without PR (09 R389). -/
def optVCode : Option VOp → Nat
  | none => 0
  | some o => o.code

/-- B of VREDP, used only when PR is set (09 R389). -/
def optV? (p v : Nat) : Option (Option VOp) :=
  if p = 1 then (vOp? v).map some else if v = 0 then some none else none

/-- The CMD48 of MSTREAM (11 R461). -/
def streamCmd? (p kl cons asc at' row0 m : Nat) : Option StreamCmd := do
  return ⟨BitVec.ofNat 11 p, BitVec.ofNat 13 kl, cons == 1, asc == 1, ← ty? at', BitVec.ofNat 7 row0,
    BitVec.ofNat 8 m⟩

/-- The CMD48 of MDRAIN (11 R464). -/
def drainCmd? (z kn km rm t col0 m row0 : Nat) : Option DrainCmd := do
  return ⟨z == 1, kn == 1, ← fin? 8 km, ← rnd? rm, ← ty? t, BitVec.ofNat 9 col0, BitVec.ofNat 8 m,
    BitVec.ofNat 7 row0⟩

/-- Body of br (major 0x01, FN 0). -/
def decBr (h : Hdr) (body : Nat) : Option Instr :=
  match unpack [3, 12, 40, 7, 7] body with
  | [f0, 0, f3, f2, f1] => do return .br h (← brCond? f0) (← xOp? f1) (← xOp? f2) (BitVec.ofNat 40 f3)
  | _ => none

/-- Body of jmp (major 0x01, FN 1). -/
def decJmp (h : Hdr) (body : Nat) : Option Instr :=
  match unpack [55, 7, 7] body with
  | [0, f0, 0] => do return .jmp h (← xOp? f0)
  | _ => none

/-- Body of call (major 0x01, FN 2). -/
def decCall (h : Hdr) (body : Nat) : Option Instr :=
  match unpack [15, 40, 7, 7] body with
  | [0, f1, 0, f0] => do return .call h (← xOp? f0) (BitVec.ofNat 40 f1)
  | _ => none

/-- Body of callr (major 0x01, FN 3). -/
def decCallr (h : Hdr) (body : Nat) : Option Instr :=
  match unpack [55, 7, 7] body with
  | [0, f1, f0] => do return .callr h (← xOp? f0) (← xOp? f1)
  | _ => none

/-- Body of ret (major 0x01, FN 4). -/
def decRet (h : Hdr) (body : Nat) : Option Instr :=
  match unpack [55, 7, 7] body with
  | [0, f0, 0] => do return .ret h (← xOp? f0)
  | _ => none

/-- Body of pushb (major 0x01, FN 5). -/
def decPushb (h : Hdr) (body : Nat) : Option Instr :=
  match unpack [1, 54, 7, 7] body with
  | [f0, 0, f1, 0] => do return .pushb h (f0 == 1) (← fin? 8 f1)
  | _ => none

/-- Body of brq (major 0x01, FN 6). -/
def decBrq (h : Hdr) (body : Nat) : Option Instr :=
  match unpack [1, 14, 40, 14] body with
  | [f0, 0, f1, 0] => do return .brq h (f0 == 1) (BitVec.ofNat 40 f1)
  | _ => none

/-- Body of loop (major 0x01, FN 7). -/
def decLoop (h : Hdr) (body : Nat) : Option Instr :=
  match unpack [1, 1, 13, 40, 7, 7] body with
  | [f0, f1i, f1n, f2, 0, f1a] => do return .loop h (f0 == 1) (← loopCount? f1i f1a f1n) (BitVec.ofNat 40 f2)
  | _ => none

/-- Body of lexit (major 0x01, FN 8). -/
def decLexit (h : Hdr) (body : Nat) : Option Instr :=
  match unpack [1, 68] body with
  | [f0, 0] => do return .lexit h (f0 == 1)
  | _ => none

/-- Body of nop (major 0x01, FN 9). -/
def decNop (h : Hdr) (body : Nat) : Option Instr :=
  match unpack [69] body with
  | [0] => do return .nop h
  | _ => none

/-- Body of trap (major 0x02, FN 0). -/
def decTrap (h : Hdr) (body : Nat) : Option Instr :=
  match unpack [35, 34] body with
  | [f0, 0] => do return .trap h (BitVec.ofNat 35 f0)
  | _ => none

/-- Body of eret (major 0x02, FN 1). -/
def decEret (h : Hdr) (body : Nat) : Option Instr :=
  match unpack [69] body with
  | [0] => do return .eret h
  | _ => none

/-- Body of srr (major 0x02, FN 2). -/
def decSrr (h : Hdr) (body : Nat) : Option Instr :=
  match unpack [35, 12, 15, 7] body with
  | [0, f1, 0, f0] => do return .srr h (← xOp? f0) (BitVec.ofNat 12 f1)
  | _ => none

/-- Body of srw (major 0x02, FN 3). -/
def decSrw (h : Hdr) (body : Nat) : Option Instr :=
  match unpack [35, 12, 8, 7, 7] body with
  | [0, f0, 0, f1, 0] => do return .srw h (BitVec.ofNat 12 f0) (← xOp? f1)
  | _ => none

/-- Body of wait (major 0x02, FN 4). -/
def decWait (h : Hdr) (body : Nat) : Option Instr :=
  match unpack [35, 20, 7, 7] body with
  | [f1, 0, f0, 0] => do return .wait h (← xOp? f0) (BitVec.ofNat 35 f1)
  | _ => none

/-- Body of yield (major 0x02, FN 5). -/
def decYield (h : Hdr) (body : Nat) : Option Instr :=
  match unpack [69] body with
  | [0] => do return .yield h
  | _ => none

/-- Body of halt (major 0x02, FN 6). -/
def decHalt (h : Hdr) (body : Nat) : Option Instr :=
  match unpack [69] body with
  | [0] => do return .halt h
  | _ => none

/-- Body of fencei (major 0x02, FN 7). -/
def decFencei (h : Hdr) (body : Nat) : Option Instr :=
  match unpack [69] body with
  | [0] => do return .fencei h
  | _ => none

/-- Body of add (major 0x10, FN 0). -/
def decAdd (h : Hdr) (body : Nat) : Option Instr :=
  match unpack [1, 47, 7, 7, 7] body with
  | [f0, 0, f3, f2, f1] => do return .add h (f0 == 1) (← xOp? f1) (← xOp? f2) (← xOp? f3)
  | _ => none

/-- Body of sub (major 0x10, FN 1). -/
def decSub (h : Hdr) (body : Nat) : Option Instr :=
  match unpack [1, 47, 7, 7, 7] body with
  | [f0, 0, f3, f2, f1] => do return .sub h (f0 == 1) (← xOp? f1) (← xOp? f2) (← xOp? f3)
  | _ => none

/-- Body of mul (major 0x10, FN 2). -/
def decMul (h : Hdr) (body : Nat) : Option Instr :=
  match unpack [1, 47, 7, 7, 7] body with
  | [f0, 0, f3, f2, f1] => do return .mul h (f0 == 1) (← xOp? f1) (← xOp? f2) (← xOp? f3)
  | _ => none

/-- Body of mulh (major 0x10, FN 3). -/
def decMulh (h : Hdr) (body : Nat) : Option Instr :=
  match unpack [1, 47, 7, 7, 7] body with
  | [f0, 0, f3, f2, f1] => do return .mulh h (f0 == 1) (← xOp? f1) (← xOp? f2) (← xOp? f3)
  | _ => none

/-- Body of mulhu (major 0x10, FN 4). -/
def decMulhu (h : Hdr) (body : Nat) : Option Instr :=
  match unpack [1, 47, 7, 7, 7] body with
  | [f0, 0, f3, f2, f1] => do return .mulhu h (f0 == 1) (← xOp? f1) (← xOp? f2) (← xOp? f3)
  | _ => none

/-- Body of div (major 0x10, FN 5). -/
def decDiv (h : Hdr) (body : Nat) : Option Instr :=
  match unpack [1, 47, 7, 7, 7] body with
  | [f0, 0, f3, f2, f1] => do return .div h (f0 == 1) (← xOp? f1) (← xOp? f2) (← xOp? f3)
  | _ => none

/-- Body of divu (major 0x10, FN 6). -/
def decDivu (h : Hdr) (body : Nat) : Option Instr :=
  match unpack [1, 47, 7, 7, 7] body with
  | [f0, 0, f3, f2, f1] => do return .divu h (f0 == 1) (← xOp? f1) (← xOp? f2) (← xOp? f3)
  | _ => none

/-- Body of rem (major 0x10, FN 7). -/
def decRem (h : Hdr) (body : Nat) : Option Instr :=
  match unpack [1, 47, 7, 7, 7] body with
  | [f0, 0, f3, f2, f1] => do return .rem h (f0 == 1) (← xOp? f1) (← xOp? f2) (← xOp? f3)
  | _ => none

/-- Body of remu (major 0x10, FN 8). -/
def decRemu (h : Hdr) (body : Nat) : Option Instr :=
  match unpack [1, 47, 7, 7, 7] body with
  | [f0, 0, f3, f2, f1] => do return .remu h (f0 == 1) (← xOp? f1) (← xOp? f2) (← xOp? f3)
  | _ => none

/-- Body of and (major 0x10, FN 9). -/
def decAnd (h : Hdr) (body : Nat) : Option Instr :=
  match unpack [1, 47, 7, 7, 7] body with
  | [f0, 0, f3, f2, f1] => do return .and h (f0 == 1) (← xOp? f1) (← xOp? f2) (← xOp? f3)
  | _ => none

/-- Body of or (major 0x10, FN 10). -/
def decOr (h : Hdr) (body : Nat) : Option Instr :=
  match unpack [1, 47, 7, 7, 7] body with
  | [f0, 0, f3, f2, f1] => do return .or h (f0 == 1) (← xOp? f1) (← xOp? f2) (← xOp? f3)
  | _ => none

/-- Body of xor (major 0x10, FN 11). -/
def decXor (h : Hdr) (body : Nat) : Option Instr :=
  match unpack [1, 47, 7, 7, 7] body with
  | [f0, 0, f3, f2, f1] => do return .xor h (f0 == 1) (← xOp? f1) (← xOp? f2) (← xOp? f3)
  | _ => none

/-- Body of andn (major 0x10, FN 12). -/
def decAndn (h : Hdr) (body : Nat) : Option Instr :=
  match unpack [1, 47, 7, 7, 7] body with
  | [f0, 0, f3, f2, f1] => do return .andn h (f0 == 1) (← xOp? f1) (← xOp? f2) (← xOp? f3)
  | _ => none

/-- Body of shl (major 0x10, FN 13). -/
def decShl (h : Hdr) (body : Nat) : Option Instr :=
  match unpack [1, 47, 7, 7, 7] body with
  | [f0, 0, f3, f2, f1] => do return .shl h (f0 == 1) (← xOp? f1) (← xOp? f2) (← xOp? f3)
  | _ => none

/-- Body of shr (major 0x10, FN 14). -/
def decShr (h : Hdr) (body : Nat) : Option Instr :=
  match unpack [1, 47, 7, 7, 7] body with
  | [f0, 0, f3, f2, f1] => do return .shr h (f0 == 1) (← xOp? f1) (← xOp? f2) (← xOp? f3)
  | _ => none

/-- Body of sra (major 0x10, FN 15). -/
def decSra (h : Hdr) (body : Nat) : Option Instr :=
  match unpack [1, 47, 7, 7, 7] body with
  | [f0, 0, f3, f2, f1] => do return .sra h (f0 == 1) (← xOp? f1) (← xOp? f2) (← xOp? f3)
  | _ => none

/-- Body of ror (major 0x10, FN 16). -/
def decRor (h : Hdr) (body : Nat) : Option Instr :=
  match unpack [1, 47, 7, 7, 7] body with
  | [f0, 0, f3, f2, f1] => do return .ror h (f0 == 1) (← xOp? f1) (← xOp? f2) (← xOp? f3)
  | _ => none

/-- Body of min (major 0x10, FN 17). -/
def decMin (h : Hdr) (body : Nat) : Option Instr :=
  match unpack [1, 47, 7, 7, 7] body with
  | [f0, 0, f3, f2, f1] => do return .min h (f0 == 1) (← xOp? f1) (← xOp? f2) (← xOp? f3)
  | _ => none

/-- Body of max (major 0x10, FN 18). -/
def decMax (h : Hdr) (body : Nat) : Option Instr :=
  match unpack [1, 47, 7, 7, 7] body with
  | [f0, 0, f3, f2, f1] => do return .max h (f0 == 1) (← xOp? f1) (← xOp? f2) (← xOp? f3)
  | _ => none

/-- Body of minu (major 0x10, FN 19). -/
def decMinu (h : Hdr) (body : Nat) : Option Instr :=
  match unpack [1, 47, 7, 7, 7] body with
  | [f0, 0, f3, f2, f1] => do return .minu h (f0 == 1) (← xOp? f1) (← xOp? f2) (← xOp? f3)
  | _ => none

/-- Body of maxu (major 0x10, FN 20). -/
def decMaxu (h : Hdr) (body : Nat) : Option Instr :=
  match unpack [1, 47, 7, 7, 7] body with
  | [f0, 0, f3, f2, f1] => do return .maxu h (f0 == 1) (← xOp? f1) (← xOp? f2) (← xOp? f3)
  | _ => none

/-- Body of clz (major 0x10, FN 21). -/
def decClz (h : Hdr) (body : Nat) : Option Instr :=
  match unpack [1, 54, 7, 7] body with
  | [f0, 0, f2, f1] => do return .clz h (f0 == 1) (← xOp? f1) (← xOp? f2)
  | _ => none

/-- Body of ctz (major 0x10, FN 22). -/
def decCtz (h : Hdr) (body : Nat) : Option Instr :=
  match unpack [1, 54, 7, 7] body with
  | [f0, 0, f2, f1] => do return .ctz h (f0 == 1) (← xOp? f1) (← xOp? f2)
  | _ => none

/-- Body of popc (major 0x10, FN 23). -/
def decPopc (h : Hdr) (body : Nat) : Option Instr :=
  match unpack [1, 54, 7, 7] body with
  | [f0, 0, f2, f1] => do return .popc h (f0 == 1) (← xOp? f1) (← xOp? f2)
  | _ => none

/-- Body of bfx (major 0x10, FN 24). -/
def decBfx (h : Hdr) (body : Nat) : Option Instr :=
  match unpack [1, 1, 46, 7, 7, 7] body with
  | [0, f0, 0, f3, f2, f1] => do return .bfx h (f0 == 1) (← xOp? f1) (← xOp? f2) (← xOp? f3)
  | _ => none

/-- Body of bfi (major 0x10, FN 25). -/
def decBfi (h : Hdr) (body : Nat) : Option Instr :=
  match unpack [41, 7, 7, 7, 7] body with
  | [0, f3, f2, f1, f0] => do return .bfi h (← xOp? f0) (← xOp? f1) (← xOp? f2) (← xOp? f3)
  | _ => none

/-- Body of sel (major 0x10, FN 26). -/
def decSel (h : Hdr) (body : Nat) : Option Instr :=
  match unpack [41, 7, 7, 7, 7] body with
  | [0, f3, f2, f1, f0] => do return .sel h (← xOp? f0) (← xOp? f1) (← xOp? f2) (← fin? 8 f3)
  | _ => none

/-- Body of lea (major 0x10, FN 27). -/
def decLea (h : Hdr) (body : Nat) : Option Instr :=
  match unpack [1, 2, 45, 7, 7, 7] body with
  | [0, f0, 0, f3, f2, f1] => do return .lea h (← fin? 4 f0) (← xOp? f1) (← xOp? f2) (← xOp? f3)
  | _ => none

/-- Body of addImm (major 0x11, FN 0). -/
def decAddImm (h : Hdr) (body : Nat) : Option Instr :=
  match unpack [1, 6, 48, 7, 7] body with
  | [f0, 0, f3, f2, f1] => do return .addImm h (f0 == 1) (← xOp? f1) (← xOp? f2) (BitVec.ofNat 48 f3)
  | _ => none

/-- Body of subImm (major 0x11, FN 1). -/
def decSubImm (h : Hdr) (body : Nat) : Option Instr :=
  match unpack [1, 6, 48, 7, 7] body with
  | [f0, 0, f3, f2, f1] => do return .subImm h (f0 == 1) (← xOp? f1) (← xOp? f2) (BitVec.ofNat 48 f3)
  | _ => none

/-- Body of mulImm (major 0x11, FN 2). -/
def decMulImm (h : Hdr) (body : Nat) : Option Instr :=
  match unpack [1, 6, 48, 7, 7] body with
  | [f0, 0, f3, f2, f1] => do return .mulImm h (f0 == 1) (← xOp? f1) (← xOp? f2) (BitVec.ofNat 48 f3)
  | _ => none

/-- Body of mulhImm (major 0x11, FN 3). -/
def decMulhImm (h : Hdr) (body : Nat) : Option Instr :=
  match unpack [1, 6, 48, 7, 7] body with
  | [f0, 0, f3, f2, f1] => do return .mulhImm h (f0 == 1) (← xOp? f1) (← xOp? f2) (BitVec.ofNat 48 f3)
  | _ => none

/-- Body of mulhuImm (major 0x11, FN 4). -/
def decMulhuImm (h : Hdr) (body : Nat) : Option Instr :=
  match unpack [1, 6, 48, 7, 7] body with
  | [f0, 0, f3, f2, f1] => do return .mulhuImm h (f0 == 1) (← xOp? f1) (← xOp? f2) (BitVec.ofNat 48 f3)
  | _ => none

/-- Body of divImm (major 0x11, FN 5). -/
def decDivImm (h : Hdr) (body : Nat) : Option Instr :=
  match unpack [1, 6, 48, 7, 7] body with
  | [f0, 0, f3, f2, f1] => do return .divImm h (f0 == 1) (← xOp? f1) (← xOp? f2) (BitVec.ofNat 48 f3)
  | _ => none

/-- Body of divuImm (major 0x11, FN 6). -/
def decDivuImm (h : Hdr) (body : Nat) : Option Instr :=
  match unpack [1, 6, 48, 7, 7] body with
  | [f0, 0, f3, f2, f1] => do return .divuImm h (f0 == 1) (← xOp? f1) (← xOp? f2) (BitVec.ofNat 48 f3)
  | _ => none

/-- Body of remImm (major 0x11, FN 7). -/
def decRemImm (h : Hdr) (body : Nat) : Option Instr :=
  match unpack [1, 6, 48, 7, 7] body with
  | [f0, 0, f3, f2, f1] => do return .remImm h (f0 == 1) (← xOp? f1) (← xOp? f2) (BitVec.ofNat 48 f3)
  | _ => none

/-- Body of remuImm (major 0x11, FN 8). -/
def decRemuImm (h : Hdr) (body : Nat) : Option Instr :=
  match unpack [1, 6, 48, 7, 7] body with
  | [f0, 0, f3, f2, f1] => do return .remuImm h (f0 == 1) (← xOp? f1) (← xOp? f2) (BitVec.ofNat 48 f3)
  | _ => none

/-- Body of andImm (major 0x11, FN 9). -/
def decAndImm (h : Hdr) (body : Nat) : Option Instr :=
  match unpack [1, 6, 48, 7, 7] body with
  | [f0, 0, f3, f2, f1] => do return .andImm h (f0 == 1) (← xOp? f1) (← xOp? f2) (BitVec.ofNat 48 f3)
  | _ => none

/-- Body of orImm (major 0x11, FN 10). -/
def decOrImm (h : Hdr) (body : Nat) : Option Instr :=
  match unpack [1, 6, 48, 7, 7] body with
  | [f0, 0, f3, f2, f1] => do return .orImm h (f0 == 1) (← xOp? f1) (← xOp? f2) (BitVec.ofNat 48 f3)
  | _ => none

/-- Body of xorImm (major 0x11, FN 11). -/
def decXorImm (h : Hdr) (body : Nat) : Option Instr :=
  match unpack [1, 6, 48, 7, 7] body with
  | [f0, 0, f3, f2, f1] => do return .xorImm h (f0 == 1) (← xOp? f1) (← xOp? f2) (BitVec.ofNat 48 f3)
  | _ => none

/-- Body of andnImm (major 0x11, FN 12). -/
def decAndnImm (h : Hdr) (body : Nat) : Option Instr :=
  match unpack [1, 6, 48, 7, 7] body with
  | [f0, 0, f3, f2, f1] => do return .andnImm h (f0 == 1) (← xOp? f1) (← xOp? f2) (BitVec.ofNat 48 f3)
  | _ => none

/-- Body of shlImm (major 0x11, FN 13). -/
def decShlImm (h : Hdr) (body : Nat) : Option Instr :=
  match unpack [1, 6, 48, 7, 7] body with
  | [f0, 0, f3, f2, f1] => do return .shlImm h (f0 == 1) (← xOp? f1) (← xOp? f2) (BitVec.ofNat 48 f3)
  | _ => none

/-- Body of shrImm (major 0x11, FN 14). -/
def decShrImm (h : Hdr) (body : Nat) : Option Instr :=
  match unpack [1, 6, 48, 7, 7] body with
  | [f0, 0, f3, f2, f1] => do return .shrImm h (f0 == 1) (← xOp? f1) (← xOp? f2) (BitVec.ofNat 48 f3)
  | _ => none

/-- Body of sraImm (major 0x11, FN 15). -/
def decSraImm (h : Hdr) (body : Nat) : Option Instr :=
  match unpack [1, 6, 48, 7, 7] body with
  | [f0, 0, f3, f2, f1] => do return .sraImm h (f0 == 1) (← xOp? f1) (← xOp? f2) (BitVec.ofNat 48 f3)
  | _ => none

/-- Body of rorImm (major 0x11, FN 16). -/
def decRorImm (h : Hdr) (body : Nat) : Option Instr :=
  match unpack [1, 6, 48, 7, 7] body with
  | [f0, 0, f3, f2, f1] => do return .rorImm h (f0 == 1) (← xOp? f1) (← xOp? f2) (BitVec.ofNat 48 f3)
  | _ => none

/-- Body of minImm (major 0x11, FN 17). -/
def decMinImm (h : Hdr) (body : Nat) : Option Instr :=
  match unpack [1, 6, 48, 7, 7] body with
  | [f0, 0, f3, f2, f1] => do return .minImm h (f0 == 1) (← xOp? f1) (← xOp? f2) (BitVec.ofNat 48 f3)
  | _ => none

/-- Body of maxImm (major 0x11, FN 18). -/
def decMaxImm (h : Hdr) (body : Nat) : Option Instr :=
  match unpack [1, 6, 48, 7, 7] body with
  | [f0, 0, f3, f2, f1] => do return .maxImm h (f0 == 1) (← xOp? f1) (← xOp? f2) (BitVec.ofNat 48 f3)
  | _ => none

/-- Body of minuImm (major 0x11, FN 19). -/
def decMinuImm (h : Hdr) (body : Nat) : Option Instr :=
  match unpack [1, 6, 48, 7, 7] body with
  | [f0, 0, f3, f2, f1] => do return .minuImm h (f0 == 1) (← xOp? f1) (← xOp? f2) (BitVec.ofNat 48 f3)
  | _ => none

/-- Body of maxuImm (major 0x11, FN 20). -/
def decMaxuImm (h : Hdr) (body : Nat) : Option Instr :=
  match unpack [1, 6, 48, 7, 7] body with
  | [f0, 0, f3, f2, f1] => do return .maxuImm h (f0 == 1) (← xOp? f1) (← xOp? f2) (BitVec.ofNat 48 f3)
  | _ => none

/-- Body of bfxImm (major 0x11, FN 24). -/
def decBfxImm (h : Hdr) (body : Nat) : Option Instr :=
  match unpack [1, 1, 5, 48, 7, 7] body with
  | [0, f0, 0, f3, f2, f1] => do return .bfxImm h (f0 == 1) (← xOp? f1) (← xOp? f2) (BitVec.ofNat 48 f3)
  | _ => none

/-- Body of bfiImm (major 0x11, FN 25). -/
def decBfiImm (h : Hdr) (body : Nat) : Option Instr :=
  match unpack [7, 48, 7, 7] body with
  | [0, f2, f1, f0] => do return .bfiImm h (← fin? 64 f0) (← xOp? f1) (BitVec.ofNat 48 f2)
  | _ => none

/-- Body of selImm (major 0x11, FN 26). -/
def decSelImm (h : Hdr) (body : Nat) : Option Instr :=
  match unpack [1, 3, 3, 48, 7, 7] body with
  | [0, f3, 0, f2, f1, f0] => do return .selImm h (← xOp? f0) (← xOp? f1) (BitVec.ofNat 48 f2) (← fin? 8 f3)
  | _ => none

/-- Body of leaImm (major 0x11, FN 27). -/
def decLeaImm (h : Hdr) (body : Nat) : Option Instr :=
  match unpack [1, 2, 4, 48, 7, 7] body with
  | [0, f0, 0, f3, f2, f1] => do return .leaImm h (← fin? 4 f0) (← xOp? f1) (← xOp? f2) (BitVec.ofNat 48 f3)
  | _ => none

/-- Body of movi (major 0x12, FN 0). -/
def decMovi (h : Hdr) (body : Nat) : Option Instr :=
  match unpack [62, 7] body with
  | [f1, f0] => do return .movi h (← xOp? f0) (BitVec.ofNat 62 f1)
  | _ => none

/-- Body of cmp (major 0x12, FN 1). -/
def decCmp (h : Hdr) (body : Nat) : Option Instr :=
  match unpack [3, 1, 37, 7, 7, 7, 7] body with
  | [f0, f1, 0, f3, f5, f4, f2] => do return .cmp h (← cmpCond? f0) (f1 == 1) (← fin? 8 f2) (← fin? 8 f3) (← xOp? f4) (← xOp? f5)
  | _ => none

/-- Body of cmpi (major 0x12, FN 2). -/
def decCmpi (h : Hdr) (body : Nat) : Option Instr :=
  match unpack [3, 1, 3, 48, 7, 7] body with
  | [f0, f1, 0, f4, f3, f2] => do return .cmpi h (← cmpCond? f0) (f1 == 1) (← fin? 8 f2) (← xOp? f3) (BitVec.ofNat 48 f4)
  | _ => none

/-- Body of plog (major 0x12, FN 3). -/
def decPlog (h : Hdr) (body : Nat) : Option Instr :=
  match unpack [4, 44, 7, 7, 7] body with
  | [f0, 0, f3, f2, f1] => do return .plog h (BitVec.ofNat 4 f0) (← fin? 8 f1) (← fin? 8 f2) (← fin? 8 f3)
  | _ => none

/-- Body of pmovToX (major 0x12, FN 4). -/
def decPmovToX (h : Hdr) (body : Nat) : Option Instr :=
  match unpack [2, 60, 7] body with
  | [0, 0, f0] => do return .pmovToX h (← xOp? f0)
  | _ => none

/-- Body of pmovToP (major 0x12, FN 4). -/
def decPmovToP (h : Hdr) (body : Nat) : Option Instr :=
  match unpack [2, 53, 7, 7] body with
  | [1, 0, f0, 0] => do return .pmovToP h (← xOp? f0)
  | _ => none

/-- Body of ld (major 0x13, FN 0). -/
def decLd (h : Hdr) (body : Nat) : Option Instr :=
  match unpack [8, 3, 5, 32, 7, 7, 7] body with
  | [0, f2s, f0, f2d, f2b, f2a, f1] => do return .ld h (← ty? f0) (← xOp? f1) (← memOp? f2a f2b f2s f2d)
  | _ => none

/-- Body of st (major 0x13, FN 1). -/
def decSt (h : Hdr) (body : Nat) : Option Instr :=
  match unpack [8, 3, 5, 32, 7, 7, 7] body with
  | [0, f2s, f0, f2d, f2b, f2a, f1] => do return .st h (← ty? f0) (← xOp? f1) (← memOp? f2a f2b f2s f2d)
  | _ => none

/-- Body of lda (major 0x13, FN 2). -/
def decLda (h : Hdr) (body : Nat) : Option Instr :=
  match unpack [5, 3, 3, 5, 32, 7, 7, 7] body with
  | [0, f1, f3s, f0, f3d, f3b, f3a, f2] => do return .lda h (← ty? f0) (← scope? f1) (← xOp? f2) (← memOp? f3a f3b f3s f3d)
  | _ => none

/-- Body of str (major 0x13, FN 3). -/
def decStr (h : Hdr) (body : Nat) : Option Instr :=
  match unpack [5, 3, 3, 5, 32, 7, 7, 7] body with
  | [0, f1, f3s, f0, f3d, f3b, f3a, f2] => do return .str h (← ty? f0) (← scope? f1) (← xOp? f2) (← memOp? f3a f3b f3s f3d)
  | _ => none

/-- Body of atomSwap (major 0x13, FN 4). -/
def decAtomSwap (h : Hdr) (body : Nat) : Option Instr :=
  match unpack [5, 3, 3, 5, 32, 7, 7, 7] body with
  | [0, f1, f3s, f0, f3d, f3b, f3a, f2] => do return .atomSwap h (← ty? f0) (← optScope? f1) (← fin? 64 f2) (← memOp? f3a f3b f3s f3d)
  | _ => none

/-- Body of atomAdd (major 0x13, FN 4). -/
def decAtomAdd (h : Hdr) (body : Nat) : Option Instr :=
  match unpack [5, 3, 3, 5, 32, 7, 7, 7] body with
  | [1, f1, f3s, f0, f3d, f3b, f3a, f2] => do return .atomAdd h (← ty? f0) (← optScope? f1) (← fin? 64 f2) (← memOp? f3a f3b f3s f3d)
  | _ => none

/-- Body of atomAnd (major 0x13, FN 4). -/
def decAtomAnd (h : Hdr) (body : Nat) : Option Instr :=
  match unpack [5, 3, 3, 5, 32, 7, 7, 7] body with
  | [2, f1, f3s, f0, f3d, f3b, f3a, f2] => do return .atomAnd h (← ty? f0) (← optScope? f1) (← fin? 64 f2) (← memOp? f3a f3b f3s f3d)
  | _ => none

/-- Body of atomOr (major 0x13, FN 4). -/
def decAtomOr (h : Hdr) (body : Nat) : Option Instr :=
  match unpack [5, 3, 3, 5, 32, 7, 7, 7] body with
  | [3, f1, f3s, f0, f3d, f3b, f3a, f2] => do return .atomOr h (← ty? f0) (← optScope? f1) (← fin? 64 f2) (← memOp? f3a f3b f3s f3d)
  | _ => none

/-- Body of atomXor (major 0x13, FN 4). -/
def decAtomXor (h : Hdr) (body : Nat) : Option Instr :=
  match unpack [5, 3, 3, 5, 32, 7, 7, 7] body with
  | [4, f1, f3s, f0, f3d, f3b, f3a, f2] => do return .atomXor h (← ty? f0) (← optScope? f1) (← fin? 64 f2) (← memOp? f3a f3b f3s f3d)
  | _ => none

/-- Body of atomMin (major 0x13, FN 4). -/
def decAtomMin (h : Hdr) (body : Nat) : Option Instr :=
  match unpack [5, 3, 3, 5, 32, 7, 7, 7] body with
  | [5, f1, f3s, f0, f3d, f3b, f3a, f2] => do return .atomMin h (← ty? f0) (← optScope? f1) (← fin? 64 f2) (← memOp? f3a f3b f3s f3d)
  | _ => none

/-- Body of atomMax (major 0x13, FN 4). -/
def decAtomMax (h : Hdr) (body : Nat) : Option Instr :=
  match unpack [5, 3, 3, 5, 32, 7, 7, 7] body with
  | [6, f1, f3s, f0, f3d, f3b, f3a, f2] => do return .atomMax h (← ty? f0) (← optScope? f1) (← fin? 64 f2) (← memOp? f3a f3b f3s f3d)
  | _ => none

/-- Body of atomCas (major 0x13, FN 4). -/
def decAtomCas (h : Hdr) (body : Nat) : Option Instr :=
  match unpack [5, 3, 3, 5, 32, 7, 7, 7] body with
  | [7, f1, 0, f0, f5, f4, f3, f2] => do return .atomCas h (← ty? f0) (← optScope? f1) (← fin? 64 f2) (← xOp? f3) (← fin? 64 f4) (BitVec.ofNat 32 f5)
  | _ => none

/-- Body of fence (major 0x13, FN 5). -/
def decFence (h : Hdr) (body : Nat) : Option Instr :=
  match unpack [35, 2, 3, 29] body with
  | [0, f0, f1, 0] => do return .fence h (← fenceKind? f0) (← scope? f1)
  | _ => none

/-- Body of vadd (major 0x20, FN 0). -/
def decVadd (h : Hdr) (body : Nat) : Option Instr :=
  match unpack [22, 1, 3, 3, 5, 14, 7, 7, 7] body with
  | [0, f4x, 0, f1, f0, 0, f4, f3, f2] => do return .vadd h (← ty? f0) (← rnd? f1) (← vOp? f2) (← vOp? f3) (← vSrc? f4x f4)
  | _ => none

/-- Body of vsub (major 0x20, FN 1). -/
def decVsub (h : Hdr) (body : Nat) : Option Instr :=
  match unpack [22, 1, 3, 3, 5, 14, 7, 7, 7] body with
  | [0, f4x, 0, f1, f0, 0, f4, f3, f2] => do return .vsub h (← ty? f0) (← rnd? f1) (← vOp? f2) (← vOp? f3) (← vSrc? f4x f4)
  | _ => none

/-- Body of vmul (major 0x20, FN 2). -/
def decVmul (h : Hdr) (body : Nat) : Option Instr :=
  match unpack [22, 1, 3, 3, 5, 14, 7, 7, 7] body with
  | [0, f4x, 0, f1, f0, 0, f4, f3, f2] => do return .vmul h (← ty? f0) (← rnd? f1) (← vOp? f2) (← vOp? f3) (← vSrc? f4x f4)
  | _ => none

/-- Body of vfma (major 0x20, FN 3). -/
def decVfma (h : Hdr) (body : Nat) : Option Instr :=
  match unpack [21, 1, 1, 3, 3, 5, 7, 7, 7, 7, 7] body with
  | [0, f5x, f4x, 0, f1, f0, 0, f5, f4, f3, f2] => do return .vfma h (← ty? f0) (← rnd? f1) (← vOp? f2) (← vOp? f3) (← vSrc? f4x f4) (← vSrc? f5x f5)
  | _ => none

/-- Body of vfms (major 0x20, FN 4). -/
def decVfms (h : Hdr) (body : Nat) : Option Instr :=
  match unpack [21, 1, 1, 3, 3, 5, 7, 7, 7, 7, 7] body with
  | [0, f5x, f4x, 0, f1, f0, 0, f5, f4, f3, f2] => do return .vfms h (← ty? f0) (← rnd? f1) (← vOp? f2) (← vOp? f3) (← vSrc? f4x f4) (← vSrc? f5x f5)
  | _ => none

/-- Body of vfnma (major 0x20, FN 5). -/
def decVfnma (h : Hdr) (body : Nat) : Option Instr :=
  match unpack [21, 1, 1, 3, 3, 5, 7, 7, 7, 7, 7] body with
  | [0, f5x, f4x, 0, f1, f0, 0, f5, f4, f3, f2] => do return .vfnma h (← ty? f0) (← rnd? f1) (← vOp? f2) (← vOp? f3) (← vSrc? f4x f4) (← vSrc? f5x f5)
  | _ => none

/-- Body of vdiv (major 0x20, FN 6). -/
def decVdiv (h : Hdr) (body : Nat) : Option Instr :=
  match unpack [22, 1, 3, 3, 5, 14, 7, 7, 7] body with
  | [0, f4x, 0, f1, f0, 0, f4, f3, f2] => do return .vdiv h (← ty? f0) (← rnd? f1) (← vOp? f2) (← vOp? f3) (← vSrc? f4x f4)
  | _ => none

/-- Body of vsqrt (major 0x20, FN 7). -/
def decVsqrt (h : Hdr) (body : Nat) : Option Instr :=
  match unpack [26, 3, 5, 21, 7, 7] body with
  | [0, f1, f0, 0, f3, f2] => do return .vsqrt h (← ty? f0) (← rnd? f1) (← vOp? f2) (← vOp? f3)
  | _ => none

/-- Body of vmin (major 0x20, FN 8). -/
def decVmin (h : Hdr) (body : Nat) : Option Instr :=
  match unpack [22, 1, 6, 5, 14, 7, 7, 7] body with
  | [0, f3x, 0, f0, 0, f3, f2, f1] => do return .vmin h (← ty? f0) (← vOp? f1) (← vOp? f2) (← vSrc? f3x f3)
  | _ => none

/-- Body of vmax (major 0x20, FN 9). -/
def decVmax (h : Hdr) (body : Nat) : Option Instr :=
  match unpack [22, 1, 6, 5, 14, 7, 7, 7] body with
  | [0, f3x, 0, f0, 0, f3, f2, f1] => do return .vmax h (← ty? f0) (← vOp? f1) (← vOp? f2) (← vSrc? f3x f3)
  | _ => none

/-- Body of vabs (major 0x20, FN 10). -/
def decVabs (h : Hdr) (body : Nat) : Option Instr :=
  match unpack [29, 5, 21, 7, 7] body with
  | [0, f0, 0, f2, f1] => do return .vabs h (← ty? f0) (← vOp? f1) (← vOp? f2)
  | _ => none

/-- Body of vneg (major 0x20, FN 11). -/
def decVneg (h : Hdr) (body : Nat) : Option Instr :=
  match unpack [29, 5, 21, 7, 7] body with
  | [0, f0, 0, f2, f1] => do return .vneg h (← ty? f0) (← vOp? f1) (← vOp? f2)
  | _ => none

/-- Body of vcmp (major 0x20, FN 12). -/
def decVcmp (h : Hdr) (body : Nat) : Option Instr :=
  match unpack [3, 19, 1, 6, 5, 14, 7, 7, 7] body with
  | [f0, 0, f4x, 0, f1, 0, f4, f3, f2] => do return .vcmp h (← vCond? f0) (← ty? f1) (← fin? 8 f2) (← vOp? f3) (← vSrc? f4x f4)
  | _ => none

/-- Body of vclass (major 0x20, FN 13). -/
def decVclass (h : Hdr) (body : Nat) : Option Instr :=
  match unpack [29, 5, 21, 7, 7] body with
  | [0, f0, 0, f2, f1] => do return .vclass h (← ty? f0) (← vOp? f1) (← vOp? f2)
  | _ => none

/-- Body of twosum (major 0x20, FN 14). -/
def decTwosum (h : Hdr) (body : Nat) : Option Instr :=
  match unpack [22, 1, 3, 3, 5, 7, 7, 7, 7, 7] body with
  | [0, f5x, 0, f1, f0, f3, 0, f5, f4, f2] => do return .twosum h (← ty? f0) (← rnd? f1) (← vOp? f2) (← vOp? f3) (← vOp? f4) (← vSrc? f5x f5)
  | _ => none

/-- Body of viadd (major 0x21, FN 0). -/
def decViadd (h : Hdr) (body : Nat) : Option Instr :=
  match unpack [1, 21, 1, 6, 5, 14, 7, 7, 7] body with
  | [f0, 0, f4x, 0, f1, 0, f4, f3, f2] => do return .viadd h (f0 == 1) (← ty? f1) (← vOp? f2) (← vOp? f3) (← vSrc? f4x f4)
  | _ => none

/-- Body of visub (major 0x21, FN 1). -/
def decVisub (h : Hdr) (body : Nat) : Option Instr :=
  match unpack [1, 21, 1, 6, 5, 14, 7, 7, 7] body with
  | [f0, 0, f4x, 0, f1, 0, f4, f3, f2] => do return .visub h (f0 == 1) (← ty? f1) (← vOp? f2) (← vOp? f3) (← vSrc? f4x f4)
  | _ => none

/-- Body of vimul (major 0x21, FN 2). -/
def decVimul (h : Hdr) (body : Nat) : Option Instr :=
  match unpack [22, 1, 6, 5, 14, 7, 7, 7] body with
  | [0, f3x, 0, f0, 0, f3, f2, f1] => do return .vimul h (← ty? f0) (← vOp? f1) (← vOp? f2) (← vSrc? f3x f3)
  | _ => none

/-- Body of vimulh (major 0x21, FN 3). -/
def decVimulh (h : Hdr) (body : Nat) : Option Instr :=
  match unpack [22, 1, 6, 5, 14, 7, 7, 7] body with
  | [0, f3x, 0, f0, 0, f3, f2, f1] => do return .vimulh h (← ty? f0) (← vOp? f1) (← vOp? f2) (← vSrc? f3x f3)
  | _ => none

/-- Body of vimad (major 0x21, FN 4). -/
def decVimad (h : Hdr) (body : Nat) : Option Instr :=
  match unpack [21, 1, 1, 6, 5, 7, 7, 7, 7, 7] body with
  | [0, f4x, f3x, 0, f0, 0, f4, f3, f2, f1] => do return .vimad h (← ty? f0) (← vOp? f1) (← vOp? f2) (← vSrc? f3x f3) (← vSrc? f4x f4)
  | _ => none

/-- Body of vimin (major 0x21, FN 5). -/
def decVimin (h : Hdr) (body : Nat) : Option Instr :=
  match unpack [22, 1, 6, 5, 14, 7, 7, 7] body with
  | [0, f3x, 0, f0, 0, f3, f2, f1] => do return .vimin h (← ty? f0) (← vOp? f1) (← vOp? f2) (← vSrc? f3x f3)
  | _ => none

/-- Body of vimax (major 0x21, FN 6). -/
def decVimax (h : Hdr) (body : Nat) : Option Instr :=
  match unpack [22, 1, 6, 5, 14, 7, 7, 7] body with
  | [0, f3x, 0, f0, 0, f3, f2, f1] => do return .vimax h (← ty? f0) (← vOp? f1) (← vOp? f2) (← vSrc? f3x f3)
  | _ => none

/-- Body of vand (major 0x21, FN 7). -/
def decVand (h : Hdr) (body : Nat) : Option Instr :=
  match unpack [22, 1, 6, 5, 14, 7, 7, 7] body with
  | [0, f3x, 0, f0, 0, f3, f2, f1] => do return .vand h (← ty? f0) (← vOp? f1) (← vOp? f2) (← vSrc? f3x f3)
  | _ => none

/-- Body of vor (major 0x21, FN 8). -/
def decVor (h : Hdr) (body : Nat) : Option Instr :=
  match unpack [22, 1, 6, 5, 14, 7, 7, 7] body with
  | [0, f3x, 0, f0, 0, f3, f2, f1] => do return .vor h (← ty? f0) (← vOp? f1) (← vOp? f2) (← vSrc? f3x f3)
  | _ => none

/-- Body of vxor (major 0x21, FN 9). -/
def decVxor (h : Hdr) (body : Nat) : Option Instr :=
  match unpack [22, 1, 6, 5, 14, 7, 7, 7] body with
  | [0, f3x, 0, f0, 0, f3, f2, f1] => do return .vxor h (← ty? f0) (← vOp? f1) (← vOp? f2) (← vSrc? f3x f3)
  | _ => none

/-- Body of vshl (major 0x21, FN 10). -/
def decVshl (h : Hdr) (body : Nat) : Option Instr :=
  match unpack [22, 1, 6, 5, 14, 7, 7, 7] body with
  | [0, f3x, 0, f0, 0, f3, f2, f1] => do return .vshl h (← ty? f0) (← vOp? f1) (← vOp? f2) (← vSrc? f3x f3)
  | _ => none

/-- Body of vshr (major 0x21, FN 11). -/
def decVshr (h : Hdr) (body : Nat) : Option Instr :=
  match unpack [22, 1, 6, 5, 14, 7, 7, 7] body with
  | [0, f3x, 0, f0, 0, f3, f2, f1] => do return .vshr h (← ty? f0) (← vOp? f1) (← vOp? f2) (← vSrc? f3x f3)
  | _ => none

/-- Body of vsra (major 0x21, FN 12). -/
def decVsra (h : Hdr) (body : Nat) : Option Instr :=
  match unpack [22, 1, 6, 5, 14, 7, 7, 7] body with
  | [0, f3x, 0, f0, 0, f3, f2, f1] => do return .vsra h (← ty? f0) (← vOp? f1) (← vOp? f2) (← vSrc? f3x f3)
  | _ => none

/-- Body of vclip (major 0x21, FN 13). -/
def decVclip (h : Hdr) (body : Nat) : Option Instr :=
  match unpack [21, 1, 1, 6, 5, 7, 7, 7, 7, 7] body with
  | [0, f4x, f3x, 0, f0, 0, f4, f3, f2, f1] => do return .vclip h (← ty? f0) (← vOp? f1) (← vOp? f2) (← vSrc? f3x f3) (← vSrc? f4x f4)
  | _ => none

/-- Body of vmov (major 0x22, FN 0). -/
def decVmov (h : Hdr) (body : Nat) : Option Instr :=
  match unpack [29, 5, 21, 7, 7] body with
  | [0, f0, 0, f2, f1] => do return .vmov h (← ty? f0) (← vOp? f1) (← vOp? f2)
  | _ => none

/-- Body of vbcast (major 0x22, FN 1). -/
def decVbcast (h : Hdr) (body : Nat) : Option Instr :=
  match unpack [29, 5, 21, 7, 7] body with
  | [0, f0, 0, f2, f1] => do return .vbcast h (← ty? f0) (← vOp? f1) (← xOp? f2)
  | _ => none

/-- Body of viota (major 0x22, FN 2). -/
def decViota (h : Hdr) (body : Nat) : Option Instr :=
  match unpack [1, 28, 5, 28, 7] body with
  | [f0, 0, f1, 0, f2] => do return .viota h (f0 == 1) (← ty? f1) (← vOp? f2)
  | _ => none

/-- Body of vsel (major 0x22, FN 3). -/
def decVsel (h : Hdr) (body : Nat) : Option Instr :=
  match unpack [22, 1, 6, 5, 7, 7, 7, 7, 7] body with
  | [0, f3x, 0, f0, 0, f4, f3, f2, f1] => do return .vsel h (← ty? f0) (← vOp? f1) (← vOp? f2) (← vSrc? f3x f3) (← fin? 8 f4)
  | _ => none

/-- Body of vldi (major 0x22, FN 4). -/
def decVldi (h : Hdr) (body : Nat) : Option Instr :=
  match unpack [2, 5, 48, 7, 7] body with
  | [0, f0, f2, 0, f1] => do return .vldi h (← ty? f0) (← vOp? f1) (BitVec.ofNat 48 f2)
  | _ => none

/-- Body of setvl (major 0x23, FN 0). -/
def decSetvl (h : Hdr) (body : Nat) : Option Instr :=
  match unpack [1, 28, 5, 21, 7, 7] body with
  | [0, 0, f0, 0, f2, f1] => do return .setvl h (← ty? f0) (← xOp? f1) (← fin? 64 f2)
  | _ => none

/-- Body of setvlRel (major 0x23, FN 0). -/
def decSetvlRel (h : Hdr) (body : Nat) : Option Instr :=
  match unpack [1, 61, 7] body with
  | [1, 0, f0] => do return .setvlRel h (← xOp? f0)
  | _ => none

/-- Body of setrc (major 0x23, FN 1). -/
def decSetrc (h : Hdr) (body : Nat) : Option Instr :=
  match unpack [29, 5, 21, 7, 7] body with
  | [0, f0, 0, f2, f1] => do return .setrc h (← ty? f0) (← xOp? f1) (← fin? 64 f2)
  | _ => none

/-- Body of alloc (major 0x23, FN 2). -/
def decAlloc (h : Hdr) (body : Nat) : Option Instr :=
  match unpack [55, 7, 7] body with
  | [0, f1, f0] => do return .alloc h (← xOp? f0) (← fin? 64 f1)
  | _ => none

/-- Body of shrink (major 0x23, FN 3). -/
def decShrink (h : Hdr) (body : Nat) : Option Instr :=
  match unpack [55, 7, 7] body with
  | [0, f1, f0] => do return .shrink h (← xOp? f0) (← fin? 64 f1)
  | _ => none

/-- Body of strip (major 0x23, FN 4). -/
def decStrip (h : Hdr) (body : Nat) : Option Instr :=
  match unpack [2, 2, 2, 23, 5, 7, 7, 7, 7, 7] body with
  | [f5, f6, f7, 0, f0, 0, f4, f3, f2, f1] => do return .strip h (← ty? f0) (← fin? 64 f1) (← fin? 64 f2) (← fin? 64 f3) (← fin? 64 f4) (← fin? 4 f5) (← fin? 4 f6) (← fin? 4 f7)
  | _ => none

/-- Body of vrcp (major 0x30, FN 0). -/
def decVrcp (h : Hdr) (body : Nat) : Option Instr :=
  match unpack [26, 3, 5, 21, 7, 7] body with
  | [0, f1, f0, 0, f3, f2] => do return .vrcp h (← ty? f0) (← rnd? f1) (← vOp? f2) (← vOp? f3)
  | _ => none

/-- Body of vrsq (major 0x30, FN 1). -/
def decVrsq (h : Hdr) (body : Nat) : Option Instr :=
  match unpack [26, 3, 5, 21, 7, 7] body with
  | [0, f1, f0, 0, f3, f2] => do return .vrsq h (← ty? f0) (← rnd? f1) (← vOp? f2) (← vOp? f3)
  | _ => none

/-- Body of vexp2 (major 0x30, FN 2). -/
def decVexp2 (h : Hdr) (body : Nat) : Option Instr :=
  match unpack [26, 3, 5, 21, 7, 7] body with
  | [0, f1, f0, 0, f3, f2] => do return .vexp2 h (← ty? f0) (← rnd? f1) (← vOp? f2) (← vOp? f3)
  | _ => none

/-- Body of vlog2 (major 0x30, FN 3). -/
def decVlog2 (h : Hdr) (body : Nat) : Option Instr :=
  match unpack [26, 3, 5, 21, 7, 7] body with
  | [0, f1, f0, 0, f3, f2] => do return .vlog2 h (← ty? f0) (← rnd? f1) (← vOp? f2) (← vOp? f3)
  | _ => none

/-- Body of vtanh (major 0x30, FN 4). -/
def decVtanh (h : Hdr) (body : Nat) : Option Instr :=
  match unpack [26, 3, 5, 21, 7, 7] body with
  | [0, f1, f0, 0, f3, f2] => do return .vtanh h (← ty? f0) (← rnd? f1) (← vOp? f2) (← vOp? f3)
  | _ => none

/-- Body of vcvt (major 0x31, FN 0). -/
def decVcvt (h : Hdr) (body : Nat) : Option Instr :=
  match unpack [18, 5, 3, 3, 5, 21, 7, 7] body with
  | [0, f1, 0, f2, f0, 0, f4, f3] => do return .vcvt h (← ty? f0) (← ty? f1) (← rnd? f2) (← vOp? f3) (← vOp? f4)
  | _ => none

/-- Body of vqblk (major 0x31, FN 1). -/
def decVqblk (h : Hdr) (body : Nat) : Option Instr :=
  match unpack [11, 7, 5, 3, 3, 5, 7, 7, 7, 7, 7] body with
  | [0, f3, f1, 0, f2, f0, 0, f5, 0, f6, f4] => do return .vqblk h (← ty? f0) (← ty? f1) (← rnd? f2) (BitVec.ofNat 7 f3) (← vOp? f4) (← vOp? f5) (← vOp? f6)
  | _ => none

/-- Body of vdqblk (major 0x31, FN 2). -/
def decVdqblk (h : Hdr) (body : Nat) : Option Instr :=
  match unpack [11, 7, 5, 3, 3, 5, 7, 7, 7, 7, 7] body with
  | [0, f3, f1, 0, f2, f0, 0, f6, 0, f5, f4] => do return .vdqblk h (← ty? f0) (← ty? f1) (← rnd? f2) (BitVec.ofNat 7 f3) (← vOp? f4) (← vOp? f5) (← vOp? f6)
  | _ => none

/-- Body of vplane (major 0x31, FN 3). -/
def decVplane (h : Hdr) (body : Nat) : Option Instr :=
  match unpack [29, 5, 21, 7, 7] body with
  | [0, 17, 0, f1, f0] => do return .vplane h (← vOp? f0) (← vOp? f1)
  | _ => none

/-- Body of vunplane (major 0x31, FN 4). -/
def decVunplane (h : Hdr) (body : Nat) : Option Instr :=
  match unpack [4, 51, 7, 7] body with
  | [f0, 0, f2, f1] => do return .vunplane h (BitVec.ofNat 4 f0) (← vOp? f1) (← vOp? f2)
  | _ => none

/-- Body of vrand (major 0x31, FN 5). -/
def decVrand (h : Hdr) (body : Nat) : Option Instr :=
  match unpack [29, 5, 28, 7] body with
  | [0, f0, 0, f1] => do return .vrand h (← ty? f0) (← vOp? f1)
  | _ => none

/-- Body of klog (major 0x32, FN 0). -/
def decKlog (h : Hdr) (body : Nat) : Option Instr :=
  match unpack [4, 44, 7, 7, 7] body with
  | [f0, 0, f3, f2, f1] => do return .klog h (BitVec.ofNat 4 f0) (← fin? 8 f1) (← fin? 8 f2) (← fin? 8 f3)
  | _ => none

/-- Body of kcnt (major 0x32, FN 1). -/
def decKcnt (h : Hdr) (body : Nat) : Option Instr :=
  match unpack [55, 7, 7] body with
  | [0, f1, f0] => do return .kcnt h (← xOp? f0) (← fin? 8 f1)
  | _ => none

/-- Body of kfirst (major 0x32, FN 2). -/
def decKfirst (h : Hdr) (body : Nat) : Option Instr :=
  match unpack [55, 7, 7] body with
  | [0, f1, f0] => do return .kfirst h (← xOp? f0) (← fin? 8 f1)
  | _ => none

/-- Body of mpush (major 0x32, FN 3). -/
def decMpush (h : Hdr) (body : Nat) : Option Instr :=
  match unpack [55, 7, 7] body with
  | [0, f0, 0] => do return .mpush h (← fin? 8 f0)
  | _ => none

/-- Body of minv (major 0x32, FN 4). -/
def decMinv (h : Hdr) (body : Nat) : Option Instr :=
  match unpack [69] body with
  | [0] => do return .minv h
  | _ => none

/-- Body of mpop (major 0x32, FN 5). -/
def decMpop (h : Hdr) (body : Nat) : Option Instr :=
  match unpack [69] body with
  | [0] => do return .mpop h
  | _ => none

/-- Body of mbrz (major 0x32, FN 6). -/
def decMbrz (h : Hdr) (body : Nat) : Option Instr :=
  match unpack [1, 14, 40, 14] body with
  | [f0, 0, f1, 0] => do return .mbrz h (f0 == 1) (BitVec.ofNat 40 f1)
  | _ => none

/-- Body of vtrip (major 0x32, FN 7). -/
def decVtrip (h : Hdr) (body : Nat) : Option Instr :=
  match unpack [29, 5, 21, 7, 7] body with
  | [0, f0, 0, f2, f1] => do return .vtrip h (← ty? f0) (← vOp? f1) (← vOp? f2)
  | _ => none

/-- Body of mloop (major 0x32, FN 8). -/
def decMloop (h : Hdr) (body : Nat) : Option Instr :=
  match unpack [5, 10, 40, 7, 7] body with
  | [f0, 0, f2, 0, f1] => do return .mloop h (← ty? f0) (← vOp? f1) (BitVec.ofNat 40 f2)
  | _ => none

/-- Body of vred (major 0x40, FN 0). -/
def decVred (h : Hdr) (body : Nat) : Option Instr :=
  match unpack [3, 15, 1, 1, 1, 5, 3, 5, 21, 7, 7] body with
  | [f0, 0, f1, 0, f4x, 0, f3, f2, 0, f5, f4] => do return .vred h (← redOp? f0) (f1 == 1) (← ty? f2) (← rnd? f3) (← redDst? f4x f4) (← vOp? f5)
  | _ => none

/-- Body of vredp (major 0x40, FN 1). -/
def decVredp (h : Hdr) (body : Nat) : Option Instr :=
  match unpack [18, 1, 1, 1, 8, 5, 7, 7, 7, 7, 7] body with
  | [0, f0, f4p, f2x, 0, f1, f2e, 0, f4, f3, f2] => do return .vredp h (f0 == 1) (← ty? f1) (← redpDst? f2x f2 f2e) (← vOp? f3) (← optV? f4p f4)
  | _ => none

/-- Body of vscan (major 0x40, FN 2). -/
def decVscan (h : Hdr) (body : Nat) : Option Instr :=
  match unpack [3, 15, 1, 7, 3, 5, 21, 7, 7] body with
  | [f0, 0, f1, 0, f3, f2, 0, f5, f4] => do return .vscan h (← redOp? f0) (f1 == 1) (← ty? f2) (← rnd? f3) (← vOp? f4) (← vOp? f5)
  | _ => none

/-- Body of vperm (major 0x40, FN 3). -/
def decVperm (h : Hdr) (body : Nat) : Option Instr :=
  match unpack [1, 17, 1, 10, 5, 14, 7, 7, 7] body with
  | [f1, 0, f0, 0, f2, 0, f5, f4, f3] => do return .vperm h (f0 == 1) (f1 == 1) (← ty? f2) (← vOp? f3) (← vOp? f4) (← vOp? f5)
  | _ => none

/-- Body of vslide (major 0x40, FN 4). -/
def decVslide (h : Hdr) (body : Nat) : Option Instr :=
  match unpack [1, 17, 1, 10, 5, 14, 7, 7, 7] body with
  | [f1, 0, f0, 0, f2, 0, f5, f4, f3] => do return .vslide h (f0 == 1) (f1 == 1) (← ty? f2) (← vOp? f3) (← vOp? f4) (← xOp? f5)
  | _ => none

/-- Body of vzip (major 0x40, FN 5). -/
def decVzip (h : Hdr) (body : Nat) : Option Instr :=
  match unpack [1, 17, 1, 10, 5, 14, 7, 7, 7] body with
  | [f1, 0, f0, 0, f2, 0, f5, f4, f3] => do return .vzip h (f0 == 1) (f1 == 1) (← ty? f2) (← vOp? f3) (← vOp? f4) (← vOp? f5)
  | _ => none

/-- Body of vunzip (major 0x40, FN 6). -/
def decVunzip (h : Hdr) (body : Nat) : Option Instr :=
  match unpack [1, 17, 1, 10, 5, 14, 7, 7, 7] body with
  | [f1, 0, f0, 0, f2, 0, f5, f4, f3] => do return .vunzip h (f0 == 1) (f1 == 1) (← ty? f2) (← vOp? f3) (← vOp? f4) (← vOp? f5)
  | _ => none

/-- Body of vtrn (major 0x40, FN 7). -/
def decVtrn (h : Hdr) (body : Nat) : Option Instr :=
  match unpack [29, 5, 21, 7, 7] body with
  | [0, f0, 0, f2, f1] => do return .vtrn h (← ty? f0) (← vOp? f1) (← vOp? f2)
  | _ => none

/-- Body of vcompress (major 0x40, FN 8). -/
def decVcompress (h : Hdr) (body : Nat) : Option Instr :=
  match unpack [1, 28, 5, 7, 14, 7, 7] body with
  | [f0, 0, f1, f4, 0, f3, f2] => do return .vcompress h (f0 == 1) (← ty? f1) (← vOp? f2) (← vOp? f3) (← xOp? f4)
  | _ => none

/-- Body of vexpand (major 0x40, FN 9). -/
def decVexpand (h : Hdr) (body : Nat) : Option Instr :=
  match unpack [1, 28, 5, 21, 7, 7] body with
  | [f0, 0, f1, 0, f3, f2] => do return .vexpand h (f0 == 1) (← ty? f1) (← vOp? f2) (← vOp? f3)
  | _ => none

/-- Body of vsortk (major 0x40, FN 10). -/
def decVsortk (h : Hdr) (body : Nat) : Option Instr :=
  match unpack [1, 28, 5, 7, 7, 7, 7, 7] body with
  | [f0, 0, f1, f3, 0, f5, f4, f2] => do return .vsortk h (f0 == 1) (← ty? f1) (← vOp? f2) (← vOp? f3) (← vOp? f4) (← xOp? f5)
  | _ => none

/-- Body of vextr (major 0x40, FN 11). -/
def decVextr (h : Hdr) (body : Nat) : Option Instr :=
  match unpack [29, 5, 14, 7, 7, 7] body with
  | [0, f0, 0, f3, f2, f1] => do return .vextr h (← ty? f0) (← xOp? f1) (← vOp? f2) (← xOp? f3)
  | _ => none

/-- Body of vinsr (major 0x40, FN 12). -/
def decVinsr (h : Hdr) (body : Nat) : Option Instr :=
  match unpack [29, 5, 14, 7, 7, 7] body with
  | [0, f0, 0, f3, f2, f1] => do return .vinsr h (← ty? f0) (← vOp? f1) (← xOp? f2) (← xOp? f3)
  | _ => none

/-- Body of rdv (major 0x40, FN 13). -/
def decRdv (h : Hdr) (body : Nat) : Option Instr :=
  match unpack [62, 7] body with
  | [0, f0] => do return .rdv h (← xOp? f0)
  | _ => none

/-- Body of vld (major 0x50, FN 0). -/
def decVld (h : Hdr) (body : Nat) : Option Instr :=
  match unpack [8, 3, 5, 32, 7, 7, 7] body with
  | [0, f2s, f0, f2d, f2b, f2a, f1] => do return .vld h (← ty? f0) (← vOp? f1) (← memOp? f2a f2b f2s f2d)
  | _ => none

/-- Body of vlds (major 0x50, FN 1). -/
def decVlds (h : Hdr) (body : Nat) : Option Instr :=
  match unpack [8, 3, 5, 32, 7, 7, 7] body with
  | [0, f2s, f0, f2d, f2b, f2a, f1] => do return .vlds h (← ty? f0) (← vOp? f1) (← memOp? f2a f2b f2s f2d)
  | _ => none

/-- Body of vldx (major 0x50, FN 2). -/
def decVldx (h : Hdr) (body : Nat) : Option Instr :=
  match unpack [1, 7, 3, 5, 32, 7, 7, 7] body with
  | [f1, 0, f5, f0, f6, f4, f3, f2] => do return .vldx h (← ty? f0) (f1 == 1) (← vOp? f2) (← xOp? f3) (← vOp? f4) (← fin? 4 f5) (BitVec.ofNat 32 f6)
  | _ => none

/-- Body of vst (major 0x50, FN 3). -/
def decVst (h : Hdr) (body : Nat) : Option Instr :=
  match unpack [8, 3, 5, 32, 7, 7, 7] body with
  | [0, f2s, f0, f2d, f2b, f2a, f1] => do return .vst h (← ty? f0) (← vOp? f1) (← memOp? f2a f2b f2s f2d)
  | _ => none

/-- Body of vsts (major 0x50, FN 4). -/
def decVsts (h : Hdr) (body : Nat) : Option Instr :=
  match unpack [8, 3, 5, 32, 7, 7, 7] body with
  | [0, f2s, f0, f2d, f2b, f2a, f1] => do return .vsts h (← ty? f0) (← vOp? f1) (← memOp? f2a f2b f2s f2d)
  | _ => none

/-- Body of vstx (major 0x50, FN 5). -/
def decVstx (h : Hdr) (body : Nat) : Option Instr :=
  match unpack [1, 7, 3, 5, 32, 7, 7, 7] body with
  | [f1, 0, f5, f0, f6, f4, f3, f2] => do return .vstx h (← ty? f0) (f1 == 1) (← vOp? f2) (← xOp? f3) (← vOp? f4) (← fin? 4 f5) (BitVec.ofNat 32 f6)
  | _ => none

/-- Body of vstu (major 0x50, FN 6). -/
def decVstu (h : Hdr) (body : Nat) : Option Instr :=
  match unpack [1, 7, 3, 5, 32, 7, 7, 7] body with
  | [f1, 0, f5, f0, f6, f4, f3, f2] => do return .vstu h (← ty? f0) (f1 == 1) (← vOp? f2) (← xOp? f3) (← vOp? f4) (← fin? 4 f5) (BitVec.ofNat 32 f6)
  | _ => none

/-- Body of vstxa (major 0x50, FN 7). -/
def decVstxa (h : Hdr) (body : Nat) : Option Instr :=
  match unpack [1, 7, 3, 5, 32, 7, 7, 7] body with
  | [f1, 0, f5, f0, f6, f4, f3, f2] => do return .vstxa h (← ty? f0) (f1 == 1) (← vOp? f2) (← xOp? f3) (← vOp? f4) (← fin? 4 f5) (BitVec.ofNat 32 f6)
  | _ => none

/-- Body of vfence (major 0x50, FN 8). -/
def decVfence (h : Hdr) (body : Nat) : Option Instr :=
  match unpack [35, 2, 3, 29] body with
  | [0, f0, f1, 0] => do return .vfence h (← fenceKind? f0) (← scope? f1)
  | _ => none

/-- Body of pref (major 0x50, FN 9). -/
def decPref (h : Hdr) (body : Nat) : Option Instr :=
  match unpack [1, 7, 3, 5, 32, 7, 7, 7] body with
  | [f0, 0, f2s, 0, f2d, f2b, f2a, f1] => do return .pref h (f0 == 1) (← xOp? f1) (← memOp? f2a f2b f2s f2d)
  | _ => none

/-- Body of gset (major 0x51, FN 0). -/
def decGset (h : Hdr) (body : Nat) : Option Instr :=
  match unpack [1, 47, 7, 7, 7] body with
  | [0, 0, f2, f1, f0] => do return .gset h (← fin? 8 f0) (← xOp? f1) (← xOp? f2)
  | _ => none

/-- Body of gsetFree (major 0x51, FN 0). -/
def decGsetFree (h : Hdr) (body : Nat) : Option Instr :=
  match unpack [1, 61, 7] body with
  | [1, 0, f0] => do return .gsetFree h (← fin? 8 f0)
  | _ => none

/-- Body of vgred (major 0x51, FN 1). -/
def decVgred (h : Hdr) (body : Nat) : Option Instr :=
  match unpack [2, 27, 5, 7, 7, 7, 7, 7] body with
  | [f0, 0, f1, 0, f4, 0, f3, f2] => do return .vgred h (← gOp? f0) (← ty? f1) (← vOp? f2) (← vOp? f3) (← fin? 8 f4)
  | _ => none

/-- Body of vgall (major 0x51, FN 2). -/
def decVgall (h : Hdr) (body : Nat) : Option Instr :=
  match unpack [29, 5, 7, 7, 7, 7, 7] body with
  | [0, f0, 0, f3, 0, f2, f1] => do return .vgall h (← ty? f0) (← vOp? f1) (← vOp? f2) (← fin? 8 f3)
  | _ => none

/-- Body of vgrs (major 0x51, FN 3). -/
def decVgrs (h : Hdr) (body : Nat) : Option Instr :=
  match unpack [2, 27, 5, 7, 7, 7, 7, 7] body with
  | [f0, 0, f1, 0, f4, 0, f3, f2] => do return .vgrs h (← gOp? f0) (← ty? f1) (← vOp? f2) (← vOp? f3) (← fin? 8 f4)
  | _ => none

/-- Body of vgbc (major 0x51, FN 4). -/
def decVgbc (h : Hdr) (body : Nat) : Option Instr :=
  match unpack [29, 5, 7, 7, 7, 7, 7] body with
  | [0, f0, 0, f3, f4, f2, f1] => do return .vgbc h (← ty? f0) (← vOp? f1) (← vOp? f2) (← fin? 8 f3) (← xOp? f4)
  | _ => none

/-- Body of stream (major 0x52, FN 0). -/
def decStream (h : Hdr) (body : Nat) : Option Instr :=
  match unpack [55, 7, 7] body with
  | [0, f1, f0] => do return .stream h (← xOp? f0) (← xOp? f1)
  | _ => none

/-- Body of armw (major 0x52, FN 1). -/
def decArmw (h : Hdr) (body : Nat) : Option Instr :=
  match unpack [8, 3, 5, 32, 7, 7, 7] body with
  | [0, f1s, 0, f1d, f1b, f1a, f0] => do return .armw h (← xOp? f0) (← memOp? f1a f1b f1s f1d)
  | _ => none

/-- Body of waitw (major 0x52, FN 2). -/
def decWaitw (h : Hdr) (body : Nat) : Option Instr :=
  match unpack [8, 3, 5, 32, 7, 7, 7] body with
  | [0, f1s, 0, f1d, f1b, f1a, f0] => do return .waitw h (← xOp? f0) (← memOp? f1a f1b f1s f1d)
  | _ => none

/-- Body of jobwait (major 0x52, FN 3). -/
def decJobwait (h : Hdr) (body : Nat) : Option Instr :=
  match unpack [55, 7, 7] body with
  | [0, f1, f0] => do return .jobwait h (← xOp? f0) (← xOp? f1)
  | _ => none

/-- Body of ovopen (major 0x60, FN 0). -/
def decOvopen (h : Hdr) (body : Nat) : Option Instr :=
  match unpack [1, 61, 7] body with
  | [0, 0, f0] => do return .ovopen h (← xOp? f0)
  | _ => none

/-- Body of ovopenTry (major 0x60, FN 0). -/
def decOvopenTry (h : Hdr) (body : Nat) : Option Instr :=
  match unpack [1, 40, 7, 14, 7] body with
  | [1, 0, f1, 0, f0] => do return .ovopenTry h (← xOp? f0) (← fin? 8 f1)
  | _ => none

/-- Body of ovset (major 0x60, FN 1). -/
def decOvset (h : Hdr) (body : Nat) : Option Instr :=
  match unpack [55, 7, 7] body with
  | [0, f0, 0] => do return .ovset h (← xOp? f0)
  | _ => none

/-- Body of ovretire (major 0x60, FN 2). -/
def decOvretire (h : Hdr) (body : Nat) : Option Instr :=
  match unpack [55, 7, 7] body with
  | [0, f1, f0] => do return .ovretire h (← xOp? f0) (← xOp? f1)
  | _ => none

/-- Body of ovcommit (major 0x60, FN 3). -/
def decOvcommit (h : Hdr) (body : Nat) : Option Instr :=
  match unpack [23, 3, 29, 7, 7] body with
  | [0, f0, 0, f2, f1] => do return .ovcommit h (← scope? f0) (← xOp? f1) (← xOp? f2)
  | _ => none

/-- Body of ldo (major 0x60, FN 4). -/
def decLdo (h : Hdr) (body : Nat) : Option Instr :=
  match unpack [11, 5, 32, 7, 7, 7] body with
  | [0, f0, f4, f3, f2, f1] => do return .ldo h (← ty? f0) (← xOp? f1) (← xOp? f2) (← xOp? f3) (BitVec.ofNat 32 f4)
  | _ => none

/-- Body of vldo (major 0x60, FN 5). -/
def decVldo (h : Hdr) (body : Nat) : Option Instr :=
  match unpack [11, 5, 32, 7, 7, 7] body with
  | [0, f0, f4, f3, f2, f1] => do return .vldo h (← ty? f0) (← vOp? f1) (← xOp? f2) (← xOp? f3) (BitVec.ofNat 32 f4)
  | _ => none

/-- Body of ovstat (major 0x60, FN 6). -/
def decOvstat (h : Hdr) (body : Nat) : Option Instr :=
  match unpack [2, 53, 7, 7] body with
  | [f0, 0, f2, f1] => do return .ovstat h (← fin? 3 f0) (← xOp? f1) (← xOp? f2)
  | _ => none

/-- Body of carve (major 0x68, FN 0). -/
def decCarve (h : Hdr) (body : Nat) : Option Instr :=
  match unpack [55, 7, 7] body with
  | [0, f1, f0] => do return .carve h (← xOp? f0) (← xOp? f1)
  | _ => none

/-- Body of cclean (major 0x68, FN 1). -/
def decCclean (h : Hdr) (body : Nat) : Option Instr :=
  match unpack [1, 7, 3, 5, 32, 7, 7, 7] body with
  | [f0, 0, f2s, 0, f2d, f2b, f2a, f1] => do return .cclean h (f0 == 1) (← xOp? f1) (← memOp? f2a f2b f2s f2d)
  | _ => none

/-- Body of cinv (major 0x68, FN 2). -/
def decCinv (h : Hdr) (body : Nat) : Option Instr :=
  match unpack [1, 7, 3, 5, 32, 7, 7, 7] body with
  | [f0, 0, f2s, 0, f2d, f2b, f2a, f1] => do return .cinv h (f0 == 1) (← xOp? f1) (← memOp? f2a f2b f2s f2d)
  | _ => none

/-- Body of cflush (major 0x68, FN 3). -/
def decCflush (h : Hdr) (body : Nat) : Option Instr :=
  match unpack [1, 7, 3, 5, 32, 7, 7, 7] body with
  | [f0, 0, f2s, 0, f2d, f2b, f2a, f1] => do return .cflush h (f0 == 1) (← xOp? f1) (← memOp? f2a f2b f2s f2d)
  | _ => none

/-- Body of tlbiAll (major 0x68, FN 4). -/
def decTlbiAll (h : Hdr) (body : Nat) : Option Instr :=
  match unpack [2, 67] body with
  | [0, 0] => do return .tlbiAll h
  | _ => none

/-- Body of tlbiAsid (major 0x68, FN 4). -/
def decTlbiAsid (h : Hdr) (body : Nat) : Option Instr :=
  match unpack [2, 53, 7, 7] body with
  | [1, 0, f0, 0] => do return .tlbiAsid h (← xOp? f0)
  | _ => none

/-- Body of tlbiRange (major 0x68, FN 4). -/
def decTlbiRange (h : Hdr) (body : Nat) : Option Instr :=
  match unpack [2, 39, 7, 7, 7, 7] body with
  | [2, 0, f2, f1, f0, 0] => do return .tlbiRange h (← xOp? f0) (← xOp? f1) (← xOp? f2)
  | _ => none

/-- Body of digest (major 0x68, FN 5). -/
def decDigest (h : Hdr) (body : Nat) : Option Instr :=
  match unpack [1, 54, 7, 7] body with
  | [0, 0, f1, f0] => do return .digest h (← xOp? f0) (← xOp? f1)
  | _ => none

/-- Body of digestRng (major 0x68, FN 5). -/
def decDigestRng (h : Hdr) (body : Nat) : Option Instr :=
  match unpack [1, 47, 7, 7, 7] body with
  | [1, 0, f2, f1, f0] => do return .digestRng h (← xOp? f0) (← xOp? f1) (← xOp? f2)
  | _ => none

/-- Body of budget (major 0x68, FN 6). -/
def decBudget (h : Hdr) (body : Nat) : Option Instr :=
  match unpack [4, 2, 1, 55, 7] body with
  | [f1, f2, 0, 0, f0] => do return .budget h (← xOp? f0) (← fin? 16 f1) (← res? f2)
  | _ => none

/-- Body of budgetW (major 0x68, FN 6). -/
def decBudgetW (h : Hdr) (body : Nat) : Option Instr :=
  match unpack [4, 2, 1, 48, 7, 7] body with
  | [f2, f3, 1, 0, f1, f0] => do return .budgetW h (← xOp? f0) (← xOp? f1) (← fin? 16 f2) (← res? f3)
  | _ => none

/-- Body of launch (major 0x88, FN 0). -/
def decLaunch (h : Hdr) (body : Nat) : Option Instr :=
  match unpack [1, 54, 7, 7] body with
  | [0, 0, f1, f0] => do return .launch h (← xOp? f0) (← xOp? f1)
  | _ => none

/-- Body of launchTry (major 0x88, FN 0). -/
def decLaunchTry (h : Hdr) (body : Nat) : Option Instr :=
  match unpack [1, 54, 7, 7] body with
  | [1, 0, f1, f0] => do return .launchTry h (← xOp? f0) (← xOp? f1)
  | _ => none

/-- Body of trig (major 0x88, FN 1). -/
def decTrig (h : Hdr) (body : Nat) : Option Instr :=
  match unpack [69] body with
  | [0] => do return .trig h
  | _ => none

/-- Body of bar (major 0x88, FN 2). -/
def decBar (h : Hdr) (body : Nat) : Option Instr :=
  match unpack [3, 66] body with
  | [f0, 0] => do return .bar h (← fin? 8 f0)
  | _ => none

/-- Body of waitl (major 0x88, FN 3). -/
def decWaitl (h : Hdr) (body : Nat) : Option Instr :=
  match unpack [23, 3, 22, 7, 7, 7] body with
  | [0, f0, 0, f3, f2, f1] => do return .waitl h (← scope? f0) (← xOp? f1) (← xOp? f2) (← xOp? f3)
  | _ => none

/-- Body of lvlid (major 0x88, FN 4). -/
def decLvlid (h : Hdr) (body : Nat) : Option Instr :=
  match unpack [3, 3, 56, 7] body with
  | [f0, f1, 0, f2] => do return .lvlid h (← fin? 8 f0) (← lvlSel? f1) (← xOp? f2)
  | _ => none

/-- Body of mattach (major 0x70, FN 0). -/
def decMattach (h : Hdr) (body : Nat) : Option Instr :=
  match unpack [1, 54, 7, 7] body with
  | [0, 0, f1, f0] => do return .mattach h (← xOp? f0) (← xOp? f1)
  | _ => none

/-- Body of mattachPair (major 0x70, FN 0). -/
def decMattachPair (h : Hdr) (body : Nat) : Option Instr :=
  match unpack [1, 54, 7, 7] body with
  | [1, 0, f1, f0] => do return .mattachPair h (← xOp? f0) (← xOp? f1)
  | _ => none

/-- Body of mdetach (major 0x70, FN 1). -/
def decMdetach (h : Hdr) (body : Nat) : Option Instr :=
  match unpack [69] body with
  | [0] => do return .mdetach h
  | _ => none

/-- Body of mwld (major 0x70, FN 2). -/
def decMwld (h : Hdr) (body : Nat) : Option Instr :=
  match unpack [2, 53, 7, 7] body with
  | [f0, 0, f2, f1] => do return .mwld h (← wldDst? f0) (← xOp? f1) (← xOp? f2)
  | _ => none

/-- Body of mstream (major 0x70, FN 3). -/
def decMstream (h : Hdr) (body : Nat) : Option Instr :=
  match unpack [8, 7, 5, 1, 1, 2, 13, 11, 7, 7, 7] body with
  | [f0g, f0f, f0e, f0d, f0c, 0, f0b, f0a, 0, f2, f1] => do return .mstream h (← streamCmd? f0a f0b f0c f0d f0e f0f f0g) (← xOp? f1) (← xOp? f2)
  | _ => none

/-- Body of mzeroFp (major 0x70, FN 4). -/
def decMzeroFp (h : Hdr) (body : Nat) : Option Instr :=
  match unpack [7, 8, 1, 53] body with
  | [f0, f1, 0, 0] => do return .mzeroFp h (BitVec.ofNat 7 f0) (BitVec.ofNat 8 f1)
  | _ => none

/-- Body of mzeroInt (major 0x70, FN 4). -/
def decMzeroInt (h : Hdr) (body : Nat) : Option Instr :=
  match unpack [7, 8, 1, 53] body with
  | [f0, f1, 1, 0] => do return .mzeroInt h (BitVec.ofNat 7 f0) (BitVec.ofNat 8 f1)
  | _ => none

/-- Body of mdrain (major 0x70, FN 5). -/
def decMdrain (h : Hdr) (body : Nat) : Option Instr :=
  match unpack [7, 8, 9, 5, 3, 1, 3, 1, 1, 10, 7, 7, 7] body with
  | [f0h, f0g, f0f, f0e, f0d, 0, f0c, f0b, f0a, 0, f2, f1, 0] => do return .mdrain h (← drainCmd? f0a f0b f0c f0d f0e f0f f0g f0h) (← xOp? f1) (← xOp? f2)
  | _ => none

/-- Body of mdrainIdx (major 0x70, FN 5). -/
def decMdrainIdx (h : Hdr) (body : Nat) : Option Instr :=
  match unpack [7, 8, 9, 5, 3, 1, 3, 1, 1, 17, 7, 7] body with
  | [f0h, f0g, f0f, f0e, f0d, 1, f0c, f0b, f0a, 0, f1, f2] => do return .mdrainIdx h (← drainCmd? f0a f0b f0c f0d f0e f0f f0g f0h) (← xOp? f1) (← vOp? f2)
  | _ => none

/-- Body of msave (major 0x70, FN 6). -/
def decMsave (h : Hdr) (body : Nat) : Option Instr :=
  match unpack [8, 3, 5, 32, 7, 7, 7] body with
  | [0, f1s, 0, f1d, f1b, f1a, f0] => do return .msave h (← xOp? f0) (← memOp? f1a f1b f1s f1d)
  | _ => none

/-- Body of mrestore (major 0x70, FN 7). -/
def decMrestore (h : Hdr) (body : Nat) : Option Instr :=
  match unpack [8, 3, 5, 32, 7, 7, 7] body with
  | [0, f1s, 0, f1d, f1b, f1a, f0] => do return .mrestore h (← xOp? f0) (← memOp? f1a f1b f1s f1d)
  | _ => none

/-- Body of mlineEmpty (major 0x70, FN 8). -/
def decMlineEmpty (h : Hdr) (body : Nat) : Option Instr :=
  match unpack [2, 6, 3, 5, 32, 7, 7, 7] body with
  | [0, 0, f1s, 0, f1d, f1b, f1a, f0] => do return .mlineEmpty h (← xOp? f0) (← memOp? f1a f1b f1s f1d)
  | _ => none

/-- Body of mlineFull (major 0x70, FN 8). -/
def decMlineFull (h : Hdr) (body : Nat) : Option Instr :=
  match unpack [2, 6, 3, 5, 32, 7, 7, 7] body with
  | [1, 0, f1s, 0, f1d, f1b, f1a, f0] => do return .mlineFull h (← xOp? f0) (← memOp? f1a f1b f1s f1d)
  | _ => none

/-- Body of mlineWfull (major 0x70, FN 8). -/
def decMlineWfull (h : Hdr) (body : Nat) : Option Instr :=
  match unpack [2, 6, 3, 5, 32, 7, 7, 7] body with
  | [2, 0, f1s, 0, f1d, f1b, f1a, f0] => do return .mlineWfull h (← xOp? f0) (← memOp? f1a f1b f1s f1d)
  | _ => none

/-- Body of mlineWempty (major 0x70, FN 8). -/
def decMlineWempty (h : Hdr) (body : Nat) : Option Instr :=
  match unpack [2, 6, 3, 5, 32, 7, 7, 7] body with
  | [3, 0, f1s, 0, f1d, f1b, f1a, f0] => do return .mlineWempty h (← xOp? f0) (← memOp? f1a f1b f1s f1d)
  | _ => none

/-- Body of mwait (major 0x70, FN 9). -/
def decMwait (h : Hdr) (body : Nat) : Option Instr :=
  match unpack [55, 7, 7] body with
  | [0, f1, f0] => do return .mwait h (← xOp? f0) (← xOp? f1)
  | _ => none

/-- Body of mstat (major 0x70, FN 10). -/
def decMstat (h : Hdr) (body : Nat) : Option Instr :=
  match unpack [2, 53, 7, 7] body with
  | [f0, 0, f2, f1] => do return .mstat h (← fin? 4 f0) (← xOp? f1) (← xOp? f2)
  | _ => none

/-- Body of tvload (major 0x80, FN 0). -/
def decTvload (h : Hdr) (body : Nat) : Option Instr :=
  match unpack [1, 47, 7, 7, 7] body with
  | [0, 0, f2, f1, f0] => do return .tvload h (← xOp? f0) (← xOp? f1) (← fin? 8 f2)
  | _ => none

/-- Body of tvloadFree (major 0x80, FN 0). -/
def decTvloadFree (h : Hdr) (body : Nat) : Option Instr :=
  match unpack [1, 54, 7, 7] body with
  | [1, 0, f0, 0] => do return .tvloadFree h (← xOp? f0)
  | _ => none

/-- Body of tvstart (major 0x80, FN 1). -/
def decTvstart (h : Hdr) (body : Nat) : Option Instr :=
  match unpack [5, 50, 7, 7] body with
  | [f0, 0, f2, f1] => do return .tvstart h (← fin? 17 f0) (← xOp? f1) (← xOp? f2)
  | _ => none

/-- Body of tvwait (major 0x80, FN 2). -/
def decTvwait (h : Hdr) (body : Nat) : Option Instr :=
  match unpack [55, 7, 7] body with
  | [0, f1, f0] => do return .tvwait h (← xOp? f0) (← xOp? f1)
  | _ => none

/-- Body of tvstat (major 0x80, FN 3). -/
def decTvstat (h : Hdr) (body : Nat) : Option Instr :=
  match unpack [2, 53, 7, 7] body with
  | [f0, 0, f2, f1] => do return .tvstat h (← fin? 3 f0) (← xOp? f1) (← xOp? f2)
  | _ => none

/-- Body of gzlook (major 0x81, FN 0). -/
def decGzlook (h : Hdr) (body : Nat) : Option Instr :=
  match unpack [55, 7, 7] body with
  | [0, f1, f0] => do return .gzlook h (← xOp? f0) (← xOp? f1)
  | _ => none

/-- Body of gzupdate (major 0x81, FN 1). -/
def decGzupdate (h : Hdr) (body : Nat) : Option Instr :=
  match unpack [55, 7, 7] body with
  | [0, f1, f0] => do return .gzupdate h (← xOp? f0) (← xOp? f1)
  | _ => none

/-- Body of gzver (major 0x81, FN 2). -/
def decGzver (h : Hdr) (body : Nat) : Option Instr :=
  match unpack [2, 53, 7, 7] body with
  | [f0, 0, f2, f1] => do return .gzver h (← fin? 4 f0) (← xOp? f1) (← xOp? f2)
  | _ => none

/-- Body of gzpin (major 0x81, FN 3). -/
def decGzpin (h : Hdr) (body : Nat) : Option Instr :=
  match unpack [13, 1, 34, 7, 7, 7] body with
  | [f0, 0, 0, f3, f2, f1] => do return .gzpin h (BitVec.ofNat 13 f0) (← xOp? f1) (← xOp? f2) (← xOp? f3)
  | _ => none

/-- Body of gzpinUn (major 0x81, FN 3). -/
def decGzpinUn (h : Hdr) (body : Nat) : Option Instr :=
  match unpack [13, 1, 34, 7, 7, 7] body with
  | [f0, 1, 0, f3, f2, f1] => do return .gzpinUn h (BitVec.ofNat 13 f0) (← xOp? f1) (← xOp? f2) (← xOp? f3)
  | _ => none

/-- Body of gzwait (major 0x81, FN 4). -/
def decGzwait (h : Hdr) (body : Nat) : Option Instr :=
  match unpack [55, 7, 7] body with
  | [0, f1, f0] => do return .gzwait h (← xOp? f0) (← xOp? f1)
  | _ => none

/-- Body of mtick (major 0x90, FN 0). -/
def decMtick (h : Hdr) (body : Nat) : Option Instr :=
  match unpack [1, 61, 7] body with
  | [0, 0, f0] => do return .mtick h (← xOp? f0)
  | _ => none

/-- Body of mtickOrd (major 0x90, FN 0). -/
def decMtickOrd (h : Hdr) (body : Nat) : Option Instr :=
  match unpack [1, 61, 7] body with
  | [1, 0, f0] => do return .mtickOrd h (← xOp? f0)
  | _ => none

/-- Body of svmark (major 0x90, FN 1). -/
def decSvmark (h : Hdr) (body : Nat) : Option Instr :=
  match unpack [16, 39, 7, 7] body with
  | [f0, 0, f1, 0] => do return .svmark h (BitVec.ofNat 16 f0) (← xOp? f1)
  | _ => none

/-- Body of svsampOff (major 0x90, FN 2). -/
def decSvsampOff (h : Hdr) (body : Nat) : Option Instr :=
  match unpack [69] body with
  | [0] => do return .svsampOff h
  | _ => none

/-- Body of svsamp (major 0x90, FN 2). -/
def decSvsamp (h : Hdr) (body : Nat) : Option Instr :=
  match unpack [5, 50, 7, 7] body with
  | [f0, 0, f1, 0] => do return .svsamp h (BitVec.ofNat 5 f0) (← xOp? f1)
  | _ => none

/-- Body of svread (major 0x90, FN 3). -/
def decSvread (h : Hdr) (body : Nat) : Option Instr :=
  match unpack [2, 53, 7, 7] body with
  | [f0, 0, f2, f1] => do return .svread h (← fin? 4 f0) (← xOp? f1) (← xOp? f2)
  | _ => none

/-- Body of svstop (major 0x90, FN 4). -/
def decSvstop (h : Hdr) (body : Nat) : Option Instr :=
  match unpack [55, 7, 7] body with
  | [0, f1, f0] => do return .svstop h (← xOp? f0) (← xOp? f1)
  | _ => none

/-- Body of clklock (major 0x90, FN 5). -/
noncomputable def decClklock (h : Hdr) (body : Nat) : Option Instr :=
  match unpack [3, 1, 58, 7] body with
  | [f0, 0, 0, f1] => do return .clklock h (← fin? 8 f0) (← xOp? f1)
  | _ => none

/-- Body of clklockOff (major 0x90, FN 5). -/
noncomputable def decClklockOff (h : Hdr) (body : Nat) : Option Instr :=
  match unpack [3, 1, 58, 7] body with
  | [0, 1, 0, f0] => do return .clklockOff h (← xOp? f0)
  | _ => none

/-- Body of dhash (major 0x98, FN 0). -/
noncomputable def decDhash (h : Hdr) (body : Nat) : Option Instr :=
  match unpack [48, 7, 7, 7] body with
  | [0, f2, f1, f0] => do return .dhash h (← xOp? f0) (← xOp? f1) (← xOp? f2)
  | _ => none

/-- Body of dverify (major 0x98, FN 1). -/
noncomputable def decDverify (h : Hdr) (body : Nat) : Option Instr :=
  match unpack [2, 53, 7, 7] body with
  | [f0, 0, f2, f1] => do return .dverify h (← verMode? f0) (← xOp? f1) (← xOp? f2)
  | _ => none

/-- Body of dsign (major 0x98, FN 2). -/
noncomputable def decDsign (h : Hdr) (body : Nat) : Option Instr :=
  match unpack [2, 46, 7, 7, 7] body with
  | [0, 0, f2, f1, f0] => do return .dsign h (← xOp? f0) (← xOp? f1) (← xOp? f2)
  | _ => none

/-- Body of dsignAtt (major 0x98, FN 2). -/
noncomputable def decDsignAtt (h : Hdr) (body : Nat) : Option Instr :=
  match unpack [2, 53, 7, 7] body with
  | [1, 0, f1, f0] => do return .dsignAtt h (← xOp? f0) (← xOp? f1)
  | _ => none

/-- Body of dsignPub (major 0x98, FN 2). -/
noncomputable def decDsignPub (h : Hdr) (body : Nat) : Option Instr :=
  match unpack [2, 60, 7] body with
  | [2, 0, f0] => do return .dsignPub h (← xOp? f0)
  | _ => none

/-- Body of fuserd (major 0x98, FN 3). -/
noncomputable def decFuserd (h : Hdr) (body : Nat) : Option Instr :=
  match unpack [55, 7, 7] body with
  | [0, f1, f0] => do return .fuserd h (← xOp? f0) (← xOp? f1)
  | _ => none

/-- Body of keywipe (major 0x98, FN 4). -/
noncomputable def decKeywipe (h : Hdr) (body : Nat) : Option Instr :=
  match unpack [1, 54, 7, 7] body with
  | [0, 0, f1, f0] => do return .keywipe h (← xOp? f0) (← xOp? f1)
  | _ => none

/-- Body of keywipeAll (major 0x98, FN 4). -/
noncomputable def decKeywipeAll (h : Hdr) (body : Nat) : Option Instr :=
  match unpack [1, 61, 7] body with
  | [1, 0, f0] => do return .keywipeAll h (← xOp? f0)
  | _ => none

/-- Body of mextend (major 0x98, FN 5). -/
noncomputable def decMextend (h : Hdr) (body : Nat) : Option Instr :=
  match unpack [3, 1, 44, 7, 7, 7] body with
  | [f0, 0, 0, f2, f1, 0] => do return .mextend h (← fin? 8 f0) (← xOp? f1) (← xOp? f2)
  | _ => none

/-- Body of mextendDbg (major 0x98, FN 5). -/
noncomputable def decMextendDbg (h : Hdr) (body : Nat) : Option Instr :=
  match unpack [4, 58, 7] body with
  | [15, 0, f0] => do return .mextendDbg h (← xOp? f0)
  | _ => none

/-- Body of lcset (major 0x98, FN 6). -/
noncomputable def decLcset (h : Hdr) (body : Nat) : Option Instr :=
  match unpack [35, 3, 24, 7] body with
  | [0, f0, 0, f1] => do return .lcset h (← lcTarget? f0) (← xOp? f1)
  | _ => none

/-- Body of dbgopen (major 0x98, FN 7). -/
noncomputable def decDbgopen (h : Hdr) (body : Nat) : Option Instr :=
  match unpack [32, 30, 7] body with
  | [f0, 0, f1] => do return .dbgopen h (BitVec.ofNat 32 f0) (← xOp? f1)
  | _ => none

/-- The body of an instruction by major and function (02 R89); a major or function that the map lacks is illegal
(02 R90). -/
noncomputable def decodeBody (maj fn : Nat) (h : Hdr) (body : Nat) : Option Instr :=
  match maj, fn with
  | 0x1, 0 => decBr h body
  | 0x1, 1 => decJmp h body
  | 0x1, 2 => decCall h body
  | 0x1, 3 => decCallr h body
  | 0x1, 4 => decRet h body
  | 0x1, 5 => decPushb h body
  | 0x1, 6 => decBrq h body
  | 0x1, 7 => decLoop h body
  | 0x1, 8 => decLexit h body
  | 0x1, 9 => decNop h body
  | 0x2, 0 => decTrap h body
  | 0x2, 1 => decEret h body
  | 0x2, 2 => decSrr h body
  | 0x2, 3 => decSrw h body
  | 0x2, 4 => decWait h body
  | 0x2, 5 => decYield h body
  | 0x2, 6 => decHalt h body
  | 0x2, 7 => decFencei h body
  | 0x10, 0 => decAdd h body
  | 0x10, 1 => decSub h body
  | 0x10, 2 => decMul h body
  | 0x10, 3 => decMulh h body
  | 0x10, 4 => decMulhu h body
  | 0x10, 5 => decDiv h body
  | 0x10, 6 => decDivu h body
  | 0x10, 7 => decRem h body
  | 0x10, 8 => decRemu h body
  | 0x10, 9 => decAnd h body
  | 0x10, 10 => decOr h body
  | 0x10, 11 => decXor h body
  | 0x10, 12 => decAndn h body
  | 0x10, 13 => decShl h body
  | 0x10, 14 => decShr h body
  | 0x10, 15 => decSra h body
  | 0x10, 16 => decRor h body
  | 0x10, 17 => decMin h body
  | 0x10, 18 => decMax h body
  | 0x10, 19 => decMinu h body
  | 0x10, 20 => decMaxu h body
  | 0x10, 21 => decClz h body
  | 0x10, 22 => decCtz h body
  | 0x10, 23 => decPopc h body
  | 0x10, 24 => decBfx h body
  | 0x10, 25 => decBfi h body
  | 0x10, 26 => decSel h body
  | 0x10, 27 => decLea h body
  | 0x11, 0 => decAddImm h body
  | 0x11, 1 => decSubImm h body
  | 0x11, 2 => decMulImm h body
  | 0x11, 3 => decMulhImm h body
  | 0x11, 4 => decMulhuImm h body
  | 0x11, 5 => decDivImm h body
  | 0x11, 6 => decDivuImm h body
  | 0x11, 7 => decRemImm h body
  | 0x11, 8 => decRemuImm h body
  | 0x11, 9 => decAndImm h body
  | 0x11, 10 => decOrImm h body
  | 0x11, 11 => decXorImm h body
  | 0x11, 12 => decAndnImm h body
  | 0x11, 13 => decShlImm h body
  | 0x11, 14 => decShrImm h body
  | 0x11, 15 => decSraImm h body
  | 0x11, 16 => decRorImm h body
  | 0x11, 17 => decMinImm h body
  | 0x11, 18 => decMaxImm h body
  | 0x11, 19 => decMinuImm h body
  | 0x11, 20 => decMaxuImm h body
  | 0x11, 24 => decBfxImm h body
  | 0x11, 25 => decBfiImm h body
  | 0x11, 26 => decSelImm h body
  | 0x11, 27 => decLeaImm h body
  | 0x12, 0 => decMovi h body
  | 0x12, 1 => decCmp h body
  | 0x12, 2 => decCmpi h body
  | 0x12, 3 => decPlog h body
  | 0x12, 4 => (decPmovToX h body).or (decPmovToP h body)
  | 0x13, 0 => decLd h body
  | 0x13, 1 => decSt h body
  | 0x13, 2 => decLda h body
  | 0x13, 3 => decStr h body
  | 0x13, 4 => (decAtomSwap h body).or ((decAtomAdd h body).or ((decAtomAnd h body).or ((decAtomOr h body).or ((decAtomXor h body).or ((decAtomMin h body).or ((decAtomMax h body).or (decAtomCas h body)))))))
  | 0x13, 5 => decFence h body
  | 0x20, 0 => decVadd h body
  | 0x20, 1 => decVsub h body
  | 0x20, 2 => decVmul h body
  | 0x20, 3 => decVfma h body
  | 0x20, 4 => decVfms h body
  | 0x20, 5 => decVfnma h body
  | 0x20, 6 => decVdiv h body
  | 0x20, 7 => decVsqrt h body
  | 0x20, 8 => decVmin h body
  | 0x20, 9 => decVmax h body
  | 0x20, 10 => decVabs h body
  | 0x20, 11 => decVneg h body
  | 0x20, 12 => decVcmp h body
  | 0x20, 13 => decVclass h body
  | 0x20, 14 => decTwosum h body
  | 0x21, 0 => decViadd h body
  | 0x21, 1 => decVisub h body
  | 0x21, 2 => decVimul h body
  | 0x21, 3 => decVimulh h body
  | 0x21, 4 => decVimad h body
  | 0x21, 5 => decVimin h body
  | 0x21, 6 => decVimax h body
  | 0x21, 7 => decVand h body
  | 0x21, 8 => decVor h body
  | 0x21, 9 => decVxor h body
  | 0x21, 10 => decVshl h body
  | 0x21, 11 => decVshr h body
  | 0x21, 12 => decVsra h body
  | 0x21, 13 => decVclip h body
  | 0x22, 0 => decVmov h body
  | 0x22, 1 => decVbcast h body
  | 0x22, 2 => decViota h body
  | 0x22, 3 => decVsel h body
  | 0x22, 4 => decVldi h body
  | 0x23, 0 => (decSetvl h body).or (decSetvlRel h body)
  | 0x23, 1 => decSetrc h body
  | 0x23, 2 => decAlloc h body
  | 0x23, 3 => decShrink h body
  | 0x23, 4 => decStrip h body
  | 0x30, 0 => decVrcp h body
  | 0x30, 1 => decVrsq h body
  | 0x30, 2 => decVexp2 h body
  | 0x30, 3 => decVlog2 h body
  | 0x30, 4 => decVtanh h body
  | 0x31, 0 => decVcvt h body
  | 0x31, 1 => decVqblk h body
  | 0x31, 2 => decVdqblk h body
  | 0x31, 3 => decVplane h body
  | 0x31, 4 => decVunplane h body
  | 0x31, 5 => decVrand h body
  | 0x32, 0 => decKlog h body
  | 0x32, 1 => decKcnt h body
  | 0x32, 2 => decKfirst h body
  | 0x32, 3 => decMpush h body
  | 0x32, 4 => decMinv h body
  | 0x32, 5 => decMpop h body
  | 0x32, 6 => decMbrz h body
  | 0x32, 7 => decVtrip h body
  | 0x32, 8 => decMloop h body
  | 0x40, 0 => decVred h body
  | 0x40, 1 => decVredp h body
  | 0x40, 2 => decVscan h body
  | 0x40, 3 => decVperm h body
  | 0x40, 4 => decVslide h body
  | 0x40, 5 => decVzip h body
  | 0x40, 6 => decVunzip h body
  | 0x40, 7 => decVtrn h body
  | 0x40, 8 => decVcompress h body
  | 0x40, 9 => decVexpand h body
  | 0x40, 10 => decVsortk h body
  | 0x40, 11 => decVextr h body
  | 0x40, 12 => decVinsr h body
  | 0x40, 13 => decRdv h body
  | 0x50, 0 => decVld h body
  | 0x50, 1 => decVlds h body
  | 0x50, 2 => decVldx h body
  | 0x50, 3 => decVst h body
  | 0x50, 4 => decVsts h body
  | 0x50, 5 => decVstx h body
  | 0x50, 6 => decVstu h body
  | 0x50, 7 => decVstxa h body
  | 0x50, 8 => decVfence h body
  | 0x50, 9 => decPref h body
  | 0x51, 0 => (decGset h body).or (decGsetFree h body)
  | 0x51, 1 => decVgred h body
  | 0x51, 2 => decVgall h body
  | 0x51, 3 => decVgrs h body
  | 0x51, 4 => decVgbc h body
  | 0x52, 0 => decStream h body
  | 0x52, 1 => decArmw h body
  | 0x52, 2 => decWaitw h body
  | 0x52, 3 => decJobwait h body
  | 0x60, 0 => (decOvopen h body).or (decOvopenTry h body)
  | 0x60, 1 => decOvset h body
  | 0x60, 2 => decOvretire h body
  | 0x60, 3 => decOvcommit h body
  | 0x60, 4 => decLdo h body
  | 0x60, 5 => decVldo h body
  | 0x60, 6 => decOvstat h body
  | 0x68, 0 => decCarve h body
  | 0x68, 1 => decCclean h body
  | 0x68, 2 => decCinv h body
  | 0x68, 3 => decCflush h body
  | 0x68, 4 => (decTlbiAll h body).or ((decTlbiAsid h body).or (decTlbiRange h body))
  | 0x68, 5 => (decDigest h body).or (decDigestRng h body)
  | 0x68, 6 => (decBudget h body).or (decBudgetW h body)
  | 0x88, 0 => (decLaunch h body).or (decLaunchTry h body)
  | 0x88, 1 => decTrig h body
  | 0x88, 2 => decBar h body
  | 0x88, 3 => decWaitl h body
  | 0x88, 4 => decLvlid h body
  | 0x70, 0 => (decMattach h body).or (decMattachPair h body)
  | 0x70, 1 => decMdetach h body
  | 0x70, 2 => decMwld h body
  | 0x70, 3 => decMstream h body
  | 0x70, 4 => (decMzeroFp h body).or (decMzeroInt h body)
  | 0x70, 5 => (decMdrain h body).or (decMdrainIdx h body)
  | 0x70, 6 => decMsave h body
  | 0x70, 7 => decMrestore h body
  | 0x70, 8 => (decMlineEmpty h body).or ((decMlineFull h body).or ((decMlineWfull h body).or (decMlineWempty h body)))
  | 0x70, 9 => decMwait h body
  | 0x70, 10 => decMstat h body
  | 0x80, 0 => (decTvload h body).or (decTvloadFree h body)
  | 0x80, 1 => decTvstart h body
  | 0x80, 2 => decTvwait h body
  | 0x80, 3 => decTvstat h body
  | 0x81, 0 => decGzlook h body
  | 0x81, 1 => decGzupdate h body
  | 0x81, 2 => decGzver h body
  | 0x81, 3 => (decGzpin h body).or (decGzpinUn h body)
  | 0x81, 4 => decGzwait h body
  | 0x90, 0 => (decMtick h body).or (decMtickOrd h body)
  | 0x90, 1 => decSvmark h body
  | 0x90, 2 => (decSvsampOff h body).or (decSvsamp h body)
  | 0x90, 3 => decSvread h body
  | 0x90, 4 => decSvstop h body
  | 0x90, 5 => (decClklock h body).or (decClklockOff h body)
  | 0x98, 0 => decDhash h body
  | 0x98, 1 => decDverify h body
  | 0x98, 2 => (decDsign h body).or ((decDsignAtt h body).or (decDsignPub h body))
  | 0x98, 3 => decFuserd h body
  | 0x98, 4 => (decKeywipe h body).or (decKeywipeAll h body)
  | 0x98, 5 => (decMextend h body).or (decMextendDbg h body)
  | 0x98, 6 => decLcset h body
  | 0x98, 7 => decDbgopen h body
  | _, _ => none

/-- Widths of the body and the header fields, least significant first (02 R72). -/
def hdrWidths : List Nat := [69, 1, 1, 1, 2, 3, 1, 3, 1, 6, 8]

/-- The instruction of a word, before the checks of `Instr.wf`. -/
noncomputable def parseWord (w : Word96) : Option Instr :=
  match unpack hdrWidths w.toNat with
  | [body, b, e, y, ch, gm, gmn, gp, gpn, fn, maj] =>
    decodeBody maj fn
      ⟨gpn == 1, Fin.ofNat 8 gp, gmn == 1, Fin.ofNat 8 gm, Fin.ofNat 4 ch, y == 1, e == 1, b == 1⟩ body
  | _ => none

/-- The well-formed instruction of a word; none where step 2 of 02 R87 finds the encoding illegal. -/
noncomputable def decode (w : Word96) : Option Instr := (parseWord w).filter Instr.wf

/-- The major of a word (02 R72). -/
def majorOf (w : Word96) : Nat := w.toNat / 2 ^ 88

/-- Header, major, function and body fields of a hart or datum instruction; none for legs and events. -/
def Instr.fields : Instr → Option (Hdr × Nat × Nat × List (Nat × Nat))
  | .br h c a b off => some (h, 0x1, 0, [(3, c.code), (12, 0), (40, off.toNat), (7, b.code), (7, a.code)])
  | .jmp h a => some (h, 0x1, 1, [(55, 0), (7, a.code), (7, 0)])
  | .call h d off => some (h, 0x1, 2, [(15, 0), (40, off.toNat), (7, 0), (7, d.code)])
  | .callr h d a => some (h, 0x1, 3, [(55, 0), (7, a.code), (7, d.code)])
  | .ret h a => some (h, 0x1, 4, [(55, 0), (7, a.code), (7, 0)])
  | .pushb h inv a => some (h, 0x1, 5, [(1, inv.toNat), (54, 0), (7, a.val), (7, 0)])
  | .brq h z off => some (h, 0x1, 6, [(1, z.toNat), (14, 0), (40, off.toNat), (14, 0)])
  | .loop h l c off => some (h, 0x1, 7, [(1, l.toNat), (1, c.isImm.toNat), (13, c.immCode), (40, off.toNat), (7, 0), (7, c.regCode)])
  | .lexit h l => some (h, 0x1, 8, [(1, l.toNat), (68, 0)])
  | .nop h => some (h, 0x1, 9, [(69, 0)])
  | .trap h code => some (h, 0x2, 0, [(35, code.toNat), (34, 0)])
  | .eret h => some (h, 0x2, 1, [(69, 0)])
  | .srr h d sr => some (h, 0x2, 2, [(35, 0), (12, sr.toNat), (15, 0), (7, d.code)])
  | .srw h sr a => some (h, 0x2, 3, [(35, 0), (12, sr.toNat), (8, 0), (7, a.code), (7, 0)])
  | .wait h a limit => some (h, 0x2, 4, [(35, limit.toNat), (20, 0), (7, a.code), (7, 0)])
  | .yield h => some (h, 0x2, 5, [(69, 0)])
  | .halt h => some (h, 0x2, 6, [(69, 0)])
  | .fencei h => some (h, 0x2, 7, [(69, 0)])
  | .add h w d a b => some (h, 0x10, 0, [(1, w.toNat), (47, 0), (7, b.code), (7, a.code), (7, d.code)])
  | .sub h w d a b => some (h, 0x10, 1, [(1, w.toNat), (47, 0), (7, b.code), (7, a.code), (7, d.code)])
  | .mul h w d a b => some (h, 0x10, 2, [(1, w.toNat), (47, 0), (7, b.code), (7, a.code), (7, d.code)])
  | .mulh h w d a b => some (h, 0x10, 3, [(1, w.toNat), (47, 0), (7, b.code), (7, a.code), (7, d.code)])
  | .mulhu h w d a b => some (h, 0x10, 4, [(1, w.toNat), (47, 0), (7, b.code), (7, a.code), (7, d.code)])
  | .div h w d a b => some (h, 0x10, 5, [(1, w.toNat), (47, 0), (7, b.code), (7, a.code), (7, d.code)])
  | .divu h w d a b => some (h, 0x10, 6, [(1, w.toNat), (47, 0), (7, b.code), (7, a.code), (7, d.code)])
  | .rem h w d a b => some (h, 0x10, 7, [(1, w.toNat), (47, 0), (7, b.code), (7, a.code), (7, d.code)])
  | .remu h w d a b => some (h, 0x10, 8, [(1, w.toNat), (47, 0), (7, b.code), (7, a.code), (7, d.code)])
  | .and h w d a b => some (h, 0x10, 9, [(1, w.toNat), (47, 0), (7, b.code), (7, a.code), (7, d.code)])
  | .or h w d a b => some (h, 0x10, 10, [(1, w.toNat), (47, 0), (7, b.code), (7, a.code), (7, d.code)])
  | .xor h w d a b => some (h, 0x10, 11, [(1, w.toNat), (47, 0), (7, b.code), (7, a.code), (7, d.code)])
  | .andn h w d a b => some (h, 0x10, 12, [(1, w.toNat), (47, 0), (7, b.code), (7, a.code), (7, d.code)])
  | .shl h w d a b => some (h, 0x10, 13, [(1, w.toNat), (47, 0), (7, b.code), (7, a.code), (7, d.code)])
  | .shr h w d a b => some (h, 0x10, 14, [(1, w.toNat), (47, 0), (7, b.code), (7, a.code), (7, d.code)])
  | .sra h w d a b => some (h, 0x10, 15, [(1, w.toNat), (47, 0), (7, b.code), (7, a.code), (7, d.code)])
  | .ror h w d a b => some (h, 0x10, 16, [(1, w.toNat), (47, 0), (7, b.code), (7, a.code), (7, d.code)])
  | .min h w d a b => some (h, 0x10, 17, [(1, w.toNat), (47, 0), (7, b.code), (7, a.code), (7, d.code)])
  | .max h w d a b => some (h, 0x10, 18, [(1, w.toNat), (47, 0), (7, b.code), (7, a.code), (7, d.code)])
  | .minu h w d a b => some (h, 0x10, 19, [(1, w.toNat), (47, 0), (7, b.code), (7, a.code), (7, d.code)])
  | .maxu h w d a b => some (h, 0x10, 20, [(1, w.toNat), (47, 0), (7, b.code), (7, a.code), (7, d.code)])
  | .clz h w d a => some (h, 0x10, 21, [(1, w.toNat), (54, 0), (7, a.code), (7, d.code)])
  | .ctz h w d a => some (h, 0x10, 22, [(1, w.toNat), (54, 0), (7, a.code), (7, d.code)])
  | .popc h w d a => some (h, 0x10, 23, [(1, w.toNat), (54, 0), (7, a.code), (7, d.code)])
  | .bfx h sx d a b => some (h, 0x10, 24, [(1, 0), (1, sx.toNat), (46, 0), (7, b.code), (7, a.code), (7, d.code)])
  | .bfi h d a b c => some (h, 0x10, 25, [(41, 0), (7, c.code), (7, b.code), (7, a.code), (7, d.code)])
  | .sel h d a b p => some (h, 0x10, 26, [(41, 0), (7, p.val), (7, b.code), (7, a.code), (7, d.code)])
  | .lea h s d a b => some (h, 0x10, 27, [(1, 0), (2, s.val), (45, 0), (7, b.code), (7, a.code), (7, d.code)])
  | .addImm h w d a imm => some (h, 0x11, 0, [(1, w.toNat), (6, 0), (48, imm.toNat), (7, a.code), (7, d.code)])
  | .subImm h w d a imm => some (h, 0x11, 1, [(1, w.toNat), (6, 0), (48, imm.toNat), (7, a.code), (7, d.code)])
  | .mulImm h w d a imm => some (h, 0x11, 2, [(1, w.toNat), (6, 0), (48, imm.toNat), (7, a.code), (7, d.code)])
  | .mulhImm h w d a imm => some (h, 0x11, 3, [(1, w.toNat), (6, 0), (48, imm.toNat), (7, a.code), (7, d.code)])
  | .mulhuImm h w d a imm => some (h, 0x11, 4, [(1, w.toNat), (6, 0), (48, imm.toNat), (7, a.code), (7, d.code)])
  | .divImm h w d a imm => some (h, 0x11, 5, [(1, w.toNat), (6, 0), (48, imm.toNat), (7, a.code), (7, d.code)])
  | .divuImm h w d a imm => some (h, 0x11, 6, [(1, w.toNat), (6, 0), (48, imm.toNat), (7, a.code), (7, d.code)])
  | .remImm h w d a imm => some (h, 0x11, 7, [(1, w.toNat), (6, 0), (48, imm.toNat), (7, a.code), (7, d.code)])
  | .remuImm h w d a imm => some (h, 0x11, 8, [(1, w.toNat), (6, 0), (48, imm.toNat), (7, a.code), (7, d.code)])
  | .andImm h w d a imm => some (h, 0x11, 9, [(1, w.toNat), (6, 0), (48, imm.toNat), (7, a.code), (7, d.code)])
  | .orImm h w d a imm => some (h, 0x11, 10, [(1, w.toNat), (6, 0), (48, imm.toNat), (7, a.code), (7, d.code)])
  | .xorImm h w d a imm => some (h, 0x11, 11, [(1, w.toNat), (6, 0), (48, imm.toNat), (7, a.code), (7, d.code)])
  | .andnImm h w d a imm => some (h, 0x11, 12, [(1, w.toNat), (6, 0), (48, imm.toNat), (7, a.code), (7, d.code)])
  | .shlImm h w d a imm => some (h, 0x11, 13, [(1, w.toNat), (6, 0), (48, imm.toNat), (7, a.code), (7, d.code)])
  | .shrImm h w d a imm => some (h, 0x11, 14, [(1, w.toNat), (6, 0), (48, imm.toNat), (7, a.code), (7, d.code)])
  | .sraImm h w d a imm => some (h, 0x11, 15, [(1, w.toNat), (6, 0), (48, imm.toNat), (7, a.code), (7, d.code)])
  | .rorImm h w d a imm => some (h, 0x11, 16, [(1, w.toNat), (6, 0), (48, imm.toNat), (7, a.code), (7, d.code)])
  | .minImm h w d a imm => some (h, 0x11, 17, [(1, w.toNat), (6, 0), (48, imm.toNat), (7, a.code), (7, d.code)])
  | .maxImm h w d a imm => some (h, 0x11, 18, [(1, w.toNat), (6, 0), (48, imm.toNat), (7, a.code), (7, d.code)])
  | .minuImm h w d a imm => some (h, 0x11, 19, [(1, w.toNat), (6, 0), (48, imm.toNat), (7, a.code), (7, d.code)])
  | .maxuImm h w d a imm => some (h, 0x11, 20, [(1, w.toNat), (6, 0), (48, imm.toNat), (7, a.code), (7, d.code)])
  | .bfxImm h sx d a imm => some (h, 0x11, 24, [(1, 0), (1, sx.toNat), (5, 0), (48, imm.toNat), (7, a.code), (7, d.code)])
  | .bfiImm h d a imm => some (h, 0x11, 25, [(7, 0), (48, imm.toNat), (7, a.code), (7, d.val)])
  | .selImm h d a imm p => some (h, 0x11, 26, [(1, 0), (3, p.val), (3, 0), (48, imm.toNat), (7, a.code), (7, d.code)])
  | .leaImm h s d a imm => some (h, 0x11, 27, [(1, 0), (2, s.val), (4, 0), (48, imm.toNat), (7, a.code), (7, d.code)])
  | .movi h d imm => some (h, 0x12, 0, [(62, imm.toNat), (7, d.code)])
  | .cmp h c w pd pc a b => some (h, 0x12, 1, [(3, c.code), (1, w.toNat), (37, 0), (7, pc.val), (7, b.code), (7, a.code), (7, pd.val)])
  | .cmpi h c w pd a imm => some (h, 0x12, 2, [(3, c.code), (1, w.toNat), (3, 0), (48, imm.toNat), (7, a.code), (7, pd.val)])
  | .plog h lut d a b => some (h, 0x12, 3, [(4, lut.toNat), (44, 0), (7, b.val), (7, a.val), (7, d.val)])
  | .pmovToX h d => some (h, 0x12, 4, [(2, 0), (60, 0), (7, d.code)])
  | .pmovToP h a => some (h, 0x12, 4, [(2, 1), (53, 0), (7, a.code), (7, 0)])
  | .ld h t d m => some (h, 0x13, 0, [(8, 0), (3, m.scl.val), (5, t.code), (32, m.disp.toNat), (7, m.idx.code), (7, m.base.code), (7, d.code)])
  | .st h t d m => some (h, 0x13, 1, [(8, 0), (3, m.scl.val), (5, t.code), (32, m.disp.toNat), (7, m.idx.code), (7, m.base.code), (7, d.code)])
  | .lda h t sc d m => some (h, 0x13, 2, [(5, 0), (3, sc.code), (3, m.scl.val), (5, t.code), (32, m.disp.toNat), (7, m.idx.code), (7, m.base.code), (7, d.code)])
  | .str h t sc d m => some (h, 0x13, 3, [(5, 0), (3, sc.code), (3, m.scl.val), (5, t.code), (32, m.disp.toNat), (7, m.idx.code), (7, m.base.code), (7, d.code)])
  | .atomSwap h t sc d m => some (h, 0x13, 4, [(5, 0), (3, optScopeCode sc), (3, m.scl.val), (5, t.code), (32, m.disp.toNat), (7, m.idx.code), (7, m.base.code), (7, d.val)])
  | .atomAdd h t sc d m => some (h, 0x13, 4, [(5, 1), (3, optScopeCode sc), (3, m.scl.val), (5, t.code), (32, m.disp.toNat), (7, m.idx.code), (7, m.base.code), (7, d.val)])
  | .atomAnd h t sc d m => some (h, 0x13, 4, [(5, 2), (3, optScopeCode sc), (3, m.scl.val), (5, t.code), (32, m.disp.toNat), (7, m.idx.code), (7, m.base.code), (7, d.val)])
  | .atomOr h t sc d m => some (h, 0x13, 4, [(5, 3), (3, optScopeCode sc), (3, m.scl.val), (5, t.code), (32, m.disp.toNat), (7, m.idx.code), (7, m.base.code), (7, d.val)])
  | .atomXor h t sc d m => some (h, 0x13, 4, [(5, 4), (3, optScopeCode sc), (3, m.scl.val), (5, t.code), (32, m.disp.toNat), (7, m.idx.code), (7, m.base.code), (7, d.val)])
  | .atomMin h t sc d m => some (h, 0x13, 4, [(5, 5), (3, optScopeCode sc), (3, m.scl.val), (5, t.code), (32, m.disp.toNat), (7, m.idx.code), (7, m.base.code), (7, d.val)])
  | .atomMax h t sc d m => some (h, 0x13, 4, [(5, 6), (3, optScopeCode sc), (3, m.scl.val), (5, t.code), (32, m.disp.toNat), (7, m.idx.code), (7, m.base.code), (7, d.val)])
  | .atomCas h t sc d a b disp => some (h, 0x13, 4, [(5, 7), (3, optScopeCode sc), (3, 0), (5, t.code), (32, disp.toNat), (7, b.val), (7, a.code), (7, d.val)])
  | .fence h k sc => some (h, 0x13, 5, [(35, 0), (2, k.code), (3, sc.code), (29, 0)])
  | .vadd h t rm d a b => some (h, 0x20, 0, [(22, 0), (1, b.isX.toNat), (3, 0), (3, rm.code), (5, t.code), (14, 0), (7, b.code), (7, a.code), (7, d.code)])
  | .vsub h t rm d a b => some (h, 0x20, 1, [(22, 0), (1, b.isX.toNat), (3, 0), (3, rm.code), (5, t.code), (14, 0), (7, b.code), (7, a.code), (7, d.code)])
  | .vmul h t rm d a b => some (h, 0x20, 2, [(22, 0), (1, b.isX.toNat), (3, 0), (3, rm.code), (5, t.code), (14, 0), (7, b.code), (7, a.code), (7, d.code)])
  | .vfma h t rm d a b c => some (h, 0x20, 3, [(21, 0), (1, c.isX.toNat), (1, b.isX.toNat), (3, 0), (3, rm.code), (5, t.code), (7, 0), (7, c.code), (7, b.code), (7, a.code), (7, d.code)])
  | .vfms h t rm d a b c => some (h, 0x20, 4, [(21, 0), (1, c.isX.toNat), (1, b.isX.toNat), (3, 0), (3, rm.code), (5, t.code), (7, 0), (7, c.code), (7, b.code), (7, a.code), (7, d.code)])
  | .vfnma h t rm d a b c => some (h, 0x20, 5, [(21, 0), (1, c.isX.toNat), (1, b.isX.toNat), (3, 0), (3, rm.code), (5, t.code), (7, 0), (7, c.code), (7, b.code), (7, a.code), (7, d.code)])
  | .vdiv h t rm d a b => some (h, 0x20, 6, [(22, 0), (1, b.isX.toNat), (3, 0), (3, rm.code), (5, t.code), (14, 0), (7, b.code), (7, a.code), (7, d.code)])
  | .vsqrt h t rm d a => some (h, 0x20, 7, [(26, 0), (3, rm.code), (5, t.code), (21, 0), (7, a.code), (7, d.code)])
  | .vmin h t d a b => some (h, 0x20, 8, [(22, 0), (1, b.isX.toNat), (6, 0), (5, t.code), (14, 0), (7, b.code), (7, a.code), (7, d.code)])
  | .vmax h t d a b => some (h, 0x20, 9, [(22, 0), (1, b.isX.toNat), (6, 0), (5, t.code), (14, 0), (7, b.code), (7, a.code), (7, d.code)])
  | .vabs h t d a => some (h, 0x20, 10, [(29, 0), (5, t.code), (21, 0), (7, a.code), (7, d.code)])
  | .vneg h t d a => some (h, 0x20, 11, [(29, 0), (5, t.code), (21, 0), (7, a.code), (7, d.code)])
  | .vcmp h c t d a b => some (h, 0x20, 12, [(3, c.code), (19, 0), (1, b.isX.toNat), (6, 0), (5, t.code), (14, 0), (7, b.code), (7, a.code), (7, d.val)])
  | .vclass h t d a => some (h, 0x20, 13, [(29, 0), (5, t.code), (21, 0), (7, a.code), (7, d.code)])
  | .twosum h t rm d e a b => some (h, 0x20, 14, [(22, 0), (1, b.isX.toNat), (3, 0), (3, rm.code), (5, t.code), (7, e.code), (7, 0), (7, b.code), (7, a.code), (7, d.code)])
  | .viadd h sat t d a b => some (h, 0x21, 0, [(1, sat.toNat), (21, 0), (1, b.isX.toNat), (6, 0), (5, t.code), (14, 0), (7, b.code), (7, a.code), (7, d.code)])
  | .visub h sat t d a b => some (h, 0x21, 1, [(1, sat.toNat), (21, 0), (1, b.isX.toNat), (6, 0), (5, t.code), (14, 0), (7, b.code), (7, a.code), (7, d.code)])
  | .vimul h t d a b => some (h, 0x21, 2, [(22, 0), (1, b.isX.toNat), (6, 0), (5, t.code), (14, 0), (7, b.code), (7, a.code), (7, d.code)])
  | .vimulh h t d a b => some (h, 0x21, 3, [(22, 0), (1, b.isX.toNat), (6, 0), (5, t.code), (14, 0), (7, b.code), (7, a.code), (7, d.code)])
  | .vimad h t d a b c => some (h, 0x21, 4, [(21, 0), (1, c.isX.toNat), (1, b.isX.toNat), (6, 0), (5, t.code), (7, 0), (7, c.code), (7, b.code), (7, a.code), (7, d.code)])
  | .vimin h t d a b => some (h, 0x21, 5, [(22, 0), (1, b.isX.toNat), (6, 0), (5, t.code), (14, 0), (7, b.code), (7, a.code), (7, d.code)])
  | .vimax h t d a b => some (h, 0x21, 6, [(22, 0), (1, b.isX.toNat), (6, 0), (5, t.code), (14, 0), (7, b.code), (7, a.code), (7, d.code)])
  | .vand h t d a b => some (h, 0x21, 7, [(22, 0), (1, b.isX.toNat), (6, 0), (5, t.code), (14, 0), (7, b.code), (7, a.code), (7, d.code)])
  | .vor h t d a b => some (h, 0x21, 8, [(22, 0), (1, b.isX.toNat), (6, 0), (5, t.code), (14, 0), (7, b.code), (7, a.code), (7, d.code)])
  | .vxor h t d a b => some (h, 0x21, 9, [(22, 0), (1, b.isX.toNat), (6, 0), (5, t.code), (14, 0), (7, b.code), (7, a.code), (7, d.code)])
  | .vshl h t d a b => some (h, 0x21, 10, [(22, 0), (1, b.isX.toNat), (6, 0), (5, t.code), (14, 0), (7, b.code), (7, a.code), (7, d.code)])
  | .vshr h t d a b => some (h, 0x21, 11, [(22, 0), (1, b.isX.toNat), (6, 0), (5, t.code), (14, 0), (7, b.code), (7, a.code), (7, d.code)])
  | .vsra h t d a b => some (h, 0x21, 12, [(22, 0), (1, b.isX.toNat), (6, 0), (5, t.code), (14, 0), (7, b.code), (7, a.code), (7, d.code)])
  | .vclip h t d a b c => some (h, 0x21, 13, [(21, 0), (1, c.isX.toNat), (1, b.isX.toNat), (6, 0), (5, t.code), (7, 0), (7, c.code), (7, b.code), (7, a.code), (7, d.code)])
  | .vmov h t d a => some (h, 0x22, 0, [(29, 0), (5, t.code), (21, 0), (7, a.code), (7, d.code)])
  | .vbcast h t d a => some (h, 0x22, 1, [(29, 0), (5, t.code), (21, 0), (7, a.code), (7, d.code)])
  | .viota h row t d => some (h, 0x22, 2, [(1, row.toNat), (28, 0), (5, t.code), (28, 0), (7, d.code)])
  | .vsel h t d a b c => some (h, 0x22, 3, [(22, 0), (1, b.isX.toNat), (6, 0), (5, t.code), (7, 0), (7, c.val), (7, b.code), (7, a.code), (7, d.code)])
  | .vldi h t d imm => some (h, 0x22, 4, [(2, 0), (5, t.code), (48, imm.toNat), (7, 0), (7, d.code)])
  | .setvl h t d a => some (h, 0x23, 0, [(1, 0), (28, 0), (5, t.code), (21, 0), (7, a.val), (7, d.code)])
  | .setvlRel h d => some (h, 0x23, 0, [(1, 1), (61, 0), (7, d.code)])
  | .setrc h t d a => some (h, 0x23, 1, [(29, 0), (5, t.code), (21, 0), (7, a.val), (7, d.code)])
  | .alloc h d a => some (h, 0x23, 2, [(55, 0), (7, a.val), (7, d.code)])
  | .shrink h d a => some (h, 0x23, 3, [(55, 0), (7, a.val), (7, d.code)])
  | .strip h t d a b c sa sb sc => some (h, 0x23, 4, [(2, sa.val), (2, sb.val), (2, sc.val), (23, 0), (5, t.code), (7, 0), (7, c.val), (7, b.val), (7, a.val), (7, d.val)])
  | .vrcp h t rm d a => some (h, 0x30, 0, [(26, 0), (3, rm.code), (5, t.code), (21, 0), (7, a.code), (7, d.code)])
  | .vrsq h t rm d a => some (h, 0x30, 1, [(26, 0), (3, rm.code), (5, t.code), (21, 0), (7, a.code), (7, d.code)])
  | .vexp2 h t rm d a => some (h, 0x30, 2, [(26, 0), (3, rm.code), (5, t.code), (21, 0), (7, a.code), (7, d.code)])
  | .vlog2 h t rm d a => some (h, 0x30, 3, [(26, 0), (3, rm.code), (5, t.code), (21, 0), (7, a.code), (7, d.code)])
  | .vtanh h t rm d a => some (h, 0x30, 4, [(26, 0), (3, rm.code), (5, t.code), (21, 0), (7, a.code), (7, d.code)])
  | .vcvt h t u rm d a => some (h, 0x31, 0, [(18, 0), (5, u.code), (3, 0), (3, rm.code), (5, t.code), (21, 0), (7, a.code), (7, d.code)])
  | .vqblk h t u rm off d c a => some (h, 0x31, 1, [(11, 0), (7, off.toNat), (5, u.code), (3, 0), (3, rm.code), (5, t.code), (7, 0), (7, c.code), (7, 0), (7, a.code), (7, d.code)])
  | .vdqblk h t u rm off d a c => some (h, 0x31, 2, [(11, 0), (7, off.toNat), (5, u.code), (3, 0), (3, rm.code), (5, t.code), (7, 0), (7, c.code), (7, 0), (7, a.code), (7, d.code)])
  | .vplane h d a => some (h, 0x31, 3, [(29, 0), (5, 17), (21, 0), (7, a.code), (7, d.code)])
  | .vunplane h p d a => some (h, 0x31, 4, [(4, p.toNat), (51, 0), (7, a.code), (7, d.code)])
  | .vrand h t d => some (h, 0x31, 5, [(29, 0), (5, t.code), (28, 0), (7, d.code)])
  | .klog h lut d a b => some (h, 0x32, 0, [(4, lut.toNat), (44, 0), (7, b.val), (7, a.val), (7, d.val)])
  | .kcnt h d a => some (h, 0x32, 1, [(55, 0), (7, a.val), (7, d.code)])
  | .kfirst h d a => some (h, 0x32, 2, [(55, 0), (7, a.val), (7, d.code)])
  | .mpush h a => some (h, 0x32, 3, [(55, 0), (7, a.val), (7, 0)])
  | .minv h => some (h, 0x32, 4, [(69, 0)])
  | .mpop h => some (h, 0x32, 5, [(69, 0)])
  | .mbrz h nz off => some (h, 0x32, 6, [(1, nz.toNat), (14, 0), (40, off.toNat), (14, 0)])
  | .vtrip h t d a => some (h, 0x32, 7, [(29, 0), (5, t.code), (21, 0), (7, a.code), (7, d.code)])
  | .mloop h t a off => some (h, 0x32, 8, [(5, t.code), (10, 0), (40, off.toNat), (7, 0), (7, a.code)])
  | .vred h op seg t rm d a => some (h, 0x40, 0, [(3, op.code), (15, 0), (1, seg.toNat), (1, 0), (1, d.isX.toNat), (5, 0), (3, rm.code), (5, t.code), (21, 0), (7, a.code), (7, d.code)])
  | .vredp h seg t d a b => some (h, 0x40, 1, [(18, 0), (1, seg.toNat), (1, b.isSome.toNat), (1, d.isX.toNat), (8, 0), (5, t.code), (7, d.codeE), (7, 0), (7, optVCode b), (7, a.code), (7, d.codeD)])
  | .vscan h op seg t rm d a => some (h, 0x40, 2, [(3, op.code), (15, 0), (1, seg.toNat), (7, 0), (3, rm.code), (5, t.code), (21, 0), (7, a.code), (7, d.code)])
  | .vperm h seg ix t d a b => some (h, 0x40, 3, [(1, ix.toNat), (17, 0), (1, seg.toNat), (10, 0), (5, t.code), (14, 0), (7, b.code), (7, a.code), (7, d.code)])
  | .vslide h seg wrap t d a b => some (h, 0x40, 4, [(1, wrap.toNat), (17, 0), (1, seg.toNat), (10, 0), (5, t.code), (14, 0), (7, b.code), (7, a.code), (7, d.code)])
  | .vzip h seg hi t d a b => some (h, 0x40, 5, [(1, hi.toNat), (17, 0), (1, seg.toNat), (10, 0), (5, t.code), (14, 0), (7, b.code), (7, a.code), (7, d.code)])
  | .vunzip h seg odd t d a b => some (h, 0x40, 6, [(1, odd.toNat), (17, 0), (1, seg.toNat), (10, 0), (5, t.code), (14, 0), (7, b.code), (7, a.code), (7, d.code)])
  | .vtrn h t d a => some (h, 0x40, 7, [(29, 0), (5, t.code), (21, 0), (7, a.code), (7, d.code)])
  | .vcompress h z t d a e => some (h, 0x40, 8, [(1, z.toNat), (28, 0), (5, t.code), (7, e.code), (14, 0), (7, a.code), (7, d.code)])
  | .vexpand h z t d a => some (h, 0x40, 9, [(1, z.toNat), (28, 0), (5, t.code), (21, 0), (7, a.code), (7, d.code)])
  | .vsortk h desc t d e a b => some (h, 0x40, 10, [(1, desc.toNat), (28, 0), (5, t.code), (7, e.code), (7, 0), (7, b.code), (7, a.code), (7, d.code)])
  | .vextr h t d a b => some (h, 0x40, 11, [(29, 0), (5, t.code), (14, 0), (7, b.code), (7, a.code), (7, d.code)])
  | .vinsr h t d a b => some (h, 0x40, 12, [(29, 0), (5, t.code), (14, 0), (7, b.code), (7, a.code), (7, d.code)])
  | .rdv h d => some (h, 0x40, 13, [(62, 0), (7, d.code)])
  | .vld h t d m => some (h, 0x50, 0, [(8, 0), (3, m.scl.val), (5, t.code), (32, m.disp.toNat), (7, m.idx.code), (7, m.base.code), (7, d.code)])
  | .vlds h t d m => some (h, 0x50, 1, [(8, 0), (3, m.scl.val), (5, t.code), (32, m.disp.toNat), (7, m.idx.code), (7, m.base.code), (7, d.code)])
  | .vldx h t ix d a b scl disp => some (h, 0x50, 2, [(1, ix.toNat), (7, 0), (3, scl.val), (5, t.code), (32, disp.toNat), (7, b.code), (7, a.code), (7, d.code)])
  | .vst h t d m => some (h, 0x50, 3, [(8, 0), (3, m.scl.val), (5, t.code), (32, m.disp.toNat), (7, m.idx.code), (7, m.base.code), (7, d.code)])
  | .vsts h t d m => some (h, 0x50, 4, [(8, 0), (3, m.scl.val), (5, t.code), (32, m.disp.toNat), (7, m.idx.code), (7, m.base.code), (7, d.code)])
  | .vstx h t ix d a b scl disp => some (h, 0x50, 5, [(1, ix.toNat), (7, 0), (3, scl.val), (5, t.code), (32, disp.toNat), (7, b.code), (7, a.code), (7, d.code)])
  | .vstu h t ix d a b scl disp => some (h, 0x50, 6, [(1, ix.toNat), (7, 0), (3, scl.val), (5, t.code), (32, disp.toNat), (7, b.code), (7, a.code), (7, d.code)])
  | .vstxa h t ix d a b scl disp => some (h, 0x50, 7, [(1, ix.toNat), (7, 0), (3, scl.val), (5, t.code), (32, disp.toNat), (7, b.code), (7, a.code), (7, d.code)])
  | .vfence h k sc => some (h, 0x50, 8, [(35, 0), (2, k.code), (3, sc.code), (29, 0)])
  | .pref h l2 d m => some (h, 0x50, 9, [(1, l2.toNat), (7, 0), (3, m.scl.val), (5, 0), (32, m.disp.toNat), (7, m.idx.code), (7, m.base.code), (7, d.code)])
  | .gset h d a b => some (h, 0x51, 0, [(1, 0), (47, 0), (7, b.code), (7, a.code), (7, d.val)])
  | .gsetFree h d => some (h, 0x51, 0, [(1, 1), (61, 0), (7, d.val)])
  | .vgred h op t d a c => some (h, 0x51, 1, [(2, op.code), (27, 0), (5, t.code), (7, 0), (7, c.val), (7, 0), (7, a.code), (7, d.code)])
  | .vgall h t d a c => some (h, 0x51, 2, [(29, 0), (5, t.code), (7, 0), (7, c.val), (7, 0), (7, a.code), (7, d.code)])
  | .vgrs h op t d a c => some (h, 0x51, 3, [(2, op.code), (27, 0), (5, t.code), (7, 0), (7, c.val), (7, 0), (7, a.code), (7, d.code)])
  | .vgbc h t d a c b => some (h, 0x51, 4, [(29, 0), (5, t.code), (7, 0), (7, c.val), (7, b.code), (7, a.code), (7, d.code)])
  | .stream h d a => some (h, 0x52, 0, [(55, 0), (7, a.code), (7, d.code)])
  | .armw h d m => some (h, 0x52, 1, [(8, 0), (3, m.scl.val), (5, 0), (32, m.disp.toNat), (7, m.idx.code), (7, m.base.code), (7, d.code)])
  | .waitw h d m => some (h, 0x52, 2, [(8, 0), (3, m.scl.val), (5, 0), (32, m.disp.toNat), (7, m.idx.code), (7, m.base.code), (7, d.code)])
  | .jobwait h d a => some (h, 0x52, 3, [(55, 0), (7, a.code), (7, d.code)])
  | .ovopen h d => some (h, 0x60, 0, [(1, 0), (61, 0), (7, d.code)])
  | .ovopenTry h d c => some (h, 0x60, 0, [(1, 1), (40, 0), (7, c.val), (14, 0), (7, d.code)])
  | .ovset h a => some (h, 0x60, 1, [(55, 0), (7, a.code), (7, 0)])
  | .ovretire h d a => some (h, 0x60, 2, [(55, 0), (7, a.code), (7, d.code)])
  | .ovcommit h sc d a => some (h, 0x60, 3, [(23, 0), (3, sc.code), (29, 0), (7, a.code), (7, d.code)])
  | .ldo h t d a b disp => some (h, 0x60, 4, [(11, 0), (5, t.code), (32, disp.toNat), (7, b.code), (7, a.code), (7, d.code)])
  | .vldo h t d a b disp => some (h, 0x60, 5, [(11, 0), (5, t.code), (32, disp.toNat), (7, b.code), (7, a.code), (7, d.code)])
  | .ovstat h sel1 d a => some (h, 0x60, 6, [(2, sel1.val), (53, 0), (7, a.code), (7, d.code)])
  | .carve h d a => some (h, 0x68, 0, [(55, 0), (7, a.code), (7, d.code)])
  | .cclean h l2 d m => some (h, 0x68, 1, [(1, l2.toNat), (7, 0), (3, m.scl.val), (5, 0), (32, m.disp.toNat), (7, m.idx.code), (7, m.base.code), (7, d.code)])
  | .cinv h l2 d m => some (h, 0x68, 2, [(1, l2.toNat), (7, 0), (3, m.scl.val), (5, 0), (32, m.disp.toNat), (7, m.idx.code), (7, m.base.code), (7, d.code)])
  | .cflush h l2 d m => some (h, 0x68, 3, [(1, l2.toNat), (7, 0), (3, m.scl.val), (5, 0), (32, m.disp.toNat), (7, m.idx.code), (7, m.base.code), (7, d.code)])
  | .tlbiAll h => some (h, 0x68, 4, [(2, 0), (67, 0)])
  | .tlbiAsid h a => some (h, 0x68, 4, [(2, 1), (53, 0), (7, a.code), (7, 0)])
  | .tlbiRange h a b c => some (h, 0x68, 4, [(2, 2), (39, 0), (7, c.code), (7, b.code), (7, a.code), (7, 0)])
  | .digest h d a => some (h, 0x68, 5, [(1, 0), (54, 0), (7, a.code), (7, d.code)])
  | .digestRng h d a b => some (h, 0x68, 5, [(1, 1), (47, 0), (7, b.code), (7, a.code), (7, d.code)])
  | .budget h d cls res => some (h, 0x68, 6, [(4, cls.val), (2, res.code), (1, 0), (55, 0), (7, d.code)])
  | .budgetW h d a cls res => some (h, 0x68, 6, [(4, cls.val), (2, res.code), (1, 1), (48, 0), (7, a.code), (7, d.code)])
  | .launch h d a => some (h, 0x88, 0, [(1, 0), (54, 0), (7, a.code), (7, d.code)])
  | .launchTry h d a => some (h, 0x88, 0, [(1, 1), (54, 0), (7, a.code), (7, d.code)])
  | .trig h => some (h, 0x88, 1, [(69, 0)])
  | .bar h l => some (h, 0x88, 2, [(3, l.val), (66, 0)])
  | .waitl h sc d a b => some (h, 0x88, 3, [(23, 0), (3, sc.code), (22, 0), (7, b.code), (7, a.code), (7, d.code)])
  | .lvlid h lev sel1 d => some (h, 0x88, 4, [(3, lev.val), (3, sel1.code), (56, 0), (7, d.code)])
  | .mattach h d a => some (h, 0x70, 0, [(1, 0), (54, 0), (7, a.code), (7, d.code)])
  | .mattachPair h d a => some (h, 0x70, 0, [(1, 1), (54, 0), (7, a.code), (7, d.code)])
  | .mdetach h => some (h, 0x70, 1, [(69, 0)])
  | .mwld h dst d a => some (h, 0x70, 2, [(2, dst.code), (53, 0), (7, a.code), (7, d.code)])
  | .mstream h c d a => some (h, 0x70, 3, [(8, c.m.toNat), (7, c.row0.toNat), (5, c.at_.code), (1, c.asc.toNat), (1, c.cons.toNat), (2, 0), (13, c.kl.toNat), (11, c.pitch.toNat), (7, 0), (7, a.code), (7, d.code)])
  | .mzeroFp h row0 m => some (h, 0x70, 4, [(7, row0.toNat), (8, m.toNat), (1, 0), (53, 0)])
  | .mzeroInt h row0 m => some (h, 0x70, 4, [(7, row0.toNat), (8, m.toNat), (1, 1), (53, 0)])
  | .mdrain h c a b => some (h, 0x70, 5, [(7, c.row0.toNat), (8, c.m.toNat), (9, c.col0.toNat), (5, c.t.code), (3, c.rm.code), (1, 0), (3, c.km.val), (1, c.kn.toNat), (1, c.zero.toNat), (10, 0), (7, b.code), (7, a.code), (7, 0)])
  | .mdrainIdx h c a d => some (h, 0x70, 5, [(7, c.row0.toNat), (8, c.m.toNat), (9, c.col0.toNat), (5, c.t.code), (3, c.rm.code), (1, 1), (3, c.km.val), (1, c.kn.toNat), (1, c.zero.toNat), (17, 0), (7, a.code), (7, d.code)])
  | .msave h d m => some (h, 0x70, 6, [(8, 0), (3, m.scl.val), (5, 0), (32, m.disp.toNat), (7, m.idx.code), (7, m.base.code), (7, d.code)])
  | .mrestore h d m => some (h, 0x70, 7, [(8, 0), (3, m.scl.val), (5, 0), (32, m.disp.toNat), (7, m.idx.code), (7, m.base.code), (7, d.code)])
  | .mlineEmpty h d m => some (h, 0x70, 8, [(2, 0), (6, 0), (3, m.scl.val), (5, 0), (32, m.disp.toNat), (7, m.idx.code), (7, m.base.code), (7, d.code)])
  | .mlineFull h d m => some (h, 0x70, 8, [(2, 1), (6, 0), (3, m.scl.val), (5, 0), (32, m.disp.toNat), (7, m.idx.code), (7, m.base.code), (7, d.code)])
  | .mlineWfull h d m => some (h, 0x70, 8, [(2, 2), (6, 0), (3, m.scl.val), (5, 0), (32, m.disp.toNat), (7, m.idx.code), (7, m.base.code), (7, d.code)])
  | .mlineWempty h d m => some (h, 0x70, 8, [(2, 3), (6, 0), (3, m.scl.val), (5, 0), (32, m.disp.toNat), (7, m.idx.code), (7, m.base.code), (7, d.code)])
  | .mwait h d a => some (h, 0x70, 9, [(55, 0), (7, a.code), (7, d.code)])
  | .mstat h sel1 d a => some (h, 0x70, 10, [(2, sel1.val), (53, 0), (7, a.code), (7, d.code)])
  | .tvload h d a g => some (h, 0x80, 0, [(1, 0), (47, 0), (7, g.val), (7, a.code), (7, d.code)])
  | .tvloadFree h a => some (h, 0x80, 0, [(1, 1), (54, 0), (7, a.code), (7, 0)])
  | .tvstart h chn d a => some (h, 0x80, 1, [(5, chn.val), (50, 0), (7, a.code), (7, d.code)])
  | .tvwait h d a => some (h, 0x80, 2, [(55, 0), (7, a.code), (7, d.code)])
  | .tvstat h sel1 d a => some (h, 0x80, 3, [(2, sel1.val), (53, 0), (7, a.code), (7, d.code)])
  | .gzlook h d a => some (h, 0x81, 0, [(55, 0), (7, a.code), (7, d.code)])
  | .gzupdate h d a => some (h, 0x81, 1, [(55, 0), (7, a.code), (7, d.code)])
  | .gzver h ver d a => some (h, 0x81, 2, [(2, ver.val), (53, 0), (7, a.code), (7, d.code)])
  | .gzpin h n d a b => some (h, 0x81, 3, [(13, n.toNat), (1, 0), (34, 0), (7, b.code), (7, a.code), (7, d.code)])
  | .gzpinUn h n d a b => some (h, 0x81, 3, [(13, n.toNat), (1, 1), (34, 0), (7, b.code), (7, a.code), (7, d.code)])
  | .gzwait h d a => some (h, 0x81, 4, [(55, 0), (7, a.code), (7, d.code)])
  | .mtick h d => some (h, 0x90, 0, [(1, 0), (61, 0), (7, d.code)])
  | .mtickOrd h d => some (h, 0x90, 0, [(1, 1), (61, 0), (7, d.code)])
  | .svmark h code a => some (h, 0x90, 1, [(16, code.toNat), (39, 0), (7, a.code), (7, 0)])
  | .svsampOff h => some (h, 0x90, 2, [(69, 0)])
  | .svsamp h n a => some (h, 0x90, 2, [(5, n.toNat), (50, 0), (7, a.code), (7, 0)])
  | .svread h sel1 d a => some (h, 0x90, 3, [(2, sel1.val), (53, 0), (7, a.code), (7, d.code)])
  | .svstop h d a => some (h, 0x90, 4, [(55, 0), (7, a.code), (7, d.code)])
  | .clklock h p d => some (h, 0x90, 5, [(3, p.val), (1, 0), (58, 0), (7, d.code)])
  | .clklockOff h d => some (h, 0x90, 5, [(3, 0), (1, 1), (58, 0), (7, d.code)])
  | .dhash h d a b => some (h, 0x98, 0, [(48, 0), (7, b.code), (7, a.code), (7, d.code)])
  | .dverify h mode d a => some (h, 0x98, 1, [(2, mode.code), (53, 0), (7, a.code), (7, d.code)])
  | .dsign h d a b => some (h, 0x98, 2, [(2, 0), (46, 0), (7, b.code), (7, a.code), (7, d.code)])
  | .dsignAtt h d a => some (h, 0x98, 2, [(2, 1), (53, 0), (7, a.code), (7, d.code)])
  | .dsignPub h d => some (h, 0x98, 2, [(2, 2), (60, 0), (7, d.code)])
  | .fuserd h d a => some (h, 0x98, 3, [(55, 0), (7, a.code), (7, d.code)])
  | .keywipe h d a => some (h, 0x98, 4, [(1, 0), (54, 0), (7, a.code), (7, d.code)])
  | .keywipeAll h d => some (h, 0x98, 4, [(1, 1), (61, 0), (7, d.code)])
  | .mextend h idx a b => some (h, 0x98, 5, [(3, idx.val), (1, 0), (44, 0), (7, b.code), (7, a.code), (7, 0)])
  | .mextendDbg h d => some (h, 0x98, 5, [(4, 15), (58, 0), (7, d.code)])
  | .lcset h t d => some (h, 0x98, 6, [(35, 0), (3, t.code), (24, 0), (7, d.code)])
  | .dbgopen h mask d => some (h, 0x98, 7, [(32, mask.toNat), (30, 0), (7, d.code)])
  | .waitWake _ => none
  | .queueDeadlock _ => none
  | .rendezvousComplete _ _ => none
  | .laneArrive _ _ _ => none
  | .vectorTrapCommit _ => none
  | .mzeroApply _ => none
  | .streamChunk _ => none
  | .weightSwap _ => none
  | .barRelease _ _ _ => none
  | .legSend _ _ _ _ _ _ _ => none
  | .legRecv _ _ _ _ _ _ => none
  | .legReduce _ _ _ _ _ _ _ _ => none
  | .legCopy _ _ _ _ _ _ _ => none
  | .legWait _ => none
  | .legSignal _ _ _ => none
  | .legReserve _ _ _ _ => none
  | .legRepeat _ _ _ => none
  | .legEnd => none
  | .traverseRunStart _ => none
  | .sendLand _ => none
  | .signalArrive _ => none
  | .reserveClaimArrive _ => none
  | .reserveRound _ _ _ => none
  | .legAckArrive _ => none
  | .stopNotice _ _ => none
  | .cardStart _ => none
  | .streamCopyJob _ => none
  | .weightLoadJob _ => none
  | .gzLookupJob _ => none
  | .gzUpdateJob _ => none
  | .gzageHalve _ => none
  | .cardComplete _ => none
  | .ringWptrWrite _ _ => none
  | .ringReset _ _ => none
  | .ringEntryRead _ => none
  | .priorityAge _ => none
  | .depEval _ => none
  | .launchPlace _ => none
  | .podAdmission _ _ => none
  | .launchComplete _ => none
  | .preemptWrite _ => none
  | .cancelWrite _ => none
  | .gangPreempt _ _ => none
  | .gangResume _ _ => none
  | .hostMrd _ => none
  | .hostDrd _ _ _ _ => none
  | .hostDwr _ _ _ _ => none
  | .hostCpl _ _ _ => none
  | .regWrite _ _ => none
  | .fqrespRetry _ _ => none
  | .fqrespDecline _ _ => none
  | .pageWalkDone => none
  | .faultRecordPost _ => none
  | .sideLogPerform _ => none
  | .sideLogPageTrap _ => none
  | .tagEndOvstaleTrap _ => none
  | .roundProtTrap _ => none
  | .wcbDrainTimeout _ => none
  | .l1LeaseExpire _ => none
  | .borderCopyInvalidate _ _ => none
  | .budgetPeriod => none
  | .roundApply _ => none
  | .trainReceive _ => none
  | .trainAck _ => none
  | .trainRefusal _ => none
  | .ualinkReadServe _ => none
  | .ualinkResponse _ _ => none
  | .tlbicmdAll => none
  | .tlbicmdAsid _ => none
  | .tlbicmdRange _ => none
  | .tlbicmdDone => none
  | .uncorrected _ => none
  | .scrub _ _ => none
  | .ovgaddWrite _ => none
  | .poolGrowDone => none
  | .gzdsyncWrite _ => none
  | .gzprobeWrite _ => none
  | .gzprobeDone => none
  | .tickAlign _ => none
  | .tickAlignLoss => none
  | .sampleRecord _ _ _ => none
  | .stopFire => none
  | .svrunWrite _ => none
  | .svstatDisarm _ => none
  | .rlctlWrite _ => none
  | .rlwptrSupply _ => none
  | .replayInputArrive _ => none
  | .powerGoodReset => none
  | .dwinWrite _ => none
  | .dmloadWrite _ => none
  | .unitReady _ => none
  | .unitLost _ => none
  | .cdisWrite _ _ => none
  | .pcapWrite _ _ => none
  | .powerLimitRaise => none
  | .powerLimitRelax => none
  | .thermalLimitRaise => none
  | .thermalTrip => none
  | .thermalLimitRelax => none
  | .pointChange => none
  | .kctlLoad _ => none
  | .kctlClearSeal _ => none
  | .dunlkAbort => none
  | .dchalDraw => none
  | .debugScan => none
  | .debugMemrd _ => none
  | .debugMemwr _ _ => none
  | .debugSvstop _ => none
  | .i3cEntdaa _ => none
  | .i3cRstdaa => none
  | .i3cGetpid => none
  | .i3cGetbcr => none
  | .i3cGetdcr => none
  | .i3cGetstatus => none
  | .i3cPrivateWrite _ _ => none
  | .laneComplete _ _ _ => none
  | .meridianTick => none
  | .ualinkErrorResponse _ => none
  | .gzdsyncDone => none
  | .i3cPrivateRead _ => none

/-- The header fields above the body (02 R72). -/
def Hdr.fields (h : Hdr) (maj fn : Nat) : List (Nat × Nat) :=
  [(1, h.b.toNat), (1, h.e.toNat), (1, h.y.toNat), (2, h.ch.val), (3, h.gm.val), (1, h.gmn.toNat), (3, h.gp.val),
    (1, h.gpn.toNat), (6, fn), (8, maj)]

/-- The word of an instruction; none for legs and events. -/
def encode (i : Instr) : Option Word96 :=
  i.fields.map fun (h, maj, fn, fs) => BitVec.ofNat 96 (pack ((69, pack fs) :: h.fields maj fn))

/-- The code of a coefficient (12 R481): 0, 1 and 3 for 0, +1 and -1. -/
def coefCode (k : Int) : Nat := if k = 1 then 1 else if k = -1 then 3 else 0

/-- A coefficient by code; 2 is illegal (12 R481, R484). -/
def coef? : Nat → Option Int
  | 0 => some 0 | 1 => some 1 | 3 => some (-1)
  | _ => none

/-- DT of REDUCE (12 R484). -/
def LegTy.code : LegTy → Nat
  | .f32 => 0 | .bf16 => 1 | .i32 => 2

/-- DT of REDUCE (12 R484). -/
def legTy? : Nat → Option LegTy
  | 0 => some .f32 | 1 => some .bf16 | 2 => some .i32
  | _ => none

/-- The fields of a leg as numbers (12 R481). -/
structure LegRaw where
  op : Nat
  fl : Nat
  p : Nat
  rel : Nat
  kr : Nat
  lv : Nat
  ki : Nat
  k0 : Nat
  sa : Nat
  sb : Nat
  sc : Nat
  len : Nat
  off : Nat
  deriving DecidableEq, Repr

/-- Widths of a leg's fields, least significant first, reserved fields among them (12 R481). -/
def legWidths : List Nat := [8, 8, 12, 3, 1, 3, 2, 1, 2, 12, 4, 4, 4, 32, 32]

/-- The fields of a leg; none where a reserved field is not zero (12 R486 check 1). -/
def legRaw? (w : Nat) : Option LegRaw :=
  match unpack legWidths w with
  | [op, fl, p, 0, rel, 0, kr, lv, ki, k0, sa, sb, sc, len, off] =>
    some ⟨op, fl, p, rel, kr, lv, ki, k0, sa, sb, sc, len, off⟩
  | _ => none

/-- The number of a leg's fields. -/
def LegRaw.pack (r : LegRaw) : Nat :=
  Sys2Proof.pack [(8, r.op), (8, r.fl), (12, r.p), (3, 0), (1, r.rel), (3, 0), (2, r.kr), (1, r.lv), (2, r.ki),
    (12, r.k0), (4, r.sa), (4, r.sb), (4, r.sc), (32, r.len), (32, r.off)]

/-- No chunk fields (12 R483). -/
def LegRaw.noChunk (r : LegRaw) : Bool :=
  r.kr == 0 && r.ki == 0 && r.lv == 0 && r.k0 == 0 && r.off == 0

/-- No peer fields (12 R483). -/
def LegRaw.noPeer (r : LegRaw) : Bool := r.rel == 0 && r.p == 0

/-- The peer fields. -/
def LegRaw.peer (r : LegRaw) : Peer := ⟨r.rel == 1, BitVec.ofNat 12 r.p⟩

/-- The chunk fields, with legal coefficient codes. -/
def LegRaw.chunk? (r : LegRaw) : Option Chunk := do
  return ⟨← coef? r.kr, ← coef? r.ki, r.lv == 1, BitVec.ofNat 12 r.k0, BitVec.ofNat 32 r.off, BitVec.ofNat 32 r.len⟩

/-- A fourth of a byte: bits [lo+1:lo] of the flags. -/
def fl2 (fl lo : Nat) : Nat := fl / 2 ^ lo % 4

/-- Bit `lo` of the flags. -/
def fl1 (fl lo : Nat) : Bool := fl / 2 ^ lo % 2 == 1

/-- A leg from its fields (12 R483, R484); none where a field that the leg does not use is not zero or a code is
illegal. -/
noncomputable def legOf (r : LegRaw) : Option Instr :=
  let slot (n : Nat) : Fin 16 := Fin.ofNat 16 n
  let s := (slot r.sa, slot r.sb, slot r.sc)
  match r.op with
  | 1 => do
    let c ← r.chunk?
    if r.fl < 4 && (fl1 r.fl 0 || r.sc == 0) then
      return .legSend (fl1 r.fl 0) (fl1 r.fl 1) r.peer s.1 s.2.1 s.2.2 c
    else none
  | 2 => do
    let c ← r.chunk?
    if r.fl < 64 && fl2 r.fl 2 == 0 && !fl1 r.fl 0 && r.sb == 0 && r.sc == 0 then
      return .legRecv (fl1 r.fl 1) (fl1 r.fl 4) (fl1 r.fl 5) r.peer s.1 c
    else none
  | 3 => do
    let c ← r.chunk?
    let op ← gOp? (fl2 r.fl 2)
    let dt ← legTy? (fl2 r.fl 6)
    if fl2 r.fl 0 == 0 && r.noPeer then
      return .legReduce op dt (fl1 r.fl 4) (fl1 r.fl 5) s.1 s.2.1 s.2.2 c
    else none
  | 4 => do
    let c ← r.chunk?
    if r.fl < 64 && fl2 r.fl 0 == 0 && fl2 r.fl 2 < 2 && r.rel == 0 && r.sb == 0 then
      return .legCopy (fl1 r.fl 2) (fl1 r.fl 4) (fl1 r.fl 5) (BitVec.ofNat 12 r.p) s.1 s.2.2 c
    else none
  | 5 =>
    if r.fl % 4 == 0 && r.fl < 16 && r.noPeer && r.sb == 0 && r.sc == 0 then
      match r.fl / 4 with
      | 0 => if r.noChunk then some (.legWait (.arr s.1 (BitVec.ofNat 32 r.len))) else none
      | 1 => if r.noChunk && r.sa == 0 && r.len == 0 then some (.legWait .drain) else none
      | 2 => r.chunk?.map fun c => .legWait (.full s.1 c)
      | _ => r.chunk?.map fun c => .legWait (.empty s.1 c)
    else none
  | 6 =>
    if r.fl == 0 && r.noChunk && r.sa == 0 && r.sc == 0 then
      some (.legSignal r.peer s.2.1 (BitVec.ofNat 32 r.len))
    else none
  | 7 =>
    if (r.fl == 0 || r.fl == 4) && r.noChunk && r.sa == 0 && r.sc == 0 then
      some (.legReserve (r.fl == 4) r.peer s.2.1 (BitVec.ofNat 32 r.len))
    else none
  | 8 =>
    if r.fl == 0 && r.noPeer && r.kr == 0 && r.ki == 0 && r.k0 == 0 && r.sa == 0 && r.sb == 0 && r.sc == 0 then
      some (.legRepeat (r.lv == 1) (BitVec.ofNat 32 r.len) (BitVec.ofNat 32 r.off))
    else none
  | 9 =>
    if r.fl == 0 && r.noPeer && r.noChunk && r.sa == 0 && r.sb == 0 && r.sc == 0 && r.len == 0 then some .legEnd
    else none
  | _ => none

/-- The well-formed leg of 128 bits; none faults the channel with ILLEG (12 R486). -/
noncomputable def decodeLeg (w : BitVec 128) : Option Instr := ((legRaw? w.toNat).bind legOf).filter Instr.wf

/-- A leg's fields with a chunk. -/
def legRawChunk (op fl : Nat) (p : Peer) (sa sb sc : Nat) (c : Chunk) : LegRaw :=
  ⟨op, fl, p.p.toNat, p.rel.toNat, coefCode c.kr, c.lv.toNat, coefCode c.ki, c.k0.toNat, sa, sb, sc, c.len.toNat,
    c.off.toNat⟩

/-- A leg's fields without a chunk. -/
def legRawPlain (op fl : Nat) (p : Peer) (sa sb sc len : Nat) : LegRaw :=
  ⟨op, fl, p.p.toNat, p.rel.toNat, 0, 0, 0, 0, sa, sb, sc, len, 0⟩

/-- The fields of a leg; none for every other constructor. -/
def Instr.legFields : Instr → Option LegRaw
  | .legSend row fin p sa sb sc c =>
    some (legRawChunk 1 (row.toNat + 2 * fin.toNat) p sa.val sb.val sc.val c)
  | .legRecv fin full arr p sa c =>
    some (legRawChunk 2 (2 * fin.toNat + 16 * full.toNat + 32 * arr.toNat) p sa.val 0 0 c)
  | .legReduce op dt full arr sa sb sc c =>
    some (legRawChunk 3 (4 * op.code + 16 * full.toNat + 32 * arr.toNat + 64 * dt.code) ⟨false, 0⟩ sa.val sb.val sc.val c)
  | .legCopy cvt full arr stride sa sc c =>
    some (legRawChunk 4 (4 * cvt.toNat + 16 * full.toNat + 32 * arr.toNat) ⟨false, stride⟩ sa.val 0 sc.val c)
  | .legWait (.arr sa n) => some (legRawPlain 5 0 ⟨false, 0⟩ sa.val 0 0 n.toNat)
  | .legWait .drain => some (legRawPlain 5 4 ⟨false, 0⟩ 0 0 0 0)
  | .legWait (.full sa c) => some (legRawChunk 5 8 ⟨false, 0⟩ sa.val 0 0 c)
  | .legWait (.empty sa c) => some (legRawChunk 5 12 ⟨false, 0⟩ sa.val 0 0 c)
  | .legSignal p sb v => some (legRawPlain 6 0 p 0 sb.val 0 v.toNat)
  | .legReserve spill p sb rows => some (legRawPlain 7 (4 * spill.toNat) p 0 sb.val 0 rows.toNat)
  | .legRepeat lv count target =>
    some ⟨8, 0, 0, 0, 0, lv.toNat, 0, 0, 0, 0, 0, count.toNat, target.toNat⟩
  | .legEnd => some (legRawPlain 9 0 ⟨false, 0⟩ 0 0 0 0)
  | .br _ _ _ _ _ => none
  | .jmp _ _ => none
  | .call _ _ _ => none
  | .callr _ _ _ => none
  | .ret _ _ => none
  | .pushb _ _ _ => none
  | .brq _ _ _ => none
  | .loop _ _ _ _ => none
  | .lexit _ _ => none
  | .nop _ => none
  | .trap _ _ => none
  | .eret _ => none
  | .srr _ _ _ => none
  | .srw _ _ _ => none
  | .wait _ _ _ => none
  | .yield _ => none
  | .halt _ => none
  | .fencei _ => none
  | .add _ _ _ _ _ => none
  | .sub _ _ _ _ _ => none
  | .mul _ _ _ _ _ => none
  | .mulh _ _ _ _ _ => none
  | .mulhu _ _ _ _ _ => none
  | .div _ _ _ _ _ => none
  | .divu _ _ _ _ _ => none
  | .rem _ _ _ _ _ => none
  | .remu _ _ _ _ _ => none
  | .and _ _ _ _ _ => none
  | .or _ _ _ _ _ => none
  | .xor _ _ _ _ _ => none
  | .andn _ _ _ _ _ => none
  | .shl _ _ _ _ _ => none
  | .shr _ _ _ _ _ => none
  | .sra _ _ _ _ _ => none
  | .ror _ _ _ _ _ => none
  | .min _ _ _ _ _ => none
  | .max _ _ _ _ _ => none
  | .minu _ _ _ _ _ => none
  | .maxu _ _ _ _ _ => none
  | .clz _ _ _ _ => none
  | .ctz _ _ _ _ => none
  | .popc _ _ _ _ => none
  | .bfx _ _ _ _ _ => none
  | .bfi _ _ _ _ _ => none
  | .sel _ _ _ _ _ => none
  | .lea _ _ _ _ _ => none
  | .addImm _ _ _ _ _ => none
  | .subImm _ _ _ _ _ => none
  | .mulImm _ _ _ _ _ => none
  | .mulhImm _ _ _ _ _ => none
  | .mulhuImm _ _ _ _ _ => none
  | .divImm _ _ _ _ _ => none
  | .divuImm _ _ _ _ _ => none
  | .remImm _ _ _ _ _ => none
  | .remuImm _ _ _ _ _ => none
  | .andImm _ _ _ _ _ => none
  | .orImm _ _ _ _ _ => none
  | .xorImm _ _ _ _ _ => none
  | .andnImm _ _ _ _ _ => none
  | .shlImm _ _ _ _ _ => none
  | .shrImm _ _ _ _ _ => none
  | .sraImm _ _ _ _ _ => none
  | .rorImm _ _ _ _ _ => none
  | .minImm _ _ _ _ _ => none
  | .maxImm _ _ _ _ _ => none
  | .minuImm _ _ _ _ _ => none
  | .maxuImm _ _ _ _ _ => none
  | .bfxImm _ _ _ _ _ => none
  | .bfiImm _ _ _ _ => none
  | .selImm _ _ _ _ _ => none
  | .leaImm _ _ _ _ _ => none
  | .movi _ _ _ => none
  | .cmp _ _ _ _ _ _ _ => none
  | .cmpi _ _ _ _ _ _ => none
  | .plog _ _ _ _ _ => none
  | .pmovToX _ _ => none
  | .pmovToP _ _ => none
  | .ld _ _ _ _ => none
  | .st _ _ _ _ => none
  | .lda _ _ _ _ _ => none
  | .str _ _ _ _ _ => none
  | .atomSwap _ _ _ _ _ => none
  | .atomAdd _ _ _ _ _ => none
  | .atomAnd _ _ _ _ _ => none
  | .atomOr _ _ _ _ _ => none
  | .atomXor _ _ _ _ _ => none
  | .atomMin _ _ _ _ _ => none
  | .atomMax _ _ _ _ _ => none
  | .atomCas _ _ _ _ _ _ _ => none
  | .fence _ _ _ => none
  | .vadd _ _ _ _ _ _ => none
  | .vsub _ _ _ _ _ _ => none
  | .vmul _ _ _ _ _ _ => none
  | .vfma _ _ _ _ _ _ _ => none
  | .vfms _ _ _ _ _ _ _ => none
  | .vfnma _ _ _ _ _ _ _ => none
  | .vdiv _ _ _ _ _ _ => none
  | .vsqrt _ _ _ _ _ => none
  | .vmin _ _ _ _ _ => none
  | .vmax _ _ _ _ _ => none
  | .vabs _ _ _ _ => none
  | .vneg _ _ _ _ => none
  | .vcmp _ _ _ _ _ _ => none
  | .vclass _ _ _ _ => none
  | .twosum _ _ _ _ _ _ _ => none
  | .viadd _ _ _ _ _ _ => none
  | .visub _ _ _ _ _ _ => none
  | .vimul _ _ _ _ _ => none
  | .vimulh _ _ _ _ _ => none
  | .vimad _ _ _ _ _ _ => none
  | .vimin _ _ _ _ _ => none
  | .vimax _ _ _ _ _ => none
  | .vand _ _ _ _ _ => none
  | .vor _ _ _ _ _ => none
  | .vxor _ _ _ _ _ => none
  | .vshl _ _ _ _ _ => none
  | .vshr _ _ _ _ _ => none
  | .vsra _ _ _ _ _ => none
  | .vclip _ _ _ _ _ _ => none
  | .vmov _ _ _ _ => none
  | .vbcast _ _ _ _ => none
  | .viota _ _ _ _ => none
  | .vsel _ _ _ _ _ _ => none
  | .vldi _ _ _ _ => none
  | .setvl _ _ _ _ => none
  | .setvlRel _ _ => none
  | .setrc _ _ _ _ => none
  | .alloc _ _ _ => none
  | .shrink _ _ _ => none
  | .strip _ _ _ _ _ _ _ _ _ => none
  | .vrcp _ _ _ _ _ => none
  | .vrsq _ _ _ _ _ => none
  | .vexp2 _ _ _ _ _ => none
  | .vlog2 _ _ _ _ _ => none
  | .vtanh _ _ _ _ _ => none
  | .vcvt _ _ _ _ _ _ => none
  | .vqblk _ _ _ _ _ _ _ _ => none
  | .vdqblk _ _ _ _ _ _ _ _ => none
  | .vplane _ _ _ => none
  | .vunplane _ _ _ _ => none
  | .vrand _ _ _ => none
  | .klog _ _ _ _ _ => none
  | .kcnt _ _ _ => none
  | .kfirst _ _ _ => none
  | .mpush _ _ => none
  | .minv _ => none
  | .mpop _ => none
  | .mbrz _ _ _ => none
  | .vtrip _ _ _ _ => none
  | .mloop _ _ _ _ => none
  | .vred _ _ _ _ _ _ _ => none
  | .vredp _ _ _ _ _ _ => none
  | .vscan _ _ _ _ _ _ _ => none
  | .vperm _ _ _ _ _ _ _ => none
  | .vslide _ _ _ _ _ _ _ => none
  | .vzip _ _ _ _ _ _ _ => none
  | .vunzip _ _ _ _ _ _ _ => none
  | .vtrn _ _ _ _ => none
  | .vcompress _ _ _ _ _ _ => none
  | .vexpand _ _ _ _ _ => none
  | .vsortk _ _ _ _ _ _ _ => none
  | .vextr _ _ _ _ _ => none
  | .vinsr _ _ _ _ _ => none
  | .rdv _ _ => none
  | .vld _ _ _ _ => none
  | .vlds _ _ _ _ => none
  | .vldx _ _ _ _ _ _ _ _ => none
  | .vst _ _ _ _ => none
  | .vsts _ _ _ _ => none
  | .vstx _ _ _ _ _ _ _ _ => none
  | .vstu _ _ _ _ _ _ _ _ => none
  | .vstxa _ _ _ _ _ _ _ _ => none
  | .vfence _ _ _ => none
  | .pref _ _ _ _ => none
  | .gset _ _ _ _ => none
  | .gsetFree _ _ => none
  | .vgred _ _ _ _ _ _ => none
  | .vgall _ _ _ _ _ => none
  | .vgrs _ _ _ _ _ _ => none
  | .vgbc _ _ _ _ _ _ => none
  | .stream _ _ _ => none
  | .armw _ _ _ => none
  | .waitw _ _ _ => none
  | .jobwait _ _ _ => none
  | .ovopen _ _ => none
  | .ovopenTry _ _ _ => none
  | .ovset _ _ => none
  | .ovretire _ _ _ => none
  | .ovcommit _ _ _ _ => none
  | .ldo _ _ _ _ _ _ => none
  | .vldo _ _ _ _ _ _ => none
  | .ovstat _ _ _ _ => none
  | .carve _ _ _ => none
  | .cclean _ _ _ _ => none
  | .cinv _ _ _ _ => none
  | .cflush _ _ _ _ => none
  | .tlbiAll _ => none
  | .tlbiAsid _ _ => none
  | .tlbiRange _ _ _ _ => none
  | .digest _ _ _ => none
  | .digestRng _ _ _ _ => none
  | .budget _ _ _ _ => none
  | .budgetW _ _ _ _ _ => none
  | .mattach _ _ _ => none
  | .mattachPair _ _ _ => none
  | .mdetach _ => none
  | .mwld _ _ _ _ => none
  | .mstream _ _ _ _ => none
  | .mzeroFp _ _ _ => none
  | .mzeroInt _ _ _ => none
  | .mdrain _ _ _ _ => none
  | .mdrainIdx _ _ _ _ => none
  | .msave _ _ _ => none
  | .mrestore _ _ _ => none
  | .mlineEmpty _ _ _ => none
  | .mlineFull _ _ _ => none
  | .mlineWfull _ _ _ => none
  | .mlineWempty _ _ _ => none
  | .mwait _ _ _ => none
  | .mstat _ _ _ _ => none
  | .tvload _ _ _ _ => none
  | .tvloadFree _ _ => none
  | .tvstart _ _ _ _ => none
  | .tvwait _ _ _ => none
  | .tvstat _ _ _ _ => none
  | .gzlook _ _ _ => none
  | .gzupdate _ _ _ => none
  | .gzver _ _ _ _ => none
  | .gzpin _ _ _ _ _ => none
  | .gzpinUn _ _ _ _ _ => none
  | .gzwait _ _ _ => none
  | .launch _ _ _ => none
  | .launchTry _ _ _ => none
  | .trig _ => none
  | .bar _ _ => none
  | .waitl _ _ _ _ _ => none
  | .lvlid _ _ _ _ => none
  | .mtick _ _ => none
  | .mtickOrd _ _ => none
  | .svmark _ _ _ => none
  | .svsamp _ _ _ => none
  | .svsampOff _ => none
  | .svread _ _ _ _ => none
  | .svstop _ _ _ => none
  | .waitWake _ => none
  | .queueDeadlock _ => none
  | .rendezvousComplete _ _ => none
  | .laneArrive _ _ _ => none
  | .vectorTrapCommit _ => none
  | .mzeroApply _ => none
  | .streamChunk _ => none
  | .weightSwap _ => none
  | .barRelease _ _ _ => none
  | .clklock _ _ _ => none
  | .clklockOff _ _ => none
  | .dhash _ _ _ _ => none
  | .dverify _ _ _ _ => none
  | .dsign _ _ _ _ => none
  | .dsignAtt _ _ _ => none
  | .dsignPub _ _ => none
  | .fuserd _ _ _ => none
  | .keywipe _ _ _ => none
  | .keywipeAll _ _ => none
  | .mextend _ _ _ _ => none
  | .mextendDbg _ _ => none
  | .lcset _ _ _ => none
  | .dbgopen _ _ _ => none
  | .traverseRunStart _ => none
  | .sendLand _ => none
  | .signalArrive _ => none
  | .reserveClaimArrive _ => none
  | .reserveRound _ _ _ => none
  | .legAckArrive _ => none
  | .stopNotice _ _ => none
  | .cardStart _ => none
  | .streamCopyJob _ => none
  | .weightLoadJob _ => none
  | .gzLookupJob _ => none
  | .gzUpdateJob _ => none
  | .gzageHalve _ => none
  | .cardComplete _ => none
  | .ringWptrWrite _ _ => none
  | .ringReset _ _ => none
  | .ringEntryRead _ => none
  | .priorityAge _ => none
  | .depEval _ => none
  | .launchPlace _ => none
  | .podAdmission _ _ => none
  | .launchComplete _ => none
  | .preemptWrite _ => none
  | .cancelWrite _ => none
  | .gangPreempt _ _ => none
  | .gangResume _ _ => none
  | .hostMrd _ => none
  | .hostDrd _ _ _ _ => none
  | .hostDwr _ _ _ _ => none
  | .hostCpl _ _ _ => none
  | .regWrite _ _ => none
  | .fqrespRetry _ _ => none
  | .fqrespDecline _ _ => none
  | .pageWalkDone => none
  | .faultRecordPost _ => none
  | .sideLogPerform _ => none
  | .sideLogPageTrap _ => none
  | .tagEndOvstaleTrap _ => none
  | .roundProtTrap _ => none
  | .wcbDrainTimeout _ => none
  | .l1LeaseExpire _ => none
  | .borderCopyInvalidate _ _ => none
  | .budgetPeriod => none
  | .roundApply _ => none
  | .trainReceive _ => none
  | .trainAck _ => none
  | .trainRefusal _ => none
  | .ualinkReadServe _ => none
  | .ualinkResponse _ _ => none
  | .tlbicmdAll => none
  | .tlbicmdAsid _ => none
  | .tlbicmdRange _ => none
  | .tlbicmdDone => none
  | .uncorrected _ => none
  | .scrub _ _ => none
  | .ovgaddWrite _ => none
  | .poolGrowDone => none
  | .gzdsyncWrite _ => none
  | .gzprobeWrite _ => none
  | .gzprobeDone => none
  | .tickAlign _ => none
  | .tickAlignLoss => none
  | .sampleRecord _ _ _ => none
  | .stopFire => none
  | .svrunWrite _ => none
  | .svstatDisarm _ => none
  | .rlctlWrite _ => none
  | .rlwptrSupply _ => none
  | .replayInputArrive _ => none
  | .powerGoodReset => none
  | .dwinWrite _ => none
  | .dmloadWrite _ => none
  | .unitReady _ => none
  | .unitLost _ => none
  | .cdisWrite _ _ => none
  | .pcapWrite _ _ => none
  | .powerLimitRaise => none
  | .powerLimitRelax => none
  | .thermalLimitRaise => none
  | .thermalTrip => none
  | .thermalLimitRelax => none
  | .pointChange => none
  | .kctlLoad _ => none
  | .kctlClearSeal _ => none
  | .dunlkAbort => none
  | .dchalDraw => none
  | .debugScan => none
  | .debugMemrd _ => none
  | .debugMemwr _ _ => none
  | .debugSvstop _ => none
  | .i3cEntdaa _ => none
  | .i3cRstdaa => none
  | .i3cGetpid => none
  | .i3cGetbcr => none
  | .i3cGetdcr => none
  | .i3cGetstatus => none
  | .i3cPrivateWrite _ _ => none
  | .laneComplete _ _ _ => none
  | .meridianTick => none
  | .ualinkErrorResponse _ => none
  | .gzdsyncDone => none
  | .i3cPrivateRead _ => none

/-- The 128 bits of a leg; none for every other constructor. -/
def encodeLeg (i : Instr) : Option (BitVec 128) := i.legFields.map fun r => BitVec.ofNat 128 r.pack

/-- What the decoder reads from an instruction whose bits are `w`, bit 0 the least significant bit of the first
byte: a 96-bit word (02 R61), or a 128-bit leg where more bits are given (12 R481). -/
noncomputable def decodeTableWord (nbits w : Nat) : Option Instr :=
  if nbits ≤ 96 then decode (BitVec.ofNat 96 (w % 2 ^ nbits)) else decodeLeg (BitVec.ofNat 128 (w % 2 ^ nbits))

end Sys2Proof
end

