-- ==== Sys2Proof/Machine/Float.lean ====
section
/-! DEFINITION. Number formats, `round`, overflow, conversions and the correctly rounded functions (03 R103..R141). -/

namespace Sys2Proof.Machine

open Sys2Proof

/-- Number of bits of a natural number: 0 for 0, floor(log2 n) + 1 otherwise. -/
def bitLen (n : Nat) : Nat := if n = 0 then 0 else Nat.log2 n + 1

/-- Bit `i` of a natural number. -/
def bitOf (n i : Nat) : Bool := n / 2 ^ i % 2 == 1

/-- The field of `w` bits at bit `lo`. -/
def fieldOf (n lo w : Nat) : Nat := n / 2 ^ lo % 2 ^ w

/-- The two's complement reading of the low `w` bits of `n`. -/
def signedOf (w n : Nat) : Int :=
  let r := n % 2 ^ w
  if r < 2 ^ (w - 1) then (r : Int) else (r : Int) - (2 ^ w : Nat)

/-- The low `w` bits of an integer. -/
def wrapTo (w : Nat) (z : Int) : Nat := (z % ((2 ^ w : Nat) : Int)).toNat

/-- The integer square root, two bits of the radicand a step. -/
def isqrtLoop : Nat → Nat → Nat → Nat
  | 0, _, r => r
  | k + 1, n, r =>
    let r2 := 2 * r
    let t := r2 + 1
    if t * t ≤ n / 4 ^ k then isqrtLoop k n t else isqrtLoop k n r2

/-- floor(sqrt n). -/
def isqrt (n : Nat) : Nat := isqrtLoop (bitLen n / 2 + 1) n 0

/-- The layout of a floating format (03 R105). -/
structure Fmt where
  /-- width of the element's bits -/
  width : Nat
  /-- mantissa bits -/
  mb : Nat
  bias : Int
  /-- encoding of the largest finite magnitude (03 R107) -/
  maxEnc : Nat
  /-- encoding of +infinity, where the format has one -/
  infEnc : Option Nat
  /-- the canonical NaN, where the format has one -/
  nanEnc : Option Nat
  deriving DecidableEq, Repr

/-- The floating formats with a sign (03 R105, R107); none for integers, e8m0 and bp8. -/
def Ty.fmt : Ty → Option Fmt
  | .f32 => some ⟨32, 23, 127, 0x7F7FFFFF, some 0x7F800000, some 0x7FC00000⟩
  | .bf16 => some ⟨16, 7, 127, 0x7F7F, some 0x7F80, some 0x7FC0⟩
  | .f16 => some ⟨16, 10, 15, 0x7BFF, some 0x7C00, some 0x7E00⟩
  | .e4m3 => some ⟨8, 3, 7, 0x7E, none, some 0x7F⟩
  | .e5m2 => some ⟨8, 2, 15, 0x7B, some 0x7C, some 0x7E⟩
  | .e3m2 => some ⟨6, 2, 3, 0x1F, none, none⟩
  | .e2m3 => some ⟨6, 3, 1, 0x1F, none, none⟩
  | .e2m1 => some ⟨4, 1, 1, 0x7, none, none⟩
  | .i8 | .n8 | .i16 | .n16 | .i32 | .n32 | .i64 | .n64 | .e8m0 | .bp8 => none

/-- Integer types: width and signedness (03 R103). -/
def Ty.int? : Ty → Option (Nat × Bool)
  | .i8 => some (8, true) | .n8 => some (8, false)
  | .i16 => some (16, true) | .n16 => some (16, false)
  | .i32 => some (32, true) | .n32 => some (32, false)
  | .i64 => some (64, true) | .n64 => some (64, false)
  | .f32 | .bf16 | .f16 | .e4m3 | .e5m2 | .e3m2 | .e2m3 | .e2m1 | .e8m0 | .bp8 => none

/-- Is the type a floating format with a sign? -/
def Ty.isFloat (t : Ty) : Bool := (Ty.fmt t).isSome

/-- Is the type an integer type? -/
def Ty.isInt (t : Ty) : Bool := (Ty.int? t).isSome

/-- Width of an element in registers and vector memory in bits (03 R110). -/
def Ty.bits : Ty → Nat
  | .i8 | .n8 | .e4m3 | .e5m2 | .e3m2 | .e2m3 | .e8m0 | .bp8 => 8
  | .i16 | .n16 | .bf16 | .f16 => 16
  | .i32 | .n32 | .f32 => 32
  | .i64 | .n64 => 64
  | .e2m1 => 4

/-- A value: a NaN, an infinity, or (-1)^neg × (m + θ) × 2^e with θ = 0 when `st` is clear and 0 < θ < 1 when it is
set; `st` is set only for results without a finite binary expansion at the precision held. -/
inductive FVal
  | nan
  | inf (neg : Bool)
  | fin (neg : Bool) (m : Nat) (e : Int) (st : Bool)
  deriving DecidableEq, Repr

/-- Plus zero. -/
def FVal.zero : FVal := .fin false 0 0 false

/-- Minus zero. -/
def FVal.negZero : FVal := .fin true 0 0 false

/-- An exact integer. -/
def FVal.ofInt (z : Int) : FVal := .fin (z < 0) z.natAbs 0 false

/-- The value of an encoding in a signed floating format (03 R106). -/
def Fmt.decode (f : Fmt) (n : Nat) : FVal :=
  let b := n % 2 ^ f.width
  let neg := bitOf b (f.width - 1)
  let mag := b % 2 ^ (f.width - 1)
  let isInf := match f.infEnc with
    | some i => mag == i
    | none => false
  let isNan := match f.nanEnc, f.infEnc with
    | some _, some i => decide (i < mag)
    | some c, none => mag == c
    | none, _ => false
  if isNan then .nan
  else if isInf then .inf neg
  else
    let ex := mag / 2 ^ f.mb
    let m := mag % 2 ^ f.mb
    if ex = 0 then .fin neg m (1 - f.bias - f.mb) false
    else .fin neg (2 ^ f.mb + m) ((ex : Int) - f.bias - f.mb) false

/-- The value of an encoding of an element type (03 R103, R106). A bp8 element is its signed byte (03 R114). -/
def Ty.decode (t : Ty) (n : Nat) : FVal :=
  match Ty.fmt t, Ty.int? t with
  | some f, _ => f.decode n
  | none, some (w, true) => .ofInt (signedOf w n)
  | none, some (w, false) => .ofInt ((n % 2 ^ w : Nat) : Int)
  | none, none =>
    if t = .e8m0 then
      let e := n % 256
      if e = 255 then .nan else .fin false 1 ((e : Int) - 127) false
    else .ofInt (signedOf 8 n)

/-- What `round` needs beside the value: the mode (6 already replaced by rmode), ovft, and for `.sr` the 24-bit
draw u (03 R116, R118). -/
structure RCtx where
  mode : Rnd
  ovft : Nat
  u : Nat
  deriving DecidableEq, Repr

/-- The ovft field of a type (03 R125); 3 acts as 0. -/
def ovftSel (ovft : Nat) (t : Ty) : Nat :=
  let lo := match t with
    | .f32 => 0 | .bf16 => 2 | .f16 => 4 | .e4m3 => 6 | .e5m2 => 8 | .e3m2 => 10 | .e2m3 => 12 | .e2m1 => 14
    | .e8m0 => 16
    | .i8 | .n8 | .i16 | .n16 | .i32 | .n32 | .i64 | .n64 | .bp8 => 18
  let v := fieldOf ovft lo 2
  if v = 3 then 0 else v

/-- Is the mode directed towards zero for a result of this sign, so that an overflow is the largest finite value?
(03 R124) -/
def towardsFinite (m : Rnd) (neg : Bool) : Bool :=
  match m with
  | .rtz => true
  | .rup => neg
  | .rdn => !neg
  | .rne | .rna | .sr | .dyn => false

/-- Sign bit placed over a magnitude encoding. -/
def Fmt.withSign (f : Fmt) (neg : Bool) (mag : Nat) : Nat := if neg then 2 ^ (f.width - 1) + mag else mag

/-- An overflowing result in a signed floating format (03 R124, R126). -/
def Fmt.overflow (f : Fmt) (t : Ty) (c : RCtx) (neg : Bool) : Nat :=
  if towardsFinite c.mode neg then f.withSign neg f.maxEnc
  else match ovftSel c.ovft t with
    | 1 => f.withSign neg (f.infEnc.getD f.maxEnc)
    | 2 => match f.nanEnc with
      | some n => n
      | none => f.withSign neg f.maxEnc
    | _ => f.withSign neg f.maxEnc

/-- An overflowing result in an integer type (03 R124, R126). `conv` is set for a conversion between integer
types, where no mode is directed (03 R127). -/
def intOverflow (w : Nat) (sgn : Bool) (c : RCtx) (conv neg : Bool) : Nat :=
  let lim := if sgn then (if neg then 2 ^ (w - 1) else 2 ^ (w - 1) - 1) else (if neg then 0 else 2 ^ w - 1)
  if !conv && towardsFinite c.mode neg then lim
  else if ovftSel c.ovft .i32 = 2 then (if sgn then 2 ^ (w - 1) else 0)
  else lim

/-- Does the mode choose the larger magnitude, for a value of sign `neg` between the magnitudes q and q + 1 at
fraction (r + θ) / 2^s, with θ > 0 exactly when `st`? `odd` says whether q's mantissa code is odd (03 R116 step 3,
R118). Called only when the fraction is not zero. -/
def chooseUp (c : RCtx) (neg : Bool) (odd : Bool) (r s : Nat) (st : Bool) : Bool :=
  let half := 2 ^ s / 2
  let above := if s = 0 then false else decide (half < r) || (r == half && st)
  let tie := if s = 0 then false else r == half && !st
  match c.mode with
  | .rne => above || (tie && odd)
  | .rtz => false
  | .rup => !neg
  | .rdn => neg
  | .rna => above || tie
  | .sr =>
    -- i + θ' = fraction × 2^24 with 0 ≤ θ' < 1
    let i := r * 2 ^ 24 / 2 ^ s
    let st' := st || decide (r * 2 ^ 24 % 2 ^ s ≠ 0)
    if neg then !decide (c.u + i < 2 ^ 24) else decide (c.u < i) || (c.u == i && st')
  | .dyn => false

/-- The two adjacent grid points of step 2^k around (m + θ) × 2^e: the lower one's count q, and the choice made.
Values far below the grid are first brought to one sticky unit 32 places under it. -/
def roundGrid (c : RCtx) (neg : Bool) (m : Nat) (e : Int) (st : Bool) (k : Int) : Nat :=
  if k ≤ e then
    let q := m * 2 ^ (e - k).toNat
    if st && chooseUp c neg (bitOf q 0) 0 0 true then q + 1 else q
  else
    let tiny := decide (e + (bitLen m : Int) < k - 32)
    let s := if tiny then 32 else (k - e).toNat
    let m' := if tiny then 0 else m
    let st' := st || (tiny && m != 0)
    let q := m' / 2 ^ s
    let r := m' % 2 ^ s
    if (r ≠ 0 || st') && chooseUp c neg (bitOf q 0) r s st' then q + 1 else q

/-- `round` into a signed floating format (03 R116). -/
def Fmt.round (f : Fmt) (t : Ty) (c : RCtx) (v : FVal) : Nat :=
  match v with
  | .nan => f.nanEnc.getD 0
  | .inf neg => match f.infEnc with
    | some i => f.withSign neg i
    | none => f.overflow t c neg
  | .fin neg m e st =>
    if m = 0 && !st then f.withSign neg 0
    else
      let emin : Int := 1 - f.bias
      let top : Int := e + (bitLen m : Int) - 1
      let k : Int := (if top < emin then emin else top) - f.mb
      let q := roundGrid c neg m e st k
      let kq : Nat × Int := if q = 2 ^ (f.mb + 1) then (2 ^ f.mb, k + 1) else (q, k)
      -- magnitude code with an unbounded exponent
      let code : Int :=
        if kq.1 < 2 ^ f.mb then (kq.1 : Int)
        else (kq.2 + f.mb + f.bias) * ((2 ^ f.mb : Nat) : Int) + ((kq.1 : Int) - ((2 ^ f.mb : Nat) : Int))
      if code ≤ (f.maxEnc : Int) then f.withSign neg code.toNat else f.overflow t c neg

/-- `round` into an integer type (03 R127). DESIGN CHOICE (log 72): overflow is judged on the rounded integer, as R124 judges
the value chosen; R127 calls it a source value outside the type's range, and the two differ for a source value less than one
beyond a limit. -/
def roundInt (w : Nat) (sgn : Bool) (c : RCtx) (conv : Bool) (v : FVal) : Nat :=
  match v with
  | .nan => if ovftSel c.ovft .i32 = 2 then (if sgn then 2 ^ (w - 1) else 0) else 0
  | .inf neg => intOverflow w sgn c conv neg
  | .fin neg m e st =>
    if (200 : Int) < e then (if m = 0 then 0 else intOverflow w sgn c conv neg)
    else
      let q := roundGrid c neg m e st 0
      let lo : Nat := if sgn then 2 ^ (w - 1) else 0
      let hi : Nat := if sgn then 2 ^ (w - 1) - 1 else 2 ^ w - 1
      if neg then (if q ≤ lo then wrapTo w (-(q : Int)) else intOverflow w sgn c conv true)
      else (if q ≤ hi then q else intOverflow w sgn c conv false)

/-- Conversion into e8m0 (03 R127, R124, R126). -/
def roundE8m0 (c : RCtx) (v : FVal) : Nat :=
  let beyond : Nat :=
    if towardsFinite c.mode false then 0xFE else if ovftSel c.ovft .e8m0 = 2 then 0xFF else 0xFE
  match v with
  | .nan => 0xFF
  | .inf neg => if neg then 0xFF else beyond
  | .fin neg m e st =>
    if neg || (m = 0 && !st) then 0xFF
    else
      let top : Int := e + (bitLen m : Int) - 1
      if top < -127 then 0
      else
        let s := bitLen m - 1
        let r := m % 2 ^ s
        let up := (r ≠ 0 || st) && chooseUp c false (decide ((top + 127) % 2 ≠ 0)) r s st
        let k := if up then top + 1 else top
        if (127 : Int) < k then beyond else (k + 127).toNat

/-- `round(v, fmt, mode)` into any element type (03 R116, R127). `conv` marks a conversion from an integer type. -/
def roundTo (t : Ty) (c : RCtx) (conv : Bool) (v : FVal) : Nat :=
  match Ty.fmt t, Ty.int? t with
  | some f, _ => f.round t c v
  | none, some (w, sgn) => roundInt w sgn c conv v
  | none, none => if t = .e8m0 then roundE8m0 c v else roundInt 8 true c conv v

/-- The largest finite encoding of a sign, whatever ovft says (03 R137). -/
def saturate (t : Ty) (c : RCtx) (v : FVal) : Nat :=
  roundTo t { c with ovft := 0 } false v

/-- Canonical NaN of a type, or 0 where it has none (03 R105, R127). -/
def canonNan (t : Ty) : Nat :=
  match Ty.fmt t with
  | some f => f.nanEnc.getD 0
  | none => if t = .e8m0 then 0xFF else 0

/-- An element whose NaN is replaced by the canonical NaN (03 R109). -/
def canonize (t : Ty) (n : Nat) : Nat := if Ty.decode t n = .nan then canonNan t else n

/-- rnd32(key, ctr) (03 R120). -/
def rnd32 (key : Word) (ctr : BitVec 32) : BitVec 32 :=
  let z := ctr * 0x9E3779B9#32 + key.setWidth 32
  let z := z ^^^ (z >>> 16)
  let z := z * 0x85EBCA6B#32
  let z := z ^^^ (key >>> 32).setWidth 32
  let z := z ^^^ (z >>> 13)
  let z := z * 0xC2B2AE35#32
  z ^^^ (z >>> 16)

/-- The counter of logical index i at retired count n (03 R119). -/
def elemCtr (n : Word) (i : Nat) : BitVec 32 := BitVec.ofNat 32 (n.toNat * 4096 + i)

/-- The draw u of the stochastic rule (03 R118). -/
def srDraw (key : Word) (n : Word) (i : Nat) : Nat := (rnd32 key (elemCtr n i)).toNat / 256

/-- A mantissa with a sign, as an integer at exponent e. -/
def signedMant (neg : Bool) (m : Nat) : Int := if neg then -(m : Int) else (m : Int)

/-- Exact sum of two finite dyadic values, sign of an exact zero as 03 R117 gives. -/
def addFin (mode : Rnd) (n1 : Bool) (m1 : Nat) (e1 : Int) (n2 : Bool) (m2 : Nat) (e2 : Int) : FVal :=
  if m1 = 0 && m2 = 0 then .fin (if n1 = n2 then n1 else decide (mode = .rdn)) 0 0 false
  else if m1 = 0 then .fin n2 m2 e2 false
  else if m2 = 0 then .fin n1 m1 e1 false
  else
    let e := if e1 < e2 then e1 else e2
    let z := signedMant n1 (m1 * 2 ^ (e1 - e).toNat) + signedMant n2 (m2 * 2 ^ (e2 - e).toNat)
    if z = 0 then .fin (decide (mode = .rdn)) 0 0 false else .fin (decide (z < 0)) z.natAbs e false

/-- a + b, exactly (03 R117, R129). -/
def FVal.add (mode : Rnd) : FVal → FVal → FVal
  | .nan, _ => .nan
  | _, .nan => .nan
  | .inf a, .inf b => if a = b then .inf a else .nan
  | .inf a, .fin _ _ _ _ => .inf a
  | .fin _ _ _ _, .inf b => .inf b
  | .fin n1 m1 e1 _, .fin n2 m2 e2 _ => addFin mode n1 m1 e1 n2 m2 e2

/-- The value with its sign turned. -/
def FVal.neg : FVal → FVal
  | .nan => .nan
  | .inf a => .inf (!a)
  | .fin n m e st => .fin (!n) m e st

/-- a × b, exactly (03 R117, R129). -/
def FVal.mul : FVal → FVal → FVal
  | .nan, _ => .nan
  | _, .nan => .nan
  | .inf a, .inf b => .inf (a != b)
  | .inf a, .fin n m _ _ => if m = 0 then .nan else .inf (a != n)
  | .fin n m _ _, .inf b => if m = 0 then .nan else .inf (n != b)
  | .fin n1 m1 e1 _, .fin n2 m2 e2 _ => .fin (n1 != n2) (m1 * m2) (e1 + e2) false

/-- a × b + c, exactly (03 R128, R129). -/
def FVal.fma (mode : Rnd) (a b c : FVal) : FVal := FVal.add mode (a.mul b) c

/-- Extra bits held of a quotient or root beyond those of any result format, so that `.sr` compares exactly. -/
def guardBits : Nat := 96

/-- a / b (03 R128, R129). -/
def FVal.div : FVal → FVal → FVal
  | .nan, _ => .nan
  | _, .nan => .nan
  | .inf _, .inf _ => .nan
  | .inf a, .fin n _ _ _ => .inf (a != n)
  | .fin n _ _ _, .inf b => .fin (n != b) 0 0 false
  | .fin n1 m1 e1 _, .fin n2 m2 e2 _ =>
    if m2 = 0 then (if m1 = 0 then .nan else .inf (n1 != n2))
    else if m1 = 0 then .fin (n1 != n2) 0 0 false
    else
      let s := guardBits + bitLen m2
      let num := m1 * 2 ^ s
      .fin (n1 != n2) (num / m2) (e1 - e2 - (s : Int)) (decide (num % m2 ≠ 0))

/-- sqrt a (03 R128, R129). -/
def FVal.sqrt : FVal → FVal
  | .nan => .nan
  | .inf neg => if neg then .nan else .inf false
  | .fin neg m e _ =>
    if m = 0 then .fin neg 0 0 false
    else if neg then .nan
    else
      let s : Nat := 2 * guardBits + (if (e - 2 * (guardBits : Int)) % 2 = 0 then 0 else 1)
      let n := m * 2 ^ s
      let r := isqrt n
      .fin false r ((e - (s : Int)) / 2) (decide (r * r ≠ n))

/-- 1 / a (03 R129). -/
def FVal.rcp (a : FVal) : FVal := FVal.div (.fin false 1 0 false) a

/-- 1 / sqrt a (03 R129). -/
def FVal.rsq : FVal → FVal
  | .nan => .nan
  | .inf neg => if neg then .nan else .fin false 0 0 false
  | .fin neg m e _ =>
    if m = 0 then .inf neg
    else if neg then .nan
    else
      let t : Nat := 2 * guardBits + 2 * bitLen m
      let s : Nat := if ((t : Int) + e) % 2 = 0 then t else t + 1
      -- 1 / sqrt(m 2^e) = sqrt(2^s / m) × 2^(-(s + e) / 2)
      let q := 2 ^ s / m
      let r := isqrt q
      .fin false r (-(((s : Int) + e) / 2)) (decide (r * r * m ≠ 2 ^ s))

/-! The functions without a finite result (03 R118, R128): the exact real value is what is rounded. An enclosure of it in
integers gives its whole units wherever the two bounds agree; `FVal.exp2_exact`, `FVal.log2_exact` and `FVal.tanh_exact`
(Laws/Real.lean) say that the enclosure never changes the value. -/

/-- Binary places that are kept of such a value: far more than the finest choice of a result asks for. -/
def realPlaces : Nat := 300

/-- Binary places of the enclosures. -/
def encPlaces : Nat := 400

/-- The value (-1)^neg × x × 2^e of a real x that is not negative: its whole units, and whether there is more. -/
noncomputable def FVal.ofReal (neg : Bool) (x : ℝ) (e : Int) : FVal :=
  .fin neg ⌊x⌋₊ e (@decide ((⌊x⌋₊ : ℝ) ≠ x) (Classical.propDecidable _))

/-- The same value, given lo < x × 2^(encPlaces - realPlaces) < hi. -/
noncomputable def FVal.enclosed (neg : Bool) (lo hi : Nat) (x : ℝ) (e : Int) : FVal :=
  let l := lo / 2 ^ (encPlaces - realPlaces)
  if hi / 2 ^ (encPlaces - realPlaces) = l then .fin neg l e true else FVal.ofReal neg x e

/-- The k-th term x^k / k! of e^x at x = a / b, and the sum of those before it, in units of 2^-encPlaces, from below. -/
def expBelow (a b : Nat) : Nat → Nat × Nat
  | 0 => (2 ^ encPlaces, 0)
  | k + 1 => match expBelow a b k with
    | (t, s) => (t * a / (b * (k + 1)), s + t)

/-- The same from above. -/
def expAbove (a b : Nat) : Nat → Nat × Nat
  | 0 => (2 ^ encPlaces, 0)
  | k + 1 => match expAbove a b k with
    | (t, s) => (t * a / (b * (k + 1)) + 1, s + t)

/-- Terms of the exponential series: the rest is below a unit. -/
def expTerms : Nat := 100

/-- Below e^(a / b) × 2^encPlaces, 0 ≤ a / b ≤ 1. -/
def expLo (a b : Nat) : Nat := (expBelow a b expTerms).2 - 1

/-- Above it. -/
def expHi (a b : Nat) : Nat :=
  match expAbove a b expTerms with
  | (t, s) => s + 2 * t + 1

/-- The power x^(k+1) at x = a / b, and the sum of x^(i+1) / (i + 1) below it, in units of 2^-encPlaces, from below. -/
def logBelow (a b : Nat) : Nat → Nat × Nat
  | 0 => (2 ^ encPlaces * a / b, 0)
  | k + 1 => match logBelow a b k with
    | (t, s) => (t * a / b, s + t / (k + 1))

/-- The same from above. -/
def logAbove (a b : Nat) : Nat → Nat × Nat
  | 0 => (2 ^ encPlaces * a / b + 1, 0)
  | k + 1 => match logAbove a b k with
    | (t, s) => (t * a / b + 1, s + t / (k + 1) + 1)

/-- Terms of the logarithm's series: the rest is below a unit. -/
def logTerms : Nat := 420

/-- Below -ln(1 - a / b) × 2^encPlaces, 0 ≤ a / b ≤ 1/2. -/
def logLo (a b : Nat) : Nat := (logBelow a b logTerms).2 - 1

/-- Above it. -/
def logHi (a b : Nat) : Nat := (logAbove a b logTerms).2 + 1

/-- 2^a (03 R128, R129). -/
noncomputable def FVal.exp2 : FVal → FVal
  | .nan => .nan
  | .inf neg => if neg then .fin false 0 0 false else .inf false
  | .fin neg m e _ =>
    if m = 0 then .fin false 1 0 false
    else if 0 ≤ e then
      -- an integer; beyond any exponent range it is held at ±2^20
      let big := decide (20 < e + (bitLen m : Int))
      let n : Int := if big then 2 ^ 20 else (m * 2 ^ e.toNat : Nat)
      .fin false 1 (if neg then -n else n) false
    else
      let s := (-e).toNat
      let ip := m / 2 ^ s
      let fp := m % 2 ^ s
      if fp = 0 then .fin false 1 (signedMant neg ip) false
      else
        -- n + f / 2^s with 0 < f < 2^s; 2^(f / 2^s) = e^(f ln 2 / 2^s)
        let n : Int := if neg then -(ip : Int) - 1 else ip
        let f := if neg then 2 ^ s - fp else fp
        FVal.enclosed false (expLo (f * logLo 1 2) (2 ^ (s + encPlaces))) (expHi (f * logHi 1 2) (2 ^ (s + encPlaces)))
          (2 ^ realPlaces * (2 : ℝ) ^ ((f : ℝ) / 2 ^ s)) (n - (realPlaces : Int))

/-- log2 a (03 R128, R129). -/
noncomputable def FVal.log2 : FVal → FVal
  | .nan => .nan
  | .inf neg => if neg then .nan else .inf false
  | .fin neg m e _ =>
    if m = 0 then .inf true
    else if neg then .nan
    else
      let l := bitLen m - 1
      let n : Int := e + (l : Int)
      if m = 2 ^ l then FVal.ofInt n
      else
        -- log2 a = n + ln y / ln 2 with y = m / 2^l in (1, 2), 1 / y = 1 - (m - 2^l) / m
        let lo := logLo (m - 2 ^ l) m * 2 ^ encPlaces / logHi 1 2
        let hi := logHi (m - 2 ^ l) m * 2 ^ encPlaces / logLo 1 2 + 1
        let x : ℝ := 2 ^ realPlaces * |(n : ℝ) + Real.logb 2 ((m : ℝ) / 2 ^ l)|
        if 0 ≤ n then FVal.enclosed false (n.toNat * 2 ^ encPlaces + lo) (n.toNat * 2 ^ encPlaces + hi) x (-(realPlaces : Int))
        else FVal.enclosed true (n.natAbs * 2 ^ encPlaces - hi) (n.natAbs * 2 ^ encPlaces - lo) x (-(realPlaces : Int))

/-- The square of a number in units of 2^-encPlaces, from below and from above, n times over. -/
def squares : Nat → Nat × Nat → Nat × Nat
  | 0, p => p
  | n + 1, (l, h) => squares n (l * l / 2 ^ encPlaces, h * h / 2 ^ encPlaces + 1)

/-- tanh a (03 R128, R129). -/
noncomputable def FVal.tanh : FVal → FVal
  | .nan => .nan
  | .inf neg => .fin neg 1 0 false
  | .fin neg m e _ =>
    if m = 0 then .fin neg 0 0 false
    else
      let top : Int := e + (bitLen m : Int) - 1
      let one := 2 ^ encPlaces
      if top < -48 ∧ m < 2 ^ 24 then
        -- |a| - |a|^3 / 3 < tanh |a| < |a|, and |a|^3 / 3 is below a unit
        .fin neg (m * 2 ^ 64 - 1) (e - 64) true
      else if 5 < top then .fin neg (2 ^ 100 - 1) (-100) true
      else
        -- tanh |a| = (E - 1) / (E + 1) with E = e^(2 |a|) = (e^(2 |a| / 2^7))^(2^7)
        let a := if 0 ≤ e then m * 2 ^ e.toNat else m
        let b := if 0 ≤ e then 64 else 64 * 2 ^ (-e).toNat
        let (l, h) := squares 7 (expLo a b, expHi a b)
        FVal.enclosed neg ((l - one) * one / (l + one)) ((h - one) * one / (h + one) + 1)
          (2 ^ realPlaces * Real.tanh ((m : ℝ) * (2 : ℝ) ^ e)) (-(realPlaces : Int))

/-- A sort key of a value: the total order of 03 R136, -0 below +0, NaN above all. -/
def FVal.lt (a b : FVal) : Bool :=
  match a, b with
  | .nan, _ => false
  | _, .nan => true
  | .inf n, .inf n' => n && !n'
  | .inf n, .fin _ _ _ _ => n
  | .fin _ _ _ _, .inf n' => !n'
  | .fin n1 m1 e1 _, .fin n2 m2 e2 _ =>
    let e := if e1 < e2 then e1 else e2
    let z1 := signedMant n1 (m1 * 2 ^ (e1 - e).toNat)
    let z2 := signedMant n2 (m2 * 2 ^ (e2 - e).toNat)
    decide (z1 < z2) || (z1 == z2 && m1 = 0 && n1 && !n2)

/-- Numeric order, -0 equal to +0; false when either is NaN. -/
def FVal.numLt (a b : FVal) : Bool :=
  match a, b with
  | .nan, _ => false
  | _, .nan => false
  | .fin _ 0 _ _, .fin _ 0 _ _ => false
  | _, _ => FVal.lt a b

/-- Numeric equality: -0 equals +0, NaN equals nothing. -/
def FVal.numEq (a b : FVal) : Bool :=
  if a = .nan || b = .nan then false else !FVal.numLt a b && !FVal.numLt b a

/-- minimumNumber and maximumNumber of two encodings (03 R130); for integer types the plain minimum or maximum. -/
def minMax (isMax : Bool) (t : Ty) (x y : Nat) : Nat :=
  match Ty.decode t x, Ty.decode t y with
  | .nan, .nan => canonNan t
  | .nan, _ => y
  | _, .nan => x
  | a, b => if isMax then (if FVal.lt a b then y else x) else (if FVal.lt b a then y else x)

/-- TWOSUM (03 R132): s and e as encodings of t. -/
def twosum (t : Ty) (ovft : Nat) (x y : Nat) : Nat × Nat :=
  let c : RCtx := ⟨.rne, ovft, 0⟩
  let v := FVal.add .rne (Ty.decode t x) (Ty.decode t y)
  let s := roundTo t c false v
  match v, Ty.decode t s with
  | .fin n m e st, .fin n' m' e' _ =>
    -- an overflow, also one that ovft turns into the largest finite value, leaves e the canonical NaN
    let beyond := match Ty.decode t (roundTo t { c with ovft := 0x55555 } false v) with
      | .fin _ _ _ _ => false
      | _ => true
    if beyond then (s, canonNan t)
    else
      let d := FVal.add .rne (.fin n m e st) (.fin (!n') m' e' false)
      let d' := match d with
        | .fin _ 0 e'' _ => .fin false 0 e'' false
        | d => d
      (s, roundTo t c false d')
  | _, _ => (s, canonNan t)

/-- A list padded with `pad` to the least power of two not below its length (03 R133). -/
def padPow2 {α : Type} (pad : α) (l : List α) : List α :=
  l ++ List.replicate (2 ^ (if l.length ≤ 1 then 0 else bitLen (l.length - 1)) - l.length) pad

/-- One level of a tree: each adjacent pair combined; `i` numbers the pairs. -/
def treeLevel {α : Type} (f : Nat → α → α → α) : Nat → List α → List α
  | i, a :: b :: rest => f i a b :: treeLevel f (i + 1) rest
  | _, l => l

/-- The tree of 03 R133 over a padded list; `f level pair a b` combines, level counted from 1. -/
def treeFold {α : Type} (f : Nat → Nat → α → α → α) : Nat → Nat → List α → List α
  | 0, _, l => l
  | k + 1, lev, l => treeFold f k (lev + 1) (treeLevel (f lev) 0 l)

/-- The encoding of -0 in a floating type, 0 in an integer type (03 R133). -/
def minusZero (t : Ty) : Nat :=
  match Ty.fmt t with
  | some f => 2 ^ (f.width - 1)
  | none => 0

/-- tree_sum of encodings in type t, list number r (03 R133, R119); `draw i` is the draw of counter index i. -/
def treeSum (t : Ty) (mode : Rnd) (ovft : Nat) (draw : Nat → Nat) (r : Nat) (l : List Nat) : Nat :=
  let p := padPow2 (minusZero t) l
  let node := fun (lev pair : Nat) (x y : Nat) =>
    let idx := r * p.length + pair * 2 ^ lev + 2 ^ (lev - 1)
    match Ty.int? t with
    | some (w, _) => (x + y) % 2 ^ w
    | none =>
      roundTo t ⟨mode, ovft, if mode = .sr then draw idx else 0⟩ false
        (FVal.add mode (Ty.decode t x) (Ty.decode t y))
  match treeFold node (bitLen p.length) 1 p with
  | x :: _ => canonize t x
  | [] => minusZero t

/-- The compensated sum of 03 R134. -/
def compSum (t : Ty) (ovft : Nat) (l : List (Nat × Nat)) : Nat × Nat :=
  let c : RCtx := ⟨.rne, ovft, 0⟩
  let radd := fun x y => roundTo t c false (FVal.add .rne (Ty.decode t x) (Ty.decode t y))
  let p := padPow2 (minusZero t, minusZero t) l
  let node := fun (_ _ : Nat) (a b : Nat × Nat) =>
    let se := twosum t ovft a.1 b.1
    let tt := radd a.2 b.2
    let cc := radd se.2 tt
    twosum t ovft se.1 cc
  match treeFold node (bitLen p.length) 1 p with
  | x :: _ => (canonize t x.1, canonize t x.2)
  | [] => (minusZero t, minusZero t)

/-- Planes of a bp8 group (03 R114): bit of value i in plane j. -/
def planeBit (v : Byte) (j : Nat) : Bool := v.getLsbD (7 - j)

/-- floor(v / 2^(8-p)) × 2^(8-p), the value of a bp8 element read to p planes (03 R115). -/
def planeValue (v : Byte) (p : Nat) : Int := v.toInt / ((2 ^ (8 - p) : Nat) : Int) * ((2 ^ (8 - p) : Nat) : Int)

/-- emax_elem of the MX formats (03 R112). -/
def emaxElem : Ty → Int
  | .e4m3 => 8 | .e5m2 => 15 | .e3m2 => 4 | .e2m3 => 2 | .e2m1 => 2
  | .i8 | .n8 | .i16 | .n16 | .i32 | .n32 | .i64 | .n64 | .f32 | .bf16 | .f16 | .e8m0 | .bp8 => 0

/-- Block quantisation of one block (03 R137): the scale byte and the elements' encodings; `draw i` is the draw of
the block's element i. -/
def quantBlock (u : Ty) (mode : Rnd) (draw : Nat → Nat) (vals : List FVal) : Nat × List Nat :=
  let isZero := fun v => match v with
    | FVal.fin _ 0 _ _ => true
    | _ => false
  let bad := fun v => match v with
    | FVal.nan => true
    | FVal.inf _ => true
    | FVal.fin _ _ _ _ => false
  let isI8 := decide (u = .i8)
  if vals.all isZero then
    (0x7F, vals.map fun v => match v, Ty.fmt u with
      | .fin true _ _ _, some f => f.withSign true 0
      | _, _ => 0)
  else if vals.any bad then (0xFF, vals.map fun _ => canonNan u)
  else
    let lg := vals.foldl (fun (acc : Option Int) v => match v with
      | .fin _ m e _ =>
        if m = 0 then acc
        else
          let t : Int := e + (bitLen m : Int) - 1
          some (match acc with
            | some a => if a < t then t else a
            | none => t)
      | _ => acc) none
    let x0 : Int := lg.getD 0 - emaxElem u
    let x : Int := if x0 < -127 then -127 else x0
    let sh : Int := if isI8 then x - 6 else x
    ((x + 127).toNat, vals.zipIdx.map fun vi => match vi.1 with
      | .fin n m e st =>
        let c : RCtx := ⟨mode, 0, if mode = .sr then draw vi.2 else 0⟩
        let q := roundTo u c false (.fin n m (e - sh) st)
        if isI8 && q = 0x80 then 0x81 else q
      | _ => 0)

end Sys2Proof.Machine
end

