-- ==== Sys2Proof/Config.lean ====
section
/-! DEFINITION. What the spec leaves open: free values without a body, and the sizes it fixes. -/

namespace Sys2Proof.Config

/-- A free value: what the spec leaves open in value, drawn by the counter `State.fresh` (log 5). -/
opaque freeWord : Nat → BitVec 64

/-- Free order of the elements of a VSTU: launch serial, instruction of the hart, element (07 R304; log 5). -/
opaque freeOrder : Nat → Nat → Nat → BitVec 64

/-- Free fuse words 0..63: what a part is fused with at manufacture (15 R583; log 4). -/
opaque fuseWord : Nat → BitVec 64

/-- Free identity seed of the part's fuses, 32 bytes (15 R583; log 4). -/
opaque fuseSeed : BitVec 256

/-- Free contents of the datum core's ROM: the spec gives no code of it (15 R580; log 3). -/
opaque romByte : Nat → BitVec 8

/-- Free bytes of a sector that holds ciphertext under a key that no longer exists: draw, sector (15 R592; log 5). -/
opaque cipherLine : Nat → Nat → BitVec 512

/-- Free bus and device characteristics of the I3C target: the spec gives no values (15 R607; log 5). -/
opaque i3cBcr : BitVec 8

/-- The device characteristics register. -/
opaque i3cDcr : BitVec 8

/-- This package's rank in its pod, which the headers of its trains carry: free (07 R305; log 5). -/
opaque packageRank : BitVec 10

/-- Cores of the package (00 R1). -/
def cores : Nat := 512

/-- First address beyond device memory (06 R250). -/
def deviceEnd : Nat := 0xC000000000

/-- First instruction number beyond the last (02 R65). -/
def instrEnd : Nat := 5 * 2 ^ 51

/-- Ticks after which a write-combining entry drains (06 R246). -/
def wcbTicks : Nat := 512

/-- Ticks after which a clean L1 line is invalidated (01 R33, 06 R245). -/
def leaseTicks : Nat := 4096

/-- Ticks after which a border copy awaiting invalidation is gone (06 R248). -/
def borderTicks : Nat := 500

/-- Ticks within which a logged entry that may perform does (06 R278). -/
def sideTicks : Nat := 2000

end Sys2Proof.Config
end

