-- ==== Sys2Proof/Machine/State.lean ====
section
/-! DEFINITION. The state of one package as plain data, the faults and refusals, and the state after reset. The
spec's rule for each piece is in its docstring; INVENTORY.md lists them with their reset values. -/

namespace Sys2Proof.Machine

open Sys2Proof

/-- Reasons for which the model stops. -/
inductive Fault
  /-- A hart or datum instruction is executed for a party that has no live stream, raised by every hart and datum
  instruction; a traverse leg is executed for a channel that holds no run, raised by every leg. Safe: the spec executes
  instructions only in streams, and legs only on channels. -/
  | noActor
  deriving DecidableEq, Repr

/-- Reasons for which a step has no meaning. -/
inductive Refusal
  /-- The instruction has no meaning in the model yet. Safe: nothing can be proved of a next state. -/
  | notModelled (mnemonic : String)
  deriving DecidableEq, Repr

/-- Sparse data by key: keys strictly rising. -/
abbrev Assoc (α : Type) := List (Nat × α)

/-- Memory: (address, byte) pairs, addresses strictly rising, no byte equal to what an unlisted address reads as. -/
abbrev Memory := List Host.Cell

/-- What an unlisted byte reads as. DESIGN CHOICE: zero (log 2, 3); scratchpads and registers are zero by 06 R242
and 04 R150. -/
def unlistedByte : Byte := 0

/-- Kinds of access (06 R257, R261). -/
inductive AKind
  | load | store | atom | fetch
  deriving DecidableEq, Repr

/-- A side of an access: who waits for what. A job is named by its card handle. -/
inductive Agent
  | stream (p : Party)
  | sideLog (hart : Nat) (id : Nat)
  | job (launch : Word) (seq : Nat)
  | host (id : Nat)
  deriving DecidableEq, Repr

/-- A WAIT in progress (05 R237): the 64-byte line watched (by access key), and the tick at which the limit ends. -/
structure WaitSt where
  line : Option Nat
  until_ : Option Nat
  stored : Bool
  deriving DecidableEq, Repr

/-- A trap that awaits an instruction boundary: a declined side-log entry, an ended tag or a failed round entry
(06 R270, 10 R428, 07 R309), or a train's failure (07 R307). -/
structure Deferred where
  cause : Nat
  tval : Word
  telem : Word
  deriving DecidableEq, Repr

/-- A read or atomic sent over UALink or to the host, and its reply once it has come (07 R619, 04 R182). -/
structure PendRead where
  id : Nat
  /-- what was asked: the element index, the address and the size identify the request on re-execution -/
  elem : Nat
  va : Nat
  size : Nat
  reply : Option (Bool × Word)
  deriving DecidableEq, Repr

/-- What an instruction captures of its hart at issue (08 R335, 10 R413). -/
structure Capture where
  vl : BitVec 14
  rc : BitVec 5
  vstart : BitVec 13
  rmode : BitVec 3
  srseed : Word
  ovft : BitVec 20
  ovt : BitVec 16
  deriving DecidableEq, Repr

/-- One element of a store bound for another package: index, virtual and physical address, size, data, package
(07 R305). -/
structure RemoteElem where
  elem : Nat
  va : Nat
  pa : Nat
  size : Nat
  data : Nat
  rpkg : Nat
  deriving DecidableEq, Repr

/-- An element that a store has performed or logged: index, address, size, data (04 R176). -/
structure PerfElem where
  elem : Nat
  va : Nat
  size : Nat
  data : Nat
  deriving DecidableEq, Repr

/-- How far the store in hand has come: elements still to perform, in their order; those performed; those that wait for
their trains; whether every later element enters the side log, and the element groups that have entered it (06 R265,
07 R304, R305); and whether its elements count in vstart, whether they add, and their type. -/
structure StoreSt where
  left : List Nat
  perf : List PerfElem
  remote : List RemoteElem
  force : Bool
  groups : List Nat
  vec : Bool
  add : Bool
  ty : Ty
  deriving DecidableEq, Repr

/-- The state of one instruction stream (05 R189). -/
structure Stream where
  /-- x0..x63 (02 R92); entry 0 is never read -/
  x : Vector Word 64
  /-- p0..p7 (02 R92); bit 0 is never read -/
  p : BitVec 8
  /-- the instruction number to execute next (02 R64) -/
  pc : Word
  ls0 : Word
  le0 : Word
  lc0 : Word
  ls1 : Word
  le1 : Word
  lc1 : Word
  /-- sstat fields (05 R191) -/
  det : Bool
  ssm : Bool
  strm : Bool
  depth : Fin 4
  le : Bool
  priv : Bool
  /-- trap registers (05 R190) -/
  tvec : Word
  tpc : Word
  tcause : Word
  tval : Word
  telem : Word
  tlane : Word
  tstat : Word
  tscratch0 : Word
  tscratch1 : Word
  tscratch2 : Word
  tscratch3 : Word
  /-- retired-instruction count (03 R119) -/
  icount : Word
  /-- ATOMs and scatter-add elements performed, for replay logs (14 R568) -/
  atoms : Word
  /-- store hash of 04 R176, primary and shadow -/
  hash : Word
  hashShadow : Word
  /-- strip (08 R337): ACT, SNUM; stripend: LEN, ENUM -/
  stripAct : Bool
  stripNum : BitVec 54
  stripLen : BitVec 5
  stripEnd : BitVec 54
  /-- the active STRIP as captured: D, A, B, C, SA, SB, SC, cap, number of the body's first instruction -/
  stripArgs : List Nat
  /-- lines of the active STRIP's body, by line number, as its first pass captured them (08 R357) -/
  stripBody : List (Nat × Line)
  /-- the line that control has entered and its number: it was checked at entry (02 R66) -/
  line : Option (Nat × Line)
  /-- dval, dstat.KIND (06 R283) -/
  dval : Word
  dkind : BitVec 3
  /-- started and not halted (05 R238) -/
  live : Bool
  /-- the record gave the stream an entry (05 R193) -/
  started : Bool
  /-- WAIT in progress (05 R237) -/
  waiting : Option WaitSt
  /-- barriers arrived at, per level 1..7 (04 R185), and whether the stream waits at its last one -/
  bars : List Nat
  barWait : Option Nat
  /-- blocked on a queue under 05 R194: the code R195 reports -/
  blocked : Option Nat
  /-- the blocked instruction is a vector instruction (05 R232) -/
  blockedVec : Bool
  /-- the access waits on a fault record (06 R259): its internal number -/
  faultWait : Option Nat
  /-- the access was declined (06 R263, 10 R420): what traps, and at which element -/
  declined : Option Deferred
  /-- what the instruction in hand captured at its issue; none when no instruction waits part-way (08 R335) -/
  captured : Option Capture
  /-- how far the vector store in hand has come -/
  storing : Option StoreSt
  /-- the wait or the refusal concerns the target line of the transfer at pc (02 R66, R68) -/
  targetFault : Bool
  /-- traps awaiting an instruction boundary (06 R270, 10 R428, 07 R309) -/
  deferred : List Deferred
  /-- reads sent and their replies -/
  reads : List PendRead
  /-- a serialised instruction's note of work already done on re-execution (04 R185, R316, 10 R425) -/
  stage : Nat
  /-- serial under which the instruction in hand enters the side log, and whether an entry of it has been declined
  (06 R264, R270) -/
  logSerial : Option (Nat × Bool)
  /-- Y seen: give up the next turn (05 R236) -/
  yielded : Bool
  /-- x registers that hold uncorrectable data (06 R285) -/
  xmarks : List Nat
  /-- numbers of the fences in hand that have passed their drain point (07 R308) -/
  drained : List Word
  /-- the record that a waiting LAUNCH copied at its issue (04 R183) -/
  copied : List Byte
  deriving DecidableEq, Repr

/-- One entry of the side log (06 R264). -/
structure SideEntry where
  id : Nat
  /-- serial of the entering instruction within the hart, and the stream that issued it -/
  serial : Nat
  isX : Bool
  line : Nat
  asid : BitVec 16
  tag : Word
  user : Bool
  mask : BitVec 64
  data : Line
  /-- none: a plain store; some t: a scatter-add of element type t -/
  addTy : Option Ty
  /-- address of the entry's first byte, for fault records -/
  va : Nat
  /-- waiting on this fault record; none: may perform -/
  fault : Option Nat
  /-- tick from which it has been free to perform (06 R278) -/
  since : Nat
  /-- under DET a scatter-add entry joins this round when replayed (06 R268) -/
  round : Option Nat
  elem : Nat
  /-- ovft as the issuing instruction captured it (07 R302) -/
  ovft : BitVec 20
  /-- a release store (01 R47) -/
  through : Bool
  deriving DecidableEq, Repr

/-- The state of a lane at an entry of the vector issue order (09 R382). -/
inductive LaneSt
  | absent | arrived | released
  deriving DecidableEq, Repr

/-- An instruction in flight in the hart's vector issue order (08 R342..R345, 09 R383), from its issue to the commit
point's passing it. -/
structure VEntry where
  serial : Nat
  isX : Bool
  pc : Word
  rendezvous : Bool
  /-- carries no data: lanes are released only when it is complete (09 R384) -/
  barrier : Bool
  /-- physical lanes taking part (every granted lane of a rendezvous, otherwise those that hold an element group: 08 R343,
  09 R380), and the state of each of the 16 lanes -/
  lanes : BitVec 16
  st : List LaneSt
  /-- the tile as captured at issue: element width, vl, rc (08 R335) -/
  shape : Nat × Nat × Nat
  /-- its effect has been performed; false while it waits part-way, for a page, for members, for room (06 R259, R267;
  07 R316) -/
  done : Bool
  /-- registers, masks and queues that it reads and writes, as `Use.reg` numbers them (08 R345) -/
  reads : List Nat
  writes : List Nat
  /-- scalar results, delivered when the commit point passes it (08 R345, 09 R401) -/
  scalars : List (XOp × Word)
  deriving DecidableEq, Repr

/-- A vector trap found and not yet taken (08 R346). -/
structure VFault where
  isX : Bool
  pc : Word
  cause : Nat
  tval : Word
  elem : Nat
  lane : Nat
  deriving DecidableEq, Repr

/-- A memory request of the executing instruction, for sampling (14 R560): element, address, kind. -/
structure ReqNote where
  elem : Nat
  va : Nat
  kind : AKind
  deriving DecidableEq, Repr

/-- A sampled request that has not completed (14 R561): tick at injection, instruction number, address, kind 1..4,
physical lane or 15, stream, whether it leaves by a UALink port, and svsbuf at its injection. -/
structure SampleReq where
  tick : Nat
  n : Word
  va : Nat
  kind : Nat
  lane : Nat
  isX : Bool
  remote : Bool
  buf : Word
  deriving DecidableEq, Repr

/-- A group register (07 R312). -/
structure GroupReg where
  idx : BitVec 6
  count : BitVec 16
  rank : BitVec 16
  deriving DecidableEq, Repr

/-- An element train sent and not acknowledged (07 R305..R307). -/
structure TrainSt where
  serial : BitVec 16
  /-- stream that sent it -/
  isX : Bool
  rpkg : Nat
  /-- virtual address and index of the lowest element, the bytes' virtual lines -/
  va : Nat
  elem : Nat
  lines : List Nat
  train : Train
  /-- refused once already -/
  resent : Bool
  failed : Bool
  /-- a round entry of a DET launch, and the stream that issued it (07 R309) -/
  round : Option Bool
  deriving DecidableEq, Repr

/-- The state of one hart's resident context (02 R92, 05 R189, 08 R337). -/
structure Hart where
  /-- launch serial and hart index h (04 R150, R174) -/
  serial : Word
  index : Nat
  /-- the hart is the shadow of a lockstep pair (04 R175) -/
  shadow : Bool
  sa : Stream
  sx : Stream
  /-- stream held under 05 R231: false A, true X -/
  held : Option Bool
  vl : BitVec 14
  rc : BitVec 5
  vstart : BitVec 13
  allot : BitVec 7
  lanes : BitVec 4
  rmode : BitVec 3
  srseed : Word
  ovft : BitVec 20
  /-- v0..v63: byte b of vj at 4096 j + b (08 R332) -/
  v : Memory
  vdirty : Word
  vhw : Assoc (BitVec 12)
  /-- v registers that hold uncorrectable data (06 R285) -/
  vmarks : List Nat
  /-- k2..k7 by number (02 R92) -/
  k : Assoc Mask
  /-- mask stack, top first (08 R374) -/
  mstack : List Mask
  /-- q0..q7, oldest first (02 R92) -/
  q : Assoc (List Word)
  /-- q8..q13 by number 0..5, oldest first, element data -/
  vq : Assoc (List (List Byte))
  bqa : List Bool
  bqx : List Bool
  g : Assoc GroupReg
  /-- ovt (10 R412) -/
  ovt : BitVec 16
  sideLog : List SideEntry
  /-- serial of the next vector or storing instruction, and of the next side-log entry -/
  nextSerial : Nat
  nextEntry : Nat
  /-- pending lane claim (04 R161) -/
  claim : Nat
  /-- vector issue order, oldest first -/
  inflight : List VEntry
  vfault : Option VFault
  /-- row modes (true: integer), and mstat.OVF; grant is a view of the array's attachments (11 R455) -/
  mmodes : Assoc Bool
  movf : Bool
  /-- svsctl.N, svsbuf.BUF, svsocc (14 R555, R560), accesses counted -/
  svN : BitVec 5
  svBuf : Word
  svLost : BitVec 16
  svRd : BitVec 5
  svOcc : BitVec 6
  svCount : Nat
  /-- sampled requests that have not completed, oldest first (14 R560) -/
  svPend : List SampleReq
  /-- wva, wctl (14 R555) -/
  wva : Word
  wctl : BitVec 3
  /-- drain points passed (07 R308) -/
  drains : Nat
  trains : List TrainSt
  deriving DecidableEq, Repr

/-- A line held in a core's L1 (06 R245): keyed by access key / 64. -/
structure L1Line where
  key : Nat
  data : Line
  poison : Bool
  /-- tick of the fill, and of the last `.kp` protection -/
  tick : Nat
  keep : Bool
  /-- bytes held: all of a device line, those that reads have brought of another package's (log 55) -/
  valid : BitVec 64
  deriving DecidableEq, Repr

/-- A store merged into an entry of a write-combining buffer: its launch and the virtual address of its line, for digests
(06 R279); its hart index, for drains in logical-core order (01 R58); and the ordered vector store that it is of: hart slot
and serial (01 R48). -/
structure WcbPart where
  serial : Word
  hart : Nat
  va : Nat
  order : Option (Nat × Nat)
  deriving DecidableEq, Repr

/-- An entry of a write-combining buffer (06 R246). -/
structure WcbEntry where
  line : Nat
  mask : BitVec 64
  data : Line
  tick : Nat
  parts : List WcbPart
  deriving DecidableEq, Repr

/-- A scalar store that has issued and has not reached its core's write-combining buffer: later accesses of its stream to
other places may perform before it (01 R37, R56). -/
structure LateSt where
  p : Party
  core : Nat
  part : WcbPart
  pa : Nat
  n : Nat
  v : Nat
  deriving DecidableEq, Repr

/-- A launch's scratchpad on one core (06 R242, R243). -/
structure Scratch where
  serial : Word
  rsv : Nat
  spw : Nat
  data : Memory
  /-- poison marks of 64-byte units (06 R285) -/
  poison : List Nat
  /-- lines written since the grant, and since the last save (04 R170, R171) -/
  written : List Nat
  dirty : List Nat
  deriving DecidableEq, Repr

/-- A core: claims on lane groups, scratchpads, L1, write-combining buffer (04 R161, 06 R241..R246). The lane
allocation table is the `lanes` of the core's four harts. -/
structure Core where
  /-- groups owed, and hart slots with pending claims in age order (04 R161, R162) -/
  owed : BitVec 4
  claims : List Nat
  scratch : List Scratch
  l1 : List L1Line
  wcb : List WcbEntry
  /-- removed from placement (15 R602) -/
  removed : Bool
  deriving DecidableEq, Repr

/-- A TLB (06 R253). -/
inductive TlbId
  | lane (core lane : Nat)
  | core (n : Nat)
  | quad (n : Nat)
  | gaz (n : Nat)
  deriving DecidableEq, Repr

/-- A leaf page-table entry as it governs accesses (06 R255). -/
structure Leaf where
  asid : BitVec 16
  /-- first virtual address and size in bytes -/
  va : Nat
  size : Nat
  pa : Nat
  mt : Nat
  rpkg : Nat
  o : Bool
  u : Bool
  x : Bool
  w : Bool
  rd : Bool
  deriving DecidableEq, Repr

/-- A fault record, raised and perhaps posted, and what waits on it (06 R259..R263). -/
structure FaultRec where
  num : Nat
  quad : Nat
  /-- the posted record's id; none while it awaits space -/
  id : Option (BitVec 32)
  kind : Nat
  write : Bool
  exec : Bool
  core : Nat
  hart : Nat
  isX : Bool
  asid : BitVec 16
  va : Nat
  tick : Nat
  mask : BitVec 1024
  pages : List Nat
  /-- more pages were missing than the record lists (06 R262) -/
  more : Bool
  /-- who waits, at which address and element, and whether it met a pool fault (10 R420) -/
  waiters : List (Agent × Nat × Nat × Bool)
  deriving DecidableEq, Repr

/-- Registers of a fault queue (06 R286). -/
structure FaultQueue where
  base : Word
  ctl : BitVec 11
  wptr : Word
  rptr : Word
  nextId : BitVec 32
  deriving DecidableEq, Repr

/-- A read copy of a sector homed in another quadrant (01 R11); stale since a tick, by stores of these ordered vector stores
among others (01 R48). -/
structure BorderCopy where
  quad : Nat
  sector : Nat
  data : Line
  poison : Bool
  stale : Option Nat
  orders : List (Nat × Nat)
  deriving DecidableEq, Repr

/-- A held scatter-add of a DET launch (07 R308). -/
structure RoundEntry where
  serial : Word
  hartIndex : Nat
  logCore : Nat
  isX : Bool
  round : Nat
  /-- program order within the hart: serial of the instruction, and the element's index -/
  order : Nat
  elem : Nat
  va : Nat
  pa : Nat
  rpkg : Option Nat
  ty : Ty
  data : Word
  tag : Word
  ovft : BitVec 20
  deriving DecidableEq, Repr

/-- A walk that a RETRY, the host or a job has under way (06 R258). -/
structure Walk where
  agent : Agent
  asid : BitVec 16
  va : Nat
  deriving DecidableEq, Repr

/-- A host request being served (04 R182). -/
structure HostReq where
  id : Nat
  quad : Nat
  asid : BitVec 16
  va : Nat
  /-- none: DRD of len bytes; some: DWR -/
  len : Nat
  data : Option (List Byte)
  /-- waits on a fault record -/
  fault : Option Nat
  deriving DecidableEq, Repr

/-- A dirty sector in L2 with its poison mark, which moves with it (06 R248, R285). -/
structure L2Sector where
  data : Line
  poison : Bool
  deriving DecidableEq, Repr

/-- The memory engine (06). -/
structure MemSys where
  hbm : Memory
  /-- sectors held dirty in L2, by sector number -/
  l2 : Assoc L2Sector
  /-- lines of 256 bytes in the quadrants' L2: quadrant and number, most recently used first (06 R248) -/
  l2lines : List (Nat × Nat)
  /-- sectors poisoned in HBM (06 R285), as disjoint ranges of sector numbers: first, and first beyond -/
  poison : List (Nat × Nat)
  /-- ranges of sectors that hold ciphertext under keys that no longer exist, with the draw their bytes come from
  (15 R592): such a sector reads as free bytes until it is written back -/
  cipher : List (Nat × Nat × Nat)
  border : List BorderCopy
  tlbs : List (TlbId × Leaf)
  walks : List Walk
  faults : List FaultRec
  nextFault : Nat
  fq : Assoc FaultQueue
  ecnt : Assoc Word
  /-- ATBASE (06 R286) -/
  atbase : Word
  tlbBusy : Bool
  /-- TLBICMDs not yet done, oldest first: an ASID, or all (06 R286, R290) -/
  tlbCmds : List (Option (BitVec 16))
  /-- DGBASE and DGLEN of the digest slots, and the launch that holds each -/
  dgbase : Assoc Word
  dglen : Assoc Word
  dgowner : Assoc Word
  /-- results kept by serial, newest first: value and kind (06 R282) -/
  digests : List (Word × Word × BitVec 3)
  /-- budgets in effect and pending, class × 4 + RES (06 R274, R292) -/
  budget : Assoc Word
  budgetNext : Assoc Word
  rounds : List RoundEntry
  hostReqs : List HostReq
  deriving DecidableEq, Repr

/-- A message to the host (04 R182). -/
inductive HostMsg
  | hrd (id : Nat) (addr : Nat) (len : Nat)
  | hwr (addr : Nat) (data : List Byte)
  | note (queue : Nat)
  | cpl (id : Nat) (ok : Bool) (data : List Byte)
  deriving DecidableEq, Repr

/-- A message between the members of a run (12 R485, R508, R511). -/
inductive TvMsg
  | send (m : SendMsg)
  | signal (m : CtlMsg)
  | reserve (m : CtlMsg)
  | ack (m : AckMsg)
  | stop (run : RunId) (dst : Nat)
  deriving DecidableEq, Repr

/-- A message to another package over UALink (07 R305, R619; 12 R508; 04 R159). -/
inductive LinkMsg
  | train (rpkg : Nat) (t : Train)
  | trainAck (rpkg : Nat) (serial : BitVec 16)
  | trainRefuse (rpkg : Nat) (serial : BitVec 16)
  | read (rpkg : Nat) (id : Nat) (pa size : Nat)
  | atomic (rpkg : Nat) (id : Nat) (pa size : Nat) (op : Nat) (signed : Bool) (a b : Word)
  | readReply (rpkg : Nat) (id : Nat) (ok : Bool) (data : Word)
  | admission (podid : BitVec 32) (rank : BitVec 16)
  | tv (rpkg : Nat) (m : TvMsg)
  | lvlUpdate (tick : Word)
  deriving DecidableEq, Repr

/-- A reply of the management ports (15 R598, R607) or of MRD (04 R182). -/
inductive PortMsg
  | mrd (off : BitVec 16) (v : Word)
  | i3c (bytes : List Byte)
  | nack
  | scan (v : Word)
  | mem (v : Word)
  | stop (v : Word)
  | refused
  /-- an in-band interrupt of the I3C target (15 R607) -/
  | ibi
  deriving DecidableEq, Repr

/-- A ring (04 R142..R147). -/
structure Ring where
  rbase : Word
  rctl : Word
  rptr : Word
  wptr : Word
  overrun : Bool
  halted : Bool
  backstep : Bool
  epoch : BitVec 8
  /-- by how much waiting has raised the ring's priority; the oldest eligible launch that ages, and since when -/
  raised : Nat
  aging : Option (Word × Nat)
  /-- the launch of the previous entry, for SERIAL -/
  prev : Option Word
  /-- host writes that came before the last write of WPTR and have not performed (01 R55) -/
  behind : List Nat
  /-- reads of an entry in host memory under way (04 R144, R182) -/
  reads : List PendRead
  deriving DecidableEq, Repr

/-- An event queue (04 R178). -/
structure EventQueue where
  ebase : Word
  ectl : BitVec 7
  wptr : Word
  rptr : Word
  lost : Nat
  /-- EN has been set and no record has been posted since -/
  first : Bool
  deriving DecidableEq, Repr

/-- A level of a launch record (04 R148). -/
structure Level where
  dom : Nat
  ex : Nat
  ey : Nat
  ez : Nat
  deriving DecidableEq, Repr

/-- A declared dependence (04 R148). -/
structure Dep where
  addr : Nat
  scope : Nat
  value : Word
  /-- its first failure has been reported (04 R153) -/
  reported : Bool
  holds : Bool
  deriving DecidableEq, Repr

/-- The fields of a launch record that later steps use (04 R148). -/
structure LaunchRec where
  nlev : Nat
  det : Bool
  pair : Bool
  pod : Bool
  sigscope : Nat
  prio : Nat
  asid : BitVec 16
  xent : Word
  aent : Word
  levels : List Level
  allot : Nat
  lanes : Nat
  ways : Nat
  tagq : Nat
  bclass : Nat
  pool : Nat
  seed : Word
  sigaddr : Nat
  siginc : Nat
  triginc : Nat
  trigcnt : Nat
  deps : List Dep
  arg : Word
  stack : Word
  stride : Nat
  podid : BitVec 32
  podn : Nat
  podrank : Nat
  deriving DecidableEq, Repr

/-- A weight bank of an array (11 R443..R449). -/
structure Bank where
  valid : Bool
  fmt : Word
  data : Memory
  scales : Memory
  meta_ : Memory
  /-- weights that carry poison: stored row × 256 + column; from 65536 on scales: block × 256 + column -/
  poison : List Nat
  deriving DecidableEq, Repr

/-- An accumulator cell (11 R453, 03 R139, R140). -/
structure Acc where
  val : BitVec 48
  sticky : Bool
  poison : Bool
  err : Bool
  deriving DecidableEq, Repr

/-- What a command in the array order does (11 R440, R449). -/
inductive MKind
  | stream (cmd : StreamCmd) (kl : Nat) (base sbase : Word) (ovft : BitVec 20)
  | zero (row0 m : Nat) (int : Bool)
  | swap (seq : Nat) (fmt : Word)
  deriving DecidableEq, Repr

/-- A command in the array order (11 R440): a command of a pair attachment has one id in both arrays. -/
structure MCmd where
  id : Nat
  hart : Nat
  /-- stream that issued it -/
  isX : Bool
  kind : MKind
  /-- K-chunk units done (11 R462) -/
  unit : Nat
  deriving DecidableEq, Repr

/-- A matrix array (11). -/
structure MArray where
  /-- launch that holds the array -/
  holder : Option Word
  /-- harts attached: slot, rows, bound as a pair; which physical row a logical row is cannot be seen (11 R438) -/
  attached : List (Nat × Nat × Bool)
  bank0 : Bank
  bank1 : Bank
  active : Bool
  /-- staging bank: 0 idle, 1 loading, 2 loaded and awaiting its swap (11 R455) -/
  staging : Nat
  /-- accumulators by (slot × 128 + logical row) × 256 + column; a cell not listed holds zero, its marks clear -/
  acc : Assoc Acc
  /-- integer rows, by slot × 128 + logical row -/
  intRows : List Nat
  queue : List MCmd
  tile : Memory
  /-- lines of 128 bytes that are full (11 R435), and poisoned 64-byte units (06 R285) -/
  full : List Nat
  tpoison : List Nat
  deriving DecidableEq, Repr

/-- Where a gang stands (04 R157, R167, R173). -/
inductive GangSt
  | unplaced | resident | preempted | done
  deriving DecidableEq, Repr

/-- Sections of a context image, in the order of 04 R170's table. -/
inductive Section
  | header | streamA | streamX | hart | masks | queues | vregs | sideLog | cards | matrix
  deriving DecidableEq, Repr

/-- The context image of a hart (04 R170): the header's fields beside its magic and version, the sections that its last
writing wrote because they had changed, and what it holds. -/
structure Image where
  serial : Word
  index : Nat
  present : List Section
  seq : Nat
  written : List Section
  ctx : Hart
  /-- handles of the launch's open cards, and the matrix section by array -/
  cards : List Word
  arrays : List (Nat × MArray)
  deriving DecidableEq, Repr

/-- A gang of a launch (01 R29): its first hart index, its size, the slots of its harts and, while pre-empted, the
saved contexts (04 R170). -/
structure Gang where
  index : Nat
  first : Nat
  size : Nat
  st : GangSt
  /-- hart index and hart slot -/
  slots : List (Nat × Nat)
  saved : List (Nat × Hart)
  savedScratch : List (Nat × Scratch)
  /-- the matrix section, by array (11 R472) -/
  savedArrays : List (Nat × MArray)
  /-- the images of its harts, by hart index, as last written to its save area -/
  images : List (Nat × Image)
  /-- order of placement, for 04 R160 -/
  placedAt : Nat
  /-- its pre-emption has been asked for (04 R160, R167, R173, 15 R602) -/
  asked : Bool
  deriving DecidableEq, Repr

/-- An entry of a launch's group table (07 R315). -/
structure GroupEntry where
  exb : Word
  exs : Word
  scope : Nat
  det : Bool
  count : Nat
  rank : Nat
  hart : Nat
  /-- collective calls this member has completed, and the step of the open one (07 R319) -/
  calls : Nat
  step : Nat
  /-- traverse programs holding the entry, and runs counted (12 R478, R479) -/
  held : Nat
  runs : Nat
  freed : Bool
  deriving DecidableEq, Repr

/-- A member's arrival at an open collective (07 R316): the group is named by its exchange base. -/
structure Arrival where
  serial : Word
  exb : Word
  call : Nat
  rank : Nat
  /-- shape: vl, rc, T, OP, root -/
  shape : Nat × Nat × Ty × Nat × Nat
  /-- ovft as the member captured it (07 R302, R318) -/
  ovft : BitVec 20
  /-- a program has touched an exchange area of the group since: the results are unspecified (07 R313) -/
  spoiled : Bool
  contrib : List Nat
  active : List Bool
  taken : Bool
  deriving DecidableEq, Repr

/-- Phases of a launch (04 R153..R159). -/
inductive Phase
  | waiting | eligible | running | ending | done
  deriving DecidableEq, Repr

/-- A launch accepted by the engine (04). -/
structure Launch where
  /-- the engine's own key, and the serial: the same, but for a launch accepted while another of its serial is
  unfinished (04 R174) -/
  serial : Word
  name : Word
  info : LaunchRec
  home : Nat
  lslot : Nat
  evq : Nat
  ring : Option Nat
  device : Bool
  /-- the serial its ring entry waits for under SERIAL -/
  after : Option Word
  phase : Phase
  /-- tick of the last evaluation of its dependences (04 R153) -/
  evalAt : Nat
  /-- reads of listed sectors of other packages, and adds to a signal word there, by the detail code of their failure
  (06 R282, 04 R154) -/
  reads : List PendRead
  adds : List PendRead
  /-- how far its completion has come: 1 digest under way, 2 trigger add made, 3 completion add made; and the digest -/
  stage : Nat
  digest : Word × BitVec 3
  cancelled : Bool
  gangs : List Gang
  trigCount : Nat
  trigDone : Bool
  nextSeq : Nat
  groups : Assoc GroupEntry
  /-- pool cells and bytes of the arena taken (10 R420, R421) -/
  pool : Nat
  /-- OVOPEN waiters in age order: hart slot and stream -/
  waiters : List (Nat × Bool)
  /-- digest slot; none with status NOSLOT; the listed sectors: virtual and physical; overflow -/
  dslot : Option Nat
  dlist : List (Nat × Nat)
  dover : Bool
  /-- energy counters by class (14 R562) -/
  energy : Assoc Word
  /-- the package's own admission has been sent (04 R159) -/
  selfAdmitted : Bool
  /-- its first harts have started (14 R558) -/
  begun : Bool
  /-- rounds applied (07 R309) -/
  rounds : Nat
  deriving DecidableEq, Repr

/-- A footprint region (01 R16). -/
structure Region where
  acc : Nat
  len : Nat
  base : Word
  deriving DecidableEq, Repr

/-- What a card asks for. -/
inductive Job
  | stream (card : List Byte)
  | weight (card : List Byte) (dst : WldDst) (arrays : List Nat)
  | traverse (prog : Word) (chan : Fin 17) (run : Nat)
  | lookup (card : List Byte) (ver : Nat)
  | update (card : List Byte) (ver : Nat)
  deriving DecidableEq, Repr

/-- Status codes of a card (04 R165). -/
inductive CardStatus
  | ok | footprint | fault | abort
  deriving DecidableEq, Repr

/-- A job card (01 R15..R19, 04 R163..R166). -/
structure Card where
  serial : Word
  seq : Nat
  handle : Word
  job : Job
  regions : List Region
  edges : List Nat
  /-- the issuing hart's slot, core and mode, and the ovt and ovft captured -/
  hart : Nat
  /-- the issuing stream -/
  isX : Bool
  core : Nat
  user : Bool
  ovt : Word
  ovft : BitVec 20
  started : Bool
  /-- a gazetteer job's copy of its table's directory entry (13 R527) -/
  entry : List Byte
  /-- progress of the job: elements, rows or positions done -/
  prog : Nat
  /-- accumulators of the job in hand -/
  part : List Nat
  /-- trains not yet acknowledged -/
  trains : List TrainSt
  reads : List PendRead
  faultWait : Option Nat
  /-- how it stopped: status, cause, address, detail -/
  stop : Option (CardStatus × Nat × Word × Nat)
  completed : Option CardStatus
  /-- the first wait has trapped already (07 R331) -/
  trapped : Bool
  deriving DecidableEq, Repr

/-- The launch engine (04). -/
structure LaunchSys where
  rings : Assoc Ring
  queues : Assoc EventQueue
  tvecdef : Word
  launches : List Launch
  cards : List Card
  /-- per instance: next LSLOT, device launches accepted -/
  nextSlot : Assoc Nat
  devCount : Assoc Nat
  placeCount : Nat
  arrivals : List Arrival
  /-- admissions that have come: PODID and rank (04 R159) -/
  admissions : List (BitVec 32 × Nat)
  /-- the ring served last (04 R147) -/
  lastRing : Nat
  deriving DecidableEq, Repr

/-- A cell of the overlay directory (10 R414, R415). -/
structure Cell where
  tag : Nat
  serial : Word
  sector : Nat
  va : Nat
  data : Line
  written : BitVec 64
  poison : Bool
  deriving DecidableEq, Repr

/-- The overlay engine (10 R406..R421). -/
structure OvSys where
  /-- holders of tags, and generations (free tags keep theirs) -/
  holder : Assoc Word
  gens : Assoc (BitVec 4)
  cells : List Cell
  abase : Word
  asize : Word
  gser : Word
  gbusy : Bool
  gfailed : Bool
  /-- a pending grow: serial and bytes -/
  gpend : Option (Word × Nat)
  deriving DecidableEq, Repr

/-- A slot of a traverse program (12 R477). -/
structure TSlot where
  base : Word
  size : Nat
  rowb : Nat
  rows : Nat
  arrw : Word
  clw : Word
  flags : Nat
  deriving DecidableEq, Repr

/-- A program entry (12 R475, R515): its generation lives on when it is free. -/
structure TProg where
  gen : BitVec 4
  used : Bool
  serial : Word
  /-- first unit of program memory -/
  first : Nat
  det : Bool
  legs : List (BitVec 128)
  slots : List TSlot
  /-- the group bound at load (12 R478): table entry, exchange base and stride, count, rank -/
  gidx : Nat
  exb : Word
  exs : Word
  count : Nat
  rank : Nat
  deriving DecidableEq, Repr

/-- An unacknowledged SEND (kind 0), SIGNAL (1) or RESERVE (2) of a channel (12 R485). -/
structure Unack where
  seq : Nat
  dst : Nat
  kind : Nat
  deriving DecidableEq, Repr

/-- A traverse channel (12 R480). -/
structure Chan where
  card : Word
  serial : Word
  seqNo : Nat
  /-- quadrant × 64 + entry of its program -/
  prog : Nat
  run : RunId
  rank : Nat
  leg : Nat
  it0 : Nat
  it1 : Nat
  /-- claim state: g, m, n, spill -/
  claim : Option (Nat × Nat × Nat × Bool)
  drops : Nat
  unacked : List Unack
  /-- RESERVEs executed, and SENDs and RECVs per peer -/
  resCount : Nat
  sent : Assoc Nat
  recvd : Assoc Nat
  /-- the RESERVE whose grant is awaited, and the grant: old value and rows of the slot -/
  pendRes : Option Nat
  grant : Option (Nat × Nat)
  /-- a leg that writes: its writes have been worked out; those still to perform, with their poison -/
  writing : Bool
  buf : List (Nat × List Byte × Bool)
  deriving DecidableEq, Repr

/-- A SEND that has begun to land at this member (12 R487, R488). -/
structure Landed where
  msg : SendMsg
  /-- its writes still to perform, each with its slot and its poison -/
  left : List (Fin 16 × Nat × List Byte × Bool)
  /-- its bytes have performed -/
  done : Bool
  deriving DecidableEq, Repr

/-- A run of this package that has completed (12 R479, R488). -/
structure EndedRun where
  run : RunId
  rank : Nat
  card : Word
  prog : Nat
  gen : BitVec 4
  deriving DecidableEq, Repr

/-- What TVSTAT gives of a completed run (12 R519). -/
structure TvDetail where
  serial : Word
  seq : Nat
  detail : Nat
  leg : Nat
  drops : Nat
  chan : Nat
  deriving DecidableEq, Repr

/-- The traverse engines (12). -/
structure TvSys where
  /-- programs by quadrant × 64 + entry -/
  progs : Assoc TProg
  /-- channels by quadrant × 16 + channel -/
  chans : Assoc Chan
  tvctl : Assoc (BitVec 4)
  /-- messages under way to members in this package -/
  flight : List TvMsg
  landed : List Landed
  /-- counts of det rounds that have come, and rounds finished: run, destination, round -/
  reserves : List CtlMsg
  roundsDone : List (RunId × Nat × Nat)
  ended : List EndedRun
  stops : List (RunId × Nat)
  detail : List TvDetail
  deriving DecidableEq, Repr

/-- A row of a gazetteer row cache (13 R535..R538). Its data are the home bank's. -/
structure GzRow where
  key : Nat
  ctr : Nat
  /-- launches that pin it -/
  pins : List Word
  /-- cached pieces, with the sectors that each covers -/
  pieces : List (Nat × List Nat)
  lastUse : Nat
  deriving DecidableEq, Repr

/-- The gazetteer engines (13). -/
structure GzSys where
  gzctl : Assoc Word
  dbase : Word
  dbusy : Bool
  dlast : Word
  pres : Word
  age : Assoc Word
  /-- CUR and the engines' copy of the directory entry of each table, once read (13 R527) -/
  cur : Assoc (BitVec 2)
  dir : Assoc (List Byte)
  cache : Assoc (List GzRow)
  /-- sketch counters: engine × 2^18 + row × 2^16 + column -/
  sketch : Assoc Nat
  useCount : Nat
  probe : Word
  probeBusy : Bool
  deriving DecidableEq, Repr

/-- A trace ring (14 R557). -/
structure TraceRing where
  base : Word
  ctl : Word
  wptr : Word
  rptr : Word
  lost : Nat
  deriving DecidableEq, Repr

/-- The survey engine (14). -/
structure SvSys where
  mtick : Word
  trace : Assoc TraceRing
  enser : Word
  /-- armed stop tick, STOPPED -/
  stopAt : Option Word
  stopped : Bool
  /-- clock lock: holder, P-state, broken -/
  lock : Option (Word × Fin 8)
  broken : Bool
  point : Fin 8
  rlbase : Word
  rlctl : Word
  rlwptr : Word
  rlrptr : Word
  held : List ReplayInput
  /-- indices of log records consumed ahead of RLRPTR -/
  eaten : List Nat
  /-- reads of log records in host memory: word j of record n as element 3n + j -/
  logReads : List PendRead
  deriving DecidableEq, Repr

/-- A key slot (15 R590). -/
structure KeySlot where
  base : Word
  lim : Word
  v : Bool
  sealed : Bool
  err : Bool
  dat : List Word
  twk : List Word
  /-- the loaded range: KBASE and KLIM as they were at the load; the sealed range (15 R591, R592) -/
  lo : Nat
  hi : Nat
  slo : Nat
  shi : Nat
  deriving DecidableEq, Repr

/-- The datum controller (15). -/
structure DcSys where
  core : Stream
  sram : Memory
  fuses : Assoc Word
  seed : BitVec 256
  lc : BitVec 3
  flc : BitVec 3
  /-- dunlk.STATE and dunlk.PERM (15 R586) -/
  dunlk : BitVec 3
  perm : BitVec 32
  chal0 : Word
  chal1 : Word
  dfwv : BitVec 32
  /-- T of the token that passed (15 R596) -/
  token : BitVec 256
  meas : Assoc (BitVec 256)
  keys : Assoc KeySlot
  /-- permissions that DBGOPEN granted (15 R616) -/
  dbgMask : BitVec 32
  dmctl : Word
  dwin : Word
  fwok : Bool
  fwfail : Bool
  ready : BitVec 57
  cdis : Assoc Word
  /-- operating points (15 R604): PCAP, the firmware's choice, the thermal and the power limit -/
  pcap : Fin 8
  choice : Fin 8
  thermal : Fin 8
  power : Fin 8
  /-- mean power of the last period, and of the last ten, newest first; periods in a row below 4.6 kW -/
  meanPower : BitVec 16
  powers : List Nat
  coolPeriods : Nat
  /-- TEMP; ticks at or above 95 degrees since the last step, ticks in a row below 90 -/
  temps : BitVec 40
  hotTicks : Nat
  coldTicks : Nat
  /-- steps of the limits that are due: power up and down, thermal up, trip and down -/
  dueRaise : Bool
  dueRelax : Bool
  dueHot : Bool
  dueTrip : Bool
  dueCold : Bool
  /-- tick by which the operating point must have its new value -/
  pointBy : Option Nat
  /-- an in-band interrupt awaits a dynamic address (15 R607) -/
  ibi : Bool
  i3c : Option (BitVec 7)
  deriving DecidableEq, Repr

/-- Who acts at a step: a stream, a traverse channel, an event from outside, the engines' own next event, the
meridian counter, or an eviction of a line of a quadrant's L2 (01 R32, 06 R248; log 1). -/
inductive Act
  | stream (p : Party)
  /-- a stream's turn in which a scalar store stays late (01 R37) -/
  | streamLate (p : Party)
  | channel (quad : Fin 4) (ch : Fin 16)
  | event (i : Instr)
  | engine
  | clock
  | evict (quad line : Nat)
  deriving DecidableEq, Repr

/-- How an execution of an instruction ended: it retired, waits at its place, or trapped. -/
inductive IssueRes
  | none | retired | waits | trapped
  deriving DecidableEq, Repr

/-- The instruction being executed: its number, its slot's word, LAST of its line, its place in a pair (02 R70), and
how its execution ended. -/
structure Issue where
  n : Word
  raw : Word96
  last : Nat
  /-- the first member of a pair to execute: the pair's end actions are left to the other -/
  first : Bool
  /-- the other member executes: the pair's end actions are its own -/
  second : Bool
  /-- number of the pair's first slot -/
  pair : Word
  /-- the first member made a taken transfer -/
  jumped : Bool
  /-- where the first member's control goes on, when not at the pair's successor (08 R357) -/
  skip : Option Word
  res : IssueRes
  /-- the trap it raised: cause, value, tpc -/
  trap : Option (Nat × Word × Word)
  deriving DecidableEq, Repr

/-- One package. -/
structure State where
  /-- acts to come, in order; when it is empty the head of `order` acts (log 1) -/
  agenda : List Act
  order : List Act
  /-- turns that the engines have had: where they look first for an event that is due (log 1) -/
  engineAt : Nat
  cur : Party
  /-- the traverse channel that acts: quadrant × 16 + channel (12 R480) -/
  curChan : Nat
  issue : Issue
  /-- memory requests of the executing instruction (14 R560) -/
  reqs : List ReqNote
  /-- stores yet to reach a write-combining buffer, in order of issue, and whether a store of the turn's stream joins them
  (01 R37) -/
  late : List LateSt
  lateTurn : Bool
  /-- draws of free values made so far (log 5) -/
  fresh : Nat
  nextId : Nat
  harts : Assoc Hart
  cores : Assoc Core
  mem : MemSys
  la : LaunchSys
  ov : OvSys
  arrays : Assoc MArray
  tv : TvSys
  gz : GzSys
  sv : SvSys
  dc : DcSys
  hostOut : List HostMsg
  linkOut : List LinkMsg
  portOut : List PortMsg
  /-- serial of the next element train of the package (07 R305) -/
  nextTrain : BitVec 16
  deriving DecidableEq, Repr

/-- A stream that has not started: every register at its reset value (05 R190, R191). -/
def Stream.blank : Stream where
  x := Vector.replicate 64 0
  p := 0
  pc := 0
  ls0 := 0
  le0 := 0
  lc0 := 0
  ls1 := 0
  le1 := 0
  lc1 := 0
  det := false
  ssm := false
  strm := false
  depth := 0
  le := true
  priv := false
  tvec := 0
  tpc := 0
  tcause := 0
  tval := 0
  telem := 0
  tlane := 0
  tstat := 0
  tscratch0 := 0
  tscratch1 := 0
  tscratch2 := 0
  tscratch3 := 0
  icount := 0
  atoms := 0
  hash := 0
  hashShadow := 0
  stripAct := false
  stripNum := 0
  stripLen := 0
  stripEnd := 0
  stripArgs := []
  stripBody := []
  line := none
  dval := 0
  dkind := 0
  live := false
  started := false
  waiting := none
  bars := []
  barWait := none
  blocked := none
  blockedVec := false
  faultWait := none
  declined := none
  captured := none
  storing := none
  targetFault := false
  deferred := []
  reads := []
  stage := 0
  logSerial := none
  yielded := false
  xmarks := []
  drained := []
  copied := []

/-- A hart slot with no context (08 R337, 03 R122..R125, 10 R412). -/
def Hart.blank : Hart where
  serial := 0
  index := 0
  shadow := false
  sa := Stream.blank
  sx := { Stream.blank with strm := true }
  held := none
  vl := 1
  rc := 1
  vstart := 0
  allot := 0
  lanes := 0
  rmode := 0
  srseed := 0
  ovft := 0x20115
  v := []
  vdirty := 0
  vhw := []
  vmarks := []
  k := []
  mstack := []
  q := []
  vq := []
  bqa := []
  bqx := []
  g := []
  ovt := 0
  sideLog := []
  nextSerial := 0
  nextEntry := 0
  claim := 0
  inflight := []
  vfault := none
  mmodes := []
  movf := false
  svN := 0
  svBuf := 0
  svLost := 0
  svRd := 0
  svOcc := 0
  svCount := 0
  svPend := []
  wva := 0
  wctl := 0
  drains := 0
  trains := []

/-- A core with nothing placed on it. -/
def Core.blank : Core where
  owed := 0
  claims := []
  scratch := []
  l1 := []
  wcb := []
  removed := false

/-- A ring at reset (04 R142). -/
def Ring.blank : Ring where
  rbase := 0
  rctl := 0x10
  rptr := 0
  wptr := 0
  overrun := false
  halted := false
  backstep := false
  epoch := 0
  raised := 0
  aging := none
  prev := none
  behind := []
  reads := []

/-- An event queue at reset (04 R178). -/
def EventQueue.blank : EventQueue where
  ebase := 0
  ectl := 0
  wptr := 0
  rptr := 0
  lost := 0
  first := false

/-- A fault queue at reset (06 R286). -/
def FaultQueue.blank : FaultQueue where
  base := 0
  ctl := 0
  wptr := 0
  rptr := 0
  nextId := 0

/-- The memory engine at reset (06 R286; log 2). -/
def MemSys.blank : MemSys where
  hbm := []
  l2 := []
  l2lines := []
  poison := []
  cipher := []
  border := []
  tlbs := []
  walks := []
  faults := []
  nextFault := 0
  fq := []
  ecnt := []
  atbase := 0
  tlbBusy := false
  tlbCmds := []
  dgbase := []
  dglen := []
  dgowner := []
  digests := []
  budget := []
  budgetNext := []
  rounds := []
  hostReqs := []

/-- The launch engine at reset (04 R142, R178, 05 R192). -/
def LaunchSys.blank : LaunchSys where
  rings := []
  queues := []
  tvecdef := 0
  launches := []
  cards := []
  nextSlot := []
  devCount := []
  placeCount := 0
  arrivals := []
  admissions := []
  lastRing := 0

/-- The overlay engine at reset (10 R421; log 9). -/
def OvSys.blank : OvSys where
  holder := []
  gens := []
  cells := []
  abase := 0
  asize := 0
  gser := 0
  gbusy := false
  gfailed := false
  gpend := none

/-- An empty weight bank (11 R443). -/
def Bank.blank : Bank where
  valid := false
  fmt := 0
  data := []
  scales := []
  meta_ := []
  poison := []

/-- An array with no holder (11 R435, R436). -/
def MArray.blank : MArray where
  holder := none
  attached := []
  bank0 := Bank.blank
  bank1 := Bank.blank
  active := false
  staging := 0
  acc := []
  intRows := []
  queue := []
  tile := []
  full := []
  tpoison := []

/-- The traverse engines at reset (12; log 9). -/
def TvSys.blank : TvSys where
  progs := []
  chans := []
  tvctl := []
  flight := []
  landed := []
  reserves := []
  roundsDone := []
  ended := []
  stops := []
  detail := []

/-- The gazetteer engines at reset (13 R528; log 9). -/
def GzSys.blank : GzSys where
  gzctl := []
  dbase := 0
  dbusy := false
  dlast := 0
  pres := 0
  age := []
  cur := []
  dir := []
  cache := []
  sketch := []
  useCount := 0
  probe := 0
  probeBusy := false

/-- The survey engine at reset (14 R553..R570). -/
def SvSys.blank : SvSys where
  mtick := 0
  trace := []
  enser := 0
  stopAt := none
  stopped := false
  lock := none
  broken := false
  point := 0
  rlbase := 0
  rlctl := 0
  rlwptr := 0
  rlrptr := 0
  held := []
  eaten := []
  logReads := []

/-- What FUSERD reads: the words of 15 R583, whose unused bits are zero. -/
def fuseAt (n : Nat) : Word :=
  if n = 2 then Config.fuseWord n &&& 0xF#64
  else if n = 11 then Config.fuseWord n &&& 0xFFFFFFFF#64
  else if 12 ≤ n then 0
  else Config.fuseWord n

/-- Lifecycle code of a pattern of lifecycle fuses (15 R583, R584). -/
def lcOfFuses (w : Word) : BitVec 3 :=
  if w = 0 then 0 else if w = 1 then 1 else if w = 3 then 2 else 4

/-- The datum controller at reset (15 R579, R580, R583; logs 3, 4). -/
def DcSys.blank : DcSys where
  core := { Stream.blank with priv := true, ssm := true, live := true, started := true, strm := true }
  sram := []
  fuses := (List.range 64).map fun n => (n, fuseAt n)
  seed := Config.fuseSeed
  lc := lcOfFuses (fuseAt 2)
  flc := lcOfFuses (fuseAt 2)
  dunlk := 0
  perm := 0
  chal0 := 0
  chal1 := 0
  dfwv := 0
  token := 0
  meas := []
  keys := []
  dbgMask := 0
  dmctl := 0
  dwin := 0
  fwok := false
  fwfail := false
  ready := 0
  cdis := []
  pcap := 0
  choice := 0
  thermal := 0
  power := 0
  meanPower := 0
  powers := []
  coolPeriods := 0
  temps := 0
  hotTicks := 0
  coldTicks := 0
  dueRaise := false
  dueRelax := false
  dueHot := false
  dueTrip := false
  dueCold := false
  pointBy := none
  ibi := false
  i3c := none

/-- The machine right after power-good reset (15 R600). -/
def State.reset : State where
  agenda := []
  order := [.engine, .clock]
  engineAt := 0
  cur := .datum
  curChan := 0
  issue := ⟨0, 0, 0, false, false, 0, false, none, .none, none⟩
  reqs := []
  late := []
  lateTurn := false
  fresh := 0
  nextId := 0
  harts := []
  cores := []
  mem := MemSys.blank
  la := LaunchSys.blank
  ov := OvSys.blank
  arrays := []
  tv := TvSys.blank
  gz := GzSys.blank
  sv := SvSys.blank
  dc := DcSys.blank
  hostOut := []
  linkOut := []
  portOut := []
  nextTrain := 0

end Sys2Proof.Machine
end

