-- ==== Sys2Proof/Machine/Memory.lean ====
section
/-! DEFINITION. Sparse data: associations by key, memory as cells in one canonical form, bytes of lines. -/

namespace Sys2Proof.Machine

open Sys2Proof

/-- The value at a key. -/
def Assoc.get? {α : Type} : Assoc α → Nat → Option α
  | [], _ => none
  | (k, v) :: r, a => if a = k then some v else Assoc.get? r a

/-- The value at a key, or a default. -/
def Assoc.get {α : Type} (l : Assoc α) (a : Nat) (d : α) : α := (Assoc.get? l a).getD d

/-- Put a value at a key. -/
def Assoc.put {α : Type} : Assoc α → Nat → α → Assoc α
  | [], a, v => [(a, v)]
  | (k, w) :: r, a, v =>
    if a < k then (a, v) :: (k, w) :: r else if a = k then (a, v) :: r else (k, w) :: Assoc.put r a v

/-- Remove a key. -/
def Assoc.del {α : Type} (l : Assoc α) (a : Nat) : Assoc α := l.filter fun kv => kv.1 != a

/-- The byte at an address. -/
def Memory.get (m : Memory) (a : Nat) : Byte := Assoc.get m a unlistedByte

/-- Write one byte, keeping the canonical form: writing what an unlisted byte reads as removes the entry. -/
def Memory.set (m : Memory) (a : Nat) (b : Byte) : Memory :=
  if b = unlistedByte then Assoc.del m a else Assoc.put m a b

/-- Addresses strictly above `lo`, strictly rising, and no entry equal to what an unlisted byte reads as. -/
def Memory.wfFrom : Option Nat → Memory → Bool
  | _, [] => true
  | lo, (k, v) :: r =>
    (match lo with
      | none => true
      | some l => decide (l < k)) && v != unlistedByte && Memory.wfFrom (some k) r

/-- The canonical form of a memory. -/
def Memory.wf (m : Memory) : Bool := Memory.wfFrom none m

/-- The bytes at a .. a + n - 1, lowest first. -/
def Memory.bytes (m : Memory) (a n : Nat) : List Byte := (List.range n).map fun i => m.get (a + i)

/-- A list of bytes as a number, the first byte lowest (00 R6). -/
def leNat : List Byte → Nat
  | [] => 0
  | b :: r => b.toNat + 256 * leNat r

/-- The n low bytes of a number, lowest first (00 R6). -/
def leBytes : Nat → Nat → List Byte
  | 0, _ => []
  | n + 1, v => BitVec.ofNat 8 v :: leBytes n (v / 256)

/-- Read n bytes little-endian. -/
def Memory.read (m : Memory) (a n : Nat) : Nat := leNat (m.bytes a n)

/-- Write a list of bytes. -/
def Memory.setBytes : Memory → Nat → List Byte → Memory
  | m, _, [] => m
  | m, a, b :: r => Memory.setBytes (m.set a b) (a + 1) r

/-- Write n bytes little-endian. -/
def Memory.write (m : Memory) (a n v : Nat) : Memory := m.setBytes a (leBytes n v)

/-- Drop every byte of [a, a + n). -/
def Memory.clear (m : Memory) (a n : Nat) : Memory := m.filter fun c => c.1 < a || a + n ≤ c.1

/-- Byte i of a line. -/
def Line.byte (l : Line) (i : Nat) : Byte := (l >>> (8 * i)).setWidth 8

/-- The bytes of a line. -/
def Line.bytes (l : Line) : List Byte := (List.range 64).map (Line.byte l)

/-- A line of bytes. -/
def Line.ofBytes (bs : List Byte) : Line := BitVec.ofNat 512 (leNat bs)

/-- The line with byte i replaced. -/
def Line.setByte (l : Line) (i : Nat) (b : Byte) : Line :=
  (l &&& ~~~((0xFF#512) <<< (8 * i))) ||| ((b.setWidth 512) <<< (8 * i))

/-- n bytes of a line from byte o, as a number. -/
def Line.read (l : Line) (o n : Nat) : Nat := l.toNat / 2 ^ (8 * o) % 2 ^ (8 * n)

/-- The line with n bytes from byte o replaced. -/
def Line.write (l : Line) (o n v : Nat) : Line :=
  (List.range n).foldl (fun acc i => Line.setByte acc (o + i) (BitVec.ofNat 8 (v / 256 ^ i))) l

/-- A mask of n bytes from byte o. -/
def byteMask (o n : Nat) : BitVec 64 := BitVec.ofNat 64 ((2 ^ n - 1) * 2 ^ o)

/-- The line where the masked bytes come from `new`. -/
def Line.merge (old new : Line) (mask : BitVec 64) : Line :=
  (List.range 64).foldl (fun acc i => if mask.getLsbD i then Line.setByte acc i (Line.byte new i) else acc) old

/-- The hash of a sector in the write digest (06 R280). -/
def sectorHash (a : Word) (d : Line) : Word :=
  let z0 : Word := a * 0x9E3779B97F4A7C15#64 + 0x6A09E667F3BCC909#64
  let z := (List.range 8).foldl (fun (z : Word) i =>
    let y := (z ^^^ BitVec.ofNat 64 (Line.read d (8 * i) 8)) * 0xC2B2AE3D27D4EB4F#64
    y ^^^ (y >>> 29)) z0
  z ^^^ (z >>> 32)

/-- The store hash's fold of one chunk (04 R176). -/
def storeHashStep (h a m d : Word) : Word :=
  ((h.rotateLeft 7) ^^^ a ^^^ (m <<< 56)) * 0x9E3779B97F4A7C15#64 + d

/-- Round an address down to a multiple. -/
def alignDown (a n : Nat) : Nat := a / n * n

/-- Insert a number into a strictly rising list. -/
def insertNat : Nat → List Nat → List Nat
  | a, [] => [a]
  | a, b :: r => if a < b then a :: b :: r else if a = b then b :: r else b :: insertNat a r

end Sys2Proof.Machine
end

