-- ==== Sys2Proof/Machine/Ops.lean ====
section
/-! DEFINITION. Named operations over the state: harts, streams, cores, launches; physical memory with its caches;
events; taking an exception and returning from one. -/

namespace Sys2Proof

/-- The hart slot of a party. -/
def Party.slot : Party → Nat
  | .datum => 0
  | .stream slot _ => slot

/-- Is the party a stream X? The datum core's one stream counts as stream X. -/
def Party.isX : Party → Bool
  | .datum => true
  | .stream _ isX => isX

/-- Is the party the datum core? -/
def Party.isDatum : Party → Bool
  | .datum => true
  | .stream _ _ => false

end Sys2Proof

namespace Sys2Proof.Machine

open Sys2Proof

/-! Parts of the package (01 R10, 06 R251). -/

/-- Core of a hart slot. -/
def coreOf (slot : Nat) : Nat := slot / 4

/-- Quadrant of a core. -/
def quadOf (core : Nat) : Nat := core / 128

/-- Cluster of a core. -/
def clusterOf (core : Nat) : Nat := core / 4

/-- The other array of the pair. -/
def partnerArray (a : Nat) : Nat := if a % 2 = 0 then a + 1 else a - 1

/-- The quadrant that holds a device address: three stacks each (06 R250). -/
def homeQuad (pa : Nat) : Nat := pa / 2 ^ 36 / 3

/-! Trap causes (05 R229). -/

def causeIll : Nat := 0x01
def causePriv : Nat := 0x02
def causeBrtgt : Nat := 0x03
def causeParity : Nat := 0x04
def causeAlign : Nat := 0x05
def causePage : Nat := 0x06
def causeProt : Nat := 0x07
def causeRegallot : Nat := 0x08
def causeQdir : Nat := 0x09
def causeLocal : Nat := 0x0A
def causeOvstale : Nat := 0x0B
def causeOvpool : Nat := 0x0C
def causeFootprint : Nat := 0x0D
def causeMattach : Nat := 0x0E
def causePoison : Nat := 0x0F
def causeSwtrap : Nat := 0x10
def causeWatch : Nat := 0x11

/-! State accessors. -/

/-- The context on a hart slot, if there is one. -/
def State.hart? (s : State) (slot : Nat) : Option Hart := s.harts.get? slot

/-- The context on a hart slot, blank when there is none. -/
def State.hart (s : State) (slot : Nat) : Hart := s.harts.get slot Hart.blank

/-- Replace a hart's context. -/
def State.setHart (s : State) (slot : Nat) (h : Hart) : State := { s with harts := s.harts.put slot h }

/-- The stream of a hart. -/
def Hart.stream (h : Hart) (isX : Bool) : Stream := if isX then h.sx else h.sa

/-- Replace a stream of a hart. -/
def Hart.setStream (h : Hart) (isX : Bool) (st : Stream) : Hart := if isX then { h with sx := st } else { h with sa := st }

/-- The stream of a party, if its hart has a context. -/
def State.stream? (s : State) : Party → Option Stream
  | .datum => some s.dc.core
  | .stream slot isX => (s.hart? slot).map fun h => h.stream isX

/-- Replace the stream of a party. -/
def State.setStream (s : State) (p : Party) (st : Stream) : State :=
  match p with
  | .datum => { s with dc := { s.dc with core := st } }
  | .stream slot isX => s.setHart slot ((s.hart slot).setStream isX st)

/-- The stream of a party, blank when there is none. -/
def State.stream (s : State) (p : Party) : Stream := (s.stream? p).getD Stream.blank

/-- A core. -/
def State.core (s : State) (c : Nat) : Core := s.cores.get c Core.blank

/-- Replace a core. -/
def State.setCore (s : State) (c : Nat) (k : Core) : State := { s with cores := s.cores.put c k }

/-- An array. -/
def State.array (s : State) (a : Nat) : MArray := s.arrays.get a MArray.blank


/-- The launch of a key that has not ended. -/
def State.launch? (s : State) (serial : Word) : Option Launch :=
  s.la.launches.find? fun l => l.serial == serial && l.phase != .done

/-- The launch that a serial names: the most recently accepted one that bears it and has not ended (04 R174). -/
def State.named? (s : State) (name : Word) : Option Launch :=
  (s.la.launches.filter fun l => l.name == name && l.phase != .done).getLast?

/-- The serial of the launch of a key. A key that is no serial has bit 63 set (04 R174). -/
def State.nameOf (s : State) (key : Word) : Word :=
  if key.getLsbD 63 then ((s.la.launches.find? fun l => l.serial == key).map fun l => l.name).getD key else key

/-- Replace a launch. -/
def State.setLaunch (s : State) (l : Launch) : State :=
  { s with la := { s.la with launches := s.la.launches.map fun m =>
    if m.serial == l.serial && m.phase != .done then l else m } }

/-- Change a launch. -/
def State.updLaunch (s : State) (serial : Word) (f : Launch → Launch) : State :=
  match s.launch? serial with
  | some l => s.setLaunch (f l)
  | none => s

/-- Is a key that of a launch of lockstep pairs? (04 R175) -/
def State.lockstep (s : State) (serial : Word) : Bool := (s.launch? serial).any fun l => l.info.pair

/-- An array as the shadow's side of a lockstep pair holds it: the same work on its own array, the commands being the
primary's to start (04 R175). -/
def MArray.shadow (m : MArray) : MArray :=
  { m with
    attached := m.attached.map fun t => (t.1 + 16, t.2)
    acc := m.acc.map fun kv => (kv.1 + 16 * 32768, kv.2)
    intRows := m.intRows.map fun r => r + 16 * 128
    queue := [] }

/-- Replace an array; under PAIR the other array of the pair is the shadow's side of it (04 R175). -/
def State.setArray (s : State) (a : Nat) (m : MArray) : State :=
  let both := (m.holder.orElse fun _ => (s.array a).holder).any s.lockstep
  { s with arrays := if both then (s.arrays.put a m).put (partnerArray a) m.shadow else s.arrays.put a m }

/-- The card of a launch and sequence number. -/
def State.card? (s : State) (serial : Word) (seq : Nat) : Option Card :=
  s.la.cards.find? fun c => c.serial == serial && c.seq == seq

/-- Change a card. -/
def State.updCard (s : State) (serial : Word) (seq : Nat) (f : Card → Card) : State :=
  { s with la := { s.la with cards := s.la.cards.map fun c =>
    if c.serial == serial && c.seq == seq then f c else c } }

/-- The meridian counter (14 R553). -/
def State.tick (s : State) : Nat := s.sv.mtick.toNat

/-- The launch of a hart. -/
def State.launchOf (s : State) (slot : Nat) : Option Launch := s.launch? (s.hart slot).serial

/-- Replace the memory engine's state. -/
def State.setMem (s : State) (m : MemSys) : State := { s with mem := m }

/-- Replace the launch engine's state. -/
def State.setLa (s : State) (m : LaunchSys) : State := { s with la := m }

/-- Draw a free value: what the spec leaves open (log 5). -/
def State.draw (s : State) : Word × State := (Config.freeWord s.fresh, { s with fresh := s.fresh + 1 })

/-! Device memory at its home (01 R11, 06 R248). -/

/-- What a stack gives for a sector: ciphertext without a key is free bytes (15 R592). -/
def MemSys.stack (m : MemSys) (sec : Nat) : Line :=
  match m.cipher.find? fun r => decide (r.1 ≤ sec) && decide (sec < r.2.1) with
  | some r => Config.cipherLine r.2.2 sec
  | none => Line.ofBytes (m.hbm.bytes (64 * sec) 64)

/-- The contents of a device sector at its home bank: L2 where it is held dirty, the stack otherwise. -/
def MemSys.sector (m : MemSys) (sec : Nat) : Line :=
  match m.l2.get? sec with
  | some x => x.data
  | none => m.stack sec

/-- One byte of device memory at its home. -/
def MemSys.homeByte (m : MemSys) (pa : Nat) : Byte := Line.byte (m.sector (pa / 64)) (pa % 64)

/-- n bytes of device memory at their homes, little-endian. -/
def MemSys.homeRead (m : MemSys) (pa n : Nat) : Nat := leNat ((List.range n).map fun i => m.homeByte (pa + i))

/-- n bytes of device memory as a list. -/
def MemSys.homeBytes (m : MemSys) (pa n : Nat) : List Byte := (List.range n).map fun i => m.homeByte (pa + i)

/-- Is a sector poisoned? The mark moves with the sector (06 R285). -/
def MemSys.poisoned (m : MemSys) (sec : Nat) : Bool :=
  match m.l2.get? sec with
  | some x => x.poison
  | none => m.poison.any fun r => decide (r.1 ≤ sec) && decide (sec < r.2)

/-- Ranges without the sectors lo .. hi - 1. -/
def rangesDel (l : List (Nat × Nat)) (lo hi : Nat) : List (Nat × Nat) :=
  l.flatMap fun r => ([(r.1, min r.2 lo), (max r.1 hi, r.2)] : List (Nat × Nat)).filter fun q => q.1 < q.2

/-- Ciphertext ranges without one sector. -/
def cipherDel (l : List (Nat × Nat × Nat)) (sec : Nat) : List (Nat × Nat × Nat) :=
  l.flatMap fun r => ([(r.1, min r.2.1 sec, r.2.2), (max r.1 (sec + 1), r.2.1, r.2.2)] :
    List (Nat × Nat × Nat)).filter fun q => q.1 < q.2.1

/-- Insert a range before the first that starts above it. -/
def rangeInsert (r : Nat × Nat) : List (Nat × Nat) → List (Nat × Nat)
  | [] => [r]
  | q :: l => if r.1 < q.1 then r :: q :: l else q :: rangeInsert r l

/-- Mark the sectors lo .. hi - 1 poisoned, in HBM and where L2 holds them dirty. -/
def MemSys.poisonRange (m : MemSys) (lo hi : Nat) : MemSys :=
  if hi ≤ lo then m
  else
    { m with
      poison := rangeInsert (lo, hi) (rangesDel m.poison lo hi)
      l2 := m.l2.map fun kv => (kv.1, if lo ≤ kv.1 ∧ kv.1 < hi then { kv.2 with poison := true } else kv.2) }

/-- Mark or clear a sector's poison where the sector is: dirty in L2, or in HBM (06 R285). -/
def MemSys.setPoison (m : MemSys) (sec : Nat) (b : Bool) : MemSys :=
  match m.l2.get? sec with
  | some x => { m with l2 := m.l2.put sec { x with poison := b } }
  | none =>
    { m with poison := if b then rangeInsert (sec, sec + 1) (rangesDel m.poison sec (sec + 1))
        else rangesDel m.poison sec (sec + 1) }

/-- Is a sector in a sealed range? (15 R592) -/
def State.sealedSec (s : State) (sec : Nat) : Bool :=
  s.dc.keys.any fun nk => nk.2.sealed && decide (nk.2.slo ≤ 64 * sec) && decide (64 * sec < nk.2.shi)

/-- The border copies after a store to a sector: the storing quadrant's copy goes, and every copy where the store is
multi-copy atomic (01 R47); the others await invalidation. An ordered vector store's element performs only once no copy
hides an earlier element of it (01 R48). -/
def MemSys.copiesAfter (m : MemSys) (tick : Nat) (quad : Option Nat) (through : Bool) (orders : List (Nat × Nat)) (sec : Nat) :
    List BorderCopy :=
  (m.border.filter fun b =>
    !(b.sector == sec && (through || some b.quad == quad)) && !(b.orders.any orders.contains)).map fun b =>
      if b.sector == sec then
        { b with stale := some (b.stale.getD tick), orders := b.orders ++ orders.filter fun o => !b.orders.contains o }
      else b

/-- A store performs on a sector at its home: the sector is dirty in L2, a store of all 64 bytes clears its poison
(01 R11, 06 R248, R285). A store to a sealed range is discarded (15 R592). -/
def MemSys.homeStore (m : MemSys) (sealed : Nat → Bool) (tick : Nat) (quad : Option Nat) (through : Bool)
    (orders : List (Nat × Nat)) (sec : Nat) (mask : BitVec 64) (data : Line) : MemSys :=
  if sealed sec then m
  else
    { m with
      l2 := m.l2.put sec ⟨Line.merge (m.sector sec) data mask, m.poisoned sec && mask != BitVec.allOnes 64⟩
      border := m.copiesAfter tick quad through orders sec }

/-- Write bytes at a device address at home, sector by sector. -/
def MemSys.homeWriteBytes (m : MemSys) (sealed : Nat → Bool) (tick : Nat) (pa : Nat) (bs : List Byte) : MemSys :=
  (List.range (bs.length / 64 + 2)).foldl (fun m i =>
    let sec := pa / 64 + i
    let lo := if 64 * sec < pa then pa - 64 * sec else 0
    let hi := if 64 * sec + 64 < pa + bs.length then 64 else pa + bs.length - 64 * sec
    if hi ≤ lo then m
    else
      let part := (bs.drop (64 * sec + lo - pa)).take (hi - lo)
      m.homeStore sealed tick none false [] sec (byteMask lo (hi - lo)) (Line.ofBytes (List.replicate lo 0 ++ part))) m

/-! Lines of L2 (06 R247, R248). -/

/-- A sector goes back to its stack: its dirty bytes and its mark are written, it is clean (06 R248, R285). -/
def MemSys.writeBack (m : MemSys) (sec : Nat) : MemSys :=
  match m.l2.get? sec with
  | none => m
  | some x =>
    { m with
      hbm := m.hbm.setBytes (64 * sec) (Line.bytes x.data)
      l2 := m.l2.del sec
      poison := if x.poison then rangeInsert (sec, sec + 1) (rangesDel m.poison sec (sec + 1))
        else rangesDel m.poison sec (sec + 1)
      cipher := cipherDel m.cipher sec }

/-- Sectors of a line of L2. -/
def l2Sectors (line : Nat) : List Nat := (List.range 4).map fun i => 4 * line + i

/-- The bank of a line, by address bits [13:8] and [19:14] (06 R248), and its set in the bank. DESIGN CHOICE (log 56): the set
is address bits [21:14]. -/
def l2Set (line : Nat) : Nat × Nat := ((line % 64) ^^^ (line / 64 % 64), line / 64 % 256)

/-- A line leaves a quadrant's L2: its dirty sectors are written back, its border copies there and the L1 copies of the
quadrant's cores go with it (06 R248). -/
def State.evictL2 (s : State) (quad line : Nat) : State :=
  let secs := l2Sectors line
  let m := if homeQuad (256 * line) = quad then secs.foldl MemSys.writeBack s.mem else s.mem
  { s with
    mem := { m with
      l2lines := m.l2lines.filter fun x => x != (quad, line)
      border := m.border.filter fun b => !(b.quad == quad && secs.contains b.sector) }
    cores := s.cores.map fun kv =>
      (kv.1, if quadOf kv.1 = quad then { kv.2 with l1 := kv.2.l1.filter fun l => !secs.contains l.key } else kv.2) }

/-- A line is used in a quadrant's L2: it is held there, most recently used, or first to evict where `last` is set; a full
set evicts its least recently used line (06 R247, R248). -/
def State.touchL2 (s : State) (quad line : Nat) (last : Bool) : State :=
  let others := fun (s : State) => s.mem.l2lines.filter fun x => x != (quad, line)
  let set_ := (others s).filter fun x => x.1 == quad && l2Set x.2 == l2Set line
  let s := match if 16 ≤ set_.length then set_.getLast? else none with
    | some v => s.evictL2 quad v.2
    | none => s
  let rest := others s
  { s with mem := { s.mem with l2lines := if last then rest ++ [(quad, line)] else (quad, line) :: rest } }

/-- A store to a sector invalidates the pieces of cached rows that it touches (13 R535). -/
def GzSys.dropSector (g : GzSys) (sec : Nat) : GzSys :=
  if g.cache.isEmpty then g
  else
    let cut := fun (r : GzRow) => { r with pieces := r.pieces.filter fun p => !p.2.contains sec }
    { g with cache := g.cache.map fun kv => (kv.1, (kv.2.map cut).filter fun r => !(r.pieces.isEmpty && r.pins.isEmpty)) }

/-- Stores to the sectors of n bytes at a device address invalidate cached rows. -/
def State.dropRows (s : State) (pa n : Nat) : State :=
  { s with gz := (List.range ((pa % 64 + n + 63) / 64)).foldl (fun g i => g.dropSector (pa / 64 + i)) s.gz }

/-- Drop every border copy that awaits invalidation (log 6). -/
def MemSys.dropStale (m : MemSys) : MemSys := { m with border := m.border.filter fun b => b.stale.isNone }

/-- Streams waiting on the line of a key see a store (05 R237). -/
def State.wakeLine (s : State) (lineKey : Nat) : State :=
  let w := fun (st : Stream) => match st.waiting with
    | some ws => if ws.line = some lineKey then { st with waiting := some { ws with stored := true } } else st
    | none => st
  { s with harts := s.harts.map fun (n, h) => (n, { h with sa := w h.sa, sx := w h.sx })
           dc := { s.dc with core := w s.dc.core } }

/-- An engine's own store of bytes at a device address; streams that wait on its lines see it (05 R237). -/
def State.homeWriteBytes (s : State) (pa : Nat) (bs : List Byte) : State :=
  let s := (List.range ((pa % 256 + bs.length + 255) / 256)).foldl (fun (s : State) i =>
    s.touchL2 (homeQuad pa) (pa / 256 + i) false) (s.dropRows pa bs.length)
  let s := { s with mem := s.mem.homeWriteBytes s.sealedSec s.tick pa bs }
  (List.range ((pa % 64 + bs.length + 63) / 64)).foldl (fun (s : State) i => s.wakeLine (pa / 64 + i)) s

/-- Access key of a line of host memory, divided by 64. -/
def hostKey (pa : Nat) : Nat := 2 ^ 62 + pa / 64

/-- A write to host memory; streams that wait on its lines see it (05 R237). -/
def State.hostWrite (s : State) (pa : Nat) (bs : List Byte) : State :=
  (List.range ((pa % 64 + bs.length + 63) / 64)).foldl (fun (s : State) i => s.wakeLine (hostKey (pa + 64 * i)))
    { s with hostOut := s.hostOut ++ [.hwr pa bs] }

/-- A record of an engine goes to host memory or to device memory. -/
def State.recordOut (s : State) (host : Bool) (addr : Nat) (bs : List Byte) : State :=
  if host then s.hostWrite addr bs else s.homeWriteBytes addr bs

/-- Bytes of digest list that a slot's area holds, in entries of 16 bytes (06 R279, R286; log 12). -/
def State.digestRoom (s : State) (slot : Nat) : Nat := (s.mem.dglen.get slot 0).toNat / 16

/-- A write of a DET launch at tag 0 enters its digest list (06 R279). -/
def State.noteWrite (s : State) (serial : Word) (va pa : Nat) : State :=
  match s.launch? serial with
  | none => s
  | some l =>
    match l.dslot with
    | none => s
    | some slot =>
      let e := (alignDown va 64, alignDown pa 64)
      if (l.dlist.filter fun x => x.1 == e.1).getLast? = some e || l.dover then s
      else if s.digestRoom slot ≤ l.dlist.length then s.setLaunch { l with dover := true }
      else
        let at_ := (s.mem.dgbase.get slot 0).toNat + 16 * l.dlist.length
        let s := s.homeWriteBytes at_ (leBytes 8 e.1 ++ leBytes 8 e.2)
        s.setLaunch { l with dlist := l.dlist ++ [e] }

/-- A store performs at home: its line is held in the home L2. -/
def State.homePerform (s : State) (quad : Option Nat) (through : Bool) (orders : List (Nat × Nat)) (sec : Nat)
    (mask : BitVec 64) (data : Line) : State :=
  let s := (s.dropRows (64 * sec) 64).touchL2 (homeQuad (64 * sec)) (sec / 4) false
  (s.setMem (s.mem.homeStore s.sealedSec s.tick quad through orders sec mask data)).wakeLine sec

/-- A store of a launch performs at home. -/
def State.homeStore (s : State) (quad : Option Nat) (serial : Word) (va pa : Nat) (mask : BitVec 64) (data : Line) :
    State :=
  (s.homePerform quad false [] (pa / 64) mask data).noteWrite serial va pa

/-- A multi-copy-atomic store of a launch performs at home (01 R47). -/
def State.homeThrough (s : State) (quad : Option Nat) (serial : Word) (va pa : Nat) (mask : BitVec 64) (data : Line) :
    State :=
  (s.homePerform quad true [] (pa / 64) mask data).noteWrite serial va pa

/-- A store of n bytes of value v performs at home. -/
def State.homeWrite (s : State) (quad : Option Nat) (serial : Word) (va pa n v : Nat) : State :=
  s.homeStore quad serial va pa (byteMask (pa % 64) n) (Line.write 0 (pa % 64) n v)

/-! The write-combining buffer and L1 (06 R245, R246). -/

/-- An entry of a core's write-combining buffer performs at home. -/
def State.drainEntry (s : State) (core : Nat) (e : WcbEntry) : State :=
  let s := s.homePerform (some (quadOf core)) false (e.parts.filterMap (·.order)).dedup e.line e.mask e.data
  e.parts.foldl (fun s p => s.noteWrite p.serial p.va (64 * e.line)) s

/-- The oldest n entries of a core's write-combining buffer drain, in allocation order. -/
def State.drainSome (s : State) (core n : Nat) : State :=
  let k := s.core core
  let s := s.setCore core { k with wcb := k.wcb.drop n }
  (k.wcb.take n).foldl (fun s e => s.drainEntry core e) s

/-- A core's write-combining buffer drains. -/
def State.drainCore (s : State) (core : Nat) : State := s.drainSome core (s.core core).wcb.length

/-- Entries of a buffer up to and including the last that meets a condition. -/
def Core.wcbThrough (k : Core) (f : WcbEntry → Bool) : Nat :=
  match (k.wcb.zipIdx.filter fun e => f e.1).getLast? with
  | some (_, i) => i + 1
  | none => 0

/-- The entries up to and including those of a line drain (06 R246). -/
def State.drainLine (s : State) (core line : Nat) : State := s.drainSome core ((s.core core).wcbThrough fun e => e.line == line)

/-- The entries up to and including those of an ordered vector store drain (01 R48). -/
def State.drainOrder (s : State) (core : Nat) (o : Nat × Nat) : State :=
  s.drainSome core ((s.core core).wcbThrough fun e => e.parts.any fun p => p.order == some o)

/-- Would a store merge into an entry that is older than one which holds an earlier element of the same ordered store
(01 R48)? -/
def Core.overtakes (k : Core) (line : Nat) (order : Option (Nat × Nat)) : Bool :=
  order.isSome && ((k.wcb.dropWhile fun e => e.line != line).drop 1).any fun e => e.parts.any fun p => p.order == order

/-- Entries that drain before a store can enter the buffer: those of its line where it may not merge, the oldest when none is
free (06 R246). -/
def Core.wcbForced (k : Core) (line : Nat) (order : Option (Nat × Nat)) : Nat :=
  if k.overtakes line order then k.wcbThrough fun e => e.line == line
  else if k.wcb.length < 32 || k.wcb.any (·.line == line) then 0 else 1

/-- A store enters the write-combining buffer: it merges into the line's entry, or takes a free one, the oldest
draining first when there is none; a present L1 line is updated, and a whole line written clears its mark (06 R245,
R246, R285). -/
def State.wcbStore (s : State) (core : Nat) (part : WcbPart) (pa n v : Nat) : State :=
  let line := pa / 64
  let mask := byteMask (pa % 64) n
  let data := Line.write 0 (pa % 64) n v
  let s := s.drainSome core ((s.core core).wcbForced line part.order)
  let k := s.core core
  let full := ((k.wcb.find? (·.line == line)).map (·.mask)).getD 0 ||| mask == BitVec.allOnes 64
  let l1 := k.l1.map fun l =>
    if l.key == line then { l with data := Line.merge l.data data mask, poison := l.poison && !full } else l
  let wcb :=
    if k.wcb.any (·.line == line) then
      k.wcb.map fun e =>
        if e.line == line then
          { e with data := Line.merge e.data data mask, mask := e.mask ||| mask
                   parts := if e.parts.contains part then e.parts else e.parts ++ [part] }
        else e
    else k.wcb ++ [⟨line, mask, data, s.tick, [part]⟩]
  s.setCore core { k with l1, wcb }

/-- A late store enters its buffer. -/
def State.lateStore (s : State) (l : LateSt) : State := s.wcbStore l.core l.part l.pa l.n l.v

/-- The late stores that meet a condition perform, in order of issue. -/
def State.performLate (s : State) (f : LateSt → Bool) : State :=
  (s.late.filter f).foldl State.lateStore { s with late := s.late.filter fun l => !f l }

/-- Every late store performs: what is not a stream's turn finds none (01 R33, R37). -/
def State.allPerformed (s : State) : State := if s.late.isEmpty then s else s.performLate fun _ => true

/-- The late stores of the executing stream perform: no store of the turn joins them. -/
def State.inOrder (s : State) : State :=
  if s.late.isEmpty then { s with lateTurn := false }
  else { s.performLate (fun l => l.p == s.cur) with lateTurn := false }

/-- Ways of a core that serve as L1 (06 R243). -/
def Core.l1w (k : Core) : Nat := 32 - (k.scratch.map (·.spw)).sum

/-- Fill a line into L1: the least recently used line of the set leaves when the set is full, unless `.kp` protects
it (06 R245, R247). Lines are listed most recently used first. -/
def Core.l1Fill (k : Core) (hint : Fin 4) (l : L1Line) : Core :=
  let inSet := fun (m : L1Line) => m.key % 1024 == l.key % 1024
  let rest := k.l1.filter fun m => m.key != l.key
  let room := decide ((rest.filter inSet).length < k.l1w)
  let lru := (rest.filter fun m => inSet m && (hint == 2 || !(m.keep && decide (l.tick < m.tick + 4096)))).getLast?
  let rest := if room then some rest else lru.map fun v => rest.filter fun m => m.key != v.key
  match rest with
  | none => k
  | some r => { k with l1 := if hint == 1 then r ++ [l] else l :: r }

/-- The lines of L1 of a core go (01 R44). -/
def State.clearL1 (s : State) (core : Nat) : State :=
  let k := s.core core
  s.setCore core { k with l1 := [] }

/-- What a quadrant's L2 gives for a device sector: the home bank's contents, or the quadrant's border copy, which
is made when there is none; the line is held in both (01 R11, 06 R247, R248). -/
def State.readL2 (s : State) (quad sec : Nat) (last : Bool) : Line × Bool × State :=
  let home := homeQuad (64 * sec)
  let s := s.touchL2 home (sec / 4) last
  if home = quad then (s.mem.sector sec, s.mem.poisoned sec, s)
  else
    let s := s.touchL2 quad (sec / 4) last
    match s.mem.border.find? fun b => b.quad == quad && b.sector == sec with
    | some b => (b.data, b.poison, s)
    | none =>
      let d := s.mem.sector sec
      let po := s.mem.poisoned sec
      (d, po, s.setMem { s.mem with border := s.mem.border ++ [⟨quad, sec, d, po, none, []⟩] })

/-- The line of a key in a core's L1, if L1 has ways and holds the wanted bytes of it. -/
def Core.l1Hit (k : Core) (key : Nat) (mask : BitVec 64) : Option L1Line :=
  if k.l1w = 0 then none else k.l1.find? fun l => l.key == key && l.valid &&& mask == mask

/-- A hit makes a line the most recently used (06 R247). -/
def Core.l1Use (k : Core) (hint : Fin 4) (l : L1Line) : Core :=
  { k with l1 := { l with keep := l.keep || hint == 2 } :: k.l1.filter fun m => m.key != l.key }

/-- A core's load of a device sector: a write-combining entry of the line drains first; L1 gives a present line, L2
otherwise, filling L1 unless `.by` or no way is left for it (06 R245..R247). -/
def State.readCached (s : State) (core : Nat) (hint : Fin 4) (sec : Nat) : Line × Bool × State :=
  let s := s.drainLine core sec
  match (s.core core).l1Hit sec (BitVec.allOnes 64) with
  | some l => (l.data, l.poison, s.setCore core ((s.core core).l1Use hint l))
  | none =>
    let (d, po, s) := s.readL2 (quadOf core) sec (hint == 1)
    if hint == 3 || (s.core core).l1w = 0 then (d, po, s)
    else (d, po, s.setCore core ((s.core core).l1Fill hint ⟨sec, d, po, s.tick, hint == 2, BitVec.allOnes 64⟩))

/-- A line leaves a core's L1. -/
def State.dropL1 (s : State) (core key : Nat) : State :=
  let k := s.core core
  s.setCore core { k with l1 := k.l1.filter fun m => m.key != key }

/-- A core that has read a sector at its home bank keeps no older copy of it: its L1 line and its quadrant's border copy go
(01 R36, R43). -/
def State.dropNear (s : State) (core sec : Nat) : State :=
  (s.setMem { s.mem with border := s.mem.border.filter fun b => !(b.sector == sec && b.quad == quadOf core) }).dropL1 core sec

/-! Events (04 R178..R180). -/

/-- Ring size of an event or fault queue: LOGN outside 4..16 acts as 4. -/
def logSize (n : Nat) : Nat := if 4 ≤ n ∧ n ≤ 16 then 2 ^ n else 16

/-- An event queue. -/
def State.queue (s : State) (q : Nat) : EventQueue := s.la.queues.get q EventQueue.blank

/-- Post an event record to a queue (04 R178..R180); posting releases at scope pkg (01 R25). -/
def State.postEvent (s : State) (q src code detail : Nat) (serial : Word) (data : List Byte) : State :=
  let e := s.queue q
  let n := logSize (fieldOf e.ectl.toNat 2 5)
  let full := decide (n ≤ (e.wptr - e.rptr).toNat)
  if !e.ectl.getLsbD 0 || full then
    s.setLa { s.la with queues := s.la.queues.put q { e with lost := e.lost + 1 } }
  else
    let bytes := leBytes 2 src ++ leBytes 1 code ++ leBytes 1 (if e.first || 0 < e.lost then 1 else 0) ++ leBytes 4 detail
      ++ leBytes 8 s.tick ++ leBytes 8 (s.nameOf serial).toNat ++ (data ++ List.replicate 40 0).take 40
    let addr := e.ebase.toNat + 64 * (e.wptr.toNat % n)
    let note := if e.wptr = e.rptr then [HostMsg.note q] else []
    let s := s.setLa { s.la with queues := s.la.queues.put q { e with wptr := e.wptr + 1, lost := 0, first := false } }
    let s := ((s.setMem s.mem.dropStale).recordOut (e.ectl.getLsbD 1) addr bytes)
    let s := s.setMem s.mem.dropStale
    { s with hostOut := s.hostOut ++ note }

/-- A launch's event queue and home instance's source (04 R174, R179). -/
def State.postLaunch (s : State) (l : Launch) (code detail : Nat) (data : List Byte) : State :=
  s.postEvent l.evq (64 + l.home) code detail l.serial data

/-- Event queue of a fault queue's source (06 R286). -/
def State.faultQueue (s : State) (q : Nat) : FaultQueue := s.mem.fq.get q FaultQueue.blank

/-- Post from a quadrant's fault queue: codes 17 FAULT, 18 UNCORRECTED, 19 LINKERR, 28 HOSTFAULT. -/
def State.postFault (s : State) (quad code detail : Nat) (serial : Word) (data : List Byte) : State :=
  s.postEvent (fieldOf (s.faultQueue quad).ctl.toNat 7 4) (217 + quad) code detail serial data

/-! The trap record (05 R229..R235). -/

/-- sstat as a word (05 R191). -/
def Stream.sstat (st : Stream) : Word :=
  BitVec.ofNat 64 (st.priv.toNat + 2 * st.le.toNat + 8 * st.depth.val + 32 * st.strm.toNat + 64 * st.ssm.toNat
    + 128 * st.det.toNat)

/-- tlane of a trap that is not specific to a lane (05 R232). -/
def noLane : Word := allOnes64

/-- The registers of trap entry (05 R232): what is saved, and where control goes. -/
def Stream.enter (st : Stream) (cause : Nat) (tval tpc telem tlane : Word) : Stream :=
  { st with
    tstat := st.sstat
    tpc := tpc
    tcause := BitVec.ofNat 64 cause
    tval := tval
    telem := telem
    tlane := tlane
    priv := true
    le := false
    depth := st.depth + 1
    pc := st.tvec
    waiting := none
    blocked := none
    barWait := none
    stage := 0
    logSerial := none
    faultWait := none
    declined := none
    targetFault := false
    captured := none
    storing := none
    line := none
    stripBody := []
    copied := []
    reads := [] }

/-- Cancel a launch (04 R173): its harts are discarded, its cards are to complete with ABORT. -/
def State.cancel (s : State) (serial : Word) : State :=
  let dead := fun (st : Stream) => { st with live := false, waiting := none }
  let s := { s with harts := s.harts.map fun (nh : Nat × Hart) =>
    let (n, h) := nh
    if h.serial == serial then (n, { h with sa := dead h.sa, sx := dead h.sx, sideLog := [], held := none }) else (n, h) }
  let s := s.updLaunch serial fun l =>
    { l with cancelled := true, phase := .ending
             gangs := l.gangs.map fun (g : Gang) =>
               if g.st = .resident then g else { g with st := .done, saved := [], savedScratch := [], savedArrays := [] } }
  { s with la := { s.la with cards := s.la.cards.map fun (c : Card) =>
      if c.serial == serial && c.completed.isNone && c.stop.isNone then { c with stop := some (.abort, 0, 0, 0) }
      else c }
           mem := { s.mem with rounds := s.mem.rounds.filter fun r => r.serial != serial } }

/-- A trap at DEPTH 3 stops the hart, cancels the launch and posts TRAPSTOP (05 R232); the datum core stops, and
source 216 posts it (15 R579). -/
def State.trapStop (s : State) (p : Party) (cause : Nat) (tval tpc : Word) : State :=
  let data := fun (isX : Bool) => leBytes 8 (if isX then 1 else 0) ++ leBytes 8 tpc.toNat ++ leBytes 8 tval.toNat
  match p with
  | .datum => (s.setStream .datum { s.dc.core with live := false }).postEvent (s.dc.dmctl.toNat % 16) 216 16 cause 0
      (data s.dc.core.strm)
  | .stream slot isX =>
    let serial := (s.hart slot).serial
    let data := data isX
    match s.launch? serial with
    | some l => (s.cancel serial).postLaunch l 16 cause data
    | none => s

/-- Is the instruction in hand part-way, with an access performed: a store with elements performed or logged, a read or an
atomic under way? -/
def Stream.midAccess (st : Stream) : Bool :=
  st.stage != 0 || !st.reads.isEmpty || (st.storing.map fun x => !x.perf.isEmpty).getD false

/-- Hold the other stream of the hart: an instruction of it that has performed an access is to complete, another is
abandoned, and its pc names it (05 R231). -/
def State.holdPartner (s : State) (p : Party) : State :=
  match p with
  | .datum => s
  | .stream slot isX =>
    let h := s.hart slot
    let st := h.stream (!isX)
    if st.midAccess then s.setHart slot { h with held := some (!isX) }
    else
      s.setHart slot ({ h with held := some (!isX), inflight := h.inflight.filter fun e => e.done || e.isX == isX }.setStream
        (!isX) { st with captured := none })

/-- TAKING AN EXCEPTION (05 R232): at DEPTH 3 the stream's hart stops; otherwise the partner is held, the trap
record is written and control goes to tvec in system mode. -/
def State.enterTrap (s : State) (p : Party) (cause : Nat) (tval tpc telem tlane : Word) : State :=
  let st := s.stream p
  if st.depth = 3 then s.trapStop p cause tval tpc
  else (s.holdPartner p).setStream p (st.enter cause tval tpc telem tlane)

/-- RETURN FROM AN EXCEPTION, the register part (05 R235). -/
def Stream.leave (st : Stream) : Stream :=
  { st with
    priv := st.tstat.getLsbD 0
    le := st.tstat.getLsbD 1
    depth := st.depth - 1
    line := none
    pc := st.tpc }

/-- RETURN FROM AN EXCEPTION (05 R231, R235): the partner is released when DEPTH is 0 again. -/
def State.leaveTrap (s : State) (p : Party) : State :=
  let st := (s.stream p).leave
  let s := s.setStream p st
  match p with
  | .datum => s
  | .stream slot _ => if st.depth = 0 then s.setHart slot { s.hart slot with held := none } else s

/-! The monad of meanings. -/

/-- Why an instruction does not take its ordinary effect. `vtrap` is a vector instruction's trap at an element and a
lane; `etrap` is the trap of a failed element train, which names the train's element (07 R307);
`tfault` and `pool` are a translation fault and a pool fault at an address, for the accessing party to answer
(06 R259, 10 R420). -/
inductive Exc
  | trap (cause : Nat) (tval : Word)
  | vtrap (cause : Nat) (tval : Word) (elem lane : Nat)
  | etrap (cause : Nat) (tval : Word) (elem : Nat)
  | tfault (va : Nat) (bad : Bool) (k : AKind) (elem : Nat)
  | pool (va elem : Nat)
  | wait
  deriving DecidableEq, Repr

/-- Meanings run over the state and may end early. -/
abbrev M := EStateM Exc State

/-- Trap (02 R102). -/
def trap {α : Type} (cause : Nat) (tval : Word) : M α := throw (.trap cause tval)

/-- Wait: the instruction stays and is executed again at the stream's next turn. -/
def waitHere {α : Type} : M α := throw .wait

/-- The stream that executes. -/
def curStream : M Stream := do return (← get).stream (← get).cur

/-- Change the stream that executes. -/
def modStream (f : Stream → Stream) : M Unit := modify fun s => s.setStream s.cur (f (s.stream s.cur))

/-- The hart that executes. -/
def curHart : M Hart := do return (← get).hart (← get).cur.slot

/-- Change the hart that executes. -/
def modHart (f : Hart → Hart) : M Unit := modify fun s => s.setHart s.cur.slot (f (s.hart s.cur.slot))

/-- The slot that executes. -/
def curSlot : M Nat := do return (← get).cur.slot

/-- The core that executes. -/
def curCore : M Nat := do return coreOf (← get).cur.slot

/-- The launch that the executing hart belongs to. -/
def curLaunch? : M (Option Launch) := do return (← get).launchOf (← get).cur.slot

/-- Trap ILL of a value-dependent check: tval is bits [95:32] of the slot (02 R87). -/
def trapIll {α : Type} : M α := do trap causeIll (((← get).issue.raw >>> 32).setWidth 64)

/-- Work that needs a function of the part waits for its bit in the readiness map (01 R26, 15 R601). -/
def needUnit (bit : Nat) : M Unit := do
  if (← get).dc.ready.getLsbD bit then pure () else waitHere

/-- Run over a list, stopping at the first exception. -/
def forM' {α : Type} : List α → (α → M Unit) → M Unit
  | [], _ => pure ()
  | a :: r, f => do f a; forM' r f

/-- Results over a list, stopping at the first exception. -/
def mapM' {α β : Type} : List α → (α → M β) → M (List β)
  | [], _ => pure []
  | a :: r, f => do
    let b ← f a
    return b :: (← mapM' r f)

end Sys2Proof.Machine
end

