-- ==== Sys2Proof/Machine/Trace.lean ====
section
/-! DEFINITION. What the survey engine writes of its own accord: trace records and replay logs (14 R557..R559,
R567..R570). -/

namespace Sys2Proof.Machine

open Sys2Proof

/-- Size of a trace or log ring: LOGN outside 4..24 acts as 4. -/
def longLogSize (n : Nat) : Nat := if 4 ≤ n ∧ n ≤ 24 then 2 ^ n else 16

/-- A trace ring at reset (14 R557). -/
def TraceRing.blank : TraceRing := ⟨0, 0, 0, 0, 0⟩

/-- The trace ring of a quadrant. -/
def State.traceRing (s : State) (q : Nat) : TraceRing := s.sv.trace.get q TraceRing.blank

/-- Write a trace record of a tick to a quadrant's ring (14 R558, R559): core, kind, hart, stream, code, instruction
number, payload. -/
def State.traceAt (s : State) (tick q core kind hart : Nat) (isX : Bool) (code : Nat) (n payload : Word) : State :=
  let r := s.traceRing q
  let size := longLogSize (fieldOf r.ctl.toNat 2 5)
  if !r.ctl.getLsbD 0 then s
  else if size ≤ (r.wptr - r.rptr).toNat then
    { s with sv := { s.sv with trace := s.sv.trace.put q { r with lost := r.lost + 1 } } }
  else
    let bytes := leBytes 8 tick ++ leBytes 2 core ++ leBytes 1 kind
      ++ leBytes 1 (hart + 4 * isX.toNat + (if 0 < r.lost then 8 else 0)) ++ leBytes 2 code ++ leBytes 2 0
      ++ leBytes 8 n.toNat ++ leBytes 8 payload.toNat
    let addr := r.base.toNat + 32 * (r.wptr.toNat % size)
    let s := { s with sv := { s.sv with trace := s.sv.trace.put q { r with wptr := r.wptr + 1, lost := 0 } } }
    s.recordOut (r.ctl.getLsbD 1) addr bytes

/-- Write a trace record of now. -/
def State.traceRecord (s : State) (q core kind hart : Nat) (isX : Bool) (code : Nat) (n payload : Word) : State :=
  s.traceAt s.tick q core kind hart isX code n payload

/-- A package record of kinds 2 to 5: quadrant 0's ring (14 R558). -/
def State.tracePackage (s : State) (kind code : Nat) (payload : Word) : State :=
  s.traceRecord 0 0xFFFF kind 0 false code 0 payload

/-- Post an event of quadrant 0's collector (14 R554, R566; 04 R179). -/
def State.postCollector (s : State) (code detail : Nat) (data : List Byte) : State :=
  s.postEvent (fieldOf (s.traceRing 0).ctl.toNat 23 4) 212 code detail 0 data

/-! Replay logs. -/

/-- RLCTL.MODE (14 R567). -/
def SvSys.mode (v : SvSys) : Nat := fieldOf v.rlctl.toNat 0 2

/-- Does the log concern inputs of an ASID? (14 R570) -/
def State.replays (s : State) (asid : BitVec 16) : Bool :=
  s.sv.mode != 0 && fieldOf s.sv.rlctl.toNat 2 16 == asid.toNat

/-- Entries of the log ring. -/
def SvSys.logEntries (v : SvSys) : Nat := longLogSize (fieldOf v.rlctl.toNat 18 5)

/-- The 32 bytes of a log record; the kind stands in the top byte of the first field (log 17). -/
def ReplayInput.bytes (i : ReplayInput) (tick : Nat) : List Byte :=
  leBytes 8 tick ++ leBytes 8 (i.f0.toNat % 2 ^ 56 + i.kind.val * 2 ^ 56) ++ leBytes 8 i.f1.toNat ++ leBytes 8 i.f2.toNat

/-- Address of log record n. -/
def SvSys.logAddr (v : SvSys) (n : Nat) : Nat := v.rlbase.toNat + 32 * (n % v.logEntries)

/-- Records that the host has supplied and that are not consumed, by index. -/
def SvSys.logListed (v : SvSys) : List Nat :=
  (List.range (min v.logEntries (v.rlwptr.toNat - v.rlrptr.toNat))).map (v.rlrptr.toNat + ·)

/-- Word j of the fields of log record n: from device memory, or the host's reply once it has come, whatever its status
(DESIGN CHOICE, log 58). -/
def State.logWord (s : State) (n j : Nat) : Option Nat :=
  if s.sv.rlctl.getLsbD 27 then
    ((s.sv.logReads.find? fun r => r.elem == 3 * n + j).bind fun r => r.reply).map fun x => x.2.toNat
  else some (s.mem.homeRead (s.sv.logAddr n + 8 * (j + 1)) 8)

/-- Record number n of the log, once its words are had. -/
def State.logRecord (s : State) (n : Nat) : Option ReplayInput :=
  match s.logWord n 0, s.logWord n 1, s.logWord n 2 with
  | some f0, some f1, some f2 =>
    let kind := f0 / 2 ^ 56 % 4
    some ⟨⟨kind, Nat.mod_lt _ (by decide)⟩, BitVec.ofNat 64 (f0 % 2 ^ 56), BitVec.ofNat 64 f1, BitVec.ofNat 64 f2⟩
  | _, _, _ => none

/-- Ask the host for the words of the records of a log in host memory that have not been asked for (04 R182). -/
def State.requestLog (s : State) : State :=
  if s.sv.mode != 2 || !s.sv.rlctl.getLsbD 27 then s
  else
    let words := s.sv.logListed.flatMap fun n => (List.range 3).map fun j => (3 * n + j, s.sv.logAddr n + 8 * (j + 1))
    let words := words.filter fun w => !s.sv.logReads.any fun r => r.elem == w.1
    let reads := words.zipIdx.map fun w => (⟨s.nextId + w.2, w.1.1, w.1.2, 8, none⟩ : PendRead)
    { s with
      nextId := s.nextId + reads.length
      hostOut := s.hostOut ++ reads.map fun r => HostMsg.hrd r.id r.va 8
      sv := { s.sv with logReads := s.sv.logReads ++ reads } }

/-- The next record that the log lists for an input's place, and its index. No record is passed over before it is had. -/
def State.nextListed (s : State) (i : ReplayInput) : Option (Nat × ReplayInput) :=
  (s.sv.logListed.takeWhile fun n => (s.logRecord n).isSome).findSome? fun n =>
    match s.logRecord n with
    | some r => if !s.sv.eaten.contains n && r.kind == i.kind && r.f0 == i.f0 then some (n, r) else none
    | none => none

/-- RLRPTR passes the consumed records at its head. -/
def advanceLog (eaten : List Nat) : Nat → Word → Word
  | 0, p => p
  | fuel + 1, p => if eaten.contains p.toNat then advanceLog eaten fuel (p + 1) else p

/-- Consume a record. -/
def SvSys.eat (v : SvSys) (n : Nat) : SvSys :=
  let eaten := insertNat n v.eaten
  let p := advanceLog eaten (eaten.length + 1) v.rlrptr
  { v with
    eaten := eaten.filter fun k => p.toNat ≤ k, rlrptr := p
    logReads := v.logReads.filter fun r => decide (3 * p.toNat ≤ r.elem) }

/-- Can the listed input no longer arrive first? A ring's entries and one source's inputs come in order (log 17). -/
def listedGone (r i : ReplayInput) : Bool := i.kind == 1 || i.f1 == r.f1

/-- REPLAYDIV: event 24 from collector 0 with the record's index; MODE becomes 0 and every held input is released
(14 R569). -/
def State.replayDiverge (s : State) (n : Nat) : State :=
  let s := s.postEvent (fieldOf s.sv.rlctl.toNat 23 4) 212 24 0 0 (leBytes 8 n)
  { s with sv := { s.sv with rlctl := s.sv.rlctl &&& ~~~3#64, held := [] } }

/-- An input of a logged kind becomes final: none while it waits (14 R568, R569). -/
def State.replayInput (s : State) (i : ReplayInput) : Option State :=
  if s.sv.mode = 1 then
    if s.sv.logEntries ≤ (s.sv.rlwptr - s.sv.rlrptr).toNat then none
    else
      let addr := s.sv.rlbase.toNat + 32 * (s.sv.rlwptr.toNat % s.sv.logEntries)
      let bytes := ReplayInput.bytes i s.tick
      let s := { s with sv := { s.sv with rlwptr := s.sv.rlwptr + 1 } }
      some (s.recordOut (s.sv.rlctl.getLsbD 27) addr bytes)
  else if s.sv.mode = 2 then
    match s.nextListed i with
    | none => none
    | some (n, r) =>
      if r == i then some { s with sv := s.sv.eat n }
      else if listedGone r i then some (s.replayDiverge n)
      else none
  else some s

/-- Held inputs that the log now lists go on, over the list once. -/
def State.retryHeld (s : State) : List ReplayInput → State
  | [] => s
  | i :: r =>
    match s.replayInput i with
    | none => s.retryHeld r
    | some s => ({ s with sv := { s.sv with held := s.sv.held.erase i } } : State).retryHeld r

/-- Held inputs go on for as long as one can: each pass lets at least one go. -/
def State.releaseHeld : Nat → State → State
  | 0, s => s
  | n + 1, s => State.releaseHeld n (s.retryHeld s.sv.held)

/-- Every held input that may go on does. -/
def State.retryInputs (s : State) : State := State.releaseHeld s.sv.held.length s

/-- The input of an ATOM or scatter-add element of a stream at a home bank (14 R568); the source's fields are packed
as core, hart and stream (log 17). -/
def atomInput (p : Party) (line : Nat) (count : Word) : ReplayInput :=
  ⟨3, BitVec.ofNat 64 (64 * line), BitVec.ofNat 64 (coreOf p.slot + 2 ^ 16 * (p.slot % 4) + 2 ^ 18 * p.isX.toNat), count⟩

/-- Log or hold an ATOM, scatter-add element or claim add whose source is a stream (14 R568..R570). -/
def replayFrom (p : Party) (asid : BitVec 16) (line : Nat) : M Unit := do
  let s ← get
  if !s.replays asid then pure ()
  else
    let st := s.stream p
    match s.replayInput (atomInput p line st.atoms) with
    | none => waitHere
    | some s => set (if (s.stream? p).isSome then s.setStream p { s.stream p with atoms := st.atoms + 1 } else s)

/-- Log or hold an ATOM or scatter-add element of the executing stream. -/
def replayAtom (asid : BitVec 16) (line : Nat) : M Unit := do replayFrom (← get).cur asid line

end Sys2Proof.Machine
end

