-- ==== Sys2Proof/Machine/Access.lean ====
section
/-! DEFINITION. Addresses, translation, fault records, and the loads, stores and atomics of harts and jobs
(06 R251..R272, 10 R413..R420, 07 R303..R309, R619). -/

namespace Sys2Proof.Machine

open Sys2Proof

/-- The party of an access and what governs it. -/
structure Ctx where
  agent : Agent
  asid : BitVec 16
  user : Bool
  /-- issuing core: the core that windows are resolved against (06 R251, R288) -/
  core : Nat
  /-- quadrant whose fault queue serves it (06 R259) -/
  quad : Nat
  serial : Word
  tag : Word
  hint : Fin 4
  tlbs : List TlbId
  /-- budget class (06 R273) -/
  cls : Nat
  /-- a hart's access goes through its core's L1 and write-combining buffer; a job's performs at home -/
  cached : Bool
  elem : Nat
  /-- the ordered vector store that the access is of: hart slot and serial (01 R48) -/
  order : Option (Nat × Nat) := none
  /-- a release store, multi-copy atomic (01 R47) -/
  through : Bool := false
  /-- a store that later accesses of its stream may overtake (01 R37) -/
  late : Bool := false
  deriving DecidableEq, Repr

/-- What a 64-bit address names (06 R251). -/
inductive AddrKind
  | global
  | scratch (core : Nat) (off : Nat)
  | tile (array : Nat) (off : Nat)
  | bad
  deriving DecidableEq, Repr

/-- The kind of an address formed on a core (06 R251). -/
def addrKind (core va : Nat) : AddrKind :=
  let top := va / 2 ^ 57
  if top = 0 then .global
  else if top = 0x7F then
    if va < 0xFF00000000000000 then .bad
    else
      let w := va - 0xFF00000000000000
      if w < 4 * 0x400000 then .scratch (4 * clusterOf core + w / 0x400000) (w % 0x400000)
      else if 0x1C00000 ≤ w ∧ w < 0x2000000 then .scratch core (w - 0x1C00000)
      else if 0x2000000 ≤ w ∧ w < 0x2100000 then .tile (clusterOf core) (w - 0x2000000)
      else if 0x3000000 ≤ w ∧ w < 0x3100000 then .tile (partnerArray (clusterOf core)) (w - 0x3000000)
      else .bad
  else .bad

/-! Translation (06 R253..R258). -/

/-- The outcome of a walk: a valid leaf, an entry with V = 0, or a bad entry (06 R256). -/
inductive WalkRes
  | leaf (l : Leaf)
  | invalid
  | bad
  deriving DecidableEq, Repr

/-- Index of a level's table (06 R254). -/
def walkIndex (lev va : Nat) : Nat :=
  match lev with
  | 4 => va / 2 ^ 48 % 512
  | 3 => va / 2 ^ 39 % 512
  | 2 => va / 2 ^ 30 % 512
  | 1 => va / 2 ^ 21 % 512
  | _ => va / 2 ^ 16 % 32

/-- Page size of a leaf at a level (06 R254). -/
def pageSize (lev : Nat) : Nat :=
  match lev with
  | 2 => 2 ^ 30
  | 1 => 2 ^ 21
  | _ => 2 ^ 16

/-- The walk from a table at a level downward (06 R254..R256). -/
def walkFrom (m : MemSys) (asid : BitVec 16) (va : Nat) : List Nat → Nat → WalkRes
  | [], _ => .bad
  | lev :: rest, table =>
    let e := m.homeRead (table + 8 * walkIndex lev va) 8
    let leaf := bitOf e 1
    let pa := fieldOf e 12 36 * 4096
    if !bitOf e 0 then .invalid
    else if bitOf e 7 || fieldOf e 10 2 ≠ 0 || fieldOf e 48 6 ≠ 0 then .bad
    else if !leaf then
      if lev = 0 || decide (Config.deviceEnd ≤ pa) then .bad else walkFrom m asid va rest pa
    else if 3 ≤ lev then .bad
    else
      let size := pageSize lev
      let mt := fieldOf e 8 2
      let rpkg := fieldOf e 54 10
      let o := bitOf e 6
      if pa % size ≠ 0 || mt = 3 || (o && mt ≠ 0) || (rpkg ≠ 0 && mt ≠ 2)
          || (mt = 0 && decide (Config.deviceEnd < pa + size)) then .bad
      else .leaf ⟨asid, alignDown va size, size, pa, mt, rpkg, o, bitOf e 5, bitOf e 4, bitOf e 3, bitOf e 2⟩

/-- A walk from the ASID table (06 R254). With ATBASE.EN = 0 every translation faults (06 R286). -/
def MemSys.walk (m : MemSys) (asid : BitVec 16) (va : Nat) : WalkRes :=
  if !m.atbase.getLsbD 0 then .invalid
  else
    let e := m.homeRead (fieldOf m.atbase.toNat 12 36 * 4096 + 8 * asid.toNat) 8
    let root := fieldOf e 12 36 * 4096
    if !bitOf e 0 then .invalid
    else if fieldOf e 1 11 ≠ 0 || fieldOf e 48 16 ≠ 0 || decide (Config.deviceEnd ≤ root) then .bad
    else walkFrom m asid va [4, 3, 2, 1, 0] root

/-- Entries a TLB holds (06 R253). -/
def TlbId.size : TlbId → Nat
  | .lane _ _ => 64
  | .core _ => 1024
  | .quad _ => 65536
  | .gaz _ => 1024

/-- A translation enters a TLB; the oldest entry leaves a full one. -/
def tlbInsert (l : List (TlbId × Leaf)) (id : TlbId) (e : Leaf) : List (TlbId × Leaf) :=
  let own := (l.filter fun x => x.1 == id).length
  let l := if own < id.size then l else
    match (l.filter fun x => x.1 == id).getLast? with
    | some v => l.erase v
    | none => l
  (id, e) :: l

/-- The cached translation of an address in any of the given TLBs; with ATBASE.EN = 0 every translation fails
(06 R286). -/
def MemSys.tlbHit (m : MemSys) (ids : List TlbId) (asid : BitVec 16) (va : Nat) : Option Leaf :=
  if !m.atbase.getLsbD 0 then none
  else (m.tlbs.find? fun x =>
    ids.contains x.1 && x.2.asid == asid && decide (x.2.va ≤ va) && decide (va < x.2.va + x.2.size)).map (·.2)

/-- Does a leaf allow an access? (06 R257) -/
def Leaf.allows (l : Leaf) (user : Bool) : AKind → Bool
  | .load => (l.u || !user) && l.rd
  | .store => (l.u || !user) && l.w
  | .atom => (l.u || !user) && l.rd && l.w
  | .fetch => (l.u || !user) && l.x

/-- A leaf's physical address of a virtual one. -/
def Leaf.phys (l : Leaf) (va : Nat) : Nat := l.pa + (va - l.va)

/-! Budgets (06 R274, R275). -/

/-- Reset budget per class of a resource (06 R274). -/
def resetBudget : Nat → Word
  | 0 => 2812
  | 1 => 84
  | 2 => 8789
  | _ => 87

/-- The budget in effect of a class for a resource. -/
def MemSys.budgetOf (m : MemSys) (cls res : Nat) : Word := m.budget.get (4 * cls + res) (resetBudget res)

/-- Is a class's budget for a resource below the least that a request needs: 4 units, 1 for l2 (06 R275)? -/
def MemSys.budgetLow (m : MemSys) (cls res : Nat) : Bool := decide ((m.budgetOf cls res).toNat < if res = 1 then 1 else 4)

/-- Is a request for device memory held: its stack is not ready (01 R26, 15 R601), or the class's budget for the bank, the
stack or the border link is too low (06 R275)? -/
def State.deviceHeld (s : State) (cls quad pa : Nat) : Bool :=
  !s.dc.ready.getLsbD (4 + pa / 2 ^ 36) || s.mem.budgetLow cls 1
    || (s.mem.budgetLow cls 0 && (s.mem.l2.get? (pa / 64)).isNone)
    || (s.mem.budgetLow cls 2 && homeQuad pa != quad)

/-- Is a page walk of a class held: it reads L2 and HBM (06 R258, R275)? -/
def State.walkHeld (s : State) (cls : Nat) : Bool := s.mem.budgetLow cls 0 || s.mem.budgetLow cls 1

/-- A request is held while the unit that serves it is not ready (01 R26, 15 R601), or its class's budget for a resource
it needs is too low (06 R275). Which UALink port leads to a package the spec does not say: a port that is up serves
(log 57). -/
def budgetHeld (s : State) (c : Ctx) (l : Leaf) (va : Nat) : Bool :=
  if l.mt = 0 then s.deviceHeld c.cls c.quad (l.phys va)
  else if l.mt = 1 then !s.dc.ready.getLsbD 52
  else fieldOf s.dc.ready.toNat 36 16 == 0 || s.mem.budgetLow c.cls 3

/-- Wait while the class's budget holds the request. -/
def budgetGate (c : Ctx) (l : Leaf) (va : Nat) : M Unit := do
  if budgetHeld (← get) c l va then waitHere else pure ()

/-- Is the drain of a write-combining entry held: a request of its launch's class (06 R275)? -/
def State.entryHeld (s : State) (core : Nat) (e : WcbEntry) : Bool :=
  match (e.parts.head?).bind fun p => s.launch? p.serial with
  | some l => s.deviceHeld l.info.bclass (quadOf core) (64 * e.line)
  | none => false

/-- How many of the oldest n entries of a buffer can drain: up to the first that is held. -/
def State.drainable (s : State) (core n : Nat) : Nat :=
  (((s.core core).wcb.take n).takeWhile fun e => !s.entryHeld core e).length

/-- May the whole of a core's buffer drain? -/
def State.drains (s : State) (core : Nat) : Bool := decide ((s.core core).wcb.length ≤ s.drainable core (s.core core).wcb.length)

/-- Drain the oldest n entries of a core's buffer, waiting while one of them is held. -/
def drainGate (core n : Nat) : M Unit := do
  let s ← get
  if s.drainable core n < min n (s.core core).wcb.length then waitHere else set (s.drainSome core n)

/-- The cause of a trap at an access that system software has declined (06 R263, 10 R420). -/
def declinedAt (s : State) (c : Ctx) (va : Nat) : Option Nat :=
  match c.agent with
  | .stream p => ((s.stream p).declined.filter fun d => d.tval.toNat == va && d.telem.toNat == c.elem).map fun d => d.cause
  | .sideLog _ _ => none
  | .job _ _ => none
  | .host _ => none

/-- Translate a global address: a valid leaf that denies the access traps PROT, a missing or bad entry is a
translation fault (06 R256, R257). -/
def translate (c : Ctx) (va : Nat) (k : AKind) : M Leaf := do
  let s ← get
  if let some cause := declinedAt s c va then trap cause (BitVec.ofNat 64 va)
  match s.mem.tlbHit c.tlbs c.asid va with
  | some l => if l.allows c.user k then pure l else trap causeProt (BitVec.ofNat 64 va)
  | none =>
    if s.walkHeld c.cls then waitHere
    match s.mem.walk c.asid va with
    | .invalid => throw (.tfault va false k c.elem)
    | .bad => throw (.tfault va true k c.elem)
    | .leaf l =>
      set (s.setMem { s.mem with tlbs := c.tlbs.foldl (fun t id => tlbInsert t id l) s.mem.tlbs })
      if l.allows c.user k then pure l else trap causeProt (BitVec.ofNat 64 va)

/-- A translation that raises nothing: for skipping walks and observation (06 R289, 04 R153). -/
def State.peekLeaf (s : State) (asid : BitVec 16) (va : Nat) : Option Leaf :=
  if va / 2 ^ 57 ≠ 0 then none
  else match s.mem.walk asid va with
    | .leaf l => some l
    | .invalid => none
    | .bad => none

/-- The valid leaf of an address as an access finds it, judged without effect: cached, or walked. -/
def State.leafOf (s : State) (c : Ctx) (va : Nat) : Option Leaf :=
  match s.mem.tlbHit c.tlbs c.asid va with
  | some l => some l
  | none => s.peekLeaf c.asid va

/-! Fault records (06 R259..R263). -/

/-- Does a record await a response and name the page of an address? -/
def FaultRec.names (f : FaultRec) (asid : BitVec 16) (va : Nat) : Bool :=
  f.asid == asid && (f.va / 65536 == va / 65536 || f.pages.contains (va / 65536))

/-- The stream whose instruction made a side-log entry: that of the entry, or of the one about to enter (06 R261, R264). -/
def State.logStream (s : State) (slot id : Nat) : Bool :=
  match (s.hart slot).sideLog.find? fun e => e.id == id with
  | some e => e.isX
  | none => s.cur.isX

/-- Raise a fault for a waiting party: it joins a record that names its page, or makes a record of its own. -/
def State.raiseFault (s : State) (c : Ctx) (kind : Nat) (k : AKind) (va : Nat) (mask : BitVec 1024)
    (pages : List Nat) (more : Bool) : State × Nat :=
  match s.mem.faults.find? fun f => f.names c.asid va with
  | some f =>
    let f' := { f with waiters := f.waiters ++ [(c.agent, va, c.elem, kind == 7)] }
    (s.setMem { s.mem with faults := s.mem.faults.map fun g => if g.num == f.num then f' else g }, f.num)
  | none =>
    let num := s.mem.nextFault
    let (core, hart, isX) := match c.agent with
      | .stream (.stream slot x) => (c.core, slot % 4, x)
      | .sideLog slot id => (c.core, slot % 4, s.logStream slot id)
      | _ => (0xFFFF, 0, false)
    let f : FaultRec :=
      { num, quad := c.quad, id := none, kind
        write := k = .store || k = .atom, exec := k = .fetch, core, hart, isX, asid := c.asid
        va, tick := s.tick, mask, pages, more, waiters := [(c.agent, va, c.elem, kind == 7)] }
    (s.setMem { s.mem with faults := s.mem.faults ++ [f], nextFault := num + 1 }, num)

/-- KIND of a hart's or job's record (06 R261). -/
def faultKind (c : Ctx) (k : AKind) (bad : Bool) : Nat :=
  if bad then 5
  else match c.agent with
    | .job _ _ => 6
    | .host _ => 8
    | _ => match k with
      | .load => 1
      | .atom => 1
      | .store => 2
      | .fetch => 4

/-- Pages a record of KIND lists: the one page of a single access. -/
def onePage (va : Nat) : List Nat := [va / 65536]

/-! Tags and cells (10 R406..R420). -/

/-- Is a tag word live for a launch? (10 R407) -/
def State.tagLive (s : State) (serial tw : Word) : Bool :=
  tw == 0 ||
    (decide (tw.toNat < 2 ^ 16) && decide (16 ≤ tw.toNat) && s.ov.holder.get? (tw.toNat / 16) == some serial
      && (s.ov.gens.get (tw.toNat / 16) 0).toNat == tw.toNat % 16)

/-- The cell of a tag and sector (10 R414). -/
def State.cell? (s : State) (tag sec : Nat) : Option Cell := s.ov.cells.find? fun c => c.tag == tag && c.sector == sec

/-- Cells of a launch's pool in use, DET round entries among them (10 R412, R420). -/
def State.poolUsed (s : State) (serial : Word) : Nat :=
  (s.ov.cells.filter fun c => c.serial == serial).length + (s.mem.rounds.filter fun r => r.serial == serial).length

/-- Cells that a launch's pool holds (10 R420). -/
def State.poolCap (s : State) (serial : Word) : Nat :=
  match s.launch? serial with
  | some l => l.pool / 128
  | none => 0

/-- The cell of a tag and sector, materialised when there is none (10 R415); a pool without a free cell is a pool
fault. -/
def materialise (c : Ctx) (l : Leaf) (va : Nat) : M Cell := do
  let tag := c.tag.toNat / 16
  let sec := l.phys va / 64
  match (← get).cell? tag sec with
  | some k => pure k
  | none =>
    if (← get).poolCap c.serial ≤ (← get).poolUsed c.serial then throw (.pool va c.elem)
    else
      if c.cached then drainGate c.core (((← get).core c.core).wcbThrough fun e => e.line == sec)
      let s ← get
      let k : Cell := ⟨tag, c.serial, sec, alignDown va 64, s.mem.sector sec, 0, s.mem.poisoned sec⟩
      set { s with ov := { s.ov with cells := s.ov.cells ++ [k] } }
      pure k

/-- Replace a cell. -/
def State.putCell (s : State) (k : Cell) : State :=
  { s with ov := { s.ov with cells := s.ov.cells.map fun c => if c.tag == k.tag && c.sector == k.sector then k else c } }

/-- A store applies to a cell: bytes, written bits, and the mark when all 64 bytes are written (10 R414, R415). -/
def Cell.store (k : Cell) (mask : BitVec 64) (data : Line) : Cell :=
  { k with
    data := Line.merge k.data data mask
    written := k.written ||| mask
    poison := if mask = BitVec.allOnes 64 then false else k.poison }

/-- Does an access go to a cell: an O page under a tag other than 0? It is checked to be live (10 R418). -/
def tagged (c : Ctx) (l : Leaf) : M Bool := do
  if !l.o || c.tag == 0 then pure false
  else if (← get).tagLive c.serial c.tag then pure true
  else trap causeOvstale c.tag

/-! Windows (06 R252, 11 R437). -/

/-- A launch's scratchpad on a core. -/
def Core.scratch? (k : Core) (serial : Word) : Option Scratch := k.scratch.find? fun x => x.serial == serial

/-- The scratchpad that a window access of n bytes reaches, checked in order (06 R252). -/
def scratchAt (c : Ctx) (va core off n : Nat) : M Scratch := do
  match ((← get).core core).scratch? c.serial with
  | none => trap causeProt (BitVec.ofNat 64 va)
  | some x =>
    if x.rsv = 0 then trap causeProt (BitVec.ofNat 64 va)
    else if x.spw * 65536 < off + n then trap causeLocal (BitVec.ofNat 64 va)
    else pure x

/-- The array that a tile-buffer access reaches: only one that the launch holds (11 R437). -/
def tileAt (c : Ctx) (va array : Nat) : M MArray := do
  let a := (← get).array array
  if a.holder = some c.serial then pure a else trap causeProt (BitVec.ofNat 64 va)

/-- Wake key of a scratchpad line. -/
def scratchKey (core off : Nat) : Nat := 2 ^ 60 + core * 2 ^ 24 + off / 64

/-- Wake key of a tile-buffer line. -/
def tileKey (array off : Nat) : Nat := 2 ^ 61 + array * 2 ^ 20 + off / 64

/-- Change a launch's scratchpad on a core; under PAIR the shadow's side as well, on the same core of the next cluster
(04 R175). -/
def State.updScratch (s : State) (core : Nat) (serial : Word) (f : Scratch → Scratch) : State :=
  let upd := fun (s : State) (core : Nat) =>
    let k := s.core core
    s.setCore core { k with scratch := k.scratch.map fun x => if x.serial == serial then f x else x }
  if s.lockstep serial then upd (upd s core) (core + 4) else upd s core

/-- A store performs in a launch's scratchpad on a core: bytes, written-line bitmaps, and the mark of a unit whose 64
bytes are all written (04 R170, 06 R285). -/
def State.scratchStore (s : State) (core : Nat) (serial : Word) (off : Nat) (bs : List Byte) : State :=
  let line := off / 64
  (s.updScratch core serial fun x =>
    { x with data := x.data.setBytes off bs
             written := insertNat line x.written
             dirty := insertNat line x.dirty
             poison := if off % 64 = 0 && bs.length = 64 then x.poison.filter (· != line) else x.poison }).wakeLine
    (scratchKey core off)

/-- A store performs in a tile buffer. -/
def State.tileStore (s : State) (array off : Nat) (bs : List Byte) : State :=
  let a := s.array array
  let unit := off / 64
  (s.setArray array { a with tile := a.tile.setBytes off bs
                             tpoison := if off % 64 = 0 && bs.length = 64 then a.tpoison.filter (· != unit)
                               else a.tpoison }).wakeLine (tileKey array off)

/-! Reads over UALink and from the host: sent once, answered later (07 R619, 04 R182). -/

/-- The reply to a read or atomic that the party has sent; sends it and waits when there is none. -/
def awaitReply (c : Ctx) (elem va size : Nat) (send : Nat → State → State) : M (Bool × Word) := do
  let s ← get
  let find := fun (l : List PendRead) => l.find? fun r => r.elem == elem && r.va == va && r.size == size
  let start := fun (put : State → PendRead → State) => do
    let id := s.nextId
    set (put (send id { s with nextId := id + 1 }) ⟨id, elem, va, size, none⟩)
    waitHere
  match c.agent with
  | .stream p =>
    match find (s.stream p).reads with
    | some ⟨_, _, _, _, some r⟩ => pure r
    | some _ => waitHere
    | none => start fun s r => let st := s.stream p; s.setStream p { st with reads := st.reads ++ [r] }
  | .job serial seq =>
    match (s.card? serial seq).bind fun k => find k.reads with
    | some ⟨_, _, _, _, some r⟩ => pure r
    | some _ => waitHere
    | none => start fun s r => s.updCard serial seq fun k => { k with reads := k.reads ++ [r] }
  | .sideLog _ _ => waitHere
  | .host _ => waitHere

/-! Loads. -/

/-- Access key of an address in another package's memory. -/
def remoteKey (rpkg pa : Nat) : Nat := pa + (rpkg + 1) * 2 ^ 48

/-- A core's load of device bytes. What L1 holds makes no request; another is held by its class's budget, and waits for the
line's entries in the write-combining buffer to drain (06 R245, R246, R275). -/
def loadDevice (c : Ctx) (l : Leaf) (va n : Nat) : M (Nat × Bool) := do
  let pa := l.phys va
  let sec := pa / 64
  if c.cached then
    drainGate c.core (((← get).core c.core).wcbThrough fun e => e.line == sec)
    if (((← get).core c.core).l1Hit sec (BitVec.allOnes 64)).isNone then budgetGate c l va
    let (d, po, s) := (← get).readCached c.core c.hint sec
    set s
    pure (Line.read d (pa % 64) n, po)
  else
    budgetGate c l va
    let s ← get
    pure (Line.read (s.mem.sector sec) (pa % 64) n, s.mem.poisoned sec)

/-- A load of bytes of another package: from L1, or by a read over UALink whose bytes L1 then holds (06 R245; 07 R619;
log 55). -/
def loadRemote (c : Ctx) (l : Leaf) (va n : Nat) : M Nat := do
  let pa := l.phys va
  let key := remoteKey l.rpkg pa / 64
  let mask := byteMask (pa % 64) n
  let s ← get
  match if c.cached then (s.core c.core).l1Hit key mask else none with
  | some x => do
    modify fun s => s.setCore c.core ((s.core c.core).l1Use c.hint x)
    pure (Line.read x.data (pa % 64) n)
  | none =>
    budgetGate c l va
    let (ok, v) ← awaitReply c c.elem va n fun id s => { s with linkOut := s.linkOut ++ [.read l.rpkg id pa n] }
    if !ok then trap causeProt (BitVec.ofNat 64 va)
    else
      let v := v.toNat % 2 ^ (8 * n)
      if c.cached && c.hint != 3 then
        modify fun s =>
          let k := s.core c.core
          let old := (k.l1.find? fun x => x.key == key).getD ⟨key, 0, false, s.tick, false, 0⟩
          let line := Line.write old.data (pa % 64) n v
          if k.l1w = 0 then s
          else s.setCore c.core (k.l1Fill c.hint
            { old with data := line, valid := old.valid ||| mask, keep := old.keep || c.hint == 2 })
      pure v

/-- A load of n bytes within a line from a page of its own: value and poison mark. The status of a host completion is not
looked at (log 58). -/
def loadLeaf (c : Ctx) (l : Leaf) (va n : Nat) : M (Nat × Bool) := do
  let pa := l.phys va
  if l.mt = 1 then
    budgetGate c l va
    let (_, v) ← awaitReply c c.elem va n fun id s => { s with hostOut := s.hostOut ++ [.hrd id pa n] }
    pure (v.toNat % 2 ^ (8 * n), false)
  else if l.mt = 2 then
    return (← loadRemote c l va n, false)
  else if (← tagged c l) then
    match (← get).cell? (c.tag.toNat / 16) (pa / 64) with
    | some k => do
      budgetGate c l va
      pure (Line.read k.data (pa % 64) n, k.poison)
    | none => loadDevice c l va n
  else loadDevice c l va n

/-- Is a unit of a launch's scratchpad marked, on the shadow's side as well under PAIR (04 R175; 06 R285)? -/
def State.scratchMarked (s : State) (core : Nat) (serial : Word) (off : Nat) : Bool :=
  let on := fun k => ((s.core k).scratch? serial).any fun x => x.poison.contains (off / 64)
  on core || (s.lockstep serial && on (core + 4))

/-- Is a unit of a tile buffer marked, on the shadow's side as well under PAIR? -/
def State.tileMarked (s : State) (array : Nat) (serial : Word) (off : Nat) : Bool :=
  let on := fun a => (s.array a).tpoison.contains (off / 64)
  on array || (s.lockstep serial && on (partnerArray array))

/-- A load of n bytes within a line: value and poison mark (06 R251, R252). -/
def loadRaw (c : Ctx) (va n : Nat) : M (Nat × Bool) := do
  match addrKind c.core va with
  | .bad => trap causeProt (BitVec.ofNat 64 va)
  | .scratch core off =>
    let x ← scratchAt c va core off n
    return (x.data.read off n, (← get).scratchMarked core c.serial off)
  | .tile array off =>
    let a ← tileAt c va array
    return (a.tile.read off n, (← get).tileMarked array c.serial off)
  | .global => do loadLeaf c (← translate c va .load) va n

/-! Stores that find their page: what they reach. -/

/-- A store that does not enter the write-combining buffer comes after the earlier elements of its ordered vector store
(01 R48). -/
def afterOrder (c : Ctx) : M Unit := do
  match c.order with
  | none => pure ()
  | some o => drainGate c.core (((← get).core c.core).wcbThrough fun e => e.parts.any fun p => p.order == some o)

/-- A store of n bytes to device memory: a hart's enters its core's write-combining buffer, after the entries that must drain
first; a release store performs at home after its line's entry, where every copy goes (06 R246, 01 R47); a job's performs at
home. -/
def storeDevice (c : Ctx) (va pa : Nat) (bs : List Byte) : M Unit := do
  let n := bs.length
  let sec := pa / 64
  let mask := byteMask (pa % 64) n
  let data := Line.write 0 (pa % 64) n (leNat bs)
  if c.cached && !c.through then
    modify fun s => s.performLate fun l => l.p == s.cur && l.pa / 64 == sec
    drainGate c.core (((← get).core c.core).wcbForced sec c.order)
    modify fun s =>
      let l : LateSt := ⟨s.cur, c.core, ⟨c.serial, (s.hart s.cur.slot).index, alignDown va 64, c.order⟩, pa, n, leNat bs⟩
      if c.late then { s with late := s.late ++ [l] } else s.lateStore l
  else if c.cached then
    drainGate c.core (((← get).core c.core).wcbThrough fun e => e.line == sec)
    modify fun s => (s.homeThrough (some c.quad) c.serial va pa mask data).dropL1 c.core sec
  else modify fun s => s.homeStore (some c.quad) c.serial va pa mask data

/-- A present L1 line of another package's memory takes a store's bytes (06 R245). -/
def State.l1Update (s : State) (core key o n v : Nat) : State :=
  let k := s.core core
  s.setCore core { k with l1 := k.l1.map fun l => if l.key == key then { l with data := Line.write l.data o n v } else l }

/-- A store of n bytes within a line; a page of another package gives its package and physical address, for the
caller to send (07 R305, R619). -/
def storeRaw (c : Ctx) (va : Nat) (bs : List Byte) : M (Option (Nat × Nat)) := do
  let n := bs.length
  match addrKind c.core va with
  | .bad => trap causeProt (BitVec.ofNat 64 va)
  | .scratch core off =>
    let _ ← scratchAt c va core off n
    afterOrder c
    modify fun s => s.scratchStore core c.serial off bs
    pure none
  | .tile array off =>
    let _ ← tileAt c va array
    afterOrder c
    modify fun s => s.tileStore array off bs
    pure none
  | .global =>
    let l ← translate c va .store
    budgetGate c l va
    let pa := l.phys va
    if l.mt = 1 then
      afterOrder c
      modify fun s => s.hostWrite pa bs
      pure none
    else if l.mt = 2 then
      modify fun s => if c.cached then s.l1Update c.core (remoteKey l.rpkg pa / 64) (pa % 64) n (leNat bs) else s
      pure (some (l.rpkg, pa))
    else if (← tagged c l) then
      afterOrder c
      let k ← materialise c l va
      modify fun s => (s.putCell (k.store (byteMask (pa % 64) n)
        (Line.write 0 (pa % 64) n (leNat bs)))).wakeLine (pa / 64)
      pure none
    else
      storeDevice c va pa bs
      pure none

/-- An atomic read-modify-write of n bytes at the home bank or the scratchpad's bank (01 R46, 05 R226): `f old` gives
the new value, none for no store. A tile-buffer or host address traps PROT. -/
def atomRaw (c : Ctx) (va n : Nat) (f : Nat → Option Nat)
    (remote : Nat → Nat → Nat → State → State) : M Nat := do
  match addrKind c.core va with
  | .bad => trap causeProt (BitVec.ofNat 64 va)
  | .tile _ _ => trap causeProt (BitVec.ofNat 64 va)
  | .scratch core off =>
    let x ← scratchAt c va core off n
    if (← get).scratchMarked core c.serial off then trap causePoison (BitVec.ofNat 64 va)
    else
      let old := x.data.read off n
      match f old with
      | some v => modify fun s => s.scratchStore core c.serial off (leBytes n v)
      | none => pure ()
      pure old
  | .global =>
    let l ← translate c va .atom
    budgetGate c l va
    let pa := l.phys va
    if l.mt = 1 then trap causeProt (BitVec.ofNat 64 va)
    else if l.mt = 2 then
      let (ok, v) ← awaitReply c c.elem va n fun id s => remote l.rpkg id pa s
      let key := remoteKey l.rpkg pa
      modify fun s => if c.cached then s.dropL1 c.core (key / 64) else s
      if ok then
        let old := v.toNat % 2 ^ (8 * n)
        if (f old).isSome then modify fun s => s.noteWrite c.serial va key
        pure old
      else trap causeProt (BitVec.ofNat 64 va)
    else if (← tagged c l) then
      let k ← materialise c l va
      if k.poison then trap causePoison (BitVec.ofNat 64 va)
      else
        let old := Line.read k.data (pa % 64) n
        match f old with
        | some v => modify fun s => (s.putCell (k.store (byteMask (pa % 64) n)
            (Line.write 0 (pa % 64) n v))).wakeLine (pa / 64)
        | none => pure ()
        pure old
    else
      -- the bank sees every earlier store of the core to the line, and the core keeps no older copy of it (01 R36, R43)
      if c.cached then drainGate c.core (((← get).core c.core).wcbThrough fun e => e.line == pa / 64)
      if (← get).mem.poisoned (pa / 64) then trap causePoison (BitVec.ofNat 64 va)
      else
        if c.cached then replayAtom c.asid (pa / 64)
        let s ← get
        let old := Line.read (s.mem.sector (pa / 64)) (pa % 64) n
        match f old with
        | some v => modify fun s => s.homeThrough (some c.quad) c.serial va pa (byteMask (pa % 64) n) (Line.write 0 (pa % 64) n v)
        | none => pure ()
        if c.cached then modify fun s => s.dropNear c.core (pa / 64)
        pure old

/-! The access context of the executing hart. -/

/-- The context of an access by a stream of a hart under a tag word. -/
def State.hartCtx (s : State) (p : Party) (hint : Fin 4) (tag : Word) : Ctx :=
  let slot := p.slot
  let h := s.hart slot
  let core := coreOf slot
  let (asid, cls) := match s.launch? h.serial with
    | some l => (l.info.asid, l.info.bclass)
    | none => (0, 15)
  { agent := .stream p, asid, user := !(s.stream p).priv, core, quad := quadOf core, serial := h.serial
    tag, hint, tlbs := [.core core, .quad (quadOf core)], cls, cached := true, elem := 0 }

/-- The context of an access by the executing stream under a tag word. -/
def hartCtx (hint : Fin 4) (tag : Word) : M Ctx := do return (← get).hartCtx (← get).cur hint tag

/-- The hart's current tag word (10 R413). -/
def curTag : M Word := do return (← curHart).ovt.setWidth 64

/-- Does a side-log entry hold a byte of [va, va + n) of the address space? -/
def SideEntry.touches (e : SideEntry) (asid : BitVec 16) (va n : Nat) : Bool :=
  e.asid == asid && (List.range n).any fun i => (va + i) / 64 == e.line && e.mask.getLsbD ((va + i) % 64)

/-- Does any entry of the hart's side log touch the bytes? -/
def Hart.logged (h : Hart) (asid : BitVec 16) (va n : Nat) : Bool := h.sideLog.any fun e => e.touches asid va n

/-- Does a load of n bytes within a line overlap a train's bytes? Pages are of 64 KiB at least, so an element's place in
its page is that of its virtual address. -/
def TrainSt.covers (t : TrainSt) (va n : Nat) : Bool :=
  t.lines.contains (va / 64) && t.train.elems.any fun e =>
    decide (va % 65536 < e.1 % 65536 + e.2.1) && decide (e.1 % 65536 < va % 65536 + n)

/-- The trap of a failed train (07 R307): the train is done with, tval is its lowest element's address and telem that
element's index. -/
def trainTrap {α : Type} (t : TrainSt) : M α := do
  modHart fun h => { h with trains := h.trains.filter fun u => u.serial != t.serial }
  throw (.etrap causeProt (BitVec.ofNat 64 t.va) t.elem)

/-- Loads and atomics wait on the hart's logged bytes, on its unacknowledged trains that cover them (a failed one
traps PROT) and on its held round entries (06 R266, 07 R307, R309). -/
def loadGate (c : Ctx) (va n : Nat) : M Unit := do
  let h ← curHart
  if h.logged c.asid va n then waitHere
  else match h.trains.find? fun t => t.covers va n with
    | some t => if t.failed then trainTrap t else waitHere
    | none =>
      if (← get).mem.rounds.any fun r => r.serial == h.serial && r.hartIndex == h.index && decide (r.va < va + n)
          && decide (va < r.va + Ty.bits r.ty / 8)
      then waitHere else pure ()

/-- A watched access traps before it performs (14 R556): wctl [0] loads, [1] stores and atomics, [2] enable (14 R555). -/
def checkWatch (va n : Nat) (k : AKind) : M Unit := do
  let h ← curHart
  let kind := match k with
    | .load => h.wctl.getLsbD 0
    | .store => h.wctl.getLsbD 1
    | .atom => h.wctl.getLsbD 1
    | .fetch => false
  if h.wctl.getLsbD 2 && kind && decide (alignDown h.wva.toNat 64 < va + n)
      && decide (va < alignDown h.wva.toNat 64 + 64) then trap causeWatch (BitVec.ofNat 64 va)
  else pure ()

/-- Note a memory request of the executing instruction while its hart samples (14 R560). -/
def noteReq (elem va : Nat) (k : AKind) : M Unit := do
  if (← curHart).svN = 0 then pure () else modify fun s => { s with reqs := s.reqs ++ [⟨elem, va, k⟩] }

/-- A load of n bytes within a line by the executing hart (06 R285: poisoned data traps POISON). -/
def loadChecked (c : Ctx) (va n : Nat) : M Nat := do
  checkWatch va n .load
  noteReq c.elem va .load
  loadGate c va n
  let (v, po) ← loadRaw c va n
  if po then trap causePoison (BitVec.ofNat 64 va) else pure v

/-! Exchange areas of collectives (07 R313). -/

/-- The offset of an address in the exchange area of a member of a group, if it lies in one. -/
def GroupEntry.offset (g : GroupEntry) (va : Nat) : Option Nat :=
  let d := (va + 2 ^ 64 - g.exb.toNat) % 2 ^ 64
  let r := d / max 1 g.exs.toNat
  if r < g.count then some (d % max 1 g.exs.toNat) else none

/-- Does an access touch bytes that the collectives of a group of the launch keep: those of an area while a collective of the
group is open, or control words once one has been called? The group's exchange base, and whether a collective is open. -/
def State.exchangeHit (s : State) (serial : Word) (va n : Nat) : Option (Word × Bool) :=
  match s.launch? serial with
  | none => none
  | some l =>
    if va / 2 ^ 57 ≠ 0 then none
    else l.groups.findSome? fun kv =>
      let g := kv.2
      let open_ := g.step != 0 || s.la.arrivals.any fun a => a.serial == serial && a.exb == g.exb
      let inArea := [va, va + n - 1].any fun a => match g.offset a with
        | some o => (open_ && decide (o < 8320)) || (decide (0 < g.calls) && decide (8192 ≤ o ∧ o < 8320))
        | none => false
      if inArea then some (g.exb, open_) else none

/-- A program's access to an exchange area while a collective of the group is open leaves its results unspecified
(07 R313). -/
def State.spoil (s : State) (serial exb : Word) : State :=
  s.setLa { s.la with arrivals := s.la.arrivals.map fun a =>
    if a.serial == serial && a.exb == exb then { a with spoiled := true } else a }

/-- An access of a program to n bytes: does it meet an exchange area that the part keeps? -/
def meetArea (c : Ctx) (va n : Nat) : M Bool := do
  match (← get).exchangeHit c.serial va n with
  | none => pure false
  | some (exb, _) => do
    modify fun s => s.spoil c.serial exb
    pure true

/-- A hart's load of n bytes within a line: in an exchange area that the part keeps its value is free (07 R313; log 5). -/
def hartLoad (c : Ctx) (va n : Nat) : M Nat := do
  let v ← loadChecked c va n
  if ← meetArea c va n then
    let (w, s) := (← get).draw
    set s
    pure (w.toNat % 2 ^ (8 * n))
  else pure v

/-- A hart's load of n bytes, a multiple of 8 at an aligned address, in units of 8. -/
def hartLoadWide (c : Ctx) (va n : Nat) : M Nat := do
  let parts ← mapM' (List.range (n / 8)) fun i => do
    return leBytes 8 (← hartLoad c (va + 8 * i) 8)
  pure (leNat parts.flatten)

/-- Fold a store's 8-byte-aligned chunks into a store hash (04 R176). -/
def foldChunks (va : Nat) (bs : List Byte) (h : Word) : Word :=
  (List.range ((va % 8 + bs.length + 7) / 8)).foldl (fun (h : Word) j =>
    let a := alignDown va 8 + 8 * j
    let lo := va - a
    let skip := a - va
    let part := (bs.drop skip).take (8 - lo)
    storeHashStep h (BitVec.ofNat 64 a) (BitVec.ofNat 64 ((2 ^ part.length - 1) * 2 ^ lo))
      (BitVec.ofNat 64 (leNat part * 2 ^ (8 * lo)))) h

/-- Fold a store into the stream's store hash on both sides of a lockstep pair (04 R176). -/
def foldHash (va : Nat) (bs : List Byte) : M Unit := do
  match ← curLaunch? with
  | none => pure ()
  | some l =>
    if l.info.pair then
      modStream fun st => { st with hash := foldChunks va bs st.hash, hashShadow := foldChunks va bs st.hashShadow }
    else pure ()

/-- The serial of the executing instruction in its hart, taken at its first store (06 R264). -/
def takeSerial : M Nat := do
  match (← curStream).logSerial with
  | some t => pure t.1
  | none =>
    let n := (← curHart).nextSerial
    modHart fun h => { h with nextSerial := n + 1 }
    modStream fun st => { st with logSerial := some (n, false) }
    pure n

/-- Has an entry of the executing instruction been declined, so that its later ones are discarded? (06 R270) -/
def declining (serial : Nat) : M Bool := return (← curStream).logSerial == some (serial, true)

/-- Does an instruction's entry in the log, or one that was declined, make its later element groups enter too?
(06 R265, R270) -/
def logging (serial : Nat) : M Bool := do
  if ← declining serial then pure true
  else return (← curHart).sideLog.any fun e => e.serial == serial && e.addTy.isNone

/-- A store or scatter-add enters the hart's side log behind its entries; it merges into the last one when that is
the same instruction's entry of the same line. A full log makes the instruction wait (06 R264..R267). -/
def logStore (c : Ctx) (va : Nat) (bs : List Byte) (add : Option Ty) (fault : Option Nat) (serial : Nat) :
    M Unit := do
  let h ← curHart
  let s ← get
  let mask := byteMask (va % 64) bs.length
  let data := Line.write 0 (va % 64) bs.length (leNat bs)
  let mergeable := match h.sideLog.getLast? with
    | some e => e.serial == serial && e.line == va / 64 && e.addTy == add && e.tag == c.tag && e.fault == fault
        && (add.isNone || e.mask &&& mask == 0)
    | none => false
  if ← declining serial then pure ()
  else if mergeable then
    modHart fun h => { h with sideLog := h.sideLog.mapIdx fun i e =>
      if i + 1 == h.sideLog.length then
        { e with mask := e.mask ||| mask, data := Line.merge e.data data mask } else e }
  else if 32 ≤ h.sideLog.length then waitHere
  else
    let det := match s.launch? c.serial with
      | some l => l.info.det
      | none => false
    modHart fun h =>
      { h with
        nextEntry := h.nextEntry + 1
        sideLog := h.sideLog ++ [{
          id := h.nextEntry, serial, isX := s.cur.isX, line := va / 64, asid := c.asid, tag := c.tag, user := c.user
          mask, data, addTy := add, va, fault, since := s.tick
          round := if det && add.isSome then some (h.drains + 1) else none, elem := c.elem
          ovft := h.ovft, through := c.through }] }

/-- The fault record of a store that meets a translation or pool fault; the waiter is its log entry. -/
def storeFault (c : Ctx) (va : Nat) (kind : Nat) : M Nat := do
  let s ← get
  let h := s.hart s.cur.slot
  let (s, num) := s.raiseFault { c with agent := .sideLog s.cur.slot h.nextEntry } kind .store va 0 (onePage va) false
  set s
  pure num

/-- The fault of a store that is to enter the log: it waits for room, and has no record when its instruction's entries
are discarded. -/
def loggedFault (c : Ctx) (va kind serial : Nat) : M (Option Nat) := do
  if ← declining serial then pure none
  else if 32 ≤ (← curHart).sideLog.length then waitHere
  else return some (← storeFault c va kind)

/-- A store or scatter-add that enters the log whatever its page, `log` taking its fault record: a valid leaf that denies it
traps PROT all the same, and a missing page has its record (06 R257, R265). -/
def logUnderFault {α : Type} (c : Ctx) (va : Nat) (k : AKind) (serial : Nat) (log : Option Nat → M α) : M α := do
  match addrKind c.core va with
  | .global =>
    let s ← get
    match s.leafOf c va with
    | some l => if l.allows c.user k then log none else trap causeProt (BitVec.ofNat 64 va)
    | none => log (← loggedFault c va (faultKind c .store (s.mem.walk c.asid va == .bad)) serial)
  | .bad => trap causeProt (BitVec.ofNat 64 va)
  | _ => log none

/-- A hart's store within a line: behind logged bytes it is logged, mapped or not; a translation or pool fault logs it
and raises a record; otherwise it performs. Elements of other packages are left to the caller. `force` logs it
whatever its page: a later group of an ordered store that has logged one (06 R265). -/
def hartStoreCore (c : Ctx) (va : Nat) (bs : List Byte) (serial : Nat) (force : Bool) : M (Option (Nat × Nat) × Bool) := do
  checkWatch va bs.length .store
  let log := fun (fault : Option Nat) => do
    logStore c va bs none fault serial
    pure ((none : Option (Nat × Nat)), true)
  let r ← if force || (← curHart).logged c.asid va bs.length then logUnderFault c va .store serial log
    else do
      let r ← tryCatch (do return Sum.inl (← storeRaw c va bs)) fun e => match e with
        | .tfault a bad _ _ => return Sum.inr (← loggedFault c a (faultKind c .store bad) serial)
        | .pool a _ => return Sum.inr (← loggedFault c a 7 serial)
        | e => throw e
      match r with
      | .inl rem => pure (rem, false)
      | .inr num => log num
  noteReq c.elem va .store
  pure r

/-- A program's store within a line: one to an exchange area leaves an open collective's results unspecified (07 R313). -/
def hartStoreMarked (c : Ctx) (va : Nat) (bs : List Byte) (serial : Nat) (force : Bool) : M (Option (Nat × Nat) × Bool) := do
  let r ← hartStoreCore c va bs serial force
  let _ ← meetArea c va bs.length
  pure r

/-- A hart's store within a line, folded into the stream's store hash (04 R176). -/
def hartStore (c : Ctx) (va : Nat) (bs : List Byte) (serial : Nat) (force : Bool) : M (Option (Nat × Nat) × Bool) := do
  let r ← hartStoreMarked c va bs serial force
  foldHash va bs
  pure r

/-- The type code that a train's header carries for data of a size (07 R305). -/
def sizeTy : Nat → Ty
  | 1 => .n8
  | 2 => .n16
  | 4 => .n32
  | _ => .n64

/-- Send an element train of the executing hart (07 R305): elements as (element index, virtual address, physical
address, size, data). -/
def sendTrain (rpkg : Nat) (add : Bool) (ty : Ty) (elems : List (Nat × Nat × Nat × Nat × Nat)) : M Unit := do
  match elems with
  | [] => pure ()
  | (e0, va0, _, _, _) :: _ =>
    let s ← get
    let slot := s.cur.slot
    let t : Train := ⟨Config.packageRank, add, s.nextTrain, ty, slot,
      elems.map fun (_, _, pa, n, v) => (pa, n, BitVec.ofNat 64 v), elems.length⟩
    let st : TrainSt := ⟨s.nextTrain, s.cur.isX, rpkg, va0, e0, (elems.map fun (_, va, _, _, _) => va / 64).dedup, t, false,
      false, none⟩
    let s := elems.foldl (fun s e => s.noteWrite (s.hart slot).serial e.2.1 (remoteKey rpkg e.2.2.1)) s
    let h := s.hart slot
    set ({ s with nextTrain := s.nextTrain + 1, linkOut := s.linkOut ++ [LinkMsg.train rpkg t] }.setHart slot
      { h with trains := h.trains ++ [st] })

/-! Releases and acquires (01 R44, 06 R269, 07 R307, R309). -/

/-- Codes of scopes (01 R27). -/
def Scope.rank : Scope → Nat
  | .hart => 1 | .core => 2 | .clu => 3 | .pair => 4 | .quad => 5 | .pkg => 6 | .pod => 7

/-- Compare the two sides of a lockstep pair (04 R176, R177): on divergence the pair's event is posted and the launch
is cancelled. The event's data bytes are stream, PC and the two hashes, of 8 bytes each (DESIGN CHOICE, log 59). -/
def State.compareHash (s : State) (p : Party) : State × Bool :=
  let st := s.stream p
  match p with
  | .datum => (s, true)
  | .stream slot isX =>
    match s.launchOf slot with
    | none => (s, true)
    | some l =>
      if l.info.pair && st.hash != st.hashShadow then
        let data := leBytes 8 isX.toNat ++ leBytes 8 s.issue.n.toNat ++ leBytes 8 st.hash.toNat
          ++ leBytes 8 st.hashShadow.toNat
        ((s.cancel l.serial).postEvent l.evq (221 + clusterOf (coreOf slot) / 2) 7 0 l.serial data, false)
      else (s, true)

/-- The comparison of a lockstep pair at a fence, acquire or release of scope core or wider: on divergence the instruction does
not complete (04 R176, R177). -/
def compareHere : M Unit := do
  let (s, same) := (← get).compareHash (← get).cur
  set s
  if same then pure () else waitHere

/-- A release of the executing stream at a scope code: at core or wider it waits for the hart's side log, its trains
and its held round entries, then drains the core's write-combining buffer (01 R44, 06 R269, 07 R307, R309). -/
def release (rank : Nat) : M Unit := do
  if rank < 2 || (← get).cur.isDatum then pure ()
  else
    let h ← curHart
    let slot ← curSlot
    if !h.sideLog.isEmpty then waitHere
    else match h.trains.find? (·.failed) with
      | some t => trainTrap t
      | none =>
        if !h.trains.isEmpty then waitHere
        else if (← get).mem.rounds.any fun r => r.serial == h.serial && r.hartIndex == h.index then waitHere
        else
          drainGate (coreOf slot) ((← get).core (coreOf slot)).wcb.length
          if 6 ≤ rank then modify fun s => s.setMem s.mem.dropStale
          compareHere

/-- An acquire of the executing stream at a scope code: at core or wider the core's L1 lines go (01 R44), and a lockstep
pair compares (04 R176). -/
def acquire (rank : Nat) : M Unit := do
  if rank < 2 || (← get).cur.isDatum then pure ()
  else do
    let core ← curCore
    modify fun s => s.clearL1 core
    compareHere

end Sys2Proof.Machine
end

