-- ==== Sys2Proof/Machine/Operands.lean ====
section
/-! DEFINITION. Operand fields: what each instruction names, how registers, queues, masks and memory operands are read
and written, and where elements lie in registers. -/

namespace Sys2Proof.Machine

open Sys2Proof

/-- One register, queue or mask that a field of an instruction names, and whether it is read or written. -/
inductive Use
  | rx (o : XOp)
  | wx (o : XOp)
  | rv (o : VOp)
  | wv (o : VOp)
  | rp (n : Fin 8)
  | wp (n : Fin 8)
  | rk (n : Fin 8)
  | wk (n : Fin 8)
  deriving DecidableEq, Repr

/-- The use of a source that may be of either class. -/
def VSrc.use : VSrc → Use
  | .v o => .rv o
  | .x o => .rx o

/-- The use of a LOOP's count. -/
def LoopCount.uses : LoopCount → List Use
  | .reg a => [.rx a]
  | .imm _ => []

/-- The use of VRED's destination. -/
def RedDst.uses : RedDst → List Use
  | .v o => [.wv o]
  | .x o => [.wx o]

/-- The uses of VREDP's destinations. -/
def RedpDst.uses : RedpDst → List Use
  | .v d e => [.wv d, .wv e]
  | .x d e => [.wx d, .wx e]

/-- The use of an optional v-class source. -/
def useOpt : Option VOp → List Use
  | none => []
  | some o => [.rv o]

end Sys2Proof.Machine

namespace Sys2Proof

open Machine (useOpt)


/-- The operand fields of an instruction: sources in the field order A, B, C, E of 02 R80, then the rest. DESIGN CHOICE
(log 62): a source in field D, a stored value, takes its queue entry last, for R80 gives D no place. -/
def Instr.uses : Instr → List Machine.Use
  | .br _ _ a b _ | .gset _ _ a b | .mdrain _ _ a b | .mextend _ _ a b => [.rx a, .rx b]
  | .jmp _ a | .ret _ a | .srw _ _ a | .wait _ a _ | .ovset _ a | .tlbiAsid _ a | .tvloadFree _ a | .svmark _ _ a
  | .svsamp _ _ a => [.rx a]
  | .call _ d _ | .srr _ d _ | .movi _ d _ | .setvlRel _ d | .rdv _ d | .ovopen _ d | .budget _ d _ _
  | .lvlid _ _ _ d | .mtick _ d | .mtickOrd _ d | .clklock _ _ d | .clklockOff _ d | .dsignPub _ d
  | .keywipeAll _ d | .lcset _ _ d | .dbgopen _ _ d => [.wx d]
  | .callr _ d a | .clz _ _ d a | .ctz _ _ d a | .popc _ _ d a | .addImm _ _ d a _ | .subImm _ _ d a _
  | .mulImm _ _ d a _ | .mulhImm _ _ d a _ | .mulhuImm _ _ d a _ | .divImm _ _ d a _ | .divuImm _ _ d a _
  | .remImm _ _ d a _ | .remuImm _ _ d a _ | .andImm _ _ d a _ | .orImm _ _ d a _ | .xorImm _ _ d a _
  | .andnImm _ _ d a _ | .shlImm _ _ d a _ | .shrImm _ _ d a _ | .sraImm _ _ d a _ | .rorImm _ _ d a _
  | .minImm _ _ d a _ | .maxImm _ _ d a _ | .minuImm _ _ d a _ | .maxuImm _ _ d a _ | .bfxImm _ _ d a _
  | .leaImm _ _ d a _ | .stream _ d a | .jobwait _ d a | .ovretire _ d a | .ovcommit _ _ d a | .ovstat _ _ d a
  | .carve _ d a | .digest _ d a | .budgetW _ d a _ _ | .mattach _ d a | .mattachPair _ d a | .mwld _ _ d a
  | .mwait _ d a | .mstat _ _ d a | .tvload _ d a _ | .tvstart _ _ d a | .tvwait _ d a | .tvstat _ _ d a
  | .gzlook _ d a | .gzupdate _ d a | .gzver _ _ d a | .gzwait _ d a | .launch _ d a | .launchTry _ d a
  | .svread _ _ d a | .svstop _ d a | .dverify _ _ d a | .dsignAtt _ d a | .fuserd _ d a | .keywipe _ d a =>
    [.rx a, .wx d]
  | .pushb _ _ a => [.rp a]
  | .brq _ _ _ | .lexit _ _ | .nop _ | .trap _ _ | .eret _ | .yield _ | .halt _ | .fencei _ | .fence _ _ _
  | .minv _ | .mpop _ | .mbrz _ _ _ | .vfence _ _ _ | .gsetFree _ _ | .tlbiAll _ | .mdetach _ | .mzeroFp _ _ _
  | .mzeroInt _ _ _ | .trig _ | .bar _ _ | .svsampOff _ => []
  | .loop _ _ c _ => Machine.LoopCount.uses c
  | .add _ _ d a b | .sub _ _ d a b | .mul _ _ d a b | .mulh _ _ d a b | .mulhu _ _ d a b | .div _ _ d a b
  | .divu _ _ d a b | .rem _ _ d a b | .remu _ _ d a b | .and _ _ d a b | .or _ _ d a b | .xor _ _ d a b
  | .andn _ _ d a b | .shl _ _ d a b | .shr _ _ d a b | .sra _ _ d a b | .ror _ _ d a b | .min _ _ d a b
  | .max _ _ d a b | .minu _ _ d a b | .maxu _ _ d a b | .bfx _ _ d a b | .lea _ _ d a b | .ldo _ _ d a b _
  | .digestRng _ d a b | .gzpin _ _ d a b | .gzpinUn _ _ d a b | .waitl _ _ d a b => [.rx a, .rx b, .wx d]
  | .bfi _ d a b c => [.rx a, .rx b, .rx c, .wx d]
  | .sel _ d a b p => [.rx a, .rx b, .wx d, .rp p]
  | .bfiImm _ d a _ => [.rx a, .rx (.x d), .wx (.x d)]
  | .selImm _ d a _ p => [.rx a, .wx d, .rp p]
  | .cmp _ _ _ pd pc a b => [.rx a, .rx b, .wp pd, .wp pc]
  | .cmpi _ _ _ pd a _ => [.rx a, .wp pd]
  | .plog _ _ d a b => [.rp a, .rp b, .wp d]
  | .pmovToX _ d => [.wx d, .rp 1, .rp 2, .rp 3, .rp 4, .rp 5, .rp 6, .rp 7]
  | .pmovToP _ a => [.rx a, .wp 1, .wp 2, .wp 3, .wp 4, .wp 5, .wp 6, .wp 7]
  | .ld _ _ d m | .lda _ _ _ d m | .msave _ d m | .mrestore _ d m => [.rx m.base, .rx m.idx, .wx d]
  | .st _ _ d m | .str _ _ _ d m | .pref _ _ d m | .cclean _ _ d m | .cinv _ _ d m | .cflush _ _ d m
  | .mlineEmpty _ d m | .mlineFull _ d m | .mlineWfull _ d m | .mlineWempty _ d m =>
    [.rx m.base, .rx m.idx, .rx d]
  | .atomSwap _ _ _ d m | .atomAdd _ _ _ d m | .atomAnd _ _ _ d m | .atomOr _ _ _ d m | .atomXor _ _ _ d m
  | .atomMin _ _ _ d m | .atomMax _ _ _ d m => [.rx m.base, .rx m.idx, .rx (.x d), .wx (.x d)]
  | .atomCas _ _ _ d a b _ => [.rx a, .rx (.x b), .rx (.x d), .wx (.x d)]
  | .vadd _ _ _ d a b | .vsub _ _ _ d a b | .vmul _ _ _ d a b | .vdiv _ _ _ d a b | .vmin _ _ d a b
  | .vmax _ _ d a b | .viadd _ _ _ d a b | .visub _ _ _ d a b | .vimul _ _ d a b | .vimulh _ _ d a b
  | .vimin _ _ d a b | .vimax _ _ d a b | .vand _ _ d a b | .vor _ _ d a b | .vxor _ _ d a b | .vshl _ _ d a b
  | .vshr _ _ d a b | .vsra _ _ d a b => [.rv a, (Machine.VSrc.use b), .wv d]
  | .vfma _ _ _ d a b c | .vfms _ _ _ d a b c | .vfnma _ _ _ d a b c | .vimad _ _ d a b c | .vclip _ _ d a b c =>
    [.rv a, (Machine.VSrc.use b), (Machine.VSrc.use c), .wv d]
  | .vsqrt _ _ _ d a | .vabs _ _ d a | .vneg _ _ d a | .vclass _ _ d a | .vmov _ _ d a | .vrcp _ _ _ d a
  | .vrsq _ _ _ d a | .vexp2 _ _ _ d a | .vlog2 _ _ _ d a | .vtanh _ _ _ d a | .vcvt _ _ _ _ d a | .vplane _ d a
  | .vunplane _ _ d a | .vtrip _ _ d a | .vscan _ _ _ _ _ d a | .vtrn _ _ d a | .vexpand _ _ _ d a
  | .vgred _ _ _ d a _ | .vgall _ _ d a _ | .vgrs _ _ _ d a _ => [.rv a, .wv d]
  | .vcmp _ _ _ d a b => [.rv a, (Machine.VSrc.use b), .wk d]
  | .twosum _ _ _ d e a b => [.rv a, (Machine.VSrc.use b), .wv d, .wv e]
  | .vbcast _ _ d a => [.rx a, .wv d]
  | .viota _ _ _ d | .vldi _ _ d _ | .vrand _ _ d => [.wv d]
  | .vsel _ _ d a b c => [.rv a, (Machine.VSrc.use b), .wv d, .rk c]
  | .setvl _ _ d a | .setrc _ _ d a | .alloc _ d a | .shrink _ d a => [.rx (.x a), .wx d]
  | .strip _ _ d a b c _ _ _ => [.rx (.x a), .rx (.x b), .rx (.x c), .rx (.x d), .wx (.x d)]
  | .vqblk _ _ _ _ _ d c a => [.rv a, .rv c, .wv c, .wv d]
  | .vdqblk _ _ _ _ _ d a c => [.rv a, .rv c, .wv d]
  | .klog _ _ d a b => [.rk a, .rk b, .wk d]
  | .kcnt _ d a | .kfirst _ d a => [.rk a, .wx d]
  | .mpush _ a => [.rk a]
  | .mloop _ _ a _ => [.rv a, .wv a]
  | .vred _ _ _ _ _ d a => .rv a :: Machine.RedDst.uses d
  | .vredp _ _ _ d a b => .rv a :: (useOpt b ++ Machine.RedpDst.uses d)
  | .vperm _ _ _ _ d a b | .vzip _ _ _ _ d a b | .vunzip _ _ _ _ d a b => [.rv a, .rv b, .wv d]
  | .vslide _ _ _ _ d a b | .vgbc _ _ d a _ b => [.rv a, .rx b, .wv d]
  | .vcompress _ _ _ d a e => [.rv a, .wv d, .wx e]
  | .vsortk _ _ _ d e a b => [.rv a, .rx b, .wv d, .wv e]
  | .vextr _ _ d a b => [.rv a, .rx b, .wx d]
  | .vinsr _ _ d a b | .vldo _ _ d a b _ => [.rx a, .rx b, .wv d]
  | .vld _ _ d m | .vlds _ _ d m => [.rx m.base, .rx m.idx, .wv d]
  | .vldx _ _ _ d a b _ _ => [.rx a, .rv b, .wv d]
  | .vst _ _ d m | .vsts _ _ d m => [.rx m.base, .rx m.idx, .rv d]
  | .vstx _ _ _ d a b _ _ | .vstu _ _ _ d a b _ _ | .vstxa _ _ _ d a b _ _ => [.rx a, .rv b, .rv d]
  | .armw _ d m | .waitw _ d m => [.rx m.base, .rx m.idx, .rx d, .wx d]
  | .ovopenTry _ d c => [.wx d, .wp c]
  | .tlbiRange _ a b c => [.rx a, .rx b, .rx c]
  | .mstream _ _ d a => [.rx a, .rx d]
  | .mdrainIdx _ _ a d => [.rx a, .rv d]
  | .dhash _ d a b | .dsign _ d a b => [.rx a, .rx b, .rx d]
  | .mextendDbg _ d => [.rx d]
  | .waitWake _ | .queueDeadlock _ | .rendezvousComplete _ _ | .laneArrive _ _ _ | .vectorTrapCommit _
  | .mzeroApply _ | .streamChunk _ | .weightSwap _ | .barRelease _ _ _ | .legSend _ _ _ _ _ _ _
  | .legRecv _ _ _ _ _ _ | .legReduce _ _ _ _ _ _ _ _ | .legCopy _ _ _ _ _ _ _ | .legWait _ | .legSignal _ _ _
  | .legReserve _ _ _ _ | .legRepeat _ _ _ | .legEnd | .traverseRunStart _ | .sendLand _ | .signalArrive _
  | .reserveClaimArrive _ | .reserveRound _ _ _ | .legAckArrive _ | .stopNotice _ _ | .cardStart _
  | .streamCopyJob _ | .weightLoadJob _ | .gzLookupJob _ | .gzUpdateJob _ | .gzageHalve _ | .cardComplete _
  | .ringWptrWrite _ _ | .ringReset _ _ | .ringEntryRead _ | .priorityAge _ | .depEval _ | .launchPlace _
  | .podAdmission _ _ | .launchComplete _ | .preemptWrite _ | .cancelWrite _ | .gangPreempt _ _ | .gangResume _ _
  | .hostMrd _ | .hostDrd _ _ _ _ | .hostDwr _ _ _ _ | .hostCpl _ _ _ | .regWrite _ _ | .fqrespRetry _ _
  | .fqrespDecline _ _ | .pageWalkDone | .faultRecordPost _ | .sideLogPerform _ | .sideLogPageTrap _
  | .tagEndOvstaleTrap _ | .roundProtTrap _ | .wcbDrainTimeout _ | .l1LeaseExpire _ | .borderCopyInvalidate _ _
  | .budgetPeriod | .roundApply _ | .trainReceive _ | .trainAck _ | .trainRefusal _ | .ualinkReadServe _
  | .ualinkResponse _ _ | .tlbicmdAll | .tlbicmdAsid _ | .tlbicmdRange _ | .tlbicmdDone | .uncorrected _
  | .scrub _ _ | .ovgaddWrite _ | .poolGrowDone | .gzdsyncWrite _ | .gzprobeWrite _ | .gzprobeDone | .tickAlign _
  | .tickAlignLoss | .sampleRecord _ _ _ | .stopFire | .svrunWrite _ | .svstatDisarm _ | .rlctlWrite _
  | .rlwptrSupply _ | .replayInputArrive _ | .powerGoodReset | .dwinWrite _ | .dmloadWrite _ | .unitReady _
  | .unitLost _ | .cdisWrite _ _ | .pcapWrite _ _ | .powerLimitRaise | .powerLimitRelax | .thermalLimitRaise
  | .thermalTrip | .thermalLimitRelax | .pointChange | .kctlLoad _ | .kctlClearSeal _ | .dunlkAbort | .dchalDraw
  | .debugScan | .debugMemrd _ | .debugMemwr _ _ | .debugSvstop _ | .i3cEntdaa _ | .i3cRstdaa | .i3cGetpid
  | .i3cGetbcr | .i3cGetdcr | .i3cGetstatus | .i3cPrivateWrite _ _ | .laneComplete _ _ _ | .meridianTick
  | .ualinkErrorResponse _ | .gzdsyncDone | .i3cPrivateRead _ => []
end Sys2Proof

namespace Sys2Proof.Machine

open Sys2Proof

/-! Uses as queues and registers. -/

/-- A queue named by its 7-bit field value (02 R78). -/
def XOp.queue? : XOp → Option Nat
  | .x _ => none
  | .q n => some (64 + n.val)

/-- A vector queue named by its 7-bit field value. -/
def VOp.queue? : VOp → Option Nat
  | .v _ => none
  | .q n => some (72 + n.val)

/-- The queue a use reads or writes: its field value, and whether it is written. -/
def Use.queue? : Use → Option (Nat × Bool)
  | .rx o => (XOp.queue? o).map fun n => (n, false)
  | .wx o => (XOp.queue? o).map fun n => (n, true)
  | .rv o => (VOp.queue? o).map fun n => (n, false)
  | .wv o => (VOp.queue? o).map fun n => (n, true)
  | .rp _ => none
  | .wp _ => none
  | .rk _ => none
  | .wk _ => none

/-- The v register a use names. -/
def Use.vreg? : Use → Option Nat
  | .rv (.v n) => some n.val
  | .wv (.v n) => some n.val
  | _ => none

/-- A register of a use as a number, unique over the classes (for 02 R69): x, p, k, v and the queues. -/
def Use.reg : Use → Nat
  | .rx (.x n) => n.val
  | .wx (.x n) => n.val
  | .rx (.q n) => 64 + n.val
  | .wx (.q n) => 64 + n.val
  | .rv (.q n) => 72 + n.val
  | .wv (.q n) => 72 + n.val
  | .rv (.v n) => 128 + n.val
  | .wv (.v n) => 128 + n.val
  | .rp n => 256 + n.val
  | .wp n => 256 + n.val
  | .rk n => 264 + n.val
  | .wk n => 264 + n.val

/-- Does the use write? -/
def Use.writes : Use → Bool
  | .wx _ => true
  | .wv _ => true
  | .wp _ => true
  | .wk _ => true
  | .rx _ => false
  | .rv _ => false
  | .rp _ => false
  | .rk _ => false

/-- Does the use read a mask register? -/
def Use.readsMask : Use → Bool
  | .rk _ => true
  | _ => false

/-- Registers an instruction writes, those that discard writes left out (02 R69, R92). -/
def Instr.regsWritten (i : Instr) : List Nat :=
  ((Instr.uses i).filter Use.writes).map Use.reg |>.filter fun r => r != 0 && r != 256 && r != 264

/-- Registers an instruction reads, its guard predicate and mask among them (02 R69). -/
def Instr.regsRead (i : Instr) : List Nat :=
  let guards := match Instr.hdr? i with
    | some (_, h) => [256 + h.gp.val, 264 + h.gm.val]
    | none => []
  guards ++ ((Instr.uses i).filter fun u => !u.writes).map Use.reg

/-- Issue classes (02 R88). -/
inductive Class
  | c | s | m | v | j | l | o | e | a | q | n | y | d
  deriving DecidableEq, Repr

/-- The class of a major; none for a major absent from 02 R89. -/
def classOf : Nat → Option Class
  | 0x01 => some .c
  | 0x02 => some .c
  | 0x10 => some .s
  | 0x11 => some .s
  | 0x12 => some .s
  | 0x13 => some .m
  | 0x20 => some .v
  | 0x21 => some .v
  | 0x22 => some .v
  | 0x23 => some .v
  | 0x30 => some .v
  | 0x31 => some .v
  | 0x32 => some .v
  | 0x40 => some .j
  | 0x50 => some .l
  | 0x51 => some .l
  | 0x52 => some .l
  | 0x60 => some .o
  | 0x68 => some .e
  | 0x70 => some .a
  | 0x80 => some .q
  | 0x81 => some .q
  | 0x88 => some .n
  | 0x90 => some .y
  | 0x98 => some .d
  | _ => none

/-! Scalar registers, predicates and queues (02 R78..R80, R92). -/

/-- x[n]: x0 reads zero. -/
def Stream.getX (st : Stream) (n : Fin 64) : Word := if n = 0 then 0 else st.x[n]

/-- Write x[n]: a write of x0 is discarded. -/
def Stream.setX (st : Stream) (n : Fin 64) (v : Word) : Stream := if n = 0 then st else { st with x := st.x.set n v }

/-- p[n]: p0 reads one. -/
def Stream.getP (st : Stream) (n : Fin 8) : Bool := n = 0 || st.p.getLsbD n.val

/-- Write p[n]: a write of p0 is discarded. -/
def Stream.setP (st : Stream) (n : Fin 8) (b : Bool) : Stream :=
  if n = 0 then st
  else { st with p := (st.p &&& ~~~((1#8) <<< n.val)) ||| ((if b then 1#8 else 0#8) <<< n.val) }

/-- Read an x-class source: a register, or the entry a queue gives (02 R80). -/
def readX (o : XOp) : M Word :=
  match o with
  | .x n => do return (← curStream).getX n
  | .q n => do
    let h ← curHart
    match h.q.get n.val [] with
    | [] => waitHere
    | w :: r => do
      modHart fun h => { h with q := h.q.put n.val r }
      pure w

/-- Read an x register. -/
def readReg (n : Fin 64) : M Word := do return (← curStream).getX n

/-- Write an x-class destination: a register, or a new queue entry. -/
def writeX (o : XOp) (w : Word) : M Unit :=
  match o with
  | .x n => modStream fun st => st.setX n w
  | .q n => modHart fun h => { h with q := h.q.put n.val (h.q.get n.val [] ++ [w]) }

/-- Write an x register. -/
def writeReg (n : Fin 64) (w : Word) : M Unit := modStream fun st => st.setX n w

/-- Read a predicate. -/
def readP (n : Fin 8) : M Bool := do return (← curStream).getP n

/-- Write a predicate. -/
def writeP (n : Fin 8) (b : Bool) : M Unit := modStream fun st => st.setP n b

/-- The address of a format M operand (02 R86): base, then index, read in field order. -/
def readEA (m : MemOp) : M Nat := do
  let a ← readX m.base
  let b ← readX m.idx
  pure (a + b <<< m.scl.val + m.disp.signExtend 64).toNat

/-! Masks (08 R339..R341). -/

/-- k[n]: k0 reads all ones, k1 the mask-stack top, all ones at depth 0. -/
def Hart.getK (h : Hart) (n : Nat) : Mask :=
  if n = 0 then BitVec.allOnes 1024
  else if n = 1 then h.mstack.head?.getD (BitVec.allOnes 1024)
  else h.k.get n 0

/-- Write k[n]: k0 discards. -/
def Hart.setK (h : Hart) (n : Nat) (m : Mask) : Hart := if n = 0 then h else { h with k := h.k.put n m }

/-- Elements of the tile: N = vl × rc (08 R332). -/
def Hart.tileN (h : Hart) : Nat := h.vl.toNat * h.rc.toNat

/-- Does a mask guard let through an element? -/
def Hart.admits (h : Hart) (hd : Hdr) (i : Nat) : Bool :=
  if hd.gm = 0 then !hd.gmn else (h.getK hd.gm.val).getLsbD i != hd.gmn

/-- active(i) (08 R339). -/
def Hart.active (h : Hart) (hd : Hdr) (i : Nat) : Bool :=
  decide (h.vstart.toNat ≤ i) && decide (i < h.tileN) && h.admits hd i

/-- The active elements of the tile, ascending. -/
def Hart.actives (h : Hart) (hd : Hdr) : List Nat := (List.range h.tileN).filter (h.active hd)

/-! Elements in registers (03 R110, R114; 08 R332). -/

/-- Bytes that n elements of a type fill. -/
def Ty.bytesFor (t : Ty) (n : Nat) : Nat :=
  match t with
  | .e2m1 => (n + 1) / 2
  | .bp8 => (n + 127) / 128 * 128
  | t => n * (Ty.bits t / 8)

/-- Size of an element in vector memory in bytes; raw bytes for e2m1 and bp8 (07 R299, R300). -/
def Ty.size (t : Ty) : Nat := (Ty.bits t + 7) / 8

/-- Element i of a type in a byte-addressed buffer. -/
def getElem (t : Ty) (m : Memory) (i : Nat) : Nat :=
  match t with
  | .e2m1 => (m.get (i / 2)).toNat / 16 ^ (i % 2) % 16
  | .e3m2 => (m.get i).toNat % 64
  | .e2m3 => (m.get i).toNat % 64
  | .bp8 =>
    let base := 128 * (i / 128) + i % 128 / 8
    (List.range 8).foldl (fun acc j => if (m.get (base + 16 * j)).getLsbD (i % 8) then acc + 2 ^ (7 - j) else acc) 0
  | t => m.read (i * (Ty.bits t / 8)) (Ty.bits t / 8)

/-- The buffer with element i of a type replaced. -/
def setElem (t : Ty) (m : Memory) (i v : Nat) : Memory :=
  match t with
  | .e2m1 =>
    let old := (m.get (i / 2)).toNat
    m.set (i / 2) (BitVec.ofNat 8 (if i % 2 = 0 then old / 16 * 16 + v % 16 else old % 16 + v % 16 * 16))
  | .e3m2 => m.set i (BitVec.ofNat 8 (v % 64))
  | .e2m3 => m.set i (BitVec.ofNat 8 (v % 64))
  | .bp8 =>
    let base := 128 * (i / 128) + i % 128 / 8
    (List.range 8).foldl (fun m j =>
      let old := m.get (base + 16 * j)
      let bit := (1#8) <<< (i % 8)
      m.set (base + 16 * j) (if bitOf v (7 - j) then old ||| bit else old &&& ~~~bit)) m
  | t => m.write (i * (Ty.bits t / 8)) (Ty.bits t / 8) v

/-- Highest byte offset that element i occupies (08 R338). -/
def topByte (t : Ty) (i : Nat) : Nat :=
  match t with
  | .e2m1 => i / 2
  | .bp8 => 128 * (i / 128) + i % 128 / 8 + 112
  | t => i * (Ty.bits t / 8) + Ty.bits t / 8 - 1

/-- The 4,096 bytes of v[n], addressed from 0. -/
def Hart.getV (h : Hart) (n : Nat) : Memory :=
  (h.v.filter fun c => 4096 * n ≤ c.1 && c.1 < 4096 * (n + 1)).map fun c => (c.1 - 4096 * n, c.2)

/-- Replace the bytes of v[n]; `top` is the highest byte offset written, none where nothing was (08 R338). -/
def Hart.setV (h : Hart) (n : Nat) (m : Memory) (top : Option Nat) : Hart :=
  match top with
  | none => h
  | some b =>
    let lo := h.v.filter fun c => c.1 < 4096 * n
    let hi := h.v.filter fun c => 4096 * (n + 1) ≤ c.1
    let own := (m.filter fun c => c.1 < 4096).map fun c => (c.1 + 4096 * n, c.2)
    { h with
      v := lo ++ own ++ hi
      vdirty := h.vdirty ||| (1#64) <<< n
      vhw := h.vhw.put n (BitVec.ofNat 12 (max (h.vhw.get n 0).toNat (min b 4095))) }

/-- Read a v-class source: a register's bytes, or the entry a vector queue gives. -/
def readV (o : VOp) : M Memory :=
  match o with
  | .v n => do return (← curHart).getV n.val
  | .q n => do
    let h ← curHart
    match h.vq.get n.val [] with
    | [] => waitHere
    | w :: r => do
      modHart fun h => { h with vq := h.vq.put n.val r }
      pure (Memory.setBytes [] 0 w)

/-- The old contents of a v-class destination: a queue entry starts as zeros (08 R347). -/
def oldV (o : VOp) : M Memory :=
  match o with
  | .v n => do return (← curHart).getV n.val
  | .q _ => pure []

/-- Write a v-class destination: `len` bytes of a queue entry, or a register whose highest byte written is `top`. -/
def writeV (o : VOp) (m : Memory) (len : Nat) (top : Option Nat) : M Unit :=
  match o with
  | .v n => modHart fun h => h.setV n.val m top
  | .q n => modHart fun h => { h with vq := h.vq.put n.val (h.vq.get n.val [] ++ [m.bytes 0 len]) }

/-- The greatest of a list of numbers. -/
def maxOf : List Nat → Option Nat
  | [] => none
  | a :: r => some (r.foldl max a)

/-- Write elements (index, value) of a type into a v-class destination of n elements. -/
def writeElems (o : VOp) (t : Ty) (n : Nat) (vals : List (Nat × Nat)) : M Unit := do
  let old ← oldV o
  let m := vals.foldl (fun m (iv : Nat × Nat) => setElem t m iv.1 iv.2) old
  writeV o m (Ty.bytesFor t n) (maxOf (vals.map fun iv => topByte t iv.1))

/-- A BX or CX source as a function of the element index: x[F][b-1:0], or the element (08 R359). -/
def readSrc (t : Ty) (o : VSrc) : M (Nat → Nat) :=
  match o with
  | .v v => do
    let m ← readV v
    pure fun i => getElem t m i
  | .x x => do
    let w ← readX x
    pure fun _ => w.toNat % 2 ^ Ty.width t

/-- A v-class source as a function of the element index. -/
def readTile (t : Ty) (o : VOp) : M (Nat → Nat) := do
  let m ← readV o
  pure fun i => getElem t m i

/-! Element groups and lanes (08 R334). -/

/-- Physical lanes of the granted groups, ascending. -/
def Hart.lanesOf (h : Hart) : List Nat := (List.range 16).filter fun l => h.lanes.getLsbD (l / 4)

/-- lane_of(egn). -/
def Hart.laneOf (h : Hart) (egn : Nat) : Nat := (h.lanesOf)[egn % h.lanesOf.length]?.getD 0

/-- Element group of element i under element width b. -/
def Hart.groupOf (h : Hart) (b i : Nat) : Nat :=
  let g := (h.vl.toNat * b + 511) / 512
  i / h.vl.toNat * g + i % h.vl.toNat * b / 512

end Sys2Proof.Machine

namespace Sys2Proof

/-- The element, index and count types by which an instruction's tile is judged (08 R333, 09 R391, 07 R299). -/
def Instr.tileTys : Instr → List Ty
  | .vadd _ t _ _ _ _ | .vsub _ t _ _ _ _ | .vmul _ t _ _ _ _ | .vfma _ t _ _ _ _ _ | .vfms _ t _ _ _ _ _
  | .vfnma _ t _ _ _ _ _ | .vdiv _ t _ _ _ _ | .vsqrt _ t _ _ _ | .vmin _ t _ _ _ | .vmax _ t _ _ _ | .vabs _ t _ _
  | .vneg _ t _ _ | .vcmp _ _ t _ _ _ | .vclass _ t _ _ | .twosum _ t _ _ _ _ _ | .viadd _ _ t _ _ _
  | .visub _ _ t _ _ _ | .vimul _ t _ _ _ | .vimulh _ t _ _ _ | .vimad _ t _ _ _ _ | .vimin _ t _ _ _
  | .vimax _ t _ _ _ | .vand _ t _ _ _ | .vor _ t _ _ _ | .vxor _ t _ _ _ | .vshl _ t _ _ _ | .vshr _ t _ _ _
  | .vsra _ t _ _ _ | .vclip _ t _ _ _ _ | .vmov _ t _ _ | .vbcast _ t _ _ | .viota _ _ t _ | .vsel _ t _ _ _ _
  | .vldi _ t _ _ | .vrcp _ t _ _ _ | .vrsq _ t _ _ _ | .vexp2 _ t _ _ _ | .vlog2 _ t _ _ _ | .vtanh _ t _ _ _
  | .vrand _ t _ | .vtrip _ t _ _ | .mloop _ t _ _ | .vredp _ _ t _ _ _ | .vscan _ _ _ t _ _ _
  | .vslide _ _ _ t _ _ _ | .vzip _ _ _ t _ _ _ | .vunzip _ _ _ t _ _ _ | .vtrn _ t _ _ | .vcompress _ _ t _ _ _
  | .vexpand _ _ t _ _ | .vextr _ t _ _ _ | .vinsr _ t _ _ _ | .vld _ t _ _ | .vlds _ t _ _ | .vst _ t _ _
  | .vsts _ t _ _ | .vgred _ _ t _ _ _ | .vgall _ t _ _ _ | .vgrs _ _ t _ _ _ | .vgbc _ t _ _ _ _
  | .vldo _ t _ _ _ _ => [t]
  | .vcvt _ t u _ _ _ | .vqblk _ t u _ _ _ _ _ | .vdqblk _ t u _ _ _ _ _ => [t, u]
  | .vplane _ _ _ => [.bp8]
  | .vunplane _ _ _ _ => [.i8]
  | .vred _ op _ t _ _ _ => (if op = .argmin ∨ op = .argmax then [t, .n32] else [t])
  | .vperm _ _ ix t _ _ _ => [t, if ix then .n16 else .n32]
  | .vsortk _ _ t _ _ _ _ => [t, .n32]
  | .vldx _ t ix _ _ _ _ _ | .vstx _ t ix _ _ _ _ _ | .vstu _ t ix _ _ _ _ _ | .vstxa _ t ix _ _ _ _ _ =>
    [t, if ix then .i64 else .i32]
  | .br _ _ _ _ _ | .jmp _ _ | .call _ _ _ | .callr _ _ _ | .ret _ _ | .pushb _ _ _ | .brq _ _ _ | .loop _ _ _ _
  | .lexit _ _ | .nop _ | .trap _ _ | .eret _ | .srr _ _ _ | .srw _ _ _ | .wait _ _ _ | .yield _ | .halt _
  | .fencei _ | .add _ _ _ _ _ | .sub _ _ _ _ _ | .mul _ _ _ _ _ | .mulh _ _ _ _ _ | .mulhu _ _ _ _ _
  | .div _ _ _ _ _ | .divu _ _ _ _ _ | .rem _ _ _ _ _ | .remu _ _ _ _ _ | .and _ _ _ _ _ | .or _ _ _ _ _
  | .xor _ _ _ _ _ | .andn _ _ _ _ _ | .shl _ _ _ _ _ | .shr _ _ _ _ _ | .sra _ _ _ _ _ | .ror _ _ _ _ _
  | .min _ _ _ _ _ | .max _ _ _ _ _ | .minu _ _ _ _ _ | .maxu _ _ _ _ _ | .clz _ _ _ _ | .ctz _ _ _ _
  | .popc _ _ _ _ | .bfx _ _ _ _ _ | .bfi _ _ _ _ _ | .sel _ _ _ _ _ | .lea _ _ _ _ _ | .addImm _ _ _ _ _
  | .subImm _ _ _ _ _ | .mulImm _ _ _ _ _ | .mulhImm _ _ _ _ _ | .mulhuImm _ _ _ _ _ | .divImm _ _ _ _ _
  | .divuImm _ _ _ _ _ | .remImm _ _ _ _ _ | .remuImm _ _ _ _ _ | .andImm _ _ _ _ _ | .orImm _ _ _ _ _
  | .xorImm _ _ _ _ _ | .andnImm _ _ _ _ _ | .shlImm _ _ _ _ _ | .shrImm _ _ _ _ _ | .sraImm _ _ _ _ _
  | .rorImm _ _ _ _ _ | .minImm _ _ _ _ _ | .maxImm _ _ _ _ _ | .minuImm _ _ _ _ _ | .maxuImm _ _ _ _ _
  | .bfxImm _ _ _ _ _ | .bfiImm _ _ _ _ | .selImm _ _ _ _ _ | .leaImm _ _ _ _ _ | .movi _ _ _ | .cmp _ _ _ _ _ _ _
  | .cmpi _ _ _ _ _ _ | .plog _ _ _ _ _ | .pmovToX _ _ | .pmovToP _ _ | .ld _ _ _ _ | .st _ _ _ _ | .lda _ _ _ _ _
  | .str _ _ _ _ _ | .atomSwap _ _ _ _ _ | .atomAdd _ _ _ _ _ | .atomAnd _ _ _ _ _ | .atomOr _ _ _ _ _
  | .atomXor _ _ _ _ _ | .atomMin _ _ _ _ _ | .atomMax _ _ _ _ _ | .atomCas _ _ _ _ _ _ _ | .fence _ _ _
  | .setvl _ _ _ _ | .setvlRel _ _ | .setrc _ _ _ _ | .alloc _ _ _ | .shrink _ _ _ | .strip _ _ _ _ _ _ _ _ _
  | .klog _ _ _ _ _ | .kcnt _ _ _ | .kfirst _ _ _ | .mpush _ _ | .minv _ | .mpop _ | .mbrz _ _ _ | .rdv _ _
  | .vfence _ _ _ | .pref _ _ _ _ | .gset _ _ _ _ | .gsetFree _ _ | .stream _ _ _ | .armw _ _ _ | .waitw _ _ _
  | .jobwait _ _ _ | .ovopen _ _ | .ovopenTry _ _ _ | .ovset _ _ | .ovretire _ _ _ | .ovcommit _ _ _ _
  | .ldo _ _ _ _ _ _ | .ovstat _ _ _ _ | .carve _ _ _ | .cclean _ _ _ _ | .cinv _ _ _ _ | .cflush _ _ _ _
  | .tlbiAll _ | .tlbiAsid _ _ | .tlbiRange _ _ _ _ | .digest _ _ _ | .digestRng _ _ _ _ | .budget _ _ _ _
  | .budgetW _ _ _ _ _ | .mattach _ _ _ | .mattachPair _ _ _ | .mdetach _ | .mwld _ _ _ _ | .mstream _ _ _ _
  | .mzeroFp _ _ _ | .mzeroInt _ _ _ | .mdrain _ _ _ _ | .mdrainIdx _ _ _ _ | .msave _ _ _ | .mrestore _ _ _
  | .mlineEmpty _ _ _ | .mlineFull _ _ _ | .mlineWfull _ _ _ | .mlineWempty _ _ _ | .mwait _ _ _ | .mstat _ _ _ _
  | .tvload _ _ _ _ | .tvloadFree _ _ | .tvstart _ _ _ _ | .tvwait _ _ _ | .tvstat _ _ _ _ | .gzlook _ _ _
  | .gzupdate _ _ _ | .gzver _ _ _ _ | .gzpin _ _ _ _ _ | .gzpinUn _ _ _ _ _ | .gzwait _ _ _ | .launch _ _ _
  | .launchTry _ _ _ | .trig _ | .bar _ _ | .waitl _ _ _ _ _ | .lvlid _ _ _ _ | .mtick _ _ | .mtickOrd _ _
  | .svmark _ _ _ | .svsamp _ _ _ | .svsampOff _ | .svread _ _ _ _ | .svstop _ _ _ | .clklock _ _ _
  | .clklockOff _ _ | .dhash _ _ _ _ | .dverify _ _ _ _ | .dsign _ _ _ _ | .dsignAtt _ _ _ | .dsignPub _ _
  | .fuserd _ _ _ | .keywipe _ _ _ | .keywipeAll _ _ | .mextend _ _ _ _ | .mextendDbg _ _ | .lcset _ _ _
  | .dbgopen _ _ _ | .waitWake _ | .queueDeadlock _ | .rendezvousComplete _ _ | .laneArrive _ _ _
  | .vectorTrapCommit _ | .mzeroApply _ | .streamChunk _ | .weightSwap _ | .barRelease _ _ _
  | .legSend _ _ _ _ _ _ _ | .legRecv _ _ _ _ _ _ | .legReduce _ _ _ _ _ _ _ _ | .legCopy _ _ _ _ _ _ _
  | .legWait _ | .legSignal _ _ _ | .legReserve _ _ _ _ | .legRepeat _ _ _ | .legEnd | .traverseRunStart _
  | .sendLand _ | .signalArrive _ | .reserveClaimArrive _ | .reserveRound _ _ _ | .legAckArrive _ | .stopNotice _ _
  | .cardStart _ | .streamCopyJob _ | .weightLoadJob _ | .gzLookupJob _ | .gzUpdateJob _ | .gzageHalve _
  | .cardComplete _ | .ringWptrWrite _ _ | .ringReset _ _ | .ringEntryRead _ | .priorityAge _ | .depEval _
  | .launchPlace _ | .podAdmission _ _ | .launchComplete _ | .preemptWrite _ | .cancelWrite _ | .gangPreempt _ _
  | .gangResume _ _ | .hostMrd _ | .hostDrd _ _ _ _ | .hostDwr _ _ _ _ | .hostCpl _ _ _ | .regWrite _ _
  | .fqrespRetry _ _ | .fqrespDecline _ _ | .pageWalkDone | .faultRecordPost _ | .sideLogPerform _
  | .sideLogPageTrap _ | .tagEndOvstaleTrap _ | .roundProtTrap _ | .wcbDrainTimeout _ | .l1LeaseExpire _
  | .borderCopyInvalidate _ _ | .budgetPeriod | .roundApply _ | .trainReceive _ | .trainAck _ | .trainRefusal _
  | .ualinkReadServe _ | .ualinkResponse _ _ | .tlbicmdAll | .tlbicmdAsid _ | .tlbicmdRange _ | .tlbicmdDone
  | .uncorrected _ | .scrub _ _ | .ovgaddWrite _ | .poolGrowDone | .gzdsyncWrite _ | .gzprobeWrite _ | .gzprobeDone
  | .tickAlign _ | .tickAlignLoss | .sampleRecord _ _ _ | .stopFire | .svrunWrite _ | .svstatDisarm _
  | .rlctlWrite _ | .rlwptrSupply _ | .replayInputArrive _ | .powerGoodReset | .dwinWrite _ | .dmloadWrite _
  | .unitReady _ | .unitLost _ | .cdisWrite _ _ | .pcapWrite _ _ | .powerLimitRaise | .powerLimitRelax
  | .thermalLimitRaise | .thermalTrip | .thermalLimitRelax | .pointChange | .kctlLoad _ | .kctlClearSeal _
  | .dunlkAbort | .dchalDraw | .debugScan | .debugMemrd _ | .debugMemwr _ _ | .debugSvstop _ | .i3cEntdaa _
  | .i3cRstdaa | .i3cGetpid | .i3cGetbcr | .i3cGetdcr | .i3cGetstatus | .i3cPrivateWrite _ _ | .laneComplete _ _ _
  | .meridianTick | .ualinkErrorResponse _ | .gzdsyncDone | .i3cPrivateRead _ => []

end Sys2Proof

namespace Sys2Proof.Machine

open Sys2Proof

/-- Element width of the wider of the types named (08 R333). -/
def widest (l : List Ty) : Nat := l.foldl (fun w t => max w t.width) 0

/-- Tile bits of an instruction on a hart (08 R333). -/
def tileBits (h : Hart) (i : Instr) : Nat := h.tileN * widest i.tileTys

/-- Instructions that take at most 1,024 elements whatever their guard (08 R370, 09 R391). -/
def shortTile : Instr → Bool
  | .vqblk _ _ _ _ _ _ _ _ => true
  | .vcompress _ _ _ _ _ _ => true
  | .vexpand _ _ _ _ _ => true
  | .vsortk _ _ _ _ _ _ _ => true
  | _ => false

/-- VDQBLK's scale extent and MDRAIN's tile (08 R371, 11 R464). -/
def extentBad (h : Hart) : Instr → Bool
  | .vdqblk _ _ _ _ off _ _ _ => decide (4095 < 32 * off.toNat + (h.tileN - 1) / 32)
  | .mdrain _ c _ _ =>
    decide (8192 < c.m.toNat * h.vl.toNat) || (decide (1024 < c.m.toNat * h.vl.toNat) && (c.km != 0 || c.kn))
  | .mdrainIdx _ c _ _ => decide (1024 < c.m.toNat * h.vl.toNat)
  | _ => false

/-- The tile, mask and extent checks of step 2 of 02 R87. -/
def tileBad (h : Hart) (hd : Hdr) (i : Instr) : Bool :=
  decide (32768 < tileBits h i)
    || (decide (1024 < h.tileN) && (hd.gm != 0 || i.uses.any Use.readsMask || shortTile i))
    || extentBad h i

end Sys2Proof.Machine
end

