-- ==== Sys2Proof/Machine/Flags.lean ====
section
/-! DEFINITION. Conditions and predicates: what compares decide, the two-input tables of PLOG and KLOG, and the masks
that vector compares write. -/

namespace Sys2Proof.Machine

open Sys2Proof

/-- Does the comparison of a BR hold? (05 R207) -/
def BrCond.holds (c : BrCond) (a b : Word) : Bool :=
  match c with
  | .always => true
  | .eq => a == b
  | .ne => a != b
  | .lt => a.slt b
  | .ge => !a.slt b
  | .ltu => a.ult b
  | .geu => !a.ult b

/-- The condition of CMP and CMPI on operands of one width (05 R219). -/
def CmpCond.test {w : Nat} (c : CmpCond) (a b : BitVec w) : Bool :=
  match c with
  | .eq => a == b
  | .ne => a != b
  | .lt => a.slt b
  | .ge => !a.slt b
  | .ltu => a.ult b
  | .geu => !a.ult b
  | .tst => (a &&& b) != 0

/-- CMP and CMPI: with W the operands are cut to 32 bits (05 R219). -/
def CmpCond.holds (c : CmpCond) (w : Bool) (a b : Word) : Bool :=
  if w then CmpCond.test c (a.setWidth 32) (b.setWidth 32) else CmpCond.test c a b

/-- The table of PLOG and KLOG: bit 2a + b (05 R220, 08 R375). -/
def lut2 (lut : BitVec 4) (a b : Bool) : Bool := lut.getLsbD (2 * a.toNat + b.toNat)

/-- The condition of VCMP on encodings (08 R361). -/
def VCond.holds (c : VCond) (t : Ty) (x y : Nat) : Bool :=
  let a := Ty.decode t x
  let b := Ty.decode t y
  let nan := a == .nan || b == .nan
  match c with
  | .eq => FVal.numEq a b
  | .ne => !FVal.numEq a b || nan
  | .lt => FVal.numLt a b
  | .le => FVal.numLt a b || FVal.numEq a b
  | .gt => FVal.numLt b a
  | .ge => FVal.numLt b a || FVal.numEq a b
  | .un => nan
  | .or => !nan

/-- A mask with bit i set or cleared. -/
def Mask.put (m : Mask) (i : Nat) (b : Bool) : Mask :=
  if b then m ||| (1#1024) <<< i else m &&& ~~~((1#1024) <<< i)

/-- The low n bits. -/
def Mask.low (n : Nat) : Mask := BitVec.ofNat 1024 (2 ^ min n 1024 - 1)

/-- A mask written under guard and vstart: active bits, then zero from N up (08 R341). -/
def maskWrite (old : Mask) (n : Nat) (vals : List (Nat × Bool)) : Mask :=
  (vals.foldl (fun m (ib : Nat × Bool) => Mask.put m ib.1 ib.2) old) &&& Mask.low n

/-- The class bit of an element (08 R362). -/
def classBit (t : Ty) (x : Nat) : Nat :=
  match Ty.fmt t with
  | none => 0
  | some f =>
    let neg := bitOf x (f.width - 1)
    let e := fieldOf x f.mb (f.width - f.mb - 1)
    match Ty.decode t x with
    | .nan => 2 ^ 8
    | .inf n => if n then 1 else 2 ^ 7
    | .fin _ m _ _ =>
      if m = 0 then (if neg then 2 ^ 3 else 2 ^ 4)
      else if e = 0 then (if neg then 2 ^ 2 else 2 ^ 5)
      else (if neg then 2 else 2 ^ 6)

end Sys2Proof.Machine
end

