-- ==== Sys2Proof/Machine/Exec.lean ====
section
/-! DEFINITION. Issuing one instruction: the order of checks, the guard, queues, the meaning's body, and what retiring
does (02 R68..R73, R79, R80, R87; 05 R194, R195, R200, R230; 08 R357). -/

namespace Sys2Proof.Machine

open Sys2Proof

/-- How control goes on after an instruction that completes. `next` is the successor; `goto` another number, with the
end actions of the instruction's own place; `taken` a transfer without them (05 R200). -/
inductive Ctl
  | next
  | goto (n : Word)
  | taken (n : Word)
  | eret
  | halted
  | swtrap (code : Word)
  deriving DecidableEq, Repr

/-- The successor of an instruction in a line whose LAST is given (02 R64). -/
def succOf (n : Word) (last : Nat) : Word := if n % 5 < BitVec.ofNat 64 last then n + 1 else (n / 5 + 1) * 5

/-! Step 2 to step 6 of 02 R87. -/

/-- Families of the datum core (02 R91). -/
def datumFamily (maj : Nat) : Bool := [0x01, 0x02, 0x10, 0x11, 0x12, 0x13, 0x98].contains maj

/-- Step 2 of 02 R87 beyond the word's own form: the family on this processor (R91) and the tile checks. -/
def stepTwoBad (s : State) (i : Instr) : Bool :=
  match Instr.hdr? i with
  | none => false
  | some (maj, h) =>
    if s.cur.isDatum then !datumFamily maj
    else maj == 0x98 || tileBad (s.hart s.cur.slot) h i

/-- The scalar guard (02 R73). -/
def guardTrue (st : Stream) (h : Hdr) : Bool := st.getP h.gp != h.gpn

/-- Registers that SRR and SRW trap PRIV for from user mode: the trap registers (05 R190), wva and wctl (14 R555). -/
def sregHidden (n : Nat) : Bool := decide (0x010 ≤ n ∧ n < 0x01C ∧ n ≠ 0x017) || n == 0x508 || n == 0x509

/-- Registers whose SRW traps PRIV from user mode: those above, sstat (05 R190), ovft (03 R125), g0..g7 (07 R312), ovt
(10 R412), lvl (04 R188). -/
def sregGuarded (n : Nat) : Bool :=
  sregHidden n || n == 0x001 || n == 0x105 || decide (0x210 ≤ n ∧ n < 0x218) || n == 0x300
    || decide (0x480 ≤ n ∧ n < 0x490)

/-- Instructions of system mode only (02 R87 step 4; 05 R190, R234, R236, 06 R290, R292, 14 R576, R577): an SRR and an SRW
by the register that they name. -/
def systemOnly : Instr → Bool
  | .eret _ => true
  | .srr _ _ n => sregHidden n.toNat
  | .srw _ n _ => sregGuarded n.toNat
  | .tlbiAll _ => true
  | .tlbiAsid _ _ => true
  | .tlbiRange _ _ _ _ => true
  | .budget _ _ _ _ => true
  | .budgetW _ _ _ _ _ => true
  | .svstop _ _ _ => true
  | .clklock _ _ _ => true
  | .clklockOff _ _ => true
  | .cinv _ l2 _ _ => l2
  | _ => false

/-- Does an SRR or SRW on the datum core name a number that only a hart gives a register to (02 R93)? -/
def namesHartSreg (s : State) : Instr → Bool
  | .srr _ _ n => s.cur.isDatum && decide (0x100 ≤ n.toNat)
  | .srw _ n _ => s.cur.isDatum && decide (0x100 ≤ n.toNat)
  | _ => false

/-- Queues written by stream A and read by stream X: q0..q3 and q8..q11 (02 R79). -/
def queueToX (code : Nat) : Bool := decide (64 ≤ code ∧ code < 68) || decide (72 ≤ code ∧ code < 76)

/-- Is a queue use against 02 R79? -/
def queueBad (st : Stream) (isX : Bool) (big : Bool) (code : Nat) (w : Bool) : Bool :=
  st.ssm || (queueToX code == (w == isX)) || (decide (72 ≤ code) && big)

/-- A C field of VQBLK that names a queue, or the branch-outcome queue of PUSHB and BRQ in single-stream mode
(02 R79, 05 R197): the trap's value. -/
def queueSpecial (st : Stream) (isX : Bool) : Instr → Option Nat
  | .vqblk _ _ _ _ _ _ c _ => VOp.queue? c
  | .pushb _ _ _ => if st.ssm then some (if isX then 0x81 else 0x80) else none
  | .brq _ _ _ => if st.ssm then some (if isX then 0x80 else 0x81) else none
  | _ => none

/-- The first trap of steps 2 and 4 to 6, judged without effect; none for a false guard (02 R87). DESIGN CHOICE (log 52):
where several v fields, or several queue fields, fail, tval is the first of the sources in the order of `Instr.uses`, then
the destinations: the loops of R87 give the fields no order. -/
def issueTrap (s : State) (i : Instr) : Option (Nat × Word) :=
  match Instr.hdr? i with
  | none => none
  | some (_, h) =>
    let st := s.stream s.cur
    let hart := s.hart s.cur.slot
    if stepTwoBad s i then some (causeIll, (s.issue.raw >>> 32).setWidth 64)
    else if !guardTrue st h then none
    else if systemOnly i && !st.priv && !namesHartSreg s i then some (causePriv, 0)
    else
      match i.uses.findSome? fun u => u.vreg?.filter fun n => decide (hart.allot.toNat ≤ n) with
      | some n => some (causeRegallot, BitVec.ofNat 64 n)
      | none =>
        let big := decide (8192 < tileBits hart i)
        match (i.uses.filterMap Use.queue?).find? fun q => queueBad st s.cur.isX big q.1 q.2 with
        | some q => some (causeQdir, BitVec.ofNat 64 q.1)
        | none => (queueSpecial st s.cur.isX i).map fun c => (causeQdir, BitVec.ofNat 64 c)

/-! Step 7: queues (05 R194). -/

/-- The queue needs of an instruction in order: code, and whether it adds an entry. Codes 0x100 and 0x101 are bqa and
bqx. -/
def queueNeeds (s : State) (i : Instr) : List (Nat × Bool) :=
  match i with
  | .pushb _ _ _ => [(if s.cur.isX then 0x101 else 0x100, true)]
  | .brq _ _ _ => [(if s.cur.isX then 0x100 else 0x101, false)]
  | i => i.uses.filterMap Use.queue?

/-- Entries in a queue, and its depth (02 R92). -/
def queueLen (h : Hart) (code : Nat) : Nat × Nat :=
  if code = 0x100 then (h.bqa.length, 32)
  else if code = 0x101 then (h.bqx.length, 32)
  else if code < 72 then ((h.q.get (code - 64) []).length, 16)
  else ((h.vq.get (code - 72) []).length, 2)

/-- The first need that cannot be met, given the needs before it. -/
def firstBlocked (h : Hart) : List (Nat × Bool) → List (Nat × Bool) → Option Nat
  | _, [] => none
  | seen, (c, w) :: rest =>
    let same := (seen.filter fun d => d.1 == c && d.2 == w).length
    let (len, cap) := queueLen h c
    if (w && decide (cap ≤ len + same)) || (!w && decide (len ≤ same)) then some c
    else firstBlocked h (seen ++ [(c, w)]) rest

/-- The value that 05 R195 reports for a queue. -/
def blockedCode (c : Nat) : Nat := if c = 0x100 then 0x180 else if c = 0x101 then 0x181 else 0x100 + c

/-- Is the instruction blocked on queues? -/
def queueBlocked (s : State) (i : Instr) : Option Nat :=
  (firstBlocked (s.hart s.cur.slot) [] (queueNeeds s i)).map blockedCode

/-- Majors whose instructions are taken in the vector issue order (08 R342, 11 R456). -/
def vectorMajor (maj : Nat) : Bool :=
  [0x20, 0x21, 0x22, 0x23, 0x30, 0x31, 0x32, 0x40, 0x50, 0x51, 0x52, 0x70].contains maj

/-- Is the instruction a vector instruction? LDO and VLDO are (08 R342). -/
def Instr.isVector : Instr → Bool
  | .ldo _ _ _ _ _ _ => true
  | .vldo _ _ _ _ _ _ => true
  | i => match Instr.hdr? i with
    | some (m, _) => vectorMajor m
    | none => false

/-! What an instruction captures at issue (08 R335, 10 R413), and its scalar results (08 R345). -/

/-- The values that an instruction issued now captures. -/
def Hart.capture (h : Hart) : Capture := ⟨h.vl, h.rc, h.vstart, h.rmode, h.srseed, h.ovft, h.ovt⟩

/-- The hart as an instruction that goes on sees it: with what it captured. -/
def Hart.asCaptured (h : Hart) (c : Capture) : Hart :=
  { h with vl := c.vl, rc := c.rc, vstart := c.vstart, rmode := c.rmode, srseed := c.srseed, ovft := c.ovft, ovt := c.ovt }

/-- The hart's own values again after an instruction has gone on: vstart is the instruction's once it retires or traps. -/
def Hart.putBack (h : Hart) (c : Capture) (keep : Bool) : Hart :=
  { h.asCaptured c with vstart := if keep then h.vstart else c.vstart }

/-- The executing hart sees what the instruction in hand captured. -/
def State.resumed (s : State) (c : Capture) : State := s.setHart s.cur.slot ((s.hart s.cur.slot).asCaptured c)

/-- The executing hart has its own values again, where the instruction in hand has seen what it captured. -/
def State.putBack (s : State) (own : Option Capture) : State :=
  match own with
  | none => s
  | some c =>
    if (s.hart? s.cur.slot).isSome then s.setHart s.cur.slot ((s.hart s.cur.slot).putBack c (s.issue.res != .waits))
    else s

/-- The instruction in hand is issued: what it uses of its hart is captured, once. -/
def Stream.issued (st : Stream) (c : Capture) : Stream := { st with captured := some (st.captured.getD c) }

/-- The unfinished entry of a stream in its hart's vector issue order. -/
def Hart.ownEntry? (h : Hart) (isX : Bool) : Option VEntry := h.inflight.find? fun e => e.isX == isX && !e.done

/-- The unfinished entry of a stream is abandoned: its lane states and its record go (09 R386). -/
def Hart.dropEntry (h : Hart) (isX : Bool) : Hart :=
  { h with inflight := h.inflight.filter fun e => e.done || e.isX != isX }

/-- Has every lane that takes part reached a state? -/
def VEntry.all (e : VEntry) (x : LaneSt) : Bool :=
  (List.range 16).all fun l => !e.lanes.getLsbD l || (e.st[l]?).getD .absent == x

/-- The scalar results of an entry are written (08 R345, 09 R401). -/
def Hart.deliver (h : Hart) (e : VEntry) : Hart :=
  e.scalars.foldl (fun h r => match r.1 with
    | .x n => h.setStream e.isX ((h.stream e.isX).setX n r.2)
    | .q n => { h with q := h.q.put n.val (h.q.get n.val [] ++ [r.2]), sa := { h.sa with blocked := none }
                       sx := { h.sx with blocked := none } }) h

/-- The commit point passes the oldest entries that every lane has completed (08 R345). -/
def Hart.commitFrom : List VEntry → Hart → Hart
  | [], h => { h with inflight := [] }
  | e :: r, h => if e.done && e.all .released then Hart.commitFrom r (h.deliver e) else { h with inflight := e :: r }

/-- The commit point moves as far as it can. -/
def Hart.commit (h : Hart) : Hart := Hart.commitFrom h.inflight h

/-- Every finished entry is committed, in order: an older instruction's trap is taken (08 R346). -/
def Hart.commitDone (h : Hart) : Hart :=
  let h' := (h.inflight.filter fun e => e.done).foldl Hart.deliver h
  { h' with inflight := h.inflight.filter fun e => !e.done }

/-- The vector instruction in hand has had its effect: its entry notes what it reads and writes, and the commit point
passes it once its lanes have completed it (08 R345, 09 R383). -/
def State.closeEntry (i : Instr) (s : State) : State :=
  match s.cur with
  | .datum => s
  | .stream slot isX =>
    let h := s.hart slot
    if h.inflight.isEmpty then s
    else
      let close := fun (e : VEntry) =>
        if e.isX == isX && !e.done then { e with done := true, reads := Instr.regsRead i, writes := Instr.regsWritten i } else e
      s.setHart slot ({ h with inflight := h.inflight.map close } : Hart).commit

/-- Registers and queues that await scalar results of a stream's instructions (08 R345). -/
def Hart.awaited (h : Hart) (isX : Bool) : List Nat :=
  h.inflight.flatMap fun e => if e.isX == isX then e.scalars.map fun r => Use.reg (.wx r.1) else []

/-- The instruction numbers of the unit issued: one, or a pair's two (02 R70). -/
def Issue.unit (i : Issue) : List Word := if i.first || i.second then [i.pair, i.pair + 1] else [i.n]

/-- Registers that the end action of the stream's STRIP reads, where the unit issued holds the body's last instruction
(08 R357). -/
def stripReads (s : State) : List Nat :=
  let st := s.stream s.cur
  if st.stripAct && !st.priv && s.issue.unit.contains (st.stripEnd.setWidth 64) then st.stripArgs.take 4 else []

/-- An instruction that names a register or queue whose scalar result is still to be delivered waits for it (08 R345,
09 R401). -/
def scalarBlocked (s : State) (i : Instr) : Bool :=
  match s.cur with
  | .datum => false
  | .stream slot isX =>
    let w := (s.hart slot).awaited isX
    !w.isEmpty && ((i.uses.map Use.reg) ++ stripReads s).any w.contains

/-! Retiring. -/

/-- The strip's end action (08 R357): counts down x[D] and advances the pointers; true when the body runs again. -/
def stripEndAct (s : State) (p : Party) : State × Bool :=
  let st := s.stream p
  match st.stripArgs with
  | [d, a, b, c, sa, sb, sc, cap, ret] =>
    let vl := (s.hart p.slot).vl.toNat
    let reg := fun n => (⟨n % 64, Nat.mod_lt n (by decide)⟩ : Fin 64)
    let st := st.setX (reg d) (st.getX (reg d) - BitVec.ofNat 64 vl)
    let adv := fun (st : Stream) (n sc : Nat) =>
      if n = 0 then st else st.setX (reg n) (st.getX (reg n) + BitVec.ofNat 64 (vl * 2 ^ sc))
    let st := adv (adv (adv st a sa) b sb) c sc
    let left := (st.getX (reg d)).toNat
    if 0 < left then
      let s := s.setStream p { st with pc := BitVec.ofNat 64 ret }
      (s.setHart p.slot { s.hart p.slot with vl := BitVec.ofNat 14 (min left cap) }, true)
    else (s.setStream p { st with stripAct := false, stripBody := [] }, false)
  | _ => (s, false)

/-- The loop-end action of 05 R200 over the two loops: the stream after it, and the start a return could not go to. -/
def loopEnd (st : Stream) (ns : List Word) : Stream × Option (Word × Word) :=
  let out := fun (n : Word) => decide (Config.instrEnd ≤ n.toNat)
  if ns.contains st.le0 && 1 < st.lc0 then
    if out st.ls0 then (st, some (st.le0, st.ls0)) else ({ st with lc0 := st.lc0 - 1, pc := st.ls0 }, none)
  else
    let st := if ns.contains st.le0 then { st with lc0 := 0 } else st
    if ns.contains st.le1 && 1 < st.lc1 then
      if out st.ls1 then (st, some (st.le1, st.ls1)) else ({ st with lc1 := st.lc1 - 1, pc := st.ls1 }, none)
    else (if ns.contains st.le1 then { st with lc1 := 0 } else st, none)

/-- The instruction numbers whose end actions apply now. -/
def Issue.ends (i : Issue) : List Word := if i.second then [i.pair, i.pair + 1] else [i.n]

/-- The last slot of the unit issued. -/
def Issue.lastN (i : Issue) : Word := if i.second then i.pair + 1 else i.n

/-- The end actions after an instruction that made no taken transfer: the strip's, then the loops' (05 R200, 08 R357,
R358). A loop return enters its line anew (02 R66). -/
def endActions (s : State) (p : Party) : State :=
  let st := s.stream p
  let ns := s.issue.ends
  let stripHere := st.stripAct && !st.priv && ns.any fun n => n == st.stripEnd.setWidth 64
  let (s, again) := if stripHere then stripEndAct s p else (s, false)
  if again then s
  else
    let st := s.stream p
    if !st.le then s
    else
      let st' := (loopEnd st ns).1
      s.setStream p { st' with line := if st'.pc = st.pc then st.line else none }

/-- The streams of a hart are no longer blocked on its queues: an entry has moved. -/
def State.unblock (s : State) (slot : Nat) : State :=
  match s.hart? slot with
  | none => s
  | some h => s.setHart slot { h with sa := { h.sa with blocked := none }, sx := { h.sx with blocked := none } }

/-- An instruction retires: it counts in user mode (03 R119), Y gives up the next turn (05 R236), and control goes on
(02 R64, 05 R200, R230). A transfer enters its line anew (02 R66). -/
def retire (i : Instr) (h : Hdr) (user : Bool) (ctl : Ctl) (s : State) : State :=
  let p := s.cur
  let s := if Instr.isVector i then s.closeEntry i else s
  let st := s.stream p
  let s := s.setStream p { st with
    icount := if user then st.icount + 1 else st.icount
    yielded := st.yielded || h.y
    stage := 0
    logSerial := none
    reads := []
    faultWait := none
    captured := none
    storing := none
    copied := []
    drained := if user then [] else st.drained.filter (· != s.issue.n)
    declined := if st.targetFault then st.declined else none
    targetFault := false }
  let s := if (queueNeeds s i).isEmpty then s else s.unblock p.slot
  let s := { s with issue := { s.issue with res := .retired } }
  let setPc := fun (s : State) (n : Word) => s.setStream p { s.stream p with pc := n }
  let seqPc := s.issue.skip.getD (succOf s.issue.lastN s.issue.last)
  match ctl with
  | .taken n => { s.setStream p { s.stream p with pc := n, line := none } with issue := { s.issue with jumped := true } }
  | .eret => s.leaveTrap p
  | .halted => s
  | .next => if s.issue.first || s.issue.jumped then s else endActions (setPc s seqPc) p
  | .goto n =>
    if s.issue.first then { s with issue := { s.issue with skip := some n } }
    else if s.issue.jumped then s else endActions (setPc s n) p
  | .swtrap code =>
    let s := endActions (setPc s seqPc) p
    s.enterTrap p causeSwtrap code (s.stream p).pc 0 noLane

/-- The loop return that an instruction would make and that its start forbids: the loop's end and start (05 R200). It is
judged on the registers that the instruction leaves. -/
def badReturn (ctl : Ctl) (s : State) : Option (Word × Word) :=
  let st := s.stream s.cur
  let again := st.stripAct && !st.priv && (s.issue.ends.any fun n => n == st.stripEnd.setWidth 64)
    && (stripEndAct s s.cur).2
  let ends := match ctl with
    | .next => true
    | .goto _ => true
    | .swtrap _ => true
    | .taken _ => false
    | .eret => false
    | .halted => false
  if !ends || s.issue.first || s.issue.jumped || again || !st.le then none else (loopEnd st s.issue.ends).2

/-- Queue contents as they were: a trapping or waiting instruction takes and adds no entry (02 R80). -/
def restoreQueues (s0 s : State) (p : Party) : State :=
  match p with
  | .datum => s
  | .stream slot _ =>
    match s.hart? slot with
    | none => s
    | some h =>
      let h0 := s0.hart slot
      s.setHart slot { h with q := h0.q, vq := h0.vq, bqa := h0.bqa, bqx := h0.bqx }

/-- telem of a precise trap: vstart for a vector instruction, else 0 (05 R232). -/
def trapElem (s : State) (vec : Bool) : Word := if vec then (s.hart s.cur.slot).vstart.setWidth 64 else 0

/-- The executing instruction has trapped: an entry of it in the vector issue order is abandoned. -/
def State.trapping (s : State) (cause : Nat) (tval tpc : Word) : State :=
  let s := { s with issue := { s.issue with res := .trapped, trap := some (cause, tval, tpc) } }
  match s.cur with
  | .datum => s
  | .stream slot isX => if (s.hart slot).inflight.isEmpty then s else s.setHart slot ((s.hart slot).dropEntry isX)

/-- The executing instruction traps (05 R230, R232): tpc is the issue's number. -/
def trapAt (s : State) (vec : Bool) (cause : Nat) (tval : Word) : State :=
  let s := s.trapping cause tval s.issue.n
  s.enterTrap s.cur cause tval s.issue.n (trapElem s vec) noLane

/-- The executing instruction traps for an element train of an earlier one, whose element telem names (07 R307). -/
def elemTrapAt (s : State) (cause : Nat) (tval : Word) (elem : Nat) : State :=
  let s := s.trapping cause tval s.issue.n
  s.enterTrap s.cur cause tval s.issue.n (BitVec.ofNat 64 elem) noLane

/-- The executing instruction waits at its place. -/
def waits (s : State) : State := { s with issue := { s.issue with res := .waits }, reqs := [] }

/-- A vector instruction found its fault, and the trap is taken once every lane has stopped (08 R346): vstart says where it
restarts. -/
def vectorFault (s : State) (vstart : BitVec 13) (cause : Nat) (tval : Word) (elem lane : Nat) : State :=
  let slot := s.cur.slot
  let s := s.trapping cause tval s.issue.n
  let h := s.hart slot
  let st := { h.stream s.cur.isX with captured := none, storing := none, stage := 0, reads := [], logSerial := none }
  s.setHart slot { h.setStream s.cur.isX st with
    vstart
    vfault := some ⟨s.cur.isX, s.issue.n, cause, tval, elem, lane⟩ }

/-- The access of the executing stream waits on a fault record (06 R259). -/
def faultWaitOn (s : State) (va : Nat) (kind : Nat) (k : AKind) (elem : Nat) : State :=
  let c := { s.hartCtx s.cur 0 0 with elem := elem }
  let (s, num) := s.raiseFault c kind k va 0 (onePage va) false
  waits (s.setStream s.cur { s.stream s.cur with faultWait := some num })

/-- KIND of a translation fault of a stream (06 R261). -/
def streamFaultKind (bad : Bool) (k : AKind) : Nat :=
  if bad then 5 else match k with
    | .load => 1
    | .atom => 1
    | .store => 2
    | .fetch => 4

/-- Is the instruction a collective, which restarts from the step that its group table entry records (07 R319)? -/
def isCollective : Instr → Bool
  | .vgred _ _ _ _ _ _ => true
  | .vgall _ _ _ _ _ => true
  | .vgrs _ _ _ _ _ _ => true
  | .vgbc _ _ _ _ _ _ => true
  | _ => false

/-- Where a vector instruction that traps at an element restarts: the elements below stay performed and vstart names that one
(08 R346); with a queue operand it is not stopped inside, and vstart is left at 0 (08 R347); a collective keeps vstart. -/
def restartAt (queue coll : Bool) (h : Hart) (elem : Nat) : BitVec 13 :=
  if queue then 0 else if coll then h.vstart else BitVec.ofNat 13 elem

/-- Does an instruction name a vector queue? -/
def namesVq (i : Instr) : Bool := (i.uses.filterMap Use.queue?).any fun q => decide (72 ≤ q.1)

/-- What an exception of a body makes of the machine (06 R259, 08 R346, 10 R420; 02 R80): whether the instruction is in
the vector issue order, where it restarts, and whether it is a scalar instruction that has issued. -/
def answerExc (vec : Bool) (restart : Nat → BitVec 13) (scalar : Bool) (s0 : State) (e : Exc) (s : State) :
    Host.Outcome State Fault Refusal :=
  let s := restoreQueues s0 s s.cur
  -- a scalar instruction that waits has issued: what it captured stands (10 R413)
  let held := fun (s : State) =>
    if !scalar || s.cur.isDatum then s
    else s.setStream s.cur ((s.stream s.cur).issued (s0.hart s0.cur.slot).capture)
  match e with
  | .trap cause tval => .next (trapAt s vec cause tval)
  | .vtrap cause tval elem lane => .next (vectorFault s (restart elem) cause tval elem lane)
  | .etrap cause tval elem => .next (elemTrapAt s cause tval elem)
  | .tfault va bad k elem => .next (faultWaitOn (held s) va (streamFaultKind bad k) k elem)
  | .pool va elem => .next (faultWaitOn (held s) va 7 .atom elem)
  | .wait => .next (waits (held s))

/-! Sampled requests (14 R560, 07 R294). -/

/-- The forms whose requests come from lanes: whether elements that share a line make one request, and their type. -/
def laneForm : Instr → Option (Bool × Ty)
  | .vld _ t _ _ => some (true, t)
  | .vst _ t _ _ => some (true, t)
  | .vldo _ t _ _ _ _ => some (true, t)
  | .vlds _ t _ _ => some (false, t)
  | .vldx _ t _ _ _ _ _ _ => some (false, t)
  | .vsts _ t _ _ => some (false, t)
  | .vstx _ t _ _ _ _ _ _ => some (false, t)
  | .vstu _ t _ _ _ _ _ _ => some (false, t)
  | .vstxa _ t _ _ _ _ _ _ => some (false, t)
  | _ => none

/-- Is the instruction a gather? -/
def isGather : Instr → Bool
  | .vldx _ _ _ _ _ _ _ _ => true
  | _ => false

/-- Element group of an element of a memory form; raw forms count bytes (07 R300). -/
def reqGroup (h : Hart) (t : Ty) (e : Nat) : Nat := if t = .e2m1 ∨ t = .bp8 then e / 64 else h.groupOf (Ty.width t) e

/-- Keep one note of each run of notes with the same key. -/
def oncePerRun (key : ReqNote → Nat × Nat) : Option (Nat × Nat) → List ReqNote → List ReqNote
  | _, [] => []
  | last, r :: rest => if last = some (key r) then oncePerRun key last rest else r :: oncePerRun key (some (key r)) rest

/-- The requests that an instruction's accesses make, with the lane of each; a matrix instruction's accesses are made
by neither lanes nor the scalar unit (07 R294, R296; 14 R560). -/
def reqsOf (h : Hart) (i : Instr) (l : List ReqNote) : List (ReqNote × Nat) :=
  match laneForm i with
  | some (flat, t) =>
    let l := if flat then oncePerRun (fun r => (reqGroup h t r.elem, r.va / 64)) none l else l
    l.map fun r => (r, h.laneOf (reqGroup h t r.elem))
  | none =>
    if (Instr.hdr? i).map (·.1) = some 0x70 then [] else (oncePerRun (fun r => (0, r.va / 64)) none l).map fun r => (r, 15)

/-- Count one request; every 2^N-th is sampled (14 R560). -/
def Hart.countReq (h : Hart) (tick : Nat) (n : Word) (isX gather : Bool) (remote : Nat → Bool) (r : ReqNote × Nat) :
    Hart :=
  let c := h.svCount + 1
  let kind := match r.1.kind with
    | .store => 2
    | .atom => 3
    | _ => if gather then 4 else 1
  if c % 2 ^ h.svN.toNat = 0 then
    { h with svCount := c, svPend := h.svPend ++ [⟨tick, n, r.1.va, kind, r.2, isX, remote r.1.va, h.svBuf⟩] }
  else { h with svCount := c }

/-- The noted requests of the instruction are counted (14 R560). -/
def flushReqs (i : Instr) (s : State) : State :=
  match s.cur, s.reqs with
  | .stream slot isX, _ :: _ =>
    let h := s.hart slot
    let asid := (s.hartCtx s.cur 0 0).asid
    let remote := fun va => ((s.peekLeaf asid va).map fun l => l.mt) = some 2
    let h := (reqsOf h i s.reqs).foldl (fun h r => h.countReq s.tick s.issue.n isX (isGather i) remote r) h
    { s.setHart slot h with reqs := [] }
  | _, _ => s

/-- The requests of an execution that waits are made again, but for a store's, which keeps its place; those of one that traps
have been made. -/
def flushExc (i : Instr) (e : Exc) (s : State) : State :=
  match e with
  | .trap _ _ => flushReqs i s
  | .vtrap _ _ _ _ => flushReqs i s
  | .etrap _ _ _ => flushReqs i s
  | _ => if (s.stream s.cur).storing.isSome then flushReqs i s else { s with reqs := [] }

/-- The number of a register that the instruction reads and that holds uncorrectable data (06 R285). -/
def marked (s : State) (i : Instr) : Option Nat :=
  let st := s.stream s.cur
  let vm := if s.cur.isDatum then [] else (s.hart s.cur.slot).vmarks
  if st.xmarks.isEmpty && vm.isEmpty then none
  else (Instr.regsRead i).findSome? fun r =>
    if r < 64 && st.xmarks.contains r then some r else if 128 ≤ r && vm.contains (r - 128) then some (r - 128) else none

/-- A register written holds good data again. -/
def clearMarks (i : Instr) (s : State) : State :=
  let st := s.stream s.cur
  let w := Instr.regsWritten i
  let s := if st.xmarks.isEmpty then s
    else s.setStream s.cur { st with xmarks := st.xmarks.filter fun r => !w.contains r }
  match s.cur with
  | .datum => s
  | .stream slot _ =>
    let h := s.hart slot
    if h.vmarks.isEmpty then s else s.setHart slot { h with vmarks := h.vmarks.filter fun r => !w.contains (r + 128) }

/-- What becomes of an instruction whose body has ended well: it retires, but for a loop return that its start forbids,
which traps PROT at the loop's end with nothing done (05 R200, R230). Its end actions see the hart's own values (08 R357). -/
def conclude (i : Instr) (h : Hdr) (own : Option Capture) (s : State) (ctl : Ctl) (t : State) : State :=
  let t := t.putBack own
  match badReturn ctl t with
  | some (le, ls) =>
    let s := (s.putBack own).trapping causeProt ls le
    s.enterTrap s.cur causeProt ls le (trapElem s (Instr.isVector i)) noLane
  | none => retire i h (!(s.stream s.cur).priv) ctl t

/-- An outcome's next state changed. -/
def mapNext (o : Host.Outcome State Fault Refusal) (f : State → State) : Host.Outcome State Fault Refusal :=
  match o with
  | .next s => .next (f s)
  | .fault r => .fault r
  | .refused r => .refused r

/-- Issue one instruction of the executing stream, or go on with it (02 R87): step 2, the guard, privilege, allotment,
queue direction, blocking, then the body. `own` is what the hart itself holds while an instruction that goes on sees what it
captured; the hart holds that again when the body has ended. -/
def issueHart (i : Instr) (h : Hdr) (body : M Ctl) (own : Option Capture) (s : State) (st : Stream) :
    Host.Outcome State Fault Refusal :=
  match issueTrap s i with
  | some (cause, tval) => .next ((trapAt s (Instr.isVector i) cause tval).putBack own)
  | none =>
    if !guardTrue st h then .next (conclude i h own s .next s)
    else if scalarBlocked s i then .next ((waits s).putBack own)
    else
      match queueBlocked s i with
      | some code =>
        .next ((waits (s.setStream s.cur { st with blocked := some code, blockedVec := Instr.isVector i })).putBack own)
      | none =>
        match marked s i with
        | some n => .next ((trapAt s (Instr.isVector i) causePoison (BitVec.ofNat 64 (2 ^ 63 + n))).putBack own)
        | none =>
        match body s with
        | .ok ctl s' => .next (conclude i h own s ctl (clearMarks i (flushReqs i s')))
        | .error e s' =>
          mapNext (answerExc (Instr.isVector i) (restartAt (namesVq i) (isCollective i) (s.hart s.cur.slot))
            (!Instr.isVector i) s e (flushExc i e s')) fun t => t.putBack own

/-- Execute one instruction of the executing stream: one that goes on after a wait sees what it captured at issue
(08 R335, 10 R413). -/
def runHart (i : Instr) (h : Hdr) (body : M Ctl) (s : State) : Host.Outcome State Fault Refusal :=
  match s.stream? s.cur with
  | none => .fault .noActor
  | some st =>
    if !st.live then .fault .noActor
    else
      match st.captured with
      | none => issueHart i h body none s st
      | some c => issueHart i h body (some (s.hart s.cur.slot).capture) (s.resumed c) st

/-- A body that ends at the successor. -/
def seqBody (b : M Unit) : M Ctl := do
  b
  pure .next

/-- Issue an instruction whose body ends at the successor. -/
def runSeq (i : Instr) (h : Hdr) (body : M Unit) (s : State) : Host.Outcome State Fault Refusal :=
  runHart i h (seqBody body) s

end Sys2Proof.Machine
end

