-- ==== Sys2Proof/Machine/DatumMem.lean ====
section
/-! DEFINITION. The datum core's own memory and its unlock state (15 R580..R582, R586, R597). -/

namespace Sys2Proof.Machine

open Sys2Proof

/-- What an address of the datum core names (15 R580). -/
inductive DatumAddr
  | rom (off : Nat)
  | sram (off : Nat)
  | priv (off : Nat)
  | device (pa : Nat)
  | mmio (off : Nat)
  | bad
  deriving DecidableEq, Repr

/-- The address map of 15 R580 for n bytes at an aligned address. -/
def datumAddr (a n : Nat) : DatumAddr :=
  let within := fun (lo size : Nat) => decide (lo ≤ a) && decide (a + n ≤ lo + size)
  if within 0 0x10000 then .rom a
  else if within 0x100000 0x100000 then .sram (a - 0x100000)
  else if within 0x1000000 0x10000 then .priv (a - 0x1000000)
  else if within 0x2000000 0x10000 then .mmio (a - 0x2000000)
  else if within 0x1000000000000 Config.deviceEnd then .device (a - 0x1000000000000)
  else .bad

/-- Wake key of a line of datum SRAM. -/
def datumKey (off : Nat) : Nat := 2 ^ 62 + off / 64

/-- n bytes of ROM. -/
def romBytes (a n : Nat) : List Byte := (List.range n).map fun i => Config.romByte (a + i)

/-- First SRAM offset of the 16 KiB view that the host reaches: the top block once firmware runs, the block that DWIN
selects until then (15 R582, R600). -/
def DcSys.mailbox (d : DcSys) : Nat := if d.fwok then 0xFC000 else d.dwin.toNat * 0x4000

/-- Abort of the unlock: STATE 1..3 returns to 0 and PERM to 0 (15 R586, R597). -/
def State.abortUnlock (s : State) : State :=
  if s.dc.dunlk = 1 ∨ s.dc.dunlk = 2 ∨ s.dc.dunlk = 3 then { s with dc := { s.dc with dunlk := 0, perm := 0 } } else s

/-- A fresh nonce, a free value that is never 0 (15 R586). -/
def State.drawNonce (s : State) : State :=
  let (a, s) := s.draw
  let (b, s) := s.draw
  { s with dc := { s.dc with chal0 := if a = 0 ∧ b = 0 then 1 else a, chal1 := b } }

end Sys2Proof.Machine
end

