-- ==== Sys2Proof/Machine/Fetch.lean ====
section
/-! DEFINITION. Fetch lines: parity, legality, pairs, and checked transfers (02 R61..R71). -/

namespace Sys2Proof.Machine

open Sys2Proof

/-- Slot k of a line (02 R61). -/
def slotWord (l : Line) (k : Nat) : Word96 := (l >>> (96 * k)).setWidth 96

/-- The legend of a line (02 R61). -/
def legendOf (l : Line) : BitVec 32 := (l >>> 480).setWidth 32

/-- XOR of the w low bits of a number. -/
def xorBits (w n : Nat) : Bool := (List.range w).foldl (fun b i => b != bitOf n i) false

/-- The parity check of a line (02 R63). -/
def parityOk (l : Line) : Bool :=
  let g := (legendOf l).toNat
  ((List.range 5).all fun k => bitOf g k == xorBits 96 (slotWord l k).toNat) && bitOf g 5 == xorBits 26 (g / 64)

/-- LAST of a line. -/
def lastOf (l : Line) : Nat := fieldOf (legendOf l).toNat 16 3

/-- PAIR bit j of a line. -/
def pairBit (l : Line) (j : Nat) : Bool := bitOf (legendOf l).toNat (11 + j)

/-- TGT bit k of a line. -/
def tgtBit (l : Line) (k : Nat) : Bool := bitOf (legendOf l).toNat (6 + k)

/-- Is a family available on a processor: the datum core, or a hart? (02 R91) -/
def familyHere (datum : Bool) (maj : Nat) : Bool := if datum then datumFamily maj else maj != 0x98

/-- Registers that a slot's instruction reads and writes, none of either when its encoding fails step 2 of 02 R87 on this
processor (02 R69). -/
noncomputable def slotRegs (datum : Bool) (w : Word96) : List Nat × List Nat :=
  match if familyHere datum (majorOf w) then decode w else none with
  | some i => (Instr.regsRead i, Instr.regsWritten i)
  | none => ([], [])

/-- Is a pair of slots legal? (02 R69) -/
noncomputable def pairLegal (datum : Bool) (w1 w2 : Word96) : Bool :=
  match classOf (majorOf w1), classOf (majorOf w2) with
  | some c1, some c2 =>
    let (_, out1) := slotRegs datum w1
    let (in2, out2) := slotRegs datum w2
    ((c1 == .s) != (c2 == .s)) && c1 != .c && majorOf w1 != 0x02 && majorOf w2 != 0x02
      && !(out1.any fun r => out2.contains r) && (c2 == .s || !(out1.any fun r => in2.contains r))
  | _, _ => false

/-- The legality of a line (02 R62, R67). -/
noncomputable def lineLegal (datum : Bool) (l : Line) : Bool :=
  let g := (legendOf l).toNat
  let last := lastOf l
  fieldOf g 19 13 == 0 && !bitOf g 15 && decide (last ≤ 4)
    && ((List.range 5).all fun k => decide (k ≤ last) || (slotWord l k == 0 && !tgtBit l k))
    && ((List.range 4).all fun j => !pairBit l j ||
      (!(decide (j < 3) && pairBit l (j + 1)) && decide (j + 1 ≤ last) && !tgtBit l (j + 1)
        && pairLegal datum (slotWord l j) (slotWord l (j + 1))))

/-- Byte address of the line of an instruction number (02 R64). -/
def lineAddr (n : Word) : Nat := n.toNat / 5 * 64

/-- The bytes of a line as the executing stream fetches them; `again` bypasses L1 (02 R65, R66; 06 R257, R285). -/
def fetchRaw (n : Word) (again : Bool) : M Line := do
  let va := lineAddr n
  if (← get).cur.isDatum then
    match datumAddr va 64 with
    | .rom o => pure (Line.ofBytes (romBytes o 64))
    | .sram o => return Line.ofBytes ((← get).dc.sram.bytes o 64)
    | _ => trap causeProt (BitVec.ofNat 64 va)
  else
    let c ← hartCtx 0 0
    match addrKind c.core va with
    | .global =>
      loadGate c va 64
      let l ← translate c va .fetch
      budgetGate c l va
      if l.mt = 0 then
        let key := l.phys va / 64
        let s ← get
        let (d, po, s) := (if again then s.dropL1 c.core key else s).readCached c.core 0 key
        set s
        if po then trap causePoison (BitVec.ofNat 64 va) else pure d
      else
        let ws ← mapM' (List.range 8) fun i => do
          let (v, _) ← loadLeaf c l (va + 8 * i) 8
          pure (leBytes 8 v)
        pure (Line.ofBytes ws.flatten)
    | _ => trap causeProt (BitVec.ofNat 64 va)

/-- Fetch a line and check its parity, once more from L2 on a mismatch, then its legality (02 R66). -/
noncomputable def fetchLine (n : Word) : M Line := do
  let l ← fetchRaw n false
  let l ← if parityOk l then pure l else fetchRaw n true
  if !parityOk l then trap causeParity (BitVec.ofNat 64 (lineAddr n))
  else if !lineLegal (← get).cur.isDatum l then trap causeIll ((legendOf l).setWidth 64)
  else pure l

/-- The strip in progress replays its captured body (08 R357). -/
def Stream.replays (st : Stream) : Bool := st.stripAct && !st.priv

/-- The line of a number as the stream holds it: the line that control is in, or a captured line of the strip's body (02 R66,
08 R357). -/
def Stream.lineAt (st : Stream) (num : Nat) : Option Line :=
  match (if st.replays then st.stripBody else []).find? fun x => x.1 == num with
  | some x => some x.2
  | none => (st.line.filter fun x => x.1 == num).map (·.2)

/-- Control is in a line; a strip's pass captures it. -/
def Stream.inLine (st : Stream) (num : Nat) (l : Line) : Stream :=
  { st with
    line := some (num, l)
    stripBody := if st.replays && !(st.stripBody.any fun x => x.1 == num) then st.stripBody ++ [(num, l)] else st.stripBody }

/-- The line of the stream's pc: fetched and checked when control enters it (02 R66), and not again while control stays in it
or a strip replays it (08 R357). -/
noncomputable def lineHere (n : Word) : M Line := do
  let l ← match (← curStream).lineAt (n.toNat / 5) with
    | some l => pure l
    | none => fetchLine n
  modStream fun st => st.inLine (n.toNat / 5) l
  pure l

/-- A fetch of the target's line by the transfer at pc: none when the line cannot be had, so that the trap is taken at
the target (02 R65, R66). -/
noncomputable def fetchTarget (t : Word) : M (Option Line) := do
  tryCatch (do return some (← fetchLine t)) fun e => match e with
    | .trap _ _ => pure none
    | .tfault va bad k _ => do
      modify fun s =>
        let s := faultWaitOn s va (streamFaultKind bad k) k 0
        s.setStream s.cur { s.stream s.cur with targetFault := true }
      waitHere
    | e => throw e

/-- A checked transfer (02 R65, R68): a target beyond the last instruction traps PROT, an unmarked slot BRTGT. -/
noncomputable def checkTarget (t : Word) : M Unit := do
  if Config.instrEnd ≤ t.toNat then trap causeProt t
  else
    match ← fetchTarget t with
    | none => pure ()
    | some l => if tgtBit l (t.toNat % 5) then pure () else trap causeBrtgt t

/-- The successor of any instruction number: its line gives LAST (02 R64). A line that cannot be had gives the next
number, where the fetch traps. -/
noncomputable def succAny (n : Word) : M Word := do
  if n / 5 = (← get).issue.n / 5 then return succOf n (← get).issue.last
  else
    match ← fetchTarget n with
    | none => pure (n + 1)
    | some l => pure (succOf n (lastOf l))

end Sys2Proof.Machine
end

