-- ==== Sys2Proof/Machine/Control.lean ====
section
/-! DEFINITION. Major 0x01: branches, calls, branch-outcome queues and loops (05 R197, R199..R211). -/

namespace Sys2Proof.Machine

open Sys2Proof

/-- The target of a format J branch: n + OFF40 (02 R77). -/
def targetOf (n : Word) (off : BitVec 40) : Word := n + off.signExtend 64

/-- A taken, checked transfer. -/
noncomputable def transfer (t : Word) : M Ctl := do
  checkTarget t
  pure (.taken t)

/-- BR (05 R207). -/
noncomputable def execBr (h : Hdr) (c : BrCond) (a b : XOp) (off : BitVec 40) (s : State) :
    Host.Outcome State Fault Refusal :=
  runHart (.br h c a b off) h (do
    let x ← readX a
    let y ← readX b
    if BrCond.holds c x y then transfer (targetOf (← get).issue.n off) else pure .next) s

/-- JMP (05 R208). -/
noncomputable def execJmp (h : Hdr) (a : XOp) (s : State) : Host.Outcome State Fault Refusal :=
  runHart (.jmp h a) h (do transfer (← readX a)) s

/-- The number after the executing instruction. -/
def successor : M Word := do return succOf (← get).issue.n (← get).issue.last

/-- CALL: the link is written once the transfer is known to be legal (05 R208, R209). -/
noncomputable def execCall (h : Hdr) (d : XOp) (off : BitVec 40) (s : State) : Host.Outcome State Fault Refusal :=
  runHart (.call h d off) h (do
    let c ← transfer (targetOf (← get).issue.n off)
    writeX d (← successor)
    pure c) s

/-- CALLR: reads x[A], then writes the link (05 R208, R209). -/
noncomputable def execCallr (h : Hdr) (d a : XOp) (s : State) : Host.Outcome State Fault Refusal :=
  runHart (.callr h d a) h (do
    let c ← transfer (← readX a)
    writeX d (← successor)
    pure c) s

/-- RET (05 R208). -/
noncomputable def execRet (h : Hdr) (a : XOp) (s : State) : Host.Outcome State Fault Refusal :=
  runHart (.ret h a) h (do transfer (← readX a)) s

/-- PUSHB: one bit to the queue that leads away from the stream (05 R197, R210). -/
def execPushb (h : Hdr) (inv : Bool) (a : Fin 8) (s : State) : Host.Outcome State Fault Refusal :=
  runSeq (.pushb h inv a) h (do
    let b := (← readP a) != inv
    let isX := (← get).cur.isX
    modHart fun h => if isX then { h with bqx := h.bqx ++ [b] } else { h with bqa := h.bqa ++ [b] }) s

/-- BRQ: one bit from the queue that leads toward the stream (05 R197, R210). -/
noncomputable def execBrq (h : Hdr) (z : Bool) (off : BitVec 40) (s : State) : Host.Outcome State Fault Refusal :=
  runHart (.brq h z off) h (do
    let isX := (← get).cur.isX
    let hart ← curHart
    match if isX then hart.bqa else hart.bqx with
    | [] => waitHere
    | b :: rest =>
      modHart fun h => if isX then { h with bqa := rest } else { h with bqx := rest }
      if b != z then transfer (targetOf (← get).issue.n off) else pure .next) s

/-- The loop registers that LOOP writes (05 R199). -/
def Stream.armLoop (st : Stream) (l : Bool) (ls le lc : Word) : Stream :=
  if l then { st with ls1 := ls, le1 := le, lc1 := lc, le := true }
  else { st with ls0 := ls, le0 := le, lc0 := lc, le := true }

/-- LOOP: a count of 0 leaves for the successor of the end, without the enclosing loop's end action (05 R199). -/
noncomputable def execLoop (h : Hdr) (l : Bool) (c : LoopCount) (off : BitVec 40) (s : State) :
    Host.Outcome State Fault Refusal :=
  runHart (.loop h l c off) h (do
    let n := (← get).issue.n
    let count ← match c with
      | .reg a => readX a
      | .imm k => pure (k.setWidth 64)
    let le := targetOf n off
    let start ← successor
    if count = 0 then
      let out ← succAny le
      modStream fun st => st.armLoop l start le count
      pure (.taken out)
    else
      modStream fun st => st.armLoop l start le count
      pure .next) s

/-- LEXIT (05 R202). -/
def execLexit (h : Hdr) (l : Bool) (s : State) : Host.Outcome State Fault Refusal :=
  runSeq (.lexit h l) h (modStream fun st => if l then { st with lc1 := 0 } else { st with lc0 := 0 }) s

/-- NOP (05 R211). -/
def execNop (h : Hdr) (s : State) : Host.Outcome State Fault Refusal := runSeq (.nop h) h (pure ()) s

end Sys2Proof.Machine
end

