-- ==== Sys2Proof/Machine/Geometry.lean ====
section
/-! DEFINITION. The levels of a launch: extents, the numbering of harts, coordinates, groups (01 R27..R31,
04 R149, R150, R187, R188). -/

namespace Sys2Proof.Machine

open Sys2Proof

/-- An undeclared level: coordinate 0, extents 1 (04 R187). That its extent register reads 1, 1, 1 too is the model's choice
(04 R188; DESIGN CHOICE, log 65). -/
def Level.absent : Level := ⟨0, 1, 1, 1⟩

/-- Level L of a launch, 1..7. -/
def LaunchRec.level (r : LaunchRec) (lev : Nat) : Level :=
  if 1 ≤ lev ∧ lev < r.nlev then (r.levels[lev - 1]?).getD Level.absent else Level.absent

/-- Number of groups of a level within its parent. -/
def Level.size (l : Level) : Nat := l.ex * l.ey * l.ez

/-- Members of a level in this package: the pod level counts once (04 R150). -/
def LaunchRec.localSize (r : LaunchRec) (lev : Nat) : Nat := if (r.level lev).dom = 7 then 1 else (r.level lev).size

/-- Product of the sizes of the levels up to a level: the harts of one group of the level above (01 R28). -/
def LaunchRec.groupHarts (r : LaunchRec) (lev : Nat) : Nat :=
  (List.range lev).foldl (fun n i => n * r.localSize (i + 1)) 1

/-- Harts of the launch in this package (04 R150). -/
def LaunchRec.hartCount (r : LaunchRec) : Nat := r.groupHarts (r.nlev - 1)

/-- Coordinates of hart h at a level (04 R150, R188). -/
def LaunchRec.coord (r : LaunchRec) (h lev : Nat) : Nat × Nat × Nat :=
  let l := r.level lev
  if l.dom = 7 then (r.podrank, 0, 0)
  else
    let i := h / r.groupHarts (lev - 1) % max 1 l.size
    (i % max 1 l.ex, i / max 1 l.ex % max 1 l.ey, i / max 1 (l.ex * l.ey))

/-- Index of the group of a level to which hart h belongs, over the whole package. -/
def LaunchRec.groupOf (r : LaunchRec) (h lev : Nat) : Nat := h / max 1 (r.groupHarts (lev - 1))

/-- Coordinate and extent registers: three 21-bit fields (04 R188). -/
def packLevel (t : Nat × Nat × Nat) : Word := BitVec.ofNat 64 (t.1 + t.2.1 * 2 ^ 21 + t.2.2 * 2 ^ 42)

/-- LVLID's value (04 R187). -/
def LaunchRec.lvlid (r : LaunchRec) (h lev : Nat) (sel : LvlSel) : Nat :=
  let c := r.coord h lev
  let e := r.level lev
  match sel with
  | .x => c.1
  | .y => c.2.1
  | .z => c.2.2
  | .rank => c.1 + e.ex * (c.2.1 + e.ey * c.2.2)
  | .ex => e.ex
  | .ey => e.ey
  | .ez => e.ez
  | .count => e.ex * e.ey * e.ez

/-- The lvl registers 0x480..0x48D (04 R188). -/
def LaunchRec.lvlReg (r : LaunchRec) (h n : Nat) : Word :=
  let lev := n / 2 + 1
  if n % 2 = 0 then packLevel (r.coord h lev)
  else packLevel ((r.level lev).ex, (r.level lev).ey, (r.level lev).ez)

/-- Register 0x48E: NLEV and the DOM codes (04 R188). -/
def LaunchRec.domReg (r : LaunchRec) : Word :=
  BitVec.ofNat 64 (r.nlev + ((List.range 7).map fun i => (r.level (i + 1)).dom * 2 ^ (4 + 3 * i)).sum)

end Sys2Proof.Machine
end

