-- ==== Sys2Proof/Machine/Lanes.lean ====
section
/-! DEFINITION. Lane groups: requests, claims and release (04 R161, R162; 08 R351, R352), and the hart's vector issue
order (08 R342..R345, 09 R380..R384). -/

namespace Sys2Proof.Machine

open Sys2Proof

/-- Number of groups in a set. -/
def groupCount (g : BitVec 4) : Nat := (List.range 4).countP fun j => g.getLsbD j

/-- The groups of a set, lowest first. -/
def groupList (g : BitVec 4) : List Nat := (List.range 4).filter fun j => g.getLsbD j

/-- A set of groups. -/
def groupSet (l : List Nat) : BitVec 4 := l.foldl (fun g j => g ||| (1#4) <<< j) 0

/-- Slots of a core. -/
def coreSlots (core : Nat) : List Nat := (List.range 4).map fun j => 4 * core + j

/-- Groups of a core that no hart holds. -/
def State.freeGroups (s : State) (core : Nat) : BitVec 4 :=
  (coreSlots core).foldl (fun g slot => g &&& ~~~(s.hart slot).lanes) (BitVec.allOnes 4)

/-- Replace a hart's held set. -/
def State.setLanes (s : State) (slot : Nat) (g : BitVec 4) : State :=
  if (s.hart? slot).isSome then s.setHart slot { s.hart slot with lanes := g } else s

/-- Replace a hart's claim, keeping the age order of pending claims. -/
def State.setClaim (s : State) (slot n : Nat) : State :=
  let core := coreOf slot
  let k := s.core core
  let claims := if n = 0 then k.claims.filter (· != slot) else if k.claims.contains slot then k.claims else k.claims ++ [slot]
  (s.setHart slot { s.hart slot with claim := n }).setCore core { k with claims }

/-- At its own SETVL a hart hands each owed group to the hart with the oldest pending claim (04 R162). -/
def State.handOwed (s : State) (slot : Nat) : State :=
  let core := coreOf slot
  let mine := groupList ((s.hart slot).lanes &&& (s.core core).owed)
  let s := mine.foldl (fun s j =>
    match ((s.core core).claims.filter (· != slot)).head? with
    | none => s
    | some k =>
      let s := s.setLanes slot ((s.hart slot).lanes &&& ~~~((1#4) <<< j))
      let s := s.setLanes k ((s.hart k).lanes ||| (1#4) <<< j)
      s.setClaim k ((s.hart k).claim - 1)) s
  let k := s.core core
  s.setCore core { k with owed := k.owed &&& ~~~(groupSet mine) }

/-- The groups that the other harts of a core hold above a fair share. -/
def State.excess (s : State) (core slot f : Nat) : Nat :=
  (((coreSlots core).filter (· != slot)).map fun j => groupCount (s.hart j).lanes - f).sum

/-- Free groups that pending claims older than the hart's own leave to it (04 R162). -/
def State.freeFor (s : State) (slot : Nat) : List Nat :=
  let core := coreOf slot
  let older := (s.core core).claims.takeWhile (· != slot)
  let promised := if (s.core core).claims.contains slot then (older.map fun j => (s.hart j).claim).sum
    else ((s.core core).claims.map fun j => (s.hart j).claim).sum
  (groupList (s.freeGroups core)).drop promised

/-- The lane request of 04 R161 for g groups. -/
def State.laneRequest (s : State) (slot g : Nat) : State :=
  let core := coreOf slot
  let s := s.handOwed slot
  let most := match s.launchOf slot with
    | some l => l.info.lanes
    | none => 4
  let m := min most (min 4 g)
  let claims := (s.core core).claims
  let h := (coreSlots core).countP fun j => (s.hart j).lanes != 0 || claims.contains j || j == slot
  let f := 4 / max 1 h
  let free := s.freeFor slot
  let own := groupList (s.hart slot).lanes
  let target := min m (own.length + free.length + s.excess core slot f)
  let kept := own.take target
  let taken := (s.freeFor slot).take (target - kept.length)
  let s := s.setLanes slot (groupSet (kept ++ taken))
  let held := kept.length + taken.length
  let s := s.setClaim slot (if held = 0 then max 1 (target - held) else target - held)
  let pending := (s.core core).claims
  let owed := (coreSlots core).foldl (fun (o : BitVec 4) j =>
    let hold := groupList (s.hart j).lanes
    if f < hold.length && pending.any (· != j) then o ||| groupSet (hold.drop f)
    else o &&& ~~~(groupSet hold)) (s.core core).owed
  s.setCore core { s.core core with owed }

/-- A hart gives up all its groups, and its claim: SETVL of no group, HALT, pre-emption (04 R162). -/
def State.releaseLanes (s : State) (slot : Nat) : State :=
  let core := coreOf slot
  let g := (s.hart slot).lanes
  let s := (s.setLanes slot 0).setClaim slot 0
  let k := s.core core
  s.setCore core { k with owed := k.owed &&& ~~~g }

/-- Groups a tile of vl × rc elements of width b needs (08 R351). -/
def groupsNeeded (vl rc b : Nat) : Nat := (min 16 (rc * ((vl * b + 511) / 512)) + 3) / 4

/-- Have all vector instructions of the hart before the executing stream's own committed (08 R349)? An instruction of the
partner that waits part-way has not. -/
def Hart.earlierDone (h : Hart) (isX : Bool) : Bool := h.inflight.all fun e => e.isX == isX && !e.done

/-- Make a lane request and wait while no group is held. A grant changes only when every earlier vector instruction of
the hart has completed (08 R349, R351). -/
def requestLanes (g : Nat) : M Unit := do
  let slot ← curSlot
  let s ← get
  let s' := s.laneRequest slot g
  if (s'.hart slot).lanes = (s.hart slot).lanes || (s.hart slot).earlierDone s.cur.isX then
    set s'
    if (s'.hart slot).lanes = 0 then waitHere else pure ()
  else waitHere

/-- A vector instruction of a hart that holds no group first makes the lane request of its own width (08 R352). -/
def needLanes (b : Nat) : M Unit := do
  let h ← curHart
  if h.lanes = 0 then requestLanes (groupsNeeded h.vl.toNat h.rc.toNat b) else pure ()

/-! The vector issue order (08 R342..R345). -/

/-- Lanes as a set. -/
def laneSet (l : List Nat) : BitVec 16 := l.foldl (fun g j => g ||| (1#16) <<< j) 0

/-- Element groups of a tile of vl × rc elements of width b (08 R332). -/
def Hart.groupsOf (h : Hart) (b : Nat) : Nat := h.rc.toNat * ((h.vl.toNat * b + 511) / 512)

/-- The lanes that take part in an instruction: every granted lane of a rendezvous, otherwise those that hold an element
group of its tile, none where it has no elements, b = 0 (08 R343, 09 R380). -/
def Hart.takers (h : Hart) (b : Nat) (rendezvous : Bool) : BitVec 16 :=
  if rendezvous then laneSet h.lanesOf
  else if b = 0 then 0 else laneSet ((List.range (min 16 (h.groupsOf b))).map h.laneOf)

/-- The entry of an instruction at its issue. -/
def State.entryOf (s : State) (b : Nat) (rendezvous barrier : Bool) : VEntry :=
  let h := s.hart s.cur.slot
  ⟨h.nextSerial, s.cur.isX, s.issue.n, rendezvous, barrier, h.takers b rendezvous, List.replicate 16 .absent,
    (b, h.vl.toNat, h.rc.toNat), false, [], [], []⟩

/-- The instruction enters the lane queues (08 R342): its record exists from then on (09 R383). -/
def State.enterOrder (s : State) (b : Nat) (rendezvous barrier : Bool) : State :=
  let slot := s.cur.slot
  let h := s.hart slot
  if h.lanesOf.isEmpty then s
  else s.setHart slot { h with nextSerial := h.nextSerial + 1, inflight := h.inflight ++ [s.entryOf b rendezvous barrier] }

/-- There is room in the issue order: a free entry in every granted lane's queue of 64 (08 R343), and no instruction of the
partner waits part-way in lanes (06 R259; log 53). -/
def vecRoom : M Unit := do
  let h ← curHart
  let isX := (← get).cur.isX
  if 64 ≤ h.inflight.length || (h.inflight.any fun e => e.isX != isX && !e.done && e.lanes != 0) then waitHere
  else pure ()

/-- A vector instruction takes its place in the issue order: it needs lanes (08 R352) and room, and captures what it uses of
its hart (08 R335). One that goes on after a wait has its place; after a pre-emption it takes one anew, with what it
captured (04 R172). -/
def vecEnter (b : Nat) (rendezvous barrier : Bool) : M Unit := do
  let isX := (← get).cur.isX
  if (← curStream).captured.isSome && ((← curHart).ownEntry? isX).isSome then pure ()
  else
    needLanes (if b = 0 then 32 else b)
    vecRoom
    let c := (← curHart).capture
    modify fun s => s.enterOrder b rendezvous barrier
    modStream fun st => st.issued c

/-- A vector instruction that completes sets vstart to 0 (08 R348). -/
def vecLeave : M Unit := modHart fun h => { h with vstart := 0 }

/-- Wait until every earlier vector instruction of the hart has committed (08 R349). -/
def vecCommitted : M Unit := do
  let h ← curHart
  if h.earlierDone (← get).cur.isX then pure () else waitHere

/-- A vector instruction that is not a rendezvous unless B is set (08 R342, 09 R380, R384). -/
def vecRun (h : Hdr) (b : Nat) (body : M Unit) : M Unit := do
  vecEnter b h.b h.b
  body
  vecLeave

/-- What a memory instruction reads has been written: earlier entries that write it have been released on every lane, and the
slowest lane is within 32 instructions (08 R344, R345). -/
def Hart.inputsReady (h : Hart) (i : Instr) : Bool :=
  let older := h.inflight.filter fun e => e.done
  decide (older.length < 32)
    && older.all fun e => e.all .released || !(e.writes.any fun r => (Instr.regsRead i).contains r)

/-- Wait until what a memory instruction reads has been written. -/
def awaitInputs (i : Instr) : M Unit := do
  if (← curHart).inputsReady i then pure () else waitHere

/-- Write a scalar result that is delivered at commit (08 R345, 09 R401). The last instruction of a STRIP's body delivers it
at once, because the end action reads it (08 R357). -/
def writeCommit (o : XOp) (w : Word) : M Unit := do
  let s ← get
  let isX := s.cur.isX
  if (← curHart).inflight.any (fun e => e.isX == isX && !e.done) && (stripReads s).isEmpty then
    modHart fun h => { h with inflight := h.inflight.map fun e =>
      if e.isX == isX && !e.done then { e with scalars := e.scalars ++ [(o, w)] } else e }
  else writeX o w

/-- State of a lane at an entry. -/
def VEntry.lane (e : VEntry) (l : Nat) : LaneSt := (e.st[l]?).getD .absent

/-- Set a lane's state. -/
def VEntry.setLane (e : VEntry) (l : Nat) (x : LaneSt) : VEntry := { e with st := e.st.set l x }

/-- Every lane is released. -/
def VEntry.release (e : VEntry) : VEntry := { e with st := e.st.map fun _ => LaneSt.released }

/-- Does a lane take part in an entry? -/
def VEntry.takes (e : VEntry) (l : Nat) : Bool := e.lanes.getLsbD l

/-- Does an entry read what an earlier one writes? -/
def VEntry.needs (e f : VEntry) : Bool := f.writes.any fun r => e.reads.contains r

/-- Has the lane done with every earlier entry, so far as it may go on: completed, or arrived at a data-carrying
rendezvous whose results it does not read (09 R381, R382, R384)? What an earlier entry of another tile shape writes may lie
in other lanes: it is complete in all of them (08 R345). -/
def laneFree (es : List VEntry) (serial l : Nat) : Bool :=
  match es.find? fun e => e.serial == serial with
  | none => false
  | some e =>
    (es.takeWhile fun f => f.serial != serial).all fun f =>
      (!f.takes l || f.lane l == .released || (f.rendezvous && !f.barrier && f.lane l == .arrived && !e.needs f))
        && (!e.needs f || f.shape == e.shape || (f.done && f.all .released))

/-- Is the entry within 32 of the oldest that some lane has not completed? (08 R344) -/
def laneSlip (es : List VEntry) (serial : Nat) : Bool := (es.takeWhile fun e => e.serial != serial).length < 32

/-- The oldest open rendezvous: some lane still absent (09 R383, R388). -/
def openRendezvous (es : List VEntry) : Option VEntry :=
  es.find? fun e => e.rendezvous && (List.range 16).any fun l => e.takes l && e.lane l == .absent

/-- rvst (09 R388). -/
def rvstWord (es : List VEntry) : Word :=
  match openRendezvous es with
  | none => 0
  | some e =>
    let arr := (List.range 16).filter fun l => e.takes l && e.lane l != .absent
    BitVec.ofNat 64 (arr.length * 2 ^ 33 + 2 ^ 32 + e.lanes.toNat * 2 ^ 16 + (laneSet arr).toNat)

/-- A lane completes an instruction that is not a rendezvous (08 R344, R345). -/
def execLaneComplete (hart serial : Nat) (lane : Fin 16) (s : State) : Host.Outcome State Fault Refusal :=
  let h := s.hart hart
  match h.inflight.find? fun e => e.serial == serial with
  | none => .next s
  | some e =>
    if !e.rendezvous && e.done && e.takes lane.val && e.lane lane.val == .absent && laneFree h.inflight serial lane.val
        && laneSlip h.inflight serial then
      let es := h.inflight.map fun x => if x.serial == serial then x.setLane lane.val .released else x
      .next (s.setHart hart { h with inflight := es }.commit)
    else .next s

/-- A lane arrives at a rendezvous (09 R381, R382). -/
def execLaneArrive (hart serial : Nat) (lane : Fin 16) (s : State) : Host.Outcome State Fault Refusal :=
  let h := s.hart hart
  match h.inflight.find? fun e => e.serial == serial with
  | none => .next s
  | some e =>
    if e.rendezvous && e.takes lane.val && e.lane lane.val == .absent && laneFree h.inflight serial lane.val
        && laneSlip h.inflight serial then
      let es := h.inflight.map fun x => if x.serial == serial then x.setLane lane.val .arrived else x
      .next (s.setHart hart { h with inflight := es })
    else .next s

/-- A rendezvous at which every participant has arrived is complete: its results stand, and its lanes are released
(09 R382..R384). -/
def execRendezvousComplete (hart serial : Nat) (s : State) : Host.Outcome State Fault Refusal :=
  let h := s.hart hart
  match h.inflight.find? fun e => e.serial == serial with
  | none => .next s
  | some e =>
    if e.rendezvous && e.done && e.all .arrived then
      let es := h.inflight.map fun x => if x.serial == serial then x.release else x
      .next (s.setHart hart { h with inflight := es }.commit)
    else .next s

/-- A vector trap is taken: earlier instructions are committed (08 R346). It is taken only while its stream is not held
(05 R231). -/
def execVectorTrapCommit (hart : Nat) (s : State) : Host.Outcome State Fault Refusal :=
  let h := s.hart hart
  match h.vfault with
  | none => .next s
  | some v =>
    if h.held = some v.isX || !(h.stream v.isX).live then .next s
    else
      let s := s.setHart hart { h.commitDone with vfault := none }
      .next (s.enterTrap (.stream hart v.isX) v.cause v.tval v.pc (BitVec.ofNat 64 v.elem) (BitVec.ofNat 64 v.lane))

end Sys2Proof.Machine
end

