-- ==== Sys2Proof/Machine/Vector.lean ====
section
/-! DEFINITION. Element-wise instructions: majors 0x20, 0x21, 0x22, 0x30 and 0x31 (08 R359..R373; 03). -/

namespace Sys2Proof.Machine

open Sys2Proof

/-- Issue a vector instruction: its lane request, if it needs one, is for its own types' width (08 R352). -/
def runVec (i : Instr) (hd : Hdr) (body : M Unit) (s : State) : Host.Outcome State Fault Refusal :=
  runSeq i hd (vecRun hd (widest i.tileTys) body) s

/-- The rounding mode of a code of rmode (03 R116, R122). -/
def rmodeOf (n : BitVec 3) : Rnd :=
  match n.toNat with
  | 1 => .rtz
  | 2 => .rup
  | 3 => .rdn
  | 4 => .rna
  | 5 => .sr
  | _ => .rne

/-- RM, or rmode for code 6 (02 R84). -/
def Hart.mode (h : Hart) (rm : Rnd) : Rnd := if rm = .dyn then rmodeOf h.rmode else rm

/-- What rounding of logical index i needs: the mode, ovft, and the draw under `.sr` (03 R116..R119). -/
def rctx (rm : Rnd) : M (Nat → RCtx) := do
  let h ← curHart
  let n := (← curStream).icount
  let mode := h.mode rm
  pure fun i => ⟨mode, h.ovft.toNat, if mode = .sr then srDraw h.srseed n i else 0⟩

/-- Write f(i) to every active element i of a destination (08 R359). -/
def mapElems (hd : Hdr) (t : Ty) (d : VOp) (f : Nat → Nat) : M Unit := do
  let h ← curHart
  writeElems d t h.tileN ((h.actives hd).map fun i => (i, f i))

/-- An element-wise instruction of one source. -/
def mapOne (hd : Hdr) (t : Ty) (d a : VOp) (f : Nat → Nat → Nat) : M Unit := do
  let x ← readTile t a
  mapElems hd t d fun i => f i (x i)

/-- An element-wise instruction of two sources. -/
def mapTwo (hd : Hdr) (t : Ty) (d a : VOp) (b : VSrc) (f : Nat → Nat → Nat → Nat) : M Unit := do
  let x ← readTile t a
  let y ← readSrc t b
  mapElems hd t d fun i => f i (x i) (y i)

/-- An element-wise instruction of three sources. -/
def mapThree (hd : Hdr) (t : Ty) (d a : VOp) (b c : VSrc) (f : Nat → Nat → Nat → Nat → Nat) : M Unit := do
  let x ← readTile t a
  let y ← readSrc t b
  let z ← readSrc t c
  mapElems hd t d fun i => f i (x i) (y i) (z i)

/-- round of a value computed from one element (08 R360, R367). -/
def float1 (f : FVal → FVal) (t : Ty) (c : RCtx) (x : Nat) : Nat := roundTo t c false (f (Ty.decode t x))

/-- round of a value computed from two elements; the mode decides the sign of an exact zero sum (03 R117). -/
def float2 (f : Rnd → FVal → FVal → FVal) (t : Ty) (c : RCtx) (x y : Nat) : Nat :=
  roundTo t c false (f c.mode (Ty.decode t x) (Ty.decode t y))

/-- round of a value computed from three elements. -/
def float3 (f : Rnd → FVal → FVal → FVal → FVal) (t : Ty) (c : RCtx) (x y z : Nat) : Nat :=
  roundTo t c false (f c.mode (Ty.decode t x) (Ty.decode t y) (Ty.decode t z))

/-- Body of a rounded instruction of one source. -/
def bodyFloat1 (f : FVal → FVal) (hd : Hdr) (t : Ty) (rm : Rnd) (d a : VOp) : M Unit := do
  let c ← rctx rm
  mapOne hd t d a fun i x => float1 f t (c i) x

/-- Body of a rounded instruction of two sources. -/
def bodyFloat2 (f : Rnd → FVal → FVal → FVal) (hd : Hdr) (t : Ty) (rm : Rnd) (d a : VOp) (b : VSrc) : M Unit := do
  let c ← rctx rm
  mapTwo hd t d a b fun i x y => float2 f t (c i) x y

/-- Body of a rounded instruction of three sources. -/
def bodyFloat3 (f : Rnd → FVal → FVal → FVal → FVal) (hd : Hdr) (t : Ty) (rm : Rnd) (d a : VOp) (b c : VSrc) :
    M Unit := do
  let k ← rctx rm
  mapThree hd t d a b c fun i x y z => float3 f t (k i) x y z

/-- a with sign 0; a NaN gives the canonical NaN (08 R360). -/
def absElem (t : Ty) (x : Nat) : Nat := if Ty.decode t x = .nan then canonNan t else x % 2 ^ (Ty.bits t - 1)

/-- a with its sign inverted; a NaN gives the canonical NaN (08 R360). -/
def negElem (t : Ty) (x : Nat) : Nat :=
  if Ty.decode t x = .nan then canonNan t
  else if bitOf x (Ty.bits t - 1) then x % 2 ^ (Ty.bits t - 1) else x + 2 ^ (Ty.bits t - 1)

/-- The value of an integer element under its type's signedness. -/
def intVal (t : Ty) (x : Nat) : Int :=
  match Ty.int? t with
  | some (w, true) => signedOf w x
  | _ => (x : Int)

/-- Is an integer type signed? -/
def isSigned (t : Ty) : Bool :=
  match Ty.int? t with
  | some (_, s) => s
  | none => false

/-- An exact integer wrapped to a type's width. -/
def wrapTy (t : Ty) (z : Int) : Nat := wrapTo (Ty.bits t) z

/-- An exact integer clamped to a type's range (08 R364). -/
def clampTy (t : Ty) (z : Int) : Nat :=
  let w := Ty.bits t
  let lo : Int := if isSigned t then -((2 ^ (w - 1) : Nat) : Int) else 0
  let hi : Int := if isSigned t then ((2 ^ (w - 1) : Nat) : Int) - 1 else ((2 ^ w : Nat) : Int) - 1
  wrapTy t (if z < lo then lo else if hi < z then hi else z)

/-- VIADD and VISUB: wrapped, or under SAT clamped (08 R364). -/
def addSat (sat : Bool) (t : Ty) (z : Int) : Nat := if sat then clampTy t z else wrapTy t z

/-- High half of the double-width product (08 R364). -/
def mulHigh (t : Ty) (x y : Nat) : Nat := wrapTy t (intVal t x * intVal t y / ((2 ^ Ty.bits t : Nat) : Int))

/-- The lesser or the greater by the type's signedness (08 R364). -/
def intPick (isMax : Bool) (t : Ty) (x y : Nat) : Nat :=
  if isMax then (if intVal t x < intVal t y then y else x) else (if intVal t y < intVal t x then y else x)

/-- Shift count: the low log2(w) bits (08 R364). -/
def shiftCount (t : Ty) (y : Nat) : Nat := y % Ty.bits t

/-- Left shift (08 R364). -/
def shlElem (t : Ty) (x y : Nat) : Nat := x * 2 ^ shiftCount t y % 2 ^ Ty.bits t

/-- Logical right shift (08 R364). -/
def shrElem (t : Ty) (x y : Nat) : Nat := x / 2 ^ shiftCount t y

/-- Arithmetic right shift, whatever the type's signedness (08 R364). -/
def sraElem (t : Ty) (x y : Nat) : Nat :=
  wrapTy t (signedOf (Ty.bits t) x / ((2 ^ shiftCount t y : Nat) : Int))

/-- VCLIP (08 R364). -/
def clipElem (t : Ty) (x y z : Nat) : Nat := intPick false t (intPick true t x y) z

/-! Meanings. -/

/-- VADD: round(a + b) (08 R360). -/
def execVadd (h : Hdr) (t : Ty) (rm : Rnd) (d a : VOp) (b : VSrc) (s : State) : Host.Outcome State Fault Refusal :=
  runVec (.vadd h t rm d a b) h (bodyFloat2 (fun m a b => FVal.add m a b) h t rm d a b) s

/-- VSUB: round(a - b) (08 R360). -/
def execVsub (h : Hdr) (t : Ty) (rm : Rnd) (d a : VOp) (b : VSrc) (s : State) : Host.Outcome State Fault Refusal :=
  runVec (.vsub h t rm d a b) h (bodyFloat2 (fun m a b => FVal.add m a b.neg) h t rm d a b) s

/-- VMUL: round(a × b) (08 R360). -/
def execVmul (h : Hdr) (t : Ty) (rm : Rnd) (d a : VOp) (b : VSrc) (s : State) : Host.Outcome State Fault Refusal :=
  runVec (.vmul h t rm d a b) h (bodyFloat2 (fun _ a b => a.mul b) h t rm d a b) s

/-- VDIV: round(a / b) (08 R360). -/
def execVdiv (h : Hdr) (t : Ty) (rm : Rnd) (d a : VOp) (b : VSrc) (s : State) : Host.Outcome State Fault Refusal :=
  runVec (.vdiv h t rm d a b) h (bodyFloat2 (fun _ a b => a.div b) h t rm d a b) s

/-- VFMA: round(a × b + c) (08 R360). -/
def execVfma (h : Hdr) (t : Ty) (rm : Rnd) (d a : VOp) (b c : VSrc) (s : State) :
    Host.Outcome State Fault Refusal :=
  runVec (.vfma h t rm d a b c) h (bodyFloat3 (fun m a b c => FVal.fma m a b c) h t rm d a b c) s

/-- VFMS: round(a × b - c) (08 R360). -/
def execVfms (h : Hdr) (t : Ty) (rm : Rnd) (d a : VOp) (b c : VSrc) (s : State) :
    Host.Outcome State Fault Refusal :=
  runVec (.vfms h t rm d a b c) h (bodyFloat3 (fun m a b c => FVal.fma m a b c.neg) h t rm d a b c) s

/-- VFNMA: round(-(a × b) + c) (08 R360). -/
def execVfnma (h : Hdr) (t : Ty) (rm : Rnd) (d a : VOp) (b c : VSrc) (s : State) :
    Host.Outcome State Fault Refusal :=
  runVec (.vfnma h t rm d a b c) h (bodyFloat3 (fun m a b c => FVal.fma m a.neg b c) h t rm d a b c) s

/-- VSQRT: round(√a) (08 R360). -/
def execVsqrt (h : Hdr) (t : Ty) (rm : Rnd) (d a : VOp) (s : State) : Host.Outcome State Fault Refusal :=
  runVec (.vsqrt h t rm d a) h (bodyFloat1 FVal.sqrt h t rm d a) s

/-- VRCP: round(1 / a) (08 R367). -/
def execVrcp (h : Hdr) (t : Ty) (rm : Rnd) (d a : VOp) (s : State) : Host.Outcome State Fault Refusal :=
  runVec (.vrcp h t rm d a) h (bodyFloat1 FVal.rcp h t rm d a) s

/-- VRSQ: round(1 / √a) (08 R367). -/
def execVrsq (h : Hdr) (t : Ty) (rm : Rnd) (d a : VOp) (s : State) : Host.Outcome State Fault Refusal :=
  runVec (.vrsq h t rm d a) h (bodyFloat1 FVal.rsq h t rm d a) s

/-- VEXP2: round(2^a) (08 R367). -/
noncomputable def execVexp2 (h : Hdr) (t : Ty) (rm : Rnd) (d a : VOp) (s : State) : Host.Outcome State Fault Refusal :=
  runVec (.vexp2 h t rm d a) h (bodyFloat1 FVal.exp2 h t rm d a) s

/-- VLOG2: round(log2 a) (08 R367). -/
noncomputable def execVlog2 (h : Hdr) (t : Ty) (rm : Rnd) (d a : VOp) (s : State) : Host.Outcome State Fault Refusal :=
  runVec (.vlog2 h t rm d a) h (bodyFloat1 FVal.log2 h t rm d a) s

/-- VTANH: round(tanh a) (08 R367). -/
noncomputable def execVtanh (h : Hdr) (t : Ty) (rm : Rnd) (d a : VOp) (s : State) : Host.Outcome State Fault Refusal :=
  runVec (.vtanh h t rm d a) h (bodyFloat1 FVal.tanh h t rm d a) s

/-- VMIN: minimumNumber (08 R360). -/
def execVmin (h : Hdr) (t : Ty) (d a : VOp) (b : VSrc) (s : State) : Host.Outcome State Fault Refusal :=
  runVec (.vmin h t d a b) h (mapTwo h t d a b fun _ x y => minMax false t x y) s

/-- VMAX: maximumNumber (08 R360). -/
def execVmax (h : Hdr) (t : Ty) (d a : VOp) (b : VSrc) (s : State) : Host.Outcome State Fault Refusal :=
  runVec (.vmax h t d a b) h (mapTwo h t d a b fun _ x y => minMax true t x y) s

/-- VABS (08 R360). -/
def execVabs (h : Hdr) (t : Ty) (d a : VOp) (s : State) : Host.Outcome State Fault Refusal :=
  runVec (.vabs h t d a) h (mapOne h t d a fun _ x => absElem t x) s

/-- VNEG (08 R360). -/
def execVneg (h : Hdr) (t : Ty) (d a : VOp) (s : State) : Host.Outcome State Fault Refusal :=
  runVec (.vneg h t d a) h (mapOne h t d a fun _ x => negElem t x) s

/-- VCLASS (08 R362). -/
def execVclass (h : Hdr) (t : Ty) (d a : VOp) (s : State) : Host.Outcome State Fault Refusal :=
  runVec (.vclass h t d a) h (mapOne h t d a fun _ x => classBit t x) s

/-- Write a mask under guard and vstart (08 R341). -/
def writeMask (hd : Hdr) (d : Fin 8) (f : Nat → Bool) : M Unit :=
  modHart fun h => h.setK d.val (maskWrite (h.getK d.val) h.tileN ((h.actives hd).map fun i => (i, f i)))

/-- VCMP (08 R361). -/
def execVcmp (h : Hdr) (c : VCond) (t : Ty) (d : Fin 8) (a : VOp) (b : VSrc) (s : State) :
    Host.Outcome State Fault Refusal :=
  runVec (.vcmp h c t d a b) h (do
    let x ← readTile t a
    let y ← readSrc t b
    writeMask h d fun i => VCond.holds c t (x i) (y i)) s

/-- TWOSUM: s to v[D] and e to v[E] (08 R363). -/
def execTwosum (h : Hdr) (t : Ty) (rm : Rnd) (d e a : VOp) (b : VSrc) (s : State) :
    Host.Outcome State Fault Refusal :=
  runVec (.twosum h t rm d e a b) h (do
    let x ← readTile t a
    let y ← readSrc t b
    let ovft := (← curHart).ovft.toNat
    mapElems h t d fun i => (twosum t ovft (x i) (y i)).1
    mapElems h t e fun i => (twosum t ovft (x i) (y i)).2) s

/-- VIADD (08 R364). -/
def execViadd (h : Hdr) (sat : Bool) (t : Ty) (d a : VOp) (b : VSrc) (s : State) :
    Host.Outcome State Fault Refusal :=
  runVec (.viadd h sat t d a b) h (mapTwo h t d a b fun _ x y => addSat sat t (intVal t x + intVal t y)) s

/-- VISUB (08 R364). -/
def execVisub (h : Hdr) (sat : Bool) (t : Ty) (d a : VOp) (b : VSrc) (s : State) :
    Host.Outcome State Fault Refusal :=
  runVec (.visub h sat t d a b) h (mapTwo h t d a b fun _ x y => addSat sat t (intVal t x - intVal t y)) s

/-- VIMUL (08 R364). -/
def execVimul (h : Hdr) (t : Ty) (d a : VOp) (b : VSrc) (s : State) : Host.Outcome State Fault Refusal :=
  runVec (.vimul h t d a b) h (mapTwo h t d a b fun _ x y => x * y % 2 ^ Ty.bits t) s

/-- VIMULH (08 R364). -/
def execVimulh (h : Hdr) (t : Ty) (d a : VOp) (b : VSrc) (s : State) : Host.Outcome State Fault Refusal :=
  runVec (.vimulh h t d a b) h (mapTwo h t d a b fun _ x y => mulHigh t x y) s

/-- VIMAD (08 R364). -/
def execVimad (h : Hdr) (t : Ty) (d a : VOp) (b c : VSrc) (s : State) : Host.Outcome State Fault Refusal :=
  runVec (.vimad h t d a b c) h (mapThree h t d a b c fun _ x y z => (x * y + z) % 2 ^ Ty.bits t) s

/-- VIMIN (08 R364). -/
def execVimin (h : Hdr) (t : Ty) (d a : VOp) (b : VSrc) (s : State) : Host.Outcome State Fault Refusal :=
  runVec (.vimin h t d a b) h (mapTwo h t d a b fun _ x y => intPick false t x y) s

/-- VIMAX (08 R364). -/
def execVimax (h : Hdr) (t : Ty) (d a : VOp) (b : VSrc) (s : State) : Host.Outcome State Fault Refusal :=
  runVec (.vimax h t d a b) h (mapTwo h t d a b fun _ x y => intPick true t x y) s

/-- VAND (08 R364). -/
def execVand (h : Hdr) (t : Ty) (d a : VOp) (b : VSrc) (s : State) : Host.Outcome State Fault Refusal :=
  runVec (.vand h t d a b) h (mapTwo h t d a b fun _ x y => x &&& y) s

/-- VOR (08 R364). -/
def execVor (h : Hdr) (t : Ty) (d a : VOp) (b : VSrc) (s : State) : Host.Outcome State Fault Refusal :=
  runVec (.vor h t d a b) h (mapTwo h t d a b fun _ x y => x ||| y) s

/-- VXOR (08 R364). -/
def execVxor (h : Hdr) (t : Ty) (d a : VOp) (b : VSrc) (s : State) : Host.Outcome State Fault Refusal :=
  runVec (.vxor h t d a b) h (mapTwo h t d a b fun _ x y => x ^^^ y) s

/-- VSHL (08 R364). -/
def execVshl (h : Hdr) (t : Ty) (d a : VOp) (b : VSrc) (s : State) : Host.Outcome State Fault Refusal :=
  runVec (.vshl h t d a b) h (mapTwo h t d a b fun _ x y => shlElem t x y) s

/-- VSHR (08 R364). -/
def execVshr (h : Hdr) (t : Ty) (d a : VOp) (b : VSrc) (s : State) : Host.Outcome State Fault Refusal :=
  runVec (.vshr h t d a b) h (mapTwo h t d a b fun _ x y => shrElem t x y) s

/-- VSRA (08 R364). -/
def execVsra (h : Hdr) (t : Ty) (d a : VOp) (b : VSrc) (s : State) : Host.Outcome State Fault Refusal :=
  runVec (.vsra h t d a b) h (mapTwo h t d a b fun _ x y => sraElem t x y) s

/-- VCLIP: min(max(a, b), c) (08 R364). -/
def execVclip (h : Hdr) (t : Ty) (d a : VOp) (b c : VSrc) (s : State) : Host.Outcome State Fault Refusal :=
  runVec (.vclip h t d a b c) h (mapThree h t d a b c fun _ x y z => clipElem t x y z) s

/-- VMOV: bit for bit (08 R365). -/
def execVmov (h : Hdr) (t : Ty) (d a : VOp) (s : State) : Host.Outcome State Fault Refusal :=
  runVec (.vmov h t d a) h (mapOne h t d a fun _ x => x) s

/-- VBCAST: the low bits of x[A] (08 R365). -/
def execVbcast (h : Hdr) (t : Ty) (d : VOp) (a : XOp) (s : State) : Host.Outcome State Fault Refusal :=
  runVec (.vbcast h t d a) h (do
    let y ← readSrc t (.x a)
    mapElems h t d y) s

/-- VIOTA: the element's index, or with ROW its column (08 R365). -/
def execViota (h : Hdr) (row : Bool) (t : Ty) (d : VOp) (s : State) : Host.Outcome State Fault Refusal :=
  runVec (.viota h row t d) h (do
    let vl := (← curHart).vl.toNat
    mapElems h t d fun i => (if row then i % vl else i) % 2 ^ Ty.bits t) s

/-- VSEL: a where bit i of k[C] is 1, else b (08 R365). -/
def execVsel (h : Hdr) (t : Ty) (d a : VOp) (b : VSrc) (c : Fin 8) (s : State) : Host.Outcome State Fault Refusal :=
  runVec (.vsel h t d a b c) h (do
    let k := (← curHart).getK c.val
    mapTwo h t d a b fun i x y => if k.getLsbD i then x else y) s

/-- VLDI's element: the immediate sign-extended for an integer type, else its low bits as an encoding (08 R366). -/
def ldiElem (t : Ty) (imm : BitVec 48) : Nat := if Ty.isInt t then wrapTy t imm.toInt else imm.toNat % 2 ^ Ty.width t

/-- VLDI (08 R366). -/
def execVldi (h : Hdr) (t : Ty) (d : VOp) (imm : BitVec 48) (s : State) : Host.Outcome State Fault Refusal :=
  runVec (.vldi h t d imm) h (mapElems h t d fun _ => ldiElem t imm) s

/-- VCVT: round of the exact source value into T (08 R369, 03 R127). -/
def execVcvt (h : Hdr) (t u : Ty) (rm : Rnd) (d a : VOp) (s : State) : Host.Outcome State Fault Refusal :=
  runVec (.vcvt h t u rm d a) h (do
    let c ← rctx rm
    let x ← readTile u a
    mapElems h t d fun i => roundTo t (c i) (Ty.isInt u) (Ty.decode u (x i))) s

/-- The blocks of 32 elements of a tile of n: first element and length (03 R138). -/
def blocksOf (n : Nat) : List (Nat × Nat) := (List.range ((n + 31) / 32)).map fun b => (32 * b, min 32 (n - 32 * b))

/-- VQBLK: quantised blocks to v[D], their scale bytes to v[C]; guard absent, vstart ignored (08 R368, R370). -/
def execVqblk (h : Hdr) (t u : Ty) (rm : Rnd) (off : BitVec 7) (d c a : VOp) (s : State) :
    Host.Outcome State Fault Refusal :=
  runVec (.vqblk h t u rm off d c a) h (do
    let k ← rctx rm
    let x ← readTile u a
    let n := (← curHart).tileN
    let mode := (k 0).mode
    let blocks := (blocksOf n).map fun (lo, len) =>
      quantBlock t mode (fun i => (k (lo + i)).u) ((List.range len).map fun i => Ty.decode u (x (lo + i)))
    let m ← oldV c
    let at_ := 32 * off.toNat
    writeV c (m.setBytes at_ (blocks.map fun b => BitVec.ofNat 8 b.1)) 4096 (some (at_ + blocks.length - 1))
    writeElems d t n ((blocks.flatMap fun b => b.2).zipIdx.map fun (v, i) => (i, v))) s

/-- x × 2^(s - 127), or for an i8 source x × 2^(s - 133) (08 R371). -/
def descale (u : Ty) (sc x : Nat) : FVal :=
  if sc = 255 then .nan
  else match Ty.decode u x with
    | .nan => .nan
    | .inf n => .inf n
    | .fin n m e st => .fin n m (e + ((sc : Int) - (if u = .i8 then 133 else 127))) st

/-- VDQBLK (08 R371). -/
def execVdqblk (h : Hdr) (t u : Ty) (rm : Rnd) (off : BitVec 7) (d a c : VOp) (s : State) :
    Host.Outcome State Fault Refusal :=
  runVec (.vdqblk h t u rm off d a c) h (do
    let k ← rctx rm
    let x ← readTile u a
    let sc ← readV c
    mapElems h t d fun i =>
      roundTo t (k i) false (descale u (sc.get (32 * off.toNat + i / 32)).toNat (x i))) s

/-- VPLANE: the tile as bp8 groups, zero beyond N; guard absent, vstart ignored (08 R368, R372). -/
def execVplane (h : Hdr) (d a : VOp) (s : State) : Host.Outcome State Fault Refusal :=
  runVec (.vplane h d a) h (do
    let x ← readTile .i8 a
    let n := (← curHart).tileN
    let len := Ty.bytesFor .bp8 n
    let old ← oldV d
    let m := (List.range len).foldl (fun m i => setElem .bp8 m i (if i < n then x i else 0)) old
    writeV d m len (some (len - 1))) s

/-- VUNPLANE: the first p planes of each value; guard absent, vstart ignored (08 R368, R372). -/
def execVunplane (h : Hdr) (p : BitVec 4) (d a : VOp) (s : State) : Host.Outcome State Fault Refusal :=
  runVec (.vunplane h p d a) h (do
    let x ← readTile .bp8 a
    let n := (← curHart).tileN
    writeElems d .i8 n ((List.range n).map fun i => (i, wrapTo 8 (planeValue (BitVec.ofNat 8 (x i)) p.toNat)))) s

/-- VRAND (08 R373). -/
def execVrand (h : Hdr) (t : Ty) (d : VOp) (s : State) : Host.Outcome State Fault Refusal :=
  runVec (.vrand h t d) h (do
    let n := (← curStream).icount
    let key := (← curHart).srseed
    mapElems h t d fun i =>
      let z := (rnd32 key (elemCtr n i)).toNat
      if t = .f32 then roundTo .f32 ⟨.rne, 0, 0⟩ false (.fin false (z / 256) (-24) false) else z) s

end Sys2Proof.Machine
end

