-- ==== Sys2Proof/Machine/VecMem.lean ====
section
/-! DEFINITION. Major 0x50: vector loads, gathers, ordered and unordered stores, scatter-adds, VFENCE and PREF
(07 R297..R311). -/

namespace Sys2Proof.Machine

open Sys2Proof

/-- The outcome of an action as a value: its state stands either way. -/
def attempt {α : Type} (x : M α) : M (Except Exc α) := fun s =>
  match x s with
  | .ok a s' => .ok (.ok a) s'
  | .error e s' => .ok (.error e) s'

/-- The elements of a vector memory access: their count, type and size in memory, and the lane of each. Forms of e2m1
and bp8 move raw bytes (07 R299, R300). -/
structure VecShape where
  n : Nat
  ty : Ty
  size : Nat
  raw : Bool
  deriving DecidableEq, Repr

/-- The shape of an access of type t (07 R299, R300). -/
def vecShape (h : Hart) (t : Ty) : VecShape :=
  if t = .e2m1 ∨ t = .bp8 then ⟨Ty.bytesFor t h.tileN, .n8, 1, true⟩ else ⟨h.tileN, t, Ty.size t, false⟩

/-- The physical lane of an element (07 R300, R301). -/
def VecShape.lane (sh : VecShape) (h : Hart) (i : Nat) : Nat :=
  if sh.raw then h.laneOf (i / 64) else h.laneOf (h.groupOf (Ty.width sh.ty) i)

/-- Active elements of an access from element `lo` on. -/
def VecShape.actives (sh : VecShape) (h : Hart) (hd : Hdr) (lo : Nat) : List Nat :=
  if sh.raw then (List.range sh.n).filter fun i => h.vstart.toNat ≤ i && lo ≤ i
  else (h.actives hd).filter fun i => lo ≤ i

/-- The context of an element's access: its lane's micro-TLB stands before its core's TLB (06 R253). -/
def VecShape.ctx (sh : VecShape) (c : Ctx) (h : Hart) (i : Nat) : Ctx :=
  { c with elem := i, tlbs := .lane c.core (sh.lane h i) :: c.tlbs }

/-- Element i's exception as the vector instruction's: a trap names the element and its lane. -/
def atElem (sh : VecShape) (h : Hart) (i : Nat) : Exc → Exc
  | .trap cause tval => .vtrap cause tval i (sh.lane h i)
  | e => e

/-- Steps 1 to 3 of an element access: address form and permissions, window limits, alignment (07 R303). A page that
cannot be found is left to step 4. -/
def elemCheck (c : Ctx) (va n : Nat) (k : AKind) : M Unit := do
  match addrKind c.core va with
  | .bad => trap causeProt (BitVec.ofNat 64 va)
  | .scratch core off => do
    let _ ← scratchAt c va core off n
  | .tile array _ => do
    let _ ← tileAt c va array
  | .global =>
    let s ← get
    if ((s.leafOf c va).map fun l => l.allows c.user k) = some false then trap causeProt (BitVec.ofNat 64 va) else pure ()
  if va % n ≠ 0 then trap causeAlign (BitVec.ofNat 64 va) else pure ()

/-- Load one element. -/
def loadElem (c : Ctx) (va n : Nat) : M Nat := do
  elemCheck c va n .load
  hartLoad c va n

/-- Load elements in ascending order until one meets an exception: the elements read, and the exception. -/
def loadElems (c : Ctx) (sh : VecShape) (h : Hart) (addr : Nat → Nat) :
    List Nat → List (Nat × Nat) → M (List (Nat × Nat) × Option (Nat × Exc))
  | [], acc => pure (acc.reverse, none)
  | i :: r, acc => do
    match ← attempt (loadElem (sh.ctx c h i) (addr i) sh.size) with
    | .ok v => loadElems c sh h addr r ((i, v) :: acc)
    | .error e => pure (acc.reverse, some (i, atElem sh h i e))

/-- Load elements into a destination: a trap leaves the elements below it in place, a wait leaves nothing
(07 R301, 08 R346, 06 R259). -/
def loadInto (c : Ctx) (sh : VecShape) (h : Hart) (d : VOp) (addr : Nat → Nat) (is : List Nat) : M Unit := do
  let (vals, bad) ← loadElems c sh h addr is []
  match bad with
  | none => writeElems d sh.ty sh.n vals
  | some (_, .vtrap cause tval i lane) =>
    writeElems d sh.ty sh.n vals
    throw (.vtrap cause tval i lane)
  | some (_, .etrap cause tval e) => throw (.etrap cause tval e)
  | some (_, e) => throw e

/-- Issue a vector memory instruction: what it reads of earlier ones has been written when its accesses are made (08 R344,
R345). -/
def runAccess (i : Instr) (hd : Hdr) (body : M Unit) (s : State) : Host.Outcome State Fault Refusal :=
  runVec i hd (do
    awaitInputs i
    body) s

/-- A contiguous or strided load (07 R301). -/
def bodyLoad (hd : Hdr) (t : Ty) (d : VOp) (tag : Word) (addr : Nat → Nat) : M Unit := do
  let h ← curHart
  let sh := vecShape h t
  loadInto (← hartCtx hd.ch tag) sh h d addr (sh.actives h hd 0)

/-- The addresses of the strided forms (07 R297). -/
def stridedAddr (m : MemOp) : M (Nat → Nat) := do
  let a ← readX m.base
  let b ← readX m.idx
  pure fun i => (a + m.disp.signExtend 64 + BitVec.ofNat 64 i * (b <<< m.scl.val)).toNat

/-- The addresses of the contiguous forms (07 R297). -/
def flatAddr (m : MemOp) (size : Nat) : M (Nat → Nat) := do
  let ea ← readEA m
  pure fun i => (ea + i * size) % 2 ^ 64

/-- The addresses of the indexed forms (07 R297, R298). -/
def indexedAddr (ix : Bool) (a : XOp) (b : VOp) (scl : Fin 4) (disp : BitVec 32) : M (Nat → Nat) := do
  let base ← readX a
  let idx ← readTile (if ix then .i64 else .i32) b
  pure fun i =>
    let k : Word := if ix then BitVec.ofNat 64 (idx i) else (BitVec.ofNat 32 (idx i)).signExtend 64
    (base + disp.signExtend 64 + k <<< scl.val).toNat

/-- VLD (07 R297, R300, R301). -/
def execVld (h : Hdr) (t : Ty) (d : VOp) (m : MemOp) (s : State) : Host.Outcome State Fault Refusal :=
  runAccess (.vld h t d m) h (do
    let addr ← flatAddr m (vecShape (← curHart) t).size
    bodyLoad h t d (← curTag) addr) s

/-- VLDS (07 R297, R301). -/
def execVlds (h : Hdr) (t : Ty) (d : VOp) (m : MemOp) (s : State) : Host.Outcome State Fault Refusal :=
  runAccess (.vlds h t d m) h (do
    let addr ← stridedAddr m
    bodyLoad h t d (← curTag) addr) s

/-- Insert a number into an ascending list without repeats, over a list. -/
def distinctSorted (l : List Nat) : List Nat := l.foldl (fun acc a => insertNat a acc) []

/-- What translating one element of a gather finds: an exception to raise there, or nothing. -/
def gatherProbe (c : Ctx) (va n : Nat) : M (Option Exc) := do
  match ← attempt (do
    elemCheck c va n .load
    checkWatch va n .load
    match addrKind c.core va with
    | .global => do
      let _ ← translate c va .load
    | _ => pure ()) with
  | .ok _ => pure none
  | .error e => pure (some e)

/-- Probe every active element of a gather (06 R262). -/
def gatherProbes (c : Ctx) (sh : VecShape) (h : Hart) (addr : Nat → Nat) : List Nat → M (List (Nat × Exc))
  | [] => pure []
  | i :: r => do
    let p ← gatherProbe (sh.ctx c h i) (addr i) sh.size
    let rest ← gatherProbes c sh h addr r
    pure (match p with
      | some e => (i, e) :: rest
      | none => rest)

/-- Is the exception a missing translation? -/
def Exc.missing : Exc → Bool
  | .tfault _ _ _ _ => true
  | _ => false

/-- A gather first translates every active element; missing pages give one record, of which it waits; otherwise the
elements below the lowest that traps are read (06 R262, R263). -/
def bodyGather (hd : Hdr) (t : Ty) (d : VOp) (addr : Nat → Nat) : M Unit := do
  let h ← curHart
  let sh := vecShape h t
  let c ← hartCtx hd.ch (← curTag)
  let is := sh.actives h hd 0
  let bad ← gatherProbes c sh h addr is
  match bad with
  | [] => loadInto c sh h d addr is
  | (k, e) :: _ =>
    if e.missing then
      let lost := bad.filter fun x => x.2.missing
      let pages := distinctSorted (lost.map fun x => addr x.1 / 65536)
      let mask := lost.foldl (fun m x => Mask.put m x.1 true) 0
      let entryBad := match e with
        | .tfault _ b _ _ => b
        | _ => false
      let s ← get
      let (s, num) := s.raiseFault { c with elem := k } (if entryBad then 5 else 3) .load (addr k) mask (pages.take 12)
        (decide (12 < pages.length))
      set (s.setStream s.cur { s.stream s.cur with faultWait := some num })
      waitHere
    else
      loadInto c sh h d addr (is.filter fun i => i < k)
      throw (atElem sh h k e)

/-- VLDX (07 R297, R301). -/
def execVldx (h : Hdr) (t : Ty) (ix : Bool) (d : VOp) (a : XOp) (b : VOp) (scl : Fin 4) (disp : BitVec 32) (s : State) :
    Host.Outcome State Fault Refusal :=
  runAccess (.vldx h t ix d a b scl disp) h (do
    let addr ← indexedAddr ix a b scl disp
    bodyGather h t d addr) s

/-! Stores. -/

/-- Stable insertion by key. -/
def insertBy {α : Type} (key : α → Nat) (i : α) : List α → List α
  | [] => [i]
  | j :: r => if key i < key j then i :: j :: r else j :: insertBy key i r

/-- Cut a list into parts of at most n, for `fuel` parts. -/
def chunksOf {α : Type} (n : Nat) : Nat → List α → List (List α)
  | 0, _ => []
  | fuel + 1, l => if l.isEmpty then [] else l.take n :: chunksOf n fuel (l.drop n)

/-- Send the trains of a store: one for each destination package, of at most 4,096 elements each, in ascending index
(07 R305). -/
def sendTrains (add : Bool) (t : Ty) (l : List RemoteElem) : M Unit :=
  let l := l.foldl (fun l e => insertBy (fun e : RemoteElem => e.elem) e l) []
  forM' (l.map (·.rpkg)).dedup fun p =>
    forM' (chunksOf 4096 (l.length + 1) (l.filter fun e => e.rpkg == p)) fun part =>
      sendTrain p add t (part.map fun e => (e.elem, e.va, e.pa, e.size, e.data))

/-- The sum of a scatter-add: integer types modulo 2^width, floating types with round-to-nearest-even (07 R302). -/
def addValue (t : Ty) (ovft : Nat) (x y : Nat) : Nat :=
  match Ty.int? t with
  | some (w, _) => (x + y) % 2 ^ w
  | none => roundTo t ⟨.rne, ovft, 0⟩ false (FVal.add .rne (Ty.decode t x) (Ty.decode t y))

/-- A scatter-add performs at a device address at home; the sector's poison stays (06 R285, 07 R302). -/
def State.addHome (s : State) (quad : Option Nat) (serial : Word) (va pa : Nat) (t : Ty) (ovft data : Nat) : State :=
  let n := Ty.size t
  let v := addValue t ovft (s.mem.homeRead pa n) data
  s.homeThrough quad serial va pa (byteMask (pa % 64) n) (Line.write 0 (pa % 64) n v)

/-- Logical core of a hart for the order of a round (07 R309). -/
def LaunchRec.logicalCore (r : LaunchRec) (h : Nat) : Nat :=
  match (List.range 8).find? fun lev => (r.level lev).dom == 2 with
  | some lev => r.groupOf h lev
  | none => h

/-- Hold a scatter-add of a DET launch as a round entry; it needs a free pool cell (07 R308, 10 R420). -/
def holdAdd (c : Ctx) (l : Launch) (va pa : Nat) (rpkg : Option Nat) (t : Ty) (data : Nat) : M Unit := do
  let serial ← takeSerial
  let s ← get
  if s.poolCap c.serial ≤ s.poolUsed c.serial then throw (.pool va c.elem)
  else
    let slot := s.cur.slot
    let h := s.hart slot
    set (s.setMem { s.mem with
      rounds := s.mem.rounds ++ [{
        serial := c.serial, hartIndex := h.index, logCore := l.info.logicalCore h.index
        isX := s.cur.isX, round := h.drains + 1, order := serial, elem := c.elem, va, pa, rpkg, ty := t
        data := BitVec.ofNat 64 data, tag := c.tag, ovft := h.ovft }] })

/-- A scatter-add of one element where its page is found: at the scratchpad's or the buffer's bank, held for its round
under DET, at the cell, at the home bank; another package's is left to the caller (07 R302, R305, R308). -/
def addRaw (c : Ctx) (va : Nat) (t : Ty) (data : Nat) : M (Option (Nat × Nat)) := do
  let n := Ty.size t
  let ovft := (← curHart).ovft.toNat
  match addrKind c.core va with
  | .bad => trap causeProt (BitVec.ofNat 64 va)
  | .scratch core off =>
    let x ← scratchAt c va core off n
    modify fun s => s.scratchStore core c.serial off (leBytes n (addValue t ovft (x.data.read off n) data))
    pure none
  | .tile array off =>
    let a ← tileAt c va array
    modify fun s => s.tileStore array off (leBytes n (addValue t ovft (a.tile.read off n) data))
    pure none
  | .global =>
    let l ← translate c va .atom
    budgetGate c l va
    let pa := l.phys va
    let det := (← curLaunch?).filter fun k => k.info.det
    if l.mt = 1 then trap causeProt (BitVec.ofNat 64 va)
    else if let some k := det then
      let _ ← tagged c l
      holdAdd c k va pa (if l.mt = 2 then some l.rpkg else none) t data
      pure none
    else if l.mt = 2 then pure (some (l.rpkg, pa))
    else if (← tagged c l) then
      let k ← materialise c l va
      modify fun s => (s.putCell (k.store (byteMask (pa % 64) n)
        (Line.write 0 (pa % 64) n (addValue t ovft (Line.read k.data (pa % 64) n) data)))).wakeLine (pa / 64)
      pure none
    else
      drainGate c.core (((← get).core c.core).wcbThrough fun e => e.line == pa / 64)
      replayAtom c.asid (pa / 64)
      modify fun s => (s.addHome (some c.quad) c.serial va pa t ovft data).dropNear c.core (pa / 64)
      pure none

/-- A hart's scatter-add of one element: behind logged bytes, or where it meets a translation or pool fault, it enters
the side log (06 R265, 10 R420). -/
def hartAdd (c : Ctx) (va : Nat) (t : Ty) (data : Nat) (serial : Nat) (force : Bool) :
    M (Option (Nat × Nat) × Bool) := do
  let n := Ty.size t
  checkWatch va n .store
  let log := fun (fault : Option Nat) => do
    logStore c va (leBytes n data) (some t) fault serial
    pure ((none : Option (Nat × Nat)), true)
  let r ← if force || (← curHart).logged c.asid va n then logUnderFault c va .atom serial log
    else match ← attempt (addRaw c va t data) with
    | .ok r => pure (r, false)
    | .error (.tfault a bad _ _) => do log (← loggedFault c a (faultKind c .store bad) serial)
    | .error (.pool a _) => do log (← loggedFault c a 7 serial)
    | .error e => throw e
  noteReq c.elem va .atom
  pure r

/-- How a store's elements perform. -/
inductive StoreKind
  /-- VST: ordered, and a group's elements in a line are one request (07 R294) -/
  | contiguous
  /-- VSTS, VSTX: once an element is logged every later one is (06 R265) -/
  | ordered
  | unordered
  | add
  deriving DecidableEq, Repr

/-- One element of a store: whether it entered the log, and the element if it goes to another package. -/
def storeElem (k : StoreKind) (c : Ctx) (sh : VecShape) (va data serial : Nat) (force : Bool) :
    M (Bool × Option RemoteElem) := do
  let remote := fun (r : Option (Nat × Nat)) => r.map fun (rpkg, pa) =>
    (⟨c.elem, va, pa, sh.size, data, rpkg⟩ : RemoteElem)
  elemCheck c va sh.size (if k = .add then .atom else .store)
  let (r, logged) ← match k with
    | .add => do
      let r ← hartAdd c va sh.ty data serial force
      let _ ← meetArea c va sh.size
      pure r
    | _ => hartStoreMarked c va (leBytes sh.size data) serial force
  pure (logged, remote r)

/-- The order key of an element of VSTU: a free value of the instruction (07 R304). -/
def orderKey (s : State) (serial i : Nat) : Nat :=
  let h := s.hart s.cur.slot
  (Config.freeOrder h.serial.toNat (s.cur.slot + 4096 * serial) i).toNat

/-- Does storing an element trap, judged without effect? -/
def storeTraps (k : StoreKind) (c : Ctx) (sh : VecShape) (va data serial : Nat) : M Bool := do
  let s ← get
  match storeElem k c sh va data serial false s with
  | .error (.trap _ _) _ => pure true
  | _ => pure false

/-- The elements that a store performs, in order: ascending; for VSTU outside DET in any order, those below the lowest
that traps and any of those above it, then that one (07 R304, 01 R49). -/
def storeOrder (k : StoreKind) (c : Ctx) (sh : VecShape) (addr data : Nat → Nat) (serial : Nat) (is : List Nat) :
    M (List Nat) := do
  let s ← get
  let det := match s.launch? c.serial with
    | some l => l.info.det
    | none => false
  if k != .unordered || det then pure is
  else
    let bad ← is.filterM fun i => storeTraps k { c with elem := i } sh (addr i) (data i) serial
    let sorted := is.foldl (fun l i => insertBy (orderKey s serial) i l) []
    match bad with
    | [] => pure sorted
    | b :: _ => pure ((sorted.filter fun i => i < b || (!bad.contains i && orderKey s serial i % 2 == 1)) ++ [b])

/-- The element group that holds element i of an access (07 R293, R299). -/
def VecShape.group (sh : VecShape) (h : Hart) (i : Nat) : Nat :=
  if sh.raw then i / 64 else h.groupOf (Ty.width sh.ty) i

/-- The lines (address divided by 64) that one element group's elements among `is`, stored at rising addresses, fill,
of those in which an element of `fresh` stands: each is one request of its lane (07 R294). -/
def wholeLines (sh : VecShape) (h : Hart) (addr : Nat → Nat) (is fresh : List Nat) : List Nat :=
  (fresh.map fun i => addr i / 64).dedup.filter fun l =>
    let mem := is.filter fun i => addr i / 64 == l
    decide ((mem.length) * sh.size = 64) && decide ((mem.map (sh.group h)).dedup.length = 1)

/-- The mark of a scratchpad unit goes (06 R285). -/
def State.scratchClean (s : State) (core : Nat) (serial : Word) (unit : Nat) : State :=
  s.updScratch core serial fun x => { x with poison := x.poison.filter (· != unit) }

/-- The mark of a tile-buffer unit goes (06 R285). -/
def State.tileClean (s : State) (array unit : Nat) : State :=
  let a := s.array array
  s.setArray array { a with tpoison := a.tpoison.filter (· != unit) }

/-- The mark of the cell that a tag's access reaches goes (10 R415). -/
def State.cellClean (s : State) (c : Ctx) (l : Nat) : State :=
  match s.mem.tlbHit c.tlbs c.asid (64 * l) with
  | some leaf =>
    if leaf.mt == 0 && leaf.o && c.tag != 0 then
      match s.cell? (c.tag.toNat / 16) (leaf.phys (64 * l) / 64) with
      | some k => s.putCell { k with poison := false }
      | none => s
    else s
  | none => s

/-- A request that stores all 64 bytes of a scratchpad or tile-buffer unit, or of a cell, clears its poison mark
(06 R285, 10 R415). At a device address the write-combining buffer's whole line does. -/
def clearWhole (c : Ctx) (l : Nat) : M Unit := do
  let h ← curHart
  if h.logged c.asid (64 * l) 64 then pure ()
  else
    match addrKind c.core (64 * l) with
    | .bad => pure ()
    | .scratch core off => modify fun s => s.scratchClean core c.serial (off / 64)
    | .tile array off => modify fun s => s.tileClean array (off / 64)
    | .global => modify fun s => s.cellClean c l

/-- Is a page missing for an element of a store, judged without effect? -/
def State.pageMissing (s : State) (c : Ctx) (va : Nat) : Bool :=
  match addrKind c.core va with
  | .global => (s.leafOf c va).isNone
  | _ => false

/-- The lines of a store's elements, each run of elements in one line once. -/
def lineRuns (addr : Nat → Nat) : Option Nat → List Nat → List Nat
  | _, [] => []
  | last, i :: r => if last = some (addr i / 64) then lineRuns addr last r else (addr i / 64) :: lineRuns addr (some (addr i / 64)) r

/-- Does the element group of a store's next element enter the side log: one of its elements meets a translation fault, or
the log holds bytes of it (06 R265)? What stands above an element that traps is not reached. -/
def groupLogs (c : Ctx) (sh : VecShape) (k : AKind) (addr : Nat → Nat) (mates : List Nat) : M Bool := do
  let s ← get
  let h ← curHart
  let ok := mates.takeWhile fun i => match elemCheck { c with elem := i } (addr i) sh.size k s with
    | .ok _ _ => true
    | .error _ _ => false
  pure (ok.any fun i => s.pageMissing c (addr i) || h.logged c.asid (addr i) sh.size)

/-- A group that enters the log waits for room for all its lines, or for the whole log when they are more (06 R267;
log 54). -/
def groupRoom (addr : Nat → Nat) (mates : List Nat) : M Unit := do
  if 32 < (← curHart).sideLog.length + min 32 (lineRuns addr none mates).length then waitHere else pure ()

/-- Fold what a store has performed into the stream's store hash, in ascending element order (04 R176), and send its trains
(07 R305). -/
def settle (p : StoreSt) : M Unit := do
  sendTrains p.add p.ty p.remote
  forM' (p.perf.foldl (fun l e => insertBy (fun e : PerfElem => e.elem) e l) []) fun e => foldHash e.va (leBytes e.size e.data)

/-- What one element of a store leaves: whether it entered the log, and its parts that go to other packages. -/
abbrev StoreOne := Ctx → Nat → Bool → M (Bool × List RemoteElem)

/-- A store's elements as `runStore` performs them. -/
structure StorePlan where
  kind : StoreKind
  sh : VecShape
  /-- the hart's tile at issue -/
  hart : Hart
  addr : Nat → Nat
  data : Nat → Nat
  /-- what one element does: its index, whether it is to be logged -/
  one : StoreOne
  /-- the elements count in vstart, and a trap names one; the lines of a matrix image do not (11 R467) -/
  vec : Bool

/-- Perform the elements still to do until one meets an exception: how far the store has come, and the exception. -/
def storeElems (pl : StorePlan) (c : Ctx) (serial : Nat) : List Nat → StoreSt → M (StoreSt × Option (Nat × Exc))
  | [], p => pure ({ p with left := [] }, none)
  | i :: r, p => do
    let c := pl.sh.ctx c pl.hart i
    let grp := pl.sh.group pl.hart i
    let mates := (i :: r).filter fun j => pl.sh.group pl.hart j == grp
    match ← attempt (do
      let held := p.force || p.groups.contains grp
      let logs ← if held then pure true else groupLogs c pl.sh (if pl.kind = .add then .atom else .store) pl.addr mates
      if logs && !(← declining serial) then groupRoom pl.addr mates
      pl.one c i logs) with
    | .ok (logged, rem) =>
      storeElems pl c serial r { p with
        perf := p.perf ++ [⟨i, pl.addr i, pl.sh.size, pl.data i⟩]
        remote := p.remote ++ rem
        force := p.force || (logged && (pl.kind == .contiguous || pl.kind == .ordered))
        groups := if logged then insertNat grp p.groups else p.groups }
    | .error e => pure ({ p with left := i :: r }, some (i, e))

/-- A store of elements in an order that is settled at its issue (07 R301..R307): a trap leaves the elements below it
performed; a wait keeps its place. -/
def runStore (pl : StorePlan) (c : Ctx) (order : M (List Nat)) : M Unit := do
  let serial ← takeSerial
  let slot ← curSlot
  let c := { c with order := if pl.kind == .contiguous || pl.kind == .ordered then some (slot, serial) else none }
  let p0 ← match (← curStream).storing with
    | some p => pure p
    | none => do pure ⟨← order, [], [], ← logging serial, [], pl.vec, pl.kind == .add, pl.sh.ty⟩
  let (p, bad) ← storeElems pl c serial p0.left p0
  if pl.kind = .contiguous then
    let perf := p.perf.map fun e => e.elem
    (wholeLines pl.sh pl.hart pl.addr perf (perf.drop p0.perf.length)).forM (clearWhole c)
  match bad with
  | none => do
    settle p
    modStream fun st => { st with storing := none }
  | some (i, e) =>
    match if pl.vec then atElem pl.sh pl.hart i e else e with
    | .vtrap cause tval i lane => do
      settle p
      throw (.vtrap cause tval i lane)
    | .trap cause tval => do
      settle p
      throw (.trap cause tval)
    | e => do
      modStream fun st => { st with storing := some p }
      throw e

/-- A vector store (07 R301..R307). -/
def bodyStore (hd : Hdr) (k : StoreKind) (t : Ty) (d : VOp) (addr : Nat → Nat) : M Unit := do
  let h ← curHart
  let sh := vecShape h t
  let data ← readTile sh.ty d
  let c ← hartCtx hd.ch (← curTag)
  let serial ← takeSerial
  let one : StoreOne := fun c i force => do
    let (logged, r) ← storeElem k c sh (addr i) (data i) serial force
    pure (logged, r.toList)
  runStore ⟨k, sh, h, addr, data, one, true⟩ c (storeOrder k c sh addr data serial (sh.actives h hd 0))

/-- VST (07 R297, R300, R301). -/
def execVst (h : Hdr) (t : Ty) (d : VOp) (m : MemOp) (s : State) : Host.Outcome State Fault Refusal :=
  runAccess (.vst h t d m) h (do
    let addr ← flatAddr m (vecShape (← curHart) t).size
    bodyStore h .contiguous t d addr) s

/-- VSTS (07 R297, R301). -/
def execVsts (h : Hdr) (t : Ty) (d : VOp) (m : MemOp) (s : State) : Host.Outcome State Fault Refusal :=
  runAccess (.vsts h t d m) h (do
    let addr ← stridedAddr m
    bodyStore h .ordered t d addr) s

/-- VSTX (07 R297, R301). -/
def execVstx (h : Hdr) (t : Ty) (ix : Bool) (d : VOp) (a : XOp) (b : VOp) (scl : Fin 4) (disp : BitVec 32) (s : State) :
    Host.Outcome State Fault Refusal :=
  runAccess (.vstx h t ix d a b scl disp) h (do
    let addr ← indexedAddr ix a b scl disp
    bodyStore h .ordered t d addr) s

/-- VSTU (07 R297, R304). -/
def execVstu (h : Hdr) (t : Ty) (ix : Bool) (d : VOp) (a : XOp) (b : VOp) (scl : Fin 4) (disp : BitVec 32) (s : State) :
    Host.Outcome State Fault Refusal :=
  runAccess (.vstu h t ix d a b scl disp) h (do
    let addr ← indexedAddr ix a b scl disp
    bodyStore h .unordered t d addr) s

/-- VSTXA (07 R297, R302, R308). -/
def execVstxa (h : Hdr) (t : Ty) (ix : Bool) (d : VOp) (a : XOp) (b : VOp) (scl : Fin 4) (disp : BitVec 32) (s : State) :
    Host.Outcome State Fault Refusal :=
  runAccess (.vstxa h t ix d a b scl disp) h (do
    let addr ← indexedAddr ix a b scl disp
    bodyStore h .add t d addr) s

/-! Fences. -/

/-- Acquire, release, or both (05 R227). -/
def fenceBody (k : FenceKind) (sc : Scope) : M Unit := do
  match k with
  | .acq => acquire (Scope.rank sc)
  | .rel => release (Scope.rank sc)
  | .full =>
    release (Scope.rank sc)
    acquire (Scope.rank sc)

/-- The logical cores of a launch in ascending order, each with a core that holds write-combining entries of it (01 R58). Order
across packages is that of their ranks, and each package's own (log 60). -/
def State.drainOrdered (s : State) (l : Launch) : List (Nat × Nat) :=
  let harts := List.range (l.gangs.map fun g => g.size).sum
  (harts.foldl (fun acc h => insertNat (l.info.logicalCore h) acc) []).flatMap fun k =>
    (s.cores.filter fun kv => kv.2.wcb.any fun e => e.parts.any fun p =>
      p.serial == l.serial && l.info.logicalCore p.hart == k).map fun kv => (k, kv.1)

/-- Drain the entries of one logical core of a launch that a core holds. -/
def drainLogical (l : Launch) (k core : Nat) : M Unit := do
  drainGate core (((← get).core core).wcbThrough fun e => e.parts.any fun p =>
    p.serial == l.serial && l.info.logicalCore p.hart == k)

/-- The write-combining buffers of a DET launch's cores drain in logical-core order (01 R58, 07 R310). -/
def drainLaunchCores (scope : Nat) : M Unit := do
  match ← curLaunch? with
  | none => pure ()
  | some l =>
    if l.info.det && decide (6 ≤ scope) then forM' ((← get).drainOrdered l) fun kc => drainLogical l kc.1 kc.2
    else pure ()

/-- Before a fence that releases passes a drain point, nothing of the hart's is logged or under way: a failed train traps
PROT (06 R269, 07 R307). -/
def settleStores : M Unit := do
  let h ← curHart
  if !h.sideLog.isEmpty then waitHere
  else match h.trains.find? fun t => t.failed with
    | some t => trainTrap t
    | none => if h.trains.isEmpty then pure () else waitHere

/-- The hart passes a drain point, once for each fence executed: passing it does not wait, and the fence's own
release may wait for the round that it closes (07 R308, R309). A trap taken at that wait leaves it passed. -/
def passDrain : M Unit := do
  let n := (← get).issue.n
  if (← curStream).drained.contains n then pure ()
  else
    modHart fun h => { h with drains := h.drains + 1 }
    modStream fun st => { st with drained := n :: st.drained }

/-- VFENCE: FENCE over every vector access of both streams, a lane barrier, a wait for the hart's trains, a drain point
(07 R308, R310). -/
def execVfence (h : Hdr) (k : FenceKind) (sc : Scope) (s : State) : Host.Outcome State Fault Refusal :=
  runSeq (.vfence h k sc) h (do
    vecEnter 0 true true
    vecCommitted
    if !(← curHart).trains.isEmpty then
      match (← curHart).trains.find? (·.failed) with
      | some t => trainTrap t
      | none => waitHere
    if k != .acq then settleStores
    passDrain
    drainLaunchCores 6
    fenceBody k sc
    vecLeave) s

/-- Bring the line of an address into L2, or into L1 and L2, as a load with the access's hint would place it (06 R247,
07 R311). A page of another package has no line in L2, and its L1 line is left to loads. -/
def State.prefetch (s : State) (c : Ctx) (l2 : Bool) (va : Nat) : State :=
  match s.peekLeaf c.asid va with
  | some l =>
    if l.mt != 0 || !l.allows c.user .load then s
    else if l2 then (s.readL2 c.quad (l.phys va / 64) (c.hint == 1)).2.2
    else (s.readCached c.core c.hint (l.phys va / 64)).2.2
  | none => s

/-- PREF: brings lines nearer with its cache hint; skips what it cannot reach and never faults (07 R311). Its lane
request is that of its T field, which is zero, 8 bits (08 R352). -/
def execPref (h : Hdr) (l2 : Bool) (d : XOp) (m : MemOp) (s : State) : Host.Outcome State Fault Refusal :=
  runSeq (.pref h l2 d m) h (do
    vecEnter 8 h.b h.b
    let ea ← readEA m
    let len := min (← readX d).toNat (2 ^ 20)
    let c ← hartCtx h.ch 0
    if len != 0 then
      modify fun s => (List.range ((ea % 64 + len + 63) / 64)).foldl (fun s i =>
        s.prefetch c l2 ((alignDown ea 64 + 64 * i) % 2 ^ 64)) s
    vecLeave) s

end Sys2Proof.Machine
end

