-- ==== Sys2Proof/Machine/Cards.lean ====
section
/-! DEFINITION. Job cards: footprints, handles, order, jobs' accesses and how jobs stop and complete (01 R15..R21,
04 R163..R166; 06 R259, R263; 07 R619). -/

namespace Sys2Proof.Machine

open Sys2Proof

/-- n bytes of a card from byte o, as a number. -/
def cardField (b : List Byte) (o n : Nat) : Nat := leNat ((b.drop o).take n)

/-- The footprint regions of a card (01 R16). -/
def regionsOf (b : List Byte) : List Region :=
  (List.range 4).map fun i => ⟨cardField b (16 * i + 15) 1 / 64, cardField b (16 * i + 8) 6,
    BitVec.ofNat 64 (cardField b (16 * i) 8)⟩

/-- End of the local window in which an address begins; none for an address in no window (06 R251). -/
def windowEnd (va : Nat) : Option Nat :=
  let w := va - 0xFF00000000000000
  if va < 0xFF00000000000000 then none
  else if w < 4 * 0x400000 then some (0xFF00000000000000 + (w / 0x400000 + 1) * 0x400000)
  else if 0x1C00000 ≤ w ∧ w < 0x2000000 then some 0xFF00000002000000
  else if 0x2000000 ≤ w ∧ w < 0x2100000 then some 0xFF00000002100000
  else if 0x3000000 ≤ w ∧ w < 0x3100000 then some 0xFF00000003100000
  else none

/-- Does slot i of a card break 01 R17? -/
def regionBad (b : List Byte) (i : Nat) (r : Region) : Bool :=
  let base := r.base.toNat
  r.acc != 0 &&
    (cardField b (16 * i + 14) 2 % 2 ^ 14 != 0
      || (if base < 2 ^ 57 then decide (2 ^ 57 < base + r.len)
        else match windowEnd base with
          | none => true
          | some e => decide (e < base + r.len)))

/-- The footprint check of an issuing instruction: traps FOOTPRINT with the slot number (01 R17). -/
def checkFootprint (b : List Byte) : M (List Region) := do
  let rs := regionsOf b
  match (rs.zipIdx.find? fun ri => regionBad b ri.2 ri.1).map (·.2) with
  | some i => trap causeFootprint (BitVec.ofNat 64 i)
  | none => pure rs

/-- KIND of a handle (04 R163). -/
def Job.kind : Job → Nat
  | .stream _ => 1
  | .weight _ _ _ => 2
  | .traverse _ _ _ => 3
  | .lookup _ _ => 4
  | .update _ _ => 4

/-- Open cards of a launch, or of the package (04 R164). -/
def State.openCards (s : State) (serial : Option Word) : Nat :=
  s.la.cards.countP fun c => c.completed.isNone && (serial.isNone || serial = some c.serial)

/-- Do two regions of cards of one launch make an edge? (04 R166) -/
def Region.conflicts (a b : Region) : Bool :=
  a.acc != 0 && b.acc != 0 && decide (0 < a.len) && decide (0 < b.len)
    && decide (a.base.toNat < b.base.toNat + b.len) && decide (b.base.toNat < a.base.toNat + a.len)
    && (decide (2 ≤ a.acc) || decide (2 ≤ b.acc))

/-- Does a 64-byte line hold a byte of a region? -/
def Region.onLine (r : Region) (line : Nat) : Bool :=
  r.acc != 0 && decide (0 < r.len) && decide (r.base.toNat / 64 ≤ line) && decide (line ≤ (r.base.toNat + r.len - 1) / 64)

/-- Issuing a card releases the stream's earlier accesses to its regions to the job (01 R51): logged stores, trains and held
round entries there are waited for, a failed train traps PROT (07 R307), and the core's write-combining buffer drains. -/
def releaseRegions (regions : List Region) : M Unit := do
  let h ← curHart
  let on := fun (line : Nat) => regions.any fun r => r.onLine line
  let held := (← get).mem.rounds.any fun r => r.serial == h.serial && r.hartIndex == h.index && on (r.va / 64)
  match h.trains.find? fun t => t.failed && t.lines.any on with
  | some t => trainTrap t
  | none =>
    if held || (h.sideLog.any fun e => on e.line) || (h.trains.any fun t => t.lines.any on) then waitHere
    else
      let core ← curCore
      drainGate core ((← get).core core).wcb.length

/-- Issue a card: it waits while a limit is reached, takes the next place in the launch's order, and derives its edges
(01 R15, R19, R51; 04 R163, R164, R166). -/
def issueCard (job : Job) (regions : List Region) : M Word := do
  releaseRegions regions
  let s ← get
  match s.launchOf s.cur.slot with
  | none => waitHere
  | some l =>
    if 1024 ≤ s.openCards (some l.serial) || 16384 ≤ s.openCards none then waitHere
    else
      let handle := BitVec.ofNat 64 (Job.kind job * 2 ^ 60 + l.lslot * 2 ^ 40 + l.nextSeq % 2 ^ 40)
      let h := s.hart s.cur.slot
      let edges := (s.la.cards.filter fun c => c.serial == l.serial && c.completed.isNone &&
        c.regions.any fun a => regions.any fun b => a.conflicts b).map (·.seq)
      let card : Card :=
        { serial := l.serial, seq := l.nextSeq, handle, job, regions, edges, hart := s.cur.slot, isX := s.cur.isX
          core := coreOf s.cur.slot, user := !(s.stream s.cur).priv, ovt := h.ovt.setWidth 64, ovft := h.ovft
          started := false, entry := [], prog := 0, part := [], trains := [], reads := [], faultWait := none
          stop := none, completed := none, trapped := false }
      set ((s.setLa { s.la with cards := s.la.cards ++ [card] }).updLaunch l.serial fun l =>
        { l with nextSeq := l.nextSeq + 1 })
      pure handle

/-- The card of the executing hart's launch that a handle names, for a wait that takes handles of some kinds: a handle of
another kind, of another launch, or of no card issued traps PROT (07 R331, 11 R470, 12 R518, 13 R549). -/
def ownCard (kinds : List Nat) (h : Word) : M Card := do
  let s ← get
  match s.launchOf s.cur.slot with
  | none => waitHere
  | some l =>
    if !kinds.contains (fieldOf h.toNat 60 4) || fieldOf h.toNat 40 20 ≠ l.lslot then trap causeProt h
    else match s.la.cards.find? fun c => c.serial == l.serial && c.seq % 2 ^ 40 == h.toNat % 2 ^ 40 with
    | some c => pure c
    | none => trap causeProt h

/-! Jobs. -/

/-- The context of a job's accesses: those of its launch, under the tag captured at issue (06 R259, R273; 10 R413). -/
def State.jobCtx (s : State) (k : Card) (quad : Nat) (tlbs : List TlbId) : Ctx :=
  let (asid, cls) := match s.launch? k.serial with
    | some l => (l.info.asid, l.info.bclass)
    | none => (0, 15)
  { agent := .job k.serial k.seq, asid, user := k.user, core := k.core, quad, serial := k.serial, tag := k.ovt
    hint := 0, tlbs, cls, cached := false, elem := 0 }

/-- Do a card's regions permit an access? (01 R18) -/
def Card.permits (k : Card) (va n : Nat) (write : Bool) : Bool :=
  (List.range n).all fun i => k.regions.any fun r =>
    r.acc != 0 && (!write || decide (2 ≤ r.acc)) && decide (r.base.toNat ≤ va + i)
      && decide (va + i < r.base.toNat + r.len)

/-- An access outside the regions stops the job (01 R18). -/
def jobGate (k : Card) (va n : Nat) (write : Bool) : M Unit :=
  if k.permits va n write then pure () else trap causeFootprint (BitVec.ofNat 64 va)

/-- A job's read of n bytes within a line, in units of at most 8 bytes (07 R323, R619): bytes and poison mark. -/
def jobRead (k : Card) (c : Ctx) (va n : Nat) : M (List Byte × Bool) := do
  jobGate k va n false
  let u := min n 8
  let parts ← mapM' (List.range ((n + 7) / 8)) fun i => do
    let (v, p) ← loadRaw { c with elem := c.elem + i } (va + 8 * i) u
    pure (leBytes u v, p)
  pure (parts.flatMap (·.1), parts.any (·.2))

/-- Poison marks the unit or sector that a job wrote with poisoned data (06 R285). -/
def poisonAt (c : Ctx) (va : Nat) : M Unit := do
  match addrKind c.core va with
  | .bad => pure ()
  | .scratch core off =>
    modify fun s => s.updScratch core c.serial fun x => { x with poison := insertNat (off / 64) x.poison }
  | .tile a off =>
    modify fun s => s.setArray a { s.array a with tpoison := insertNat (off / 64) (s.array a).tpoison }
  | .global =>
    let l ← translate c va .store
    if l.mt ≠ 0 then pure ()
    else if (← tagged c l) then
      let k ← materialise c l va
      modify fun s => s.putCell { k with poison := true }
    else modify fun s => s.setMem (s.mem.setPoison (l.phys va / 64) true)

/-- Send a train of a job's writes (07 R619). -/
def jobTrain (k : Card) (rpkg : Nat) (va elem : Nat) (elems : List (Nat × Nat × Word)) : M Unit := do
  let s ← get
  let t : Train := ⟨Config.packageRank, false, s.nextTrain, sizeTy (match elems with
    | (_, n, _) :: _ => n
    | [] => 8), k.hart, elems, elems.length⟩
  let st : TrainSt := ⟨s.nextTrain, false, rpkg, va, elem, [va / 64], t, false, false, none⟩
  let s := elems.foldl (fun s e => s.noteWrite k.serial (va + (e.1 - (elems.head?.map (·.1)).getD 0))
    (e.1 + (rpkg + 1) * 2 ^ 48)) s
  set ({ s with nextTrain := s.nextTrain + 1, linkOut := s.linkOut ++ [LinkMsg.train rpkg t] }.updCard k.serial k.seq
    fun k => { k with trains := k.trains ++ [st] })

/-- A job's write of bytes within a line; another package's bytes go out as a train of units of at most 8 bytes
(07 R323, R619). -/
def jobWrite (k : Card) (c : Ctx) (va : Nat) (bs : List Byte) (poison : Bool) : M Unit := do
  jobGate k va bs.length true
  match ← storeRaw c va bs with
  | none => if poison then poisonAt c va else pure ()
  | some (rpkg, pa) =>
    let u := min bs.length 8
    jobTrain k rpkg va c.elem ((List.range (bs.length / max 1 u)).map fun i =>
      (pa + u * i, u, BitVec.ofNat 64 (leNat ((bs.drop (u * i)).take u))))

/-- Stop a job (01 R18, 07 R324). -/
def State.stopCard (s : State) (k : Card) (cause : Nat) (va : Word) (detail : Nat) : State :=
  s.updCard k.serial k.seq fun k =>
    if k.stop.isSome || k.completed.isSome then k
    else { k with stop := some (if cause = causeFootprint then .footprint else .fault, cause, va, detail) }

/-- A step of a job: a fault of an access stops it, a translation or pool fault makes it wait on a record
(06 R259, R263; 10 R420). -/
def runJob (k : Card) (c : Ctx) (body : M Unit) (s : State) : State :=
  match body s with
  | .ok _ s => s
  | .error e s =>
    let held := fun (s : State) (kind : Nat) (a : AKind) (va elem : Nat) =>
      let (s, num) := s.raiseFault { c with elem := elem } kind a va (BitVec.ofNat 1024 k.handle.toNat) (onePage va) false
      s.updCard k.serial k.seq fun k => { k with faultWait := some num }
    match e with
    | .trap cause tval => s.stopCard k cause tval 0
    | .vtrap cause tval _ _ => s.stopCard k cause tval 0
    | .etrap cause tval _ => s.stopCard k cause tval 0
    | .tfault va bad a elem => held s (if bad then 5 else 6) a va elem
    | .pool va elem => held s 7 .atom va elem
    | .wait => s

/-- May the card's job take a step? -/
def Card.active (k : Card) : Bool := k.started && k.stop.isNone && k.completed.isNone && k.faultWait.isNone

/-- The card of a handle that meets a condition. -/
def State.findCard (s : State) (h : Word) (p : Card → Bool) : Option Card :=
  s.la.cards.find? fun c => c.handle == h && p c

/-- May a card start: every card with an edge into it has completed (01 R19, 04 R166). -/
def State.cardReady (s : State) (k : Card) : Bool :=
  !k.started && k.stop.isNone && k.completed.isNone &&
    k.edges.all fun e => s.la.cards.all fun c => !(c.serial == k.serial && c.seq == e) || c.completed.isSome

/-- An arrival-word add of n bytes: COUNT saturates at 2^48 - 1 (07 R326..R328). The word is at a scratchpad window
address resolved on the card's core. -/
def arrivalAdd (c : Ctx) (va n : Nat) : M Unit := do
  match addrKind c.core va with
  | .scratch core off =>
    let x ← scratchAt c va core off 16
    let w := x.data.read off 8
    let count := min (w % 2 ^ 48 + n) (2 ^ 48 - 1)
    modify fun s => s.scratchStore core c.serial off (leBytes 8 (w / 2 ^ 48 * 2 ^ 48 + count))
  | _ => trap causeProt (BitVec.ofNat 64 va)

end Sys2Proof.Machine
end

