-- ==== Sys2Proof/Machine/MaskStack.lean ====
section
/-! DEFINITION. Major 0x32: mask logic, the mask stack and divergence (08 R374..R377). -/

namespace Sys2Proof.Machine

open Sys2Proof

/-- An instruction of the family that has no element type: its lane request uses a width of 32 bits (08 R352), and it
sets vstart to 0 (08 R348). -/
def runMask (i : Instr) (hd : Hdr) (body : M Unit) (s : State) : Host.Outcome State Fault Refusal :=
  runSeq i hd (vecRun hd 32 body) s

/-- An instruction of the vector issue order that has no tile: its lane request uses a width of 32 bits (08 R352). -/
def runPlain (i : Instr) (hd : Hdr) (body : M Unit) (s : State) : Host.Outcome State Fault Refusal :=
  runSeq i hd (vecRun hd 0 body) s

/-- Elements that the mask stack's instructions consider: min(N, 1,024) (08 R375). -/
def Hart.maskN (h : Hart) : Nat := min h.tileN 1024

/-- KLOG over all 1,024 bits: A, B and the table's four bits (08 R375). -/
def klogMask (lut : BitVec 4) (a b : Mask) : Mask :=
  (if lut.getLsbD 3 then a &&& b else 0) ||| (if lut.getLsbD 2 then a &&& ~~~b else 0)
    ||| (if lut.getLsbD 1 then ~~~a &&& b else 0) ||| (if lut.getLsbD 0 then ~~~a &&& ~~~b else 0)

/-- KLOG (08 R375). -/
def execKlog (h : Hdr) (lut : BitVec 4) (d a b : Fin 8) (s : State) : Host.Outcome State Fault Refusal :=
  runMask (.klog h lut d a b) h (modHart fun h => h.setK d.val (klogMask lut (h.getK a.val) (h.getK b.val))) s

/-- KCNT (08 R375). -/
def execKcnt (h : Hdr) (d : XOp) (a : Fin 8) (s : State) : Host.Outcome State Fault Refusal :=
  runMask (.kcnt h d a) h (do
    vecCommitted
    let hart ← curHart
    let k := hart.getK a.val
    writeCommit d (BitVec.ofNat 64 ((List.range hart.maskN).countP fun i => k.getLsbD i))) s

/-- KFIRST (08 R375). -/
def execKfirst (h : Hdr) (d : XOp) (a : Fin 8) (s : State) : Host.Outcome State Fault Refusal :=
  runMask (.kfirst h d a) h (do
    vecCommitted
    let hart ← curHart
    let k := hart.getK a.val
    writeCommit d (match (List.range hart.maskN).find? fun i => k.getLsbD i with
      | some i => BitVec.ofNat 64 i
      | none => allOnes64)) s

/-- MPUSH (08 R375). -/
def execMpush (h : Hdr) (a : Fin 8) (s : State) : Host.Outcome State Fault Refusal :=
  runMask (.mpush h a) h (do
    let hart ← curHart
    if 16 ≤ hart.mstack.length then trapIll
    else modHart fun h => { h with mstack := (h.getK 1 &&& h.getK a.val) :: h.mstack }) s

/-- MINV: the complement of the top within its parent (08 R375). -/
def execMinv (h : Hdr) (s : State) : Host.Outcome State Fault Refusal :=
  runMask (.minv h) h (do
    match (← curHart).mstack with
    | [] => trapIll
    | top :: rest =>
      let parent := rest.head?.getD (BitVec.allOnes 1024)
      modHart fun h => { h with mstack := (parent &&& ~~~top) :: rest }) s

/-- MPOP (08 R375). -/
def execMpop (h : Hdr) (s : State) : Host.Outcome State Fault Refusal :=
  runMask (.mpop h) h (do
    match (← curHart).mstack with
    | [] => trapIll
    | _ :: rest => modHart fun h => { h with mstack := rest }) s

/-- Is some bit below M of the top set? -/
def Hart.topAny (h : Hart) : Bool := (List.range h.maskN).any fun i => (h.getK 1).getLsbD i

/-- MBRZ: branch when no bit of the top is 1, with NZ when some bit is (08 R375, R377). -/
noncomputable def execMbrz (h : Hdr) (nz : Bool) (off : BitVec 40) (s : State) : Host.Outcome State Fault Refusal :=
  runHart (.mbrz h nz off) h (do
    vecEnter 32 h.b h.b
    vecCommitted
    let c ← if (← curHart).topAny == nz then transfer (targetOf (← get).issue.n off) else pure .next
    vecLeave
    pure c) s

/-- VTRIP: counts to v[D], the elements with work pushed (08 R376). It changes the mask stack's depth, so it ignores vstart
(08 R348). -/
def execVtrip (h : Hdr) (t : Ty) (d a : VOp) (s : State) : Host.Outcome State Fault Refusal :=
  runVec (.vtrip h t d a) h (do
    let hart ← curHart
    if 16 ≤ hart.mstack.length || decide (1024 < hart.tileN) then trapIll
    else
      let x ← readTile t a
      modHart fun h => { h with vstart := 0 }
      mapElems h t d x
      let hart ← curHart
      let top := hart.getK 1
      let new := (hart.actives h).foldl (fun (m : Mask) i =>
        if x i ≠ 0 && top.getLsbD i then Mask.put m i true else m) 0
      modHart fun h => { h with mstack := new :: h.mstack }) s

/-- MLOOP's pass over the counts: the new counts of the top's elements and the new top (08 R377). -/
def mloopPass (m : Nat) (top : Mask) (x : Nat → Nat) : List (Nat × Nat) × Mask :=
  let on := (List.range m).filter fun i => top.getLsbD i
  ((on.filter fun i => x i ≠ 0).map fun i => (i, x i - 1),
    on.foldl (fun (t : Mask) i => if x i ≤ 1 then Mask.put t i false else t) top)

/-- MLOOP: a trapping transfer leaves the stack and v[A] unchanged (08 R377). -/
noncomputable def execMloop (h : Hdr) (t : Ty) (a : VOp) (off : BitVec 40) (s : State) :
    Host.Outcome State Fault Refusal :=
  runHart (.mloop h t a off) h (do
    vecEnter (Ty.width t) h.b h.b
    vecCommitted
    let hart ← curHart
    match hart.mstack with
    | [] => trapIll
    | top :: rest =>
      let x ← readTile t a
      let (counts, top') := mloopPass hart.maskN top x
      let more := (List.range hart.maskN).any fun i => top'.getLsbD i
      let c ← if more then transfer (targetOf (← get).issue.n off) else pure .next
      writeElems a t hart.tileN counts
      modHart fun h => { h with mstack := if more then top' :: rest else rest }
      vecLeave
      pure c) s

end Sys2Proof.Machine
end

