-- ==== Sys2Proof/Machine/Copies.lean ====
section
/-! DEFINITION. Major 0x52: stream copies, arrival words, JOBWAIT; the start and completion of cards
(07 R320..R331, 01 R19, R22). -/

namespace Sys2Proof.Machine

open Sys2Proof

/-- Read a card of n bytes at issue, as loads (07 R320). -/
def readCard (h : Hdr) (va n : Nat) : M (List Byte) := do
  let c ← hartCtx h.ch (← curTag)
  let parts ← mapM' (List.range (n / 64)) fun i => do
    return leBytes 64 (← hartLoadWide c (va + 64 * i) 64)
  pure parts.flatten

/-- The fields of a stream-copy card (07 R321). -/
structure CopyCard where
  sbase : Nat
  dbase : Nat
  esz : Nat
  fill : Bool
  arr : Bool
  arrw : Nat
  /-- COUNT, SSTR, DSTR of each dimension -/
  dims : List (Nat × Int × Int)
  deriving DecidableEq, Repr

/-- The fields of a card's bytes. -/
def copyCard (b : List Byte) : CopyCard :=
  let w := cardField b 80 4
  { sbase := cardField b 64 8, dbase := cardField b 72 8, esz := w % 8, fill := bitOf w 3, arr := bitOf w 4
    arrw := cardField b 88 8
    dims := (List.range 6).map fun d => (cardField b (96 + 24 * d) 8, signedOf 64 (cardField b (104 + 24 * d) 8),
      signedOf 64 (cardField b (112 + 24 * d) 8)) }

/-- The offset of the first field of a card that breaks 07 R322; whether the arrival word's window is the launch's is
given. -/
def copyBadField (b : List Byte) (window : Bool) : Option Nat :=
  let c := copyCard b
  let m := 2 ^ c.esz
  let odd := fun (v : Int) => c.esz != 7 && v % (m : Int) != 0
  let dims := (c.dims.zipIdx.map fun (t, d) =>
    [(96 + 24 * d, decide (2 ^ 32 < t.1)), (104 + 24 * d, decide (1 < t.1) && odd t.2.1),
      (112 + 24 * d, decide (1 < t.1) && odd t.2.2)]).flatten
  let all := [(64, odd c.sbase), (72, odd c.dbase), (80, c.esz == 7 || cardField b 80 4 / 32 != 0),
    (84, cardField b 84 4 != 0), (88, if c.arr then !window || c.arrw % 16 != 0 else c.arrw != 0)] ++ dims
    ++ [(240, cardField b 240 16 != 0)]
  (all.find? fun t => t.2).map (·.1)

/-- STREAM (07 R320, R322). -/
def execStream (h : Hdr) (d a : XOp) (s : State) : Host.Outcome State Fault Refusal :=
  runPlain (.stream h d a) h (do
    let va := (← readX a).toNat
    if va % 64 ≠ 0 then trap causeAlign (BitVec.ofNat 64 va)
    else
      let b ← readCard h va 256
      let rs ← checkFootprint b
      let s ← get
      let window := match addrKind (coreOf s.cur.slot) (copyCard b).arrw with
        | .scratch k _ => ((s.core k).scratch? (s.hart s.cur.slot).serial).isSome
        | _ => false
      match copyBadField b window with
      | some o => trap causeProt (BitVec.ofNat 64 (va + o))
      | none => do writeX d (← issueCard (.stream b) rs)) s

/-! The job (07 R323..R326, R328). -/

/-- Elements that a card copies. -/
def CopyCard.total (c : CopyCard) : Nat := c.dims.foldl (fun n t => n * t.1) 1

/-- Source and destination of the element of a linear index (07 R323). -/
def CopyCard.element (c : CopyCard) (i : Nat) : Nat × Nat :=
  let r := c.dims.foldl (fun (acc : Nat × Int × Int) t =>
    (acc.1 / max 1 t.1, acc.2.1 + (acc.1 % max 1 t.1 : Nat) * t.2.1, acc.2.2 + (acc.1 % max 1 t.1 : Nat) * t.2.2))
    (i, (c.sbase : Int), (c.dbase : Int))
  ((BitVec.ofInt 64 r.2.1).toNat, (BitVec.ofInt 64 r.2.2).toNat)

/-- Does an element after the i-th write the line of an address? -/
def CopyCard.laterInLine (c : CopyCard) (i va : Nat) : Bool :=
  (List.range (c.total - (i + 1))).any fun j => (c.element (i + 1 + j)).2 / 128 == va / 128

/-- Copy element number i: with FILL it waits while its tile-buffer line is full and fills it with the line's last
element; the arrival word counts its bytes once they have performed (07 R323..R328). -/
def copyElement (k : Card) (c : Ctx) (cc : CopyCard) (i : Nat) : M Unit := do
  let (src, dst) := cc.element i
  let n := 2 ^ cc.esz
  let line := match addrKind c.core dst with
    | .tile a off => if cc.fill then some (a, off / 128) else none
    | _ => none
  if let some (a, l) := line then
    jobGate k dst n true
    if (← tileAt c dst a).full.contains l then waitHere
  let (bs, po) ← jobRead k c src n
  jobWrite k c dst bs po
  if let some (a, l) := line then
    if !cc.laterInLine i dst then
      modify fun s => (s.setArray a { s.array a with full := insertNat l (s.array a).full }).wakeLine (tileKey a (128 * l))
  modify fun s => s.updCard k.serial k.seq fun k => { k with prog := i + 1, reads := [] }
  if cc.arr && (((← get).card? k.serial k.seq).map fun k => k.trains.isEmpty) = some true then arrivalAdd c cc.arrw n

/-- STREAM_COPY_JOB: the next element of a copy that has started. Elements perform in ascending order (log 14). The
arrival-word add of bytes sent to another package follows their acknowledgement. -/
def execStreamCopyJob (card : Word) (s : State) : Host.Outcome State Fault Refusal :=
  let isCopy := fun (k : Card) => k.active && Job.kind k.job == 1
  match s.findCard card isCopy with
  | none => .next s
  | some k =>
    match k.job with
    | .stream b =>
      let cc := copyCard b
      let quad := quadOf k.core
      let c := s.jobCtx k quad [.quad quad]
      if cc.total ≤ k.prog || !k.trains.isEmpty then .next s
      else .next (runJob k c (copyElement k c cc k.prog) s)
    | _ => .next s

/-! Arrival words (07 R330). -/

/-- The scratchpad place of an arrival word: alignment, then the window and its limits (07 R330, 06 R252). -/
def arrivalPlace (va : Nat) : M (Nat × Nat) := do
  if va % 16 ≠ 0 then trap causeAlign (BitVec.ofNat 64 va)
  else
    let c ← hartCtx 0 0
    match addrKind c.core va with
    | .scratch core off =>
      let _ ← scratchAt c va core off 16
      pure (core, off)
    | _ => trap causeProt (BitVec.ofNat 64 va)

/-- ARMW (07 R330). -/
def execArmw (h : Hdr) (d : XOp) (m : MemOp) (s : State) : Host.Outcome State Fault Refusal :=
  runPlain (.armw h d m) h (do
    let ea ← readEA m
    let target ← readX d
    let (core, off) ← arrivalPlace ea
    let c ← hartCtx 0 0
    checkWatch ea 16 .store
    let w ← hartLoad c ea 16
    let gen := (fieldOf w 48 16 + 1) % 2 ^ 16
    modify fun s => s.scratchStore core c.serial off (leBytes 8 (gen * 2 ^ 48) ++ leBytes 8 (target.toNat % 2 ^ 48))
    writeX d (BitVec.ofNat 64 gen)) s

/-- Acquire what a completed job did (01 R22): the hart's core drops its clean lines. -/
def acquireJob : M Unit := do
  modify fun s => s.setMem s.mem.dropStale
  acquire 6

/-- WAITW: waits by reading the word again at each turn (07 R330). -/
def execWaitw (h : Hdr) (d : XOp) (m : MemOp) (s : State) : Host.Outcome State Fault Refusal :=
  runPlain (.waitw h d m) h (do
    let ea ← readEA m
    let g ← readX d
    let _ ← arrivalPlace ea
    let w ← hartLoad (← hartCtx 0 0) ea 16
    if fieldOf w 48 16 ≠ g.toNat % 2 ^ 16 || decide (fieldOf w 64 48 ≤ fieldOf w 0 48) then
      acquireJob
      writeX d (BitVec.ofNat 64 (fieldOf w 0 48))
    else waitHere) s

/-- Status of a completed card as a number (04 R165). -/
def CardStatus.code : CardStatus → Nat
  | .ok => 0
  | .footprint => 1
  | .fault => 2
  | .abort => 3

/-- JOBWAIT (07 R331): the first wait on a stopped stream copy traps its cause. -/
def execJobwait (h : Hdr) (d a : XOp) (s : State) : Host.Outcome State Fault Refusal :=
  runPlain (.jobwait h d a) h (do
    let k ← ownCard [1, 2, 3, 4] (← readX a)
    match k.completed with
    | none => waitHere
    | some st =>
      let stopped := match k.stop with
        | some (_, cause, va, _) => if Job.kind k.job = 1 && !k.trapped && cause ≠ 0 then some (cause, va) else none
        | none => none
      match stopped with
      | some (cause, va) =>
        modify fun s => s.updCard k.serial k.seq fun k => { k with trapped := true }
        trap cause va
      | none =>
        acquireJob
        writeX d (BitVec.ofNat 64 (CardStatus.code st))) s

/-! Start and completion. -/

/-- May a card's job start by itself: is the unit that serves it up? A gazetteer job begins at engine 0; a traverse job starts
with its channel instead (01 R26, 12 R480, 15 R601). -/
def State.unitUp (s : State) (k : Card) : Bool :=
  Job.kind k.job != 3 && (Job.kind k.job != 4 || s.dc.ready.getLsbD 16)

/-- CARD_START: a card starts when every card with an edge into it has completed and its unit is up; the start acquires at
scope pkg (01 R19, R26, 04 R166). -/
def execCardStart (card : Word) (s : State) : Host.Outcome State Fault Refusal :=
  match s.findCard card fun k => s.cardReady k && s.unitUp k with
  | none => .next s
  | some k =>
    .next ((s.setMem s.mem.dropStale).updCard k.serial k.seq fun k => { k with started := true })

end Sys2Proof.Machine
end

