-- ==== Sys2Proof/Machine/Junction.lean ====
section
/-! DEFINITION. Major 0x40: reductions, scans, permutations, selection and sorting over the lanes of a hart
(09 R389..R401). -/

namespace Sys2Proof.Machine

open Sys2Proof

/-- Issue an instruction that carries data between lanes: every one is a rendezvous (09 R380), and with B set a lane barrier
too (09 R384). -/
def runJunction (i : Instr) (hd : Hdr) (body : M Unit) (s : State) : Host.Outcome State Fault Refusal :=
  runSeq i hd (do
    vecEnter (widest i.tileTys) true hd.b
    body
    vecLeave) s

/-- A value extended to 64 bits as a load of its type (05 R223). -/
def extTy (t : Ty) (n : Nat) : Word :=
  match Ty.int? t with
  | some (w, true) => BitVec.ofInt 64 (signedOf w n)
  | _ => BitVec.ofNat 64 n

/-- The lists of a reduction or scan: the tile, or with SEG each row, as logical indices (09 R392). -/
def Hart.lists (h : Hart) (seg : Bool) : List (List Nat) :=
  if seg then (List.range h.rc.toNat).map fun r => (List.range h.vl.toNat).map fun c => r * h.vl.toNat + c
  else [List.range h.tileN]

/-- The identity of an inactive element (09 R393); unused for argmin and argmax. -/
def RedOp.identity (op : RedOp) (t : Ty) : Nat :=
  let w := Ty.bits t
  let least := if isSigned t then 2 ^ (w - 1) else 0
  let greatest := if isSigned t then 2 ^ (w - 1) - 1 else 2 ^ w - 1
  match op with
  | .add => minusZero t
  | .min => if Ty.isFloat t then canonNan t else greatest
  | .max => if Ty.isFloat t then canonNan t else least
  | .argmin => 0
  | .argmax => 0
  | .and => 2 ^ w - 1
  | .or => 0
  | .xor => 0

/-- The operation of two values where the order of combination does not matter (03 R130, R135). -/
def RedOp.pick (op : RedOp) (t : Ty) (x y : Nat) : Nat :=
  match op with
  | .add => (x + y) % 2 ^ Ty.bits t
  | .min => minMax false t x y
  | .max => minMax true t x y
  | .argmin => x
  | .argmax => x
  | .and => x &&& y
  | .or => x ||| y
  | .xor => x ^^^ y

/-- Argmin or argmax over (position, element) pairs: the lowest position of the least or greatest non-NaN element, 0
where there is none (03 R131). -/
def argBest (isMax : Bool) (t : Ty) (l : List (Nat × Nat)) : Nat :=
  let better := fun (x y : FVal) => if isMax then FVal.lt y x else FVal.lt x y
  let best := l.foldl (fun (acc : Option (Nat × FVal)) (iv : Nat × Nat) =>
    match Ty.decode t iv.2, acc with
    | .nan, acc => acc
    | v, none => some (iv.1, v)
    | v, some (j, w) => if better v w then some (iv.1, v) else some (j, w)) none
  match best with
  | some (i, _) => i
  | none => 0

/-- A reduction of list number r (09 R392, R393). -/
def reduceList (op : RedOp) (t : Ty) (c : Nat → RCtx) (act : Nat → Bool) (x : Nat → Nat) (r : Nat) (l : List Nat) :
    Nat :=
  let vals := l.map fun i => if act i then x i else RedOp.identity op t
  match op with
  | .add => treeSum t (c 0).mode (c 0).ovft (fun i => (c i).u) r vals
  | .argmin => argBest false t ((l.zipIdx.filter fun ip => act ip.1).map fun ip => (ip.2, x ip.1))
  | .argmax => argBest true t ((l.zipIdx.filter fun ip => act ip.1).map fun ip => (ip.2, x ip.1))
  | _ => vals.foldl (RedOp.pick op t) (RedOp.identity op t)

/-- The type of a reduction's result: n32 for an index (09 R392). -/
def RedOp.resTy (op : RedOp) (t : Ty) : Ty := if op = .argmin ∨ op = .argmax then .n32 else t

/-- Does a reduction write only a scalar? -/
def RedDst.scalar : RedDst → Bool
  | .v _ => false
  | .x _ => true

/-- Does a compensated reduction write only scalars? -/
def RedpDst.scalar : RedpDst → Bool
  | .v _ _ => false
  | .x _ _ => true

/-- The hart as an instruction that ignores vstart sees it (08 R348). -/
def Hart.fromStart (h : Hart) (ignore : Bool) : Hart := if ignore then { h with vstart := 0 } else h

/-- VRED (09 R392). -/
def execVred (h : Hdr) (op : RedOp) (seg : Bool) (t : Ty) (rm : Rnd) (d : RedDst) (a : VOp) (s : State) :
    Host.Outcome State Fault Refusal :=
  runJunction (.vred h op seg t rm d a) h (do
    let x ← readTile t a
    let c ← rctx rm
    let hart := (← curHart).fromStart (RedDst.scalar d)
    let res := (hart.lists seg).zipIdx.map fun (l, r) => reduceList op t c (hart.active h) x r l
    match d with
    | .v o => writeElems o (RedOp.resTy op t) hart.tileN (res.zipIdx.map fun (v, r) => (r, v))
    | .x o => writeCommit o (extTy (RedOp.resTy op t) (res.head?.getD 0))) s

/-- VREDP: the compensated tree; b gives the low parts where PR names it (09 R394). -/
def execVredp (h : Hdr) (seg : Bool) (t : Ty) (d : RedpDst) (a : VOp) (b : Option VOp) (s : State) :
    Host.Outcome State Fault Refusal :=
  runJunction (.vredp h seg t d a b) h (do
    let x ← readTile t a
    let y ← match b with
      | some o => readTile t o
      | none => pure fun _ => 0
    let hart := (← curHart).fromStart (RedpDst.scalar d)
    let mz := minusZero t
    let res := (hart.lists seg).map fun l =>
      compSum t hart.ovft.toNat (l.map fun i => if hart.active h i then (x i, y i) else (mz, mz))
    match d with
    | .v d e =>
      writeElems d t hart.tileN (res.zipIdx.map fun (v, r) => (r, v.1))
      writeElems e t hart.tileN (res.zipIdx.map fun (v, r) => (r, v.2))
    | .x d e =>
      let v := res.head?.getD (0, 0)
      writeCommit d (BitVec.ofNat 64 v.1)
      writeCommit e (BitVec.ofNat 64 v.2)) s

/-- The fold of a scan over (logical index, contribution) pairs: the outputs (03 R135). -/
def scanFold (op : RedOp) (t : Ty) (c : Nat → RCtx) : Option Nat → List (Nat × Nat) → List (Nat × Nat)
  | _, [] => []
  | acc, (i, v) :: rest =>
    let out := match acc with
      | none => if op = .add then canonize t v else RedOp.pick op t (RedOp.identity op t) v
      | some u =>
        if op = .add && Ty.isFloat t then
          roundTo t (c i) false (FVal.add (c i).mode (Ty.decode t u) (Ty.decode t v))
        else RedOp.pick op t u v
    (i, out) :: scanFold op t c (some out) rest

/-- VSCAN (09 R395). -/
def execVscan (h : Hdr) (op : RedOp) (seg : Bool) (t : Ty) (rm : Rnd) (d a : VOp) (s : State) :
    Host.Outcome State Fault Refusal :=
  runJunction (.vscan h op seg t rm d a) h (do
    let x ← readTile t a
    let c ← rctx rm
    let hart ← curHart
    let outs := (hart.lists seg).flatMap fun l =>
      scanFold op t c none (l.map fun i => (i, if hart.active h i then x i else RedOp.identity op t))
    writeElems d t hart.tileN (outs.filter fun iv => hart.active h iv.1)) s

/-- Move elements: each active destination element takes the source that `src` names, or zero bits where it names none
(09 R396). -/
def moveElems (hd : Hdr) (t : Ty) (d : VOp) (src : Hart → Nat → Option Nat) : M Unit := do
  let hart ← curHart
  mapElems hd t d fun i => (src hart i).getD 0

/-- A source index within the tile, or with SEG within the row of i (09 R396). -/
def inTile (h : Hart) (seg : Bool) (x : Nat → Nat) (i : Nat) (j : Nat) : Option Nat :=
  let vl := h.vl.toNat
  if seg then (if j < vl then some (x (i / vl * vl + j)) else none)
  else if j < h.tileN then some (x j) else none

/-- Position of element i: within its row under SEG, else within the tile, and the length it is taken in. -/
def posIn (h : Hart) (seg : Bool) (i : Nat) : Nat × Nat :=
  if seg then (i % h.vl.toNat, h.vl.toNat) else (i, h.tileN)

/-- VPERM (09 R396). -/
def execVperm (h : Hdr) (seg ix : Bool) (t : Ty) (d a b : VOp) (s : State) : Host.Outcome State Fault Refusal :=
  runJunction (.vperm h seg ix t d a b) h (do
    let x ← readTile t a
    let idx ← readTile (if ix then .n16 else .n32) b
    moveElems h t d fun hart i => inTile hart seg x i (idx i)) s

/-- The source of VSLIDE for a position in a length (09 R396). -/
def slideSrc (wrap : Bool) (pos len : Nat) (k : Int) : Option Nat :=
  let j : Int := (pos : Int) - k
  if wrap then some (j % (len : Int)).toNat
  else if 0 ≤ j ∧ j < (len : Int) then some j.toNat else none

/-- VSLIDE (09 R396). -/
def execVslide (h : Hdr) (seg wrap : Bool) (t : Ty) (d a : VOp) (b : XOp) (s : State) :
    Host.Outcome State Fault Refusal :=
  runJunction (.vslide h seg wrap t d a b) h (do
    let x ← readTile t a
    let k := (← readX b).toInt
    moveElems h t d fun hart i =>
      let (pos, len) := posIn hart seg i
      (slideSrc wrap pos len k).bind fun j => inTile hart seg x i j) s

/-- VZIP (09 R396). -/
def execVzip (h : Hdr) (seg hi : Bool) (t : Ty) (d a b : VOp) (s : State) : Host.Outcome State Fault Refusal :=
  runJunction (.vzip h seg hi t d a b) h (do
    let x ← readTile t a
    let y ← readTile t b
    moveElems h t d fun hart i =>
      let (pos, len) := posIn hart seg i
      inTile hart seg (if pos % 2 = 0 then x else y) i (pos / 2 + if hi then len / 2 else 0)) s

/-- VUNZIP: from the concatenation of A's and B's elements (09 R396). -/
def execVunzip (h : Hdr) (seg odd : Bool) (t : Ty) (d a b : VOp) (s : State) : Host.Outcome State Fault Refusal :=
  runJunction (.vunzip h seg odd t d a b) h (do
    let x ← readTile t a
    let y ← readTile t b
    moveElems h t d fun hart i =>
      let (pos, len) := posIn hart seg i
      let j := 2 * pos + odd.toNat
      if j < len then inTile hart seg x i j else inTile hart seg y i (j - len)) s

/-- VTRN: the transpose as a flat sequence (09 R396). -/
def execVtrn (h : Hdr) (t : Ty) (d a : VOp) (s : State) : Host.Outcome State Fault Refusal :=
  runJunction (.vtrn h t d a) h (do
    let x ← readTile t a
    moveElems h t d fun hart i =>
      inTile hart false x i (i % hart.rc.toNat * hart.vl.toNat + i / hart.rc.toNat)) s

/-- VCOMPRESS (09 R397). -/
def execVcompress (h : Hdr) (z : Bool) (t : Ty) (d a : VOp) (e : XOp) (s : State) :
    Host.Outcome State Fault Refusal :=
  runJunction (.vcompress h z t d a e) h (do
    let x ← readTile t a
    let hart ← curHart
    let sel := hart.actives h
    let out := sel.zipIdx.map fun (i, m) => (m, x i)
    let rest := if z then ((List.range hart.tileN).filter fun i => sel.length ≤ i).map fun i => (i, 0) else []
    writeElems d t hart.tileN (out ++ rest)
    writeCommit e (BitVec.ofNat 64 sel.length)) s

/-- VEXPAND (09 R397). -/
def execVexpand (h : Hdr) (z : Bool) (t : Ty) (d a : VOp) (s : State) : Host.Outcome State Fault Refusal :=
  runJunction (.vexpand h z t d a) h (do
    let x ← readTile t a
    let hart ← curHart
    let sel := hart.actives h
    let out := sel.zipIdx.map fun (i, m) => (i, x m)
    let rest := if z then ((List.range hart.tileN).filter fun i => !hart.active h i).map fun i => (i, 0) else []
    writeElems d t hart.tileN (out ++ rest)) s

/-- The order of sort keys: ascending, or descending with NaN keys still last (03 R136). -/
def keyBefore (desc : Bool) (t : Ty) (x y : Nat) : Bool :=
  let a := Ty.decode t x
  let b := Ty.decode t y
  if desc && a != .nan && b != .nan then FVal.lt b a else FVal.lt a b

/-- Stable insertion of an index into a sorted list. -/
def insertKey (before : Nat → Nat → Bool) (i : Nat) : List Nat → List Nat
  | [] => [i]
  | j :: r => if before i j then i :: j :: r else j :: insertKey before i r

/-- VSORTK (09 R398). -/
def execVsortk (h : Hdr) (desc : Bool) (t : Ty) (d e a : VOp) (b : XOp) (s : State) :
    Host.Outcome State Fault Refusal :=
  runJunction (.vsortk h desc t d e a b) h (do
    let x ← readTile t a
    let n := (← readX b).toNat
    let hart ← curHart
    let sel := hart.actives h
    let order := sel.foldl (fun l i => insertKey (fun i j => keyBefore desc t (x i) (x j)) i l) []
    let top := order.take (min n sel.length)
    let perm := top ++ sel.filter fun i => !top.contains i
    writeElems d t hart.tileN (perm.zipIdx.map fun (i, p) => (p, x i))
    writeElems e .n32 hart.tileN (perm.zipIdx.map fun (i, p) => (p, i))) s

/-- VEXTR (09 R399). -/
def execVextr (h : Hdr) (t : Ty) (d : XOp) (a : VOp) (b : XOp) (s : State) : Host.Outcome State Fault Refusal :=
  runJunction (.vextr h t d a b) h (do
    let x ← readTile t a
    let j := (← readX b).toNat
    let n := (← curHart).tileN
    writeCommit d (if j < n then extTy t (x j) else 0)) s

/-- VINSR (09 R399). -/
def execVinsr (h : Hdr) (t : Ty) (d : VOp) (a b : XOp) (s : State) : Host.Outcome State Fault Refusal :=
  runJunction (.vinsr h t d a b) h (do
    let w := (← readX a).toNat % 2 ^ Ty.width t
    let j := (← readX b).toNat
    let hart ← curHart
    writeElems d t hart.tileN (if j < hart.tileN && hart.active h j then [(j, w)] else [])) s

/-- RDV: waits until every earlier vector instruction has committed, then gives the participating lanes (09 R400). Its
lane request is of type code 0's width (08 R352). -/
def execRdv (h : Hdr) (d : XOp) (s : State) : Host.Outcome State Fault Refusal :=
  runSeq (.rdv h d) h (do
    vecEnter 8 true true
    vecCommitted
    let hart ← curHart
    writeCommit d ((laneSet hart.lanesOf).setWidth 64)
    vecLeave) s

end Sys2Proof.Machine
end

