-- ==== Sys2Proof/Machine/Groups.lean ====
section
/-! DEFINITION. Major 0x51: groups and their collectives (07 R312..R319). -/

namespace Sys2Proof.Machine

open Sys2Proof

/-- The launch of the executing hart; a hart without one waits. -/
def ownLaunch : M Launch := do
  match ← curLaunch? with
  | some l => pure l
  | none => waitHere

/-- Free an entry of a launch's group table; traverse programs that hold it keep it until they go (12 R478). -/
def Launch.freeGroup (l : Launch) (idx : Nat) : Launch :=
  match l.groups.get? idx with
  | some g => if g.held = 0 then { l with groups := l.groups.del idx }
    else { l with groups := l.groups.put idx { g with freed := true } }
  | none => l

/-- What names a launch among the packages: its PODID, or its serial without POD. -/
def Launch.lid (l : Launch) : Word := if l.info.pod then l.info.podid.setWidth 64 else l.serial

/-- A member that sets its group anew meets no run of an earlier table entry: runs are counted from 0 (12 R479). -/
def State.forgetRuns (s : State) (lid exb : Word) (rank : Nat) : State :=
  let old := fun (r : RunId) (m : Nat) => r.lid == lid && r.exb == exb && m == rank
  { s with tv := { s.tv with
    landed := s.tv.landed.filter fun x => !old x.msg.run x.msg.dst
    reserves := s.tv.reserves.filter fun x => !old x.run x.dst
    roundsDone := s.tv.roundsDone.filter fun x => !old x.1 x.2.1
    ended := s.tv.ended.filter fun x => !old x.run x.rank
    stops := s.tv.stops.filter fun x => !old x.1 x.2 } }

/-- Does a group descriptor meet 07 R313? -/
def groupDescOk (d : Nat) : Bool :=
  let exb := fieldOf d 64 64
  let exs := fieldOf d 128 64
  fieldOf d 0 16 != 0 && decide (2 ≤ fieldOf d 16 3) && fieldOf d 20 44 == 0 && decide (exb < 2 ^ 57)
    && exb % 4096 == 0 && exs % 4096 == 0 && decide (12288 ≤ exs) && fieldOf d 192 320 == 0

/-- GSET (07 R315). -/
def execGset (h : Hdr) (d : Fin 8) (a b : XOp) (s : State) : Host.Outcome State Fault Refusal :=
  runPlain (.gset h d a b) h (do
    let va := (← readX a).toNat
    let rank := (← readX b).toNat
    if va % 64 ≠ 0 then trap causeAlign (BitVec.ofNat 64 va)
    else
      let desc ← hartLoadWide (← hartCtx h.ch (← curTag)) va 64
      let count := fieldOf desc 0 16
      if !groupDescOk desc || decide (count ≤ rank) then trap causeProt (BitVec.ofNat 64 va)
      else
        let slot ← curSlot
        let l ← ownLaunch
        let own := (← curHart).g.get d.val ⟨0, 0, 0⟩
        let l := if own.count = 0 then l else l.freeGroup own.idx.toNat
        match (List.range 64).find? fun j => (l.groups.get? j).isNone with
        | none => trap causeProt (BitVec.ofNat 64 va)
        | some idx =>
          let e : GroupEntry :=
            { exb := BitVec.ofNat 64 (fieldOf desc 64 64), exs := BitVec.ofNat 64 (fieldOf desc 128 64)
              scope := fieldOf desc 16 3, det := bitOf desc 19, count, rank, hart := slot, calls := 0, step := 0
              held := 0, runs := 0, freed := false }
          modify fun s => (s.setLaunch { l with groups := l.groups.put idx e }).forgetRuns l.lid e.exb rank
          modHart fun h => { h with g := h.g.put d.val ⟨BitVec.ofNat 6 idx, BitVec.ofNat 16 count, BitVec.ofNat 16 rank⟩ }) s

/-- GSET with F: frees the entry and clears the register (07 R315). -/
def execGsetFree (h : Hdr) (d : Fin 8) (s : State) : Host.Outcome State Fault Refusal :=
  runPlain (.gsetFree h d) h (do
    let own := (← curHart).g.get d.val ⟨0, 0, 0⟩
    let l ← ownLaunch
    if own.count = 0 then pure ()
    else
      modify fun s => s.setLaunch (l.freeGroup own.idx.toNat)
      modHart fun h => { h with g := h.g.put d.val ⟨0, 0, 0⟩ }) s

/-! Collectives. -/

/-- The collective of a call. -/
inductive CollOp
  | red (op : GOp)
  | all
  | rs (op : GOp)
  | bc (root : Nat)
  deriving DecidableEq, Repr

/-- The shape of a call, alike at every member (07 R316). -/
def CollOp.shape (k : CollOp) (h : Hart) (t : Ty) : Nat × Nat × Ty × Nat × Nat :=
  let op := fun (g : GOp) => match g with
    | .add => 0
    | .min => 1
    | .max => 2
  let (o, root) := match k with
    | .red g => (op g, 0)
    | .all => (3, 0)
    | .rs g => (4 + op g, 0)
    | .bc r => (7, r)
  (h.vl.toNat, h.rc.toNat, t, o, root)

/-- The operation of a group as one of VRED's. -/
def GOp.red : GOp → RedOp
  | .add => .add
  | .min => .min
  | .max => .max

/-- Combine contributions in ascending rank: the tree under DET (07 R318). -/
def combineTree (op : GOp) (t : Ty) (ovft : Nat) (l : List Nat) : Nat :=
  match op with
  | .add => treeSum t .rne ovft (fun _ => 0) 0 l
  | .min => l.foldl (minMax false t) (RedOp.identity .min t)
  | .max => l.foldl (minMax true t) (RedOp.identity .max t)

/-- Combine contributions as they arrived: a sum's scatter-adds, each under the ovft that its member captured (07 R302,
R318). -/
def combineArrivals (op : GOp) (t : Ty) (l : List (Nat × Nat)) : Nat :=
  match op with
  | .add => l.foldl (fun acc x => addValue t x.1 acc x.2) (RedOp.identity .add t)
  | .min => (l.map (·.2)).foldl (minMax false t) (RedOp.identity .min t)
  | .max => (l.map (·.2)).foldl (minMax true t) (RedOp.identity .max t)

/-- An address in the exchange area of a member (07 R313). -/
def GroupEntry.area (g : GroupEntry) (rank off : Nat) : Nat := (g.exb.toNat + rank * g.exs.toNat + off) % 2 ^ 64

/-- Operation number of an ATOM for a combination by min or max (05 R225). -/
def GOp.atom : GOp → Nat
  | .add => 1
  | .min => 5
  | .max => 6

/-- One element that a member sends to an exchange area: a store, a scatter-add or an ATOM (07 R318, R319). What it leaves in
the area is the part's own, a free value (07 R313; log 5). -/
def exchangeOut (op : Option GOp) (t : Ty) (serial : Nat) (addr : Nat → Nat) : StoreOne := fun c i force => do
  let va := addr i
  let n := Ty.size t
  let (w, s) := (← get).draw
  set s
  let data := w.toNat % 2 ^ (8 * n)
  let remote := fun (r : Option (Nat × Nat)) => (r.map fun (rpkg, pa) => (⟨i, va, pa, n, data, rpkg⟩ : RemoteElem)).toList
  elemCheck c va n (if op.isSome then .atom else .store)
  match op with
  | none => do
    let (r, logged) ← hartStoreCore c va (leBytes n data) serial force
    pure (logged, remote r)
  | some .add => do
    let (r, logged) ← hartAdd c va t data serial force
    pure (logged, remote r)
  | some g => do
    checkWatch va n .atom
    noteReq i va .atom
    loadGate c va n
    let _ ← atomRaw c va n (fun _ => some data) fun rpkg id pa s =>
      { s with linkOut := s.linkOut ++ [LinkMsg.atomic rpkg id pa n (GOp.atom g) (isSigned t) w 0] }
    pure (false, [])

/-- A member's contribution goes to the exchange areas, as a store of its elements does (07 R303, R319). -/
def exchangeSend (c : Ctx) (h : Hart) (t : Ty) (op : Option GOp) (data : Nat → Nat) (l : List (Nat × Nat)) : M Unit := do
  let sh : VecShape := ⟨h.tileN, t, Ty.size t, false⟩
  let addr := fun i => ((l.find? fun x => x.1 == i).map (·.2)).getD 0
  let serial ← takeSerial
  let kind : StoreKind := match op with
    | none => .ordered
    | some .add => .add
    | some _ => .unordered
  runStore ⟨kind, sh, h, addr, data, exchangeOut op t serial addr, true⟩ c (pure (l.map (·.1)))

/-- A member gathers from exchange areas, in order; a trap names the exchange address and its element (07 R319). -/
def exchangeGather (c : Ctx) (h : Hart) (t : Ty) (l : List (Nat × Nat)) : M Unit := do
  let sh : VecShape := ⟨h.tileN, t, Ty.size t, false⟩
  forM' l fun iv => do
    match ← attempt (do
      elemCheck (sh.ctx c h iv.1) iv.2 sh.size .load
      loadChecked (sh.ctx c h iv.1) iv.2 sh.size) with
    | .ok _ => pure ()
    | .error e => throw (atElem sh h iv.1 e)

/-- Where a member's contribution goes: its own contribution slot, or outside DET the accumulation slots of rank 0 or of
the owners of the slices (07 R313, R318). -/
def CollOp.outTraffic (k : CollOp) (g : GroupEntry) (det : Bool) (n size : Nat) : Option GOp × List (Nat × Nat) :=
  let own := (List.range n).map fun e => (e, g.area g.rank (e * size))
  match k with
  | .red op => if det then (none, own) else (some op, (List.range n).map fun e => (e, g.area 0 (4096 + e * size)))
  | .rs op =>
    if det then (none, own)
    else
      let m := n / max 1 g.count
      (some op, (List.range n).map fun e => (e, g.area (e / max 1 m) (4096 + e % max 1 m * size)))
  | .all => (none, own)
  | .bc _ => (none, own)

/-- What a member gathers once all have arrived (07 R318). -/
def CollOp.inTraffic (k : CollOp) (g : GroupEntry) (det : Bool) (n size : Nat) : List (Nat × Nat) :=
  let from_ := fun (rank lo m base : Nat) => (List.range m).map fun e => (e, g.area rank (base + (lo + e) * size))
  let m := n / max 1 g.count
  match k with
  | .red _ => if det then (List.range g.count).flatMap fun r => from_ r 0 n 0 else from_ 0 0 n 4096
  | .rs _ => if det then (List.range g.count).flatMap fun r => from_ r (g.rank * m) m 0 else from_ g.rank 0 m 4096
  | .all => (List.range g.count).flatMap fun r => from_ r 0 n 0
  | .bc root => from_ root 0 n 0

/-- The result elements of a member by logical index (07 R317). Under DET every member holds the same bits: the tree rounds under
the ovft of rank 0 (DESIGN CHOICE, log 64). -/
def CollOp.result (k : CollOp) (t : Ty) (det : Bool) (g : GroupEntry) (n : Nat) (l : List Arrival) :
    List (Nat × Nat) :=
  let of := fun (a : Arrival) (i : Nat) => (a.contrib[i]?).getD 0
  let ranked := (List.range g.count).filterMap fun r => l.find? fun a => a.rank == r
  let ovft := ((ranked.head?).map fun a => a.ovft.toNat).getD 0
  let combine := fun (op : GOp) (i : Nat) =>
    if det then combineTree op t ovft (ranked.map fun a => of a i)
    else combineArrivals op t (l.map fun a => (a.ovft.toNat, of a i))
  let m := n / max 1 g.count
  match k with
  | .red op => (List.range n).map fun e => (e, combine op e)
  | .rs op => (List.range m).map fun e => (e, combine op (g.rank * m + e))
  | .all => ranked.flatMap fun a => (List.range n).map fun e => (a.rank * n + e, of a e)
  | .bc root => match ranked.find? fun a => a.rank == root with
    | some a => (List.range n).map fun e => (e, of a e)
    | none => []

/-- Free values for result elements, when the members' tiles differ (07 R316; log 5). -/
def drawElems (t : Ty) : List (Nat × Nat) → M (List (Nat × Nat))
  | [] => pure []
  | (i, _) :: r => do
    let (w, s) := (← get).draw
    set s
    let rest ← drawElems t r
    pure ((i, w.toNat % 2 ^ Ty.bits t) :: rest)

/-- Do two members of a group of the launch pass one rank? Its collectives never complete (07 R315). -/
def Launch.sharedRank (l : Launch) (g : GroupEntry) : Bool :=
  decide (1 < (l.groups.filter fun kv => kv.2.exb == g.exb && kv.2.rank == g.rank && !kv.2.freed).length)

/-- Do any two entries of the group share a rank? -/
def Launch.ranksClash (l : Launch) (g : GroupEntry) : Bool :=
  l.groups.any fun kv => kv.2.exb == g.exb && !kv.2.freed && l.sharedRank kv.2

/-- The arrivals of a call. -/
def State.arrivalsAt (s : State) (serial : Word) (g : GroupEntry) : List Arrival :=
  s.la.arrivals.filter fun a => a.serial == serial && a.exb == g.exb && a.call == g.calls

/-- The member's contribution counts: its traffic first, then its arrival; the step is recorded (07 R316, R319). -/
def collArrive (c : Ctx) (k : CollOp) (t : Ty) (det : Bool) (idx : Nat) (l : Launch) (g : GroupEntry) (act : Nat → Bool)
    (x : Nat → Nat) : M Unit := do
  let h ← curHart
  release g.scope
  let (op, out) := k.outTraffic g det h.tileN (Ty.size t)
  exchangeSend c h t op x out
  let contrib := (List.range h.tileN).map fun i =>
    match k with
    | .red op => if act i then x i else RedOp.identity (GOp.red op) t
    | _ => x i
  modify fun s => s.setLa { s.la with
    arrivals := s.la.arrivals ++ [⟨l.serial, g.exb, g.calls, g.rank, k.shape h t, h.ovft, false, contrib, [], false⟩] }
  modify fun s => s.updLaunch l.serial fun l => { l with groups := l.groups.put idx { g with step := 1 } }

/-- Every member has arrived: gather, acquire, write (07 R316..R318). -/
def collFinish (c : Ctx) (hd : Hdr) (k : CollOp) (t : Ty) (d : VOp) (det : Bool) (idx : Nat) (l : Launch)
    (g : GroupEntry) (arr : List Arrival) : M Unit := do
  let h ← curHart
  exchangeGather c h t (k.inTraffic g det h.tileN (Ty.size t))
  let res := k.result t det g h.tileN arr
  let alike := arr.all fun a => a.shape == k.shape h t && !a.spoiled
  let res ← if alike then pure res else drawElems t res
  acquire g.scope
  let res := match k with
    | .red _ => res.filter fun iv => h.active hd iv.1
    | _ => res
  writeElems d t (max h.tileN (match k with
    | .all => g.count * h.tileN
    | _ => 0)) res
  modify fun s =>
    let mark := s.la.arrivals.map fun a =>
      if a.serial == l.serial && a.exb == g.exb && a.call == g.calls && a.rank == g.rank then { a with taken := true } else a
    let call := mark.filter fun a => a.serial == l.serial && a.exb == g.exb && a.call == g.calls
    let keep := if call.all (·.taken) then
        mark.filter fun a => !(a.serial == l.serial && a.exb == g.exb && a.call == g.calls)
      else mark
    (s.setLa { s.la with arrivals := keep }).updLaunch l.serial fun l =>
      { l with groups := l.groups.put idx { g with step := 0, calls := g.calls + 1 } }

/-- Free contributions of a member. -/
def drawList : Nat → M (List Nat)
  | 0 => pure []
  | n + 1 => do
    let (w, s) := (← get).draw
    set s
    return w.toNat :: (← drawList n)

/-- Members in other packages, of a pod launch's group of scope pod: a rank that has no entry in this package's group tables
arrives when a free value says so, with free contributions (DESIGN CHOICE, log 63: the spec gives their arrival no
message). -/
def remoteArrive (l : Launch) (g : GroupEntry) (shape : Nat × Nat × Ty × Nat × Nat) (n rank : Nat) : M Unit := do
  let s ← get
  let here := l.groups.any fun kv => kv.2.exb == g.exb && kv.2.rank == rank && !kv.2.freed
  if !l.info.pod || g.scope != 7 || here || (s.arrivalsAt l.serial g).any fun a => a.rank == rank then pure ()
  else
    let (w, s) := s.draw
    set s
    if w.getLsbD 0 then
      let contrib := (← drawList n).map fun x => x % 2 ^ Ty.bits shape.2.2.1
      let ovft ← drawList 1
      modify fun s => s.setLa { s.la with
        arrivals := s.la.arrivals ++ [⟨l.serial, g.exb, g.calls, rank, shape, BitVec.ofNat 20 (ovft.headD 0), false, contrib, [],
          true⟩] }
    else pure ()

/-- A collective of a member (07 R316). An empty group register traps PROT (log 13). -/
def bodyColl (hd : Hdr) (k : CollOp) (t : Ty) (d a : VOp) (gr : Fin 8) : M Unit := do
  let h ← curHart
  let reg := h.g.get gr.val ⟨0, 0, 0⟩
  let l ← ownLaunch
  let n := h.tileN
  let x ← readTile t a
  match l.groups.get? reg.idx.toNat with
  | none => trap causeProt 0
  | some g =>
    if reg.count = 0 then trap causeProt 0
    else
      let bad := match k with
        | .all => decide (4096 < g.count * n * Ty.size t)
        | .rs _ => n % max 1 g.count != 0
        | .red _ => false
        | .bc _ => false
      let root := match k with
        | .bc r => if g.count ≤ r then some r else none
        | _ => none
      if bad then trapIll
      else if let some r := root then trap causeProt (BitVec.ofNat 64 r)
      else
        let c ← hartCtx hd.ch (← curTag)
        let det := l.info.det || g.det
        if g.step = 0 then collArrive c k t det reg.idx.toNat l g (h.active hd) x
        let g := { g with step := 1 }
        forM' (List.range g.count) fun r => remoteArrive l g (k.shape h t) n r
        let arr := (← get).arrivalsAt l.serial g
        let whole := (List.range g.count).all fun r => arr.any fun a => a.rank == r
        if whole && !l.ranksClash g then collFinish c hd k t d det reg.idx.toNat l g arr
        else waitHere

/-- VGRED (07 R317). -/
def execVgred (h : Hdr) (op : GOp) (t : Ty) (d a : VOp) (c : Fin 8) (s : State) : Host.Outcome State Fault Refusal :=
  runJunction (.vgred h op t d a c) h (do
    awaitInputs (.vgred h op t d a c)
    bodyColl h (.red op) t d a c) s

/-- VGALL (07 R317). -/
def execVgall (h : Hdr) (t : Ty) (d a : VOp) (c : Fin 8) (s : State) : Host.Outcome State Fault Refusal :=
  runJunction (.vgall h t d a c) h (do
    awaitInputs (.vgall h t d a c)
    bodyColl h .all t d a c) s

/-- VGRS (07 R317). -/
def execVgrs (h : Hdr) (op : GOp) (t : Ty) (d a : VOp) (c : Fin 8) (s : State) : Host.Outcome State Fault Refusal :=
  runJunction (.vgrs h op t d a c) h (do
    awaitInputs (.vgrs h op t d a c)
    bodyColl h (.rs op) t d a c) s

/-- VGBC: the root's rank is the whole of x[B] (07 R317). -/
def execVgbc (h : Hdr) (t : Ty) (d a : VOp) (c : Fin 8) (b : XOp) (s : State) : Host.Outcome State Fault Refusal :=
  runJunction (.vgbc h t d a c b) h (do
    awaitInputs (.vgbc h t d a c b)
    let root ← readX b
    bodyColl h (.bc root.toNat) t d a c) s

end Sys2Proof.Machine
end

