-- ==== Sys2Proof/Machine/Sregs.lean ====
section
/-! DEFINITION. The status registers: what SRR reads, what SRW writes, and in which mode (02 R93, R94; 03 R122..R125;
04 R188; 05 R190..R192; 06 R243, R271, R283; 07 R312; 08 R337; 09 R388; 10 R412; 11 R455; 14 R555; 15 R579, R586,
R601). -/

namespace Sys2Proof.Machine

open Sys2Proof

/-- A sequencer register (05 R190). -/
def Stream.readSreg (st : Stream) (n : Nat) : Option Word :=
  match n with
  | 0x001 => some st.sstat
  | 0x010 => some st.tvec
  | 0x011 => some st.tpc
  | 0x012 => some st.tcause
  | 0x013 => some st.tval
  | 0x014 => some st.telem
  | 0x015 => some st.tlane
  | 0x016 => some st.tstat
  | 0x018 => some st.tscratch0
  | 0x019 => some st.tscratch1
  | 0x01A => some st.tscratch2
  | 0x01B => some st.tscratch3
  | 0x020 => some st.ls0
  | 0x021 => some st.le0
  | 0x022 => some st.lc0
  | 0x023 => some st.ls1
  | 0x024 => some st.le1
  | 0x025 => some st.lc1
  | 0x030 => some st.icount
  | _ => none

/-- A system-mode write of a sequencer register: sstat takes LE alone, tvec no value beyond the last instruction
(05 R190..R192). -/
def Stream.writeSreg (st : Stream) (n : Nat) (w : Word) : Stream :=
  match n with
  | 0x001 => { st with le := w.getLsbD 1 }
  | 0x010 => if Config.instrEnd ≤ w.toNat then st else { st with tvec := w }
  | 0x011 => { st with tpc := w }
  | 0x012 => { st with tcause := w }
  | 0x013 => { st with tval := w }
  | 0x014 => { st with telem := w }
  | 0x015 => { st with tlane := w }
  | 0x016 => { st with tstat := w }
  | 0x018 => { st with tscratch0 := w }
  | 0x019 => { st with tscratch1 := w }
  | 0x01A => { st with tscratch2 := w }
  | 0x01B => { st with tscratch3 := w }
  | 0x020 => { st with ls0 := w }
  | 0x021 => { st with le0 := w }
  | 0x022 => { st with lc0 := w }
  | 0x023 => { st with ls1 := w }
  | 0x024 => { st with le1 := w }
  | 0x025 => { st with lc1 := w }
  | _ => st

/-- carve (06 R243). -/
def State.carveReg (s : State) (slot : Nat) : Word :=
  let k := s.core (coreOf slot)
  let (rsv, spw) := match k.scratch? (s.hart slot).serial with
    | some x => (x.rsv, x.spw)
    | none => (0, 0)
  BitVec.ofNat 64 (spw + k.l1w * 2 ^ 6 + rsv * 2 ^ 12)

/-- flog (06 R271): DECL stands while a declined entry's PAGE trap is owed. -/
def Hart.flogReg (h : Hart) : Word :=
  let owed := fun (st : Stream) => st.deferred.any fun d => d.cause == causePage
  BitVec.ofNat 64 (h.sideLog.length + 64 * (h.sideLog.any fun e => e.fault.isSome).toNat
    + 128 * (owed h.sa || owed h.sx).toNat)

/-- A group register (07 R312). -/
def GroupReg.word (g : GroupReg) : Word :=
  BitVec.ofNat 64 (g.rank.toNat + g.count.toNat * 2 ^ 16 + g.idx.toNat * 2 ^ 32)

/-- ovquota (10 R412). -/
def State.quotaReg (s : State) (serial : Word) : Word :=
  let used := (s.ov.holder.filter fun kv => kv.2 == serial).length
  let quota := match s.launch? serial with
    | some l => l.info.tagq
    | none => 0
  BitVec.ofNat 64 (quota + used * 2 ^ 16)

/-- ovpool (10 R412). -/
def State.poolReg (s : State) (serial : Word) : Word :=
  BitVec.ofNat 64 (s.poolUsed serial % 2 ^ 32 + s.poolCap serial * 2 ^ 32)

/-- The rows of a hart on an array, and whether it is bound as a pair. -/
def MArray.rowsOf (a : MArray) (slot : Nat) : Option (Nat × Bool) :=
  (a.attached.find? fun t => t.1 == slot).map fun t => t.2

/-- The active bank of an array. -/
def MArray.activeBank (a : MArray) : Bank := if a.active then a.bank1 else a.bank0

/-- Does an accumulator of a hart's rows on an array carry the poison mark? -/
def MArray.rowsPoisoned (a : MArray) (slot : Nat) : Bool :=
  a.acc.any fun kv => kv.2.poison && kv.1 / 32768 == slot

/-- grant, mfmt and mstat: zero while the hart is not attached (11 R455). -/
def State.matrixReg (s : State) (slot n : Nat) : Word :=
  let own := clusterOf (coreOf slot)
  let a := s.array own
  match a.rowsOf slot with
  | none => 0
  | some (rows, pair) =>
    match n with
    | 0 => BitVec.ofNat 64 (rows + 256 * pair.toNat)
    | 1 => BitVec.ofNat 64 (a.activeBank.fmt.toNat % 2 ^ 13 + 2 ^ 13 * a.activeBank.valid.toNat + 2 ^ 16 * a.staging)
    | _ =>
      let b := s.array (partnerArray own)
      let pois := a.rowsPoisoned slot || (pair && b.rowsPoisoned slot)
      let busy := (a.queue.any fun c => c.hart == slot) || (b.queue.any fun c => c.hart == slot)
      BitVec.ofNat 64 ((s.hart slot).movf.toNat + 2 * busy.toNat + 4 * pois.toNat)

/-- clk (14 R555). -/
def State.clkReg (s : State) : Word :=
  BitVec.ofNat 64 (s.sv.point.val + 16 * (s.sv.lock.isSome && !s.sv.broken).toNat + 32 * s.sv.broken.toNat)

/-- svsocc (14 R555). -/
def Hart.svsoccReg (h : Hart) : Word :=
  BitVec.ofNat 64 (h.svOcc.toNat + 256 * h.svRd.toNat + 2 ^ 32 * h.svLost.toNat)

/-- dlc (15 R586). -/
def DcSys.dlcReg (d : DcSys) : Word := BitVec.ofNat 64 (d.lc.toNat + 8 * d.flc.toNat)

/-- A status register of a hart; none for a number without one. -/
def State.hartSreg (s : State) (slot : Nat) (isX : Bool) (n : Nat) : Option Word :=
  let h := s.hart slot
  let st := h.stream isX
  if n < 0x100 then st.readSreg n
  else if 0x140 ≤ n ∧ n < 0x180 then some ((h.vhw.get (n - 0x140) 0).setWidth 64)
  else if 0x210 ≤ n ∧ n < 0x218 then some ((h.g.get (n - 0x210) ⟨0, 0, 0⟩).word)
  else if 0x480 ≤ n ∧ n < 0x48E then
    some (match s.launch? h.serial with
      | some l => l.info.lvlReg h.index (n - 0x480)
      | none => 0)
  else match n with
    | 0x100 => some (h.vl.setWidth 64)
    | 0x101 => some (h.rc.setWidth 64)
    | 0x102 => some (h.vstart.setWidth 64)
    | 0x103 => some (h.allot.setWidth 64)
    | 0x104 => some (h.lanes.setWidth 64)
    | 0x105 => some (h.ovft.setWidth 64)
    | 0x106 => some (h.rmode.setWidth 64)
    | 0x107 => some h.srseed
    | 0x108 => some (BitVec.ofNat 64 h.mstack.length)
    | 0x109 => some h.vdirty
    | 0x10A => some (BitVec.ofNat 64 (st.stripNum.toNat + 2 ^ 63 * st.stripAct.toNat))
    | 0x10B => some (BitVec.ofNat 64 (st.stripEnd.toNat + 2 ^ 54 * st.stripLen.toNat))
    | 0x110 => some (rvstWord h.inflight)
    | 0x200 => some (s.carveReg slot)
    | 0x201 => some st.dval
    | 0x202 => some (st.dkind.setWidth 64)
    | 0x204 => some h.flogReg
    | 0x300 => some (h.ovt.setWidth 64)
    | 0x301 => some (s.quotaReg h.serial)
    | 0x302 => some (s.poolReg h.serial)
    | 0x380 => some (s.matrixReg slot 0)
    | 0x381 => some (s.matrixReg slot 1)
    | 0x382 => some (s.matrixReg slot 2)
    | 0x48E => some (match s.launch? h.serial with
      | some l => l.info.domReg
      | none => 0)
    | 0x48F => some (s.nameOf h.serial)
    | 0x4F0 => some (s.dc.ready.setWidth 64)
    | 0x500 => some s.sv.mtick
    | 0x501 => some (h.svN.setWidth 64)
    | 0x502 => some h.svBuf
    | 0x503 => some h.svsoccReg
    | 0x508 => some h.wva
    | 0x509 => some (h.wctl.setWidth 64)
    | 0x510 => some s.clkReg
    | 0x580 => some s.dc.dlcReg
    | 0x581 => some (s.dc.fuses.get 0 0)
    | 0x582 => some (s.dc.fuses.get 1 0)
    | _ => none

/-- A status register of the datum core (15 R579, R586). -/
def State.datumSreg (s : State) (n : Nat) : Option Word :=
  if n < 0x100 then s.dc.core.readSreg n
  else if 0x5A0 ≤ n ∧ n < 0x5C0 then
    some (((s.dc.meas.get ((n - 0x5A0) / 4) 0) >>> (64 * ((n - 0x5A0) % 4))).setWidth 64)
  else match n with
    | 0x4F0 => some (s.dc.ready.setWidth 64)
    | 0x500 => some s.sv.mtick
    | 0x580 => some s.dc.dlcReg
    | 0x581 => some (s.dc.fuses.get 0 0)
    | 0x582 => some (s.dc.fuses.get 1 0)
    | 0x583 => some (BitVec.ofNat 64 (s.dc.dunlk.toNat + 2 ^ 32 * s.dc.perm.toNat))
    | 0x584 => some s.dc.chal0
    | 0x585 => some s.dc.chal1
    | 0x586 => some (s.dc.dfwv.setWidth 64)
    | _ => none

/-- The status register that a party reads under a number (02 R93). -/
def State.sreg (s : State) : Party → Nat → Option Word
  | .datum, n => s.datumSreg n
  | .stream slot isX, n => s.hartSreg slot isX n

/-- What SRW of a hart's register does once its access is allowed; read-only fields ignore it (02 R93). -/
def State.hartSregWrite (s : State) (slot : Nat) (isX : Bool) (n : Nat) (w : Word) : State :=
  let h := s.hart slot
  let st := h.stream isX
  if n < 0x100 then s.setHart slot (h.setStream isX (st.writeSreg n w))
  else s.setHart slot (match n with
    | 0x100 => { h with vl := BitVec.ofNat 14 (max 1 (min w.toNat 8192)) }
    | 0x101 => { h with rc := BitVec.ofNat 5 (max 1 (min w.toNat 16)) }
    | 0x102 => { h with vstart := w.setWidth 13 }
    | 0x105 => { h with ovft := w.setWidth 20 }
    | 0x106 => if 6 ≤ w.toNat % 8 then h else { h with rmode := w.setWidth 3 }
    | 0x107 => { h with srseed := w }
    | 0x300 => { h with ovt := w.setWidth 16 }
    | 0x382 => if w.getLsbD 0 then { h with movf := false } else h
    | 0x508 => { h with wva := w }
    | 0x509 => { h with wctl := w.setWidth 3 }
    | _ => h)

/-- What SRW of a datum register does (15 R586). -/
def State.datumSregWrite (s : State) (n : Nat) (w : Word) : State :=
  if n < 0x100 then { s with dc := { s.dc with core := s.dc.core.writeSreg n w } }
  else match n with
    | 0x583 => if w.getLsbD 0 || w.getLsbD 1 || w.getLsbD 2 then s else s.abortUnlock
    | 0x584 => s.drawNonce
    | _ => s

/-- SRW by a party. -/
def State.sregWrite (s : State) : Party → Nat → Word → State
  | .datum, n, w => s.datumSregWrite n w
  | .stream slot isX, n, w => s.hartSregWrite slot isX n w

end Sys2Proof.Machine
end

