-- ==== Sys2Proof/Machine/Overlay.lean ====
section
/-! DEFINITION. Major 0x60: tags, their ends, loads through a tag word (10 R406..R432). -/

namespace Sys2Proof.Machine

open Sys2Proof

/-- Tags a launch holds (10 R408). -/
def State.tagsUsed (s : State) (serial : Word) : Nat := (s.ov.holder.filter fun kv => kv.2 == serial).length

/-- The lowest tag that no launch holds (10 R409). -/
def OvSys.freeTag (o : OvSys) : Option Nat :=
  ((List.range 4096).drop 1).find? fun n => (o.holder.get? n).isNone

/-- The launch takes a tag: its word (10 R409, R423). -/
def State.takeTag (s : State) (serial : Word) (n : Nat) : Word × State :=
  (BitVec.ofNat 64 (n * 16 + (s.ov.gens.get n 0).toNat), { s with ov := { s.ov with holder := s.ov.holder.put n serial } })

/-- A deferred trap for a stream, once (10 R428). -/
def Stream.defer (st : Stream) (d : Deferred) : Stream :=
  if st.deferred.contains d then st else { st with deferred := st.deferred ++ [d] }

/-- A tag's end reaches a hart's side log: entries under the tag word go; another hart's issuing streams are to trap
OVSTALE (10 R428). -/
def Hart.endTag (h : Hart) (tw : Word) (own : Bool) : Hart :=
  let gone := h.sideLog.filter fun e => e.tag == tw
  let h := { h with sideLog := h.sideLog.filter fun e => e.tag != tw }
  let d : Deferred := ⟨causeOvstale, tw, 0⟩
  if own then h
  else
    let h := if gone.any fun e => !e.isX then { h with sa := h.sa.defer d } else h
    if gone.any fun e => e.isX then { h with sx := h.sx.defer d } else h

/-- Streams of a hart that issued held round entries under an ended tag (10 R428). -/
def Hart.endRounds (h : Hart) (tw : Word) (a x : Bool) : Hart :=
  let d : Deferred := ⟨causeOvstale, tw, 0⟩
  let h := if a then { h with sa := h.sa.defer d } else h
  if x then { h with sx := h.sx.defer d } else h

/-- Commit one cell: its written bytes, one single-copy atomic store at home by a core; the core's later loads see it
(01 R36; 10 R425, R426). A poisoned cell that is written in part leaves the base poisoned (10 R415). -/
def State.commitCell (core : Nat) (s : State) (c : Cell) : State :=
  if c.written = 0 then s
  else
    let s := (s.homeStore (some (quadOf core)) c.serial c.va (64 * c.sector) c.written c.data).dropL1 core c.sector
    if c.poison && c.written != BitVec.allOnes 64 then s.setMem (s.mem.setPoison c.sector true) else s

/-- A tag ends: its log and round entries go, its cells are committed or discarded, its generation advances and it
becomes free; the number of its cells (10 R425, R428). `own` is the slot of the hart that ends it. -/
def State.endTag (s : State) (serial : Word) (n : Nat) (commit : Bool) (own : Option Nat) : Nat × State :=
  let gen := s.ov.gens.get n 0
  let tw := BitVec.ofNat 64 (n * 16 + gen.toNat)
  let rounds := s.mem.rounds.filter fun r => r.serial == serial && r.tag == tw
  let harts := s.harts.map fun kv =>
    if kv.2.serial != serial then kv
    else
      let mine := own = some kv.1
      let h := kv.2.endTag tw mine
      let has := fun (x : Bool) => !mine && rounds.any fun r => r.hartIndex == kv.2.index && r.isX == x
      (kv.1, h.endRounds tw (has false) (has true))
  let s := { s with harts, mem := { s.mem with rounds := s.mem.rounds.filter fun r => !(r.serial == serial && r.tag == tw) } }
  let has := fun (i : Nat) (x : Bool) => rounds.any fun r => r.hartIndex == i && r.isX == x
  let s := s.updLaunch serial fun l =>
    { l with gangs := l.gangs.map fun (g : Gang) => { g with saved := g.saved.map fun ih =>
        (ih.1, (ih.2.endTag tw false).endRounds tw (has ih.1 false) (has ih.1 true)) } }
  let cells := s.ov.cells.filter fun c => c.tag == n
  let s := if commit then cells.foldl (State.commitCell ((own.map coreOf).getD 0)) s else s
  let s := { s with ov := { s.ov with
    cells := s.ov.cells.filter fun c => c.tag != n
    holder := s.ov.holder.del n
    gens := s.ov.gens.put n (gen + 1) } }
  (cells.length, s)

/-! OVOPEN (10 R409, R423). -/

/-- OVOPEN without TRY waits in age order on the launch's quota. -/
def execOvopen (h : Hdr) (d : XOp) (s : State) : Host.Outcome State Fault Refusal :=
  runSeq (.ovopen h d) h (do
    let l ← ownLaunch
    needUnit 54
    let s ← get
    let me := (s.cur.slot, s.cur.isX)
    if l.info.tagq = 0 then trap causeProt 0
    else
      let ahead := (l.waiters.takeWhile (· != me)).length
      match if s.tagsUsed l.serial + ahead < l.info.tagq then s.ov.freeTag else none with
      | some n =>
        let (w, s) := s.takeTag l.serial n
        set (s.updLaunch l.serial fun l => { l with waiters := l.waiters.filter (· != me) })
        writeX d w
      | none =>
        if !l.waiters.contains me then set (s.setLaunch { l with waiters := l.waiters ++ [me] })
        waitHere) s

/-- OVOPEN with TRY: 0 when the quota is used up or promised to older waiters. -/
def execOvopenTry (h : Hdr) (d : XOp) (c : Fin 8) (s : State) : Host.Outcome State Fault Refusal :=
  runSeq (.ovopenTry h d c) h (do
    let l ← ownLaunch
    needUnit 54
    let s ← get
    match if s.tagsUsed l.serial + l.waiters.length < l.info.tagq then s.ov.freeTag else none with
    | some n =>
      let (w, s) := s.takeTag l.serial n
      set s
      writeX d w
      writeP c true
    | none =>
      writeX d 0
      writeP c false) s

/-- OVSET (10 R424). -/
def execOvset (h : Hdr) (a : XOp) (s : State) : Host.Outcome State Fault Refusal :=
  runSeq (.ovset h a) h (do
    let w ← readX a
    if (← get).tagLive (← curHart).serial w then modHart fun h => { h with ovt := w.setWidth 16 }
    else trap causeOvstale w) s

/-- The check of OVRETIRE and OVCOMMIT on their tag word (10 R425). -/
def endable (t : Word) : M Unit := do
  if t.toNat / 16 % 2 ^ 12 = 0 || !(← get).tagLive (← curHart).serial t then trap causeOvstale t else needUnit 54

/-- Does a logged store of the hart, not yet performed, write the base of a cell of a tag? The commit's store comes after
it (01 R36, 10 R426). -/
def State.baseLogged (s : State) (slot tag : Nat) : Bool :=
  (s.hart slot).sideLog.any fun e => (s.peekLeaf e.asid (64 * e.line)).any fun l =>
    s.ov.cells.any fun c => c.tag == tag && c.sector == l.phys (64 * e.line) / 64

/-- OVRETIRE (10 R425). -/
def execOvretire (h : Hdr) (d a : XOp) (s : State) : Host.Outcome State Fault Refusal :=
  runSeq (.ovretire h d a) h (do
    let t ← readX a
    endable t
    let (m, s) := (← get).endTag (← curHart).serial (t.toNat / 16) false (some (← curSlot))
    set s
    writeX d (BitVec.ofNat 64 m)) s

/-- OVCOMMIT: the hart's earlier stores perform before its writes (10 R425, R426). -/
def execOvcommit (h : Hdr) (sc : Scope) (d a : XOp) (s : State) : Host.Outcome State Fault Refusal :=
  runSeq (.ovcommit h sc d a) h (do
    let t ← readX a
    endable t
    release (Scope.rank sc)
    if (← curHart).sideLog.any fun e => e.tag == t then waitHere
    if (← get).baseLogged (← curSlot) (t.toNat / 16) then waitHere
    let core ← curCore
    drainGate core ((← get).core core).wcb.length
    endable t
    let (m, s) := (← get).endTag (← curHart).serial (t.toNat / 16) true (some (← curSlot))
    set s
    writeX d (BitVec.ofNat 64 m)) s

/-- A tag word that LDO and VLDO may read through (10 R427). -/
def liveWord (tw : Word) : M Unit := do
  if (← get).tagLive (← curHart).serial tw then pure () else trap causeOvstale tw

/-- LDO (10 R427). -/
def execLdo (h : Hdr) (t : Ty) (d a b : XOp) (disp : BitVec 32) (s : State) : Host.Outcome State Fault Refusal :=
  runSeq (.ldo h t d a b disp) h (vecRun h (Ty.width t) do
    let base ← readX a
    let tw ← readX b
    liveWord tw
    let ea := (base + disp.signExtend 64).toNat
    let n := Ty.size t
    if ea % n ≠ 0 then trap causeAlign (BitVec.ofNat 64 ea)
    else
      let v ← hartLoad (← hartCtx h.ch tw) ea n
      writeX d (extTy t v)) s

/-- VLDO (10 R427). -/
def execVldo (h : Hdr) (t : Ty) (d : VOp) (a b : XOp) (disp : BitVec 32) (s : State) : Host.Outcome State Fault Refusal :=
  runVec (.vldo h t d a b disp) h (do
    let base ← readX a
    let tw ← readX b
    liveWord tw
    let size := (vecShape (← curHart) t).size
    bodyLoad h t d tw fun i => ((base + disp.signExtend 64).toNat + i * size) % 2 ^ 64) s

/-- OVSTAT (10 R429). -/
def execOvstat (h : Hdr) (sel : Fin 3) (d a : XOp) (s : State) : Host.Outcome State Fault Refusal :=
  runSeq (.ovstat h sel d a) h (do
    let w ← readX a
    let s ← get
    let serial := (s.hart s.cur.slot).serial
    let n := w.toNat / 16 % 2 ^ 12
    let held := s.ov.holder.get? n == some serial
    let tag := if n = 0 then 2 ^ 16
      else n * 16 + (s.ov.gens.get n 0).toNat
        + (if held then 2 ^ 16 * (s.tagLive serial w).toNat + 2 ^ 32 * (s.ov.cells.filter fun c => c.tag == n).length
           else 0)
    writeX d (match sel with
      | 0 => BitVec.ofNat 64 tag
      | 1 => s.poolReg serial
      | 2 => s.quotaReg serial)) s

end Sys2Proof.Machine
end

