-- ==== Sys2Proof/Machine/MemInstr.lean ====
section
/-! DEFINITION. Major 0x68: CARVE, cache maintenance, TLBI, DIGEST, BUDGET (06 R287..R292). -/

namespace Sys2Proof.Machine

open Sys2Proof

/-- Is an address formed on a card's core in the window of a core? -/
def Card.inWindow (k : Card) (core va : Nat) : Bool :=
  match addrKind k.core va with
  | .scratch c _ => c == core
  | _ => false

/-- Does a card have a local-window region on a core: one of its footprint, or the arrival word of a stream copy
(06 R288, 07 R326)? -/
def Card.onCore (k : Card) (core : Nat) : Bool :=
  (k.regions.any fun r => r.acc != 0 && k.inWindow core r.base.toNat) || match k.job with
    | .stream b => bitOf (cardField b 80 4) 4 && k.inWindow core (cardField b 88 8)
    | _ => false

/-- A scratchpad of w ways: what leaves is discarded, what joins reads zero (06 R288). -/
def Scratch.resize (x : Scratch) (w : Nat) : Scratch :=
  let keep := fun (l : List Nat) => l.filter fun n => n < w * 1024
  { x with
    spw := w
    data := x.data.filter fun c => c.1 < w * 65536
    poison := keep x.poison
    written := keep x.written
    dirty := keep x.dirty }

/-- CARVE (06 R288). -/
def execCarve (h : Hdr) (d a : XOp) (s : State) : Host.Outcome State Fault Refusal :=
  runSeq (.carve h d a) h (do
    let n := (← readX a).toNat
    let core ← curCore
    let serial := (← curHart).serial
    release 2
    let s ← get
    if s.la.cards.any fun k => k.serial == serial && k.completed.isNone && k.onCore core then waitHere
    else
      let w := match (s.core core).scratch? serial with
        | some x => min n x.rsv
        | none => 0
      drainGate core (s.core core).wcb.length
      modify fun s => s.updScratch core serial fun x => x.resize w
      acquire 2
      writeX d (BitVec.ofNat 64 w)) s

/-! CCLEAN, CINV, CFLUSH (06 R289). -/

/-- What a maintenance instruction does to a line. -/
inductive Maint
  | clean | inval | flush
  deriving DecidableEq, Repr

/-- The addresses of the lines of `unit` bytes that a range touches, ascending (06 R289). -/
def maintLines (ea len unit : Nat) : List Nat :=
  if len = 0 then []
  else
    let first := alignDown ea unit
    (List.range ((ea - first + len + unit - 1) / unit)).map fun i => (first + unit * i) % 2 ^ 64

/-- The device sectors of a line: none where it has no user-accessible translation, or lies in a window, in a host or in a
remote page (06 R289). -/
def State.maintSectors (s : State) (c : Ctx) (unit va : Nat) : List Nat :=
  match s.peekLeaf c.asid va with
  | some l => if l.u && l.mt == 0 then (List.range (unit / 64)).map fun j => l.phys va / 64 + j else []
  | none => []

/-- A sector's line leaves L2: its border copies and every L1 copy go with it (06 R248, R289). -/
def State.dropSector (s : State) (sec : Nat) : State :=
  { s with
    mem := { s.mem with
      border := s.mem.border.filter fun b => b.sector != sec
      l2lines := s.mem.l2lines.filter fun x => x.2 != sec / 4 }
    cores := s.cores.map fun kv => (kv.1, { kv.2 with l1 := kv.2.l1.filter fun l => l.key != sec }) }

/-- One sector under a maintenance instruction. A sector that CINV discards loses the mark of its dirty copy with it
(06 R285). -/
def State.maintain (s : State) (core : Nat) (op : Maint) (l2 : Bool) (sec : Nat) : State :=
  let s := s.drainLine core sec
  let s := if op = .clean then s else s.dropL1 core sec
  if !l2 then s
  else
    match op with
    | .clean => s.setMem (s.mem.writeBack sec)
    | .inval => (s.setMem { s.mem with l2 := s.mem.l2.del sec }).dropSector sec
    | .flush => (s.setMem (s.mem.writeBack sec)).dropSector sec

/-- One line of a maintenance range: an address of no kind of 06 R251 traps PROT. -/
def maintLine (c : Ctx) (op : Maint) (l2 : Bool) (va : Nat) : M Unit := do
  if addrKind c.core va = .bad then trap causeProt (BitVec.ofNat 64 va)
  else modify fun s => (s.maintSectors c (if l2 then 256 else 64) va).foldl (fun s sec => s.maintain c.core op l2 sec) s

/-- The body of the three (06 R289): one line a turn, so that each line boundary is a pre-emption point; the stream's stage
counts the lines done, and a pre-empted instruction starts again. -/
def bodyMaint (hd : Hdr) (op : Maint) (l2 : Bool) (d : XOp) (m : MemOp) : M Unit := do
  let ea ← readEA m
  let len := (← readX d).toNat
  let c ← hartCtx hd.ch 0
  let done := (← curStream).stage
  match (maintLines ea len (if l2 then 256 else 64)).drop done with
  | [] => pure ()
  | va :: rest => do
    maintLine c op l2 va
    if rest.isEmpty then pure ()
    else
      modStream fun st => { st with stage := done + 1 }
      waitHere

/-- CCLEAN (06 R289). -/
def execCclean (h : Hdr) (l2 : Bool) (d : XOp) (m : MemOp) (s : State) : Host.Outcome State Fault Refusal :=
  runSeq (.cclean h l2 d m) h (bodyMaint h .clean l2 d m) s

/-- CINV (06 R289); with `.l2` a system instruction. -/
def execCinv (h : Hdr) (l2 : Bool) (d : XOp) (m : MemOp) (s : State) : Host.Outcome State Fault Refusal :=
  runSeq (.cinv h l2 d m) h (bodyMaint h .inval l2 d m) s

/-- CFLUSH (06 R289). -/
def execCflush (h : Hdr) (l2 : Bool) (d : XOp) (m : MemOp) (s : State) : Host.Outcome State Fault Refusal :=
  runSeq (.cflush h l2 d m) h (bodyMaint h .flush l2 d m) s

/-! TLBI (06 R290). -/

/-- Cached translations that an invalidation keeps. -/
def MemSys.invalidate (m : MemSys) (hit : Leaf → Bool) : MemSys := { m with tlbs := m.tlbs.filter fun e => !hit e.2 }

/-- TLBI: a release at scope pkg, then a wait for the walks that could use a removed entry (06 R290). -/
def bodyTlbi (walk : Walk → Bool) (hit : Leaf → Bool) : M Unit := do
  release 6
  if (← get).mem.walks.any walk then waitHere
  else modify fun s => s.setMem (s.mem.invalidate hit)

/-- TLBI.ALL (06 R290). -/
def execTlbiAll (h : Hdr) (s : State) : Host.Outcome State Fault Refusal :=
  runSeq (.tlbiAll h) h (bodyTlbi (fun _ => true) fun _ => true) s

/-- TLBI.ASID (06 R290). -/
def execTlbiAsid (h : Hdr) (a : XOp) (s : State) : Host.Outcome State Fault Refusal :=
  runSeq (.tlbiAsid h a) h (do
    let w ← readX a
    if 2 ^ 16 ≤ w.toNat then trapIll
    else bodyTlbi (fun k => k.asid == w.setWidth 16) fun l => l.asid == w.setWidth 16) s

/-- TLBI.RANGE: every page that meets [x[B], x[B] + x[C]) (06 R290). -/
def execTlbiRange (h : Hdr) (a b c : XOp) (s : State) : Host.Outcome State Fault Refusal :=
  runSeq (.tlbiRange h a b c) h (do
    let w ← readX a
    let lo := (← readX b).toNat
    let len := (← readX c).toNat
    if 2 ^ 16 ≤ w.toNat then trapIll
    else
      let meets := fun (va size : Nat) => decide (va < lo + len) && decide (lo < va + size) && decide (0 < len)
      -- a walk may use an entry of any page size (06 R254)
      bodyTlbi (fun k => k.asid == w.setWidth 16 && meets (alignDown k.va (2 ^ 30)) (2 ^ 30))
        fun l => l.asid == w.setWidth 16 && meets l.va l.size) s

/-! DIGEST and BUDGET (06 R279..R283, R291, R292). -/

/-- Leave the result of a DIGEST (06 R283, R291). -/
def leaveDigest (d : XOp) (v : Word) (kind : BitVec 3) : M Unit := do
  modStream fun st => { st with dval := v, dkind := kind }
  writeX d v

/-- DIGEST of a launch (06 R282, R291). -/
def execDigest (h : Hdr) (d a : XOp) (s : State) : Host.Outcome State Fault Refusal :=
  runSeq (.digest h d a) h (do
    let serial ← readX a
    let s ← get
    if (s.named? serial).isSome then waitHere
    else match s.mem.digests.find? fun e => e.1 == serial with
      | some (_, v, k) => leaveDigest d v k
      | none => leaveDigest d 0 0) s

/-- DIGEST of a range: the sum of the hashes of its sectors, read as plain loads (06 R280, R291). -/
def execDigestRng (h : Hdr) (d a b : XOp) (s : State) : Host.Outcome State Fault Refusal :=
  runSeq (.digestRng h d a b) h (do
    let va := (← readX a).toNat
    let len := (← readX b).toNat
    if va % 64 ≠ 0 then trap causeAlign (BitVec.ofNat 64 va)
    else if len % 64 ≠ 0 then trap causeAlign (BitVec.ofNat 64 len)
    else
      let c ← hartCtx 0 (← curTag)
      let parts ← mapM' (List.range (len / 64)) fun i => do
        let at_ := (va + 64 * i) % 2 ^ 64
        return sectorHash (BitVec.ofNat 64 at_) (BitVec.ofNat 512 (← hartLoadWide c at_ 64))
      leaveDigest d (parts.foldl (· + ·) 0) 4) s

/-- Number of a resource (06 R274). -/
def Res.num : Res → Nat
  | .hbm => 0
  | .l2 => 1
  | .border => 2
  | .ual => 3

/-- Capacity of a resource (06 R274). -/
def Res.capacity : Nat → Nat
  | 0 => 50000
  | 1 => 1500
  | 2 => 156250
  | _ => 1562

/-- A budget for the next period (06 R292). -/
def MemSys.setBudget (m : MemSys) (cls res : Nat) (v : Word) : MemSys :=
  { m with budgetNext := m.budgetNext.put (4 * cls + res) (BitVec.ofNat 64 (min v.toNat (Res.capacity res))) }

/-- BUDGET (06 R292). -/
def execBudget (h : Hdr) (d : XOp) (cls : Fin 16) (res : Res) (s : State) : Host.Outcome State Fault Refusal :=
  runSeq (.budget h d cls res) h (do writeX d ((← get).mem.budgetOf cls.val (Res.num res))) s

/-- BUDGET.W (06 R292). -/
def execBudgetW (h : Hdr) (d a : XOp) (cls : Fin 16) (res : Res) (s : State) : Host.Outcome State Fault Refusal :=
  runSeq (.budgetW h d a cls res) h (do
    let v ← readX a
    let old := (← get).mem.budgetOf cls.val (Res.num res)
    modify fun s => s.setMem (s.mem.setBudget cls.val (Res.num res) v)
    writeX d old) s

end Sys2Proof.Machine
end

