-- ==== Sys2Proof/Machine/MemEvents.lean ====
section
/-! DEFINITION. Events of the memory engine and of UALink: fault records and their answers, walks, the side log, the
buffers' limits, rounds, trains, remote requests, host requests, errors (06; 07 R305..R309, R619; 04 R182). -/

namespace Sys2Proof.Machine

open Sys2Proof

/-! Harts, resident and pre-empted. -/

/-- Change every hart: the resident ones by slot, and the saved ones. -/
def State.mapHarts (s : State) (f : Hart → Hart) : State :=
  let sub := fun (g : Gang) => { g with saved := g.saved.map fun ih => (ih.1, f ih.2) }
  { s with
    harts := s.harts.map fun kv => (kv.1, f kv.2)
    la := { s.la with launches := s.la.launches.map fun (l : Launch) => { l with gangs := l.gangs.map sub } } }

/-- The slot of a hart of a launch, the last one it had while it is pre-empted. -/
def State.slotNow (s : State) (serial : Word) (idx : Nat) : Nat :=
  match s.launch? serial with
  | none => 0
  | some l => ((l.gangs.flatMap fun g => g.slots).find? fun x => x.1 == idx).elim 0 fun x => x.2

/-! Fault records (06 R259..R263). -/

/-- The 256 bytes of a fault record (06 R261). -/
def FaultRec.bytes (f : FaultRec) (id : BitVec 32) : List Byte :=
  let n := (f.pages.take 12).length
  leBytes 1 f.kind ++ leBytes 1 (f.more.toNat + 2 * f.write.toNat + 4 * f.exec.toNat) ++ leBytes 2 f.core
    ++ leBytes 1 (f.hart + 4 * f.isX.toNat) ++ leBytes 1 n ++ leBytes 2 f.asid.toNat ++ leBytes 4 id.toNat
    ++ leBytes 4 0 ++ leBytes 8 f.va ++ leBytes 8 f.tick ++ leBytes 128 f.mask.toNat
    ++ ((f.pages.take 12).flatMap (leBytes 8)) ++ List.replicate (8 * (12 - n)) 0

/-- FAULT_RECORD_POST: the oldest unposted record of a quadrant enters its ring when the queue is enabled and has
space; a ring that was empty posts FAULT (06 R260, R261, R286). -/
def execFaultRecordPost (quad : Fin 4) (s : State) : Host.Outcome State Fault Refusal :=
  let q := s.faultQueue quad.val
  let n := logSize (fieldOf q.ctl.toNat 2 5)
  match s.mem.faults.find? fun f => f.quad == quad.val && f.id.isNone with
  | none => .next s
  | some f =>
    if !q.ctl.getLsbD 0 || decide (n ≤ (q.wptr - q.rptr).toNat) then .next s
    else
      let addr := q.base.toNat + 256 * (q.wptr.toNat % n)
      let bytes := f.bytes q.nextId
      let empty := q.wptr == q.rptr
      let s := s.setMem { s.mem with
        faults := s.mem.faults.map fun g => if g.num == f.num then { g with id := some q.nextId } else g
        fq := s.mem.fq.put quad.val { q with wptr := q.wptr + 1, nextId := q.nextId + 1 } }
      let s := s.recordOut (q.ctl.getLsbD 1) addr bytes
      .next (if empty then s.postFault quad.val 17 0 0 [] else s)

/-- The posted record that a response names. -/
def State.faultById (s : State) (quad : Nat) (id : BitVec 32) : Option FaultRec :=
  s.mem.faults.find? fun f => f.quad == quad && f.id == some id

/-- FQRESP RETRY: every access waiting on the record translates again: walks start for streams, jobs and host requests,
and logged entries may perform (06 R263, R268). -/
def execFqrespRetry (quad : Fin 4) (id : BitVec 32) (s : State) : Host.Outcome State Fault Refusal :=
  match s.faultById quad.val id with
  | none => .next s
  | some f =>
    let walks := f.waiters.filterMap fun (a, va, _, _) => match a with
      | .sideLog _ _ => none
      | a => some (⟨a, f.asid, va⟩ : Walk)
    let s := s.setMem { s.mem with
      faults := s.mem.faults.filter fun g => g.num != f.num
      walks := s.mem.walks ++ walks }
    .next ((s.setMem s.mem.dropStale).mapHarts fun h =>
      { h with sideLog := h.sideLog.map fun e => if e.fault = some f.num then { e with fault := none, since := s.tick } else e })

/-- The instruction in hand, if it is the one of a serial, enters nothing more in the log (06 R270). -/
def Stream.dropEntries (st : Stream) (serial : Nat) : Stream :=
  if st.logSerial = some (serial, false) then { st with logSerial := some (serial, true) } else st

/-- A declined record reaches a hart's log: the entry and every later one of its instruction go; the issuing stream is
to trap (06 R270). -/
def Hart.declineLog (h : Hart) (num cause : Nat) : Hart :=
  h.sideLog.foldl (fun (h : Hart) e =>
    if e.fault = some num && h.sideLog.any fun x => x.id == e.id then
      let h := { h with sideLog := h.sideLog.filter fun x => !(x.serial == e.serial && decide (e.id ≤ x.id)) }
      h.setStream e.isX (((h.stream e.isX).dropEntries e.serial).defer ⟨cause, BitVec.ofNat 64 e.va, 0⟩)
    else h) h

/-- Answer of a host request that cannot be served: an error to a DRD, nothing to a DWR; HOSTFAULT (06 R263). -/
def State.hostFail (s : State) (r : HostReq) : State :=
  let s := s.setMem { s.mem with hostReqs := s.mem.hostReqs.filter fun q => q.id != r.id }
  let s := if r.data.isNone then { s with hostOut := s.hostOut ++ [.cpl r.id false []] } else s
  s.postFault r.quad 28 0 0 (leBytes 8 r.va ++ leBytes 2 r.asid.toNat)

/-- FQRESP DECLINE: the waiting accesses trap PAGE, or OVPOOL where they met a pool fault; jobs stop; logged entries go; host
requests fail (06 R263, 10 R420). -/
def execFqrespDecline (quad : Fin 4) (id : BitVec 32) (s : State) : Host.Outcome State Fault Refusal :=
  match s.faultById quad.val id with
  | none => .next s
  | some f =>
    let s := s.setMem { s.mem with faults := s.mem.faults.filter fun g => g.num != f.num }
    let s := s.mapHarts fun h => h.declineLog f.num causePage
    .next (f.waiters.foldl (fun (s : State) w =>
      match w with
      | (.stream p, va, elem, pool) =>
        let st := s.stream p
        let cause := if pool then causeOvpool else causePage
        if st.faultWait = some f.num then
          s.setStream p { st with
            faultWait := none, declined := some ⟨cause, BitVec.ofNat 64 va, BitVec.ofNat 64 elem⟩ }
        else s
      | (.job serial seq, va, _, pool) => match s.card? serial seq with
        | some k => if k.faultWait = some f.num then
            (s.stopCard k (if pool then causeOvpool else causePage) (BitVec.ofNat 64 va) 0).updCard serial seq fun k =>
              { k with faultWait := none }
          else s
        | none => s
      | (.host id, _, _, _) => match s.mem.hostReqs.find? fun r => r.id == id with
        | some r => s.hostFail r
        | none => s
      | (.sideLog _ _, _, _, _) => s) s)

/-! Host requests (04 R182, 06 R259, R263). -/

/-- The context of a host request: class 15, system access (06 R273). -/
def HostReq.ctx (r : HostReq) : Ctx :=
  { agent := .host r.id, asid := r.asid, user := false, core := 0, quad := r.quad, serial := 0, tag := 0, hint := 0
    tlbs := [.quad r.quad], cls := 15, cached := false, elem := 0 }

/-- Translate the lines of a host request: physical addresses of its lines. Only device memory serves it. -/
def hostLines (r : HostReq) (n : Nat) : M (List Nat) := do
  let c := r.ctx
  mapM' (List.range ((r.va % 64 + n + 63) / 64)) fun i => do
    let va := if i = 0 then r.va else alignDown r.va 64 + 64 * i
    match addrKind 0 va with
    | .global =>
      let l ← translate c va (if r.data.isNone then .load else .store)
      budgetGate c l va
      if l.mt = 0 then pure (l.phys va) else trap causeProt (BitVec.ofNat 64 va)
    | _ => trap causeProt (BitVec.ofNat 64 va)

/-- Bytes of a request that lie in its i-th line: offset in the data, and count. -/
def HostReq.part (r : HostReq) (n i : Nat) : Nat × Nat :=
  let o := if i = 0 then 0 else 64 * i - r.va % 64
  (o, min (n - o) (if i = 0 then 64 - r.va % 64 else 64))

/-- Serve a host request: it is answered, waits on a fault record, or fails. -/
def State.serveHost (s : State) (r : HostReq) : State :=
  let n := match r.data with
    | some bs => bs.length
    | none => r.len
  match hostLines r n s with
  | .ok pas s =>
    let s := s.setMem { s.mem with hostReqs := s.mem.hostReqs.filter fun q => q.id != r.id }
    match r.data with
    | none =>
      let bytes := (pas.zipIdx.map fun (pa, i) => s.mem.homeBytes pa (r.part n i).2).flatten
      let ok := !(pas.any fun pa => s.mem.poisoned (pa / 64))
      { s with hostOut := s.hostOut ++ [.cpl r.id ok (if ok then bytes else [])] }
    | some bs =>
      pas.zipIdx.foldl (fun s (pa, i) =>
        let (o, m) := r.part n i
        let part := (bs.drop o).take m
        s.homeWriteBytes pa part) s
  | .error (.tfault va bad k _) s =>
    let (s, num) := s.raiseFault r.ctx (if bad then 5 else 8) k va 0 (onePage va) false
    s.setMem { s.mem with hostReqs := s.mem.hostReqs.map fun q => if q.id == r.id then { q with fault := some num } else q }
  | .error .wait s => s
  | .error _ s => s.hostFail r

/-- Is a request held behind an earlier one to the same address? (06 R259) -/
def heldBehind (l : List HostReq) (r : HostReq) : Bool :=
  (l.takeWhile fun q => q.id != r.id).any fun q =>
    q.asid == r.asid && decide (q.va < r.va + 256) && decide (r.va < q.va + 256)

/-- Serve, in order, the host requests that wait for nothing. -/
def State.serveHosts (s : State) : State :=
  s.mem.hostReqs.foldl (fun s r =>
    match s.mem.hostReqs.find? fun q => q.id == r.id with
    | some q => if q.fault.isSome || heldBehind s.mem.hostReqs q then s else s.serveHost q
    | none => s) s

/-- A host request arrives. -/
def State.hostRequest (s : State) (quad : Nat) (asid : BitVec 16) (va len : Nat) (data : Option (List Byte)) : State :=
  let r : HostReq := ⟨s.nextId, quad, asid, va, len, data, none⟩
  let s := { s with nextId := s.nextId + 1, mem := { s.mem with hostReqs := s.mem.hostReqs ++ [r] } }
  s.serveHosts

/-- HOST_DRD: 64 to 256 bytes of device memory (04 R182). -/
def execHostDrd (quad : Fin 4) (asid : BitVec 16) (va : Word) (len : Nat) (s : State) :
    Host.Outcome State Fault Refusal :=
  .next (s.hostRequest quad.val asid va.toNat len none)

/-- HOST_DWR (04 R182). -/
def execHostDwr (quad : Fin 4) (asid : BitVec 16) (va : Word) (data : List Byte) (s : State) :
    Host.Outcome State Fault Refusal :=
  .next (s.hostRequest quad.val asid va.toNat data.length (some data))

/-! Walks (06 R258). -/

/-- TLBs that a walk of an agent fills. -/
def State.agentTlbs (s : State) : Agent → List TlbId
  | .stream p => [.core (coreOf p.slot), .quad (quadOf (coreOf p.slot))]
  | .sideLog slot _ => [.core (coreOf slot), .quad (quadOf (coreOf slot))]
  | .job serial seq => match s.card? serial seq with
    | some k => if 3 ≤ Job.kind k.job then [] else [.quad (quadOf k.core)]
    | none => []
  | .host id => match s.mem.hostReqs.find? fun r => r.id == id with
    | some r => [.quad r.quad]
    | none => []

/-- PAGE_WALK_DONE: the oldest walk ends; a valid leaf enters the TLBs, and the waiting access goes on: it finds the
translation or raises its fault anew (06 R254..R259, R263). -/
def execPageWalkDone (s : State) : Host.Outcome State Fault Refusal :=
  match s.mem.walks with
  | [] => .next s
  | w :: rest =>
    let tlbs := match s.mem.walk w.asid w.va with
      | .leaf l => (s.agentTlbs w.agent).foldl (fun t id => tlbInsert t id l) s.mem.tlbs
      | .invalid => s.mem.tlbs
      | .bad => s.mem.tlbs
    let s := s.setMem { s.mem with walks := rest, tlbs }
    .next (match w.agent with
      | .stream p => s.setStream p { s.stream p with faultWait := none }
      | .sideLog _ _ => s
      | .job serial seq => s.updCard serial seq fun k => { k with faultWait := none }
      | .host id => (s.setMem { s.mem with hostReqs := s.mem.hostReqs.map fun r =>
          if r.id == id then { r with fault := none } else r }).serveHosts)

/-! The side log (06 R264..R272). -/

/-- The context of a logged entry's access (06 R264, R273). -/
def State.logCtx (s : State) (slot : Nat) (e : SideEntry) : Ctx :=
  let core := coreOf slot
  { agent := .sideLog slot e.id, asid := e.asid, user := e.user, core, quad := quadOf core
    serial := (s.hart slot).serial, tag := e.tag, hint := 0, tlbs := [.core core, .quad (quadOf core)]
    cls := match s.launchOf slot with
      | some l => l.info.bclass
      | none => 15
    cached := false, elem := e.elem }

/-- Contiguous runs of a byte mask: first byte and length. -/
def maskRuns (m : BitVec 64) : List (Nat × Nat) :=
  ((List.range 64).foldl (fun (acc : List (Nat × Nat)) i =>
    if !m.getLsbD i then acc
    else match acc with
      | (o, n) :: r => if o + n = i then (o, n + 1) :: r else (i, 1) :: acc
      | [] => [(i, 1)]) []).reverse

/-- Send a train of one hart outside an instruction's own issue. -/
def State.sendTrainOf (s : State) (serial : Word) (idx : Nat) (isX : Bool) (rpkg : Nat) (add : Bool) (ty : Ty) (va elem : Nat)
    (elems : List (Nat × Nat × Word)) (round : Option Bool) : State :=
  let t : Train := ⟨Config.packageRank, add, s.nextTrain, ty, s.slotNow serial idx, elems, elems.length⟩
  let st : TrainSt := ⟨s.nextTrain, isX, rpkg, va, elem, [va / 64], t, false, false, round⟩
  let s := { s with nextTrain := s.nextTrain + 1, linkOut := s.linkOut ++ [LinkMsg.train rpkg t] }
  s.mapHarts fun h =>
    if h.serial == serial && h.index == idx && !h.shadow then { h with trains := h.trains ++ [st] } else h

/-- The elements of a logged scatter-add: offset in the line and addend. -/
def SideEntry.addends (e : SideEntry) (t : Ty) : List (Nat × Nat) :=
  let n := Ty.size t
  ((List.range (64 / n)).filter fun i => e.mask.getLsbD (n * i)).map fun i => (n * i, Line.read e.data (n * i) n)

/-- An element of the hart's oldest entry has performed: an entry that waits in its midst keeps the others. -/
def State.doneElem (s : State) (slot o n : Nat) : State :=
  let h := s.hart slot
  match h.sideLog with
  | e :: rest => s.setHart slot { h with sideLog := { e with mask := e.mask &&& ~~~(byteMask o n) } :: rest }
  | [] => s

/-- Perform one logged entry (06 R268): a store merges its bytes at home; a scatter-add adds there, or under DET joins
its round. -/
def performEntry (slot : Nat) (e : SideEntry) : M Unit := do
  let s0 ← get
  let c := s0.logCtx slot e
  let va := 64 * e.line
  let l ← translate c va (if e.addTy.isSome then .atom else .store)
  budgetGate c l va
  let pa := l.phys va
  match e.addTy with
  | none =>
    if l.mt = 1 then
      modify fun s => (maskRuns e.mask).foldl (fun (s : State) (o, n) =>
        s.hostWrite (pa + o) (((Line.bytes e.data).drop o).take n)) s
    else if l.mt = 2 then
      modify fun s => (s.sendTrainOf c.serial (s0.hart slot).index e.isX l.rpkg false .n8 e.va e.elem ((maskRuns e.mask).flatMap fun (o, n) =>
        (List.range n).map fun i => (pa + o + i, 1, BitVec.ofNat 64 (Line.read e.data (o + i) 1))) none).noteWrite
        c.serial va (pa + (l.rpkg + 1) * 2 ^ 48)
    else if (← tagged c l) then
      let k ← materialise c l va
      modify fun s => (s.putCell (k.store e.mask e.data)).wakeLine (pa / 64)
    else
      drainGate c.core ((s0.core c.core).wcbThrough fun x => x.line == pa / 64)
      modify fun s => (if e.through then s.homeThrough (some c.quad) c.serial va pa e.mask e.data
        else s.homeStore (some c.quad) c.serial va pa e.mask e.data).dropL1 c.core (pa / 64)
  | some t =>
    if l.mt = 1 then trap causeProt (BitVec.ofNat 64 e.va)
    else if let some r := e.round then
      let _ ← tagged c l
      let idx := (s0.hart slot).index
      let log := match s0.launchOf slot with
        | some la => la.info.logicalCore idx
        | none => idx
      forM' (e.addends t) fun (o, v) => do
        let s ← get
        if s.poolCap c.serial ≤ s.poolUsed c.serial then throw (.pool e.va e.elem)
        set ((s.setMem { s.mem with
          rounds := s.mem.rounds ++ [{
            serial := c.serial, hartIndex := idx, logCore := log, isX := e.isX, round := r, order := e.serial
            elem := e.elem, va := va + o, pa := pa + o, rpkg := if l.mt = 2 then some l.rpkg else none
            ty := t, data := BitVec.ofNat 64 v, tag := e.tag, ovft := e.ovft }] }).doneElem slot o (Ty.size t))
    else if l.mt = 2 then
      modify fun s => (s.sendTrainOf c.serial (s0.hart slot).index e.isX l.rpkg true t e.va e.elem ((e.addends t).map fun (o, v) =>
        (pa + o, Ty.size t, BitVec.ofNat 64 v)) none).noteWrite c.serial va (pa + (l.rpkg + 1) * 2 ^ 48)
    else if (← tagged c l) then
      let k ← materialise c l va
      modify fun s => (s.putCell ((e.addends t).foldl (fun k (o, v) =>
        let n := Ty.size t
        k.store (byteMask o n) (Line.write 0 o n (addValue t e.ovft.toNat (Line.read k.data o n) v))) k)).wakeLine (pa / 64)
    else
      drainGate c.core ((s0.core c.core).wcbThrough fun x => x.line == pa / 64)
      forM' (e.addends t) fun (o, v) => do
        replayFrom (.stream slot e.isX) c.asid (pa / 64)
        modify fun s => ((s.addHome (some c.quad) c.serial (va + o) (pa + o) t e.ovft.toNat v).dropNear c.core
          (pa / 64)).doneElem slot o (Ty.size t)

/-- SIDE_LOG_PERFORM: the hart's oldest entry performs when it waits on no record; a fault raises a record anew, a
denying leaf or a stale tag discards it as a DECLINE does (06 R268, R270; log 15). -/
def execSideLogPerform (hart : Nat) (s : State) : Host.Outcome State Fault Refusal :=
  match (s.hart hart).sideLog with
  | [] => .next s
  | e :: rest =>
    if e.fault.isSome then .next s
    else
      let refault := fun (s : State) (kind : Nat) (va : Nat) =>
        let (s, num) := s.raiseFault (s.logCtx hart e) kind .store va 0 (onePage va) false
        s.setHart hart { s.hart hart with sideLog := ((s.hart hart).sideLog.take 1).map (fun x => { x with fault := some num }) ++ rest }
      match performEntry hart e s with
      | .ok _ s => .next (s.setHart hart { s.hart hart with sideLog := rest })
      | .error (.tfault va bad _ _) s => .next (refault s (if bad then 5 else 2) va)
      | .error (.pool va _) s => .next (refault s 7 va)
      | .error (.trap cause tval) s =>
        let h := s.hart hart
        .next (s.setHart hart (({ h with sideLog := rest.filter fun x => x.serial != e.serial }).setStream e.isX
          (((h.stream e.isX).dropEntries e.serial).defer ⟨cause, tval, 0⟩)))
      | .error _ s => .next s

/-- The logged entries of a hart perform that have been free to for the bound of 06 R278, unless a budget holds them. -/
def State.performDue (hart : Nat) : Nat → State → State
  | 0, s => s
  | n + 1, s => match (s.hart hart).sideLog with
    | [] => s
    | e :: _ =>
      if e.fault.isNone && decide (e.since + Config.sideTicks ≤ s.tick) then
        match execSideLogPerform hart s with
        | .next s => State.performDue hart n s
        | .fault _ => s
        | .refused _ => s
      else s

/-- Does a stream stand at an instruction boundary, or at a wait of 06 R266 or R269, where the instruction in hand has
performed nothing (06 R270, 10 R428)? -/
def Stream.atBoundary (st : Stream) : Bool := st.barWait.isNone && !st.midAccess && st.faultWait.isNone

/-- A stream no longer waits for an overlay tag (10 R409). -/
def State.leaveTagQueue (s : State) (p : Party) : State :=
  match p with
  | .datum => s
  | .stream slot isX =>
    s.updLaunch (s.hart slot).serial fun l => { l with waiters := l.waiters.filter fun w => w != (slot, isX) }

/-- The instruction in hand of a stream is abandoned: its entry in the vector issue order goes. -/
def State.dropInHand (s : State) (p : Party) : State :=
  match p with
  | .datum => s
  | .stream slot isX =>
    if (s.hart slot).inflight.isEmpty then s else s.setHart slot ((s.hart slot).dropEntry isX)

/-- A deferred trap of a cause is taken at an instruction boundary of its stream (06 R270, 10 R428, 07 R309): tpc
names the instruction about to issue, a WAIT ends. -/
def State.takeDeferred (s : State) (p : Party) (cause : Nat) : State :=
  match s.stream? p with
  | none => s
  | some st =>
    let held := match p with
      | .datum => false
      | .stream slot isX => (s.hart slot).held == some isX
    match st.deferred.find? fun d => d.cause == cause with
    | none => s
    | some d =>
      if held || !st.live || !st.atBoundary then s
      else
        let s := (s.leaveTagQueue p).dropInHand p
        (s.setStream p { st with deferred := st.deferred.erase d }).enterTrap p cause d.tval st.pc d.telem noLane

/-- SIDE_LOG_PAGE_TRAP (06 R270). -/
def execSideLogPageTrap (p : Party) (s : State) : Host.Outcome State Fault Refusal := .next (s.takeDeferred p causePage)

/-- TAG_END_OVSTALE_TRAP (10 R428). -/
def execTagEndOvstaleTrap (p : Party) (s : State) : Host.Outcome State Fault Refusal :=
  .next (s.takeDeferred p causeOvstale)

/-- ROUND_PROT_TRAP (07 R309). -/
def execRoundProtTrap (p : Party) (s : State) : Host.Outcome State Fault Refusal := .next (s.takeDeferred p causeProt)

/-! Buffers and copies (06 R245, R246, R248). -/

/-- WCB_DRAIN_TIMEOUT: the oldest entry of a core's write-combining buffer drains (06 R246). -/
def execWcbDrainTimeout (core : Nat) (s : State) : Host.Outcome State Fault Refusal := .next (s.drainSome core (s.drainable core 1))

/-- L1_LEASE_EXPIRE: the lines of a core's L1 filled longest ago are invalidated (06 R245). -/
def execL1LeaseExpire (core : Nat) (s : State) : Host.Outcome State Fault Refusal :=
  let k := s.core core
  match (k.l1.map (·.tick)).min? with
  | none => .next s
  | some t => .next (s.setCore core { k with l1 := k.l1.filter fun l => l.tick != t })

/-- BORDER_COPY_INVALIDATE: a stale border copy goes, and with it the L1 lines of its quadrant (06 R248). -/
def execBorderCopyInvalidate (quad : Fin 4) (sector : Nat) (s : State) : Host.Outcome State Fault Refusal :=
  let gone := fun (b : BorderCopy) => b.quad == quad.val && b.sector == sector && b.stale.isSome
  if s.mem.border.any gone then
    let s := s.setMem { s.mem with border := s.mem.border.filter fun b => !gone b }
    .next { s with cores := s.cores.map fun kv =>
      (kv.1, if quadOf kv.1 = quad.val then { kv.2 with l1 := kv.2.l1.filter fun l => l.key != sector } else kv.2) }
  else .next s

/-- One launch's ten energy counters rise by free amounts: the part's own estimates (14 R562; log 5). -/
def Launch.drawEnergy (n : Nat) (l : Launch) : Launch :=
  { l with energy := (List.range 10).foldl (fun e c => e.put c (e.get c 0 + Config.freeWord (n + c))) l.energy }

/-- The energy counters of the launches from a draw on: those that have been placed and have not ended (14 R562). -/
def energyFrom : Nat → List Launch → List Launch
  | _, [] => []
  | n, l :: r =>
    if l.phase != .done && l.gangs.any fun g => g.st != .unplaced then l.drawEnergy n :: energyFrom (n + 10) r
    else l :: energyFrom (n + 10) r

/-- The energy counters are updated (14 R562). -/
def State.energyUpdate (s : State) : State :=
  { s.setLa { s.la with launches := energyFrom s.fresh s.la.launches } with
    fresh := s.fresh + 10 * s.la.launches.length }

/-- A period begins: pending budgets take effect, held host requests are tried again, the energy counters are updated
(06 R274, R275, R292; 14 R562). -/
def State.startPeriod (s : State) : State :=
  (s.energyUpdate.setMem { s.mem with
    budget := s.mem.budgetNext.foldl (fun b kv => b.put kv.1 kv.2) s.mem.budget, budgetNext := [] }).serveHosts

/-- BUDGET_PERIOD: at a meridian tick that is a multiple of 1,000 (06 R274). -/
def execBudgetPeriod (s : State) : Host.Outcome State Fault Refusal :=
  .next (if s.tick % 1000 = 0 then s.startPeriod else s)

/-! Rounds (07 R308, R309). -/

/-- Has every hart of a launch in this package passed its n-th drain point or halted, with its logged entries of the
round replayed? -/
def State.roundReady (s : State) (l : Launch) (n : Nat) : Bool :=
  let done := fun (h : Hart) => (decide (n ≤ h.drains) || (!h.sa.live && !h.sx.live))
    && !(h.sideLog.any fun e => e.round == some n)
  l.gangs.all fun g => match g.st with
    | .resident => g.slots.all fun hs => match s.hart? hs.2 with
      | some h => h.serial != l.serial || done h
      | none => true
    | .preempted => g.saved.all fun ih => done ih.2
    | .done => true
    | .unplaced => false

/-- A round entry that comes before another in 07 R309's order. -/
def RoundEntry.before (a b : RoundEntry) : Bool :=
  decide (a.logCore < b.logCore) || (a.logCore == b.logCore && (decide (a.hartIndex < b.hartIndex)
    || (a.hartIndex == b.hartIndex && (decide (a.order < b.order) || (a.order == b.order && decide (a.elem < b.elem))))))

/-- Insertion into the order. -/
def RoundEntry.insert (a : RoundEntry) : List RoundEntry → List RoundEntry
  | [] => [a]
  | b :: l => if a.before b then a :: b :: l else b :: RoundEntry.insert a l

/-- One entry applies: at its cell, at the home bank, or as a train of its own to another package (07 R309). -/
def State.applyEntry (s : State) (e : RoundEntry) : State :=
  let n := Ty.size e.ty
  let sec := e.pa / 64
  match e.rpkg with
  | some pkg => (s.sendTrainOf e.serial e.hartIndex e.isX pkg true e.ty e.va 0 [(e.pa, n, e.data)] (some e.isX)).noteWrite e.serial e.va
      (e.pa + (pkg + 1) * 2 ^ 48)
  | none =>
    if e.tag ≠ 0 then
      let tag := e.tag.toNat / 16
      let (k, s) := match s.cell? tag sec with
        | some k => (k, s)
        | none =>
          let k : Cell := ⟨tag, e.serial, sec, alignDown e.va 64, s.mem.sector sec, 0, s.mem.poisoned sec⟩
          (k, { s with ov := { s.ov with cells := s.ov.cells ++ [k] } })
      let v := addValue e.ty e.ovft.toNat (Line.read k.data (e.pa % 64) n) e.data.toNat
      (s.putCell (k.store (byteMask (e.pa % 64) n) (Line.write 0 (e.pa % 64) n v))).wakeLine sec
    else
      let core := coreOf (s.slotNow e.serial e.hartIndex)
      (s.addHome (some (quadOf core)) e.serial e.va e.pa e.ty e.ovft.toNat e.data.toNat).dropNear core sec

/-- Log or hold a round entry's add, whose source is the stream that issued it, wherever its hart is (14 R568). -/
def State.replayEntry (s : State) (e : RoundEntry) : Option State :=
  let own := fun (h : Hart) => h.serial == e.serial && h.index == e.hartIndex && !h.shadow
  let all := s.harts.map Prod.snd ++ s.la.launches.flatMap fun l => l.gangs.flatMap fun g => g.saved.map Prod.snd
  let st := ((all.find? own).map fun h => h.stream e.isX).getD Stream.blank
  (s.replayInput (atomInput (.stream (s.slotNow e.serial e.hartIndex) e.isX) (e.pa / 64) st.atoms)).map fun s =>
    s.mapHarts fun h => if own h then h.setStream e.isX { h.stream e.isX with atoms := st.atoms + 1 } else h

/-- Entries apply in order, up to one that the replay log holds when `log` says that it concerns them. -/
def State.applyRound (log : Bool) (s : State) : List RoundEntry → State × List RoundEntry
  | [] => (s, [])
  | e :: r =>
    if log && e.rpkg.isNone && e.tag == 0 then
      match s.replayEntry e with
      | none => (s, e :: r)
      | some s => (s.applyEntry e).applyRound log r
    else (s.applyEntry e).applyRound log r

/-- ROUND_APPLY: the next round of a DET launch (07 R309). For a POD launch the event stands for the packages'
agreement on the round. An entry on an O page under tag 0 reaches the base. -/
def execRoundApply (serial : Word) (s : State) : Host.Outcome State Fault Refusal :=
  match s.launch? serial with
  | none => .next s
  | some l =>
    let n := l.rounds + 1
    if l.info.det && s.roundReady l n then
      let mine := s.mem.rounds.filter fun e => e.serial == serial && e.round == n
      let sorted := mine.foldl (fun acc e => e.insert acc) []
      let s := s.setMem { s.mem with rounds := s.mem.rounds.filter fun e => !(e.serial == serial && e.round == n) }
      let (s, held) := s.applyRound (s.replays l.info.asid) sorted
      .next (if held.isEmpty then s.updLaunch serial fun l => { l with rounds := n }
        else s.setMem { s.mem with rounds := s.mem.rounds ++ held })
    else .next s

/-! UALink (07 R305..R307, R619). -/

/-- ovft by which a remote add rounds: its reset value, for a train carries none (log 16). -/
def trainOvft : Nat := 0x20115

/-- TRAIN_RECEIVE: the tail has come; with matching counts the elements perform in record order and the serial is
acknowledged, otherwise none does and the train is refused (07 R306). -/
def execTrainReceive (t : Train) (s : State) : Host.Outcome State Fault Refusal :=
  let rank := t.srcRank.toNat
  if t.tail = t.elems.length && t.elems.all fun e => decide (e.1 + e.2.1 ≤ Config.deviceEnd) then
    let s := t.elems.foldl (fun (s : State) e =>
      let (pa, n, v) := e
      if t.add then s.addHome none 0 0 pa t.ty trainOvft v.toNat else s.homeWrite none 0 0 pa n v.toNat) s
    .next { s with linkOut := s.linkOut ++ [.trainAck rank t.serial] }
  else .next { s with linkOut := s.linkOut ++ [.trainRefuse rank t.serial] }

/-- The card that waits on a train. -/
def State.trainCard (s : State) (serial : BitVec 16) : Option (Card × TrainSt) :=
  s.la.cards.findSome? fun k => (k.trains.find? fun t => t.train.serial == serial).map fun t => (k, t)

/-- TRAIN_ACK: the train is complete; a stream copy's arrival word now counts its bytes (07 R306, R307, R328). -/
def execTrainAck (serial : BitVec 16) (s : State) : Host.Outcome State Fault Refusal :=
  let s' := s.mapHarts fun h => { h with trains := h.trains.filter fun t => !(t.train.serial == serial && !t.failed) }
  match s.trainCard serial with
  | none => .next s'
  | some (k, t) =>
    let s := s.updCard k.serial k.seq fun k => { k with trains := k.trains.filter fun t => t.train.serial != serial }
    let last := decide (k.trains.length ≤ 1)
    .next (match k.job with
      | .stream b =>
        let cc := copyCard b
        let c := s.jobCtx k (quadOf k.core) [.quad (quadOf k.core)]
        if cc.arr && last && k.stop.isNone then runJob k c (arrivalAdd c cc.arrw (t.train.elems.map fun e => e.2.1).sum) s
        else s
      | _ => s)

/-- A train has failed: LINKERR with its serial; the hart's first waiting release or load, or the round entry's stream,
is to trap PROT; a job stops (07 R306, R307, R309, R619). -/
def State.failTrain (s : State) (serial : BitVec 16) : State :=
  let data := leBytes 8 serial.toNat
  match s.trainCard serial with
  | some (k, t) =>
    let s := s.updCard k.serial k.seq fun k => { k with trains := k.trains.filter fun t => t.train.serial != serial }
    (s.stopCard k causeProt (BitVec.ofNat 64 t.va) (if Job.kind k.job = 3 then 10 else 0)).postFault (quadOf k.core) 19
      serial.toNat k.serial data
  | none =>
    let has := fun (h : Hart) => h.trains.any fun t => t.train.serial == serial
    let saved := s.la.launches.flatMap fun l => (l.gangs.flatMap fun g => g.saved).map fun ih => (s.slotNow l.serial ih.1, ih.2)
    match (s.harts ++ saved).find? fun kv => has kv.2 with
    | none => s
    | some (slot, h) =>
      let fail := fun (h : Hart) =>
        match h.trains.find? fun t => t.train.serial == serial with
        | some t => match t.round with
          | some isX =>
            let h := { h with trains := h.trains.filter fun t => t.train.serial != serial }
            h.setStream isX ((h.stream isX).defer ⟨causeProt, BitVec.ofNat 64 t.va, 0⟩)
          | none => { h with trains := h.trains.map fun t =>
              if t.train.serial == serial then { t with failed := true } else t }
        | none => h
      (s.mapHarts fail).postFault (quadOf (coreOf slot)) 19 serial.toNat h.serial data

/-- TRAIN_REFUSAL: the source resends once; a second refusal fails the train (07 R306). -/
def execTrainRefusal (serial : BitVec 16) (s : State) : Host.Outcome State Fault Refusal :=
  let harts := s.harts.map (·.2) ++ s.la.launches.flatMap fun l => (l.gangs.flatMap fun g => g.saved).map (·.2)
  let all := (harts.flatMap fun h => h.trains) ++ (s.la.cards.flatMap fun k => k.trains)
  match all.find? fun t => t.train.serial == serial && !t.failed with
  | none => .next s
  | some t =>
    if t.resent then .next (s.failTrain serial)
    else
      let mark := fun (l : List TrainSt) => l.map fun t => if t.train.serial == serial then { t with resent := true } else t
      let s := s.mapHarts fun h => { h with trains := mark h.trains }
      let s := s.setLa { s.la with cards := s.la.cards.map fun k => { k with trains := mark k.trains } }
      .next { s with linkOut := s.linkOut ++ [.train t.rpkg t.train] }

/-- The new value that an ATOM stores, none where it stores nothing (05 R225): operation, signedness, size in bytes,
old value, operand, compare value. -/
def atomValue (op : Nat) (signed : Bool) (n old x cmp : Nat) : Option Nat :=
  let w := 8 * n
  let key := fun (v : Nat) => if signed then signedOf w v else (v : Int)
  let x := x % 2 ^ w
  match op with
  | 0 => some x
  | 1 => some ((old + x) % 2 ^ w)
  | 2 => some (old &&& x)
  | 3 => some (old ||| x)
  | 4 => some (old ^^^ x)
  | 5 => some (if key x < key old then x else old)
  | 6 => some (if key old < key x then x else old)
  | _ => if old = cmp % 2 ^ w then some x else none

/-- UALINK_READ_SERVE: a remote package's read or atomic takes effect at the home bank; an address outside device
memory, or poisoned data, is answered with an error (07 R619, log 16). -/
def execUalinkReadServe (r : RemoteReq) (s : State) : Host.Outcome State Fault Refusal :=
  let rank := r.srcRank.toNat
  if Config.deviceEnd < r.pa + r.size || s.mem.poisoned (r.pa / 64) then
    .next { s with linkOut := s.linkOut ++ [.readReply rank r.id false 0] }
  else
    let old := s.mem.homeRead r.pa r.size
    let s := match r.atom with
      | none => s
      | some (op, signed, a, b) => match atomValue op signed r.size old a.toNat b.toNat with
        | some v => s.homeWrite none 0 0 r.pa r.size v
        | none => s
    .next { s with linkOut := s.linkOut ++ [.readReply rank r.id true (BitVec.ofNat 64 old)] }

/-- A reply reaches the read it answers. -/
def replyTo (id : Nat) (ok : Bool) (data : Word) (l : List PendRead) : List PendRead :=
  l.map fun r => if r.id == id && r.reply.isNone then { r with reply := some (ok, data) } else r

/-- The reply to an add to a launch's signal word comes; one that reports an error posts LAUNCHFAULT, with the detail of the
add (04 R154). -/
def State.addReplied (s : State) (id : Nat) (ok : Bool) : State :=
  match s.la.launches.find? fun l => l.adds.any fun r => r.id == id with
  | none => s
  | some l =>
    let s := s.setLaunch { l with adds := l.adds.filter fun r => r.id != id }
    match if ok then none else l.adds.find? fun r => r.id == id with
    | some r => s.postLaunch l 8 r.elem (leBytes 8 l.info.sigaddr)
    | none => s

/-- Deliver a reply to whoever waits for it. -/
def State.deliver (s : State) (id : Nat) (ok : Bool) (data : Word) : State :=
  let upd := fun (st : Stream) => { st with reads := replyTo id ok data st.reads }
  let s := s.mapHarts fun h => { h with sa := upd h.sa, sx := upd h.sx }
  (s.setLa { s.la with
    cards := s.la.cards.map fun k => { k with reads := replyTo id ok data k.reads }
    launches := s.la.launches.map fun l => { l with reads := replyTo id ok data l.reads } }).addReplied id ok

/-- UALINK_RESPONSE (07 R619). -/
def execUalinkResponse (id : Nat) (data : Word) (s : State) : Host.Outcome State Fault Refusal :=
  .next (s.deliver id true data)

/-- The quadrant from which a read was sent. -/
def State.readQuad (s : State) (id : Nat) : Option (Nat × Word) :=
  let has := fun (l : List PendRead) => l.any fun r => r.id == id && r.reply.isNone
  let saved := s.la.launches.flatMap fun l => (l.gangs.flatMap fun g => g.saved).map fun ih => (s.slotNow l.serial ih.1, ih.2)
  match (s.harts ++ saved).find? fun kv => has kv.2.sa.reads || has kv.2.sx.reads with
  | some (slot, h) => some (quadOf (coreOf slot), h.serial)
  | none => match s.la.cards.find? fun k => has k.reads with
    | some k => some (quadOf k.core, k.serial)
    | none => (s.la.launches.find? fun l => has l.reads || has l.adds).map fun l => (l.home, l.serial)

/-! Translation caches reached by the host (06 R286, R290). -/

/-- A TLBICMD is taken: it is done after those before it, and BUSY stands until all are (06 R286, R290). -/
def MemSys.tlbicmd (m : MemSys) (cmd : Option (BitVec 16)) : MemSys :=
  { m with tlbBusy := true, tlbCmds := m.tlbCmds ++ [cmd] }

/-- TLBICMD kind 0 (06 R286). -/
def execTlbicmdAll (s : State) : Host.Outcome State Fault Refusal := .next (s.setMem (s.mem.tlbicmd none))

/-- TLBICMD kind 1 (06 R286). -/
def execTlbicmdAsid (asid : BitVec 16) (s : State) : Host.Outcome State Fault Refusal :=
  .next (s.setMem (s.mem.tlbicmd (some asid)))

/-- TLBICMD kind 2 acts on the whole ASID (06 R286, R290). -/
def execTlbicmdRange (asid : BitVec 16) (s : State) : Host.Outcome State Fault Refusal :=
  .next (s.setMem (s.mem.tlbicmd (some asid)))

/-- TLBICMD_DONE: once no walk in flight could use a removed entry, the entries of the oldest command go; BUSY clears with
the last (06 R290). -/
def execTlbicmdDone (s : State) : Host.Outcome State Fault Refusal :=
  match s.mem.tlbCmds with
  | [] => .next s
  | cmd :: rest =>
    let hit := fun (a : BitVec 16) => match cmd with
      | none => true
      | some b => a == b
    if s.mem.walks.any fun w => hit w.asid then .next s
    else .next (s.setMem { s.mem.invalidate (fun l => hit l.asid) with tlbBusy := !rest.isEmpty, tlbCmds := rest })

/-! Errors (06 R284, R285). -/

/-- The poison mark that an uncorrectable error sets (06 R285). -/
def State.markError (s : State) : ErrPlace → State
  | .device pa => s.setMem (s.mem.setPoison (pa / 64) true)
  | .scratch core serial off =>
    let k := s.core core
    let mark := fun (x : Scratch) => if x.serial == serial then { x with poison := insertNat (off / 64) x.poison } else x
    s.setCore core { k with scratch := k.scratch.map mark }
  | .tile array off =>
    let a := s.array array
    s.setArray array { a with tpoison := insertNat (off / 64) a.tpoison }
  | .xreg hart isX n =>
    match s.hart? hart with
    | some h => s.setHart hart (h.setStream isX { h.stream isX with xmarks := insertNat n.val (h.stream isX).xmarks })
    | none => s
  | .vreg hart n =>
    match s.hart? hart with
    | some h => s.setHart hart { h with vmarks := insertNat n.val h.vmarks }
    | none => s

/-- The quadrant whose fault queue has the event, and the address that the event carries: a device sector's own; the spec names
none for the other places, which give a window address or 2^63 and the register's number (DESIGN CHOICE, log 61). -/
def ErrPlace.report : ErrPlace → Nat × Nat
  | .device pa => (homeQuad pa, pa)
  | .scratch core _ off => (quadOf core, 0xFF00000000000000 + core % 4 * 0x400000 + off)
  | .tile array off => (quadOf (4 * array), 0xFF00000000000000 + 0x2000000 + off)
  | .xreg hart _ n => (quadOf (coreOf hart), 2 ^ 63 + n.val)
  | .vreg hart n => (quadOf (coreOf hart), 2 ^ 63 + n.val)

/-- UNCORRECTED: the unit is poisoned, and event 18 carries its address (06 R285). -/
def execUncorrected (at_ : ErrPlace) (s : State) : Host.Outcome State Fault Refusal :=
  let r := ErrPlace.report at_
  .next ((s.markError at_).postFault r.1 18 0 0 (leBytes 8 r.2))

/-- SCRUB: a corrected error counts in ECNT, which saturates (06 R284, R286). -/
def execScrub (quad : Fin 4) (corrected : Bool) (s : State) : Host.Outcome State Fault Refusal :=
  let n := s.mem.ecnt.get quad.val 0
  .next (if corrected && n != allOnes64 then s.setMem { s.mem with ecnt := s.mem.ecnt.put quad.val (n + 1) } else s)

/-! The overlay arena (10 R420, R421). -/

/-- Bytes of the arena taken by launches' pools. -/
def State.arenaUsed (s : State) : Nat := ((s.la.launches.filter fun l => l.phase != .done).map (·.pool)).sum

/-- OVGADD: a write of a multiple of 65,536 starts a grow, any other sets FAILED (10 R421). -/
def execOvgaddWrite (v : Word) (s : State) : Host.Outcome State Fault Refusal :=
  .next { s with ov :=
    if v.toNat % 65536 = 0 then { s.ov with gbusy := true, gfailed := false, gpend := some (s.ov.gser, v.toNat) }
    else { s.ov with gfailed := true } }

/-- POOL_GROW_DONE: the launch's pool grows, or FAILED is set (10 R421). -/
def execPoolGrowDone (s : State) : Host.Outcome State Fault Refusal :=
  match s.ov.gpend with
  | none => .next s
  | some (serial, n) =>
    let ok := (s.named? serial).isSome && decide (s.arenaUsed + n ≤ s.ov.asize.toNat)
    let s := { s with ov := { s.ov with gbusy := false, gfailed := !ok, gpend := none } }
    .next (match if ok then s.named? serial else none with
      | some l => s.setLaunch { l with pool := l.pool + n }
      | none => s)

end Sys2Proof.Machine
end

