-- ==== Sys2Proof/Machine/VecConfig.lean ====
section
/-! DEFINITION. Major 0x23: tile shape, lane requests, the register allotment and strips (08 R350..R358). -/

namespace Sys2Proof.Machine

open Sys2Proof

/-- A configuration instruction enters the issue order once its own waits are over; it holds no element group, and with B
set it is a rendezvous of the granted lanes (08 R342, R343; 09 R380). It sets vstart to 0 (08 R348). -/
def configRun (hd : Hdr) (wait body : M Unit) : M Unit := do
  vecRoom
  wait
  modify fun s => s.enterOrder 0 hd.b hd.b
  body
  vecLeave

/-- SETVL (08 R351). -/
def execSetvl (h : Hdr) (t : Ty) (d : XOp) (a : Fin 64) (s : State) : Host.Outcome State Fault Refusal :=
  runSeq (.setvl h t d a) h (do
    let n := (← readReg a).toNat
    let b := Ty.width t
    let rc := (← curHart).rc.toNat
    let cap := max 1 (min 8192 (32768 / (b * rc)))
    let vl := max 1 (min n cap)
    configRun h (requestLanes (groupsNeeded vl rc b)) do
      modHart fun h => { h with vl := BitVec.ofNat 14 vl }
      writeCommit d (BitVec.ofNat 64 (min n cap))) s

/-- SETVL with REL: all lane groups are released (08 R351, 04 R162). -/
def execSetvlRel (h : Hdr) (d : XOp) (s : State) : Host.Outcome State Fault Refusal :=
  runSeq (.setvlRel h d) h (configRun h vecCommitted do
    let slot ← curSlot
    writeCommit d 0
    modify fun s => s.releaseLanes slot) s

/-- SETRC (08 R353). -/
def execSetrc (h : Hdr) (t : Ty) (d : XOp) (a : Fin 64) (s : State) : Host.Outcome State Fault Refusal :=
  runSeq (.setrc h t d a) h (configRun h (pure ()) do
    let n := (← readReg a).toNat
    let vl := (← curHart).vl.toNat
    let rc := max 1 (min n (min 16 (32768 / (Ty.width t * vl))))
    modHart fun h => { h with rc := BitVec.ofNat 5 rc }
    writeCommit d (BitVec.ofNat 64 rc)) s

/-- v registers of a core that no hart holds, of 64 (01, 04 R151, R157; 08 R354). -/
def State.freeRegs (s : State) (core : Nat) : Nat :=
  64 - ((coreSlots core).map fun j => (s.hart j).allot.toNat).sum

/-- ALLOC: gained registers are zero and dirty (08 R354). -/
def execAlloc (h : Hdr) (d : XOp) (a : Fin 64) (s : State) : Host.Outcome State Fault Refusal :=
  runSeq (.alloc h d a) h (configRun h (pure ()) do
    let n := (← readReg a).toNat
    let old := (← curHart).allot.toNat
    let free := (← get).freeRegs (← curCore)
    let new := min (max n old) (min 64 (old + free))
    let gained := (List.range new).filter fun j => old ≤ j
    modHart fun h =>
      { h with
        allot := BitVec.ofNat 7 new
        v := h.v.filter fun c => c.1 < 4096 * old || 4096 * new ≤ c.1
        vdirty := gained.foldl (fun (w : Word) j => w ||| (1#64) <<< j) h.vdirty
        vhw := gained.foldl (fun l j => l.put j 0) h.vhw }
    writeCommit d (BitVec.ofNat 64 new)) s

/-- SHRINK: released registers lose their contents (08 R355). -/
def execShrink (h : Hdr) (d : XOp) (a : Fin 64) (s : State) : Host.Outcome State Fault Refusal :=
  runSeq (.shrink h d a) h (configRun h vecCommitted do
    let n := (← readReg a).toNat
    let new := min (← curHart).allot.toNat n
    modHart fun h =>
      { h with
        allot := BitVec.ofNat 7 new
        v := h.v.filter fun c => c.1 < 4096 * new
        vdirty := h.vdirty &&& BitVec.ofNat 64 (2 ^ new - 1)
        vhw := h.vhw.filter fun kv => kv.1 < new }
    writeCommit d (BitVec.ofNat 64 new)) s

/-! STRIP (08 R356..R358). -/

/-- Function code of a word (02 R72). -/
def fnOf (w : Word96) : Nat := fieldOf w.toNat 82 6

/-- The E bit of a word (02 R72). -/
def endBit (w : Word96) : Bool := bitOf w.toNat 70

/-- May a word stand in a strip's body? (08 R356) -/
def stripFamily (w : Word96) : Bool :=
  let m := majorOf w
  [0x10, 0x11, 0x12, 0x20, 0x21, 0x22, 0x30, 0x31, 0x40, 0x50, 0x51, 0x52].contains m
    || (m == 0x32 && fnOf w != 6 && fnOf w != 8)

/-- The scan for a strip's last instruction: `fuel` entries may still come. Answers its number and the entries. A line
is checked when the scan enters it (08 R356). -/
noncomputable def stripScan : Nat → Word → Line → Nat → M (Word × Nat)
  | 0, n, _, _ => trap causeIll n
  | fuel + 1, n, line, count => do
    let w := slotWord line (n.toNat % 5)
    if !stripFamily w then trap causeIll n
    else if endBit w then pure (n, count)
    else
      let next := succOf n (lastOf line)
      let line' ← if next.toNat / 5 = n.toNat / 5 then pure line else fetchLine next
      stripScan fuel next line' (count + 1)

/-- STRIP (08 R356, R357). -/
noncomputable def execStrip (h : Hdr) (t : Ty) (d a b c : Fin 64) (sa sb sc : Fin 4) (s : State) :
    Host.Outcome State Fault Refusal :=
  runHart (.strip h t d a b c sa sb sc) h (do
    let st ← curStream
    let n := (← get).issue.n
    if st.priv || st.stripAct then trap causeIll n
    else
      let start := succOf n (← get).issue.last
      let line ← fetchLine start
      let (e, count) ← stripScan 32 start line 0
      let eLine ← fetchLine e
      let left := (st.getX d).toNat
      if left = 0 then
        configRun h (pure ()) (pure ())
        pure (.goto (succOf e (lastOf eLine)))
      else
        let w := Ty.width t
        let cap := min 8192 (32768 / w)
        configRun h (requestLanes (groupsNeeded (min left cap) 1 w)) do
          modHart fun h => { h with rc := 1, vl := BitVec.ofNat 14 (min left cap) }
          modStream fun st =>
            { st with
              stripAct := true
              stripNum := n.setWidth 54
              stripEnd := e.setWidth 54
              stripLen := BitVec.ofNat 5 count
              stripBody := []
              stripArgs := [d.val, a.val, b.val, c.val, sa.val, sb.val, sc.val, cap, start.toNat] }
        pure .next) s

end Sys2Proof.Machine
end

