-- ==== Sys2Proof/Machine/Launch.lean ====
section
/-! DEFINITION. The launch engine: rings, records, dependences, placement, admissions, and major 0x88 (04 R142..R166,
R174, R182..R188). -/

namespace Sys2Proof.Machine

open Sys2Proof

/-! Launch records (04 R148..R151). -/

/-- A LEVEL field (04 R148). -/
def parseLevel (v : Nat) : Level := ⟨v % 8, fieldOf v 4 20, fieldOf v 24 20, fieldOf v 44 20⟩

/-- A DEP field: 57 address bits, the scope, the value (04 R148). -/
def parseDep (b : List Byte) (o : Nat) : Dep :=
  let w := cardField b o 8
  ⟨w % 2 ^ 57, fieldOf w 61 3, BitVec.ofNat 64 (cardField b (o + 8) 8), false, false⟩

/-- The fields of a record's 256 bytes (04 R148). -/
def parseRecord (b : List Byte) : LaunchRec :=
  let w0 := cardField b 0 8
  let w80 := cardField b 80 4
  { nlev := fieldOf w0 8 4, det := bitOf w0 12, pair := bitOf w0 13, pod := bitOf w0 14, sigscope := fieldOf w0 15 3
    prio := fieldOf w0 18 3, asid := BitVec.ofNat 16 (fieldOf w0 32 16), xent := BitVec.ofNat 64 (cardField b 8 8)
    aent := BitVec.ofNat 64 (cardField b 16 8), levels := (List.range 7).map fun i => parseLevel (cardField b (24 + 8 * i) 8)
    allot := fieldOf w80 0 7, lanes := fieldOf w80 7 3, ways := fieldOf w80 10 6, tagq := fieldOf w80 16 12
    bclass := fieldOf w80 28 4, pool := cardField b 88 8, seed := BitVec.ofNat 64 (cardField b 96 8)
    sigaddr := cardField b 112 8, siginc := cardField b 120 4, triginc := cardField b 124 4, trigcnt := cardField b 128 4
    deps := (List.range 4).map fun i => parseDep b (136 + 16 * i), arg := BitVec.ofNat 64 (cardField b 200 8)
    stack := BitVec.ofNat 64 (cardField b 208 8), stride := cardField b 216 4
    podid := BitVec.ofNat 32 (cardField b 220 4), podn := cardField b 224 2, podrank := cardField b 226 2 }

/-- Harts of one instance of a domain (01 R28). -/
def domainHarts : Nat → Nat
  | 1 => 1
  | 2 => 4
  | 3 => 16
  | 4 => 32
  | 5 => 512
  | _ => 2048

/-- The top declared level; 0 when only level 0 is declared. -/
def LaunchRec.top (r : LaunchRec) : Nat := r.nlev - 1

/-- Domain code of the top declared level. -/
def LaunchRec.topDom (r : LaunchRec) : Nat := if r.top = 0 then 0 else (r.level r.top).dom

/-- Check 2 of 04 R151: reserved bits, undeclared levels, pod fields without POD. -/
def recordReserved (b : List Byte) (r : LaunchRec) : Bool :=
  let w0 := cardField b 0 8
  fieldOf w0 21 11 != 0 || fieldOf w0 48 16 != 0 || cardField b 84 4 != 0 || cardField b 104 8 != 0
    || cardField b 132 4 != 0 || cardField b 228 28 != 0
    || ((List.range 7).any fun i => bitOf (cardField b (24 + 8 * i) 8) 3)
    || ((List.range 4).any fun i => fieldOf (cardField b (136 + 16 * i) 8) 57 4 != 0)
    || ((List.range 7).any fun i => decide (r.top ≤ i) && cardField b (24 + 8 * i) 8 != 0)
    || (!r.pod && (r.podid != 0 || r.podn != 0 || r.podrank != 0))

/-- Check 3 of 04 R151: levels, domains, group sizes, pod and pair. -/
def recordLevelsBad (r : LaunchRec) : Bool :=
  let levs := (List.range r.top).map (· + 1)
  let dom := fun (i : Nat) => (r.level i).dom
  r.nlev == 0 || decide (8 < r.nlev)
    || (levs.any fun i => dom i == 0 || (decide (1 < i) && decide (dom i ≤ dom (i - 1)))
      || decide (domainHarts (dom i) < r.groupHarts (i - 1)))
    || (if r.pod then
          r.topDom != 7 || (r.level r.top).ex != r.podn || (r.level r.top).ey != 1 || (r.level r.top).ez != 1
            || decide (r.podn < 2) || decide (1024 < r.podn) || decide (r.podn ≤ r.podrank)
        else levs.any fun i => dom i == 7)
    || (r.pair && levs.any fun i => dom i == 4)

/-- Tags that no launch holds or has reserved (10 R408, R421). -/
def State.tagsLeft (s : State) : Nat :=
  4095 - (((s.la.launches.filter fun l => l.phase != .done && l.gangs.any fun g => g.st != .unplaced).map
    fun l => l.info.tagq)).sum

/-- Check 8 of 04 R151. -/
def State.capacityBad (s : State) (r : LaunchRec) : Bool :=
  let gang := match (List.range r.top).find? fun i => (r.level (i + 1)).dom == 2 with
    | some i => r.groupHarts i
    | none => 1
  let removed := s.cores.countP fun kv => kv.2.removed
  decide (64 < r.allot * gang)
    || ((List.range r.top).any fun i => (r.level (i + 1)).dom == 6 && decide (2048 - 4 * removed < r.groupHarts i))
    || decide (s.tagsLeft < r.tagq)

/-- The refusal code of a record, 0 when it is accepted; checks in the order of their codes (04 R151). -/
def State.refusal (s : State) (b : List Byte) : Nat :=
  let r := parseRecord b
  let used := r.deps.filter fun d => d.addr != 0
  if cardField b 0 1 ≠ 1 then 1
  else if recordReserved b r then 2
  else if recordLevelsBad r then 3
  else if 64 < r.allot || r.lanes = 0 || 4 < r.lanes || 32 < r.ways || r.pool % 65536 ≠ 0 then 4
  else if Config.instrEnd ≤ r.xent.toNat || Config.instrEnd ≤ r.aent.toNat then 5
  else if r.sigscope < 2 || r.sigscope < r.topDom || used.any fun d => d.scope == 0 then 6
  else if r.sigaddr % 8 ≠ 0 || used.any fun d => d.addr % 8 != 0 then 7
  else if s.capacityBad r then 8
  else 0

/-! Acceptance (04 R163, R174). -/

/-- The gangs of a launch: its top-level groups, each resident whole (01 R29, 04 R157). -/
def LaunchRec.gangs (r : LaunchRec) : List Gang :=
  let n := if r.topDom = 7 || r.top = 0 then 1 else (r.level r.top).size
  let per := if r.top = 0 then 1 else r.groupHarts (r.top - 1)
  if per = 0 then []
  else (List.range n).map fun i => ⟨i, i * per, per, .unplaced, [], [], [], [], [], 0, false⟩

/-- The next launch slot of an instance that no unfinished launch of it holds (04 R163). -/
def State.newSlot (s : State) (home : Nat) : Nat :=
  let c := s.la.nextSlot.get home 0
  let held := (s.la.launches.filter fun l => l.home == home && l.phase != .done).map (·.lslot)
  match (List.range (held.length + 1)).find? fun i => !held.contains ((c + i) % 2 ^ 20) with
  | some i => c + i
  | none => c

/-- The key of a launch about to be accepted under a serial: the serial, unless an unfinished launch has it (04 R174). -/
def State.keyFor (s : State) (name : Word) : Word :=
  if (s.launch? name).isSome then BitVec.ofNat 64 (2 ^ 63 + s.nextId % 2 ^ 63) else name

/-- Accept a record under a serial. -/
def State.accept (s : State) (r : LaunchRec) (name : Word) (home evq : Nat) (ring : Option Nat) (after : Option Word) :
    State :=
  let slot := s.newSlot home
  let serial := s.keyFor name
  let s := { s with nextId := s.nextId + 1 }
  let l : Launch :=
    { serial, name, info := r, home, lslot := slot % 2 ^ 20, evq, ring, device := ring.isNone, after, phase := .waiting
      evalAt := s.tick, reads := [], adds := [], stage := 0, digest := (0, 0), cancelled := false, gangs := r.gangs
      trigCount := 0, trigDone := false, nextSeq := 0, groups := [], pool := 0
      waiters := [], dslot := none, dlist := [], dover := false, energy := [], selfAdmitted := false, begun := false, rounds := 0 }
  s.setLa { s.la with launches := s.la.launches ++ [l], nextSlot := s.la.nextSlot.put home (slot + 1) }

/-! Rings (04 R142..R147). -/

/-- A ring. -/
def State.ring (s : State) (n : Nat) : Ring := s.la.rings.get n Ring.blank

/-- Replace a ring. -/
def State.setRing (s : State) (n : Nat) (r : Ring) : State := s.setLa { s.la with rings := s.la.rings.put n r }

/-- Entries of a ring: RCTL.LOGN (04 R143). -/
def Ring.size (r : Ring) : Nat := 2 ^ fieldOf r.rctl.toNat 2 5

/-- Post an event of a ring as a source (04 R145, R179). -/
def State.postRing (s : State) (n code : Nat) : State :=
  s.postEvent (fieldOf (s.ring n).rctl.toNat 12 4) n code 0 0 []

/-- Host writes under way, which a write of WPTR releases to the engine (01 R55). -/
def State.hostWrites (s : State) : List Nat := (s.mem.hostReqs.filter fun q => q.data.isSome).map fun q => q.id

/-- RING_WPTR_WRITE (04 R145). A value both above RPTR + 2^LOGN and below WPTR takes the overrun row, the table's first
(DESIGN CHOICE, log 66). -/
def execRingWptrWrite (n : Fin 64) (w : Word) (s : State) : Host.Outcome State Fault Refusal :=
  let r := { s.ring n.val with behind := s.hostWrites }
  if r.rptr.toNat + r.size < w.toNat then
    .next ((s.setRing n.val { r with overrun := true, halted := true, wptr := w }).postRing n.val 1)
  else if w.toNat < r.wptr.toNat then .next ((s.setRing n.val { s.ring n.val with backstep := true }).postRing n.val 2)
  else .next (s.setRing n.val { r with wptr := w })

/-- RCTL as it reads back: LOGN outside 4..16 becomes 4, RESET is not kept (04 R143). -/
def rctlOf (v : Word) : Word :=
  let logn := fieldOf v.toNat 2 5
  let v := v.toNat % 2 ^ 16 / 2 * 2 - (if bitOf v.toNat 1 then 2 else 0) + v.toNat % 2
  BitVec.ofNat 64 (if 4 ≤ logn ∧ logn ≤ 16 then v else v - logn * 4 + 16)

/-- RING_RESET: a write of RCTL; RESET clears the pointers and RSTAT and starts an epoch (04 R143, R174). Its first entry
then has no previous one to wait for under SERIAL (DESIGN CHOICE, log 67). -/
def execRingReset (n : Fin 64) (v : Word) (s : State) : Host.Outcome State Fault Refusal :=
  let r := s.ring n.val
  let ctl := rctlOf v
  let r := { r with rctl := ctl }
  .next (s.setRing n.val (if v.getLsbD 1 then
      { r with rptr := 0, wptr := 0, overrun := false, halted := false, backstep := false, epoch := r.epoch + 1
               prev := none, reads := [] }
    else r))

/-- Accepted launches of a ring that have not yet become resident (04 R146). -/
def State.ringPending (s : State) (n : Nat) : Nat :=
  s.la.launches.countP fun l => l.ring == some n && (l.phase == .waiting || l.phase == .eligible)

/-- The 32 reads of an entry in host memory (04 R144, R182). -/
def State.startRingReads (s : State) (n addr : Nat) : State :=
  let ids := (List.range 32).map fun i => s.nextId + i
  let reads := ids.map fun id => (⟨id, id - s.nextId, addr + 8 * (id - s.nextId), 8, none⟩ : PendRead)
  let msgs := reads.map fun r => HostMsg.hrd r.id r.va 8
  let s := { s with nextId := s.nextId + 32, hostOut := s.hostOut ++ msgs }
  s.setRing n { s.ring n with reads := reads }

/-- The bytes of a ring entry: from device memory, or the replies of the host once all have come; what a reply of status
ERROR carries is taken as the data (DESIGN CHOICE, log 58). -/
def State.entryBytes (s : State) (r : Ring) (addr : Nat) : Option (List Byte) :=
  if r.rctl.getLsbD 10 then
    if r.reads.isEmpty || r.reads.any fun p => p.reply.isNone then none
    else some (r.reads.flatMap fun p => leBytes 8 ((p.reply.map fun x : Bool × Word => x.2).getD 0).toNat)
  else some (s.mem.homeBytes addr 256)

/-- Serial of a ring record (04 R174). -/
def ringSerial (n : Nat) (epoch : BitVec 8) (k : Word) : Word :=
  BitVec.ofNat 64 ((n + 1) * 2 ^ 56 + epoch.toNat * 2 ^ 48 + k.toNat % 2 ^ 48)

/-- Take an entry's bytes: RPTR passes it; it is refused or accepted (04 R144, R151, R174). Under SERIAL an entry waits
for the ring's last accepted one, since a refused entry has no completion (log 19). Its event queue is RCTL.EVQ as it
stands then (DESIGN CHOICE, log 68). -/
def State.takeEntry (s : State) (n : Nat) (r : Ring) (b : List Byte) : State :=
  let serial := ringSerial n r.epoch r.rptr
  let home := n / 16
  let evq := fieldOf r.rctl.toNat 12 4
  let code := s.refusal b
  let s := s.setRing n { r with rptr := r.rptr + 1, prev := if code = 0 then some (s.keyFor serial) else r.prev, reads := [] }
  if code ≠ 0 then s.postEvent evq (64 + home) 3 code serial []
  else
    let info := { parseRecord b with prio := fieldOf r.rctl.toNat 7 3 }
    s.accept info serial home evq (some n) (if r.rctl.getLsbD 11 then r.prev else none)

/-- RING_ENTRY_READ: the engine reads entry RPTR when the ring is served and holds fewer than 64 launches that wait to
become resident (04 R144, R146; 01 R26; 14 R568), and the host's writes before its last write of WPTR have performed
(01 R55). -/
def execRingEntryRead (n : Fin 64) (s : State) : Host.Outcome State Fault Refusal :=
  let r := s.ring n.val
  if !r.rctl.getLsbD 0 || r.halted || decide (r.wptr.toNat ≤ r.rptr.toNat) || decide (64 ≤ s.ringPending n.val)
      || !s.dc.ready.getLsbD (32 + n.val / 16) || (r.behind.any fun id => s.hostWrites.contains id) then .next s
  else
    let addr := r.rbase.toNat + 256 * (r.rptr.toNat % r.size)
    match s.entryBytes r addr with
    | none => .next (if r.rctl.getLsbD 10 && r.reads.isEmpty then s.startRingReads n.val addr else s)
    | some b =>
      if s.replays (parseRecord b).asid then
        match s.replayInput ⟨1, BitVec.ofNat 64 n.val, r.rptr, 0⟩ with
        | none => .next s
        | some s => .next (s.takeEntry n.val r b)
      else .next (s.takeEntry n.val r b)

/-- A completion may bring a record of the replay log, and inputs that were held for it go on (14 R569, R570). -/
def State.logReplied (s : State) (id : Nat) (ok : Bool) (data : Word) : State :=
  if s.sv.logReads.any fun r => r.id == id then
    ({ s with sv := { s.sv with logReads := replyTo id ok data s.sv.logReads } } : State).retryInputs
  else s

/-- HOST_CPL: the completion of a read of host memory reaches the load, job, ring or replay log that sent it (04 R182). -/
def execHostCpl (id : Nat) (ok : Bool) (data : Word) (s : State) : Host.Outcome State Fault Refusal :=
  let s := s.deliver id ok data
  let s := s.setLa { s.la with rings := s.la.rings.map fun kv => (kv.1, { kv.2 with reads := replyTo id ok data kv.2.reads }) }
  .next (s.logReplied id ok data)

/-- PRIORITY_AGE: 50,000 ticks of waiting raise the ring's effective priority by one, up to 7 (04 R147). -/
def execPriorityAge (n : Fin 64) (s : State) : Host.Outcome State Fault Refusal :=
  let r := s.ring n.val
  match r.aging with
  | none => .next s
  | some (k, t) =>
    .next (if t + 50000 ≤ s.tick then s.setRing n.val { r with raised := r.raised + 1, aging := some (k, t + 50000) }
      else s)

/-- Does an eligible launch wait unplaced? (04 R147) -/
def Launch.awaits (l : Launch) : Bool :=
  l.phase == .eligible && !l.cancelled && l.gangs.all fun g => g.st == .unplaced

/-- The aging of a ring follows its oldest eligible launch: a new one begins to age, and when the one that aged waits no more,
the ring's priority returns to PRIO (04 R147). -/
def State.settleAging (s : State) (n : Nat) : State :=
  let r := s.ring n
  let waits := fun (k : Word) => s.la.launches.any fun l => l.serial == k && l.ring == some n && l.awaits
  let oldest := (s.la.launches.find? fun l => l.ring == some n && l.awaits).map fun l => l.serial
  if r.aging.map (·.1) = oldest then s
  else s.setRing n { r with
    raised := if (r.aging.map fun a => waits a.1).getD true then r.raised else 0
    aging := oldest.map fun k => (k, s.tick) }

/-- The aging of the ring of a launch. -/
def State.settleRing (s : State) (l : Launch) : State :=
  match l.ring with
  | some n => s.settleAging n
  | none => s

/-! Dependences (04 R153). -/

/-- What the engine's read of a word gives; none when it cannot be read. A word outside device memory is a free value
(log 18). -/
def State.engineWord (s : State) (asid : BitVec 16) (va : Nat) : Option (Word × State) :=
  match s.peekLeaf asid va with
  | none => none
  | some l =>
    if !l.allows false .load then none
    else if l.mt ≠ 0 then some s.draw
    else if s.mem.poisoned (l.phys va / 64) then none
    else some (BitVec.ofNat 64 (s.mem.homeRead (l.phys va) 8), s)

/-- Evaluate the dependences of a launch: the launch's list after it, and the state. -/
def State.evalDeps (s : State) (l : Launch) : List Dep → State × List Dep
  | [] => (s, [])
  | d :: r =>
    if d.addr = 0 then
      let (s, ds) := s.evalDeps l r
      (s, { d with holds := true } :: ds)
    else
      match s.engineWord l.info.asid d.addr with
      | none =>
        let s := if d.reported then s else s.postLaunch l 8 1 (leBytes 8 d.addr)
        let (s, ds) := s.evalDeps l r
        (s, { d with reported := true, holds := false } :: ds)
      | some (w, s) =>
        let (s, ds) := s.evalDeps l r
        (s, { d with holds := decide (d.value.toNat ≤ w.toNat) } :: ds)

/-- The engine evaluates a launch's dependences: it is eligible when they hold and, under SERIAL, its predecessor has
completed (04 R153). -/
def State.evaluate (s : State) (serial : Word) : State :=
  match s.launch? serial with
  | none => s
  | some l =>
    if l.phase != .waiting then s
    else
      let (s, deps) := (s.setMem s.mem.dropStale).evalDeps l l.info.deps
      let ok := deps.all (·.holds) && (match l.after with
        | none => true
        | some p => (s.launch? p).isNone)
      (s.setLaunch { l with
        info := { l.info with deps := deps }, phase := if ok then .eligible else .waiting, evalAt := s.tick }).settleRing l

/-- DEP_EVAL (04 R153). -/
def execDepEval (serial : Word) (s : State) : Host.Outcome State Fault Refusal := .next (s.evaluate serial)

/-- A completion signal or trigger has written a word: the dependences on it are evaluated again (04 R153). -/
def State.wordSignalled (s : State) (pa : Nat) : State :=
  let on := fun (o : Launch) => o.phase == .waiting && o.info.deps.any fun d =>
    d.addr != 0 && (s.peekLeaf o.info.asid d.addr).any fun f => f.mt == 0 && f.phys d.addr == pa
  ((s.la.launches.filter on).map fun o => o.serial).foldl State.evaluate s

/-- Every dependence is evaluated again at least once every 10,000 ticks (04 R153). -/
def State.reevaluate (s : State) : State :=
  ((s.la.launches.filter fun o => o.phase == .waiting && decide (o.evalAt + 10000 ≤ s.tick)).map fun o => o.serial).foldl
    State.evaluate s

/-! Placement (04 R150, R157..R160; 01 R28..R30). -/

/-- Ways of a core reserved for launches (04 R157). -/
def Core.reserved (k : Core) : Nat := (k.scratch.map (·.rsv)).sum

/-- May a launch take a hart slot beside the slots already taken for the same gang? Of lane groups none is reserved, since
a hart holds none when it starts (04 R150, R157, R161; DESIGN CHOICE, log 69). -/
def State.slotFree (s : State) (l : Launch) (taken : List Nat) (slot : Nat) : Bool :=
  let core := coreOf slot
  let k := s.core core
  let on := taken.countP fun t => coreOf t == core
  (s.hart? slot).isNone && !taken.contains slot && !k.removed && s.dc.ready.getLsbD (quadOf core)
    && decide (l.info.allot * (on + 1) ≤ s.freeRegs core)
    && (decide (0 < on) || (k.scratch? l.serial).isSome || decide (k.reserved + l.info.ways ≤ 32))

/-- A slot for a hart of a launch; under PAIR the primary's core lies in an even cluster and the shadow's slot in the
next one (04 R175). -/
def State.slotUsable (s : State) (l : Launch) (taken : List Nat) (slot : Nat) : Bool :=
  s.slotFree l taken slot &&
    (!l.info.pair || (slot / 16 % 2 == 0 && s.slotFree l (taken.map (· + 16)) (slot + 16)))

/-- Place one group: levels from the widest down, each with the size of its instance and the number of groups of the
next level in it. Answers where the group stands and the slots taken so far, in hart order (01 R28). -/
def fitGroup (ok : List Nat → Nat → Bool) : List (Nat × Nat) → Nat → Nat → List Nat → Option (Nat × List Nat)
  | [], lo, hi, taken => (((List.range (hi - lo)).map (lo + ·)).find? (ok taken)).map fun x => (x, taken ++ [x])
  | (inst, cnt) :: rest, lo, hi, taken =>
    let first := alignDown lo inst
    ((List.range ((hi - first + inst - 1) / inst)).map fun i => first + inst * i).findSome? fun a =>
      let start := max a lo
      let stop := min (a + inst) hi
      ((List.range cnt).foldl (fun (acc : Option (Nat × List Nat)) _ =>
        acc.bind fun p => fitGroup ok rest p.1 stop p.2) (some (start, taken))).map fun p => (start, p.2)

/-- The levels of a gang for `fitGroup`. -/
def LaunchRec.shape (r : LaunchRec) : List (Nat × Nat) :=
  ((List.range r.top).reverse.map (· + 1)).map fun lev =>
    (domainHarts (r.level lev).dom, if lev = 1 then 1 else (r.level (lev - 1)).size)

/-- A launch that takes the whole package: its top level is bound to pkg or pod (01 R30). -/
def LaunchRec.exclusive (r : LaunchRec) : Bool := decide (6 ≤ r.topDom)

/-- Has any gang of the launch been placed? -/
def Launch.placed (l : Launch) : Bool := l.gangs.any fun g => g.st != .unplaced

/-- What placing a launch needs beside slots: the package, the pool's bytes, the tags, tick alignment for POD
(01 R30, 10 R408, R421, 14 R554). -/
def State.launchFits (s : State) (l : Launch) : Bool :=
  let others := s.la.launches.filter fun o => o.phase != .done && o.serial != l.serial && o.gangs.any fun g => g.st == .resident
  !(others.any fun o => o.info.exclusive || l.info.exclusive)
    && (l.placed || ((l.info.pool == 0 || (s.ov.abase.getLsbD 0 && decide (s.arenaUsed + l.info.pool ≤ s.ov.asize.toNat)))
      && decide (l.info.tagq ≤ s.tagsLeft) && (!l.info.pod || s.dc.ready.getLsbD 53)))

/-- Slots for one gang of a launch. -/
def State.gangSlots (s : State) (l : Launch) : Option (List Nat) :=
  if s.launchFits l then (fitGroup (s.slotUsable l) l.info.shape 0 2048 []).map (·.2) else none

/-- A stream as it starts (04 R150, 05 R192, R193). -/
def startStream (r : LaunchRec) (tvec : Word) (h : Nat) (isX live : Bool) : Stream :=
  let ent := if isX then r.xent else r.aent
  let on := isX || r.aent != 0
  let st := { Stream.blank with
    pc := ent, det := r.det, ssm := r.aent == 0, strm := isX, tvec, live := on && live, started := on }
  (st.setX 1 r.arg).setX 63 (r.stack + BitVec.ofNat 64 ((h + 1) * r.stride))

/-- A hart as it starts (04 R150). -/
def startHart (r : LaunchRec) (serial tvec : Word) (h : Nat) (live shadow : Bool) : Hart :=
  { Hart.blank with
    serial, index := h, shadow, sa := startStream r tvec h false (live && !shadow)
    sx := startStream r tvec h true (live && !shadow), allot := BitVec.ofNat 7 r.allot, srseed := r.seed }

/-- A launch's scratchpad joins a core (04 R157, 06 R242). -/
def Core.join (k : Core) (serial : Word) (ways : Nat) : Core :=
  if (k.scratch? serial).isSome then k
  else { k with scratch := k.scratch ++ [⟨serial, ways, ways, [], [], [], []⟩] }

/-- Seat a hart on a slot; its streams join the order of turns. Its core keeps no L1 line from before, since the launch's
dependences acquired before its harts start (01 R52). -/
def State.seat (s : State) (l : Launch) (hs : Nat × Nat) : State :=
  let (h, slot) := hs
  let live := !l.info.pod
  let put := fun (s : State) (slot : Nat) (shadow : Bool) =>
    let core := coreOf slot
    ((s.setHart slot (startHart l.info l.serial s.la.tvecdef h live shadow)).setCore core
      ((s.core core).join l.serial l.info.ways)).clearL1 core
  let s := put s slot false
  let s := if l.info.pair then put s (slot + 16) true else s
  let acts := (if l.info.aent = 0 then [] else [Act.stream (.stream slot false)]) ++ [Act.stream (.stream slot true)]
  { s with order := s.order ++ acts }

/-- A usable digest slot that no launch holds (06 R279). -/
def State.freeDigest (s : State) : Option Nat :=
  (List.range 64).find? fun i => (s.mem.dgowner.get? i).isNone && s.mem.dglen.get i 0 != 0

/-- What a launch takes with its first gang: digest slot under DET, pool bytes (06 R279, 10 R421). -/
def State.takeResources (s : State) (l : Launch) : State × Launch :=
  if l.placed then (s, l)
  else
    let l := { l with pool := l.info.pool }
    match if l.info.det then s.freeDigest else none with
    | none => (s, l)
    | some d => (s.setMem { s.mem with dgowner := s.mem.dgowner.put d l.serial }, { l with dslot := some d })

/-- LSTART: a launch's first harts start (14 R558). -/
def State.traceStart (s : State) (l : Launch) : State := s.traceRecord l.home 0xFFFF 6 0 false 0 0 l.name

/-- Seat one gang. -/
def State.seatGang (s : State) (l : Launch) (i : Nat) (slots : List Nat) : State :=
  let (s, l1) := s.takeResources l
  let s := if !l.placed && !l.info.pod then s.traceStart l else s
  let pairs := slots.zipIdx.map fun (slot, j) => (i * slots.length + j, slot)
  let s := pairs.foldl (fun s hs => s.seat l hs) s
  let gangs := l1.gangs.map fun (g : Gang) =>
    if g.index == i then { g with st := .resident, slots := pairs, placedAt := s.la.placeCount } else g
  let l2 := if l.info.pod then { l1 with gangs } else { l1 with gangs, phase := .running, begun := true }
  (s.setLaunch l2).setLa { (s.setLaunch l2).la with placeCount := s.la.placeCount + 1 }

/-- Place the unplaced gangs of a launch in ascending order, for as long as they fit (04 R157). -/
def State.placeGangs (s : State) (serial : Word) : List Nat → State
  | [] => s
  | i :: r =>
    match s.launch? serial with
    | none => s
    | some l =>
      match s.gangSlots l with
      | none => s
      | some slots => (s.seatGang l i slots).placeGangs serial r

/-- Effective priority of a ring: PRIO, raised by waiting up to 7 (04 R147). -/
def Ring.prio (r : Ring) : Nat := min 7 (fieldOf r.rctl.toNat 7 3 + r.raised)

/-- Effective priority of a launch: its ring's as it stands, also when PRIO has been rewritten since it was accepted, or its
own (04 R147; DESIGN CHOICE, log 70). -/
def State.prioOf (s : State) (l : Launch) : Nat :=
  match l.ring with
  | some n => (s.ring n).prio
  | none => l.info.prio

/-- The resident gangs that a launch of priority p may pre-empt: lowest priority first, then most recently placed
(04 R160). -/
def State.victims (s : State) (p : Nat) : List (Word × Gang) :=
  let all := (s.la.launches.filter fun l => l.phase == .running && decide (s.prioOf l < p)).flatMap fun l =>
    (l.gangs.filter fun g => g.st == .resident).map fun g => (s.prioOf l, l.serial, g)
  let key := fun (v : Nat × Word × Gang) => v.1 * 2 ^ 40 + (2 ^ 40 - 1 - v.2.2.placedAt)
  let ins := fun (v : Nat × Word × Gang) (l : List (Nat × Word × Gang)) =>
    (l.takeWhile fun w => key w ≤ key v) ++ [v] ++ l.dropWhile fun w => key w ≤ key v
  (all.foldl (fun acc v => ins v acc) []).map (·.2)

/-- The package as it would be without a gang: for judging a fit. -/
def State.without (s : State) (v : Word × Gang) : State :=
  let slots := v.2.slots.map (·.2)
  let harts := s.harts.filter fun kv => !(slots.contains kv.1 || slots.contains (kv.1 - 16) && kv.2.shadow)
  let left := fun (core : Nat) => harts.any fun kv => kv.2.serial == v.1 && coreOf kv.1 == core
  let cores := s.cores.map fun kv =>
    if left kv.1 then kv else (kv.1, { kv.2 with scratch := kv.2.scratch.filter fun x => x.serial != v.1 })
  { s with harts, cores, la := { s.la with launches := s.la.launches.map fun (l : Launch) =>
      if l.serial == v.1 && l.phase != .done then
        { l with gangs := l.gangs.map fun (g : Gang) => if g.index == v.2.index then { g with st := .preempted } else g }
      else l } }

/-- The gangs that must go for a launch to fit: none when it fits as things stand, nothing when it fits in no way
(04 R160). -/
def State.toPreempt (s : State) (l : Launch) (fits : State → Bool) : Option (List (Word × Gang)) :=
  let vs := s.victims (s.prioOf l)
  ((List.range (vs.length + 1)).find? fun n => fits ((vs.take n).foldl State.without s)).map fun n => vs.take n

/-- Does a launch have a gang to place? -/
def Launch.wantsPlace (l : Launch) : Bool :=
  (l.phase == .eligible || l.phase == .running) && !l.cancelled && l.gangs.any fun g => g.st == .unplaced

/-- Fit of a launch's next gang. -/
def nextFits (l : Launch) (s : State) : Bool := (s.gangSlots l).isSome

/-- Distance of a ring behind the last one served (04 R147: round robin). -/
def ringTurn (last n : Nat) : Nat := (n + 127 - last) % 64

/-- Does a DET launch with unplaced gangs hold entries of a round? Its gangs then have precedence (07 R309). -/
def State.roundWaits (s : State) (l : Launch) : Bool := l.info.det && l.wantsPlace && s.mem.rounds.any fun r => r.serial == l.serial

/-- Must a launch give way: to one of higher priority that can be placed, to the ring whose turn it is (04 R147), or to
one whose round waits for gangs (07 R309)? -/
def State.givesWay (s : State) (l : Launch) : Bool :=
  !s.roundWaits l && s.la.launches.any fun o =>
    o.serial != l.serial && o.wantsPlace &&
      ((s.roundWaits o && nextFits o s)
        || (decide (s.prioOf l < s.prioOf o) && (s.toPreempt o (nextFits o)).isSome)
        || (s.prioOf l == s.prioOf o && (match l.ring, o.ring with
          | some n, some m => n != m && decide (ringTurn s.la.lastRing m < ringTurn s.la.lastRing n) && nextFits o s
          | _, _ => false)))

/-- Ask for the pre-emption of gangs (04 R160, R167). -/
def State.askPreempt (s : State) (vs : List (Word × Gang)) : State :=
  vs.foldl (fun s v => s.updLaunch v.1 fun l =>
    { l with gangs := l.gangs.map fun (g : Gang) => if g.index == v.2.index then { g with asked := true } else g }) s

/-- A ring's launch has been placed: the ring has had its turn, and its aging follows the next oldest eligible launch
(04 R147). -/
def State.ringServed (s : State) (l : Launch) : State :=
  match l.ring with
  | none => s
  | some n => (s.setLa { s.la with lastRing := n }).settleAging n

/-- All ranks of a POD launch have sent their admission (04 R159). -/
def State.allAdmitted (s : State) (l : Launch) : Bool :=
  (List.range l.info.podn).all fun r => s.la.admissions.contains (l.info.podid, r)

/-- A POD launch starts once it holds every admission: its streams come alive, with tvec as TVECDEF then stands
(04 R159, 05 R192). -/
def State.startPod (s : State) (l : Launch) : State :=
  if l.info.pod && l.selfAdmitted && l.phase == .eligible && !l.cancelled && s.allAdmitted l then
    let go := fun (st : Stream) => { st with live := st.started, tvec := s.la.tvecdef }
    let start := fun (kv : Nat × Hart) =>
      if kv.2.serial == l.serial && !kv.2.shadow then (kv.1, { kv.2 with sa := go kv.2.sa, sx := go kv.2.sx }) else kv
    let s := { s with harts := s.harts.map start }
    (s.setLaunch { l with phase := .running, begun := true }).traceStart l
  else s

/-- The package admits its share of a POD launch once all of it is resident, and tells every rank (04 R159). -/
def State.admitSelf (s : State) (serial : Word) : State :=
  match s.launch? serial with
  | none => s
  | some l =>
    if l.info.pod && !l.selfAdmitted && l.gangs.all fun g => g.st == .resident then
      let s := { s with linkOut := s.linkOut ++ [LinkMsg.admission l.info.podid (BitVec.ofNat 16 l.info.podrank)] }
      let l := { l with selfAdmitted := true }
      let s := (s.setLaunch l).setLa { (s.setLaunch l).la with
        admissions := s.la.admissions ++ [(l.info.podid, l.info.podrank)] }
      s.startPod l
    else s

/-- POD_ADMISSION: an admission of a rank comes; it is kept until the share starts (04 R159). -/
def execPodAdmission (podid : BitVec 32) (rank : BitVec 16) (s : State) : Host.Outcome State Fault Refusal :=
  let e := (podid, rank.toNat)
  let s := if s.la.admissions.contains e then s else s.setLa { s.la with admissions := s.la.admissions ++ [e] }
  match s.la.launches.find? fun l => l.phase == .eligible && l.info.pod && l.info.podid == podid with
  | none => .next s
  | some l => .next (s.startPod l)

/-! Signals (04 R154, R155). -/

/-- An engine's add to a launch's signal word: dropped with LAUNCHFAULT when it cannot be performed. One to a word of
another package is sent, and its reply awaited (04 R154, R155). -/
def State.signalAdd (s : State) (l : Launch) (inc detail : Nat) : State :=
  let a := l.info.sigaddr
  if a = 0 then s
  else
    let bad := s.postLaunch l 8 detail (leBytes 8 a)
    match s.peekLeaf l.info.asid a with
    | none => bad
    | some lf =>
      let pa := lf.phys a
      if !lf.allows false .atom || lf.mt = 1 then bad
      else if lf.mt = 2 then
        { s.updLaunch l.serial fun l => { l with adds := l.adds ++ [⟨s.nextId, detail, a, 8, none⟩] } with
          nextId := s.nextId + 1
          linkOut := s.linkOut ++ [LinkMsg.atomic lf.rpkg s.nextId pa 8 1 false (BitVec.ofNat 64 inc) 0] }
      else if s.mem.poisoned (pa / 64) then bad
      else
        (s.homePerform none true [] (pa / 64) (byteMask (pa % 64) 8)
          (Line.write 0 (pa % 64) 8 ((s.mem.homeRead pa 8 + inc) % 2 ^ 64))).wordSignalled pa

/-- The trigger add, once (04 R154). -/
def State.triggerAdd (s : State) (serial : Word) : State :=
  match s.launch? serial with
  | none => s
  | some l =>
    if l.trigDone then s else (s.setLaunch { l with trigDone := true }).signalAdd l l.info.triginc 2

/-! Major 0x88. -/

/-- Launches of an instance's device queue: a record leaves it when its launch is resident (04 R183; DESIGN CHOICE,
log 71). -/
def State.deviceQueued (s : State) (home : Nat) : Nat :=
  s.la.launches.countP fun l => l.device && l.home == home && (l.phase == .waiting || l.phase == .eligible)

/-- The record of a LAUNCH, copied at its issue; none once a refused record's code is written (04 R183). -/
def launchRecord (d a : XOp) (hd : Hdr) : M (Option (List Byte)) := do
  let st ← curStream
  if !st.copied.isEmpty then pure (some st.copied)
  else
    let va := (← readX a).toNat
    if va % 64 ≠ 0 then trap causeAlign (BitVec.ofNat 64 va)
    else
      release (if (← ownLaunch).info.pod then 7 else 6)
      let b ← readCard hd va 256
      let code := (← get).refusal b
      if code ≠ 0 then
        writeX d (BitVec.ofNat 64 (2 ^ 63 + code))
        pure none
      else
        modStream fun st => { st with copied := b }
        pure (some b)

/-- LAUNCH with or without `.try` (04 R183). -/
def bodyLaunch (try_ : Bool) (d a : XOp) (hd : Hdr) : M Unit := do
  let l ← ownLaunch
  match ← launchRecord d a hd with
  | none => pure ()
  | some b =>
    let s ← get
    let home := quadOf (coreOf s.cur.slot)
    if !s.dc.ready.getLsbD (32 + home) then waitHere
    else if 256 ≤ s.deviceQueued home then (if try_ then writeX d 0 else waitHere)
    else
      let r := parseRecord b
      let r := { r with
        asid := if (s.stream s.cur).priv then r.asid else l.info.asid, prio := min r.prio l.info.prio }
      let n := s.la.devCount.get home 0
      let serial := BitVec.ofNat 64 ((65 + home) * 2 ^ 56 + n % 2 ^ 48)
      let s := s.setLa { s.la with devCount := s.la.devCount.put home (n + 1) }
      set (s.accept r serial home l.evq none none)
      writeX d serial

/-- LAUNCH (04 R183). -/
def execLaunch (h : Hdr) (d a : XOp) (s : State) : Host.Outcome State Fault Refusal :=
  runSeq (.launch h d a) h (bodyLaunch false d a h) s

/-- LAUNCH.TRY (04 R183). -/
def execLaunchTry (h : Hdr) (d a : XOp) (s : State) : Host.Outcome State Fault Refusal :=
  runSeq (.launchTry h d a) h (bodyLaunch true d a h) s

/-- TRIG (04 R154, R184). -/
def execTrig (h : Hdr) (s : State) : Host.Outcome State Fault Refusal :=
  runSeq (.trig h) h (do
    let l ← ownLaunch
    release l.info.sigscope
    modify fun s =>
      let s := s.updLaunch l.serial fun l => { l with trigCount := l.trigCount + 1 }
      if l.info.trigcnt ≠ 0 && l.trigCount + 1 = l.info.trigcnt then s.triggerAdd l.serial else s) s

/-- The harts of a launch that run its program: resident and pre-empted ones, shadows left out. -/
def State.launchHarts (s : State) (l : Launch) : List Hart :=
  ((s.harts.filter fun kv => kv.2.serial == l.serial && !kv.2.shadow).map (·.2))
    ++ (l.gangs.flatMap fun g => g.saved).map (·.2)

/-- Count of BARs at a level (04 R185). -/
def Stream.barCount (st : Stream) (lev : Nat) : Nat := (st.bars[lev]?).getD 0

/-- Arrive at the next barrier of a level. -/
def Stream.arriveBar (st : Stream) (lev : Nat) : Stream :=
  { st with
    bars := (List.range 8).map fun i => if i = lev then st.barCount i + 1 else st.barCount i
    barWait := some lev
    stage := 1 }

/-- BAR: releases, arrives, and waits until the barrier is released; then it acquires (04 R185). -/
def execBar (h : Hdr) (lev : Fin 8) (s : State) : Host.Outcome State Fault Refusal :=
  runSeq (.bar h lev) h (do
    let l ← ownLaunch
    if lev = 0 || decide (l.info.nlev ≤ lev.val) then trapIll
    else
      let scope := (l.info.level lev.val).dom
      let st ← curStream
      if st.stage = 0 then
        release scope
        modStream fun st => st.arriveBar lev.val
        waitHere
      else if st.barWait.isSome then waitHere
      else acquire scope) s

/-- The stores of the streams that arrive at a barrier by HALT: harts of the group with such a stream (04 R185). -/
def Hart.haltedIn (h : Hart) : Bool := [h.sa, h.sx].any fun st => st.started && !st.live

/-- BAR_RELEASE: every live stream of a group of a level has arrived at the barrier that its streams wait at. HALT counts as
arrival; what a stream that has halted stored comes before the barrier: its hart's logged stores and trains are waited for,
and its core's write-combining buffer drains (04 R185). At the pod level the event stands for the packages' agreement. -/
def execBarRelease (serial : Word) (level group : Nat) (s : State) : Host.Outcome State Fault Refusal :=
  match s.launch? serial with
  | none => .next s
  | some l =>
    let inGroup := fun (h : Hart) => h.serial == serial && !h.shadow && l.info.groupOf h.index level == group
    let harts := (s.launchHarts l).filter inGroup
    let streams : List Stream := harts.flatMap fun h => [h.sa, h.sx].filter fun st => st.live
    let waiting : List Stream := streams.filter fun st => st.barWait == some level
    let n := (waiting.map fun st => st.barCount level).foldl max 0
    let open_ := harts.any fun h => h.haltedIn && (!h.sideLog.isEmpty || h.trains.any fun t => !t.failed)
    let cores := ((s.harts.filter fun kv => inGroup kv.2 && kv.2.haltedIn).map fun kv => coreOf kv.1).dedup
    if waiting.isEmpty || open_ || !cores.all s.drains || !(streams.all fun st => decide (n ≤ st.barCount level)) then .next s
    else
      let go := fun (st : Stream) => if st.barWait == some level then { st with barWait := none } else st
      let s := if cores.isEmpty then s else let s := cores.foldl State.drainCore s; s.setMem s.mem.dropStale
      .next (s.mapHarts fun h => if inGroup h then { h with sa := go h.sa, sx := go h.sx } else h)

/-- WAITL: the word is read again, with acquire at its scope, at each turn; an answer from another package serves one read
(04 R186). -/
def execWaitl (h : Hdr) (sc : Scope) (d a b : XOp) (s : State) : Host.Outcome State Fault Refusal :=
  runSeq (.waitl h sc d a b) h (do
    let va := (← readX a).toNat
    let least ← readX b
    if va % 8 ≠ 0 then trap causeAlign (BitVec.ofNat 64 va)
    else
      let v ← hartLoad (← hartCtx h.ch (← curTag)) va 8
      acquire (Scope.rank sc)
      if 6 ≤ Scope.rank sc then modify fun s => s.setMem s.mem.dropStale
      if least.toNat ≤ v then writeX d (BitVec.ofNat 64 v)
      else
        modStream fun st => { st with reads := [] }
        waitHere) s

/-- LVLID (04 R187). -/
def execLvlid (h : Hdr) (lev : Fin 8) (sel : LvlSel) (d : XOp) (s : State) : Host.Outcome State Fault Refusal :=
  runSeq (.lvlid h lev sel d) h (do
    if lev = 0 then trapIll
    else
      let l ← ownLaunch
      writeX d (BitVec.ofNat 64 (l.info.lvlid (← curHart).index lev.val sel))) s

end Sys2Proof.Machine
end

