-- ==== Sys2Proof/Machine/Sha3.lean ====
section
/-! DEFINITION. SHA3-256, SHAKE128 and SHAKE256 of FIPS 202, the standard that 15 R587 names (PRESUMED: the standard's
text is outside the spec; log 23). -/

namespace Sys2Proof.Machine

open Sys2Proof

/-- Lane i of a Keccak state of 25 lanes, lane (x, y) at x + 5 y. -/
def keccakLane (a : List Word) (i : Nat) : Word := (a[i]?).getD 0

/-- One step of the register of 8 bits that iota's constants are read from: x^8 = x^6 + x^5 + x^4 + 1. -/
def iotaNext (r : Byte) : Byte := if r.getLsbD 7 then (r <<< 1) ^^^ 0x71 else r <<< 1

/-- The constant of a round, from the register at its start, and the register after it: seven bits, the j-th of them bit
2^j - 1 of the constant. -/
def iotaRound (r : Byte) : Word × Byte :=
  (List.range 7).foldl (fun (p : Word × Byte) j =>
    (if p.2.getLsbD 0 then p.1 ||| (1#64 <<< (2 ^ j - 1)) else p.1, iotaNext p.2)) (0, r)

/-- The constants of n rounds. -/
def iotaFrom : Nat → Byte → List Word
  | 0, _ => []
  | n + 1, r => (iotaRound r).1 :: iotaFrom n (iotaRound r).2

/-- The walk that rho turns the lanes along and pi moves them one place of: from lane (x, y) to lane (y, 2 x + 3 y). Its t-th
step gives the lane that it starts from, the places turned, (t + 1)(t + 2) / 2, and the lane that it ends at. -/
def laneWalk : Nat → Nat → Nat → Nat → List (Nat × Nat × Nat)
  | 0, _, _, _ => []
  | n + 1, t, x, y =>
    let y' := (2 * x + 3 * y) % 5
    (x + 5 * y, (t + 1) * (t + 2) / 2 % 64, y + 5 * y') :: laneWalk n (t + 1) y y'

/-- theta. -/
def keccakTheta (a : List Word) : List Word :=
  let c := (List.range 5).map fun x =>
    keccakLane a x ^^^ keccakLane a (x + 5) ^^^ keccakLane a (x + 10) ^^^ keccakLane a (x + 15) ^^^ keccakLane a (x + 20)
  let d := (List.range 5).map fun x => keccakLane c ((x + 4) % 5) ^^^ (keccakLane c ((x + 1) % 5)).rotateLeft 1
  a.mapIdx fun i w => w ^^^ keccakLane d (i % 5)

/-- rho and pi: every lane but lane 0 turns, and goes to the walk's next lane. -/
def keccakRhoPi (a : List Word) : List Word :=
  (laneWalk 24 0 1 0).foldl (fun b w => b.set w.2.2 ((keccakLane a w.1).rotateLeft w.2.1)) a

/-- chi. -/
def keccakChi (b : List Word) : List Word :=
  (List.range 25).map fun i =>
    let row := i / 5 * 5
    keccakLane b i ^^^ (~~~(keccakLane b (row + (i + 1) % 5)) &&& keccakLane b (row + (i + 2) % 5))

/-- One round. -/
def keccakRound (a : List Word) (rc : Word) : List Word :=
  match keccakChi (keccakRhoPi (keccakTheta a)) with
  | [] => []
  | w :: r => (w ^^^ rc) :: r

/-- The permutation of 1,600 bits. -/
def keccakF (a : List Word) : List Word := (iotaFrom 24 1).foldl keccakRound a

/-- A message with the suffix byte and the padding of a rate. -/
def keccakPad (rate : Nat) (suffix : Byte) (m : List Byte) : List Byte :=
  let q := rate - m.length % rate
  if q = 1 then m ++ [suffix ||| 0x80] else m ++ [suffix] ++ List.replicate (q - 2) 0 ++ [0x80]

/-- The words of bytes, eight a word. -/
def wordsOf : Nat → List Byte → List Word
  | 0, _ => []
  | n + 1, b => BitVec.ofNat 64 (leNat (b.take 8)) :: wordsOf n (b.drop 8)

/-- Absorb n blocks of a rate. -/
def keccakAbsorb (rate : Nat) : Nat → List Byte → List Word → List Word
  | 0, _, a => a
  | n + 1, m, a =>
    let ws := wordsOf (rate / 8) (m.take rate)
    keccakAbsorb rate n (m.drop rate) (keccakF (a.mapIdx fun i w => w ^^^ keccakLane ws i))

/-- The state after absorbing a padded message. -/
def keccakInit (rate : Nat) (suffix : Byte) (m : List Byte) : List Word :=
  let p := keccakPad rate suffix m
  keccakAbsorb rate (p.length / rate) p (List.replicate 25 0)

/-- The bytes of a block that a state gives. -/
def keccakBlock (rate : Nat) (a : List Word) : List Byte := ((a.take (rate / 8)).flatMap fun w => leBytes 8 w.toNat)

/-- n blocks squeezed. -/
def keccakSqueeze (rate : Nat) : Nat → List Word → List Byte
  | 0, _ => []
  | n + 1, a => keccakBlock rate a ++ keccakSqueeze rate n (keccakF a)

/-- SHA3-256. -/
def sha3 (m : List Byte) : List Byte := (keccakBlock 136 (keccakInit 136 0x06 m)).take 32

/-- n bytes of SHAKE128. -/
def shake128 (m : List Byte) (n : Nat) : List Byte :=
  (keccakSqueeze 168 ((n + 167) / 168) (keccakInit 168 0x1F m)).take n

/-- n bytes of SHAKE256. -/
def shake256 (m : List Byte) (n : Nat) : List Byte :=
  (keccakSqueeze 136 ((n + 135) / 136) (keccakInit 136 0x1F m)).take n

end Sys2Proof.Machine
end

