-- ==== Sys2Proof/Machine/MlDsa.lean ====
section
/-! DEFINITION. ML-DSA-44 of FIPS 204, the standard that 15 R587 names: key generation from a seed, deterministic
signing, verification (PRESUMED: the standard's text is outside the spec; log 23). Rejection loops run on fuel that no
input is known to exhaust. -/

namespace Sys2Proof.Machine.MlDsa

open Sys2Proof Sys2Proof.Machine

/-- The modulus q. -/
def modulus : Nat := 8380417

/-- A polynomial: 256 coefficients below q, lowest first. -/
abbrev Poly := List Nat

/-- The sum modulo q. -/
def addQ (a b : Nat) : Nat := (a + b) % modulus

/-- The difference modulo q. -/
def subQ (a b : Nat) : Nat := (a + modulus - b) % modulus

/-- Sum of polynomials. -/
def Poly.add (a b : Poly) : Poly := List.zipWith addQ a b

/-- Difference of polynomials. -/
def Poly.sub (a b : Poly) : Poly := List.zipWith subQ a b

/-- Product of transforms. -/
def Poly.mulHat (a b : Poly) : Poly := List.zipWith (fun x y => x * y % modulus) a b

/-- Reversal of 8 bits. -/
def brv (k : Nat) : Nat := ((List.range 8).map fun i => k / 2 ^ i % 2 * 2 ^ (7 - i)).sum

/-- The root of unity 1753 to the power brv k. -/
def zeta (k : Nat) : Nat := 1753 ^ brv k % modulus

/-- Its inverse: the root has order 512. -/
def zetaInv (k : Nat) : Nat := 1753 ^ (512 - brv k) % modulus

/-- The transform of 2^d coefficients at a node of the tree. -/
def nttFrom : Nat → Nat → Poly → Poly
  | 0, _, a => a
  | d + 1, k, a =>
    let z := zeta k
    let lo := a.take (2 ^ d)
    let hi := (a.drop (2 ^ d)).map fun x => z * x % modulus
    nttFrom d (2 * k) (Poly.add lo hi) ++ nttFrom d (2 * k + 1) (Poly.sub lo hi)

/-- NTT. -/
def ntt (a : Poly) : Poly := nttFrom 8 1 a

/-- The inverse transform at a node, without its scale. -/
def invFrom : Nat → Nat → Poly → Poly
  | 0, _, a => a
  | d + 1, k, a =>
    let lo := invFrom d (2 * k) (a.take (2 ^ d))
    let hi := invFrom d (2 * k + 1) (a.drop (2 ^ d))
    let z := zetaInv k
    Poly.add lo hi ++ (Poly.sub lo hi).map fun x => z * x % modulus

/-- The inverse of NTT: 8347681 is the inverse of 256. -/
def invNtt (a : Poly) : Poly := (invFrom 8 1 a).map fun x => x * 8347681 % modulus

/-! Sampling. -/

/-- Coefficients below q among triples of bytes. -/
def rejTriples : List Byte → List Nat
  | b0 :: b1 :: b2 :: r =>
    let z := b0.toNat + 256 * b1.toNat + 65536 * (b2.toNat % 128)
    if z < modulus then z :: rejTriples r else rejTriples r
  | _ => []

/-- 256 coefficients of the transform domain from SHAKE128. -/
def rejNttPoly (seed : List Byte) : Poly := (rejTriples (shake128 seed (168 * 12))).take 256

/-- Coefficients in [-2, 2] among half bytes. -/
def rejHalves : List Byte → List Nat
  | [] => []
  | b :: r =>
    let one := fun (n : Nat) => if n < 15 then [subQ 2 (n % 5)] else []
    one (b.toNat % 16) ++ one (b.toNat / 16) ++ rejHalves r

/-- 256 small coefficients from SHAKE256. -/
def rejBoundedPoly (seed : List Byte) : Poly := (rejHalves (shake256 seed (136 * 6))).take 256

/-- The matrix of 4 rows from the public seed. -/
def expandA (rho : List Byte) : List (List Poly) :=
  (List.range 4).map fun r => (List.range 4).map fun c => rejNttPoly (rho ++ leBytes 1 c ++ leBytes 1 r)

/-- The secret vectors from their seed. -/
def expandS (rho : List Byte) (first : Nat) : List Poly :=
  (List.range 4).map fun r => rejBoundedPoly (rho ++ leBytes 2 (first + r))

/-- Fields of n bits of a string of bytes, lowest first. -/
def bitFields (n count : Nat) (b : List Byte) : List Nat :=
  let v := leNat b
  (List.range count).map fun i => v / 2 ^ (n * i) % 2 ^ n

/-- Numbers packed in n bits each, lowest first. -/
def packFields (n : Nat) (l : List Nat) : List Byte :=
  leBytes (n * l.length / 8) (l.foldr (fun x acc => x + 2 ^ n * acc) 0)

/-- A coefficient coded as gamma1 - z in 18 bits. -/
def unmask (x : Nat) : Nat := subQ 131072 x

/-- The masking vector. -/
def expandMask (rho : List Byte) (kappa : Nat) : List Poly :=
  (List.range 4).map fun r => (bitFields 18 256 (shake256 (rho ++ leBytes 2 (kappa + r)) 576)).map unmask

/-- Positions drawn for the i-th of the 39 nonzero coefficients: the first byte that is at most i. -/
def ballDraw (i : Nat) : List Byte → Nat × List Byte
  | [] => (0, [])
  | b :: r => if b.toNat ≤ i then (b.toNat, r) else ballDraw i r

/-- The 39 steps of SampleInBall. -/
def ballSteps (signs : Nat) : List Nat → List Byte → Poly → Poly
  | [], _, c => c
  | i :: rest, bs, c =>
    let (j, bs) := ballDraw i bs
    let c := c.set i (c.getD j 0)
    ballSteps signs rest bs (c.set j (if signs / 2 ^ (i + 39 - 256) % 2 = 1 then modulus - 1 else 1))

/-- SampleInBall. -/
def sampleInBall (seed : List Byte) : Poly :=
  let bs := shake256 seed (136 * 8)
  ballSteps (leNat (bs.take 8)) ((List.range 39).map (· + 217)) (bs.drop 8) (List.replicate 256 0)

/-! Rounding. -/

/-- Twice gamma2. -/
def alpha : Nat := 190464

/-- The high and low part of r: r1 in 0..43, r0 as an integer. -/
def decompose (r : Nat) : Nat × Int :=
  let m := r % alpha
  let r0 : Int := if alpha / 2 < m then (m : Int) - alpha else m
  if (r : Int) - r0 = modulus - 1 then (0, r0 - 1) else ((((r : Int) - r0) / alpha).toNat, r0)

/-- HighBits. -/
def highBits (r : Nat) : Nat := (decompose r).1

/-- The part t1 of a coefficient: t without its 13 low bits, rounded. -/
def power2High (r : Nat) : Nat := if r % 8192 ≤ 4096 then r / 8192 else r / 8192 + 1

/-- The part t0 modulo q. -/
def power2Low (r : Nat) : Nat := subQ r (8192 * power2High r)

/-- UseHint. -/
def useHint (h : Bool) (r : Nat) : Nat :=
  let (r1, r0) := decompose r
  if h then (if 0 < r0 then (r1 + 1) % 44 else (r1 + 43) % 44) else r1

/-- Distance of a coefficient from 0. -/
def absQ (x : Nat) : Nat := min x (modulus - x)

/-- Does every coefficient lie nearer to 0 than b? -/
def normBelow (b : Nat) (v : List Poly) : Bool := v.all fun p => p.all fun x => decide (absQ x < b)

/-! Vectors. -/

/-- Product of the matrix with a vector, both transformed. -/
def matMul (a : List (List Poly)) (v : List Poly) : List Poly :=
  a.map fun row => (List.zipWith Poly.mulHat row v).foldl Poly.add (List.replicate 256 0)

/-- w1Encode: 6 bits a coefficient. -/
def encodeW1 (w : List Poly) : List Byte := w.flatMap fun p => packFields 6 p

/-- HintBitPack: positions in order, then the four running counts. -/
def packHint (h : List (List Bool)) : List Byte :=
  let pos := h.map fun p => (p.zipIdx.filter fun x => x.1).map fun x => x.2
  let flat := pos.flatten
  let counts := (List.range 4).map fun i => ((pos.take (i + 1)).map List.length).sum
  (flat ++ List.replicate (80 - flat.length) 0 ++ counts).map (BitVec.ofNat 8)

/-- Positions strictly rising. -/
def rising : List Nat → Bool
  | a :: b :: r => decide (a < b) && rising (b :: r)
  | _ => true

/-- HintBitUnpack: none for a string that no hint packs to. -/
def unpackHint (y : List Byte) : Option (List (List Bool)) :=
  let at_ := fun (i : Nat) => ((y[i]?).getD 0).toNat
  let ends := (List.range 4).map fun i => at_ (80 + i)
  let starts := 0 :: ends
  let parts := (List.range 4).map fun i =>
    let lo := (starts[i]?).getD 0
    let hi := (ends[i]?).getD 0
    (lo, hi, (List.range (hi - lo)).map fun j => at_ (lo + j))
  let last := (ends[3]?).getD 0
  if (parts.all fun p => decide (p.1 ≤ p.2.1) && decide (p.2.1 ≤ 80) && rising p.2.2)
      && ((List.range (80 - last)).all fun j => at_ (last + j) == 0) then
    some (parts.map fun p => (List.range 256).map fun j => p.2.2.contains j)
  else none

/-! Keys, signing, verification. -/

/-- A key pair's parts. -/
structure Keys where
  rho : List Byte
  k : List Byte
  s1 : List Poly
  s2 : List Poly
  t1 : List Poly
  t0 : List Poly
  pk : List Byte

/-- ML-DSA.KeyGen_internal. -/
def keyGen (seed : List Byte) : Keys :=
  let h := shake256 (seed ++ [4, 4]) 128
  let rho := h.take 32
  let rho' := (h.drop 32).take 64
  let s1 := expandS rho' 0
  let s2 := expandS rho' 4
  let t := List.zipWith Poly.add ((matMul (expandA rho) (s1.map ntt)).map invNtt) s2
  let t1 := t.map fun p => p.map power2High
  { rho, k := h.drop 96, s1, s2, t1, t0 := t.map fun p => p.map power2Low
    pk := rho ++ t1.flatMap fun p => packFields 10 p }

/-- The message that a context makes of a message. -/
def withContext (ctx m : List Byte) : List Byte := [0, BitVec.ofNat 8 ctx.length] ++ ctx ++ m

/-- The representative of a message under a public key. -/
def messageRep (pk ctx m : List Byte) : List Byte := shake256 (shake256 pk 64 ++ withContext ctx m) 64

/-- One round of the signing loop: a signature unless the round rejects. -/
def signRound (key : Keys) (a : List (List Poly)) (mu rho : List Byte) (kappa : Nat) : Option (List Byte) :=
  let y := expandMask rho kappa
  let w := (matMul a (y.map ntt)).map invNtt
  let ct := shake256 (mu ++ encodeW1 (w.map fun p => p.map highBits)) 32
  let c := ntt (sampleInBall ct)
  let times := fun (v : List Poly) => v.map fun p => invNtt (Poly.mulHat c (ntt p))
  let z := List.zipWith Poly.add y (times key.s1)
  let r := List.zipWith Poly.sub w (times key.s2)
  let low := r.all fun p => p.all fun x => decide ((decompose x).2.natAbs < 95232 - 78)
  if !normBelow (131072 - 78) z || !low then none
  else
    let ct0 := times key.t0
    let h := List.zipWith (fun (p q : Poly) => List.zipWith (fun x e => highBits x != highBits (addQ x e)) p q) r ct0
    if !normBelow 95232 ct0 || decide (80 < (h.map fun p => p.countP fun b => b).sum) then none
    else some (ct ++ (z.flatMap fun p => packFields 18 (p.map unmask)) ++ packHint h)

/-- The signing loop. -/
def signLoop (key : Keys) (a : List (List Poly)) (mu rho : List Byte) : Nat → Nat → List Byte
  | 0, _ => []
  | n + 1, kappa => (signRound key a mu rho kappa).getD (signLoop key a mu rho n (kappa + 4))

/-- The deterministic signature of a message under a context, 2,420 bytes. -/
def sign (key : Keys) (ctx m : List Byte) : List Byte :=
  let mu := messageRep key.pk ctx m
  let rho := shake256 (key.k ++ List.replicate 32 0 ++ mu) 64
  signLoop key (expandA key.rho) mu rho 16384 0

/-- Does a signature of 2,420 bytes verify under a public key of 1,312? -/
def verify (pk ctx m sig : List Byte) : Bool :=
  let rho := pk.take 32
  let t1 := (List.range 4).map fun i => bitFields 10 256 ((pk.drop (32 + 320 * i)).take 320)
  let ct := sig.take 32
  let z := (List.range 4).map fun i => (bitFields 18 256 ((sig.drop (32 + 576 * i)).take 576)).map unmask
  match unpackHint (sig.drop 2336) with
  | none => false
  | some h =>
    let c := ntt (sampleInBall ct)
    let az := matMul (expandA rho) (z.map ntt)
    let ct1 := t1.map fun p => Poly.mulHat c (ntt (p.map fun x => x * 8192 % modulus))
    let w := (List.zipWith Poly.sub az ct1).map invNtt
    let w1 := List.zipWith (fun (p : List Bool) (q : Poly) => List.zipWith useHint p q) h w
    normBelow (131072 - 78) z && shake256 (messageRep pk ctx m ++ encodeW1 w1) 32 == ct

end Sys2Proof.Machine.MlDsa
end

