-- ==== Sys2Proof/Machine/Power.lean ====
section
/-! DEFINITION. Operating points and their limits, the clock lock's forced break, and the sensors (14 R566; 15 R603..
R606). -/

namespace Sys2Proof.Machine

open Sys2Proof

/-! The operating point (15 R604): points are ordered by number, the highest being the slowest. -/

/-- The highest-numbered of PCAP, the thermal limit and the power limit. -/
def DcSys.limit (d : DcSys) : Fin 8 := max d.pcap (max d.thermal d.power)

/-- The locked point while a lock holds (14 R566). -/
def SvSys.lockedAt (v : SvSys) : Option (Fin 8) := if v.broken then none else v.lock.map fun l => l.2

/-- The point that governs the package (15 R604). -/
def State.targetPoint (s : State) : Fin 8 := max (s.sv.lockedAt.getD s.dc.choice) s.dc.limit

/-- The operating point takes the value that governs it. -/
def State.settlePoint (s : State) : State :=
  { s with sv := { s.sv with point := s.targetPoint }, dc := { s.dc with pointBy := none } }

/-- A forced break: LOCKED is cleared, BROKEN set, the point lowered, CLKBREAK recorded and posted (14 R566). -/
def State.forceBreak (s : State) (cause : Nat) : State :=
  let s := ({ s with sv := { s.sv with broken := true } } : State).settlePoint
  (s.tracePackage 4 s.sv.point.val (BitVec.ofNat 64 cause)).postCollector 23 cause []

/-- A limit has risen to a point: THROTTLE is posted, and a rise above the locked point breaks the lock (15 R604). -/
def State.limitRose (s : State) (cause : Nat) (p : Fin 8) : State :=
  let s := s.postEvent (s.dc.dmctl.toNat % 16) 216 25 cause 0 (leBytes 8 p.val)
  match s.sv.lockedAt with
  | none => s
  | some q => if q < p then s.forceBreak cause else s

/-- One point higher, up to P7. -/
def pointUp (p : Fin 8) : Fin 8 := if p = 7 then 7 else p + 1

/-- One point lower, down to P0. -/
def pointDown (p : Fin 8) : Fin 8 := if p = 0 then 0 else p - 1

/-- A new thermal limit. -/
def State.setThermal (s : State) (p : Fin 8) : State :=
  let old := s.dc.thermal
  let s := { s with dc := { s.dc with thermal := p } }
  if old < p then s.limitRose 1 p else s

/-- A new power limit. -/
def State.setPower (s : State) (p : Fin 8) : State :=
  let old := s.dc.power
  let s := { s with dc := { s.dc with power := p } }
  if old < p then s.limitRose 2 p else s

/-- A new PCAP. -/
def State.setPcap (s : State) (p : Fin 8) : State :=
  let old := s.dc.pcap
  let s := { s with dc := { s.dc with pcap := p } }
  if old < p then s.limitRose 3 p else s

/-- PCAP_WRITE: bits [2:0], by the host or, as a board request, over I3C (15 R604, R607). -/
def execPcapWrite (_board : Bool) (v : Word) (s : State) : Host.Outcome State Fault Refusal :=
  .next (s.setPcap ⟨v.toNat % 8, Nat.mod_lt _ (by decide)⟩)

/-- POWER_LIMIT_RAISE: the mean power of the last 10 periods exceeds 4.9 kW (15 R604). -/
def execPowerLimitRaise (s : State) : Host.Outcome State Fault Refusal :=
  .next (if s.dc.dueRaise then
    ({ s with dc := { s.dc with dueRaise := false } } : State).setPower (pointUp s.dc.power) else s)

/-- POWER_LIMIT_RELAX: 100 periods below 4.6 kW (15 R604). -/
def execPowerLimitRelax (s : State) : Host.Outcome State Fault Refusal :=
  .next (if s.dc.dueRelax then
    ({ s with dc := { s.dc with dueRelax := false } } : State).setPower (pointDown s.dc.power) else s)

/-- THERMAL_LIMIT_RAISE: 100,000 ticks at or above 95 degrees (15 R604). -/
def execThermalLimitRaise (s : State) : Host.Outcome State Fault Refusal :=
  .next (if s.dc.dueHot then
    ({ s with dc := { s.dc with dueHot := false } } : State).setThermal (pointUp s.dc.thermal) else s)

/-- THERMAL_TRIP: a sensor reads 105 degrees (15 R604). -/
def execThermalTrip (s : State) : Host.Outcome State Fault Refusal :=
  .next (if s.dc.dueTrip then ({ s with dc := { s.dc with dueTrip := false } } : State).setThermal 7 else s)

/-- THERMAL_LIMIT_RELAX: 1,000,000 ticks below 90 degrees (15 R604). -/
def execThermalLimitRelax (s : State) : Host.Outcome State Fault Refusal :=
  .next (if s.dc.dueCold then
    ({ s with dc := { s.dc with dueCold := false } } : State).setThermal (pointDown s.dc.thermal) else s)

/-- POINT_CHANGE: the package takes the point that governs it. What the firmware chooses while no lock holds is free
(15 R604; log 5). -/
def execPointChange (s : State) : Host.Outcome State Fault Refusal :=
  if s.sv.lockedAt.isSome then .next s.settlePoint
  else
    let (w, s) := s.draw
    .next ({ s with dc := { s.dc with choice := ⟨w.toNat % 8, Nat.mod_lt _ (by decide)⟩ } } : State).settlePoint

/-! Sensors: what they read is free (15 R604, R606; log 5). -/

/-- A sensor of TEMP in degrees: Q0..Q3, and the hottest stack. -/
def DcSys.sensor (d : DcSys) (i : Nat) : Nat := fieldOf d.temps.toNat (8 * i) 8

/-- Some sensor reads at least so much. -/
def DcSys.anyAt (d : DcSys) (t : Nat) : Bool := (List.range 5).any fun i => decide (t ≤ d.sensor i)

/-- The thermal counts of a tick (15 R604). -/
def DcSys.thermalTick (d : DcSys) : DcSys :=
  let hot := d.hotTicks + (d.anyAt 95).toNat
  let cold := if d.anyAt 90 then 0 else d.coldTicks + 1
  { d with
    hotTicks := if hot = 100000 then 0 else hot
    dueHot := d.dueHot || hot == 100000
    coldTicks := if cold = 1000000 then 0 else cold
    dueCold := d.dueCold || cold == 1000000
    dueTrip := d.dueTrip || d.anyAt 105 }

/-- The steps of limits that sensors have asked for. -/
def dueSteps : List (State → Host.Outcome State Fault Refusal) :=
  [execThermalTrip, execThermalLimitRaise, execPowerLimitRaise, execPowerLimitRelax, execThermalLimitRelax]

/-- A limit moves before the tick after the one that called for it (15 R604). -/
def State.settleLimits (s : State) : State :=
  dueSteps.foldl (fun s f => match f s with
    | .next t => t
    | _ => s) s

/-- The sensors are read at a tick. -/
def State.senseTick (s : State) : State :=
  let (w, s) := s.draw
  { s with dc := ({ s.dc with temps := w.setWidth 40 } : DcSys).thermalTick }

/-- The counts of mean power at a period's end (15 R604). -/
def DcSys.powerPeriod (d : DcSys) (watts : BitVec 16) : DcSys :=
  let powers := (watts.toNat :: d.powers).take 10
  let cool := if watts.toNat < 4600 then d.coolPeriods + 1 else 0
  { d with
    meanPower := watts
    powers := powers
    dueRaise := d.dueRaise || (powers.length == 10 && decide (49000 < powers.sum))
    coolPeriods := if cool = 100 then 0 else cool
    dueRelax := d.dueRelax || cool == 100 }

/-- The mean power of a period is taken at its end. -/
def State.sensePeriod (s : State) : State :=
  let (w, s) := s.draw
  { s with dc := s.dc.powerPeriod (w.setWidth 16) }

/-- The point follows what governs it within 10,000 ticks (15 R604). -/
def State.pointDeadline (s : State) : State :=
  if s.targetPoint = s.sv.point then { s with dc := { s.dc with pointBy := none } }
  else match s.dc.pointBy with
    | none => { s with dc := { s.dc with pointBy := some (s.tick + 10000) } }
    | some t => if t ≤ s.tick then s.settlePoint else s

end Sys2Proof.Machine
end

