-- ==== Sys2Proof/Machine/Survey.lean ====
section
/-! DEFINITION. The survey engine: major 0x90, sampling, precise stops, the clock lock, replay registers, and the
meridian counter (14). -/

namespace Sys2Proof.Machine

open Sys2Proof

/-! Marks and ticks (14 R572, R573). -/

/-- Does something that a stream has issued still await its completion: an entry of the hart's vector issue order, a
store whose trains are not acknowledged, a command in an array order (01 R14, 14 R572)? -/
def State.ownOpen (s : State) (slot : Nat) (isX : Bool) : Bool :=
  let h := s.hart slot
  (h.inflight.any fun e => e.isX == isX) || (h.trains.any fun t => t.isX == isX && !t.failed && t.round.isNone)
    || s.arrays.any fun kv => kv.2.queue.any fun c => c.hart == slot && c.isX == isX

/-- Wait until the stream's earlier instructions, and its entries of the vector issue order, have completed
(14 R572). -/
def awaitOwn : M Unit := do
  let s ← get
  if s.ownOpen s.cur.slot s.cur.isX then waitHere else pure ()

/-- MTICK (14 R572). -/
def execMtick (h : Hdr) (d : XOp) (s : State) : Host.Outcome State Fault Refusal :=
  runSeq (.mtick h d) h (do writeX d (← get).sv.mtick) s

/-- MTICK.ORD (14 R572). -/
def execMtickOrd (h : Hdr) (d : XOp) (s : State) : Host.Outcome State Fault Refusal :=
  runSeq (.mtickOrd h d) h (do
    awaitOwn
    writeX d (← get).sv.mtick) s

/-- An instruction of the survey engine waits until the engine is up (01 R26, 15 R601). -/
def runSurvey (i : Instr) (h : Hdr) (body : M Unit) (s : State) : Host.Outcome State Fault Refusal :=
  runSeq i h (do
    needUnit 55
    body) s

/-- SVMARK: a MARK record when TRCTL.CLS holds the launch's class (14 R573). -/
def execSvmark (h : Hdr) (code : BitVec 16) (a : XOp) (s : State) : Host.Outcome State Fault Refusal :=
  runSurvey (.svmark h code a) h (do
    awaitOwn
    let v ← readX a
    let s ← get
    let slot := s.cur.slot
    let q := quadOf (coreOf slot)
    let cls := match s.launchOf slot with
      | some l => l.info.bclass
      | none => 15
    if (s.traceRing q).ctl.getLsbD (7 + cls) then
      set (s.traceRecord q (coreOf slot) 1 (slot % 4) s.cur.isX code.toNat s.issue.n v)
    else pure ()) s

/-! Sampling (14 R560, R561, R574, R575). -/

/-- SVSAMP (14 R574). -/
def execSvsamp (h : Hdr) (n : BitVec 5) (a : XOp) (s : State) : Host.Outcome State Fault Refusal :=
  runSurvey (.svsamp h n a) h (do
    let v ← readX a
    let va := v.toNat
    let c ← hartCtx 0 0
    if va % 64 ≠ 0 then trap causeAlign v
    else match addrKind c.core va with
      | .scratch core off =>
        if core ≠ c.core then trap causeProt v
        else
          let _ ← scratchAt c va core off 2048
          modHart fun h => { h with svN := n, svBuf := v, svRd := 0, svOcc := 0, svLost := 0, svCount := 0 }
      | _ => trap causeProt v) s

/-- SVSAMP.OFF: the buffer state stays (14 R574). -/
def execSvsampOff (h : Hdr) (s : State) : Host.Outcome State Fault Refusal :=
  runSurvey (.svsampOff h) h (modHart fun h => { h with svN := 0 }) s

/-- SVREAD (14 R575). -/
def execSvread (h : Hdr) (sel : Fin 4) (d a : XOp) (s : State) : Host.Outcome State Fault Refusal :=
  runSurvey (.svread h sel d a) h (do
    let v ← readX a
    if (sel = 0 || sel = 3) && v != 0 then trapIll
    else if sel = 0 then
      acquire 2
      writeX d (← curHart).svsoccReg
    else if sel = 1 then
      let hart ← curHart
      let k := min v.toNat hart.svOcc.toNat
      modHart fun h => { h with svRd := h.svRd + BitVec.ofNat 5 k, svOcc := h.svOcc - BitVec.ofNat 6 k }
      writeX d (BitVec.ofNat 64 k)
    else if sel = 2 then
      let e := match ← curLaunch? with
        | some l => l.energy.get v.toNat 0
        | none => 0
      writeX d (if v.toNat < 10 then e else 0)
    else
      let s ← get
      let r := s.traceRing (quadOf (coreOf s.cur.slot))
      writeX d (BitVec.ofNat 64 ((r.ctl.getLsbD 0).toNat + 2 * (decide (0 < r.lost)).toNat))) s

/-- The 64 bytes of a sample record (14 R561): queueing ticks per stage passed, and ticks in all. -/
def SampleReq.bytes (r : SampleReq) (stages : List (Nat × Nat)) (total : Nat) : List Byte :=
  let stages := stages.filter fun x => x.1 < 8
  let passed := fun (i : Nat) => (stages.any fun x => x.1 == i) || (r.remote && i == 5)
  let ticks := fun (i : Nat) => ((stages.filter fun x => x.1 == i).map (·.2)).sum
  leBytes 8 r.tick ++ leBytes 8 r.n.toNat ++ leBytes 8 r.va ++ leBytes 1 r.kind
    ++ leBytes 1 (r.lane + 16 * r.isX.toNat)
    ++ leBytes 1 ((List.range 8).map fun i => if passed i then 2 ^ i else 0).sum ++ leBytes 1 0
    ++ leBytes 4 (min total (2 ^ 32 - 1))
    ++ ((List.range 8).flatMap fun i => leBytes 2 (min (ticks i) 65535)) ++ List.replicate 16 0

/-- A sample is dropped and counted (14 R561). -/
def Hart.dropSample (h : Hart) : Hart :=
  { h with svLost := if h.svLost = BitVec.allOnes 16 then h.svLost else h.svLost + 1 }

/-- SAMPLE_RECORD: the hart's oldest sampled request completes; its record is stored to the sample buffer, or dropped
(14 R561). What the stages took is what the event says. One sampled before an SVSAMP completes into the old buffer
and does not count (14 R574). -/
def execSampleRecord (hart : Nat) (stages : List (Nat × Nat)) (total : Nat) (s : State) :
    Host.Outcome State Fault Refusal :=
  match s.hart? hart with
  | none => .next s
  | some h =>
    match h.svPend with
    | [] => .next s
    | r :: rest =>
      let core := coreOf hart
      let off := r.buf.toNat % 0x400000 + 64 * ((h.svRd.toNat + h.svOcc.toNat) % 32)
      let room := match (s.core core).scratch? h.serial with
        | some x => decide (off + 64 ≤ x.spw * 65536)
        | none => false
      if h.svOcc = 32 || !room then .next (s.setHart hart { h.dropSample with svPend := rest })
      else
        let s := s.setHart hart { h with svPend := rest, svOcc := if r.buf = h.svBuf then h.svOcc + 1 else h.svOcc }
        .next (s.scratchStore core h.serial off (r.bytes stages total))

/-! Precise stops (14 R564, R565, R576). -/

/-- Permissions that the debug port grants: every one in MANUFACTURE and RMA, those of DBGOPEN in STATE 5, none
otherwise (15 R598, R616). -/
def DcSys.portPerm (d : DcSys) : BitVec 32 :=
  if d.lc = 0 ∨ d.lc = 4 then 0x1F else if d.dunlk = 5 then d.dbgMask else 0

/-- Arm a stop: the result of R576, the port's STOP permission first, then the tick, then a stop already armed. -/
def State.armStop (s : State) (t : Word) : State × Word :=
  if !s.dc.portPerm.getLsbD 3 then (s, 3)
  else if t.toNat < s.tick + 1000 then (s, 1)
  else if s.sv.stopAt.isSome then (s, 2)
  else ({ s with sv := { s.sv with stopAt := some t } }, 0)

/-- SVSTOP (14 R576). -/
def execSvstop (h : Hdr) (d a : XOp) (s : State) : Host.Outcome State Fault Refusal :=
  runSurvey (.svstop h d a) h (do
    let t ← readX a
    let (s, r) := (← get).armStop t
    set s
    writeX d r) s

/-- An armed stop fires once the counter has reached its tick; one at 2^64 - 1 never does (14 R564, R576). -/
def State.fireStop (s : State) : State :=
  match s.sv.stopAt with
  | some t =>
    if t != allOnes64 && t.toNat ≤ s.tick then { s with sv := { s.sv with stopped := true } } else s
  | none => s

/-- STOP_FIRE (14 R564). -/
def execStopFire (s : State) : Host.Outcome State Fault Refusal := .next s.fireStop

/-- Bounds in ticks do not count the stopped interval (14 R565): every age starts later by d ticks. -/
def State.shiftAges (s : State) (d : Nat) : State :=
  let w := fun (st : Stream) =>
    { st with waiting := st.waiting.map fun x => { x with until_ := x.until_.map fun t => t + d } }
  { s with
    harts := s.harts.map fun kv => (kv.1, { kv.2 with
      sa := w kv.2.sa, sx := w kv.2.sx, sideLog := kv.2.sideLog.map fun e => { e with since := e.since + d } })
    cores := s.cores.map fun kv => (kv.1, { kv.2 with
      l1 := kv.2.l1.map fun l => { l with tick := l.tick + d }
      wcb := kv.2.wcb.map fun e => { e with tick := e.tick + d } })
    mem := { s.mem with border := s.mem.border.map fun b => { b with stale := b.stale.map fun t => t + d } }
    la := { s.la with
      rings := s.la.rings.map fun kv => (kv.1, { kv.2 with aging := kv.2.aging.map fun a => (a.1, a.2 + d) })
      launches := s.la.launches.map fun l => { l with evalAt := l.evalAt + d } }
    dc := { s.dc with core := w s.dc.core, pointBy := s.dc.pointBy.map fun t => t + d } }

/-- SVRUN_WRITE: a write of 1 ungates a stopped package; a STOP record holds the stop tick and the resume tick
(14 R558, R564). -/
def execSvrunWrite (v : Word) (s : State) : Host.Outcome State Fault Refusal :=
  match s.sv.stopAt with
  | some t =>
    if v = 1 ∧ s.sv.stopped then
      let now := s.tick
      let s := { s with sv := { s.sv with stopped := false, stopAt := none } }
      .next ((s.shiftAges (now - t.toNat)).traceAt t.toNat 0 0xFFFF 5 0 false 0 0 (BitVec.ofNat 64 now))
    else .next s
  | none => .next s

/-- SVSTAT_DISARM: a write with bit 0 clear disarms a stop that has not fired (14 R564). -/
def execSvstatDisarm (v : Word) (s : State) : Host.Outcome State Fault Refusal :=
  .next (if !v.getLsbD 0 && !s.sv.stopped then { s with sv := { s.sv with stopAt := none } } else s)

/-! The clock lock (14 R566, R577). -/

/-- The lock's holder gives it up: BROKEN is cleared and CLKUNLOCK recorded. -/
def State.releaseLock (s : State) : State :=
  ({ s with sv := { s.sv with lock := none, broken := false } } : State).tracePackage 3 0 0

/-- Does a launch hold the clock lock? -/
def SvSys.heldBy (v : SvSys) (serial : Word) : Bool := (v.lock.map fun l => l.1) == some serial

/-- The lock goes with its holder's completion or cancellation (14 R566). -/
def State.dropLock (s : State) (serial : Word) : State := if s.sv.heldBy serial then s.releaseLock else s

/-- CLKLOCK: the result, and what it does (14 R577). -/
def State.takeLock (s : State) (serial : Word) (p : Fin 8) : State × Word :=
  if s.sv.lock.isSome && !s.sv.heldBy serial then (s, 1)
  else if p < s.dc.limit then (s, 2)
  else
    let s := { s with sv := { s.sv with lock := some (serial, p), broken := false } }
    (s.settlePoint.tracePackage 2 p.val 0, 0)

/-- CLKLOCK (14 R577). -/
noncomputable def execClklock (h : Hdr) (p : Fin 8) (d : XOp) (s : State) : Host.Outcome State Fault Refusal :=
  runSurvey (.clklock h p d) h (do
    let (s, r) := (← get).takeLock (← curHart).serial p
    set s
    writeX d r) s

/-- CLKLOCK.OFF (14 R577). -/
noncomputable def execClklockOff (h : Hdr) (d : XOp) (s : State) : Host.Outcome State Fault Refusal :=
  runSurvey (.clklockOff h d) h (do
    let s ← get
    if s.sv.heldBy (← curHart).serial then
      set s.releaseLock
      writeX d 0
    else writeX d 1) s

/-! Replay registers and inputs (14 R567..R570). -/

/-- RLCTL as it reads back: MODE 3 becomes 0, LOGN outside 4..24 becomes 4 (14 R567). -/
def rlctlOf (v : Word) : Word :=
  let n := v.toNat % 2 ^ 28
  let logn := fieldOf n 18 5
  let n := if n % 4 = 3 then n - 3 else n
  BitVec.ofNat 64 (if 4 ≤ logn ∧ logn ≤ 24 then n else n - logn * 2 ^ 18 + 4 * 2 ^ 18)

/-- RLCTL_WRITE: the new mode holds for inputs that become final later (14 R570). -/
def execRlctlWrite (v : Word) (s : State) : Host.Outcome State Fault Refusal :=
  .next ({ s with sv := { s.sv with rlctl := rlctlOf v, logReads := [] } } : State).requestLog.retryInputs

/-- RLWPTR_SUPPLY: in replay mode the host supplies records; a write in another mode is ignored (14 R567, R570). -/
def execRlwptrSupply (v : Word) (s : State) : Host.Outcome State Fault Refusal :=
  .next (if s.sv.mode = 2 then ({ s with sv := { s.sv with rlwptr := v } } : State).requestLog.retryInputs else s)

/-- REPLAY_INPUT_ARRIVE: an input of a logged kind is recorded, or held until the log lists it; others that were held
behind it then go on (14 R568, R569). -/
def execReplayInputArrive (i : ReplayInput) (s : State) : Host.Outcome State Fault Refusal :=
  match s.replayInput i with
  | none => .next { s with sv := { s.sv with held := s.sv.held ++ [i] } }
  | some s => .next s.retryInputs

/-! The meridian counter (14 R553, R554). -/

/-- TICK_ALIGN: a package whose TICK bit is clear takes the pod's counter, never going back, and sets the bit
(14 R553, R554). -/
def execTickAlign (tick : Word) (s : State) : Host.Outcome State Fault Refusal :=
  if s.dc.ready.getLsbD 53 then .next s
  else
    let t := if s.sv.mtick.toNat < tick.toNat then tick else s.sv.mtick
    .next ({ s with sv := { s.sv with mtick := t }, dc := { s.dc with ready := s.dc.ready ||| (1#57 <<< 53) } } :
      State).fireStop

/-- TICK_ALIGN_LOSS: the bit is cleared and STOPPED posted with detail 2 (14 R554). -/
def execTickAlignLoss (s : State) : Host.Outcome State Fault Refusal :=
  if s.dc.ready.getLsbD 53 then
    .next (({ s with dc := { s.dc with ready := s.dc.ready &&& ~~~(1#57 <<< 53) } } : State).postCollector 22 2 [])
  else .next s

/-- What the ages of caches force at a tick: write-combining entries of 512 ticks drain and logged entries free to perform for
2,000 do, unless a budget holds them, L1 lines of 4,096 and border copies that have awaited invalidation for 500 go
(01 R33, 06 R245, R246, R248, R275, R278). -/
def State.ageCaches (s : State) : State :=
  let now := s.tick
  let drain := fun (s : State) (c : Nat) =>
    let due := (s.core c).wcb.zipIdx.filter fun e => decide (e.1.tick + Config.wcbTicks ≤ now)
    s.drainSome c (s.drainable c (((due.map fun e => e.2 + 1).max?).getD 0))
  let s := (s.cores.map (·.1)).foldl drain s
  let s := ((s.harts.filter fun kv => !kv.2.sideLog.isEmpty).map (·.1)).foldl (fun s slot => State.performDue slot 32 s) s
  let lease := fun (kv : Nat × Core) => (kv.1, { kv.2 with
    l1 := kv.2.l1.filter fun l => decide (now < l.tick + Config.leaseTicks) })
  let s := { s with cores := s.cores.map lease }
  let old := fun (b : BorderCopy) => match b.stale with
    | some t => decide (t + Config.borderTicks ≤ now)
    | none => false
  let gone := s.mem.border.filter old
  if gone.isEmpty then s
  else
    let s := s.setMem { s.mem with border := s.mem.border.filter fun b => !old b }
    let cut := fun (kv : Nat × Core) => (kv.1, { kv.2 with
      l1 := kv.2.l1.filter fun l => !(gone.any fun b => b.sector == l.key && b.quad == quadOf kv.1) })
    { s with cores := s.cores.map cut }

/-- MERIDIAN_TICK: the counter advances by one; a stop armed at the new tick fires; otherwise what is bound to ticks
comes about, and at a multiple of 1,000 a period begins (14 R553, R562, R564, R565; 04 R153; 06 R274; 15 R604). -/
def execMeridianTick (s : State) : Host.Outcome State Fault Refusal :=
  let s := { s with sv := { s.sv with mtick := s.sv.mtick + 1 } }
  if s.sv.stopped then .next s
  else
    let s := s.fireStop
    if s.sv.stopped then .next s
    else
      let s := s.settleLimits.senseTick.ageCaches.reevaluate
      let s := if s.tick % 1000 = 0 then s.sensePeriod.startPeriod else s
      .next s.pointDeadline

end Sys2Proof.Machine
end

