-- ==== Sys2Proof/Machine/Datum.lean ====
section
/-! DEFINITION. The datum controller: its SRAM and unit, major 0x98, key slots, lifecycle, unlock, bring-up, readiness,
removal of cores, and the debug port (15). -/

namespace Sys2Proof.Machine

open Sys2Proof

/-! SRAM (15 R581, R588, R607). -/

/-- The I3C target's in-band interrupt: it waits for a dynamic address (15 R607). -/
def State.raiseIbi (s : State) : State :=
  if s.dc.i3c.isSome then { s with portOut := s.portOut ++ [.ibi] } else { s with dc := { s.dc with ibi := true } }

/-- Bytes are stored to SRAM at an offset: streams waiting on the lines see it, and a store of firmware to the mailbox
word 0x001F_FFF0 raises the interrupt (15 R581, R607). -/
def State.sramStore (s : State) (firmware : Bool) (off : Nat) (bs : List Byte) : State :=
  let s := { s with dc := { s.dc with sram := s.dc.sram.setBytes off bs } }
  let lines := (List.range ((off % 64 + bs.length + 63) / 64)).map fun i => datumKey (off / 64 * 64 + 64 * i)
  let s := lines.foldl State.wakeLine s
  if firmware && decide (off < 0xFFFF8) && decide (0xFFFF0 < off + bs.length) then s.raiseIbi else s

/-- An operand or output of the unit lies wholly in SRAM; otherwise PROT at its first byte outside (15 R588). -/
def sramCheck (a n : Nat) : M Unit := do
  if n = 0 || (decide (0x100000 ≤ a) && decide (a + n ≤ 0x200000)) then pure ()
  else if 0x100000 ≤ a && a < 0x200000 then trap causeProt 0x200000
  else trap causeProt (BitVec.ofNat 64 a)

/-- An operand's copy. -/
def sramGet (a n : Nat) : M (List Byte) := do
  sramCheck a n
  return (← get).dc.sram.bytes (a - 0x100000) n

/-- An output of n bytes. -/
def sramPut (a n : Nat) (bs : List Byte) : M Unit := do
  sramCheck a n
  modify fun s => s.sramStore true (a - 0x100000) bs

/-- Longest message of the unit (15 R609..R611, R614). -/
def unitMax : Nat := 2 ^ 20

/-- A message operand of at most 2^20 bytes; a longer one traps PROT at its address. -/
def unitMessage (a n : Word) : M (List Byte) := do
  if unitMax < n.toNat then trap causeProt a else sramGet a.toNat n.toNat

/-- A datum instruction whose own effects follow: major 0x98 runs on the datum core alone (02 R91, 15 R608). -/
def runUnit (i : Instr) (h : Hdr) (body : M Unit) (s : State) : Host.Outcome State Fault Refusal := runSeq i h body s

/-- Change the datum controller. -/
def modDatum (f : DcSys → DcSys) : M Unit := modify fun s => { s with dc := f s.dc }

/-- The datum controller. -/
def datum : M DcSys := do return (← get).dc

/-- DHASH (15 R609). -/
noncomputable def execDhash (h : Hdr) (d a b : XOp) (s : State) : Host.Outcome State Fault Refusal :=
  runUnit (.dhash h d a b) h (do
    let msg ← unitMessage (← readX a) (← readX b)
    sramPut (← readX d).toNat 32 (sha3 msg)) s

/-! Verification (15 R595, R596, R610). -/

/-- Four fuse words as 32 bytes. -/
def DcSys.fuseHash (d : DcSys) (n : Nat) : List Byte :=
  (List.range 4).flatMap fun i => leBytes 8 (d.fuses.get (n + i) 0).toNat

/-- The device id's 16 bytes. -/
def DcSys.deviceId (d : DcSys) : List Byte :=
  leBytes 8 (d.fuses.get 0 0).toNat ++ leBytes 8 (d.fuses.get 1 0).toNat

/-- The nonce's 16 bytes. -/
def DcSys.nonce (d : DcSys) : List Byte := leBytes 8 d.chal0.toNat ++ leBytes 8 d.chal1.toNat

/-- The ASCII bytes of a context string. -/
def ascii (s : String) : List Byte := s.toList.map fun c => BitVec.ofNat 8 c.toNat

/-- The code of a token's checks, in the order of R596. -/
def DcSys.tokenCode (d : DcSys) (t : List Byte) : Nat :=
  let zero := fun (o n : Nat) => cardField t o n == 0
  let pk := (t.drop 64).take 1312
  if d.dunlk ≠ 0 then 6
  else if cardField t 0 4 ≠ 0x4B4F5444 || cardField t 4 1 ≠ 1 || !zero 6 2 || 32 ≤ cardField t 8 4 || !zero 12 4
      || !zero 48 16 then 7
  else if sha3 pk != d.fuseHash 3 then 2
  else if !MlDsa.verify pk (ascii "MNX-DBG") (t.take 64) ((t.drop 1376).take 2420) then 1
  else if (t.drop 16).take 16 != d.deviceId then 3
  else if cardField t 5 1 ≠ d.lc.toNat || (d.lc ≠ 1 && d.lc ≠ 2) then 4
  else if (d.chal0 = 0 ∧ d.chal1 = 0) ∨ (t.drop 32).take 16 ≠ d.nonce then 5
  else 0

/-- What DVERIFY of a token does: the nonce goes whatever the code; a pass advances the unlock (15 R596, R597). -/
def DcSys.judgeToken (d : DcSys) (t : List Byte) : DcSys × Nat :=
  let code := d.tokenCode t
  let d := { d with chal0 := 0, chal1 := 0 }
  if code = 0 then
    ({ d with dunlk := 1, perm := BitVec.ofNat 32 (cardField t 8 4)
              token := BitVec.ofNat 256 (leNat (sha3 (t.take 64))) }, 0)
  else (d, code)

/-- DVERIFY (15 R610). -/
noncomputable def execDverify (h : Hdr) (mode : VerMode) (d a : XOp) (s : State) : Host.Outcome State Fault Refusal :=
  runUnit (.dverify h mode d a) h (do
    let desc ← sramGet (← readX a).toNat 64
    let field := fun (i : Nat) => cardField desc (8 * i) 8
    let code ← match mode with
      | .tok =>
        if cardField desc 8 56 ≠ 0 then pure 7
        else
          let t ← sramGet (field 0) 3796
          let (dc, code) := (← datum).judgeToken t
          modDatum fun _ => dc
          pure code
      | m =>
        if cardField desc 41 23 ≠ 0 || unitMax < field 2 then pure 7
        else
          let pk ← sramGet (field 0) 1312
          let msg ← sramGet (field 1) (field 2)
          let sig ← sramGet (field 3) 2420
          let ctx ← sramGet (field 4) (cardField desc 40 1)
          if m = .fw && sha3 pk != (← datum).fuseHash 7 then pure 2
          else pure (if MlDsa.verify pk ctx msg sig then 0 else 1)
    writeX d (BitVec.ofNat 64 code)) s

/-! Signing (15 R587, R594, R611). -/

/-- The device identity key pair. -/
def DcSys.identity (d : DcSys) : MlDsa.Keys := MlDsa.keyGen (leBytes 32 d.seed.toNat)

/-- The attestation report for a nonce at a tick (15 R594). -/
def DcSys.report (d : DcSys) (nonce : List Byte) (tick : Nat) : List Byte :=
  leBytes 4 0x5454414D ++ leBytes 1 1 ++ leBytes 1 d.lc.toNat ++ leBytes 2 0 ++ leBytes 4 d.dfwv.toNat ++ leBytes 4 0
    ++ d.deviceId ++ nonce ++ ((List.range 8).flatMap fun i => leBytes 32 (d.meas.get i 0).toNat) ++ leBytes 8 tick
    ++ List.replicate 24 0

/-- In MANUFACTURE no signature is made (15 R611). -/
def signGate : M Unit := do if (← datum).lc = 0 then trap causeProt 0 else pure ()

/-- DSIGN of a message (15 R611). -/
noncomputable def execDsign (h : Hdr) (d a b : XOp) (s : State) : Host.Outcome State Fault Refusal :=
  runUnit (.dsign h d a b) h (do
    signGate
    let msg ← unitMessage (← readX a) (← readX b)
    let out := (← readX d).toNat
    sramPut out 2420 (MlDsa.sign (← datum).identity (ascii "MNX-MSG") msg)) s

/-- DSIGN.ATT (15 R594, R611). -/
noncomputable def execDsignAtt (h : Hdr) (d a : XOp) (s : State) : Host.Outcome State Fault Refusal :=
  runUnit (.dsignAtt h d a) h (do
    signGate
    let nonce ← sramGet (← readX a).toNat 32
    let rep := (← datum).report nonce (← get).tick
    let out := (← readX d).toNat
    sramPut out (352 + 2420) (rep ++ MlDsa.sign (← datum).identity (ascii "MNX-ATT") rep)) s

/-- DSIGN.PUB (15 R611). -/
noncomputable def execDsignPub (h : Hdr) (d : XOp) (s : State) : Host.Outcome State Fault Refusal :=
  runUnit (.dsignPub h d) h (do
    signGate
    let out := (← readX d).toNat
    sramPut out 1312 (← datum).identity.pk) s

/-! Fuses and lifecycle (15 R583..R585, R612, R615). -/

/-- The fuse pattern of a lifecycle code. -/
def fusePattern (lc : BitVec 3) : Word := if lc = 0 then 0 else if lc = 1 then 1 else if lc = 2 then 3 else 7

/-- What FUSERD gives of a fuse word: a pattern of lifecycle fuses that has no state reads as RMA (15 R583). -/
def DcSys.fuseRead (d : DcSys) (n : Nat) : Word := if n = 2 then fusePattern d.flc else d.fuses.get n 0

/-- FUSERD (15 R612). -/
noncomputable def execFuserd (h : Hdr) (d a : XOp) (s : State) : Host.Outcome State Fault Refusal :=
  runUnit (.fuserd h d a) h (do
    let n ← readX a
    if 64 ≤ n.toNat then trap causeProt n else writeX d ((← datum).fuseRead n.toNat)) s

/-- Post an event of the datum controller (15 R606). -/
def State.postDatum (s : State) (code detail : Nat) (data : List Byte) : State :=
  s.postEvent (s.dc.dmctl.toNat % 16) 216 code detail 0 data

/-! Key slots (15 R589..R592). -/

/-- An empty key slot. -/
def KeySlot.blank : KeySlot := ⟨0, 0, false, false, false, [], [], 0, 0, 0, 0⟩

/-- A key slot. -/
def DcSys.slot (d : DcSys) (n : Nat) : KeySlot := d.keys.get n KeySlot.blank

/-- Replace a key slot. -/
def State.setSlot (s : State) (n : Nat) (k : KeySlot) : State :=
  { s with dc := { s.dc with keys := s.dc.keys.put n k } }

/-- Every L2 line, border copy and L1 line of a range goes without write-back, and its sectors are poisoned
(15 R591, R592). -/
def State.discardRange (s : State) (lo hi : Nat) : State :=
  let inRange := fun (sec : Nat) => decide (lo ≤ 64 * sec) && decide (64 * sec < hi)
  let m := { s.mem with
    l2 := s.mem.l2.filter fun kv => !inRange kv.1
    l2lines := s.mem.l2lines.filter fun x => !inRange (4 * x.2)
    border := s.mem.border.filter fun b => !inRange b.sector }
  { s with
    mem := m.poisonRange (lo / 64) (hi / 64)
    cores := s.cores.map fun kv => (kv.1, { kv.2 with l1 := kv.2.l1.filter fun l => !inRange l.key }) }

/-- Wipe a slot: keys go, V is cleared, SEALED set over its range, the range's contents with them (15 R592). -/
def State.wipeSlot (s : State) (n : Nat) : State :=
  let k := s.dc.slot n
  if k.v then
    let s := s.setSlot n { k with v := false, sealed := true, dat := [], twk := [], slo := k.lo, shi := k.hi }
    s.discardRange k.lo k.hi
  else if k.sealed then (s.setSlot n { k with dat := [], twk := [] }).discardRange k.slo k.shi
  else s

/-- Wipe every slot: the keys of each go, the range of one that is loaded or sealed with them. -/
def State.wipeAll (s : State) : State :=
  let s := (s.dc.keys.map (·.1)).foldl State.wipeSlot s
  { s with dc := { s.dc with keys := s.dc.keys.map fun kv => (kv.1, { kv.2 with dat := [], twk := [] }) } }

/-- Does a range overlap a loaded or sealed one? -/
def DcSys.slotClash (d : DcSys) (lo hi : Nat) : Bool :=
  d.keys.any fun nk => (nk.2.v && decide (nk.2.lo < hi) && decide (lo < nk.2.hi))
    || (nk.2.sealed && decide (nk.2.slo < hi) && decide (lo < nk.2.shi))

/-- A range of device memory holds ciphertext under a lost key from now on. -/
def State.scramble (s : State) (r : Nat × Nat) : State :=
  let cut := fun (c : Nat × Nat × Nat) => ([(c.1, min c.2.1 (r.1 / 64), c.2.2), (max c.1 (r.2 / 64), c.2.1, c.2.2)] :
    List (Nat × Nat × Nat)).filter fun q => q.1 < q.2.1
  let cipher := (r.1 / 64, r.2 / 64, s.fresh) :: s.mem.cipher.flatMap cut
  { s.setMem { s.mem with cipher := cipher } with fresh := s.fresh + 1 }

/-- Load a slot, or set ERR (15 R591). A loaded slot that takes another range leaves its old one as ciphertext. -/
def State.loadSlot (s : State) (n : Nat) : State :=
  let k := s.dc.slot n
  let lo := k.base.toNat
  let hi := k.lim.toNat
  let allowed := (s.dc.lc == 1 || s.dc.lc == 2) && s.dc.dunlk == 0
  if allowed && decide (lo < hi) && decide (hi ≤ Config.deviceEnd) && !s.dc.slotClash lo hi then
    let s := if k.v then s.scramble (k.lo, k.hi) else s
    (s.setSlot n { k with v := true, err := false, lo := lo, hi := hi }).discardRange lo hi
  else s.setSlot n { k with err := true }

/-- A write of V = 0: it clears the seal when KLIM = KBASE, is refused for another sealed slot, and has no effect on a
slot without a seal (15 R590, R592). -/
def State.clearSeal (s : State) (n : Nat) : State :=
  let k := s.dc.slot n
  if !k.sealed then s
  else if k.base = k.lim then
    let s := s.setSlot n { k with sealed := false, err := false }
    s.setMem (s.mem.poisonRange (k.slo / 64) (k.shi / 64))
  else s.setSlot n { k with err := true }

/-- KCTL_LOAD (15 R591). -/
def execKctlLoad (slot : Fin 64) (s : State) : Host.Outcome State Fault Refusal := .next (s.loadSlot slot.val)

/-- KCTL_CLEAR_SEAL (15 R592). -/
def execKctlClearSeal (slot : Fin 64) (s : State) : Host.Outcome State Fault Refusal := .next (s.clearSeal slot.val)

/-- A write of a private register (15 R590); other offsets have none. -/
def State.privWrite (s : State) (off : Nat) (v : Word) : State :=
  let n := off / 0x80
  let r := off % 0x80
  let k := s.dc.slot n
  let word := fun (l : List Word) (i : Nat) => (List.range 4).map fun j => if j = i then v else (l[j]?).getD 0
  if 64 ≤ n then s
  else if r = 0 then s.setSlot n { k with base := v &&& 0xFFFFFFFF0000#64 }
  else if r = 8 then s.setSlot n { k with lim := v &&& 0xFFFFFFFF0000#64 }
  else if r = 0x10 then (if v.getLsbD 0 then s.loadSlot n else s.clearSeal n)
  else if 0x20 ≤ r ∧ r < 0x40 then s.setSlot n { k with dat := word k.dat ((r - 0x20) / 8) }
  else if 0x40 ≤ r ∧ r < 0x60 then s.setSlot n { k with twk := word k.twk ((r - 0x40) / 8) }
  else s

/-- A read of a private register: keys are write-only and read 0 (15 R590). -/
def State.privRead (s : State) (off : Nat) : Word :=
  let k := s.dc.slot (off / 0x80)
  match off % 0x80 with
  | 0 => k.base
  | 8 => k.lim
  | 0x10 => BitVec.ofNat 64 (k.v.toNat + 2 * k.sealed.toNat + 4 * k.err.toNat)
  | _ => 0

/-- Wipe a set of slots, and count those that were loaded (15 R613). -/
def wipeBody (all : Bool) (slots : List Nat) (d : XOp) : M Unit := do
  let dc ← datum
  let c := slots.countP fun n => (dc.slot n).v
  modify fun s =>
    let s := slots.foldl State.wipeSlot s
    let s := if all && s.dc.dunlk = 1 then { s with dc := { s.dc with dunlk := 2 } } else s
    s.postDatum 26 c []
  writeX d (BitVec.ofNat 64 c)

/-- KEYWIPE (15 R613). -/
noncomputable def execKeywipe (h : Hdr) (d a : XOp) (s : State) : Host.Outcome State Fault Refusal :=
  runUnit (.keywipe h d a) h (do
    let n ← readX a
    if 63 < n.toNat then trap causeProt n else wipeBody false [n.toNat] d) s

/-- KEYWIPE.ALL (15 R613). -/
noncomputable def execKeywipeAll (h : Hdr) (d : XOp) (s : State) : Host.Outcome State Fault Refusal :=
  runUnit (.keywipeAll h d) h (wipeBody true (List.range 64) d) s

/-! Measurements (15 R593, R599, R614). -/

/-- A measurement register extended by a record. -/
def DcSys.extend (d : DcSys) (i : Nat) (record : List Byte) : DcSys :=
  { d with meas := d.meas.put i (BitVec.ofNat 256 (leNat (sha3 (leBytes 32 (d.meas.get i 0).toNat ++ record)))) }

/-- MEXTEND (15 R614). -/
noncomputable def execMextend (h : Hdr) (idx : Fin 8) (a b : XOp) (s : State) : Host.Outcome State Fault Refusal :=
  runUnit (.mextend h idx a b) h (do
    let msg ← unitMessage (← readX a) (← readX b)
    modDatum fun dc => dc.extend idx.val msg) s

/-- The debug-open record (15 R599). -/
def DcSys.debugRecord (d : DcSys) : List Byte :=
  ascii "DBGO" ++ leBytes 1 1 ++ leBytes 1 d.lc.toNat ++ leBytes 2 0 ++ leBytes 4 d.perm.toNat ++ leBytes 4 0
    ++ d.deviceId ++ leBytes 32 d.token.toNat

/-- MEXTEND.DBG (15 R614). -/
noncomputable def execMextendDbg (h : Hdr) (d : XOp) (s : State) : Host.Outcome State Fault Refusal :=
  runUnit (.mextendDbg h d) h (do
    let dc ← datum
    if dc.dunlk ≠ 2 then writeX d 1
    else
      modDatum fun dc => { dc.extend 7 dc.debugRecord with dunlk := 3 }
      writeX d 0) s

/-- Burn lifecycle fuses: LC takes the fused state (15 R585). -/
def State.burn (s : State) (bits : Word) : State :=
  let w := s.dc.fuses.get 2 0 ||| bits
  { s with dc := { s.dc with fuses := s.dc.fuses.put 2 w, lc := lcOfFuses w, flc := lcOfFuses w } }

/-- The transition to a target: none when it is refused (15 R585). -/
def State.lifecycle (s : State) (t : LcTarget) : Option State :=
  let d := s.dc
  match t with
  | .prov =>
    if d.lc = 0 && ((List.range 8).all fun i => d.fuses.get (3 + i) 0 != 0) && d.seed != 0 then some (s.burn 1)
    else none
  | .depl => if d.lc = 1 then some (s.burn 2) else none
  | .debug =>
    if (d.lc = 1 || d.lc = 2) && d.dunlk = 3 then some { s with dc := { d with lc := 3, dunlk := 4 } } else none
  | .rma => if d.lc = 0 || (d.lc = 3 && d.perm.getLsbD 4) then some (s.wipeAll.burn 7) else none

/-- LCSET (15 R585, R615). -/
noncomputable def execLcset (h : Hdr) (t : LcTarget) (d : XOp) (s : State) : Host.Outcome State Fault Refusal :=
  runUnit (.lcset h t d) h (do
    match (← get).lifecycle t with
    | none => writeX d 1
    | some s =>
      set (s.postDatum 27 s.dc.lc.toNat [])
      writeX d 0) s

/-- DBGOPEN (15 R616). -/
noncomputable def execDbgopen (h : Hdr) (mask : BitVec 32) (d : XOp) (s : State) : Host.Outcome State Fault Refusal :=
  runUnit (.dbgopen h mask d) h (do
    let dc ← datum
    if dc.dunlk = 4 then
      modDatum fun dc => { dc with dunlk := 5, dbgMask := mask &&& dc.perm }
      writeX d ((mask &&& dc.perm).setWidth 64)
    else if dc.lc = 0 ∨ dc.lc = 4 then writeX d (BitVec.ofNat 64 (2 ^ 63 + 2))
    else writeX d (BitVec.ofNat 64 (2 ^ 63 + 1))) s

/-- DUNLK_ABORT (15 R586, R597). -/
def execDunlkAbort (s : State) : Host.Outcome State Fault Refusal := .next s.abortUnlock

/-- DCHAL_DRAW (15 R586). -/
def execDchalDraw (s : State) : Host.Outcome State Fault Refusal := .next s.drawNonce

/-! Bring-up (15 R600..R602). -/

/-- Loaded ranges whose keys a reset loses: their sectors hold ciphertext (15 R592). -/
def State.lostRanges (s : State) : List (Nat × Nat) :=
  (s.dc.keys.filter fun nk => nk.2.v).map fun nk => (nk.2.lo, nk.2.hi)

/-- POWER_GOOD_RESET: everything takes its reset value but the stacks, their poison marks and the fuses; RMA wipes every
slot, and other loaded ranges are left as ciphertext (15 R584, R590, R592, R597, R600). -/
def execPowerGoodReset (s : State) : Host.Outcome State Fault Refusal :=
  let s := if lcOfFuses (s.dc.fuses.get 2 0) = 4 then s.wipeAll else s
  let s := s.lostRanges.foldl State.scramble s
  let lc := lcOfFuses (s.dc.fuses.get 2 0)
  let r := State.reset
  .next { r with
    agenda := s.agenda
    fresh := s.fresh
    nextId := s.nextId
    mem := { r.mem with hbm := s.mem.hbm, poison := s.mem.poison, cipher := s.mem.cipher }
    dc := { r.dc with fuses := s.dc.fuses, seed := s.dc.seed, lc := lc, flc := lc }
    hostOut := s.hostOut
    linkOut := s.linkOut
    portOut := s.portOut }

/-- DWIN_WRITE (15 R600). -/
def execDwinWrite (v : Word) (s : State) : Host.Outcome State Fault Refusal :=
  .next { s with dc := { s.dc with dwin := v &&& 0x3F#64 } }

/-- ROM's checks of the image in SRAM, of a length (15 R600): form, key, signature, version, code hash. -/
def DcSys.imageGood (d : DcSys) (n : Nat) : Bool :=
  let hd := d.sram.bytes 0 64
  let len := cardField hd 12 4
  let entry := cardField hd 16 8
  let at_ := entry / 5 * 64 + entry % 5 * 12
  let pk := d.sram.bytes 64 1312
  hd.take 4 == ascii "DFWI" && cardField hd 4 1 == 1 && cardField hd 5 3 == 0 && cardField hd 24 8 == 0
    && decide (1 ≤ len) && decide (len ≤ 786432) && decide (3840 + len ≤ n) && leNat (d.sram.bytes 3796 44) == 0
    && decide (0x100000 + 3840 ≤ at_) && decide (at_ < 0x100000 + 3840 + len)
    && sha3 pk == d.fuseHash 7 && MlDsa.verify pk (ascii "MNX-FW") hd (d.sram.bytes 1376 2420)
    && decide ((d.fuses.get 11 0).toNat ≤ cardField hd 8 4) && sha3 (d.sram.bytes 3840 len) == (hd.drop 32).take 32

/-- DMLOAD_WRITE: ROM checks the image; when it is good, register 0 is extended, FWOK and the datum-firmware bit are
set, and the datum core goes to ENTRY (15 R593, R600). After FWOK the write has no effect. -/
def execDmloadWrite (v : Word) (s : State) : Host.Outcome State Fault Refusal :=
  if s.dc.fwok then .next s
  else if s.dc.imageGood v.toNat then
    let hd := s.dc.sram.bytes 0 64
    let d := s.dc.extend 0 hd
    .next { s with
      order := s.order ++ [.stream .datum]
      dc := { d with fwok := true, fwfail := false, dwin := 63, dfwv := BitVec.ofNat 32 (cardField hd 8 4)
                     ready := d.ready ||| (1#57 <<< 56)
                     core := { d.core with pc := BitVec.ofNat 64 (cardField hd 16 8) } } }
  else .next { s with dc := { s.dc with fwfail := true } }

/-- UNIT_READY: a unit that running firmware has released sets its bit (01 R26, 15 R600, R601). -/
def execUnitReady (bit : Fin 57) (s : State) : Host.Outcome State Fault Refusal :=
  .next (if s.dc.fwok then { s with dc := { s.dc with ready := s.dc.ready ||| (1#57 <<< bit.val) } } else s)

/-- UNIT_LOST: an HBM stack, a UALink port or tick alignment is lost (14 R554; 15 R601). -/
def execUnitLost (bit : Fin 57) (s : State) : Host.Outcome State Fault Refusal :=
  let b := bit.val
  if b = 53 then execTickAlignLoss s
  else if (4 ≤ b ∧ b < 16) ∨ (36 ≤ b ∧ b < 52) then
    .next { s with dc := { s.dc with ready := s.dc.ready &&& ~~~(1#57 <<< b) } }
  else .next s

/-- The datum core's write of a CDIS register: cores leave or return to placement, and the gangs on cores that leave
are to be pre-empted (15 R602). -/
def State.setCdis (s : State) (w : Nat) (v : Word) : State :=
  let off := fun (c : Nat) => c / 64 == w && v.getLsbD (c % 64)
  let s := (List.range 64).foldl (fun s i =>
    let c := 64 * w + i
    if (s.core c).removed == v.getLsbD i then s else s.setCore c { s.core c with removed := v.getLsbD i }) s
  let victims := (s.la.launches.filter fun l => l.phase != .done).flatMap fun l =>
    (l.gangs.filter fun g => g.st == .resident && g.slots.any fun x =>
      off (coreOf x.2) || (l.info.pair && off (coreOf (x.2 + 16)))).map fun g => (l.serial, g)
  ({ s with dc := { s.dc with cdis := s.dc.cdis.put w v } } : State).askPreempt victims

/-- CDIS_WRITE (15 R602). -/
def execCdisWrite (w : Fin 8) (v : Word) (s : State) : Host.Outcome State Fault Refusal := .next (s.setCdis w.val v)

/-! The debug port (15 R598). -/

/-- Answer at a port. -/
def State.answer (s : State) (m : PortMsg) : State := { s with portOut := s.portOut ++ [m] }

/-- DEBUG_SCAN: scan-out of a stopped package under SCAN; the spec gives its contents no form, so they are free. -/
def execDebugScan (s : State) : Host.Outcome State Fault Refusal :=
  if s.dc.portPerm.getLsbD 0 && s.sv.stopped then
    let (w, s) := s.draw
    .next (s.answer (.scan w))
  else .next (s.answer .refused)

/-- DEBUG_MEMRD: eight bytes of device memory under MEMRD; of a poisoned sector they are free. -/
def execDebugMemrd (pa : Nat) (s : State) : Host.Outcome State Fault Refusal :=
  if !s.dc.portPerm.getLsbD 1 || decide (Config.deviceEnd < pa + 8) then .next (s.answer .refused)
  else if s.mem.poisoned (pa / 64) || s.mem.poisoned ((pa + 7) / 64) then
    let (w, s) := s.draw
    .next (s.answer (.mem w))
  else .next (s.answer (.mem (BitVec.ofNat 64 (s.mem.homeRead pa 8))))

/-- DEBUG_MEMWR: eight bytes of device memory under MEMWR. -/
def execDebugMemwr (pa : Nat) (v : Word) (s : State) : Host.Outcome State Fault Refusal :=
  if !s.dc.portPerm.getLsbD 2 || decide (Config.deviceEnd < pa + 8) then .next (s.answer .refused)
  else .next (((s.homeWriteBytes pa (leBytes 8 v.toNat)).wakeLine (pa / 64)).wakeLine ((pa + 7) / 64))

/-- DEBUG_SVSTOP: a stop is armed under STOP (14 R576). -/
def execDebugSvstop (tick : Word) (s : State) : Host.Outcome State Fault Refusal :=
  if s.dc.portPerm.getLsbD 3 then
    let (s, r) := s.armStop tick
    .next (s.answer (.stop r))
  else .next (s.answer .refused)

/-! The management target (15 R607). -/

/-- The target answers when it has a dynamic address. -/
def State.i3cAnswer (s : State) (b : List Byte) : State :=
  if s.dc.i3c.isSome then s.answer (.i3c b) else s.answer .nack

/-- The provisional ID: device id bits [47:0], most significant byte first. -/
def DcSys.pid (d : DcSys) : List Byte := (leBytes 6 (d.fuses.get 0 0).toNat).reverse

/-- I3C_ENTDAA: a target without an address gives its identity and takes the address; a waiting interrupt is raised. -/
def execI3cEntdaa (addr : BitVec 7) (s : State) : Host.Outcome State Fault Refusal :=
  if s.dc.i3c.isSome then .next (s.answer .nack)
  else
    let due := s.dc.ibi
    let s := { s with dc := { s.dc with i3c := some addr, ibi := false } }
    let s := s.answer (.i3c (s.dc.pid ++ [Config.i3cBcr, Config.i3cDcr]))
    .next (if due then s.raiseIbi else s)

/-- I3C_RSTDAA: the dynamic address is reset. -/
def execI3cRstdaa (s : State) : Host.Outcome State Fault Refusal := .next { s with dc := { s.dc with i3c := none } }

/-- I3C_GETPID. -/
def execI3cGetpid (s : State) : Host.Outcome State Fault Refusal := .next (s.i3cAnswer s.dc.pid)

/-- I3C_GETBCR: the spec gives the register no value. -/
def execI3cGetbcr (s : State) : Host.Outcome State Fault Refusal := .next (s.i3cAnswer [Config.i3cBcr])

/-- I3C_GETDCR: the spec gives the register no value. -/
def execI3cGetdcr (s : State) : Host.Outcome State Fault Refusal := .next (s.i3cAnswer [Config.i3cDcr])

/-- I3C_GETSTATUS: two bytes whose contents the spec does not give. -/
def execI3cGetstatus (s : State) : Host.Outcome State Fault Refusal :=
  let (w, s) := s.draw
  .next (s.i3cAnswer (leBytes 2 w.toNat))

end Sys2Proof.Machine
end

