-- ==== Sys2Proof/Machine/Weights.lean ====
section
/-! DEFINITION. The matrix arrays: weight banks, the arithmetic of chunks, the array order and its events
(11 R435..R453, R460..R463; 03 R139, R140). -/

namespace Sys2Proof.Machine

open Sys2Proof

/-! Weight formats (11 R443..R446, R450). -/

/-- WT of a format word. -/
def fmtWt (f : Word) : Option Ty := ty? (fieldOf f.toNat 0 5)

/-- SC: scales are present. -/
def fmtScaled (f : Word) : Bool := f.getLsbD 5

/-- Planes of a bp8 weight. -/
def fmtPlanes (f : Word) : Nat := fieldOf f.toNat 6 4

/-- Nonzero weights per 128 along K; 0 for a dense tile. -/
def fmtSparse (f : Word) : Nat := match fieldOf f.toNat 10 3 with
  | 0 => 0
  | n + 1 => 8 * 2 ^ n

/-- Kt: the logical rows that a tile covers (11 R444). -/
def fmtKt (f : Word) : Nat := if fmtSparse f = 0 then 256 else 256 * 128 / fmtSparse f

/-- Floating types of weights and activations (11 R450). -/
def matFloat : Ty → Bool
  | .bf16 | .f16 | .e4m3 | .e5m2 | .e3m2 | .e2m3 | .e2m1 => true
  | .i8 | .n8 | .i16 | .n16 | .i32 | .n32 | .i64 | .n64 | .f32 | .e8m0 | .bp8 => false

/-- Does a format word break 11 R443? -/
def fmtBad (f : Word) : Bool :=
  match fmtWt f with
  | none => true
  | some t =>
    f.toNat / 2 ^ 13 != 0 || decide (4 < fieldOf f.toNat 10 3)
      || !(matFloat t || t == .i8 || t == .bp8)
      || (if t = .bp8 then decide (fmtPlanes f < 2) || decide (8 < fmtPlanes f) else fmtPlanes f != 0)
      || (fmtScaled f && !(matFloat t && Ty.bits t ≤ 8))

/-- The mode of a pair of formats, true for integer; none for an illegal pair (11 R450). -/
def pairMode (f : Word) (a : Ty) : Option Bool :=
  match fmtWt f with
  | none => none
  | some w =>
    if matFloat w && matFloat a then some false
    else if (w = .i8 || w = .bp8) && a = .i8 then some true
    else none

/-- Bytes of 256 elements of a row (11 R446). -/
def rowBytes : Ty → Nat
  | .bf16 | .f16 => 512
  | .e3m2 | .e2m3 => 192
  | .e2m1 => 128
  | .i8 | .n8 | .i16 | .n16 | .i32 | .n32 | .i64 | .n64 | .f32 | .e4m3 | .e5m2 | .e8m0 | .bp8 => 256

/-- The bytes of a row that hold its elements lo .. hi - 1 (11 R446). -/
def rowSpan (t : Ty) (lo hi : Nat) : Nat × Nat :=
  match t with
  | .bf16 | .f16 => (2 * lo, 2 * hi)
  | .e3m2 | .e2m3 => (6 * lo / 8, (6 * hi + 7) / 8)
  | .e2m1 => (lo / 2, (hi + 1) / 2)
  | .i8 | .n8 | .i16 | .n16 | .i32 | .n32 | .i64 | .n64 | .f32 | .e4m3 | .e5m2 | .e8m0 | .bp8 => (lo, hi)

/-- Offsets within a row of the bytes that hold element n (11 R446; 03 R111, R114). -/
def rowElemBytes (t : Ty) (planes n : Nat) : List Nat :=
  match t with
  | .bf16 | .f16 => [2 * n, 2 * n + 1]
  | .e3m2 | .e2m3 => [6 * n / 8, (6 * n + 5) / 8]
  | .e2m1 => [n / 2]
  | .bp8 => (List.range planes).map fun j => 128 * (n / 128) + 16 * j + n % 128 / 8
  | .i8 | .n8 | .i16 | .n16 | .i32 | .n32 | .i64 | .n64 | .f32 | .e4m3 | .e5m2 | .e8m0 => [n]

/-- The value of element n of a row of bytes (11 R446; 03 R111, R114, R115). -/
def rowElem (t : Ty) (planes : Nat) (get : Nat → Byte) (n : Nat) : FVal :=
  let b := fun i => (get i).toNat
  match t with
  | .bf16 | .f16 => Ty.decode t (b (2 * n) + 256 * b (2 * n + 1))
  | .e3m2 | .e2m3 => Ty.decode t ((b (6 * n / 8) + 256 * b (6 * n / 8 + 1)) / 2 ^ (6 * n % 8) % 64)
  | .e2m1 => Ty.decode t (b (n / 2) / 16 ^ (n % 2) % 16)
  | .bp8 =>
    let v := (List.range planes).foldl (fun acc j =>
      if (get (128 * (n / 128) + 16 * j + n % 128 / 8)).getLsbD (n % 8) then acc + 2 ^ (7 - j) else acc) 0
    .ofInt (signedOf 8 v)
  | .i8 | .n8 | .i16 | .n16 | .i32 | .n32 | .i64 | .n64 | .f32 | .e4m3 | .e5m2 | .e8m0 => Ty.decode t (b n)

/-! Banks. -/

/-- The stored row that gives logical row k of a column its weight; none for a pruned weight (11 R444). -/
def Bank.storedRow (b : Bank) (k n : Nat) : Option Nat :=
  let p := fmtSparse b.fmt
  if p = 0 then some k
  else ((List.range p).map fun i => k / 128 * p + i).find? fun s => (b.meta_.get (256 * s + n)).toNat == k % 128

/-- Weight of logical row k and column n (11 R444). -/
def Bank.weight (b : Bank) (t : Ty) (k n : Nat) : Option FVal :=
  (b.storedRow k n).map fun s => rowElem t (fmtPlanes b.fmt) (fun i => b.data.get (512 * s + i)) n

/-- Scale of block j and column n: 1 without scales (11 R446; 03 R139). -/
def Bank.scale (b : Bank) (j n : Nat) : FVal :=
  if fmtScaled b.fmt then Ty.decode .e8m0 (b.scales.get (256 * j + n)).toNat else .fin false 1 0 false

/-- Does a chunk of a column use a poisoned weight or scale? (11 R448, R453) -/
def Bank.chunkPoison (b : Bank) (c n kl : Nat) : Bool :=
  (fmtScaled b.fmt && b.poison.contains (65536 + 256 * c + n))
    || (!b.poison.isEmpty && (List.range (min 32 (kl - 32 * c))).any fun i =>
      match b.storedRow (32 * c + i) n with
      | some s => b.poison.contains (256 * s + n)
      | none => false)

/-- An array's active bank set. -/
def MArray.setStaging (a : MArray) (b : Bank) : MArray := if a.active then { a with bank0 := b } else { a with bank1 := b }

/-- The staging bank. -/
def MArray.stagingBank (a : MArray) : Bank := if a.active then a.bank0 else a.bank1

/-- The format of a stream that enters the array order now: that of the last swap before it, or of the active bank
(11 R449). -/
def MArray.streamFmt (a : MArray) : Word :=
  (a.queue.foldl (fun acc c => match c.kind with
    | .swap _ f => some f
    | _ => acc) (none : Option Word)).getD a.activeBank.fmt

/-! Accumulator cells (11 R453). -/

/-- A cell that holds zero with its marks clear. -/
def Acc.blank : Acc := ⟨0, false, false, false⟩

/-- Key of a cell of a hart's logical row. -/
def accKey (slot row col : Nat) : Nat := (slot * 128 + row) * 256 + col

/-- A cell. -/
def MArray.cell (a : MArray) (slot row col : Nat) : Acc := a.acc.get (accKey slot row col) Acc.blank

/-- Replace a cell: a blank one is not listed. -/
def MArray.setCell (a : MArray) (slot row col : Nat) (c : Acc) : MArray :=
  { a with acc := if c = Acc.blank then a.acc.del (accKey slot row col) else a.acc.put (accKey slot row col) c }

/-- The exact sum of a chunk's products times both scales (03 R139). -/
def chunkValue (ps : List FVal) (sw sa : FVal) : FVal :=
  match ps with
  | [] => FVal.zero
  | p :: r => ((r.foldl (FVal.add .rne) p).mul sw).mul sa

/-- A floating cell adds a chunk: the chunk rounds once to f32, then the sum does (03 R139). -/
def Acc.addFloat (c : Acc) (ovft : Nat) (v : FVal) : Acc :=
  let x := roundTo .f32 ⟨.rne, ovft, 0⟩ false v
  { c with val := BitVec.ofNat 48 (addValue .f32 ovft (c.val.toNat % 2 ^ 32) x) }

/-- An integer cell adds a chunk: it saturates at 48 bits and is then sticky (03 R140). -/
def Acc.addInt (c : Acc) (z : Int) : Acc :=
  if c.sticky then c
  else
    let sum := c.val.toInt + z
    if sum < -(2 ^ 47 : Int) then { c with val := BitVec.ofInt 48 (-(2 ^ 47 : Int)), sticky := true }
    else if (2 ^ 47 - 1 : Int) < sum then { c with val := BitVec.ofInt 48 (2 ^ 47 - 1), sticky := true }
    else { c with val := BitVec.ofInt 48 sum }

/-- An exact value that is an integer. -/
def FVal.toInt : FVal → Int
  | .fin neg m e _ => signedMant neg (m * 2 ^ e.toNat)
  | .nan => 0
  | .inf _ => 0

/-- The product of an activation and a weight; one that sparsity has pruned, or beyond the end of K, is zero. -/
def chunkProduct (act : FVal) : Option FVal → FVal
  | some w => act.mul w
  | none => FVal.zero

/-- One cell takes chunk c of a row of activations (03 R139, R140; 11 R453). -/
def Acc.addChunk (cell : Acc) (b : Bank) (t : Ty) (int : Bool) (ovft kl c n : Nat) (acts : List FVal) (sa : FVal)
    (poison : Bool) : Acc :=
  if !b.valid then { cell with err := true }
  else
    let cell := if poison || b.chunkPoison c n kl then { cell with poison := true } else cell
    let ps := (List.range 32).map fun i =>
      if 32 * c + i < kl then chunkProduct ((acts[i]?).getD FVal.zero) (b.weight t (32 * c + i) n) else FVal.zero
    if int then cell.addInt (ps.foldl (fun z p => z + FVal.toInt p) 0)
    else cell.addFloat ovft (chunkValue ps (b.scale c n) sa)

/-! Where a stream's bytes lie. -/

/-- A byte of a window as an array's stream reads it: value, poison, and the tile-buffer line it lies in. Ways lost
since the stream entered the order read as zero (log 20). -/
def State.windowByte (s : State) (core : Nat) (serial : Word) (va : Nat) : Byte × Bool × Option (Nat × Nat) :=
  match addrKind core va with
  | .scratch k off =>
    match (s.core k).scratch? serial with
    | some x => (x.data.get off, x.poison.contains (off / 64), none)
    | none => (0, false, none)
  | .tile a off => ((s.array a).tile.get off, (s.array a).tpoison.contains (off / 64), some (a, off / 128))
  | _ => (0, false, none)

/-- Units of a row: chunks of 32 along K. -/
def chunksPerRow (kl : Nat) : Nat := (kl + 31) / 32

/-- The bytes of unit u of a stream: addresses of activations, and of the scale (11 R462). -/
def streamUnit (cmd : StreamCmd) (kl : Nat) (base sbase : Word) (u : Nat) : List Nat × Option Nat :=
  let c := u % max 1 (chunksPerRow kl)
  let m := u / max 1 (chunksPerRow kl)
  let (lo, hi) := rowSpan cmd.at_ (32 * c) (min (32 * c + 32) kl)
  let row := base.toNat + m * cmd.pitch.toNat * 64
  ((List.range (hi - lo)).map fun i => (row + lo + i) % 2 ^ 64,
    if cmd.asc then some ((sbase.toNat + m * 128 + c) % 2 ^ 64) else none)

/-- All addresses of a unit. -/
def unitAddrs (cmd : StreamCmd) (kl : Nat) (base sbase : Word) (u : Nat) : List Nat :=
  let (l, sc) := streamUnit cmd kl base sbase u
  l ++ sc.toList

/-- Units of a stream. -/
def unitCount (cmd : StreamCmd) (kl : Nat) : Nat := cmd.m.toNat * chunksPerRow kl

/-- The tile-buffer line of an address. -/
def tileLine (core va : Nat) : Option (Nat × Nat) :=
  match addrKind core va with
  | .tile a off => some (a, off / 128)
  | _ => none

/-- Lines of a unit. -/
def unitLines (core : Nat) (cmd : StreamCmd) (kl : Nat) (base sbase : Word) (u : Nat) : List (Nat × Nat) :=
  ((unitAddrs cmd kl base sbase u).filterMap (tileLine core)).dedup

/-! The array order (11 R440, R449). -/

/-- The rows of a hart that a command reads or writes. -/
def MCmd.rows (c : MCmd) : List Nat :=
  match c.kind with
  | .stream cmd _ _ _ _ => (List.range cmd.m.toNat).map fun i => cmd.row0.toNat + i
  | .zero r m _ => (List.range m).map fun i => r + i
  | .swap _ _ => []

/-- Does an earlier command hold a later one back: one on a common row, a swap before a stream, anything before a
swap? -/
def MCmd.holds (e c : MCmd) : Bool :=
  match c.kind, e.kind with
  | .swap _ _, _ => true
  | .stream _ _ _ _ _, .swap _ _ => true
  | _, _ => e.hart == c.hart && e.rows.any fun r => c.rows.contains r

/-- The commands of an array that nothing earlier holds back, in array order. -/
def readyCmds : List MCmd → List MCmd → List MCmd
  | _, [] => []
  | seen, c :: r => if seen.any fun e => e.holds c then readyCmds (seen ++ [c]) r else c :: readyCmds (seen ++ [c]) r

/-- Replace or finish a command. -/
def MArray.stepCmd (a : MArray) (c : MCmd) (done : Bool) : MArray :=
  { a with queue := if done then a.queue.filter fun d => d.id != c.id
      else a.queue.map fun d => if d.id == c.id then c else d }

/-- Is a hart attached to an array as one of a pair? -/
def MArray.pairBound (a : MArray) (slot : Nat) : Bool := a.attached.any fun t => t.1 == slot && t.2.2

/-- Has an earlier consuming stream yet to read a line: one before it in the array's order, or a stream of a pair attachment
that the other array has still to finish (11 R451, R452)? -/
def State.lineAhead (s : State) (a : Nat) (c : MCmd) (line : Nat × Nat) : Bool :=
  let other := s.array (partnerArray a)
  let before := ((s.array a).queue.takeWhile fun d => d.id != c.id)
    ++ other.queue.filter fun d => decide (d.id < c.id) && other.pairBound d.hart
  before.any fun d => match d.kind with
    | .stream cmd kl base sbase _ =>
      cmd.cons && (List.range (unitCount cmd kl - d.unit)).any fun i =>
        (unitLines (coreOf d.hart) cmd kl base sbase (d.unit + i)).contains line
    | _ => false

/-- May a stream take its next unit: every tile-buffer line of the unit is full, and no earlier consuming stream is
still to empty it? (11 R452) -/
def State.unitReady (s : State) (a : Nat) (c : MCmd) : Bool :=
  match c.kind with
  | .stream cmd kl base sbase _ =>
    (unitLines (coreOf c.hart) cmd kl base sbase c.unit).all fun l =>
      (s.array l.1).full.contains l.2 && !(cmd.cons && s.lineAhead a c l)
  | _ => false

/-- Lines that a consuming stream empties with unit u: those it does not read again, once the other array of a pair
attachment has read them too (11 R451). -/
def State.emptiedLines (s : State) (a : Nat) (c : MCmd) (cmd : StreamCmd) (kl : Nat) (base sbase : Word) :
    List (Nat × Nat) :=
  let core := coreOf c.hart
  let other := (s.array (partnerArray a)).queue.find? fun d => d.id == c.id
  let upTo := match other with
    | some d => d.unit
    | none => unitCount cmd kl
  if !cmd.cons then []
  else (unitLines core cmd kl base sbase c.unit).filter fun l =>
    !((List.range (unitCount cmd kl - min upTo (c.unit + 1))).any fun i =>
      let u := min upTo (c.unit + 1) + i
      (decide (c.unit < u) || decide (upTo ≤ u)) && (unitLines core cmd kl base sbase u).contains l)

/-- Set a line full or empty. -/
def State.setFull (s : State) (l : Nat × Nat) (full : Bool) : State :=
  let a := s.array l.1
  (s.setArray l.1 { a with full := if full then insertNat l.2 a.full else a.full.filter (· != l.2) }).wakeLine
    (tileKey l.1 (128 * l.2))

/-- One K-chunk unit of a stream at an array (11 R462). -/
def State.streamStep (s : State) (a : Nat) (c : MCmd) (cmd : StreamCmd) (kl : Nat) (base sbase : Word)
    (ovft : BitVec 20) : State :=
  let arr := s.array a
  let bank := arr.activeBank
  let serial := (s.hart c.hart).serial
  let core := coreOf c.hart
  let chunk := c.unit % max 1 (chunksPerRow kl)
  let row := cmd.row0.toNat + c.unit / max 1 (chunksPerRow kl)
  let (addrs, sc) := streamUnit cmd kl base sbase c.unit
  let read := s.windowByte core serial
  let bytes := addrs.map read
  let acts := (List.range (min 32 (kl - 32 * chunk))).map fun i =>
    rowElem cmd.at_ 8 (fun j => ((bytes[j]?).map fun b : Byte × Bool × Option (Nat × Nat) => b.1).getD 0) i
  let sa := match sc with
    | some va => Ty.decode .e8m0 (read va).1.toNat
    | none => .fin false 1 0 false
  let poison := bytes.any (fun b => b.2.1) || (match sc with
    | some va => (read va).2.1
    | none => false)
  let int := cmd.at_ == .i8
  match fmtWt bank.fmt with
  | none => s
  | some t =>
    let step := fun (acc : MArray × Bool) (n : Nat) =>
      let old := acc.1.cell c.hart row n
      let new := old.addChunk bank t int ovft.toNat kl chunk n acts sa poison
      (acc.1.setCell c.hart row n new, acc.2 || (new.sticky && !old.sticky))
    let (arr, ovf) := (List.range 256).foldl step (arr, false)
    let emptied := s.emptiedLines a c cmd kl base sbase
    let s := s.setArray a (arr.stepCmd { c with unit := c.unit + 1 } (unitCount cmd kl ≤ c.unit + 1))
    let s := if ovf then s.setHart c.hart { s.hart c.hart with movf := true } else s
    emptied.foldl (fun s l => s.setFull l false) s

/-- STREAM_CHUNK: the first stream of an array that may take a unit takes it (11 R440, R462; log 21). -/
def execStreamChunk (array : Fin 128) (s : State) : Host.Outcome State Fault Refusal :=
  match (readyCmds [] (s.array array.val).queue).find? fun c => s.unitReady array.val c with
  | some c => match c.kind with
    | .stream cmd kl base sbase ovft => .next (s.streamStep array.val c cmd kl base sbase ovft)
    | _ => .next s
  | none => .next s

/-- Zero rows of a hart and set their mode (11 R463). -/
def MArray.zeroRows (a : MArray) (slot row0 m : Nat) (int : Bool) : MArray :=
  let lo := slot * 128 + row0
  let rows := (List.range m).map fun i => lo + i
  { a with
    acc := a.acc.filter fun kv => kv.1 / 256 < lo || lo + m ≤ kv.1 / 256
    intRows := if int then rows.foldl (fun l r => insertNat r l) a.intRows
      else a.intRows.filter fun r => !rows.contains r }

/-- MZERO_APPLY: the first MZERO of an array whose turn has come (11 R463). -/
def execMzeroApply (array : Fin 128) (s : State) : Host.Outcome State Fault Refusal :=
  let a := s.array array.val
  let isZero := fun (c : MCmd) => match c.kind with
    | .zero r m i => some (c, r, m, i)
    | _ => none
  match (readyCmds [] a.queue).findSome? isZero with
  | some (c, r, m, i) => .next (s.setArray array.val ((a.zeroRows c.hart r m i).stepCmd c true))
  | none => .next s

/-- Has a card's load ended, with any status? (11 R449) -/
def Card.ended (k : Card) : Bool := k.completed.isSome || k.stop.isSome || k.prog == 641

/-- WEIGHT_SWAP: the staging bank becomes active once the load has ended and every earlier command has finished
(11 R449). -/
def execWeightSwap (array : Fin 128) (s : State) : Host.Outcome State Fault Refusal :=
  let a := s.array array.val
  match a.queue with
  | [] => .next s
  | c :: rest =>
    match c.kind with
    | .swap seq fmt =>
      match a.holder.bind fun serial => s.card? serial seq with
      | none => .next s
      | some k =>
        if !k.ended then .next s
        else
          let staged := if k.stop.isSome then { a.stagingBank with fmt := fmt, valid := false } else a.stagingBank
          let a := a.setStaging staged
          .next (s.setArray array.val { a with active := !a.active, staging := 0, queue := rest })
    | _ => .next s

/-! Weight loads (11 R445..R449). -/

/-- The fields of a weight-load card (11 R445). -/
structure WeightCard where
  wsrc : Nat
  ssrc : Nat
  msrc : Nat
  pitch : Nat
  fmt : Word
  deriving DecidableEq, Repr

/-- The fields of a card's bytes. -/
def weightCard (b : List Byte) : WeightCard :=
  ⟨cardField b 64 8, cardField b 72 8, cardField b 80 8, cardField b 88 4, BitVec.ofNat 64 (cardField b 92 4)⟩

/-- The offset of the first field of a card that breaks 11 R443, R445..R447; which addresses name a scratchpad of the
launch is given. -/
def weightBadField (b : List Byte) (split : Bool) (scratch : Nat → Bool) : Option Nat :=
  let w := weightCard b
  let row := match fmtWt w.fmt with
    | some t => rowBytes t * (if split then 2 else 1)
    | none => 0
  let all := [(64, !scratch w.wsrc), (72, if fmtScaled w.fmt then !scratch w.ssrc else w.ssrc != 0),
    (80, if fmtSparse w.fmt = 0 then w.msrc != 0 else !scratch w.msrc), (88, w.pitch % 16 != 0 || decide (w.pitch < row)),
    (92, fmtBad w.fmt), (96, cardField b 96 32 != 0)]
  (all.find? fun t => t.2).map (·.1)

/-- A part of a load: source address, bytes, and where they go in the bank: 0 rows, 1 scales, 2 metadata; of a row of bp8
groups only some planes are read. -/
structure LoadPart where
  src : Nat
  len : Nat
  kind : Nat
  index : Nat
  planes : Option Nat
  deriving DecidableEq, Repr

/-- Part number p of a load: 256 stored rows, 128 scale blocks, 256 rows of metadata; none for a part that the format
does not have. -/
def loadPart (w : WeightCard) (cols p : Nat) : Option LoadPart :=
  let row := match fmtWt w.fmt with
    | some t => rowBytes t * (cols / 256)
    | none => 0
  if p < 256 then some ⟨w.wsrc + p * w.pitch, row, 0, p, if fmtWt w.fmt = some .bp8 then some (fmtPlanes w.fmt) else none⟩
  else if p < 384 then
    if fmtScaled w.fmt && decide (32 * (p - 256) < fmtKt w.fmt) then some ⟨w.ssrc + (p - 256) * cols, cols, 1, p - 256, none⟩
    else none
  else if fmtSparse w.fmt = 0 then none
  else some ⟨w.msrc + (p - 384) * cols, cols, 2, p - 384, none⟩

/-- Write a part's bytes into a bank, and the poison of what they hold. -/
def Bank.place (b : Bank) (p : LoadPart) (bs : List (Byte × Bool)) : Bank :=
  let bytes := bs.map (·.1)
  let bad := fun (i : Nat) => ((bs[i]?).map fun x : Byte × Bool => x.2).getD false
  let marks : List Nat := if bs.all fun x => !x.2 then [] else
    match p.kind, fmtWt b.fmt with
    | 0, some t => ((List.range 256).filter fun n => (rowElemBytes t (fmtPlanes b.fmt) n).any bad).map fun n => 256 * p.index + n
    | 1, _ => ((List.range 256).filter bad).map fun n => 65536 + 256 * p.index + n
    | _, _ => ((List.range 256).filter bad).map fun n => 256 * p.index + n
  let b := { b with poison := marks.foldl (fun l n => insertNat n l) b.poison }
  match p.kind with
  | 0 => { b with data := b.data.setBytes (512 * p.index) bytes }
  | 1 => { b with scales := b.scales.setBytes (256 * p.index) bytes }
  | _ => { b with meta_ := b.meta_.setBytes (256 * p.index) bytes }

/-- The first metadata byte, in ascending address, with bit 7 set or not above its predecessor in its column and group
(11 R446, R448): stored row and column. -/
def badMeta (p cols : Nat) (get : Nat → Byte) : Option Nat :=
  (List.range (256 * cols)).find? fun i =>
    let k := i / cols
    (get i).getLsbD 7 || (k % p != 0 && decide ((get i).toNat ≤ (get (i - cols)).toNat))

/-- Is byte i of a part read? Of bp8 groups of 128 bytes only planes 0 .. p - 1 are (11 R446). -/
def LoadPart.reads (p : LoadPart) (i : Nat) : Bool :=
  match p.planes with
  | some n => decide (i % 128 < 16 * n)
  | none => true

/-- The bytes of a part as a load reads them, with their poison; a byte that is not read counts as zero. -/
def loadSource (k : Card) (c : Ctx) (p : LoadPart) : M (List (Byte × Bool)) :=
  mapM' (List.range p.len) fun i => do
    if p.reads i then
      let (bs, po) ← jobRead k c ((p.src + i) % 2 ^ 64) 1
      pure ((bs.head?).getD 0, po)
    else pure (0, false)

/-- The part of a source that a target takes: all of it, or its half under `.split`. -/
def targetPart (dst : WldDst) (array : Nat) (bs : List (Byte × Bool)) : List (Byte × Bool) :=
  if dst = .split then (if array % 2 = 0 then bs.take (bs.length / 2) else bs.drop (bs.length / 2)) else bs

/-- Columns of a source (11 R446). -/
def srcCols (dst : WldDst) : Nat := if dst = .split then 512 else 256

/-- One step of a weight load: the next part, or after the last one the check of the metadata and the bank's
validity (11 R448). -/
def weightStep (k : Card) (c : Ctx) (w : WeightCard) (dst : WldDst) (arrays : List Nat) : M Unit := do
  let next := modify fun s => s.updCard k.serial k.seq fun k => { k with prog := k.prog + 1 }
  let upd := fun (f : Nat → MArray → MArray) =>
    modify fun (s : State) => arrays.foldl (fun s a => s.setArray a (f a (s.array a))) s
  if k.prog = 0 then upd fun _ a => { a.setStaging { Bank.blank with fmt := w.fmt } with staging := 1 }
  if k.prog < 640 then
    match loadPart w (srcCols dst) k.prog with
    | none => next
    | some p =>
      let bs ← loadSource k c p
      upd fun n a => a.setStaging (a.stagingBank.place p (targetPart dst n bs))
      next
  else if k.prog = 640 then
    if fmtSparse w.fmt ≠ 0 then
      let s ← get
      let cols := srcCols dst
      let get := fun (i : Nat) =>
        let a := if dst = .split && 256 ≤ i % cols then arrays.getLast?.getD 0 else arrays.head?.getD 0
        (s.array a).stagingBank.meta_.get (256 * (i / cols) + i % cols % 256)
      if let some i := badMeta (fmtSparse w.fmt) cols get then trap causeProt (BitVec.ofNat 64 (w.msrc + i))
    upd fun _ a => { a.setStaging { a.stagingBank with valid := true } with staging := 2 }
    next

/-- May a load write its staging banks: the previous swap of each target has taken place (11 R449)? -/
def State.loadTurn (s : State) (k : Card) (arrays : List Nat) : Bool :=
  arrays.all fun a =>
    ((s.array a).queue.findSome? fun c => match c.kind with
      | .swap seq _ => some seq
      | _ => none) == some k.seq

/-- WEIGHT_LOAD_JOB: the next step of a load that has started; a stopped load leaves its bank invalid. -/
def execWeightLoadJob (card : Word) (s : State) : Host.Outcome State Fault Refusal :=
  let isLoad := fun (k : Card) => k.active && Job.kind k.job == 2 && k.prog < 641
  match s.findCard card isLoad with
  | none => .next s
  | some k =>
    match k.job with
    | .weight b dst arrays =>
      if !s.loadTurn k arrays then .next s
      else
        let c := s.jobCtx k (quadOf k.core) []
        let s := runJob k c (weightStep k c (weightCard b) dst arrays) s
        if ((s.card? k.serial k.seq).bind fun k => k.stop).isSome then
          .next (arrays.foldl (fun s a => s.setArray a { s.array a with staging := 2 }) s)
        else .next s
    | _ => .next s

end Sys2Proof.Machine
end

