-- ==== Sys2Proof/Machine/Matrix.lean ====
section
/-! DEFINITION. Major 0x70: attachment, weight loads, streams, drains, saves, lines and waits (11 R456..R471). -/

namespace Sys2Proof.Machine

open Sys2Proof

/-! Attachments (11 R436..R439). -/

/-- The array of a hart's own cluster. -/
def ownArray (slot : Nat) : Nat := clusterOf (coreOf slot)

/-- Both arrays of a hart's pair, the even cluster's first. -/
def pairArrays (slot : Nat) : List Nat := [ownArray slot / 2 * 2, ownArray slot / 2 * 2 + 1]

/-- The rows and the arrays of a hart's attachment. -/
def State.attachment (s : State) (slot : Nat) : Option (Nat × List Nat) :=
  ((s.array (ownArray slot)).rowsOf slot).map fun (rows, pair) =>
    (rows, if pair then pairArrays slot else [ownArray slot])

/-- Rows that no hart holds. -/
def MArray.freeRows (a : MArray) : Nat := 128 - (a.attached.map fun t => t.2.1).sum

/-- Does a weight load that has not completed target an array? (11 R436) -/
def State.arrayLoading (s : State) (a : Nat) : Bool :=
  s.la.cards.any fun k => k.completed.isNone && match k.job with
    | .weight _ _ arrays => arrays.contains a
    | _ => false

/-- An array with no attached hart and no load is held by none (11 R436). -/
def State.freeArray (s : State) (a : Nat) : State :=
  if (s.array a).attached.isEmpty && !s.arrayLoading a then s.setArray a MArray.blank else s

/-- A hart's rows and commands leave its arrays (11 R459). -/
def State.detachHart (s : State) (slot : Nat) : State :=
  match s.attachment slot with
  | none => s
  | some (_, arrays) =>
    let s := arrays.foldl (fun (s : State) n =>
      let a := s.array n
      (s.setArray n { a with
        attached := a.attached.filter fun t => t.1 != slot
        acc := a.acc.filter fun kv => kv.1 / 32768 != slot
        intRows := a.intRows.filter fun r => r / 128 != slot
        queue := a.queue.filter fun c => c.hart != slot }).freeArray n) s
    s.setHart slot { s.hart slot with mmodes := [], movf := false }

/-- Has the hart an unfinished command, or its launch a load that targets its arrays? (11 R459) -/
def State.matrixBusy (s : State) (slot : Nat) : Bool :=
  match s.attachment slot with
  | none => false
  | some (_, arrays) => arrays.any fun n =>
      ((s.array n).queue.any fun c => c.hart == slot) || (s.la.cards.any fun k =>
        k.completed.isNone && k.serial == (s.hart slot).serial && match k.job with
          | .weight _ _ targets => targets.contains n
          | _ => false)

/-- Take or share arrays: rows that hold zero in floating mode (11 R436, R438). -/
def State.attach (s : State) (slot rows : Nat) (pair : Bool) (arrays : List Nat) : State :=
  let serial := (s.hart slot).serial
  let s := arrays.foldl (fun (s : State) n =>
    let a := s.array n
    let a := if a.holder.isNone then { MArray.blank with holder := some serial } else a
    s.setArray n { a with attached := a.attached ++ [(slot, rows, pair)] }) s
  s.setHart slot { s.hart slot with mmodes := [], movf := false }

/-! Issue of the family (11 R440, R441, R456). -/

/-- Has the hart 16 unfinished commands at an array of its attachment? (11 R441) -/
def State.commandsFull (s : State) (slot : Nat) : Bool :=
  match s.attachment slot with
  | some (_, arrays) => arrays.any fun n => decide (16 ≤ (s.array n).queue.countP fun c => c.hart == slot)
  | none => false

/-- An instruction of the family: a rendezvous; with 16 unfinished commands of the hart at an array it waits at issue
(11 R441, R456). -/
def matRun (w : Nat) (barrier : Bool) (body : M Unit) : M Unit := do
  if (← curStream).captured.isNone && (← get).commandsFull (← curSlot) then waitHere
  vecEnter w true barrier
  body
  vecLeave

/-- Issue an instruction of the family that carries no element data: its lane request uses a width of 32 bits. -/
def runMatrix (i : Instr) (hd : Hdr) (body : M Unit) (s : State) : Host.Outcome State Fault Refusal :=
  runSeq i hd (matRun 32 true body) s

/-- Trap MATTACH with a reason and a row (11 R454). -/
def trapMattach {α : Type} (reason row : Nat) : M α := trap causeMattach (BitVec.ofNat 64 (reason * 256 + row))

/-- The attachment of the executing hart; without one the instruction traps with reason 0. -/
def ownAttachment : M (Nat × List Nat) := do
  match (← get).attachment (← curSlot) with
  | some t => pure t
  | none => trapMattach 0 0

/-- Rows row0 .. row0 + m - 1 lie within the grant (11 R454). -/
def checkRows (rows row0 m : Nat) : M Unit :=
  if rows < row0 + m then trapMattach 1 (max row0 rows) else pure ()

/-- Wait until no unfinished command of the hart is on the given rows (11 R440). -/
def waitRows (arrays rows : List Nat) : M Unit := do
  let slot ← curSlot
  let s ← get
  if arrays.any fun n => (s.array n).queue.any fun c => c.hart == slot && c.rows.any fun r => rows.contains r then
    waitHere

/-- Enter the array order of the given arrays (11 R440). -/
def enterOrder (arrays : List Nat) (kind : MKind) : M Unit := do
  let slot ← curSlot
  modify fun s =>
    let c : MCmd := ⟨s.nextId, slot, s.cur.isX, kind, 0⟩
    arrays.foldl (fun s n => s.setArray n { s.array n with queue := (s.array n).queue ++ [c] })
      { s with nextId := s.nextId + 1 }

/-! MATTACH and MDETACH (11 R458, R459). -/

/-- Detach after waiting for the hart's commands and its launch's loads (11 R459). -/
def bodyDetach : M Unit := do
  let slot ← curSlot
  if (← get).matrixBusy slot then waitHere
  modify fun s => s.detachHart slot

/-- MATTACH, single or pair (11 R458). -/
def bodyMattach (pair : Bool) (d a : XOp) : M Unit := do
  let want := min (← readX a).toNat 128
  let l ← curLaunch?
  bodyDetach
  let slot ← curSlot
  let s ← get
  let arrays := if pair then pairArrays slot else [ownArray slot]
  let serial := (s.hart slot).serial
  let lockstep := (l.map fun l => l.info.pair).getD false
  let foreign := arrays.any fun n => !((s.array n).holder.isNone || (s.array n).holder == some serial)
  let g := if foreign || (pair && lockstep) then 0
    else arrays.foldl (fun g n => min g (s.array n).freeRows) want
  if 0 < g then set (s.attach slot g pair arrays)
  writeX d (BitVec.ofNat 64 g)

/-- MATTACH (11 R458). -/
def execMattach (h : Hdr) (d a : XOp) (s : State) : Host.Outcome State Fault Refusal :=
  runMatrix (.mattach h d a) h (bodyMattach false d a) s

/-- MATTACH.PAIR (11 R458). -/
def execMattachPair (h : Hdr) (d a : XOp) (s : State) : Host.Outcome State Fault Refusal :=
  runMatrix (.mattachPair h d a) h (bodyMattach true d a) s

/-- MDETACH (11 R459). -/
def execMdetach (h : Hdr) (s : State) : Host.Outcome State Fault Refusal :=
  runMatrix (.mdetach h) h bodyDetach s

/-! MWLD and MWAIT (11 R447, R460, R470). -/

/-- The targets of a load (11 R460). -/
def wldTargets (slot : Nat) (attached : List Nat) : WldDst → List Nat
  | .own => [ownArray slot]
  | .partner => [partnerArray (ownArray slot)]
  | .both => attached
  | .split => attached

/-- Is an address a scratchpad window address of a core of the cluster that holds ways of the launch? (11 R447) -/
def State.launchScratch (s : State) (core : Nat) (serial : Word) (va : Nat) : Bool :=
  match addrKind core va with
  | .scratch k _ => ((s.core k).scratch? serial).any fun x => x.rsv != 0
  | _ => false

/-- MWLD (11 R447, R449, R460). -/
def execMwld (h : Hdr) (dst : WldDst) (d a : XOp) (s : State) : Host.Outcome State Fault Refusal :=
  runMatrix (.mwld h dst d a) h (do
    let (_, attached) ← ownAttachment
    if dst != .own && attached.length < 2 then trapMattach 7 0
    release 3
    let va := (← readX a).toNat
    if va % 64 ≠ 0 then trap causeAlign (BitVec.ofNat 64 va)
    let b ← readCard h va 128
    let rs ← checkFootprint b
    let s ← get
    let slot := s.cur.slot
    match weightBadField b (dst == .split) (s.launchScratch (coreOf slot) (s.hart slot).serial) with
    | some o => trap causeProt (BitVec.ofNat 64 (va + o))
    | none =>
      let seq := (s.launchOf slot).map fun l => l.nextSeq
      let targets := wldTargets slot attached dst
      let handle ← issueCard (.weight b dst targets) rs
      enterOrder targets (.swap (seq.getD 0) (weightCard b).fmt)
      writeX d handle) s

/-- MWAIT (11 R470): the first wait on a stopped load traps its cause. -/
def execMwait (h : Hdr) (d a : XOp) (s : State) : Host.Outcome State Fault Refusal :=
  runMatrix (.mwait h d a) h (do
    let w ← readX a
    let k ← ownCard [2] w
    match k.completed with
    | none => waitHere
    | some st =>
      match if k.trapped then none else k.stop.filter fun t => t.2.1 != 0 with
      | some (_, cause, va, _) =>
        modify fun s => s.updCard k.serial k.seq fun k => { k with trapped := true }
        trap cause va
      | none =>
        acquireJob
        writeX d (BitVec.ofNat 64 (CardStatus.code st))) s

/-! MSTREAM and MZERO (11 R461..R463). -/

/-- The mode that the hart's last MZERO or MRESTORE gave a row: true for integer, floating since attachment. -/
def Hart.rowMode (h : Hart) (row : Nat) : Bool := h.mmodes.get row false

/-- The check of a byte that a stream reads: window form, holder, scratchpad limits (06 R251, R252; 11 R437, R462). -/
def checkWindowByte (c : Ctx) (va : Nat) : M Unit := do
  match addrKind c.core va with
  | .scratch core off => do
    let _ ← scratchAt c va core off 1
  | .tile array _ => do
    let _ ← tileAt c va array
  | _ => trap causeProt (BitVec.ofNat 64 va)

/-- MSTREAM (11 R461, R462): the checks in order, then the array order. -/
def execMstream (h : Hdr) (c : StreamCmd) (d a : XOp) (s : State) : Host.Outcome State Fault Refusal :=
  runMatrix (.mstream h c d a) h (do
    let base ← readX a
    let sbase ← readX d
    let (rows, arrays) ← ownAttachment
    let s ← get
    let row0 := c.row0.toNat
    let fmts := arrays.map fun n => (s.array n).streamFmt
    match (fmts.map fun f => pairMode f c.at_).dedup with
    | [some int] =>
      let kt := (fmts.map fmtKt).foldl min 4096
      let kl := if c.kl = 0 then kt else c.kl.toNat
      if kt < kl then trapMattach 5 row0
      checkRows rows row0 c.m.toNat
      let hart ← curHart
      match ((List.range c.m.toNat).map fun i => row0 + i).find? fun r => hart.rowMode r != int with
      | some r => trapMattach 2 r
      | none =>
        let ctx ← hartCtx h.ch 0
        forM' (List.range (unitCount c kl)) fun u => forM' (unitAddrs c kl base sbase u) fun va => checkWindowByte ctx va
        enterOrder arrays (.stream c kl base sbase hart.ovft)
    | _ => trapMattach 3 row0) s

/-- MZERO in a mode (11 R463). -/
def bodyMzero (int : Bool) (row0 m : Nat) : M Unit := do
  let (rows, arrays) ← ownAttachment
  checkRows rows row0 m
  modHart fun h => { h with mmodes := (List.range m).foldl (fun l i => l.put (row0 + i) int) h.mmodes }
  enterOrder arrays (.zero row0 m int)

/-- MZERO.FP (11 R463). -/
def execMzeroFp (h : Hdr) (row0 : BitVec 7) (m : BitVec 8) (s : State) : Host.Outcome State Fault Refusal :=
  runMatrix (.mzeroFp h row0 m) h (bodyMzero false row0.toNat m.toNat) s

/-- MZERO.INT (11 R463). -/
def execMzeroInt (h : Hdr) (row0 : BitVec 7) (m : BitVec 8) (s : State) : Host.Outcome State Fault Refusal :=
  runMatrix (.mzeroInt h row0 m) h (bodyMzero true row0.toNat m.toNat) s

/-! MDRAIN (11 R464, R465; 03 R141). -/

/-- The drained value of a cell: the only rounding that it meets (03 R127, R141). -/
def Acc.drain (c : Acc) (int : Bool) (t : Ty) (r : RCtx) : Nat :=
  let neg := c.val.msb
  if !int then roundTo t r false (Ty.decode .f32 (c.val.toNat % 2 ^ 32))
  else if c.sticky then
    match Ty.fmt t, Ty.int? t with
    | some f, _ => f.overflow t r neg
    | none, some (w, sgn) => intOverflow w sgn r true neg
    | none, none => 0
  else roundTo t r (Ty.isInt t) (.ofInt c.val.toInt)

/-- The cell of a hart's logical row and column of the attachment (11 R439). -/
def State.drainCell (s : State) (arrays : List Nat) (slot row col : Nat) : Acc × Bool :=
  let a := s.array ((arrays[col / 256]?).getD 0)
  (a.cell slot row (col % 256), a.intRows.contains (slot * 128 + row))

/-- One drained element: the cell's error mark, alignment, the poison mark, then an ordered store (11 R465). -/
def drainElem (c : Ctx) (sh : VecShape) (cmd : DrainCmd) (arrays : List Nat) (addr : Nat → Nat) (r : Nat → RCtx)
    (serial : Nat) (force : Bool) : M (Bool × Option RemoteElem) := do
  let h ← curHart
  let i := c.elem
  let row := cmd.row0.toNat + i / h.vl.toNat
  let (cell, int) := (← get).drainCell arrays (← curSlot) row (cmd.col0.toNat + i % h.vl.toNat)
  if cell.err then trapMattach 4 row
  if addr i % sh.size ≠ 0 then trap causeAlign (BitVec.ofNat 64 (addr i))
  if cell.poison then trap causePoison (BitVec.ofNat 64 (addr i))
  storeElem .ordered c sh (addr i) (cell.drain int cmd.t (r i)) serial force

/-- Zero a block of cells with their marks; the rows' modes stay (11 R465). -/
def zeroBlock (arrays : List Nat) (cmd : DrainCmd) (vl slot : Nat) (s : State) : State :=
  (List.range (cmd.m.toNat * vl)).foldl (fun (s : State) i =>
    let col := cmd.col0.toNat + i % vl
    let n := (arrays[col / 256]?).getD 0
    s.setArray n ((s.array n).setCell slot (cmd.row0.toNat + i / vl) (col % 256) Acc.blank)) s

/-- MDRAIN (11 R464, R465). -/
def bodyMdrain (hd : Hdr) (cmd : DrainCmd) (addr : Hart → Nat → Nat) : M Unit := do
  let (rows, arrays) ← ownAttachment
  let row0 := cmd.row0.toNat
  checkRows rows row0 cmd.m.toNat
  let h ← curHart
  let vl := h.vl.toNat
  if 256 * arrays.length < cmd.col0.toNat + vl then trapMattach 5 row0
  waitRows arrays ((List.range cmd.m.toNat).map fun i => row0 + i)
  let n := cmd.m.toNat * vl
  let sh : VecShape := ⟨n, cmd.t, Ty.size cmd.t, false⟩
  let masked := cmd.km != 0 || cmd.kn
  let on := fun i => !masked || (h.getK cmd.km.val).getLsbD i != cmd.kn
  let is := (List.range n).filter fun i => h.vstart.toNat ≤ i && on i
  let c ← hartCtx hd.ch (← curTag)
  let r ← rctx cmd.rm
  let serial ← takeSerial
  let slot ← curSlot
  let s ← get
  let value := fun i =>
    let (cell, int) := s.drainCell arrays slot (row0 + i / vl) (cmd.col0.toNat + i % vl)
    cell.drain int cmd.t (r i)
  let one : StoreOne := fun c _ force => do
    let (logged, rem) ← drainElem c sh cmd arrays (addr h) r serial force
    pure (logged, rem.toList)
  runStore ⟨.ordered, sh, h, addr h, value, one, true⟩ c (pure is)
  if cmd.zero then modify (zeroBlock arrays cmd vl slot)

/-- MDRAIN with a row stride (11 R465). -/
def execMdrain (h : Hdr) (c : DrainCmd) (a b : XOp) (s : State) : Host.Outcome State Fault Refusal :=
  runSeq (.mdrain h c a b) h (matRun (Ty.width c.t) false do
    awaitInputs (.mdrain h c a b)
    let base ← readX a
    let stride ← readX b
    bodyMdrain h c fun ha i => (base + BitVec.ofNat 64 (i / ha.vl.toNat) * stride
      + BitVec.ofNat 64 (i % ha.vl.toNat * Ty.size c.t)).toNat) s

/-- MDRAIN.IDX: indexed addresses (11 R465). -/
def execMdrainIdx (h : Hdr) (c : DrainCmd) (a : XOp) (d : VOp) (s : State) : Host.Outcome State Fault Refusal :=
  runSeq (.mdrainIdx h c a d) h (matRun (Ty.width c.t) false do
    awaitInputs (.mdrainIdx h c a d)
    let base ← readX a
    let idx ← readTile .i32 d
    bodyMdrain h c fun _ i => (base + (BitVec.ofNat 32 (idx i)).signExtend 64).toNat) s

/-! MSAVE and MRESTORE (11 R466..R468). -/

/-- Bits of a saved cell (11 R466). -/
def Acc.word (c : Acc) : Nat :=
  c.val.toNat + 2 ^ 48 * c.sticky.toNat + 2 ^ 49 * c.poison.toNat + 2 ^ 50 * c.err.toNat

/-- A saved cell from its bits. -/
def accOf (w : Nat) : Acc := ⟨BitVec.ofNat 48 w, bitOf w 48, bitOf w 49, bitOf w 50⟩

/-- The active bank's format word as an image holds it. -/
def MArray.imageFmt (a : MArray) : Nat := a.activeBank.fmt.toNat % 2 ^ 13 + 2 ^ 13 * a.activeBank.valid.toNat

/-- The matrix image of a hart's rows (11 R466). -/
def State.matrixImage (s : State) (slot rows : Nat) (arrays : List Nat) : List Byte :=
  let fmt := fun (i : Nat) => match arrays[i]? with
    | some n => (s.array n).imageFmt
    | none => 0
  let first := s.array ((arrays.head?).getD 0)
  let modes := (List.range rows).foldl (fun m r => if first.intRows.contains (slot * 128 + r) then m + 2 ^ r else m) 0
  let cells := (List.range rows).flatMap fun r => arrays.flatMap fun n => (List.range 256).flatMap fun col =>
    leBytes 8 ((s.array n).cell slot r col).word
  leBytes 4 0x4D534156 ++ leBytes 1 1 ++ leBytes 1 rows ++ leBytes 1 (arrays.length - 1) ++ leBytes 1 0
    ++ leBytes 8 (fmt 0) ++ leBytes 8 (fmt 1) ++ leBytes 16 modes ++ leBytes 24 0 ++ cells

/-- The checks that MSAVE and MRESTORE share (11 R467, R468). -/
def imageStart (m : MemOp) : M (Nat × Nat × List Nat) := do
  let ea ← readEA m
  let (rows, arrays) ← ownAttachment
  if ea % 64 ≠ 0 then trap causeAlign (BitVec.ofNat 64 ea)
  match addrKind (← curCore) ea with
  | .tile _ _ => trap causeProt (BitVec.ofNat 64 ea)
  | _ => pure (ea, rows, arrays)

/-- Wait until the hart has no unfinished command (11 R468, R471). -/
def waitCommands : M Unit := do
  let slot ← curSlot
  let s ← get
  let busy : Bool := match s.attachment slot with
    | some (_, arrays) => arrays.any fun n => (s.array n).queue.any fun c => c.hart == slot
    | none => false
  if busy then waitHere

/-- Store the lines of an image in ascending address, as an ordered store of 64 bytes each (11 R467): the stream's place in it
counts bytes. -/
def storeImage (ch : Fin 4) (ea : Nat) (img : List Byte) : M Unit := do
  let serial ← takeSerial
  let h ← curHart
  let addr := fun o => (ea + o) % 2 ^ 64
  let line := fun o => (img.drop o).take 64
  let one : StoreOne := fun c o force => do
    let (rem, logged) ← hartStoreMarked c (addr o) (line o) serial force
    pure (logged, match rem with
      | some (rpkg, pa) => (List.range 8).map fun i =>
          ⟨o / 8 + i, addr o + 8 * i, pa + 8 * i, 8, leNat (((line o).drop (8 * i)).take 8), rpkg⟩
      | none => [])
  let sh : VecShape := ⟨img.length, .n64, 64, true⟩
  runStore ⟨.ordered, sh, h, addr, fun o => leNat (line o), one, false⟩ (← hartCtx ch (← curTag))
    (pure ((List.range (img.length / 64)).map fun i => 64 * i))

/-- MSAVE (11 R467). -/
def execMsave (h : Hdr) (d : XOp) (m : MemOp) (s : State) : Host.Outcome State Fault Refusal :=
  runMatrix (.msave h d m) h (do
    let (ea, rows, arrays) ← imageStart m
    waitRows arrays (List.range rows)
    let img := (← get).matrixImage (← curSlot) rows arrays
    storeImage h.ch ea img
    writeX d (BitVec.ofNat 64 img.length)) s

/-- Does the head of an image break 11 R468 for a grant of rows? -/
def imageBad (hd : List Byte) (rows arrays : Nat) : Bool :=
  cardField hd 0 4 != 0x4D534156 || cardField hd 4 1 != 1 || cardField hd 5 1 == 0 || decide (rows < cardField hd 5 1)
    || cardField hd 6 1 != arrays - 1 || cardField hd 7 1 != 0 || (arrays == 1 && cardField hd 16 8 != 0)
    || cardField hd 40 24 != 0

/-- Write restored rows into one array: cells and modes. -/
def MArray.restoreRows (a : MArray) (slot rows w first modes : Nat) (cells : List Nat) : MArray :=
  let a := (List.range rows).foldl (fun (a : MArray) r => a.zeroRows slot r 1 (bitOf modes r)) a
  (List.range (rows * 256)).foldl (fun (a : MArray) i =>
    a.setCell slot (i / 256) (i % 256) (accOf ((cells[i / 256 * w + first + i % 256]?).getD 0))) a

/-- MRESTORE (11 R468): every byte is read before the image is judged and a row is written. -/
def execMrestore (h : Hdr) (d : XOp) (m : MemOp) (s : State) : Host.Outcome State Fault Refusal :=
  runMatrix (.mrestore h d m) h (do
    let (ea, rows, arrays) ← imageStart m
    waitCommands
    let c ← hartCtx h.ch (← curTag)
    let hd := leBytes 64 (← hartLoadWide c ea 64)
    let n := cardField hd 5 1
    let w := 256 * arrays.length
    let cells ← mapM' (List.range (n * w)) fun i => hartLoad { c with elem := 8 + i } ((ea + 64 + 8 * i) % 2 ^ 64) 8
    if imageBad hd rows arrays.length || cells.any fun x => 2 ^ 51 ≤ x then trapMattach 6 0
    let slot ← curSlot
    let modes := cardField hd 24 16
    modify fun s => arrays.zipIdx.foldl (fun (s : State) (a : Nat × Nat) =>
      s.setArray a.1 ((s.array a.1).restoreRows slot n w (256 * a.2) modes cells)) s
    modHart fun h => { h with mmodes := (List.range n).foldl (fun l r => l.put r (bitOf modes r)) h.mmodes }
    writeX d (BitVec.ofNat 64 (cardField hd 8 8))) s

/-! MLINE (11 R469). -/

/-- The array and lines that MLINE names, after its checks, and the scope of its release or acquire. -/
def lineRange (d : XOp) (m : MemOp) : M (Nat × List Nat × Nat) := do
  let ea ← readEA m
  let len ← readX d
  let core ← curCore
  match addrKind core ea with
  | .tile a off =>
    if ea % 128 ≠ 0 then trap causeAlign (BitVec.ofNat 64 ea)
    else if len.toNat % 128 ≠ 0 then trap causeAlign len
    else if 2 ^ 20 < off + len.toNat then trap causeProt (BitVec.ofNat 64 (ea + len.toNat - 1))
    else
      let _ ← tileAt (← hartCtx 0 0) ea a
      pure (a, (List.range (len.toNat / 128)).map fun i => off / 128 + i, if a = clusterOf core then 3 else 4)
  | _ => trap causeProt (BitVec.ofNat 64 ea)

/-- Set the lines empty or full in ascending address, one a turn; a length of 0 does nothing beyond the checks. The stream's
stage counts the lines done. -/
def bodySetLines (full : Bool) (d : XOp) (m : MemOp) : M Unit := do
  let (a, lines, scope) ← lineRange d m
  let done := (← curStream).stage
  if lines.isEmpty || done != 0 then pure () else release scope
  match lines.drop done with
  | [] => pure ()
  | l :: rest => do
    modify fun s => s.setFull (a, l) full
    if rest.isEmpty then pure ()
    else
      modStream fun st => { st with stage := done + 1 }
      waitHere

/-- Wait until every line is full, or empty. -/
def bodyWaitLines (full : Bool) (d : XOp) (m : MemOp) : M Unit := do
  let (a, lines, scope) ← lineRange d m
  let held := ((← get).array a).full
  if lines.any fun l => held.contains l != full then waitHere
  if lines.isEmpty then pure () else acquire scope

/-- MLINE.EMPTY (11 R469). -/
def execMlineEmpty (h : Hdr) (d : XOp) (m : MemOp) (s : State) : Host.Outcome State Fault Refusal :=
  runMatrix (.mlineEmpty h d m) h (bodySetLines false d m) s

/-- MLINE.FULL (11 R469). -/
def execMlineFull (h : Hdr) (d : XOp) (m : MemOp) (s : State) : Host.Outcome State Fault Refusal :=
  runMatrix (.mlineFull h d m) h (bodySetLines true d m) s

/-- MLINE.WFULL (11 R469). -/
def execMlineWfull (h : Hdr) (d : XOp) (m : MemOp) (s : State) : Host.Outcome State Fault Refusal :=
  runMatrix (.mlineWfull h d m) h (bodyWaitLines true d m) s

/-- MLINE.WEMPTY (11 R469). -/
def execMlineWempty (h : Hdr) (d : XOp) (m : MemOp) (s : State) : Host.Outcome State Fault Refusal :=
  runMatrix (.mlineWempty h d m) h (bodyWaitLines false d m) s

/-! MSTAT (11 R471). -/

/-- The state of a logical row. -/
def State.rowState (s : State) (slot : Nat) (w : Word) : Word :=
  match s.attachment slot with
  | none => 0
  | some (rows, arrays) =>
    if rows ≤ w.toNat then 0
    else
      let r := w.toNat
      let cells := arrays.flatMap fun n => (List.range 256).map fun col => (s.array n).cell slot r col
      let sticky := cells.countP fun c => c.sticky
      let mode := (s.array (ownArray slot)).intRows.contains (slot * 128 + r)
      BitVec.ofNat 64 (mode.toNat + (if 0 < sticky then 2 else 0) + 4 * sticky
        + (if cells.any fun c => c.poison then 2 ^ 12 else 0) + (if cells.any fun c => c.err then 2 ^ 13 else 0))

/-- MSTAT (11 R471): it waits for the hart's earlier commands. -/
def execMstat (h : Hdr) (sel : Fin 4) (d a : XOp) (s : State) : Host.Outcome State Fault Refusal :=
  runMatrix (.mstat h sel d a) h (do
    let w ← readX a
    waitCommands
    let slot ← curSlot
    let s ← get
    writeX d (match sel with
      | 0 => s.matrixReg slot 2
      | 1 => s.matrixReg slot 1
      | 2 => s.matrixReg slot 0
      | 3 => s.rowState slot w)) s

end Sys2Proof.Machine
end

