-- ==== Sys2Proof/Machine/Programs.lean ====
section
/-! DEFINITION. Traverse programs: handles, slots, the checks of a leg, the single-owner check, and the instructions of
major 0x80 (12 R475..R486, R497, R503..R505, R514..R519). -/

namespace Sys2Proof.Machine

open Sys2Proof

/-! Slots and entries (12 R475..R477, R515). -/

/-- An unused slot. -/
def TSlot.blank : TSlot := ⟨0, 0, 0, 0, 0, 0, 0⟩

/-- A slot-table entry (12 R477): FE is flag 0, the reserved bits of ARRW are flags 1 to 3. -/
def parseSlot (b : List Byte) : TSlot :=
  let w := cardField b 16 8
  ⟨BitVec.ofNat 64 (cardField b 0 8), cardField b 8 4, cardField b 12 2, cardField b 14 2, BitVec.ofNat 64 (w / 16 * 16),
    BitVec.ofNat 64 (cardField b 24 8), w % 16⟩

/-- FE: writes respect full/empty bits. -/
def TSlot.fe (t : TSlot) : Bool := bitOf t.flags 0

/-- Is an address in a tile-buffer window? -/
def isTile (va : Nat) : Bool := match addrKind 0 va with
  | .tile _ _ => true
  | _ => false

/-- Is an address in a scratchpad window? -/
def isScratch (va : Nat) : Bool := match addrKind 0 va with
  | .scratch _ _ => true
  | _ => false

/-- Is an address a global one? -/
def isGlobal (va : Nat) : Bool := decide (va < 2 ^ 57)

/-- Is a slot-table entry legal? (12 R477) -/
def slotLegal (b : List Byte) : Bool :=
  let t := parseSlot b
  let base := t.base.toNat
  if t.size = 0 then b.all fun x => x == 0
  else
    let fits := if isGlobal base then decide (base + t.size ≤ 2 ^ 57) else match windowEnd base with
      | some e => decide (base + t.size ≤ e)
      | none => false
    fits && decide (t.rows * t.rowb ≤ t.size) && decide (t.flags < 2) && (!t.fe || isTile base)
      && (t.arrw == 0 || isScratch t.arrw.toNat)
      && (t.clw == 0 || (t.clw.toNat % 8 == 0 && (isGlobal t.clw.toNat || isScratch t.clw.toNat)))

/-- A slot of a program. -/
def TProg.slot (p : TProg) (n : Fin 16) : TSlot := (p.slots[n.val]?).getD TSlot.blank

/-- The handle of an entry (12 R515). -/
def progHandle (key : Nat) (gen : BitVec 4) (lslot : Nat) : Word :=
  BitVec.ofNat 64 (key % 64 + gen.toNat * 2 ^ 6 + key / 64 * 2 ^ 10 + lslot % 2 ^ 20 * 2 ^ 12)

/-- The entry that a handle names for a launch; none when the handle is not current. -/
def State.progOf (s : State) (l : Launch) (h : Word) : Option (Nat × TProg) :=
  let key := fieldOf h.toNat 10 2 * 64 + h.toNat % 64
  match s.tv.progs.get? key with
  | none => none
  | some p => if p.used && p.serial == l.serial && h == progHandle key p.gen l.lslot then some (key, p) else none

/-- Units of an entry: its header and its legs. -/
def TProg.units (p : TProg) : Nat := p.legs.length + 1

/-- The entries in use of a quadrant. -/
def State.quadProgs (s : State) (q : Nat) : List TProg :=
  (s.tv.progs.filter fun kv => kv.1 / 64 == q && kv.2.used).map (·.2)

/-- The lowest-addressed free run of n units of a quadrant's program memory. -/
def State.freeUnits (s : State) (q n : Nat) : Option Nat :=
  let ps := s.quadProgs q
  let starts := (ps.map fun p => p.first + p.units).foldl (fun l a => insertNat a l) [0]
  starts.find? fun a => decide (a + n ≤ 4096) && ps.all fun p => decide (a + n ≤ p.first) || decide (p.first + p.units ≤ a)

/-! Legs as a program's member sees them (12 R482..R486). -/

/-- Element type of a REDUCE. -/
def LegTy.ty : LegTy → Ty
  | .f32 => .f32
  | .bf16 => .bf16
  | .i32 => .i32

/-- Chunk index of a leg: exact, then modulo COUNT (12 R482). -/
def TProg.index (p : TProg) (c : Chunk) (it0 it1 : Nat) : Nat :=
  ((c.kr * (p.rank : Int) + c.ki * ((if c.lv then it1 else it0 : Nat) : Int) + c.k0.toInt) % ((max 1 p.count : Nat) : Int)).toNat

/-- The peer of a leg (12 R482). -/
def TProg.peer (p : TProg) (q : Peer) : Nat :=
  if q.rel then (((p.rank : Int) + q.p.toInt) % ((max 1 p.count : Nat) : Int)).toNat else q.p.toNat

/-- A local slot that a leg names with a chunk: chunk offset, length and stride. -/
structure LegRef where
  slot : Fin 16
  off : Nat
  len : Nat
  stride : Nat
  deriving DecidableEq, Repr

/-- The plain reference of a slot by a chunk. -/
def Chunk.at_ (c : Chunk) (s : Fin 16) : LegRef := ⟨s, c.off.toNat, c.len.toNat, c.len.toNat⟩

/-- A COPY's destination (12 R491, R504). -/
def copyDst (cvt : Bool) (stride : BitVec 12) (sc : Fin 16) (c : Chunk) : LegRef :=
  ⟨sc, c.off.toNat, if cvt then c.len.toNat / 2 else c.len.toNat,
    if stride = 0 then c.len.toNat else stride.toNat * 16⟩

/-- The local chunks that a leg names, its own slots in order. -/
def legRefs : Instr → List LegRef
  | .legSend _ _ _ sa _ _ c => [Chunk.at_ c sa]
  | .legRecv _ _ _ _ sa c => [Chunk.at_ c sa]
  | .legReduce _ _ _ _ sa sb sc c => [Chunk.at_ c sa, Chunk.at_ c sb, Chunk.at_ c sc]
  | .legCopy cvt _ _ stride sa sc c => [Chunk.at_ c sa, copyDst cvt stride sc c]
  | .legWait (.full sa c) => [Chunk.at_ c sa]
  | .legWait (.empty sa c) => [Chunk.at_ c sa]
  | _ => []

/-- The chunk of a leg. -/
def legChunk : Instr → Option Chunk
  | .legSend _ _ _ _ _ _ c => some c
  | .legRecv _ _ _ _ _ c => some c
  | .legReduce _ _ _ _ _ _ _ c => some c
  | .legCopy _ _ _ _ _ _ c => some c
  | .legWait (.full _ c) => some c
  | .legWait (.empty _ c) => some c
  | _ => none

/-- The peer of a leg that names one. -/
def legPeer : Instr → Option Peer
  | .legSend _ _ p _ _ _ _ => some p
  | .legRecv _ _ _ p _ _ => some p
  | .legSignal p _ _ => some p
  | .legReserve _ p _ _ => some p
  | _ => none

/-- The slot that FULL and ARR concern, and the two flags. -/
def legMark : Instr → Option (Fin 16 × Bool × Bool)
  | .legRecv _ full arr _ sa _ => some (sa, full, arr)
  | .legReduce _ _ full arr _ _ sc _ => some (sc, full, arr)
  | .legCopy _ full arr _ _ sc _ => some (sc, full, arr)
  | _ => none

/-- Does a leg meet a missing slot, arrival word or tile buffer? (12 R486, R492, R501, R510 detail 2) -/
def TProg.slotFault (p : TProg) (i : Instr) : Bool :=
  ((legRefs i).any fun r => (p.slot r.slot).size == 0)
    || (match i with
      | .legWait (.arr sa _) => (p.slot sa).size == 0 || (p.slot sa).arrw == 0
      | .legWait (.full sa _) => !isTile (p.slot sa).base.toNat
      | .legWait (.empty sa _) => !isTile (p.slot sa).base.toNat
      | _ => false)
    || (match legMark i with
      | some (s, full, arr) => (full && !isTile (p.slot s).base.toNat) || (arr && (p.slot s).arrw == 0)
      | none => false)

/-- Does a leg meet a bound? (12 R482, R490, R491, R510 detail 3) -/
def TProg.boundFault (p : TProg) (i : Instr) (it0 it1 : Nat) : Bool :=
  (match legPeer i with
    | some q => !q.rel && decide (p.count ≤ q.p.toNat)
    | none => false)
    || (match legChunk i with
      | none => false
      | some c =>
        let j := p.index c it0 it1
        c.len == 0 || (legRefs i).any fun r =>
          r.len == 0 || decide ((p.slot r.slot).size < r.off + j * r.stride + r.len))
    || (match i with
      | .legReduce _ dt _ _ _ _ _ c => c.len.toNat % Ty.size (LegTy.ty dt) != 0
      | .legCopy cvt _ _ _ _ _ c => cvt && c.len.toNat % 4 != 0
      | _ => false)

/-- The checks of a leg before it takes effect: 0, or the detail of 12 R510 (12 R486). A word that is no leg is
ILLEG. -/
def TProg.legFault (p : TProg) (i : Option Instr) (it0 it1 : Nat) : Nat :=
  match i with
  | none => 1
  | some i => if p.slotFault i then 2 else if p.boundFault i it0 it1 then 3 else 0

/-- The address of a chunk of a slot (12 R482). -/
def TProg.addr (p : TProg) (r : LegRef) (j : Nat) : Nat := ((p.slot r.slot).base.toNat + r.off + j * r.stride) % 2 ^ 64

/-! The single-owner check (12 R503..R505). -/

/-- What an executed leg does to a chunk (slot and index) of this member. -/
inductive ChunkAct
  | send (fin : Bool)
  | left (dst : Nat × Nat)
  | right
  | copyRead
  | recv (fin : Bool)
  | reduce (left : Nat × Nat)
  | copyWrite (src : Nat × Nat)
  deriving DecidableEq, Repr

/-- Does an act write? -/
def ChunkAct.writes : ChunkAct → Bool
  | .recv _ => true
  | .reduce _ => true
  | .copyWrite _ => true
  | _ => false

/-- The acts of an executed leg in order. -/
def legActs (i : Instr) (j : Nat) : List ((Nat × Nat) × ChunkAct) :=
  match i with
  | .legSend _ fin _ sa _ _ _ => [((sa.val, j), .send fin)]
  | .legRecv fin _ _ _ sa _ => [((sa.val, j), .recv fin)]
  | .legReduce _ _ _ _ sa sb sc _ =>
    [((sa.val, j), .left (sc.val, j)), ((sb.val, j), .right), ((sc.val, j), .reduce (sa.val, j))]
  | .legCopy _ _ _ _ sa sc _ => [((sa.val, j), .copyRead), ((sc.val, j), .copyWrite (sa.val, j))]
  | _ => []

/-- The chunk grids that a leg names: a SEND without ROW names its receiver's slot too (12 R504). -/
def legGrids (i : Instr) : List LegRef :=
  match i with
  | .legSend row _ _ sa sb _ c => if row then [Chunk.at_ c sa] else [Chunk.at_ c sa, Chunk.at_ c sb]
  | i => legRefs i

/-- The first legs of the run that name chunks, in order: leg number, leg, chunk index; and whether the run passes the
limit of legs. A leg that would fault ends it (12 R503). -/
def TProg.unroll (p : TProg) (legs : List (Option Instr)) : Nat → Nat → Nat → Nat → List (Nat × Instr × Nat) →
    List (Nat × Instr × Nat) × Bool
  | 0, n, it0, it1, acc => (acc.reverse, (legs[n]?).any fun li => p.legFault li it0 it1 == 0)
  | fuel + 1, n, it0, it1, acc =>
    match legs[n]? with
    | none => (acc.reverse, false)
    | some li =>
      if p.legFault li it0 it1 ≠ 0 then (acc.reverse, false)
      else match li with
        | none => (acc.reverse, false)
        | some .legEnd => (acc.reverse, false)
        | some (.legRepeat lv count target) =>
          if count = 0 || n < target.toNat then (acc.reverse, false)
          else
            let it := (if lv then it1 else it0) + 1
            let again := decide (it < count.toNat)
            let it := if again then it else 0
            p.unroll legs fuel (if again then target.toNat else n + 1) (if lv then it0 else it) (if lv then it else it1) acc
        | some i =>
          match legChunk i with
          | none => p.unroll legs fuel (n + 1) it0 it1 acc
          | some c => p.unroll legs fuel (n + 1) it0 it1 ((n, i, p.index c it0 it1) :: acc)

/-- An act in execution order: place, leg, chunk, act. -/
structure ActAt where
  at_ : Nat
  leg : Nat
  chunk : Nat × Nat
  act : ChunkAct
  deriving DecidableEq, Repr

/-- The acts of a run in order. -/
def runActs (l : List (Nat × Instr × Nat)) : List ActAt :=
  l.zipIdx.flatMap fun (e, pos) => (legActs e.2.1 e.2.2).zipIdx.map fun (a, k) => ⟨pos * 4 + k, e.1, a.1, a.2⟩

/-- The writes of a chunk. -/
def chunkWrites (l : List ActAt) (c : Nat × Nat) : List ActAt := l.filter fun a => a.chunk == c && a.act.writes

/-- Is a chunk a chain, and where its last REDUCE stands. -/
def chainEnd (l : List ActAt) (c : Nat × Nat) : Option Nat :=
  let ws := chunkWrites l c
  let red := fun (a : ActAt) => match a.act with
    | .reduce _ => true
    | _ => false
  if ws.all red then ws.getLast?.map (·.at_) else none

/-- Is a chunk final, and where its one write stands. -/
def finalAt (l : List ActAt) (c : Nat × Nat) : Option Nat :=
  match chunkWrites l c with
  | [w] => match w.act with
    | .recv fin => if fin then some w.at_ else none
    | .copyWrite _ => some w.at_
    | _ => none
  | _ => none

/-- Is a chunk a staging one, and where its RECV stands. -/
def stagingAt (l : List ActAt) (c : Nat × Nat) : Option Nat :=
  match chunkWrites l c with
  | [w] => if w.act == .recv false then some w.at_ else none
  | _ => none

/-- Does an act fit the patterns of 12 R505? -/
def actFits (l : List ActAt) (a : ActAt) : Bool :=
  let ws := chunkWrites l a.chunk
  let first := ws.head?.map (·.at_) == some a.at_
  let single := ws.length == 1
  match a.act with
  | .recv _ => single || first
  | .copyWrite src => (single || first) && ((finalAt l src).isSome || (chainEnd l src).isSome)
  | .reduce left => if first then true else (chainEnd l a.chunk).isSome && left == a.chunk
  | .send fin =>
    match chainEnd l a.chunk, finalAt l a.chunk with
    | some e, _ => !fin || decide (e < a.at_)
    | none, some e => fin && decide (e < a.at_)
    | none, none => ws.isEmpty && !fin
  | .left dst => ws.isEmpty || ((chainEnd l a.chunk).isSome && dst == a.chunk)
  | .right => match stagingAt l a.chunk with
    | some e => decide (e < a.at_)
    | none => false
  | .copyRead =>
    match chainEnd l a.chunk, finalAt l a.chunk with
    | some e, _ => decide (e < a.at_)
    | none, some e => decide (e < a.at_)
    | none, none => ws.isEmpty

/-- Does every slot have one grid (12 R504)? -/
def oneGrid (l : List (Nat × Instr × Nat)) : Bool :=
  let grids := l.flatMap fun e => legGrids e.2.1
  grids.all fun g => grids.all fun f => f.slot != g.slot || f == g

/-- Do the legs executed so far fit one grid for each slot and one pattern for each chunk (12 R504, R505)? -/
def ownerFits (l : List (Nat × Instr × Nat)) : Bool :=
  let acts := runActs l
  oneGrid l && acts.all (actFits acts)

/-- The single-owner check: none when it passes, or the refusal code: OWNER with the leg, the first by which the run, followed
in execution order, fits no longer; LENGTH for a run of more than 2^20 legs (12 R503..R505, R515; log 25). -/
def TProg.ownerCheck (p : TProg) (legs : List (Option Instr)) : Option Nat :=
  let (l, passes) := p.unroll legs (2 ^ 20) 0 0 0 []
  if !ownerFits l then
    let k := ((List.range l.length).find? fun k => !ownerFits (l.take (k + 1))).getD 0
    some (6 + ((l[k]?).elim 0 fun e => e.1) * 2 ^ 16)
  else if passes then some 7
  else none

/-! TVLOAD (12 R515, R516). -/

/-- A refusal of TVLOAD. -/
def tvRefusal (code : Nat) : Word := BitVec.ofNat 64 (2 ^ 63 + code)

/-- The header's fields break 12 R476. -/
def headerBad (b : List Byte) : Bool :=
  cardField b 0 4 != 0x54524156 || cardField b 4 1 != 1 || cardField b 5 1 / 2 != 0 || cardField b 6 2 == 0
    || decide (4095 < cardField b 6 2) || cardField b 8 8 != 0

/-- Take an entry for a program: its handle, or a refusal for want of space. -/
def State.takeEntryFor (s : State) (l : Launch) (q : Nat) (p : TProg) : Word × State :=
  let free := (List.range 64).find? fun e => !((s.tv.progs.get? (q * 64 + e)).any fun p => p.used)
  match free, s.freeUnits q p.units with
  | some e, some first =>
    let key := q * 64 + e
    let gen := ((s.tv.progs.get? key).map fun p => p.gen).getD 0
    let s := { s with tv := { s.tv with progs := s.tv.progs.put key { p with gen, first } } }
    let s := s.updLaunch l.serial fun l =>
      match l.groups.get? p.gidx with
      | some g => { l with groups := l.groups.put p.gidx { g with held := g.held + 1 } }
      | none => l
    (progHandle key gen l.lslot, s)
  | _, _ => (tvRefusal 5, s)

/-- TVLOAD (12 R515). -/
noncomputable def execTvload (h : Hdr) (d a : XOp) (g : Fin 8) (s : State) : Host.Outcome State Fault Refusal :=
  runSeq (.tvload h d a g) h (do
    let va := (← readX a).toNat
    if va % 64 ≠ 0 then trap causeAlign (BitVec.ofNat 64 va)
    needUnit (28 + quadOf (← curCore))
    let c ← hartCtx h.ch (← curTag)
    let b := leBytes 64 (← hartLoadWide c va 64)
    let own := (← curHart).g.get g.val ⟨0, 0, 0⟩
    let l ← ownLaunch
    let paddr := cardField b 0 8
    let stab := cardField b 8 8
    match l.groups.get? own.idx.toNat with
    | none => writeX d (tvRefusal 4)
    | some e =>
      if own.count = 0 || 4096 < own.count.toNat then writeX d (tvRefusal 4)
      else if cardField b 16 48 ≠ 0 || paddr % 16 ≠ 0 || stab % 64 ≠ 0 then writeX d (tvRefusal 1)
      else
        let hd := leBytes 16 (← hartLoadWide c paddr 16)
        let n := if cardField hd 6 2 ≤ 4095 then cardField hd 6 2 else 0
        let legs ← mapM' (List.range n) fun i => hartLoadWide c (paddr + 16 + 16 * i) 16
        let tab := leBytes 512 (← hartLoadWide c stab 512)
        let slots := (List.range 16).map fun i => (tab.drop (32 * i)).take 32
        if headerBad hd then writeX d (tvRefusal 1)
        else if !slots.all slotLegal then writeX d (tvRefusal 3)
        else
          let words := legs.map (BitVec.ofNat 128)
          let det := bitOf (cardField hd 5 1) 0
          let p : TProg :=
            { gen := 0, used := true, serial := l.serial, first := 0, det, legs := words
              slots := slots.map parseSlot, gidx := own.idx.toNat, exb := e.exb, exs := e.exs, count := own.count.toNat
              rank := own.rank.toNat }
          match if det then p.ownerCheck (words.map decodeLeg) else none with
          | some code => writeX d (tvRefusal code)
          | none =>
            let (w, s) := (← get).takeEntryFor l (quadOf (← curCore)) p
            set s
            writeX d w) s

/-- Is a run of an entry queued or running? -/
def State.progBusy (s : State) (serial h : Word) : Bool :=
  s.la.cards.any fun k => k.serial == serial && k.completed.isNone && match k.job with
    | .traverse p _ _ => p == h
    | _ => false

/-- Free an entry: its generation advances, and its hold on the group table entry ends (12 R478, R516). -/
def State.freeProg (s : State) (key : Nat) (p : TProg) : State :=
  let s := { s with tv := { s.tv with
    progs := s.tv.progs.put key { p with used := false, gen := p.gen + 1, legs := [], slots := [] } } }
  s.updLaunch p.serial fun l =>
    match l.groups.get? p.gidx with
    | some g =>
      let g := { g with held := g.held - 1 }
      { l with groups := if g.held = 0 && g.freed then l.groups.del p.gidx else l.groups.put p.gidx g }
    | none => l

/-- TVLOAD.FREE (12 R516). -/
def execTvloadFree (h : Hdr) (a : XOp) (s : State) : Host.Outcome State Fault Refusal :=
  runSeq (.tvloadFree h a) h (do
    let w ← readX a
    let l ← ownLaunch
    match (← get).progOf l w with
    | none => trap causeProt w
    | some (key, p) =>
      needUnit (28 + key / 64)
      if (← get).progBusy l.serial w then waitHere
      modify fun s => s.freeProg key p) s

/-! TVSTART, TVWAIT, TVSTAT (12 R517..R519). -/

/-- TVSTART (12 R517): the run number is the count of its group table entry (12 R479). -/
def execTvstart (h : Hdr) (chn : Fin 17) (d a : XOp) (s : State) : Host.Outcome State Fault Refusal :=
  runSeq (.tvstart h chn d a) h (do
    let va := (← readX a).toNat
    if va % 64 ≠ 0 then trap causeAlign (BitVec.ofNat 64 va)
    let b ← readCard h va 128
    let rs ← checkFootprint b
    let l ← ownLaunch
    let w := BitVec.ofNat 64 (cardField b 64 8)
    match (← get).progOf l w with
    | none => trap causeProt (BitVec.ofNat 64 (va + 64))
    | some (_, p) =>
      if cardField b 72 56 ≠ 0 then trap causeProt (BitVec.ofNat 64 (va + 72))
      let k := ((l.groups.get? p.gidx).map fun g => g.runs).getD 0
      let handle ← issueCard (.traverse w chn k) rs
      modify fun s => s.updLaunch l.serial fun l =>
        match l.groups.get? p.gidx with
        | some g => { l with groups := l.groups.put p.gidx { g with runs := g.runs + 1 } }
        | none => l
      writeX d handle) s

/-- TVWAIT (12 R518): it never traps for the run's own fault. -/
def execTvwait (h : Hdr) (d a : XOp) (s : State) : Host.Outcome State Fault Refusal :=
  runSeq (.tvwait h d a) h (do
    let w ← readX a
    let k ← ownCard [3] w
    match k.completed with
    | none => waitHere
    | some st =>
      acquireJob
      writeX d (BitVec.ofNat 64 (CardStatus.code st))) s

/-- TVSTAT of a card handle (12 R519). -/
def State.tvCardStat (s : State) (serial w : Word) : Word :=
  match s.la.cards.find? fun k => k.serial == serial && k.handle == w && Job.kind k.job == 3 with
  | none => 3
  | some k =>
    let chan := s.tv.chans.find? fun kv => kv.2.serial == serial && kv.2.seqNo == k.seq
    let ended := s.tv.detail.find? fun t => t.serial == serial && t.seq == k.seq
    let state := if k.completed.isSome then 2 else if chan.isSome then 1 else 0
    let status := match k.completed with
      | some st => CardStatus.code st
      | none => 0
    let (detail, leg, drops, ch) := match chan, ended with
      | some (n, c), _ => (0, c.leg, c.drops, n % 16)
      | none, some t => (t.detail, t.leg, t.drops, t.chan)
      | none, none => (0, 0, 0, 0)
    BitVec.ofNat 64 (state + status * 2 ^ 2 + detail % 2 ^ 8 * 2 ^ 4 + leg % 2 ^ 12 * 2 ^ 12 + min drops 65535 * 2 ^ 24
      + ch * 2 ^ 40)

/-- TVSTAT of an engine (12 R519). -/
def State.tvEngineStat (s : State) (q : Nat) : Word :=
  let ps := s.quadProgs q
  let busy := (s.tv.chans.filter fun kv => kv.1 / 16 == q).length
  BitVec.ofNat 64 (4096 - (ps.map TProg.units).sum + (64 - ps.length) * 2 ^ 13 + (16 - busy) * 2 ^ 20)

/-- TVSTAT of a program handle (12 R519). -/
def State.tvProgStat (s : State) (l : Launch) (w : Word) : Word :=
  match s.progOf l w with
  | none => 0
  | some (_, p) =>
    let runs := ((l.groups.get? p.gidx).map fun g => g.runs).getD 0
    BitVec.ofNat 64 (1 + 2 * p.det.toNat + p.legs.length * 2 ^ 2 + runs % 2 ^ 16 * 2 ^ 14)

/-- TVSTAT (12 R519). -/
def execTvstat (h : Hdr) (sel : Fin 3) (d a : XOp) (s : State) : Host.Outcome State Fault Refusal :=
  runSeq (.tvstat h sel d a) h (do
    let w ← readX a
    let l ← ownLaunch
    let s ← get
    match sel with
    | 0 => writeX d (s.tvCardStat l.serial w)
    | 1 => if w ≠ 0 then trapIll else writeX d (s.tvEngineStat (quadOf (← curCore)))
    | 2 => writeX d (s.tvProgStat l w)) s

end Sys2Proof.Machine
end

