-- ==== Sys2Proof/Machine/Runs.lean ====
section
/-! DEFINITION. Traverse runs: channels, peers, the legs, landing SENDs, signals, claims, acknowledgements, stops and
their events (12 R479..R513). -/

namespace Sys2Proof.Machine

open Sys2Proof

/-! Channels and runs (12 R479, R480). -/

/-- Replace the traverse engines' state. -/
def State.setTv (s : State) (t : TvSys) : State := { s with tv := t }

/-- A free program entry. -/
def TProg.blank : TProg := ⟨0, false, 0, 0, false, [], [], 0, 0, 0, 0, 0⟩

/-- Change the run of a channel. -/
def State.updChan (s : State) (key : Nat) (f : Chan → Chan) : State :=
  match s.tv.chans.get? key with
  | some c => s.setTv { s.tv with chans := s.tv.chans.put key (f c) }
  | none => s

/-- The turn of a channel. -/
def chanAct (key : Nat) : Act :=
  .channel ⟨key / 16 % 4, Nat.mod_lt _ (by decide)⟩ ⟨key % 16, Nat.mod_lt _ (by decide)⟩

/-- What a leg sees: channel, run, program, card, the context of its accesses. -/
structure RunEnv where
  key : Nat
  c : Chan
  p : TProg
  k : Card
  ctx : Ctx
  deriving DecidableEq, Repr

/-- Quadrant of the engine. -/
def RunEnv.quad (e : RunEnv) : Nat := e.key / 16

/-- The run on a channel. -/
def State.runEnv (s : State) (key : Nat) : Option RunEnv :=
  match s.tv.chans.get? key with
  | none => none
  | some c =>
    match s.card? c.serial c.seqNo with
    | none => none
    | some k => some ⟨key, c, s.tv.progs.get c.prog TProg.blank, k, s.jobCtx k (key / 16) [.quad (key / 16)]⟩

/-- The run of a member by channel or among those that have completed. -/
def State.memberRun (s : State) (run : RunId) (r : Nat) : Bool :=
  (s.tv.chans.any fun kv => kv.2.run == run && kv.2.rank == r) || s.tv.ended.any fun e => e.run == run && e.rank == r

/-- Where a member of a run is: in this package with its location published, in another package, or not known yet
(12 R479; log 22). -/
inductive Place
  | here
  | pkg (rpkg : Nat)
  | unknown
  deriving DecidableEq, Repr

/-- The place of member r of a run of a program (12 R479; 07 R313; log 22). -/
def State.placeOf (s : State) (p : TProg) (run : RunId) (r : Nat) : Place :=
  let l := s.launch? p.serial
  let own := l.any fun l => l.groups.any fun kv => kv.2.exb == p.exb && kv.2.rank == r
  if s.memberRun run r then .here
  else if own then .unknown
  else match l.bind fun l => s.peekLeaf l.info.asid ((p.exb.toNat + r * p.exs.toNat) % 2 ^ 64) with
    | some lf => if lf.mt = 2 then .pkg lf.rpkg else .unknown
    | none => .unknown

/-- Send a message of a run to a member. -/
def State.tvSend (s : State) (place : Place) (m : TvMsg) : State :=
  match place with
  | .pkg rpkg => { s with linkOut := s.linkOut ++ [.tv rpkg m] }
  | _ => s.setTv { s.tv with flight := s.tv.flight ++ [m] }

/-- Is a message under way to a member of this package, or one that another package of a POD launch may send? -/
def State.arrives (s : State) (m : TvMsg) (run : RunId) : Bool :=
  s.tv.flight.contains m || decide (run.lid.toNat < 2 ^ 32)

/-- A message has been dealt with. -/
def State.taken (s : State) (m : TvMsg) : State := s.setTv { s.tv with flight := s.tv.flight.filter (· != m) }

/-! How a run ends (12 R498, R510..R512). -/

/-- Free the channel of a run and keep what its peers and TVSTAT ask of it. -/
def State.freeChan (s : State) (key : Nat) (c : Chan) (detail : Nat) : State :=
  let p := s.tv.progs.get c.prog TProg.blank
  let s := s.setTv { s.tv with
    chans := s.tv.chans.del key
    ended := s.tv.ended ++ [⟨c.run, c.rank, c.card, c.prog, p.gen⟩]
    detail := s.tv.detail ++ [⟨c.serial, c.seqNo, detail, c.leg, c.drops, key % 16⟩] }
  { s with order := s.order.filter (· != chanAct key) }

/-- Status of a stop by its detail (12 R510). -/
def stopStatus (detail : Nat) : CardStatus := if detail = 7 then .footprint else if detail = 13 then .abort else .fault

/-- Bytes 24 on of a TVFAULT event (12 R512). -/
def tvfaultData (c : Chan) (addr : Nat) : List Byte :=
  leBytes 8 c.card.toNat ++ leBytes 2 c.leg ++ leBytes 2 0 ++ leBytes 4 c.it0 ++ leBytes 4 c.it1 ++ leBytes 4 0
    ++ leBytes 8 addr

/-- Every other member of a stopped run is told, and the engine of its quadrant posts TVFAULT (12 R511, R512). -/
def State.tellStop (s : State) (quad : Nat) (c : Chan) (detail addr : Nat) : State :=
  let p := s.tv.progs.get c.prog TProg.blank
  let s := (List.range c.run.count).foldl (fun (s : State) r =>
    if r = c.rank then s else s.tvSend (s.placeOf p c.run r) (.stop c.run r)) s
  s.postEvent (s.tv.tvctl.get quad 0).toNat (68 + quad) 20 detail c.serial (tvfaultData c addr)

/-- A run stops: its channel is freed, its card is to complete with the status, every other member is told, and
TVFAULT is posted (12 R510..R512). -/
def State.endRun (s : State) (key : Nat) (c : Chan) (detail addr : Nat) : State :=
  let stop := (stopStatus detail, 0, BitVec.ofNat 64 addr, detail)
  let s := s.updCard c.serial c.seqNo fun k =>
    { k with stop := some (k.stop.getD stop), faultWait := none, prog := 1 }
  (s.freeChan key c detail).tellStop (key / 16) c detail addr

/-- Detail of a stop that came from outside the legs: a cancel, a declined page, a failed train (12 R509, R510). -/
def cardStopDetail (k : Card) : Option (Nat × Nat) :=
  k.stop.map fun (st, cause, va, detail) =>
    (if detail ≠ 0 then detail else if st = .abort then 13 else if cause = causeFootprint then 7 else 8, va.toNat)

/-- Detail of a trap at one of a run's accesses (12 R510). -/
def trapDetail (cause : Nat) : Nat := if cause = causeFootprint then 7 else if cause = causePoison then 9 else 8

/-! Bytes of a run. -/

/-- A range as accesses: whole lines where it can, else naturally aligned units of at most 8 bytes. -/
def cutsFrom : Nat → Nat → Nat → List (Nat × Nat)
  | 0, _, _ => []
  | fuel + 1, va, n =>
    if n = 0 then []
    else
      let u := if va % 64 = 0 ∧ 64 ≤ n then 64 else if va % 8 = 0 ∧ 8 ≤ n then 8 else if va % 4 = 0 ∧ 4 ≤ n then 4
        else if va % 2 = 0 ∧ 2 ≤ n then 2 else 1
      (va, u) :: cutsFrom fuel (va + u) (n - u)

/-- The accesses of n bytes at an address. -/
def cuts (va n : Nat) : List (Nat × Nat) := cutsFrom n va n

/-- Read n bytes with their poison marks, as accesses of a run (12 R480). -/
def runRead (k : Card) (c : Ctx) (va n : Nat) : M (List (Byte × Bool)) := do
  let parts ← mapM' (cuts va n) fun p => do
    let (bs, po) ← jobRead k c p.1 p.2
    pure (bs.map fun b => (b, po))
  pure parts.flatten

/-- Bytes with marks as writes of a run. -/
def runWrites (va : Nat) (bs : List (Byte × Bool)) : List (Nat × List Byte × Bool) :=
  (cuts va bs.length).map fun p =>
    let part := (bs.drop (p.1 - va)).take p.2
    (p.1, part.map (·.1), part.any (·.2))

/-- The tile-buffer lines of n bytes at an address; none elsewhere. -/
def linesOf (core va n : Nat) : List (Nat × Nat) :=
  if n = 0 then []
  else (List.range ((va + n - 1) / 128 + 1 - va / 128)).filterMap fun i => tileLine core (128 * (va / 128 + i))

/-- Writes to an FE slot wait while a line they touch is full (12 R501). -/
def feGate (t : TSlot) (core va n : Nat) : M Unit := do
  let s ← get
  if t.fe && (linesOf core va n).any fun l => (s.array l.1).full.contains l.2 then waitHere

/-- The FULL and ARR effects of a leg on the bytes it names (12 R489, R500, R501). -/
def runMark (e : RunEnv) (t : TSlot) (full arr : Bool) (va n : Nat) : M Unit := do
  if full then modify fun s => (linesOf e.k.core va n).foldl (fun s l => s.setFull l true) s
  if arr then arrivalAdd e.ctx t.arrw.toNat n

/-- The leg has completed: the next one follows (12 R485). -/
def nextLeg (e : RunEnv) : M Unit := do
  modify fun s => (s.updChan e.key fun c => { c with leg := c.leg + 1, writing := false, buf := [] }).updCard e.c.serial
    e.c.seqNo fun k => { k with reads := [] }

/-- Acquire at scope pod (12 R492, R500): jobs read at home, so the stale border copies go. -/
def runAcquire : M Unit := do
  modify fun s => s.setMem s.mem.dropStale

/-- Are messages of a run to another package held: the port that leads there from the engine's quadrant is not up, or the
class's budget for it is too low (12 R507, R508; 01 R26; 06 R275)? -/
def State.portHeld (s : State) (quad cls rpkg : Nat) : Bool :=
  !s.dc.ready.getLsbD (36 + 4 * quad + rpkg % 4) || s.mem.budgetLow cls 3

/-- Wait until the location of a member is known (12 R479), and until a message can leave for it. -/
def needPeer (e : RunEnv) (r : Nat) : M Place := do
  let s ← get
  match s.placeOf e.p e.c.run r with
  | .unknown => waitHere
  | .pkg rpkg => if s.portHeld e.quad e.ctx.cls rpkg then waitHere else pure (.pkg rpkg)
  | .here => pure .here

/-- A body of a leg: none when the leg completes or waits, the detail and address when the run stops. -/
abbrev LegBody := RunEnv → M (Option (Nat × Nat))

/-- A translation fault makes the run wait at the access (12 R510, 06 R259). -/
def State.runFault (s : State) (e : RunEnv) (bad : Bool) (pool : Bool) (a : AKind) (va elem : Nat) : State :=
  let (s, num) := s.raiseFault { e.ctx with elem := elem } (if pool then 7 else if bad then 5 else 6) a va
    (BitVec.ofNat 1024 e.k.handle.toNat) (onePage va) false
  s.updCard e.c.serial e.c.seqNo fun k => { k with faultWait := some num }

/-- Run a leg on the channel that acts: the checks of 12 R486, its body, and what stops the run (12 R510). -/
def runLeg (i : Instr) (body : LegBody) (s : State) : Host.Outcome State Fault Refusal :=
  match s.runEnv s.curChan with
  | none => .fault .noActor
  | some e =>
    match cardStopDetail e.k with
    | some (d, va) => .next (s.endRun e.key e.c d va)
    | none =>
      if e.k.faultWait.isSome then .next s
      else
        let f := e.p.legFault (some i) e.c.it0 e.c.it1
        if f ≠ 0 then .next (s.endRun e.key e.c f 0)
        else match body e s with
          | .ok none s => .next s
          | .ok (some (d, va)) s => .next (s.endRun e.key ((s.tv.chans.get? e.key).getD e.c) d va)
          | .error x s =>
            let stop := fun (cause : Nat) (va : Word) =>
              s.endRun e.key ((s.tv.chans.get? e.key).getD e.c) (trapDetail cause) va.toNat
            match x with
            | .trap cause va => .next (stop cause va)
            | .vtrap cause va _ _ => .next (stop cause va)
            | .etrap cause va _ => .next (stop cause va)
            | .tfault va bad a el => .next (s.runFault e bad false a va el)
            | .pool va el => .next (s.runFault e false true .atom va el)
            | .wait => .next s

/-! SEND and RECV (12 R487, R489, R496). -/

/-- Number a message and note that it is unacknowledged (12 R485). -/
def sendSeq (e : RunEnv) (dst kind : Nat) : M Nat := do
  let seq := (← get).nextId
  modify fun s => ({ s with nextId := s.nextId + 1 } : State).updChan e.key fun c =>
    { c with unacked := c.unacked ++ [⟨seq, dst, kind⟩] }
  pure seq

/-- The pieces of a ROW send: rows granted, and the others by OVF (12 R496). -/
def rowPieces (sb sc : Fin 16) (g m n : Nat) (spill : Bool) (off : Nat) (bs : List Byte) :
    List (Fin 16 × Nat × Bool × List Byte) :=
  let sz := bs.length / max 1 n
  (List.range n).filterMap fun i =>
    let row := (bs.drop (i * sz)).take sz
    if i < m then some (sb, g + i, true, row) else if spill then some (sc, off + i * sz, false, row) else none

/-- SEND (12 R487, R496, R500). -/
def bodySend (row fin : Bool) (p : Peer) (sa sb sc : Fin 16) (c : Chunk) : LegBody := fun e => do
  let dst := e.p.peer p
  if row && e.c.claim.isNone then return some (5, 0)
  let place ← needPeer e dst
  let j := e.p.index c e.c.it0 e.c.it1
  let len := c.len.toNat
  let data ← runRead e.k e.ctx (e.p.addr (Chunk.at_ c sa) j) len
  let bs := data.map (·.1)
  let off := c.off.toNat + j * len
  let (g, m, n, spill) := e.c.claim.getD (0, 0, 1, false)
  let pieces := if row then rowPieces sb sc g m n spill off bs else [(sb, off, false, bs)]
  let size := if !row then 0 else if len % n ≠ 0 then 2 ^ 32 else len / n
  let seq ← sendSeq e dst 0
  let msg : SendMsg :=
    { run := e.c.run, src := e.c.rank, dst, srcChan := e.key, seq, k := e.c.sent.get dst 0, fin, sb, row := size, pieces
      poison := data.any (·.2) }
  modify fun s => (s.tvSend place (.send msg)).updChan e.key fun c =>
    { c with sent := c.sent.put dst (c.sent.get dst 0 + 1), claim := if row then none else c.claim
             drops := if row && !spill then c.drops + (n - m) else c.drops }
  nextLeg e
  return none

/-- LEG_SEND. -/
noncomputable def execLegSend (row fin : Bool) (p : Peer) (sa sb sc : Fin 16) (c : Chunk) (s : State) :
    Host.Outcome State Fault Refusal :=
  runLeg (.legSend row fin p sa sb sc c) (bodySend row fin p sa sb sc c) s

/-- LEG_RECV (12 R489): the k-th RECV of a sender meets its k-th SEND. -/
noncomputable def execLegRecv (fin full arr : Bool) (p : Peer) (sa : Fin 16) (c : Chunk) (s : State) :
    Host.Outcome State Fault Refusal :=
  runLeg (.legRecv fin full arr p sa c) (fun e => do
    let src := e.p.peer p
    let k := e.c.recvd.get src 0
    let mine := fun (x : Landed) => x.msg.run == e.c.run && x.msg.dst == e.c.rank && x.msg.src == src && x.msg.k == k
    match (← get).tv.landed.find? fun x => mine x && x.done with
    | none => waitHere
    | some x =>
      if x.msg.fin != fin then return some (6, 0)
      runAcquire
      runMark e (e.p.slot sa) full arr (e.p.addr (Chunk.at_ c sa) (e.p.index c e.c.it0 e.c.it1)) c.len.toNat
      modify fun s => (s.setTv { s.tv with landed := s.tv.landed.filter fun x => !mine x }).updChan e.key fun c =>
        { c with recvd := c.recvd.put src (k + 1) }
      nextLeg e
      return none) s

/-! REDUCE and COPY (12 R490, R491, R501). -/

/-- Perform the writes of a leg that have not performed yet, each at a line that takes it (12 R501). -/
def performBuf (e : RunEnv) (t : TSlot) : List (Nat × List Byte × Bool) → M Unit
  | [] => pure ()
  | (va, bs, po) :: rest => do
    feGate t e.k.core va bs.length
    jobWrite e.k e.ctx va bs po
    modify fun s => s.updChan e.key fun c => { c with buf := rest }
    performBuf e t rest

/-- The write half of REDUCE and COPY: the writes, then their acknowledgement by other packages, then FULL and ARR
(12 R485). -/
def finishWrites (e : RunEnv) (t : TSlot) (full arr : Bool) (va n : Nat) : M (Option (Nat × Nat)) := do
  performBuf e t (((← get).tv.chans.get? e.key).getD e.c).buf
  if (((← get).card? e.c.serial e.c.seqNo).map fun k => k.trains.isEmpty) ≠ some true then waitHere
  runMark e t full arr va n
  nextLeg e
  return none

/-- Note the writes of a leg, worked out from operands that have all been read. -/
def noteWrites (e : RunEnv) (ws : List (Nat × List Byte × Bool)) : M Unit := do
  modify fun s => s.updChan e.key fun c => { c with writing := true, buf := ws }

/-- One element of a REDUCE (12 R490). -/
def reduceElem (op : GOp) (t : Ty) (ovft l r : Nat) : Nat :=
  match op with
  | .add => addValue t ovft l r
  | .min => minMax false t l r
  | .max => minMax true t l r

/-- Elements of size n of a list of bytes, little-endian. -/
def elemsOf (n : Nat) (bs : List Byte) : List Nat :=
  (List.range (bs.length / max 1 n)).map fun i => leNat ((bs.drop (n * i)).take n)

/-- The offset of the first element of size n that has a poisoned byte. -/
def poisonIn (n : Nat) (bs : List (Byte × Bool)) : Option Nat := (bs.findIdx? (·.2)).map fun i => i / max 1 n * n

/-- LEG_REDUCE (12 R490). -/
noncomputable def execLegReduce (op : GOp) (dt : LegTy) (full arr : Bool) (sa sb sc : Fin 16) (c : Chunk) (s : State) :
    Host.Outcome State Fault Refusal :=
  runLeg (.legReduce op dt full arr sa sb sc c) (fun e => do
    let t := LegTy.ty dt
    let n := Ty.size t
    let j := e.p.index c e.c.it0 e.c.it1
    let at_ := fun (sl : Fin 16) => e.p.addr (Chunk.at_ c sl) j
    match [at_ sa, at_ sb, at_ sc].find? fun a => a % n != 0 with
    | some a => return some (8, a)
    | none =>
      if !e.c.writing then
        let l ← runRead e.k e.ctx (at_ sa) c.len.toNat
        let r ← runRead e.k e.ctx (at_ sb) c.len.toNat
        if let some k := poisonIn n l then return some (9, at_ sa + k)
        if let some k := poisonIn n r then return some (9, at_ sb + k)
        let out := ((elemsOf n (l.map (·.1))).zip (elemsOf n (r.map (·.1)))).map fun lr =>
          reduceElem op t e.k.ovft.toNat lr.1 lr.2
        noteWrites e (out.zipIdx.map fun vi => (at_ sc + n * vi.2, leBytes n vi.1, false))
      finishWrites e (e.p.slot sc) full arr (at_ sc) c.len.toNat) s

/-- LEG_COPY (12 R491). -/
noncomputable def execLegCopy (cvt full arr : Bool) (stride : BitVec 12) (sa sc : Fin 16) (c : Chunk) (s : State) :
    Host.Outcome State Fault Refusal :=
  runLeg (.legCopy cvt full arr stride sa sc c) (fun e => do
    let j := e.p.index c e.c.it0 e.c.it1
    let src := e.p.addr (Chunk.at_ c sa) j
    let ref := copyDst cvt stride sc c
    let dst := e.p.addr ref j
    if !e.c.writing then
      let data ← runRead e.k e.ctx src c.len.toNat
      if cvt then
        if let some k := poisonIn 4 data then return some (9, src + k)
        let out := (elemsOf 4 (data.map (·.1))).flatMap fun v =>
          leBytes 2 (roundTo .bf16 ⟨.rne, e.k.ovft.toNat, 0⟩ false (Ty.decode .f32 v))
        noteWrites e (runWrites dst (out.map fun b => (b, false)))
      else noteWrites e (runWrites dst data)
    finishWrites e (e.p.slot sc) full arr dst ref.len) s

/-! WAIT, SIGNAL, RESERVE (12 R492..R496). -/

/-- COUNT of the arrival word at an address (07 R327). -/
def arrivalCount (c : Ctx) (va : Nat) : M Nat := do
  match addrKind c.core va with
  | .scratch core off => do
    let x ← scratchAt c va core off 16
    pure (x.data.read off 8 % 2 ^ 48)
  | _ => trap causeProt (BitVec.ofNat 64 va)

/-- Every earlier SEND, SIGNAL and RESERVE is acknowledged and every local write has performed. -/
def drained (e : RunEnv) : Bool := e.c.unacked.isEmpty && e.k.trains.isEmpty

/-- LEG_WAIT (12 R492). -/
noncomputable def execLegWait (k : LegWaitKind) (s : State) : Host.Outcome State Fault Refusal :=
  runLeg (.legWait k) (fun e => do
    let lines := fun (sa : Fin 16) (c : Chunk) =>
      linesOf e.k.core (e.p.addr (Chunk.at_ c sa) (e.p.index c e.c.it0 e.c.it1)) c.len.toNat
    let held := fun (s : State) (sa : Fin 16) (c : Chunk) (want : Bool) =>
      (lines sa c).all fun l => (s.array l.1).full.contains l.2 == want
    let ok ← match k with
      | .arr sa count => do
        let n ← arrivalCount e.ctx (e.p.slot sa).arrw.toNat
        pure (decide (count.toNat ≤ n))
      | .drain => pure (drained e)
      | .full sa c => do pure (held (← get) sa c true)
      | .empty sa c => do pure (held (← get) sa c false)
    if !ok then waitHere
    runAcquire
    nextLeg e
    return none) s

/-- LEG_SIGNAL (12 R493). -/
noncomputable def execLegSignal (p : Peer) (sb : Fin 16) (value : BitVec 32) (s : State) : Host.Outcome State Fault Refusal :=
  runLeg (.legSignal p sb value) (fun e => do
    let dst := e.p.peer p
    let place ← needPeer e dst
    if e.c.unacked.any fun u => u.dst == dst && u.kind == 0 then waitHere
    let seq ← sendSeq e dst 1
    modify fun s => s.tvSend place (.signal ⟨e.c.run, e.c.rank, dst, e.key, seq, sb, value, 0, false, false⟩)
    nextLeg e
    return none) s

/-- The claim of a RESERVE goes out: to its destination, and in a program with DET as the member's count of the round
to every member (12 R494, R495). -/
def sendClaim (e : RunEnv) (dst : Nat) (sb : Fin 16) (rows : BitVec 32) : M Unit := do
  let targets := if e.p.det then List.range e.c.run.count else [dst]
  let places ← mapM' targets fun r => do
    let pl ← needPeer e r
    pure (r, pl)
  let seq ← sendSeq e dst 2
  forM' places fun rp => modify fun s => s.tvSend rp.2
    (.reserve ⟨e.c.run, e.c.rank, rp.1, e.key, seq, sb, if rp.1 = dst then rows else 0, e.c.resCount, e.p.det, false⟩)
  modify fun s => s.updChan e.key fun c => { c with pendRes := some seq }

/-- LEG_RESERVE: the claim goes out once; the leg completes when its grant is known (12 R485, R494..R496). -/
noncomputable def execLegReserve (spill : Bool) (p : Peer) (sb : Fin 16) (rows : BitVec 32) (s : State) :
    Host.Outcome State Fault Refusal :=
  runLeg (.legReserve spill p sb rows) (fun e => do
    match e.c.pendRes, e.c.grant with
    | none, _ => do
      sendClaim e (e.p.peer p) sb rows
      return none
    | some _, none => waitHere
    | some _, some (o, total) => do
      let n := rows.toNat
      modify fun s => s.updChan e.key fun c =>
        { c with claim := some (o, min n (total - o), n, spill), pendRes := none, grant := none, resCount := c.resCount + 1 }
      nextLeg e
      return none) s

/-! REPEAT and END (12 R497, R498). -/

/-- LEG_REPEAT (12 R497). -/
noncomputable def execLegRepeat (lv : Bool) (count target : BitVec 32) (s : State) : Host.Outcome State Fault Refusal :=
  runLeg (.legRepeat lv count target) (fun e => do
    if count = 0 || decide (e.c.leg < target.toNat) then return some (4, 0)
    let it := (if lv then e.c.it1 else e.c.it0) + 1
    let again := decide (it < count.toNat)
    let it := if again then it else 0
    modify fun s => s.updChan e.key fun c =>
      { c with it0 := if lv then c.it0 else it, it1 := if lv then it else c.it1
               leg := if again then target.toNat else c.leg + 1 }
    return none) s

/-- A member that has executed END gives 0 for every later round (12 R495). -/
def State.lastCounts (s : State) (e : RunEnv) : State :=
  if e.p.det then
    (List.range e.c.run.count).foldl (fun (s : State) r => s.tvSend (s.placeOf e.p e.c.run r)
      (.reserve ⟨e.c.run, e.c.rank, r, e.key, 0, 0, 0, e.c.resCount, true, true⟩)) s
  else s

/-- LEG_END (12 R498): the job completes with status OK and the channel is free. -/
def execLegEnd (s : State) : Host.Outcome State Fault Refusal :=
  runLeg .legEnd (fun e => do
    if !e.c.writing then
      modify fun s => (s.lastCounts e).updChan e.key fun c => { c with writing := true }
    if !drained e then waitHere
    modify fun s => (s.updCard e.c.serial e.c.seqNo fun k => { k with prog := 1 }).freeChan e.key e.c 0
    return none) s

/-! The start of a run (12 R479, R480, R511). -/

/-- The channel that a card takes: the one it names, or with CHN 16 the lowest free one. -/
def State.freeChannel (s : State) (quad : Nat) (chn : Fin 17) : Option Nat :=
  let free := fun (n : Nat) => (s.tv.chans.get? (quad * 16 + n)).isNone
  if chn.val < 16 then (if free chn.val then some chn.val else none) else (List.range 16).find? free

/-- The run number's identity for a program (12 R479). -/
def TProg.runId (p : TProg) (l : Launch) (k : Nat) : RunId := ⟨l.lid, p.exb, p.count, k⟩

/-- The run of a card at its start (12 R480). -/
def Chan.fresh (k : Card) (key : Nat) (run : RunId) (rank : Nat) : Chan :=
  { card := k.handle, serial := k.serial, seqNo := k.seq, prog := key, run, rank, leg := 0, it0 := 0, it1 := 0
    claim := none, drops := 0, unacked := [], resCount := 0, sent := [], recvd := [], pendRes := none, grant := none
    writing := false, buf := [] }

/-- TRAVERSE_RUN_START: a job whose edges have cleared takes its channel and publishes its location; a stop notice that
came before stops it at its start (12 R479, R480, R511). -/
def execTraverseRunStart (card : Word) (s : State) : Host.Outcome State Fault Refusal :=
  match s.findCard card fun k => Job.kind k.job == 3 && s.cardReady k with
  | none => .next s
  | some k =>
    match k.job with
    | .traverse prog chn num =>
      match (s.launch? k.serial).bind fun l => (s.progOf l prog).map fun kp => (l, kp) with
      | none => .next s
      | some (l, key, p) =>
        let quad := key / 64
        match if s.dc.ready.getLsbD (28 + quad) then s.freeChannel quad chn else none with
        | none => .next s
        | some n =>
          let run := p.runId l num
          let c := Chan.fresh k key run p.rank
          let ck := quad * 16 + n
          let s := (s.setMem s.mem.dropStale).updCard k.serial k.seq fun k => { k with started := true }
          let s := { s.setTv { s.tv with chans := s.tv.chans.put ck c } with order := s.order ++ [chanAct ck] }
          .next (if s.tv.stops.contains (run, p.rank) then s.endRun ck c 11 0 else s)
    | _ => .next s

/-! What comes to a member (12 R488, R493..R495, R508..R511). -/

/-- The member that a message is for: its channel while it runs, its program and its card. -/
def State.receiver (s : State) (run : RunId) (r : Nat) : Option (Option Nat × TProg × Card) :=
  match s.tv.chans.find? fun kv => kv.2.run == run && kv.2.rank == r with
  | some (key, _) => (s.runEnv key).map fun e => (some key, e.p, e.k)
  | none =>
    match s.tv.ended.find? fun e => e.run == run && e.rank == r with
    | none => none
    | some e =>
      let p := s.tv.progs.get e.prog TProg.blank
      if !p.used || p.gen != e.gen then none
      else (s.la.cards.find? fun k => k.serial == p.serial && k.handle == e.card).map fun k => (none, p, k)

/-- Has the run of a member completed? -/
def State.runOver (s : State) (run : RunId) (r : Nat) : Bool := s.tv.ended.any fun e => e.run == run && e.rank == r

/-- Acknowledge a message to its sender (12 R485, R488). -/
def State.tvAck (s : State) (p : TProg) (run : RunId) (src seq bad : Nat) (value : Word) (rows : Nat) : State :=
  s.tvSend (s.placeOf p run src) (.ack ⟨run, src, seq, bad, value, rows⟩)

/-- The program through which a completed run's member can still answer. -/
def State.endedProg (s : State) (run : RunId) (r : Nat) : TProg :=
  match s.tv.ended.find? fun e => e.run == run && e.rank == r with
  | some e => s.tv.progs.get e.prog TProg.blank
  | none => TProg.blank

/-- Where the pieces of a SEND land: slot and offset (12 R487, R496). -/
def landingOf (m : SendMsg) (p : TProg) : List (Fin 16 × Nat × List Byte) :=
  m.pieces.map fun (sl, off, isRow, bs) => (sl, if isRow then off * (p.slot sl).rowb else off, bs)

/-- The checks of a SEND against the receiver's run: the detail and address that stop it (12 R488, R496). -/
def sendCheck (m : SendMsg) (p : TProg) (k : Card) : Option (Nat × Nat) :=
  let slots := m.sb :: m.pieces.map fun x => x.1
  let land := landingOf m p
  let va := fun (x : Fin 16 × Nat × List Byte) => ((p.slot x.1).base.toNat + x.2.1) % 2 ^ 64
  if slots.any fun sl => (p.slot sl).size == 0 then some (2, 0)
  else if decide ((p.slot m.sb).rowb < m.row) || land.any fun x => decide ((p.slot x.1).size < x.2.1 + x.2.2.length) then
    some (3, 0)
  else (land.find? fun x => !k.permits (va x) x.2.2.length true).map fun x => (7, va x)

/-- The writes of a SEND at its receiver; the landing sectors of a SEND with poisoned bytes are poisoned (12 R488). -/
def landWrites (m : SendMsg) (p : TProg) : List (Fin 16 × Nat × List Byte × Bool) :=
  (landingOf m p).flatMap fun x =>
    (runWrites (((p.slot x.1).base.toNat + x.2.1) % 2 ^ 64) (x.2.2.map fun b => (b, m.poison))).map fun w => (x.1, w)

/-- How far a SEND has landed. -/
def State.setLanded (s : State) (m : SendMsg) (left : List (Fin 16 × Nat × List Byte × Bool)) (done : Bool) : State :=
  s.setTv { s.tv with landed := (s.tv.landed.filter fun x => x.msg != m) ++ [⟨m, left, done⟩] }

/-- Perform the writes of a SEND that have not performed yet, each at a line that takes it (12 R488, R501). -/
def landSend (m : SendMsg) (e : RunEnv) : List (Fin 16 × Nat × List Byte × Bool) → M Unit
  | [] => pure ()
  | (sl, va, bs, po) :: rest => do
    feGate (e.p.slot sl) e.k.core va bs.length
    jobWrite e.k e.ctx va bs po
    modify fun s => s.setLanded m rest false
    landSend m e rest

/-- The receiver stops and the sender is told (12 R488). -/
def State.stopReceiver (s : State) (m : TvMsg) (e : RunEnv) (src seq : Nat) (d va : Nat) : State :=
  ((s.taken m).tvAck e.p e.c.run src seq 12 0 0).endRun e.key ((s.tv.chans.get? e.key).getD e.c) d va

/-- SEND_LAND: a SEND's tail and every byte it counts have come to its receiver (12 R487, R488, R508, R509). -/
def execSendLand (m : SendMsg) (s : State) : Host.Outcome State Fault Refusal :=
  if !s.arrives (.send m) m.run then .next s
  else if s.runOver m.run m.dst then
    .next ((s.taken (.send m)).tvAck (s.endedProg m.run m.dst) m.run m.src m.seq 12 0 0)
  else
    let s := if s.tv.flight.contains (.send m) then s else s.setTv { s.tv with flight := s.tv.flight ++ [.send m] }
    match s.tv.chans.find? fun kv => kv.2.run == m.run && kv.2.rank == m.dst with
    | none => .next s
    | some (key, _) =>
      match s.runEnv key with
      | none => .next s
      | some e =>
        let finish := fun (s : State) =>
          let clear := (s.card? e.c.serial e.c.seqNo).map (fun k => k.trains.isEmpty) == some true
          let s := s.setLanded m [] clear
          if clear then (s.taken (.send m)).tvAck e.p m.run m.src m.seq 0 0 0 else s
        let begun := s.tv.landed.find? fun x => x.msg == m
        if e.k.faultWait.isSome || e.k.stop.isSome then .next s
        else match if begun.isSome then none else sendCheck m e.p e.k with
          | some (d, va) => .next (s.stopReceiver (.send m) e m.src m.seq d va)
          | none =>
            let left := match begun with
              | some x => x.left
              | none => landWrites m e.p
            match landSend m e left s with
            | .ok _ s => .next (finish s)
            | .error (.trap cause va) s => .next (s.stopReceiver (.send m) e m.src m.seq (trapDetail cause) va.toNat)
            | .error (.vtrap cause va _ _) s => .next (s.stopReceiver (.send m) e m.src m.seq (trapDetail cause) va.toNat)
            | .error (.tfault va bad a el) s => .next (s.runFault e bad false a va el)
            | .error (.pool va el) s => .next (s.runFault e false true .store va el)
            | .error _ s => .next s

/-- SIGNAL_ARRIVE: the add at the word's bank, then the acknowledgement; a slot without an arrival word, or a word
that cannot be reached, faults the sender with REMOTE (12 R493). -/
def execSignalArrive (m : CtlMsg) (s : State) : Host.Outcome State Fault Refusal :=
  if !s.arrives (.signal m) m.run then .next s
  else
    let s' := s.taken (.signal m)
    let bad := fun (p : TProg) => Host.Outcome.next (s'.tvAck p m.run m.src m.seq 12 0 0)
    match s.receiver m.run m.dst with
    | none =>
      if s.runOver m.run m.dst then bad (s.endedProg m.run m.dst)
      else .next (if s.tv.flight.contains (.signal m) then s else s.setTv { s.tv with flight := s.tv.flight ++ [.signal m] })
    | some (_, p, k) =>
      let t := p.slot m.slot
      if t.size = 0 || t.arrw = 0 then bad p
      else match arrivalAdd (s.jobCtx k (quadOf k.core) []) t.arrw.toNat m.value.toNat s' with
        | .ok _ s => .next (s.tvAck p m.run m.src m.seq 0 0 0)
        | .error _ _ => bad p

/-- Add n to a claim word at its home bank: its old value (12 R494). -/
def claimAdd (c : Ctx) (va n : Nat) : M Nat :=
  atomRaw c va 8 (fun old => some ((old + n) % 2 ^ 64)) fun rpkg id pa s =>
    { s with linkOut := s.linkOut ++ [.atomic rpkg id pa 8 1 false (BitVec.ofNat 64 n) 0] }

/-- Log or hold a claim add at a home bank (14 R568): its source is the stream that issued the claiming run, and for a run
of another package the stream of the receiving one (log 17). -/
def claimLog (src : Party) (c : Ctx) (va : Nat) : M Unit := do
  match addrKind c.core va with
  | .global =>
    let l ← translate c va .atom
    budgetGate c l va
    if l.mt = 0 && !(← tagged c l) && !(← get).mem.poisoned (l.phys va / 64) then replayFrom src c.asid (l.phys va / 64)
  | _ => pure ()

/-- The stream that issued the run of a member of this package. -/
def State.runSource (s : State) (run : RunId) (rank : Nat) : Option Party :=
  (s.tv.chans.find? fun kv => kv.2.run == run && kv.2.rank == rank).bind fun kv =>
    (s.card? kv.2.serial kv.2.seqNo).map fun k => .stream k.hart k.isX

/-- A claim at a member: the old value of its slot's claim word, or what holds it up. -/
inductive ClaimRes
  | value (o : Nat) (s : State)
  | remote (s : State)
  | held (s : State)

/-- Claim n rows of a slot for a source (12 R494). A translation fault makes the member's job wait. -/
def State.claim (s : State) (src : Option Party) (key : Option Nat) (p : TProg) (k : Card) (slot : Fin 16) (n : Nat) : ClaimRes :=
  let t := p.slot slot
  let quad := match key with
    | some key => key / 16
    | none => quadOf k.core
  let c := s.jobCtx k quad [.quad quad]
  let fault := fun (s : State) (kind : Nat) (va : Nat) =>
    let (s, num) := s.raiseFault c kind .atom va (BitVec.ofNat 1024 k.handle.toNat) (onePage va) false
    s.updCard k.serial k.seq fun k => { k with faultWait := some num }
  if t.size = 0 || t.clw = 0 || t.rowb = 0 then .remote s
  else if k.faultWait.isSome then .held s
  else match (do claimLog (src.getD (.stream k.hart k.isX)) c t.clw.toNat; claimAdd c t.clw.toNat n : M Nat) s with
    | .ok o s => .value o (s.updCard k.serial k.seq fun k => { k with reads := k.reads.filter fun r => r.va != t.clw.toNat })
    | .error (.tfault va bad _ _) s => .held (fault s (if bad then 5 else 6) va)
    | .error (.pool va _) s => .held (fault s 7 va)
    | .error .wait s => .held s
    | .error _ s => .remote s

/-- RESERVE_CLAIM_ARRIVE: without DET the claim performs and its old value returns; with DET the count is kept for its
round (12 R494, R495). -/
def execReserveClaimArrive (m : CtlMsg) (s : State) : Host.Outcome State Fault Refusal :=
  if !s.arrives (.reserve m) m.run then .next s
  else if m.det then
    let s := s.taken (.reserve m)
    .next (if s.tv.reserves.contains m then s else s.setTv { s.tv with reserves := s.tv.reserves ++ [m] })
  else
    match s.receiver m.run m.dst with
    | none =>
      if s.runOver m.run m.dst then
        .next ((s.taken (.reserve m)).tvAck (s.endedProg m.run m.dst) m.run m.src m.seq 12 0 0)
      else .next (if s.tv.flight.contains (.reserve m) then s else s.setTv { s.tv with flight := s.tv.flight ++ [.reserve m] })
    | some (key, p, k) =>
      match s.claim (s.runSource m.run m.src) key p k m.slot m.value.toNat with
      | .value o s => .next ((s.taken (.reserve m)).tvAck p m.run m.src m.seq 0 (BitVec.ofNat 64 o) (p.slot m.slot).rows)
      | .remote s => .next ((s.taken (.reserve m)).tvAck p m.run m.src m.seq 12 0 0)
      | .held s => .next s

/-- The count of a member for a round at a destination: 0 once it has executed END (12 R495). -/
def State.roundCount (s : State) (run : RunId) (dst round src : Nat) : Option CtlMsg :=
  s.tv.reserves.find? fun m => m.run == run && m.dst == dst && m.src == src
    && (m.round == round || (m.last && decide (m.round ≤ round)))

/-- Grants of one slot's claims in ascending source rank, from the claim word's old value. -/
def State.grantAll (s : State) (p : TProg) (run : RunId) (rows : Nat) : List CtlMsg → Nat → State
  | [], _ => s
  | m :: rest, o => (s.tvAck p run m.src m.seq 0 (BitVec.ofNat 64 o) rows).grantAll p run rows rest (o + m.value.toNat)

/-- RESERVE_ROUND: a destination that holds every member's count of a round, and has finished the round before, grants
rows slot by slot in ascending source rank (12 R495). -/
def execReserveRound (run : RunId) (dst round : Nat) (s : State) : Host.Outcome State Fault Refusal :=
  let counts := (List.range run.count).filterMap fun r => s.roundCount run dst round r
  let before := round == 0 || s.tv.roundsDone.contains (run, dst, round - 1)
  if counts.length ≠ run.count || !before || s.tv.roundsDone.contains (run, dst, round) then .next s
  else
    let asks := counts.filter fun m => m.value != 0
    let done := fun (s : State) => s.setTv { s.tv with roundsDone := s.tv.roundsDone ++ [(run, dst, round)] }
    match s.receiver run dst with
    | none =>
      if s.runOver run dst then
        .next (done (asks.foldl (fun s m => s.tvAck (s.endedProg run dst) run m.src m.seq 12 0 0) s))
      else .next s
    | some (key, p, k) =>
      match asks with
      | [] => .next (done s)
      | m :: _ =>
        let mine := asks.filter fun x => x.slot == m.slot
        -- the slot's claims are served and leave the round; the round is finished when no claim is left
        let served := fun (s : State) => s.setTv { s.tv with
          reserves := s.tv.reserves.map fun x => if mine.contains x then { x with value := 0 } else x }
        let last := decide (asks.length = mine.length)
        let close := fun (s : State) => if last then done (served s) else served s
        match s.claim none key p k m.slot (mine.map fun x => x.value.toNat).sum with
        | .value o s => .next (close (s.grantAll p run (p.slot m.slot).rows mine o))
        | .remote s => .next (close (mine.foldl (fun s x => s.tvAck p run x.src x.seq 12 0 0) s))
        | .held s => .next s

/-- LEG_ACK_ARRIVE: the acknowledgement of a SEND, SIGNAL or RESERVE reaches its sender; one that carries a fault stops
the run with REMOTE (12 R485, R488, R493, R494). -/
def execLegAckArrive (m : AckMsg) (s : State) : Host.Outcome State Fault Refusal :=
  if !s.arrives (.ack m) m.run then .next s
  else
    let s := s.taken (.ack m)
    match s.tv.chans.find? fun kv => kv.2.run == m.run && kv.2.rank == m.dst with
    | none => .next s
    | some (key, c) =>
      match c.unacked.find? fun u => u.seq == m.seq with
      | none => .next s
      | some u =>
        if m.bad ≠ 0 then .next (s.endRun key c m.bad 0)
        else .next (s.updChan key fun c => { c with
          unacked := c.unacked.filter fun u => u.seq != m.seq
          grant := if u.kind = 2 then some (m.value.toNat, m.rows) else c.grant })

/-- STOP_NOTICE: another member's run of the same number has stopped (12 R511). -/
def execStopNotice (run : RunId) (dst : Nat) (s : State) : Host.Outcome State Fault Refusal :=
  if !s.arrives (.stop run dst) run then .next s
  else
    let s := s.taken (.stop run dst)
    let s := if s.tv.stops.contains (run, dst) then s else s.setTv { s.tv with stops := s.tv.stops ++ [(run, dst)] }
    match s.tv.chans.find? fun kv => kv.2.run == run && kv.2.rank == dst with
    | none => .next s
    | some (key, c) => .next (s.endRun key c 11 0)

/-- The channel whose unacknowledged message an identifier names. -/
def State.unackedChan (s : State) (id : Nat) : Option (Nat × Chan) :=
  s.tv.chans.find? fun kv => kv.2.unacked.any fun u => u.seq == id

/-- UALINK_ERROR_RESPONSE: a read's response that still reports an error after UALink's own retry, or a train's; each
posts LINKERR (07 R306, R619). An error of a run's message faults its channel with LINK (12 R509). -/
def execUalinkErrorResponse (id : Nat) (s : State) : Host.Outcome State Fault Refusal :=
  match s.readQuad id, s.unackedChan id with
  | some (quad, serial), _ => .next ((s.deliver id false 0).postFault quad 19 id serial (leBytes 8 id))
  | none, some (key, c) => .next (s.endRun key c 10 0)
  | none, none => .next (s.failTrain (BitVec.ofNat 16 id))

/-- A launch that ends leaves no program and no message of its runs behind (12 R516). -/
def State.freeProgs (s : State) (l : Launch) : State :=
  let own := (s.tv.progs.filter fun kv => kv.2.used && kv.2.serial == l.serial)
  let s := own.foldl (fun s kv => s.freeProg kv.1 kv.2) s
  let mine := fun (r : RunId) => r.lid == l.lid
  s.setTv { s.tv with
    landed := s.tv.landed.filter fun x => !mine x.msg.run
    reserves := s.tv.reserves.filter fun x => !mine x.run
    roundsDone := s.tv.roundsDone.filter fun x => !mine x.1
    ended := s.tv.ended.filter fun x => !mine x.run
    stops := s.tv.stops.filter fun x => !mine x.1
    detail := s.tv.detail.filter fun x => x.serial != l.serial }

end Sys2Proof.Machine
end

