-- ==== Sys2Proof/Machine/Gazetteer.lean ====
section
/-! DEFINITION. The gazetteer engines: the table directory, row caches, lookup and update jobs, and major 0x81
(13 R523..R549). -/

namespace Sys2Proof.Machine

open Sys2Proof

/-! The table directory (13 R524..R527). -/

/-- Replace the gazetteer engines' state. -/
def State.setGz (s : State) (g : GzSys) : State := { s with gz := g }

/-- A directory entry (13 R524): fields, segments as (first row, stack). -/
structure TableEntry where
  asid : Nat
  v : Bool
  scl : Bool
  fmt : Nat
  rowb : Nat
  nseg : Nat
  rows : Nat
  rpitch : Nat
  vbase : List Nat
  segs : List (Nat × Nat)
  bad : Bool
  deriving DecidableEq, Repr

/-- Element type of FMT (13 R524). -/
def gzType : Nat → Option Ty
  | 0 => some .i8
  | 8 => some .f32
  | 9 => some .bf16
  | 11 => some .e4m3
  | 12 => some .e5m2
  | _ => none

/-- Strictly rising from its first element. -/
def rising : List Nat → Bool
  | a :: b :: r => decide (a < b) && rising (b :: r)
  | _ => true

/-- Does an entry break 13 R525? -/
def entryBad (b : List Byte) : Bool :=
  let fmt := cardField b 3 1
  let scl := bitOf (cardField b 2 1) 1
  let rowb := cardField b 4 2
  let nseg := cardField b 6 1
  let rows := cardField b 8 4
  let rpitch := cardField b 12 4
  let words := (List.range 12).map fun k => cardField b (64 + 4 * k) 4
  let firsts := (words.take nseg).map (· % 2 ^ 28)
  let vb := (List.range 4).map fun i => cardField b (16 + 8 * i) 8
  cardField b 2 1 / 4 != 0 || cardField b 7 1 != 0 || cardField b 48 16 != 0 || cardField b 112 16 != 0
    || (match gzType fmt with
      | none => true
      | some t => rowb % Ty.size t != 0)
    || (scl && (fmt == 8 || fmt == 9)) || (!scl && fmt == 0)
    || rowb == 0 || decide (4096 < rowb) || nseg == 0 || decide (12 < nseg) || rows == 0 || decide (2 ^ 28 < rows)
    || rpitch % 64 != 0 || decide (2 ^ 20 < rpitch) || decide (rpitch < rowb + 4 * scl.toNat)
    || (vb.any fun v => v % 64 != 0 || decide (2 ^ 57 ≤ v))
    || firsts.head? != some 0 || !rising firsts || (firsts.any fun f => decide (rows ≤ f))
    || ((words.drop nseg).any fun w => w != 0) || (words.take nseg).any fun w => decide (12 ≤ w / 2 ^ 28)

/-- The fields of an entry's 128 bytes. -/
def parseEntry (b : List Byte) : TableEntry :=
  { asid := cardField b 0 2, v := bitOf (cardField b 2 1) 0, scl := bitOf (cardField b 2 1) 1, fmt := cardField b 3 1
    rowb := cardField b 4 2, nseg := cardField b 6 1, rows := cardField b 8 4, rpitch := cardField b 12 4
    vbase := (List.range 4).map fun i => cardField b (16 + 8 * i) 8
    segs := ((List.range 12).map fun k => (cardField b (64 + 4 * k) 4 % 2 ^ 28, cardField b (64 + 4 * k) 4 / 2 ^ 28)).take
      (cardField b 6 1)
    bad := entryBad b }

/-- Bytes of a row: elements and row scale. -/
def TableEntry.rowBytes (e : TableEntry) : Nat := e.rowb + 4 * e.scl.toNat

/-- Element type of a table. -/
def TableEntry.ty (e : TableEntry) : Ty := (gzType e.fmt).getD .f32

/-- Elements of a row. -/
def TableEntry.elems (e : TableEntry) : Nat := e.rowb / Ty.size e.ty

/-- The engine of a row: the stack of its segment (13 R525). -/
def TableEntry.stackOf (e : TableEntry) (r : Nat) : Nat :=
  ((e.segs.filter fun fs => decide (fs.1 ≤ r)).getLast?.map fun fs : Nat × Nat => fs.2).getD 0

/-- The lead engine: that of segment 0 (13 R532). -/
def TableEntry.lead (e : TableEntry) : Nat := if e.bad then 0 else e.stackOf 0

/-- Address of a row of a version (13 R525). -/
def TableEntry.rowAddr (e : TableEntry) (v r : Nat) : Nat := ((e.vbase[v]?).getD 0 + r * e.rpitch) % 2 ^ 64

/-- The bytes of a table's entry in the directory in device memory; none while GZDBASE.EN is 0 (13 R524, R528). -/
def State.directoryBytes (s : State) (tid : Nat) : Option (List Byte) :=
  if s.gz.dbase.getLsbD 0 then some (s.mem.homeBytes (fieldOf s.gz.dbase.toNat 7 41 * 128 + 128 * tid) 128) else none

/-- The engines' copy of a table's entry, read at its first use (13 R527). -/
def State.gzEntry (s : State) (tid : Nat) : Option (List Byte) × State :=
  if !s.gz.dbase.getLsbD 0 then (none, s)
  else match s.gz.dir.get? tid with
    | some b => (some b, s)
    | none => match s.directoryBytes tid with
      | some b => (some b, s.setGz { s.gz with dir := s.gz.dir.put tid b })
      | none => (none, s)

/-- The engines' copy of an entry, for a meaning. -/
def tableEntry (tid : Nat) : M (Option TableEntry) := do
  let (b, s) := (← get).gzEntry tid
  set s
  pure (b.map parseEntry)

/-- Is an entry usable by an address space at a version (none: any)? (13 R543 detail 1) -/
def TableEntry.usable (e : TableEntry) (asid : BitVec 16) (ver : Option Nat) : Bool :=
  e.v && !e.bad && e.asid == asid.toNat && match ver with
    | none => true
    | some v => (e.vbase[v]?).getD 0 != 0

/-! The row cache (13 R535..R538). -/

/-- Key of a row (13 R535). -/
def rowKey (tid ver row : Nat) : Nat := tid * 2 ^ 40 + ver * 2 ^ 32 + row

/-- Set of a piece (13 R535). -/
def pieceSet (key i : Nat) : Nat := (rnd32 (BitVec.ofNat 64 key) (BitVec.ofNat 32 (4 + i))).toNat % 8192

/-- The ways taken in a set of an engine: the rows that hold them, once a way. -/
def waysOf (rows : List GzRow) (set_ : Nat) : List GzRow :=
  rows.flatMap fun r => (r.pieces.filter fun p => pieceSet r.key p.1 == set_).map fun _ => r

/-- The cached row of a key. -/
def GzSys.row? (g : GzSys) (s key : Nat) : Option GzRow := (g.cache.get s []).find? fun r => r.key == key

/-- Replace an engine's rows. -/
def GzSys.setRows (g : GzSys) (s : Nat) (rows : List GzRow) : GzSys := { g with cache := g.cache.put s rows }

/-- The least of a list of rows by counter, ties to the least recently used. -/
def leastRow : List GzRow → Option GzRow
  | [] => none
  | r :: rest => match leastRow rest with
    | none => some r
    | some q => some (if q.ctr < r.ctr || (q.ctr == r.ctr && decide (q.lastUse < r.lastUse)) then q else r)

/-- A victim for each missing piece: a free way, or the unpinned way of lowest counter (13 R536). The ways chosen so
far, each as its set and its row, and the sets in which pieces before have taken a free way. -/
def victims (rows : List GzRow) : List Nat → List Nat → List (Nat × GzRow) → Option (List GzRow)
  | [], _, chosen => some (chosen.map (·.2))
  | x :: rest, used, chosen =>
    let ways := waysOf rows x
    if ways.length + used.countP (· == x) < 16 then victims rows rest (x :: used) chosen
    else match leastRow ((ways.filter fun r => r.pins.isEmpty).diff ((chosen.filter fun y => y.1 == x).map (·.2))) with
      | none => none
      | some r => victims rows rest used ((x, r) :: chosen)

/-- Admit a row's missing pieces: victims go whole, the pieces are filled (13 R536, R538). The counter starts at 1, or
stays for a pin of a row that is there. -/
def admitRow (rows : List GzRow) (key n : Nat) (sectors : Nat → List Nat) (gone : List GzRow) (ctr clock : Nat) : List GzRow :=
  let left := rows.filter fun r => !gone.contains r
  let own := left.find? fun r => r.key == key
  let pieces := (List.range n).map fun i => (i, sectors i)
  let row : GzRow :=
    { key, ctr, pins := (own.map fun r => r.pins).getD [], pieces, lastUse := clock }
  left.filter (fun r => r.key != key) ++ [row]

/-- Pieces that a row of B bytes takes. -/
def pieceCount (b : Nat) : Nat := (b + 255) / 256

/-- Missing pieces' sets of a row. -/
def missingSets (own : Option GzRow) (key n : Nat) : List Nat :=
  ((List.range n).filter fun i => !(own.any fun r => r.pieces.any fun p => p.1 == i)).map fun i => pieceSet key i

/-- Count a visit in the sketch: the estimate and the engines after it (13 R536). -/
def GzSys.sketchVisit (g : GzSys) (s key : Nat) : Nat × GzSys :=
  (List.range 4).foldl (fun (acc : Nat × GzSys) i =>
    let at_ := s * 2 ^ 18 + i * 2 ^ 16 + (rnd32 (BitVec.ofNat 64 key) (BitVec.ofNat 32 i)).toNat / 2 ^ 16
    let c := min 15 (acc.2.sketch.get at_ 0 + 1)
    (min acc.1 c, { acc.2 with sketch := acc.2.sketch.put at_ c })) (15, g)

/-- A lookup position visits a row at its engine (13 R536, R537). -/
def GzSys.visit (g : GzSys) (s key b : Nat) (sectors : Nat → List Nat) : GzSys :=
  let (est, g) := g.sketchVisit s key
  let clock := g.useCount + 1
  let g := { g with useCount := clock, age := g.age.put s (g.age.get s 0 + 1) }
  let rows := g.cache.get s []
  let own := g.row? s key
  let n := pieceCount b
  match missingSets own key n with
  | [] => g.setRows s (rows.map fun r => if r.key == key then { r with ctr := min 15 (r.ctr + 1), lastUse := clock } else r)
  | sets => match victims rows sets [] [] with
    | none => g
    | some gone => if gone.all fun r => decide (r.ctr ≤ est) then g.setRows s (admitRow rows key n sectors gone 1 clock) else g

/-- Would a set of a row, with the row's pieces in it, hold more than 8 pinned ways? (13 R538, R548) -/
def GzSys.pinsFull (g : GzSys) (s key b : Nat) : Bool :=
  let rows := g.cache.get s []
  let sets := (List.range (pieceCount b)).map (pieceSet key)
  sets.any fun x => decide (8 < ((waysOf rows x).filter fun r => !r.pins.isEmpty).length + sets.countP (· == x))

/-- Pin a row for a launch, reading it in when absent (13 R538, R548). -/
def GzSys.pin (g : GzSys) (s key b : Nat) (sectors : Nat → List Nat) (serial : Word) : GzSys :=
  let rows := g.cache.get s []
  let own := g.row? s key
  let n := pieceCount b
  let rows : List GzRow := match victims rows (missingSets own key n) [] [] with
    | some gone => if (missingSets own key n).isEmpty then rows
      else admitRow rows key n sectors gone ((own.map fun r => r.ctr).getD 1) (g.useCount + 1)
    | none => if own.isSome then rows else rows ++ [⟨key, 1, [], [], g.useCount + 1⟩]
  { g.setRows s (rows.map fun r =>
      if r.key == key && !r.pins.contains serial then { r with pins := serial :: r.pins } else r) with
    useCount := g.useCount + 1 }

/-- End a launch's pin on a row. -/
def GzSys.unpin (g : GzSys) (s key : Nat) (serial : Word) : GzSys :=
  g.setRows s ((g.cache.get s []).map fun r => if r.key == key then { r with pins := r.pins.erase serial } else r)

/-- A launch's pins end with it (13 R538). -/
def GzSys.unpinAll (g : GzSys) (serial : Word) : GzSys :=
  { g with cache := g.cache.map fun kv => (kv.1, kv.2.map fun r => { r with pins := r.pins.erase serial }) }

/-- GZAGE_HALVE: after 2^20 visits of an engine its counters and its sketch are halved (13 R537). -/
def execGzageHalve (e : Fin 12) (s : State) : Host.Outcome State Fault Refusal :=
  if s.gz.age.get e.val 0 < 2 ^ 20 then .next s
  else
    let rows := (s.gz.cache.get e.val []).map fun r => { r with ctr := r.ctr / 2 }
    let sk := s.gz.sketch.map fun kv => if kv.1 / 2 ^ 18 == e.val then (kv.1, kv.2 / 2) else kv
    .next (s.setGz { s.gz.setRows e.val rows with
      sketch := sk.filter fun kv => kv.2 != 0, age := s.gz.age.put e.val 0 })

/-! The stream parameter block (13 R529). -/

/-- The fields of a block. -/
structure Spb where
  idx : Nat
  boff : Nat
  wgt : Nat
  out : Nat
  count : Nat
  nbag : Nat
  pitch : Nat
  tid : Nat
  mode : Nat
  ofmt : Bool
  vsel : Nat
  expl : Bool
  lr : Nat
  eps : Nat
  deriving DecidableEq, Repr

/-- The fields of a block's bytes. -/
def parseSpb (b : List Byte) : Spb :=
  { idx := cardField b 64 8, boff := cardField b 72 8, wgt := cardField b 80 8, out := cardField b 88 8
    count := cardField b 96 4, nbag := cardField b 100 4, pitch := cardField b 104 4, tid := cardField b 108 1
    mode := cardField b 109 1 % 4, ofmt := bitOf (cardField b 109 1) 2, vsel := cardField b 110 1 % 4
    expl := bitOf (cardField b 110 1) 2, lr := cardField b 112 4, eps := cardField b 116 4 }

/-- Is an address no 4-byte aligned global one? -/
def notGlobal4 (va : Nat) : Bool := va % 4 != 0 || decide (2 ^ 57 ≤ va)

/-- The offset of the first field of a block that breaks 13 R529; the elements of a row of the table, 0 when its entry
is not usable. -/
def spbBadField (b : List Byte) (look : Bool) (elems : Nat) : Option Nat :=
  let c := parseSpb b
  let r109 := cardField b 109 1 / 8 != 0
  let r110 := cardField b 110 1 / 8 != 0 || (!c.expl && c.vsel != 0)
  let all := if look then
      [(64, notGlobal4 c.idx), (72, if c.mode = 0 then c.boff != 0 else notGlobal4 c.boff),
        (80, if c.mode = 2 then notGlobal4 c.wgt else c.wgt != 0), (88, notGlobal4 c.out),
        (100, decide (2 ^ 24 < c.nbag) || (c.mode == 0 && c.nbag != 0)),
        (104, c.pitch % 4 != 0 || decide (c.pitch < (if c.ofmt then 2 else 4) * elems)), (109, r109), (110, r110),
        (111, cardField b 111 1 != 0), (112, c.lr != 0), (116, c.eps != 0), (120, cardField b 120 8 != 0)]
    else
      [(64, notGlobal4 c.idx), (72, c.boff != 0), (80, if c.mode = 1 then notGlobal4 c.wgt else c.wgt != 0),
        (88, notGlobal4 c.out), (96, decide (2 ^ 24 < c.count)), (100, c.nbag != 0),
        (104, c.pitch % 4 != 0 || decide (c.pitch < 4 * elems)), (109, r109 || c.ofmt || decide (1 < c.mode)), (110, r110),
        (111, cardField b 111 1 != 0), (116, c.mode != 1 && c.eps != 0), (120, cardField b 120 8 != 0)]
  (all.find? fun t => t.2).map (·.1)

/-- GZLOOK and GZUPDATE (13 R546); the version is captured before the card waits for room (13 R531). -/
def bodyGzCard (look : Bool) (hd : Hdr) (d a : XOp) : M Unit := do
  let va := (← readX a).toNat
  if va % 64 ≠ 0 then trap causeAlign (BitVec.ofNat 64 va)
  let b ← readCard hd va 128
  let rs ← checkFootprint b
  let c := parseSpb b
  let l ← ownLaunch
  let elems := match ← tableEntry c.tid with
    | some e => if e.usable l.info.asid none then e.elems else 0
    | none => 0
  match spbBadField b look elems with
  | some o => trap causeProt (BitVec.ofNat 64 (va + o))
  | none =>
    let s ← get
    let ver := if c.expl then c.vsel else (s.gz.cur.get c.tid 0).toNat
    writeX d (← issueCard (if look then .lookup b ver else .update b ver) rs)

/-- GZLOOK (13 R546). -/
def execGzlook (h : Hdr) (d a : XOp) (s : State) : Host.Outcome State Fault Refusal :=
  runSeq (.gzlook h d a) h (bodyGzCard true h d a) s

/-- GZUPDATE (13 R546). -/
def execGzupdate (h : Hdr) (d a : XOp) (s : State) : Host.Outcome State Fault Refusal :=
  runSeq (.gzupdate h d a) h (bodyGzCard false h d a) s

/-! Jobs (13 R530..R544). -/

/-- A job that has done all its work. -/
def gzDone : Nat := 2 ^ 80

/-- Why a job stops: detail, position, address (13 R543). -/
structure GzStop where
  detail : Nat
  pos : Nat
  addr : Nat
  deriving DecidableEq, Repr

/-- Status of a stop (13 R543). -/
def gzStatus (detail : Nat) : CardStatus := if detail = 6 then .footprint else if detail = 9 then .abort else .fault

/-- Bytes 24 on of a GZFAULT event (13 R543). -/
def gzfaultData (k : Card) (st : GzStop) : List Byte :=
  leBytes 8 k.handle.toNat ++ leBytes 4 st.pos ++ leBytes 12 0 ++ leBytes 8 st.addr

/-- A job stops: its card keeps detail and position, and the lead engine posts GZFAULT (13 R543). -/
def State.gzStop (s : State) (k : Card) (st : GzStop) : State :=
  let lead := if k.entry.isEmpty then 0 else (parseEntry k.entry).lead
  let s := s.updCard k.serial k.seq fun k =>
    { k with stop := some (gzStatus st.detail, st.pos, BitVec.ofNat 64 st.addr, st.detail), faultWait := none }
  s.postEvent (s.gz.gzctl.get lead 0).toNat (72 + lead) 21 st.detail k.serial (gzfaultData k st)

/-- Detail of a trap at one of a job's accesses (13 R543). -/
def gzDetail (cause : Nat) : Nat := if cause = causeFootprint then 6 else if cause = causePoison then 8 else 7

/-- Run a step of a job: none when it goes on, a stop otherwise. -/
def runGz (k : Card) (pos : Nat) (c : Ctx) (body : M (Option GzStop)) (s : State) : State :=
  let held := fun (s : State) (kind : Nat) (a : AKind) (va elem : Nat) =>
    let (s, num) := s.raiseFault { c with elem := elem } kind a va (BitVec.ofNat 1024 k.handle.toNat) (onePage va) false
    s.updCard k.serial k.seq fun k => { k with faultWait := some num }
  match body s with
  | .ok none s => s
  | .ok (some st) s => s.gzStop ((s.card? k.serial k.seq).getD k) st
  | .error (.trap cause va) s => s.gzStop k ⟨gzDetail cause, pos, va.toNat⟩
  | .error (.vtrap cause va at_ _) s => s.gzStop k ⟨gzDetail cause, at_, va.toNat⟩
  | .error (.tfault va bad a el) s => held s (if bad then 5 else 6) a va el
  | .error (.pool va el) s => held s 7 .store va el
  | .error _ s => s

/-- Change the card of a job. -/
def updJob (k : Card) (f : Card → Card) : M Unit := modify fun s => s.updCard k.serial k.seq f

/-- The context of a job's accesses by an engine (13 R523, R544). -/
def State.gzCtx (s : State) (k : Card) (engine : Nat) : Ctx := s.jobCtx k (engine / 3) [.gaz engine]

/-- A trap in reading what belongs to a position names the position. -/
def atPos {α : Type} (pos : Nat) (m : M α) : M α :=
  tryCatch m fun e => match e with
    | .trap cause va => throw (.vtrap cause va pos 0)
    | e => throw e

/-- n 32-bit words of a job's streams; poisoned ones stop it (13 R543). -/
def gzWords (k : Card) (c : Ctx) (va n : Nat) : M (List Nat) :=
  mapM' (List.range n) fun i => do
    let (bs, po) ← jobRead k { c with elem := i } (va + 4 * i) 4
    if po then trap causePoison (BitVec.ofNat 64 (va + 4 * i))
    pure (leNat bs)

/-- Check 13 R543 detail 1 at the job's start and keep the entry for its run (13 R527). -/
def gzStart (k : Card) (c : Spb) (ver : Nat) : M (Option GzStop) := do
  let (b, s) := (← get).gzEntry c.tid
  set s
  let asid := match s.launch? k.serial with
    | some l => l.info.asid
    | none => 0
  match b with
  | none => return some ⟨1, 0, 0⟩
  | some b =>
    updJob k fun k => { k with entry := b, prog := 1 }
    return if (parseEntry b).usable asid (some ver) then none else some ⟨1, 0, 0⟩

/-- The first byte of a row, in any present version, that lies outside its segment's stack (13 R525). -/
def placeFault (c : Ctx) (e : TableEntry) (r : Nat) (a : AKind) (ver : Nat) : M (Option Nat) := do
  let stack := e.stackOf r
  let n := e.rowBytes
  let present := (List.range 4).filter fun v => (e.vbase[v]?).getD 0 != 0
  let bad ← mapM' present fun v => do
    let va := e.rowAddr v r
    let ends := if va / 65536 = (va + n - 1) / 65536 then [va] else [va, (va + n - 1) / 65536 * 65536]
    mapM' ends fun x => do
      let l ← translate c x (if v = ver then a else .load)
      let hi := min (va + n - 1) (x / 65536 * 65536 + 65535)
      pure (if l.mt ≠ 0 || l.phys x / 2 ^ 36 ≠ stack || l.phys hi / 2 ^ 36 ≠ stack then some x else none)
  pure (bad.flatten.findSome? id)

/-- The sectors that piece i of a row covers. -/
def pieceSectors (s : State) (asid : BitVec 16) (va b i : Nat) : List Nat :=
  let lo := va + 256 * i
  let hi := min (va + b) (lo + 256)
  (List.range ((hi - lo + 63) / 64)).filterMap fun j =>
    (s.peekLeaf asid (lo + 64 * j)).map fun l => l.phys (lo + 64 * j) / 64

/-- Elements of a row as f32 encodings (13 R526). -/
def rowValues (e : TableEntry) (ovft : Nat) (bs : List Byte) : List Nat :=
  let t := e.ty
  let n := Ty.size t
  let raw := elemsOf n (bs.take e.rowb)
  let cx : RCtx := ⟨.rne, ovft, 0⟩
  if e.scl then
    let sc := Ty.decode .f32 (leNat ((bs.drop e.rowb).take 4))
    raw.map fun v => roundTo .f32 cx false (FVal.mul sc (Ty.decode t v))
  else if t = .f32 then raw
  else raw.map fun v => roundTo .f32 cx false (Ty.decode t v)

/-- Read a row: its bytes with their poison marks and its address; a row outside its stack, or outside the regions, stops
the job (13 R525, R534, R543). -/
def gzRow (k : Card) (e : TableEntry) (ver r pos : Nat) : M (Except GzStop (List (Byte × Bool) × Nat)) := do
  let c := (← get).gzCtx k (e.stackOf r)
  let va := e.rowAddr ver r
  jobGate k va e.rowBytes false
  match ← placeFault c e r .load ver with
  | some x => return .error ⟨5, pos, x⟩
  | none =>
    return .ok (← runRead k c va e.rowBytes, va)

/-- One f32 operation of a job, rounded to nearest even under the captured ovft (13 R533). -/
def gzRound (ovft : Nat) (v : FVal) : Nat := roundTo .f32 ⟨.rne, ovft, 0⟩ false v

/-- f32 sum. -/
def gzAdd (ovft x y : Nat) : Nat := addValue .f32 ovft x y

/-- f32 quotient by a count, rounded once. -/
def gzDivCount (ovft x n : Nat) : Nat := gzRound ovft (FVal.div (Ty.decode .f32 x) (FVal.ofInt n))

/-- −0 as f32. -/
def gzNegZero : Nat := 0x80000000

/-- Write element i of an output row (13 R533). -/
def gzEmit (k : Card) (sp : Spb) (q i v : Nat) (po : Bool) (engine : Nat) : M Unit := do
  let c := { (← get).gzCtx k engine with elem := i }
  let va := (sp.out + q * sp.pitch) % 2 ^ 64
  if sp.ofmt then
    jobWrite k c (va + 2 * i) (leBytes 2 (roundTo .bf16 ⟨.rne, k.ovft.toNat, 0⟩ false (Ty.decode .f32 v))) po
  else jobWrite k c (va + 4 * i) (leBytes 4 v) po

/-- What a lookup has read of its streams, and its partial sums: index words, offsets, then (stack, values) for the bag
in hand; of a gather, (0, values) and (1, poison marks) of the row in hand. They stand in `part` as lengths and words. -/
structure GzPart where
  ids : List Nat
  offs : List Nat
  sums : List (Nat × List Nat)
  deriving DecidableEq, Repr

/-- Partial sums from words. -/
def unpackSums (elems : Nat) : Nat → List Nat → List (Nat × List Nat)
  | 0, _ => []
  | _, [] => []
  | fuel + 1, s :: r => (s, r.take elems) :: unpackSums elems fuel (r.drop elems)

/-- Unpack `part`. -/
def unpackPart (elems : Nat) (l : List Nat) : GzPart :=
  match l with
  | a :: b :: r =>
    let rest := r.drop (a + b)
    ⟨r.take a, (r.drop a).take b, unpackSums elems rest.length rest⟩
  | _ => ⟨[], [], []⟩

/-- Pack `part`. -/
def GzPart.pack (p : GzPart) : List Nat :=
  [p.ids.length, p.offs.length] ++ p.ids ++ p.offs ++ p.sums.flatMap fun s => s.1 :: s.2

/-- Add a position's row to the partial sum of its stack; stacks ascending (13 R533). -/
def addPart (ovft stack w : Nat) (vals : List Nat) (sums : List (Nat × List Nat)) : List (Nat × List Nat) :=
  let old := ((sums.find? fun s => s.1 == stack).map fun s : Nat × List Nat => s.2).getD (vals.map fun _ => gzNegZero)
  let new := (vals.zip old).map fun xo =>
    gzRound ovft (FVal.fma .rne (Ty.decode .f32 w) (Ty.decode .f32 xo.1) (Ty.decode .f32 xo.2))
  (sums.filter fun s => decide (s.1 < stack)) ++ [(stack, new)] ++ sums.filter fun s => decide (stack < s.1)

/-- The value of a bag from its partial sums (13 R533). -/
def bagValue (ovft mode n elems : Nat) (sums : List (Nat × List Nat)) : List Nat :=
  let acc := sums.foldl (fun acc s => (acc.zip s.2).map fun xy => gzAdd ovft xy.1 xy.2) (List.replicate elems gzNegZero)
  if mode = 3 ∧ 0 < n then acc.map fun x => gzDivCount ovft x n else acc

/-- The index stream, word by word. -/
def readIds (k : Card) (c : Ctx) (sp : Spb) : M (List Nat) := do
  let ws ← mapM' (List.range sp.count) fun p => atPos p (gzWords k c (sp.idx + 4 * p) 1)
  pure ws.flatten

/-- The streams of a lookup: indices and offsets; the offsets are checked before any output (13 R532). -/
def gzReadStreams (k : Card) (sp : Spb) (e : TableEntry) : M (Option GzStop) := do
  let c := (← get).gzCtx k e.lead
  let ids ← readIds k c sp
  let offs ← if sp.nbag = 0 then pure [] else gzWords k c sp.boff (sp.nbag + 1)
  let falls := (offs.zip offs.tail).any fun ab => decide (ab.2 < ab.1)
  if falls || decide (sp.count < offs.getLast?.getD 0) then return some ⟨3, 0, 0⟩
  updJob k fun k => { k with part := GzPart.pack ⟨ids, offs, []⟩, prog := 2, reads := [] }
  return none

/-- Visit a position's row: its values, the marks of its bytes, its address. An engine that is not up, or whose counters
are to be halved, makes the job wait (01 R26; 13 R536, R537). -/
def gzVisit (k : Card) (e : TableEntry) (sp : Spb) (ver pos r : Nat) :
    M (Except GzStop (List Nat × List Bool × Nat)) := do
  if e.rows ≤ r then return .error ⟨2, pos, 0⟩
  let engine := e.stackOf r
  needUnit (16 + engine)
  if 2 ^ 20 ≤ (← get).gz.age.get engine 0 then waitHere
  match ← gzRow k e ver r pos with
  | .error st => return .error st
  | .ok (data, va) =>
    let c := (← get).gzCtx k engine
    modify fun s => s.setGz (s.gz.visit engine (rowKey sp.tid ver r) e.rowBytes (pieceSectors s c.asid va e.rowBytes))
    return .ok (rowValues e k.ovft.toNat (data.map (·.1)), data.map (·.2), va)

/-- Output row and place in hand of a lookup: progress is 2 + row × 2^33 + place, where the place counts positions of a
bag, or the one position of a gather, and then the elements written. -/
def lookProg (prog : Nat) : Nat × Nat := ((prog - 2) / 2 ^ 33, (prog - 2) % 2 ^ 33)

/-- The lookup has done its work. -/
def lookDone (k : Card) : M (Option GzStop) := do
  updJob k fun k => { k with prog := gzDone, part := [] }
  return none

/-- Write the next element of an output row; after the last one the next row follows (13 R533). -/
def lookEmit (k : Card) (sp : Spb) (e : TableEntry) (q i : Nat) (vals : List Nat) (po : Bool) (part : GzPart) :
    M (Option GzStop) := do
  gzEmit k sp q i (vals.getD i 0) po e.lead
  updJob k fun k =>
    if i + 1 < e.elems then { k with prog := k.prog + 1, reads := [] }
    else { k with prog := 2 + (q + 1) * 2 ^ 33, reads := [], part := GzPart.pack { part with sums := [] } }
  return none

/-- The next step of a gather: position p's row is fetched, then written element by element. An f32 row without scale
takes its poison along (13 R543). -/
def gatherStep (k : Card) (sp : Spb) (e : TableEntry) (ver : Nat) : M (Option GzStop) := do
  let (p, j) := lookProg k.prog
  let part := unpackPart e.elems k.part
  if sp.count ≤ p then lookDone k
  else if j = 0 then
    match ← gzVisit k e sp ver p (part.ids.getD p 0) with
    | .error st => return some st
    | .ok (vals, marks, va) =>
      if marks.any id && (sp.ofmt || e.scl || e.fmt != 8) then return some ⟨8, p, va⟩
      let po := (List.range e.elems).map fun i => ((marks.drop (4 * i)).take 4).any id
      updJob k fun k => { k with
        prog := k.prog + 1, reads := [], part := GzPart.pack { part with sums := [(0, vals), (1, po.map Bool.toNat)] } }
      return none
  else
    let at_ := fun i => ((part.sums[i]?).map fun x : Nat × List Nat => x.2).getD []
    lookEmit k sp e p (j - 1) (at_ 0) ((at_ 1).getD (j - 1) 0 == 1) part

/-- The next step of a pooled lookup: one position, or an element of a bag's output. -/
def poolStep (k : Card) (sp : Spb) (e : TableEntry) (ver : Nat) : M (Option GzStop) := do
  let (b, j) := lookProg k.prog
  let part := unpackPart e.elems k.part
  let lo := part.offs.getD b 0
  let n := part.offs.getD (b + 1) 0 - lo
  if sp.nbag ≤ b then lookDone k
  else if j < n then
    let p := lo + j
    let ws ← if sp.mode = 2 then atPos p (gzWords k ((← get).gzCtx k e.lead) (sp.wgt + 4 * p) 1) else pure []
    match ← gzVisit k e sp ver p (part.ids.getD p 0) with
    | .error st => return some st
    | .ok (vals, marks, va) =>
      if marks.any id then return some ⟨8, p, va⟩
      let sums := addPart k.ovft.toNat (e.stackOf (part.ids.getD p 0)) (ws.headD 0x3F800000) vals part.sums
      updJob k fun k => { k with prog := k.prog + 1, reads := [], part := GzPart.pack { part with sums } }
      return none
  else lookEmit k sp e b (j - n) (bagValue k.ovft.toNat sp.mode n e.elems part.sums) false part

/-- Position in hand of a job, for what is reported of it. -/
def gzPos (k : Card) : Nat :=
  match k.job with
  | .lookup b _ =>
    let sp := parseSpb b
    if k.entry.isEmpty || k.prog < 2 then 0
    else
      let (q, j) := lookProg k.prog
      if sp.mode = 0 then q
      else
        let offs := (unpackPart (parseEntry k.entry).elems k.part).offs
        min (offs.getD q 0 + j) (offs.getD (q + 1) 0 - 1)
  | .update _ _ => k.part.getD 1 0
  | _ => 0

/-- Is the engine that leads a gazetteer job up (01 R26, 15 R601)? -/
def State.gzUp (s : State) (k : Card) : Bool :=
  s.dc.ready.getLsbD (16 + if k.entry.isEmpty then 0 else (parseEntry k.entry).lead)

/-- GZ_LOOKUP_JOB: the next step of a lookup that has started (13 R527, R532..R536). -/
def execGzLookupJob (card : Word) (s : State) : Host.Outcome State Fault Refusal :=
  let isLook := fun (k : Card) => k.active && k.prog != gzDone && match k.job with
    | .lookup _ _ => true
    | _ => false
  match s.findCard card fun k => isLook k && s.gzUp k with
  | none => .next s
  | some k =>
    match k.job with
    | .lookup b ver =>
      let sp := parseSpb b
      let e := parseEntry k.entry
      let body := if k.prog = 0 then gzStart k sp ver else if k.prog = 1 then gzReadStreams k sp e
        else if sp.mode = 0 then gatherStep k sp e ver else poolStep k sp e ver
      .next (runGz k (gzPos k) (s.gzCtx k (if k.entry.isEmpty then 0 else e.lead)) body s)
    | _ => .next s

/-! Sparse updates (13 R530, R540, R541). -/

/-- Sum the gradient rows of a row's positions in ascending order, element by element. -/
def sumGrads (ovft : Nat) : List (List Nat) → List Nat
  | [] => []
  | g :: rest => rest.foldl (fun acc h => (acc.zip h).map fun xy => gzAdd ovft xy.1 xy.2) g

/-- Distinct rows in ascending order, each with its first position and its combined gradient. -/
def combineRows (ovft : Nat) (ids : List Nat) (grads : List (List Nat)) : List (Nat × Nat × List Nat) :=
  let rows := ids.foldl (fun l r => insertNat r l) []
  let named := ids.zip grads
  rows.map fun r => (r, ids.findIdx (· == r), sumGrads ovft ((named.filter fun x => x.1 == r).map fun x : Nat × List Nat => x.2))

/-- An update's reads: the indices, checked, and the gradient rows; `part` then lists the rows to write, each with its
first position and its combined gradient (13 R530, R540). -/
def updateReads (k : Card) (sp : Spb) (e : TableEntry) : M (Option GzStop) := do
  if e.fmt ≠ 8 || e.scl then return some ⟨4, 0, 0⟩
  let c := (← get).gzCtx k e.lead
  let ids ← readIds k c sp
  match ids.findIdx? fun r => decide (e.rows ≤ r) with
  | some p => return some ⟨2, p, 0⟩
  | none =>
    let grads ← mapM' (List.range sp.count) fun p => atPos p (gzWords k c ((sp.out + p * sp.pitch) % 2 ^ 64) e.elems)
    let rows := combineRows k.ovft.toNat ids grads
    updJob k fun k => { k with part := rows.flatMap fun x => x.1 :: x.2.1 :: x.2.2, prog := 2, reads := [] }
    return none

/-- New weights, and with Adagrad the new accumulator (13 R540). -/
def updateRow (ovft : Nat) (sp : Spb) (w g : List Nat) (a : Nat) : List Nat × Nat :=
  let dec := Ty.decode .f32
  let rnd := gzRound ovft
  let mul := fun x y => rnd (FVal.mul (dec x) (dec y))
  let sub := fun x y => rnd (FVal.add .rne (dec x) (FVal.neg (dec y)))
  if sp.mode = 0 then ((w.zip g).map fun wg => sub wg.1 (mul sp.lr wg.2), a)
  else
    let s := g.foldl (fun s x => gzAdd ovft s (mul x x)) gzNegZero
    let a := gzAdd ovft a (gzDivCount ovft s g.length)
    let d := gzAdd ovft (rnd (FVal.sqrt (dec a))) sp.eps
    ((w.zip g).map fun wg => sub wg.1 (rnd (FVal.div (dec (mul sp.lr wg.2)) (dec d))), a)

/-- Bytes that a step is to read and write as one: nothing that could stop or hold a write of them is left
(13 R541). -/
def gzReserve (k : Card) (c : Ctx) (va n : Nat) : M Unit := do
  jobGate k va n true
  forM' (cuts va n) fun p => do
    let l ← translate c p.1 .atom
    budgetGate c l p.1
    if ← tagged c l then
      let _ ← materialise c l p.1

/-- Update the next row of a job: one read-modify-write with its accumulator; a cached row is written in place
(13 R536, R540, R541). -/
def updateStep (k : Card) (sp : Spb) (e : TableEntry) (ver : Nat) : M (Option GzStop) := do
  match k.part with
  | r :: pos :: rest =>
    let g := rest.take e.elems
    let va := e.rowAddr ver r
    let acc := (sp.wgt + 4 * r) % 2 ^ 64
    let engine := e.stackOf r
    let c := (← get).gzCtx k engine
    needUnit (16 + engine)
    jobGate k va e.rowBytes true
    if sp.mode = 1 then jobGate k acc 4 true
    match ← placeFault c e r .atom ver with
    | some x => return some ⟨5, pos, x⟩
    | none =>
      gzReserve k c va e.rowBytes
      if sp.mode = 1 then gzReserve k c acc 4
      let data ← runRead k c va e.rowBytes
      let (abs, apo) ← if sp.mode = 1 then jobRead k c acc 4 else pure ([], false)
      if data.any (·.2) then return some ⟨8, pos, va⟩
      if apo then return some ⟨8, pos, acc⟩
      let (w, a) := updateRow k.ovft.toNat sp (elemsOf 4 (data.map (·.1))) g (leNat abs)
      let key := rowKey sp.tid ver r
      let kept := (← get).gz.row? engine key
      forM' (runWrites va (w.flatMap fun x => (leBytes 4 x).map fun b => (b, false))) fun x => jobWrite k c x.1 x.2.1 false
      if sp.mode = 1 then jobWrite k c acc (leBytes 4 a) false
      modify fun s => match kept with
        | none => s
        | some row => s.setGz (s.gz.setRows engine
            (((s.gz.cache.get engine []).filter fun x => x.key != key) ++ [row]))
      updJob k fun k => { k with part := rest.drop e.elems, reads := [] }
      return none
  | _ =>
    updJob k fun k => { k with prog := gzDone, part := [] }
    return none

/-- GZ_UPDATE_JOB: the next step of an update that has started (13 R530, R540, R541). Rows update in ascending order
(log 14). -/
def execGzUpdateJob (card : Word) (s : State) : Host.Outcome State Fault Refusal :=
  let isUpd := fun (k : Card) => k.active && k.prog != gzDone && match k.job with
    | .update _ _ => true
    | _ => false
  match s.findCard card fun k => isUpd k && s.gzUp k with
  | none => .next s
  | some k =>
    match k.job with
    | .update b ver =>
      let sp := parseSpb b
      let e := parseEntry k.entry
      let body := if k.prog = 0 then gzStart k sp ver else if k.prog = 1 then updateReads k sp e else updateStep k sp e ver
      .next (runGz k (gzPos k) (s.gzCtx k (if k.entry.isEmpty then 0 else e.lead)) body s)
    | _ => .next s

/-! GZVER, GZPIN, GZWAIT (13 R547..R549). -/

/-- GZVER (13 R547). -/
def execGzver (h : Hdr) (ver : Fin 4) (d a : XOp) (s : State) : Host.Outcome State Fault Refusal :=
  runSeq (.gzver h ver d a) h (do
    let t ← readX a
    let l ← ownLaunch
    if 255 < t.toNat then trap causeProt t
    match ← tableEntry t.toNat with
    | none => trap causeProt t
    | some e =>
      if !e.v || e.asid != l.info.asid.toNat then trap causeProt t
      needUnit (16 + e.lead)
      release 6
      let old := (← get).gz.cur.get t.toNat 0
      modify fun s => s.setGz { s.gz with cur := s.gz.cur.put t.toNat (BitVec.ofNat 2 ver.val) }
      writeX d (old.setWidth 64)) s

/-- Pin or unpin rows from r on, n of them, until a set is full: how many were (13 R548). -/
def pinRows (un : Bool) (c : Ctx) (e : TableEntry) (tid ver : Nat) (serial : Word) : List Nat → Nat → M Nat
  | [], done => pure done
  | r :: rest, done => do
    let engine := e.stackOf r
    let key := rowKey tid ver r
    let va := e.rowAddr ver r
    let n := e.rowBytes
    needUnit (16 + engine)
    if un then
      modify fun s => s.setGz (s.gz.unpin engine key serial)
      pinRows un c e tid ver serial rest (done + 1)
    else
      let own := (← get).gz.row? engine key
      let held := own.any fun r => !r.pins.isEmpty
      if !held && (← get).gz.pinsFull engine key n then pure done
      else
        forM' (if va / 65536 = (va + n - 1) / 65536 then [va] else [va, (va + n - 1) / 65536 * 65536]) fun x => do
          let _ ← translate c x .load
        modify fun s => s.setGz (s.gz.pin engine key n (pieceSectors s c.asid va n) serial)
        pinRows un c e tid ver serial rest (done + 1)

/-- GZPIN with or without `.un` (13 R548). -/
def bodyGzpin (un : Bool) (n : BitVec 13) (d a b : XOp) : M Unit := do
  let tw ← readX a
  let r0 := (← readX b).toNat
  let l ← ownLaunch
  let tid := tw.toNat % 256
  let ver := tw.toNat / 256 % 4
  if tw.toNat / 1024 ≠ 0 then trap causeProt tw
  match ← tableEntry tid with
  | none => trap causeProt tw
  | some e =>
    if !e.usable l.info.asid (some ver) then trap causeProt tw
    if e.rows < r0 + n.toNat then trap causeProt (BitVec.ofNat 64 r0)
    let c ← hartCtx 0 (← curTag)
    let done ← pinRows un c e tid ver l.serial ((List.range n.toNat).map (r0 + ·)) 0
    writeX d (BitVec.ofNat 64 done)

/-- GZPIN (13 R548). -/
def execGzpin (h : Hdr) (n : BitVec 13) (d a b : XOp) (s : State) : Host.Outcome State Fault Refusal :=
  runSeq (.gzpin h n d a b) h (bodyGzpin false n d a b) s

/-- GZPIN.UN (13 R548). -/
def execGzpinUn (h : Hdr) (n : BitVec 13) (d a b : XOp) (s : State) : Host.Outcome State Fault Refusal :=
  runSeq (.gzpinUn h n d a b) h (bodyGzpin true n d a b) s

/-- What GZWAIT gives of a completed card: status, detail, position (13 R549). -/
def gzResult (k : Card) (st : CardStatus) : Nat :=
  match k.stop with
  | some (_, pos, _, detail) => CardStatus.code st + detail % 2 ^ 8 * 2 ^ 8 + pos % 2 ^ 32 * 2 ^ 32
  | none => CardStatus.code st

/-- GZWAIT (13 R549). -/
def execGzwait (h : Hdr) (d a : XOp) (s : State) : Host.Outcome State Fault Refusal :=
  runSeq (.gzwait h d a) h (do
    let w ← readX a
    let k ← ownCard [4] w
    match k.completed with
    | none => waitHere
    | some st =>
      acquireJob
      writeX d (BitVec.ofNat 64 (gzResult k st))) s

/-! The engines' registers (13 R527, R528, R539). -/

/-- A reread of a table ends: every engine has the entry anew, and CUR is 0 (13 R527). -/
def State.syncTable (s : State) : State :=
  if !s.gz.dbusy then s
  else
    let tid := s.gz.dlast.toNat % 256
    let dir := match s.directoryBytes tid with
      | some b => s.gz.dir.put tid b
      | none => s.gz.dir.del tid
    s.setGz { s.gz with dir, cur := s.gz.cur.del tid, dbusy := false }

/-- GZDSYNC_WRITE; one that comes while another is busy follows it (13 R527, R528). -/
def execGzdsyncWrite (v : Word) (s : State) : Host.Outcome State Fault Refusal :=
  let s := s.syncTable
  .next (s.setGz { s.gz with dbusy := true, dlast := v })

/-- GZDSYNC_DONE (13 R527, R528). -/
def execGzdsyncDone (s : State) : Host.Outcome State Fault Refusal := .next s.syncTable

/-- GZPROBE_WRITE starts a probe: GZPRES is not DONE until it has been answered (13 R528, R539). -/
def execGzprobeWrite (v : Word) (s : State) : Host.Outcome State Fault Refusal :=
  .next (s.setGz { s.gz with probe := v, probeBusy := true, pres := 0 })

/-- GZPROBE_DONE: what the row's engine holds of it (13 R539). -/
def execGzprobeDone (s : State) : Host.Outcome State Fault Refusal :=
  if !s.gz.probeBusy then .next s
  else
    let v := s.gz.probe.toNat
    let (tid, ver, row) := (v % 256, v / 256 % 4, v / 1024 % 2 ^ 28)
    let (b, s) := s.gzEntry tid
    let found := match b.map parseEntry with
      | some e => if e.v && !e.bad && decide (row < e.rows) then
          (s.gz.row? (e.stackOf row) (rowKey tid ver row)).map fun r => (r, e)
        else none
      | none => none
    let pres := match found with
      | none => 1
      | some (r, e) =>
        let cached := r.pieces.length == pieceCount e.rowBytes
        1 + 2 * cached.toNat + 4 * (decide (r.pins ≠ [])).toNat + 8 * r.ctr
    .next (s.setGz { s.gz with pres := BitVec.ofNat 64 pres, probeBusy := false })

end Sys2Proof.Machine
end

