-- ==== Sys2Proof/Machine/Halt.lean ====
section
/-! DEFINITION. HALT, the deadlock of queues, and the completion of cards (05 R195, R196, R238; 04 R162, R165; 07 R315;
11 R459; 12 R510). -/

namespace Sys2Proof.Machine

open Sys2Proof

/-- The last live stream of a hart has gone: its array rows, lane groups and group entries go (04 R162, 07 R315,
11 R459). -/
def State.hartEnds (s : State) (slot : Nat) : State :=
  let s := (s.detachHart slot).releaseLanes slot
  s.updLaunch (s.hart slot).serial fun l =>
    (l.groups.filter fun kv => kv.2.hart == slot).foldl (fun l kv => l.freeGroup kv.1) l

/-- A stream of a hart ends: a partner held by its trap is released (05 R231, R238). -/
def State.endStream (s : State) (slot : Nat) (isX : Bool) : State :=
  let h := s.hart slot
  let h := h.setStream isX { h.stream isX with live := false, waiting := none, blocked := none }
  let s := s.setHart slot { h with held := if h.held = some (!isX) then none else h.held }
  if (h.stream (!isX)).live then s else s.hartEnds slot

/-- HALT (05 R238). The last live stream waits until the hart's vector instructions and matrix work are done
(08 R351, 11 R459). -/
def execHalt (h : Hdr) (s : State) : Host.Outcome State Fault Refusal :=
  runHart (.halt h) h (do
    match (← get).cur with
    | .datum =>
      modStream fun st => { st with live := false }
      pure .halted
    | .stream slot isX =>
      let s ← get
      let hart := s.hart slot
      if !(hart.stream (!isX)).live && (!hart.inflight.isEmpty || s.matrixBusy slot) then waitHere
      else
        set (s.endStream slot isX)
        pure .halted) s

/-- Is a stream of a hart deadlocked: blocked on a queue while its partner has executed HALT or is blocked too, and no
result bound for a queue is on its way? A held stream is not blocked in this sense (05 R195). -/
def Hart.deadlocked (h : Hart) (isX : Bool) : Bool :=
  let owed := h.inflight.any fun e => e.scalars.any fun r => (XOp.queue? r.1).isSome
  let blocked := fun (b : Bool) => (h.stream b).live && (h.stream b).blocked.isSome && h.held != some b && !owed
  let halted := (h.stream (!isX)).started && !(h.stream (!isX)).live
  blocked isX && (halted || blocked (!isX))

/-- QUEUE_DEADLOCK: the deadlocked stream traps QDIR, stream X when both are (05 R195). -/
def execQueueDeadlock (hart : Nat) (s : State) : Host.Outcome State Fault Refusal :=
  match s.hart? hart with
  | none => .next s
  | some h =>
    let go := fun (isX : Bool) =>
      let st := h.stream isX
      let elem : Word := if st.blockedVec then h.vstart.setWidth 64 else 0
      s.enterTrap (.stream hart isX) causeQdir (BitVec.ofNat 64 (st.blocked.getD 0)) st.pc elem noLane
    .next (if h.deadlocked true then go true else if h.deadlocked false then go false else s)

/-! Cards (04 R165). -/

/-- Has a job that nothing stopped done all its work? -/
def State.jobDone (s : State) (k : Card) : Bool :=
  k.started && match k.job with
    | .stream b => decide ((copyCard b).total ≤ k.prog)
    | .weight _ _ _ => decide (641 ≤ k.prog)
    | .traverse _ _ _ => k.prog == 1 && !(s.tv.chans.any fun kv => kv.2.serial == k.serial && kv.2.seqNo == k.seq)
    | .lookup _ _ => k.prog == gzDone
    | .update _ _ => k.prog == gzDone

/-- The status that a card is to complete with; none while its job has work, a run or a train left (04 R165). -/
def State.outcome (s : State) (k : Card) : Option CardStatus :=
  let running := s.tv.chans.any fun kv => kv.2.serial == k.serial && kv.2.seqNo == k.seq
  if k.completed.isSome || !k.trains.isEmpty || running then none
  else match k.stop with
    | some st => some st.1
    | none => if s.jobDone k then some .ok else none

/-- A run that was stopped before it began: its members are told and TVFAULT is posted all the same (12 R511..R513). -/
def State.stopUnstarted (s : State) (k : Card) : State :=
  match k.job, cardStopDetail k, s.launch? k.serial with
  | .traverse prog _ num, some (detail, addr), some l =>
    if k.started then s
    else match s.progOf l prog with
      | none => s
      | some (key, p) =>
        let run := p.runId l num
        let c := Chan.fresh k key run p.rank
        let s := s.setTv { s.tv with
          ended := s.tv.ended ++ [⟨run, p.rank, k.handle, key, p.gen⟩]
          detail := s.tv.detail ++ [⟨k.serial, k.seq, detail, 0, 0, 0⟩] }
        s.tellStop (key / 64) c detail addr
  | _, _, _ => s

/-- A gazetteer job stopped from outside its steps posts GZFAULT: aborted, or at an access that was declined
(13 R543). -/
def State.stopLookup (s : State) (k : Card) : State :=
  match k.stop with
  | some (st, _, va, 0) => if Job.kind k.job = 4 then s.gzStop k ⟨if st = .abort then 9 else 7, gzPos k, va.toNat⟩ else s
  | _ => s

/-- Arrays that a weight load no longer targets. -/
def State.leaveArrays (s : State) (k : Card) : State :=
  match k.job with
  | .weight _ _ arrays => arrays.foldl State.freeArray s
  | _ => s

/-- CARD_COMPLETE: the card takes its status; its accesses are released at scope pkg, and the cards it held back may
start (04 R165, R166; 01 R19, R44). -/
def execCardComplete (card : Word) (s : State) : Host.Outcome State Fault Refusal :=
  match s.findCard card fun k => (s.outcome k).isSome with
  | none => .next s
  | some k =>
    match s.outcome k with
    | none => .next s
    | some st =>
      let s := (s.stopUnstarted k).stopLookup k
      let s := s.updCard k.serial k.seq fun k => { k with completed := some st, reads := [], faultWait := none }
      .next ((s.setMem s.mem.dropStale).leaveArrays k)

end Sys2Proof.Machine
end

