-- ==== Sys2Proof/Machine/LaunchEnd.lean ====
section
/-! DEFINITION. How launches end and how gangs leave and come back: completion, cancellation, pre-emption, resumption,
and placement when resources must first return (04 R154..R160, R167..R173; 06 R281, R282; 07 R309; 11 R472). -/

namespace Sys2Proof.Machine

open Sys2Proof

/-! The write digest (06 R279..R282). -/

/-- The distinct virtual sector addresses of a launch's digest list, each with the physical sector of its last listed write
(06 R281). -/
def Launch.listed (l : Launch) : List (Nat × Nat) :=
  (l.dlist.map fun e => e.1).dedup.filterMap fun va => (l.dlist.filter fun e => e.1 == va).getLast?

/-- Has a launch a digest to compute? -/
def Launch.hasDigest (l : Launch) : Bool := l.info.det && l.placed && l.dslot.isSome && !l.dover

/-- The listed sectors of other packages are read at their homes, eight bytes at a time (06 R281, 07 R619). -/
def State.readListed (s : State) (l : Launch) : State :=
  let far := if l.hasDigest then l.listed.zipIdx.filter fun e => decide (2 ^ 48 ≤ e.1.2) else []
  let want := far.flatMap fun e => (List.range 8).map fun j => (8 * e.2 + j, e.1.2 + 8 * j)
  let reads := want.zipIdx.map fun w => (⟨s.nextId + w.2, w.1.1, w.1.2, 8, none⟩ : PendRead)
  let msgs := reads.map fun r => LinkMsg.read (r.va / 2 ^ 48 - 1) r.id (r.va % 2 ^ 48) 8
  { s.updLaunch l.serial fun l => { l with reads, stage := 1 } with
    nextId := s.nextId + reads.length
    linkOut := s.linkOut ++ msgs }

/-- The contents of the i-th listed sector, of another package: a reply that reports an error leaves its word free. -/
def State.farSector (s : State) (l : Launch) (i : Nat) : Line × State :=
  let (bs, s) := (List.range 8).foldl (fun (acc : List Byte × State) j =>
    match (l.reads.find? fun r => r.elem == 8 * i + j).bind fun r => r.reply with
    | some (true, w) => (acc.1 ++ leBytes 8 w.toNat, acc.2)
    | _ => let (w, s) := acc.2.draw; (acc.1 ++ leBytes 8 w.toNat, s)) ([], s)
  (Line.ofBytes bs, s)

/-- Sum of the hashes of listed sectors (06 R281). -/
def State.sumHashes (s : State) (l : Launch) : List ((Nat × Nat) × Nat) → Word → Word × State
  | [], acc => (acc, s)
  | ((va, pa), i) :: r, acc =>
    let (data, s) := if pa < 2 ^ 48 then (s.mem.sector (pa / 64), s) else s.farSector l i
    s.sumHashes l r (acc + sectorHash (BitVec.ofNat 64 va) data)

/-- DIGEST_COMPUTE: value and kind of a launch's digest at its completion (06 R281, R283). -/
def State.digestOf (s : State) (l : Launch) : Word × BitVec 3 × State :=
  if !l.info.det || !l.placed then (0, 0, s)
  else if l.dslot.isNone then (0, 3, s)
  else if l.dover then (0, 2, s)
  else
    let (v, s) := s.sumHashes l l.listed.zipIdx 0
    (v, 1, s)

/-! What a launch or a gang gives back. -/

/-- The slots that a hart takes: its own, and its shadow's under PAIR (04 R175). -/
def LaunchRec.slotsOf (r : LaunchRec) (slot : Nat) : List Nat := if r.pair then [slot, slot + 16] else [slot]

/-- The slots of a gang. -/
def Launch.gangSlotsOf (l : Launch) (g : Gang) : List Nat := g.slots.flatMap fun x => l.info.slotsOf x.2

/-- Harts leave their slots: lane groups, contexts, turns, and on cores where the launch has none left its scratchpad
(04 R155, R162). -/
def State.vacate (s : State) (serial : Word) (slots : List Nat) : State :=
  let s := slots.foldl State.releaseLanes s
  let harts := s.harts.filter fun kv => !(slots.contains kv.1 && kv.2.serial == serial)
  let gone := fun (a : Act) => match a with
    | .stream (.stream slot _) => slots.contains slot
    | _ => false
  let stays := fun (core : Nat) => harts.any fun kv => kv.2.serial == serial && coreOf kv.1 == core
  let cores := s.cores.map fun (kv : Nat × Core) =>
    if slots.any (fun j => coreOf j == kv.1) && !stays kv.1 then
      (kv.1, { kv.2 with scratch := kv.2.scratch.filter fun x => x.serial != serial })
    else kv
  { s with harts, cores, order := s.order.filter fun a => !gone a }

/-- Cores whose write-combining buffers hold writes of a launch. -/
def State.bufferedOn (s : State) (serial : Word) : List Nat :=
  (s.cores.filter fun kv => kv.2.wcb.any fun e => e.parts.any fun p => p.serial == serial).map fun kv => kv.1

/-- The write-combining buffers that hold a launch's writes drain, as far as budgets let them (04 R155, 06 R275). -/
def State.drainLaunch (s : State) (serial : Word) : State :=
  (s.bufferedOn serial).foldl (fun s c => s.drainSome c (s.drainable c (s.core c).wcb.length)) s

/-- Everything that a launch holds returns to the free pools: tags, ended without a commit, arrays, programs, pins, the
clock lock, the digest slot, harts, cards (04 R155; 10 R430; 11 R459; 12 R516; 13 R538; 14 R566; 06 R281). The package
remembers 256 ended launches for their energy counters (14 R563). -/
def State.freeLaunch (s : State) (l : Launch) : State :=
  let tags := (s.ov.holder.filter fun kv => kv.2 == l.serial).map fun kv => kv.1
  let s := tags.foldl (fun (s : State) n => (s.endTag l.serial n false none).2) s
  let s := (s.harts.filter fun kv => kv.2.serial == l.serial).foldl (fun (s : State) kv => s.detachHart kv.1) s
  let s := s.vacate l.serial ((s.harts.filter fun kv => kv.2.serial == l.serial).map fun kv => kv.1)
  let s := { s with
    arrays := s.arrays.map fun (kv : Nat × MArray) => if kv.2.holder = some l.serial then (kv.1, MArray.blank) else kv
    gz := s.gz.unpinAll l.serial
    mem := { s.mem with
      rounds := s.mem.rounds.filter fun r => r.serial != l.serial
      dgowner := s.mem.dgowner.filter fun kv => kv.2 != l.serial } }
  let s := (s.freeProgs l).dropLock l.serial
  let ended := fun (m : Launch) => if m.serial == l.serial && m.phase != .done then
    { m with phase := .done, groups := [], waiters := [], dslot := none, dlist := []
             gangs := m.gangs.map fun (g : Gang) =>
               { g with st := .done, slots := [], saved := [], savedScratch := [], savedArrays := [], images := [] } } else m
  let launches := s.la.launches.map ended
  let old := (launches.filter fun m => m.phase == .done).length - 256
  let keep := ((launches.filter fun m => m.phase == .done).drop old)
  s.setLa { s.la with
    launches := (launches.filter fun m => m.phase != .done) ++ keep
    cards := s.la.cards.filter fun c => c.serial != l.serial
    arrivals := s.la.arrivals.filter fun a => a.serial != l.serial
    admissions := if l.info.pod then s.la.admissions.filter fun a => a.1 != l.info.podid else s.la.admissions }

/-! LAUNCH_COMPLETE (04 R154..R156). -/

/-- Has a hart halted, with nothing logged and no train unanswered? -/
def Hart.finished (h : Hart) : Bool :=
  !h.sa.live && !h.sx.live && h.sideLog.isEmpty && h.trains.all fun t => t.failed

/-- Have all harts of a gang finished? -/
def State.gangFinished (s : State) (g : Gang) : Bool :=
  match g.st with
  | .resident => g.slots.all fun x => (s.hart x.2).finished
  | .preempted => g.saved.all fun ih => ih.2.finished
  | .done => true
  | .unplaced => false

/-- May a launch complete: normally, or once its cards have completed after it was stopped? -/
def State.completes (s : State) (l : Launch) : Bool :=
  (s.la.cards.all fun c => c.serial != l.serial || c.completed.isSome) &&
    (l.cancelled ||
      ((l.phase == .running || (l.phase == .eligible && l.gangs.isEmpty)) && (l.gangs.all s.gangFinished)
        && !(s.mem.rounds.any fun r => r.serial == l.serial)))

/-- LEND: the last harts of a launch that had started have gone (14 R558). -/
def State.traceEnd (s : State) (l : Launch) : State :=
  if l.begun then s.traceRecord l.home 0xFFFF 7 0 false 0 0 l.name else s

/-- A launch's resources return, and COMPLETE is posted (04 R155, 06 R282). -/
def State.finish (s : State) (l : Launch) : State :=
  let s := (s.traceEnd l).freeLaunch l
  let s := s.setMem { s.mem with
    digests := ((l.name, l.digest.1, l.digest.2) :: s.mem.digests.filter fun e => e.1 != l.name).take 256 }
  (s.settleRing l).postLaunch l 4 l.cancelled.toNat (leBytes 8 l.digest.1.toNat ++ leBytes 1 l.digest.2.toNat)

/-- The launch's writes are released, and its digest is begun (04 R155, 06 R281). -/
def State.beginEnd (s : State) (l : Launch) : State :=
  let s := s.drainLaunch l.serial
  if !(s.bufferedOn l.serial).isEmpty then s
  else
    let s := s.setMem s.mem.dropStale
    s.readListed ((s.launch? l.serial).getD l)

/-- The digest is computed once every listed sector has been read; then the trigger add is made (04 R154, 06 R281). -/
def State.endDigest (s : State) (l : Launch) : State :=
  if l.stage = 1 && l.reads.all fun r => r.reply.isSome then
    let (v, kind, s) := s.digestOf l
    (s.updLaunch l.serial fun l => { l with stage := 2, digest := (v, kind), reads := [] }).triggerAdd l.serial
  else s

/-- The completion add follows the trigger add (04 R154). -/
def State.endTrigger (s : State) (l : Launch) : State :=
  if l.stage = 2 && l.adds.isEmpty then (s.updLaunch l.serial fun l => { l with stage := 3 }).signalAdd l l.info.siginc 3 else s

/-- The launch has completed once its adds have performed (04 R155). -/
def State.endSignal (s : State) (l : Launch) : State := if l.stage = 3 && l.adds.isEmpty then s.finish l else s

/-- A step of a launch's end, while it has not ended. -/
def State.onLaunch (s : State) (serial : Word) (f : State → Launch → State) : State :=
  match s.launch? serial with
  | some l => f s l
  | none => s

/-- A launch completes: its writes are released, its digest is taken, the adds are made, its resources return, COMPLETE
is posted (04 R155, R156; 06 R281, R282), each when the one before it is done. One that was stopped makes no add and has no
digest. -/
def State.complete (s : State) (l : Launch) : State :=
  let s := s.drainLaunch l.serial
  if l.cancelled then s.finish { (s.launch? l.serial).getD l with digest := (0, 0) }
  else
    let s := if l.stage = 0 then s.beginEnd l else s
    (((s.onLaunch l.serial State.endDigest).onLaunch l.serial State.endTrigger).onLaunch l.serial State.endSignal)

/-- LAUNCH_COMPLETE (04 R155, R156). -/
def execLaunchComplete (serial : Word) (s : State) : Host.Outcome State Fault Refusal :=
  match s.launch? serial with
  | none => .next s
  | some l => .next (if l.stage != 0 || s.completes l then s.complete l else s)

/-- CANCEL_WRITE: the unfinished launch that a serial names is stopped; other serials are ignored (04 R173, R174). -/
def execCancelWrite (serial : Word) (s : State) : Host.Outcome State Fault Refusal :=
  match s.named? serial with
  | none => .next s
  | some l => .next (if l.cancelled then s else ((s.cancel l.serial).dropLock l.serial).settleRing l)

/-- PREEMPT_WRITE: the resident gangs of a launch are to go (04 R173). -/
def execPreemptWrite (serial : Word) (s : State) : Host.Outcome State Fault Refusal :=
  match s.named? serial with
  | none => .next s
  | some l =>
    .next (if l.phase == .running then
        s.askPreempt ((l.gangs.filter fun g => g.st == .resident).map fun g => (l.serial, g)) else s)

/-! GANG_PREEMPT (04 R167..R172; 11 R472). -/

/-- The instruction that waits part-way in a stream. -/
noncomputable def Stream.inHand? (st : Stream) : Option Instr :=
  match st.line with
  | some (_, l) => decode (slotWord l (st.pc.toNat % 5))
  | none => none

/-- Is an instruction one that changes lines of a tile buffer one by one (11 R469)? -/
def setsLines : Instr → Bool
  | .mlineEmpty _ _ _ | .mlineFull _ _ _ => true
  | _ => false

/-- Is a stream at a pre-emption point: at a boundary, at a wait, or between element groups? An instruction that waits on a
fault record is abandoned. A scalar access with a request under way is not stopped inside, nor is a vector store that names
a vector queue, nor an MLINE between two lines (04 R167; 08 R346, R347; 06 R259, R267; 11 R469). -/
noncomputable def Hart.stoppable (h : Hart) (isX : Bool) : Bool :=
  let st := h.stream isX
  !st.live || st.faultWait.isSome ||
    (if (h.ownEntry? isX).isSome then
        !((st.storing.any (fun p => p.vec && !p.perf.isEmpty) && st.inHand?.any namesVq) ||
          (st.stage != 0 && st.inHand?.any setsLines))
      else st.reads.isEmpty)

/-- A stream as the image keeps it: a wait ends, and an instruction that waits is abandoned, to be executed again as it was
issued; one that has stopped between element groups goes on at vstart (04 R167, R168, R172; 05 R237). -/
def Stream.park (st : Stream) (vstart : Option (BitVec 13)) : Stream :=
  { st with
    waiting := none
    blocked := none
    faultWait := none
    captured := st.captured.map fun c => { c with vstart := vstart.getD c.vstart }
    storing := none
    line := none
    stripBody := []
    copied := []
    reads := []
    targetFault := st.declined.isSome && st.targetFault
    yielded := false }

/-- Where a vector store that has performed elements goes on: the first not performed or logged (06 R267). -/
def Stream.stopAt (st : Stream) : Option (BitVec 13) :=
  match st.storing with
  | some p => if p.vec && !p.perf.isEmpty then p.left.min?.map (BitVec.ofNat 13) else none
  | none => none

/-- A hart as the image keeps it: earlier instructions are complete, no lane group, no instruction in flight, clean registers,
logged entries that are to translate again (04 R168..R171; 06 R267; 09 R386). -/
def Hart.park (h : Hart) : Hart :=
  let h := h.commitDone
  { h with
    sa := h.sa.park h.sa.stopAt
    sx := h.sx.park h.sx.stopAt
    lanes := 0
    vdirty := 0
    vhw := []
    inflight := []
    vfault := none
    vstart := (h.sx.stopAt.orElse fun _ => h.sa.stopAt).getD h.vstart
    sideLog := h.sideLog.map fun e => { e with fault := none } }

/-- Is every stream of a hart at a pre-emption point? -/
noncomputable def Hart.atPoint (h : Hart) : Bool := h.stoppable false && h.stoppable true

/-- A vector store stops between element groups: what it has performed below vstart enters the store hash, and its trains go
(04 R168, R176; 07 R305). -/
def State.stopStore (slot : Nat) (s : State) (isX : Bool) : State :=
  let st := (s.hart slot).stream isX
  match st.storing, st.stopAt with
  | some p, some v =>
    let below := { p with
      perf := p.perf.filter fun e => e.elem < v.toNat
      remote := p.remote.filter fun e => e.elem < v.toNat }
    match settle below { s with cur := .stream slot isX } with
    | .ok _ t => { t with cur := s.cur }
    | .error _ _ => s
  | _, _ => s

/-! Context images (04 R170, R171). -/

/-- Magic and version of an image's header. -/
def imageMagic : Nat := 0x4C414E43
def imageVersion : Nat := 1

/-- The hart section's part of a context. -/
def Hart.plain (h : Hart) : Hart :=
  { h with sa := Stream.blank, sx := Stream.blank, v := [], k := [], mstack := [], q := [], vq := [], bqa := [], bqx := []
           sideLog := [] }

/-- Do two images of a hart agree on a section? -/
def Image.same (a b : Image) : Section → Bool
  | .header => false
  | .streamA => a.ctx.sa == b.ctx.sa
  | .streamX => a.ctx.sx == b.ctx.sx
  | .hart => a.ctx.plain == b.ctx.plain
  | .masks => a.ctx.k == b.ctx.k && a.ctx.mstack == b.ctx.mstack
  | .queues => a.ctx.q == b.ctx.q && a.ctx.vq == b.ctx.vq && a.ctx.bqa == b.ctx.bqa && a.ctx.bqx == b.ctx.bqx
  | .vregs => a.ctx.v == b.ctx.v
  | .sideLog => a.ctx.sideLog == b.ctx.sideLog
  | .cards => a.cards == b.cards
  | .matrix => a.arrays == b.arrays

/-- The sections that an image holds: those with contents. -/
def Image.sections (m : Image) : List Section :=
  [.header, .streamA, .streamX, .hart, .masks, .queues] ++ (if m.ctx.v.isEmpty then [] else [.vregs])
    ++ (if m.ctx.sideLog.isEmpty then [] else [.sideLog]) ++ (if m.cards.isEmpty then [] else [.cards])
    ++ (if m.arrays.isEmpty then [] else [.matrix])

/-- Bytes of a section, as the table of 04 R170 gives them; a vector register's are those up to its highest byte written
(08 R337), and the matrix section's are the matrix engine's own. -/
def Image.size (m : Image) (vdirty : Word) (bytes : Nat → Nat) : Section → Nat
  | .header => 64
  | .streamA => 704
  | .streamX => 704
  | .hart => 768
  | .masks => 2816
  | .queues => 13440
  | .vregs => ((List.range 64).map fun j => if vdirty.getLsbD j then bytes j else 0).sum
  | .sideLog => 4608
  | .cards => 8 * m.cards.length
  | .matrix => 0

/-- The image written for a hart over the one that its save area holds: a section that has not changed is not written again
(04 R170). -/
def Image.over (old : Option Image) (m : Image) : Image :=
  { m with
    present := m.sections
    seq := (old.map fun o => o.seq + 1).getD 0
    written := m.sections.filter fun x => !(old.any fun o => o.present.contains x && m.same o x) }

/-- The images of a gang's harts at a pre-emption (04 R170). -/
def State.imagesOf (s : State) (l : Launch) (g : Gang) : List (Nat × Image) :=
  let cards := (s.la.cards.filter fun c => c.serial == l.serial && c.completed.isNone).map fun c => c.handle
  g.slots.map fun x =>
    let arrays := (s.arrays.filter fun kv => kv.2.attached.any fun t => t.1 == x.2)
    let m : Image := ⟨l.name, x.1, [], 0, [], (s.hart x.2).park, cards, arrays⟩
    (x.1, Image.over ((g.images.find? fun i => i.1 == x.1).map fun i => i.2) m)

/-- An array with what belongs to some slots only. -/
def MArray.only (a : MArray) (slots : List Nat) : MArray :=
  { a with
    attached := a.attached.filter fun t => slots.contains t.1
    acc := a.acc.filter fun kv => slots.contains (kv.1 / 32768)
    intRows := a.intRows.filter fun r => slots.contains (r / 128)
    queue := a.queue.filter fun c => slots.contains c.hart }

/-- An array without what belongs to some slots; held by none when nobody is left. -/
def MArray.without (a : MArray) (slots : List Nat) : MArray :=
  let keep := a.attached.filter fun t => !slots.contains t.1
  if keep.isEmpty then MArray.blank
  else
    { a with
      attached := keep
      acc := a.acc.filter fun kv => !slots.contains (kv.1 / 32768)
      intRows := a.intRows.filter fun r => !slots.contains (r / 128)
      queue := a.queue.filter fun c => !slots.contains c.hart }

/-- May a gang be pre-empted now: asked for, every hart at a point, no open card with a local window on its cores
(04 R167, R169)? -/
noncomputable def State.mayPreempt (s : State) (l : Launch) (g : Gang) : Bool :=
  g.asked && g.st == .resident && l.phase == .running
    && (g.slots.all fun x => (s.hart x.2).atPoint)
    && ((l.gangSlotsOf g).map coreOf).all s.drains
    && !(s.la.cards.any fun c => c.serial == l.serial && c.completed.isNone
      && (l.gangSlotsOf g).any fun slot => c.onCore (coreOf slot))

/-- Records and walks no longer name the parties of some slots. -/
def MemSys.forget (m : MemSys) (slots : List Nat) : MemSys :=
  let mine := fun (a : Agent) => match a with
    | .stream p => !Party.isDatum p && slots.contains (Party.slot p)
    | .sideLog slot _ => slots.contains slot
    | .job _ _ => false
    | .host _ => false
  { m with
    faults := m.faults.map fun (f : FaultRec) => { f with waiters := f.waiters.filter fun w => !mine w.1 }
    walks := m.walks.filter fun w => !mine w.agent }

/-- Marker of a group entry whose hart is not resident. -/
def awaySlot (idx : Nat) : Nat := 4096 + idx

/-- GANG_PREEMPT: once every hart is at a pre-emption point, the gang's context is saved and its places are free; the
PREEMPTED event names its lowest hart (04 R167..R174). -/
def State.preempt (s : State) (l : Launch) (g : Gang) : State :=
  let slots := l.gangSlotsOf g
  let own := g.slots.map fun x => x.2
  let s := own.foldl (fun s slot => [false, true].foldl (State.stopStore slot) s) s
  let s := ((slots.map coreOf).dedup).foldl State.drainCore s
  let images := s.imagesOf l g
  let saved := g.slots.map fun x => (x.1, (s.hart x.2).park)
  let pads := ((slots.map coreOf).dedup).filterMap fun core =>
    ((s.core core).scratch? l.serial).map fun x => (core, { x with dirty := [] })
  let used := s.arrays.filter fun kv => kv.2.attached.any fun t => own.contains t.1
  let away := fun (e : GroupEntry) => match g.slots.find? fun x => x.2 == e.hart with
    | some x => { e with hart := awaySlot x.1 }
    | none => e
  let s := { s with
    mem := s.mem.forget slots
    arrays := s.arrays.map fun (kv : Nat × MArray) =>
      if kv.2.attached.any fun t => slots.contains t.1 then (kv.1, kv.2.without slots) else kv }
  let s := s.vacate l.serial slots
  let s := s.updLaunch l.serial fun l =>
    { l with
      waiters := l.waiters.filter fun w => !own.contains w.1
      groups := l.groups.map fun kv => (kv.1, away kv.2)
      gangs := l.gangs.map fun (x : Gang) =>
        if x.index == g.index then
          { x with st := .preempted, asked := false, saved, images, savedScratch := pads
                   savedArrays := used.map fun kv => (kv.1, kv.2.only own) }
        else x }
  s.postLaunch l 5 g.first []

/-- GANG_PREEMPT (04 R167). -/
noncomputable def execGangPreempt (serial : Word) (gang : Nat) (s : State) : Host.Outcome State Fault Refusal :=
  match s.launch? serial with
  | none => .next s
  | some l =>
    match l.gangs.find? fun g => g.index == gang with
    | none => .next s
    | some g => .next (if s.mayPreempt l g then s.preempt l g else s)

/-! GANG_RESUME (04 R158, R172; 11 R472). -/

/-- Cores by multiples of which a gang may move: it keeps its harts' relative positions (04 R158). -/
def LaunchRec.moveUnit (r : LaunchRec) : Nat :=
  let u := match r.topDom with
    | 0 => 1
    | 1 => 1
    | 2 => 4
    | 3 => 4
    | 4 => 8
    | 5 => 128
    | _ => 512
  if r.pair then max u 8 else u

/-- Slots for harts moved to given cores: each takes the lowest usable slot of its new core. -/
def State.moveHarts (s : State) (l : Launch) (to_ : Nat → Nat) :
    List (Nat × Nat) → List Nat → Option (List (Nat × Nat))
  | [], _ => some []
  | x :: r, taken =>
    match (coreSlots (to_ (coreOf x.2))).find? fun j => s.slotUsable l taken j with
    | none => none
    | some j => (s.moveHarts l to_ r (taken ++ [j])).map fun t => (x.1, j) :: t

/-- The array that takes a saved one: the array of the same place beside a hart that is attached to it. -/
def movedArray (olds news : List (Nat × Nat)) (a : Nat) (m : MArray) : Nat :=
  match m.attached with
  | [] => a
  | (slot, _, pair) :: _ =>
    match (olds.zip news).find? fun p => p.1.2 == slot with
    | none => a
    | some p => if pair then ownArray p.2.2 / 2 * 2 + a % 2 else ownArray p.2.2

/-- Are the moved harts' registers, scratchpads and arrays to be had at their new places? -/
def State.moveFits (s : State) (l : Launch) (g : Gang) (news : List (Nat × Nat)) : Bool :=
  let regs := fun (core : Nat) => ((news.filter fun x => coreOf x.2 == core).map fun x =>
    (g.saved.find? fun ih => ih.1 == x.1).elim 0 fun ih => ih.2.allot.toNat).sum
  (news.all fun x => decide (regs (coreOf x.2) ≤ s.freeRegs (coreOf x.2)))
    && ((g.slots.zip news).all fun p =>
      coreOf p.1.2 == coreOf p.2.2 || l.info.ways == 0 || ((s.core (coreOf p.2.2)).scratch? l.serial).isNone)
    && (g.savedArrays.all fun am =>
      let a := s.array (movedArray g.slots news am.1 am.2)
      (a.holder.isNone || a.holder == some l.serial)
        && decide ((am.2.attached.map fun t => t.2.1).sum ≤ a.freeRows))

/-- Places for a pre-empted gang: the first by which it keeps its relative positions; a gang of a quadrant or wider may
else take any places of its shape whose harts stay together by core (04 R158, R172). -/
def State.resumeSlots (s : State) (l : Launch) (g : Gang) : Option (List (Nat × Nat)) :=
  let u := l.info.moveUnit
  let base := alignDown ((g.slots.map fun x => coreOf x.2).foldl min 512) u
  let shifted := (List.range (512 / u)).findSome? fun k =>
    (s.moveHarts l (fun c => c - base + u * k) g.slots []).filter (s.moveFits l g)
  match if s.launchFits l then shifted else none with
  | some n => some n
  | none =>
    if u < 128 then none
    else ((s.gangSlots l).map fun slots => (g.slots.map fun x => x.1).zip slots).filter fun news =>
      s.moveFits l g news && (g.slots.zip news).all fun p => (g.slots.zip news).all fun q =>
        (coreOf p.1.2 == coreOf q.1.2) == (coreOf p.2.2 == coreOf q.2.2)

/-- A saved array's rows by their new slots. -/
def MArray.moved (m : MArray) (to_ : Nat → Nat) : MArray :=
  { m with
    attached := m.attached.map fun t => (to_ t.1, t.2)
    acc := m.acc.foldl (fun acc kv => acc.put (to_ (kv.1 / 32768) * 32768 + kv.1 % 32768) kv.2) []
    intRows := m.intRows.map fun r => to_ (r / 128) * 128 + r % 128
    queue := m.queue.map fun c => { c with hart := to_ c.hart } }

/-- A saved array comes back: the whole of it to a free array, its harts' rows to one that the launch still holds. -/
def State.restoreArray (s : State) (n : Nat) (m : MArray) : State :=
  let a := s.array n
  if a.holder.isNone then s.setArray n m
  else s.setArray n { a with
    attached := a.attached ++ m.attached
    acc := m.acc.foldl (fun acc kv => acc.put kv.1 kv.2) a.acc
    intRows := a.intRows ++ m.intRows
    queue := a.queue ++ m.queue }

/-- A saved hart takes its new slot; its streams join the order of turns, a pending lane claim stands again. -/
def State.reseat (s : State) (l : Launch) (h : Hart) (slot : Nat) : State :=
  let s := s.setHart slot { h with claim := 0 }
  let s := if l.info.pair then
      s.setHart (slot + 16) { startHart l.info l.serial s.la.tvecdef h.index false true with allot := h.allot } else s
  let s := if h.claim = 0 then s else s.setClaim slot h.claim
  let acts := (if h.sa.live then [Act.stream (.stream slot false)] else [])
    ++ (if h.sx.live then [Act.stream (.stream slot true)] else [])
  { s with order := s.order ++ acts }

/-- GANG_RESUME: the gang stands at its new places with the context it had (04 R171, R172, R174). -/
def State.resume (s : State) (l : Launch) (g : Gang) (news : List (Nat × Nat)) : State :=
  let moves := g.slots.zip news
  let to_ := fun (slot : Nat) => (moves.find? fun p => p.1.2 == slot).elim slot fun p => p.2.2
  let s := news.foldl (fun (s : State) x => match g.saved.find? fun ih => ih.1 == x.1 with
    | some ih => s.reseat l ih.2 x.2
    | none => s) s
  let pads := moves.flatMap fun p => (l.info.slotsOf p.1.2).zip (l.info.slotsOf p.2.2)
  let s := pads.foldl (fun (s : State) p =>
    let k := s.core (coreOf p.2)
    if (k.scratch? l.serial).isSome then s
    else match g.savedScratch.find? fun cs => cs.1 == coreOf p.1 with
      | some cs => s.setCore (coreOf p.2) { k with scratch := k.scratch ++ [cs.2] }
      | none => s) s
  let s := g.savedArrays.foldl (fun (s : State) am =>
    s.restoreArray (movedArray g.slots news am.1 am.2) (am.2.moved to_)) s
  let back := fun (e : GroupEntry) => match news.find? fun x => awaySlot x.1 == e.hart with
    | some x => { e with hart := x.2 }
    | none => e
  let s := s.updLaunch l.serial fun l =>
    { l with
      groups := l.groups.map fun kv => (kv.1, back kv.2)
      gangs := l.gangs.map fun (x : Gang) =>
        if x.index == g.index then
          { x with st := .resident, slots := news, saved := [], savedScratch := [], savedArrays := [], placedAt := s.la.placeCount }
        else x }
  (s.setLa { s.la with placeCount := s.la.placeCount + 1 }).postLaunch l 6 g.first []

/-- GANG_RESUME: a pre-empted gang is placed again when its places are free and no launch goes before it (04 R147,
R172; 07 R309). -/
def execGangResume (serial : Word) (gang : Nat) (s : State) : Host.Outcome State Fault Refusal :=
  match s.launch? serial with
  | none => .next s
  | some l =>
    match l.gangs.find? fun g => g.index == gang with
    | none => .next s
    | some g =>
      if g.st != .preempted || l.phase != .running || s.givesWay l || s.roundWaits l then .next s
      else match s.resumeSlots l g with
        | none => .next s
        | some news => .next (s.resume l g news)

/-! LAUNCH_PLACE. -/

/-- The finished gangs of a launch whose cores no open card of it uses: they may make room for its next gangs. -/
def State.spentGangs (s : State) (l : Launch) : List Gang :=
  l.gangs.filter fun g => g.st == .resident && s.gangFinished g
    && !(s.mem.rounds.any fun r => r.serial == l.serial && g.slots.any fun x => x.1 == r.hartIndex)
    && !(s.la.cards.any fun c => c.serial == l.serial && c.completed.isNone
      && (l.gangSlotsOf g).any fun slot => c.onCore (coreOf slot))

/-- The package with the finished gangs of a launch gone (04 R157). -/
def State.retireGangs (s : State) (l : Launch) : State :=
  (s.spentGangs l).foldl (fun (s : State) g =>
    let slots := l.gangSlotsOf g
    let s := ((slots.map coreOf).dedup).foldl (fun s c => s.drainSome c (s.drainable c (s.core c).wcb.length)) s
    (s.vacate l.serial slots).updLaunch l.serial fun l =>
      { l with gangs := l.gangs.map fun (x : Gang) => if x.index == g.index then { x with st := .done, slots := [] } else x }) s

/-- Gangs of a DET launch that wait for a round, as few as let its next gang fit (07 R309). -/
def State.roundVictims (s : State) (l : Launch) : List (Word × Gang) :=
  let vs := (l.gangs.filter fun g => g.st == .resident && s.mem.rounds.any fun r =>
    r.serial == l.serial && g.slots.any fun x => x.1 == r.hartIndex).map fun g => (l.serial, g)
  match (List.range (vs.length + 1)).find? fun n => nextFits l ((vs.take n).foldl State.without s) with
  | some n => vs.take n
  | none => []

/-- LAUNCH_PLACE (04 R147, R156, R157, R160): the launch's next gangs are placed; a launch without harts completes; when
none fits, finished gangs of the launch make room, or the gangs it may pre-empt are asked to go. -/
def execLaunchPlace (serial : Word) (s : State) : Host.Outcome State Fault Refusal :=
  match s.launch? serial with
  | none => .next s
  | some l =>
    if l.gangs.isEmpty && l.phase == .eligible then .next (if s.completes l then s.complete l else s)
    else if !l.wantsPlace || s.givesWay l then .next s
    else
      let place := fun (s : State) =>
        let todo := (l.gangs.filter fun g => g.st == .unplaced).map fun g => g.index
        ((s.placeGangs serial todo).ringServed l).admitSelf serial
      let freed := s.retireGangs l
      if nextFits l s then .next (place s)
      else if (freed.launch? serial).any fun m => nextFits m freed then .next (place freed)
      else if s.roundWaits l then .next (s.askPreempt (s.roundVictims l))
      else match s.toPreempt l (nextFits l) with
        | none => .next s
        | some vs => .next (s.askPreempt vs)

end Sys2Proof.Machine
end

