-- ==== Sys2Proof/Machine/Mmio.lean ====
section
/-! DEFINITION. The launch engine's MMIO window as the host, the board controller and the datum core reach it
(00 R8; 04 R142, R143, R173, R178, R182; 05 R192; 06 R286, R292; 10 R421; 12 R512; 13 R528; 14 R557, R563, R564, R567;
15 R582, R600..R607). -/

namespace Sys2Proof.Machine

open Sys2Proof

/-- Who writes a register. -/
inductive Writer
  | host | board | datum
  deriving DecidableEq, Repr

/-- A control word whose LOGN at [6:2] reads back 4 outside 4 .. top; bits from `width` on are zero. -/
def logCtl (width top : Nat) (v : Word) : Word :=
  let n := v.toNat % 2 ^ width
  let logn := fieldOf n 2 5
  BitVec.ofNat 64 (if 4 ≤ logn ∧ logn ≤ top then n else n - logn * 4 + 16)

/-- A word without its low n bits. -/
def dropLow (n : Nat) (v : Word) : Word := (v >>> n) <<< n

/-! Reads. -/

/-- The launch that ENSER names: one that has not ended, or the last of its serial that has (14 R563). -/
def State.energyLaunch (s : State) : Option Launch :=
  match s.named? s.sv.enser with
  | some l => some l
  | none => (s.la.launches.filter fun l => l.name == s.sv.enser && l.phase == .done).getLast?

/-- Registers at 0x0000..0x0FFF (04 R142, R143). -/
def Ring.readReg (r : Ring) (o : Nat) : Word :=
  match o with
  | 0x00 => r.rbase
  | 0x08 => r.rctl
  | 0x10 => r.rptr
  | 0x18 => r.wptr
  | 0x20 => BitVec.ofNat 64 (r.overrun.toNat + 2 * r.halted.toNat + 4 * r.backstep.toNat)
  | _ => 0

/-- Registers of an event queue (04 R178). -/
def EventQueue.readReg (e : EventQueue) (o : Nat) : Word :=
  match o with
  | 0x00 => e.ebase
  | 0x08 => e.ectl.setWidth 64
  | 0x10 => e.wptr
  | 0x18 => e.rptr
  | _ => 0

/-- Registers of a quadrant's fault queue (06 R286). -/
def State.readFaultReg (s : State) (q o : Nat) : Word :=
  let f := s.faultQueue q
  match o with
  | 0x00 => f.base
  | 0x08 => f.ctl.setWidth 64
  | 0x10 => f.wptr
  | 0x18 => f.rptr
  | 0x28 => s.mem.ecnt.get q 0
  | _ => 0

/-- Registers of a trace ring (14 R557). -/
def TraceRing.readReg (t : TraceRing) (o : Nat) : Word :=
  match o with
  | 0x00 => t.base
  | 0x08 => t.ctl
  | 0x10 => t.wptr
  | 0x18 => t.rptr
  | _ => 0

/-- Registers at 0x5000..0x5028 (10 R421). -/
def State.readOverlayReg (s : State) (o : Nat) : Word :=
  match o with
  | 0x00 => s.ov.abase
  | 0x08 => s.ov.asize
  | 0x10 => s.ov.gser
  | 0x20 => BitVec.ofNat 64 (s.ov.gbusy.toNat + 2 * s.ov.gfailed.toNat)
  | 0x28 => BitVec.ofNat 64 s.tagsLeft
  | _ => 0

/-- Registers at 0x5300..0x5327 (13 R528). -/
def GzSys.readReg (g : GzSys) (o : Nat) : Word :=
  match o with
  | 0x00 => g.dbase
  | 0x10 => BitVec.ofNat 64 g.dbusy.toNat
  | 0x20 => g.pres
  | _ => 0

/-- Registers at 0x5480..0x54AF (14 R564, R567). -/
def SvSys.readReg (v : SvSys) (o : Nat) : Word :=
  match o with
  | 0x80 => v.rlbase
  | 0x88 => v.rlctl
  | 0x90 => v.rlwptr
  | 0x98 => v.rlrptr
  | 0xA8 => BitVec.ofNat 64 ((v.stopAt.isSome && !v.stopped).toNat + 2 * v.stopped.toNat)
  | _ => 0

/-- DMSTAT (15 R606). -/
def DcSys.dmstat (d : DcSys) : Word :=
  BitVec.ofNat 64 (d.lc.toNat + 8 * d.dunlk.toNat + 64 * d.fwok.toNat + 128 * d.fwfail.toNat)

/-- PSTAT (15 R606). -/
def State.pstat (s : State) : Word :=
  BitVec.ofNat 64 (s.sv.point.val + 8 * s.dc.thermal.val + 64 * s.dc.power.val + 2 ^ 16 * s.dc.meanPower.toNat)

/-- Registers at 0xB000..0xB07F (15 R600..R606). -/
def State.readDatumReg (s : State) (o : Nat) : Word :=
  if 0x40 ≤ o ∧ o < 0x80 then s.dc.cdis.get ((o - 0x40) / 8) 0
  else match o with
    | 0x00 => s.dc.dmstat
    | 0x08 => s.dc.ready.setWidth 64
    | 0x10 => s.dc.dmctl
    | 0x18 => BitVec.ofNat 64 s.dc.pcap.val
    | 0x20 => s.pstat
    | 0x28 => s.dc.temps.setWidth 64
    | 0x30 => s.dc.dwin
    | _ => 0

/-- An 8-byte read of the window: offsets without a register, write-only registers and offsets that are no multiple of
8 read zero (00 R8). -/
def State.readMmio (s : State) (off : Nat) : Word :=
  if off % 8 ≠ 0 then 0
  else if off < 0x1000 then (s.ring (off / 0x40)).readReg (off % 0x40)
  else if off = 0x1010 then s.la.tvecdef
  else if 0x2000 ≤ off ∧ off < 0x2200 then (s.queue ((off - 0x2000) / 0x20)).readReg (off % 0x20)
  else if 0x4000 ≤ off ∧ off < 0x4100 then s.readFaultReg ((off - 0x4000) / 0x40) (off % 0x40)
  else if off = 0x4100 then s.mem.atbase
  else if off = 0x4110 then BitVec.ofNat 64 s.mem.tlbBusy.toNat
  else if 0x4200 ≤ off ∧ off < 0x4600 then
    if off % 16 = 0 then s.mem.dgbase.get ((off - 0x4200) / 16) 0 else s.mem.dglen.get ((off - 0x4200) / 16) 0
  else if 0x4600 ≤ off ∧ off < 0x4800 then s.mem.budgetOf ((off - 0x4600) / 0x20) (off % 0x20 / 8)
  else if 0x5000 ≤ off ∧ off < 0x5030 then s.readOverlayReg (off - 0x5000)
  else if 0x5100 ≤ off ∧ off < 0x5120 then (s.tv.tvctl.get ((off - 0x5100) / 8) 0).setWidth 64
  else if 0x5200 ≤ off ∧ off < 0x5260 then s.gz.gzctl.get ((off - 0x5200) / 8) 0
  else if 0x5300 ≤ off ∧ off < 0x5328 then s.gz.readReg (off - 0x5300)
  else if 0x5380 ≤ off ∧ off < 0x53E0 then s.gz.age.get ((off - 0x5380) / 8) 0 &&& 0xFFFFF#64
  else if 0x5400 ≤ off ∧ off < 0x5480 then (s.traceRing ((off - 0x5400) / 0x20)).readReg (off % 0x20)
  else if 0x5480 ≤ off ∧ off < 0x54B0 then s.sv.readReg (off - 0x5400)
  else if off = 0x5500 then s.sv.enser
  else if 0x5508 ≤ off ∧ off < 0x5558 then
    match s.energyLaunch with
    | some l => l.energy.get ((off - 0x5508) / 8) 0
    | none => 0
  else if 0xB000 ≤ off ∧ off < 0xB080 then s.readDatumReg (off - 0xB000)
  else if 0xC000 ≤ off ∧ off < 0x10000 then
    BitVec.ofNat 64 (leNat (s.dc.sram.bytes (s.dc.mailbox + (off - 0xC000)) 8))
  else 0

/-! Writes. -/

/-- The state that a register's own event leaves. -/
def State.through (s : State) (f : State → Host.Outcome State Fault Refusal) : State :=
  match f s with
  | .next s => s
  | .fault _ => s
  | .refused _ => s

/-- A ring's registers (04 R142, R143, R145). -/
def State.writeRingReg (s : State) (n : Fin 64) (o : Nat) (v : Word) : State :=
  match o with
  | 0x00 => s.setRing n.val { s.ring n.val with rbase := dropLow 8 v }
  | 0x08 => s.through (execRingReset n v)
  | 0x18 => s.through (execRingWptrWrite n v)
  | _ => s

/-- An event queue's registers (04 R178). -/
def State.writeQueueReg (s : State) (e o : Nat) (v : Word) : State :=
  let q := s.queue e
  let put := fun (q : EventQueue) => s.setLa { s.la with queues := s.la.queues.put e q }
  match o with
  | 0x00 => put { q with ebase := dropLow 6 v }
  | 0x08 => put { q with ectl := (logCtl 7 16 v).setWidth 7, first := q.first || (v.getLsbD 0 && !q.ectl.getLsbD 0) }
  | 0x18 => put { q with rptr := v }
  | _ => s

/-- A fault queue's registers; an FQRESP that names no pending record is ignored; ECNT is cleared by ones (06 R286). -/
def State.writeFaultReg (s : State) (q : Fin 4) (o : Nat) (v : Word) : State :=
  let f := s.faultQueue q.val
  let put := fun (f : FaultQueue) => s.setMem { s.mem with fq := s.mem.fq.put q.val f }
  match o with
  | 0x00 => put { f with base := dropLow 8 v }
  | 0x08 => put { f with ctl := (logCtl 11 16 v).setWidth 11 }
  | 0x18 => put { f with rptr := v }
  | 0x20 => s.through (if v.getLsbD 32 then execFqrespDecline q (v.setWidth 32) else execFqrespRetry q (v.setWidth 32))
  | 0x28 => s.setMem { s.mem with ecnt := s.mem.ecnt.put q.val (s.mem.ecnt.get q.val 0 &&& ~~~v) }
  | _ => s

/-- TLBICMD: kind 3 is ignored (06 R286, R290). -/
def State.writeTlbicmd (s : State) (v : Word) : State :=
  match fieldOf v.toNat 16 2 with
  | 0 => s.through execTlbicmdAll
  | 1 => s.through (execTlbicmdAsid (v.setWidth 16))
  | 2 => s.through (execTlbicmdRange (v.setWidth 16))
  | _ => s

/-- Registers at 0x5000..0x5028 (10 R421). -/
def State.writeOverlayReg (s : State) (o : Nat) (v : Word) : State :=
  match o with
  | 0x00 => { s with ov := { s.ov with abase := v &&& 0xFFFFFFFF0001#64 } }
  | 0x08 => { s with ov := { s.ov with asize := dropLow 16 v } }
  | 0x10 => { s with ov := { s.ov with gser := v } }
  | 0x18 => s.through (execOvgaddWrite v)
  | _ => s

/-- Registers at 0x5300..0x5327: a new directory leaves no engine with an entry of the old one (13 R527, R528). -/
def State.writeGzReg (s : State) (o : Nat) (v : Word) : State :=
  match o with
  | 0x00 => s.setGz { s.gz with dbase := v &&& 0xFFFFFFFFFF81#64, dir := [] }
  | 0x08 => s.through (execGzdsyncWrite v)
  | 0x18 => s.through (execGzprobeWrite v)
  | _ => s

/-- A trace ring's registers (14 R557). -/
def State.writeTraceReg (s : State) (q o : Nat) (v : Word) : State :=
  let t := s.traceRing q
  let put := fun (t : TraceRing) => { s with sv := { s.sv with trace := s.sv.trace.put q t } }
  match o with
  | 0x00 => put { t with base := dropLow 5 v }
  | 0x08 => put { t with ctl := logCtl 27 24 v }
  | 0x18 => put { t with rptr := v }
  | _ => s

/-- Registers at 0x5480..0x54AF; RLRPTR is read-only in replay mode (14 R564, R567). -/
def State.writeSurveyReg (s : State) (o : Nat) (v : Word) : State :=
  match o with
  | 0x80 => { s with sv := { s.sv with rlbase := dropLow 5 v } }
  | 0x88 => s.through (execRlctlWrite v)
  | 0x90 => s.through (execRlwptrSupply v)
  | 0x98 => if s.sv.mode = 2 then s else ({ s with sv := { s.sv with rlrptr := v } } : State).retryInputs
  | 0xA0 => s.through (execSvrunWrite v)
  | 0xA8 => s.through (execSvstatDisarm v)
  | _ => s

/-- Registers at 0xB000..0xB07F: CDIS is the datum core's alone, PCAP over I3C is a board request (15 R600..R607). -/
def State.writeDatumReg (s : State) (w : Writer) (o : Nat) (v : Word) : State :=
  if 0x40 ≤ o ∧ o < 0x80 then (if w = .datum then s.setCdis ((o - 0x40) / 8) v else s)
  else match o with
    | 0x10 => { s with dc := { s.dc with dmctl := v &&& 0xF#64 } }
    | 0x18 => s.through (execPcapWrite (w == .board) v)
    | 0x30 => s.through (execDwinWrite v)
    | 0x38 => s.through (execDmloadWrite v)
    | _ => s

/-- An 8-byte write of the window. Offsets without a register, read-only registers and offsets that are no multiple of 8
ignore it (00 R8). -/
def State.writeMmio (s : State) (w : Writer) (off : Nat) (v : Word) : State :=
  if off % 8 ≠ 0 then s
  else if h : off < 0x1000 then s.writeRingReg ⟨off / 0x40, by omega⟩ (off % 0x40) v
  else if off = 0x1000 then s.through (execPreemptWrite v)
  else if off = 0x1008 then s.through (execCancelWrite v)
  else if off = 0x1010 then (if Config.instrEnd ≤ v.toNat then s else s.setLa { s.la with tvecdef := v })
  else if 0x2000 ≤ off ∧ off < 0x2200 then s.writeQueueReg ((off - 0x2000) / 0x20) (off % 0x20) v
  else if h : 0x4000 ≤ off ∧ off < 0x4100 then s.writeFaultReg ⟨(off - 0x4000) / 0x40, by omega⟩ (off % 0x40) v
  else if off = 0x4100 then s.setMem { s.mem with atbase := v &&& 0xFFFFFFFFF001#64 }
  else if off = 0x4108 then s.writeTlbicmd v
  else if 0x4200 ≤ off ∧ off < 0x4600 then
    let n := (off - 0x4200) / 16
    if off % 16 = 0 then s.setMem { s.mem with dgbase := s.mem.dgbase.put n (dropLow 6 v) }
    else s.setMem { s.mem with dglen := s.mem.dglen.put n v }
  else if 0x4600 ≤ off ∧ off < 0x4800 then s.setMem (s.mem.setBudget ((off - 0x4600) / 0x20) (off % 0x20 / 8) v)
  else if 0x5000 ≤ off ∧ off < 0x5030 then s.writeOverlayReg (off - 0x5000) v
  else if 0x5100 ≤ off ∧ off < 0x5120 then s.setTv { s.tv with tvctl := s.tv.tvctl.put ((off - 0x5100) / 8) (v.setWidth 4) }
  else if 0x5200 ≤ off ∧ off < 0x5260 then s.setGz { s.gz with gzctl := s.gz.gzctl.put ((off - 0x5200) / 8) (v &&& 0xF#64) }
  else if 0x5300 ≤ off ∧ off < 0x5328 then s.writeGzReg (off - 0x5300) v
  else if 0x5400 ≤ off ∧ off < 0x5480 then s.writeTraceReg ((off - 0x5400) / 0x20) (off % 0x20) v
  else if 0x5480 ≤ off ∧ off < 0x54B0 then s.writeSurveyReg (off - 0x5400) v
  else if off = 0x5500 then { s with sv := { s.sv with enser := v } }
  else if 0xB000 ≤ off ∧ off < 0xB080 then s.writeDatumReg w (off - 0xB000) v
  else if 0xC000 ≤ off ∧ off < 0x10000 then
    s.sramStore (w == .datum) (s.dc.mailbox + (off - 0xC000)) (leBytes 8 v.toNat)
  else s

/-- REG_WRITE: an 8-byte MMIO write of the host (00 R8, 04 R182). -/
def execRegWrite (off : BitVec 16) (v : Word) (s : State) : Host.Outcome State Fault Refusal :=
  .next (s.writeMmio .host off.toNat v)

/-- HOST_MRD: an 8-byte MMIO read of the host (04 R182). -/
def execHostMrd (off : BitVec 16) (s : State) : Host.Outcome State Fault Refusal :=
  .next (s.answer (.mrd off (s.readMmio off.toNat)))

/-- Offsets that a private message of the I3C target reaches (15 R607). -/
def i3cReaches (off : Nat) : Bool := decide (0xB000 ≤ off ∧ off < 0xB100) || decide (0xC000 ≤ off)

/-- I3C_PRIVATE_WRITE: a target without a dynamic address, and an offset out of its reach, are not acknowledged
(15 R607). -/
def execI3cPrivateWrite (off : BitVec 16) (v : Word) (s : State) : Host.Outcome State Fault Refusal :=
  .next (if s.dc.i3c.isSome && i3cReaches off.toNat then s.writeMmio .board off.toNat v else s.answer .nack)

/-- I3C_PRIVATE_READ (15 R582, R607). -/
def execI3cPrivateRead (off : BitVec 16) (s : State) : Host.Outcome State Fault Refusal :=
  .next (if i3cReaches off.toNat then s.i3cAnswer (leBytes 8 (s.readMmio off.toNat).toNat) else s.answer .nack)

end Sys2Proof.Machine
end

