-- ==== Sys2Proof/Machine/Scalar.lean ====
section
/-! DEFINITION. Majors 0x10, 0x11 and 0x12: scalar integers, moves, compares and predicates (05 R212..R221). -/

namespace Sys2Proof.Machine

open Sys2Proof

/-! The operations of 05 R213 at width w. -/

/-- ADD: a + b. -/
def aluAdd (w : Nat) (a b : BitVec w) : BitVec w := a + b

/-- SUB: a - b. -/
def aluSub (w : Nat) (a b : BitVec w) : BitVec w := a - b

/-- MUL: the low half of a × b. -/
def aluMul (w : Nat) (a b : BitVec w) : BitVec w := a * b

/-- MULH: the high half of the signed product. -/
def aluMulh (w : Nat) (a b : BitVec w) : BitVec w := ((a.signExtend (w + w) * b.signExtend (w + w)) >>> w).setWidth w

/-- MULHU: the high half of the unsigned product. -/
def aluMulhu (w : Nat) (a b : BitVec w) : BitVec w := ((a.setWidth (w + w) * b.setWidth (w + w)) >>> w).setWidth w

/-- DIV: signed quotient toward zero; division by zero gives -1. -/
def aluDiv (w : Nat) (a b : BitVec w) : BitVec w := if b = 0 then BitVec.allOnes w else a.sdiv b

/-- DIVU: unsigned quotient; division by zero gives all ones. -/
def aluDivu (w : Nat) (a b : BitVec w) : BitVec w := if b = 0 then BitVec.allOnes w else a.udiv b

/-- REM: signed remainder; division by zero gives a. -/
def aluRem (w : Nat) (a b : BitVec w) : BitVec w := if b = 0 then a else a.srem b

/-- REMU: unsigned remainder; division by zero gives a. -/
def aluRemu (w : Nat) (a b : BitVec w) : BitVec w := if b = 0 then a else a.umod b

/-- AND: a AND b. -/
def aluAnd (w : Nat) (a b : BitVec w) : BitVec w := a &&& b

/-- OR: a OR b. -/
def aluOr (w : Nat) (a b : BitVec w) : BitVec w := a ||| b

/-- XOR: a XOR b. -/
def aluXor (w : Nat) (a b : BitVec w) : BitVec w := a ^^^ b

/-- ANDN: a AND NOT b. -/
def aluAndn (w : Nat) (a b : BitVec w) : BitVec w := a &&& ~~~b

/-- SHL: left shift by b mod w. -/
def aluShl (w : Nat) (a b : BitVec w) : BitVec w := a <<< (b.toNat % w)

/-- SHR: logical right shift by b mod w. -/
def aluShr (w : Nat) (a b : BitVec w) : BitVec w := a >>> (b.toNat % w)

/-- SRA: arithmetic right shift by b mod w. -/
def aluSra (w : Nat) (a b : BitVec w) : BitVec w := a.sshiftRight (b.toNat % w)

/-- ROR: rotation right by b mod w. -/
def aluRor (w : Nat) (a b : BitVec w) : BitVec w := a.rotateRight (b.toNat % w)

/-- MIN: signed minimum. -/
def aluMin (w : Nat) (a b : BitVec w) : BitVec w := if a.slt b then a else b

/-- MAX: signed maximum. -/
def aluMax (w : Nat) (a b : BitVec w) : BitVec w := if a.slt b then b else a

/-- MINU: unsigned minimum. -/
def aluMinu (w : Nat) (a b : BitVec w) : BitVec w := if a.ult b then a else b

/-- MAXU: unsigned maximum. -/
def aluMaxu (w : Nat) (a b : BitVec w) : BitVec w := if a.ult b then b else a

/-- Leading zeros within w bits; w for 0. -/
def aluClz (w : Nat) (a : BitVec w) : BitVec w := BitVec.ofNat w (w - bitLen a.toNat)

/-- Trailing zeros of n within `left` bits. -/
def trailing : Nat → Nat → Nat
  | 0, _ => 0
  | left + 1, n => if n % 2 = 1 then 0 else 1 + trailing left (n / 2)

/-- Trailing zeros within w bits; w for 0. -/
def aluCtz (w : Nat) (a : BitVec w) : BitVec w := BitVec.ofNat w (trailing w a.toNat)

/-- Count of one bits within w bits. -/
def aluPopc (w : Nat) (a : BitVec w) : BitVec w := BitVec.ofNat w ((List.range w).countP fun i => a.getLsbD i)

/-- The result of a two-operand operation at width 64, or at width 32 sign-extended (05 R212). -/
def alu2 (f : (w : Nat) → BitVec w → BitVec w → BitVec w) (w : Bool) (a b : Word) : Word :=
  if w then (f 32 (a.setWidth 32) (b.setWidth 32)).signExtend 64 else f 64 a b

/-- The result of a one-operand operation. -/
def alu1 (f : (w : Nat) → BitVec w → BitVec w) (w : Bool) (a : Word) : Word :=
  if w then (f 32 (a.setWidth 32)).signExtend 64 else f 64 a

/-- x[D] from x[A] and x[B]. -/
def bodyAlu2 (f : (w : Nat) → BitVec w → BitVec w → BitVec w) (w : Bool) (d a b : XOp) : M Unit := do
  let x ← readX a
  let y ← readX b
  writeX d (alu2 f w x y)

/-- x[D] from x[A] and sext(IMM48). -/
def bodyAluImm (f : (w : Nat) → BitVec w → BitVec w → BitVec w) (w : Bool) (d a : XOp) (imm : BitVec 48) :
    M Unit := do
  let x ← readX a
  writeX d (alu2 f w x (imm.signExtend 64))

/-- x[D] from x[A]. -/
def bodyAlu1 (f : (w : Nat) → BitVec w → BitVec w) (w : Bool) (d a : XOp) : M Unit := do
  let x ← readX a
  writeX d (alu1 f w x)

/-- Position and width of the field that a control value names (05 R214). -/
def bfField (c : Word) : Nat × Nat :=
  let pos := c.toNat % 64
  (pos, min (c.toNat / 64 % 128) (64 - pos))

/-- BFX (05 R214). -/
def bfExtract (sx : Bool) (a c : Word) : Word :=
  let (pos, f) := bfField c
  let v := a.toNat / 2 ^ pos % 2 ^ f
  if sx && decide (0 < f) then BitVec.ofInt 64 (signedOf f v) else BitVec.ofNat 64 v

/-- BFI: the base with the field replaced by the low bits of a (05 R214). -/
def bfInsert (base a c : Word) : Word :=
  let (pos, f) := bfField c
  let mask : Word := BitVec.ofNat 64 ((2 ^ f - 1) * 2 ^ pos)
  (base &&& ~~~mask) ||| ((a <<< pos) &&& mask)

/-! Major 0x10. -/

/-- ADD (05 R213). -/
def execAdd (h : Hdr) (w : Bool) (d a b : XOp) (s : State) : Host.Outcome State Fault Refusal :=
  runSeq (.add h w d a b) h (bodyAlu2 aluAdd w d a b) s

/-- SUB (05 R213). -/
def execSub (h : Hdr) (w : Bool) (d a b : XOp) (s : State) : Host.Outcome State Fault Refusal :=
  runSeq (.sub h w d a b) h (bodyAlu2 aluSub w d a b) s

/-- MUL (05 R213). -/
def execMul (h : Hdr) (w : Bool) (d a b : XOp) (s : State) : Host.Outcome State Fault Refusal :=
  runSeq (.mul h w d a b) h (bodyAlu2 aluMul w d a b) s

/-- MULH (05 R213). -/
def execMulh (h : Hdr) (w : Bool) (d a b : XOp) (s : State) : Host.Outcome State Fault Refusal :=
  runSeq (.mulh h w d a b) h (bodyAlu2 aluMulh w d a b) s

/-- MULHU (05 R213). -/
def execMulhu (h : Hdr) (w : Bool) (d a b : XOp) (s : State) : Host.Outcome State Fault Refusal :=
  runSeq (.mulhu h w d a b) h (bodyAlu2 aluMulhu w d a b) s

/-- DIV (05 R213). -/
def execDiv (h : Hdr) (w : Bool) (d a b : XOp) (s : State) : Host.Outcome State Fault Refusal :=
  runSeq (.div h w d a b) h (bodyAlu2 aluDiv w d a b) s

/-- DIVU (05 R213). -/
def execDivu (h : Hdr) (w : Bool) (d a b : XOp) (s : State) : Host.Outcome State Fault Refusal :=
  runSeq (.divu h w d a b) h (bodyAlu2 aluDivu w d a b) s

/-- REM (05 R213). -/
def execRem (h : Hdr) (w : Bool) (d a b : XOp) (s : State) : Host.Outcome State Fault Refusal :=
  runSeq (.rem h w d a b) h (bodyAlu2 aluRem w d a b) s

/-- REMU (05 R213). -/
def execRemu (h : Hdr) (w : Bool) (d a b : XOp) (s : State) : Host.Outcome State Fault Refusal :=
  runSeq (.remu h w d a b) h (bodyAlu2 aluRemu w d a b) s

/-- AND (05 R213). -/
def execAnd (h : Hdr) (w : Bool) (d a b : XOp) (s : State) : Host.Outcome State Fault Refusal :=
  runSeq (.and h w d a b) h (bodyAlu2 aluAnd w d a b) s

/-- OR (05 R213). -/
def execOr (h : Hdr) (w : Bool) (d a b : XOp) (s : State) : Host.Outcome State Fault Refusal :=
  runSeq (.or h w d a b) h (bodyAlu2 aluOr w d a b) s

/-- XOR (05 R213). -/
def execXor (h : Hdr) (w : Bool) (d a b : XOp) (s : State) : Host.Outcome State Fault Refusal :=
  runSeq (.xor h w d a b) h (bodyAlu2 aluXor w d a b) s

/-- ANDN (05 R213). -/
def execAndn (h : Hdr) (w : Bool) (d a b : XOp) (s : State) : Host.Outcome State Fault Refusal :=
  runSeq (.andn h w d a b) h (bodyAlu2 aluAndn w d a b) s

/-- SHL (05 R213). -/
def execShl (h : Hdr) (w : Bool) (d a b : XOp) (s : State) : Host.Outcome State Fault Refusal :=
  runSeq (.shl h w d a b) h (bodyAlu2 aluShl w d a b) s

/-- SHR (05 R213). -/
def execShr (h : Hdr) (w : Bool) (d a b : XOp) (s : State) : Host.Outcome State Fault Refusal :=
  runSeq (.shr h w d a b) h (bodyAlu2 aluShr w d a b) s

/-- SRA (05 R213). -/
def execSra (h : Hdr) (w : Bool) (d a b : XOp) (s : State) : Host.Outcome State Fault Refusal :=
  runSeq (.sra h w d a b) h (bodyAlu2 aluSra w d a b) s

/-- ROR (05 R213). -/
def execRor (h : Hdr) (w : Bool) (d a b : XOp) (s : State) : Host.Outcome State Fault Refusal :=
  runSeq (.ror h w d a b) h (bodyAlu2 aluRor w d a b) s

/-- MIN (05 R213). -/
def execMin (h : Hdr) (w : Bool) (d a b : XOp) (s : State) : Host.Outcome State Fault Refusal :=
  runSeq (.min h w d a b) h (bodyAlu2 aluMin w d a b) s

/-- MAX (05 R213). -/
def execMax (h : Hdr) (w : Bool) (d a b : XOp) (s : State) : Host.Outcome State Fault Refusal :=
  runSeq (.max h w d a b) h (bodyAlu2 aluMax w d a b) s

/-- MINU (05 R213). -/
def execMinu (h : Hdr) (w : Bool) (d a b : XOp) (s : State) : Host.Outcome State Fault Refusal :=
  runSeq (.minu h w d a b) h (bodyAlu2 aluMinu w d a b) s

/-- MAXU (05 R213). -/
def execMaxu (h : Hdr) (w : Bool) (d a b : XOp) (s : State) : Host.Outcome State Fault Refusal :=
  runSeq (.maxu h w d a b) h (bodyAlu2 aluMaxu w d a b) s

/-- CLZ (05 R213). -/
def execClz (h : Hdr) (w : Bool) (d a : XOp) (s : State) : Host.Outcome State Fault Refusal :=
  runSeq (.clz h w d a) h (bodyAlu1 aluClz w d a) s

/-- CTZ (05 R213). -/
def execCtz (h : Hdr) (w : Bool) (d a : XOp) (s : State) : Host.Outcome State Fault Refusal :=
  runSeq (.ctz h w d a) h (bodyAlu1 aluCtz w d a) s

/-- POPC (05 R213). -/
def execPopc (h : Hdr) (w : Bool) (d a : XOp) (s : State) : Host.Outcome State Fault Refusal :=
  runSeq (.popc h w d a) h (bodyAlu1 aluPopc w d a) s

/-- BFX (05 R214). -/
def execBfx (h : Hdr) (sx : Bool) (d a b : XOp) (s : State) : Host.Outcome State Fault Refusal :=
  runSeq (.bfx h sx d a b) h (do
    let x ← readX a
    let c ← readX b
    writeX d (bfExtract sx x c)) s

/-- BFI of major 0x10: the base is x[C] (05 R214). -/
def execBfi (h : Hdr) (d a b c : XOp) (s : State) : Host.Outcome State Fault Refusal :=
  runSeq (.bfi h d a b c) h (do
    let x ← readX a
    let k ← readX b
    let base ← readX c
    writeX d (bfInsert base x k)) s

/-- SEL of major 0x10 (05 R215). -/
def execSel (h : Hdr) (d a b : XOp) (p : Fin 8) (s : State) : Host.Outcome State Fault Refusal :=
  runSeq (.sel h d a b p) h (do
    let x ← readX a
    let y ← readX b
    writeX d (if ← readP p then x else y)) s

/-- LEA of major 0x10 (05 R215). -/
def execLea (h : Hdr) (k : Fin 4) (d a b : XOp) (s : State) : Host.Outcome State Fault Refusal :=
  runSeq (.lea h k d a b) h (do
    let x ← readX a
    let y ← readX b
    writeX d (x + y <<< k.val)) s

/-! Major 0x11. -/

/-- ADD with an immediate (05 R213). -/
def execAddImm (h : Hdr) (w : Bool) (d a : XOp) (imm : BitVec 48) (s : State) : Host.Outcome State Fault Refusal :=
  runSeq (.addImm h w d a imm) h (bodyAluImm aluAdd w d a imm) s

/-- SUB with an immediate (05 R213). -/
def execSubImm (h : Hdr) (w : Bool) (d a : XOp) (imm : BitVec 48) (s : State) : Host.Outcome State Fault Refusal :=
  runSeq (.subImm h w d a imm) h (bodyAluImm aluSub w d a imm) s

/-- MUL with an immediate (05 R213). -/
def execMulImm (h : Hdr) (w : Bool) (d a : XOp) (imm : BitVec 48) (s : State) : Host.Outcome State Fault Refusal :=
  runSeq (.mulImm h w d a imm) h (bodyAluImm aluMul w d a imm) s

/-- MULH with an immediate (05 R213). -/
def execMulhImm (h : Hdr) (w : Bool) (d a : XOp) (imm : BitVec 48) (s : State) : Host.Outcome State Fault Refusal :=
  runSeq (.mulhImm h w d a imm) h (bodyAluImm aluMulh w d a imm) s

/-- MULHU with an immediate (05 R213). -/
def execMulhuImm (h : Hdr) (w : Bool) (d a : XOp) (imm : BitVec 48) (s : State) : Host.Outcome State Fault Refusal :=
  runSeq (.mulhuImm h w d a imm) h (bodyAluImm aluMulhu w d a imm) s

/-- DIV with an immediate (05 R213). -/
def execDivImm (h : Hdr) (w : Bool) (d a : XOp) (imm : BitVec 48) (s : State) : Host.Outcome State Fault Refusal :=
  runSeq (.divImm h w d a imm) h (bodyAluImm aluDiv w d a imm) s

/-- DIVU with an immediate (05 R213). -/
def execDivuImm (h : Hdr) (w : Bool) (d a : XOp) (imm : BitVec 48) (s : State) : Host.Outcome State Fault Refusal :=
  runSeq (.divuImm h w d a imm) h (bodyAluImm aluDivu w d a imm) s

/-- REM with an immediate (05 R213). -/
def execRemImm (h : Hdr) (w : Bool) (d a : XOp) (imm : BitVec 48) (s : State) : Host.Outcome State Fault Refusal :=
  runSeq (.remImm h w d a imm) h (bodyAluImm aluRem w d a imm) s

/-- REMU with an immediate (05 R213). -/
def execRemuImm (h : Hdr) (w : Bool) (d a : XOp) (imm : BitVec 48) (s : State) : Host.Outcome State Fault Refusal :=
  runSeq (.remuImm h w d a imm) h (bodyAluImm aluRemu w d a imm) s

/-- AND with an immediate (05 R213). -/
def execAndImm (h : Hdr) (w : Bool) (d a : XOp) (imm : BitVec 48) (s : State) : Host.Outcome State Fault Refusal :=
  runSeq (.andImm h w d a imm) h (bodyAluImm aluAnd w d a imm) s

/-- OR with an immediate (05 R213). -/
def execOrImm (h : Hdr) (w : Bool) (d a : XOp) (imm : BitVec 48) (s : State) : Host.Outcome State Fault Refusal :=
  runSeq (.orImm h w d a imm) h (bodyAluImm aluOr w d a imm) s

/-- XOR with an immediate (05 R213). -/
def execXorImm (h : Hdr) (w : Bool) (d a : XOp) (imm : BitVec 48) (s : State) : Host.Outcome State Fault Refusal :=
  runSeq (.xorImm h w d a imm) h (bodyAluImm aluXor w d a imm) s

/-- ANDN with an immediate (05 R213). -/
def execAndnImm (h : Hdr) (w : Bool) (d a : XOp) (imm : BitVec 48) (s : State) : Host.Outcome State Fault Refusal :=
  runSeq (.andnImm h w d a imm) h (bodyAluImm aluAndn w d a imm) s

/-- SHL with an immediate (05 R213). -/
def execShlImm (h : Hdr) (w : Bool) (d a : XOp) (imm : BitVec 48) (s : State) : Host.Outcome State Fault Refusal :=
  runSeq (.shlImm h w d a imm) h (bodyAluImm aluShl w d a imm) s

/-- SHR with an immediate (05 R213). -/
def execShrImm (h : Hdr) (w : Bool) (d a : XOp) (imm : BitVec 48) (s : State) : Host.Outcome State Fault Refusal :=
  runSeq (.shrImm h w d a imm) h (bodyAluImm aluShr w d a imm) s

/-- SRA with an immediate (05 R213). -/
def execSraImm (h : Hdr) (w : Bool) (d a : XOp) (imm : BitVec 48) (s : State) : Host.Outcome State Fault Refusal :=
  runSeq (.sraImm h w d a imm) h (bodyAluImm aluSra w d a imm) s

/-- ROR with an immediate (05 R213). -/
def execRorImm (h : Hdr) (w : Bool) (d a : XOp) (imm : BitVec 48) (s : State) : Host.Outcome State Fault Refusal :=
  runSeq (.rorImm h w d a imm) h (bodyAluImm aluRor w d a imm) s

/-- MIN with an immediate (05 R213). -/
def execMinImm (h : Hdr) (w : Bool) (d a : XOp) (imm : BitVec 48) (s : State) : Host.Outcome State Fault Refusal :=
  runSeq (.minImm h w d a imm) h (bodyAluImm aluMin w d a imm) s

/-- MAX with an immediate (05 R213). -/
def execMaxImm (h : Hdr) (w : Bool) (d a : XOp) (imm : BitVec 48) (s : State) : Host.Outcome State Fault Refusal :=
  runSeq (.maxImm h w d a imm) h (bodyAluImm aluMax w d a imm) s

/-- MINU with an immediate (05 R213). -/
def execMinuImm (h : Hdr) (w : Bool) (d a : XOp) (imm : BitVec 48) (s : State) : Host.Outcome State Fault Refusal :=
  runSeq (.minuImm h w d a imm) h (bodyAluImm aluMinu w d a imm) s

/-- MAXU with an immediate (05 R213). -/
def execMaxuImm (h : Hdr) (w : Bool) (d a : XOp) (imm : BitVec 48) (s : State) : Host.Outcome State Fault Refusal :=
  runSeq (.maxuImm h w d a imm) h (bodyAluImm aluMaxu w d a imm) s

/-- BFX with an immediate control value (05 R214). -/
def execBfxImm (h : Hdr) (sx : Bool) (d a : XOp) (imm : BitVec 48) (s : State) : Host.Outcome State Fault Refusal :=
  runSeq (.bfxImm h sx d a imm) h (do
    let x ← readX a
    writeX d (bfExtract sx x (imm.setWidth 64))) s

/-- BFI with an immediate control value: the base is the old x[D] (05 R214). -/
def execBfiImm (h : Hdr) (d : Fin 64) (a : XOp) (imm : BitVec 48) (s : State) : Host.Outcome State Fault Refusal :=
  runSeq (.bfiImm h d a imm) h (do
    let x ← readX a
    let base ← readReg d
    writeReg d (bfInsert base x (imm.setWidth 64))) s

/-- SEL with an immediate (05 R215). -/
def execSelImm (h : Hdr) (d a : XOp) (imm : BitVec 48) (p : Fin 8) (s : State) : Host.Outcome State Fault Refusal :=
  runSeq (.selImm h d a imm p) h (do
    let x ← readX a
    writeX d (if ← readP p then x else imm.signExtend 64)) s

/-- LEA with an immediate (05 R215). -/
def execLeaImm (h : Hdr) (k : Fin 4) (d a : XOp) (imm : BitVec 48) (s : State) : Host.Outcome State Fault Refusal :=
  runSeq (.leaImm h k d a imm) h (do
    let x ← readX a
    writeX d (x + imm.signExtend 64 <<< k.val)) s

/-! Major 0x12. -/

/-- MOVI (05 R218). -/
def execMovi (h : Hdr) (d : XOp) (imm : BitVec 62) (s : State) : Host.Outcome State Fault Refusal :=
  runSeq (.movi h d imm) h (writeX d (imm.signExtend 64)) s

/-- CMP: the result to p[D], then its complement to p[C] (05 R219). -/
def execCmp (h : Hdr) (c : CmpCond) (w : Bool) (pd pc : Fin 8) (a b : XOp)
    (s : State) : Host.Outcome State Fault Refusal :=
  runSeq (.cmp h c w pd pc a b) h (do
    let x ← readX a
    let y ← readX b
    writeP pd (CmpCond.holds c w x y)
    writeP pc (!CmpCond.holds c w x y)) s

/-- CMPI (05 R219). -/
def execCmpi (h : Hdr) (c : CmpCond) (w : Bool) (pd : Fin 8) (a : XOp) (imm : BitVec 48)
    (s : State) : Host.Outcome State Fault Refusal :=
  runSeq (.cmpi h c w pd a imm) h (do
    let x ← readX a
    writeP pd (CmpCond.holds c w x (imm.signExtend 64))) s

/-- PLOG (05 R220). -/
def execPlog (h : Hdr) (lut : BitVec 4) (d a b : Fin 8) (s : State) : Host.Outcome State Fault Refusal :=
  runSeq (.plog h lut d a b) h (do
    let x ← readP a
    let y ← readP b
    writeP d (lut2 lut x y)) s

/-- PMOV with DIR 0: the predicates as a number (05 R221). -/
def execPmovToX (h : Hdr) (d : XOp) (s : State) : Host.Outcome State Fault Refusal :=
  runSeq (.pmovToX h d) h (do
    let st ← curStream
    writeX d (BitVec.ofNat 64 (2 * (st.p.toNat / 2) + 1))) s

/-- PMOV with DIR 1: p1..p7 from bits 7..1 (05 R221). -/
def execPmovToP (h : Hdr) (a : XOp) (s : State) : Host.Outcome State Fault Refusal :=
  runSeq (.pmovToP h a) h (do
    let x ← readX a
    modStream fun st => { st with p := (st.p &&& 1#8) ||| (x.setWidth 8 &&& 0xFE#8) }) s

end Sys2Proof.Machine
end

