-- ==== Sys2Proof/Machine/ScalarMem.lean ====
section
/-! DEFINITION. Major 0x13: scalar loads and stores, atomics, FENCE, on harts and on the datum core (05 R222..R228;
06 R285; 07 R307, R619; 15 R580..R582). -/

namespace Sys2Proof.Machine

open Sys2Proof

/-! The datum core's accesses (15 R580, R581). -/

/-- Is a device access of the datum core held: its stack is not ready, or class 15 has no budget (01 R26, 06 R273,
R275; 15 R581)? No border link is on its route. -/
def State.datumHeld (s : State) (pa : Nat) : Bool := s.deviceHeld 15 (homeQuad pa) pa

/-- A load of n bytes by the datum core. -/
def datumLoad (va n : Nat) : M Nat := do
  let s ← get
  match datumAddr va n with
  | .rom off => pure (leNat (romBytes off n))
  | .sram off => pure (leNat (s.dc.sram.bytes off n))
  | .priv off => if n = 8 then pure (s.privRead off).toNat else trap causeProt (BitVec.ofNat 64 va)
  | .mmio off => if n = 8 then pure (s.readMmio off).toNat else trap causeProt (BitVec.ofNat 64 va)
  | .device pa =>
    if s.datumHeld pa then waitHere
    else if s.mem.poisoned (pa / 64) then trap causePoison (BitVec.ofNat 64 va)
    else pure (s.mem.homeRead pa n)
  | .bad => trap causeProt (BitVec.ofNat 64 va)

/-- A store by the datum core. -/
def datumStore (va : Nat) (bs : List Byte) : M Unit := do
  let s ← get
  let n := bs.length
  let bad : M Unit := trap causeProt (BitVec.ofNat 64 va)
  match datumAddr va n with
  | .rom _ => bad
  | .sram off => set (s.sramStore true off bs)
  | .priv off => if n = 8 then set (s.privWrite off (BitVec.ofNat 64 (leNat bs))) else bad
  | .mmio off => if n = 8 then set (s.writeMmio .datum off (BitVec.ofNat 64 (leNat bs))) else bad
  | .device pa =>
    if s.datumHeld pa then waitHere
    else
      let s := s.homeWrite none 0 va pa n (leNat bs)
      set (s.setMem s.mem.dropStale)
  | .bad => bad

/-- An atomic of the datum core: device memory alone has them. -/
def datumAtom (va n : Nat) (f : Nat → Option Nat) : M Nat := do
  let s ← get
  match datumAddr va n with
  | .device pa =>
    if s.datumHeld pa then waitHere
    else if s.mem.poisoned (pa / 64) then trap causePoison (BitVec.ofNat 64 va)
    else
      let old := s.mem.homeRead pa n
      match f old with
      | some v =>
        let s := s.homeWrite none 0 va pa n v
        set (s.setMem s.mem.dropStale)
      | none => pure ()
      pure old
  | _ => trap causeProt (BitVec.ofNat 64 va)

/-! Scalar accesses of a party (05 R224). -/

/-- The effective address, aligned to the type's size (05 R224). -/
def scalarEA (m : MemOp) (n : Nat) : M Nat := do
  let ea ← readEA m
  if ea % n ≠ 0 then trap causeAlign (BitVec.ofNat 64 ea) else pure ea

/-- A load of n bytes. -/
def scalarLoad (ch : Fin 4) (ea n : Nat) : M Nat := do
  if (← get).cur.isDatum then datumLoad ea n else hartLoad (← hartCtx ch (← curTag)) ea n

/-- A store, of a release or not: what goes to another package leaves as a train of one element (07 R619). One of no release
may stay late (01 R37). -/
def scalarStore (ch : Fin 4) (ea n : Nat) (w : Word) (through : Bool) : M Unit := do
  let bs := leBytes n w.toNat
  if (← get).cur.isDatum then datumStore ea bs
  else
    let c ← hartCtx ch (← curTag)
    let (remote, _) ← hartStore { c with through, late := (← get).lateTurn && !through } ea bs (← takeSerial) false
    match remote with
    | some (rpkg, pa) => sendTrain rpkg false (sizeTy n) [(0, ea, pa, n, leNat bs)]
    | none => pure ()

/-- LD and LDA up to the acquire. -/
def bodyLd (h : Hdr) (t : Ty) (d : XOp) (m : MemOp) : M Unit := do
  let n := Ty.size t
  let ea ← scalarEA m n
  let v ← scalarLoad h.ch ea n
  writeX d (extTy t v)

/-- LD (05 R223, R224). -/
def execLd (h : Hdr) (t : Ty) (d : XOp) (m : MemOp) (s : State) : Host.Outcome State Fault Refusal :=
  runSeq (.ld h t d m) h (bodyLd h t d m) s

/-- LDA: a load, then an acquire (05 R224). -/
def execLda (h : Hdr) (t : Ty) (sc : Scope) (d : XOp) (m : MemOp) (s : State) : Host.Outcome State Fault Refusal :=
  runSeq (.lda h t sc d m) h (do
    bodyLd h t d m
    acquire (Scope.rank sc)) s

/-- ST (05 R223, R224). -/
def execSt (h : Hdr) (t : Ty) (d : XOp) (m : MemOp) (s : State) : Host.Outcome State Fault Refusal :=
  runSeq (.st h t d m) h (do
    let ea ← scalarEA m (Ty.size t)
    scalarStore h.ch ea (Ty.size t) (← readX d) false) s

/-- STR: a release, then a store that is multi-copy atomic (05 R224, 01 R47). -/
def execStr (h : Hdr) (t : Ty) (sc : Scope) (d : XOp) (m : MemOp) (s : State) : Host.Outcome State Fault Refusal :=
  runSeq (.str h t sc d m) h (do
    let ea ← scalarEA m (Ty.size t)
    let w ← readX d
    release (Scope.rank sc)
    scalarStore h.ch ea (Ty.size t) w true) s

/-! Atomics (05 R225, R226). -/

/-- Is a type signed? -/
def tySigned (t : Ty) : Bool := match Ty.int? t with
  | some (_, b) => b
  | none => false

/-- An atomic at an address: the old value. -/
def scalarAtom (ch : Fin 4) (op : Nat) (t : Ty) (ea : Nat) (x cmp : Word) : M Nat := do
  let n := Ty.size t
  let f := fun (old : Nat) => atomValue op (tySigned t) n old x.toNat cmp.toNat
  if (← get).cur.isDatum then datumAtom ea n f
  else
    let c ← hartCtx ch (← curTag)
    checkWatch ea n .atom
    noteReq 0 ea .atom
    loadGate c ea n
    atomRaw c ea n f fun rpkg id pa s =>
      { s with linkOut := s.linkOut ++ [LinkMsg.atomic rpkg id pa n op (tySigned t) x cmp] }

/-- ATOM: with a scope it is a release before and an acquire after (05 R226). -/
def bodyAtom (h : Hdr) (op : Nat) (t : Ty) (sc : Option Scope) (d : Fin 64) (ea : Nat) (cmp : Word) : M Unit := do
  let rank := (sc.map Scope.rank).getD 0
  release rank
  let old ← scalarAtom h.ch op t ea (← readReg d) cmp
  writeReg d (extTy t old)
  acquire rank

/-- ATOM of an operation other than CAS. -/
def bodyAtomOp (h : Hdr) (op : Nat) (t : Ty) (sc : Option Scope) (d : Fin 64) (m : MemOp) : M Unit := do
  let ea ← scalarEA m (Ty.size t)
  bodyAtom h op t sc d ea 0

/-- ATOM.SWAP (05 R225). -/
def execAtomSwap (h : Hdr) (t : Ty) (sc : Option Scope) (d : Fin 64) (m : MemOp) (s : State) :
    Host.Outcome State Fault Refusal :=
  runSeq (.atomSwap h t sc d m) h (bodyAtomOp h 0 t sc d m) s

/-- ATOM.ADD (05 R225). -/
def execAtomAdd (h : Hdr) (t : Ty) (sc : Option Scope) (d : Fin 64) (m : MemOp) (s : State) :
    Host.Outcome State Fault Refusal :=
  runSeq (.atomAdd h t sc d m) h (bodyAtomOp h 1 t sc d m) s

/-- ATOM.AND (05 R225). -/
def execAtomAnd (h : Hdr) (t : Ty) (sc : Option Scope) (d : Fin 64) (m : MemOp) (s : State) :
    Host.Outcome State Fault Refusal :=
  runSeq (.atomAnd h t sc d m) h (bodyAtomOp h 2 t sc d m) s

/-- ATOM.OR (05 R225). -/
def execAtomOr (h : Hdr) (t : Ty) (sc : Option Scope) (d : Fin 64) (m : MemOp) (s : State) :
    Host.Outcome State Fault Refusal :=
  runSeq (.atomOr h t sc d m) h (bodyAtomOp h 3 t sc d m) s

/-- ATOM.XOR (05 R225). -/
def execAtomXor (h : Hdr) (t : Ty) (sc : Option Scope) (d : Fin 64) (m : MemOp) (s : State) :
    Host.Outcome State Fault Refusal :=
  runSeq (.atomXor h t sc d m) h (bodyAtomOp h 4 t sc d m) s

/-- ATOM.MIN (05 R225). -/
def execAtomMin (h : Hdr) (t : Ty) (sc : Option Scope) (d : Fin 64) (m : MemOp) (s : State) :
    Host.Outcome State Fault Refusal :=
  runSeq (.atomMin h t sc d m) h (bodyAtomOp h 5 t sc d m) s

/-- ATOM.MAX (05 R225). -/
def execAtomMax (h : Hdr) (t : Ty) (sc : Option Scope) (d : Fin 64) (m : MemOp) (s : State) :
    Host.Outcome State Fault Refusal :=
  runSeq (.atomMax h t sc d m) h (bodyAtomOp h 6 t sc d m) s

/-- ATOM.CAS: B names the compare register; the address is base and displacement (05 R225). -/
def execAtomCas (h : Hdr) (t : Ty) (sc : Option Scope) (d : Fin 64) (a : XOp) (b : Fin 64) (disp : BitVec 32)
    (s : State) : Host.Outcome State Fault Refusal :=
  runSeq (.atomCas h t sc d a b disp) h (do
    let n := Ty.size t
    let ea := (← readX a) + disp.signExtend 64
    if ea.toNat % n ≠ 0 then trap causeAlign ea
    else bodyAtom h 7 t sc d ea.toNat (← readReg b)) s

/-! FENCE (05 R227; 01 R58; 07 R308). -/

/-- FENCE: its ordering, the lockstep comparison, and at scope pkg or pod a drain point. -/
def execFence (h : Hdr) (k : FenceKind) (sc : Scope) (s : State) : Host.Outcome State Fault Refusal :=
  runSeq (.fence h k sc) h (do
    let rank := Scope.rank sc
    if (← get).cur.isDatum then pure ()
    else
      if 6 ≤ rank then
        if k != .acq then settleStores
        passDrain
      drainLaunchCores rank
      fenceBody k sc) s

end Sys2Proof.Machine
end

