-- ==== Sys2Proof/Machine/System.lean ====
section
/-! DEFINITION. Major 0x02 except HALT: TRAP, ERET, status registers, WAIT, YIELD, FENCEI (05 R234..R239). -/

namespace Sys2Proof.Machine

open Sys2Proof

/-- TRAP: completes, then enters the handler with tpc at the next instruction (05 R230, R235). -/
def execTrap (h : Hdr) (code : BitVec 35) (s : State) : Host.Outcome State Fault Refusal :=
  runHart (.trap h code) h (pure (.swtrap (code.setWidth 64))) s

/-- ERET (05 R235). -/
def execEret (h : Hdr) (s : State) : Host.Outcome State Fault Refusal :=
  runHart (.eret h) h (do
    let st ← curStream
    if st.depth = 0 then trapIll
    else if Config.instrEnd ≤ st.tpc.toNat then trap causeProt st.tpc
    else pure .eret) s

/-- SRR: user mode has been checked at issue (02 R87; 05 R236, 02 R93). -/
def execSrr (h : Hdr) (d : XOp) (sr : BitVec 12) (s : State) : Host.Outcome State Fault Refusal :=
  runSeq (.srr h d sr) h (do
    let s ← get
    match s.sreg s.cur sr.toNat with
    | none => trap causeIll (sr.setWidth 64)
    | some v => writeX d v) s

/-- SRW: user mode has been checked at issue (02 R87; 05 R236, 02 R93). -/
def execSrw (h : Hdr) (sr : BitVec 12) (a : XOp) (s : State) : Host.Outcome State Fault Refusal :=
  runSeq (.srw h sr a) h (do
    let w ← readX a
    let s ← get
    if (s.sreg s.cur sr.toNat).isNone then trap causeIll (sr.setWidth 64) else set (s.sregWrite s.cur sr.toNat w)) s

/-- The wake key of the line that an address names for a party: nothing for an address without a translation
(05 R237: WAIT raises no fault). -/
def State.waitKey (s : State) (p : Party) (va : Nat) : Option Nat :=
  match p with
  | .datum =>
    match datumAddr (alignDown va 64) 64 with
    | .device pa => some (pa / 64)
    | .sram off => some (datumKey off)
    | _ => none
  | .stream slot _ =>
    let c := s.hartCtx p 0 0
    match addrKind (coreOf slot) va with
    | .scratch core off => some (scratchKey core off)
    | .tile a off => some (tileKey a off)
    | .global => (s.peekLeaf c.asid va).map fun l => l.phys va / 64
    | .bad => none

/-- WAIT: retires and stops the stream from issuing until the limit has passed, a store reaches the line, or the wait
ends for no stated reason (05 R237). The A operand x0 names no line. -/
def execWait (h : Hdr) (a : XOp) (limit : BitVec 35) (s : State) : Host.Outcome State Fault Refusal :=
  runSeq (.wait h a limit) h (do
    let none_ := a = .x 0
    if none_ && limit == 0 then trapIll
    else
      let v ← readX a
      let s ← get
      let line := if none_ then none else s.waitKey s.cur v.toNat
      let until_ := if limit = 0 then none else some (s.tick + limit.toNat)
      modStream fun st => { st with waiting := some ⟨line, until_, false⟩ }) s

/-- A WAIT ends for no stated reason (05 R237). -/
def execWaitWake (p : Party) (s : State) : Host.Outcome State Fault Refusal :=
  match s.stream? p with
  | none => .next s
  | some st => .next (if st.waiting.isSome then s.setStream p { st with waiting := none } else s)

/-- YIELD: a NOP that gives up the stream's next turn (05 R236). -/
def execYield (h : Hdr) (s : State) : Host.Outcome State Fault Refusal :=
  runSeq (.yield h) h (modStream fun st => { st with yielded := true }) s

/-- FENCEI: later fetches of the stream see every store that happens before it (05 R239). -/
def execFencei (h : Hdr) (s : State) : Host.Outcome State Fault Refusal :=
  runSeq (.fencei h) h (do
    if (← get).cur.isDatum then pure ()
    else
      let core ← curCore
      drainGate core ((← get).core core).wcb.length
      modify fun s => (s.clearL1 core).setMem (s.clearL1 core).mem.dropStale) s

end Sys2Proof.Machine
end

