-- ==== Sys2Proof/Machine/Dispatch.lean ====
section
/-! DEFINITION. The dispatch: one arm per constructor of Instr, in the order of Syntax.lean. -/

namespace Sys2Proof.Machine

open Sys2Proof in /-- The meaning of one step of the part. -/ noncomputable def exec (i : Instr) (s : State) : Host.Outcome State Fault Refusal :=
  match i with
  | .br h c a b off => Sys2Proof.Machine.execBr h c a b off s
  | .jmp h a => Sys2Proof.Machine.execJmp h a s
  | .call h d off => Sys2Proof.Machine.execCall h d off s
  | .callr h d a => Sys2Proof.Machine.execCallr h d a s
  | .ret h a => Sys2Proof.Machine.execRet h a s
  | .pushb h inv a => Sys2Proof.Machine.execPushb h inv a s
  | .brq h z off => Sys2Proof.Machine.execBrq h z off s
  | .loop h l c off => Sys2Proof.Machine.execLoop h l c off s
  | .lexit h l => Sys2Proof.Machine.execLexit h l s
  | .nop h => Sys2Proof.Machine.execNop h s
  | .trap h code => Sys2Proof.Machine.execTrap h code s
  | .eret h => Sys2Proof.Machine.execEret h s
  | .srr h d sr => Sys2Proof.Machine.execSrr h d sr s
  | .srw h sr a => Sys2Proof.Machine.execSrw h sr a s
  | .wait h a limit => Sys2Proof.Machine.execWait h a limit s
  | .yield h => Sys2Proof.Machine.execYield h s
  | .halt h => Sys2Proof.Machine.execHalt h s
  | .fencei h => Sys2Proof.Machine.execFencei h s
  | .add h w d a b => Sys2Proof.Machine.execAdd h w d a b s
  | .sub h w d a b => Sys2Proof.Machine.execSub h w d a b s
  | .mul h w d a b => Sys2Proof.Machine.execMul h w d a b s
  | .mulh h w d a b => Sys2Proof.Machine.execMulh h w d a b s
  | .mulhu h w d a b => Sys2Proof.Machine.execMulhu h w d a b s
  | .div h w d a b => Sys2Proof.Machine.execDiv h w d a b s
  | .divu h w d a b => Sys2Proof.Machine.execDivu h w d a b s
  | .rem h w d a b => Sys2Proof.Machine.execRem h w d a b s
  | .remu h w d a b => Sys2Proof.Machine.execRemu h w d a b s
  | .and h w d a b => Sys2Proof.Machine.execAnd h w d a b s
  | .or h w d a b => Sys2Proof.Machine.execOr h w d a b s
  | .xor h w d a b => Sys2Proof.Machine.execXor h w d a b s
  | .andn h w d a b => Sys2Proof.Machine.execAndn h w d a b s
  | .shl h w d a b => Sys2Proof.Machine.execShl h w d a b s
  | .shr h w d a b => Sys2Proof.Machine.execShr h w d a b s
  | .sra h w d a b => Sys2Proof.Machine.execSra h w d a b s
  | .ror h w d a b => Sys2Proof.Machine.execRor h w d a b s
  | .min h w d a b => Sys2Proof.Machine.execMin h w d a b s
  | .max h w d a b => Sys2Proof.Machine.execMax h w d a b s
  | .minu h w d a b => Sys2Proof.Machine.execMinu h w d a b s
  | .maxu h w d a b => Sys2Proof.Machine.execMaxu h w d a b s
  | .clz h w d a => Sys2Proof.Machine.execClz h w d a s
  | .ctz h w d a => Sys2Proof.Machine.execCtz h w d a s
  | .popc h w d a => Sys2Proof.Machine.execPopc h w d a s
  | .bfx h sx d a b => Sys2Proof.Machine.execBfx h sx d a b s
  | .bfi h d a b c => Sys2Proof.Machine.execBfi h d a b c s
  | .sel h d a b p => Sys2Proof.Machine.execSel h d a b p s
  | .lea h s1 d a b => Sys2Proof.Machine.execLea h s1 d a b s
  | .addImm h w d a imm => Sys2Proof.Machine.execAddImm h w d a imm s
  | .subImm h w d a imm => Sys2Proof.Machine.execSubImm h w d a imm s
  | .mulImm h w d a imm => Sys2Proof.Machine.execMulImm h w d a imm s
  | .mulhImm h w d a imm => Sys2Proof.Machine.execMulhImm h w d a imm s
  | .mulhuImm h w d a imm => Sys2Proof.Machine.execMulhuImm h w d a imm s
  | .divImm h w d a imm => Sys2Proof.Machine.execDivImm h w d a imm s
  | .divuImm h w d a imm => Sys2Proof.Machine.execDivuImm h w d a imm s
  | .remImm h w d a imm => Sys2Proof.Machine.execRemImm h w d a imm s
  | .remuImm h w d a imm => Sys2Proof.Machine.execRemuImm h w d a imm s
  | .andImm h w d a imm => Sys2Proof.Machine.execAndImm h w d a imm s
  | .orImm h w d a imm => Sys2Proof.Machine.execOrImm h w d a imm s
  | .xorImm h w d a imm => Sys2Proof.Machine.execXorImm h w d a imm s
  | .andnImm h w d a imm => Sys2Proof.Machine.execAndnImm h w d a imm s
  | .shlImm h w d a imm => Sys2Proof.Machine.execShlImm h w d a imm s
  | .shrImm h w d a imm => Sys2Proof.Machine.execShrImm h w d a imm s
  | .sraImm h w d a imm => Sys2Proof.Machine.execSraImm h w d a imm s
  | .rorImm h w d a imm => Sys2Proof.Machine.execRorImm h w d a imm s
  | .minImm h w d a imm => Sys2Proof.Machine.execMinImm h w d a imm s
  | .maxImm h w d a imm => Sys2Proof.Machine.execMaxImm h w d a imm s
  | .minuImm h w d a imm => Sys2Proof.Machine.execMinuImm h w d a imm s
  | .maxuImm h w d a imm => Sys2Proof.Machine.execMaxuImm h w d a imm s
  | .bfxImm h sx d a imm => Sys2Proof.Machine.execBfxImm h sx d a imm s
  | .bfiImm h d a imm => Sys2Proof.Machine.execBfiImm h d a imm s
  | .selImm h d a imm p => Sys2Proof.Machine.execSelImm h d a imm p s
  | .leaImm h s1 d a imm => Sys2Proof.Machine.execLeaImm h s1 d a imm s
  | .movi h d imm => Sys2Proof.Machine.execMovi h d imm s
  | .cmp h c w pd pc a b => Sys2Proof.Machine.execCmp h c w pd pc a b s
  | .cmpi h c w pd a imm => Sys2Proof.Machine.execCmpi h c w pd a imm s
  | .plog h lut d a b => Sys2Proof.Machine.execPlog h lut d a b s
  | .pmovToX h d => Sys2Proof.Machine.execPmovToX h d s
  | .pmovToP h a => Sys2Proof.Machine.execPmovToP h a s
  | .ld h t d m => Sys2Proof.Machine.execLd h t d m s
  | .st h t d m => Sys2Proof.Machine.execSt h t d m s
  | .lda h t sc d m => Sys2Proof.Machine.execLda h t sc d m s
  | .str h t sc d m => Sys2Proof.Machine.execStr h t sc d m s
  | .atomSwap h t sc d m => Sys2Proof.Machine.execAtomSwap h t sc d m s
  | .atomAdd h t sc d m => Sys2Proof.Machine.execAtomAdd h t sc d m s
  | .atomAnd h t sc d m => Sys2Proof.Machine.execAtomAnd h t sc d m s
  | .atomOr h t sc d m => Sys2Proof.Machine.execAtomOr h t sc d m s
  | .atomXor h t sc d m => Sys2Proof.Machine.execAtomXor h t sc d m s
  | .atomMin h t sc d m => Sys2Proof.Machine.execAtomMin h t sc d m s
  | .atomMax h t sc d m => Sys2Proof.Machine.execAtomMax h t sc d m s
  | .atomCas h t sc d a b disp => Sys2Proof.Machine.execAtomCas h t sc d a b disp s
  | .fence h k sc => Sys2Proof.Machine.execFence h k sc s
  | .vadd h t rm d a b => Sys2Proof.Machine.execVadd h t rm d a b s
  | .vsub h t rm d a b => Sys2Proof.Machine.execVsub h t rm d a b s
  | .vmul h t rm d a b => Sys2Proof.Machine.execVmul h t rm d a b s
  | .vfma h t rm d a b c => Sys2Proof.Machine.execVfma h t rm d a b c s
  | .vfms h t rm d a b c => Sys2Proof.Machine.execVfms h t rm d a b c s
  | .vfnma h t rm d a b c => Sys2Proof.Machine.execVfnma h t rm d a b c s
  | .vdiv h t rm d a b => Sys2Proof.Machine.execVdiv h t rm d a b s
  | .vsqrt h t rm d a => Sys2Proof.Machine.execVsqrt h t rm d a s
  | .vmin h t d a b => Sys2Proof.Machine.execVmin h t d a b s
  | .vmax h t d a b => Sys2Proof.Machine.execVmax h t d a b s
  | .vabs h t d a => Sys2Proof.Machine.execVabs h t d a s
  | .vneg h t d a => Sys2Proof.Machine.execVneg h t d a s
  | .vcmp h c t d a b => Sys2Proof.Machine.execVcmp h c t d a b s
  | .vclass h t d a => Sys2Proof.Machine.execVclass h t d a s
  | .twosum h t rm d e a b => Sys2Proof.Machine.execTwosum h t rm d e a b s
  | .viadd h sat t d a b => Sys2Proof.Machine.execViadd h sat t d a b s
  | .visub h sat t d a b => Sys2Proof.Machine.execVisub h sat t d a b s
  | .vimul h t d a b => Sys2Proof.Machine.execVimul h t d a b s
  | .vimulh h t d a b => Sys2Proof.Machine.execVimulh h t d a b s
  | .vimad h t d a b c => Sys2Proof.Machine.execVimad h t d a b c s
  | .vimin h t d a b => Sys2Proof.Machine.execVimin h t d a b s
  | .vimax h t d a b => Sys2Proof.Machine.execVimax h t d a b s
  | .vand h t d a b => Sys2Proof.Machine.execVand h t d a b s
  | .vor h t d a b => Sys2Proof.Machine.execVor h t d a b s
  | .vxor h t d a b => Sys2Proof.Machine.execVxor h t d a b s
  | .vshl h t d a b => Sys2Proof.Machine.execVshl h t d a b s
  | .vshr h t d a b => Sys2Proof.Machine.execVshr h t d a b s
  | .vsra h t d a b => Sys2Proof.Machine.execVsra h t d a b s
  | .vclip h t d a b c => Sys2Proof.Machine.execVclip h t d a b c s
  | .vmov h t d a => Sys2Proof.Machine.execVmov h t d a s
  | .vbcast h t d a => Sys2Proof.Machine.execVbcast h t d a s
  | .viota h row t d => Sys2Proof.Machine.execViota h row t d s
  | .vsel h t d a b c => Sys2Proof.Machine.execVsel h t d a b c s
  | .vldi h t d imm => Sys2Proof.Machine.execVldi h t d imm s
  | .setvl h t d a => Sys2Proof.Machine.execSetvl h t d a s
  | .setvlRel h d => Sys2Proof.Machine.execSetvlRel h d s
  | .setrc h t d a => Sys2Proof.Machine.execSetrc h t d a s
  | .alloc h d a => Sys2Proof.Machine.execAlloc h d a s
  | .shrink h d a => Sys2Proof.Machine.execShrink h d a s
  | .strip h t d a b c sa sb sc => Sys2Proof.Machine.execStrip h t d a b c sa sb sc s
  | .vrcp h t rm d a => Sys2Proof.Machine.execVrcp h t rm d a s
  | .vrsq h t rm d a => Sys2Proof.Machine.execVrsq h t rm d a s
  | .vexp2 h t rm d a => Sys2Proof.Machine.execVexp2 h t rm d a s
  | .vlog2 h t rm d a => Sys2Proof.Machine.execVlog2 h t rm d a s
  | .vtanh h t rm d a => Sys2Proof.Machine.execVtanh h t rm d a s
  | .vcvt h t u rm d a => Sys2Proof.Machine.execVcvt h t u rm d a s
  | .vqblk h t u rm off d c a => Sys2Proof.Machine.execVqblk h t u rm off d c a s
  | .vdqblk h t u rm off d a c => Sys2Proof.Machine.execVdqblk h t u rm off d a c s
  | .vplane h d a => Sys2Proof.Machine.execVplane h d a s
  | .vunplane h p d a => Sys2Proof.Machine.execVunplane h p d a s
  | .vrand h t d => Sys2Proof.Machine.execVrand h t d s
  | .klog h lut d a b => Sys2Proof.Machine.execKlog h lut d a b s
  | .kcnt h d a => Sys2Proof.Machine.execKcnt h d a s
  | .kfirst h d a => Sys2Proof.Machine.execKfirst h d a s
  | .mpush h a => Sys2Proof.Machine.execMpush h a s
  | .minv h => Sys2Proof.Machine.execMinv h s
  | .mpop h => Sys2Proof.Machine.execMpop h s
  | .mbrz h nz off => Sys2Proof.Machine.execMbrz h nz off s
  | .vtrip h t d a => Sys2Proof.Machine.execVtrip h t d a s
  | .mloop h t a off => Sys2Proof.Machine.execMloop h t a off s
  | .vred h op seg t rm d a => Sys2Proof.Machine.execVred h op seg t rm d a s
  | .vredp h seg t d a b => Sys2Proof.Machine.execVredp h seg t d a b s
  | .vscan h op seg t rm d a => Sys2Proof.Machine.execVscan h op seg t rm d a s
  | .vperm h seg ix t d a b => Sys2Proof.Machine.execVperm h seg ix t d a b s
  | .vslide h seg wrap t d a b => Sys2Proof.Machine.execVslide h seg wrap t d a b s
  | .vzip h seg hi t d a b => Sys2Proof.Machine.execVzip h seg hi t d a b s
  | .vunzip h seg odd t d a b => Sys2Proof.Machine.execVunzip h seg odd t d a b s
  | .vtrn h t d a => Sys2Proof.Machine.execVtrn h t d a s
  | .vcompress h z t d a e => Sys2Proof.Machine.execVcompress h z t d a e s
  | .vexpand h z t d a => Sys2Proof.Machine.execVexpand h z t d a s
  | .vsortk h desc t d e a b => Sys2Proof.Machine.execVsortk h desc t d e a b s
  | .vextr h t d a b => Sys2Proof.Machine.execVextr h t d a b s
  | .vinsr h t d a b => Sys2Proof.Machine.execVinsr h t d a b s
  | .rdv h d => Sys2Proof.Machine.execRdv h d s
  | .vld h t d m => Sys2Proof.Machine.execVld h t d m s
  | .vlds h t d m => Sys2Proof.Machine.execVlds h t d m s
  | .vldx h t ix d a b scl disp => Sys2Proof.Machine.execVldx h t ix d a b scl disp s
  | .vst h t d m => Sys2Proof.Machine.execVst h t d m s
  | .vsts h t d m => Sys2Proof.Machine.execVsts h t d m s
  | .vstx h t ix d a b scl disp => Sys2Proof.Machine.execVstx h t ix d a b scl disp s
  | .vstu h t ix d a b scl disp => Sys2Proof.Machine.execVstu h t ix d a b scl disp s
  | .vstxa h t ix d a b scl disp => Sys2Proof.Machine.execVstxa h t ix d a b scl disp s
  | .vfence h k sc => Sys2Proof.Machine.execVfence h k sc s
  | .pref h l2 d m => Sys2Proof.Machine.execPref h l2 d m s
  | .gset h d a b => Sys2Proof.Machine.execGset h d a b s
  | .gsetFree h d => Sys2Proof.Machine.execGsetFree h d s
  | .vgred h op t d a c => Sys2Proof.Machine.execVgred h op t d a c s
  | .vgall h t d a c => Sys2Proof.Machine.execVgall h t d a c s
  | .vgrs h op t d a c => Sys2Proof.Machine.execVgrs h op t d a c s
  | .vgbc h t d a c b => Sys2Proof.Machine.execVgbc h t d a c b s
  | .stream h d a => Sys2Proof.Machine.execStream h d a s
  | .armw h d m => Sys2Proof.Machine.execArmw h d m s
  | .waitw h d m => Sys2Proof.Machine.execWaitw h d m s
  | .jobwait h d a => Sys2Proof.Machine.execJobwait h d a s
  | .ovopen h d => Sys2Proof.Machine.execOvopen h d s
  | .ovopenTry h d c => Sys2Proof.Machine.execOvopenTry h d c s
  | .ovset h a => Sys2Proof.Machine.execOvset h a s
  | .ovretire h d a => Sys2Proof.Machine.execOvretire h d a s
  | .ovcommit h sc d a => Sys2Proof.Machine.execOvcommit h sc d a s
  | .ldo h t d a b disp => Sys2Proof.Machine.execLdo h t d a b disp s
  | .vldo h t d a b disp => Sys2Proof.Machine.execVldo h t d a b disp s
  | .ovstat h sel d a => Sys2Proof.Machine.execOvstat h sel d a s
  | .carve h d a => Sys2Proof.Machine.execCarve h d a s
  | .cclean h l2 d m => Sys2Proof.Machine.execCclean h l2 d m s
  | .cinv h l2 d m => Sys2Proof.Machine.execCinv h l2 d m s
  | .cflush h l2 d m => Sys2Proof.Machine.execCflush h l2 d m s
  | .tlbiAll h => Sys2Proof.Machine.execTlbiAll h s
  | .tlbiAsid h a => Sys2Proof.Machine.execTlbiAsid h a s
  | .tlbiRange h a b c => Sys2Proof.Machine.execTlbiRange h a b c s
  | .digest h d a => Sys2Proof.Machine.execDigest h d a s
  | .digestRng h d a b => Sys2Proof.Machine.execDigestRng h d a b s
  | .budget h d cls res => Sys2Proof.Machine.execBudget h d cls res s
  | .budgetW h d a cls res => Sys2Proof.Machine.execBudgetW h d a cls res s
  | .mattach h d a => Sys2Proof.Machine.execMattach h d a s
  | .mattachPair h d a => Sys2Proof.Machine.execMattachPair h d a s
  | .mdetach h => Sys2Proof.Machine.execMdetach h s
  | .mwld h dst d a => Sys2Proof.Machine.execMwld h dst d a s
  | .mstream h c d a => Sys2Proof.Machine.execMstream h c d a s
  | .mzeroFp h row0 m => Sys2Proof.Machine.execMzeroFp h row0 m s
  | .mzeroInt h row0 m => Sys2Proof.Machine.execMzeroInt h row0 m s
  | .mdrain h c a b => Sys2Proof.Machine.execMdrain h c a b s
  | .mdrainIdx h c a d => Sys2Proof.Machine.execMdrainIdx h c a d s
  | .msave h d m => Sys2Proof.Machine.execMsave h d m s
  | .mrestore h d m => Sys2Proof.Machine.execMrestore h d m s
  | .mlineEmpty h d m => Sys2Proof.Machine.execMlineEmpty h d m s
  | .mlineFull h d m => Sys2Proof.Machine.execMlineFull h d m s
  | .mlineWfull h d m => Sys2Proof.Machine.execMlineWfull h d m s
  | .mlineWempty h d m => Sys2Proof.Machine.execMlineWempty h d m s
  | .mwait h d a => Sys2Proof.Machine.execMwait h d a s
  | .mstat h sel d a => Sys2Proof.Machine.execMstat h sel d a s
  | .tvload h d a g => Sys2Proof.Machine.execTvload h d a g s
  | .tvloadFree h a => Sys2Proof.Machine.execTvloadFree h a s
  | .tvstart h chn d a => Sys2Proof.Machine.execTvstart h chn d a s
  | .tvwait h d a => Sys2Proof.Machine.execTvwait h d a s
  | .tvstat h sel d a => Sys2Proof.Machine.execTvstat h sel d a s
  | .gzlook h d a => Sys2Proof.Machine.execGzlook h d a s
  | .gzupdate h d a => Sys2Proof.Machine.execGzupdate h d a s
  | .gzver h ver d a => Sys2Proof.Machine.execGzver h ver d a s
  | .gzpin h n d a b => Sys2Proof.Machine.execGzpin h n d a b s
  | .gzpinUn h n d a b => Sys2Proof.Machine.execGzpinUn h n d a b s
  | .gzwait h d a => Sys2Proof.Machine.execGzwait h d a s
  | .launch h d a => Sys2Proof.Machine.execLaunch h d a s
  | .launchTry h d a => Sys2Proof.Machine.execLaunchTry h d a s
  | .trig h => Sys2Proof.Machine.execTrig h s
  | .bar h l => Sys2Proof.Machine.execBar h l s
  | .waitl h sc d a b => Sys2Proof.Machine.execWaitl h sc d a b s
  | .lvlid h lev sel d => Sys2Proof.Machine.execLvlid h lev sel d s
  | .mtick h d => Sys2Proof.Machine.execMtick h d s
  | .mtickOrd h d => Sys2Proof.Machine.execMtickOrd h d s
  | .svmark h code a => Sys2Proof.Machine.execSvmark h code a s
  | .svsamp h n a => Sys2Proof.Machine.execSvsamp h n a s
  | .svsampOff h => Sys2Proof.Machine.execSvsampOff h s
  | .svread h sel d a => Sys2Proof.Machine.execSvread h sel d a s
  | .svstop h d a => Sys2Proof.Machine.execSvstop h d a s
  | .waitWake p => Sys2Proof.Machine.execWaitWake p s
  | .queueDeadlock hart => Sys2Proof.Machine.execQueueDeadlock hart s
  | .rendezvousComplete hart serial => Sys2Proof.Machine.execRendezvousComplete hart serial s
  | .laneArrive hart serial lane => Sys2Proof.Machine.execLaneArrive hart serial lane s
  | .vectorTrapCommit hart => Sys2Proof.Machine.execVectorTrapCommit hart s
  | .mzeroApply array => Sys2Proof.Machine.execMzeroApply array s
  | .streamChunk array => Sys2Proof.Machine.execStreamChunk array s
  | .weightSwap array => Sys2Proof.Machine.execWeightSwap array s
  | .barRelease serial level group => Sys2Proof.Machine.execBarRelease serial level group s
  | .clklock h p d => Sys2Proof.Machine.execClklock h p d s
  | .clklockOff h d => Sys2Proof.Machine.execClklockOff h d s
  | .dhash h d a b => Sys2Proof.Machine.execDhash h d a b s
  | .dverify h mode d a => Sys2Proof.Machine.execDverify h mode d a s
  | .dsign h d a b => Sys2Proof.Machine.execDsign h d a b s
  | .dsignAtt h d a => Sys2Proof.Machine.execDsignAtt h d a s
  | .dsignPub h d => Sys2Proof.Machine.execDsignPub h d s
  | .fuserd h d a => Sys2Proof.Machine.execFuserd h d a s
  | .keywipe h d a => Sys2Proof.Machine.execKeywipe h d a s
  | .keywipeAll h d => Sys2Proof.Machine.execKeywipeAll h d s
  | .mextend h idx a b => Sys2Proof.Machine.execMextend h idx a b s
  | .mextendDbg h d => Sys2Proof.Machine.execMextendDbg h d s
  | .lcset h t d => Sys2Proof.Machine.execLcset h t d s
  | .dbgopen h mask d => Sys2Proof.Machine.execDbgopen h mask d s
  | .legSend row fin p sa sb sc c => Sys2Proof.Machine.execLegSend row fin p sa sb sc c s
  | .legRecv fin full arr p sa c => Sys2Proof.Machine.execLegRecv fin full arr p sa c s
  | .legReduce op dt full arr sa sb sc c => Sys2Proof.Machine.execLegReduce op dt full arr sa sb sc c s
  | .legCopy cvt full arr stride sa sc c => Sys2Proof.Machine.execLegCopy cvt full arr stride sa sc c s
  | .legWait k => Sys2Proof.Machine.execLegWait k s
  | .legSignal p sb value => Sys2Proof.Machine.execLegSignal p sb value s
  | .legReserve spill p sb rows => Sys2Proof.Machine.execLegReserve spill p sb rows s
  | .legRepeat lv count target => Sys2Proof.Machine.execLegRepeat lv count target s
  | .legEnd => Sys2Proof.Machine.execLegEnd s
  | .traverseRunStart card => Sys2Proof.Machine.execTraverseRunStart card s
  | .sendLand m => Sys2Proof.Machine.execSendLand m s
  | .signalArrive m => Sys2Proof.Machine.execSignalArrive m s
  | .reserveClaimArrive m => Sys2Proof.Machine.execReserveClaimArrive m s
  | .reserveRound run dst round => Sys2Proof.Machine.execReserveRound run dst round s
  | .legAckArrive m => Sys2Proof.Machine.execLegAckArrive m s
  | .stopNotice run dst => Sys2Proof.Machine.execStopNotice run dst s
  | .cardStart card => Sys2Proof.Machine.execCardStart card s
  | .streamCopyJob card => Sys2Proof.Machine.execStreamCopyJob card s
  | .weightLoadJob card => Sys2Proof.Machine.execWeightLoadJob card s
  | .gzLookupJob card => Sys2Proof.Machine.execGzLookupJob card s
  | .gzUpdateJob card => Sys2Proof.Machine.execGzUpdateJob card s
  | .gzageHalve s1 => Sys2Proof.Machine.execGzageHalve s1 s
  | .cardComplete card => Sys2Proof.Machine.execCardComplete card s
  | .ringWptrWrite n w => Sys2Proof.Machine.execRingWptrWrite n w s
  | .ringReset n v => Sys2Proof.Machine.execRingReset n v s
  | .ringEntryRead n => Sys2Proof.Machine.execRingEntryRead n s
  | .priorityAge n => Sys2Proof.Machine.execPriorityAge n s
  | .depEval serial => Sys2Proof.Machine.execDepEval serial s
  | .launchPlace serial => Sys2Proof.Machine.execLaunchPlace serial s
  | .podAdmission podid rank => Sys2Proof.Machine.execPodAdmission podid rank s
  | .launchComplete serial => Sys2Proof.Machine.execLaunchComplete serial s
  | .preemptWrite serial => Sys2Proof.Machine.execPreemptWrite serial s
  | .cancelWrite serial => Sys2Proof.Machine.execCancelWrite serial s
  | .gangPreempt serial gang => Sys2Proof.Machine.execGangPreempt serial gang s
  | .gangResume serial gang => Sys2Proof.Machine.execGangResume serial gang s
  | .hostMrd off => Sys2Proof.Machine.execHostMrd off s
  | .hostDrd quad asid va len => Sys2Proof.Machine.execHostDrd quad asid va len s
  | .hostDwr quad asid va data => Sys2Proof.Machine.execHostDwr quad asid va data s
  | .hostCpl id ok data => Sys2Proof.Machine.execHostCpl id ok data s
  | .regWrite off v => Sys2Proof.Machine.execRegWrite off v s
  | .fqrespRetry quad id => Sys2Proof.Machine.execFqrespRetry quad id s
  | .fqrespDecline quad id => Sys2Proof.Machine.execFqrespDecline quad id s
  | .pageWalkDone => Sys2Proof.Machine.execPageWalkDone s
  | .faultRecordPost quad => Sys2Proof.Machine.execFaultRecordPost quad s
  | .sideLogPerform hart => Sys2Proof.Machine.execSideLogPerform hart s
  | .sideLogPageTrap p => Sys2Proof.Machine.execSideLogPageTrap p s
  | .tagEndOvstaleTrap p => Sys2Proof.Machine.execTagEndOvstaleTrap p s
  | .roundProtTrap p => Sys2Proof.Machine.execRoundProtTrap p s
  | .wcbDrainTimeout core => Sys2Proof.Machine.execWcbDrainTimeout core s
  | .l1LeaseExpire core => Sys2Proof.Machine.execL1LeaseExpire core s
  | .borderCopyInvalidate quad sector => Sys2Proof.Machine.execBorderCopyInvalidate quad sector s
  | .budgetPeriod => Sys2Proof.Machine.execBudgetPeriod s
  | .roundApply serial => Sys2Proof.Machine.execRoundApply serial s
  | .trainReceive t => Sys2Proof.Machine.execTrainReceive t s
  | .trainAck serial => Sys2Proof.Machine.execTrainAck serial s
  | .trainRefusal serial => Sys2Proof.Machine.execTrainRefusal serial s
  | .ualinkReadServe r => Sys2Proof.Machine.execUalinkReadServe r s
  | .ualinkResponse id data => Sys2Proof.Machine.execUalinkResponse id data s
  | .tlbicmdAll => Sys2Proof.Machine.execTlbicmdAll s
  | .tlbicmdAsid asid => Sys2Proof.Machine.execTlbicmdAsid asid s
  | .tlbicmdRange asid => Sys2Proof.Machine.execTlbicmdRange asid s
  | .tlbicmdDone => Sys2Proof.Machine.execTlbicmdDone s
  | .uncorrected pa => Sys2Proof.Machine.execUncorrected pa s
  | .scrub quad corrected => Sys2Proof.Machine.execScrub quad corrected s
  | .ovgaddWrite v => Sys2Proof.Machine.execOvgaddWrite v s
  | .poolGrowDone => Sys2Proof.Machine.execPoolGrowDone s
  | .gzdsyncWrite v => Sys2Proof.Machine.execGzdsyncWrite v s
  | .gzprobeWrite v => Sys2Proof.Machine.execGzprobeWrite v s
  | .gzprobeDone => Sys2Proof.Machine.execGzprobeDone s
  | .tickAlign tick => Sys2Proof.Machine.execTickAlign tick s
  | .tickAlignLoss => Sys2Proof.Machine.execTickAlignLoss s
  | .sampleRecord hart stages total => Sys2Proof.Machine.execSampleRecord hart stages total s
  | .stopFire => Sys2Proof.Machine.execStopFire s
  | .svrunWrite v => Sys2Proof.Machine.execSvrunWrite v s
  | .svstatDisarm v => Sys2Proof.Machine.execSvstatDisarm v s
  | .rlctlWrite v => Sys2Proof.Machine.execRlctlWrite v s
  | .rlwptrSupply v => Sys2Proof.Machine.execRlwptrSupply v s
  | .replayInputArrive i1 => Sys2Proof.Machine.execReplayInputArrive i1 s
  | .powerGoodReset => Sys2Proof.Machine.execPowerGoodReset s
  | .dwinWrite v => Sys2Proof.Machine.execDwinWrite v s
  | .dmloadWrite v => Sys2Proof.Machine.execDmloadWrite v s
  | .unitReady bit => Sys2Proof.Machine.execUnitReady bit s
  | .unitLost bit => Sys2Proof.Machine.execUnitLost bit s
  | .cdisWrite w v => Sys2Proof.Machine.execCdisWrite w v s
  | .pcapWrite board v => Sys2Proof.Machine.execPcapWrite board v s
  | .powerLimitRaise => Sys2Proof.Machine.execPowerLimitRaise s
  | .powerLimitRelax => Sys2Proof.Machine.execPowerLimitRelax s
  | .thermalLimitRaise => Sys2Proof.Machine.execThermalLimitRaise s
  | .thermalTrip => Sys2Proof.Machine.execThermalTrip s
  | .thermalLimitRelax => Sys2Proof.Machine.execThermalLimitRelax s
  | .pointChange => Sys2Proof.Machine.execPointChange s
  | .kctlLoad slot => Sys2Proof.Machine.execKctlLoad slot s
  | .kctlClearSeal slot => Sys2Proof.Machine.execKctlClearSeal slot s
  | .dunlkAbort => Sys2Proof.Machine.execDunlkAbort s
  | .dchalDraw => Sys2Proof.Machine.execDchalDraw s
  | .debugScan => Sys2Proof.Machine.execDebugScan s
  | .debugMemrd pa => Sys2Proof.Machine.execDebugMemrd pa s
  | .debugMemwr pa v => Sys2Proof.Machine.execDebugMemwr pa v s
  | .debugSvstop tick => Sys2Proof.Machine.execDebugSvstop tick s
  | .i3cEntdaa addr => Sys2Proof.Machine.execI3cEntdaa addr s
  | .i3cRstdaa => Sys2Proof.Machine.execI3cRstdaa s
  | .i3cGetpid => Sys2Proof.Machine.execI3cGetpid s
  | .i3cGetbcr => Sys2Proof.Machine.execI3cGetbcr s
  | .i3cGetdcr => Sys2Proof.Machine.execI3cGetdcr s
  | .i3cGetstatus => Sys2Proof.Machine.execI3cGetstatus s
  | .i3cPrivateWrite off v => Sys2Proof.Machine.execI3cPrivateWrite off v s
  | .laneComplete hart serial lane => Sys2Proof.Machine.execLaneComplete hart serial lane s
  | .meridianTick => Sys2Proof.Machine.execMeridianTick s
  | .ualinkErrorResponse id => Sys2Proof.Machine.execUalinkErrorResponse id s
  | .gzdsyncDone => Sys2Proof.Machine.execGzdsyncDone s
  | .i3cPrivateRead off => Sys2Proof.Machine.execI3cPrivateRead off s

end Sys2Proof.Machine
end

