-- ==== Sys2Proof/Machine/Turn.lean ====
section
/-! DEFINITION. A stream's turn: whether it may issue, the fetch of its line, and the issue of one instruction or one
pair (02 R66..R71, 05 R231, R236, R237; 06 R259, R263). A channel's turn: one leg of its run (12 R485). -/

namespace Sys2Proof.Machine

open Sys2Proof

/-- The issue of a single slot. -/
def Issue.single (n : Word) (raw : Word96) (last : Nat) : Issue := ⟨n, raw, last, false, false, n, false, none, .none, none⟩

/-- The issue of the second slot of a pair by itself: the first is complete, and the pair's end actions are due after it
(02 R70, R71; 05 R200). -/
def Issue.rest (n : Word) (raw : Word96) (last : Nat) : Issue := ⟨n, raw, last, false, true, n - 1, false, none, .none, none⟩

/-- Go on from a next state. -/
def andThen (o : Host.Outcome State Fault Refusal) (f : State → Host.Outcome State Fault Refusal) :
    Host.Outcome State Fault Refusal :=
  match o with
  | .next s => f s
  | .fault r => .fault r
  | .refused r => .refused r

/-- A word that no instruction has: ILL with bits [95:32] (02 R87 step 2). -/
def illegalWord (s : State) : Host.Outcome State Fault Refusal :=
  .next (trapAt s (vectorMajor (majorOf s.issue.raw)) causeIll ((s.issue.raw >>> 32).setWidth 64))

/-- Does an instruction leave its stream's late stores late? A scalar store alone does: every other instruction finds them
performed (01 R37; log 6). -/
def overtakes : Instr → Bool
  | .st _ _ _ _ => true
  | _ => false

/-- Issue a slot's word alone. -/
noncomputable def issueSlot (w : Word96) (is : Issue) (s : State) : Host.Outcome State Fault Refusal :=
  let s := { s with issue := is }
  match decode w with
  | none => illegalWord s
  | some i => exec i (if overtakes i then s else s.inOrder)

/-- Queue needs of an instruction whose guard is true. -/
def guardedNeeds (s : State) (i : Instr) : List (Nat × Bool) :=
  match Instr.hdr? i with
  | some (_, h) => if guardTrue (s.stream s.cur) h then queueNeeds s i else []
  | none => []

/-- Does an instruction wait for a scalar result, its guard being true? -/
def heldBack (s : State) (i : Instr) : Bool :=
  match Instr.hdr? i with
  | some (_, h) => guardTrue (s.stream s.cur) h && scalarBlocked s i
  | none => false

/-- The registers that a class S member leaves in the stream, over those of the other member (02 R70). -/
def mergeRegs (i : Instr) (a b : Stream) : Stream :=
  let w := Instr.regsWritten i
  { b with
    x := Vector.ofFn fun n => if w.contains n.val then b.x[n] else a.x[n]
    p := (List.range 8).foldl (fun (p : BitVec 8) n =>
      let src := if w.contains (256 + n) then b.p else a.p
      if src.getLsbD n then p ||| ((1#8) <<< n) else p) 0 }

/-- How far the instruction in hand has come, from another state of its stream. -/
def Stream.carry (st old : Stream) : Stream :=
  { st with
    captured := old.captured
    storing := old.storing
    stage := old.stage
    reads := old.reads
    logSerial := old.logSerial
    declined := old.declined
    targetFault := old.targetFault }

/-- Does a trap of a pair spare both members, and name the first slot: ILL, PRIV, REGALLOT, QDIR of either, and a loop return
whose loop ends at the first slot (02 R70, R71; 05 R200)? -/
def sparesBoth (n : Word) (t : Nat × Word × Word) : Bool :=
  [causeIll, causePriv, causeRegallot, causeQdir].contains t.1 || t.2.2 == n

/-- What becomes of a pair whose second member has ended: a trap that spares both leaves the state before the pair. -/
def pairTrap (n : Word) (vec : Bool) (s s2 : State) : State :=
  match s2.issue.trap with
  | some t => if sparesBoth n t then trapAt s vec t.1 t.2.1 else s2
  | none => s2

/-- A pair whose member of class S stands first: it takes its effect unless the other cannot issue yet (02 R70). -/
noncomputable def pairScalarFirst (n : Word) (i1 i2 : Instr) (w1 w2 : Word96) (last : Nat) (s : State) :
    Host.Outcome State Fault Refusal :=
  andThen (exec i1 { s with issue := ⟨n, w1, last, true, false, n, false, none, .none, none⟩ }) fun s1 =>
    if s1.issue.res ≠ .retired then .next s1
    else
      let st := s.stream s.cur
      let s1' := s1.setStream s.cur ((s1.stream s.cur).carry st)
      andThen (exec i2 { s1' with issue := ⟨n + 1, w2, last, false, true, n, false, s1.issue.skip, .none, none⟩ }) fun s2 =>
        if s2.issue.res = .waits then
          let s2 := restoreQueues s s2 s.cur
          .next (s2.setStream s.cur { s2.stream s.cur with x := st.x, p := st.p, pc := st.pc, icount := st.icount })
        else .next (pairTrap n (Instr.isVector i2) { s with issue := s1.issue } s2)

/-- A pair whose member of class S stands second: it reads its registers as they were before the first took its
effect, and has none when the first traps or waits (02 R70, R71). -/
noncomputable def pairScalarSecond (n : Word) (i1 i2 : Instr) (w1 w2 : Word96) (last : Nat) (s : State) :
    Host.Outcome State Fault Refusal :=
  andThen (exec i1 { s with issue := ⟨n, w1, last, true, false, n, false, none, .none, none⟩ }) fun s1 =>
    if s1.issue.res = .retired then
      let st := s.stream s.cur
      let st1 := s1.stream s.cur
      let sIn := s1.setStream s.cur { st1 with x := st.x, p := st.p }
      andThen (exec i2 { sIn with issue := ⟨n + 1, w2, last, false, true, n, s1.issue.jumped, s1.issue.skip, .none, none⟩ })
        fun s2 =>
        .next (pairTrap n (Instr.isVector i1) { s with issue := s1.issue }
          (s2.setStream s.cur (mergeRegs i2 st1 (s2.stream s.cur))))
    else .next s1

/-- Issue a pair at slots n and n + 1 (02 R70, R71): the checks that spare both members come first, slot n's before the
other's; then both members' queues, and the scalar results that either awaits. -/
noncomputable def issuePair (n : Word) (w1 w2 : Word96) (last : Nat) (s : State) : Host.Outcome State Fault Refusal :=
  let s1 := { s with issue := Issue.single n w1 last }
  let s2 := { s with issue := Issue.single n w2 last }
  match decode w1, decode w2 with
  | none, _ => illegalWord s1
  | some i1, none => if (issueTrap s1 i1).isSome then exec i1 s1 else illegalWord s2
  | some i1, some i2 =>
    if (issueTrap s1 i1).isSome then exec i1 s1
    else if (issueTrap s2 i2).isSome then exec i2 s2
    else
      let unit := { s with issue := { Issue.single n w1 last with first := true } }
      if heldBack unit i1 || heldBack unit i2 then .next (waits s1)
      else match firstBlocked (s.hart s.cur.slot) [] (guardedNeeds s1 i1 ++ guardedNeeds s2 i2) with
      | some c =>
        let vec := Instr.isVector i1 || Instr.isVector i2
        .next (waits (s1.setStream s.cur { s.stream s.cur with blocked := some (blockedCode c), blockedVec := vec }))
      | none =>
        if classOf (majorOf w1) = some .s then pairScalarFirst n i1 i2 w1 w2 last s
        else pairScalarSecond n i1 i2 w1 w2 last s

/-- Issue what stands at the stream's pc: its line is fetched and checked when control enters it (02 R61, R66, R70). -/
noncomputable def fetchAndIssue (s : State) : Host.Outcome State Fault Refusal :=
  let n := (s.stream s.cur).pc
  let s := { s with issue := Issue.single n 0 0 }
  match lineHere n s with
  | .error e s' => answerExc false (fun _ => 0) false s e s'
  | .ok l s' =>
    let k := n.toNat % 5
    if k < 4 && pairBit l k then issuePair n (slotWord l k) (slotWord l (k + 1)) (lastOf l) s'.inOrder
    else if 0 < k && pairBit l (k - 1) then issueSlot (slotWord l k) (Issue.rest n (slotWord l k) (lastOf l)) s'
    else issueSlot (slotWord l k) (Issue.single n (slotWord l k) (lastOf l)) s'

/-- Has a WAIT ended: a store on its line, or its limit (05 R237)? -/
def WaitSt.over (w : WaitSt) (tick : Nat) : Bool :=
  w.stored || (match w.until_ with
    | some t => decide (t ≤ tick)
    | none => false)

/-- A stream that nothing holds or stops goes on: a trap that is owed to it comes first, a WAIT keeps it from issuing,
and after Y it gives up one turn (05 R236, R237; 06 R259, R270). -/
noncomputable def goOn (st : Stream) (s : State) : Host.Outcome State Fault Refusal :=
  if st.faultWait.isSome then .next s
  else match if st.atBoundary then st.deferred else [] with
    | d :: _ => .next (s.takeDeferred s.cur d.cause)
    | [] =>
      match st.waiting with
      | some w =>
        if w.over s.tick then fetchAndIssue (s.setStream s.cur { st with waiting := none }) else .next s
      | none =>
        if st.yielded then .next (s.setStream s.cur { st with yielded := false }) else fetchAndIssue s

/-- The turn of a held stream: an instruction of it that has performed an access completes; it cannot trap while its partner
handles a trap (05 R231). -/
noncomputable def heldTurn (st : Stream) (s : State) : Host.Outcome State Fault Refusal :=
  if !st.midAccess || st.faultWait.isSome then .next s
  else andThen (fetchAndIssue s) fun t => .next (if t.issue.res = .trapped then s else t)

/-- The turn of the executing stream: it does nothing before its start and after its end, and while it is held
(05 R231, R238). A vector trap found is taken at its stream's turn; the partner, which it is about to hold, issues
nothing before (08 R346). -/
noncomputable def takeTurn (s : State) : Host.Outcome State Fault Refusal :=
  match s.stream? s.cur with
  | none => .next s
  | some st =>
    if !st.live then .next s
    else match s.cur with
      | .datum => goOn st s
      | .stream slot isX =>
        let h := s.hart slot
        if h.held = some isX then heldTurn st s
        else match h.vfault with
          | none => goOn st s
          | some v =>
            if v.isX = isX then execVectorTrapCommit slot s
            else if h.held = some v.isX || !(h.stream v.isX).live then goOn st s
            else .next s

/-- The turn of a channel: the leg that its run has reached. Beyond the last leg the run stops with BADREP, at a word
that is no leg with ILLEG (12 R485, R486, R510). -/
noncomputable def channelTurn (s : State) : Host.Outcome State Fault Refusal :=
  match s.runEnv s.curChan with
  | none => .next s
  | some e =>
    match cardStopDetail e.k with
    | some (d, va) => .next (s.endRun e.key e.c d va)
    | none =>
      if e.k.faultWait.isSome then .next s
      else match e.p.legs[e.c.leg]? with
        | none => .next (s.endRun e.key e.c 4 0)
        | some w => match decodeLeg w with
          | none => .next (s.endRun e.key e.c 1 0)
          | some i => exec i s

end Sys2Proof.Machine
end

