-- ==== Sys2Proof/Machine/Engine.lean ====
section
/-! DEFINITION. The part's own events: those that may be due in a state, and the turn of the engines, which performs
one of them (log 1). -/

namespace Sys2Proof.Machine

open Sys2Proof

/-- The levels and groups at whose barriers streams of a launch wait within the package (04 R185). -/
def State.barsOf (s : State) (l : Launch) : List (Nat × Nat) :=
  ((s.launchHarts l).flatMap fun h => [h.sa, h.sx].filterMap fun st => st.barWait.map fun lev =>
    (lev, l.info.groupOf h.index lev)).filter fun x => (l.info.level x.1).dom != 7

/-- Events of a launch (04 R147, R153, R155, R157, R167, R172, R185; 07 R309). -/
noncomputable def State.launchEvents (s : State) (l : Launch) : List Instr :=
  let serial := l.serial
  match l.phase with
  | .waiting => [.depEval serial]
  | .eligible => [.launchPlace serial]
  | .running =>
    [.launchPlace serial, .launchComplete serial]
      ++ ((s.barsOf l).map fun x => .barRelease serial x.1 x.2)
      ++ (if l.info.det && !l.info.pod then [.roundApply serial] else [])
      ++ ((l.gangs.filter fun g => g.asked).map fun g => .gangPreempt serial g.index)
      ++ ((l.gangs.filter fun g => g.st == .preempted).map fun g => .gangResume serial g.index)
  | .ending => [.launchComplete serial]
  | .done => []

/-- Events of the rings (04 R144, R147). -/
noncomputable def State.ringEvents (s : State) : List Instr :=
  (List.finRange 64).flatMap fun n =>
    let r := s.ring n.val
    (if r.rptr.toNat < r.wptr.toNat then [.ringEntryRead n] else []) ++ (if r.aging.isSome then [.priorityAge n] else [])

/-- Events of a card (01 R19; 04 R165, R166; 12 R479). -/
noncomputable def cardEvents (k : Card) : List Instr :=
  let h := k.handle
  if k.completed.isSome then []
  else [match k.job with
    | .stream _ => if k.started then .streamCopyJob h else .cardStart h
    | .weight _ _ _ => if k.started then .weightLoadJob h else .cardStart h
    | .traverse _ _ _ => .traverseRunStart h
    | .lookup _ _ => if k.started then .gzLookupJob h else .cardStart h
    | .update _ _ => if k.started then .gzUpdateJob h else .cardStart h, .cardComplete h]

/-- Messages of runs that have come (12 R485, R493, R495, R508, R511), and det rounds (12 R495). -/
noncomputable def State.runEvents (s : State) : List Instr :=
  (s.tv.flight.map fun m => match m with
    | .send m => .sendLand m
    | .signal m => .signalArrive m
    | .reserve m => .reserveClaimArrive m
    | .ack m => .legAckArrive m
    | .stop run dst => .stopNotice run dst)
    ++ s.tv.reserves.map fun m => .reserveRound m.run m.dst m.round

/-- Events of the arrays with commands (11 R440, R449, R462). -/
noncomputable def State.arrayEvents (s : State) : List Instr :=
  (List.finRange 128).flatMap fun a =>
    if (s.array a.val).queue.isEmpty then [] else [.mzeroApply a, .streamChunk a, .weightSwap a]

/-- Events of a hart: its lanes, its queues, its side log, its samples (05 R195; 06 R268; 09 R381..R384; 14 R561). -/
noncomputable def hartEvents (slot : Nat) (h : Hart) : List Instr :=
  (h.inflight.flatMap fun e =>
    if e.rendezvous then
      .rendezvousComplete slot e.serial :: (List.finRange 16).map fun n => .laneArrive slot e.serial n
    else (List.finRange 16).map fun n => .laneComplete slot e.serial n)
    ++ (if h.deadlocked true || h.deadlocked false then [.queueDeadlock slot] else [])
    ++ (if h.sideLog.isEmpty then [] else [.sideLogPerform slot])
    ++ (if h.svPend.isEmpty then [] else [.sampleRecord slot [] 0])

/-- Events of the memory, overlay and gazetteer engines (06 R258, R260, R290; 10 R421; 13 R527, R537, R539). -/
noncomputable def State.memEvents (s : State) : List Instr :=
  (if s.mem.walks.isEmpty then [] else [.pageWalkDone])
    ++ ((List.finRange 4).filter fun q => s.mem.faults.any fun f => f.quad == q.val && f.id.isNone).map
      (fun q => .faultRecordPost q)
    ++ (if s.mem.tlbBusy then [.tlbicmdDone] else [])
    ++ (if s.ov.gbusy then [.poolGrowDone] else [])
    ++ (if s.gz.dbusy then [.gzdsyncDone] else [])
    ++ (if s.gz.probeBusy then [.gzprobeDone] else [])
    ++ ((List.finRange 12).filter fun e => decide (2 ^ 20 ≤ s.gz.age.get e.val 0)).map fun e => .gzageHalve e

/-- Steps of the operating point that are due (15 R604). -/
noncomputable def State.powerEvents (s : State) : List Instr :=
  (if s.dc.dueRaise then [.powerLimitRaise] else []) ++ (if s.dc.dueRelax then [.powerLimitRelax] else [])
    ++ (if s.dc.dueHot then [.thermalLimitRaise] else []) ++ (if s.dc.dueTrip then [.thermalTrip] else [])
    ++ (if s.dc.dueCold then [.thermalLimitRelax] else [])
    ++ (if s.targetPoint = s.sv.point then [] else [.pointChange])

/-- The events of the part's own engines that may be due. -/
noncomputable def State.engineEvents (s : State) : List Instr :=
  s.ringEvents ++ s.la.launches.flatMap s.launchEvents ++ s.la.cards.flatMap cardEvents ++ s.runEvents ++ s.arrayEvents
    ++ (s.harts.flatMap fun kv => hartEvents kv.1 kv.2) ++ s.memEvents ++ s.powerEvents

/-- The times of a sampled request are free values (14 R560, R561; log 5). -/
def State.sampleTimes (s : State) : List (Nat × Nat) × Nat × State :=
  let n := s.fresh
  let passed := (Config.freeWord n).toNat
  let total := (Config.freeWord (n + 1)).toNat
  let stages := ((List.range 8).filter fun i => bitOf passed i).map fun i => (i, (Config.freeWord (n + 2 + i)).toNat)
  (stages, total, { s with fresh := n + 10 })

/-- An event of the engines comes about. -/
noncomputable def runEvent (i : Instr) (s : State) : Host.Outcome State Fault Refusal :=
  match i with
  | .sampleRecord slot _ _ =>
    let (stages, total, s) := s.sampleTimes
    exec (.sampleRecord slot stages total) s
  | i => exec i s

/-- The first of the events that makes a difference; an event that is not due leaves the machine as it is. -/
noncomputable def firstDue (s : State) : List Instr → Host.Outcome State Fault Refusal
  | [] => .next s
  | i :: rest => match runEvent i s with
    | .next t => if t = s then firstDue s rest else .next t
    | .fault r => .fault r
    | .refused r => .refused r

/-- The turn of the engines: one event that is due, looked for from a place that moves on with every turn. -/
noncomputable def engineTurn (s : State) : Host.Outcome State Fault Refusal :=
  let s := { s with engineAt := s.engineAt + 1 }
  let l := s.engineEvents
  let k := s.engineAt % max 1 l.length
  firstDue s (l.drop k ++ l.take k)

/-- Is a constructor an event, not an instruction of a stream or a leg of a run? -/
def isEvent (i : Instr) : Bool := (Instr.hdr? i).isNone && i.legFields.isNone

/-- An act comes about. Of the constructors of `Instr` only events act without a fetch. -/
noncomputable def runAct (a : Act) (s : State) : Host.Outcome State Fault Refusal :=
  match a with
  | .stream p => takeTurn { s with cur := p, reqs := [], lateTurn := false }
  | .streamLate p => takeTurn { s with cur := p, reqs := [], lateTurn := true }
  | .channel quad ch => channelTurn { s.allPerformed with curChan := quad.val * 16 + ch.val }
  | .event i => if isEvent i then exec i s.allPerformed else .next s
  | .engine => engineTurn s.allPerformed
  | .clock => execMeridianTick s.allPerformed
  | .evict quad line => .next (s.evictL2 quad line)

/-- May an act come about while the package is stopped? The meridian counter runs, the host ends or disarms the stop,
the host, the board controller and the debug port read, power-good reset applies (14 R564, R565; 15 R600, R616). -/
def worksStopped : Act → Bool
  | .clock => true
  | .event i => match i with
    | .meridianTick => true
    | .tickAlign _ => true
    | .tickAlignLoss => true
    | .svrunWrite _ => true
    | .svstatDisarm _ => true
    | .hostMrd _ => true
    | .i3cPrivateRead _ => true
    | .powerGoodReset => true
    | .debugScan => true
    | .debugMemrd _ => true
    | .debugMemwr _ _ => true
    | .debugSvstop _ => true
    | _ => false
  | _ => false

/-- The first of the acts to come that may come about while the package is stopped, and the others. -/
def takeStopped : List Act → Option (Act × List Act)
  | [] => none
  | a :: l => if worksStopped a then some (a, l) else (takeStopped l).map fun r => (r.1, a :: r.2)

/-- What happens in a stopped package: nothing but the acts that work while it is stopped; time goes on (14 R564). -/
noncomputable def stoppedTurn (s : State) : Host.Outcome State Fault Refusal :=
  match takeStopped s.agenda with
  | some (a, l) => runAct a { s with agenda := l }
  | none => execMeridianTick s

/-- Is a stream ready: live, not held, waiting neither for a page nor under WAIT (01 R32)? -/
def State.isReady (s : State) (p : Party) : Bool :=
  match s.stream? p with
  | none => false
  | some st => st.live && st.faultWait.isNone && st.waiting.isNone && !p.isDatum && (s.hart p.slot).held != some p.isX

/-- The stream whose turn it is when a stream is to act: the ready one of its core that has gone longest without a turn
(01 R32). -/
def State.elder (s : State) (p : Party) : Party :=
  let on := fun (a : Act) => match a with
    | .stream q => if !q.isDatum && coreOf q.slot == coreOf p.slot && (q == p || s.isReady q) then some q else none
    | _ => none
  if p.isDatum then p else (s.order.findSome? on).getD p

/-- A stream that has its turn goes to the end of the order of turns. -/
def State.hadTurn (s : State) (p : Party) : State :=
  if s.order.contains (.stream p) then { s with order := s.order.erase (.stream p) ++ [.stream p] } else s

/-- The next of the acts to come comes about. A stream's act is that of the stream of its core whose turn it is. -/
noncomputable def agendaTurn (a : Act) (s : State) : Host.Outcome State Fault Refusal :=
  match a with
  | .stream p => runAct (.stream (s.elder p)) (s.hadTurn (s.elder p))
  | .streamLate p => runAct (.streamLate (s.elder p)) (s.hadTurn (s.elder p))
  | a => runAct a s

/-- What happens in a running package: the next of the acts to come; when there is none, the next act of the order of
turns, which goes to the end of the order (01 R32; log 1). -/
noncomputable def runningTurn (s : State) : Host.Outcome State Fault Refusal :=
  match s.agenda, s.order with
  | a :: l, _ => agendaTurn a { s with agenda := l }
  | [], a :: l => runAct a { s with order := l ++ [a] }
  | [], [] => execMeridianTick s

end Sys2Proof.Machine
end

