-- ==== Sys2Proof/Machine/Place.lean ====
section
/-! DEFINITION. Placing one instruction from outside where the next step fetches: the load that log 1 describes. A word of
the datum core goes to its SRAM; another word of 96 bits to a page of device memory, with a launch of one hart; a leg to
program memory, with a run on a channel. -/

namespace Sys2Proof.Machine

open Sys2Proof

/-- The line that holds one word in slot 0, its legend with the parity bit of the slot (02 R61, R63). -/
def lineOfWord (w : Word96) : Line :=
  w.setWidth 512 ||| ((if xorBits 96 w.toNat then (1#512) else 0) <<< 480)

/-- Serial of the placed launch. -/
def placedSerial : Word := 1

/-- The record of a launch of one hart with two streams, both at instruction 5. -/
def placedRecord : LaunchRec where
  nlev := 1
  det := false
  pair := false
  pod := false
  sigscope := 2
  prio := 0
  asid := 0
  xent := 5
  aent := 5
  levels := []
  allot := 64
  lanes := 4
  ways := 16
  tagq := 0
  bclass := 0
  pool := 0
  seed := 0
  sigaddr := 0
  siginc := 0
  triginc := 0
  trigcnt := 0
  deps := []
  arg := 0
  stack := 0
  stride := 0
  podid := 0
  podn := 0
  podrank := 0

/-- The placed launch: its one gang is resident on hart slot 0. -/
def placedLaunch : Launch where
  serial := placedSerial
  name := placedSerial
  info := placedRecord
  home := 0
  lslot := 0
  evq := 0
  ring := none
  device := false
  after := none
  phase := .running
  evalAt := 0
  reads := []
  adds := []
  stage := 0
  digest := (0, 0)
  cancelled := false
  gangs := [⟨0, 0, 1, .resident, [(0, 0)], [], [], [], [], 0, false⟩]
  trigCount := 0
  trigDone := false
  nextSeq := 1
  groups := []
  pool := 0
  waiters := []
  dslot := none
  dlist := []
  dover := false
  energy := []
  selfAdmitted := false
  begun := true
  rounds := 0

/-- The package runs, its units ready, the placed launch on a hart slot and a core of its own. -/
def State.withPlacedLaunch (s : State) : State :=
  { s with
    harts := s.harts.put 0 (startHart placedRecord placedSerial s.la.tvecdef 0 true false)
    cores := s.cores.put 0 (Core.blank.join placedSerial 16)
    la := { s.la with launches := placedLaunch :: s.la.launches.filter fun l => l.serial != placedSerial }
    sv := { s.sv with stopped := false }
    dc := { s.dc with ready := BitVec.allOnes 57 } }

/-- A leaf that maps the first page of address space 0 to the first page of device memory, with every permission. -/
def placedLeaf : Leaf := ⟨0, 0, 65536, 0, 0, 0, false, true, true, true, true⟩

/-- Place a hart's word: stream A of the placed launch fetches it at instruction 5. -/
def State.withHartWord (s : State) (w : Word96) : State :=
  let s := s.withPlacedLaunch
  { s with
    agenda := .stream (.stream 0 false) :: s.agenda
    order := s.order.filter fun a => match a with
      | .stream p => p.isDatum || coreOf p.slot != 0
      | _ => true
    mem := { s.mem with
      l2 := s.mem.l2.put 1 ⟨lineOfWord w, false⟩
      atbase := s.mem.atbase ||| 1#64
      poison := rangesDel s.mem.poison 1 2
      border := s.mem.border.filter fun b => b.sector != 1
      tlbs := (.core 0, placedLeaf) :: s.mem.tlbs
      budget := s.mem.budget.filter fun kv => 4 ≤ kv.1 } }

/-- Place a word of the datum core at the start of its SRAM. -/
def State.withDatumWord (s : State) (w : Word96) : State :=
  { s with
    agenda := .stream .datum :: s.agenda
    sv := { s.sv with stopped := false }
    dc := { s.dc with
      core := { Stream.blank with priv := true, ssm := true, live := true, started := true, strm := true, pc := 81920 }
      sram := s.dc.sram.setBytes 0 (Line.bytes (lineOfWord w)) } }

/-- The card of the placed run. -/
def placedCard : Card where
  serial := placedSerial
  seq := 0
  handle := 0x3000000000000000
  job := .traverse 0 0 0
  regions := []
  edges := []
  hart := 0
  isX := false
  core := 0
  user := true
  ovt := 0
  ovft := 0x20115
  started := true
  entry := []
  prog := 0
  part := []
  trains := []
  reads := []
  faultWait := none
  stop := none
  completed := none
  trapped := false

/-- The program of the placed run: the leg, then END; every slot is 64 KiB at the card's core's scratchpad. -/
def placedProgram (w : BitVec 128) : TProg where
  gen := 0
  used := true
  serial := placedSerial
  first := 0
  det := false
  legs := [w, 9]
  slots := List.replicate 16 ⟨0xFF00000001C00000, 65536, 64, 16, 0xFF00000001C10000, 0xFF00000001C10040, 0⟩
  gidx := 0
  exb := 0
  exs := 0
  count := 1
  rank := 0

/-- Place a leg: the run on channel 0 of quadrant 0 has reached it. -/
def State.withLegWord (s : State) (w : BitVec 128) : State :=
  let s := s.withPlacedLaunch
  let run : RunId := ⟨0, 0, 1, 0⟩
  { s with
    agenda := .channel 0 0 :: s.agenda
    la := { s.la with cards := placedCard :: s.la.cards.filter fun c => c.serial != placedSerial }
    tv := { s.tv with
      progs := s.tv.progs.put 0 (placedProgram w)
      chans := s.tv.chans.put 0 (Chan.fresh placedCard 0 run 0) } }

end Sys2Proof.Machine
end

