-- ==== Sys2Proof/Machine/Step.lean ====
section
/-! DEFINITION. One step of the machine, and the placing of one instruction where the next step fetches. -/

namespace Sys2Proof.Machine

open Sys2Proof

/-- One step: one act of one agent, whole and indivisible (01 R32; 14 R564; log 1). -/
noncomputable def step (s : State) : Host.Outcome State Fault Refusal :=
  if s.sv.stopped then stoppedTurn s else runningTurn s

/-- The machine with one instruction where `step` fetches next, and its turn next: 96 bits are a word of a hart or, by
its major, of the datum core; more are a leg. -/
def State.withFetchWord (s : State) (nbits w : Nat) : State :=
  let bits := w % 2 ^ nbits
  if 96 < nbits then s.withLegWord (BitVec.ofNat 128 bits)
  else if majorOf (BitVec.ofNat 96 bits) = 0x98 then s.withDatumWord (BitVec.ofNat 96 bits)
  else s.withHartWord (BitVec.ofNat 96 bits)

end Sys2Proof.Machine
end

