-- ==== Sys2Proof/Safety.lean ====
section
/-! DEFINITION. The words in which claims about the machine are put: safe runs, when an instruction issues and its body
runs, how it finishes, what its operands give and take, and the arithmetic of the spec on exact integers. -/

namespace Sys2Proof.Machine

open Sys2Proof

/-! Safe runs. -/

/-- k steps from a state all answer a next state: none stops with a fault or a refusal. -/
def SafeFor (k : Nat) (s : State) : Prop := ∃ t, Sys2Proof.core.run k s = .next t

/-- A run of any length is safe. -/
def Safe (s : State) : Prop := ∀ k, SafeFor k s

/-! Issue (02 R87). -/

/-- The executing stream runs and has no instruction in hand, no check of steps 2 and 4 to 6 of 02 R87 stops the
instruction, its guard predicate is true, no queue blocks it, no scalar result of an earlier vector instruction is awaited by
it (08 R345), and no register that it reads is marked (06 R285): its body runs. -/
structure Issues (i : Instr) (h : Hdr) (s : State) : Prop where
  live : ∃ st, s.stream? s.cur = some st ∧ st.live = true ∧ st.captured = none
  clear : issueTrap s i = none
  guard : guardTrue (s.stream s.cur) h = true
  queues : queueBlocked s i = none
  scalars : scalarBlocked s i = false
  marks : marked s i = none

/-- The machine once an instruction of `s` whose body left `t` has retired: its requests are counted, what it wrote is good
data, and control goes on as `ctl` says (02 R64; 03 R119; 05 R200; 06 R285; 14 R560). -/
def finish (i : Instr) (h : Hdr) (s : State) (ctl : Ctl) (t : State) : State :=
  retire i h (!(s.stream s.cur).priv) ctl (clearMarks i (flushReqs i t))

/-- The end action of the instruction makes no loop return to a number beyond the last instruction (05 R200). -/
def ReturnLegal (i : Instr) (ctl : Ctl) (t : State) : Prop := badReturn ctl (clearMarks i (flushReqs i t)) = none

/-- Wherever the instruction issues, it completes with the body's effect `t` and control `ctl`. -/
def Does (i : Instr) (h : Hdr) (s : State) (ctl : Ctl) (t : State) : Prop :=
  Issues i h s → ReturnLegal i ctl t → Sys2Proof.Machine.exec i s = .next (finish i h s ctl t)

/-- No end action stands in the way of going on at the next number: no STRIP body and no loop ends are armed
(05 R200, 08 R357). -/
def PlainEnd (s : State) : Prop := (s.stream s.cur).stripAct = false ∧ (s.stream s.cur).le = false

/-- The instruction is issued alone, not as a member of a pair (02 R70). -/
def Alone (s : State) : Prop :=
  s.issue.first = false ∧ s.issue.second = false ∧ s.issue.jumped = false ∧ s.issue.skip = none

/-- Everything but the executing party's hart, the datum core's stream, and the step's own notes is as it was. -/
def SameButHarts (s t : State) : Prop :=
  t = { s with harts := t.harts, dc := { s.dc with core := t.dc.core }, issue := t.issue, reqs := t.reqs }

/-- Two states agree on all memories: device memory with its caches, the cores with their scratchpads and buffers, the
arrays with their tile buffers, the overlays' pages, and the datum core's SRAM. -/
def SameMemory (s t : State) : Prop :=
  t.mem = s.mem ∧ t.cores = s.cores ∧ t.arrays = s.arrays ∧ t.ov = s.ov ∧ t.dc.sram = s.dc.sram

/-! Operands (02 R78..R80). -/

/-- The value of an x-class source: the register, or the oldest entry of the queue. -/
def State.xval (s : State) : XOp → Word
  | .x n => (s.stream s.cur).getX n
  | .q n => ((s.hart s.cur.slot).q.get n.val []).headD 0

/-- The state once an x-class source has been read: a queue has given its oldest entry. -/
def State.xpop (s : State) : XOp → State
  | .x _ => s
  | .q n =>
    let h := s.hart s.cur.slot
    s.setHart s.cur.slot { h with q := h.q.put n.val (h.q.get n.val []).tail }

/-- The state once an x-class destination has been written: the register, or one entry more of the queue. -/
def State.xput (s : State) (d : XOp) (w : Word) : State :=
  match d with
  | .x n => s.setStream s.cur ((s.stream s.cur).setX n w)
  | .q n =>
    let h := s.hart s.cur.slot
    s.setHart s.cur.slot { h with q := h.q.put n.val (h.q.get n.val [] ++ [w]) }

/-- Continue with the value of one source and the state after its reading. -/
def State.x1 {α : Type} (s : State) (a : XOp) (f : Word → State → α) : α := f (s.xval a) (s.xpop a)

/-- Continue with two sources, read in field order. -/
def State.x2 {α : Type} (s : State) (a b : XOp) (f : Word → Word → State → α) : α := s.x1 a fun x s => s.x1 b (f x)

/-- Continue with three sources, read in field order. -/
def State.x3 {α : Type} (s : State) (a b c : XOp) (f : Word → Word → Word → State → α) : α :=
  s.x1 a fun x s => s.x2 b c (f x)

/-- Continue with the address of a format M operand: base plus the scaled index plus the displacement (02 R86). -/
def State.ea {α : Type} (s : State) (m : MemOp) (f : Nat → State → α) : α :=
  s.x2 m.base m.idx fun a b t => f (a + b <<< m.scl.val + m.disp.signExtend 64).toNat t

/-- A predicate of the executing stream. -/
def State.pval (s : State) (n : Fin 8) : Bool := (s.stream s.cur).getP n

/-- The state once a predicate of the executing stream has been written. -/
def State.pput (s : State) (n : Fin 8) (b : Bool) : State := s.setStream s.cur ((s.stream s.cur).setP n b)

/-- The executing stream changed. -/
def State.upStream (s : State) (f : Stream → Stream) : State := s.setStream s.cur (f (s.stream s.cur))

/-- The executing hart changed. -/
def State.upHart (s : State) (f : Hart → Hart) : State := s.setHart s.cur.slot (f (s.hart s.cur.slot))

/-! The operations of 05 R213 on exact integers: W takes the low halves of the operands and extends the low half of the
result. -/

/-- The width of the operation. -/
def opWidth (w : Bool) : Nat := if w then 32 else 64

/-- An operand taken as unsigned. -/
def opU (w : Bool) (a : Word) : Nat := a.toNat % 2 ^ opWidth w

/-- An operand taken as signed. -/
def opS (w : Bool) (a : Word) : Int := (opU w a : Int).bmod (2 ^ opWidth w)

/-- An exact result reduced to the width of the operation and sign-extended (05 R212). -/
def opResult (w : Bool) (r : Int) : Word := BitVec.ofInt 64 (if w then r.bmod (2 ^ 32) else r)

/-- The two-operand instructions of majors 0x10 and 0x11 with their results (05 R213). -/
def aluTable : List ((Hdr → Bool → XOp → XOp → XOp → Instr) × (Hdr → Bool → XOp → XOp → BitVec 48 → Instr) ×
    (Bool → Word → Word → Word)) :=
  [(.add, .addImm, fun w a b => opResult w (opS w a + opS w b)),
   (.sub, .subImm, fun w a b => opResult w (opS w a - opS w b)),
   (.mul, .mulImm, fun w a b => opResult w (opS w a * opS w b)),
   (.mulh, .mulhImm, fun w a b => opResult w (opS w a * opS w b / 2 ^ opWidth w)),
   (.mulhu, .mulhuImm, fun w a b => opResult w (opU w a * opU w b / 2 ^ opWidth w : Nat)),
   (.div, .divImm, fun w a b => opResult w (if opU w b = 0 then -1 else (opS w a).tdiv (opS w b))),
   (.divu, .divuImm, fun w a b => opResult w (if opU w b = 0 then -1 else (opU w a / opU w b : Nat))),
   (.rem, .remImm, fun w a b => opResult w (if opU w b = 0 then opS w a else (opS w a).tmod (opS w b))),
   (.remu, .remuImm, fun w a b => opResult w (if opU w b = 0 then opU w a else (opU w a % opU w b : Nat))),
   (.and, .andImm, fun w a b => opResult w (opU w a &&& opU w b : Nat)),
   (.or, .orImm, fun w a b => opResult w (opU w a ||| opU w b : Nat)),
   (.xor, .xorImm, fun w a b => opResult w (opU w a ^^^ opU w b : Nat)),
   (.andn, .andnImm, fun w a b => opResult w (opU w a &&& (2 ^ opWidth w - 1 - opU w b) : Nat)),
   (.shl, .shlImm, fun w a b => opResult w (opU w a * 2 ^ (opU w b % opWidth w) : Nat)),
   (.shr, .shrImm, fun w a b => opResult w (opU w a / 2 ^ (opU w b % opWidth w) : Nat)),
   (.sra, .sraImm, fun w a b => opResult w (opS w a / 2 ^ (opU w b % opWidth w))),
   (.ror, .rorImm, fun w a b =>
     opResult w (opU w a / 2 ^ (opU w b % opWidth w) + opU w a * 2 ^ (opWidth w - opU w b % opWidth w) : Nat)),
   (.min, .minImm, fun w a b => opResult w (min (opS w a) (opS w b))),
   (.max, .maxImm, fun w a b => opResult w (max (opS w a) (opS w b))),
   (.minu, .minuImm, fun w a b => opResult w (min (opU w a) (opU w b) : Nat)),
   (.maxu, .maxuImm, fun w a b => opResult w (max (opU w a) (opU w b) : Nat))]

/-- The one-operand instructions of major 0x10 with their results (05 R213). -/
def aluTable1 : List ((Hdr → Bool → XOp → XOp → Instr) × (Bool → Word → Nat)) :=
  [(.clz, fun w a =>
     ((List.range (opWidth w)).find? fun k => a.getLsbD (opWidth w - 1 - k)).getD (opWidth w)),
   (.ctz, fun w a => ((List.range (opWidth w)).find? fun k => a.getLsbD k).getD (opWidth w)),
   (.popc, fun w a => ((List.range (opWidth w)).filter fun k => a.getLsbD k).length)]

/-- Bits f - 1 .. 0 of `a` put into `base` at pos, the other bits of `base` as they are (05 R214). -/
def spliced (base a : Word) (pos f : Nat) : Word :=
  BitVec.ofNat 64 (base.toNat / 2 ^ (pos + f) * 2 ^ (pos + f) + a.toNat % 2 ^ f * 2 ^ pos + base.toNat % 2 ^ pos)

/-- The position that a control value names (05 R214). -/
def fieldPos (c : Word) : Nat := c.toNat % 64

/-- The width of the field that a control value names (05 R214). -/
def fieldLen (c : Word) : Nat := min (c.toNat / 64 % 128) (64 - fieldPos c)

/-- The field of `a` that a control value names, from its top bit with `sx` (05 R214). -/
def fieldTaken (sx : Bool) (a c : Word) : Word :=
  let v := a.toNat / 2 ^ fieldPos c % 2 ^ fieldLen c
  BitVec.ofInt 64 (if sx then (v : Int).bmod (2 ^ fieldLen c) else v)

/-- When the condition of a BR holds (05 R207). -/
def brHolds (c : BrCond) (a b : Word) : Prop :=
  match c with
  | .always => True
  | .eq => a = b
  | .ne => a ≠ b
  | .lt => a.toInt < b.toInt
  | .ge => b.toInt ≤ a.toInt
  | .ltu => a.toNat < b.toNat
  | .geu => b.toNat ≤ a.toNat

/-- When the condition of a CMP or CMPI is 1 (05 R219). -/
def cmpHolds (c : CmpCond) (w : Bool) (a b : Word) : Prop :=
  match c with
  | .eq => opU w a = opU w b
  | .ne => opU w a ≠ opU w b
  | .lt => opS w a < opS w b
  | .ge => opS w b ≤ opS w a
  | .ltu => opU w a < opU w b
  | .geu => opU w b ≤ opU w a
  | .tst => opU w a &&& opU w b ≠ 0

/-! Transfers of control (02 R64, R65, R68). -/

/-- A checked transfer to `t` is legal in `s`: the target is an instruction number, its line is there and marks the slot
as a target, or the line is one whose trap is taken at the target. `s'` is the state after the fetch of that line. -/
def Reaches (t : Word) (s s' : State) : Prop := checkTarget t s = .ok () s'

/-- The number after the instruction being issued (02 R64). -/
def State.after (s : State) : Word := succOf s.issue.n s.issue.last

/-! Vector operands (08 R332, R347, R359). -/

/-- The instruction takes its place in the vector issue order: its hart holds lane groups, or is granted some by the
request it makes, the order has room, and no instruction of the partner stream waits part-way in lanes (08 R342, R343, R352;
log 53). `b` is the width that says which lanes take part, `s'` the state once its entry stands there. -/
def Enters (b : Nat) (rendezvous barrier : Bool) (s s' : State) : Prop := vecEnter b rendezvous barrier s = .ok () s'

/-- There is room in the hart's vector issue order (08 R343; log 53). -/
def Room (s : State) : Prop := vecRoom s = .ok () s

/-- What a memory instruction reads has been written in every lane (08 R344, R345). -/
def Ready (i : Instr) (s : State) : Prop := (s.hart s.cur.slot).inputsReady i = true

/-- The bytes of a v-class source. -/
def State.vval (s : State) : VOp → Memory
  | .v n => (s.hart s.cur.slot).getV n.val
  | .q n => Memory.setBytes [] 0 (((s.hart s.cur.slot).vq.get n.val []).headD [])

/-- The state once a v-class source has been read. -/
def State.vpop (s : State) : VOp → State
  | .v _ => s
  | .q n => s.upHart fun h => { h with vq := h.vq.put n.val (h.vq.get n.val []).tail }

/-- Continue with the elements of a v-class source. -/
def State.v1 {α : Type} (s : State) (t : Ty) (a : VOp) (f : (Nat → Nat) → State → α) : α :=
  f (fun i => getElem t (s.vval a) i) (s.vpop a)

/-- Continue with the elements of a source of either class: a register's low bits stand for every element. -/
def State.vs1 {α : Type} (s : State) (t : Ty) (b : VSrc) (f : (Nat → Nat) → State → α) : α :=
  match b with
  | .v v => s.v1 t v f
  | .x x => s.x1 x fun w s => f (fun _ => w.toNat % 2 ^ Ty.width t) s

/-- The state once a v-class destination of n elements has taken elements (index, value): the others keep their old
values, in a queue entry zero. -/
def State.vputList (s : State) (d : VOp) (t : Ty) (n : Nat) (vals : List (Nat × Nat)) : State :=
  let write := fun (m : Memory) => vals.foldl (fun m (iv : Nat × Nat) => setElem t m iv.1 iv.2) m
  match d with
  | .v k => s.upHart fun h => h.setV k.val (write (h.getV k.val)) (maxOf (vals.map fun iv => topByte t iv.1))
  | .q k => s.upHart fun h =>
    { h with vq := h.vq.put k.val (h.vq.get k.val [] ++ [(write []).bytes 0 (Ty.bytesFor t n)]) }

/-- The state once every active element i of a destination has taken f(i). -/
def State.vput (s : State) (hd : Hdr) (t : Ty) (d : VOp) (f : Nat → Nat) : State :=
  let h := s.hart s.cur.slot
  s.vputList d t h.tileN ((h.actives hd).map fun i => (i, f i))

/-- The state once a vector instruction has had its effect: vstart is 0 (08 R348). -/
def State.vleave (s : State) : State := s.upHart fun h => { h with vstart := 0 }

/-- The state once a scalar result is written: its entry holds it until the commit point passes, and without an entry, or where
a STRIP's end action reads registers next, it stands at once (08 R345, R357; 09 R401). -/
def State.xcommit (s : State) (d : XOp) (w : Word) : State :=
  let mine := fun (e : VEntry) => e.isX == s.cur.isX && !e.done
  if (s.hart s.cur.slot).inflight.any mine && (stripReads s).isEmpty then
    let add := fun (e : VEntry) => if (mine e) = true then { e with scalars := e.scalars ++ [(d, w)] } else e
    s.upHart fun h => { h with inflight := h.inflight.map add }
  else s.xput d w

/-- The context of a rounding at element i: RM or rmode, ovft, and the draw under `.sr` (03 R116..R119). -/
def State.rounding (s : State) (rm : Rnd) (i : Nat) : RCtx :=
  let h := s.hart s.cur.slot
  ⟨h.mode rm, h.ovft.toNat, if h.mode rm = .sr then srDraw h.srseed (s.stream s.cur).icount i else 0⟩

/-! Accesses (05 R224; 06 R251..R285): that an access performs in `s`, what it gives, and the state after it. -/

/-- A load of n bytes at `ea` by the executing party performs and gives `v`: no watch, translation, permission, budget,
poison or wait stands in its way. -/
def Loads (ch : Fin 4) (ea n : Nat) (s s' : State) (v : Nat) : Prop := scalarLoad ch ea n s = .ok v s'

/-- A store of the low n bytes of `w` at `ea` by the executing party performs, enters its side log, or stays late; `through`
says that it is a release's (01 R37, R47). -/
def Stores (through : Bool) (ch : Fin 4) (ea n : Nat) (w : Word) (s s' : State) : Prop :=
  scalarStore ch ea n w through s = .ok () s'

/-- An atomic at `ea` by the executing party performs and gives the old value. -/
def Atomically (ch : Fin 4) (op : Nat) (t : Ty) (ea : Nat) (x cmp : Word) (s s' : State) (old : Nat) : Prop :=
  scalarAtom ch op t ea x cmp s = .ok old s'

/-- A release of the executing stream at a scope goes through: nothing of its hart is still logged, under way or held
(01 R44; 06 R269; 07 R307, R309). -/
def Releases (rank : Nat) (s s' : State) : Prop := release rank s = .ok () s'

/-- An acquire of the executing stream at a scope (01 R44). -/
def Acquires (rank : Nat) (s s' : State) : Prop := acquire rank s = .ok () s'

/-- The lockstep comparison finds no divergence (04 R176, R177). -/
def Agrees (s s' : State) : Prop := compareHere s = .ok () s'

/-- The vector load of the active elements at their addresses performs: elements in ascending order. -/
def LoadsElements (hd : Hdr) (t : Ty) (d : VOp) (addr : Nat → Nat) (s s' : State) : Prop :=
  bodyLoad hd t d ((s.hart s.cur.slot).ovt.setWidth 64) addr s = .ok () s'

/-- The gather of the active elements performs: each is translated, then each is read. -/
def GathersElements (hd : Hdr) (t : Ty) (d : VOp) (addr : Nat → Nat) (s s' : State) : Prop :=
  bodyGather hd t d addr s = .ok () s'

/-- The vector store or scatter-add of the active elements performs. -/
def StoresElements (hd : Hdr) (k : StoreKind) (t : Ty) (d : VOp) (addr : Nat → Nat) (s s' : State) : Prop :=
  bodyStore hd k t d addr s = .ok () s'

/-- Nothing of the executing hart stands in the way of a release: no logged store, no train, no held round entry, and in a
lockstep pair the same stores on both sides. -/
def Settled (s : State) (slot : Nat) : Prop :=
  (s.hart slot).sideLog = [] ∧ (s.hart slot).trains = [] ∧
  (∀ r ∈ s.mem.rounds, ¬(r.serial = (s.hart slot).serial ∧ r.hartIndex = (s.hart slot).index)) ∧
  (s.stream s.cur).hash = (s.stream s.cur).hashShadow

/-- No class's budget and no stack that is not ready holds the drain of a write-combining entry (01 R26; 06 R275; 15 R601). -/
def Unheld (s : State) : Prop :=
  (∀ cls res, s.mem.budgetLow cls res = false) ∧
  ∀ core, ∀ e ∈ (s.core core).wcb, s.dc.ready.getLsbD (4 + 64 * e.line / 2 ^ 36) = true

/-- The atomic operations by number: swap, add, and, or, xor, min, max (05 R225). -/
def atomTable : List ((Hdr → Ty → Option Scope → Fin 64 → MemOp → Instr) × Nat) :=
  [(.atomSwap, 0), (.atomAdd, 1), (.atomAnd, 2), (.atomOr, 3), (.atomXor, 4), (.atomMin, 5), (.atomMax, 6)]

/-- The code of an optional scope: 0 without one. -/
def rankOf (sc : Option Scope) : Nat := (sc.map Scope.rank).getD 0

/-! The element-wise instructions (08 R360..R367). -/

/-- An exact integer clamped to the range of an integer type of w bits (08 R364). -/
def clamped (t : Ty) (z : Int) : Nat :=
  let w := Ty.bits t
  let lo : Int := if isSigned t then -2 ^ (w - 1) else 0
  let hi : Int := if isSigned t then 2 ^ (w - 1) - 1 else 2 ^ w - 1
  (max lo (min z hi) % 2 ^ w).toNat

/-- The instructions of one source without rounding, with the result of an element (08 R360, R362, R365). -/
def vecTable1 : List ((Hdr → Ty → VOp → VOp → Instr) × (Ty → Nat → Nat)) :=
  [(.vabs, absElem), (.vneg, negElem), (.vclass, classBit), (.vmov, fun _ x => x)]

/-- The rounded instructions of one source, with the exact value of an element (08 R360, R367). -/
noncomputable def vecRounded1 : List ((Hdr → Ty → Rnd → VOp → VOp → Instr) × (FVal → FVal)) :=
  [(.vsqrt, FVal.sqrt), (.vrcp, FVal.rcp), (.vrsq, FVal.rsq), (.vexp2, FVal.exp2), (.vlog2, FVal.log2),
   (.vtanh, FVal.tanh)]

/-- The instructions of two sources without rounding, with the result of an element (08 R360, R364): integers are exact
and wrap, `SAT` clamps. -/
def vecTable2 : List ((Hdr → Ty → VOp → VOp → VSrc → Instr) × (Ty → Nat → Nat → Nat)) :=
  [(.vmin, minMax false), (.vmax, minMax true),
   (fun h => .viadd h false, fun t x y => (x + y) % 2 ^ Ty.bits t),
   (fun h => .viadd h true, fun t x y => clamped t (intVal t x + intVal t y)),
   (fun h => .visub h false, fun t x y => (((x : Int) - y) % 2 ^ Ty.bits t).toNat),
   (fun h => .visub h true, fun t x y => clamped t (intVal t x - intVal t y)),
   (.vimul, fun t x y => x * y % 2 ^ Ty.bits t),
   (.vimulh, fun t x y => (intVal t x * intVal t y / 2 ^ Ty.bits t % 2 ^ Ty.bits t).toNat),
   (.vimin, fun t x y => if intVal t y < intVal t x then y else x),
   (.vimax, fun t x y => if intVal t x < intVal t y then y else x),
   (.vand, fun _ x y => x &&& y), (.vor, fun _ x y => x ||| y), (.vxor, fun _ x y => x ^^^ y),
   (.vshl, fun t x y => x * 2 ^ (y % Ty.bits t) % 2 ^ Ty.bits t),
   (.vshr, fun t x y => x / 2 ^ (y % Ty.bits t)),
   (.vsra, fun t x y => ((x : Int).bmod (2 ^ Ty.bits t) / 2 ^ (y % Ty.bits t) % 2 ^ Ty.bits t).toNat)]

/-- The rounded instructions of two sources, with the exact value of an element under a mode (08 R360). -/
def vecRounded2 : List ((Hdr → Ty → Rnd → VOp → VOp → VSrc → Instr) × (Rnd → FVal → FVal → FVal)) :=
  [(.vadd, FVal.add), (.vsub, fun m a b => FVal.add m a b.neg), (.vmul, fun _ a b => a.mul b),
   (.vdiv, fun _ a b => a.div b)]

/-- The rounded instructions of three sources, with the exact value of an element under a mode (08 R360). -/
def vecRounded3 : List ((Hdr → Ty → Rnd → VOp → VOp → VSrc → VSrc → Instr) × (Rnd → FVal → FVal → FVal → FVal)) :=
  [(.vfma, FVal.fma), (.vfms, fun m a b c => FVal.fma m a b c.neg), (.vfnma, fun m a b c => FVal.fma m a.neg b c)]

/-- Elements of vals, each at the place where it stands. -/
def placed (vals : List Nat) : List (Nat × Nat) := vals.zipIdx.map fun x => (x.2, x.1)

/-! Cards, groups and overlays. -/

/-- The tag word under which the executing hart accesses memory (10 R413). -/
def State.ovtWord (s : State) : Word := (s.hart s.cur.slot).ovt.setWidth 64

/-- The context of an access of the executing hart under its own tag. -/
def State.ctx (s : State) (hint : Fin 4) : Ctx := s.hartCtx s.cur hint s.ovtWord

/-- A card of n bytes is read at issue, as loads (07 R320). -/
def ReadsCard (h : Hdr) (va n : Nat) (s s' : State) (b : List Byte) : Prop := readCard h va n s = .ok b s'

/-- The stream's earlier accesses to a card's regions are released and there is room for a card: it is issued under the
handle `w` (01 R51; 04 R163, R164). -/
def IssuesCard (job : Job) (regions : List Region) (s s' : State) (w : Word) : Prop :=
  issueCard job regions s = .ok w s'

/-- The regions of a card's bytes break no rule of 01 R17. -/
def RegionsOk (b : List Byte) : Prop := ∀ r ∈ (regionsOf b).zipIdx, regionBad b r.2 r.1 = false

/-- A collective of a member of the group in register `g` goes through: every member has arrived, and the exchange
performs (07 R316..R319). -/
def Collects (hd : Hdr) (k : CollOp) (t : Ty) (d a : VOp) (g : Fin 8) (s s' : State) : Prop :=
  bodyColl hd k t d a g s = .ok () s'

/-- An arrival word stands at a scratchpad place of the launch (07 R330). -/
def ArrivalWordAt (va : Nat) (s s' : State) (core off : Nat) : Prop := arrivalPlace va s = .ok (core, off) s'

/-! The matrix arrays (11 R440, R441, R456). -/

/-- A matrix instruction takes its place: as any vector instruction, and with fewer than 16 unfinished commands of its hart
at each array of its attachment (11 R441, R456). -/
def EntersMatrix (w : Nat) (barrier : Bool) (s s' : State) : Prop :=
  s.commandsFull s.cur.slot = false ∧ Enters w true barrier s s'

/-- The state once a command of the executing hart has entered the array order of the arrays (11 R440). -/
def State.ordered (s : State) (arrays : List Nat) (kind : MKind) : State :=
  arrays.foldl (fun t n => t.setArray n { t.array n with queue := (t.array n).queue ++ [⟨s.nextId, s.cur.slot, s.cur.isX, kind, 0⟩] })
    { s with nextId := s.nextId + 1 }

/-- No unfinished command of the executing hart stands in the order of the arrays (11 R440). -/
def RowsFree (s : State) (arrays : List Nat) : Prop := ∀ n ∈ arrays, ∀ c ∈ (s.array n).queue, c.hart ≠ s.cur.slot

/-- The bytes that a stream reads lie in windows that the launch may read (06 R251, R252; 11 R437, R462). -/
def StreamReads (hd : Hdr) (c : StreamCmd) (kl : Nat) (base sbase : Word) (s : State) : Prop :=
  ∀ u, u < unitCount c kl → ∀ va ∈ unitAddrs c kl base sbase u, checkWindowByte (s.hartCtx s.cur hd.ch 0) va s = .ok () s

/-- The drain of the executing hart performs: every active element is converted and stored, in ascending order (11 R465). -/
def Drains (hd : Hdr) (c : DrainCmd) (addr : Hart → Nat → Nat) (s s' : State) : Prop := bodyMdrain hd c addr s = .ok () s'

/-- The image's lines are stored in ascending address as an ordered store (11 R467). -/
def SavesImage (hd : Hdr) (ea : Nat) (img : List Byte) (s s' : State) : Prop :=
  storeImage hd.ch ea img s = .ok () s'

/-! Launches and engines at issue. -/

/-- The executing hart's rows are pinned or given up from the first row on until a set is full (13 R548). -/
def PinsRows (un : Bool) (e : TableEntry) (tid ver r0 n : Nat) (serial : Word) (s s' : State) (done : Nat) : Prop :=
  pinRows un (s.ctx 0) e tid ver serial ((List.range n).map (r0 + ·)) 0 s = .ok done s'

/-- The launch that the executing hart runs for. -/
def State.ours (s : State) (l : Launch) : Prop := s.launchOf s.cur.slot = some l

/-! Legs of a traverse run (12 R485, R486). -/

/-- The channel whose turn it is runs the leg: its run has not been stopped, waits on no fault, and the leg meets none of
the checks of 12 R486. -/
structure LegActs (i : Instr) (s : State) (e : RunEnv) : Prop where
  env : s.runEnv s.curChan = some e
  going : cardStopDetail e.k = none
  free : e.k.faultWait = none
  sound : e.p.legFault (some i) e.c.it0 e.c.it1 = 0

/-- The state once a leg has completed: the next one follows. -/
def State.legDone (s : State) (e : RunEnv) : State :=
  (s.updChan e.key fun c => { c with leg := c.leg + 1, writing := false, buf := [] }).updCard e.c.serial e.c.seqNo fun k =>
    { k with reads := [] }

/-- The chunk of a leg at its index. -/
def RunEnv.at_ (e : RunEnv) (c : Chunk) (s : Fin 16) : Nat := e.p.addr (Chunk.at_ c s) (e.p.index c e.c.it0 e.c.it1)

/-- Bytes of a run are read, each with its poison mark. -/
def RunReads (e : RunEnv) (va n : Nat) (s s' : State) (data : List (Byte × Bool)) : Prop :=
  runRead e.k e.ctx va n s = .ok data s'

/-- The noted writes of a leg perform, are acknowledged, and have their FULL and ARR effects; the leg is done
(12 R485, R489, R501). -/
def LegWrites (e : RunEnv) (t : TSlot) (full arr : Bool) (va n : Nat) (ws : List (Nat × List Byte × Bool)) (s s' : State) :
    Prop :=
  finishWrites e t full arr va n (s.updChan e.key fun c => { c with writing := true, buf := ws }) = .ok none s'

/-- A member's place in a run is known (12 R479), and messages can leave for it (12 R507, R508). -/
def State.knows (s : State) (e : RunEnv) (r : Nat) (place : Place) : Prop :=
  s.placeOf e.p e.c.run r = place ∧ place ≠ .unknown ∧
    ∀ rpkg, place = .pkg rpkg → s.portHeld e.quad e.ctx.cls rpkg = false

end Sys2Proof.Machine
end

