-- ==== Sys2Proof/Certificates/Slice0/Obligations.lean ====
section
/-! DEFINITION. The statements about the machine, each from the rules of spec/ that its docstring names. -/

open Sys2Proof Sys2Proof.Machine

/-- Words that the spec works out digit by digit, of every family that it shows one of, decode to their instructions
(02 R72..R86; 05 R205, R228; 06 R292; 07 R296; 08 R360, R368, R374; 09 R390; 10 R422; 11 R458; 12 R481, R515; 13 R544; 14
R571; 15 R608); reserved words decode to none (02 R90). A model's sanity check, not more. -/
def Obligations.WordsOfTheSpecDecode : Prop :=
  (∀ e ∈ ([(0x120000004000000000000005, .movi {} (.x 1) 5),
      (0x10000000C082000000000000, .add {} false (.x 3) (.x 1) (.x 2)),
      (0x130000010500000000082000, .ld {} .i32 (.x 4) ⟨.x 10, .x 0, 0, 8⟩),
      (0x011C00030000000000068001, .loop {} true (.reg (.x 12)) 13),
      (0x13140000000000D000000000, .fence {} .rel .pkg),
      (0x68180000C200000000000062, .budgetW {} (.x 3) (.x 4) 2 .border),
      (0x50000000C200000000404000, .vld {} .f32 (.v 3) ⟨.x 4, .x 0, 0, 64⟩),
      (0x501C00014302000000004200, .vstxa {} .f32 false (.v 5) (.x 6) (.v 2) 2 0),
      (0x200C0000C082080100000000, .vfma {} .f32 .rne (.v 3) (.v 1) (.v (.v 2)) (.v (.v 4))),
      (0x310000014300000120200000, .vcvt {} .bf16 .f32 .rne (.v 5) (.v 6)),
      (0x32200002407FFFFFFFFE8005, .mloop {} .n32 (.v 9) (-3)),
      (0x400000028180000100100000, .vred {} .add false .f32 .rne (.x (.x 10)) (.v 3)),
      (0x40040002C184003100180000, .vredp {} false .f32 (.x (.x 11) (.x 12)) (.v 3) (some (.v 4))),
      (0x402800014204001900000001, .vsortk {} true .f32 (.v 5) (.v 6) (.v 4) (.x 4)),
      (0x600000014000060000000001, .ovopenTry {} (.x 5) 3),
      (0x601000068C02000000002000, .ldo {} .i32 (.x 26) (.x 24) (.x 2) 0),
      (0x700000014300000000000001, .mattachPair {} (.x 5) (.x 6)),
      (0x700C00000400008000258040, .mstream {} ⟨4, 0, true, false, .e4m3, 0, 64⟩ (.x 0) (.x 8)),
      (0x70140000050B000009000800, .mdrain {} ⟨false, false, 0, .rne, .bf16, 0, 16, 0⟩ (.x 10) (.x 11)),
      (0x800000040780000000000000, .tvload {} (.x 16) (.x 15) 0),
      (0x800400048880000000000010, .tvstart {} 16 (.x 18) (.x 17)),
      (0x810800024500000000000001, .gzver {} 1 (.x 9) (.x 10)),
      (0x880800000000000000000003, .bar {} 3),
      (0x90080000060000000000000A, .svsamp {} 10 (.x 12)),
      (0x981800014000001800000000, .lcset {} .debug (.x 5))] : List (Word96 × Instr)), decode e.1 = some e.2) ∧
  (∀ e ∈ ([(0x0000000000000020030000C880010001,
        .legSend false false ⟨true, 1⟩ 0 3 0 ⟨1, -1, false, 0, 0, 32⟩),
      (0x0000000000000020030FFFC800000003, .legReduce .add .f32 false false 0 3 0 ⟨1, -1, false, -1, 0, 32⟩),
      (0x00000000000000030000000000000008, .legRepeat false 3 0)] : List (BitVec 128 × Instr)),
    decodeLeg e.1 = some e.2) ∧
  ∀ w ∈ ([0, 0x115400000000000000000000, 0xFF0000000000000000000000, 0x012800000000000000000000] : List Word96),
    decode w = none

/-- Decoding undoes encoding: every instruction of a hart or of the datum core has a word, every leg has its 128 bits, and a
well-formed one is what its word or bits decode to, with every operand at every value that its encoding admits
(02 R72..R91; 12 R481..R484). -/
def Obligations.DecodingUndoesEncoding : Prop :=
  ∀ i : Instr,
    ((Instr.hdr? i).isSome → (encode i).isSome) ∧ (i.legFields.isSome → (encodeLeg i).isSome) ∧
    (i.wf = true → (∀ w, encode i = some w → decode w = some i) ∧ ∀ w, encodeLeg i = some w → decodeLeg w = some i)

/-- A step runs the decoded instruction (01 R32; 02 R64, R66, R70; 08 R357; 12 R485). In a running package with nothing on the
agenda, the stream whose turn it is, when nothing holds it, issues the instruction in the slot of its pc, or with the PAIR bit
the pair, and goes behind the others in the order of turns; a word that is no instruction traps ILL with its bits 95..32. A
pair's second member alone counts as the pair's end; a trap of either that spares both leaves the first one's effect out
(02 R71). The line is the one that the stream is in, or one that its strip captured, and is fetched otherwise: the datum core's
from its SRAM, a hart's through its page. A channel whose turn it is runs the leg that its run has reached; an event on the
agenda comes about. The order of turns, and that every instruction but a scalar store finds its stream's late stores
performed, is the model's choice (log 1, log 6). -/
def Obligations.StepRunsTheDecodedInstruction : Prop :=
  (∀ (s u : State) (p : Party) (rest : List Act) (st : Stream) (l : Line), s.sv.stopped = false → s.agenda = [] →
    s.order = .stream p :: rest → s.stream? p = some st → st.live = true → st.faultWait = none → st.waiting = none →
    st.yielded = false → (st.atBoundary = true → st.deferred = []) →
    (∀ slot isX, p = .stream slot isX → (s.hart slot).held ≠ some isX ∧ (s.hart slot).vfault = none) →
    let turn : State := { s with
      order := rest ++ [.stream p]
      cur := p
      reqs := []
      lateTurn := false }
    let n := st.pc
    let k := n.toNat % 5
    lineHere n { turn with issue := Issue.single n 0 0 } = .ok l u →
    let w1 := slotWord l k
    let w2 := slotWord l (k + 1)
    ((k < 4 → pairBit l k = false) →
      let one : State := { u with
        issue := if 0 < k ∧ pairBit l (k - 1) = true then Issue.rest n w1 (lastOf l) else Issue.single n w1 (lastOf l) }
      (∀ i, decode w1 = some i →
        step s = Sys2Proof.Machine.exec i (if overtakes i = true then one else one.inOrder)) ∧
      (decode w1 = none →
        step s = .next (trapAt one (vectorMajor (majorOf w1)) causeIll ((w1 >>> 32).setWidth 64)))) ∧
    (k < 4 → pairBit l k = true → ∀ i1 i2, decode w1 = some i1 → decode w2 = some i2 →
      let v := u.inOrder
      let one : State := { v with issue := Issue.single n w1 (lastOf l) }
      let two : State := { v with issue := Issue.single n w2 (lastOf l) }
      let unit : State := { v with issue := { Issue.single n w1 (lastOf l) with first := true } }
      issueTrap one i1 = none → issueTrap two i2 = none → heldBack unit i1 = false → heldBack unit i2 = false →
      firstBlocked (v.hart v.cur.slot) [] (guardedNeeds one i1 ++ guardedNeeds two i2) = none →
      let second := fun (jumped : Bool) (skip : Option Word) (t : State) =>
        ({ t with issue := ⟨n + 1, w2, lastOf l, false, true, n, jumped, skip, .none, none⟩ } : State)
      ∀ s1 s2, Sys2Proof.Machine.exec i1
          { v with issue := ⟨n, w1, lastOf l, true, false, n, false, none, .none, none⟩ } = .next s1 →
        s1.issue.res = .retired →
        let ends := fun (vec : Bool) (t : State) =>
          ((∀ c, s2.issue.trap = some c → sparesBoth n c = false) → step s = .next t) ∧
          ∀ c, s2.issue.trap = some c → sparesBoth n c = true →
            step s = .next (trapAt { v with issue := s1.issue } vec c.1 c.2.1)
        (classOf (majorOf w1) = some .s →
          Sys2Proof.Machine.exec i2
            (second false s1.issue.skip (s1.setStream v.cur ((s1.stream v.cur).carry (v.stream v.cur)))) = .next s2 →
          s2.issue.res ≠ .waits → ends (Instr.isVector i2) s2) ∧
        (classOf (majorOf w1) ≠ some .s →
          let before := s1.setStream v.cur { s1.stream v.cur with
            x := (v.stream v.cur).x
            p := (v.stream v.cur).p }
          Sys2Proof.Machine.exec i2 (second s1.issue.jumped s1.issue.skip before) = .next s2 →
          ends (Instr.isVector i1) (s2.setStream v.cur (mergeRegs i2 (s1.stream v.cur) (s2.stream v.cur)))))) ∧
  (∀ (s : State) (n : Word) (l : Line),
    let enter := fun (t : State) => t.setStream t.cur ((t.stream t.cur).inLine (n.toNat / 5) l)
    ((s.stream s.cur).lineAt (n.toNat / 5) = some l → lineHere n s = .ok l (enter s)) ∧
    ∀ t, (s.stream s.cur).lineAt (n.toNat / 5) = none → fetchLine n s = .ok l t → lineHere n s = .ok l (enter t)) ∧
  (∀ (s : State) (quad : Fin 4) (ch : Fin 16) (rest : List Act) (e : RunEnv) (w : BitVec 128) (i : Instr),
    s.sv.stopped = false → s.agenda = [] → s.order = .channel quad ch :: rest →
    let turn : State := { ({ s with order := rest ++ [.channel quad ch] } : State).allPerformed with
      curChan := quad.val * 16 + ch.val }
    turn.runEnv turn.curChan = some e → cardStopDetail e.k = none → e.k.faultWait = none →
    e.p.legs[e.c.leg]? = some w → decodeLeg w = some i → step s = Sys2Proof.Machine.exec i turn) ∧
  (∀ (s : State) (i : Instr) (rest : List Act), s.sv.stopped = false → s.agenda = .event i :: rest → isEvent i = true →
    step s = Sys2Proof.Machine.exec i ({ s with agenda := rest } : State).allPerformed) ∧
  (∀ (s : State) (n : Word), s.cur = .datum → 0x100000 ≤ lineAddr n → lineAddr n + 64 ≤ 0x200000 →
    let l := Line.ofBytes (s.dc.sram.bytes (lineAddr n - 0x100000) 64)
    parityOk l = true → lineLegal true l = true → fetchLine n s = .ok l s) ∧
  ∀ (s : State) (slot : Nat) (isX : Bool) (n : Word) (f : Leaf), s.cur = .stream slot isX → lineAddr n < 2 ^ 57 →
    let c := s.hartCtx s.cur 0 0
    let r := s.readCached c.core 0 (f.phys (lineAddr n) / 64)
    (s.stream s.cur).declined = none → (s.hart slot).sideLog = [] → (s.hart slot).trains = [] → s.mem.rounds = [] →
    s.mem.tlbHit c.tlbs c.asid (lineAddr n) = some f → f.allows c.user .fetch = true → f.mt = 0 →
    budgetHeld s c f (lineAddr n) = false → r.2.1 = false → parityOk r.1 = true → lineLegal false r.1 = true →
    fetchLine n s = .ok r.1 r.2.2

/-- No instruction and no step stops: every one answers a next state, but for an instruction executed for a party that has
no live stream and a leg for a channel that holds no run. Nothing is refused. -/
def Obligations.NoInstructionStops : Prop :=
  (∀ (i : Instr) (s : State), (∃ t, Sys2Proof.Machine.exec i s = .next t) ∨
    Sys2Proof.Machine.exec i s = .fault .noActor ∧
      ((Instr.hdr? i).isSome ∧ (∀ st, s.stream? s.cur = some st → st.live = false) ∨
        i.legFields.isSome ∧ s.runEnv s.curChan = none)) ∧
  ∀ s : State, (∃ t, step s = .next t) ∨ step s = .fault .noActor

/-- Device memory keeps its one canonical form, addresses rising and nothing listed that an unlisted address reads as,
through every step from every state (06 R250). -/
def Obligations.StepsKeepMemoryCanonical : Prop :=
  ∀ s t : State, Memory.wf s.mem.hbm = true → step s = .next t → Memory.wf t.mem.hbm = true

/-- The machine after power-good reset, and a hart at its start (00 R8; 04 R142, R150, R178; 05 R190..R193; 06 R274, R286;
08 R337; 10 R421; 14 R553; 15 R579, R586, R601): the values that the spec gives. Device memory is in canonical form; that it
reads zero is the model's choice (log 2). -/
def Obligations.ResetAndStart : Prop :=
  Memory.wf State.reset.mem.hbm = true ∧
  (let s := State.reset
   s.sv.mtick = 0 ∧ s.sv.stopped = false ∧ s.sv.stopAt = none ∧ s.dc.ready = 0 ∧ s.harts = [] ∧ s.la.launches = [] ∧
   (s.dc.dunlk = 0 ∧ s.dc.perm = 0 ∧ s.dc.chal0 = 0 ∧ s.dc.chal1 = 0 ∧ s.dc.dfwv = 0 ∧ s.dc.pcap = 0 ∧ s.sv.point = 0) ∧
   (s.dc.core.pc = 0 ∧ s.dc.core.tvec = 0 ∧ s.dc.core.priv = true ∧ s.dc.core.ssm = true ∧ s.dc.core.depth = 0 ∧
     s.dc.core.live = true ∧ ∀ n, s.dc.core.getX n = 0) ∧
   (∀ i, s.dc.meas.get i 0 = 0) ∧ (∀ n, (s.dc.slot n).v = false ∧ (s.dc.slot n).sealed = false) ∧
   (∀ n : Fin 64, s.readMmio (0x40 * n.val) = 0 ∧ s.readMmio (0x40 * n.val + 8) = 0x10 ∧
     s.readMmio (0x40 * n.val + 0x10) = 0 ∧ s.readMmio (0x40 * n.val + 0x18) = 0) ∧
   (∀ c : Fin 16, (List.range 4).map (fun r => s.readMmio (0x4600 + 0x20 * c.val + 8 * r)) = [2812, 84, 8789, 87]) ∧
   s.readMmio 0x1010 = 0 ∧ s.readMmio 0x4100 = 0) ∧
  ∀ (r : LaunchRec) (serial tvec : Word) (h : Nat) (isX : Bool),
    let k := startHart r serial tvec h true false
    let st := k.stream isX
    (∀ n : Fin 64, st.getX n = if n = 1 then r.arg else if n = 63 then r.stack + BitVec.ofNat 64 ((h + 1) * r.stride)
      else 0) ∧
    (∀ n : Fin 8, st.getP n = decide (n = 0)) ∧
    ((st.ls0, st.le0, st.lc0, st.ls1, st.le1, st.lc1) = (0, 0, 0, 0, 0, 0)) ∧
    (st.pc = if isX then r.xent else r.aent) ∧ st.tvec = tvec ∧ st.icount = 0 ∧ st.priv = false ∧ st.le = true ∧
    st.depth = 0 ∧ (st.live = true ↔ isX = true ∨ r.aent ≠ 0) ∧
    k.srseed = r.seed ∧ k.ovt = 0 ∧ k.allot = BitVec.ofNat 7 r.allot ∧ (∀ n, k.getV n = []) ∧ k.lanes = 0 ∧
    k.mstack = [] ∧ (∀ n, k.q.get n [] = []) ∧ (∀ n, k.vq.get n [] = []) ∧ k.bqa = [] ∧ k.bqx = [] ∧
    k.vl = 1 ∧ k.rc = 1 ∧ k.vstart = 0 ∧ k.rmode = 0 ∧ k.ovft = 0x20115 ∧ k.vdirty = 0

/-- The arithmetic of majors 0x10 and 0x11 (05 R212, R213): each of the 21 two-operand operations, with a register or an
immediate as second operand, writes the exact integer result of the table, reduced to the operation's width. Division by
zero and overflow raise no trap. -/
def Obligations.ScalarArithmeticIsExact : Prop :=
  ∀ op ∈ aluTable, ∀ (s : State) (h : Hdr) (w : Bool) (d a b : XOp) (imm : BitVec 48),
    Does (op.1 h w d a b) h s .next (s.x2 a b fun x y t => t.xput d (op.2.2 w x y)) ∧
    Does (op.2.1 h w d a imm) h s .next (s.x1 a fun x t => t.xput d (op.2.2 w x (imm.signExtend 64)))

/-- Counts of bits, bit fields, SEL and LEA (05 R213..R215). -/
def Obligations.BitFieldsAndSelects : Prop :=
  ∀ (s : State) (h : Hdr) (d a b c : XOp) (r : Fin 64) (p : Fin 8) (k : Fin 4) (sx w : Bool) (imm : BitVec 48),
    (∀ op ∈ aluTable1, Does (op.1 h w d a) h s .next (s.x1 a fun x t => t.xput d (BitVec.ofNat 64 (op.2 w x)))) ∧
    Does (.bfx h sx d a b) h s .next (s.x2 a b fun x y t => t.xput d (fieldTaken sx x y)) ∧
    Does (.bfxImm h sx d a imm) h s .next (s.x1 a fun x t => t.xput d (fieldTaken sx x (imm.setWidth 64))) ∧
    Does (.bfi h d a b c) h s .next
      (s.x3 a b c fun x y z t => t.xput d (spliced z x (fieldPos y) (fieldLen y))) ∧
    Does (.bfiImm h r a imm) h s .next (s.x1 a fun x t =>
      t.xput (.x r) (spliced (t.xval (.x r)) x (fieldPos (imm.setWidth 64)) (fieldLen (imm.setWidth 64)))) ∧
    Does (.sel h d a b p) h s .next (s.x2 a b fun x y t => t.xput d (if s.pval p then x else y)) ∧
    Does (.selImm h d a imm p) h s .next (s.x1 a fun x t => t.xput d (if s.pval p then x else imm.signExtend 64)) ∧
    Does (.lea h k d a b) h s .next (s.x2 a b fun x y t => t.xput d (x + y * 2#64 ^ k.val)) ∧
    Does (.leaImm h k d a imm) h s .next (s.x1 a fun x t => t.xput d (x + imm.signExtend 64 * 2#64 ^ k.val))

/-- Moves, compares and predicates (05 R218..R221): CMP writes its result and then the complement, PLOG a bit of its
table, PMOV all eight predicates one way and p1..p7 the other. -/
def Obligations.MovesAndPredicates : Prop :=
  ∀ (s : State) (h : Hdr) (d a b : XOp) (p q r : Fin 8) (w : Bool),
    (∀ imm : BitVec 62, Does (.movi h d imm) h s .next (s.xput d (imm.signExtend 64))) ∧
    (∀ (c : CmpCond) (res : Word → Word → Bool), (∀ x y, res x y = true ↔ cmpHolds c w x y) →
      Does (.cmp h c w p q a b) h s .next (s.x2 a b fun x y t => (t.pput p (res x y)).pput q (!res x y)) ∧
      ∀ imm : BitVec 48, Does (.cmpi h c w p a imm) h s .next
        (s.x1 a fun x t => t.pput p (res x (imm.signExtend 64)))) ∧
    (∀ lut : BitVec 4, Does (.plog h lut p q r) h s .next
      (s.pput p (lut.getLsbD (2 * (s.pval q).toNat + (s.pval r).toNat)))) ∧
    Does (.pmovToX h d) h s .next
      (s.xput d (BitVec.ofNat 64 (((List.finRange 8).map fun i => (s.pval i).toNat * 2 ^ i.val).sum))) ∧
    ∃ t : State, Does (.pmovToP h a) h s .next t ∧
      ∀ i : Fin 8, t.pval i = if i = 0 then true else (s.xval a).getLsbD i.val

/-- What the scalar instructions that name only registers leave alone: with no loop or STRIP end at hand, memory, every other
party's hart, the special registers and every x register but the destination are as they were, and so are their poison marks;
the instruction counts if it ran in user mode (02 R64; 03 R119; 05 R213). -/
def Obligations.ScalarRegisterFrame : Prop :=
  ∀ op ∈ aluTable, ∀ (s t : State) (h : Hdr) (w : Bool) (d a b : Fin 64) (imm : BitVec 48) (i : Instr),
    (i = op.1 h w (.x d) (.x a) (.x b) ∨ i = op.2.1 h w (.x d) (.x a) imm) →
    Issues i h s → PlainEnd s → s.reqs = [] → Sys2Proof.Machine.exec i s = .next t →
    SameButHarts s t ∧
    (∀ p, p ≠ s.cur → t.stream p = s.stream p) ∧
    (∀ slot, t.hart slot = { s.hart slot with sa := (t.hart slot).sa, sx := (t.hart slot).sx }) ∧
    (∀ n, n ≠ d → (t.stream s.cur).getX n = (s.stream s.cur).getX n) ∧
    t.stream s.cur = { s.stream s.cur with
      x := (t.stream s.cur).x
      pc := (t.stream s.cur).pc
      icount := (s.stream s.cur).icount + if (s.stream s.cur).priv then 0 else 1
      yielded := (s.stream s.cur).yielded || h.y
      stage := 0
      logSerial := none
      reads := []
      faultWait := none
      captured := none
      storing := none
      copied := []
      drained := (t.stream s.cur).drained
      xmarks := (t.stream s.cur).xmarks
      declined := (t.stream s.cur).declined
      targetFault := false } ∧
    ∀ n : Nat, n ≠ d.val → (n ∈ (t.stream s.cur).xmarks ↔ n ∈ (s.stream s.cur).xmarks)

/-- Branches, jumps, calls and returns (05 R207..R209; 02 R77): a branch whose condition holds, and every other
transfer, goes to its target if that is legal; a branch whose condition fails goes on. A link is written once the
transfer is known to be legal, after the target is read. A transfer beyond the last instruction traps PROT, and one
to an unmarked slot of a line that can be fetched traps BRTGT, both with the target as tval and with no effect: no
link is written (02 R65, R68; 05 R209). -/
def Obligations.TransfersGoToTheirTargets : Prop :=
  (∀ (s s' : State) (h : Hdr) (d a b : XOp) (off : BitVec 40),
    (∀ c, ¬brHolds c (s.xval a) ((s.xpop a).xval b) →
      Does (.br h c a b off) h s .next ((s.xpop a).xpop b)) ∧
    (∀ c, brHolds c (s.xval a) ((s.xpop a).xval b) →
      Reaches (s.issue.n + off.signExtend 64) ((s.xpop a).xpop b) s' →
      Does (.br h c a b off) h s (.taken (s.issue.n + off.signExtend 64)) s') ∧
    (Reaches (s.xval a) (s.xpop a) s' →
      Does (.jmp h a) h s (.taken (s.xval a)) s' ∧
      Does (.ret h a) h s (.taken (s.xval a)) s' ∧
      Does (.callr h d a) h s (.taken (s.xval a)) (s'.xput d s'.after)) ∧
    (Reaches (s.issue.n + off.signExtend 64) s s' →
      Does (.call h d off) h s (.taken (s.issue.n + off.signExtend 64)) (s'.xput d s'.after))) ∧
  (∀ (s s' : State) (h : Hdr) (a d : XOp) (n : Fin 64) (l : Line), a = .x n → Issues (.callr h d a) h s →
    (Config.instrEnd ≤ (s.xval a).toNat →
      Sys2Proof.Machine.exec (.callr h d a) s = .next (trapAt (restoreQueues s (flushReqs (.callr h d a) s) s.cur) false
        causeProt (s.xval a))) ∧
    ((s.xval a).toNat < Config.instrEnd → fetchTarget (s.xval a) s = .ok (some l) s' →
      tgtBit l ((s.xval a).toNat % 5) = false →
      Sys2Proof.Machine.exec (.callr h d a) s = .next (trapAt (restoreQueues s (flushReqs (.callr h d a) s') s'.cur) false
        causeBrtgt (s.xval a))))

/-- Branch-outcome queues, loops and NOP (05 R197, R199, R202, R210, R211): PUSHB adds a bit to the queue that leads away
from its stream, BRQ takes the oldest bit of the one that leads toward it, whether it branches or not; LOOP arms its loop
and goes on, or with a count of 0 to the successor of the loop's end; LEXIT clears the count. -/
def Obligations.BranchQueuesAndLoops : Prop :=
  ∀ (s s' : State) (h : Hdr) (l : Bool) (off : BitVec 40) (n : Word),
    Does (.nop h) h s .next s ∧
    Does (.lexit h l) h s .next (s.upStream fun st => if l then { st with lc1 := 0 } else { st with lc0 := 0 }) ∧
    (∀ (slot : Nat) (isX inv : Bool) (a : Fin 8), s.cur = .stream slot isX →
      Does (.pushb h inv a) h s .next (s.upHart fun k =>
        if isX then { k with bqx := k.bqx ++ [s.pval a != inv] } else { k with bqa := k.bqa ++ [s.pval a != inv] })) ∧
    (∀ (slot : Nat) (isX z bit : Bool) (rest : List Bool), s.cur = .stream slot isX →
      (if isX then (s.hart slot).bqa else (s.hart slot).bqx) = bit :: rest →
      let t := s.upHart fun k => if isX then { k with bqa := rest } else { k with bqx := rest }
      (bit = z → Does (.brq h z off) h s .next t) ∧
      (bit ≠ z → Reaches (s.issue.n + off.signExtend 64) t s' →
        Does (.brq h z off) h s (.taken (s.issue.n + off.signExtend 64)) s')) ∧
    (∀ (c : LoopCount) (count : Word) (t : State),
      (match c with | .reg a => (s.xval a, s.xpop a) | .imm k => (k.setWidth 64, s)) = (count, t) →
      let arm := fun (st : Stream) => if l
        then { st with ls1 := s.after, le1 := s.issue.n + off.signExtend 64, lc1 := count, le := true }
        else { st with ls0 := s.after, le0 := s.issue.n + off.signExtend 64, lc0 := count, le := true }
      (count ≠ 0 → Does (.loop h l c off) h s .next (t.upStream arm)) ∧
      (count = 0 → succAny (s.issue.n + off.signExtend 64) t = .ok n s' →
        Does (.loop h l c off) h s (.taken n) (s'.upStream arm)))

/-- The loop-end action (05 R200): at the end of a loop with more than one pass left the count goes down and control
returns to the start, loop 0 being asked first; with no pass left the count is cleared, the next loop is asked, and
control goes on. A return to a number beyond the last instruction traps PROT instead: the trap names the loop's end and
its start, and of the instruction's effect nothing stays. The end of a STRIP body in user mode (08 R357): the count
register falls by vl, each pointer register that the strip names advances by vl scaled, and while elements are left the
body runs again with vl cut to what is left; otherwise the strip is over. -/
def Obligations.EndActionsOfLoopsAndStrips : Prop :=
  (∀ (s : State) (st : Stream), s.stream? s.cur = some st → s.issue.second = false → st.stripAct = false →
    let entered := fun (start : Word) => if start = st.pc then st.line else none
    (st.le = false → endActions s s.cur = s) ∧
    (st.le = true → st.le0 = s.issue.n → 1 < st.lc0.toNat → st.ls0.toNat < Config.instrEnd →
      badReturn .next s = none ∧
      (endActions s s.cur).stream s.cur = { st with
        lc0 := st.lc0 - 1
        pc := st.ls0
        line := entered st.ls0 }) ∧
    (st.le = true → st.le0 = s.issue.n → st.lc0.toNat ≤ 1 → st.le1 ≠ s.issue.n →
      badReturn .next s = none ∧ (endActions s s.cur).stream s.cur = { st with lc0 := 0 }) ∧
    (st.le = true → (st.le0 = s.issue.n → st.lc0.toNat ≤ 1) → st.le1 = s.issue.n → 1 < st.lc1.toNat →
      st.ls1.toNat < Config.instrEnd →
      badReturn .next s = none ∧
      (endActions s s.cur).stream s.cur = { st with
        lc0 := if st.le0 = s.issue.n then 0 else st.lc0
        lc1 := st.lc1 - 1
        pc := st.ls1
        line := entered st.ls1 }) ∧
    (st.le = true → st.le0 = s.issue.n → 1 < st.lc0.toNat → Config.instrEnd ≤ st.ls0.toNat →
      s.issue.first = false → s.issue.jumped = false → ∀ (i : Instr) (h : Hdr) (before : State),
        let b := before.trapping causeProt st.ls0 st.le0
        conclude i h none before .next s =
          b.enterTrap b.cur causeProt st.ls0 st.le0 (trapElem b (Instr.isVector i)) noLane)) ∧
  (∀ (s : State) (slot : Nat) (isX : Bool) (st : Stream) (d a b c sa sb sc cap ret : Nat),
    s.cur = .stream slot isX → s.stream? s.cur = some st →
    st.stripArgs = [d, a, b, c, sa, sb, sc, cap, ret] → 0 < d → d < 64 → a < 64 → b < 64 → c < 64 →
    a ≠ d → b ≠ d → c ≠ d → (a = 0 ∨ a ≠ b) → (a = 0 ∨ a ≠ c) → (b = 0 ∨ b ≠ c) →
    let vl := (s.hart slot).vl.toNat
    let left := (st.getX (Fin.ofNat 64 d)) - BitVec.ofNat 64 vl
    let t := (stripEndAct s s.cur).1
    (∀ n : Fin 64, (t.stream s.cur).getX n =
      if n.val = d then left
      else if n.val ≠ 0 ∧ n.val = a then st.getX n + BitVec.ofNat 64 (vl * 2 ^ sa)
      else if n.val ≠ 0 ∧ n.val = b then st.getX n + BitVec.ofNat 64 (vl * 2 ^ sb)
      else if n.val ≠ 0 ∧ n.val = c then st.getX n + BitVec.ofNat 64 (vl * 2 ^ sc)
      else st.getX n) ∧
    (left ≠ 0 → (stripEndAct s s.cur).2 = true ∧ (t.stream s.cur).pc = BitVec.ofNat 64 ret ∧
      (t.hart slot).vl = BitVec.ofNat 14 (min left.toNat cap)) ∧
    (left = 0 → (stripEndAct s s.cur).2 = false ∧ (t.stream s.cur).stripAct = false))

/-- SRR and SRW (02 R93; 05 R190, R236): SRR gives the register's word, SRW does what the register's owner says with
the word, wherever the number names a register of the party and the mode may reach it. A status register that a
number does not name traps ILL with the number (02 R93). One that user mode may not reach traps PRIV, before any queue of
the instruction is looked at (02 R87, R93; 05 R190). -/
def Obligations.StatusRegistersReadAndWritten : Prop :=
  (∀ (s : State) (h : Hdr) (d a : XOp) (sr : BitVec 12) (v : Word),
    s.sreg s.cur sr.toNat = some v →
    Does (.srr h d sr) h s .next (s.xput d v) ∧
    Does (.srw h sr a) h s .next ((s.xpop a).sregWrite s.cur sr.toNat (s.xval a))) ∧
  (∀ (s : State) (h : Hdr) (n : Fin 64) (d : XOp) (sr : BitVec 12), s.reqs = [] →
    s.sreg s.cur sr.toNat = none →
    (Issues (.srr h d sr) h s → Sys2Proof.Machine.exec (.srr h d sr) s =
      .next (trapAt (restoreQueues s s s.cur) false causeIll (sr.setWidth 64))) ∧
    (Issues (.srw h sr (.x n)) h s → Sys2Proof.Machine.exec (.srw h sr (.x n)) s =
      .next (trapAt (restoreQueues s s s.cur) false causeIll (sr.setWidth 64)))) ∧
  (∀ (s : State) (slot : Nat) (isX : Bool) (st : Stream) (h : Hdr) (d a : XOp) (sr : BitVec 12),
    s.cur = .stream slot isX → s.stream? s.cur = some st → st.live = true → st.captured = none → st.priv = false →
    guardTrue st h = true →
    (sregHidden sr.toNat = true → stepTwoBad s (.srr h d sr) = false →
      Sys2Proof.Machine.exec (.srr h d sr) s = .next (trapAt s false causePriv 0)) ∧
    (sregGuarded sr.toNat = true → stepTwoBad s (.srw h sr a) = false →
      Sys2Proof.Machine.exec (.srw h sr a) s = .next (trapAt s false causePriv 0))) ∧
  (∀ n : Nat, (sregHidden n = true ↔ (0x010 ≤ n ∧ n ≤ 0x016) ∨ (0x018 ≤ n ∧ n ≤ 0x01B) ∨ n = 0x508 ∨ n = 0x509) ∧
    (sregGuarded n = true ↔ sregHidden n = true ∨ n = 0x001 ∨ n = 0x105 ∨ (0x210 ≤ n ∧ n ≤ 0x217) ∨ n = 0x300 ∨
      (0x480 ≤ n ∧ n ≤ 0x48F)))

/-- What an SRW of a sequencer register leaves (05 R190..R192): a register of the stream takes the word, sstat takes LE
alone, and tvec keeps its value when the word is beyond the last instruction. Another SRR then reads it back. -/
def Obligations.SequencerRegistersHold : Prop :=
  ∀ (st : Stream) (n : Nat) (w : Word),
    (n ∈ [0x011, 0x012, 0x013, 0x014, 0x015, 0x016, 0x018, 0x019, 0x01A, 0x01B, 0x020, 0x021, 0x022, 0x023, 0x024,
      0x025] → (st.writeSreg n w).readSreg n = some w ∧
        ∀ m, m ≠ n → (st.writeSreg n w).readSreg m = st.readSreg m) ∧
    (w.toNat < Config.instrEnd → (st.writeSreg 0x010 w).readSreg 0x010 = some w) ∧
    (Config.instrEnd ≤ w.toNat → st.writeSreg 0x010 w = st) ∧
    st.writeSreg 0x001 w = { st with le := w.getLsbD 1 } ∧
    st.writeSreg 0x030 w = st

/-- WAIT, YIELD, FENCEI and HALT (05 R236..R239): WAIT retires and leaves its stream waiting for its limit or a store to its
line; YIELD gives up a turn; FENCEI drops what the fetching core holds of older stores, once its buffer can drain; HALT ends
its stream, the last of a hart once the hart's vector and matrix work is done, and then the hart lets go of lanes, rows and
group entries. -/
def Obligations.WaitYieldFenceiHalt : Prop :=
  ∀ (s : State) (h : Hdr) (a : XOp) (limit : BitVec 35),
    (a ≠ .x 0 ∨ limit ≠ 0 → Does (.wait h a limit) h s .next ((s.xpop a).upStream fun st => { st with
      waiting := some ⟨if a = .x 0 then none else (s.xpop a).waitKey s.cur (s.xval a).toNat,
        if limit = 0 then none else some (s.tick + limit.toNat), false⟩ })) ∧
    Does (.yield h) h s .next (s.upStream fun st => { st with yielded := true }) ∧
    (s.cur = .datum → Does (.fencei h) h s .next s ∧
      Does (.halt h) h s .halted (s.upStream fun st => { st with live := false })) ∧
    ∀ slot isX, s.cur = .stream slot isX →
      (s.drains (coreOf slot) = true → ∃ t : State, Does (.fencei h) h s .next t ∧
        (t.core (coreOf slot)).wcb = [] ∧ (t.core (coreOf slot)).l1 = [] ∧
        ∀ b ∈ t.mem.border, b.stale = none) ∧
      (((s.hart slot).stream (!isX)).live = true ∨ (s.hart slot).inflight = [] ∧ s.matrixBusy slot = false →
        Does (.halt h) h s .halted (s.endStream slot isX)) ∧
      (((s.hart slot).stream (!isX)).live = true → (s.endStream slot isX).mem = s.mem ∧
        ((s.endStream slot isX).stream s.cur).live = false ∧
        (s.endStream slot isX).stream (.stream slot (!isX)) = s.stream (.stream slot (!isX)))

/-- Taking an exception below DEPTH 3 (05 R231, R232): the trap record holds sstat, the number, the cause, the
value, the element and the lane; PRIV is set, LE cleared, DEPTH one more, the pc is tvec; the loop registers and
every x register stay as they are; the other stream of the hart is held, and no other stream is touched, but that an
instruction which the held stream has issued without an access performed is abandoned. A trap at
DEPTH 3 (05 R232): the launch of the hart is cancelled, every hart of it loses its streams, and TRAPSTOP (code 16)
is posted to the launch's event queue with the cause, the stream, tpc and tval; at DEPTH 3 the datum core stops and
source 216 posts it (15 R579). -/
def Obligations.TrapEntrySavesAndEnters : Prop :=
  (∀ (s : State) (p : Party) (cause : Nat) (tval tpc telem tlane : Word) (st : Stream),
    s.stream? p = some st → st.depth ≠ 3 →
    let t := s.enterTrap p cause tval tpc telem tlane
    let u := t.stream p
    (u.tstat = st.sstat ∧ u.tpc = tpc ∧ u.tcause = BitVec.ofNat 64 cause ∧ u.tval = tval ∧ u.telem = telem ∧
      u.tlane = tlane) ∧
    (u.priv = true ∧ u.le = false ∧ u.depth = st.depth + 1 ∧ u.pc = st.tvec) ∧
    (u.x = st.x ∧ u.p = st.p ∧ u.tvec = st.tvec ∧ u.icount = st.icount ∧
      (u.ls0, u.le0, u.lc0, u.ls1, u.le1, u.lc1) = (st.ls0, st.le0, st.lc0, st.ls1, st.le1, st.lc1) ∧
      (u.tscratch0, u.tscratch1, u.tscratch2, u.tscratch3)
        = (st.tscratch0, st.tscratch1, st.tscratch2, st.tscratch3)) ∧
    (∀ slot isX, p = .stream slot isX → (t.hart slot).held = some (!isX)) ∧
    SameMemory s t ∧ t.la = s.la ∧ (p ≠ .datum → t.dc = s.dc) ∧
    ∀ slot' isX', p ≠ .stream slot' isX' →
      { t.stream (.stream slot' isX') with captured := none } =
        { s.stream (.stream slot' isX') with captured := none } ∧
      ((s.stream (.stream slot' isX')).midAccess = true → t.stream (.stream slot' isX') = s.stream (.stream slot' isX'))) ∧
  (∀ (s : State) (slot : Nat) (isX : Bool) (cause : Nat) (tval tpc telem tlane : Word) (l : Launch),
    (s.stream (.stream slot isX)).depth = 3 → s.launch? (s.hart slot).serial = some l →
    let t := s.enterTrap (.stream slot isX) cause tval tpc telem tlane
    t = (s.cancel l.serial).postLaunch l 16 cause
      (leBytes 8 (if isX then 1 else 0) ++ leBytes 8 tpc.toNat ++ leBytes 8 tval.toNat) ∧
    ∀ n k, (s.cancel l.serial).hart? n = some k → k.serial = l.serial → k.sa.live = false ∧ k.sx.live = false) ∧
  ∀ (s : State) (cause : Nat) (tval tpc telem tlane : Word), s.dc.core.depth = 3 →
    s.enterTrap .datum cause tval tpc telem tlane =
      ({ s with dc := { s.dc with core := { s.dc.core with live := false } } } : State).postEvent
        (s.dc.dmctl.toNat % 16) 216 16 cause 0
        (leBytes 8 (if s.dc.core.strm then 1 else 0) ++ leBytes 8 tpc.toNat ++ leBytes 8 tval.toNat)

/-- ERET in system mode below a valid tpc (05 R231, R235): PRIV and LE come from tstat, DEPTH falls by one, control
goes to tpc, the loop registers stay, and at DEPTH 0 the other stream is no longer held. ERET at DEPTH 0 traps ILL
with bits 95..32 of its word, and with a tpc beyond the last instruction PROT with tpc (05 R235). -/
def Obligations.EretRestores : Prop :=
  (∀ (s : State) (h : Hdr) (slot : Nat) (isX : Bool), s.cur = .stream slot isX →
    (s.stream s.cur).depth ≠ 0 → (s.stream s.cur).tpc.toNat < Config.instrEnd → s.reqs = [] →
    Issues (.eret h) h s →
    ∃ t : State, Sys2Proof.Machine.exec (.eret h) s = .next t ∧
      let st := s.stream s.cur
      let u := t.stream s.cur
      u.priv = st.tstat.getLsbD 0 ∧ u.le = st.tstat.getLsbD 1 ∧ u.depth = st.depth - 1 ∧ u.pc = st.tpc ∧
      (u.ls0, u.le0, u.lc0, u.ls1, u.le1, u.lc1) = (st.ls0, st.le0, st.lc0, st.ls1, st.le1, st.lc1) ∧
      u.x = st.x ∧ u.p = st.p ∧ SameMemory s t ∧
      (t.hart slot).held = if st.depth - 1 = 0 then none else (s.hart slot).held) ∧
  (∀ (s : State) (h : Hdr), s.reqs = [] → Issues (.eret h) h s →
    ((s.stream s.cur).depth = 0 → Sys2Proof.Machine.exec (.eret h) s =
      .next (trapAt (restoreQueues s s s.cur) false causeIll ((s.issue.raw >>> 32).setWidth 64))) ∧
    ((s.stream s.cur).depth ≠ 0 → Config.instrEnd ≤ (s.stream s.cur).tpc.toNat →
      Sys2Proof.Machine.exec (.eret h) s =
        .next (trapAt (restoreQueues s s s.cur) false causeProt (s.stream s.cur).tpc)))

/-- TRAP completes and then enters the handler: SWTRAP with its code as tval and the next instruction's number as tpc
(05 R230, R235). -/
def Obligations.TrapEntersTheHandler : Prop :=
  ∀ (s : State) (h : Hdr) (code : BitVec 35), s.reqs = [] → PlainEnd s → Alone s → (s.stream s.cur).depth ≠ 3 →
    Issues (.trap h code) h s →
    ∃ t : State, Sys2Proof.Machine.exec (.trap h code) s = .next t ∧
      let st := s.stream s.cur
      let u := t.stream s.cur
      u.tcause = BitVec.ofNat 64 causeSwtrap ∧ u.tval = code.setWidth 64 ∧ u.tpc = s.after ∧ u.telem = 0 ∧
      u.tlane = noLane ∧ u.tstat = st.sstat ∧ u.pc = st.tvec ∧ u.priv = true ∧ u.depth = st.depth + 1 ∧
      u.icount = st.icount + (if st.priv then 0 else 1) ∧ u.x = st.x ∧ SameMemory s t

/-- The checks of steps 2, 5 and 6 come before every instruction's effect (02 R79, R87; 03 R110): a word that its
processor or its tile does not allow traps ILL with bits 95..32, a v register beyond the allotment traps REGALLOT
with its number, a queue used against its direction traps QDIR with its field value, in this order. Privileged
instructions in user mode trap PRIV with tval 0, and have no other effect (02 R87; 05 R235; 06 R290, R292 14 R576,
R577). -/
def Obligations.IssueChecksComeFirst : Prop :=
  (∀ (i : Instr) (h : Hdr) (s : State) (st : Stream) (maj cause : Nat) (tval : Word),
    Instr.hdr? i = some (maj, h) → s.stream? s.cur = some st → st.live = true → st.captured = none →
    issueTrap s i = some (cause, tval) →
    Sys2Proof.Machine.exec i s = .next (trapAt s (Instr.isVector i) cause tval) ∧
    (stepTwoBad s i = true → cause = causeIll ∧ tval = (s.issue.raw >>> 32).setWidth 64) ∧
    (stepTwoBad s i = false → guardTrue st h = true) ∧
    (cause = causeRegallot → (s.hart s.cur.slot).allot.toNat ≤ tval.toNat ∧
      ∃ u ∈ i.uses, u.vreg? = some tval.toNat)) ∧
  (∀ (i : Instr) (h : Hdr) (s : State) (st : Stream) (maj : Nat),
    Instr.hdr? i = some (maj, h) → systemOnly i = true → namesHartSreg s i = false → s.stream? s.cur = some st →
    st.live = true → st.captured = none → st.priv = false → stepTwoBad s i = false → guardTrue st h = true →
    Sys2Proof.Machine.exec i s = .next (trapAt s (Instr.isVector i) causePriv 0))

/-- A guard is true when the predicate GP is 1 and GPN is 0, or it is 0 and GPN is 1; p0 is 1. An instruction whose guard is
false has no effect but that it retires, no queue and no lane's order is touched, and it raises no trap but ILL (02 R73, R87):
it counts and control goes on. An instruction that needs an entry of an empty queue, or room in a full one, waits with no
effect; what it waits on is remembered for 05 R195 (05 R194). -/
def Obligations.GuardsAndQueuesHoldBack : Prop :=
  (∀ (st : Stream) (h : Hdr), (guardTrue st h = true ↔ (st.getP h.gp = true ↔ h.gpn = false)) ∧ st.getP 0 = true) ∧
  (∀ (i : Instr) (h : Hdr) (s : State) (st : Stream) (maj : Nat),
    Instr.hdr? i = some (maj, h) → s.stream? s.cur = some st → st.live = true → st.captured = none →
    stepTwoBad s i = true →
    Sys2Proof.Machine.exec i s =
      .next (trapAt s (Instr.isVector i) causeIll ((s.issue.raw >>> 32).setWidth 64))) ∧
  (∀ (i : Instr) (h : Hdr) (s : State) (st : Stream) (maj : Nat),
    Instr.hdr? i = some (maj, h) → s.stream? s.cur = some st → st.live = true → st.captured = none →
    stepTwoBad s i = false → guardTrue st h = false → badReturn .next s = none →
    Sys2Proof.Machine.exec i s = .next (retire i h (!st.priv) .next s)) ∧
  (∀ (i : Instr) (h : Hdr) (s : State) (st : Stream) (maj code : Nat),
    Instr.hdr? i = some (maj, h) → s.stream? s.cur = some st → st.live = true → st.captured = none →
    issueTrap s i = none → guardTrue st h = true → scalarBlocked s i = false → queueBlocked s i = some code →
    ∃ t : State, Sys2Proof.Machine.exec i s = .next t ∧ SameMemory s t ∧ t.la = s.la ∧ t.issue.res = .waits ∧
      t.stream s.cur = { st with blocked := some code, blockedVec := Instr.isVector i })

/-- Retiring (02 R64; 03 R119; 05 R236): in user mode icount grows by one, Y gives up the next turn, and with no end action
at hand the pc goes to the next number. -/
def Obligations.RetiringCountsAndGoesOn : Prop :=
  ∀ (i : Instr) (h : Hdr) (s : State) (user : Bool) (st : Stream), s.stream? s.cur = some st → PlainEnd s → Alone s →
    s.issue.last ≤ 4 →
    let t := retire i h user .next s
    let u := t.stream s.cur
    u.icount = (if user then st.icount + 1 else st.icount) ∧ u.yielded = (st.yielded || h.y) ∧
    u.pc = (if s.issue.n.toNat % 5 < s.issue.last then s.issue.n + 1
      else BitVec.ofNat 64 ((s.issue.n.toNat / 5 + 1) * 5)) ∧
    (Instr.isVector i = false → u.x = st.x) ∧ u.p = st.p ∧ t.issue.res = .retired ∧ SameMemory s t

/-- Scalar loads and stores (05 R222..R224; 01 R47): at an aligned address base + index × 2^S + displacement, LD and LDA
write the value extended as the type says and LDA then acquires; ST and STR store the register, STR after a release, and
its store is multi-copy atomic. A scalar access at an address that is no multiple of its size traps ALIGN with the address
(05 R224). -/
def Obligations.ScalarLoadsAndStores : Prop :=
  (∀ (s : State) (h : Hdr) (t : Ty) (sc : Scope) (d : XOp) (m : MemOp),
    s.ea m fun ea u => ea % Ty.size t = 0 →
      (∀ v s', Loads h.ch ea (Ty.size t) u s' v →
        Does (.ld h t d m) h s .next (s'.xput d (extTy t v)) ∧
        ∀ s2, Acquires (Scope.rank sc) (s'.xput d (extTy t v)) s2 → Does (.lda h t sc d m) h s .next s2) ∧
      u.x1 d fun w u1 =>
        (∀ s', Stores false h.ch ea (Ty.size t) w u1 s' → Does (.st h t d m) h s .next s') ∧
        ∀ s1 s', Releases (Scope.rank sc) u1 s1 → Stores true h.ch ea (Ty.size t) w s1 s' →
          Does (.str h t sc d m) h s .next s') ∧
  (∀ (s : State) (h : Hdr) (t : Ty) (d : XOp) (a b : Fin 64) (scl : Fin 4) (disp : BitVec 32), s.reqs = [] →
    let m : MemOp := ⟨.x a, .x b, scl, disp⟩
    let ea := s.xval (.x a) + s.xval (.x b) <<< scl.val + disp.signExtend 64
    ea.toNat % Ty.size t ≠ 0 →
    (Issues (.ld h t d m) h s → Sys2Proof.Machine.exec (.ld h t d m) s =
      .next (trapAt (restoreQueues s s s.cur) false causeAlign ea)) ∧
    (Issues (.st h t d m) h s → Sys2Proof.Machine.exec (.st h t d m) s =
      .next (trapAt (restoreQueues s s s.cur) false causeAlign ea)))

/-- A store by the executing hart to its launch's own scratchpad (04 R170; 06 R251, R252, R285): nothing logged and no watch,
the bytes of the operand stand there little-endian, every other byte of that scratchpad is as it was, and so are device
memory, every other scratchpad but the shadow's side of a lockstep pair's, and every tile buffer. A load by the executing hart
from its launch's own scratchpad gives the bytes there and changes no memory (06 R251, R252). -/
def Obligations.ScratchpadHolds : Prop :=
  (∀ (s s' : State) (slot : Nat) (isX through : Bool) (ch : Fin 4) (ea n core off : Nat) (w : Word) (x : Scratch),
    s.cur = .stream slot isX → (s.hart slot).sideLog = [] → addrKind (coreOf slot) ea = .scratch core off →
    (s.core core).scratch? (s.hart slot).serial = some x → Stores through ch ea n w s s' →
    s'.mem = s.mem ∧ s'.arrays = s.arrays ∧ s'.ov = s.ov ∧
    (∀ c, c ≠ core → (s.lockstep (s.hart slot).serial = true → c ≠ core + 4) → s'.core c = s.core c) ∧
    (∀ serial, serial ≠ (s.hart slot).serial → (s'.core core).scratch? serial = (s.core core).scratch? serial) ∧
    ∃ y, (s'.core core).scratch? (s.hart slot).serial = some y ∧
      (∀ k, k < n → y.data.get (off + k) = BitVec.ofNat 8 (w.toNat / 256 ^ k)) ∧
      (∀ a, (a < off ∨ off + n ≤ a) → y.data.get a = x.data.get a)) ∧
  (∀ (s s' : State) (slot : Nat) (isX : Bool) (ch : Fin 4) (ea n core off v : Nat) (x : Scratch),
    s.cur = .stream slot isX → addrKind (coreOf slot) ea = .scratch core off →
    (s.core core).scratch? (s.hart slot).serial = some x → Loads ch ea n s s' v →
    v = leNat (x.data.bytes off n) ∧ SameMemory s s')

/-- The datum core's stores to its SRAM and loads from it (15 R580, R581): a store writes exactly its bytes, and a load
gives the bytes that stand there and changes nothing. -/
def Obligations.DatumSramHolds : Prop :=
  ∀ (s : State) (through : Bool) (ch : Fin 4) (ea n : Nat) (w : Word), s.cur = .datum → 0 < n → n ≤ 8 →
    0x100000 ≤ ea → ea + n ≤ 0x200000 →
    Loads ch ea n s s (leNat (s.dc.sram.bytes (ea - 0x100000) n)) ∧
    ∃ s', Stores through ch ea n w s s' ∧ s'.mem = s.mem ∧ s'.cores = s.cores ∧
      (∀ k, k < n → s'.dc.sram.get (ea - 0x100000 + k) = BitVec.ofNat 8 (w.toNat / 256 ^ k)) ∧
      (∀ a, (a < ea - 0x100000 ∨ ea - 0x100000 + n ≤ a) → s'.dc.sram.get a = s.dc.sram.get a)

/-- A store that performs at its home bank (06 R248, R285; 15 R592): the bytes that the mask names take the data,
every other byte of device memory keeps its value; in a sealed range nothing changes. Writing a dirty line back to
its stack changes no byte of device memory and no mark of a sector: only where they stand (06 R248, R285, R289). -/
def Obligations.HomeMemoryHolds : Prop :=
  (∀ (m : MemSys) (isSealed : Nat → Bool) (tick : Nat) (quad : Option Nat) (through : Bool)
    (orders : List (Nat × Nat)) (sec : Nat) (mask : BitVec 64) (data : Line)
    (pa : Nat),
    (m.homeStore isSealed tick quad through orders sec mask data).homeByte pa =
      if isSealed sec = false ∧ pa / 64 = sec ∧ mask.getLsbD (pa % 64) = true then Line.byte data (pa % 64)
      else m.homeByte pa) ∧
  (∀ (m : MemSys) (sec pa : Nat), (m.writeBack sec).homeByte pa = m.homeByte pa ∧
    (m.writeBack sec).poisoned pa = m.poisoned pa)

/-- ATOM (05 R225, R226): the old value is extended into x[D]; with a scope it is a release before and an acquire
after CAS compares with x[B]. What an atomic stores (05 R225), in n bytes of the old value and the operand: CAS
nothing where the old value is not the compare value. -/
def Obligations.AtomicsReturnTheOldValue : Prop :=
  (∀ (s : State) (h : Hdr) (t : Ty) (sc : Option Scope) (d b : Fin 64) (a : XOp) (m : MemOp) (disp : BitVec 32),
    (∀ op ∈ atomTable, s.ea m fun ea u => ea % Ty.size t = 0 → ∀ s1 s2 s3 old,
      Releases (rankOf sc) u s1 → Atomically h.ch op.2 t ea (s1.xval (.x d)) 0 s1 s2 old →
      Acquires (rankOf sc) (s2.xput (.x d) (extTy t old)) s3 →
      Does (op.1 h t sc d m) h s .next s3) ∧
    s.x1 a fun w u =>
      let ea := (w + disp.signExtend 64).toNat
      ea % Ty.size t = 0 → ∀ s1 s2 s3 old,
        Releases (rankOf sc) u s1 → Atomically h.ch 7 t ea (s1.xval (.x d)) (u.xval (.x b)) s1 s2 old →
        Acquires (rankOf sc) (s2.xput (.x d) (extTy t old)) s3 →
        Does (.atomCas h t sc d a b disp) h s .next s3) ∧
  (∀ (signed : Bool) (n old x cmp : Nat), 0 < n → old < 2 ^ (8 * n) → x < 2 ^ (8 * n) → cmp < 2 ^ (8 * n) →
    let num := fun (v : Nat) => if signed then (v : Int).bmod (2 ^ (8 * n)) else (v : Int)
    atomValue 0 signed n old x cmp = some x ∧
    atomValue 1 signed n old x cmp = some ((old + x) % 2 ^ (8 * n)) ∧
    atomValue 2 signed n old x cmp = some (old &&& x) ∧
    atomValue 3 signed n old x cmp = some (old ||| x) ∧
    atomValue 4 signed n old x cmp = some (old ^^^ x) ∧
    (∃ v, atomValue 5 signed n old x cmp = some v ∧ num v = min (num old) (num x)) ∧
    (∃ v, atomValue 6 signed n old x cmp = some v ∧ num v = max (num old) (num x)) ∧
    atomValue 7 signed n old x cmp = if old = cmp then some x else none)

/-- FENCE and VFENCE with nothing of the hart's under way and no drain held (01 R44, R58; 05 R227; 07 R308, R310): a releasing
fence of scope core or wider drains the core's write-combining buffer, an acquiring one drops the core's L1 lines, and FENCE of
scope pkg or pod and every VFENCE pass a drain point, once for each fence executed. On the datum core FENCE does nothing. -/
def Obligations.FencesDrainAndForget : Prop :=
  ∀ (s : State) (h : Hdr) (k : FenceKind) (sc : Scope),
    (s.cur = .datum → Does (.fence h k sc) h s .next s) ∧
    ∀ slot isX, s.cur = .stream slot isX →
      (s.issue.n ∉ (s.stream s.cur).drained → Settled s slot → Unheld s → ∃ t : State, Does (.fence h k sc) h s .next t ∧
        (k ≠ .acq → 2 ≤ Scope.rank sc → (t.core (coreOf slot)).wcb = []) ∧
        (k ≠ .rel → 2 ≤ Scope.rank sc → (t.core (coreOf slot)).l1 = []) ∧
        (t.hart slot).drains = (s.hart slot).drains + if 6 ≤ Scope.rank sc then 1 else 0) ∧
      ∀ s0, Enters 0 true true s s0 → (s0.hart slot).earlierDone isX = true → s.issue.n ∉ (s0.stream s.cur).drained →
        Settled s0 slot → Unheld s0 → ∃ t : State, Does (.vfence h k sc) h s .next t ∧
        (k ≠ .acq → 2 ≤ Scope.rank sc → (t.core (coreOf slot)).wcb = []) ∧
        (k ≠ .rel → 2 ≤ Scope.rank sc → (t.core (coreOf slot)).l1 = []) ∧
        (t.hart slot).drains = (s0.hart slot).drains + 1 ∧ (t.hart slot).vstart = 0

/-- The vector memory instructions (07 R297..R311): the address of element i is EA + i × size, base + disp + i × (stride ×
2^S), or base + disp + index(i) × 2^S; a load, gather or store whose inputs stand in every lane and whose elements perform
completes and takes its place in the lanes' queues. PREF changes no register, no tile buffer and no overlay. -/
def Obligations.VectorMemoryInstructionsComplete : Prop :=
  ∀ (s s0 : State) (h : Hdr) (t : Ty) (ix l2 : Bool) (d b : VOp) (x : XOp) (m : MemOp) (a : XOp) (scl : Fin 4)
    (disp : BitVec 32),
    let does := fun (i : Instr) (s' : State) => Ready i s0 → Does i h s .next s'.vleave
    (Enters (widest [t]) h.b h.b s s0 →
      (s0.ea m fun ea u =>
        let addr := fun i => (ea + i * (vecShape (s0.hart s0.cur.slot) t).size) % 2 ^ 64
        (∀ s', LoadsElements h t d addr u s' → does (.vld h t d m) s') ∧
        ∀ s', StoresElements h .contiguous t d addr u s' → does (.vst h t d m) s') ∧
      s0.x2 m.base m.idx fun base stride u =>
        let addr := fun i => (base + m.disp.signExtend 64 + BitVec.ofNat 64 i * (stride <<< m.scl.val)).toNat
        (∀ s', LoadsElements h t d addr u s' → does (.vlds h t d m) s') ∧
        ∀ s', StoresElements h .ordered t d addr u s' → does (.vsts h t d m) s') ∧
    (Enters (widest [t, if ix then .i64 else .i32]) h.b h.b s s0 →
      s0.x1 a fun base u => u.v1 (if ix then .i64 else .i32) b fun index u1 =>
        let addr := fun i => (base + disp.signExtend 64 +
          (if ix then BitVec.ofNat 64 (index i) else (BitVec.ofNat 32 (index i)).signExtend 64) <<< scl.val).toNat
        (∀ s', GathersElements h t d addr u1 s' → does (.vldx h t ix d a b scl disp) s') ∧
        (∀ s', StoresElements h .ordered t d addr u1 s' → does (.vstx h t ix d a b scl disp) s') ∧
        (∀ s', StoresElements h .unordered t d addr u1 s' → does (.vstu h t ix d a b scl disp) s') ∧
        ∀ s', StoresElements h .add t d addr u1 s' → does (.vstxa h t ix d a b scl disp) s') ∧
    (Enters 8 h.b h.b s s0 → ∃ t : State, Does (.pref h l2 x m) h s .next t.vleave ∧
      (∀ slot, (t.hart slot).v = (s0.hart slot).v ∧ (t.hart slot).sa.x = (s0.hart slot).sa.x ∧
        (t.hart slot).sx.x = (s0.hart slot).sx.x) ∧ t.arrays = s0.arrays ∧ t.ov = s0.ov)

/-- A vector load leaves each active element's loaded value in its destination register, and every other element as it
was (07 R301; 08 R338, R359): stated for the write of elements that every vector instruction shares. -/
def Obligations.VectorWritesOnlyItsElements : Prop :=
  ∀ (s : State) (t : Ty) (d : Fin 64) (n : Nat) (vals : List (Nat × Nat)) (i : Nat),
    (∀ v ∈ vals, topByte t v.1 < 4096) → topByte t i < 4096 → (vals.map Prod.fst).Nodup →
    getElem t (((s.vputList (.v d) t n vals).hart s.cur.slot).getV d.val) i =
      match vals.find? fun v => v.1 = i with
      | some v => v.2 % 2 ^ (if t = .e3m2 ∨ t = .e2m3 then 6 else Ty.width t)
      | none => getElem t ((s.hart s.cur.slot).getV d.val) i

/-- Cache maintenance and TLBI (06 R287..R290): CARVE gives the launch's scratchpad the ways asked for, up to those
reserved; CCLEAN, CINV and CFLUSH treat one line of their range after the other in ascending order, each at a turn, and
complete with the last; TLBI removes the cached translations
it names once no walk can use them. -/
def Obligations.MaintenanceInstructionsComplete : Prop :=
  ∀ (s s1 s2 : State) (h : Hdr) (l2 : Bool) (d a b c : XOp) (m : MemOp),
    (∀ (x : Scratch) (slot : Nat) (isX : Bool), s.cur = .stream slot isX → Releases 2 (s.xpop a) s1 →
      (∀ k ∈ s1.la.cards, k.serial = (s.hart slot).serial → k.completed = none → k.onCore (coreOf slot) = false) →
      (s1.core (coreOf slot)).scratch? (s.hart slot).serial = some x →
      ∃ t : State, Does (.carve h d a) h s .next (t.xput d (BitVec.ofNat 64 (min (s.xval a).toNat x.rsv))) ∧
        (t.core (coreOf slot)).scratch? (s.hart slot).serial = some (x.resize (min (s.xval a).toNat x.rsv)) ∧
        (t.core (coreOf slot)).l1 = [] ∧ (t.core (coreOf slot)).wcb = []) ∧
    (s.ea m fun ea u => u.x1 d fun len u1 =>
      let unit := if l2 then 256 else 64
      let done := (u1.stream u1.cur).stage
      let c := u1.hartCtx u1.cur h.ch 0
      let run := fun (op : Maint) (va : Nat) =>
        (u1.maintSectors c unit va).foldl (fun t sec => t.maintain c.core op l2 sec) u1
      let each := fun (p : Instr → Maint → Prop) =>
        p (.cclean h l2 d m) .clean ∧ p (.cinv h l2 d m) .inval ∧ p (.cflush h l2 d m) .flush
      ((maintLines ea len.toNat unit).drop done = [] → each fun i _ => Does i h s .next u1) ∧
      ∀ va rest, (maintLines ea len.toNat unit).drop done = va :: rest → addrKind c.core va ≠ .bad →
        (rest = [] → each fun i op => Does i h s .next (run op va)) ∧
        (rest ≠ [] → each fun i op => Issues i h s → ∃ t, Sys2Proof.Machine.exec i s = .next t ∧ t.issue.res = .waits ∧
          (t.stream s.cur).stage = done + 1 ∧ t.mem = (run op va).mem ∧ t.cores = (run op va).cores)) ∧
    (Releases 6 s s1 → s1.mem.walks = [] →
      Does (.tlbiAll h) h s .next (s1.setMem { s1.mem with tlbs := [] })) ∧
    (Releases 6 (s.xpop a) s1 → (s.xval a).toNat < 2 ^ 16 →
      (∀ k ∈ s1.mem.walks, k.asid.toNat ≠ (s.xval a).toNat) →
      Does (.tlbiAsid h a) h s .next (s1.setMem { s1.mem with
        tlbs := s1.mem.tlbs.filter fun e => e.2.asid.toNat ≠ (s.xval a).toNat })) ∧
    s.x3 a b c fun w lo len u => Releases 6 u s2 → s2.mem.walks = [] → w.toNat < 2 ^ 16 → 0 < len.toNat →
      Does (.tlbiRange h a b c) h s .next (s2.setMem { s2.mem with
        tlbs := s2.mem.tlbs.filter fun e => ¬(e.2.asid.toNat = w.toNat ∧ e.2.va < lo.toNat + len.toNat ∧
          lo.toNat < e.2.va + e.2.size) })

/-- DIGEST and BUDGET (06 R274, R281..R283, R291, R292): DIGEST of a launch that has ended leaves its recorded value and
kind, 0 where nothing is recorded; BUDGET gives the class's balance, and BUDGET.W also sets the next period's, up to the
resource's capacity. -/
def Obligations.DigestAndBudget : Prop :=
  ∀ (s s' : State) (h : Hdr) (d a b : XOp) (cls : Fin 16) (res : Res),
    (s.named? (s.xval a) = none → ∃ v kind,
      ((s.mem.digests.find? fun e => e.1 == s.xval a).map fun e => (e.2.1, e.2.2)).getD (0, 0) = (v, kind) ∧
      Does (.digest h d a) h s .next (((s.xpop a).upStream fun st => { st with dval := v, dkind := kind }).xput d v)) ∧
    (s.x2 a b fun va len u => va.toNat % 64 = 0 → len.toNat % 64 = 0 → ∀ lines,
      let at_ := fun i => (va.toNat + 64 * i) % 2 ^ 64
      let c := u.hartCtx u.cur 0 ((u.hart u.cur.slot).ovt.setWidth 64)
      mapM' (List.range (len.toNat / 64)) (fun i => hartLoadWide c (at_ i) 64) u = .ok lines s' →
      let v := ((lines.zipIdx.map fun x => sectorHash (BitVec.ofNat 64 (at_ x.2)) (BitVec.ofNat 512 x.1)).foldl
        (· + ·) 0 : Word)
      Does (.digestRng h d a b) h s .next ((s'.upStream fun st => { st with dval := v, dkind := 4 }).xput d v)) ∧
    Does (.budget h d cls res) h s .next (s.xput d (s.mem.budgetOf cls.val (Res.num res))) ∧
    Does (.budgetW h d a cls res) h s .next
      (((s.xpop a).setMem { s.mem with
        budgetNext := s.mem.budgetNext.put (4 * cls.val + Res.num res)
          (BitVec.ofNat 64 (min (s.xval a).toNat (Res.capacity (Res.num res)))) }).xput d
            (s.mem.budgetOf cls.val (Res.num res)))

/-- The element-wise instructions without rounding (08 R359, R360, R362, R364, R365): every active element of the
destination takes the operation's value on the elements of its sources, integers exact and wrapped or with SAT clamped; the
instruction then stands in its lanes' queues and vstart is 0. -/
def Obligations.ElementwiseWithoutRounding : Prop :=
  ∀ (s s0 : State) (h : Hdr) (t : Ty) (d a : VOp) (b c : VSrc), Enters (widest [t]) h.b h.b s s0 →
    (∀ op ∈ vecTable1, Does (op.1 h t d a) h s .next
      ((s0.v1 t a fun x u => u.vput h t d fun i => op.2 t (x i)).vleave)) ∧
    (∀ op ∈ vecTable2, Does (op.1 h t d a b) h s .next
      ((s0.v1 t a fun x u => u.vs1 t b fun y u => u.vput h t d fun i => op.2 t (x i) (y i)).vleave)) ∧
    Does (.vimad h t d a b c) h s .next
      ((s0.v1 t a fun x u => u.vs1 t b fun y u => u.vs1 t c fun z u =>
        u.vput h t d fun i => (x i * y i + z i) % 2 ^ Ty.bits t).vleave) ∧
    Does (.vclip h t d a b c) h s .next
      ((s0.v1 t a fun x u => u.vs1 t b fun y u => u.vs1 t c fun z u => u.vput h t d fun i =>
        let m := if intVal t (x i) < intVal t (y i) then y i else x i
        if intVal t (z i) < intVal t m then z i else m).vleave)

/-- The rounded element-wise instructions (03 R116..R119; 08 R359, R360, R367, R369): every active element takes the
rounding, under the instruction's mode or rmode, of the exact value; VCVT rounds the source's value into the other
type. Rounding leaves what is representable as it is (03 R116 step 2): a finite value of a floating type, rounded
into that type under any mode and any overflow rule, is its own encoding. -/
def Obligations.ElementwiseRounded : Prop :=
  (∀ (s s0 : State) (h : Hdr) (t v : Ty) (rm : Rnd) (d a : VOp) (b c : VSrc),
    (Enters (widest [t]) h.b h.b s s0 →
      (∀ op ∈ vecRounded1, Does (op.1 h t rm d a) h s .next
        ((s0.v1 t a fun x u => u.vput h t d fun i =>
          roundTo t (s0.rounding rm i) false (op.2 (Ty.decode t (x i)))).vleave)) ∧
      (∀ op ∈ vecRounded2, Does (op.1 h t rm d a b) h s .next
        ((s0.v1 t a fun x u => u.vs1 t b fun y u => u.vput h t d fun i =>
          roundTo t (s0.rounding rm i) false (op.2 (s0.rounding rm i).mode (Ty.decode t (x i)) (Ty.decode t (y i)))).vleave)) ∧
      ∀ op ∈ vecRounded3, Does (op.1 h t rm d a b c) h s .next
        ((s0.v1 t a fun x u => u.vs1 t b fun y u => u.vs1 t c fun z u => u.vput h t d fun i =>
          roundTo t (s0.rounding rm i) false (op.2 (s0.rounding rm i).mode (Ty.decode t (x i)) (Ty.decode t (y i))
            (Ty.decode t (z i)))).vleave)) ∧
    (Enters (widest [t, v]) h.b h.b s s0 → Does (.vcvt h t v rm d a) h s .next
      ((s0.v1 v a fun x u => u.vput h t d fun i =>
        roundTo t (s0.rounding rm i) (Ty.isInt v) (Ty.decode v (x i))).vleave))) ∧
  (∀ (t : Ty) (c : RCtx) (x : Nat), (Ty.fmt t).isSome → x < 2 ^ (if t = .e3m2 ∨ t = .e2m3 then 6 else Ty.width t) →
    (∃ n m e st, Ty.decode t x = .fin n m e st) → roundTo t c false (Ty.decode t x) = x)

/-- Compares to masks, TWOSUM, broadcasts, indices, selects, immediates and random elements (08 R341, R361, R363, R365, R366,
R373): a mask written under a guard keeps its inactive bits below N and is zero from N up. -/
def Obligations.MasksBroadcastsAndSelects : Prop :=
  ∀ (s s0 : State) (h : Hdr) (t : Ty) (rm : Rnd) (d e a : VOp) (b : VSrc) (k : Fin 8) (x : XOp) (row : Bool)
    (cond : VCond) (imm : BitVec 48), Enters (widest [t]) h.b h.b s s0 →
    let hart := s0.hart s0.cur.slot
    (s0.v1 t a fun x u => u.vs1 t b fun y u => ∃ m : Mask,
      Does (.vcmp h cond t k a b) h s .next ((u.upHart fun k' => k'.setK k.val m).vleave) ∧
      ∀ i, i < 1024 → m.getLsbD i = if hart.active h i then VCond.holds cond t (x i) (y i)
        else decide (i < hart.tileN) && (hart.getK k.val).getLsbD i) ∧
    Does (.twosum h t rm d e a b) h s .next
      ((s0.v1 t a fun x u => u.vs1 t b fun y u =>
        (u.vput h t d fun i => (twosum t hart.ovft.toNat (x i) (y i)).1).vput h t e
          fun i => (twosum t hart.ovft.toNat (x i) (y i)).2).vleave) ∧
    Does (.vbcast h t d x) h s .next
      ((s0.x1 x fun w u => u.vput h t d fun _ => w.toNat % 2 ^ Ty.width t).vleave) ∧
    Does (.viota h row t d) h s .next
      ((s0.vput h t d fun i => (if row then i % hart.vl.toNat else i) % 2 ^ Ty.bits t).vleave) ∧
    Does (.vsel h t d a b k) h s .next
      ((s0.v1 t a fun x u => u.vs1 t b fun y u => u.vput h t d fun i =>
        if (hart.getK k.val).getLsbD i then x i else y i).vleave) ∧
    Does (.vldi h t d imm) h s .next
      ((s0.vput h t d fun _ => if Ty.isInt t then (imm.toInt % 2 ^ Ty.bits t).toNat else imm.toNat % 2 ^ Ty.width t).vleave) ∧
    ∃ rnd : Nat → Nat, Does (.vrand h t d) h s .next ((s0.vput h t d rnd).vleave) ∧
      ∀ i, let z := (rnd32 hart.srseed (BitVec.ofNat 32 ((s0.stream s0.cur).icount.toNat * 4096 + i))).toNat
        rnd i = if t = .f32 then roundTo .f32 ⟨.rne, 0, 0⟩ false (.fin false (z / 256) (-24) false) else z

/-- Block formats and bit planes (03 R110, R114, R137; 08 R368..R372): VQBLK quantises each block of 32 under one scale byte,
VDQBLK scales each element by its block's byte, VPLANE and VUNPLANE move between values and planes; none of the four's whole
tiles depends on a guard but VDQBLK's. -/
def Obligations.BlockFormats : Prop :=
  ∀ (s s0 : State) (h : Hdr) (t v : Ty) (rm : Rnd) (off : BitVec 7) (p : BitVec 4) (d c a : VOp),
    (Enters (widest [t, v]) h.b h.b s s0 →
      (s0.v1 v a fun x u =>
        let n := (s0.hart s0.cur.slot).tileN
        let blocks := (blocksOf n).map fun b => quantBlock t (s0.rounding rm 0).mode (fun i => (s0.rounding rm (b.1 + i)).u)
          ((List.range b.2).map fun i => Ty.decode v (x (b.1 + i)))
        let scales := (u.vval c).setBytes (32 * off.toNat) (blocks.map fun b => BitVec.ofNat 8 b.1)
        ∀ k, c = .v k → Does (.vqblk h t v rm off d c a) h s .next
          (((u.upHart fun q => q.setV k.val scales (some (32 * off.toNat + blocks.length - 1))).vputList d t n
            (placed (blocks.flatMap fun b => b.2))).vleave)) ∧
      (s0.v1 v a fun x u =>
        let sc := u.vval c
        Does (.vdqblk h t v rm off d a c) h s .next
          (((u.vpop c).vput h t d fun i => roundTo t (s0.rounding rm i) false
            (descale v (sc.get (32 * off.toNat + i / 32)).toNat (x i))).vleave))) ∧
    (Enters (widest [.bp8]) h.b h.b s s0 → s0.v1 .i8 a fun x u =>
      let len := Ty.bytesFor .bp8 (s0.hart s0.cur.slot).tileN
      ∃ m : Memory, Does (.vplane h d a) h s .next
        ((match d with
          | .v k => u.upHart fun q => q.setV k.val m (some (len - 1))
          | .q k => u.upHart fun q =>
            { q with vq := q.vq.put k.val (q.vq.get k.val [] ++ [m.bytes 0 len]) }).vleave) ∧
        ∀ i, i < len → getElem .bp8 m i = if i < (s0.hart s0.cur.slot).tileN then x i % 256 else 0) ∧
    (Enters (widest [.i8]) h.b h.b s s0 → Does (.vunplane h p d a) h s .next
      ((s0.v1 .bp8 a fun x u => u.vputList d .i8 (s0.hart s0.cur.slot).tileN
        (((List.range (s0.hart s0.cur.slot).tileN)).map fun i =>
          (i, ((BitVec.ofNat 8 (x i)).toInt / 2 ^ (8 - p.toNat) * 2 ^ (8 - p.toNat) % 256).toNat))).vleave))

/-- Mask logic, counts and the mask stack (08 R374..R377): KLOG applies its table to every bit, KCNT and KFIRST look below
min(N, 1024), MPUSH stacks the top masked by k[A], MINV complements the top within its parent, MPOP drops it, VTRIP stacks
the elements with work and counts, MBRZ and MLOOP branch on the top. -/
def Obligations.MaskStackInstructions : Prop :=
  ∀ (s s0 s' : State) (h : Hdr) (t : Ty) (lut : BitVec 4) (d a b : Fin 8) (x : XOp) (v w : VOp) (nz : Bool)
    (off : BitVec 40),
    (Enters 32 h.b h.b s s0 →
      let hart := s0.hart s0.cur.slot
      let m := min hart.tileN 1024
      (∃ k : Mask, Does (.klog h lut d a b) h s .next ((s0.upHart fun q => q.setK d.val k).vleave) ∧
        ∀ i, i < 1024 → k.getLsbD i =
          lut.getLsbD (2 * ((hart.getK a.val).getLsbD i).toNat + ((hart.getK b.val).getLsbD i).toNat)) ∧
      (hart.earlierDone s0.cur.isX = true →
        Does (.kcnt h x a) h s .next ((s0.xcommit x (BitVec.ofNat 64
          ((List.range m).filter fun i => (hart.getK a.val).getLsbD i).length)).vleave) ∧
        (∀ i, i < m → (hart.getK a.val).getLsbD i = true → (∀ j, j < i → (hart.getK a.val).getLsbD j = false) →
          Does (.kfirst h x a) h s .next ((s0.xcommit x (BitVec.ofNat 64 i)).vleave)) ∧
        ((∀ i, i < m → (hart.getK a.val).getLsbD i = false) →
          Does (.kfirst h x a) h s .next ((s0.xcommit x (BitVec.allOnes 64)).vleave))) ∧
      (hart.mstack.length < 16 → Does (.mpush h a) h s .next
        ((s0.upHart fun q => { q with mstack := (q.getK 1 &&& q.getK a.val) :: q.mstack }).vleave)) ∧
      (∀ top rest, hart.mstack = top :: rest →
        Does (.minv h) h s .next
          ((s0.upHart fun q => { q with mstack := (rest.headD (BitVec.allOnes 1024) &&& ~~~top) :: rest }).vleave) ∧
        Does (.mpop h) h s .next ((s0.upHart fun q => { q with mstack := rest }).vleave)) ∧
      (hart.earlierDone s0.cur.isX = true →
        let any := ∃ i, i < m ∧ (hart.getK 1).getLsbD i = true
        ((nz = true ↔ any) → Reaches (s0.issue.n + off.signExtend 64) s0 s' →
          Does (.mbrz h nz off) h s (.taken (s0.issue.n + off.signExtend 64)) (s'.vleave)) ∧
        (¬(nz = true ↔ any) → Does (.mbrz h nz off) h s .next (s0.vleave)))) ∧
    (Enters (widest [t]) h.b h.b s s0 →
      let hart := s0.hart s0.cur.slot
      (hart.mstack.length < 16 → hart.tileN ≤ 1024 → s0.v1 t w fun c u =>
        let first := u.upHart fun q => { q with vstart := 0 }
        ∃ top : Mask, Does (.vtrip h t v w) h s .next
          (((first.vput h t v c).upHart fun q => { q with mstack := top :: q.mstack }).vleave) ∧
          ∀ i, i < 1024 → top.getLsbD i = (({ hart with vstart := 0 } : Hart).active h i && decide (c i ≠ 0) && (hart.getK 1).getLsbD i)) ∧
      (∀ top rest k, hart.earlierDone s0.cur.isX = true → hart.mstack = top :: rest → v = .v k →
        let c := fun i => getElem t (hart.getV k.val) i
        let on := (List.range (min hart.tileN 1024)).filter fun i => top.getLsbD i
        let counts := (on.filter fun i => c i ≠ 0).map fun i => (i, c i - 1)
        ∃ top' : Mask, (∀ i, i < 1024 → top'.getLsbD i = if i ∈ on then decide (1 < c i) else top.getLsbD i) ∧
          (((∃ i, i < min hart.tileN 1024 ∧ top'.getLsbD i = true) → Reaches (s0.issue.n + off.signExtend 64) s0 s' →
            Does (.mloop h t v off) h s (.taken (s0.issue.n + off.signExtend 64))
              (((s'.vputList v t hart.tileN counts).upHart fun q => { q with mstack := top' :: rest }).vleave)) ∧
          ((∀ i, i < min hart.tileN 1024 → top'.getLsbD i = false) →
            Does (.mloop h t v off) h s .next
              (((s0.vputList v t hart.tileN counts).upHart fun q => { q with mstack := rest }).vleave)))))

/-- The junction's reductions and scans (03 R130..R135; 09 R391..R395): a list is the tile or with SEG a row, an inactive
element counts as the operation's identity, and the result goes to element r of the destination, or for the whole tile to an
x register extended as a load of its type, from element 0 on whatever vstart is (08 R348) and at the commit point (08 R345). -/
def Obligations.ReductionsAndScans : Prop :=
  ∀ (s s0 : State) (h : Hdr) (op : RedOp) (seg : Bool) (t : Ty) (rm : Rnd) (v e a b : VOp) (x y : XOp),
    (Enters (widest (Instr.tileTys (.vred h op seg t rm (.v v) a))) true h.b s s0 → s0.v1 t a fun el u =>
      let hart := s0.hart s0.cur.slot
      let first : Hart := { hart with vstart := 0 }
      let res := fun (k : Hart) =>
        (hart.lists seg).zipIdx.map fun l => reduceList op t (s0.rounding rm) (k.active h) el l.2 l.1
      Does (.vred h op seg t rm (.v v) a) h s .next
        ((u.vputList v (RedOp.resTy op t) hart.tileN (placed (res hart))).vleave) ∧
      Does (.vred h op seg t rm (.x x) a) h s .next
        ((u.xcommit x (extTy (RedOp.resTy op t) ((res first).headD 0))).vleave)) ∧
    (Enters (widest [t]) true h.b s s0 → s0.v1 t a fun el u =>
      let hart := s0.hart s0.cur.slot
      let mz := minusZero t
      let first : Hart := { hart with vstart := 0 }
      let sum := fun (k : Hart) (lo : Nat → Nat) => (hart.lists seg).map fun l =>
        compSum t hart.ovft.toNat (l.map fun i => if k.active h i then (el i, lo i) else (mz, mz))
      let outs := (hart.lists seg).flatMap fun l =>
        scanFold op t (s0.rounding rm) none (l.map fun i => (i, if hart.active h i then el i else RedOp.identity op t))
      Does (.vscan h op seg t rm v a) h s .next
        ((u.vputList v t hart.tileN (outs.filter fun o => hart.active h o.1)).vleave) ∧
      Does (.vredp h seg t (.v v e) a none) h s .next
        (((u.vputList v t hart.tileN (placed ((sum hart fun _ => 0).map Prod.fst))).vputList e t hart.tileN
          (placed ((sum hart fun _ => 0).map Prod.snd))).vleave) ∧
      Does (.vredp h seg t (.x x y) a none) h s .next
        (((u.xcommit x (BitVec.ofNat 64 ((sum first fun _ => 0).headD (0, 0)).1)).xcommit y
          (BitVec.ofNat 64 ((sum first fun _ => 0).headD (0, 0)).2)).vleave) ∧
      u.v1 t b fun lo u =>
        Does (.vredp h seg t (.v v e) a (some b)) h s .next
          (((u.vputList v t hart.tileN (placed ((sum hart lo).map Prod.fst))).vputList e t hart.tileN
            (placed ((sum hart lo).map Prod.snd))).vleave) ∧
        Does (.vredp h seg t (.x x y) a (some b)) h s .next
          (((u.xcommit x (BitVec.ofNat 64 ((sum first lo).headD (0, 0)).1)).xcommit y
            (BitVec.ofNat 64 ((sum first lo).headD (0, 0)).2)).vleave))

/-- Element i of a permutation's result (09 R396), over the tile or with SEG over the row of i: VPERM takes the element that
its index names, VSLIDE the one k places before, VZIP and VUNZIP alternate two sources, VTRN transposes; a source beyond the
tile or row gives zero. -/
def Obligations.Permutations : Prop :=
  ∀ (s s0 : State) (h : Hdr) (seg ix flag : Bool) (t : Ty) (d a b : VOp) (x : XOp),
    let hart := s0.hart s0.cur.slot
    let vl := hart.vl.toNat
    let start := fun (i : Nat) => if seg then i / vl * vl else 0
    let len := if seg then vl else hart.tileN
    let at_ := fun (el : Nat → Nat) (i j : Nat) => if j < len then el (start i + j) else 0
    let pos := fun (i : Nat) => if seg then i % vl else i
    (Enters (widest [t, if ix then .n16 else .n32]) true h.b s s0 → s0.v1 t a fun el u =>
      u.v1 (if ix then .n16 else .n32) b fun idx u =>
        Does (.vperm h seg ix t d a b) h s .next ((u.vput h t d fun i => at_ el i (idx i)).vleave)) ∧
    (Enters (widest [t]) true h.b s s0 → s0.v1 t a fun el u =>
      (u.x1 x fun k u => Does (.vslide h seg flag t d a x) h s .next
        ((u.vput h t d fun i =>
          let j := (pos i : Int) - k.toInt
          if flag then at_ el i (j % len).toNat else if 0 ≤ j then at_ el i j.toNat else 0).vleave)) ∧
      (u.v1 t b fun el' u =>
        Does (.vzip h seg flag t d a b) h s .next
          ((u.vput h t d fun i => at_ (if pos i % 2 = 0 then el else el') i
            (pos i / 2 + if flag then len / 2 else 0)).vleave) ∧
        Does (.vunzip h seg flag t d a b) h s .next
          ((u.vput h t d fun i =>
            let j := 2 * pos i + flag.toNat
            if j < len then at_ el i j else at_ el' i (j - len)).vleave)) ∧
      Does (.vtrn h t d a) h s .next
        ((u.vput h t d fun i =>
          let j := i % hart.rc.toNat * vl + i / hart.rc.toNat
          if j < hart.tileN then el j else 0).vleave))

/-- Selection, sorting and single elements (03 R136; 09 R397..R400): VCOMPRESS packs the active elements and counts them,
VEXPAND spreads elements over the active places, VSORTK puts the first n keys in order with their indices, VEXTR and VINSR
reach one element, RDV gives the lanes that take part once every earlier vector instruction has committed. -/
def Obligations.SelectionAndSorting : Prop :=
  ∀ (s s0 : State) (h : Hdr) (z : Bool) (t : Ty) (d e a : VOp) (x y : XOp),
    let hart := s0.hart s0.cur.slot
    let sel := hart.actives h
    (Enters (widest [t]) true h.b s s0 →
      (s0.v1 t a fun el u =>
        Does (.vcompress h z t d a x) h s .next
          (((u.vputList d t hart.tileN ((sel.zipIdx.map fun im => (im.2, el im.1)) ++
            (if z then ((List.range hart.tileN).filter fun i => sel.length ≤ i).map fun i => (i, 0) else []))).xcommit x
              (BitVec.ofNat 64 sel.length)).vleave) ∧
        Does (.vexpand h z t d a) h s .next
          ((u.vputList d t hart.tileN ((sel.zipIdx.map fun im => (im.1, el im.2)) ++
            (if z then ((List.range hart.tileN).filter fun i => !hart.active h i).map fun i => (i, 0) else []))).vleave) ∧
        u.x1 x fun j u => Does (.vextr h t y a x) h s .next
          ((u.xcommit y (if j.toNat < hart.tileN then extTy t (el j.toNat) else 0)).vleave)) ∧
      s0.x2 x y fun w j u => Does (.vinsr h t d x y) h s .next
        ((u.vputList d t hart.tileN (if j.toNat < hart.tileN ∧ hart.active h j.toNat = true
          then [(j.toNat, w.toNat % 2 ^ Ty.width t)] else [])).vleave)) ∧
    (Enters (widest [t, .n32]) true h.b s s0 → s0.v1 t a fun el u => u.x1 x fun n u =>
      let order := sel.foldl (fun l i => insertKey (fun i j => keyBefore z t (el i) (el j)) i l) []
      let top := order.take (min n.toNat sel.length)
      let perm := top ++ sel.filter fun i => !top.contains i
      Does (.vsortk h z t d e a x) h s .next
        (((u.vputList d t hart.tileN (placed (perm.map el))).vputList e .n32 hart.tileN (placed perm)).vleave)) ∧
    (Enters 8 true true s s0 → hart.earlierDone s0.cur.isX = true → Does (.rdv h y) h s .next
      ((s0.xcommit y ((laneSet hart.lanesOf).setWidth 64)).vleave))

/-- Tile shape, allotment and strips (08 R342..R345, R350..R357): once there is room in the issue order, SETVL and SETRC give
the greatest legal shape up to what is asked and SETVL requests lane groups for it first, ALLOC and SHRINK move the allotment
and give the new one, a STRIP over no elements goes past its body, and one over some arms its body for the first pass; each
takes its place in the order and sets vstart to 0. -/
def Obligations.TileShapeAndAllotment : Prop :=
  ∀ (s s' : State) (h : Hdr) (t : Ty) (d : XOp) (a : Fin 64) (slot : Nat) (isX : Bool), s.cur = .stream slot isX →
    let hart := s.hart slot
    let n := (s.xval (.x a)).toNat
    let entered := fun (u : State) => u.enterOrder 0 h.b h.b
    Room s →
    (let cap := max 1 (min 8192 (32768 / (Ty.width t * hart.rc.toNat)))
     let vl := max 1 (min n cap)
     requestLanes (groupsNeeded vl hart.rc.toNat (Ty.width t)) s = .ok () s' →
     Does (.setvl h t d a) h s .next
       (((entered s').upHart fun q => { q with vl := BitVec.ofNat 14 vl }).xcommit d (BitVec.ofNat 64 (min n cap))).vleave) ∧
    (hart.earlierDone isX = true →
      Does (.setvlRel h d) h s .next (((entered s).xcommit d 0).releaseLanes slot).vleave) ∧
    (let rows := max 1 (min n (min 16 (32768 / (Ty.width t * hart.vl.toNat))))
     Does (.setrc h t d a) h s .next
       (((entered s).upHart fun q => { q with rc := BitVec.ofNat 5 rows }).xcommit d (BitVec.ofNat 64 rows)).vleave) ∧
    (let old := hart.allot.toNat
     let new := min (max n old) (min 64 (old + s.freeRegs (coreOf slot)))
     ∃ u : State, Does (.alloc h d a) h s .next (u.xcommit d (BitVec.ofNat 64 new)).vleave ∧
       (u.hart slot).allot = BitVec.ofNat 7 new ∧
       ∀ r, old ≤ r → r < new → r < 64 →
         (∀ k, k < 4096 → ((u.hart slot).getV r).get k = unlistedByte) ∧ (u.hart slot).vdirty.getLsbD r = true ∧
         (u.hart slot).vhw.get r 0 = 0) ∧
    (hart.earlierDone isX = true →
      let new := min hart.allot.toNat n
      ∃ u : State, Does (.shrink h d a) h s .next (u.xcommit d (BitVec.ofNat 64 new)).vleave ∧
        (u.hart slot).allot = BitVec.ofNat 7 new ∧
        (∀ r, r < new → (u.hart slot).getV r = hart.getV r) ∧
        ∀ r, new ≤ r → r < 64 → (u.hart slot).vdirty.getLsbD r = false) ∧
    ∀ (p q r : Fin 64) (sa sb sc : Fin 4) (line eLine : Line) (e : Word) (count : Nat) (s1 s2 s3 : State),
      (s.stream s.cur).priv = false → (s.stream s.cur).stripAct = false →
      fetchLine s.after s = .ok line s1 → stripScan 32 s.after line 0 s1 = .ok (e, count) s2 →
      fetchLine e s2 = .ok eLine s3 → Room s3 →
      (s.xval (.x a) = 0 →
        Does (.strip h t a p q r sa sb sc) h s (.goto (succOf e (lastOf eLine))) (entered s3).vleave) ∧
      (s.xval (.x a) ≠ 0 →
        let cap := min 8192 (32768 / Ty.width t)
        requestLanes (groupsNeeded (min n cap) 1 (Ty.width t)) s3 = .ok () s' →
        let s4 := (entered s').upHart fun k => { k with rc := 1, vl := BitVec.ofNat 14 (min n cap) }
        Does (.strip h t a p q r sa sb sc) h s .next (s4.upStream fun st =>
          { st with stripAct := true, stripNum := s.issue.n.setWidth 54, stripEnd := e.setWidth 54
                    stripLen := BitVec.ofNat 5 count, stripBody := []
                    stripArgs := [a.val, p.val, q.val, r.val, sa.val, sb.val, sc.val, cap, s.after.toNat] }).vleave)

/-- Groups and their collectives (07 R312..R318): GSET of a good descriptor with a rank below its count takes the
lowest free entry of the launch's table for the hart and names it in the register, GSET with F gives the entry up,
and a collective at which every member has arrived completes as a rendezvous of the lanes. What a collective gives
its members (07 R317): VGALL the concatenation of the tiles in ascending rank, VGBC the root's tile, under DET VGRED
the tree over the ranks at every element and VGRS that tree over the member's own slice; that the tree rounds under the
ovft of rank 0 is the model's choice (log 64). -/
def Obligations.GroupsAndCollectives : Prop :=
  (∀ (s s0 : State) (h : Hdr) (g : Fin 8) (op : GOp) (t : Ty) (d a : VOp) (x y : XOp),
    (Enters 0 h.b h.b s s0 → s0.x2 x y fun va rank u => ∀ (u1 : State) (desc : Nat) (l : Launch) (idx : Nat),
      va.toNat % 64 = 0 → hartLoadWide (u.ctx h.ch) va.toNat 64 u = .ok desc u1 → groupDescOk desc = true →
      rank.toNat < fieldOf desc 0 16 → u1.launchOf u1.cur.slot = some l →
      let own := (u1.hart u1.cur.slot).g.get g.val ⟨0, 0, 0⟩
      let l0 := if own.count = 0 then l else l.freeGroup own.idx.toNat
      idx < 64 → l0.groups.get? idx = none → (∀ j, j < idx → (l0.groups.get? j).isSome) →
      ∃ t : State, Does (.gset h g x y) h s .next t.vleave ∧
        (t.hart u1.cur.slot).g.get g.val ⟨0, 0, 0⟩
          = ⟨BitVec.ofNat 6 idx, BitVec.ofNat 16 (fieldOf desc 0 16), BitVec.ofNat 16 rank.toNat⟩ ∧
        ∃ l' e, t.launch? l.serial = some l' ∧ l'.groups.get? idx = some e ∧ e.count = fieldOf desc 0 16 ∧
          e.rank = rank.toNat ∧ e.hart = u1.cur.slot ∧ e.exb = BitVec.ofNat 64 (fieldOf desc 64 64) ∧
          e.exs = BitVec.ofNat 64 (fieldOf desc 128 64) ∧ e.calls = 0) ∧
    (Enters 0 h.b h.b s s0 → ∀ l, s0.launchOf s0.cur.slot = some l →
      let own := (s0.hart s0.cur.slot).g.get g.val ⟨0, 0, 0⟩
      Does (.gsetFree h g) h s .next ((if own.count = 0 then s0
        else (s0.setLaunch (l.freeGroup own.idx.toNat)).upHart fun k => { k with g := k.g.put g.val ⟨0, 0, 0⟩ }).vleave)) ∧
    (Enters (widest [t]) true h.b s s0 → ∀ s' : State,
      let does := fun (i : Instr) => Ready i s0 → Does i h s .next s'.vleave
      (Collects h (.red op) t d a g s0 s' → does (.vgred h op t d a g)) ∧
      (Collects h .all t d a g s0 s' → does (.vgall h t d a g)) ∧
      (Collects h (.rs op) t d a g s0 s' → does (.vgrs h op t d a g)) ∧
      s0.x1 x fun root u => Collects h (.bc root.toNat) t d a g u s' → does (.vgbc h t d a g x))) ∧
  (∀ (t : Ty) (g : GroupEntry) (n : Nat) (arr : List Arrival) (first : Arrival) (tile : Nat → List Nat) (op : GOp)
    (e root r : Nat), arr.find? (fun a => a.rank == 0) = some first →
    (∀ k, k < g.count → ∃ a, arr.find? (fun a => a.rank == k) = some a ∧ a.contrib = tile k ∧ (tile k).length = n) →
    0 < g.count → g.rank < g.count → root < g.count → r < g.count → e < n →
    ((r * n + e, (tile r)[e]?.getD 0) ∈ CollOp.result .all t true g n arr) ∧
    ((e, (tile root)[e]?.getD 0) ∈ CollOp.result (.bc root) t true g n arr) ∧
    ((e, combineTree op t first.ovft.toNat ((List.range g.count).map fun k => (tile k)[e]?.getD 0))
      ∈ CollOp.result (.red op) t true g n arr) ∧
    (e < n / g.count → (e, combineTree op t first.ovft.toNat ((List.range g.count).map fun k =>
      (tile k)[g.rank * (n / g.count) + e]?.getD 0)) ∈ CollOp.result (.rs op) t true g n arr))

/-- A card takes its place (01 R15, R19; 04 R163, R166): its handle is made of its kind, the launch's slot and the
next sequence number, it has not started, and an edge leads to it from every open card of the launch with a
conflicting region. STREAM, arrival words and JOBWAIT (07 R320, R322, R330, R331): STREAM issues its card and gives
the handle; ARMW starts the next generation of a word with COUNT 0 and gives its number; WAITW gives COUNT when the
word is of another generation or COUNT has reached TARGET; JOBWAIT gives the status of a completed card after an
acquire at scope pkg. -/
def Obligations.CardsCopiesAndArrivalWords : Prop :=
  (∀ (s s' : State) (job : Job) (regions : List Region) (w : Word) (l : Launch),
    s.launchOf s.cur.slot = some l → IssuesCard job regions s s' w →
    w = BitVec.ofNat 64 (Job.kind job * 2 ^ 60 + l.lslot * 2 ^ 40 + l.nextSeq % 2 ^ 40) ∧
    ∃ c, s'.la.cards = s.la.cards ++ [c] ∧ c.handle = w ∧ c.serial = l.serial ∧ c.seq = l.nextSeq ∧ c.job = job ∧
      c.regions = regions ∧ c.started = false ∧ c.completed = none ∧ c.stop = none ∧
      ∀ k ∈ s.la.cards, (k.seq ∈ c.edges ↔ ∃ m ∈ s.la.cards, m.seq = k.seq ∧ m.serial = l.serial ∧ m.completed = none ∧
        ∃ a ∈ m.regions, ∃ b ∈ regions, a.conflicts b = true)) ∧
  (∀ (s s0 s1 s2 s3 s' : State) (h : Hdr) (d a : XOp) (m : MemOp) (b : List Byte) (w : Word),
    Enters 0 h.b h.b s s0 →
    (s0.x1 a fun va u => va.toNat % 64 = 0 → ReadsCard h va.toNat 256 u s1 b → RegionsOk b →
      copyBadField b (match addrKind (coreOf s1.cur.slot) (copyCard b).arrw with
        | .scratch k _ => ((s1.core k).scratch? (s1.hart s1.cur.slot).serial).isSome
        | _ => false) = none →
      IssuesCard (.stream b) (regionsOf b) s1 s' w →
      Does (.stream h d a) h s .next ((s'.xput d w).vleave)) ∧
    (s0.ea m fun ea u => u.x1 d fun v u => ∀ (core off word : Nat),
      ArrivalWordAt ea u s1 core off → checkWatch ea 16 .store s1 = .ok () s2 →
      hartLoad (s1.hartCtx s1.cur 0 0) ea 16 s2 = .ok word s3 →
      let gen := (fieldOf word 48 16 + 1) % 2 ^ 16
      Does (.armw h d m) h s .next (((s3.scratchStore core (s1.hart s1.cur.slot).serial off
        (leBytes 8 (gen * 2 ^ 48) ++ leBytes 8 (v.toNat % 2 ^ 48))).xput d (BitVec.ofNat 64 gen)).vleave)) ∧
    (s0.ea m fun ea u => u.x1 d fun g u => ∀ (core off word : Nat),
      ArrivalWordAt ea u s1 core off → hartLoad (s1.hartCtx s1.cur 0 0) ea 16 s1 = .ok word s2 →
      (fieldOf word 48 16 ≠ g.toNat % 2 ^ 16 ∨ fieldOf word 64 48 ≤ fieldOf word 0 48) → Acquires 6 s2 s' →
      Does (.waitw h d m) h s .next ((s'.xput d (BitVec.ofNat 64 (fieldOf word 0 48))).vleave)) ∧
    (s0.x1 a fun hd u => ∀ (l : Launch) (k : Card) (st : CardStatus), u.launchOf u.cur.slot = some l →
      fieldOf hd.toNat 60 4 ∈ [1, 2, 3, 4] → fieldOf hd.toNat 40 20 = l.lslot →
      (u.la.cards.find? fun c => c.serial == l.serial && c.seq % 2 ^ 40 == hd.toNat % 2 ^ 40) = some k →
      k.completed = some st →
      (k.stop = none ∨ Job.kind k.job ≠ 1 ∨ k.trapped = true) →
      Acquires 6 (u.setMem u.mem.dropStale) s' →
      Does (.jobwait h d a) h s .next ((s'.xput d (BitVec.ofNat 64
        (match st with | .ok => 0 | .footprint => 1 | .fault => 2 | .abort => 3))).vleave)))

/-- Tags (10 R408, R409, R412, R423..R429): OVOPEN gives the word of the lowest free tag while the quota has room
after the older waiters, with TRY also a predicate and 0 when it has none; OVSET names a live tag; OVRETIRE and
OVCOMMIT end a live tag of the launch, give the number of its cells, and leave the tag free with the next
generation; OVSTAT gives a tag's state, the pool's or the quota's. LDO and VLDO read through the tag word in a
register (10 R427): with a live word, an aligned address and elements that can be read, LDO extends its value into a
register and VLDO loads its elements. An instruction that goes on after a wait uses the tag word, tile shape, rounding mode
and vstart that it captured at issue, whatever the partner has made of them since (08 R335; 10 R413). -/
def Obligations.TagsOpenAndEnd : Prop :=
  (∀ (s s1 : State) (h : Hdr) (sc : Scope) (d a : XOp) (p : Fin 8) (l : Launch) (slot : Nat) (isX : Bool),
    s.cur = .stream slot isX → s.launchOf slot = some l → s.dc.ready.getLsbD 54 = true →
    let room := fun (ahead : Nat) => (s.ov.holder.filter fun kv => kv.2 == l.serial).length + ahead < l.info.tagq
    (∀ n, 1 ≤ n → n < 4096 → s.ov.holder.get? n = none → (∀ j, 1 ≤ j → j < n → (s.ov.holder.get? j).isSome) →
      let w := BitVec.ofNat 64 (n * 16 + (s.ov.gens.get n 0).toNat)
      let t : State := { s with ov := { s.ov with holder := s.ov.holder.put n l.serial } }
      (room (l.waiters.takeWhile fun k => k != (slot, isX)).length →
        Does (.ovopen h d) h s .next ((t.updLaunch l.serial fun k =>
          { k with waiters := k.waiters.filter fun x => x != (slot, isX) }).xput d w)) ∧
      (room l.waiters.length → Does (.ovopenTry h d p) h s .next ((t.xput d w).pput p true))) ∧
    (¬room l.waiters.length ∨ (∀ n, 1 ≤ n → n < 4096 → (s.ov.holder.get? n).isSome) →
      Does (.ovopenTry h d p) h s .next ((s.xput d 0).pput p false)) ∧
    (s.x1 a fun w u =>
      (u.tagLive (u.hart slot).serial w = true →
        Does (.ovset h a) h s .next (u.upHart fun k => { k with ovt := w.setWidth 16 })) ∧
      (w.toNat / 16 % 2 ^ 12 ≠ 0 → u.tagLive (u.hart slot).serial w = true →
        let n := w.toNat / 16
        let r := u.endTag (u.hart slot).serial n false (some slot)
        Does (.ovretire h d a) h s .next (r.2.xput d (BitVec.ofNat 64 r.1)) ∧
        r.1 = (u.ov.cells.filter fun c => c.tag == n).length ∧ r.2.ov.holder.get? n = none ∧
        r.2.ov.gens.get n 0 = u.ov.gens.get n 0 + 1 ∧ (∀ c ∈ r.2.ov.cells, c.tag ≠ n)) ∧
      (w.toNat / 16 % 2 ^ 12 ≠ 0 → u.tagLive (u.hart slot).serial w = true → Releases (Scope.rank sc) u s1 →
        (∀ e ∈ (s1.hart s1.cur.slot).sideLog, e.tag ≠ w) → s1.baseLogged s1.cur.slot (w.toNat / 16) = false →
        s1.drains (coreOf s1.cur.slot) = true →
        let v := s1.drainCore (coreOf s1.cur.slot)
        v.dc.ready.getLsbD 54 = true → v.tagLive (v.hart v.cur.slot).serial w = true →
        let r := v.endTag (v.hart v.cur.slot).serial (w.toNat / 16) true (some v.cur.slot)
        Does (.ovcommit h sc d a) h s .next (r.2.xput d (BitVec.ofNat 64 r.1))) ∧
      Does (.ovstat h 1 d a) h s .next (u.xput d (u.poolReg (u.hart slot).serial)) ∧
      Does (.ovstat h 2 d a) h s .next (u.xput d (u.quotaReg (u.hart slot).serial)) ∧
      let n := w.toNat / 16 % 2 ^ 12
      (n = 0 → Does (.ovstat h 0 d a) h s .next (u.xput d (BitVec.ofNat 64 (2 ^ 16)))) ∧
      (n ≠ 0 → Does (.ovstat h 0 d a) h s .next (u.xput d (BitVec.ofNat 64 (n * 16 + (u.ov.gens.get n 0).toNat +
        if u.ov.holder.get? n = some (u.hart slot).serial then
          2 ^ 16 * (u.tagLive (u.hart slot).serial w).toNat + 2 ^ 32 * (u.ov.cells.filter fun c => c.tag == n).length
        else 0)))))) ∧
  (∀ (s s0 s' : State) (h : Hdr) (t : Ty) (d a b : XOp) (v : VOp) (disp : BitVec 32),
    Enters (Ty.width t) h.b h.b s s0 → s0.x2 a b fun base tw u =>
      u.tagLive (u.hart u.cur.slot).serial tw = true →
      let ea := (base + disp.signExtend 64).toNat
      (∀ value, ea % Ty.size t = 0 → hartLoad (u.hartCtx u.cur h.ch tw) ea (Ty.size t) u = .ok value s' →
        Does (.ldo h t d a b disp) h s .next ((s'.xput d (extTy t value)).vleave)) ∧
      (bodyLoad h t v tw (fun i => (ea + i * (vecShape (u.hart u.cur.slot) t).size) % 2 ^ 64) u = .ok () s' →
        Does (.vldo h t v a b disp) h s .next (s'.vleave))) ∧
  ∀ (i : Instr) (maj : Nat) (h : Hdr) (s t : State) (slot : Nat) (isX : Bool) (st : Stream) (c other : Capture),
    Instr.hdr? i = some (maj, h) → s.cur = .stream slot isX → s.stream? s.cur = some st → st.captured = some c →
    Sys2Proof.Machine.exec i s = .next t → (t.hart? slot).isSome →
    Sys2Proof.Machine.exec i (s.resumed other) = .next
      (t.resumed { other with vstart := if t.issue.res = .waits then other.vstart else (t.hart slot).vstart })

/-- Attachment and the array order (11 R440, R449, R458..R463, R469): MDETACH leaves the hart without rows, MATTACH then
grants the least of what is asked and what is free in arrays that no other launch holds, MWLD issues its card and puts a swap
in the order of its targets, MSTREAM and MZERO put their commands in the order, and MLINE sets its lines one after the other in
ascending order, each at a turn, and completes with the last, or passes when each is as it waits for; a length of 0 does
nothing beyond the checks. -/
def Obligations.MatrixCommandsEnterTheOrder : Prop :=
  ∀ (s s0 s1 s2 s3 : State) (h : Hdr) (d a : XOp) (m : MemOp) (dst : WldDst) (b : List Byte) (w : Word) (c : StreamCmd)
    (row0 : BitVec 7) (n : BitVec 8), EntersMatrix 32 true s s0 →
    let slot := s0.cur.slot
    let serial := (s0.hart slot).serial
    let leave := fun (t : State) => t.vleave
    (s0.matrixBusy slot = false →
      Does (.mdetach h) h s .next (leave (s0.detachHart slot)) ∧
      (s0.detachHart slot).matrixReg slot 0 = 0 ∧
      s0.x1 a fun want u =>
        let grant := fun (arrays : List Nat) (pair : Bool) =>
          let v := u.detachHart slot
          let g := arrays.foldl (fun g k => min g (v.array k).freeRows) (min want.toNat 128)
          let v := if 0 < g then v.attach slot g pair arrays else v
          leave (v.xput d (BitVec.ofNat 64 g))
        let ours := fun (arrays : List Nat) => ∀ k ∈ arrays,
          ((u.detachHart slot).array k).holder = none ∨ ((u.detachHart slot).array k).holder = some serial
        (ours [ownArray slot] → Does (.mattach h d a) h s .next (grant [ownArray slot] false)) ∧
        (ours (pairArrays slot) → (∀ l, s0.launchOf slot = some l → l.info.pair = false) →
          Does (.mattachPair h d a) h s .next (grant (pairArrays slot) true))) ∧
    (∀ rows arrays, s0.attachment slot = some (rows, arrays) →
      (∀ (l : Launch), (dst ≠ .own → 2 ≤ arrays.length) → Releases 3 s0 s1 →
        s1.x1 a fun va u => va.toNat % 64 = 0 → ReadsCard h va.toNat 128 u s2 b → RegionsOk b →
          weightBadField b (dst == .split) (s2.launchScratch (coreOf slot) (s2.hart slot).serial) = none →
          s2.launchOf slot = some l → s2.cur.slot = slot →
          IssuesCard (.weight b dst (wldTargets slot arrays dst)) (regionsOf b) s2 s3 w →
          Does (.mwld h dst d a) h s .next
            (leave ((s3.ordered (wldTargets slot arrays dst) (.swap l.nextSeq (weightCard b).fmt)).xput d w))) ∧
      (∀ int kl, (∀ k ∈ arrays, pairMode (s0.array k).streamFmt c.at_ = some int) → arrays ≠ [] →
        (∀ k ∈ arrays, kl ≤ fmtKt (s0.array k).streamFmt) →
        (if c.kl = 0 then ∃ k ∈ arrays, kl = fmtKt (s0.array k).streamFmt else kl = c.kl.toNat) →
        c.row0.toNat + c.m.toNat ≤ rows →
        (∀ r, r < c.m.toNat → (s0.hart slot).rowMode (c.row0.toNat + r) = int) →
        s0.x2 a d fun base sbase u => u.attachment slot = some (rows, arrays) → u.arrays = s0.arrays →
          StreamReads h c kl base sbase u →
          Does (.mstream h c d a) h s .next
            (leave (u.ordered arrays (.stream c kl base sbase (s0.hart slot).ovft)))) ∧
      (row0.toNat + n.toNat ≤ rows →
        let zero := fun int => leave ((s0.upHart fun k => { k with
          mmodes := (List.range n.toNat).foldl (fun l i => l.put (row0.toNat + i) int) k.mmodes }).ordered arrays
            (.zero row0.toNat n.toNat int))
        Does (.mzeroFp h row0 n) h s .next (zero false) ∧ Does (.mzeroInt h row0 n) h s .next (zero true))) ∧
    s0.ea m fun ea u => u.x1 d fun len u => ∀ k off, addrKind (coreOf slot) ea = .tile k off → ea % 128 = 0 →
      len.toNat % 128 = 0 → off + len.toNat ≤ 2 ^ 20 → (u.array k).holder = some serial →
      let lines := (List.range (len.toNat / 128)).map fun i => off / 128 + i
      let scope := if k = clusterOf (coreOf slot) then 3 else 4
      let done := (u.stream u.cur).stage
      let each := fun (p : Instr → Bool → Prop) => p (.mlineEmpty h d m) false ∧ p (.mlineFull h d m) true
      (lines = [] → Does (.mlineEmpty h d m) h s .next (leave u) ∧ Does (.mlineFull h d m) h s .next (leave u) ∧
        Does (.mlineWfull h d m) h s .next (leave u) ∧ Does (.mlineWempty h d m) h s .next (leave u)) ∧
      (∀ l rest, lines.drop done = l :: rest → (if done = 0 then Releases scope u s1 else s1 = u) →
        (rest = [] → each fun i full => Does i h s .next (leave (s1.setFull (k, l) full))) ∧
        (rest ≠ [] → each fun i full => Issues i h s → ∃ t, Sys2Proof.Machine.exec i s = .next t ∧ t.issue.res = .waits ∧
          (t.stream s.cur).stage = done + 1 ∧ t.arrays = (s1.setFull (k, l) full).arrays)) ∧
      (lines ≠ [] →
        (Acquires scope u s1 → ((∀ l ∈ lines, l ∈ (u.array k).full) → Does (.mlineWfull h d m) h s .next (leave s1)) ∧
          ((∀ l ∈ lines, l ∉ (u.array k).full) → Does (.mlineWempty h d m) h s .next (leave s1))))

/-- What comes back from the arrays (11 R464..R468, R470, R471): MDRAIN stores its converted elements at base + row × stride +
column × size or at base + index, MSAVE the image, whose size it gives; MRESTORE reads a whole image and then gives its rows
their cells and modes; MWAIT the status of a completed load, MSTAT the matrix registers and a row's state. -/
def Obligations.MatrixResultsComeBack : Prop :=
  ∀ (s s0 s1 s' : State) (h : Hdr) (c : DrainCmd) (d a b : XOp) (v : VOp) (m : MemOp) (rows : Nat) (arrays : List Nat),
    (EntersMatrix (Ty.width c.t) false s s0 →
      (Ready (.mdrain h c a b) s0 → s0.x2 a b fun base stride u =>
        Drains h c (fun k i => (base + BitVec.ofNat 64 (i / k.vl.toNat) * stride
          + BitVec.ofNat 64 (i % k.vl.toNat * Ty.size c.t)).toNat) u s' →
        Does (.mdrain h c a b) h s .next (s'.vleave)) ∧
      (Ready (.mdrainIdx h c a v) s0 → s0.x1 a fun base u => u.v1 .i32 v fun idx u =>
        Drains h c (fun _ i => (base + (BitVec.ofNat 32 (idx i)).signExtend 64).toNat) u s' →
        Does (.mdrainIdx h c a v) h s .next (s'.vleave))) ∧
    (EntersMatrix 32 true s s0 →
      let slot := s0.cur.slot
      let leave := fun (t : State) => t.vleave
      (s0.ea m fun ea u => u.attachment slot = some (rows, arrays) → ea % 64 = 0 →
        (∀ k off, addrKind (coreOf slot) ea ≠ .tile k off) → RowsFree u arrays →
        (let img := u.matrixImage slot rows arrays
         SavesImage h ea img u s' →
           img.length = 64 + rows * (256 * arrays.length) * 8 ∧
           Does (.msave h d m) h s .next (leave (s'.xput d (BitVec.ofNat 64 img.length)))) ∧
        ∀ (hd : Nat) (cells : List Nat),
          let x := u.hartCtx u.cur h.ch u.ovtWord
          let head := leBytes 64 hd
          let n := cardField head 5 1
          let width := 256 * arrays.length
          let modes := cardField head 24 16
          hartLoadWide x ea 64 u = .ok hd s1 → imageBad head rows arrays.length = false →
          mapM' (List.range (n * width)) (fun i =>
            hartLoad { x with elem := 8 + i } ((ea + 64 + 8 * i) % 2 ^ 64) 8) s1 = .ok cells s' →
          (∀ k ∈ cells, k < 2 ^ 51) →
          Does (.mrestore h d m) h s .next (leave (((arrays.zipIdx.foldl (fun (t : State) (k : Nat × Nat) =>
            t.setArray k.1 ((t.array k.1).restoreRows slot n width (256 * k.2) modes cells)) s').upHart fun k =>
              { k with mmodes := (List.range n).foldl (fun l r => l.put r (bitOf modes r)) k.mmodes }).xput d
                (BitVec.ofNat 64 (cardField head 8 8))))) ∧
      s0.x1 a fun w u =>
        (∀ (l : Launch) (k : Card) (st : CardStatus), u.launchOf slot = some l →
          fieldOf w.toNat 60 4 = 2 → fieldOf w.toNat 40 20 = l.lslot →
          (u.la.cards.find? fun x => x.serial == l.serial && x.seq % 2 ^ 40 == w.toNat % 2 ^ 40) = some k →
          k.completed = some st → (k.stop = none ∨ k.trapped = true) → Acquires 6 (u.setMem u.mem.dropStale) s' →
          Does (.mwait h d a) h s .next (leave (s'.xput d (BitVec.ofNat 64
            (match st with | .ok => 0 | .footprint => 1 | .fault => 2 | .abort => 3))))) ∧
        ((∀ rows arrays, u.attachment slot = some (rows, arrays) → RowsFree u arrays) →
          Does (.mstat h 0 d a) h s .next (leave (u.xput d (u.matrixReg slot 2))) ∧
          Does (.mstat h 1 d a) h s .next (leave (u.xput d (u.matrixReg slot 1))) ∧
          Does (.mstat h 2 d a) h s .next (leave (u.xput d (u.matrixReg slot 0))) ∧
          Does (.mstat h 3 d a) h s .next (leave (u.xput d (u.rowState slot w)))))

/-- The traverse instructions (12 R475..R479, R515..R519): TVLOAD of a legal header, slot table and legs that passes the
single-owner check takes the lowest free entry and gives its handle, TVLOAD.FREE of a handle whose runs have ended makes it
stale, TVSTART issues its card, TVWAIT gives a completed run's status, TVSTAT a run's, its engine's or a program's state. -/
def Obligations.TraverseInstructionsComplete : Prop :=
  ∀ (s s' : State) (h : Hdr) (d a : XOp) (g : Fin 8) (chn : Fin 17) (l : Launch), s.ours l →
    s.x1 a fun w u => u.ours l ∧
      (∀ (e : GroupEntry) (card head tab : Nat) (legs : List Nat) (s1 s2 s3 : State) (key first : Nat),
        let own := (s1.hart s1.cur.slot).g.get g.val ⟨0, 0, 0⟩
        let c := u.ctx h.ch
        let b := leBytes 64 card
        let hd := leBytes 16 head
        let paddr := cardField b 0 8
        let stab := cardField b 8 8
        let slots := (List.range 16).map fun i => ((leBytes 512 tab).drop (32 * i)).take 32
        let words := legs.map (BitVec.ofNat 128)
        let p : TProg :=
          { gen := 0, used := true, serial := l.serial, first := 0, det := bitOf (cardField hd 5 1) 0, legs := words
            slots := slots.map parseSlot, gidx := own.idx.toNat, exb := e.exb, exs := e.exs, count := own.count.toNat
            rank := own.rank.toNat }
        let q := quadOf (coreOf s'.cur.slot)
        w.toNat % 64 = 0 → u.dc.ready.getLsbD (28 + quadOf (coreOf u.cur.slot)) = true → hartLoadWide c w.toNat 64 u = .ok card s1 →
          s1.ours l → l.groups.get? own.idx.toNat = some e →
        0 < own.count.toNat → own.count.toNat ≤ 4096 → cardField b 16 48 = 0 → paddr % 16 = 0 → stab % 64 = 0 →
        hartLoadWide c paddr 16 s1 = .ok head s2 → cardField hd 6 2 ≤ 4095 →
        mapM' (List.range (cardField hd 6 2)) (fun i => hartLoadWide c (paddr + 16 + 16 * i) 16) s2 = .ok legs s3 →
        hartLoadWide c stab 512 s3 = .ok tab s' → headerBad hd = false → (∀ x ∈ slots, slotLegal x = true) →
        (p.det = true → p.ownerCheck (words.map decodeLeg) = none) →
        key < 64 → (s'.tv.progs.get? (q * 64 + key)).any (·.used) = false →
        (∀ k, k < key → (s'.tv.progs.get? (q * 64 + k)).any (·.used) = true) → s'.freeUnits q p.units = some first →
        let gen := ((s'.tv.progs.get? (q * 64 + key)).map (·.gen)).getD 0
        let r := s'.takeEntryFor l q p
        Does (.tvload h d a g) h s .next (r.2.xput d r.1) ∧ r.1 = progHandle (q * 64 + key) gen l.lslot ∧
          r.2.tv.progs.get? (q * 64 + key) = some { p with gen := gen, first := first }) ∧
      (∀ key p, u.progOf l w = some (key, p) → u.dc.ready.getLsbD (28 + key / 64) = true → u.progBusy l.serial w = false →
        Does (.tvloadFree h a) h s .next (u.freeProg key p) ∧ (u.freeProg key p).progOf l w = none) ∧
      (∀ b s1 s2 key p handle, w.toNat % 64 = 0 → ReadsCard h w.toNat 128 u s1 b → RegionsOk b → s1.ours l →
        s1.progOf l (BitVec.ofNat 64 (cardField b 64 8)) = some (key, p) → cardField b 72 56 = 0 →
        IssuesCard (.traverse (BitVec.ofNat 64 (cardField b 64 8)) chn (((l.groups.get? p.gidx).map (·.runs)).getD 0))
          (regionsOf b) s1 s2 handle →
        Does (.tvstart h chn d a) h s .next ((s2.updLaunch l.serial fun k =>
          match k.groups.get? p.gidx with
          | some x => { k with groups := k.groups.put p.gidx { x with runs := x.runs + 1 } }
          | none => k).xput d handle)) ∧
      (∀ (k : Card) (st : CardStatus),
        fieldOf w.toNat 60 4 = 3 → fieldOf w.toNat 40 20 = l.lslot →
        (u.la.cards.find? fun x => x.serial == l.serial && x.seq % 2 ^ 40 == w.toNat % 2 ^ 40) = some k →
        k.completed = some st → Acquires 6 (u.setMem u.mem.dropStale) s' →
        Does (.tvwait h d a) h s .next (s'.xput d (BitVec.ofNat 64
          (match st with | .ok => 0 | .footprint => 1 | .fault => 2 | .abort => 3)))) ∧
      Does (.tvstat h 0 d a) h s .next (u.xput d (u.tvCardStat l.serial w)) ∧
      (w = 0 → Does (.tvstat h 1 d a) h s .next (u.xput d (u.tvEngineStat (quadOf (coreOf u.cur.slot))))) ∧
      Does (.tvstat h 2 d a) h s .next (u.xput d (u.tvProgStat l w))

/-- The gazetteer instructions (13 R525, R531, R546..R549): GZLOOK and GZUPDATE issue cards whose fields break no rule, under
the version that the block names or the table's current one; GZVER sets the current version after a release and gives the one
before; GZPIN and GZPIN.UN give the number of rows done; GZWAIT gives a completed card's result. -/
def Obligations.GazetteerInstructionsComplete : Prop :=
  ∀ (s s1 s2 s' : State) (h : Hdr) (d a b : XOp) (n : BitVec 13) (ver : Fin 4) (l : Launch) (e : TableEntry) (w : Word),
    s.ours l →
    (s.x1 a fun v u =>
      (∀ bytes entry, v.toNat % 64 = 0 → ReadsCard h v.toNat 128 u s1 bytes → RegionsOk bytes → s1.ours l →
        let sp := parseSpb bytes
        tableEntry sp.tid s1 = .ok entry s2 →
        let elems := (entry.map fun e => if e.usable l.info.asid none then e.elems else 0).getD 0
        let use := if sp.expl then sp.vsel else (s2.gz.cur.get sp.tid 0).toNat
        (spbBadField bytes true elems = none → IssuesCard (.lookup bytes use) (regionsOf bytes) s2 s' w →
          Does (.gzlook h d a) h s .next (s'.xput d w)) ∧
        (spbBadField bytes false elems = none → IssuesCard (.update bytes use) (regionsOf bytes) s2 s' w →
          Does (.gzupdate h d a) h s .next (s'.xput d w))) ∧
      (v.toNat ≤ 255 → tableEntry v.toNat u = .ok (some e) s1 → e.v = true → e.asid = l.info.asid.toNat →
        s1.dc.ready.getLsbD (16 + e.lead) = true →
        Releases 6 s1 s2 →
        Does (.gzver h ver d a) h s .next
          ((s2.setGz { s2.gz with cur := s2.gz.cur.put v.toNat (BitVec.ofNat 2 ver.val) }).xput d
            ((s2.gz.cur.get v.toNat 0).setWidth 64))) ∧
      (∀ (k : Card) (st : CardStatus), u.ours l →
        fieldOf v.toNat 60 4 = 4 → fieldOf v.toNat 40 20 = l.lslot →
        (u.la.cards.find? fun x => x.serial == l.serial && x.seq % 2 ^ 40 == v.toNat % 2 ^ 40) = some k →
        k.completed = some st → Acquires 6 (u.setMem u.mem.dropStale) s' →
        Does (.gzwait h d a) h s .next (s'.xput d (BitVec.ofNat 64 (gzResult k st))))) ∧
    s.x2 a b fun v r0 u => ∀ done,
      v.toNat < 1024 → tableEntry (v.toNat % 256) u = .ok (some e) s1 → u.ours l →
      e.usable l.info.asid (some (v.toNat / 256)) = true → r0.toNat + n.toNat ≤ e.rows →
      (PinsRows false e (v.toNat % 256) (v.toNat / 256) r0.toNat n.toNat l.serial s1 s' done →
        Does (.gzpin h n d a b) h s .next (s'.xput d (BitVec.ofNat 64 done))) ∧
      (PinsRows true e (v.toNat % 256) (v.toNat / 256) r0.toNat n.toNat l.serial s1 s' done →
        Does (.gzpinUn h n d a b) h s .next (s'.xput d (BitVec.ofNat 64 done)) ∧ done = n.toNat)

/-- The launch instructions (04 R154, R182..R187): LAUNCH of an aligned record that no check refuses, with room in its
instance's device queue, accepts it under the instance's next serial and gives that serial; a refused record gives its code
with bit 63 set, and LAUNCH.TRY on a full queue 0; TRIG counts and adds to the signal word at the declared count; BAR passes
once its barrier has been released; WAITL gives the word once it has reached the value; LVLID gives what it names. -/
def Obligations.LaunchInstructionsComplete : Prop :=
  ∀ (s s1 s2 s3 : State) (h : Hdr) (d a c : XOp) (l : Launch) (b : List Byte) (lev : Fin 8) (sel : LvlSel) (sc : Scope),
    s.ours l →
    ((s.stream s.cur).copied = [] → s.x1 a fun va u => va.toNat % 64 = 0 → Releases (if l.info.pod then 7 else 6) u s1 →
      ReadsCard h va.toNat 256 s1 s2 b →
      let home := quadOf (coreOf s2.cur.slot)
      let kept := s2.upStream fun st => { st with copied := b }
      let count := s2.la.devCount.get home 0
      let serial := BitVec.ofNat 64 ((65 + home) * 2 ^ 56 + count % 2 ^ 48)
      let r := parseRecord b
      let r := { r with
        asid := if (s2.stream s2.cur).priv then r.asid else l.info.asid
        prio := min r.prio l.info.prio }
      let t := (kept.setLa { kept.la with devCount := kept.la.devCount.put home (count + 1) }).accept r serial home l.evq
        none none
      (s2.refusal b ≠ 0 →
        Does (.launch h d a) h s .next (s2.xput d (BitVec.ofNat 64 (2 ^ 63 + s2.refusal b))) ∧
        Does (.launchTry h d a) h s .next (s2.xput d (BitVec.ofNat 64 (2 ^ 63 + s2.refusal b)))) ∧
      (s2.refusal b = 0 → s2.dc.ready.getLsbD (32 + home) = true →
        (s2.deviceQueued home < 256 → Does (.launch h d a) h s .next (t.xput d serial) ∧
          Does (.launchTry h d a) h s .next (t.xput d serial) ∧
          ∃ k, t.la.launches = s2.la.launches ++ [k] ∧ k.name = serial ∧ k.info = r ∧ k.phase = .waiting ∧
            k.device = true ∧ k.evq = l.evq) ∧
        (256 ≤ s2.deviceQueued home → Does (.launchTry h d a) h s .next (kept.xput d 0)))) ∧
    (Releases l.info.sigscope s s1 →
      let t := s1.updLaunch l.serial fun k => { k with trigCount := k.trigCount + 1 }
      Does (.trig h) h s .next
        (if l.info.trigcnt ≠ 0 ∧ l.trigCount + 1 = l.info.trigcnt then t.triggerAdd l.serial else t)) ∧
    (lev ≠ 0 → lev.val < l.info.nlev →
      let dom := (l.info.level lev.val).dom
      ((s.stream s.cur).stage ≠ 0 → (s.stream s.cur).barWait = none → Acquires dom s s1 →
        Does (.bar h lev) h s .next s1) ∧
      ((s.stream s.cur).stage = 0 → Releases dom s s1 → Issues (.bar h lev) h s → ∃ t : State,
        Sys2Proof.Machine.exec (.bar h lev) s = .next t ∧ (t.stream s1.cur).barWait = some lev.val ∧
        (t.stream s1.cur).barCount lev.val = (s1.stream s1.cur).barCount lev.val + 1 ∧ t.issue.res = .waits)) ∧
    (lev ≠ 0 → Does (.lvlid h lev sel d) h s .next
      (s.xput d (BitVec.ofNat 64 (l.info.lvlid (s.hart s.cur.slot).index lev.val sel)))) ∧
    s.x2 a c fun va least u => ∀ v, va.toNat % 8 = 0 → hartLoad (u.ctx h.ch) va.toNat 8 u = .ok v s1 →
      Acquires (Scope.rank sc) s1 s3 → least.toNat ≤ v →
      let fresh := if 6 ≤ Scope.rank sc then s3.setMem s3.mem.dropStale else s3
      Does (.waitl h sc d a c) h s .next (fresh.xput d (BitVec.ofNat 64 v))

/-- The survey instructions (14 R560, R566, R572..R577): MTICK gives the counter, with ORD once what the stream has issued
(vector instructions, matrix commands, stores to other packages) has completed; SVMARK records its code and value where the
ring takes the launch's class; SVSAMP starts a sample buffer of 2,048 bytes, OFF ends sampling; SVREAD gives occupancy, frees
records, gives an energy counter or the ring's state; SVSTOP arms a stop or says why not; CLKLOCK takes the lock, OFF gives it
up. -/
def Obligations.SurveyInstructionsComplete : Prop :=
  ∀ (s s1 : State) (h : Hdr) (d a : XOp) (code : BitVec 16) (n : BitVec 5) (p : Fin 8),
    let hart := s.hart s.cur.slot
    let ring := s.traceRing (quadOf (coreOf s.cur.slot))
    Does (.mtick h d) h s .next (s.xput d s.sv.mtick) ∧
    ((∀ e ∈ hart.inflight, e.isX ≠ s.cur.isX) → (∀ t ∈ hart.trains, t.isX = s.cur.isX → t.failed = true ∨ t.round.isSome) →
      (∀ kv ∈ s.arrays, ∀ c ∈ kv.2.queue, c.hart = s.cur.slot → c.isX ≠ s.cur.isX) →
      Does (.mtickOrd h d) h s .next (s.xput d s.sv.mtick) ∧
      (s.dc.ready.getLsbD 55 = true → s.x1 a fun v u =>
        let cls := (((s.launchOf s.cur.slot).map fun l => l.info.bclass).getD 15)
        Does (.svmark h code a) h s .next (if ring.ctl.getLsbD (7 + cls) = true
          then u.traceRecord (quadOf (coreOf s.cur.slot)) (coreOf s.cur.slot) 1 (s.cur.slot % 4) s.cur.isX code.toNat
            s.issue.n v else u))) ∧
    (s.dc.ready.getLsbD 55 = true → s.x1 a (fun v u =>
      (∀ (off : Nat) (x : Scratch), v.toNat % 64 = 0 →
        addrKind (coreOf s.cur.slot) v.toNat = .scratch (coreOf s.cur.slot) off →
        scratchAt (u.hartCtx u.cur 0 0) v.toNat (coreOf s.cur.slot) off 2048 u = .ok x u →
        Does (.svsamp h n a) h s .next (u.upHart fun k => { k with
          svN := n
          svBuf := v
          svRd := 0
          svOcc := 0
          svLost := 0
          svCount := 0 })) ∧
      (v = 0 → Acquires 2 u s1 →
        Does (.svread h 0 d a) h s .next (s1.xput d (s1.hart s1.cur.slot).svsoccReg)) ∧
      (let k := min v.toNat hart.svOcc.toNat
       Does (.svread h 1 d a) h s .next ((u.upHart fun q => { q with
          svRd := q.svRd + BitVec.ofNat 5 k
          svOcc := q.svOcc - BitVec.ofNat 6 k }).xput d (BitVec.ofNat 64 k))) ∧
      (∀ l, s.ours l → Does (.svread h 2 d a) h s .next
        (u.xput d (if v.toNat < 10 then l.energy.get v.toNat 0 else 0))) ∧
      (v = 0 → Does (.svread h 3 d a) h s .next
        (u.xput d (BitVec.ofNat 64 ((ring.ctl.getLsbD 0).toNat + if 0 < ring.lost then 2 else 0)))) ∧
      (let armed : State × Word := if u.dc.portPerm.getLsbD 3 = false then (u, 3)
         else if v.toNat < s.tick + 1000 then (u, 1)
         else if s.sv.stopAt.isSome then (u, 2)
         else ({ u with sv := { u.sv with stopAt := some v } }, 0)
       Does (.svstop h d a) h s .next (armed.1.xput d armed.2))) ∧
    Does (.svsampOff h) h s .next (s.upHart fun k => { k with svN := 0 }) ∧
    ((∃ q, s.sv.lock = some q ∧ q.1 ≠ hart.serial) → Does (.clklock h p d) h s .next (s.xput d 1)) ∧
    ((∀ q, s.sv.lock = some q → q.1 ≠ hart.serial) → Does (.clklockOff h d) h s .next (s.xput d 1)) ∧
    ((∀ q, s.sv.lock = some q → q.1 = hart.serial) →
      (p < s.dc.limit → Does (.clklock h p d) h s .next (s.xput d 2)) ∧
      (s.dc.limit ≤ p → Does (.clklock h p d) h s .next
        (((({ s with sv := { s.sv with lock := some (hart.serial, p), broken := false } } : State).settlePoint).tracePackage
          2 p.val 0).xput d 0)) ∧
      (s.sv.lock.isSome → Does (.clklockOff h d) h s .next
        ((({ s with sv := { s.sv with lock := none, broken := false } } : State).tracePackage 3 0 0).xput d 0))))

/-- The datum controller's instructions (15 R583..R589, R593..R599, R608..R616): DHASH and the DSIGN forms store their outputs
in SRAM, DVERIFY gives its code, FUSERD a fuse word, KEYWIPE the number of loaded slots among those it wipes, MEXTEND extends a
register with the hash of its old value and the record, LCSET gives 0 and enters the state or 1, DBGOPEN the mask it opens. -/
def Obligations.DatumInstructionsComplete : Prop :=
  ∀ (s : State) (h : Hdr) (d a b : XOp) (idx : Fin 8) (t : LcTarget) (mask : BitVec 32),
    let inSram := fun (at_ n : Nat) => n = 0 ∨ 0x100000 ≤ at_ ∧ at_ + n ≤ 0x200000
    let bytes := fun (u : State) (at_ n : Nat) => u.dc.sram.bytes (at_ - 0x100000) n
    let put := fun (u : State) (at_ : Nat) (l : List Byte) => u.sramStore true (at_ - 0x100000) l
    s.x2 a b (fun va len u => len.toNat ≤ 2 ^ 20 → inSram va.toNat len.toNat →
      let msg := bytes u va.toNat len.toNat
      Does (.mextend h idx a b) h s .next { u with dc := u.dc.extend idx.val msg } ∧
      (u.dc.extend idx.val msg).meas.get idx.val 0 =
        BitVec.ofNat 256 (leNat (sha3 (leBytes 32 (u.dc.meas.get idx.val 0).toNat ++ msg))) ∧
      u.x1 d fun out u =>
        (inSram out.toNat 32 → Does (.dhash h d a b) h s .next (put u out.toNat (sha3 msg))) ∧
        (s.dc.lc ≠ 0 → inSram out.toNat 2420 →
          Does (.dsign h d a b) h s .next (put u out.toNat (MlDsa.sign s.dc.identity (ascii "MNX-MSG") msg)))) ∧
    (s.dc.lc ≠ 0 → s.x1 d fun out u => inSram out.toNat 1312 →
      Does (.dsignPub h d) h s .next (put u out.toNat s.dc.identity.pk)) ∧
    s.x1 a (fun va u =>
      (s.dc.lc ≠ 0 → inSram va.toNat 32 → u.x1 d fun out u1 => inSram out.toNat 2772 →
        let rep := s.dc.report (bytes u va.toNat 32) s.tick
        Does (.dsignAtt h d a) h s .next
          (put u1 out.toNat (rep ++ MlDsa.sign s.dc.identity (ascii "MNX-ATT") rep))) ∧
      (inSram va.toNat 64 →
        let desc := bytes u va.toNat 64
        let field := fun i => cardField desc (8 * i) 8
        (cardField desc 8 56 = 0 → inSram (field 0) 3796 →
          let r := u.dc.judgeToken (bytes u (field 0) 3796)
          Does (.dverify h .tok d a) h s .next (({ u with dc := r.1 } : State).xput d (BitVec.ofNat 64 r.2)) ∧
          r.1.chal0 = 0 ∧ r.1.chal1 = 0 ∧ (r.2 = 0 ↔ u.dc.tokenCode (bytes u (field 0) 3796) = 0)) ∧
        (cardField desc 41 23 = 0 → field 2 ≤ 2 ^ 20 → inSram (field 0) 1312 → inSram (field 1) (field 2) →
          inSram (field 3) 2420 → inSram (field 4) (cardField desc 40 1) →
          let pk := bytes u (field 0) 1312
          let good := MlDsa.verify pk (bytes u (field 4) (cardField desc 40 1)) (bytes u (field 1) (field 2))
            (bytes u (field 3) 2420)
          Does (.dverify h .sig d a) h s .next (u.xput d (if good then 0 else 1)) ∧
          Does (.dverify h .fw d a) h s .next (u.xput d
            (if sha3 pk ≠ u.dc.fuseHash 7 then 2 else if good then 0 else 1)))) ∧
      (va.toNat < 64 → Does (.fuserd h d a) h s .next (u.xput d (u.dc.fuseRead va.toNat)) ∧
        Does (.keywipe h d a) h s .next (((u.wipeSlot va.toNat).postDatum 26 ((u.dc.slot va.toNat).v).toNat []).xput d
          (BitVec.ofNat 64 ((u.dc.slot va.toNat).v).toNat)))) ∧
    (let c := (List.range 64).countP fun n => (s.dc.slot n).v
     let u := (List.range 64).foldl State.wipeSlot s
     let u := if u.dc.dunlk = 1 then { u with dc := { u.dc with dunlk := 2 } } else u
     Does (.keywipeAll h d) h s .next ((u.postDatum 26 c []).xput d (BitVec.ofNat 64 c))) ∧
    (s.dc.dunlk ≠ 2 → Does (.mextendDbg h d) h s .next (s.xput d 1)) ∧
    (s.dc.dunlk = 2 → Does (.mextendDbg h d) h s .next
      (({ s with dc := { s.dc.extend 7 s.dc.debugRecord with dunlk := 3 } } : State).xput d 0)) ∧
    (s.lifecycle t = none → Does (.lcset h t d) h s .next (s.xput d 1)) ∧
    (∀ u, s.lifecycle t = some u → Does (.lcset h t d) h s .next ((u.postDatum 27 u.dc.lc.toNat []).xput d 0) ∧
      (s.dc.lc = 3 ∨ s.dc.fuses.get 2 0 = fusePattern s.dc.lc →
        u.dc.lc = (match t with | .prov => 1 | .depl => 2 | .debug => 3 | .rma => 4))) ∧
    (s.dc.dunlk = 4 → Does (.dbgopen h mask d) h s .next
      (({ s with dc := { s.dc with dunlk := 5, dbgMask := mask &&& s.dc.perm } } : State).xput d
        ((mask &&& s.dc.perm).setWidth 64))) ∧
    (s.dc.dunlk ≠ 4 → Does (.dbgopen h mask d) h s .next
      (s.xput d (BitVec.ofNat 64 (2 ^ 63 + if s.dc.lc = 0 ∨ s.dc.lc = 4 then 2 else 1))))

/-- The legs of a run (12 R485..R498, R500, R501): a SEND sends its chunk to its peer with the next number for it, a RECV takes
the SEND of its turn, REDUCE and COPY write what they work out from what they read, WAIT passes once its condition holds,
SIGNAL sends its value behind every SEND to that member, RESERVE sends its claim and then takes its rows from the grant, REPEAT
counts and goes back while passes are left, and END frees the channel once all is acknowledged. -/
def Obligations.LegsComplete : Prop :=
  ∀ (s s1 s2 s' : State) (e : RunEnv) (row fin full arr spill cvt lv : Bool) (p : Peer) (sa sb sc : Fin 16) (c : Chunk)
    (op : GOp) (dt : LegTy) (stride : BitVec 12) (k : LegWaitKind) (value rows count target : BitVec 32) (place : Place)
    (data data' : List (Byte × Bool)),
    let dst := e.p.peer p
    let seqd := fun (t : State) (kind : Nat) => ({ t with nextId := t.nextId + 1 } : State).updChan e.key fun c =>
      { c with unacked := c.unacked ++ [⟨t.nextId, dst, kind⟩] }
    (LegActs (.legSend row fin p sa sb sc c) s e → s.knows e dst place → RunReads e (e.at_ c sa) c.len.toNat s s1 data →
      (row = true → e.c.claim.isSome) →
      let off := c.off.toNat + e.p.index c e.c.it0 e.c.it1 * c.len.toNat
      let bs := data.map Prod.fst
      ∃ (m : SendMsg) (t : State), Sys2Proof.Machine.exec (.legSend row fin p sa sb sc c) s = .next (t.legDone e) ∧
        (m.run = e.c.run ∧ m.src = e.c.rank ∧ m.dst = dst ∧ m.k = e.c.sent.get dst 0 ∧ m.fin = fin ∧ m.sb = sb ∧
          m.poison = data.any Prod.snd ∧ (row = false → m.pieces = [(sb, off, false, bs)]) ∧
          ∀ g n0 n sp, row = true → e.c.claim = some (g, n0, n, sp) → m.pieces = rowPieces sb sc g n0 n sp off bs) ∧
        (match place with
          | .pkg r => t.linkOut = s1.linkOut ++ [.tv r (.send m)]
          | _ => t.tv.flight = s1.tv.flight ++ [.send m])) ∧
    (∀ x, LegActs (.legRecv fin full arr p sa c) s e →
      (s.tv.landed.find? fun y => y.msg.run == e.c.run && y.msg.dst == e.c.rank && y.msg.src == dst &&
        y.msg.k == e.c.recvd.get dst 0 && y.done) = some x → x.msg.fin = fin →
      runMark e (e.p.slot sa) full arr (e.at_ c sa) c.len.toNat (s.setMem s.mem.dropStale) = .ok () s1 →
      let mine := fun (y : Landed) => y.msg.run == e.c.run && y.msg.dst == e.c.rank && y.msg.src == dst &&
        y.msg.k == e.c.recvd.get dst 0
      Sys2Proof.Machine.exec (.legRecv fin full arr p sa c) s =
        .next (((s1.setTv { s1.tv with landed := s1.tv.landed.filter fun y => !mine y }).updChan e.key fun q =>
          { q with recvd := q.recvd.put dst (e.c.recvd.get dst 0 + 1) }).legDone e)) ∧
    (LegActs (.legReduce op dt full arr sa sb sc c) s e → e.c.writing = false →
      let t := LegTy.ty dt
      let n := Ty.size t
      (∀ sl ∈ [sa, sb, sc], e.at_ c sl % n = 0) → RunReads e (e.at_ c sa) c.len.toNat s s1 data →
      RunReads e (e.at_ c sb) c.len.toNat s1 s2 data' → (∀ b ∈ data ++ data', b.2 = false) →
      let out := ((elemsOf n (data.map Prod.fst)).zip (elemsOf n (data'.map Prod.fst))).map fun x =>
        reduceElem op t e.k.ovft.toNat x.1 x.2
      LegWrites e (e.p.slot sc) full arr (e.at_ c sc) c.len.toNat
        (out.zipIdx.map fun v => (e.at_ c sc + n * v.2, leBytes n v.1, false)) s2 s' →
      Sys2Proof.Machine.exec (.legReduce op dt full arr sa sb sc c) s = .next s') ∧
    (LegActs (.legCopy cvt full arr stride sa sc c) s e → e.c.writing = false →
      RunReads e (e.at_ c sa) c.len.toNat s s1 data → (cvt = true → ∀ b ∈ data, b.2 = false) →
      let ref := copyDst cvt stride sc c
      let place_ := e.p.addr ref (e.p.index c e.c.it0 e.c.it1)
      let out := if cvt then (elemsOf 4 (data.map Prod.fst)).flatMap fun v =>
          (leBytes 2 (roundTo .bf16 ⟨.rne, e.k.ovft.toNat, 0⟩ false (Ty.decode .f32 v))).map fun b => (b, false)
        else data
      LegWrites e (e.p.slot sc) full arr place_ ref.len (runWrites place_ out) s1 s' →
      Sys2Proof.Machine.exec (.legCopy cvt full arr stride sa sc c) s = .next s') ∧
    (LegActs (.legWait k) s e →
      (match k with
        | .arr sl n => ∃ v, arrivalCount e.ctx (e.p.slot sl).arrw.toNat s = .ok v s ∧ n.toNat ≤ v
        | .drain => e.c.unacked = [] ∧ e.k.trains = []
        | .full sl ch => ∀ l ∈ linesOf e.k.core (e.at_ ch sl) ch.len.toNat, l.2 ∈ (s.array l.1).full
        | .empty sl ch => ∀ l ∈ linesOf e.k.core (e.at_ ch sl) ch.len.toNat, l.2 ∉ (s.array l.1).full) →
      Sys2Proof.Machine.exec (.legWait k) s = .next ((s.setMem s.mem.dropStale).legDone e)) ∧
    (LegActs (.legSignal p sb value) s e → s.knows e dst place → (∀ u ∈ e.c.unacked, ¬(u.dst = dst ∧ u.kind = 0)) →
      Sys2Proof.Machine.exec (.legSignal p sb value) s = .next (((seqd s 1).tvSend place
        (.signal ⟨e.c.run, e.c.rank, dst, e.key, s.nextId, sb, value, 0, false, false⟩)).legDone e)) ∧
    (LegActs (.legReserve spill p sb rows) s e →
      (e.c.pendRes = none → sendClaim e dst sb rows s = .ok () s' →
        Sys2Proof.Machine.exec (.legReserve spill p sb rows) s = .next s') ∧
      ∀ o total, e.c.pendRes.isSome → e.c.grant = some (o, total) →
        Sys2Proof.Machine.exec (.legReserve spill p sb rows) s = .next ((s.updChan e.key fun q =>
          { q with
            claim := some (o, min rows.toNat (total - o), rows.toNat, spill)
            pendRes := none
            grant := none
            resCount := q.resCount + 1 }).legDone e)) ∧
    (LegActs (.legRepeat lv count target) s e → count ≠ 0 → target.toNat ≤ e.c.leg →
      let it := (if lv then e.c.it1 else e.c.it0) + 1
      let next := if it < count.toNat then it else 0
      Sys2Proof.Machine.exec (.legRepeat lv count target) s = .next (s.updChan e.key fun q =>
        { q with
          it0 := if lv then q.it0 else next
          it1 := if lv then next else q.it1
          leg := if it < count.toNat then target.toNat else q.leg + 1 })) ∧
    (LegActs .legEnd s e → e.c.unacked = [] → e.k.trains = [] →
      ∃ t : State, Sys2Proof.Machine.exec .legEnd s = .next t ∧ t.tv.chans.get? e.key = none ∧ SameMemory s t ∧
        ∃ x ∈ t.tv.ended, x.run = e.c.run ∧ x.rank = e.c.rank ∧ x.card = e.c.card)

/-- What comes about in harts and their lanes (02 R75; 04 R185; 05 R195, R237; 06 R268, R270; 07 R309; 08 R344..R346; 09
R381..R384; 14 R561): a WAIT ends, a deadlocked stream traps QDIR, lanes complete, arrive and are released in order, an
instruction that names a result still to be delivered waits, a vector trap is taken, logged entries perform, deferred traps are
taken at a boundary, a sample is stored, a barrier is released once what its halted streams stored has performed. -/
def Obligations.HartEventsComeAbout : Prop :=
  ∀ (s s' : State) (slot serial : Nat) (lane : Fin 16) (p : Party) (st : Stream),
    let h := s.hart slot
    (s.stream? p = some st → st.waiting.isSome →
      Sys2Proof.Machine.exec (.waitWake p) s = .next (s.setStream p { st with waiting := none })) ∧
    (∀ isX, s.hart? slot = some h → h.deadlocked isX = true → (isX = false → h.deadlocked true = false) →
      (h.stream isX).depth ≠ 3 →
      ∃ t : State, Sys2Proof.Machine.exec (.queueDeadlock slot) s = .next t ∧
        let u := t.stream (.stream slot isX)
        u.tcause = BitVec.ofNat 64 causeQdir ∧ u.tval = BitVec.ofNat 64 ((h.stream isX).blocked.getD 0) ∧
        u.tpc = (h.stream isX).pc ∧ u.pc = (h.stream isX).tvec ∧ u.priv = true) ∧
    (∀ e, (h.inflight.find? fun e => e.serial == serial) = some e → e.takes lane.val = true → e.lane lane.val = .absent →
      laneFree h.inflight serial lane.val = true → laneSlip h.inflight serial = true →
      let set_ := fun (x : LaneSt) => h.inflight.map fun e => if e.serial == serial then e.setLane lane.val x else e
      (e.rendezvous = false → e.done = true → Sys2Proof.Machine.exec (.laneComplete slot serial lane) s =
        .next (s.setHart slot { h with inflight := set_ .released }.commit)) ∧
      (e.rendezvous = true → Sys2Proof.Machine.exec (.laneArrive slot serial lane) s =
        .next (s.setHart slot { h with inflight := set_ .arrived }))) ∧
    (∀ e, (h.inflight.find? fun e => e.serial == serial) = some e → e.rendezvous = true → e.done = true →
      (∀ l, l < 16 → e.takes l = true → e.lane l = .arrived) →
      Sys2Proof.Machine.exec (.rendezvousComplete slot serial) s = .next (s.setHart slot { h with
        inflight := h.inflight.map fun (e : VEntry) => if e.serial == serial then e.release else e }.commit)) ∧
    (∀ (i : Instr) (maj : Nat) (hd : Hdr), Instr.hdr? i = some (maj, hd) → s.stream? s.cur = some st → st.live = true →
      st.captured = none → issueTrap s i = none → guardTrue st hd = true → scalarBlocked s i = true →
      ∃ t : State, Sys2Proof.Machine.exec i s = .next t ∧ SameButHarts s t ∧ t.harts = s.harts ∧ t.dc.core = s.dc.core ∧
        t.issue.res = .waits) ∧
    (∀ v, h.vfault = some v → h.held ≠ some v.isX → (h.stream v.isX).live = true → (h.stream v.isX).depth ≠ 3 →
      ∃ t : State, Sys2Proof.Machine.exec (.vectorTrapCommit slot) s = .next t ∧
        let u := t.stream (.stream slot v.isX)
        (t.hart slot).vfault = none ∧ (∀ e ∈ (t.hart slot).inflight, e.done = false) ∧
        u.tcause = BitVec.ofNat 64 v.cause ∧ u.tval = v.tval ∧
        u.tpc = v.pc ∧ u.telem = BitVec.ofNat 64 v.elem ∧ u.tlane = BitVec.ofNat 64 v.lane ∧
        u.pc = (h.stream v.isX).tvec) ∧
    (∀ e rest, h.sideLog = e :: rest → e.fault = none → performEntry slot e s = .ok () s' →
      Sys2Proof.Machine.exec (.sideLogPerform slot) s =
        .next (s'.setHart slot { s'.hart slot with sideLog := rest })) ∧
    (∀ (cause : Nat) (i : Instr) (d : Deferred),
      (i, cause) ∈ [(Instr.sideLogPageTrap p, causePage), (.tagEndOvstaleTrap p, causeOvstale), (.roundProtTrap p, causeProt)] →
      s.stream? p = some st → st.live = true → st.atBoundary = true → st.depth ≠ 3 →
      (∀ slot isX, p = .stream slot isX → (s.hart slot).held ≠ some isX) →
      (st.deferred.find? fun d => d.cause == cause) = some d →
      ∃ t : State, Sys2Proof.Machine.exec i s = .next t ∧
        let u := t.stream p
        u.tcause = BitVec.ofNat 64 cause ∧ u.tval = d.tval ∧ u.tpc = st.pc ∧ u.telem = d.telem ∧ u.pc = st.tvec ∧
        u.deferred = st.deferred.erase d) ∧
    (∀ (r : SampleReq) (rest : List SampleReq) (x : Scratch) (stages : List (Nat × Nat)) (total : Nat),
      s.hart? slot = some h → h.svPend = r :: rest → h.svOcc ≠ 32 → (s.core (coreOf slot)).scratch? h.serial = some x →
      let off := r.buf.toNat % 0x400000 + 64 * ((h.svRd.toNat + h.svOcc.toNat) % 32)
      off + 64 ≤ x.spw * 65536 →
      Sys2Proof.Machine.exec (.sampleRecord slot stages total) s = .next ((s.setHart slot { h with
        svPend := rest
        svOcc := if r.buf = h.svBuf then h.svOcc + 1 else h.svOcc }).scratchStore (coreOf slot) h.serial off
          (r.bytes stages total))) ∧
    ∀ (l : Launch) (lev group n : Nat), s.launch? l.serial = some l →
      let mine := fun (k : Hart) => k.serial == l.serial && !k.shadow && l.info.groupOf k.index lev == group
      let streams := ((s.launchHarts l).filter mine).flatMap fun k => [k.sa, k.sx].filter fun st => st.live
      (∀ st ∈ streams, st.barWait = some lev → st.barCount lev ≤ n) → (∀ st ∈ streams, n ≤ st.barCount lev) →
      (∃ st ∈ streams, st.barWait = some lev ∧ st.barCount lev = n) →
      (∀ k ∈ (s.launchHarts l).filter mine, k.haltedIn = true → k.sideLog = [] ∧ ∀ t ∈ k.trains, t.failed = true) →
      let cores := ((s.harts.filter fun kv => mine kv.2 && kv.2.haltedIn).map fun kv => coreOf kv.1).dedup
      (∀ c ∈ cores, s.drains c = true) →
      let u := cores.foldl State.drainCore s
      let go := fun (st : Stream) => if st.barWait == some lev then { st with barWait := none } else st
      Sys2Proof.Machine.exec (.barRelease l.serial lev group) s =
        .next ((if cores = [] then s else u.setMem u.mem.dropStale).mapHarts fun k =>
          if mine k then { k with sa := go k.sa, sx := go k.sx } else k)

/-- What comes about in the arrays and their cells (03 R139, R140; 11 R440, R449, R453, R462, R463): the first MZERO whose turn
has come clears its rows, the first stream that may takes its next chunk, and a swap makes the staging bank the active one, once
its load has ended and nothing is before it. An integer cell keeps the exact sum while it fits 48 bits and saturates otherwise;
a stream on an invalid bank marks the cell. -/
def Obligations.ArrayEventsComeAbout : Prop :=
  ∀ (s : State) (n : Fin 128) (c : MCmd),
    let a := s.array n.val
    (∀ row m int, (readyCmds [] a.queue).findSome? (fun c => match c.kind with
        | .zero r m i => some (c, r, m, i)
        | _ => none) = some (c, row, m, int) →
      ∃ t : State, Sys2Proof.Machine.exec (.mzeroApply n) s = .next t ∧
        (t.array n.val).queue = a.queue.filter (fun d => d.id != c.id) ∧
        (∀ r col, r < 128 → col < 256 → (t.array n.val).cell c.hart r col =
          if row ≤ r ∧ r < row + m then ⟨0, false, false, false⟩ else a.cell c.hart r col) ∧
        ∀ r, r < 128 → row ≤ r → r < row + m →
          ((c.hart * 128 + r) ∈ (t.array n.val).intRows ↔ int = true)) ∧
    (∀ cmd kl base sbase ovft, ((readyCmds [] a.queue).find? fun c => s.unitReady n.val c) = some c →
      c.kind = .stream cmd kl base sbase ovft →
      Sys2Proof.Machine.exec (.streamChunk n) s = .next (s.streamStep n.val c cmd kl base sbase ovft)) ∧
    (∀ seq fmt rest serial k, a.queue = c :: rest → c.kind = .swap seq fmt → a.holder = some serial →
      s.card? serial seq = some k → k.ended = true →
      ∃ t : State, Sys2Proof.Machine.exec (.weightSwap n) s = .next t ∧ (t.array n.val).queue = rest ∧
        (t.array n.val).active = !a.active ∧
        (k.stop = none → (t.array n.val).activeBank = a.stagingBank) ∧
        (k.stop.isSome → (t.array n.val).activeBank.valid = false ∧ (t.array n.val).activeBank.fmt = fmt)) ∧
    ∀ (cell : Acc) (z : Int) (b : Bank) (t : Ty) (int : Bool) (ovft kl c col : Nat) (acts : List FVal) (sa : FVal) (po : Bool),
      (cell.sticky = false →
        (cell.addInt z).val.toInt = max (-(2 ^ 47)) (min (cell.val.toInt + z) (2 ^ 47 - 1)) ∧
        ((cell.addInt z).sticky = true ↔ ¬(-(2 ^ 47) ≤ cell.val.toInt + z ∧ cell.val.toInt + z < 2 ^ 47))) ∧
      (cell.sticky = true → cell.addInt z = cell) ∧
      (b.valid = false → cell.addChunk b t int ovft kl c col acts sa po = { cell with err := true })

/-- What comes about in runs (12 R479, R480, R488, R493..R495, R508..R511): a ready card takes a free channel and publishes its
location, a SEND that breaks no check lands and is acknowledged, a SIGNAL adds to its word, claims give old values or in a DET
program are kept for their round, which grants in ascending rank; an acknowledgement clears its entry or stops the run, and a
stop notice stops it with PEERSTOP. -/
def Obligations.RunEventsComeAbout : Prop :=
  ∀ (s s' : State),
    (∀ (card : Word) (k : Card) (prog : Word) (chn : Fin 17) (num key n : Nat) (l : Launch) (p : TProg),
      s.findCard card (fun k => Job.kind k.job == 3 && s.cardReady k) = some k → k.job = .traverse prog chn num →
      s.launch? k.serial = some l → s.progOf l prog = some (key, p) → s.dc.ready.getLsbD (28 + key / 64) = true →
      s.freeChannel (key / 64) chn = some n →
      (p.runId l num, p.rank) ∉ s.tv.stops →
      ∃ t : State, Sys2Proof.Machine.exec (.traverseRunStart card) s = .next t ∧
        t.tv.chans.get? (key / 64 * 16 + n) = some (Chan.fresh k key (p.runId l num) p.rank) ∧
        t.order = s.order ++ [chanAct (key / 64 * 16 + n)]) ∧
    (∀ (m : SendMsg) (key : Nat) (c : Chan) (e : RunEnv), .send m ∈ s.tv.flight → s.runOver m.run m.dst = false →
      (s.tv.chans.find? fun kv => kv.2.run == m.run && kv.2.rank == m.dst) = some (key, c) → s.runEnv key = some e →
      (∀ x ∈ s.tv.landed, x.msg ≠ m) → e.k.faultWait = none → e.k.stop = none → sendCheck m e.p e.k = none →
      landSend m e (landWrites m e.p) s = .ok () s' →
      (∀ k, s'.card? e.c.serial e.c.seqNo = some k → k.trains = [] →
        let t := s'.setLanded m [] true
        Sys2Proof.Machine.exec (.sendLand m) s = .next ((t.taken (.send m)).tvAck e.p m.run m.src m.seq 0 0 0))) ∧
    (∀ (m : CtlMsg) (key : Option Nat) (p : TProg) (k : Card), .signal m ∈ s.tv.flight →
      s.receiver m.run m.dst = some (key, p, k) → (p.slot m.slot).size ≠ 0 → (p.slot m.slot).arrw ≠ 0 →
      arrivalAdd (s.jobCtx k (quadOf k.core) []) (p.slot m.slot).arrw.toNat m.value.toNat (s.taken (.signal m)) = .ok () s' →
      Sys2Proof.Machine.exec (.signalArrive m) s = .next (s'.tvAck p m.run m.src m.seq 0 0 0)) ∧
    (∀ (m : CtlMsg), .reserve m ∈ s.tv.flight →
      (m.det = true → m ∉ s.tv.reserves → ∃ t : State, Sys2Proof.Machine.exec (.reserveClaimArrive m) s = .next t ∧
        t.tv.reserves = s.tv.reserves ++ [m] ∧ .reserve m ∉ t.tv.flight) ∧
      ∀ key p k o, m.det = false → s.receiver m.run m.dst = some (key, p, k) →
        s.claim (s.runSource m.run m.src) key p k m.slot m.value.toNat = .value o s' →
        Sys2Proof.Machine.exec (.reserveClaimArrive m) s =
          .next ((s'.taken (.reserve m)).tvAck p m.run m.src m.seq 0 (BitVec.ofNat 64 o) (p.slot m.slot).rows)) ∧
    (∀ (run : RunId) (dst round : Nat) (counts : List CtlMsg),
      (List.range run.count).map (fun r => s.roundCount run dst round r) = counts.map some →
      (round = 0 ∨ (run, dst, round - 1) ∈ s.tv.roundsDone) → (run, dst, round) ∉ s.tv.roundsDone →
      ((∀ m ∈ counts, m.value = 0) → (s.receiver run dst).isSome →
        Sys2Proof.Machine.exec (.reserveRound run dst round) s =
          .next (s.setTv { s.tv with roundsDone := s.tv.roundsDone ++ [(run, dst, round)] })) ∧
      ∀ m more key p k o, (counts.filter fun m => m.value != 0) = m :: more → (∀ x ∈ more, x.slot = m.slot) →
        s.receiver run dst = some (key, p, k) →
        s.claim none key p k m.slot (((m :: more).map fun x => x.value.toNat).sum) = .value o s' →
        ∃ t : State, Sys2Proof.Machine.exec (.reserveRound run dst round) s = .next t ∧ (run, dst, round) ∈ t.tv.roundsDone ∧
          let g := s'.grantAll p run (p.slot m.slot).rows (m :: more) o
          t.tv.flight = g.tv.flight ∧ t.linkOut = g.linkOut) ∧
    (∀ (m : AckMsg) (key : Nat) (c : Chan) (u : Unack), .ack m ∈ s.tv.flight →
      ((s.taken (.ack m)).tv.chans.find? fun kv => kv.2.run == m.run && kv.2.rank == m.dst) = some (key, c) →
      (c.unacked.find? fun u => u.seq == m.seq) = some u →
      (m.bad = 0 → Sys2Proof.Machine.exec (.legAckArrive m) s = .next ((s.taken (.ack m)).updChan key fun c =>
        { c with
          unacked := c.unacked.filter fun u => u.seq != m.seq
          grant := if u.kind = 2 then some (m.value.toNat, m.rows) else c.grant })) ∧
      (m.bad ≠ 0 → Sys2Proof.Machine.exec (.legAckArrive m) s = .next ((s.taken (.ack m)).endRun key c m.bad 0))) ∧
    ∀ (run : RunId) (dst key : Nat) (c : Chan), .stop run dst ∈ s.tv.flight → (run, dst) ∉ s.tv.stops →
      (s.tv.chans.find? fun kv => kv.2.run == run && kv.2.rank == dst) = some (key, c) →
      let t := (s.taken (.stop run dst)).setTv { (s.taken (.stop run dst)).tv with stops := s.tv.stops ++ [(run, dst)] }
      Sys2Proof.Machine.exec (.stopNotice run dst) s = .next (t.endRun key c 11 0)

/-- What comes about to cards (01 R19; 04 R165, R166; 07 R325; 11 R448; 13 R532..R541): a card starts once every card with an
edge into it has completed, a started job takes its next step, and a card completes with its status once its work is done;
a gazetteer engine halves its counters after 2^20 visits. -/
def Obligations.CardEventsComeAbout : Prop :=
  ∀ (s s' : State) (card : Word) (k : Card) (b : List Byte) (ver : Nat),
    (s.findCard card (fun k => s.cardReady k && s.unitUp k) = some k → Sys2Proof.Machine.exec (.cardStart card) s =
      .next ((s.setMem s.mem.dropStale).updCard k.serial k.seq fun k => { k with started := true })) ∧
    (s.findCard card (fun k => k.active && Job.kind k.job == 1) = some k → k.job = .stream b →
      k.prog < (copyCard b).total → k.trains = [] →
      copyElement k (s.jobCtx k (quadOf k.core) [.quad (quadOf k.core)]) (copyCard b) k.prog s = .ok () s' →
      Sys2Proof.Machine.exec (.streamCopyJob card) s = .next s') ∧
    (∀ dst arrays, s.findCard card (fun k => k.active && Job.kind k.job == 2 && k.prog < 641) = some k →
      k.job = .weight b dst arrays → s.loadTurn k arrays = true →
      weightStep k (s.jobCtx k (quadOf k.core) []) (weightCard b) dst arrays s = .ok () s' →
      ((s'.card? k.serial k.seq).bind fun k => k.stop) = none →
      Sys2Proof.Machine.exec (.weightLoadJob card) s = .next s') ∧
    (let isLook := fun (k : Card) => k.active && k.prog != gzDone && match k.job with
       | .lookup _ _ => true
       | _ => false
     let sp := parseSpb b
     let e := parseEntry k.entry
     s.findCard card (fun k => isLook k && s.gzUp k) = some k → k.job = .lookup b ver →
     (if k.prog = 0 then gzStart k sp ver else if k.prog = 1 then gzReadStreams k sp e
       else if sp.mode = 0 then gatherStep k sp e ver else poolStep k sp e ver) s = .ok none s' →
     Sys2Proof.Machine.exec (.gzLookupJob card) s = .next s') ∧
    (let isUpd := fun (k : Card) => k.active && k.prog != gzDone && match k.job with
       | .update _ _ => true
       | _ => false
     let sp := parseSpb b
     let e := parseEntry k.entry
     s.findCard card (fun k => isUpd k && s.gzUp k) = some k → k.job = .update b ver →
     (if k.prog = 0 then gzStart k sp ver else if k.prog = 1 then updateReads k sp e else updateStep k sp e ver) s
       = .ok none s' →
     Sys2Proof.Machine.exec (.gzUpdateJob card) s = .next s') ∧
    (∀ e : Fin 12, 2 ^ 20 ≤ s.gz.age.get e.val 0 → ∃ t : State, Sys2Proof.Machine.exec (.gzageHalve e) s = .next t ∧
      t.gz.age.get e.val 0 = 0 ∧
      t.gz.cache.get e.val [] = (s.gz.cache.get e.val []).map fun r => { r with ctr := r.ctr / 2 }) ∧
    ∀ st, s.findCard card (fun k => (s.outcome k).isSome) = some k → s.outcome k = some st →
      let t := ((s.stopUnstarted k).stopLookup k).updCard k.serial k.seq fun k => { k with
        completed := some st
        reads := []
        faultWait := none }
      Sys2Proof.Machine.exec (.cardComplete card) s = .next ((t.setMem t.mem.dropStale).leaveArrays k)

/-- What comes about to rings and launches (01 R55; 04 R143..R147, R151, R153..R160, R167..R174): the write pointer moves or is
refused with its event, a reset starts an epoch, entries are read, once the host's writes before the pointer's have performed,
and accepted or refused, waiting raises the priority, dependences decide eligibility, launches are placed, admitted,
pre-empted, resumed, cancelled and completed. A pointer that breaks both limits counts as an overrun, and after a reset
no entry waits for an earlier one: the model's choices (log 66, log 67). -/
def Obligations.LaunchEventsComeAbout : Prop :=
  ∀ (s : State) (n : Fin 64) (v serial : Word) (l : Launch),
    let r := s.ring n.val
    (v.toNat ≤ r.rptr.toNat + r.size → r.wptr.toNat ≤ v.toNat →
      Sys2Proof.Machine.exec (.ringWptrWrite n v) s = .next (s.setRing n.val { r with behind := s.hostWrites, wptr := v })) ∧
    (r.rptr.toNat + r.size < v.toNat → Sys2Proof.Machine.exec (.ringWptrWrite n v) s =
      .next ((s.setRing n.val { r with
        behind := s.hostWrites
        overrun := true
        halted := true
        wptr := v }).postRing n.val 1)) ∧
    (v.toNat ≤ r.rptr.toNat + r.size → v.toNat < r.wptr.toNat → Sys2Proof.Machine.exec (.ringWptrWrite n v) s =
      .next ((s.setRing n.val { r with backstep := true }).postRing n.val 2)) ∧
    (v.getLsbD 1 = true → ∃ t : State, Sys2Proof.Machine.exec (.ringReset n v) s = .next t ∧
      let u := t.ring n.val
      u.rptr = 0 ∧ u.wptr = 0 ∧ u.overrun = false ∧ u.halted = false ∧ u.backstep = false ∧ u.epoch = r.epoch + 1 ∧
      u.prev = none) ∧
    (r.rctl.getLsbD 0 = true → r.halted = false → r.rptr.toNat < r.wptr.toNat → s.ringPending n.val < 64 →
      s.dc.ready.getLsbD (32 + n.val / 16) = true → r.rctl.getLsbD 10 = false → (∀ id ∈ r.behind, id ∉ s.hostWrites) →
      let b := s.mem.homeBytes (r.rbase.toNat + 256 * (r.rptr.toNat % r.size)) 256
      s.replays (parseRecord b).asid = false →
      Sys2Proof.Machine.exec (.ringEntryRead n) s = .next (s.takeEntry n.val r b) ∧
      ((s.takeEntry n.val r b).ring n.val).rptr = r.rptr + 1) ∧
    (∀ k t, r.aging = some (k, t) → t + 50000 ≤ s.tick → Sys2Proof.Machine.exec (.priorityAge n) s =
      .next (s.setRing n.val { r with raised := r.raised + 1, aging := some (k, t + 50000) }) ∧
      ({ r with raised := r.raised + 1 } : Ring).prio = min 7 (r.prio + 1)) ∧
    (s.launch? serial = some l →
      (l.phase = .waiting →
        let e := (s.setMem s.mem.dropStale).evalDeps l l.info.deps
        ∃ t : State, Sys2Proof.Machine.exec (.depEval serial) s = .next t ∧ t.mem = e.1.mem ∧
          ∀ m, t.launch? l.serial = some m → (m.phase = .eligible ↔ (∀ d ∈ e.2, d.holds = true) ∧
            ∀ p, l.after = some p → e.1.launch? p = none)) ∧
      (l.wantsPlace = true → l.gangs ≠ [] → s.givesWay l = false → nextFits l s = true →
        Sys2Proof.Machine.exec (.launchPlace serial) s = .next (((s.placeGangs serial
          ((l.gangs.filter fun g => g.st == .unplaced).map fun g => g.index)).ringServed l).admitSelf serial)) ∧
      (s.completes l = true ∨ l.stage ≠ 0 → Sys2Proof.Machine.exec (.launchComplete serial) s = .next (s.complete l)) ∧
      ∀ g, (l.gangs.find? fun x => x.index == g.index) = some g →
        (s.mayPreempt l g = true → Sys2Proof.Machine.exec (.gangPreempt serial g.index) s = .next (s.preempt l g)) ∧
        ∀ news, g.st = .preempted → l.phase = .running → s.givesWay l = false → s.roundWaits l = false →
          s.resumeSlots l g = some news →
          Sys2Proof.Machine.exec (.gangResume serial g.index) s = .next (s.resume l g news)) ∧
    (s.named? serial = some l →
      (l.phase = .running → Sys2Proof.Machine.exec (.preemptWrite serial) s =
        .next (s.askPreempt ((l.gangs.filter fun g => g.st == .resident).map fun g => (l.serial, g)))) ∧
      (l.cancelled = false → Sys2Proof.Machine.exec (.cancelWrite serial) s =
        .next (((s.cancel l.serial).dropLock l.serial).settleRing l))) ∧
    ∀ (podid : BitVec 32) (rank : BitVec 16), (podid, rank.toNat) ∉ s.la.admissions →
      let u := s.setLa { s.la with admissions := s.la.admissions ++ [(podid, rank.toNat)] }
      Sys2Proof.Machine.exec (.podAdmission podid rank) s =
        .next (match s.la.launches.find? fun l => l.phase == .eligible && l.info.pod && l.info.podid == podid with
          | some l => u.startPod l
          | none => u)

/-- What comes about in memory and on the links (06 R245..R248, R254..R263, R284..R292; 07 R305..R309, R619; 10 R421; 13 R527,
R528, R539): records are posted, retried and declined, walks end, buffers and copies go, rounds (whose adds no replay log
concerns) and trains perform once and are acknowledged, remote and host requests are answered, an uncorrectable error marks
its sector, unit or register, pools grow, directories are read anew. -/
def Obligations.MemoryEventsComeAbout : Prop :=
  ∀ (s : State) (quad : Fin 4) (id : BitVec 32) (core sector pa n : Nat) (serial : BitVec 16) (v : Word) (t : Train),
    (let q := s.faultQueue quad.val
     let size := logSize (fieldOf q.ctl.toNat 2 5)
     ∀ f, (s.mem.faults.find? fun f => f.quad == quad.val && f.id.isNone) = some f → q.ctl.getLsbD 0 = true →
       (q.wptr - q.rptr).toNat < size →
       ∃ u : State, Sys2Proof.Machine.exec (.faultRecordPost quad) s = .next u ∧
         (u.faultQueue quad.val).wptr = q.wptr + 1 ∧ (u.faultQueue quad.val).nextId = q.nextId + 1 ∧
         (∀ g ∈ u.mem.faults, g.num = f.num → g.id = some q.nextId)) ∧
    (∀ f, s.faultById quad.val id = some f →
      (∃ u : State, Sys2Proof.Machine.exec (.fqrespRetry quad id) s = .next u ∧
        u.mem.faults = s.mem.faults.filter (fun g => g.num != f.num) ∧
        u.mem.walks = s.mem.walks ++ f.waiters.filterMap fun w =>
          match w.1 with
          | .sideLog _ _ => none
          | a => some ⟨a, f.asid, w.2.1⟩) ∧
      (∀ p va elem st pool, f.waiters = [(.stream p, va, elem, pool)] → s.stream? p = some st → st.faultWait = some f.num →
        (∀ k : Hart, k ∈ s.harts.map Prod.snd → k.sideLog = []) → s.la.launches = [] →
        ∃ u : State, Sys2Proof.Machine.exec (.fqrespDecline quad id) s = .next u ∧
          u.mem.faults = s.mem.faults.filter (fun g => g.num != f.num) ∧
          (u.stream p).faultWait = none ∧ (u.stream p).declined =
            some ⟨if pool = true then causeOvpool else causePage, BitVec.ofNat 64 va, BitVec.ofNat 64 elem⟩)) ∧
    (∀ p asid va rest, s.mem.walks = ⟨.stream p, asid, va⟩ :: rest →
      ∃ u : State, Sys2Proof.Machine.exec .pageWalkDone s = .next u ∧ u.mem.walks = rest ∧
        (∀ l, s.mem.walk asid va = .leaf l → u.mem.tlbs =
          tlbInsert (tlbInsert s.mem.tlbs (.core (coreOf p.slot)) l) (.quad (quadOf (coreOf p.slot))) l) ∧
        ∀ st, s.stream? p = some st → (u.stream p).faultWait = none) ∧
    (∀ e r, (s.core core).wcb = e :: r → s.entryHeld core e = false →
      Sys2Proof.Machine.exec (.wcbDrainTimeout core) s =
        .next ((s.setCore core { s.core core with wcb := r }).drainEntry core e)) ∧
    (∀ l ∈ (s.core core).l1, ∃ u : State, Sys2Proof.Machine.exec (.l1LeaseExpire core) s = .next u ∧
      (∀ k ∈ (u.core core).l1, k ∈ (s.core core).l1) ∧ (u.core core).l1.length < (s.core core).l1.length ∧ u.mem = s.mem) ∧
    (∀ b ∈ s.mem.border, b.quad = quad.val → b.sector = sector → b.stale.isSome →
      ∃ u : State, Sys2Proof.Machine.exec (.borderCopyInvalidate quad sector) s = .next u ∧
        (∀ x, x ∈ u.mem.border ↔ x ∈ s.mem.border ∧ ¬(x.quad = quad.val ∧ x.sector = sector ∧ x.stale.isSome))) ∧
    (s.tick % 1000 = 0 → Sys2Proof.Machine.exec .budgetPeriod s = .next s.startPeriod) ∧
    (∀ l, s.launch? v = some l → l.info.det = true → s.roundReady l (l.rounds + 1) = true →
      s.replays l.info.asid = false →
      let mine := s.mem.rounds.filter fun e => e.serial == v && e.round == l.rounds + 1
      let left := s.mem.rounds.filter fun e => !(e.serial == v && e.round == l.rounds + 1)
      let sorted := mine.foldl (fun acc e => e.insert acc) []
      Sys2Proof.Machine.exec (.roundApply v) s =
        .next ((sorted.foldl State.applyEntry (s.setMem { s.mem with rounds := left })).updLaunch v fun l =>
          { l with rounds := l.rounds + 1 }) ∧
      (∀ e, e ∈ sorted ↔ e ∈ mine) ∧ sorted.Pairwise fun a b => b.before a = false) ∧
    (let fits := t.tail = t.elems.length ∧ ∀ e ∈ t.elems, e.1 + e.2.1 ≤ Config.deviceEnd
     (fits → ∃ u : State, Sys2Proof.Machine.exec (.trainReceive t) s = .next u ∧
       u.linkOut = s.linkOut ++ [.trainAck t.srcRank.toNat t.serial]) ∧
     (¬fits → Sys2Proof.Machine.exec (.trainReceive t) s =
       .next { s with linkOut := s.linkOut ++ [.trainRefuse t.srcRank.toNat t.serial] })) ∧
    (s.trainCard serial = none → Sys2Proof.Machine.exec (.trainAck serial) s = .next (s.mapHarts fun h =>
      { h with trains := h.trains.filter fun t => !(t.train.serial == serial && !t.failed) })) ∧
    (∀ x, (((s.harts.map fun kv => kv.2) ++ s.la.launches.flatMap fun l =>
        (l.gangs.flatMap fun g => g.saved).map fun ih => ih.2).flatMap (fun h => h.trains) ++
        (s.la.cards.flatMap fun k => k.trains)).find? (fun t => t.train.serial == serial && !t.failed) = some x →
      (x.resent = false → ∃ u : State, Sys2Proof.Machine.exec (.trainRefusal serial) s = .next u ∧
        u.linkOut = s.linkOut ++ [.train x.rpkg x.train]) ∧
      (x.resent = true → Sys2Proof.Machine.exec (.trainRefusal serial) s = .next (s.failTrain serial))) ∧
    (∀ r : RemoteReq, r.pa + r.size ≤ Config.deviceEnd → s.mem.poisoned (r.pa / 64) = false →
      let old := s.mem.homeRead r.pa r.size
      ∃ u : State, Sys2Proof.Machine.exec (.ualinkReadServe r) s = .next u ∧
        u.linkOut = s.linkOut ++ [.readReply r.srcRank.toNat r.id true (BitVec.ofNat 64 old)] ∧
        (r.atom = none → u.mem = s.mem)) ∧
    (∀ data, Sys2Proof.Machine.exec (.ualinkResponse n data) s = .next (s.deliver n true data)) ∧
    (∀ q w, s.readQuad n = some (q, w) → Sys2Proof.Machine.exec (.ualinkErrorResponse n) s =
      .next ((s.deliver n false 0).postFault q 19 n w (leBytes 8 n))) ∧
    (let cmd := fun c => (.next (s.setMem { s.mem with tlbBusy := true, tlbCmds := s.mem.tlbCmds ++ [c] }) :
       Host.Outcome State Fault Refusal)
     Sys2Proof.Machine.exec .tlbicmdAll s = cmd none ∧ Sys2Proof.Machine.exec (.tlbicmdAsid serial) s = cmd (some serial) ∧
     Sys2Proof.Machine.exec (.tlbicmdRange serial) s = cmd (some serial)) ∧
    (∀ (cmd : Option (BitVec 16)) (rest : List (Option (BitVec 16))), s.mem.tlbCmds = cmd :: rest →
      (∀ w ∈ s.mem.walks, cmd ≠ none ∧ cmd ≠ some w.asid) →
      ∃ u : State, Sys2Proof.Machine.exec .tlbicmdDone s = .next u ∧ (u.mem.tlbBusy = false ↔ rest = []) ∧
        u.mem.tlbCmds = rest ∧
        ∀ e, e ∈ u.mem.tlbs ↔ e ∈ s.mem.tlbs ∧ cmd ≠ none ∧ cmd ≠ some e.2.asid) ∧
    (∀ p : ErrPlace, Sys2Proof.Machine.exec (.uncorrected p) s =
      .next ((s.markError p).postFault (ErrPlace.report p).1 18 0 0 (leBytes 8 (ErrPlace.report p).2))) ∧
    (s.mem.setPoison (pa / 64) true).poisoned (pa / 64) = true ∧ ErrPlace.report (.device pa) = (homeQuad pa, pa) ∧
    s.markError (.device pa) = s.setMem (s.mem.setPoison (pa / 64) true) ∧
    (∀ (r : Fin 64) (isX : Bool), (s.hart? core).isSome →
      r.val ∈ (((s.markError (.xreg core isX r)).hart core).stream isX).xmarks ∧
      r.val ∈ ((s.markError (.vreg core r)).hart core).vmarks) ∧
    (∀ (k : Scratch) (key : Word), k ∈ (s.core core).scratch → k.serial = key →
      ∃ x ∈ ((s.markError (.scratch core key n)).core core).scratch, x.serial = key ∧ n / 64 ∈ x.poison) ∧
    n / 64 ∈ ((s.markError (.tile core n)).array core).tpoison ∧
    (∀ c, c = s.mem.ecnt.get quad.val 0 → c ≠ BitVec.allOnes 64 →
      ∃ u : State, Sys2Proof.Machine.exec (.scrub quad true) s = .next u ∧ u.mem.ecnt.get quad.val 0 = c + 1) ∧
    Sys2Proof.Machine.exec (.scrub quad false) s = .next s ∧
    Sys2Proof.Machine.exec (.ovgaddWrite v) s = .next { s with
      ov := if v.toNat % 65536 = 0 then { s.ov with gbusy := true, gfailed := false, gpend := some (s.ov.gser, v.toNat) }
        else { s.ov with gfailed := true } } ∧
    (∀ w k, s.ov.gpend = some (w, k) → ∃ u : State, Sys2Proof.Machine.exec .poolGrowDone s = .next u ∧
      u.ov.gbusy = false ∧ u.ov.gpend = none ∧
      (u.ov.gfailed = false ↔ (s.named? w).isSome ∧ s.arenaUsed + k ≤ s.ov.asize.toNat)) ∧
    (s.gz.dbusy = false → Sys2Proof.Machine.exec (.gzdsyncWrite v) s =
      .next (s.setGz { s.gz with dbusy := true, dlast := v })) ∧
    (s.gz.dbusy = true → ∃ u : State, Sys2Proof.Machine.exec .gzdsyncDone s = .next u ∧ u.gz.dbusy = false ∧
      u.gz.cur.get (s.gz.dlast.toNat % 256) 0 = 0 ∧
      u.gz.dir.get? (s.gz.dlast.toNat % 256) = s.directoryBytes (s.gz.dlast.toNat % 256)) ∧
    Sys2Proof.Machine.exec (.gzprobeWrite v) s = .next (s.setGz { s.gz with probe := v, probeBusy := true, pres := 0 }) ∧
    (s.gz.probeBusy = true → ∃ u : State, Sys2Proof.Machine.exec .gzprobeDone s = .next u ∧ u.gz.probeBusy = false ∧
      u.gz.pres.getLsbD 0 = true)

/-- What the host, the management target and the debug port do (00 R8; 04 R182; 06 R259; 15 R582, R598, R607): an MMIO read
gives the register's word, a write is the register's, device memory is read and written, a completion reaches the read that
waits for it; the target answers with its identity and its registers once it has an address; the port needs its permissions. -/
def Obligations.PortsAnswer : Prop :=
  ∀ (s : State) (off : BitVec 16) (v : Word) (quad : Fin 4) (asid : BitVec 16) (len id pa : Nat) (data : List Byte)
    (addr : BitVec 7) (ok : Bool),
    let answer := fun (t : State) (m : PortMsg) => ({ t with portOut := t.portOut ++ [m] } : State)
    let inReach := (0xB000 ≤ off.toNat ∧ off.toNat < 0xB100) ∨ 0xC000 ≤ off.toNat
    Sys2Proof.Machine.exec (.hostMrd off) s = .next (answer s (.mrd off (s.readMmio off.toNat))) ∧
    Sys2Proof.Machine.exec (.regWrite off v) s = .next (s.writeMmio .host off.toNat v) ∧
    Sys2Proof.Machine.exec (.hostDrd quad asid v len) s = .next (s.hostRequest quad.val asid v.toNat len none) ∧
    Sys2Proof.Machine.exec (.hostDwr quad asid v data) s =
      .next (s.hostRequest quad.val asid v.toNat data.length (some data)) ∧
    (∃ t : State, Sys2Proof.Machine.exec (.hostCpl id ok v) s = .next t ∧
      ((∀ l ∈ s.la.launches, ∀ r ∈ l.adds, r.id ≠ id) → (∀ r ∈ s.sv.logReads, r.id ≠ id) → t.mem = s.mem) ∧
      ∀ n : Fin 64, ∀ r ∈ (s.ring n.val).reads, r.id = id → r.reply = none →
        { r with reply := some (ok, v) } ∈ (t.ring n.val).reads) ∧
    (s.dc.i3c = none → ∃ t : State, Sys2Proof.Machine.exec (.i3cEntdaa addr) s = .next t ∧ t.dc.i3c = some addr ∧
      t.dc.ibi = false) ∧
    Sys2Proof.Machine.exec .i3cRstdaa s = .next { s with dc := { s.dc with i3c := none } } ∧
    (s.dc.i3c.isSome →
      Sys2Proof.Machine.exec .i3cGetpid s = .next (answer s (.i3c s.dc.pid)) ∧
      Sys2Proof.Machine.exec .i3cGetbcr s = .next (answer s (.i3c [Config.i3cBcr])) ∧
      Sys2Proof.Machine.exec .i3cGetdcr s = .next (answer s (.i3c [Config.i3cDcr])) ∧
      (∃ b : List Byte, b.length = 2 ∧
        Sys2Proof.Machine.exec .i3cGetstatus s = .next (answer { s with fresh := s.fresh + 1 } (.i3c b))) ∧
      (inReach → Sys2Proof.Machine.exec (.i3cPrivateWrite off v) s = .next (s.writeMmio .board off.toNat v) ∧
        Sys2Proof.Machine.exec (.i3cPrivateRead off) s = .next (answer s (.i3c (leBytes 8 (s.readMmio off.toNat).toNat)))) ∧
      (¬inReach → Sys2Proof.Machine.exec (.i3cPrivateWrite off v) s = .next (answer s .nack) ∧
        Sys2Proof.Machine.exec (.i3cPrivateRead off) s = .next (answer s .nack))) ∧
    (s.dc.portPerm.getLsbD 0 = true → s.sv.stopped = true → ∃ w, Sys2Proof.Machine.exec .debugScan s =
      .next (answer { s with fresh := s.fresh + 1 } (.scan w))) ∧
    (s.dc.portPerm.getLsbD 1 = true → pa + 8 ≤ Config.deviceEnd → s.mem.poisoned (pa / 64) = false →
      s.mem.poisoned ((pa + 7) / 64) = false → Sys2Proof.Machine.exec (.debugMemrd pa) s =
        .next (answer s (.mem (BitVec.ofNat 64 (s.mem.homeRead pa 8))))) ∧
    (s.dc.portPerm.getLsbD 2 = true → pa + 8 ≤ Config.deviceEnd → Sys2Proof.Machine.exec (.debugMemwr pa v) s =
      .next (((s.homeWriteBytes pa (leBytes 8 v.toNat)).wakeLine (pa / 64)).wakeLine ((pa + 7) / 64))) ∧
    (s.dc.portPerm.getLsbD 3 = true → s.tick + 1000 ≤ v.toNat → s.sv.stopAt = none →
      Sys2Proof.Machine.exec (.debugSvstop v) s =
        .next (answer { s with sv := { s.sv with stopAt := some v } } (.stop 0))) ∧
    (s.dc.portPerm = 0 → ∀ i ∈ [Instr.debugScan, .debugMemrd pa, .debugMemwr pa v, .debugSvstop v],
      Sys2Proof.Machine.exec i s = .next (answer s .refused))

/-- Time, stops, replay, power and bring-up (14 R553, R554, R564..R570; 15 R583..R586, R590..R592, R597, R600..R604): the
counter moves by one, never back; an armed stop fires at its tick and SVRUN ends it; limits move by one point; a slot is loaded
or refused; readiness bits follow firmware and losses; power-good keeps the stacks and the fuses. -/
def Obligations.TimePowerAndBringUp : Prop :=
  ∀ (s : State) (v tick : Word) (bit : Fin 57) (w : Fin 8) (board : Bool) (slot : Fin 64) (i : ReplayInput),
    let ex := Sys2Proof.Machine.exec
    let up := fun (p : Fin 8) => if p = 7 then 7 else p + 1
    let down := fun (p : Fin 8) => if p = 0 then 0 else p - 1
    (∃ t : State, ex .meridianTick s = .next t ∧ t.sv.mtick = s.sv.mtick + 1 ∧
      (s.sv.stopped = true → t = { s with sv := { s.sv with mtick := s.sv.mtick + 1 } }) ∧
      (∀ a, s.sv.stopped = false → s.sv.stopAt = some a → a ≠ BitVec.allOnes 64 → a.toNat ≤ (s.sv.mtick + 1).toNat →
        t.sv.stopped = true)) ∧
    (s.dc.ready.getLsbD 53 = false → ∃ t : State, ex (.tickAlign tick) s = .next t ∧ t.dc.ready.getLsbD 53 = true ∧
      t.sv.mtick = if s.sv.mtick.toNat < tick.toNat then tick else s.sv.mtick) ∧
    (s.dc.ready.getLsbD 53 = true → ∃ t : State, ex .tickAlignLoss s = .next t ∧ t.dc.ready.getLsbD 53 = false) ∧
    (∀ a, s.sv.stopAt = some a → a ≠ BitVec.allOnes 64 → a.toNat ≤ s.sv.mtick.toNat →
      ex .stopFire s = .next { s with sv := { s.sv with stopped := true } }) ∧
    (s.sv.stopAt.isSome → s.sv.stopped = true → ∃ t : State, ex (.svrunWrite 1) s = .next t ∧ t.sv.stopped = false ∧
      t.sv.stopAt = none) ∧
    (s.sv.stopped = false → v.getLsbD 0 = false →
      ex (.svstatDisarm v) s = .next { s with sv := { s.sv with stopAt := none } }) ∧
    ex (.rlctlWrite v) s =
      .next ({ s with sv := { s.sv with rlctl := rlctlOf v, logReads := [] } } : State).requestLog.retryInputs ∧
    (s.sv.mode = 2 → ex (.rlwptrSupply v) s =
      .next ({ s with sv := { s.sv with rlwptr := v } } : State).requestLog.retryInputs) ∧
    (s.sv.mode ≠ 2 → ex (.rlwptrSupply v) s = .next s) ∧
    (s.replayInput i = none → ex (.replayInputArrive i) s =
      .next { s with sv := { s.sv with held := s.sv.held ++ [i] } }) ∧
    (∀ t, s.replayInput i = some t → ex (.replayInputArrive i) s = .next t.retryInputs) ∧
    (∃ t : State, ex .powerGoodReset s = .next t ∧ t.dc.fuses = s.dc.fuses ∧ t.mem.hbm = s.mem.hbm ∧
      t.harts = State.reset.harts ∧ t.arrays = State.reset.arrays ∧ t.la = State.reset.la ∧ t.sv = State.reset.sv ∧
      (lcOfFuses (s.dc.fuses.get 2 0) ≠ 4 → t.mem.poison = s.mem.poison)) ∧
    ex (.dwinWrite v) s = .next { s with dc := { s.dc with dwin := v &&& 0x3F#64 } } ∧
    (s.dc.fwok = true → ex (.dmloadWrite v) s = .next s) ∧
    (s.dc.fwok = false → s.dc.imageGood v.toNat = false → ex (.dmloadWrite v) s =
      .next { s with dc := { s.dc with fwfail := true } }) ∧
    (s.dc.fwok = false → s.dc.imageGood v.toNat = true → ∃ t : State, ex (.dmloadWrite v) s = .next t ∧
      t.dc.fwok = true ∧ t.dc.ready.getLsbD 56 = true ∧ t.order = s.order ++ [.stream .datum] ∧
      t.dc.core.pc = BitVec.ofNat 64 (cardField (s.dc.sram.bytes 0 64) 16 8)) ∧
    (s.dc.fwok = true → ∃ t : State, ex (.unitReady bit) s = .next t ∧
      ∀ k, t.dc.ready.getLsbD k = (s.dc.ready.getLsbD k || k == bit.val)) ∧
    ((4 ≤ bit.val ∧ bit.val < 16) ∨ (36 ≤ bit.val ∧ bit.val < 52) ∨ bit.val = 53 →
      ∃ t : State, ex (.unitLost bit) s = .next t ∧
        ∀ k, t.dc.ready.getLsbD k = (s.dc.ready.getLsbD k && k != bit.val)) ∧
    (∃ t : State, ex (.cdisWrite w v) s = .next t ∧ t.dc.cdis.get w.val 0 = v ∧
      ∀ k, k < 64 → (t.core (64 * w.val + k)).removed = v.getLsbD k) ∧
    (∃ t : State, ex (.pcapWrite board v) s = .next t ∧ t.dc.pcap.val = v.toNat % 8) ∧
    (s.dc.dueRaise = true → ∃ t : State, ex .powerLimitRaise s = .next t ∧ t.dc.power = up s.dc.power ∧
      t.dc.dueRaise = false) ∧
    (s.dc.dueRelax = true → ∃ t : State, ex .powerLimitRelax s = .next t ∧ t.dc.power = down s.dc.power) ∧
    (s.dc.dueHot = true → ∃ t : State, ex .thermalLimitRaise s = .next t ∧ t.dc.thermal = up s.dc.thermal) ∧
    (s.dc.dueTrip = true → ∃ t : State, ex .thermalTrip s = .next t ∧ t.dc.thermal = 7) ∧
    (s.dc.dueCold = true → ∃ t : State, ex .thermalLimitRelax s = .next t ∧ t.dc.thermal = down s.dc.thermal) ∧
    (∃ t : State, ex .pointChange s = .next t ∧ s.dc.pcap ≤ t.sv.point ∧ s.dc.thermal ≤ t.sv.point ∧
      s.dc.power ≤ t.sv.point ∧ ∀ q, s.sv.lockedAt = some q → q ≤ t.sv.point) ∧
    (let k := s.dc.slot slot.val
     ∃ t : State, ex (.kctlLoad slot) s = .next t ∧
       ((t.dc.slot slot.val).err = false ↔ (s.dc.lc = 1 ∨ s.dc.lc = 2) ∧ s.dc.dunlk = 0 ∧ k.base.toNat < k.lim.toNat ∧
         k.lim.toNat ≤ Config.deviceEnd ∧ s.dc.slotClash k.base.toNat k.lim.toNat = false) ∧
       ((t.dc.slot slot.val).err = false → (t.dc.slot slot.val).v = true)) ∧
    (let k := s.dc.slot slot.val
     ∃ t : State, ex (.kctlClearSeal slot) s = .next t ∧
       (k.sealed = true → ((t.dc.slot slot.val).sealed = false ↔ k.base = k.lim)) ∧ (k.sealed = false → t = s)) ∧
    ex .dunlkAbort s = .next (if s.dc.dunlk = 1 ∨ s.dc.dunlk = 2 ∨ s.dc.dunlk = 3
      then { s with dc := { s.dc with dunlk := 0, perm := 0 } } else s) ∧
    ∃ t : State, ex .dchalDraw s = .next t ∧ ¬(t.dc.chal0 = 0 ∧ t.dc.chal1 = 0)
end

