-- ==== Sys2Proof/Laws/Memory.lean ====
section
/-! SUPPORT. Laws of associations and of memory: a read after a write, writes elsewhere, and the canonical form. -/

namespace Sys2Proof.Machine

open Sys2Proof

@[simp] theorem Assoc.get?_nil {α : Type} (a : Nat) : Assoc.get? ([] : Assoc α) a = none := rfl

theorem Assoc.get?_put_self {α : Type} (l : Assoc α) (a : Nat) (v : α) : (l.put a v).get? a = some v := by
  induction l with
  | nil => simp [Assoc.put, Assoc.get?]
  | cons kv r ih =>
    obtain ⟨k, w⟩ := kv
    unfold Assoc.put
    by_cases h1 : a < k
    · simp [h1, Assoc.get?]
    · by_cases h2 : a = k
      · simp [h2, Assoc.get?]
      · simp [h1, h2, Assoc.get?, ih]

theorem Assoc.get?_put_ne {α : Type} (l : Assoc α) {a b : Nat} (v : α) (h : b ≠ a) :
    (l.put a v).get? b = l.get? b := by
  induction l with
  | nil => simp [Assoc.put, Assoc.get?, h]
  | cons kv r ih =>
    obtain ⟨k, w⟩ := kv
    unfold Assoc.put
    by_cases h1 : a < k
    · simp [h1, Assoc.get?, h]
    · by_cases h2 : a = k
      · subst h2
        simp [Assoc.get?, h]
      · simp only [h1, h2, if_false, Assoc.get?, ih]

theorem Assoc.get?_del_self {α : Type} (l : Assoc α) (a : Nat) : (l.del a).get? a = none := by
  induction l with
  | nil => rfl
  | cons kv r ih =>
    obtain ⟨k, w⟩ := kv
    by_cases h : k = a
    · simpa [Assoc.del, h] using ih
    · have h' : ¬ a = k := fun e => h e.symm
      have hb : (k != a) = true := by simpa using h
      have e : Assoc.del ((k, w) :: r) a = (k, w) :: Assoc.del r a := by simp [Assoc.del, hb]
      rw [e]
      simpa [Assoc.get?, h'] using ih

theorem Assoc.get?_del_ne {α : Type} (l : Assoc α) {a b : Nat} (h : b ≠ a) : (l.del a).get? b = l.get? b := by
  induction l with
  | nil => rfl
  | cons kv r ih =>
    obtain ⟨k, w⟩ := kv
    by_cases hk : k = a
    · subst hk
      simpa [Assoc.del, Assoc.get?, h] using ih
    · have hb : (k != a) = true := by simpa using hk
      have : Assoc.del ((k, w) :: r) a = (k, w) :: Assoc.del r a := by simp [Assoc.del, hb]
      rw [this]
      by_cases hbk : b = k <;> simp [Assoc.get?, hbk, ih]

@[simp] theorem Assoc.get_put_self {α : Type} (l : Assoc α) (a : Nat) (v d : α) : (l.put a v).get a d = v := by
  simp [Assoc.get, Assoc.get?_put_self]

theorem Assoc.get_put_ne {α : Type} (l : Assoc α) {a b : Nat} (v d : α) (h : b ≠ a) :
    (l.put a v).get b d = l.get b d := by
  simp [Assoc.get, Assoc.get?_put_ne l v h]

/-- A read after a write to the same place gives what was written. -/
@[simp] theorem Memory.get_set_self (m : Memory) (a : Nat) (b : Byte) : (m.set a b).get a = b := by
  unfold Memory.set Memory.get Assoc.get
  by_cases h : b = unlistedByte
  · simp [h, Assoc.get?_del_self]
  · simp [h, Assoc.get?_put_self]

/-- A write leaves every other place alone. -/
theorem Memory.get_set_ne (m : Memory) {a c : Nat} (b : Byte) (h : c ≠ a) : (m.set a b).get c = m.get c := by
  unfold Memory.set Memory.get Assoc.get
  by_cases hb : b = unlistedByte
  · simp [hb, Assoc.get?_del_ne m h]
  · simp [hb, Assoc.get?_put_ne m b h]

/-- A write of several bytes leaves the places before and after them alone. -/
theorem Memory.get_setBytes_out (bs : List Byte) :
    ∀ (m : Memory) (a c : Nat), c < a ∨ a + bs.length ≤ c → (m.setBytes a bs).get c = m.get c := by
  induction bs with
  | nil => intro m a c _; rfl
  | cons b r ih =>
    intro m a c h
    simp only [List.length_cons] at h
    rw [Memory.setBytes, ih, Memory.get_set_ne]
    · omega
    · omega

/-- Byte i of what a write of several bytes wrote. -/
theorem Memory.get_setBytes_in (bs : List Byte) :
    ∀ (m : Memory) (a i : Nat) (h : i < bs.length), (m.setBytes a bs).get (a + i) = bs[i] := by
  induction bs with
  | nil => intro m a i h; simp at h
  | cons b r ih =>
    intro m a i h
    cases i with
    | zero =>
      rw [Memory.setBytes, Memory.get_setBytes_out r]
      · simp
      · left; omega
    | succ j =>
      have hj : j < r.length := by simpa using h
      have e : a + (j + 1) = a + 1 + j := by omega
      rw [Memory.setBytes, e, ih _ _ _ hj]
      rfl

/-- What was written is read back. -/
theorem Memory.bytes_setBytes (m : Memory) (a : Nat) (bs : List Byte) : (m.setBytes a bs).bytes a bs.length = bs := by
  apply List.ext_getElem
  · simp [Memory.bytes]
  · intro i h1 h2
    simp [Memory.bytes, Memory.get_setBytes_in bs m a i h2]

@[simp] theorem leBytes_length : ∀ (n v : Nat), (leBytes n v).length = n
  | 0, _ => rfl
  | n + 1, v => by simp [leBytes, leBytes_length n]

theorem leNat_leBytes : ∀ (n v : Nat), leNat (leBytes n v) = v % 256 ^ n
  | 0, v => by simp [leBytes, leNat, Nat.mod_one]
  | n + 1, v => by
    have h := leNat_leBytes n (v / 256)
    have e : (BitVec.ofNat 8 v).toNat = v % 256 := rfl
    show (BitVec.ofNat 8 v).toNat + 256 * leNat (leBytes n (v / 256)) = _
    rw [h, e, Nat.pow_succ', Nat.mod_mul]

/-- A number written in n bytes is read back modulo 2^(8n). -/
theorem Memory.read_write (m : Memory) (a n v : Nat) : (m.write a n v).read a n = v % 256 ^ n := by
  have h := Memory.bytes_setBytes m a (leBytes n v)
  rw [leBytes_length] at h
  rw [Memory.read, Memory.write, h, leNat_leBytes]

/-! The canonical form. -/

theorem Memory.wfFrom_cons (lo : Option Nat) (k : Nat) (v : Byte) (r : Memory) :
    Memory.wfFrom lo ((k, v) :: r) = true ↔
      (∀ l, lo = some l → l < k) ∧ v ≠ unlistedByte ∧ Memory.wfFrom (some k) r = true := by
  cases lo <;> simp [Memory.wfFrom, and_assoc]

/-- The lower bound of `wfFrom` may go down. -/
theorem Memory.wfFrom_mono (m : Memory) (lo lo' : Option Nat) (h : ∀ l, lo = some l → ∃ l', lo' = some l' ∧ l ≤ l')
    (hw : Memory.wfFrom lo' m = true) : Memory.wfFrom lo m = true := by
  cases m with
  | nil => rfl
  | cons kv r =>
    obtain ⟨k, v⟩ := kv
    rw [Memory.wfFrom_cons] at *
    refine ⟨?_, hw.2⟩
    intro l hl
    obtain ⟨l', hl', hle⟩ := h l hl
    exact Nat.lt_of_le_of_lt hle (hw.1 l' hl')

theorem Memory.wfFrom_filter (p : Host.Cell → Bool) : ∀ (m : Memory) (lo : Option Nat), Memory.wfFrom lo m = true →
    Memory.wfFrom lo (m.filter p) = true
  | [], _, _ => rfl
  | (k, v) :: r, lo, hw => by
    rw [Memory.wfFrom_cons] at hw
    have ih := Memory.wfFrom_filter p r (some k) hw.2.2
    by_cases hp : p (k, v) = true
    · rw [List.filter_cons_of_pos hp, Memory.wfFrom_cons]
      exact ⟨hw.1, hw.2.1, ih⟩
    · rw [List.filter_cons_of_neg hp]
      exact Memory.wfFrom_mono _ lo (some k) (fun l hl => ⟨k, rfl, Nat.le_of_lt (hw.1 l hl)⟩) ih

theorem Memory.wfFrom_put : ∀ (m : Memory) (lo : Option Nat) (a : Nat) (b : Byte), b ≠ unlistedByte →
    (∀ l, lo = some l → l < a) → Memory.wfFrom lo m = true → Memory.wfFrom lo (Assoc.put m a b) = true
  | [], lo, a, b, hb, hlo, _ => by
    rw [Assoc.put, Memory.wfFrom_cons]
    exact ⟨hlo, hb, rfl⟩
  | (k, v) :: r, lo, a, b, hb, hlo, hw => by
    have hw' := (Memory.wfFrom_cons lo k v r).1 hw
    unfold Assoc.put
    by_cases h1 : a < k
    · rw [if_pos h1, Memory.wfFrom_cons]
      exact ⟨hlo, hb, (Memory.wfFrom_cons _ _ _ _).2 ⟨fun l hl => by cases hl; exact h1, hw'.2⟩⟩
    · by_cases h2 : a = k
      · subst h2
        rw [if_neg h1, if_pos rfl, Memory.wfFrom_cons]
        exact ⟨hlo, hb, hw'.2.2⟩
      · rw [if_neg h1, if_neg h2, Memory.wfFrom_cons]
        refine ⟨hw'.1, hw'.2.1, Memory.wfFrom_put r (some k) a b hb ?_ hw'.2.2⟩
        intro l hl
        cases hl
        omega

/-- A write of a byte keeps the canonical form. -/
theorem Memory.wf_set (m : Memory) (a : Nat) (b : Byte) (h : m.wf = true) : (m.set a b).wf = true := by
  unfold Memory.set Memory.wf
  by_cases hb : b = unlistedByte
  · rw [if_pos hb]
    exact Memory.wfFrom_filter (fun kv => kv.1 != a) m none h
  · simp only [hb, if_false]
    exact Memory.wfFrom_put m none a b hb (by simp) h

/-- A write of several bytes keeps the canonical form. -/
theorem Memory.wf_setBytes : ∀ (bs : List Byte) (m : Memory) (a : Nat), m.wf = true → (m.setBytes a bs).wf = true
  | [], _, _, h => h
  | b :: r, m, a, h => Memory.wf_setBytes r (m.set a b) (a + 1) (Memory.wf_set m a b h)

/-- A write of a number keeps the canonical form. -/
theorem Memory.wf_write (m : Memory) (a n v : Nat) (h : m.wf = true) : (m.write a n v).wf = true :=
  Memory.wf_setBytes _ m a h

/-- Dropping bytes keeps the canonical form. -/
theorem Memory.wf_filter (m : Memory) (p : Host.Cell → Bool) (h : m.wf = true) : Memory.wf (m.filter p) = true :=
  Memory.wfFrom_filter p m none h

/-- Dropping a range keeps the canonical form. -/
theorem Memory.wf_clear (m : Memory) (a n : Nat) (h : m.wf = true) : (m.clear a n).wf = true := Memory.wf_filter m _ h

end Sys2Proof.Machine
end

