-- ==== Sys2Proof/Laws/State.lean ====
section
/-! SUPPORT. What each update of the state leaves and sets, one lemma per field. -/

namespace Sys2Proof.Machine

open Sys2Proof

/-! State.setHart. -/

@[simp] theorem State.setHart_agenda (s : State) (slot : Nat) (h : Hart) : (s.setHart slot h).agenda = s.agenda := rfl
@[simp] theorem State.setHart_order (s : State) (slot : Nat) (h : Hart) : (s.setHart slot h).order = s.order := rfl
@[simp] theorem State.setHart_engineAt (s : State) (slot : Nat) (h : Hart) : (s.setHart slot h).engineAt = s.engineAt :=
  rfl
@[simp] theorem State.setHart_cur (s : State) (slot : Nat) (h : Hart) : (s.setHart slot h).cur = s.cur := rfl
@[simp] theorem State.setHart_curChan (s : State) (slot : Nat) (h : Hart) : (s.setHart slot h).curChan = s.curChan :=
  rfl
@[simp] theorem State.setHart_issue (s : State) (slot : Nat) (h : Hart) : (s.setHart slot h).issue = s.issue := rfl
@[simp] theorem State.setHart_reqs (s : State) (slot : Nat) (h : Hart) : (s.setHart slot h).reqs = s.reqs := rfl
@[simp] theorem State.setHart_fresh (s : State) (slot : Nat) (h : Hart) : (s.setHart slot h).fresh = s.fresh := rfl
@[simp] theorem State.setHart_late (s : State) (slot : Nat) (h : Hart) : (s.setHart slot h).late = s.late := rfl
@[simp] theorem State.setHart_lateTurn (s : State) (slot : Nat) (h : Hart) : (s.setHart slot h).lateTurn = s.lateTurn := rfl
@[simp] theorem State.setHart_nextId (s : State) (slot : Nat) (h : Hart) : (s.setHart slot h).nextId = s.nextId := rfl
@[simp] theorem State.setHart_harts (s : State) (slot : Nat) (h : Hart) : (s.setHart slot h).harts = s.harts.put slot h :=
  rfl
@[simp] theorem State.setHart_cores (s : State) (slot : Nat) (h : Hart) : (s.setHart slot h).cores = s.cores := rfl
@[simp] theorem State.setHart_mem (s : State) (slot : Nat) (h : Hart) : (s.setHart slot h).mem = s.mem := rfl
@[simp] theorem State.setHart_la (s : State) (slot : Nat) (h : Hart) : (s.setHart slot h).la = s.la := rfl
@[simp] theorem State.setHart_ov (s : State) (slot : Nat) (h : Hart) : (s.setHart slot h).ov = s.ov := rfl
@[simp] theorem State.setHart_arrays (s : State) (slot : Nat) (h : Hart) : (s.setHart slot h).arrays = s.arrays := rfl
@[simp] theorem State.setHart_tv (s : State) (slot : Nat) (h : Hart) : (s.setHart slot h).tv = s.tv := rfl
@[simp] theorem State.setHart_gz (s : State) (slot : Nat) (h : Hart) : (s.setHart slot h).gz = s.gz := rfl
@[simp] theorem State.setHart_sv (s : State) (slot : Nat) (h : Hart) : (s.setHart slot h).sv = s.sv := rfl
@[simp] theorem State.setHart_dc (s : State) (slot : Nat) (h : Hart) : (s.setHart slot h).dc = s.dc := rfl
@[simp] theorem State.setHart_hostOut (s : State) (slot : Nat) (h : Hart) : (s.setHart slot h).hostOut = s.hostOut :=
  rfl
@[simp] theorem State.setHart_linkOut (s : State) (slot : Nat) (h : Hart) : (s.setHart slot h).linkOut = s.linkOut :=
  rfl
@[simp] theorem State.setHart_portOut (s : State) (slot : Nat) (h : Hart) : (s.setHart slot h).portOut = s.portOut :=
  rfl
@[simp] theorem State.setHart_nextTrain (s : State) (slot : Nat) (h : Hart) : (s.setHart slot h).nextTrain = s.nextTrain :=
  rfl

/-! State.setCore. -/

@[simp] theorem State.setCore_agenda (s : State) (c : Nat) (k : Core) : (s.setCore c k).agenda = s.agenda := rfl
@[simp] theorem State.setCore_order (s : State) (c : Nat) (k : Core) : (s.setCore c k).order = s.order := rfl
@[simp] theorem State.setCore_engineAt (s : State) (c : Nat) (k : Core) : (s.setCore c k).engineAt = s.engineAt := rfl
@[simp] theorem State.setCore_cur (s : State) (c : Nat) (k : Core) : (s.setCore c k).cur = s.cur := rfl
@[simp] theorem State.setCore_curChan (s : State) (c : Nat) (k : Core) : (s.setCore c k).curChan = s.curChan := rfl
@[simp] theorem State.setCore_issue (s : State) (c : Nat) (k : Core) : (s.setCore c k).issue = s.issue := rfl
@[simp] theorem State.setCore_reqs (s : State) (c : Nat) (k : Core) : (s.setCore c k).reqs = s.reqs := rfl
@[simp] theorem State.setCore_fresh (s : State) (c : Nat) (k : Core) : (s.setCore c k).fresh = s.fresh := rfl
@[simp] theorem State.setCore_late (s : State) (c : Nat) (k : Core) : (s.setCore c k).late = s.late := rfl
@[simp] theorem State.setCore_lateTurn (s : State) (c : Nat) (k : Core) : (s.setCore c k).lateTurn = s.lateTurn := rfl
@[simp] theorem State.setCore_nextId (s : State) (c : Nat) (k : Core) : (s.setCore c k).nextId = s.nextId := rfl
@[simp] theorem State.setCore_harts (s : State) (c : Nat) (k : Core) : (s.setCore c k).harts = s.harts := rfl
@[simp] theorem State.setCore_cores (s : State) (c : Nat) (k : Core) : (s.setCore c k).cores = s.cores.put c k := rfl
@[simp] theorem State.setCore_mem (s : State) (c : Nat) (k : Core) : (s.setCore c k).mem = s.mem := rfl
@[simp] theorem State.setCore_la (s : State) (c : Nat) (k : Core) : (s.setCore c k).la = s.la := rfl
@[simp] theorem State.setCore_ov (s : State) (c : Nat) (k : Core) : (s.setCore c k).ov = s.ov := rfl
@[simp] theorem State.setCore_arrays (s : State) (c : Nat) (k : Core) : (s.setCore c k).arrays = s.arrays := rfl
@[simp] theorem State.setCore_tv (s : State) (c : Nat) (k : Core) : (s.setCore c k).tv = s.tv := rfl
@[simp] theorem State.setCore_gz (s : State) (c : Nat) (k : Core) : (s.setCore c k).gz = s.gz := rfl
@[simp] theorem State.setCore_sv (s : State) (c : Nat) (k : Core) : (s.setCore c k).sv = s.sv := rfl
@[simp] theorem State.setCore_dc (s : State) (c : Nat) (k : Core) : (s.setCore c k).dc = s.dc := rfl
@[simp] theorem State.setCore_hostOut (s : State) (c : Nat) (k : Core) : (s.setCore c k).hostOut = s.hostOut := rfl
@[simp] theorem State.setCore_linkOut (s : State) (c : Nat) (k : Core) : (s.setCore c k).linkOut = s.linkOut := rfl
@[simp] theorem State.setCore_portOut (s : State) (c : Nat) (k : Core) : (s.setCore c k).portOut = s.portOut := rfl
@[simp] theorem State.setCore_nextTrain (s : State) (c : Nat) (k : Core) : (s.setCore c k).nextTrain = s.nextTrain :=
  rfl

/-! State.setArray. -/

@[simp] theorem State.setArray_agenda (s : State) (a : Nat) (m : MArray) : (s.setArray a m).agenda = s.agenda := rfl
@[simp] theorem State.setArray_order (s : State) (a : Nat) (m : MArray) : (s.setArray a m).order = s.order := rfl
@[simp] theorem State.setArray_engineAt (s : State) (a : Nat) (m : MArray) : (s.setArray a m).engineAt = s.engineAt :=
  rfl
@[simp] theorem State.setArray_cur (s : State) (a : Nat) (m : MArray) : (s.setArray a m).cur = s.cur := rfl
@[simp] theorem State.setArray_curChan (s : State) (a : Nat) (m : MArray) : (s.setArray a m).curChan = s.curChan :=
  rfl
@[simp] theorem State.setArray_issue (s : State) (a : Nat) (m : MArray) : (s.setArray a m).issue = s.issue := rfl
@[simp] theorem State.setArray_reqs (s : State) (a : Nat) (m : MArray) : (s.setArray a m).reqs = s.reqs := rfl
@[simp] theorem State.setArray_fresh (s : State) (a : Nat) (m : MArray) : (s.setArray a m).fresh = s.fresh := rfl
@[simp] theorem State.setArray_late (s : State) (a : Nat) (m : MArray) : (s.setArray a m).late = s.late := rfl
@[simp] theorem State.setArray_lateTurn (s : State) (a : Nat) (m : MArray) : (s.setArray a m).lateTurn = s.lateTurn := rfl
@[simp] theorem State.setArray_nextId (s : State) (a : Nat) (m : MArray) : (s.setArray a m).nextId = s.nextId := rfl
@[simp] theorem State.setArray_harts (s : State) (a : Nat) (m : MArray) : (s.setArray a m).harts = s.harts := rfl
@[simp] theorem State.setArray_cores (s : State) (a : Nat) (m : MArray) : (s.setArray a m).cores = s.cores := rfl
@[simp] theorem State.setArray_mem (s : State) (a : Nat) (m : MArray) : (s.setArray a m).mem = s.mem := rfl
@[simp] theorem State.setArray_la (s : State) (a : Nat) (m : MArray) : (s.setArray a m).la = s.la := rfl
@[simp] theorem State.setArray_ov (s : State) (a : Nat) (m : MArray) : (s.setArray a m).ov = s.ov := rfl
/-- Outside lockstep one array is replaced. -/
theorem State.setArray_arrays (s : State) (a : Nat) (m : MArray)
    (h : (m.holder.orElse fun _ => (s.array a).holder).any s.lockstep = false) :
    (s.setArray a m).arrays = s.arrays.put a m := by
  simp only [State.setArray, h]
  rfl
@[simp] theorem State.setArray_tv (s : State) (a : Nat) (m : MArray) : (s.setArray a m).tv = s.tv := rfl
@[simp] theorem State.setArray_gz (s : State) (a : Nat) (m : MArray) : (s.setArray a m).gz = s.gz := rfl
@[simp] theorem State.setArray_sv (s : State) (a : Nat) (m : MArray) : (s.setArray a m).sv = s.sv := rfl
@[simp] theorem State.setArray_dc (s : State) (a : Nat) (m : MArray) : (s.setArray a m).dc = s.dc := rfl
@[simp] theorem State.setArray_hostOut (s : State) (a : Nat) (m : MArray) : (s.setArray a m).hostOut = s.hostOut :=
  rfl
@[simp] theorem State.setArray_linkOut (s : State) (a : Nat) (m : MArray) : (s.setArray a m).linkOut = s.linkOut :=
  rfl
@[simp] theorem State.setArray_portOut (s : State) (a : Nat) (m : MArray) : (s.setArray a m).portOut = s.portOut :=
  rfl
@[simp] theorem State.setArray_nextTrain (s : State) (a : Nat) (m : MArray) : (s.setArray a m).nextTrain = s.nextTrain :=
  rfl

/-! State.setMem. -/

@[simp] theorem State.setMem_agenda (s : State) (m : MemSys) : (s.setMem m).agenda = s.agenda := rfl
@[simp] theorem State.setMem_order (s : State) (m : MemSys) : (s.setMem m).order = s.order := rfl
@[simp] theorem State.setMem_engineAt (s : State) (m : MemSys) : (s.setMem m).engineAt = s.engineAt := rfl
@[simp] theorem State.setMem_cur (s : State) (m : MemSys) : (s.setMem m).cur = s.cur := rfl
@[simp] theorem State.setMem_curChan (s : State) (m : MemSys) : (s.setMem m).curChan = s.curChan := rfl
@[simp] theorem State.setMem_issue (s : State) (m : MemSys) : (s.setMem m).issue = s.issue := rfl
@[simp] theorem State.setMem_reqs (s : State) (m : MemSys) : (s.setMem m).reqs = s.reqs := rfl
@[simp] theorem State.setMem_fresh (s : State) (m : MemSys) : (s.setMem m).fresh = s.fresh := rfl
@[simp] theorem State.setMem_late (s : State) (m : MemSys) : (s.setMem m).late = s.late := rfl
@[simp] theorem State.setMem_lateTurn (s : State) (m : MemSys) : (s.setMem m).lateTurn = s.lateTurn := rfl
@[simp] theorem State.setMem_nextId (s : State) (m : MemSys) : (s.setMem m).nextId = s.nextId := rfl
@[simp] theorem State.setMem_harts (s : State) (m : MemSys) : (s.setMem m).harts = s.harts := rfl
@[simp] theorem State.setMem_cores (s : State) (m : MemSys) : (s.setMem m).cores = s.cores := rfl
@[simp] theorem State.setMem_mem (s : State) (m : MemSys) : (s.setMem m).mem = m := rfl
@[simp] theorem State.setMem_la (s : State) (m : MemSys) : (s.setMem m).la = s.la := rfl
@[simp] theorem State.setMem_ov (s : State) (m : MemSys) : (s.setMem m).ov = s.ov := rfl
@[simp] theorem State.setMem_arrays (s : State) (m : MemSys) : (s.setMem m).arrays = s.arrays := rfl
@[simp] theorem State.setMem_tv (s : State) (m : MemSys) : (s.setMem m).tv = s.tv := rfl
@[simp] theorem State.setMem_gz (s : State) (m : MemSys) : (s.setMem m).gz = s.gz := rfl
@[simp] theorem State.setMem_sv (s : State) (m : MemSys) : (s.setMem m).sv = s.sv := rfl
@[simp] theorem State.setMem_dc (s : State) (m : MemSys) : (s.setMem m).dc = s.dc := rfl
@[simp] theorem State.setMem_hostOut (s : State) (m : MemSys) : (s.setMem m).hostOut = s.hostOut := rfl
@[simp] theorem State.setMem_linkOut (s : State) (m : MemSys) : (s.setMem m).linkOut = s.linkOut := rfl
@[simp] theorem State.setMem_portOut (s : State) (m : MemSys) : (s.setMem m).portOut = s.portOut := rfl
@[simp] theorem State.setMem_nextTrain (s : State) (m : MemSys) : (s.setMem m).nextTrain = s.nextTrain := rfl

/-! State.setLa. -/

@[simp] theorem State.setLa_agenda (s : State) (m : LaunchSys) : (s.setLa m).agenda = s.agenda := rfl
@[simp] theorem State.setLa_order (s : State) (m : LaunchSys) : (s.setLa m).order = s.order := rfl
@[simp] theorem State.setLa_engineAt (s : State) (m : LaunchSys) : (s.setLa m).engineAt = s.engineAt := rfl
@[simp] theorem State.setLa_cur (s : State) (m : LaunchSys) : (s.setLa m).cur = s.cur := rfl
@[simp] theorem State.setLa_curChan (s : State) (m : LaunchSys) : (s.setLa m).curChan = s.curChan := rfl
@[simp] theorem State.setLa_issue (s : State) (m : LaunchSys) : (s.setLa m).issue = s.issue := rfl
@[simp] theorem State.setLa_reqs (s : State) (m : LaunchSys) : (s.setLa m).reqs = s.reqs := rfl
@[simp] theorem State.setLa_fresh (s : State) (m : LaunchSys) : (s.setLa m).fresh = s.fresh := rfl
@[simp] theorem State.setLa_late (s : State) (m : LaunchSys) : (s.setLa m).late = s.late := rfl
@[simp] theorem State.setLa_lateTurn (s : State) (m : LaunchSys) : (s.setLa m).lateTurn = s.lateTurn := rfl
@[simp] theorem State.setLa_nextId (s : State) (m : LaunchSys) : (s.setLa m).nextId = s.nextId := rfl
@[simp] theorem State.setLa_harts (s : State) (m : LaunchSys) : (s.setLa m).harts = s.harts := rfl
@[simp] theorem State.setLa_cores (s : State) (m : LaunchSys) : (s.setLa m).cores = s.cores := rfl
@[simp] theorem State.setLa_mem (s : State) (m : LaunchSys) : (s.setLa m).mem = s.mem := rfl
@[simp] theorem State.setLa_la (s : State) (m : LaunchSys) : (s.setLa m).la = m := rfl
@[simp] theorem State.setLa_ov (s : State) (m : LaunchSys) : (s.setLa m).ov = s.ov := rfl
@[simp] theorem State.setLa_arrays (s : State) (m : LaunchSys) : (s.setLa m).arrays = s.arrays := rfl
@[simp] theorem State.setLa_tv (s : State) (m : LaunchSys) : (s.setLa m).tv = s.tv := rfl
@[simp] theorem State.setLa_gz (s : State) (m : LaunchSys) : (s.setLa m).gz = s.gz := rfl
@[simp] theorem State.setLa_sv (s : State) (m : LaunchSys) : (s.setLa m).sv = s.sv := rfl
@[simp] theorem State.setLa_dc (s : State) (m : LaunchSys) : (s.setLa m).dc = s.dc := rfl
@[simp] theorem State.setLa_hostOut (s : State) (m : LaunchSys) : (s.setLa m).hostOut = s.hostOut := rfl
@[simp] theorem State.setLa_linkOut (s : State) (m : LaunchSys) : (s.setLa m).linkOut = s.linkOut := rfl
@[simp] theorem State.setLa_portOut (s : State) (m : LaunchSys) : (s.setLa m).portOut = s.portOut := rfl
@[simp] theorem State.setLa_nextTrain (s : State) (m : LaunchSys) : (s.setLa m).nextTrain = s.nextTrain := rfl

/-! State.setTv. -/

@[simp] theorem State.setTv_agenda (s : State) (t : TvSys) : (s.setTv t).agenda = s.agenda := rfl
@[simp] theorem State.setTv_order (s : State) (t : TvSys) : (s.setTv t).order = s.order := rfl
@[simp] theorem State.setTv_engineAt (s : State) (t : TvSys) : (s.setTv t).engineAt = s.engineAt := rfl
@[simp] theorem State.setTv_cur (s : State) (t : TvSys) : (s.setTv t).cur = s.cur := rfl
@[simp] theorem State.setTv_curChan (s : State) (t : TvSys) : (s.setTv t).curChan = s.curChan := rfl
@[simp] theorem State.setTv_issue (s : State) (t : TvSys) : (s.setTv t).issue = s.issue := rfl
@[simp] theorem State.setTv_reqs (s : State) (t : TvSys) : (s.setTv t).reqs = s.reqs := rfl
@[simp] theorem State.setTv_fresh (s : State) (t : TvSys) : (s.setTv t).fresh = s.fresh := rfl
@[simp] theorem State.setTv_late (s : State) (t : TvSys) : (s.setTv t).late = s.late := rfl
@[simp] theorem State.setTv_lateTurn (s : State) (t : TvSys) : (s.setTv t).lateTurn = s.lateTurn := rfl
@[simp] theorem State.setTv_nextId (s : State) (t : TvSys) : (s.setTv t).nextId = s.nextId := rfl
@[simp] theorem State.setTv_harts (s : State) (t : TvSys) : (s.setTv t).harts = s.harts := rfl
@[simp] theorem State.setTv_cores (s : State) (t : TvSys) : (s.setTv t).cores = s.cores := rfl
@[simp] theorem State.setTv_mem (s : State) (t : TvSys) : (s.setTv t).mem = s.mem := rfl
@[simp] theorem State.setTv_la (s : State) (t : TvSys) : (s.setTv t).la = s.la := rfl
@[simp] theorem State.setTv_ov (s : State) (t : TvSys) : (s.setTv t).ov = s.ov := rfl
@[simp] theorem State.setTv_arrays (s : State) (t : TvSys) : (s.setTv t).arrays = s.arrays := rfl
@[simp] theorem State.setTv_tv (s : State) (t : TvSys) : (s.setTv t).tv = t := rfl
@[simp] theorem State.setTv_gz (s : State) (t : TvSys) : (s.setTv t).gz = s.gz := rfl
@[simp] theorem State.setTv_sv (s : State) (t : TvSys) : (s.setTv t).sv = s.sv := rfl
@[simp] theorem State.setTv_dc (s : State) (t : TvSys) : (s.setTv t).dc = s.dc := rfl
@[simp] theorem State.setTv_hostOut (s : State) (t : TvSys) : (s.setTv t).hostOut = s.hostOut := rfl
@[simp] theorem State.setTv_linkOut (s : State) (t : TvSys) : (s.setTv t).linkOut = s.linkOut := rfl
@[simp] theorem State.setTv_portOut (s : State) (t : TvSys) : (s.setTv t).portOut = s.portOut := rfl
@[simp] theorem State.setTv_nextTrain (s : State) (t : TvSys) : (s.setTv t).nextTrain = s.nextTrain := rfl

/-! State.setGz. -/

@[simp] theorem State.setGz_agenda (s : State) (g : GzSys) : (s.setGz g).agenda = s.agenda := rfl
@[simp] theorem State.setGz_order (s : State) (g : GzSys) : (s.setGz g).order = s.order := rfl
@[simp] theorem State.setGz_engineAt (s : State) (g : GzSys) : (s.setGz g).engineAt = s.engineAt := rfl
@[simp] theorem State.setGz_cur (s : State) (g : GzSys) : (s.setGz g).cur = s.cur := rfl
@[simp] theorem State.setGz_curChan (s : State) (g : GzSys) : (s.setGz g).curChan = s.curChan := rfl
@[simp] theorem State.setGz_issue (s : State) (g : GzSys) : (s.setGz g).issue = s.issue := rfl
@[simp] theorem State.setGz_reqs (s : State) (g : GzSys) : (s.setGz g).reqs = s.reqs := rfl
@[simp] theorem State.setGz_fresh (s : State) (g : GzSys) : (s.setGz g).fresh = s.fresh := rfl
@[simp] theorem State.setGz_late (s : State) (g : GzSys) : (s.setGz g).late = s.late := rfl
@[simp] theorem State.setGz_lateTurn (s : State) (g : GzSys) : (s.setGz g).lateTurn = s.lateTurn := rfl
@[simp] theorem State.setGz_nextId (s : State) (g : GzSys) : (s.setGz g).nextId = s.nextId := rfl
@[simp] theorem State.setGz_harts (s : State) (g : GzSys) : (s.setGz g).harts = s.harts := rfl
@[simp] theorem State.setGz_cores (s : State) (g : GzSys) : (s.setGz g).cores = s.cores := rfl
@[simp] theorem State.setGz_mem (s : State) (g : GzSys) : (s.setGz g).mem = s.mem := rfl
@[simp] theorem State.setGz_la (s : State) (g : GzSys) : (s.setGz g).la = s.la := rfl
@[simp] theorem State.setGz_ov (s : State) (g : GzSys) : (s.setGz g).ov = s.ov := rfl
@[simp] theorem State.setGz_arrays (s : State) (g : GzSys) : (s.setGz g).arrays = s.arrays := rfl
@[simp] theorem State.setGz_tv (s : State) (g : GzSys) : (s.setGz g).tv = s.tv := rfl
@[simp] theorem State.setGz_gz (s : State) (g : GzSys) : (s.setGz g).gz = g := rfl
@[simp] theorem State.setGz_sv (s : State) (g : GzSys) : (s.setGz g).sv = s.sv := rfl
@[simp] theorem State.setGz_dc (s : State) (g : GzSys) : (s.setGz g).dc = s.dc := rfl
@[simp] theorem State.setGz_hostOut (s : State) (g : GzSys) : (s.setGz g).hostOut = s.hostOut := rfl
@[simp] theorem State.setGz_linkOut (s : State) (g : GzSys) : (s.setGz g).linkOut = s.linkOut := rfl
@[simp] theorem State.setGz_portOut (s : State) (g : GzSys) : (s.setGz g).portOut = s.portOut := rfl
@[simp] theorem State.setGz_nextTrain (s : State) (g : GzSys) : (s.setGz g).nextTrain = s.nextTrain := rfl

/-! The free value drawn: only the counter moves. -/

@[simp] theorem State.draw_agenda (s : State) : s.draw.2.agenda = s.agenda := rfl
@[simp] theorem State.draw_order (s : State) : s.draw.2.order = s.order := rfl
@[simp] theorem State.draw_engineAt (s : State) : s.draw.2.engineAt = s.engineAt := rfl
@[simp] theorem State.draw_cur (s : State) : s.draw.2.cur = s.cur := rfl
@[simp] theorem State.draw_curChan (s : State) : s.draw.2.curChan = s.curChan := rfl
@[simp] theorem State.draw_issue (s : State) : s.draw.2.issue = s.issue := rfl
@[simp] theorem State.draw_reqs (s : State) : s.draw.2.reqs = s.reqs := rfl
@[simp] theorem State.draw_fresh (s : State) : s.draw.2.fresh = s.fresh + 1 := rfl
@[simp] theorem State.draw_nextId (s : State) : s.draw.2.nextId = s.nextId := rfl
@[simp] theorem State.draw_late (s : State) : s.draw.2.late = s.late := rfl
@[simp] theorem State.draw_lateTurn (s : State) : s.draw.2.lateTurn = s.lateTurn := rfl
@[simp] theorem State.draw_harts (s : State) : s.draw.2.harts = s.harts := rfl
@[simp] theorem State.draw_cores (s : State) : s.draw.2.cores = s.cores := rfl
@[simp] theorem State.draw_mem (s : State) : s.draw.2.mem = s.mem := rfl
@[simp] theorem State.draw_la (s : State) : s.draw.2.la = s.la := rfl
@[simp] theorem State.draw_ov (s : State) : s.draw.2.ov = s.ov := rfl
@[simp] theorem State.draw_arrays (s : State) : s.draw.2.arrays = s.arrays := rfl
@[simp] theorem State.draw_tv (s : State) : s.draw.2.tv = s.tv := rfl
@[simp] theorem State.draw_gz (s : State) : s.draw.2.gz = s.gz := rfl
@[simp] theorem State.draw_sv (s : State) : s.draw.2.sv = s.sv := rfl
@[simp] theorem State.draw_dc (s : State) : s.draw.2.dc = s.dc := rfl
@[simp] theorem State.draw_hostOut (s : State) : s.draw.2.hostOut = s.hostOut := rfl
@[simp] theorem State.draw_linkOut (s : State) : s.draw.2.linkOut = s.linkOut := rfl
@[simp] theorem State.draw_portOut (s : State) : s.draw.2.portOut = s.portOut := rfl
@[simp] theorem State.draw_nextTrain (s : State) : s.draw.2.nextTrain = s.nextTrain := rfl

/-! State.setStream: a stream of a hart, or the datum core's. -/

@[simp] theorem State.setStream_agenda (s : State) (p : Party) (st : Stream) : (s.setStream p st).agenda = s.agenda := by
  cases p <;> rfl
@[simp] theorem State.setStream_order (s : State) (p : Party) (st : Stream) : (s.setStream p st).order = s.order := by
  cases p <;> rfl
@[simp] theorem State.setStream_engineAt (s : State) (p : Party) (st : Stream) : (s.setStream p st).engineAt = s.engineAt := by
  cases p <;> rfl
@[simp] theorem State.setStream_cur (s : State) (p : Party) (st : Stream) : (s.setStream p st).cur = s.cur := by
  cases p <;> rfl
@[simp] theorem State.setStream_curChan (s : State) (p : Party) (st : Stream) : (s.setStream p st).curChan = s.curChan := by
  cases p <;> rfl
@[simp] theorem State.setStream_issue (s : State) (p : Party) (st : Stream) : (s.setStream p st).issue = s.issue := by
  cases p <;> rfl
@[simp] theorem State.setStream_reqs (s : State) (p : Party) (st : Stream) : (s.setStream p st).reqs = s.reqs := by
  cases p <;> rfl
@[simp] theorem State.setStream_fresh (s : State) (p : Party) (st : Stream) : (s.setStream p st).fresh = s.fresh := by
  cases p <;> rfl
@[simp] theorem State.setStream_late (s : State) (p : Party) (st : Stream) : (s.setStream p st).late = s.late := by
  cases p <;> rfl
@[simp] theorem State.setStream_lateTurn (s : State) (p : Party) (st : Stream) : (s.setStream p st).lateTurn = s.lateTurn := by
  cases p <;> rfl
@[simp] theorem State.setStream_nextId (s : State) (p : Party) (st : Stream) : (s.setStream p st).nextId = s.nextId := by
  cases p <;> rfl
@[simp] theorem State.setStream_cores (s : State) (p : Party) (st : Stream) : (s.setStream p st).cores = s.cores := by
  cases p <;> rfl
@[simp] theorem State.setStream_mem (s : State) (p : Party) (st : Stream) : (s.setStream p st).mem = s.mem := by
  cases p <;> rfl
@[simp] theorem State.setStream_la (s : State) (p : Party) (st : Stream) : (s.setStream p st).la = s.la := by
  cases p <;> rfl
@[simp] theorem State.setStream_ov (s : State) (p : Party) (st : Stream) : (s.setStream p st).ov = s.ov := by
  cases p <;> rfl
@[simp] theorem State.setStream_arrays (s : State) (p : Party) (st : Stream) : (s.setStream p st).arrays = s.arrays := by
  cases p <;> rfl
@[simp] theorem State.setStream_tv (s : State) (p : Party) (st : Stream) : (s.setStream p st).tv = s.tv := by
  cases p <;> rfl
@[simp] theorem State.setStream_gz (s : State) (p : Party) (st : Stream) : (s.setStream p st).gz = s.gz := by
  cases p <;> rfl
@[simp] theorem State.setStream_sv (s : State) (p : Party) (st : Stream) : (s.setStream p st).sv = s.sv := by
  cases p <;> rfl
@[simp] theorem State.setStream_hostOut (s : State) (p : Party) (st : Stream) : (s.setStream p st).hostOut = s.hostOut := by
  cases p <;> rfl
@[simp] theorem State.setStream_linkOut (s : State) (p : Party) (st : Stream) : (s.setStream p st).linkOut = s.linkOut := by
  cases p <;> rfl
@[simp] theorem State.setStream_portOut (s : State) (p : Party) (st : Stream) : (s.setStream p st).portOut = s.portOut := by
  cases p <;> rfl
@[simp] theorem State.setStream_nextTrain (s : State) (p : Party) (st : Stream) : (s.setStream p st).nextTrain = s.nextTrain := by
  cases p <;> rfl

@[simp] theorem State.setStream_harts_datum (s : State) (st : Stream) : (s.setStream .datum st).harts = s.harts := rfl
@[simp] theorem State.setStream_dc_stream (s : State) (slot : Nat) (isX : Bool) (st : Stream) :
    (s.setStream (.stream slot isX) st).dc = s.dc := rfl

/-! Registers of a stream: a write of x[n] or p[n] sets nothing else. -/

@[simp] theorem Stream.setX_p (st : Stream) (n : Fin 64) (v : Word) : (st.setX n v).p = st.p := by
  unfold Stream.setX; split <;> rfl
@[simp] theorem Stream.setX_pc (st : Stream) (n : Fin 64) (v : Word) : (st.setX n v).pc = st.pc := by
  unfold Stream.setX; split <;> rfl
@[simp] theorem Stream.setX_ls0 (st : Stream) (n : Fin 64) (v : Word) : (st.setX n v).ls0 = st.ls0 := by
  unfold Stream.setX; split <;> rfl
@[simp] theorem Stream.setX_le0 (st : Stream) (n : Fin 64) (v : Word) : (st.setX n v).le0 = st.le0 := by
  unfold Stream.setX; split <;> rfl
@[simp] theorem Stream.setX_lc0 (st : Stream) (n : Fin 64) (v : Word) : (st.setX n v).lc0 = st.lc0 := by
  unfold Stream.setX; split <;> rfl
@[simp] theorem Stream.setX_ls1 (st : Stream) (n : Fin 64) (v : Word) : (st.setX n v).ls1 = st.ls1 := by
  unfold Stream.setX; split <;> rfl
@[simp] theorem Stream.setX_le1 (st : Stream) (n : Fin 64) (v : Word) : (st.setX n v).le1 = st.le1 := by
  unfold Stream.setX; split <;> rfl
@[simp] theorem Stream.setX_lc1 (st : Stream) (n : Fin 64) (v : Word) : (st.setX n v).lc1 = st.lc1 := by
  unfold Stream.setX; split <;> rfl
@[simp] theorem Stream.setX_det (st : Stream) (n : Fin 64) (v : Word) : (st.setX n v).det = st.det := by
  unfold Stream.setX; split <;> rfl
@[simp] theorem Stream.setX_ssm (st : Stream) (n : Fin 64) (v : Word) : (st.setX n v).ssm = st.ssm := by
  unfold Stream.setX; split <;> rfl
@[simp] theorem Stream.setX_strm (st : Stream) (n : Fin 64) (v : Word) : (st.setX n v).strm = st.strm := by
  unfold Stream.setX; split <;> rfl
@[simp] theorem Stream.setX_depth (st : Stream) (n : Fin 64) (v : Word) : (st.setX n v).depth = st.depth := by
  unfold Stream.setX; split <;> rfl
@[simp] theorem Stream.setX_le (st : Stream) (n : Fin 64) (v : Word) : (st.setX n v).le = st.le := by
  unfold Stream.setX; split <;> rfl
@[simp] theorem Stream.setX_priv (st : Stream) (n : Fin 64) (v : Word) : (st.setX n v).priv = st.priv := by
  unfold Stream.setX; split <;> rfl
@[simp] theorem Stream.setX_tvec (st : Stream) (n : Fin 64) (v : Word) : (st.setX n v).tvec = st.tvec := by
  unfold Stream.setX; split <;> rfl
@[simp] theorem Stream.setX_tpc (st : Stream) (n : Fin 64) (v : Word) : (st.setX n v).tpc = st.tpc := by
  unfold Stream.setX; split <;> rfl
@[simp] theorem Stream.setX_tcause (st : Stream) (n : Fin 64) (v : Word) : (st.setX n v).tcause = st.tcause := by
  unfold Stream.setX; split <;> rfl
@[simp] theorem Stream.setX_tval (st : Stream) (n : Fin 64) (v : Word) : (st.setX n v).tval = st.tval := by
  unfold Stream.setX; split <;> rfl
@[simp] theorem Stream.setX_telem (st : Stream) (n : Fin 64) (v : Word) : (st.setX n v).telem = st.telem := by
  unfold Stream.setX; split <;> rfl
@[simp] theorem Stream.setX_tlane (st : Stream) (n : Fin 64) (v : Word) : (st.setX n v).tlane = st.tlane := by
  unfold Stream.setX; split <;> rfl
@[simp] theorem Stream.setX_tstat (st : Stream) (n : Fin 64) (v : Word) : (st.setX n v).tstat = st.tstat := by
  unfold Stream.setX; split <;> rfl
@[simp] theorem Stream.setX_tscratch0 (st : Stream) (n : Fin 64) (v : Word) : (st.setX n v).tscratch0 = st.tscratch0 := by
  unfold Stream.setX; split <;> rfl
@[simp] theorem Stream.setX_tscratch1 (st : Stream) (n : Fin 64) (v : Word) : (st.setX n v).tscratch1 = st.tscratch1 := by
  unfold Stream.setX; split <;> rfl
@[simp] theorem Stream.setX_tscratch2 (st : Stream) (n : Fin 64) (v : Word) : (st.setX n v).tscratch2 = st.tscratch2 := by
  unfold Stream.setX; split <;> rfl
@[simp] theorem Stream.setX_tscratch3 (st : Stream) (n : Fin 64) (v : Word) : (st.setX n v).tscratch3 = st.tscratch3 := by
  unfold Stream.setX; split <;> rfl
@[simp] theorem Stream.setX_icount (st : Stream) (n : Fin 64) (v : Word) : (st.setX n v).icount = st.icount := by
  unfold Stream.setX; split <;> rfl
@[simp] theorem Stream.setX_atoms (st : Stream) (n : Fin 64) (v : Word) : (st.setX n v).atoms = st.atoms := by
  unfold Stream.setX; split <;> rfl
@[simp] theorem Stream.setX_hash (st : Stream) (n : Fin 64) (v : Word) : (st.setX n v).hash = st.hash := by
  unfold Stream.setX; split <;> rfl
@[simp] theorem Stream.setX_hashShadow (st : Stream) (n : Fin 64) (v : Word) : (st.setX n v).hashShadow = st.hashShadow := by
  unfold Stream.setX; split <;> rfl
@[simp] theorem Stream.setX_stripAct (st : Stream) (n : Fin 64) (v : Word) : (st.setX n v).stripAct = st.stripAct := by
  unfold Stream.setX; split <;> rfl
@[simp] theorem Stream.setX_stripNum (st : Stream) (n : Fin 64) (v : Word) : (st.setX n v).stripNum = st.stripNum := by
  unfold Stream.setX; split <;> rfl
@[simp] theorem Stream.setX_stripLen (st : Stream) (n : Fin 64) (v : Word) : (st.setX n v).stripLen = st.stripLen := by
  unfold Stream.setX; split <;> rfl
@[simp] theorem Stream.setX_stripEnd (st : Stream) (n : Fin 64) (v : Word) : (st.setX n v).stripEnd = st.stripEnd := by
  unfold Stream.setX; split <;> rfl
@[simp] theorem Stream.setX_stripArgs (st : Stream) (n : Fin 64) (v : Word) : (st.setX n v).stripArgs = st.stripArgs := by
  unfold Stream.setX; split <;> rfl
@[simp] theorem Stream.setX_dval (st : Stream) (n : Fin 64) (v : Word) : (st.setX n v).dval = st.dval := by
  unfold Stream.setX; split <;> rfl
@[simp] theorem Stream.setX_dkind (st : Stream) (n : Fin 64) (v : Word) : (st.setX n v).dkind = st.dkind := by
  unfold Stream.setX; split <;> rfl
@[simp] theorem Stream.setX_live (st : Stream) (n : Fin 64) (v : Word) : (st.setX n v).live = st.live := by
  unfold Stream.setX; split <;> rfl
@[simp] theorem Stream.setX_started (st : Stream) (n : Fin 64) (v : Word) : (st.setX n v).started = st.started := by
  unfold Stream.setX; split <;> rfl
@[simp] theorem Stream.setX_waiting (st : Stream) (n : Fin 64) (v : Word) : (st.setX n v).waiting = st.waiting := by
  unfold Stream.setX; split <;> rfl
@[simp] theorem Stream.setX_bars (st : Stream) (n : Fin 64) (v : Word) : (st.setX n v).bars = st.bars := by
  unfold Stream.setX; split <;> rfl
@[simp] theorem Stream.setX_barWait (st : Stream) (n : Fin 64) (v : Word) : (st.setX n v).barWait = st.barWait := by
  unfold Stream.setX; split <;> rfl
@[simp] theorem Stream.setX_blocked (st : Stream) (n : Fin 64) (v : Word) : (st.setX n v).blocked = st.blocked := by
  unfold Stream.setX; split <;> rfl
@[simp] theorem Stream.setX_blockedVec (st : Stream) (n : Fin 64) (v : Word) : (st.setX n v).blockedVec = st.blockedVec := by
  unfold Stream.setX; split <;> rfl
@[simp] theorem Stream.setX_faultWait (st : Stream) (n : Fin 64) (v : Word) : (st.setX n v).faultWait = st.faultWait := by
  unfold Stream.setX; split <;> rfl
@[simp] theorem Stream.setX_declined (st : Stream) (n : Fin 64) (v : Word) : (st.setX n v).declined = st.declined := by
  unfold Stream.setX; split <;> rfl
@[simp] theorem Stream.setX_targetFault (st : Stream) (n : Fin 64) (v : Word) : (st.setX n v).targetFault = st.targetFault := by
  unfold Stream.setX; split <;> rfl
@[simp] theorem Stream.setX_deferred (st : Stream) (n : Fin 64) (v : Word) : (st.setX n v).deferred = st.deferred := by
  unfold Stream.setX; split <;> rfl
@[simp] theorem Stream.setX_reads (st : Stream) (n : Fin 64) (v : Word) : (st.setX n v).reads = st.reads := by
  unfold Stream.setX; split <;> rfl
@[simp] theorem Stream.setX_stage (st : Stream) (n : Fin 64) (v : Word) : (st.setX n v).stage = st.stage := by
  unfold Stream.setX; split <;> rfl
@[simp] theorem Stream.setX_logSerial (st : Stream) (n : Fin 64) (v : Word) : (st.setX n v).logSerial = st.logSerial := by
  unfold Stream.setX; split <;> rfl
@[simp] theorem Stream.setX_yielded (st : Stream) (n : Fin 64) (v : Word) : (st.setX n v).yielded = st.yielded := by
  unfold Stream.setX; split <;> rfl
@[simp] theorem Stream.setX_stripBody (st : Stream) (n : Fin 64) (v : Word) : (st.setX n v).stripBody = st.stripBody := by
  unfold Stream.setX; split <;> rfl
@[simp] theorem Stream.setX_line (st : Stream) (n : Fin 64) (v : Word) : (st.setX n v).line = st.line := by
  unfold Stream.setX; split <;> rfl
@[simp] theorem Stream.setX_captured (st : Stream) (n : Fin 64) (v : Word) : (st.setX n v).captured = st.captured := by
  unfold Stream.setX; split <;> rfl
@[simp] theorem Stream.setX_storing (st : Stream) (n : Fin 64) (v : Word) : (st.setX n v).storing = st.storing := by
  unfold Stream.setX; split <;> rfl
@[simp] theorem Stream.setX_xmarks (st : Stream) (n : Fin 64) (v : Word) : (st.setX n v).xmarks = st.xmarks := by
  unfold Stream.setX; split <;> rfl
@[simp] theorem Stream.setX_drained (st : Stream) (n : Fin 64) (v : Word) : (st.setX n v).drained = st.drained := by
  unfold Stream.setX; split <;> rfl
@[simp] theorem Stream.setX_copied (st : Stream) (n : Fin 64) (v : Word) : (st.setX n v).copied = st.copied := by
  unfold Stream.setX; split <;> rfl
@[simp] theorem Stream.setP_x (st : Stream) (n : Fin 8) (b : Bool) : (st.setP n b).x = st.x := by
  unfold Stream.setP; split <;> rfl
@[simp] theorem Stream.setP_pc (st : Stream) (n : Fin 8) (b : Bool) : (st.setP n b).pc = st.pc := by
  unfold Stream.setP; split <;> rfl
@[simp] theorem Stream.setP_ls0 (st : Stream) (n : Fin 8) (b : Bool) : (st.setP n b).ls0 = st.ls0 := by
  unfold Stream.setP; split <;> rfl
@[simp] theorem Stream.setP_le0 (st : Stream) (n : Fin 8) (b : Bool) : (st.setP n b).le0 = st.le0 := by
  unfold Stream.setP; split <;> rfl
@[simp] theorem Stream.setP_lc0 (st : Stream) (n : Fin 8) (b : Bool) : (st.setP n b).lc0 = st.lc0 := by
  unfold Stream.setP; split <;> rfl
@[simp] theorem Stream.setP_ls1 (st : Stream) (n : Fin 8) (b : Bool) : (st.setP n b).ls1 = st.ls1 := by
  unfold Stream.setP; split <;> rfl
@[simp] theorem Stream.setP_le1 (st : Stream) (n : Fin 8) (b : Bool) : (st.setP n b).le1 = st.le1 := by
  unfold Stream.setP; split <;> rfl
@[simp] theorem Stream.setP_lc1 (st : Stream) (n : Fin 8) (b : Bool) : (st.setP n b).lc1 = st.lc1 := by
  unfold Stream.setP; split <;> rfl
@[simp] theorem Stream.setP_det (st : Stream) (n : Fin 8) (b : Bool) : (st.setP n b).det = st.det := by
  unfold Stream.setP; split <;> rfl
@[simp] theorem Stream.setP_ssm (st : Stream) (n : Fin 8) (b : Bool) : (st.setP n b).ssm = st.ssm := by
  unfold Stream.setP; split <;> rfl
@[simp] theorem Stream.setP_strm (st : Stream) (n : Fin 8) (b : Bool) : (st.setP n b).strm = st.strm := by
  unfold Stream.setP; split <;> rfl
@[simp] theorem Stream.setP_depth (st : Stream) (n : Fin 8) (b : Bool) : (st.setP n b).depth = st.depth := by
  unfold Stream.setP; split <;> rfl
@[simp] theorem Stream.setP_le (st : Stream) (n : Fin 8) (b : Bool) : (st.setP n b).le = st.le := by
  unfold Stream.setP; split <;> rfl
@[simp] theorem Stream.setP_priv (st : Stream) (n : Fin 8) (b : Bool) : (st.setP n b).priv = st.priv := by
  unfold Stream.setP; split <;> rfl
@[simp] theorem Stream.setP_tvec (st : Stream) (n : Fin 8) (b : Bool) : (st.setP n b).tvec = st.tvec := by
  unfold Stream.setP; split <;> rfl
@[simp] theorem Stream.setP_tpc (st : Stream) (n : Fin 8) (b : Bool) : (st.setP n b).tpc = st.tpc := by
  unfold Stream.setP; split <;> rfl
@[simp] theorem Stream.setP_tcause (st : Stream) (n : Fin 8) (b : Bool) : (st.setP n b).tcause = st.tcause := by
  unfold Stream.setP; split <;> rfl
@[simp] theorem Stream.setP_tval (st : Stream) (n : Fin 8) (b : Bool) : (st.setP n b).tval = st.tval := by
  unfold Stream.setP; split <;> rfl
@[simp] theorem Stream.setP_telem (st : Stream) (n : Fin 8) (b : Bool) : (st.setP n b).telem = st.telem := by
  unfold Stream.setP; split <;> rfl
@[simp] theorem Stream.setP_tlane (st : Stream) (n : Fin 8) (b : Bool) : (st.setP n b).tlane = st.tlane := by
  unfold Stream.setP; split <;> rfl
@[simp] theorem Stream.setP_tstat (st : Stream) (n : Fin 8) (b : Bool) : (st.setP n b).tstat = st.tstat := by
  unfold Stream.setP; split <;> rfl
@[simp] theorem Stream.setP_tscratch0 (st : Stream) (n : Fin 8) (b : Bool) : (st.setP n b).tscratch0 = st.tscratch0 := by
  unfold Stream.setP; split <;> rfl
@[simp] theorem Stream.setP_tscratch1 (st : Stream) (n : Fin 8) (b : Bool) : (st.setP n b).tscratch1 = st.tscratch1 := by
  unfold Stream.setP; split <;> rfl
@[simp] theorem Stream.setP_tscratch2 (st : Stream) (n : Fin 8) (b : Bool) : (st.setP n b).tscratch2 = st.tscratch2 := by
  unfold Stream.setP; split <;> rfl
@[simp] theorem Stream.setP_tscratch3 (st : Stream) (n : Fin 8) (b : Bool) : (st.setP n b).tscratch3 = st.tscratch3 := by
  unfold Stream.setP; split <;> rfl
@[simp] theorem Stream.setP_icount (st : Stream) (n : Fin 8) (b : Bool) : (st.setP n b).icount = st.icount := by
  unfold Stream.setP; split <;> rfl
@[simp] theorem Stream.setP_atoms (st : Stream) (n : Fin 8) (b : Bool) : (st.setP n b).atoms = st.atoms := by
  unfold Stream.setP; split <;> rfl
@[simp] theorem Stream.setP_hash (st : Stream) (n : Fin 8) (b : Bool) : (st.setP n b).hash = st.hash := by
  unfold Stream.setP; split <;> rfl
@[simp] theorem Stream.setP_hashShadow (st : Stream) (n : Fin 8) (b : Bool) : (st.setP n b).hashShadow = st.hashShadow := by
  unfold Stream.setP; split <;> rfl
@[simp] theorem Stream.setP_stripAct (st : Stream) (n : Fin 8) (b : Bool) : (st.setP n b).stripAct = st.stripAct := by
  unfold Stream.setP; split <;> rfl
@[simp] theorem Stream.setP_stripNum (st : Stream) (n : Fin 8) (b : Bool) : (st.setP n b).stripNum = st.stripNum := by
  unfold Stream.setP; split <;> rfl
@[simp] theorem Stream.setP_stripLen (st : Stream) (n : Fin 8) (b : Bool) : (st.setP n b).stripLen = st.stripLen := by
  unfold Stream.setP; split <;> rfl
@[simp] theorem Stream.setP_stripEnd (st : Stream) (n : Fin 8) (b : Bool) : (st.setP n b).stripEnd = st.stripEnd := by
  unfold Stream.setP; split <;> rfl
@[simp] theorem Stream.setP_stripArgs (st : Stream) (n : Fin 8) (b : Bool) : (st.setP n b).stripArgs = st.stripArgs := by
  unfold Stream.setP; split <;> rfl
@[simp] theorem Stream.setP_dval (st : Stream) (n : Fin 8) (b : Bool) : (st.setP n b).dval = st.dval := by
  unfold Stream.setP; split <;> rfl
@[simp] theorem Stream.setP_dkind (st : Stream) (n : Fin 8) (b : Bool) : (st.setP n b).dkind = st.dkind := by
  unfold Stream.setP; split <;> rfl
@[simp] theorem Stream.setP_live (st : Stream) (n : Fin 8) (b : Bool) : (st.setP n b).live = st.live := by
  unfold Stream.setP; split <;> rfl
@[simp] theorem Stream.setP_started (st : Stream) (n : Fin 8) (b : Bool) : (st.setP n b).started = st.started := by
  unfold Stream.setP; split <;> rfl
@[simp] theorem Stream.setP_waiting (st : Stream) (n : Fin 8) (b : Bool) : (st.setP n b).waiting = st.waiting := by
  unfold Stream.setP; split <;> rfl
@[simp] theorem Stream.setP_bars (st : Stream) (n : Fin 8) (b : Bool) : (st.setP n b).bars = st.bars := by
  unfold Stream.setP; split <;> rfl
@[simp] theorem Stream.setP_barWait (st : Stream) (n : Fin 8) (b : Bool) : (st.setP n b).barWait = st.barWait := by
  unfold Stream.setP; split <;> rfl
@[simp] theorem Stream.setP_blocked (st : Stream) (n : Fin 8) (b : Bool) : (st.setP n b).blocked = st.blocked := by
  unfold Stream.setP; split <;> rfl
@[simp] theorem Stream.setP_blockedVec (st : Stream) (n : Fin 8) (b : Bool) : (st.setP n b).blockedVec = st.blockedVec := by
  unfold Stream.setP; split <;> rfl
@[simp] theorem Stream.setP_faultWait (st : Stream) (n : Fin 8) (b : Bool) : (st.setP n b).faultWait = st.faultWait := by
  unfold Stream.setP; split <;> rfl
@[simp] theorem Stream.setP_declined (st : Stream) (n : Fin 8) (b : Bool) : (st.setP n b).declined = st.declined := by
  unfold Stream.setP; split <;> rfl
@[simp] theorem Stream.setP_targetFault (st : Stream) (n : Fin 8) (b : Bool) : (st.setP n b).targetFault = st.targetFault := by
  unfold Stream.setP; split <;> rfl
@[simp] theorem Stream.setP_deferred (st : Stream) (n : Fin 8) (b : Bool) : (st.setP n b).deferred = st.deferred := by
  unfold Stream.setP; split <;> rfl
@[simp] theorem Stream.setP_reads (st : Stream) (n : Fin 8) (b : Bool) : (st.setP n b).reads = st.reads := by
  unfold Stream.setP; split <;> rfl
@[simp] theorem Stream.setP_stage (st : Stream) (n : Fin 8) (b : Bool) : (st.setP n b).stage = st.stage := by
  unfold Stream.setP; split <;> rfl
@[simp] theorem Stream.setP_logSerial (st : Stream) (n : Fin 8) (b : Bool) : (st.setP n b).logSerial = st.logSerial := by
  unfold Stream.setP; split <;> rfl
@[simp] theorem Stream.setP_yielded (st : Stream) (n : Fin 8) (b : Bool) : (st.setP n b).yielded = st.yielded := by
  unfold Stream.setP; split <;> rfl
@[simp] theorem Stream.setP_stripBody (st : Stream) (n : Fin 8) (b : Bool) : (st.setP n b).stripBody = st.stripBody := by
  unfold Stream.setP; split <;> rfl
@[simp] theorem Stream.setP_line (st : Stream) (n : Fin 8) (b : Bool) : (st.setP n b).line = st.line := by
  unfold Stream.setP; split <;> rfl
@[simp] theorem Stream.setP_captured (st : Stream) (n : Fin 8) (b : Bool) : (st.setP n b).captured = st.captured := by
  unfold Stream.setP; split <;> rfl
@[simp] theorem Stream.setP_storing (st : Stream) (n : Fin 8) (b : Bool) : (st.setP n b).storing = st.storing := by
  unfold Stream.setP; split <;> rfl
@[simp] theorem Stream.setP_xmarks (st : Stream) (n : Fin 8) (b : Bool) : (st.setP n b).xmarks = st.xmarks := by
  unfold Stream.setP; split <;> rfl
@[simp] theorem Stream.setP_drained (st : Stream) (n : Fin 8) (b : Bool) : (st.setP n b).drained = st.drained := by
  unfold Stream.setP; split <;> rfl
@[simp] theorem Stream.setP_copied (st : Stream) (n : Fin 8) (b : Bool) : (st.setP n b).copied = st.copied := by
  unfold Stream.setP; split <;> rfl

/-! Hart.setStream. -/

@[simp] theorem Hart.setStream_serial (h : Hart) (isX : Bool) (st : Stream) : (h.setStream isX st).serial = h.serial := by
  cases isX <;> rfl
@[simp] theorem Hart.setStream_index (h : Hart) (isX : Bool) (st : Stream) : (h.setStream isX st).index = h.index := by
  cases isX <;> rfl
@[simp] theorem Hart.setStream_shadow (h : Hart) (isX : Bool) (st : Stream) : (h.setStream isX st).shadow = h.shadow := by
  cases isX <;> rfl
@[simp] theorem Hart.setStream_held (h : Hart) (isX : Bool) (st : Stream) : (h.setStream isX st).held = h.held := by
  cases isX <;> rfl
@[simp] theorem Hart.setStream_vl (h : Hart) (isX : Bool) (st : Stream) : (h.setStream isX st).vl = h.vl := by
  cases isX <;> rfl
@[simp] theorem Hart.setStream_rc (h : Hart) (isX : Bool) (st : Stream) : (h.setStream isX st).rc = h.rc := by
  cases isX <;> rfl
@[simp] theorem Hart.setStream_vstart (h : Hart) (isX : Bool) (st : Stream) : (h.setStream isX st).vstart = h.vstart := by
  cases isX <;> rfl
@[simp] theorem Hart.setStream_allot (h : Hart) (isX : Bool) (st : Stream) : (h.setStream isX st).allot = h.allot := by
  cases isX <;> rfl
@[simp] theorem Hart.setStream_lanes (h : Hart) (isX : Bool) (st : Stream) : (h.setStream isX st).lanes = h.lanes := by
  cases isX <;> rfl
@[simp] theorem Hart.setStream_rmode (h : Hart) (isX : Bool) (st : Stream) : (h.setStream isX st).rmode = h.rmode := by
  cases isX <;> rfl
@[simp] theorem Hart.setStream_srseed (h : Hart) (isX : Bool) (st : Stream) : (h.setStream isX st).srseed = h.srseed := by
  cases isX <;> rfl
@[simp] theorem Hart.setStream_ovft (h : Hart) (isX : Bool) (st : Stream) : (h.setStream isX st).ovft = h.ovft := by
  cases isX <;> rfl
@[simp] theorem Hart.setStream_v (h : Hart) (isX : Bool) (st : Stream) : (h.setStream isX st).v = h.v := by
  cases isX <;> rfl
@[simp] theorem Hart.setStream_vdirty (h : Hart) (isX : Bool) (st : Stream) : (h.setStream isX st).vdirty = h.vdirty := by
  cases isX <;> rfl
@[simp] theorem Hart.setStream_vhw (h : Hart) (isX : Bool) (st : Stream) : (h.setStream isX st).vhw = h.vhw := by
  cases isX <;> rfl
@[simp] theorem Hart.setStream_k (h : Hart) (isX : Bool) (st : Stream) : (h.setStream isX st).k = h.k := by
  cases isX <;> rfl
@[simp] theorem Hart.setStream_mstack (h : Hart) (isX : Bool) (st : Stream) : (h.setStream isX st).mstack = h.mstack := by
  cases isX <;> rfl
@[simp] theorem Hart.setStream_q (h : Hart) (isX : Bool) (st : Stream) : (h.setStream isX st).q = h.q := by
  cases isX <;> rfl
@[simp] theorem Hart.setStream_vq (h : Hart) (isX : Bool) (st : Stream) : (h.setStream isX st).vq = h.vq := by
  cases isX <;> rfl
@[simp] theorem Hart.setStream_bqa (h : Hart) (isX : Bool) (st : Stream) : (h.setStream isX st).bqa = h.bqa := by
  cases isX <;> rfl
@[simp] theorem Hart.setStream_bqx (h : Hart) (isX : Bool) (st : Stream) : (h.setStream isX st).bqx = h.bqx := by
  cases isX <;> rfl
@[simp] theorem Hart.setStream_g (h : Hart) (isX : Bool) (st : Stream) : (h.setStream isX st).g = h.g := by
  cases isX <;> rfl
@[simp] theorem Hart.setStream_ovt (h : Hart) (isX : Bool) (st : Stream) : (h.setStream isX st).ovt = h.ovt := by
  cases isX <;> rfl
@[simp] theorem Hart.setStream_sideLog (h : Hart) (isX : Bool) (st : Stream) : (h.setStream isX st).sideLog = h.sideLog := by
  cases isX <;> rfl
@[simp] theorem Hart.setStream_nextSerial (h : Hart) (isX : Bool) (st : Stream) : (h.setStream isX st).nextSerial = h.nextSerial := by
  cases isX <;> rfl
@[simp] theorem Hart.setStream_nextEntry (h : Hart) (isX : Bool) (st : Stream) : (h.setStream isX st).nextEntry = h.nextEntry := by
  cases isX <;> rfl
@[simp] theorem Hart.setStream_claim (h : Hart) (isX : Bool) (st : Stream) : (h.setStream isX st).claim = h.claim := by
  cases isX <;> rfl
@[simp] theorem Hart.setStream_inflight (h : Hart) (isX : Bool) (st : Stream) : (h.setStream isX st).inflight = h.inflight := by
  cases isX <;> rfl
@[simp] theorem Hart.setStream_vfault (h : Hart) (isX : Bool) (st : Stream) : (h.setStream isX st).vfault = h.vfault := by
  cases isX <;> rfl
@[simp] theorem Hart.setStream_mmodes (h : Hart) (isX : Bool) (st : Stream) : (h.setStream isX st).mmodes = h.mmodes := by
  cases isX <;> rfl
@[simp] theorem Hart.setStream_movf (h : Hart) (isX : Bool) (st : Stream) : (h.setStream isX st).movf = h.movf := by
  cases isX <;> rfl
@[simp] theorem Hart.setStream_svN (h : Hart) (isX : Bool) (st : Stream) : (h.setStream isX st).svN = h.svN := by
  cases isX <;> rfl
@[simp] theorem Hart.setStream_svBuf (h : Hart) (isX : Bool) (st : Stream) : (h.setStream isX st).svBuf = h.svBuf := by
  cases isX <;> rfl
@[simp] theorem Hart.setStream_svLost (h : Hart) (isX : Bool) (st : Stream) : (h.setStream isX st).svLost = h.svLost := by
  cases isX <;> rfl
@[simp] theorem Hart.setStream_svRd (h : Hart) (isX : Bool) (st : Stream) : (h.setStream isX st).svRd = h.svRd := by
  cases isX <;> rfl
@[simp] theorem Hart.setStream_svOcc (h : Hart) (isX : Bool) (st : Stream) : (h.setStream isX st).svOcc = h.svOcc := by
  cases isX <;> rfl
@[simp] theorem Hart.setStream_svCount (h : Hart) (isX : Bool) (st : Stream) : (h.setStream isX st).svCount = h.svCount := by
  cases isX <;> rfl
@[simp] theorem Hart.setStream_svPend (h : Hart) (isX : Bool) (st : Stream) : (h.setStream isX st).svPend = h.svPend := by
  cases isX <;> rfl
@[simp] theorem Hart.setStream_wva (h : Hart) (isX : Bool) (st : Stream) : (h.setStream isX st).wva = h.wva := by
  cases isX <;> rfl
@[simp] theorem Hart.setStream_wctl (h : Hart) (isX : Bool) (st : Stream) : (h.setStream isX st).wctl = h.wctl := by
  cases isX <;> rfl
@[simp] theorem Hart.setStream_drains (h : Hart) (isX : Bool) (st : Stream) : (h.setStream isX st).drains = h.drains := by
  cases isX <;> rfl
@[simp] theorem Hart.setStream_trains (h : Hart) (isX : Bool) (st : Stream) : (h.setStream isX st).trains = h.trains := by
  cases isX <;> rfl
@[simp] theorem Hart.setStream_vmarks (h : Hart) (isX : Bool) (st : Stream) : (h.setStream isX st).vmarks = h.vmarks := by
  cases isX <;> rfl
@[simp] theorem Hart.stream_setStream_self (h : Hart) (isX : Bool) (st : Stream) : (h.setStream isX st).stream isX = st :=
  by
  cases isX <;> rfl
@[simp] theorem Hart.stream_setStream_other (h : Hart) (isX : Bool) (st : Stream) :
    (h.setStream isX st).stream (!isX) = h.stream (!isX) := by cases isX <;> rfl

end Sys2Proof.Machine
end

