-- ==== Sys2Proof/Laws/Issue.lean ====
section
/-! SUPPORT. What the issue of an instruction and its shared operations do: the checks before a body, reading and writing
operands, retiring, and taking an exception. -/

namespace Sys2Proof.Machine

open Sys2Proof

theorem State.stream_of_some {s : State} {p : Party} {st : Stream} (h : s.stream? p = some st) : s.stream p = st := by
  simp [State.stream, h]

/-- Nothing is put back where an instruction saw the hart as it is. -/
@[simp] theorem State.putBack_none (s : State) : s.putBack none = s := rfl

/-- An outcome whose next state does not change. -/
theorem mapNext_id (o : Host.Outcome State Fault Refusal) : (mapNext o fun t => t) = o := by cases o <;> rfl

/-- A stream that runs and has nothing in hand issues its instruction (02 R87). -/
theorem runHart_fresh {i : Instr} {h : Hdr} {body : M Ctl} {s : State} {st : Stream} (hst : s.stream? s.cur = some st)
    (hl : st.live = true) (hc : st.captured = none) : runHart i h body s = issueHart i h body none s st := by
  simp [runHart, hst, hl, hc]

/-- An instruction that goes on after a wait sees what it captured at issue, and leaves the hart what it holds since
(08 R335, 10 R413). -/
theorem runHart_resumed {i : Instr} {h : Hdr} {body : M Ctl} {s : State} {st : Stream} {c : Capture}
    (hst : s.stream? s.cur = some st) (hl : st.live = true) (hc : st.captured = some c) :
    runHart i h body s = issueHart i h body (some (s.hart s.cur.slot).capture) (s.resumed c) st := by
  simp [runHart, hst, hl, hc]

/-- An instruction that issues does what its body does. -/
theorem runHart_issues {i : Instr} {h : Hdr} {body : M Ctl} {s : State} (hi : Issues i h s) :
    runHart i h body s = match body s with
      | .ok ctl t => .next (conclude i h none s ctl (clearMarks i (flushReqs i t)))
      | .error e t => answerExc (Instr.isVector i) (restartAt (namesVq i) (isCollective i) (s.hart s.cur.slot))
          (!Instr.isVector i) s e (flushExc i e t) := by
  obtain ⟨st, hst, hl, hc⟩ := hi.live
  have hg := hi.guard
  rw [State.stream_of_some hst] at hg
  simp only [runHart_fresh hst hl hc, issueHart, State.putBack, mapNext_id, hi.clear, hg, hi.scalars, hi.queues, hi.marks, Bool.not_true,
    Bool.false_eq_true, if_false]
  all_goals (cases body s <;> rfl)

/-- What a body leaves is the instruction's effect, where its end action makes no loop return that the start forbids. -/
theorem conclude_eq_finish {i : Instr} {h : Hdr} {s t : State} {ctl : Ctl} (hr : ReturnLegal i ctl t) :
    conclude i h none s ctl (clearMarks i (flushReqs i t)) = finish i h s ctl t := by
  simp only [ReturnLegal] at hr
  simp only [conclude, State.putBack, hr, finish]

/-- An instruction whose body ends well finishes. -/
theorem runHart_ok {i : Instr} {h : Hdr} {body : M Ctl} {s t : State} {ctl : Ctl} (hi : Issues i h s)
    (hb : body s = .ok ctl t) (hr : ReturnLegal i ctl t) : runHart i h body s = .next (finish i h s ctl t) := by
  rw [runHart_issues hi, hb]
  exact congrArg Host.Outcome.next (conclude_eq_finish hr)

/-- An instruction of one effect whose body ends well finishes at the successor. -/
theorem runSeq_ok {i : Instr} {h : Hdr} {body : M Unit} {s t : State} (hi : Issues i h s)
    (hb : body s = .ok () t) (hr : ReturnLegal i .next t) : runSeq i h body s = .next (finish i h s .next t) := by
  apply runHart_ok hi _ hr
  simp [seqBody, bind, EStateM.bind, hb, pure, EStateM.pure]

/-- A false guard: the instruction only retires (02 R73). -/
theorem runHart_guarded {i : Instr} {h : Hdr} {body : M Ctl} {s : State} {st : Stream}
    (hst : s.stream? s.cur = some st) (hl : st.live = true) (hn : st.captured = none) (hc : issueTrap s i = none)
    (hg : guardTrue st h = false) (hr : badReturn .next s = none) :
    runHart i h body s = .next (retire i h (!st.priv) .next s) := by
  simp [runHart_fresh hst hl hn, issueHart, hc, hg, conclude, State.putBack, hr, State.stream_of_some hst]

/-! Operands. -/

@[simp] theorem readX_x (n : Fin 64) (s : State) : readX (.x n) s = .ok (s.xval (.x n)) s := rfl

/-- An x-class source can be read: a queue has an entry. -/
def State.hasX (s : State) : XOp → Prop
  | .x _ => True
  | .q n => (s.hart s.cur.slot).q.get n.val [] ≠ []

theorem readX_ok {a : XOp} {s : State} (h : s.hasX a) : readX a s = .ok (s.xval a) (s.xpop a) := by
  match a with
  | .x n => rfl
  | .q n =>
    obtain ⟨w, r, hq⟩ := List.exists_cons_of_ne_nil h
    have e : readX (.q n) s = (match (s.hart s.cur.slot).q.get n.val [] with
      | [] => (waitHere : M Word)
      | w :: r => do
        modHart fun h => { h with q := h.q.put n.val r }
        pure w) s := rfl
    rw [e, hq]
    simp only [State.xval, State.xpop, hq, List.headD_cons, List.tail_cons]
    rfl

theorem bind_ok {α β : Type} {x : M α} {f : α → M β} {s t : State} {a : α} (h : x s = .ok a t) :
    (x >>= f) s = f a t := by
  simp [bind, EStateM.bind, h]

theorem bind_readX {β : Type} {a : XOp} {s : State} (f : Word → M β) (h : s.hasX a) :
    (readX a >>= f) s = f (s.xval a) (s.xpop a) := bind_ok (readX_ok h)

@[simp] theorem State.xpop_cur (s : State) (a : XOp) : (s.xpop a).cur = s.cur := by
  cases a <;> rfl

theorem State.hart_setHart (s : State) (slot : Nat) (h : Hart) : (s.setHart slot h).hart slot = h := by
  simp [State.hart, State.setHart, Assoc.get, Assoc.get?_put_self]

/-- A blocked need is found whatever stands after it: with none, each read has an entry left for it. -/
theorem firstBlocked_read {h : Hart} {seen pre post : List (Nat × Bool)} {c : Nat}
    (hb : firstBlocked h seen (pre ++ (c, false) :: post) = none) :
    ((seen ++ pre).filter fun d => d.1 == c && d.2 == false).length < (queueLen h c).1 := by
  induction pre generalizing seen with
  | nil =>
    simp only [List.nil_append, firstBlocked] at hb
    split at hb
    · simp at hb
    · rename_i hc
      simpa using hc
  | cons d r ih =>
    obtain ⟨c', w'⟩ := d
    simp only [List.cons_append, firstBlocked] at hb
    split at hb
    · simp at hb
    · simpa using ih hb

/-- No queue blocks an instruction whose needs are those of its operand fields. -/
theorem Issues.unblocked {i : Instr} {h : Hdr} {s : State} (hi : Issues i h s)
    (hn : queueNeeds s i = i.uses.filterMap Use.queue?) :
    firstBlocked (s.hart s.cur.slot) [] (i.uses.filterMap Use.queue?) = none := by
  have := hi.queues
  rw [queueBlocked, hn] at this
  simpa using this

theorem queueLen_x (h : Hart) (n : Fin 8) : (queueLen h (64 + n.val)).1 = (h.q.get n.val []).length := by
  have h1 : 64 + n.val ≠ 0x100 := by omega
  have h2 : 64 + n.val ≠ 0x101 := by omega
  have h3 : 64 + n.val < 72 := by omega
  simp [queueLen, h1, h2, h3]

theorem hasX_of_len {s : State} {n : Fin 8} (h : 0 < ((s.hart s.cur.slot).q.get n.val []).length) :
    s.hasX (.q n) := by
  intro he
  simp [he] at h

/-- The first source of an instruction that issues can be read. -/
theorem Issues.has1 {i : Instr} {h : Hdr} {s : State} {a : XOp} {rest : List Use} (hi : Issues i h s)
    (hn : queueNeeds s i = i.uses.filterMap Use.queue?) (hu : i.uses = .rx a :: rest) : s.hasX a := by
  match a with
  | .x _ => trivial
  | .q n =>
    have hb := hi.unblocked hn
    rw [hu] at hb
    have := firstBlocked_read (pre := []) (seen := []) (c := 64 + n.val) (by simpa [Use.queue?, XOp.queue?] using hb)
    rw [queueLen_x] at this
    exact hasX_of_len (by simpa using this)

theorem State.xpop_q_get (s : State) (n m : Fin 8) :
    ((s.xpop (.q n)).hart s.cur.slot).q.get m.val [] =
      if n = m then ((s.hart s.cur.slot).q.get m.val []).tail else (s.hart s.cur.slot).q.get m.val [] := by
  simp only [State.xpop, State.hart_setHart]
  split
  · rename_i h
    subst h
    simp [Assoc.get, Assoc.get?_put_self]
  · rename_i h
    have : m.val ≠ n.val := fun e => h (Fin.ext e.symm)
    simp [Assoc.get, Assoc.get?_put_ne _ _ this]

/-- The second source can be read once the first has been. -/
theorem Issues.has2 {i : Instr} {h : Hdr} {s : State} {a b : XOp} {rest : List Use} (hi : Issues i h s)
    (hn : queueNeeds s i = i.uses.filterMap Use.queue?) (hu : i.uses = .rx a :: .rx b :: rest) :
    (s.xpop a).hasX b := by
  match a, b with
  | _, .x _ => trivial
  | .x k, .q m =>
    have hb := hi.unblocked hn
    rw [hu, List.filterMap_cons_none (show Use.queue? (.rx (.x k)) = none from rfl)] at hb
    have := firstBlocked_read (pre := []) (seen := []) (c := 64 + m.val) (by simpa [Use.queue?, XOp.queue?] using hb)
    rw [queueLen_x] at this
    exact hasX_of_len (s := s.xpop (.x k)) (by simpa [State.xpop] using this)
  | .q n, .q m =>
    have hb := hi.unblocked hn
    rw [hu] at hb
    have := firstBlocked_read (pre := [(64 + n.val, false)]) (seen := []) (c := 64 + m.val)
      (by simpa [Use.queue?, XOp.queue?] using hb)
    rw [queueLen_x] at this
    apply hasX_of_len
    rw [State.xpop_cur, State.xpop_q_get]
    by_cases e : n = m
    · subst e
      simp at this
      simpa using this
    · have e' : ¬ n.val = m.val := fun x => e (Fin.ext x)
      simp [e'] at this
      simpa [e] using this

@[simp] theorem writeX_ok (d : XOp) (w : Word) (s : State) : writeX d w s = .ok () (s.xput d w) := by
  cases d <;> rfl

@[simp] theorem readP_ok (n : Fin 8) (s : State) : readP n s = .ok (s.pval n) s := rfl

@[simp] theorem writeP_ok (n : Fin 8) (b : Bool) (s : State) : writeP n b s = .ok () (s.pput n b) := rfl

@[simp] theorem modStream_ok (f : Stream → Stream) (s : State) : modStream f s = .ok () (s.upStream f) := rfl

@[simp] theorem modHart_ok (f : Hart → Hart) (s : State) : modHart f s = .ok () (s.upHart f) := rfl

end Sys2Proof.Machine
end

