-- ==== Sys2Proof/Laws/Control.lean ====
section
/-! SUPPORT. All that the issue of an instruction can come to, and what taking an exception and returning from one do. -/

namespace Sys2Proof.Machine

open Sys2Proof

/-- All that issuing an instruction can come to (02 R87): a trap of the checks, a false guard, a scalar result or a queue that
is waited for, a marked register, the effect of the body, or the answer to what stopped the body. -/
theorem issueHart_cases (i : Instr) (h : Hdr) (body : M Ctl) (own : Option Capture) (s : State) (st : Stream) :
    (∃ c v, issueTrap s i = some (c, v) ∧ issueHart i h body own s st = .next ((trapAt s (Instr.isVector i) c v).putBack own)) ∨
    issueTrap s i = none ∧
      (guardTrue st h = false ∧ issueHart i h body own s st = .next (conclude i h own s .next s) ∨
       guardTrue st h = true ∧
        (scalarBlocked s i = true ∧ issueHart i h body own s st = .next ((waits s).putBack own) ∨
         scalarBlocked s i = false ∧
          ((∃ code, queueBlocked s i = some code ∧ issueHart i h body own s st =
              .next ((waits (s.setStream s.cur
                { st with blocked := some code, blockedVec := Instr.isVector i })).putBack own)) ∨
           queueBlocked s i = none ∧
            ((∃ n, marked s i = some n ∧ issueHart i h body own s st =
                .next ((trapAt s (Instr.isVector i) causePoison (BitVec.ofNat 64 (2 ^ 63 + n))).putBack own)) ∨
             marked s i = none ∧
              ((∃ ctl t, body s = .ok ctl t ∧
                  issueHart i h body own s st = .next (conclude i h own s ctl (clearMarks i (flushReqs i t)))) ∨
               ∃ e t, body s = .error e t ∧ issueHart i h body own s st =
                 mapNext (answerExc (Instr.isVector i) (restartAt (namesVq i) (isCollective i) (s.hart s.cur.slot))
                   (!Instr.isVector i) s e (flushExc i e t)) fun t => t.putBack own))))) := by
  unfold issueHart
  cases hi : issueTrap s i with
  | some cv => exact .inl ⟨cv.1, cv.2, rfl, rfl⟩
  | none =>
    refine .inr ⟨rfl, ?_⟩
    cases hg : guardTrue st h with
    | false => exact .inl ⟨rfl, by simp⟩
    | true =>
      refine .inr ⟨rfl, ?_⟩
      cases hb : scalarBlocked s i with
      | true => exact .inl ⟨rfl, by simp⟩
      | false =>
        refine .inr ⟨rfl, ?_⟩
        cases hq : queueBlocked s i with
        | some code => exact .inl ⟨code, rfl, by simp⟩
        | none =>
          refine .inr ⟨rfl, ?_⟩
          cases hm : marked s i with
          | some n => exact .inl ⟨n, rfl, by simp⟩
          | none =>
            refine .inr ⟨rfl, ?_⟩
            cases hx : body s with
            | ok ctl t => exact .inl ⟨ctl, t, rfl, by simp⟩
            | error e t => exact .inr ⟨e, t, rfl, by simp⟩

/-- Whatever stopped a body, the answer is a next state (02 R102, R103; 06 R259; 08 R346). -/
theorem answerExc_next (vec : Bool) (restart : Nat → BitVec 13) (scalar : Bool) (s0 : State) (e : Exc) (s : State) :
    ∃ t, answerExc vec restart scalar s0 e s = .next t := by
  cases e <;> exact ⟨_, rfl⟩

/-- Issuing an instruction answers a next state. -/
theorem issueHart_next (i : Instr) (h : Hdr) (body : M Ctl) (own : Option Capture) (s : State) (st : Stream) :
    ∃ t, issueHart i h body own s st = .next t := by
  rcases issueHart_cases i h body own s st with
    ⟨c, v, -, e⟩ | ⟨-, ⟨-, e⟩ | ⟨-, ⟨-, e⟩ | ⟨-, ⟨c, -, e⟩ | ⟨-, ⟨n, -, e⟩ | ⟨-, ⟨c, t, -, e⟩ | ⟨x, t, -, e⟩⟩⟩⟩⟩⟩
  · exact ⟨_, e⟩
  · exact ⟨_, e⟩
  · exact ⟨_, e⟩
  · exact ⟨_, e⟩
  · exact ⟨_, e⟩
  · exact ⟨_, e⟩
  · obtain ⟨u, hu⟩ := answerExc_next (Instr.isVector i) (restartAt (namesVq i) (isCollective i) (s.hart s.cur.slot))
      (!Instr.isVector i) s x (flushExc i x t)
    exact ⟨_, by rw [e, hu]; rfl⟩

/-- The answer to an instruction of a stream is a next state, or there is no live stream. -/
theorem runHart_next (i : Instr) (h : Hdr) (body : M Ctl) (s : State) :
    (∃ t, runHart i h body s = .next t) ∨
    runHart i h body s = .fault .noActor ∧ ∀ st, s.stream? s.cur = some st → st.live = false := by
  cases hs : s.stream? s.cur with
  | none => exact .inr ⟨by simp [runHart, hs], by simp⟩
  | some st =>
    cases hl : st.live with
    | false => exact .inr ⟨by simp [runHart, hs, hl], by simp [hl]⟩
    | true =>
      left
      cases hc : st.captured with
      | none => rw [runHart_fresh hs hl hc]; exact issueHart_next ..
      | some c =>
        rw [runHart_resumed hs hl hc]; exact issueHart_next ..

/-- The trap record of a stream that takes an exception (05 R232). -/
theorem Stream.enter_fields (st : Stream) (cause : Nat) (tval tpc telem tlane : Word) :
    (st.enter cause tval tpc telem tlane).pc = st.tvec ∧ (st.enter cause tval tpc telem tlane).tpc = tpc ∧
    (st.enter cause tval tpc telem tlane).tval = tval ∧ (st.enter cause tval tpc telem tlane).priv = true ∧
    (st.enter cause tval tpc telem tlane).x = st.x := ⟨rfl, rfl, rfl, rfl, rfl⟩

/-- What a return restores (05 R235). -/
theorem Stream.leave_fields (st : Stream) :
    st.leave.pc = st.tpc ∧ st.leave.priv = st.tstat.getLsbD 0 ∧ st.leave.le = st.tstat.getLsbD 1 ∧
    st.leave.depth = st.depth - 1 ∧ st.leave.x = st.x := ⟨rfl, rfl, rfl, rfl, rfl⟩

end Sys2Proof.Machine
end

