-- ==== Sys2Proof/Laws/Encoding.lean ====
section
/-! SUPPORT. Laws of fields and codes: what was packed is unpacked, and every operand's code gives the operand back. -/

namespace Sys2Proof

/-- The width of a list of fields. -/
def packWidth (fs : List (Nat × Nat)) : Nat := (fs.map Prod.fst).sum

theorem pack_lt : ∀ fs : List (Nat × Nat), pack fs < 2 ^ packWidth fs
  | [] => by simp [pack, packWidth]
  | (w, v) :: r => by
    have h := pack_lt r
    have e : packWidth ((w, v) :: r) = w + packWidth r := by simp [packWidth]
    rw [e, pack, Nat.pow_add]
    have h1 : v % 2 ^ w < 2 ^ w := Nat.mod_lt _ (Nat.two_pow_pos w)
    calc v % 2 ^ w + 2 ^ w * pack r < 2 ^ w + 2 ^ w * pack r := Nat.add_lt_add_right h1 _
      _ = 2 ^ w * (pack r + 1) := by ring
      _ ≤ 2 ^ w * 2 ^ packWidth r := Nat.mul_le_mul_left _ h

/-- What was packed is unpacked, each field cut to its width. -/
theorem unpack_pack : ∀ fs : List (Nat × Nat), unpack (fs.map Prod.fst) (pack fs) = fs.map fun f => f.2 % 2 ^ f.1
  | [] => rfl
  | (w, v) :: r => by
    have h1 : v % 2 ^ w < 2 ^ w := Nat.mod_lt _ (Nat.two_pow_pos w)
    simp only [List.map_cons, unpack, pack, Nat.add_mul_mod_self_left, Nat.mod_mod,
      Nat.add_mul_div_left _ _ (Nat.two_pow_pos w), Nat.div_eq_of_lt h1, Nat.zero_add, unpack_pack r]

/-- The first field comes back first. -/
theorem unpack_cons_pack (w v : Nat) (ws : List Nat) (r : List (Nat × Nat)) :
    unpack (w :: ws) (pack ((w, v) :: r)) = v % 2 ^ w :: unpack ws (pack r) := by
  have h1 : v % 2 ^ w < 2 ^ w := Nat.mod_lt _ (Nat.two_pow_pos w)
  simp only [unpack, pack, Nat.add_mul_mod_self_left, Nat.mod_mod, Nat.add_mul_div_left _ _ (Nat.two_pow_pos w),
    Nat.div_eq_of_lt h1, Nat.zero_add]

/-- The list of widths that a field list has. -/
theorem unpack_eq {ws : List Nat} {fs : List (Nat × Nat)} (h : ws = fs.map Prod.fst) :
    unpack ws (pack fs) = fs.map fun f => f.2 % 2 ^ f.1 := by rw [h, unpack_pack]

/-! Codes. -/

@[simp] theorem XOp.code_lt (a : XOp) : a.code < 128 := by
  cases a <;> simp only [XOp.code] <;> omega

@[simp] theorem VOp.code_lt (a : VOp) : a.code < 128 := by
  cases a <;> simp only [VOp.code] <;> omega

@[simp] theorem xOp?_code (a : XOp) : xOp? a.code = some a := by
  cases a with
  | x n => simp [xOp?, XOp.code]
  | q n =>
    have h : ¬ (64 + n.val < 64) := by omega
    simp [xOp?, XOp.code, h]

@[simp] theorem vOp?_code (a : VOp) : vOp? a.code = some a := by
  cases a with
  | v n => simp [vOp?, VOp.code]
  | q n =>
    have h : ¬ (72 + n.val < 64) := by omega
    have h2 : ¬ (72 + n.val < 72) := by omega
    simp [vOp?, VOp.code, h]

@[simp] theorem fin?_val {n : Nat} (a : Fin n) : fin? n a.val = some a := by simp [fin?]

@[simp] theorem vSrc?_code (a : VSrc) : vSrc? a.isX.toNat a.code = some a := by
  cases a <;> simp [vSrc?, VSrc.isX, VSrc.code]

@[simp] theorem ty?_code (t : Ty) : ty? t.code = some t := by cases t <;> rfl
@[simp] theorem rnd?_code (t : Rnd) : rnd? t.code = some t := by cases t <;> rfl
@[simp] theorem scope?_code (t : Scope) : scope? t.code = some t := by cases t <;> rfl
@[simp] theorem optScope?_code (t : Option Scope) : optScope? (optScopeCode t) = some t := by
  match t with
  | none => rfl
  | some s => cases s <;> rfl
@[simp] theorem brCond?_code (t : BrCond) : brCond? t.code = some t := by cases t <;> rfl
@[simp] theorem cmpCond?_code (t : CmpCond) : cmpCond? t.code = some t := by cases t <;> rfl
@[simp] theorem vCond?_code (t : VCond) : vCond? t.code = some t := by cases t <;> rfl
@[simp] theorem fenceKind?_code (t : FenceKind) : fenceKind? t.code = some t := by cases t <;> rfl
@[simp] theorem redOp?_code (t : RedOp) : redOp? t.code = some t := by cases t <;> rfl
@[simp] theorem gOp?_code (t : GOp) : gOp? t.code = some t := by cases t <;> rfl
@[simp] theorem res?_code (t : Res) : res? t.code = some t := by cases t <;> rfl
@[simp] theorem lvlSel?_code (t : LvlSel) : lvlSel? t.code = some t := by cases t <;> rfl
@[simp] theorem wldDst?_code (t : WldDst) : wldDst? t.code = some t := by cases t <;> rfl
@[simp] theorem verMode?_code (t : VerMode) : verMode? t.code = some t := by cases t <;> rfl
@[simp] theorem lcTarget?_code (t : LcTarget) : lcTarget? t.code = some t := by cases t <;> rfl
@[simp] theorem legTy?_code (t : LegTy) : legTy? t.code = some t := by cases t <;> rfl

@[simp] theorem Ty.code_lt (t : Ty) : t.code < 32 := by cases t <;> decide
@[simp] theorem Rnd.code_lt (t : Rnd) : t.code < 8 := by cases t <;> decide
@[simp] theorem Scope.code_lt (t : Scope) : t.code < 8 := by cases t <;> decide
@[simp] theorem optScopeCode_lt (t : Option Scope) : optScopeCode t < 8 := by
  match t with
  | none => decide
  | some s => exact Scope.code_lt s
@[simp] theorem BrCond.code_lt (t : BrCond) : t.code < 8 := by cases t <;> decide
@[simp] theorem CmpCond.code_lt (t : CmpCond) : t.code < 8 := by cases t <;> decide
@[simp] theorem VCond.code_lt (t : VCond) : t.code < 8 := by cases t <;> decide
@[simp] theorem FenceKind.code_lt (t : FenceKind) : t.code < 4 := by cases t <;> decide
@[simp] theorem RedOp.code_lt (t : RedOp) : t.code < 8 := by cases t <;> decide
@[simp] theorem GOp.code_lt (t : GOp) : t.code < 4 := by cases t <;> decide
@[simp] theorem Res.code_lt (t : Res) : t.code < 4 := by cases t <;> decide
@[simp] theorem LvlSel.code_lt (t : LvlSel) : t.code < 8 := by cases t <;> decide
@[simp] theorem WldDst.code_lt (t : WldDst) : t.code < 4 := by cases t <;> decide
@[simp] theorem VerMode.code_lt (t : VerMode) : t.code < 4 := by cases t <;> decide
@[simp] theorem LcTarget.code_lt (t : LcTarget) : t.code < 8 := by cases t <;> decide
@[simp] theorem LegTy.code_lt (t : LegTy) : t.code < 4 := by cases t <;> decide
@[simp] theorem VSrc.code_lt (a : VSrc) : a.code < 128 := by cases a <;> simp [VSrc.code]
@[simp] theorem RedDst.code_lt (a : RedDst) : a.code < 128 := by cases a <;> simp [RedDst.code]
@[simp] theorem RedpDst.codeD_lt (a : RedpDst) : a.codeD < 128 := by cases a <;> simp [RedpDst.codeD]
@[simp] theorem RedpDst.codeE_lt (a : RedpDst) : a.codeE < 128 := by cases a <;> simp [RedpDst.codeE]
@[simp] theorem optVCode_lt (a : Option VOp) : optVCode a < 128 := by cases a <;> simp [optVCode]
@[simp] theorem LoopCount.regCode_lt (a : LoopCount) : a.regCode < 128 := by cases a <;> simp [LoopCount.regCode]
@[simp] theorem LoopCount.immCode_lt (a : LoopCount) : a.immCode < 8192 := by
  cases a with
  | reg a => simp [LoopCount.immCode]
  | imm n => exact n.isLt

@[simp] theorem memOp?_code (m : MemOp) : memOp? m.base.code m.idx.code m.scl.val m.disp.toNat = some m := by
  cases m
  simp [memOp?]

@[simp] theorem loopCount?_code (c : LoopCount) : loopCount? c.isImm.toNat c.regCode c.immCode = some c := by
  cases c <;> simp [loopCount?, LoopCount.isImm, LoopCount.regCode, LoopCount.immCode]

@[simp] theorem redDst?_code (d : RedDst) : redDst? d.isX.toNat d.code = some d := by
  cases d <;> simp [redDst?, RedDst.isX, RedDst.code]

@[simp] theorem redpDst?_code (d : RedpDst) : redpDst? d.isX.toNat d.codeD d.codeE = some d := by
  cases d <;> simp [redpDst?, RedpDst.isX, RedpDst.codeD, RedpDst.codeE]

@[simp] theorem optV?_code (o : Option VOp) : optV? o.isSome.toNat (optVCode o) = some o := by
  cases o <;> simp [optV?, optVCode]

/-- A bit is its number's parity. -/
@[simp] theorem toNat_beq_one (b : Bool) : (b.toNat == 1) = b := by cases b <;> rfl

@[simp] theorem streamCmd?_code (c : StreamCmd) : streamCmd? c.pitch.toNat c.kl.toNat c.cons.toNat c.asc.toNat
    c.at_.code c.row0.toNat c.m.toNat = some c := by
  cases c
  simp [streamCmd?]

@[simp] theorem drainCmd?_code (c : DrainCmd) : drainCmd? c.zero.toNat c.kn.toNat c.km.val c.rm.code c.t.code
    c.col0.toNat c.m.toNat c.row0.toNat = some c := by
  cases c
  simp [drainCmd?]

theorem Bool.toNat_mod_two (b : Bool) : b.toNat % 2 = b.toNat := by cases b <;> rfl

/-! A code fits its field. -/

theorem XOp.code_mod (a : XOp) : XOp.code a % 2 ^ 7 = XOp.code a := Nat.mod_eq_of_lt (XOp.code_lt a)
theorem VOp.code_mod (a : VOp) : VOp.code a % 2 ^ 7 = VOp.code a := Nat.mod_eq_of_lt (VOp.code_lt a)
theorem VSrc.code_mod (a : VSrc) : VSrc.code a % 2 ^ 7 = VSrc.code a := Nat.mod_eq_of_lt (VSrc.code_lt a)
theorem RedDst.code_mod (a : RedDst) : RedDst.code a % 2 ^ 7 = RedDst.code a := Nat.mod_eq_of_lt (RedDst.code_lt a)
theorem RedpDst.codeD_mod (a : RedpDst) : RedpDst.codeD a % 2 ^ 7 = RedpDst.codeD a := Nat.mod_eq_of_lt (RedpDst.codeD_lt a)
theorem RedpDst.codeE_mod (a : RedpDst) : RedpDst.codeE a % 2 ^ 7 = RedpDst.codeE a := Nat.mod_eq_of_lt (RedpDst.codeE_lt a)
theorem optVCode_mod (a : Option VOp) : optVCode a % 2 ^ 7 = optVCode a := Nat.mod_eq_of_lt (optVCode_lt a)
theorem LoopCount.regCode_mod (a : LoopCount) : LoopCount.regCode a % 2 ^ 7 = LoopCount.regCode a := Nat.mod_eq_of_lt (LoopCount.regCode_lt a)
theorem LoopCount.immCode_mod (a : LoopCount) : LoopCount.immCode a % 2 ^ 13 = LoopCount.immCode a := Nat.mod_eq_of_lt (LoopCount.immCode_lt a)
theorem Ty.code_mod (a : Ty) : Ty.code a % 2 ^ 5 = Ty.code a := Nat.mod_eq_of_lt (Ty.code_lt a)
theorem Rnd.code_mod (a : Rnd) : Rnd.code a % 2 ^ 3 = Rnd.code a := Nat.mod_eq_of_lt (Rnd.code_lt a)
theorem Scope.code_mod (a : Scope) : Scope.code a % 2 ^ 3 = Scope.code a := Nat.mod_eq_of_lt (Scope.code_lt a)
theorem optScopeCode_mod (a : Option Scope) : optScopeCode a % 2 ^ 3 = optScopeCode a := Nat.mod_eq_of_lt (optScopeCode_lt a)
theorem BrCond.code_mod (a : BrCond) : BrCond.code a % 2 ^ 3 = BrCond.code a := Nat.mod_eq_of_lt (BrCond.code_lt a)
theorem CmpCond.code_mod (a : CmpCond) : CmpCond.code a % 2 ^ 3 = CmpCond.code a := Nat.mod_eq_of_lt (CmpCond.code_lt a)
theorem VCond.code_mod (a : VCond) : VCond.code a % 2 ^ 3 = VCond.code a := Nat.mod_eq_of_lt (VCond.code_lt a)
theorem FenceKind.code_mod (a : FenceKind) : FenceKind.code a % 2 ^ 2 = FenceKind.code a := Nat.mod_eq_of_lt (FenceKind.code_lt a)
theorem RedOp.code_mod (a : RedOp) : RedOp.code a % 2 ^ 3 = RedOp.code a := Nat.mod_eq_of_lt (RedOp.code_lt a)
theorem GOp.code_mod (a : GOp) : GOp.code a % 2 ^ 2 = GOp.code a := Nat.mod_eq_of_lt (GOp.code_lt a)
theorem Res.code_mod (a : Res) : Res.code a % 2 ^ 2 = Res.code a := Nat.mod_eq_of_lt (Res.code_lt a)
theorem LvlSel.code_mod (a : LvlSel) : LvlSel.code a % 2 ^ 3 = LvlSel.code a := Nat.mod_eq_of_lt (LvlSel.code_lt a)
theorem WldDst.code_mod (a : WldDst) : WldDst.code a % 2 ^ 2 = WldDst.code a := Nat.mod_eq_of_lt (WldDst.code_lt a)
theorem VerMode.code_mod (a : VerMode) : VerMode.code a % 2 ^ 2 = VerMode.code a := Nat.mod_eq_of_lt (VerMode.code_lt a)
theorem LcTarget.code_mod (a : LcTarget) : LcTarget.code a % 2 ^ 3 = LcTarget.code a := Nat.mod_eq_of_lt (LcTarget.code_lt a)
theorem fin_mod {n : Nat} (a : Fin n) {k : Nat} (h : n ≤ 2 ^ k) : a.val % 2 ^ k = a.val :=
  Nat.mod_eq_of_lt (Nat.lt_of_lt_of_le a.isLt h)
theorem bits_mod {n : Nat} (a : BitVec n) {k : Nat} (h : n ≤ k) : a.toNat % 2 ^ k = a.toNat :=
  Nat.mod_eq_of_lt (Nat.lt_of_lt_of_le a.isLt (Nat.pow_le_pow_right (by decide) h))
theorem unpack_nil (n : Nat) : unpack [] n = [] := rfl

/-- The header and the body of a word come back from it (02 R72). -/
theorem parseWord_pack (h : Hdr) (maj fn body : Nat) (hm : maj < 256) (hf : fn < 64) (hb : body < 2 ^ 69) :
    parseWord (BitVec.ofNat 96 (pack ((69, body) :: h.fields maj fn))) = decodeBody maj fn h body := by
  have hlt : pack ((69, body) :: h.fields maj fn) < 2 ^ 96 := pack_lt ((69, body) :: h.fields maj fn)
  have hu : unpack hdrWidths (pack ((69, body) :: h.fields maj fn)) =
      [body, h.b.toNat, h.e.toNat, h.y.toNat, h.ch.val, h.gm.val, h.gmn.toNat, h.gp.val, h.gpn.toNat, fn, maj] := by
    have e0 : hdrWidths = ((69, body) :: h.fields maj fn).map Prod.fst := rfl
    rw [unpack_eq e0]
    have e1 : body % 2 ^ 69 = body := Nat.mod_eq_of_lt hb
    have e2 : maj % 2 ^ 8 = maj := Nat.mod_eq_of_lt hm
    have e3 : fn % 2 ^ 6 = fn := Nat.mod_eq_of_lt hf
    have e4 : h.ch.val % 2 ^ 2 = h.ch.val := Nat.mod_eq_of_lt h.ch.isLt
    have e5 : h.gm.val % 2 ^ 3 = h.gm.val := Nat.mod_eq_of_lt h.gm.isLt
    have e6 : h.gp.val % 2 ^ 3 = h.gp.val := Nat.mod_eq_of_lt h.gp.isLt
    simp only [Hdr.fields, List.map_cons, List.map_nil, e1, e2, e3, e4, e5, e6, pow_one, Bool.toNat_mod_two]
  have ht : (BitVec.ofNat 96 (pack ((69, body) :: h.fields maj fn))).toNat = pack ((69, body) :: h.fields maj fn) := by
    rw [BitVec.toNat_ofNat, Nat.mod_eq_of_lt hlt]
  simp only [parseWord, ht, hu]
  have g1 : Fin.ofNat 8 h.gp.val = h.gp := by ext; exact Nat.mod_eq_of_lt h.gp.isLt
  have g2 : Fin.ofNat 8 h.gm.val = h.gm := by ext; exact Nat.mod_eq_of_lt h.gm.isLt
  have g3 : Fin.ofNat 4 h.ch.val = h.ch := by ext; exact Nat.mod_eq_of_lt h.ch.isLt
  simp only [toNat_beq_one, g1, g2, g3]

end Sys2Proof
end

