-- ==== Sys2Proof/Laws/Exec.lean ====
section
/-! SUPPORT. Every instruction of a stream is issued by the shared operation `runHart` with a body of its own. -/

namespace Sys2Proof.Machine

open Sys2Proof

theorem exec_br (h : Hdr) {c} {a} {b} {off} : ∃ body : M Ctl, ∀ s,
    Sys2Proof.Machine.exec (.br h c a b off) s = runHart (.br h c a b off) h body s :=
  ⟨_, fun s => by
    show execBr h c a b off s = _
    unfold execBr
    exact rfl⟩
theorem exec_jmp (h : Hdr) {a} : ∃ body : M Ctl, ∀ s,
    Sys2Proof.Machine.exec (.jmp h a) s = runHart (.jmp h a) h body s :=
  ⟨_, fun s => by
    show execJmp h a s = _
    unfold execJmp
    exact rfl⟩
theorem exec_call (h : Hdr) {d} {off} : ∃ body : M Ctl, ∀ s,
    Sys2Proof.Machine.exec (.call h d off) s = runHart (.call h d off) h body s :=
  ⟨_, fun s => by
    show execCall h d off s = _
    unfold execCall
    exact rfl⟩
theorem exec_callr (h : Hdr) {d} {a} : ∃ body : M Ctl, ∀ s,
    Sys2Proof.Machine.exec (.callr h d a) s = runHart (.callr h d a) h body s :=
  ⟨_, fun s => by
    show execCallr h d a s = _
    unfold execCallr
    exact rfl⟩
theorem exec_ret (h : Hdr) {a} : ∃ body : M Ctl, ∀ s,
    Sys2Proof.Machine.exec (.ret h a) s = runHart (.ret h a) h body s :=
  ⟨_, fun s => by
    show execRet h a s = _
    unfold execRet
    exact rfl⟩
theorem exec_pushb (h : Hdr) {inv} {a} : ∃ body : M Ctl, ∀ s,
    Sys2Proof.Machine.exec (.pushb h inv a) s = runHart (.pushb h inv a) h body s :=
  ⟨_, fun s => by
    show execPushb h inv a s = _
    unfold execPushb runSeq
    exact rfl⟩
theorem exec_brq (h : Hdr) {z} {off} : ∃ body : M Ctl, ∀ s,
    Sys2Proof.Machine.exec (.brq h z off) s = runHart (.brq h z off) h body s :=
  ⟨_, fun s => by
    show execBrq h z off s = _
    unfold execBrq
    exact rfl⟩
theorem exec_loop (h : Hdr) {l} {c} {off} : ∃ body : M Ctl, ∀ s,
    Sys2Proof.Machine.exec (.loop h l c off) s = runHart (.loop h l c off) h body s :=
  ⟨_, fun s => by
    show execLoop h l c off s = _
    unfold execLoop
    exact rfl⟩
theorem exec_lexit (h : Hdr) {l} : ∃ body : M Ctl, ∀ s,
    Sys2Proof.Machine.exec (.lexit h l) s = runHart (.lexit h l) h body s :=
  ⟨_, fun s => by
    show execLexit h l s = _
    unfold execLexit runSeq
    exact rfl⟩
theorem exec_nop (h : Hdr) : ∃ body : M Ctl, ∀ s,
    Sys2Proof.Machine.exec (.nop h) s = runHart (.nop h) h body s :=
  ⟨_, fun s => by
    show execNop h s = _
    unfold execNop runSeq
    exact rfl⟩
theorem exec_trap (h : Hdr) {code} : ∃ body : M Ctl, ∀ s,
    Sys2Proof.Machine.exec (.trap h code) s = runHart (.trap h code) h body s :=
  ⟨_, fun s => by
    show execTrap h code s = _
    unfold execTrap
    exact rfl⟩
theorem exec_eret (h : Hdr) : ∃ body : M Ctl, ∀ s,
    Sys2Proof.Machine.exec (.eret h) s = runHart (.eret h) h body s :=
  ⟨_, fun s => by
    show execEret h s = _
    unfold execEret
    exact rfl⟩
theorem exec_srr (h : Hdr) {d} {sr} : ∃ body : M Ctl, ∀ s,
    Sys2Proof.Machine.exec (.srr h d sr) s = runHart (.srr h d sr) h body s :=
  ⟨_, fun s => by
    show execSrr h d sr s = _
    unfold execSrr runSeq
    exact rfl⟩
theorem exec_srw (h : Hdr) {sr} {a} : ∃ body : M Ctl, ∀ s,
    Sys2Proof.Machine.exec (.srw h sr a) s = runHart (.srw h sr a) h body s :=
  ⟨_, fun s => by
    show execSrw h sr a s = _
    unfold execSrw runSeq
    exact rfl⟩
theorem exec_wait (h : Hdr) {a} {limit} : ∃ body : M Ctl, ∀ s,
    Sys2Proof.Machine.exec (.wait h a limit) s = runHart (.wait h a limit) h body s :=
  ⟨_, fun s => by
    show execWait h a limit s = _
    unfold execWait runSeq
    exact rfl⟩
theorem exec_yield (h : Hdr) : ∃ body : M Ctl, ∀ s,
    Sys2Proof.Machine.exec (.yield h) s = runHart (.yield h) h body s :=
  ⟨_, fun s => by
    show execYield h s = _
    unfold execYield runSeq
    exact rfl⟩
theorem exec_halt (h : Hdr) : ∃ body : M Ctl, ∀ s,
    Sys2Proof.Machine.exec (.halt h) s = runHart (.halt h) h body s :=
  ⟨_, fun s => by
    show execHalt h s = _
    unfold execHalt
    exact rfl⟩
theorem exec_fencei (h : Hdr) : ∃ body : M Ctl, ∀ s,
    Sys2Proof.Machine.exec (.fencei h) s = runHart (.fencei h) h body s :=
  ⟨_, fun s => by
    show execFencei h s = _
    unfold execFencei runSeq
    exact rfl⟩
theorem exec_add (h : Hdr) {w} {d} {a} {b} : ∃ body : M Ctl, ∀ s,
    Sys2Proof.Machine.exec (.add h w d a b) s = runHart (.add h w d a b) h body s :=
  ⟨_, fun s => by
    show execAdd h w d a b s = _
    unfold execAdd runSeq
    exact rfl⟩
theorem exec_sub (h : Hdr) {w} {d} {a} {b} : ∃ body : M Ctl, ∀ s,
    Sys2Proof.Machine.exec (.sub h w d a b) s = runHart (.sub h w d a b) h body s :=
  ⟨_, fun s => by
    show execSub h w d a b s = _
    unfold execSub runSeq
    exact rfl⟩
theorem exec_mul (h : Hdr) {w} {d} {a} {b} : ∃ body : M Ctl, ∀ s,
    Sys2Proof.Machine.exec (.mul h w d a b) s = runHart (.mul h w d a b) h body s :=
  ⟨_, fun s => by
    show execMul h w d a b s = _
    unfold execMul runSeq
    exact rfl⟩
theorem exec_mulh (h : Hdr) {w} {d} {a} {b} : ∃ body : M Ctl, ∀ s,
    Sys2Proof.Machine.exec (.mulh h w d a b) s = runHart (.mulh h w d a b) h body s :=
  ⟨_, fun s => by
    show execMulh h w d a b s = _
    unfold execMulh runSeq
    exact rfl⟩
theorem exec_mulhu (h : Hdr) {w} {d} {a} {b} : ∃ body : M Ctl, ∀ s,
    Sys2Proof.Machine.exec (.mulhu h w d a b) s = runHart (.mulhu h w d a b) h body s :=
  ⟨_, fun s => by
    show execMulhu h w d a b s = _
    unfold execMulhu runSeq
    exact rfl⟩
theorem exec_div (h : Hdr) {w} {d} {a} {b} : ∃ body : M Ctl, ∀ s,
    Sys2Proof.Machine.exec (.div h w d a b) s = runHart (.div h w d a b) h body s :=
  ⟨_, fun s => by
    show execDiv h w d a b s = _
    unfold execDiv runSeq
    exact rfl⟩
theorem exec_divu (h : Hdr) {w} {d} {a} {b} : ∃ body : M Ctl, ∀ s,
    Sys2Proof.Machine.exec (.divu h w d a b) s = runHart (.divu h w d a b) h body s :=
  ⟨_, fun s => by
    show execDivu h w d a b s = _
    unfold execDivu runSeq
    exact rfl⟩
theorem exec_rem (h : Hdr) {w} {d} {a} {b} : ∃ body : M Ctl, ∀ s,
    Sys2Proof.Machine.exec (.rem h w d a b) s = runHart (.rem h w d a b) h body s :=
  ⟨_, fun s => by
    show execRem h w d a b s = _
    unfold execRem runSeq
    exact rfl⟩
theorem exec_remu (h : Hdr) {w} {d} {a} {b} : ∃ body : M Ctl, ∀ s,
    Sys2Proof.Machine.exec (.remu h w d a b) s = runHart (.remu h w d a b) h body s :=
  ⟨_, fun s => by
    show execRemu h w d a b s = _
    unfold execRemu runSeq
    exact rfl⟩
theorem exec_and (h : Hdr) {w} {d} {a} {b} : ∃ body : M Ctl, ∀ s,
    Sys2Proof.Machine.exec (.and h w d a b) s = runHart (.and h w d a b) h body s :=
  ⟨_, fun s => by
    show execAnd h w d a b s = _
    unfold execAnd runSeq
    exact rfl⟩
theorem exec_or (h : Hdr) {w} {d} {a} {b} : ∃ body : M Ctl, ∀ s,
    Sys2Proof.Machine.exec (.or h w d a b) s = runHart (.or h w d a b) h body s :=
  ⟨_, fun s => by
    show execOr h w d a b s = _
    unfold execOr runSeq
    exact rfl⟩
theorem exec_xor (h : Hdr) {w} {d} {a} {b} : ∃ body : M Ctl, ∀ s,
    Sys2Proof.Machine.exec (.xor h w d a b) s = runHart (.xor h w d a b) h body s :=
  ⟨_, fun s => by
    show execXor h w d a b s = _
    unfold execXor runSeq
    exact rfl⟩
theorem exec_andn (h : Hdr) {w} {d} {a} {b} : ∃ body : M Ctl, ∀ s,
    Sys2Proof.Machine.exec (.andn h w d a b) s = runHart (.andn h w d a b) h body s :=
  ⟨_, fun s => by
    show execAndn h w d a b s = _
    unfold execAndn runSeq
    exact rfl⟩
theorem exec_shl (h : Hdr) {w} {d} {a} {b} : ∃ body : M Ctl, ∀ s,
    Sys2Proof.Machine.exec (.shl h w d a b) s = runHart (.shl h w d a b) h body s :=
  ⟨_, fun s => by
    show execShl h w d a b s = _
    unfold execShl runSeq
    exact rfl⟩
theorem exec_shr (h : Hdr) {w} {d} {a} {b} : ∃ body : M Ctl, ∀ s,
    Sys2Proof.Machine.exec (.shr h w d a b) s = runHart (.shr h w d a b) h body s :=
  ⟨_, fun s => by
    show execShr h w d a b s = _
    unfold execShr runSeq
    exact rfl⟩
theorem exec_sra (h : Hdr) {w} {d} {a} {b} : ∃ body : M Ctl, ∀ s,
    Sys2Proof.Machine.exec (.sra h w d a b) s = runHart (.sra h w d a b) h body s :=
  ⟨_, fun s => by
    show execSra h w d a b s = _
    unfold execSra runSeq
    exact rfl⟩
theorem exec_ror (h : Hdr) {w} {d} {a} {b} : ∃ body : M Ctl, ∀ s,
    Sys2Proof.Machine.exec (.ror h w d a b) s = runHart (.ror h w d a b) h body s :=
  ⟨_, fun s => by
    show execRor h w d a b s = _
    unfold execRor runSeq
    exact rfl⟩
theorem exec_min (h : Hdr) {w} {d} {a} {b} : ∃ body : M Ctl, ∀ s,
    Sys2Proof.Machine.exec (.min h w d a b) s = runHart (.min h w d a b) h body s :=
  ⟨_, fun s => by
    show execMin h w d a b s = _
    unfold execMin runSeq
    exact rfl⟩
theorem exec_max (h : Hdr) {w} {d} {a} {b} : ∃ body : M Ctl, ∀ s,
    Sys2Proof.Machine.exec (.max h w d a b) s = runHart (.max h w d a b) h body s :=
  ⟨_, fun s => by
    show execMax h w d a b s = _
    unfold execMax runSeq
    exact rfl⟩
theorem exec_minu (h : Hdr) {w} {d} {a} {b} : ∃ body : M Ctl, ∀ s,
    Sys2Proof.Machine.exec (.minu h w d a b) s = runHart (.minu h w d a b) h body s :=
  ⟨_, fun s => by
    show execMinu h w d a b s = _
    unfold execMinu runSeq
    exact rfl⟩
theorem exec_maxu (h : Hdr) {w} {d} {a} {b} : ∃ body : M Ctl, ∀ s,
    Sys2Proof.Machine.exec (.maxu h w d a b) s = runHart (.maxu h w d a b) h body s :=
  ⟨_, fun s => by
    show execMaxu h w d a b s = _
    unfold execMaxu runSeq
    exact rfl⟩
theorem exec_clz (h : Hdr) {w} {d} {a} : ∃ body : M Ctl, ∀ s,
    Sys2Proof.Machine.exec (.clz h w d a) s = runHart (.clz h w d a) h body s :=
  ⟨_, fun s => by
    show execClz h w d a s = _
    unfold execClz runSeq
    exact rfl⟩
theorem exec_ctz (h : Hdr) {w} {d} {a} : ∃ body : M Ctl, ∀ s,
    Sys2Proof.Machine.exec (.ctz h w d a) s = runHart (.ctz h w d a) h body s :=
  ⟨_, fun s => by
    show execCtz h w d a s = _
    unfold execCtz runSeq
    exact rfl⟩
theorem exec_popc (h : Hdr) {w} {d} {a} : ∃ body : M Ctl, ∀ s,
    Sys2Proof.Machine.exec (.popc h w d a) s = runHart (.popc h w d a) h body s :=
  ⟨_, fun s => by
    show execPopc h w d a s = _
    unfold execPopc runSeq
    exact rfl⟩
theorem exec_bfx (h : Hdr) {sx} {d} {a} {b} : ∃ body : M Ctl, ∀ s,
    Sys2Proof.Machine.exec (.bfx h sx d a b) s = runHart (.bfx h sx d a b) h body s :=
  ⟨_, fun s => by
    show execBfx h sx d a b s = _
    unfold execBfx runSeq
    exact rfl⟩
theorem exec_bfi (h : Hdr) {d} {a} {b} {c} : ∃ body : M Ctl, ∀ s,
    Sys2Proof.Machine.exec (.bfi h d a b c) s = runHart (.bfi h d a b c) h body s :=
  ⟨_, fun s => by
    show execBfi h d a b c s = _
    unfold execBfi runSeq
    exact rfl⟩
theorem exec_sel (h : Hdr) {d} {a} {b} {p} : ∃ body : M Ctl, ∀ s,
    Sys2Proof.Machine.exec (.sel h d a b p) s = runHart (.sel h d a b p) h body s :=
  ⟨_, fun s => by
    show execSel h d a b p s = _
    unfold execSel runSeq
    exact rfl⟩
theorem exec_lea (h : Hdr) {s1} {d} {a} {b} : ∃ body : M Ctl, ∀ s,
    Sys2Proof.Machine.exec (.lea h s1 d a b) s = runHart (.lea h s1 d a b) h body s :=
  ⟨_, fun s => by
    show execLea h s1 d a b s = _
    unfold execLea runSeq
    exact rfl⟩
theorem exec_addImm (h : Hdr) {w} {d} {a} {imm} : ∃ body : M Ctl, ∀ s,
    Sys2Proof.Machine.exec (.addImm h w d a imm) s = runHart (.addImm h w d a imm) h body s :=
  ⟨_, fun s => by
    show execAddImm h w d a imm s = _
    unfold execAddImm runSeq
    exact rfl⟩
theorem exec_subImm (h : Hdr) {w} {d} {a} {imm} : ∃ body : M Ctl, ∀ s,
    Sys2Proof.Machine.exec (.subImm h w d a imm) s = runHart (.subImm h w d a imm) h body s :=
  ⟨_, fun s => by
    show execSubImm h w d a imm s = _
    unfold execSubImm runSeq
    exact rfl⟩
theorem exec_mulImm (h : Hdr) {w} {d} {a} {imm} : ∃ body : M Ctl, ∀ s,
    Sys2Proof.Machine.exec (.mulImm h w d a imm) s = runHart (.mulImm h w d a imm) h body s :=
  ⟨_, fun s => by
    show execMulImm h w d a imm s = _
    unfold execMulImm runSeq
    exact rfl⟩
theorem exec_mulhImm (h : Hdr) {w} {d} {a} {imm} : ∃ body : M Ctl, ∀ s,
    Sys2Proof.Machine.exec (.mulhImm h w d a imm) s = runHart (.mulhImm h w d a imm) h body s :=
  ⟨_, fun s => by
    show execMulhImm h w d a imm s = _
    unfold execMulhImm runSeq
    exact rfl⟩
theorem exec_mulhuImm (h : Hdr) {w} {d} {a} {imm} : ∃ body : M Ctl, ∀ s,
    Sys2Proof.Machine.exec (.mulhuImm h w d a imm) s = runHart (.mulhuImm h w d a imm) h body s :=
  ⟨_, fun s => by
    show execMulhuImm h w d a imm s = _
    unfold execMulhuImm runSeq
    exact rfl⟩
theorem exec_divImm (h : Hdr) {w} {d} {a} {imm} : ∃ body : M Ctl, ∀ s,
    Sys2Proof.Machine.exec (.divImm h w d a imm) s = runHart (.divImm h w d a imm) h body s :=
  ⟨_, fun s => by
    show execDivImm h w d a imm s = _
    unfold execDivImm runSeq
    exact rfl⟩
theorem exec_divuImm (h : Hdr) {w} {d} {a} {imm} : ∃ body : M Ctl, ∀ s,
    Sys2Proof.Machine.exec (.divuImm h w d a imm) s = runHart (.divuImm h w d a imm) h body s :=
  ⟨_, fun s => by
    show execDivuImm h w d a imm s = _
    unfold execDivuImm runSeq
    exact rfl⟩
theorem exec_remImm (h : Hdr) {w} {d} {a} {imm} : ∃ body : M Ctl, ∀ s,
    Sys2Proof.Machine.exec (.remImm h w d a imm) s = runHart (.remImm h w d a imm) h body s :=
  ⟨_, fun s => by
    show execRemImm h w d a imm s = _
    unfold execRemImm runSeq
    exact rfl⟩
theorem exec_remuImm (h : Hdr) {w} {d} {a} {imm} : ∃ body : M Ctl, ∀ s,
    Sys2Proof.Machine.exec (.remuImm h w d a imm) s = runHart (.remuImm h w d a imm) h body s :=
  ⟨_, fun s => by
    show execRemuImm h w d a imm s = _
    unfold execRemuImm runSeq
    exact rfl⟩
theorem exec_andImm (h : Hdr) {w} {d} {a} {imm} : ∃ body : M Ctl, ∀ s,
    Sys2Proof.Machine.exec (.andImm h w d a imm) s = runHart (.andImm h w d a imm) h body s :=
  ⟨_, fun s => by
    show execAndImm h w d a imm s = _
    unfold execAndImm runSeq
    exact rfl⟩
theorem exec_orImm (h : Hdr) {w} {d} {a} {imm} : ∃ body : M Ctl, ∀ s,
    Sys2Proof.Machine.exec (.orImm h w d a imm) s = runHart (.orImm h w d a imm) h body s :=
  ⟨_, fun s => by
    show execOrImm h w d a imm s = _
    unfold execOrImm runSeq
    exact rfl⟩
theorem exec_xorImm (h : Hdr) {w} {d} {a} {imm} : ∃ body : M Ctl, ∀ s,
    Sys2Proof.Machine.exec (.xorImm h w d a imm) s = runHart (.xorImm h w d a imm) h body s :=
  ⟨_, fun s => by
    show execXorImm h w d a imm s = _
    unfold execXorImm runSeq
    exact rfl⟩
theorem exec_andnImm (h : Hdr) {w} {d} {a} {imm} : ∃ body : M Ctl, ∀ s,
    Sys2Proof.Machine.exec (.andnImm h w d a imm) s = runHart (.andnImm h w d a imm) h body s :=
  ⟨_, fun s => by
    show execAndnImm h w d a imm s = _
    unfold execAndnImm runSeq
    exact rfl⟩
theorem exec_shlImm (h : Hdr) {w} {d} {a} {imm} : ∃ body : M Ctl, ∀ s,
    Sys2Proof.Machine.exec (.shlImm h w d a imm) s = runHart (.shlImm h w d a imm) h body s :=
  ⟨_, fun s => by
    show execShlImm h w d a imm s = _
    unfold execShlImm runSeq
    exact rfl⟩
theorem exec_shrImm (h : Hdr) {w} {d} {a} {imm} : ∃ body : M Ctl, ∀ s,
    Sys2Proof.Machine.exec (.shrImm h w d a imm) s = runHart (.shrImm h w d a imm) h body s :=
  ⟨_, fun s => by
    show execShrImm h w d a imm s = _
    unfold execShrImm runSeq
    exact rfl⟩
theorem exec_sraImm (h : Hdr) {w} {d} {a} {imm} : ∃ body : M Ctl, ∀ s,
    Sys2Proof.Machine.exec (.sraImm h w d a imm) s = runHart (.sraImm h w d a imm) h body s :=
  ⟨_, fun s => by
    show execSraImm h w d a imm s = _
    unfold execSraImm runSeq
    exact rfl⟩
theorem exec_rorImm (h : Hdr) {w} {d} {a} {imm} : ∃ body : M Ctl, ∀ s,
    Sys2Proof.Machine.exec (.rorImm h w d a imm) s = runHart (.rorImm h w d a imm) h body s :=
  ⟨_, fun s => by
    show execRorImm h w d a imm s = _
    unfold execRorImm runSeq
    exact rfl⟩
theorem exec_minImm (h : Hdr) {w} {d} {a} {imm} : ∃ body : M Ctl, ∀ s,
    Sys2Proof.Machine.exec (.minImm h w d a imm) s = runHart (.minImm h w d a imm) h body s :=
  ⟨_, fun s => by
    show execMinImm h w d a imm s = _
    unfold execMinImm runSeq
    exact rfl⟩
theorem exec_maxImm (h : Hdr) {w} {d} {a} {imm} : ∃ body : M Ctl, ∀ s,
    Sys2Proof.Machine.exec (.maxImm h w d a imm) s = runHart (.maxImm h w d a imm) h body s :=
  ⟨_, fun s => by
    show execMaxImm h w d a imm s = _
    unfold execMaxImm runSeq
    exact rfl⟩
theorem exec_minuImm (h : Hdr) {w} {d} {a} {imm} : ∃ body : M Ctl, ∀ s,
    Sys2Proof.Machine.exec (.minuImm h w d a imm) s = runHart (.minuImm h w d a imm) h body s :=
  ⟨_, fun s => by
    show execMinuImm h w d a imm s = _
    unfold execMinuImm runSeq
    exact rfl⟩
theorem exec_maxuImm (h : Hdr) {w} {d} {a} {imm} : ∃ body : M Ctl, ∀ s,
    Sys2Proof.Machine.exec (.maxuImm h w d a imm) s = runHart (.maxuImm h w d a imm) h body s :=
  ⟨_, fun s => by
    show execMaxuImm h w d a imm s = _
    unfold execMaxuImm runSeq
    exact rfl⟩
theorem exec_bfxImm (h : Hdr) {sx} {d} {a} {imm} : ∃ body : M Ctl, ∀ s,
    Sys2Proof.Machine.exec (.bfxImm h sx d a imm) s = runHart (.bfxImm h sx d a imm) h body s :=
  ⟨_, fun s => by
    show execBfxImm h sx d a imm s = _
    unfold execBfxImm runSeq
    exact rfl⟩
theorem exec_bfiImm (h : Hdr) {d} {a} {imm} : ∃ body : M Ctl, ∀ s,
    Sys2Proof.Machine.exec (.bfiImm h d a imm) s = runHart (.bfiImm h d a imm) h body s :=
  ⟨_, fun s => by
    show execBfiImm h d a imm s = _
    unfold execBfiImm runSeq
    exact rfl⟩
theorem exec_selImm (h : Hdr) {d} {a} {imm} {p} : ∃ body : M Ctl, ∀ s,
    Sys2Proof.Machine.exec (.selImm h d a imm p) s = runHart (.selImm h d a imm p) h body s :=
  ⟨_, fun s => by
    show execSelImm h d a imm p s = _
    unfold execSelImm runSeq
    exact rfl⟩
theorem exec_leaImm (h : Hdr) {s1} {d} {a} {imm} : ∃ body : M Ctl, ∀ s,
    Sys2Proof.Machine.exec (.leaImm h s1 d a imm) s = runHart (.leaImm h s1 d a imm) h body s :=
  ⟨_, fun s => by
    show execLeaImm h s1 d a imm s = _
    unfold execLeaImm runSeq
    exact rfl⟩
theorem exec_movi (h : Hdr) {d} {imm} : ∃ body : M Ctl, ∀ s,
    Sys2Proof.Machine.exec (.movi h d imm) s = runHart (.movi h d imm) h body s :=
  ⟨_, fun s => by
    show execMovi h d imm s = _
    unfold execMovi runSeq
    exact rfl⟩
theorem exec_cmp (h : Hdr) {c} {w} {pd} {pc} {a} {b} : ∃ body : M Ctl, ∀ s,
    Sys2Proof.Machine.exec (.cmp h c w pd pc a b) s = runHart (.cmp h c w pd pc a b) h body s :=
  ⟨_, fun s => by
    show execCmp h c w pd pc a b s = _
    unfold execCmp runSeq
    exact rfl⟩
theorem exec_cmpi (h : Hdr) {c} {w} {pd} {a} {imm} : ∃ body : M Ctl, ∀ s,
    Sys2Proof.Machine.exec (.cmpi h c w pd a imm) s = runHart (.cmpi h c w pd a imm) h body s :=
  ⟨_, fun s => by
    show execCmpi h c w pd a imm s = _
    unfold execCmpi runSeq
    exact rfl⟩
theorem exec_plog (h : Hdr) {lut} {d} {a} {b} : ∃ body : M Ctl, ∀ s,
    Sys2Proof.Machine.exec (.plog h lut d a b) s = runHart (.plog h lut d a b) h body s :=
  ⟨_, fun s => by
    show execPlog h lut d a b s = _
    unfold execPlog runSeq
    exact rfl⟩
theorem exec_pmovToX (h : Hdr) {d} : ∃ body : M Ctl, ∀ s,
    Sys2Proof.Machine.exec (.pmovToX h d) s = runHart (.pmovToX h d) h body s :=
  ⟨_, fun s => by
    show execPmovToX h d s = _
    unfold execPmovToX runSeq
    exact rfl⟩
theorem exec_pmovToP (h : Hdr) {a} : ∃ body : M Ctl, ∀ s,
    Sys2Proof.Machine.exec (.pmovToP h a) s = runHart (.pmovToP h a) h body s :=
  ⟨_, fun s => by
    show execPmovToP h a s = _
    unfold execPmovToP runSeq
    exact rfl⟩
theorem exec_ld (h : Hdr) {t} {d} {m} : ∃ body : M Ctl, ∀ s,
    Sys2Proof.Machine.exec (.ld h t d m) s = runHart (.ld h t d m) h body s :=
  ⟨_, fun s => by
    show execLd h t d m s = _
    unfold execLd runSeq
    exact rfl⟩
theorem exec_st (h : Hdr) {t} {d} {m} : ∃ body : M Ctl, ∀ s,
    Sys2Proof.Machine.exec (.st h t d m) s = runHart (.st h t d m) h body s :=
  ⟨_, fun s => by
    show execSt h t d m s = _
    unfold execSt runSeq
    exact rfl⟩
theorem exec_lda (h : Hdr) {t} {sc} {d} {m} : ∃ body : M Ctl, ∀ s,
    Sys2Proof.Machine.exec (.lda h t sc d m) s = runHart (.lda h t sc d m) h body s :=
  ⟨_, fun s => by
    show execLda h t sc d m s = _
    unfold execLda runSeq
    exact rfl⟩
theorem exec_str (h : Hdr) {t} {sc} {d} {m} : ∃ body : M Ctl, ∀ s,
    Sys2Proof.Machine.exec (.str h t sc d m) s = runHart (.str h t sc d m) h body s :=
  ⟨_, fun s => by
    show execStr h t sc d m s = _
    unfold execStr runSeq
    exact rfl⟩
theorem exec_atomSwap (h : Hdr) {t} {sc} {d} {m} : ∃ body : M Ctl, ∀ s,
    Sys2Proof.Machine.exec (.atomSwap h t sc d m) s = runHart (.atomSwap h t sc d m) h body s :=
  ⟨_, fun s => by
    show execAtomSwap h t sc d m s = _
    unfold execAtomSwap runSeq
    exact rfl⟩
theorem exec_atomAdd (h : Hdr) {t} {sc} {d} {m} : ∃ body : M Ctl, ∀ s,
    Sys2Proof.Machine.exec (.atomAdd h t sc d m) s = runHart (.atomAdd h t sc d m) h body s :=
  ⟨_, fun s => by
    show execAtomAdd h t sc d m s = _
    unfold execAtomAdd runSeq
    exact rfl⟩
theorem exec_atomAnd (h : Hdr) {t} {sc} {d} {m} : ∃ body : M Ctl, ∀ s,
    Sys2Proof.Machine.exec (.atomAnd h t sc d m) s = runHart (.atomAnd h t sc d m) h body s :=
  ⟨_, fun s => by
    show execAtomAnd h t sc d m s = _
    unfold execAtomAnd runSeq
    exact rfl⟩
theorem exec_atomOr (h : Hdr) {t} {sc} {d} {m} : ∃ body : M Ctl, ∀ s,
    Sys2Proof.Machine.exec (.atomOr h t sc d m) s = runHart (.atomOr h t sc d m) h body s :=
  ⟨_, fun s => by
    show execAtomOr h t sc d m s = _
    unfold execAtomOr runSeq
    exact rfl⟩
theorem exec_atomXor (h : Hdr) {t} {sc} {d} {m} : ∃ body : M Ctl, ∀ s,
    Sys2Proof.Machine.exec (.atomXor h t sc d m) s = runHart (.atomXor h t sc d m) h body s :=
  ⟨_, fun s => by
    show execAtomXor h t sc d m s = _
    unfold execAtomXor runSeq
    exact rfl⟩
theorem exec_atomMin (h : Hdr) {t} {sc} {d} {m} : ∃ body : M Ctl, ∀ s,
    Sys2Proof.Machine.exec (.atomMin h t sc d m) s = runHart (.atomMin h t sc d m) h body s :=
  ⟨_, fun s => by
    show execAtomMin h t sc d m s = _
    unfold execAtomMin runSeq
    exact rfl⟩
theorem exec_atomMax (h : Hdr) {t} {sc} {d} {m} : ∃ body : M Ctl, ∀ s,
    Sys2Proof.Machine.exec (.atomMax h t sc d m) s = runHart (.atomMax h t sc d m) h body s :=
  ⟨_, fun s => by
    show execAtomMax h t sc d m s = _
    unfold execAtomMax runSeq
    exact rfl⟩
theorem exec_atomCas (h : Hdr) {t} {sc} {d} {a} {b} {disp} : ∃ body : M Ctl, ∀ s,
    Sys2Proof.Machine.exec (.atomCas h t sc d a b disp) s = runHart (.atomCas h t sc d a b disp) h body s :=
  ⟨_, fun s => by
    show execAtomCas h t sc d a b disp s = _
    unfold execAtomCas runSeq
    exact rfl⟩
theorem exec_fence (h : Hdr) {k} {sc} : ∃ body : M Ctl, ∀ s,
    Sys2Proof.Machine.exec (.fence h k sc) s = runHart (.fence h k sc) h body s :=
  ⟨_, fun s => by
    show execFence h k sc s = _
    unfold execFence runSeq
    exact rfl⟩
theorem exec_vadd (h : Hdr) {t} {rm} {d} {a} {b} : ∃ body : M Ctl, ∀ s,
    Sys2Proof.Machine.exec (.vadd h t rm d a b) s = runHart (.vadd h t rm d a b) h body s :=
  ⟨_, fun s => by
    show execVadd h t rm d a b s = _
    unfold execVadd runVec runSeq
    exact rfl⟩
theorem exec_vsub (h : Hdr) {t} {rm} {d} {a} {b} : ∃ body : M Ctl, ∀ s,
    Sys2Proof.Machine.exec (.vsub h t rm d a b) s = runHart (.vsub h t rm d a b) h body s :=
  ⟨_, fun s => by
    show execVsub h t rm d a b s = _
    unfold execVsub runVec runSeq
    exact rfl⟩
theorem exec_vmul (h : Hdr) {t} {rm} {d} {a} {b} : ∃ body : M Ctl, ∀ s,
    Sys2Proof.Machine.exec (.vmul h t rm d a b) s = runHart (.vmul h t rm d a b) h body s :=
  ⟨_, fun s => by
    show execVmul h t rm d a b s = _
    unfold execVmul runVec runSeq
    exact rfl⟩
theorem exec_vfma (h : Hdr) {t} {rm} {d} {a} {b} {c} : ∃ body : M Ctl, ∀ s,
    Sys2Proof.Machine.exec (.vfma h t rm d a b c) s = runHart (.vfma h t rm d a b c) h body s :=
  ⟨_, fun s => by
    show execVfma h t rm d a b c s = _
    unfold execVfma runVec runSeq
    exact rfl⟩
theorem exec_vfms (h : Hdr) {t} {rm} {d} {a} {b} {c} : ∃ body : M Ctl, ∀ s,
    Sys2Proof.Machine.exec (.vfms h t rm d a b c) s = runHart (.vfms h t rm d a b c) h body s :=
  ⟨_, fun s => by
    show execVfms h t rm d a b c s = _
    unfold execVfms runVec runSeq
    exact rfl⟩
theorem exec_vfnma (h : Hdr) {t} {rm} {d} {a} {b} {c} : ∃ body : M Ctl, ∀ s,
    Sys2Proof.Machine.exec (.vfnma h t rm d a b c) s = runHart (.vfnma h t rm d a b c) h body s :=
  ⟨_, fun s => by
    show execVfnma h t rm d a b c s = _
    unfold execVfnma runVec runSeq
    exact rfl⟩
theorem exec_vdiv (h : Hdr) {t} {rm} {d} {a} {b} : ∃ body : M Ctl, ∀ s,
    Sys2Proof.Machine.exec (.vdiv h t rm d a b) s = runHart (.vdiv h t rm d a b) h body s :=
  ⟨_, fun s => by
    show execVdiv h t rm d a b s = _
    unfold execVdiv runVec runSeq
    exact rfl⟩
theorem exec_vsqrt (h : Hdr) {t} {rm} {d} {a} : ∃ body : M Ctl, ∀ s,
    Sys2Proof.Machine.exec (.vsqrt h t rm d a) s = runHart (.vsqrt h t rm d a) h body s :=
  ⟨_, fun s => by
    show execVsqrt h t rm d a s = _
    unfold execVsqrt runVec runSeq
    exact rfl⟩
theorem exec_vmin (h : Hdr) {t} {d} {a} {b} : ∃ body : M Ctl, ∀ s,
    Sys2Proof.Machine.exec (.vmin h t d a b) s = runHart (.vmin h t d a b) h body s :=
  ⟨_, fun s => by
    show execVmin h t d a b s = _
    unfold execVmin runVec runSeq
    exact rfl⟩
theorem exec_vmax (h : Hdr) {t} {d} {a} {b} : ∃ body : M Ctl, ∀ s,
    Sys2Proof.Machine.exec (.vmax h t d a b) s = runHart (.vmax h t d a b) h body s :=
  ⟨_, fun s => by
    show execVmax h t d a b s = _
    unfold execVmax runVec runSeq
    exact rfl⟩
theorem exec_vabs (h : Hdr) {t} {d} {a} : ∃ body : M Ctl, ∀ s,
    Sys2Proof.Machine.exec (.vabs h t d a) s = runHart (.vabs h t d a) h body s :=
  ⟨_, fun s => by
    show execVabs h t d a s = _
    unfold execVabs runVec runSeq
    exact rfl⟩
theorem exec_vneg (h : Hdr) {t} {d} {a} : ∃ body : M Ctl, ∀ s,
    Sys2Proof.Machine.exec (.vneg h t d a) s = runHart (.vneg h t d a) h body s :=
  ⟨_, fun s => by
    show execVneg h t d a s = _
    unfold execVneg runVec runSeq
    exact rfl⟩
theorem exec_vcmp (h : Hdr) {c} {t} {d} {a} {b} : ∃ body : M Ctl, ∀ s,
    Sys2Proof.Machine.exec (.vcmp h c t d a b) s = runHart (.vcmp h c t d a b) h body s :=
  ⟨_, fun s => by
    show execVcmp h c t d a b s = _
    unfold execVcmp runVec runSeq
    exact rfl⟩
theorem exec_vclass (h : Hdr) {t} {d} {a} : ∃ body : M Ctl, ∀ s,
    Sys2Proof.Machine.exec (.vclass h t d a) s = runHart (.vclass h t d a) h body s :=
  ⟨_, fun s => by
    show execVclass h t d a s = _
    unfold execVclass runVec runSeq
    exact rfl⟩
theorem exec_twosum (h : Hdr) {t} {rm} {d} {e} {a} {b} : ∃ body : M Ctl, ∀ s,
    Sys2Proof.Machine.exec (.twosum h t rm d e a b) s = runHart (.twosum h t rm d e a b) h body s :=
  ⟨_, fun s => by
    show execTwosum h t rm d e a b s = _
    unfold execTwosum runVec runSeq
    exact rfl⟩
theorem exec_viadd (h : Hdr) {sat} {t} {d} {a} {b} : ∃ body : M Ctl, ∀ s,
    Sys2Proof.Machine.exec (.viadd h sat t d a b) s = runHart (.viadd h sat t d a b) h body s :=
  ⟨_, fun s => by
    show execViadd h sat t d a b s = _
    unfold execViadd runVec runSeq
    exact rfl⟩
theorem exec_visub (h : Hdr) {sat} {t} {d} {a} {b} : ∃ body : M Ctl, ∀ s,
    Sys2Proof.Machine.exec (.visub h sat t d a b) s = runHart (.visub h sat t d a b) h body s :=
  ⟨_, fun s => by
    show execVisub h sat t d a b s = _
    unfold execVisub runVec runSeq
    exact rfl⟩
theorem exec_vimul (h : Hdr) {t} {d} {a} {b} : ∃ body : M Ctl, ∀ s,
    Sys2Proof.Machine.exec (.vimul h t d a b) s = runHart (.vimul h t d a b) h body s :=
  ⟨_, fun s => by
    show execVimul h t d a b s = _
    unfold execVimul runVec runSeq
    exact rfl⟩
theorem exec_vimulh (h : Hdr) {t} {d} {a} {b} : ∃ body : M Ctl, ∀ s,
    Sys2Proof.Machine.exec (.vimulh h t d a b) s = runHart (.vimulh h t d a b) h body s :=
  ⟨_, fun s => by
    show execVimulh h t d a b s = _
    unfold execVimulh runVec runSeq
    exact rfl⟩
theorem exec_vimad (h : Hdr) {t} {d} {a} {b} {c} : ∃ body : M Ctl, ∀ s,
    Sys2Proof.Machine.exec (.vimad h t d a b c) s = runHart (.vimad h t d a b c) h body s :=
  ⟨_, fun s => by
    show execVimad h t d a b c s = _
    unfold execVimad runVec runSeq
    exact rfl⟩
theorem exec_vimin (h : Hdr) {t} {d} {a} {b} : ∃ body : M Ctl, ∀ s,
    Sys2Proof.Machine.exec (.vimin h t d a b) s = runHart (.vimin h t d a b) h body s :=
  ⟨_, fun s => by
    show execVimin h t d a b s = _
    unfold execVimin runVec runSeq
    exact rfl⟩
theorem exec_vimax (h : Hdr) {t} {d} {a} {b} : ∃ body : M Ctl, ∀ s,
    Sys2Proof.Machine.exec (.vimax h t d a b) s = runHart (.vimax h t d a b) h body s :=
  ⟨_, fun s => by
    show execVimax h t d a b s = _
    unfold execVimax runVec runSeq
    exact rfl⟩
theorem exec_vand (h : Hdr) {t} {d} {a} {b} : ∃ body : M Ctl, ∀ s,
    Sys2Proof.Machine.exec (.vand h t d a b) s = runHart (.vand h t d a b) h body s :=
  ⟨_, fun s => by
    show execVand h t d a b s = _
    unfold execVand runVec runSeq
    exact rfl⟩
theorem exec_vor (h : Hdr) {t} {d} {a} {b} : ∃ body : M Ctl, ∀ s,
    Sys2Proof.Machine.exec (.vor h t d a b) s = runHart (.vor h t d a b) h body s :=
  ⟨_, fun s => by
    show execVor h t d a b s = _
    unfold execVor runVec runSeq
    exact rfl⟩
theorem exec_vxor (h : Hdr) {t} {d} {a} {b} : ∃ body : M Ctl, ∀ s,
    Sys2Proof.Machine.exec (.vxor h t d a b) s = runHart (.vxor h t d a b) h body s :=
  ⟨_, fun s => by
    show execVxor h t d a b s = _
    unfold execVxor runVec runSeq
    exact rfl⟩
theorem exec_vshl (h : Hdr) {t} {d} {a} {b} : ∃ body : M Ctl, ∀ s,
    Sys2Proof.Machine.exec (.vshl h t d a b) s = runHart (.vshl h t d a b) h body s :=
  ⟨_, fun s => by
    show execVshl h t d a b s = _
    unfold execVshl runVec runSeq
    exact rfl⟩
theorem exec_vshr (h : Hdr) {t} {d} {a} {b} : ∃ body : M Ctl, ∀ s,
    Sys2Proof.Machine.exec (.vshr h t d a b) s = runHart (.vshr h t d a b) h body s :=
  ⟨_, fun s => by
    show execVshr h t d a b s = _
    unfold execVshr runVec runSeq
    exact rfl⟩
theorem exec_vsra (h : Hdr) {t} {d} {a} {b} : ∃ body : M Ctl, ∀ s,
    Sys2Proof.Machine.exec (.vsra h t d a b) s = runHart (.vsra h t d a b) h body s :=
  ⟨_, fun s => by
    show execVsra h t d a b s = _
    unfold execVsra runVec runSeq
    exact rfl⟩
theorem exec_vclip (h : Hdr) {t} {d} {a} {b} {c} : ∃ body : M Ctl, ∀ s,
    Sys2Proof.Machine.exec (.vclip h t d a b c) s = runHart (.vclip h t d a b c) h body s :=
  ⟨_, fun s => by
    show execVclip h t d a b c s = _
    unfold execVclip runVec runSeq
    exact rfl⟩
theorem exec_vmov (h : Hdr) {t} {d} {a} : ∃ body : M Ctl, ∀ s,
    Sys2Proof.Machine.exec (.vmov h t d a) s = runHart (.vmov h t d a) h body s :=
  ⟨_, fun s => by
    show execVmov h t d a s = _
    unfold execVmov runVec runSeq
    exact rfl⟩
theorem exec_vbcast (h : Hdr) {t} {d} {a} : ∃ body : M Ctl, ∀ s,
    Sys2Proof.Machine.exec (.vbcast h t d a) s = runHart (.vbcast h t d a) h body s :=
  ⟨_, fun s => by
    show execVbcast h t d a s = _
    unfold execVbcast runVec runSeq
    exact rfl⟩
theorem exec_viota (h : Hdr) {row} {t} {d} : ∃ body : M Ctl, ∀ s,
    Sys2Proof.Machine.exec (.viota h row t d) s = runHart (.viota h row t d) h body s :=
  ⟨_, fun s => by
    show execViota h row t d s = _
    unfold execViota runVec runSeq
    exact rfl⟩
theorem exec_vsel (h : Hdr) {t} {d} {a} {b} {c} : ∃ body : M Ctl, ∀ s,
    Sys2Proof.Machine.exec (.vsel h t d a b c) s = runHart (.vsel h t d a b c) h body s :=
  ⟨_, fun s => by
    show execVsel h t d a b c s = _
    unfold execVsel runVec runSeq
    exact rfl⟩
theorem exec_vldi (h : Hdr) {t} {d} {imm} : ∃ body : M Ctl, ∀ s,
    Sys2Proof.Machine.exec (.vldi h t d imm) s = runHart (.vldi h t d imm) h body s :=
  ⟨_, fun s => by
    show execVldi h t d imm s = _
    unfold execVldi runVec runSeq
    exact rfl⟩
theorem exec_setvl (h : Hdr) {t} {d} {a} : ∃ body : M Ctl, ∀ s,
    Sys2Proof.Machine.exec (.setvl h t d a) s = runHart (.setvl h t d a) h body s :=
  ⟨_, fun s => by
    show execSetvl h t d a s = _
    unfold execSetvl runSeq
    exact rfl⟩
theorem exec_setvlRel (h : Hdr) {d} : ∃ body : M Ctl, ∀ s,
    Sys2Proof.Machine.exec (.setvlRel h d) s = runHart (.setvlRel h d) h body s :=
  ⟨_, fun s => by
    show execSetvlRel h d s = _
    unfold execSetvlRel runSeq
    exact rfl⟩
theorem exec_setrc (h : Hdr) {t} {d} {a} : ∃ body : M Ctl, ∀ s,
    Sys2Proof.Machine.exec (.setrc h t d a) s = runHart (.setrc h t d a) h body s :=
  ⟨_, fun s => by
    show execSetrc h t d a s = _
    unfold execSetrc runSeq
    exact rfl⟩
theorem exec_alloc (h : Hdr) {d} {a} : ∃ body : M Ctl, ∀ s,
    Sys2Proof.Machine.exec (.alloc h d a) s = runHart (.alloc h d a) h body s :=
  ⟨_, fun s => by
    show execAlloc h d a s = _
    unfold execAlloc runSeq
    exact rfl⟩
theorem exec_shrink (h : Hdr) {d} {a} : ∃ body : M Ctl, ∀ s,
    Sys2Proof.Machine.exec (.shrink h d a) s = runHart (.shrink h d a) h body s :=
  ⟨_, fun s => by
    show execShrink h d a s = _
    unfold execShrink runSeq
    exact rfl⟩
theorem exec_strip (h : Hdr) {t} {d} {a} {b} {c} {sa} {sb} {sc} : ∃ body : M Ctl, ∀ s,
    Sys2Proof.Machine.exec (.strip h t d a b c sa sb sc) s = runHart (.strip h t d a b c sa sb sc) h body s :=
  ⟨_, fun s => by
    show execStrip h t d a b c sa sb sc s = _
    unfold execStrip
    exact rfl⟩
theorem exec_vrcp (h : Hdr) {t} {rm} {d} {a} : ∃ body : M Ctl, ∀ s,
    Sys2Proof.Machine.exec (.vrcp h t rm d a) s = runHart (.vrcp h t rm d a) h body s :=
  ⟨_, fun s => by
    show execVrcp h t rm d a s = _
    unfold execVrcp runVec runSeq
    exact rfl⟩
theorem exec_vrsq (h : Hdr) {t} {rm} {d} {a} : ∃ body : M Ctl, ∀ s,
    Sys2Proof.Machine.exec (.vrsq h t rm d a) s = runHart (.vrsq h t rm d a) h body s :=
  ⟨_, fun s => by
    show execVrsq h t rm d a s = _
    unfold execVrsq runVec runSeq
    exact rfl⟩
theorem exec_vexp2 (h : Hdr) {t} {rm} {d} {a} : ∃ body : M Ctl, ∀ s,
    Sys2Proof.Machine.exec (.vexp2 h t rm d a) s = runHart (.vexp2 h t rm d a) h body s :=
  ⟨_, fun s => by
    show execVexp2 h t rm d a s = _
    unfold execVexp2 runVec runSeq
    exact rfl⟩
theorem exec_vlog2 (h : Hdr) {t} {rm} {d} {a} : ∃ body : M Ctl, ∀ s,
    Sys2Proof.Machine.exec (.vlog2 h t rm d a) s = runHart (.vlog2 h t rm d a) h body s :=
  ⟨_, fun s => by
    show execVlog2 h t rm d a s = _
    unfold execVlog2 runVec runSeq
    exact rfl⟩
theorem exec_vtanh (h : Hdr) {t} {rm} {d} {a} : ∃ body : M Ctl, ∀ s,
    Sys2Proof.Machine.exec (.vtanh h t rm d a) s = runHart (.vtanh h t rm d a) h body s :=
  ⟨_, fun s => by
    show execVtanh h t rm d a s = _
    unfold execVtanh runVec runSeq
    exact rfl⟩
theorem exec_vcvt (h : Hdr) {t} {u} {rm} {d} {a} : ∃ body : M Ctl, ∀ s,
    Sys2Proof.Machine.exec (.vcvt h t u rm d a) s = runHart (.vcvt h t u rm d a) h body s :=
  ⟨_, fun s => by
    show execVcvt h t u rm d a s = _
    unfold execVcvt runVec runSeq
    exact rfl⟩
theorem exec_vqblk (h : Hdr) {t} {u} {rm} {off} {d} {c} {a} : ∃ body : M Ctl, ∀ s,
    Sys2Proof.Machine.exec (.vqblk h t u rm off d c a) s = runHart (.vqblk h t u rm off d c a) h body s :=
  ⟨_, fun s => by
    show execVqblk h t u rm off d c a s = _
    unfold execVqblk runVec runSeq
    exact rfl⟩
theorem exec_vdqblk (h : Hdr) {t} {u} {rm} {off} {d} {a} {c} : ∃ body : M Ctl, ∀ s,
    Sys2Proof.Machine.exec (.vdqblk h t u rm off d a c) s = runHart (.vdqblk h t u rm off d a c) h body s :=
  ⟨_, fun s => by
    show execVdqblk h t u rm off d a c s = _
    unfold execVdqblk runVec runSeq
    exact rfl⟩
theorem exec_vplane (h : Hdr) {d} {a} : ∃ body : M Ctl, ∀ s,
    Sys2Proof.Machine.exec (.vplane h d a) s = runHart (.vplane h d a) h body s :=
  ⟨_, fun s => by
    show execVplane h d a s = _
    unfold execVplane runVec runSeq
    exact rfl⟩
theorem exec_vunplane (h : Hdr) {p} {d} {a} : ∃ body : M Ctl, ∀ s,
    Sys2Proof.Machine.exec (.vunplane h p d a) s = runHart (.vunplane h p d a) h body s :=
  ⟨_, fun s => by
    show execVunplane h p d a s = _
    unfold execVunplane runVec runSeq
    exact rfl⟩
theorem exec_vrand (h : Hdr) {t} {d} : ∃ body : M Ctl, ∀ s,
    Sys2Proof.Machine.exec (.vrand h t d) s = runHart (.vrand h t d) h body s :=
  ⟨_, fun s => by
    show execVrand h t d s = _
    unfold execVrand runVec runSeq
    exact rfl⟩
theorem exec_klog (h : Hdr) {lut} {d} {a} {b} : ∃ body : M Ctl, ∀ s,
    Sys2Proof.Machine.exec (.klog h lut d a b) s = runHart (.klog h lut d a b) h body s :=
  ⟨_, fun s => by
    show execKlog h lut d a b s = _
    unfold execKlog runMask runSeq
    exact rfl⟩
theorem exec_kcnt (h : Hdr) {d} {a} : ∃ body : M Ctl, ∀ s,
    Sys2Proof.Machine.exec (.kcnt h d a) s = runHart (.kcnt h d a) h body s :=
  ⟨_, fun s => by
    show execKcnt h d a s = _
    unfold execKcnt runMask runSeq
    exact rfl⟩
theorem exec_kfirst (h : Hdr) {d} {a} : ∃ body : M Ctl, ∀ s,
    Sys2Proof.Machine.exec (.kfirst h d a) s = runHart (.kfirst h d a) h body s :=
  ⟨_, fun s => by
    show execKfirst h d a s = _
    unfold execKfirst runMask runSeq
    exact rfl⟩
theorem exec_mpush (h : Hdr) {a} : ∃ body : M Ctl, ∀ s,
    Sys2Proof.Machine.exec (.mpush h a) s = runHart (.mpush h a) h body s :=
  ⟨_, fun s => by
    show execMpush h a s = _
    unfold execMpush runMask runSeq
    exact rfl⟩
theorem exec_minv (h : Hdr) : ∃ body : M Ctl, ∀ s,
    Sys2Proof.Machine.exec (.minv h) s = runHart (.minv h) h body s :=
  ⟨_, fun s => by
    show execMinv h s = _
    unfold execMinv runMask runSeq
    exact rfl⟩
theorem exec_mpop (h : Hdr) : ∃ body : M Ctl, ∀ s,
    Sys2Proof.Machine.exec (.mpop h) s = runHart (.mpop h) h body s :=
  ⟨_, fun s => by
    show execMpop h s = _
    unfold execMpop runMask runSeq
    exact rfl⟩
theorem exec_mbrz (h : Hdr) {nz} {off} : ∃ body : M Ctl, ∀ s,
    Sys2Proof.Machine.exec (.mbrz h nz off) s = runHart (.mbrz h nz off) h body s :=
  ⟨_, fun s => by
    show execMbrz h nz off s = _
    unfold execMbrz
    exact rfl⟩
theorem exec_vtrip (h : Hdr) {t} {d} {a} : ∃ body : M Ctl, ∀ s,
    Sys2Proof.Machine.exec (.vtrip h t d a) s = runHart (.vtrip h t d a) h body s :=
  ⟨_, fun s => by
    show execVtrip h t d a s = _
    unfold execVtrip runVec runSeq
    exact rfl⟩
theorem exec_mloop (h : Hdr) {t} {a} {off} : ∃ body : M Ctl, ∀ s,
    Sys2Proof.Machine.exec (.mloop h t a off) s = runHart (.mloop h t a off) h body s :=
  ⟨_, fun s => by
    show execMloop h t a off s = _
    unfold execMloop
    exact rfl⟩
theorem exec_vred (h : Hdr) {op} {seg} {t} {rm} {d} {a} : ∃ body : M Ctl, ∀ s,
    Sys2Proof.Machine.exec (.vred h op seg t rm d a) s = runHart (.vred h op seg t rm d a) h body s :=
  ⟨_, fun s => by
    show execVred h op seg t rm d a s = _
    unfold execVred runJunction runSeq
    exact rfl⟩
theorem exec_vredp (h : Hdr) {seg} {t} {d} {a} {b} : ∃ body : M Ctl, ∀ s,
    Sys2Proof.Machine.exec (.vredp h seg t d a b) s = runHart (.vredp h seg t d a b) h body s :=
  ⟨_, fun s => by
    show execVredp h seg t d a b s = _
    unfold execVredp runJunction runSeq
    exact rfl⟩
theorem exec_vscan (h : Hdr) {op} {seg} {t} {rm} {d} {a} : ∃ body : M Ctl, ∀ s,
    Sys2Proof.Machine.exec (.vscan h op seg t rm d a) s = runHart (.vscan h op seg t rm d a) h body s :=
  ⟨_, fun s => by
    show execVscan h op seg t rm d a s = _
    unfold execVscan runJunction runSeq
    exact rfl⟩
theorem exec_vperm (h : Hdr) {seg} {ix} {t} {d} {a} {b} : ∃ body : M Ctl, ∀ s,
    Sys2Proof.Machine.exec (.vperm h seg ix t d a b) s = runHart (.vperm h seg ix t d a b) h body s :=
  ⟨_, fun s => by
    show execVperm h seg ix t d a b s = _
    unfold execVperm runJunction runSeq
    exact rfl⟩
theorem exec_vslide (h : Hdr) {seg} {wrap} {t} {d} {a} {b} : ∃ body : M Ctl, ∀ s,
    Sys2Proof.Machine.exec (.vslide h seg wrap t d a b) s = runHart (.vslide h seg wrap t d a b) h body s :=
  ⟨_, fun s => by
    show execVslide h seg wrap t d a b s = _
    unfold execVslide runJunction runSeq
    exact rfl⟩
theorem exec_vzip (h : Hdr) {seg} {hi} {t} {d} {a} {b} : ∃ body : M Ctl, ∀ s,
    Sys2Proof.Machine.exec (.vzip h seg hi t d a b) s = runHart (.vzip h seg hi t d a b) h body s :=
  ⟨_, fun s => by
    show execVzip h seg hi t d a b s = _
    unfold execVzip runJunction runSeq
    exact rfl⟩
theorem exec_vunzip (h : Hdr) {seg} {odd} {t} {d} {a} {b} : ∃ body : M Ctl, ∀ s,
    Sys2Proof.Machine.exec (.vunzip h seg odd t d a b) s = runHart (.vunzip h seg odd t d a b) h body s :=
  ⟨_, fun s => by
    show execVunzip h seg odd t d a b s = _
    unfold execVunzip runJunction runSeq
    exact rfl⟩
theorem exec_vtrn (h : Hdr) {t} {d} {a} : ∃ body : M Ctl, ∀ s,
    Sys2Proof.Machine.exec (.vtrn h t d a) s = runHart (.vtrn h t d a) h body s :=
  ⟨_, fun s => by
    show execVtrn h t d a s = _
    unfold execVtrn runJunction runSeq
    exact rfl⟩
theorem exec_vcompress (h : Hdr) {z} {t} {d} {a} {e} : ∃ body : M Ctl, ∀ s,
    Sys2Proof.Machine.exec (.vcompress h z t d a e) s = runHart (.vcompress h z t d a e) h body s :=
  ⟨_, fun s => by
    show execVcompress h z t d a e s = _
    unfold execVcompress runJunction runSeq
    exact rfl⟩
theorem exec_vexpand (h : Hdr) {z} {t} {d} {a} : ∃ body : M Ctl, ∀ s,
    Sys2Proof.Machine.exec (.vexpand h z t d a) s = runHart (.vexpand h z t d a) h body s :=
  ⟨_, fun s => by
    show execVexpand h z t d a s = _
    unfold execVexpand runJunction runSeq
    exact rfl⟩
theorem exec_vsortk (h : Hdr) {desc} {t} {d} {e} {a} {b} : ∃ body : M Ctl, ∀ s,
    Sys2Proof.Machine.exec (.vsortk h desc t d e a b) s = runHart (.vsortk h desc t d e a b) h body s :=
  ⟨_, fun s => by
    show execVsortk h desc t d e a b s = _
    unfold execVsortk runJunction runSeq
    exact rfl⟩
theorem exec_vextr (h : Hdr) {t} {d} {a} {b} : ∃ body : M Ctl, ∀ s,
    Sys2Proof.Machine.exec (.vextr h t d a b) s = runHart (.vextr h t d a b) h body s :=
  ⟨_, fun s => by
    show execVextr h t d a b s = _
    unfold execVextr runJunction runSeq
    exact rfl⟩
theorem exec_vinsr (h : Hdr) {t} {d} {a} {b} : ∃ body : M Ctl, ∀ s,
    Sys2Proof.Machine.exec (.vinsr h t d a b) s = runHart (.vinsr h t d a b) h body s :=
  ⟨_, fun s => by
    show execVinsr h t d a b s = _
    unfold execVinsr runJunction runSeq
    exact rfl⟩
theorem exec_rdv (h : Hdr) {d} : ∃ body : M Ctl, ∀ s,
    Sys2Proof.Machine.exec (.rdv h d) s = runHart (.rdv h d) h body s :=
  ⟨_, fun s => by
    show execRdv h d s = _
    unfold execRdv runSeq
    exact rfl⟩
theorem exec_vld (h : Hdr) {t} {d} {m} : ∃ body : M Ctl, ∀ s,
    Sys2Proof.Machine.exec (.vld h t d m) s = runHart (.vld h t d m) h body s :=
  ⟨_, fun s => by
    show execVld h t d m s = _
    unfold execVld runAccess runVec runSeq
    exact rfl⟩
theorem exec_vlds (h : Hdr) {t} {d} {m} : ∃ body : M Ctl, ∀ s,
    Sys2Proof.Machine.exec (.vlds h t d m) s = runHart (.vlds h t d m) h body s :=
  ⟨_, fun s => by
    show execVlds h t d m s = _
    unfold execVlds runAccess runVec runSeq
    exact rfl⟩
theorem exec_vldx (h : Hdr) {t} {ix} {d} {a} {b} {scl} {disp} : ∃ body : M Ctl, ∀ s,
    Sys2Proof.Machine.exec (.vldx h t ix d a b scl disp) s = runHart (.vldx h t ix d a b scl disp) h body s :=
  ⟨_, fun s => by
    show execVldx h t ix d a b scl disp s = _
    unfold execVldx runAccess runVec runSeq
    exact rfl⟩
theorem exec_vst (h : Hdr) {t} {d} {m} : ∃ body : M Ctl, ∀ s,
    Sys2Proof.Machine.exec (.vst h t d m) s = runHart (.vst h t d m) h body s :=
  ⟨_, fun s => by
    show execVst h t d m s = _
    unfold execVst runAccess runVec runSeq
    exact rfl⟩
theorem exec_vsts (h : Hdr) {t} {d} {m} : ∃ body : M Ctl, ∀ s,
    Sys2Proof.Machine.exec (.vsts h t d m) s = runHart (.vsts h t d m) h body s :=
  ⟨_, fun s => by
    show execVsts h t d m s = _
    unfold execVsts runAccess runVec runSeq
    exact rfl⟩
theorem exec_vstx (h : Hdr) {t} {ix} {d} {a} {b} {scl} {disp} : ∃ body : M Ctl, ∀ s,
    Sys2Proof.Machine.exec (.vstx h t ix d a b scl disp) s = runHart (.vstx h t ix d a b scl disp) h body s :=
  ⟨_, fun s => by
    show execVstx h t ix d a b scl disp s = _
    unfold execVstx runAccess runVec runSeq
    exact rfl⟩
theorem exec_vstu (h : Hdr) {t} {ix} {d} {a} {b} {scl} {disp} : ∃ body : M Ctl, ∀ s,
    Sys2Proof.Machine.exec (.vstu h t ix d a b scl disp) s = runHart (.vstu h t ix d a b scl disp) h body s :=
  ⟨_, fun s => by
    show execVstu h t ix d a b scl disp s = _
    unfold execVstu runAccess runVec runSeq
    exact rfl⟩
theorem exec_vstxa (h : Hdr) {t} {ix} {d} {a} {b} {scl} {disp} : ∃ body : M Ctl, ∀ s,
    Sys2Proof.Machine.exec (.vstxa h t ix d a b scl disp) s = runHart (.vstxa h t ix d a b scl disp) h body s :=
  ⟨_, fun s => by
    show execVstxa h t ix d a b scl disp s = _
    unfold execVstxa runAccess runVec runSeq
    exact rfl⟩
theorem exec_vfence (h : Hdr) {k} {sc} : ∃ body : M Ctl, ∀ s,
    Sys2Proof.Machine.exec (.vfence h k sc) s = runHart (.vfence h k sc) h body s :=
  ⟨_, fun s => by
    show execVfence h k sc s = _
    unfold execVfence runSeq
    exact rfl⟩
theorem exec_pref (h : Hdr) {l2} {d} {m} : ∃ body : M Ctl, ∀ s,
    Sys2Proof.Machine.exec (.pref h l2 d m) s = runHart (.pref h l2 d m) h body s :=
  ⟨_, fun s => by
    show execPref h l2 d m s = _
    unfold execPref runSeq
    exact rfl⟩
theorem exec_gset (h : Hdr) {d} {a} {b} : ∃ body : M Ctl, ∀ s,
    Sys2Proof.Machine.exec (.gset h d a b) s = runHart (.gset h d a b) h body s :=
  ⟨_, fun s => by
    show execGset h d a b s = _
    unfold execGset runPlain runSeq
    exact rfl⟩
theorem exec_gsetFree (h : Hdr) {d} : ∃ body : M Ctl, ∀ s,
    Sys2Proof.Machine.exec (.gsetFree h d) s = runHart (.gsetFree h d) h body s :=
  ⟨_, fun s => by
    show execGsetFree h d s = _
    unfold execGsetFree runPlain runSeq
    exact rfl⟩
theorem exec_vgred (h : Hdr) {op} {t} {d} {a} {c} : ∃ body : M Ctl, ∀ s,
    Sys2Proof.Machine.exec (.vgred h op t d a c) s = runHart (.vgred h op t d a c) h body s :=
  ⟨_, fun s => by
    show execVgred h op t d a c s = _
    unfold execVgred runJunction runSeq
    exact rfl⟩
theorem exec_vgall (h : Hdr) {t} {d} {a} {c} : ∃ body : M Ctl, ∀ s,
    Sys2Proof.Machine.exec (.vgall h t d a c) s = runHart (.vgall h t d a c) h body s :=
  ⟨_, fun s => by
    show execVgall h t d a c s = _
    unfold execVgall runJunction runSeq
    exact rfl⟩
theorem exec_vgrs (h : Hdr) {op} {t} {d} {a} {c} : ∃ body : M Ctl, ∀ s,
    Sys2Proof.Machine.exec (.vgrs h op t d a c) s = runHart (.vgrs h op t d a c) h body s :=
  ⟨_, fun s => by
    show execVgrs h op t d a c s = _
    unfold execVgrs runJunction runSeq
    exact rfl⟩
theorem exec_vgbc (h : Hdr) {t} {d} {a} {c} {b} : ∃ body : M Ctl, ∀ s,
    Sys2Proof.Machine.exec (.vgbc h t d a c b) s = runHart (.vgbc h t d a c b) h body s :=
  ⟨_, fun s => by
    show execVgbc h t d a c b s = _
    unfold execVgbc runJunction runSeq
    exact rfl⟩
theorem exec_stream (h : Hdr) {d} {a} : ∃ body : M Ctl, ∀ s,
    Sys2Proof.Machine.exec (.stream h d a) s = runHart (.stream h d a) h body s :=
  ⟨_, fun s => by
    show execStream h d a s = _
    unfold execStream runPlain runSeq
    exact rfl⟩
theorem exec_armw (h : Hdr) {d} {m} : ∃ body : M Ctl, ∀ s,
    Sys2Proof.Machine.exec (.armw h d m) s = runHart (.armw h d m) h body s :=
  ⟨_, fun s => by
    show execArmw h d m s = _
    unfold execArmw runPlain runSeq
    exact rfl⟩
theorem exec_waitw (h : Hdr) {d} {m} : ∃ body : M Ctl, ∀ s,
    Sys2Proof.Machine.exec (.waitw h d m) s = runHart (.waitw h d m) h body s :=
  ⟨_, fun s => by
    show execWaitw h d m s = _
    unfold execWaitw runPlain runSeq
    exact rfl⟩
theorem exec_jobwait (h : Hdr) {d} {a} : ∃ body : M Ctl, ∀ s,
    Sys2Proof.Machine.exec (.jobwait h d a) s = runHart (.jobwait h d a) h body s :=
  ⟨_, fun s => by
    show execJobwait h d a s = _
    unfold execJobwait runPlain runSeq
    exact rfl⟩
theorem exec_ovopen (h : Hdr) {d} : ∃ body : M Ctl, ∀ s,
    Sys2Proof.Machine.exec (.ovopen h d) s = runHart (.ovopen h d) h body s :=
  ⟨_, fun s => by
    show execOvopen h d s = _
    unfold execOvopen runSeq
    exact rfl⟩
theorem exec_ovopenTry (h : Hdr) {d} {c} : ∃ body : M Ctl, ∀ s,
    Sys2Proof.Machine.exec (.ovopenTry h d c) s = runHart (.ovopenTry h d c) h body s :=
  ⟨_, fun s => by
    show execOvopenTry h d c s = _
    unfold execOvopenTry runSeq
    exact rfl⟩
theorem exec_ovset (h : Hdr) {a} : ∃ body : M Ctl, ∀ s,
    Sys2Proof.Machine.exec (.ovset h a) s = runHart (.ovset h a) h body s :=
  ⟨_, fun s => by
    show execOvset h a s = _
    unfold execOvset runSeq
    exact rfl⟩
theorem exec_ovretire (h : Hdr) {d} {a} : ∃ body : M Ctl, ∀ s,
    Sys2Proof.Machine.exec (.ovretire h d a) s = runHart (.ovretire h d a) h body s :=
  ⟨_, fun s => by
    show execOvretire h d a s = _
    unfold execOvretire runSeq
    exact rfl⟩
theorem exec_ovcommit (h : Hdr) {sc} {d} {a} : ∃ body : M Ctl, ∀ s,
    Sys2Proof.Machine.exec (.ovcommit h sc d a) s = runHart (.ovcommit h sc d a) h body s :=
  ⟨_, fun s => by
    show execOvcommit h sc d a s = _
    unfold execOvcommit runSeq
    exact rfl⟩
theorem exec_ldo (h : Hdr) {t} {d} {a} {b} {disp} : ∃ body : M Ctl, ∀ s,
    Sys2Proof.Machine.exec (.ldo h t d a b disp) s = runHart (.ldo h t d a b disp) h body s :=
  ⟨_, fun s => by
    show execLdo h t d a b disp s = _
    unfold execLdo runSeq
    exact rfl⟩
theorem exec_vldo (h : Hdr) {t} {d} {a} {b} {disp} : ∃ body : M Ctl, ∀ s,
    Sys2Proof.Machine.exec (.vldo h t d a b disp) s = runHart (.vldo h t d a b disp) h body s :=
  ⟨_, fun s => by
    show execVldo h t d a b disp s = _
    unfold execVldo runVec runSeq
    exact rfl⟩
theorem exec_ovstat (h : Hdr) {sel} {d} {a} : ∃ body : M Ctl, ∀ s,
    Sys2Proof.Machine.exec (.ovstat h sel d a) s = runHart (.ovstat h sel d a) h body s :=
  ⟨_, fun s => by
    show execOvstat h sel d a s = _
    unfold execOvstat runSeq
    exact rfl⟩
theorem exec_carve (h : Hdr) {d} {a} : ∃ body : M Ctl, ∀ s,
    Sys2Proof.Machine.exec (.carve h d a) s = runHart (.carve h d a) h body s :=
  ⟨_, fun s => by
    show execCarve h d a s = _
    unfold execCarve runSeq
    exact rfl⟩
theorem exec_cclean (h : Hdr) {l2} {d} {m} : ∃ body : M Ctl, ∀ s,
    Sys2Proof.Machine.exec (.cclean h l2 d m) s = runHart (.cclean h l2 d m) h body s :=
  ⟨_, fun s => by
    show execCclean h l2 d m s = _
    unfold execCclean runSeq
    exact rfl⟩
theorem exec_cinv (h : Hdr) {l2} {d} {m} : ∃ body : M Ctl, ∀ s,
    Sys2Proof.Machine.exec (.cinv h l2 d m) s = runHart (.cinv h l2 d m) h body s :=
  ⟨_, fun s => by
    show execCinv h l2 d m s = _
    unfold execCinv runSeq
    exact rfl⟩
theorem exec_cflush (h : Hdr) {l2} {d} {m} : ∃ body : M Ctl, ∀ s,
    Sys2Proof.Machine.exec (.cflush h l2 d m) s = runHart (.cflush h l2 d m) h body s :=
  ⟨_, fun s => by
    show execCflush h l2 d m s = _
    unfold execCflush runSeq
    exact rfl⟩
theorem exec_tlbiAll (h : Hdr) : ∃ body : M Ctl, ∀ s,
    Sys2Proof.Machine.exec (.tlbiAll h) s = runHart (.tlbiAll h) h body s :=
  ⟨_, fun s => by
    show execTlbiAll h s = _
    unfold execTlbiAll runSeq
    exact rfl⟩
theorem exec_tlbiAsid (h : Hdr) {a} : ∃ body : M Ctl, ∀ s,
    Sys2Proof.Machine.exec (.tlbiAsid h a) s = runHart (.tlbiAsid h a) h body s :=
  ⟨_, fun s => by
    show execTlbiAsid h a s = _
    unfold execTlbiAsid runSeq
    exact rfl⟩
theorem exec_tlbiRange (h : Hdr) {a} {b} {c} : ∃ body : M Ctl, ∀ s,
    Sys2Proof.Machine.exec (.tlbiRange h a b c) s = runHart (.tlbiRange h a b c) h body s :=
  ⟨_, fun s => by
    show execTlbiRange h a b c s = _
    unfold execTlbiRange runSeq
    exact rfl⟩
theorem exec_digest (h : Hdr) {d} {a} : ∃ body : M Ctl, ∀ s,
    Sys2Proof.Machine.exec (.digest h d a) s = runHart (.digest h d a) h body s :=
  ⟨_, fun s => by
    show execDigest h d a s = _
    unfold execDigest runSeq
    exact rfl⟩
theorem exec_digestRng (h : Hdr) {d} {a} {b} : ∃ body : M Ctl, ∀ s,
    Sys2Proof.Machine.exec (.digestRng h d a b) s = runHart (.digestRng h d a b) h body s :=
  ⟨_, fun s => by
    show execDigestRng h d a b s = _
    unfold execDigestRng runSeq
    exact rfl⟩
theorem exec_budget (h : Hdr) {d} {cls} {res} : ∃ body : M Ctl, ∀ s,
    Sys2Proof.Machine.exec (.budget h d cls res) s = runHart (.budget h d cls res) h body s :=
  ⟨_, fun s => by
    show execBudget h d cls res s = _
    unfold execBudget runSeq
    exact rfl⟩
theorem exec_budgetW (h : Hdr) {d} {a} {cls} {res} : ∃ body : M Ctl, ∀ s,
    Sys2Proof.Machine.exec (.budgetW h d a cls res) s = runHart (.budgetW h d a cls res) h body s :=
  ⟨_, fun s => by
    show execBudgetW h d a cls res s = _
    unfold execBudgetW runSeq
    exact rfl⟩
theorem exec_mattach (h : Hdr) {d} {a} : ∃ body : M Ctl, ∀ s,
    Sys2Proof.Machine.exec (.mattach h d a) s = runHart (.mattach h d a) h body s :=
  ⟨_, fun s => by
    show execMattach h d a s = _
    unfold execMattach runMatrix runSeq
    exact rfl⟩
theorem exec_mattachPair (h : Hdr) {d} {a} : ∃ body : M Ctl, ∀ s,
    Sys2Proof.Machine.exec (.mattachPair h d a) s = runHart (.mattachPair h d a) h body s :=
  ⟨_, fun s => by
    show execMattachPair h d a s = _
    unfold execMattachPair runMatrix runSeq
    exact rfl⟩
theorem exec_mdetach (h : Hdr) : ∃ body : M Ctl, ∀ s,
    Sys2Proof.Machine.exec (.mdetach h) s = runHart (.mdetach h) h body s :=
  ⟨_, fun s => by
    show execMdetach h s = _
    unfold execMdetach runMatrix runSeq
    exact rfl⟩
theorem exec_mwld (h : Hdr) {dst} {d} {a} : ∃ body : M Ctl, ∀ s,
    Sys2Proof.Machine.exec (.mwld h dst d a) s = runHart (.mwld h dst d a) h body s :=
  ⟨_, fun s => by
    show execMwld h dst d a s = _
    unfold execMwld runMatrix runSeq
    exact rfl⟩
theorem exec_mstream (h : Hdr) {c} {d} {a} : ∃ body : M Ctl, ∀ s,
    Sys2Proof.Machine.exec (.mstream h c d a) s = runHart (.mstream h c d a) h body s :=
  ⟨_, fun s => by
    show execMstream h c d a s = _
    unfold execMstream runMatrix runSeq
    exact rfl⟩
theorem exec_mzeroFp (h : Hdr) {row0} {m} : ∃ body : M Ctl, ∀ s,
    Sys2Proof.Machine.exec (.mzeroFp h row0 m) s = runHart (.mzeroFp h row0 m) h body s :=
  ⟨_, fun s => by
    show execMzeroFp h row0 m s = _
    unfold execMzeroFp runMatrix runSeq
    exact rfl⟩
theorem exec_mzeroInt (h : Hdr) {row0} {m} : ∃ body : M Ctl, ∀ s,
    Sys2Proof.Machine.exec (.mzeroInt h row0 m) s = runHart (.mzeroInt h row0 m) h body s :=
  ⟨_, fun s => by
    show execMzeroInt h row0 m s = _
    unfold execMzeroInt runMatrix runSeq
    exact rfl⟩
theorem exec_mdrain (h : Hdr) {c} {a} {b} : ∃ body : M Ctl, ∀ s,
    Sys2Proof.Machine.exec (.mdrain h c a b) s = runHart (.mdrain h c a b) h body s :=
  ⟨_, fun s => by
    show execMdrain h c a b s = _
    unfold execMdrain runSeq
    exact rfl⟩
theorem exec_mdrainIdx (h : Hdr) {c} {a} {d} : ∃ body : M Ctl, ∀ s,
    Sys2Proof.Machine.exec (.mdrainIdx h c a d) s = runHart (.mdrainIdx h c a d) h body s :=
  ⟨_, fun s => by
    show execMdrainIdx h c a d s = _
    unfold execMdrainIdx runSeq
    exact rfl⟩
theorem exec_msave (h : Hdr) {d} {m} : ∃ body : M Ctl, ∀ s,
    Sys2Proof.Machine.exec (.msave h d m) s = runHart (.msave h d m) h body s :=
  ⟨_, fun s => by
    show execMsave h d m s = _
    unfold execMsave runMatrix runSeq
    exact rfl⟩
theorem exec_mrestore (h : Hdr) {d} {m} : ∃ body : M Ctl, ∀ s,
    Sys2Proof.Machine.exec (.mrestore h d m) s = runHart (.mrestore h d m) h body s :=
  ⟨_, fun s => by
    show execMrestore h d m s = _
    unfold execMrestore runMatrix runSeq
    exact rfl⟩
theorem exec_mlineEmpty (h : Hdr) {d} {m} : ∃ body : M Ctl, ∀ s,
    Sys2Proof.Machine.exec (.mlineEmpty h d m) s = runHart (.mlineEmpty h d m) h body s :=
  ⟨_, fun s => by
    show execMlineEmpty h d m s = _
    unfold execMlineEmpty runMatrix runSeq
    exact rfl⟩
theorem exec_mlineFull (h : Hdr) {d} {m} : ∃ body : M Ctl, ∀ s,
    Sys2Proof.Machine.exec (.mlineFull h d m) s = runHart (.mlineFull h d m) h body s :=
  ⟨_, fun s => by
    show execMlineFull h d m s = _
    unfold execMlineFull runMatrix runSeq
    exact rfl⟩
theorem exec_mlineWfull (h : Hdr) {d} {m} : ∃ body : M Ctl, ∀ s,
    Sys2Proof.Machine.exec (.mlineWfull h d m) s = runHart (.mlineWfull h d m) h body s :=
  ⟨_, fun s => by
    show execMlineWfull h d m s = _
    unfold execMlineWfull runMatrix runSeq
    exact rfl⟩
theorem exec_mlineWempty (h : Hdr) {d} {m} : ∃ body : M Ctl, ∀ s,
    Sys2Proof.Machine.exec (.mlineWempty h d m) s = runHart (.mlineWempty h d m) h body s :=
  ⟨_, fun s => by
    show execMlineWempty h d m s = _
    unfold execMlineWempty runMatrix runSeq
    exact rfl⟩
theorem exec_mwait (h : Hdr) {d} {a} : ∃ body : M Ctl, ∀ s,
    Sys2Proof.Machine.exec (.mwait h d a) s = runHart (.mwait h d a) h body s :=
  ⟨_, fun s => by
    show execMwait h d a s = _
    unfold execMwait runMatrix runSeq
    exact rfl⟩
theorem exec_mstat (h : Hdr) {sel} {d} {a} : ∃ body : M Ctl, ∀ s,
    Sys2Proof.Machine.exec (.mstat h sel d a) s = runHart (.mstat h sel d a) h body s :=
  ⟨_, fun s => by
    show execMstat h sel d a s = _
    unfold execMstat runMatrix runSeq
    exact rfl⟩
theorem exec_tvload (h : Hdr) {d} {a} {g} : ∃ body : M Ctl, ∀ s,
    Sys2Proof.Machine.exec (.tvload h d a g) s = runHart (.tvload h d a g) h body s :=
  ⟨_, fun s => by
    show execTvload h d a g s = _
    unfold execTvload runSeq
    exact rfl⟩
theorem exec_tvloadFree (h : Hdr) {a} : ∃ body : M Ctl, ∀ s,
    Sys2Proof.Machine.exec (.tvloadFree h a) s = runHart (.tvloadFree h a) h body s :=
  ⟨_, fun s => by
    show execTvloadFree h a s = _
    unfold execTvloadFree runSeq
    exact rfl⟩
theorem exec_tvstart (h : Hdr) {chn} {d} {a} : ∃ body : M Ctl, ∀ s,
    Sys2Proof.Machine.exec (.tvstart h chn d a) s = runHart (.tvstart h chn d a) h body s :=
  ⟨_, fun s => by
    show execTvstart h chn d a s = _
    unfold execTvstart runSeq
    exact rfl⟩
theorem exec_tvwait (h : Hdr) {d} {a} : ∃ body : M Ctl, ∀ s,
    Sys2Proof.Machine.exec (.tvwait h d a) s = runHart (.tvwait h d a) h body s :=
  ⟨_, fun s => by
    show execTvwait h d a s = _
    unfold execTvwait runSeq
    exact rfl⟩
theorem exec_tvstat (h : Hdr) {sel} {d} {a} : ∃ body : M Ctl, ∀ s,
    Sys2Proof.Machine.exec (.tvstat h sel d a) s = runHart (.tvstat h sel d a) h body s :=
  ⟨_, fun s => by
    show execTvstat h sel d a s = _
    unfold execTvstat runSeq
    exact rfl⟩
theorem exec_gzlook (h : Hdr) {d} {a} : ∃ body : M Ctl, ∀ s,
    Sys2Proof.Machine.exec (.gzlook h d a) s = runHart (.gzlook h d a) h body s :=
  ⟨_, fun s => by
    show execGzlook h d a s = _
    unfold execGzlook runSeq
    exact rfl⟩
theorem exec_gzupdate (h : Hdr) {d} {a} : ∃ body : M Ctl, ∀ s,
    Sys2Proof.Machine.exec (.gzupdate h d a) s = runHart (.gzupdate h d a) h body s :=
  ⟨_, fun s => by
    show execGzupdate h d a s = _
    unfold execGzupdate runSeq
    exact rfl⟩
theorem exec_gzver (h : Hdr) {ver} {d} {a} : ∃ body : M Ctl, ∀ s,
    Sys2Proof.Machine.exec (.gzver h ver d a) s = runHart (.gzver h ver d a) h body s :=
  ⟨_, fun s => by
    show execGzver h ver d a s = _
    unfold execGzver runSeq
    exact rfl⟩
theorem exec_gzpin (h : Hdr) {n} {d} {a} {b} : ∃ body : M Ctl, ∀ s,
    Sys2Proof.Machine.exec (.gzpin h n d a b) s = runHart (.gzpin h n d a b) h body s :=
  ⟨_, fun s => by
    show execGzpin h n d a b s = _
    unfold execGzpin runSeq
    exact rfl⟩
theorem exec_gzpinUn (h : Hdr) {n} {d} {a} {b} : ∃ body : M Ctl, ∀ s,
    Sys2Proof.Machine.exec (.gzpinUn h n d a b) s = runHart (.gzpinUn h n d a b) h body s :=
  ⟨_, fun s => by
    show execGzpinUn h n d a b s = _
    unfold execGzpinUn runSeq
    exact rfl⟩
theorem exec_gzwait (h : Hdr) {d} {a} : ∃ body : M Ctl, ∀ s,
    Sys2Proof.Machine.exec (.gzwait h d a) s = runHart (.gzwait h d a) h body s :=
  ⟨_, fun s => by
    show execGzwait h d a s = _
    unfold execGzwait runSeq
    exact rfl⟩
theorem exec_launch (h : Hdr) {d} {a} : ∃ body : M Ctl, ∀ s,
    Sys2Proof.Machine.exec (.launch h d a) s = runHart (.launch h d a) h body s :=
  ⟨_, fun s => by
    show execLaunch h d a s = _
    unfold execLaunch runSeq
    exact rfl⟩
theorem exec_launchTry (h : Hdr) {d} {a} : ∃ body : M Ctl, ∀ s,
    Sys2Proof.Machine.exec (.launchTry h d a) s = runHart (.launchTry h d a) h body s :=
  ⟨_, fun s => by
    show execLaunchTry h d a s = _
    unfold execLaunchTry runSeq
    exact rfl⟩
theorem exec_trig (h : Hdr) : ∃ body : M Ctl, ∀ s,
    Sys2Proof.Machine.exec (.trig h) s = runHart (.trig h) h body s :=
  ⟨_, fun s => by
    show execTrig h s = _
    unfold execTrig runSeq
    exact rfl⟩
theorem exec_bar (h : Hdr) {l} : ∃ body : M Ctl, ∀ s,
    Sys2Proof.Machine.exec (.bar h l) s = runHart (.bar h l) h body s :=
  ⟨_, fun s => by
    show execBar h l s = _
    unfold execBar runSeq
    exact rfl⟩
theorem exec_waitl (h : Hdr) {sc} {d} {a} {b} : ∃ body : M Ctl, ∀ s,
    Sys2Proof.Machine.exec (.waitl h sc d a b) s = runHart (.waitl h sc d a b) h body s :=
  ⟨_, fun s => by
    show execWaitl h sc d a b s = _
    unfold execWaitl runSeq
    exact rfl⟩
theorem exec_lvlid (h : Hdr) {lev} {sel} {d} : ∃ body : M Ctl, ∀ s,
    Sys2Proof.Machine.exec (.lvlid h lev sel d) s = runHart (.lvlid h lev sel d) h body s :=
  ⟨_, fun s => by
    show execLvlid h lev sel d s = _
    unfold execLvlid runSeq
    exact rfl⟩
theorem exec_mtick (h : Hdr) {d} : ∃ body : M Ctl, ∀ s,
    Sys2Proof.Machine.exec (.mtick h d) s = runHart (.mtick h d) h body s :=
  ⟨_, fun s => by
    show execMtick h d s = _
    unfold execMtick runSeq
    exact rfl⟩
theorem exec_mtickOrd (h : Hdr) {d} : ∃ body : M Ctl, ∀ s,
    Sys2Proof.Machine.exec (.mtickOrd h d) s = runHart (.mtickOrd h d) h body s :=
  ⟨_, fun s => by
    show execMtickOrd h d s = _
    unfold execMtickOrd runSeq
    exact rfl⟩
theorem exec_svmark (h : Hdr) {code} {a} : ∃ body : M Ctl, ∀ s,
    Sys2Proof.Machine.exec (.svmark h code a) s = runHart (.svmark h code a) h body s :=
  ⟨_, fun s => by
    show execSvmark h code a s = _
    unfold execSvmark runSurvey runSeq
    exact rfl⟩
theorem exec_svsamp (h : Hdr) {n} {a} : ∃ body : M Ctl, ∀ s,
    Sys2Proof.Machine.exec (.svsamp h n a) s = runHart (.svsamp h n a) h body s :=
  ⟨_, fun s => by
    show execSvsamp h n a s = _
    unfold execSvsamp runSurvey runSeq
    exact rfl⟩
theorem exec_svsampOff (h : Hdr) : ∃ body : M Ctl, ∀ s,
    Sys2Proof.Machine.exec (.svsampOff h) s = runHart (.svsampOff h) h body s :=
  ⟨_, fun s => by
    show execSvsampOff h s = _
    unfold execSvsampOff runSurvey runSeq
    exact rfl⟩
theorem exec_svread (h : Hdr) {sel} {d} {a} : ∃ body : M Ctl, ∀ s,
    Sys2Proof.Machine.exec (.svread h sel d a) s = runHart (.svread h sel d a) h body s :=
  ⟨_, fun s => by
    show execSvread h sel d a s = _
    unfold execSvread runSurvey runSeq
    exact rfl⟩
theorem exec_svstop (h : Hdr) {d} {a} : ∃ body : M Ctl, ∀ s,
    Sys2Proof.Machine.exec (.svstop h d a) s = runHart (.svstop h d a) h body s :=
  ⟨_, fun s => by
    show execSvstop h d a s = _
    unfold execSvstop runSurvey runSeq
    exact rfl⟩
theorem exec_clklock (h : Hdr) {p} {d} : ∃ body : M Ctl, ∀ s,
    Sys2Proof.Machine.exec (.clklock h p d) s = runHart (.clklock h p d) h body s :=
  ⟨_, fun s => by
    show execClklock h p d s = _
    unfold execClklock runSurvey runSeq
    exact rfl⟩
theorem exec_clklockOff (h : Hdr) {d} : ∃ body : M Ctl, ∀ s,
    Sys2Proof.Machine.exec (.clklockOff h d) s = runHart (.clklockOff h d) h body s :=
  ⟨_, fun s => by
    show execClklockOff h d s = _
    unfold execClklockOff runSurvey runSeq
    exact rfl⟩
theorem exec_dhash (h : Hdr) {d} {a} {b} : ∃ body : M Ctl, ∀ s,
    Sys2Proof.Machine.exec (.dhash h d a b) s = runHart (.dhash h d a b) h body s :=
  ⟨_, fun s => by
    show execDhash h d a b s = _
    unfold execDhash runUnit runSeq
    exact rfl⟩
theorem exec_dverify (h : Hdr) {mode} {d} {a} : ∃ body : M Ctl, ∀ s,
    Sys2Proof.Machine.exec (.dverify h mode d a) s = runHart (.dverify h mode d a) h body s :=
  ⟨_, fun s => by
    show execDverify h mode d a s = _
    unfold execDverify runUnit runSeq
    exact rfl⟩
theorem exec_dsign (h : Hdr) {d} {a} {b} : ∃ body : M Ctl, ∀ s,
    Sys2Proof.Machine.exec (.dsign h d a b) s = runHart (.dsign h d a b) h body s :=
  ⟨_, fun s => by
    show execDsign h d a b s = _
    unfold execDsign runUnit runSeq
    exact rfl⟩
theorem exec_dsignAtt (h : Hdr) {d} {a} : ∃ body : M Ctl, ∀ s,
    Sys2Proof.Machine.exec (.dsignAtt h d a) s = runHart (.dsignAtt h d a) h body s :=
  ⟨_, fun s => by
    show execDsignAtt h d a s = _
    unfold execDsignAtt runUnit runSeq
    exact rfl⟩
theorem exec_dsignPub (h : Hdr) {d} : ∃ body : M Ctl, ∀ s,
    Sys2Proof.Machine.exec (.dsignPub h d) s = runHart (.dsignPub h d) h body s :=
  ⟨_, fun s => by
    show execDsignPub h d s = _
    unfold execDsignPub runUnit runSeq
    exact rfl⟩
theorem exec_fuserd (h : Hdr) {d} {a} : ∃ body : M Ctl, ∀ s,
    Sys2Proof.Machine.exec (.fuserd h d a) s = runHart (.fuserd h d a) h body s :=
  ⟨_, fun s => by
    show execFuserd h d a s = _
    unfold execFuserd runUnit runSeq
    exact rfl⟩
theorem exec_keywipe (h : Hdr) {d} {a} : ∃ body : M Ctl, ∀ s,
    Sys2Proof.Machine.exec (.keywipe h d a) s = runHart (.keywipe h d a) h body s :=
  ⟨_, fun s => by
    show execKeywipe h d a s = _
    unfold execKeywipe runUnit runSeq
    exact rfl⟩
theorem exec_keywipeAll (h : Hdr) {d} : ∃ body : M Ctl, ∀ s,
    Sys2Proof.Machine.exec (.keywipeAll h d) s = runHart (.keywipeAll h d) h body s :=
  ⟨_, fun s => by
    show execKeywipeAll h d s = _
    unfold execKeywipeAll runUnit runSeq
    exact rfl⟩
theorem exec_mextend (h : Hdr) {idx} {a} {b} : ∃ body : M Ctl, ∀ s,
    Sys2Proof.Machine.exec (.mextend h idx a b) s = runHart (.mextend h idx a b) h body s :=
  ⟨_, fun s => by
    show execMextend h idx a b s = _
    unfold execMextend runUnit runSeq
    exact rfl⟩
theorem exec_mextendDbg (h : Hdr) {d} : ∃ body : M Ctl, ∀ s,
    Sys2Proof.Machine.exec (.mextendDbg h d) s = runHart (.mextendDbg h d) h body s :=
  ⟨_, fun s => by
    show execMextendDbg h d s = _
    unfold execMextendDbg runUnit runSeq
    exact rfl⟩
theorem exec_lcset (h : Hdr) {t} {d} : ∃ body : M Ctl, ∀ s,
    Sys2Proof.Machine.exec (.lcset h t d) s = runHart (.lcset h t d) h body s :=
  ⟨_, fun s => by
    show execLcset h t d s = _
    unfold execLcset runUnit runSeq
    exact rfl⟩
theorem exec_dbgopen (h : Hdr) {mask} {d} : ∃ body : M Ctl, ∀ s,
    Sys2Proof.Machine.exec (.dbgopen h mask d) s = runHart (.dbgopen h mask d) h body s :=
  ⟨_, fun s => by
    show execDbgopen h mask d s = _
    unfold execDbgopen runUnit runSeq
    exact rfl⟩

/-- An instruction of a stream is issued by `runHart`. -/
theorem exec_hart {i : Instr} {maj : Nat} {h : Hdr} (hi : Instr.hdr? i = some (maj, h)) :
    ∃ body : M Ctl, ∀ s, Sys2Proof.Machine.exec i s = runHart i h body s := by
  match i, hi with
  | .br h' _ _ _ _, e => have e' := congrArg Prod.snd (Option.some.inj e); subst e'; exact exec_br h'
  | .jmp h' _, e => have e' := congrArg Prod.snd (Option.some.inj e); subst e'; exact exec_jmp h'
  | .call h' _ _, e => have e' := congrArg Prod.snd (Option.some.inj e); subst e'; exact exec_call h'
  | .callr h' _ _, e => have e' := congrArg Prod.snd (Option.some.inj e); subst e'; exact exec_callr h'
  | .ret h' _, e => have e' := congrArg Prod.snd (Option.some.inj e); subst e'; exact exec_ret h'
  | .pushb h' _ _, e => have e' := congrArg Prod.snd (Option.some.inj e); subst e'; exact exec_pushb h'
  | .brq h' _ _, e => have e' := congrArg Prod.snd (Option.some.inj e); subst e'; exact exec_brq h'
  | .loop h' _ _ _, e => have e' := congrArg Prod.snd (Option.some.inj e); subst e'; exact exec_loop h'
  | .lexit h' _, e => have e' := congrArg Prod.snd (Option.some.inj e); subst e'; exact exec_lexit h'
  | .nop h' , e => have e' := congrArg Prod.snd (Option.some.inj e); subst e'; exact exec_nop h'
  | .trap h' _, e => have e' := congrArg Prod.snd (Option.some.inj e); subst e'; exact exec_trap h'
  | .eret h' , e => have e' := congrArg Prod.snd (Option.some.inj e); subst e'; exact exec_eret h'
  | .srr h' _ _, e => have e' := congrArg Prod.snd (Option.some.inj e); subst e'; exact exec_srr h'
  | .srw h' _ _, e => have e' := congrArg Prod.snd (Option.some.inj e); subst e'; exact exec_srw h'
  | .wait h' _ _, e => have e' := congrArg Prod.snd (Option.some.inj e); subst e'; exact exec_wait h'
  | .yield h' , e => have e' := congrArg Prod.snd (Option.some.inj e); subst e'; exact exec_yield h'
  | .halt h' , e => have e' := congrArg Prod.snd (Option.some.inj e); subst e'; exact exec_halt h'
  | .fencei h' , e => have e' := congrArg Prod.snd (Option.some.inj e); subst e'; exact exec_fencei h'
  | .add h' _ _ _ _, e => have e' := congrArg Prod.snd (Option.some.inj e); subst e'; exact exec_add h'
  | .sub h' _ _ _ _, e => have e' := congrArg Prod.snd (Option.some.inj e); subst e'; exact exec_sub h'
  | .mul h' _ _ _ _, e => have e' := congrArg Prod.snd (Option.some.inj e); subst e'; exact exec_mul h'
  | .mulh h' _ _ _ _, e => have e' := congrArg Prod.snd (Option.some.inj e); subst e'; exact exec_mulh h'
  | .mulhu h' _ _ _ _, e => have e' := congrArg Prod.snd (Option.some.inj e); subst e'; exact exec_mulhu h'
  | .div h' _ _ _ _, e => have e' := congrArg Prod.snd (Option.some.inj e); subst e'; exact exec_div h'
  | .divu h' _ _ _ _, e => have e' := congrArg Prod.snd (Option.some.inj e); subst e'; exact exec_divu h'
  | .rem h' _ _ _ _, e => have e' := congrArg Prod.snd (Option.some.inj e); subst e'; exact exec_rem h'
  | .remu h' _ _ _ _, e => have e' := congrArg Prod.snd (Option.some.inj e); subst e'; exact exec_remu h'
  | .and h' _ _ _ _, e => have e' := congrArg Prod.snd (Option.some.inj e); subst e'; exact exec_and h'
  | .or h' _ _ _ _, e => have e' := congrArg Prod.snd (Option.some.inj e); subst e'; exact exec_or h'
  | .xor h' _ _ _ _, e => have e' := congrArg Prod.snd (Option.some.inj e); subst e'; exact exec_xor h'
  | .andn h' _ _ _ _, e => have e' := congrArg Prod.snd (Option.some.inj e); subst e'; exact exec_andn h'
  | .shl h' _ _ _ _, e => have e' := congrArg Prod.snd (Option.some.inj e); subst e'; exact exec_shl h'
  | .shr h' _ _ _ _, e => have e' := congrArg Prod.snd (Option.some.inj e); subst e'; exact exec_shr h'
  | .sra h' _ _ _ _, e => have e' := congrArg Prod.snd (Option.some.inj e); subst e'; exact exec_sra h'
  | .ror h' _ _ _ _, e => have e' := congrArg Prod.snd (Option.some.inj e); subst e'; exact exec_ror h'
  | .min h' _ _ _ _, e => have e' := congrArg Prod.snd (Option.some.inj e); subst e'; exact exec_min h'
  | .max h' _ _ _ _, e => have e' := congrArg Prod.snd (Option.some.inj e); subst e'; exact exec_max h'
  | .minu h' _ _ _ _, e => have e' := congrArg Prod.snd (Option.some.inj e); subst e'; exact exec_minu h'
  | .maxu h' _ _ _ _, e => have e' := congrArg Prod.snd (Option.some.inj e); subst e'; exact exec_maxu h'
  | .clz h' _ _ _, e => have e' := congrArg Prod.snd (Option.some.inj e); subst e'; exact exec_clz h'
  | .ctz h' _ _ _, e => have e' := congrArg Prod.snd (Option.some.inj e); subst e'; exact exec_ctz h'
  | .popc h' _ _ _, e => have e' := congrArg Prod.snd (Option.some.inj e); subst e'; exact exec_popc h'
  | .bfx h' _ _ _ _, e => have e' := congrArg Prod.snd (Option.some.inj e); subst e'; exact exec_bfx h'
  | .bfi h' _ _ _ _, e => have e' := congrArg Prod.snd (Option.some.inj e); subst e'; exact exec_bfi h'
  | .sel h' _ _ _ _, e => have e' := congrArg Prod.snd (Option.some.inj e); subst e'; exact exec_sel h'
  | .lea h' _ _ _ _, e => have e' := congrArg Prod.snd (Option.some.inj e); subst e'; exact exec_lea h'
  | .addImm h' _ _ _ _, e => have e' := congrArg Prod.snd (Option.some.inj e); subst e'; exact exec_addImm h'
  | .subImm h' _ _ _ _, e => have e' := congrArg Prod.snd (Option.some.inj e); subst e'; exact exec_subImm h'
  | .mulImm h' _ _ _ _, e => have e' := congrArg Prod.snd (Option.some.inj e); subst e'; exact exec_mulImm h'
  | .mulhImm h' _ _ _ _, e => have e' := congrArg Prod.snd (Option.some.inj e); subst e'; exact exec_mulhImm h'
  | .mulhuImm h' _ _ _ _, e => have e' := congrArg Prod.snd (Option.some.inj e); subst e'; exact exec_mulhuImm h'
  | .divImm h' _ _ _ _, e => have e' := congrArg Prod.snd (Option.some.inj e); subst e'; exact exec_divImm h'
  | .divuImm h' _ _ _ _, e => have e' := congrArg Prod.snd (Option.some.inj e); subst e'; exact exec_divuImm h'
  | .remImm h' _ _ _ _, e => have e' := congrArg Prod.snd (Option.some.inj e); subst e'; exact exec_remImm h'
  | .remuImm h' _ _ _ _, e => have e' := congrArg Prod.snd (Option.some.inj e); subst e'; exact exec_remuImm h'
  | .andImm h' _ _ _ _, e => have e' := congrArg Prod.snd (Option.some.inj e); subst e'; exact exec_andImm h'
  | .orImm h' _ _ _ _, e => have e' := congrArg Prod.snd (Option.some.inj e); subst e'; exact exec_orImm h'
  | .xorImm h' _ _ _ _, e => have e' := congrArg Prod.snd (Option.some.inj e); subst e'; exact exec_xorImm h'
  | .andnImm h' _ _ _ _, e => have e' := congrArg Prod.snd (Option.some.inj e); subst e'; exact exec_andnImm h'
  | .shlImm h' _ _ _ _, e => have e' := congrArg Prod.snd (Option.some.inj e); subst e'; exact exec_shlImm h'
  | .shrImm h' _ _ _ _, e => have e' := congrArg Prod.snd (Option.some.inj e); subst e'; exact exec_shrImm h'
  | .sraImm h' _ _ _ _, e => have e' := congrArg Prod.snd (Option.some.inj e); subst e'; exact exec_sraImm h'
  | .rorImm h' _ _ _ _, e => have e' := congrArg Prod.snd (Option.some.inj e); subst e'; exact exec_rorImm h'
  | .minImm h' _ _ _ _, e => have e' := congrArg Prod.snd (Option.some.inj e); subst e'; exact exec_minImm h'
  | .maxImm h' _ _ _ _, e => have e' := congrArg Prod.snd (Option.some.inj e); subst e'; exact exec_maxImm h'
  | .minuImm h' _ _ _ _, e => have e' := congrArg Prod.snd (Option.some.inj e); subst e'; exact exec_minuImm h'
  | .maxuImm h' _ _ _ _, e => have e' := congrArg Prod.snd (Option.some.inj e); subst e'; exact exec_maxuImm h'
  | .bfxImm h' _ _ _ _, e => have e' := congrArg Prod.snd (Option.some.inj e); subst e'; exact exec_bfxImm h'
  | .bfiImm h' _ _ _, e => have e' := congrArg Prod.snd (Option.some.inj e); subst e'; exact exec_bfiImm h'
  | .selImm h' _ _ _ _, e => have e' := congrArg Prod.snd (Option.some.inj e); subst e'; exact exec_selImm h'
  | .leaImm h' _ _ _ _, e => have e' := congrArg Prod.snd (Option.some.inj e); subst e'; exact exec_leaImm h'
  | .movi h' _ _, e => have e' := congrArg Prod.snd (Option.some.inj e); subst e'; exact exec_movi h'
  | .cmp h' _ _ _ _ _ _, e => have e' := congrArg Prod.snd (Option.some.inj e); subst e'; exact exec_cmp h'
  | .cmpi h' _ _ _ _ _, e => have e' := congrArg Prod.snd (Option.some.inj e); subst e'; exact exec_cmpi h'
  | .plog h' _ _ _ _, e => have e' := congrArg Prod.snd (Option.some.inj e); subst e'; exact exec_plog h'
  | .pmovToX h' _, e => have e' := congrArg Prod.snd (Option.some.inj e); subst e'; exact exec_pmovToX h'
  | .pmovToP h' _, e => have e' := congrArg Prod.snd (Option.some.inj e); subst e'; exact exec_pmovToP h'
  | .ld h' _ _ _, e => have e' := congrArg Prod.snd (Option.some.inj e); subst e'; exact exec_ld h'
  | .st h' _ _ _, e => have e' := congrArg Prod.snd (Option.some.inj e); subst e'; exact exec_st h'
  | .lda h' _ _ _ _, e => have e' := congrArg Prod.snd (Option.some.inj e); subst e'; exact exec_lda h'
  | .str h' _ _ _ _, e => have e' := congrArg Prod.snd (Option.some.inj e); subst e'; exact exec_str h'
  | .atomSwap h' _ _ _ _, e => have e' := congrArg Prod.snd (Option.some.inj e); subst e'; exact exec_atomSwap h'
  | .atomAdd h' _ _ _ _, e => have e' := congrArg Prod.snd (Option.some.inj e); subst e'; exact exec_atomAdd h'
  | .atomAnd h' _ _ _ _, e => have e' := congrArg Prod.snd (Option.some.inj e); subst e'; exact exec_atomAnd h'
  | .atomOr h' _ _ _ _, e => have e' := congrArg Prod.snd (Option.some.inj e); subst e'; exact exec_atomOr h'
  | .atomXor h' _ _ _ _, e => have e' := congrArg Prod.snd (Option.some.inj e); subst e'; exact exec_atomXor h'
  | .atomMin h' _ _ _ _, e => have e' := congrArg Prod.snd (Option.some.inj e); subst e'; exact exec_atomMin h'
  | .atomMax h' _ _ _ _, e => have e' := congrArg Prod.snd (Option.some.inj e); subst e'; exact exec_atomMax h'
  | .atomCas h' _ _ _ _ _ _, e => have e' := congrArg Prod.snd (Option.some.inj e); subst e'; exact exec_atomCas h'
  | .fence h' _ _, e => have e' := congrArg Prod.snd (Option.some.inj e); subst e'; exact exec_fence h'
  | .vadd h' _ _ _ _ _, e => have e' := congrArg Prod.snd (Option.some.inj e); subst e'; exact exec_vadd h'
  | .vsub h' _ _ _ _ _, e => have e' := congrArg Prod.snd (Option.some.inj e); subst e'; exact exec_vsub h'
  | .vmul h' _ _ _ _ _, e => have e' := congrArg Prod.snd (Option.some.inj e); subst e'; exact exec_vmul h'
  | .vfma h' _ _ _ _ _ _, e => have e' := congrArg Prod.snd (Option.some.inj e); subst e'; exact exec_vfma h'
  | .vfms h' _ _ _ _ _ _, e => have e' := congrArg Prod.snd (Option.some.inj e); subst e'; exact exec_vfms h'
  | .vfnma h' _ _ _ _ _ _, e => have e' := congrArg Prod.snd (Option.some.inj e); subst e'; exact exec_vfnma h'
  | .vdiv h' _ _ _ _ _, e => have e' := congrArg Prod.snd (Option.some.inj e); subst e'; exact exec_vdiv h'
  | .vsqrt h' _ _ _ _, e => have e' := congrArg Prod.snd (Option.some.inj e); subst e'; exact exec_vsqrt h'
  | .vmin h' _ _ _ _, e => have e' := congrArg Prod.snd (Option.some.inj e); subst e'; exact exec_vmin h'
  | .vmax h' _ _ _ _, e => have e' := congrArg Prod.snd (Option.some.inj e); subst e'; exact exec_vmax h'
  | .vabs h' _ _ _, e => have e' := congrArg Prod.snd (Option.some.inj e); subst e'; exact exec_vabs h'
  | .vneg h' _ _ _, e => have e' := congrArg Prod.snd (Option.some.inj e); subst e'; exact exec_vneg h'
  | .vcmp h' _ _ _ _ _, e => have e' := congrArg Prod.snd (Option.some.inj e); subst e'; exact exec_vcmp h'
  | .vclass h' _ _ _, e => have e' := congrArg Prod.snd (Option.some.inj e); subst e'; exact exec_vclass h'
  | .twosum h' _ _ _ _ _ _, e => have e' := congrArg Prod.snd (Option.some.inj e); subst e'; exact exec_twosum h'
  | .viadd h' _ _ _ _ _, e => have e' := congrArg Prod.snd (Option.some.inj e); subst e'; exact exec_viadd h'
  | .visub h' _ _ _ _ _, e => have e' := congrArg Prod.snd (Option.some.inj e); subst e'; exact exec_visub h'
  | .vimul h' _ _ _ _, e => have e' := congrArg Prod.snd (Option.some.inj e); subst e'; exact exec_vimul h'
  | .vimulh h' _ _ _ _, e => have e' := congrArg Prod.snd (Option.some.inj e); subst e'; exact exec_vimulh h'
  | .vimad h' _ _ _ _ _, e => have e' := congrArg Prod.snd (Option.some.inj e); subst e'; exact exec_vimad h'
  | .vimin h' _ _ _ _, e => have e' := congrArg Prod.snd (Option.some.inj e); subst e'; exact exec_vimin h'
  | .vimax h' _ _ _ _, e => have e' := congrArg Prod.snd (Option.some.inj e); subst e'; exact exec_vimax h'
  | .vand h' _ _ _ _, e => have e' := congrArg Prod.snd (Option.some.inj e); subst e'; exact exec_vand h'
  | .vor h' _ _ _ _, e => have e' := congrArg Prod.snd (Option.some.inj e); subst e'; exact exec_vor h'
  | .vxor h' _ _ _ _, e => have e' := congrArg Prod.snd (Option.some.inj e); subst e'; exact exec_vxor h'
  | .vshl h' _ _ _ _, e => have e' := congrArg Prod.snd (Option.some.inj e); subst e'; exact exec_vshl h'
  | .vshr h' _ _ _ _, e => have e' := congrArg Prod.snd (Option.some.inj e); subst e'; exact exec_vshr h'
  | .vsra h' _ _ _ _, e => have e' := congrArg Prod.snd (Option.some.inj e); subst e'; exact exec_vsra h'
  | .vclip h' _ _ _ _ _, e => have e' := congrArg Prod.snd (Option.some.inj e); subst e'; exact exec_vclip h'
  | .vmov h' _ _ _, e => have e' := congrArg Prod.snd (Option.some.inj e); subst e'; exact exec_vmov h'
  | .vbcast h' _ _ _, e => have e' := congrArg Prod.snd (Option.some.inj e); subst e'; exact exec_vbcast h'
  | .viota h' _ _ _, e => have e' := congrArg Prod.snd (Option.some.inj e); subst e'; exact exec_viota h'
  | .vsel h' _ _ _ _ _, e => have e' := congrArg Prod.snd (Option.some.inj e); subst e'; exact exec_vsel h'
  | .vldi h' _ _ _, e => have e' := congrArg Prod.snd (Option.some.inj e); subst e'; exact exec_vldi h'
  | .setvl h' _ _ _, e => have e' := congrArg Prod.snd (Option.some.inj e); subst e'; exact exec_setvl h'
  | .setvlRel h' _, e => have e' := congrArg Prod.snd (Option.some.inj e); subst e'; exact exec_setvlRel h'
  | .setrc h' _ _ _, e => have e' := congrArg Prod.snd (Option.some.inj e); subst e'; exact exec_setrc h'
  | .alloc h' _ _, e => have e' := congrArg Prod.snd (Option.some.inj e); subst e'; exact exec_alloc h'
  | .shrink h' _ _, e => have e' := congrArg Prod.snd (Option.some.inj e); subst e'; exact exec_shrink h'
  | .strip h' _ _ _ _ _ _ _ _, e => have e' := congrArg Prod.snd (Option.some.inj e); subst e'; exact exec_strip h'
  | .vrcp h' _ _ _ _, e => have e' := congrArg Prod.snd (Option.some.inj e); subst e'; exact exec_vrcp h'
  | .vrsq h' _ _ _ _, e => have e' := congrArg Prod.snd (Option.some.inj e); subst e'; exact exec_vrsq h'
  | .vexp2 h' _ _ _ _, e => have e' := congrArg Prod.snd (Option.some.inj e); subst e'; exact exec_vexp2 h'
  | .vlog2 h' _ _ _ _, e => have e' := congrArg Prod.snd (Option.some.inj e); subst e'; exact exec_vlog2 h'
  | .vtanh h' _ _ _ _, e => have e' := congrArg Prod.snd (Option.some.inj e); subst e'; exact exec_vtanh h'
  | .vcvt h' _ _ _ _ _, e => have e' := congrArg Prod.snd (Option.some.inj e); subst e'; exact exec_vcvt h'
  | .vqblk h' _ _ _ _ _ _ _, e => have e' := congrArg Prod.snd (Option.some.inj e); subst e'; exact exec_vqblk h'
  | .vdqblk h' _ _ _ _ _ _ _, e => have e' := congrArg Prod.snd (Option.some.inj e); subst e'; exact exec_vdqblk h'
  | .vplane h' _ _, e => have e' := congrArg Prod.snd (Option.some.inj e); subst e'; exact exec_vplane h'
  | .vunplane h' _ _ _, e => have e' := congrArg Prod.snd (Option.some.inj e); subst e'; exact exec_vunplane h'
  | .vrand h' _ _, e => have e' := congrArg Prod.snd (Option.some.inj e); subst e'; exact exec_vrand h'
  | .klog h' _ _ _ _, e => have e' := congrArg Prod.snd (Option.some.inj e); subst e'; exact exec_klog h'
  | .kcnt h' _ _, e => have e' := congrArg Prod.snd (Option.some.inj e); subst e'; exact exec_kcnt h'
  | .kfirst h' _ _, e => have e' := congrArg Prod.snd (Option.some.inj e); subst e'; exact exec_kfirst h'
  | .mpush h' _, e => have e' := congrArg Prod.snd (Option.some.inj e); subst e'; exact exec_mpush h'
  | .minv h' , e => have e' := congrArg Prod.snd (Option.some.inj e); subst e'; exact exec_minv h'
  | .mpop h' , e => have e' := congrArg Prod.snd (Option.some.inj e); subst e'; exact exec_mpop h'
  | .mbrz h' _ _, e => have e' := congrArg Prod.snd (Option.some.inj e); subst e'; exact exec_mbrz h'
  | .vtrip h' _ _ _, e => have e' := congrArg Prod.snd (Option.some.inj e); subst e'; exact exec_vtrip h'
  | .mloop h' _ _ _, e => have e' := congrArg Prod.snd (Option.some.inj e); subst e'; exact exec_mloop h'
  | .vred h' _ _ _ _ _ _, e => have e' := congrArg Prod.snd (Option.some.inj e); subst e'; exact exec_vred h'
  | .vredp h' _ _ _ _ _, e => have e' := congrArg Prod.snd (Option.some.inj e); subst e'; exact exec_vredp h'
  | .vscan h' _ _ _ _ _ _, e => have e' := congrArg Prod.snd (Option.some.inj e); subst e'; exact exec_vscan h'
  | .vperm h' _ _ _ _ _ _, e => have e' := congrArg Prod.snd (Option.some.inj e); subst e'; exact exec_vperm h'
  | .vslide h' _ _ _ _ _ _, e => have e' := congrArg Prod.snd (Option.some.inj e); subst e'; exact exec_vslide h'
  | .vzip h' _ _ _ _ _ _, e => have e' := congrArg Prod.snd (Option.some.inj e); subst e'; exact exec_vzip h'
  | .vunzip h' _ _ _ _ _ _, e => have e' := congrArg Prod.snd (Option.some.inj e); subst e'; exact exec_vunzip h'
  | .vtrn h' _ _ _, e => have e' := congrArg Prod.snd (Option.some.inj e); subst e'; exact exec_vtrn h'
  | .vcompress h' _ _ _ _ _, e => have e' := congrArg Prod.snd (Option.some.inj e); subst e'; exact exec_vcompress h'
  | .vexpand h' _ _ _ _, e => have e' := congrArg Prod.snd (Option.some.inj e); subst e'; exact exec_vexpand h'
  | .vsortk h' _ _ _ _ _ _, e => have e' := congrArg Prod.snd (Option.some.inj e); subst e'; exact exec_vsortk h'
  | .vextr h' _ _ _ _, e => have e' := congrArg Prod.snd (Option.some.inj e); subst e'; exact exec_vextr h'
  | .vinsr h' _ _ _ _, e => have e' := congrArg Prod.snd (Option.some.inj e); subst e'; exact exec_vinsr h'
  | .rdv h' _, e => have e' := congrArg Prod.snd (Option.some.inj e); subst e'; exact exec_rdv h'
  | .vld h' _ _ _, e => have e' := congrArg Prod.snd (Option.some.inj e); subst e'; exact exec_vld h'
  | .vlds h' _ _ _, e => have e' := congrArg Prod.snd (Option.some.inj e); subst e'; exact exec_vlds h'
  | .vldx h' _ _ _ _ _ _ _, e => have e' := congrArg Prod.snd (Option.some.inj e); subst e'; exact exec_vldx h'
  | .vst h' _ _ _, e => have e' := congrArg Prod.snd (Option.some.inj e); subst e'; exact exec_vst h'
  | .vsts h' _ _ _, e => have e' := congrArg Prod.snd (Option.some.inj e); subst e'; exact exec_vsts h'
  | .vstx h' _ _ _ _ _ _ _, e => have e' := congrArg Prod.snd (Option.some.inj e); subst e'; exact exec_vstx h'
  | .vstu h' _ _ _ _ _ _ _, e => have e' := congrArg Prod.snd (Option.some.inj e); subst e'; exact exec_vstu h'
  | .vstxa h' _ _ _ _ _ _ _, e => have e' := congrArg Prod.snd (Option.some.inj e); subst e'; exact exec_vstxa h'
  | .vfence h' _ _, e => have e' := congrArg Prod.snd (Option.some.inj e); subst e'; exact exec_vfence h'
  | .pref h' _ _ _, e => have e' := congrArg Prod.snd (Option.some.inj e); subst e'; exact exec_pref h'
  | .gset h' _ _ _, e => have e' := congrArg Prod.snd (Option.some.inj e); subst e'; exact exec_gset h'
  | .gsetFree h' _, e => have e' := congrArg Prod.snd (Option.some.inj e); subst e'; exact exec_gsetFree h'
  | .vgred h' _ _ _ _ _, e => have e' := congrArg Prod.snd (Option.some.inj e); subst e'; exact exec_vgred h'
  | .vgall h' _ _ _ _, e => have e' := congrArg Prod.snd (Option.some.inj e); subst e'; exact exec_vgall h'
  | .vgrs h' _ _ _ _ _, e => have e' := congrArg Prod.snd (Option.some.inj e); subst e'; exact exec_vgrs h'
  | .vgbc h' _ _ _ _ _, e => have e' := congrArg Prod.snd (Option.some.inj e); subst e'; exact exec_vgbc h'
  | .stream h' _ _, e => have e' := congrArg Prod.snd (Option.some.inj e); subst e'; exact exec_stream h'
  | .armw h' _ _, e => have e' := congrArg Prod.snd (Option.some.inj e); subst e'; exact exec_armw h'
  | .waitw h' _ _, e => have e' := congrArg Prod.snd (Option.some.inj e); subst e'; exact exec_waitw h'
  | .jobwait h' _ _, e => have e' := congrArg Prod.snd (Option.some.inj e); subst e'; exact exec_jobwait h'
  | .ovopen h' _, e => have e' := congrArg Prod.snd (Option.some.inj e); subst e'; exact exec_ovopen h'
  | .ovopenTry h' _ _, e => have e' := congrArg Prod.snd (Option.some.inj e); subst e'; exact exec_ovopenTry h'
  | .ovset h' _, e => have e' := congrArg Prod.snd (Option.some.inj e); subst e'; exact exec_ovset h'
  | .ovretire h' _ _, e => have e' := congrArg Prod.snd (Option.some.inj e); subst e'; exact exec_ovretire h'
  | .ovcommit h' _ _ _, e => have e' := congrArg Prod.snd (Option.some.inj e); subst e'; exact exec_ovcommit h'
  | .ldo h' _ _ _ _ _, e => have e' := congrArg Prod.snd (Option.some.inj e); subst e'; exact exec_ldo h'
  | .vldo h' _ _ _ _ _, e => have e' := congrArg Prod.snd (Option.some.inj e); subst e'; exact exec_vldo h'
  | .ovstat h' _ _ _, e => have e' := congrArg Prod.snd (Option.some.inj e); subst e'; exact exec_ovstat h'
  | .carve h' _ _, e => have e' := congrArg Prod.snd (Option.some.inj e); subst e'; exact exec_carve h'
  | .cclean h' _ _ _, e => have e' := congrArg Prod.snd (Option.some.inj e); subst e'; exact exec_cclean h'
  | .cinv h' _ _ _, e => have e' := congrArg Prod.snd (Option.some.inj e); subst e'; exact exec_cinv h'
  | .cflush h' _ _ _, e => have e' := congrArg Prod.snd (Option.some.inj e); subst e'; exact exec_cflush h'
  | .tlbiAll h' , e => have e' := congrArg Prod.snd (Option.some.inj e); subst e'; exact exec_tlbiAll h'
  | .tlbiAsid h' _, e => have e' := congrArg Prod.snd (Option.some.inj e); subst e'; exact exec_tlbiAsid h'
  | .tlbiRange h' _ _ _, e => have e' := congrArg Prod.snd (Option.some.inj e); subst e'; exact exec_tlbiRange h'
  | .digest h' _ _, e => have e' := congrArg Prod.snd (Option.some.inj e); subst e'; exact exec_digest h'
  | .digestRng h' _ _ _, e => have e' := congrArg Prod.snd (Option.some.inj e); subst e'; exact exec_digestRng h'
  | .budget h' _ _ _, e => have e' := congrArg Prod.snd (Option.some.inj e); subst e'; exact exec_budget h'
  | .budgetW h' _ _ _ _, e => have e' := congrArg Prod.snd (Option.some.inj e); subst e'; exact exec_budgetW h'
  | .mattach h' _ _, e => have e' := congrArg Prod.snd (Option.some.inj e); subst e'; exact exec_mattach h'
  | .mattachPair h' _ _, e => have e' := congrArg Prod.snd (Option.some.inj e); subst e'; exact exec_mattachPair h'
  | .mdetach h' , e => have e' := congrArg Prod.snd (Option.some.inj e); subst e'; exact exec_mdetach h'
  | .mwld h' _ _ _, e => have e' := congrArg Prod.snd (Option.some.inj e); subst e'; exact exec_mwld h'
  | .mstream h' _ _ _, e => have e' := congrArg Prod.snd (Option.some.inj e); subst e'; exact exec_mstream h'
  | .mzeroFp h' _ _, e => have e' := congrArg Prod.snd (Option.some.inj e); subst e'; exact exec_mzeroFp h'
  | .mzeroInt h' _ _, e => have e' := congrArg Prod.snd (Option.some.inj e); subst e'; exact exec_mzeroInt h'
  | .mdrain h' _ _ _, e => have e' := congrArg Prod.snd (Option.some.inj e); subst e'; exact exec_mdrain h'
  | .mdrainIdx h' _ _ _, e => have e' := congrArg Prod.snd (Option.some.inj e); subst e'; exact exec_mdrainIdx h'
  | .msave h' _ _, e => have e' := congrArg Prod.snd (Option.some.inj e); subst e'; exact exec_msave h'
  | .mrestore h' _ _, e => have e' := congrArg Prod.snd (Option.some.inj e); subst e'; exact exec_mrestore h'
  | .mlineEmpty h' _ _, e => have e' := congrArg Prod.snd (Option.some.inj e); subst e'; exact exec_mlineEmpty h'
  | .mlineFull h' _ _, e => have e' := congrArg Prod.snd (Option.some.inj e); subst e'; exact exec_mlineFull h'
  | .mlineWfull h' _ _, e => have e' := congrArg Prod.snd (Option.some.inj e); subst e'; exact exec_mlineWfull h'
  | .mlineWempty h' _ _, e => have e' := congrArg Prod.snd (Option.some.inj e); subst e'; exact exec_mlineWempty h'
  | .mwait h' _ _, e => have e' := congrArg Prod.snd (Option.some.inj e); subst e'; exact exec_mwait h'
  | .mstat h' _ _ _, e => have e' := congrArg Prod.snd (Option.some.inj e); subst e'; exact exec_mstat h'
  | .tvload h' _ _ _, e => have e' := congrArg Prod.snd (Option.some.inj e); subst e'; exact exec_tvload h'
  | .tvloadFree h' _, e => have e' := congrArg Prod.snd (Option.some.inj e); subst e'; exact exec_tvloadFree h'
  | .tvstart h' _ _ _, e => have e' := congrArg Prod.snd (Option.some.inj e); subst e'; exact exec_tvstart h'
  | .tvwait h' _ _, e => have e' := congrArg Prod.snd (Option.some.inj e); subst e'; exact exec_tvwait h'
  | .tvstat h' _ _ _, e => have e' := congrArg Prod.snd (Option.some.inj e); subst e'; exact exec_tvstat h'
  | .gzlook h' _ _, e => have e' := congrArg Prod.snd (Option.some.inj e); subst e'; exact exec_gzlook h'
  | .gzupdate h' _ _, e => have e' := congrArg Prod.snd (Option.some.inj e); subst e'; exact exec_gzupdate h'
  | .gzver h' _ _ _, e => have e' := congrArg Prod.snd (Option.some.inj e); subst e'; exact exec_gzver h'
  | .gzpin h' _ _ _ _, e => have e' := congrArg Prod.snd (Option.some.inj e); subst e'; exact exec_gzpin h'
  | .gzpinUn h' _ _ _ _, e => have e' := congrArg Prod.snd (Option.some.inj e); subst e'; exact exec_gzpinUn h'
  | .gzwait h' _ _, e => have e' := congrArg Prod.snd (Option.some.inj e); subst e'; exact exec_gzwait h'
  | .launch h' _ _, e => have e' := congrArg Prod.snd (Option.some.inj e); subst e'; exact exec_launch h'
  | .launchTry h' _ _, e => have e' := congrArg Prod.snd (Option.some.inj e); subst e'; exact exec_launchTry h'
  | .trig h' , e => have e' := congrArg Prod.snd (Option.some.inj e); subst e'; exact exec_trig h'
  | .bar h' _, e => have e' := congrArg Prod.snd (Option.some.inj e); subst e'; exact exec_bar h'
  | .waitl h' _ _ _ _, e => have e' := congrArg Prod.snd (Option.some.inj e); subst e'; exact exec_waitl h'
  | .lvlid h' _ _ _, e => have e' := congrArg Prod.snd (Option.some.inj e); subst e'; exact exec_lvlid h'
  | .mtick h' _, e => have e' := congrArg Prod.snd (Option.some.inj e); subst e'; exact exec_mtick h'
  | .mtickOrd h' _, e => have e' := congrArg Prod.snd (Option.some.inj e); subst e'; exact exec_mtickOrd h'
  | .svmark h' _ _, e => have e' := congrArg Prod.snd (Option.some.inj e); subst e'; exact exec_svmark h'
  | .svsamp h' _ _, e => have e' := congrArg Prod.snd (Option.some.inj e); subst e'; exact exec_svsamp h'
  | .svsampOff h' , e => have e' := congrArg Prod.snd (Option.some.inj e); subst e'; exact exec_svsampOff h'
  | .svread h' _ _ _, e => have e' := congrArg Prod.snd (Option.some.inj e); subst e'; exact exec_svread h'
  | .svstop h' _ _, e => have e' := congrArg Prod.snd (Option.some.inj e); subst e'; exact exec_svstop h'
  | .waitWake _, e => exact nomatch e
  | .queueDeadlock _, e => exact nomatch e
  | .rendezvousComplete _ _, e => exact nomatch e
  | .laneArrive _ _ _, e => exact nomatch e
  | .vectorTrapCommit _, e => exact nomatch e
  | .mzeroApply _, e => exact nomatch e
  | .streamChunk _, e => exact nomatch e
  | .weightSwap _, e => exact nomatch e
  | .barRelease _ _ _, e => exact nomatch e
  | .clklock h' _ _, e => have e' := congrArg Prod.snd (Option.some.inj e); subst e'; exact exec_clklock h'
  | .clklockOff h' _, e => have e' := congrArg Prod.snd (Option.some.inj e); subst e'; exact exec_clklockOff h'
  | .dhash h' _ _ _, e => have e' := congrArg Prod.snd (Option.some.inj e); subst e'; exact exec_dhash h'
  | .dverify h' _ _ _, e => have e' := congrArg Prod.snd (Option.some.inj e); subst e'; exact exec_dverify h'
  | .dsign h' _ _ _, e => have e' := congrArg Prod.snd (Option.some.inj e); subst e'; exact exec_dsign h'
  | .dsignAtt h' _ _, e => have e' := congrArg Prod.snd (Option.some.inj e); subst e'; exact exec_dsignAtt h'
  | .dsignPub h' _, e => have e' := congrArg Prod.snd (Option.some.inj e); subst e'; exact exec_dsignPub h'
  | .fuserd h' _ _, e => have e' := congrArg Prod.snd (Option.some.inj e); subst e'; exact exec_fuserd h'
  | .keywipe h' _ _, e => have e' := congrArg Prod.snd (Option.some.inj e); subst e'; exact exec_keywipe h'
  | .keywipeAll h' _, e => have e' := congrArg Prod.snd (Option.some.inj e); subst e'; exact exec_keywipeAll h'
  | .mextend h' _ _ _, e => have e' := congrArg Prod.snd (Option.some.inj e); subst e'; exact exec_mextend h'
  | .mextendDbg h' _, e => have e' := congrArg Prod.snd (Option.some.inj e); subst e'; exact exec_mextendDbg h'
  | .lcset h' _ _, e => have e' := congrArg Prod.snd (Option.some.inj e); subst e'; exact exec_lcset h'
  | .dbgopen h' _ _, e => have e' := congrArg Prod.snd (Option.some.inj e); subst e'; exact exec_dbgopen h'
  | .legSend _ _ _ _ _ _ _, e => exact nomatch e
  | .legRecv _ _ _ _ _ _, e => exact nomatch e
  | .legReduce _ _ _ _ _ _ _ _, e => exact nomatch e
  | .legCopy _ _ _ _ _ _ _, e => exact nomatch e
  | .legWait _, e => exact nomatch e
  | .legSignal _ _ _, e => exact nomatch e
  | .legReserve _ _ _ _, e => exact nomatch e
  | .legRepeat _ _ _, e => exact nomatch e
  | .legEnd , e => exact nomatch e
  | .traverseRunStart _, e => exact nomatch e
  | .sendLand _, e => exact nomatch e
  | .signalArrive _, e => exact nomatch e
  | .reserveClaimArrive _, e => exact nomatch e
  | .reserveRound _ _ _, e => exact nomatch e
  | .legAckArrive _, e => exact nomatch e
  | .stopNotice _ _, e => exact nomatch e
  | .cardStart _, e => exact nomatch e
  | .streamCopyJob _, e => exact nomatch e
  | .weightLoadJob _, e => exact nomatch e
  | .gzLookupJob _, e => exact nomatch e
  | .gzUpdateJob _, e => exact nomatch e
  | .gzageHalve _, e => exact nomatch e
  | .cardComplete _, e => exact nomatch e
  | .ringWptrWrite _ _, e => exact nomatch e
  | .ringReset _ _, e => exact nomatch e
  | .ringEntryRead _, e => exact nomatch e
  | .priorityAge _, e => exact nomatch e
  | .depEval _, e => exact nomatch e
  | .launchPlace _, e => exact nomatch e
  | .podAdmission _ _, e => exact nomatch e
  | .launchComplete _, e => exact nomatch e
  | .preemptWrite _, e => exact nomatch e
  | .cancelWrite _, e => exact nomatch e
  | .gangPreempt _ _, e => exact nomatch e
  | .gangResume _ _, e => exact nomatch e
  | .hostMrd _, e => exact nomatch e
  | .hostDrd _ _ _ _, e => exact nomatch e
  | .hostDwr _ _ _ _, e => exact nomatch e
  | .hostCpl _ _ _, e => exact nomatch e
  | .regWrite _ _, e => exact nomatch e
  | .fqrespRetry _ _, e => exact nomatch e
  | .fqrespDecline _ _, e => exact nomatch e
  | .pageWalkDone , e => exact nomatch e
  | .faultRecordPost _, e => exact nomatch e
  | .sideLogPerform _, e => exact nomatch e
  | .sideLogPageTrap _, e => exact nomatch e
  | .tagEndOvstaleTrap _, e => exact nomatch e
  | .roundProtTrap _, e => exact nomatch e
  | .wcbDrainTimeout _, e => exact nomatch e
  | .l1LeaseExpire _, e => exact nomatch e
  | .borderCopyInvalidate _ _, e => exact nomatch e
  | .budgetPeriod , e => exact nomatch e
  | .roundApply _, e => exact nomatch e
  | .trainReceive _, e => exact nomatch e
  | .trainAck _, e => exact nomatch e
  | .trainRefusal _, e => exact nomatch e
  | .ualinkReadServe _, e => exact nomatch e
  | .ualinkResponse _ _, e => exact nomatch e
  | .tlbicmdAll , e => exact nomatch e
  | .tlbicmdAsid _, e => exact nomatch e
  | .tlbicmdRange _, e => exact nomatch e
  | .tlbicmdDone , e => exact nomatch e
  | .uncorrected _, e => exact nomatch e
  | .scrub _ _, e => exact nomatch e
  | .ovgaddWrite _, e => exact nomatch e
  | .poolGrowDone , e => exact nomatch e
  | .gzdsyncWrite _, e => exact nomatch e
  | .gzprobeWrite _, e => exact nomatch e
  | .gzprobeDone , e => exact nomatch e
  | .tickAlign _, e => exact nomatch e
  | .tickAlignLoss , e => exact nomatch e
  | .sampleRecord _ _ _, e => exact nomatch e
  | .stopFire , e => exact nomatch e
  | .svrunWrite _, e => exact nomatch e
  | .svstatDisarm _, e => exact nomatch e
  | .rlctlWrite _, e => exact nomatch e
  | .rlwptrSupply _, e => exact nomatch e
  | .replayInputArrive _, e => exact nomatch e
  | .powerGoodReset , e => exact nomatch e
  | .dwinWrite _, e => exact nomatch e
  | .dmloadWrite _, e => exact nomatch e
  | .unitReady _, e => exact nomatch e
  | .unitLost _, e => exact nomatch e
  | .cdisWrite _ _, e => exact nomatch e
  | .pcapWrite _ _, e => exact nomatch e
  | .powerLimitRaise , e => exact nomatch e
  | .powerLimitRelax , e => exact nomatch e
  | .thermalLimitRaise , e => exact nomatch e
  | .thermalTrip , e => exact nomatch e
  | .thermalLimitRelax , e => exact nomatch e
  | .pointChange , e => exact nomatch e
  | .kctlLoad _, e => exact nomatch e
  | .kctlClearSeal _, e => exact nomatch e
  | .dunlkAbort , e => exact nomatch e
  | .dchalDraw , e => exact nomatch e
  | .debugScan , e => exact nomatch e
  | .debugMemrd _, e => exact nomatch e
  | .debugMemwr _ _, e => exact nomatch e
  | .debugSvstop _, e => exact nomatch e
  | .i3cEntdaa _, e => exact nomatch e
  | .i3cRstdaa , e => exact nomatch e
  | .i3cGetpid , e => exact nomatch e
  | .i3cGetbcr , e => exact nomatch e
  | .i3cGetdcr , e => exact nomatch e
  | .i3cGetstatus , e => exact nomatch e
  | .i3cPrivateWrite _ _, e => exact nomatch e
  | .laneComplete _ _ _, e => exact nomatch e
  | .meridianTick , e => exact nomatch e
  | .ualinkErrorResponse _, e => exact nomatch e
  | .gzdsyncDone , e => exact nomatch e
  | .i3cPrivateRead _, e => exact nomatch e

end Sys2Proof.Machine
end

