-- ==== Sys2Proof/Laws/PerInstr.lean ====
section
/-! SUPPORT. One lemma per constructor: the encoder's fields of the instruction fill the 69 bits below the header (02 R61,
R72). -/

namespace Sys2Proof.Laws.Encodable

/-- An instruction that has a word lays its fields into 69 bits, beside a major of 8 bits and a function of 6; a leg or an
event has no word (02 R61, R72). -/
def Statement (i : Instr) : Prop :=
  match i.fields with
  | some (_, maj, fn, fs) => packWidth fs = 69 ∧ maj < 2 ^ 8 ∧ fn < 2 ^ 6
  | none => (Instr.hdr? i).isNone = true

theorem br {a0 a1 a2 a3 a4} : Statement (.br a0 a1 a2 a3 a4) := ⟨rfl, by decide, by decide⟩
theorem jmp {a0 a1} : Statement (.jmp a0 a1) := ⟨rfl, by decide, by decide⟩
theorem call {a0 a1 a2} : Statement (.call a0 a1 a2) := ⟨rfl, by decide, by decide⟩
theorem callr {a0 a1 a2} : Statement (.callr a0 a1 a2) := ⟨rfl, by decide, by decide⟩
theorem ret {a0 a1} : Statement (.ret a0 a1) := ⟨rfl, by decide, by decide⟩
theorem pushb {a0 a1 a2} : Statement (.pushb a0 a1 a2) := ⟨rfl, by decide, by decide⟩
theorem brq {a0 a1 a2} : Statement (.brq a0 a1 a2) := ⟨rfl, by decide, by decide⟩
theorem loop {a0 a1 a2 a3} : Statement (.loop a0 a1 a2 a3) := ⟨rfl, by decide, by decide⟩
theorem lexit {a0 a1} : Statement (.lexit a0 a1) := ⟨rfl, by decide, by decide⟩
theorem nop {a0} : Statement (.nop a0) := ⟨rfl, by decide, by decide⟩
theorem trap {a0 a1} : Statement (.trap a0 a1) := ⟨rfl, by decide, by decide⟩
theorem eret {a0} : Statement (.eret a0) := ⟨rfl, by decide, by decide⟩
theorem srr {a0 a1 a2} : Statement (.srr a0 a1 a2) := ⟨rfl, by decide, by decide⟩
theorem srw {a0 a1 a2} : Statement (.srw a0 a1 a2) := ⟨rfl, by decide, by decide⟩
theorem wait {a0 a1 a2} : Statement (.wait a0 a1 a2) := ⟨rfl, by decide, by decide⟩
theorem waitWake {a0} : Statement (.waitWake a0) := rfl
theorem yield {a0} : Statement (.yield a0) := ⟨rfl, by decide, by decide⟩
theorem halt {a0} : Statement (.halt a0) := ⟨rfl, by decide, by decide⟩
theorem fencei {a0} : Statement (.fencei a0) := ⟨rfl, by decide, by decide⟩
theorem add {a0 a1 a2 a3 a4} : Statement (.add a0 a1 a2 a3 a4) := ⟨rfl, by decide, by decide⟩
theorem sub {a0 a1 a2 a3 a4} : Statement (.sub a0 a1 a2 a3 a4) := ⟨rfl, by decide, by decide⟩
theorem mul {a0 a1 a2 a3 a4} : Statement (.mul a0 a1 a2 a3 a4) := ⟨rfl, by decide, by decide⟩
theorem mulh {a0 a1 a2 a3 a4} : Statement (.mulh a0 a1 a2 a3 a4) := ⟨rfl, by decide, by decide⟩
theorem mulhu {a0 a1 a2 a3 a4} : Statement (.mulhu a0 a1 a2 a3 a4) := ⟨rfl, by decide, by decide⟩
theorem div {a0 a1 a2 a3 a4} : Statement (.div a0 a1 a2 a3 a4) := ⟨rfl, by decide, by decide⟩
theorem divu {a0 a1 a2 a3 a4} : Statement (.divu a0 a1 a2 a3 a4) := ⟨rfl, by decide, by decide⟩
theorem rem {a0 a1 a2 a3 a4} : Statement (.rem a0 a1 a2 a3 a4) := ⟨rfl, by decide, by decide⟩
theorem remu {a0 a1 a2 a3 a4} : Statement (.remu a0 a1 a2 a3 a4) := ⟨rfl, by decide, by decide⟩
theorem and {a0 a1 a2 a3 a4} : Statement (.and a0 a1 a2 a3 a4) := ⟨rfl, by decide, by decide⟩
theorem or {a0 a1 a2 a3 a4} : Statement (.or a0 a1 a2 a3 a4) := ⟨rfl, by decide, by decide⟩
theorem xor {a0 a1 a2 a3 a4} : Statement (.xor a0 a1 a2 a3 a4) := ⟨rfl, by decide, by decide⟩
theorem andn {a0 a1 a2 a3 a4} : Statement (.andn a0 a1 a2 a3 a4) := ⟨rfl, by decide, by decide⟩
theorem shl {a0 a1 a2 a3 a4} : Statement (.shl a0 a1 a2 a3 a4) := ⟨rfl, by decide, by decide⟩
theorem shr {a0 a1 a2 a3 a4} : Statement (.shr a0 a1 a2 a3 a4) := ⟨rfl, by decide, by decide⟩
theorem sra {a0 a1 a2 a3 a4} : Statement (.sra a0 a1 a2 a3 a4) := ⟨rfl, by decide, by decide⟩
theorem ror {a0 a1 a2 a3 a4} : Statement (.ror a0 a1 a2 a3 a4) := ⟨rfl, by decide, by decide⟩
theorem min {a0 a1 a2 a3 a4} : Statement (.min a0 a1 a2 a3 a4) := ⟨rfl, by decide, by decide⟩
theorem max {a0 a1 a2 a3 a4} : Statement (.max a0 a1 a2 a3 a4) := ⟨rfl, by decide, by decide⟩
theorem minu {a0 a1 a2 a3 a4} : Statement (.minu a0 a1 a2 a3 a4) := ⟨rfl, by decide, by decide⟩
theorem maxu {a0 a1 a2 a3 a4} : Statement (.maxu a0 a1 a2 a3 a4) := ⟨rfl, by decide, by decide⟩
theorem clz {a0 a1 a2 a3} : Statement (.clz a0 a1 a2 a3) := ⟨rfl, by decide, by decide⟩
theorem ctz {a0 a1 a2 a3} : Statement (.ctz a0 a1 a2 a3) := ⟨rfl, by decide, by decide⟩
theorem popc {a0 a1 a2 a3} : Statement (.popc a0 a1 a2 a3) := ⟨rfl, by decide, by decide⟩
theorem bfx {a0 a1 a2 a3 a4} : Statement (.bfx a0 a1 a2 a3 a4) := ⟨rfl, by decide, by decide⟩
theorem bfi {a0 a1 a2 a3 a4} : Statement (.bfi a0 a1 a2 a3 a4) := ⟨rfl, by decide, by decide⟩
theorem sel {a0 a1 a2 a3 a4} : Statement (.sel a0 a1 a2 a3 a4) := ⟨rfl, by decide, by decide⟩
theorem lea {a0 a1 a2 a3 a4} : Statement (.lea a0 a1 a2 a3 a4) := ⟨rfl, by decide, by decide⟩
theorem addImm {a0 a1 a2 a3 a4} : Statement (.addImm a0 a1 a2 a3 a4) := ⟨rfl, by decide, by decide⟩
theorem subImm {a0 a1 a2 a3 a4} : Statement (.subImm a0 a1 a2 a3 a4) := ⟨rfl, by decide, by decide⟩
theorem mulImm {a0 a1 a2 a3 a4} : Statement (.mulImm a0 a1 a2 a3 a4) := ⟨rfl, by decide, by decide⟩
theorem mulhImm {a0 a1 a2 a3 a4} : Statement (.mulhImm a0 a1 a2 a3 a4) := ⟨rfl, by decide, by decide⟩
theorem mulhuImm {a0 a1 a2 a3 a4} : Statement (.mulhuImm a0 a1 a2 a3 a4) := ⟨rfl, by decide, by decide⟩
theorem divImm {a0 a1 a2 a3 a4} : Statement (.divImm a0 a1 a2 a3 a4) := ⟨rfl, by decide, by decide⟩
theorem divuImm {a0 a1 a2 a3 a4} : Statement (.divuImm a0 a1 a2 a3 a4) := ⟨rfl, by decide, by decide⟩
theorem remImm {a0 a1 a2 a3 a4} : Statement (.remImm a0 a1 a2 a3 a4) := ⟨rfl, by decide, by decide⟩
theorem remuImm {a0 a1 a2 a3 a4} : Statement (.remuImm a0 a1 a2 a3 a4) := ⟨rfl, by decide, by decide⟩
theorem andImm {a0 a1 a2 a3 a4} : Statement (.andImm a0 a1 a2 a3 a4) := ⟨rfl, by decide, by decide⟩
theorem orImm {a0 a1 a2 a3 a4} : Statement (.orImm a0 a1 a2 a3 a4) := ⟨rfl, by decide, by decide⟩
theorem xorImm {a0 a1 a2 a3 a4} : Statement (.xorImm a0 a1 a2 a3 a4) := ⟨rfl, by decide, by decide⟩
theorem andnImm {a0 a1 a2 a3 a4} : Statement (.andnImm a0 a1 a2 a3 a4) := ⟨rfl, by decide, by decide⟩
theorem shlImm {a0 a1 a2 a3 a4} : Statement (.shlImm a0 a1 a2 a3 a4) := ⟨rfl, by decide, by decide⟩
theorem shrImm {a0 a1 a2 a3 a4} : Statement (.shrImm a0 a1 a2 a3 a4) := ⟨rfl, by decide, by decide⟩
theorem sraImm {a0 a1 a2 a3 a4} : Statement (.sraImm a0 a1 a2 a3 a4) := ⟨rfl, by decide, by decide⟩
theorem rorImm {a0 a1 a2 a3 a4} : Statement (.rorImm a0 a1 a2 a3 a4) := ⟨rfl, by decide, by decide⟩
theorem minImm {a0 a1 a2 a3 a4} : Statement (.minImm a0 a1 a2 a3 a4) := ⟨rfl, by decide, by decide⟩
theorem maxImm {a0 a1 a2 a3 a4} : Statement (.maxImm a0 a1 a2 a3 a4) := ⟨rfl, by decide, by decide⟩
theorem minuImm {a0 a1 a2 a3 a4} : Statement (.minuImm a0 a1 a2 a3 a4) := ⟨rfl, by decide, by decide⟩
theorem maxuImm {a0 a1 a2 a3 a4} : Statement (.maxuImm a0 a1 a2 a3 a4) := ⟨rfl, by decide, by decide⟩
theorem bfxImm {a0 a1 a2 a3 a4} : Statement (.bfxImm a0 a1 a2 a3 a4) := ⟨rfl, by decide, by decide⟩
theorem bfiImm {a0 a1 a2 a3} : Statement (.bfiImm a0 a1 a2 a3) := ⟨rfl, by decide, by decide⟩
theorem selImm {a0 a1 a2 a3 a4} : Statement (.selImm a0 a1 a2 a3 a4) := ⟨rfl, by decide, by decide⟩
theorem leaImm {a0 a1 a2 a3 a4} : Statement (.leaImm a0 a1 a2 a3 a4) := ⟨rfl, by decide, by decide⟩
theorem movi {a0 a1 a2} : Statement (.movi a0 a1 a2) := ⟨rfl, by decide, by decide⟩
theorem cmp {a0 a1 a2 a3 a4 a5 a6} : Statement (.cmp a0 a1 a2 a3 a4 a5 a6) := ⟨rfl, by decide, by decide⟩
theorem cmpi {a0 a1 a2 a3 a4 a5} : Statement (.cmpi a0 a1 a2 a3 a4 a5) := ⟨rfl, by decide, by decide⟩
theorem plog {a0 a1 a2 a3 a4} : Statement (.plog a0 a1 a2 a3 a4) := ⟨rfl, by decide, by decide⟩
theorem pmovToX {a0 a1} : Statement (.pmovToX a0 a1) := ⟨rfl, by decide, by decide⟩
theorem pmovToP {a0 a1} : Statement (.pmovToP a0 a1) := ⟨rfl, by decide, by decide⟩
theorem ld {a0 a1 a2 a3} : Statement (.ld a0 a1 a2 a3) := ⟨rfl, by decide, by decide⟩
theorem st {a0 a1 a2 a3} : Statement (.st a0 a1 a2 a3) := ⟨rfl, by decide, by decide⟩
theorem lda {a0 a1 a2 a3 a4} : Statement (.lda a0 a1 a2 a3 a4) := ⟨rfl, by decide, by decide⟩
theorem str {a0 a1 a2 a3 a4} : Statement (.str a0 a1 a2 a3 a4) := ⟨rfl, by decide, by decide⟩
theorem atomSwap {a0 a1 a2 a3 a4} : Statement (.atomSwap a0 a1 a2 a3 a4) := ⟨rfl, by decide, by decide⟩
theorem atomAdd {a0 a1 a2 a3 a4} : Statement (.atomAdd a0 a1 a2 a3 a4) := ⟨rfl, by decide, by decide⟩
theorem atomAnd {a0 a1 a2 a3 a4} : Statement (.atomAnd a0 a1 a2 a3 a4) := ⟨rfl, by decide, by decide⟩
theorem atomOr {a0 a1 a2 a3 a4} : Statement (.atomOr a0 a1 a2 a3 a4) := ⟨rfl, by decide, by decide⟩
theorem atomXor {a0 a1 a2 a3 a4} : Statement (.atomXor a0 a1 a2 a3 a4) := ⟨rfl, by decide, by decide⟩
theorem atomMin {a0 a1 a2 a3 a4} : Statement (.atomMin a0 a1 a2 a3 a4) := ⟨rfl, by decide, by decide⟩
theorem atomMax {a0 a1 a2 a3 a4} : Statement (.atomMax a0 a1 a2 a3 a4) := ⟨rfl, by decide, by decide⟩
theorem atomCas {a0 a1 a2 a3 a4 a5 a6} : Statement (.atomCas a0 a1 a2 a3 a4 a5 a6) := ⟨rfl, by decide, by decide⟩
theorem fence {a0 a1 a2} : Statement (.fence a0 a1 a2) := ⟨rfl, by decide, by decide⟩
theorem queueDeadlock {a0} : Statement (.queueDeadlock a0) := rfl
theorem vadd {a0 a1 a2 a3 a4 a5} : Statement (.vadd a0 a1 a2 a3 a4 a5) := ⟨rfl, by decide, by decide⟩
theorem vsub {a0 a1 a2 a3 a4 a5} : Statement (.vsub a0 a1 a2 a3 a4 a5) := ⟨rfl, by decide, by decide⟩
theorem vmul {a0 a1 a2 a3 a4 a5} : Statement (.vmul a0 a1 a2 a3 a4 a5) := ⟨rfl, by decide, by decide⟩
theorem vfma {a0 a1 a2 a3 a4 a5 a6} : Statement (.vfma a0 a1 a2 a3 a4 a5 a6) := ⟨rfl, by decide, by decide⟩
theorem vfms {a0 a1 a2 a3 a4 a5 a6} : Statement (.vfms a0 a1 a2 a3 a4 a5 a6) := ⟨rfl, by decide, by decide⟩
theorem vfnma {a0 a1 a2 a3 a4 a5 a6} : Statement (.vfnma a0 a1 a2 a3 a4 a5 a6) := ⟨rfl, by decide, by decide⟩
theorem vdiv {a0 a1 a2 a3 a4 a5} : Statement (.vdiv a0 a1 a2 a3 a4 a5) := ⟨rfl, by decide, by decide⟩
theorem vsqrt {a0 a1 a2 a3 a4} : Statement (.vsqrt a0 a1 a2 a3 a4) := ⟨rfl, by decide, by decide⟩
theorem vmin {a0 a1 a2 a3 a4} : Statement (.vmin a0 a1 a2 a3 a4) := ⟨rfl, by decide, by decide⟩
theorem vmax {a0 a1 a2 a3 a4} : Statement (.vmax a0 a1 a2 a3 a4) := ⟨rfl, by decide, by decide⟩
theorem vabs {a0 a1 a2 a3} : Statement (.vabs a0 a1 a2 a3) := ⟨rfl, by decide, by decide⟩
theorem vneg {a0 a1 a2 a3} : Statement (.vneg a0 a1 a2 a3) := ⟨rfl, by decide, by decide⟩
theorem vcmp {a0 a1 a2 a3 a4 a5} : Statement (.vcmp a0 a1 a2 a3 a4 a5) := ⟨rfl, by decide, by decide⟩
theorem vclass {a0 a1 a2 a3} : Statement (.vclass a0 a1 a2 a3) := ⟨rfl, by decide, by decide⟩
theorem twosum {a0 a1 a2 a3 a4 a5 a6} : Statement (.twosum a0 a1 a2 a3 a4 a5 a6) := ⟨rfl, by decide, by decide⟩
theorem viadd {a0 a1 a2 a3 a4 a5} : Statement (.viadd a0 a1 a2 a3 a4 a5) := ⟨rfl, by decide, by decide⟩
theorem visub {a0 a1 a2 a3 a4 a5} : Statement (.visub a0 a1 a2 a3 a4 a5) := ⟨rfl, by decide, by decide⟩
theorem vimul {a0 a1 a2 a3 a4} : Statement (.vimul a0 a1 a2 a3 a4) := ⟨rfl, by decide, by decide⟩
theorem vimulh {a0 a1 a2 a3 a4} : Statement (.vimulh a0 a1 a2 a3 a4) := ⟨rfl, by decide, by decide⟩
theorem vimad {a0 a1 a2 a3 a4 a5} : Statement (.vimad a0 a1 a2 a3 a4 a5) := ⟨rfl, by decide, by decide⟩
theorem vimin {a0 a1 a2 a3 a4} : Statement (.vimin a0 a1 a2 a3 a4) := ⟨rfl, by decide, by decide⟩
theorem vimax {a0 a1 a2 a3 a4} : Statement (.vimax a0 a1 a2 a3 a4) := ⟨rfl, by decide, by decide⟩
theorem vand {a0 a1 a2 a3 a4} : Statement (.vand a0 a1 a2 a3 a4) := ⟨rfl, by decide, by decide⟩
theorem vor {a0 a1 a2 a3 a4} : Statement (.vor a0 a1 a2 a3 a4) := ⟨rfl, by decide, by decide⟩
theorem vxor {a0 a1 a2 a3 a4} : Statement (.vxor a0 a1 a2 a3 a4) := ⟨rfl, by decide, by decide⟩
theorem vshl {a0 a1 a2 a3 a4} : Statement (.vshl a0 a1 a2 a3 a4) := ⟨rfl, by decide, by decide⟩
theorem vshr {a0 a1 a2 a3 a4} : Statement (.vshr a0 a1 a2 a3 a4) := ⟨rfl, by decide, by decide⟩
theorem vsra {a0 a1 a2 a3 a4} : Statement (.vsra a0 a1 a2 a3 a4) := ⟨rfl, by decide, by decide⟩
theorem vclip {a0 a1 a2 a3 a4 a5} : Statement (.vclip a0 a1 a2 a3 a4 a5) := ⟨rfl, by decide, by decide⟩
theorem vmov {a0 a1 a2 a3} : Statement (.vmov a0 a1 a2 a3) := ⟨rfl, by decide, by decide⟩
theorem vbcast {a0 a1 a2 a3} : Statement (.vbcast a0 a1 a2 a3) := ⟨rfl, by decide, by decide⟩
theorem viota {a0 a1 a2 a3} : Statement (.viota a0 a1 a2 a3) := ⟨rfl, by decide, by decide⟩
theorem vsel {a0 a1 a2 a3 a4 a5} : Statement (.vsel a0 a1 a2 a3 a4 a5) := ⟨rfl, by decide, by decide⟩
theorem vldi {a0 a1 a2 a3} : Statement (.vldi a0 a1 a2 a3) := ⟨rfl, by decide, by decide⟩
theorem setvl {a0 a1 a2 a3} : Statement (.setvl a0 a1 a2 a3) := ⟨rfl, by decide, by decide⟩
theorem setvlRel {a0 a1} : Statement (.setvlRel a0 a1) := ⟨rfl, by decide, by decide⟩
theorem setrc {a0 a1 a2 a3} : Statement (.setrc a0 a1 a2 a3) := ⟨rfl, by decide, by decide⟩
theorem alloc {a0 a1 a2} : Statement (.alloc a0 a1 a2) := ⟨rfl, by decide, by decide⟩
theorem shrink {a0 a1 a2} : Statement (.shrink a0 a1 a2) := ⟨rfl, by decide, by decide⟩
theorem strip {a0 a1 a2 a3 a4 a5 a6 a7 a8} : Statement (.strip a0 a1 a2 a3 a4 a5 a6 a7 a8) := ⟨rfl, by decide, by decide⟩
theorem vrcp {a0 a1 a2 a3 a4} : Statement (.vrcp a0 a1 a2 a3 a4) := ⟨rfl, by decide, by decide⟩
theorem vrsq {a0 a1 a2 a3 a4} : Statement (.vrsq a0 a1 a2 a3 a4) := ⟨rfl, by decide, by decide⟩
theorem vexp2 {a0 a1 a2 a3 a4} : Statement (.vexp2 a0 a1 a2 a3 a4) := ⟨rfl, by decide, by decide⟩
theorem vlog2 {a0 a1 a2 a3 a4} : Statement (.vlog2 a0 a1 a2 a3 a4) := ⟨rfl, by decide, by decide⟩
theorem vtanh {a0 a1 a2 a3 a4} : Statement (.vtanh a0 a1 a2 a3 a4) := ⟨rfl, by decide, by decide⟩
theorem vcvt {a0 a1 a2 a3 a4 a5} : Statement (.vcvt a0 a1 a2 a3 a4 a5) := ⟨rfl, by decide, by decide⟩
theorem vqblk {a0 a1 a2 a3 a4 a5 a6 a7} : Statement (.vqblk a0 a1 a2 a3 a4 a5 a6 a7) := ⟨rfl, by decide, by decide⟩
theorem vdqblk {a0 a1 a2 a3 a4 a5 a6 a7} : Statement (.vdqblk a0 a1 a2 a3 a4 a5 a6 a7) := ⟨rfl, by decide, by decide⟩
theorem vplane {a0 a1 a2} : Statement (.vplane a0 a1 a2) := ⟨rfl, by decide, by decide⟩
theorem vunplane {a0 a1 a2 a3} : Statement (.vunplane a0 a1 a2 a3) := ⟨rfl, by decide, by decide⟩
theorem vrand {a0 a1 a2} : Statement (.vrand a0 a1 a2) := ⟨rfl, by decide, by decide⟩
theorem klog {a0 a1 a2 a3 a4} : Statement (.klog a0 a1 a2 a3 a4) := ⟨rfl, by decide, by decide⟩
theorem kcnt {a0 a1 a2} : Statement (.kcnt a0 a1 a2) := ⟨rfl, by decide, by decide⟩
theorem kfirst {a0 a1 a2} : Statement (.kfirst a0 a1 a2) := ⟨rfl, by decide, by decide⟩
theorem mpush {a0 a1} : Statement (.mpush a0 a1) := ⟨rfl, by decide, by decide⟩
theorem minv {a0} : Statement (.minv a0) := ⟨rfl, by decide, by decide⟩
theorem mpop {a0} : Statement (.mpop a0) := ⟨rfl, by decide, by decide⟩
theorem mbrz {a0 a1 a2} : Statement (.mbrz a0 a1 a2) := ⟨rfl, by decide, by decide⟩
theorem vtrip {a0 a1 a2 a3} : Statement (.vtrip a0 a1 a2 a3) := ⟨rfl, by decide, by decide⟩
theorem mloop {a0 a1 a2 a3} : Statement (.mloop a0 a1 a2 a3) := ⟨rfl, by decide, by decide⟩
theorem vred {a0 a1 a2 a3 a4 a5 a6} : Statement (.vred a0 a1 a2 a3 a4 a5 a6) := ⟨rfl, by decide, by decide⟩
theorem vredp {a0 a1 a2 a3 a4 a5} : Statement (.vredp a0 a1 a2 a3 a4 a5) := ⟨rfl, by decide, by decide⟩
theorem vscan {a0 a1 a2 a3 a4 a5 a6} : Statement (.vscan a0 a1 a2 a3 a4 a5 a6) := ⟨rfl, by decide, by decide⟩
theorem vperm {a0 a1 a2 a3 a4 a5 a6} : Statement (.vperm a0 a1 a2 a3 a4 a5 a6) := ⟨rfl, by decide, by decide⟩
theorem vslide {a0 a1 a2 a3 a4 a5 a6} : Statement (.vslide a0 a1 a2 a3 a4 a5 a6) := ⟨rfl, by decide, by decide⟩
theorem vzip {a0 a1 a2 a3 a4 a5 a6} : Statement (.vzip a0 a1 a2 a3 a4 a5 a6) := ⟨rfl, by decide, by decide⟩
theorem vunzip {a0 a1 a2 a3 a4 a5 a6} : Statement (.vunzip a0 a1 a2 a3 a4 a5 a6) := ⟨rfl, by decide, by decide⟩
theorem vtrn {a0 a1 a2 a3} : Statement (.vtrn a0 a1 a2 a3) := ⟨rfl, by decide, by decide⟩
theorem vcompress {a0 a1 a2 a3 a4 a5} : Statement (.vcompress a0 a1 a2 a3 a4 a5) := ⟨rfl, by decide, by decide⟩
theorem vexpand {a0 a1 a2 a3 a4} : Statement (.vexpand a0 a1 a2 a3 a4) := ⟨rfl, by decide, by decide⟩
theorem vsortk {a0 a1 a2 a3 a4 a5 a6} : Statement (.vsortk a0 a1 a2 a3 a4 a5 a6) := ⟨rfl, by decide, by decide⟩
theorem vextr {a0 a1 a2 a3 a4} : Statement (.vextr a0 a1 a2 a3 a4) := ⟨rfl, by decide, by decide⟩
theorem vinsr {a0 a1 a2 a3 a4} : Statement (.vinsr a0 a1 a2 a3 a4) := ⟨rfl, by decide, by decide⟩
theorem rdv {a0 a1} : Statement (.rdv a0 a1) := ⟨rfl, by decide, by decide⟩
theorem rendezvousComplete {a0 a1} : Statement (.rendezvousComplete a0 a1) := rfl
theorem laneArrive {a0 a1 a2} : Statement (.laneArrive a0 a1 a2) := rfl
theorem vectorTrapCommit {a0} : Statement (.vectorTrapCommit a0) := rfl
theorem vld {a0 a1 a2 a3} : Statement (.vld a0 a1 a2 a3) := ⟨rfl, by decide, by decide⟩
theorem vlds {a0 a1 a2 a3} : Statement (.vlds a0 a1 a2 a3) := ⟨rfl, by decide, by decide⟩
theorem vldx {a0 a1 a2 a3 a4 a5 a6 a7} : Statement (.vldx a0 a1 a2 a3 a4 a5 a6 a7) := ⟨rfl, by decide, by decide⟩
theorem vst {a0 a1 a2 a3} : Statement (.vst a0 a1 a2 a3) := ⟨rfl, by decide, by decide⟩
theorem vsts {a0 a1 a2 a3} : Statement (.vsts a0 a1 a2 a3) := ⟨rfl, by decide, by decide⟩
theorem vstx {a0 a1 a2 a3 a4 a5 a6 a7} : Statement (.vstx a0 a1 a2 a3 a4 a5 a6 a7) := ⟨rfl, by decide, by decide⟩
theorem vstu {a0 a1 a2 a3 a4 a5 a6 a7} : Statement (.vstu a0 a1 a2 a3 a4 a5 a6 a7) := ⟨rfl, by decide, by decide⟩
theorem vstxa {a0 a1 a2 a3 a4 a5 a6 a7} : Statement (.vstxa a0 a1 a2 a3 a4 a5 a6 a7) := ⟨rfl, by decide, by decide⟩
theorem vfence {a0 a1 a2} : Statement (.vfence a0 a1 a2) := ⟨rfl, by decide, by decide⟩
theorem pref {a0 a1 a2 a3} : Statement (.pref a0 a1 a2 a3) := ⟨rfl, by decide, by decide⟩
theorem gset {a0 a1 a2 a3} : Statement (.gset a0 a1 a2 a3) := ⟨rfl, by decide, by decide⟩
theorem gsetFree {a0 a1} : Statement (.gsetFree a0 a1) := ⟨rfl, by decide, by decide⟩
theorem vgred {a0 a1 a2 a3 a4 a5} : Statement (.vgred a0 a1 a2 a3 a4 a5) := ⟨rfl, by decide, by decide⟩
theorem vgall {a0 a1 a2 a3 a4} : Statement (.vgall a0 a1 a2 a3 a4) := ⟨rfl, by decide, by decide⟩
theorem vgrs {a0 a1 a2 a3 a4 a5} : Statement (.vgrs a0 a1 a2 a3 a4 a5) := ⟨rfl, by decide, by decide⟩
theorem vgbc {a0 a1 a2 a3 a4 a5} : Statement (.vgbc a0 a1 a2 a3 a4 a5) := ⟨rfl, by decide, by decide⟩
theorem stream {a0 a1 a2} : Statement (.stream a0 a1 a2) := ⟨rfl, by decide, by decide⟩
theorem armw {a0 a1 a2} : Statement (.armw a0 a1 a2) := ⟨rfl, by decide, by decide⟩
theorem waitw {a0 a1 a2} : Statement (.waitw a0 a1 a2) := ⟨rfl, by decide, by decide⟩
theorem jobwait {a0 a1 a2} : Statement (.jobwait a0 a1 a2) := ⟨rfl, by decide, by decide⟩
theorem ovopen {a0 a1} : Statement (.ovopen a0 a1) := ⟨rfl, by decide, by decide⟩
theorem ovopenTry {a0 a1 a2} : Statement (.ovopenTry a0 a1 a2) := ⟨rfl, by decide, by decide⟩
theorem ovset {a0 a1} : Statement (.ovset a0 a1) := ⟨rfl, by decide, by decide⟩
theorem ovretire {a0 a1 a2} : Statement (.ovretire a0 a1 a2) := ⟨rfl, by decide, by decide⟩
theorem ovcommit {a0 a1 a2 a3} : Statement (.ovcommit a0 a1 a2 a3) := ⟨rfl, by decide, by decide⟩
theorem ldo {a0 a1 a2 a3 a4 a5} : Statement (.ldo a0 a1 a2 a3 a4 a5) := ⟨rfl, by decide, by decide⟩
theorem vldo {a0 a1 a2 a3 a4 a5} : Statement (.vldo a0 a1 a2 a3 a4 a5) := ⟨rfl, by decide, by decide⟩
theorem ovstat {a0 a1 a2 a3} : Statement (.ovstat a0 a1 a2 a3) := ⟨rfl, by decide, by decide⟩
theorem carve {a0 a1 a2} : Statement (.carve a0 a1 a2) := ⟨rfl, by decide, by decide⟩
theorem cclean {a0 a1 a2 a3} : Statement (.cclean a0 a1 a2 a3) := ⟨rfl, by decide, by decide⟩
theorem cinv {a0 a1 a2 a3} : Statement (.cinv a0 a1 a2 a3) := ⟨rfl, by decide, by decide⟩
theorem cflush {a0 a1 a2 a3} : Statement (.cflush a0 a1 a2 a3) := ⟨rfl, by decide, by decide⟩
theorem tlbiAll {a0} : Statement (.tlbiAll a0) := ⟨rfl, by decide, by decide⟩
theorem tlbiAsid {a0 a1} : Statement (.tlbiAsid a0 a1) := ⟨rfl, by decide, by decide⟩
theorem tlbiRange {a0 a1 a2 a3} : Statement (.tlbiRange a0 a1 a2 a3) := ⟨rfl, by decide, by decide⟩
theorem digest {a0 a1 a2} : Statement (.digest a0 a1 a2) := ⟨rfl, by decide, by decide⟩
theorem digestRng {a0 a1 a2 a3} : Statement (.digestRng a0 a1 a2 a3) := ⟨rfl, by decide, by decide⟩
theorem budget {a0 a1 a2 a3} : Statement (.budget a0 a1 a2 a3) := ⟨rfl, by decide, by decide⟩
theorem budgetW {a0 a1 a2 a3 a4} : Statement (.budgetW a0 a1 a2 a3 a4) := ⟨rfl, by decide, by decide⟩
theorem mattach {a0 a1 a2} : Statement (.mattach a0 a1 a2) := ⟨rfl, by decide, by decide⟩
theorem mattachPair {a0 a1 a2} : Statement (.mattachPair a0 a1 a2) := ⟨rfl, by decide, by decide⟩
theorem mdetach {a0} : Statement (.mdetach a0) := ⟨rfl, by decide, by decide⟩
theorem mwld {a0 a1 a2 a3} : Statement (.mwld a0 a1 a2 a3) := ⟨rfl, by decide, by decide⟩
theorem mstream {a0 a1 a2 a3} : Statement (.mstream a0 a1 a2 a3) := ⟨rfl, by decide, by decide⟩
theorem mzeroFp {a0 a1 a2} : Statement (.mzeroFp a0 a1 a2) := ⟨rfl, by decide, by decide⟩
theorem mzeroInt {a0 a1 a2} : Statement (.mzeroInt a0 a1 a2) := ⟨rfl, by decide, by decide⟩
theorem mdrain {a0 a1 a2 a3} : Statement (.mdrain a0 a1 a2 a3) := ⟨rfl, by decide, by decide⟩
theorem mdrainIdx {a0 a1 a2 a3} : Statement (.mdrainIdx a0 a1 a2 a3) := ⟨rfl, by decide, by decide⟩
theorem msave {a0 a1 a2} : Statement (.msave a0 a1 a2) := ⟨rfl, by decide, by decide⟩
theorem mrestore {a0 a1 a2} : Statement (.mrestore a0 a1 a2) := ⟨rfl, by decide, by decide⟩
theorem mlineEmpty {a0 a1 a2} : Statement (.mlineEmpty a0 a1 a2) := ⟨rfl, by decide, by decide⟩
theorem mlineFull {a0 a1 a2} : Statement (.mlineFull a0 a1 a2) := ⟨rfl, by decide, by decide⟩
theorem mlineWfull {a0 a1 a2} : Statement (.mlineWfull a0 a1 a2) := ⟨rfl, by decide, by decide⟩
theorem mlineWempty {a0 a1 a2} : Statement (.mlineWempty a0 a1 a2) := ⟨rfl, by decide, by decide⟩
theorem mwait {a0 a1 a2} : Statement (.mwait a0 a1 a2) := ⟨rfl, by decide, by decide⟩
theorem mstat {a0 a1 a2 a3} : Statement (.mstat a0 a1 a2 a3) := ⟨rfl, by decide, by decide⟩
theorem mzeroApply {a0} : Statement (.mzeroApply a0) := rfl
theorem streamChunk {a0} : Statement (.streamChunk a0) := rfl
theorem weightSwap {a0} : Statement (.weightSwap a0) := rfl
theorem tvload {a0 a1 a2 a3} : Statement (.tvload a0 a1 a2 a3) := ⟨rfl, by decide, by decide⟩
theorem tvloadFree {a0 a1} : Statement (.tvloadFree a0 a1) := ⟨rfl, by decide, by decide⟩
theorem tvstart {a0 a1 a2 a3} : Statement (.tvstart a0 a1 a2 a3) := ⟨rfl, by decide, by decide⟩
theorem tvwait {a0 a1 a2} : Statement (.tvwait a0 a1 a2) := ⟨rfl, by decide, by decide⟩
theorem tvstat {a0 a1 a2 a3} : Statement (.tvstat a0 a1 a2 a3) := ⟨rfl, by decide, by decide⟩
theorem gzlook {a0 a1 a2} : Statement (.gzlook a0 a1 a2) := ⟨rfl, by decide, by decide⟩
theorem gzupdate {a0 a1 a2} : Statement (.gzupdate a0 a1 a2) := ⟨rfl, by decide, by decide⟩
theorem gzver {a0 a1 a2 a3} : Statement (.gzver a0 a1 a2 a3) := ⟨rfl, by decide, by decide⟩
theorem gzpin {a0 a1 a2 a3 a4} : Statement (.gzpin a0 a1 a2 a3 a4) := ⟨rfl, by decide, by decide⟩
theorem gzpinUn {a0 a1 a2 a3 a4} : Statement (.gzpinUn a0 a1 a2 a3 a4) := ⟨rfl, by decide, by decide⟩
theorem gzwait {a0 a1 a2} : Statement (.gzwait a0 a1 a2) := ⟨rfl, by decide, by decide⟩
theorem launch {a0 a1 a2} : Statement (.launch a0 a1 a2) := ⟨rfl, by decide, by decide⟩
theorem launchTry {a0 a1 a2} : Statement (.launchTry a0 a1 a2) := ⟨rfl, by decide, by decide⟩
theorem trig {a0} : Statement (.trig a0) := ⟨rfl, by decide, by decide⟩
theorem bar {a0 a1} : Statement (.bar a0 a1) := ⟨rfl, by decide, by decide⟩
theorem barRelease {a0 a1 a2} : Statement (.barRelease a0 a1 a2) := rfl
theorem waitl {a0 a1 a2 a3 a4} : Statement (.waitl a0 a1 a2 a3 a4) := ⟨rfl, by decide, by decide⟩
theorem lvlid {a0 a1 a2 a3} : Statement (.lvlid a0 a1 a2 a3) := ⟨rfl, by decide, by decide⟩
theorem mtick {a0 a1} : Statement (.mtick a0 a1) := ⟨rfl, by decide, by decide⟩
theorem mtickOrd {a0 a1} : Statement (.mtickOrd a0 a1) := ⟨rfl, by decide, by decide⟩
theorem svmark {a0 a1 a2} : Statement (.svmark a0 a1 a2) := ⟨rfl, by decide, by decide⟩
theorem svsamp {a0 a1 a2} : Statement (.svsamp a0 a1 a2) := ⟨rfl, by decide, by decide⟩
theorem svsampOff {a0} : Statement (.svsampOff a0) := ⟨rfl, by decide, by decide⟩
theorem svread {a0 a1 a2 a3} : Statement (.svread a0 a1 a2 a3) := ⟨rfl, by decide, by decide⟩
theorem svstop {a0 a1 a2} : Statement (.svstop a0 a1 a2) := ⟨rfl, by decide, by decide⟩
theorem clklock {a0 a1 a2} : Statement (.clklock a0 a1 a2) := ⟨rfl, by decide, by decide⟩
theorem clklockOff {a0 a1} : Statement (.clklockOff a0 a1) := ⟨rfl, by decide, by decide⟩
theorem dhash {a0 a1 a2 a3} : Statement (.dhash a0 a1 a2 a3) := ⟨rfl, by decide, by decide⟩
theorem dverify {a0 a1 a2 a3} : Statement (.dverify a0 a1 a2 a3) := ⟨rfl, by decide, by decide⟩
theorem dsign {a0 a1 a2 a3} : Statement (.dsign a0 a1 a2 a3) := ⟨rfl, by decide, by decide⟩
theorem dsignAtt {a0 a1 a2} : Statement (.dsignAtt a0 a1 a2) := ⟨rfl, by decide, by decide⟩
theorem dsignPub {a0 a1} : Statement (.dsignPub a0 a1) := ⟨rfl, by decide, by decide⟩
theorem fuserd {a0 a1 a2} : Statement (.fuserd a0 a1 a2) := ⟨rfl, by decide, by decide⟩
theorem keywipe {a0 a1 a2} : Statement (.keywipe a0 a1 a2) := ⟨rfl, by decide, by decide⟩
theorem keywipeAll {a0 a1} : Statement (.keywipeAll a0 a1) := ⟨rfl, by decide, by decide⟩
theorem mextend {a0 a1 a2 a3} : Statement (.mextend a0 a1 a2 a3) := ⟨rfl, by decide, by decide⟩
theorem mextendDbg {a0 a1} : Statement (.mextendDbg a0 a1) := ⟨rfl, by decide, by decide⟩
theorem lcset {a0 a1 a2} : Statement (.lcset a0 a1 a2) := ⟨rfl, by decide, by decide⟩
theorem dbgopen {a0 a1 a2} : Statement (.dbgopen a0 a1 a2) := ⟨rfl, by decide, by decide⟩
theorem legSend {a0 a1 a2 a3 a4 a5 a6} : Statement (.legSend a0 a1 a2 a3 a4 a5 a6) := rfl
theorem legRecv {a0 a1 a2 a3 a4 a5} : Statement (.legRecv a0 a1 a2 a3 a4 a5) := rfl
theorem legReduce {a0 a1 a2 a3 a4 a5 a6 a7} : Statement (.legReduce a0 a1 a2 a3 a4 a5 a6 a7) := rfl
theorem legCopy {a0 a1 a2 a3 a4 a5 a6} : Statement (.legCopy a0 a1 a2 a3 a4 a5 a6) := rfl
theorem legWait {a0} : Statement (.legWait a0) := rfl
theorem legSignal {a0 a1 a2} : Statement (.legSignal a0 a1 a2) := rfl
theorem legReserve {a0 a1 a2 a3} : Statement (.legReserve a0 a1 a2 a3) := rfl
theorem legRepeat {a0 a1 a2} : Statement (.legRepeat a0 a1 a2) := rfl
theorem legEnd : Statement (.legEnd) := rfl
theorem traverseRunStart {a0} : Statement (.traverseRunStart a0) := rfl
theorem sendLand {a0} : Statement (.sendLand a0) := rfl
theorem signalArrive {a0} : Statement (.signalArrive a0) := rfl
theorem reserveClaimArrive {a0} : Statement (.reserveClaimArrive a0) := rfl
theorem reserveRound {a0 a1 a2} : Statement (.reserveRound a0 a1 a2) := rfl
theorem legAckArrive {a0} : Statement (.legAckArrive a0) := rfl
theorem stopNotice {a0 a1} : Statement (.stopNotice a0 a1) := rfl
theorem cardStart {a0} : Statement (.cardStart a0) := rfl
theorem streamCopyJob {a0} : Statement (.streamCopyJob a0) := rfl
theorem weightLoadJob {a0} : Statement (.weightLoadJob a0) := rfl
theorem gzLookupJob {a0} : Statement (.gzLookupJob a0) := rfl
theorem gzUpdateJob {a0} : Statement (.gzUpdateJob a0) := rfl
theorem gzageHalve {a0} : Statement (.gzageHalve a0) := rfl
theorem cardComplete {a0} : Statement (.cardComplete a0) := rfl
theorem ringWptrWrite {a0 a1} : Statement (.ringWptrWrite a0 a1) := rfl
theorem ringReset {a0 a1} : Statement (.ringReset a0 a1) := rfl
theorem ringEntryRead {a0} : Statement (.ringEntryRead a0) := rfl
theorem priorityAge {a0} : Statement (.priorityAge a0) := rfl
theorem depEval {a0} : Statement (.depEval a0) := rfl
theorem launchPlace {a0} : Statement (.launchPlace a0) := rfl
theorem podAdmission {a0 a1} : Statement (.podAdmission a0 a1) := rfl
theorem launchComplete {a0} : Statement (.launchComplete a0) := rfl
theorem preemptWrite {a0} : Statement (.preemptWrite a0) := rfl
theorem cancelWrite {a0} : Statement (.cancelWrite a0) := rfl
theorem gangPreempt {a0 a1} : Statement (.gangPreempt a0 a1) := rfl
theorem gangResume {a0 a1} : Statement (.gangResume a0 a1) := rfl
theorem hostMrd {a0} : Statement (.hostMrd a0) := rfl
theorem hostDrd {a0 a1 a2 a3} : Statement (.hostDrd a0 a1 a2 a3) := rfl
theorem hostDwr {a0 a1 a2 a3} : Statement (.hostDwr a0 a1 a2 a3) := rfl
theorem hostCpl {a0 a1 a2} : Statement (.hostCpl a0 a1 a2) := rfl
theorem regWrite {a0 a1} : Statement (.regWrite a0 a1) := rfl
theorem fqrespRetry {a0 a1} : Statement (.fqrespRetry a0 a1) := rfl
theorem fqrespDecline {a0 a1} : Statement (.fqrespDecline a0 a1) := rfl
theorem pageWalkDone : Statement (.pageWalkDone) := rfl
theorem faultRecordPost {a0} : Statement (.faultRecordPost a0) := rfl
theorem sideLogPerform {a0} : Statement (.sideLogPerform a0) := rfl
theorem sideLogPageTrap {a0} : Statement (.sideLogPageTrap a0) := rfl
theorem tagEndOvstaleTrap {a0} : Statement (.tagEndOvstaleTrap a0) := rfl
theorem roundProtTrap {a0} : Statement (.roundProtTrap a0) := rfl
theorem wcbDrainTimeout {a0} : Statement (.wcbDrainTimeout a0) := rfl
theorem l1LeaseExpire {a0} : Statement (.l1LeaseExpire a0) := rfl
theorem borderCopyInvalidate {a0 a1} : Statement (.borderCopyInvalidate a0 a1) := rfl
theorem budgetPeriod : Statement (.budgetPeriod) := rfl
theorem roundApply {a0} : Statement (.roundApply a0) := rfl
theorem trainReceive {a0} : Statement (.trainReceive a0) := rfl
theorem trainAck {a0} : Statement (.trainAck a0) := rfl
theorem trainRefusal {a0} : Statement (.trainRefusal a0) := rfl
theorem ualinkReadServe {a0} : Statement (.ualinkReadServe a0) := rfl
theorem ualinkResponse {a0 a1} : Statement (.ualinkResponse a0 a1) := rfl
theorem tlbicmdAll : Statement (.tlbicmdAll) := rfl
theorem tlbicmdAsid {a0} : Statement (.tlbicmdAsid a0) := rfl
theorem tlbicmdRange {a0} : Statement (.tlbicmdRange a0) := rfl
theorem tlbicmdDone : Statement (.tlbicmdDone) := rfl
theorem uncorrected {a0} : Statement (.uncorrected a0) := rfl
theorem scrub {a0 a1} : Statement (.scrub a0 a1) := rfl
theorem ovgaddWrite {a0} : Statement (.ovgaddWrite a0) := rfl
theorem poolGrowDone : Statement (.poolGrowDone) := rfl
theorem gzdsyncWrite {a0} : Statement (.gzdsyncWrite a0) := rfl
theorem gzprobeWrite {a0} : Statement (.gzprobeWrite a0) := rfl
theorem gzprobeDone : Statement (.gzprobeDone) := rfl
theorem tickAlign {a0} : Statement (.tickAlign a0) := rfl
theorem tickAlignLoss : Statement (.tickAlignLoss) := rfl
theorem sampleRecord {a0 a1 a2} : Statement (.sampleRecord a0 a1 a2) := rfl
theorem stopFire : Statement (.stopFire) := rfl
theorem svrunWrite {a0} : Statement (.svrunWrite a0) := rfl
theorem svstatDisarm {a0} : Statement (.svstatDisarm a0) := rfl
theorem rlctlWrite {a0} : Statement (.rlctlWrite a0) := rfl
theorem rlwptrSupply {a0} : Statement (.rlwptrSupply a0) := rfl
theorem replayInputArrive {a0} : Statement (.replayInputArrive a0) := rfl
theorem powerGoodReset : Statement (.powerGoodReset) := rfl
theorem dwinWrite {a0} : Statement (.dwinWrite a0) := rfl
theorem dmloadWrite {a0} : Statement (.dmloadWrite a0) := rfl
theorem unitReady {a0} : Statement (.unitReady a0) := rfl
theorem unitLost {a0} : Statement (.unitLost a0) := rfl
theorem cdisWrite {a0 a1} : Statement (.cdisWrite a0 a1) := rfl
theorem pcapWrite {a0 a1} : Statement (.pcapWrite a0 a1) := rfl
theorem powerLimitRaise : Statement (.powerLimitRaise) := rfl
theorem powerLimitRelax : Statement (.powerLimitRelax) := rfl
theorem thermalLimitRaise : Statement (.thermalLimitRaise) := rfl
theorem thermalTrip : Statement (.thermalTrip) := rfl
theorem thermalLimitRelax : Statement (.thermalLimitRelax) := rfl
theorem pointChange : Statement (.pointChange) := rfl
theorem kctlLoad {a0} : Statement (.kctlLoad a0) := rfl
theorem kctlClearSeal {a0} : Statement (.kctlClearSeal a0) := rfl
theorem dunlkAbort : Statement (.dunlkAbort) := rfl
theorem dchalDraw : Statement (.dchalDraw) := rfl
theorem debugScan : Statement (.debugScan) := rfl
theorem debugMemrd {a0} : Statement (.debugMemrd a0) := rfl
theorem debugMemwr {a0 a1} : Statement (.debugMemwr a0 a1) := rfl
theorem debugSvstop {a0} : Statement (.debugSvstop a0) := rfl
theorem i3cEntdaa {a0} : Statement (.i3cEntdaa a0) := rfl
theorem i3cRstdaa : Statement (.i3cRstdaa) := rfl
theorem i3cGetpid : Statement (.i3cGetpid) := rfl
theorem i3cGetbcr : Statement (.i3cGetbcr) := rfl
theorem i3cGetdcr : Statement (.i3cGetdcr) := rfl
theorem i3cGetstatus : Statement (.i3cGetstatus) := rfl
theorem i3cPrivateWrite {a0 a1} : Statement (.i3cPrivateWrite a0 a1) := rfl
theorem laneComplete {a0 a1 a2} : Statement (.laneComplete a0 a1 a2) := rfl
theorem meridianTick : Statement (.meridianTick) := rfl
theorem ualinkErrorResponse {a0} : Statement (.ualinkErrorResponse a0) := rfl
theorem gzdsyncDone : Statement (.gzdsyncDone) := rfl
theorem i3cPrivateRead {a0} : Statement (.i3cPrivateRead a0) := rfl

end Sys2Proof.Laws.Encodable
end

