-- ==== Sys2Proof/Laws/Real.lean ====
section
/-! SUPPORT. The enclosures of the functions without a finite result hold the exact real value, so that what is rounded is
that value for every input (03 R118, R128). -/

namespace Sys2Proof.Machine

open Sys2Proof

/-! Division in the whole numbers, seen in the reals. -/

theorem div_below (a b : ℕ) : ((a / b : ℕ) : ℝ) ≤ (a : ℝ) / b := Nat.cast_div_le

theorem div_above (a : ℕ) {b : ℕ} (hb : 0 < b) : (a : ℝ) / b < ((a / b : ℕ) : ℝ) + 1 := by
  rw [div_lt_iff₀ (by exact_mod_cast hb)]
  have := Nat.lt_mul_div_succ a hb
  calc (a : ℝ) < ((b * (a / b + 1) : ℕ) : ℝ) := by exact_mod_cast this
    _ = _ := by push_cast; ring

/-- An enclosure never changes the value. -/
theorem FVal.enclosed_eq (neg : Bool) {lo hi : ℕ} {x : ℝ} (e : ℤ)
    (h1 : (lo : ℝ) < x * 2 ^ (encPlaces - realPlaces)) (h2 : x * 2 ^ (encPlaces - realPlaces) < hi) :
    FVal.enclosed neg lo hi x e = FVal.ofReal neg x e := by
  unfold FVal.enclosed
  generalize encPlaces - realPlaces = g at h1 h2
  simp only
  split
  next h =>
    have hp : (0 : ℝ) < 2 ^ g := by positivity
    have hl : ((lo / 2 ^ g : ℕ) : ℝ) < x := by
      have := div_below lo (2 ^ g)
      push_cast at this
      exact lt_of_le_of_lt this ((div_lt_iff₀ hp).2 h1)
    have hu : x < ((lo / 2 ^ g : ℕ) : ℝ) + 1 := by
      have := div_above hi (b := 2 ^ g) (by positivity)
      rw [h] at this
      push_cast at this
      exact lt_trans ((lt_div_iff₀ hp).2 h2) this
    have hf : ⌊x⌋₊ = lo / 2 ^ g := by
      rw [Nat.floor_eq_iff (le_trans (Nat.cast_nonneg _) hl.le)]
      exact ⟨hl.le, hu⟩
    unfold FVal.ofReal
    rw [hf]
    congr 1
    exact (@decide_eq_true _ (Classical.propDecidable _) (ne_of_lt hl)).symm
  next => rfl

/-! The exponential. -/

theorem expBelow_le (a b k : ℕ) :
    ((expBelow a b k).1 : ℝ) ≤ 2 ^ encPlaces * (((a : ℝ) / b) ^ k / k.factorial) ∧
    ((expBelow a b k).2 : ℝ) ≤ 2 ^ encPlaces * ∑ i ∈ Finset.range k, ((a : ℝ) / b) ^ i / i.factorial := by
  induction k with
  | zero => simp [expBelow]
  | succ k ih =>
    simp only [expBelow]
    obtain ⟨h1, h2⟩ := ih
    constructor
    · refine (div_below _ _).trans ?_
      push_cast
      calc ((expBelow a b k).1 : ℝ) * a / (b * (k + 1))
          ≤ (2 ^ encPlaces * (((a : ℝ) / b) ^ k / k.factorial)) * a / (b * (k + 1)) := by gcongr
        _ = _ := by rw [Nat.factorial_succ, pow_succ]; push_cast; field_simp
    · rw [Finset.sum_range_succ, mul_add]
      push_cast
      exact add_le_add h2 h1

theorem le_expAbove (a b k : ℕ) (hb : 0 < b) :
    2 ^ encPlaces * (((a : ℝ) / b) ^ k / k.factorial) ≤ (expAbove a b k).1 ∧
    2 ^ encPlaces * ∑ i ∈ Finset.range k, ((a : ℝ) / b) ^ i / i.factorial ≤ ((expAbove a b k).2 : ℝ) := by
  induction k with
  | zero => simp [expAbove]
  | succ k ih =>
    simp only [expAbove]
    obtain ⟨h1, h2⟩ := ih
    constructor
    · have := div_above ((expAbove a b k).1 * a) (b := b * (k + 1)) (by positivity)
      push_cast at this ⊢
      refine le_trans ?_ this.le
      calc _ = (2 ^ encPlaces * (((a : ℝ) / b) ^ k / k.factorial)) * a / (b * (k + 1)) := by
            rw [Nat.factorial_succ, pow_succ]; push_cast; field_simp
        _ ≤ _ := by gcongr
    · rw [Finset.sum_range_succ, mul_add]
      push_cast
      exact add_le_add h2 h1

theorem expTerms_pos : 0 < expTerms := by decide

/-- The bounds hold e^x × 2^encPlaces. -/
theorem expLo_lt (a b : ℕ) : (expLo a b : ℝ) < 2 ^ encPlaces * Real.exp ((a : ℝ) / b) := by
  have h := (expBelow_le a b expTerms).2
  have hs := Real.sum_le_exp_of_nonneg (x := (a : ℝ) / b) (by positivity) expTerms
  have hle : ((expBelow a b expTerms).2 : ℝ) ≤ 2 ^ encPlaces * Real.exp ((a : ℝ) / b) := h.trans (by gcongr)
  have hpos : 0 < 2 ^ encPlaces * Real.exp ((a : ℝ) / b) := by positivity
  unfold expLo
  rcases Nat.eq_zero_or_pos (expBelow a b expTerms).2 with h0 | h0
  · rw [h0]; simpa using hpos
  · rw [Nat.cast_sub h0]
    push_cast
    linarith

theorem lt_expHi (a b : ℕ) (hb : 0 < b) (hab : a ≤ b) : 2 ^ encPlaces * Real.exp ((a : ℝ) / b) < expHi a b := by
  obtain ⟨h1, h2⟩ := le_expAbove a b expTerms hb
  have hb' : (0 : ℝ) < b := by exact_mod_cast hb
  have hx1 : (a : ℝ) / b ≤ 1 := by rw [div_le_one hb']; exact_mod_cast hab
  have hs := Real.exp_bound' (x := (a : ℝ) / b) (by positivity) hx1 expTerms_pos
  have hrest : ((a : ℝ) / b) ^ expTerms * (expTerms + 1) / (expTerms.factorial * expTerms)
      ≤ 2 * (((a : ℝ) / b) ^ expTerms / expTerms.factorial) := by
    have hn : (1 : ℝ) ≤ expTerms := by exact_mod_cast expTerms_pos
    rw [show ((a : ℝ) / b) ^ expTerms * (expTerms + 1) / (expTerms.factorial * expTerms)
      = ((expTerms : ℝ) + 1) / expTerms * (((a : ℝ) / b) ^ expTerms / expTerms.factorial) by
        have : (expTerms : ℝ) ≠ 0 := by linarith
        field_simp]
    gcongr
    rw [div_le_iff₀ (by linarith)]
    linarith
  have hp : (0 : ℝ) < 2 ^ encPlaces := by positivity
  have : 2 ^ encPlaces * Real.exp ((a : ℝ) / b)
      ≤ ((expAbove a b expTerms).2 : ℝ) + 2 * ((expAbove a b expTerms).1 : ℝ) := by
    calc 2 ^ encPlaces * Real.exp ((a : ℝ) / b)
        ≤ 2 ^ encPlaces * (∑ i ∈ Finset.range expTerms, ((a : ℝ) / b) ^ i / i.factorial
            + 2 * (((a : ℝ) / b) ^ expTerms / expTerms.factorial)) := by gcongr; linarith
      _ = 2 ^ encPlaces * (∑ i ∈ Finset.range expTerms, ((a : ℝ) / b) ^ i / i.factorial)
            + 2 * (2 ^ encPlaces * (((a : ℝ) / b) ^ expTerms / expTerms.factorial)) := by ring
      _ ≤ _ := by gcongr
  unfold expHi
  push_cast
  linarith

/-! The logarithm. -/

theorem logBelow_le (a b k : ℕ) :
    ((logBelow a b k).1 : ℝ) ≤ 2 ^ encPlaces * ((a : ℝ) / b) ^ (k + 1) ∧
    ((logBelow a b k).2 : ℝ) ≤ 2 ^ encPlaces * ∑ i ∈ Finset.range k, ((a : ℝ) / b) ^ (i + 1) / (i + 1) := by
  induction k with
  | zero =>
    refine ⟨?_, by simp [logBelow]⟩
    simp only [logBelow]
    refine (div_below _ _).trans (le_of_eq ?_)
    push_cast; ring
  | succ k ih =>
    simp only [logBelow]
    obtain ⟨h1, h2⟩ := ih
    constructor
    · refine (div_below _ _).trans ?_
      push_cast
      calc ((logBelow a b k).1 : ℝ) * a / b ≤ (2 ^ encPlaces * ((a : ℝ) / b) ^ (k + 1)) * a / b := by gcongr
        _ = _ := by ring
    · rw [Finset.sum_range_succ, mul_add]
      push_cast
      refine add_le_add h2 ((div_below _ _).trans ?_)
      push_cast
      calc _ ≤ (2 ^ encPlaces * ((a : ℝ) / b) ^ (k + 1)) / (k + 1) := by gcongr
        _ = _ := by ring

theorem le_logAbove (a b k : ℕ) (hb : 0 < b) :
    2 ^ encPlaces * ((a : ℝ) / b) ^ (k + 1) ≤ (logAbove a b k).1 ∧
    2 ^ encPlaces * ∑ i ∈ Finset.range k, ((a : ℝ) / b) ^ (i + 1) / (i + 1) ≤ ((logAbove a b k).2 : ℝ) := by
  induction k with
  | zero =>
    refine ⟨?_, by simp [logAbove]⟩
    simp only [logAbove]
    have := div_above (2 ^ encPlaces * a) hb
    push_cast at this ⊢
    calc _ = 2 ^ encPlaces * (a : ℝ) / b := by ring
      _ ≤ _ := this.le
  | succ k ih =>
    simp only [logAbove]
    obtain ⟨h1, h2⟩ := ih
    constructor
    · have := div_above ((logAbove a b k).1 * a) hb
      push_cast at this ⊢
      refine le_trans ?_ this.le
      calc _ = (2 ^ encPlaces * ((a : ℝ) / b) ^ (k + 1)) * a / b := by ring
        _ ≤ _ := by gcongr
    · rw [Finset.sum_range_succ, mul_add]
      have := div_above (logAbove a b k).1 (b := k + 1) (by positivity)
      push_cast at this ⊢
      rw [add_assoc]
      refine add_le_add h2 (le_trans ?_ this.le)
      calc _ = (2 ^ encPlaces * ((a : ℝ) / b) ^ (k + 1)) / (k + 1) := by ring
        _ ≤ _ := by gcongr

/-- The rest of the series is below a unit. -/
theorem log_rest (a b : ℕ) (hb : 0 < b) (hab : 2 * a ≤ b) :
    |2 ^ encPlaces * ∑ i ∈ Finset.range logTerms, ((a : ℝ) / b) ^ (i + 1) / (i + 1)
      + 2 ^ encPlaces * Real.log (1 - (a : ℝ) / b)| < 1 := by
  have hb' : (0 : ℝ) < b := by exact_mod_cast hb
  have hx0 : 0 ≤ (a : ℝ) / b := by positivity
  have hx : (a : ℝ) / b ≤ 1 / 2 := by
    rw [div_le_div_iff₀ hb' (by norm_num)]
    have : (2 : ℝ) * a ≤ b := by exact_mod_cast hab
    linarith
  have habs : |(a : ℝ) / b| = (a : ℝ) / b := abs_of_nonneg hx0
  have h := Real.abs_log_sub_add_sum_range_le (x := (a : ℝ) / b) (by rw [habs]; linarith) logTerms
  rw [habs] at h
  rw [← mul_add, abs_mul, abs_of_pos (by positivity : (0 : ℝ) < 2 ^ encPlaces)]
  have hle : ((a : ℝ) / b) ^ (logTerms + 1) / (1 - (a : ℝ) / b) ≤ (1 / 2) ^ (logTerms + 1) / (1 / 2) := by
    gcongr
    linarith
  calc _ ≤ 2 ^ encPlaces * ((1 / 2 : ℝ) ^ (logTerms + 1) / (1 / 2)) := by
        gcongr
        exact h.trans hle
    _ < 1 := by
        have : (2 : ℝ) ^ encPlaces * ((1 / 2 : ℝ) ^ (logTerms + 1) / (1 / 2)) = (1 / 2) ^ 20 := by
          rw [show logTerms + 1 = encPlaces + 21 by decide, pow_add, one_div, inv_pow, inv_pow]
          have : (2 : ℝ) ^ encPlaces ≠ 0 := by positivity
          field_simp
        rw [this]; norm_num

/-- The bounds hold -ln(1 - x) × 2^encPlaces. -/
theorem logLo_lt (a b : ℕ) (ha : 0 < a) (hb : 0 < b) (hab : 2 * a ≤ b) :
    (logLo a b : ℝ) < 2 ^ encPlaces * -Real.log (1 - (a : ℝ) / b) := by
  have h := (logBelow_le a b logTerms).2
  have hr := (abs_lt.1 (log_rest a b hb hab)).2
  have hb' : (0 : ℝ) < b := by exact_mod_cast hb
  have ha' : (0 : ℝ) < a := by exact_mod_cast ha
  have hlt : (a : ℝ) / b < 1 := by
    rw [div_lt_one hb']
    have : (2 : ℝ) * a ≤ b := by exact_mod_cast hab
    linarith
  have hneg : Real.log (1 - (a : ℝ) / b) < 0 := Real.log_neg (by linarith) (by have : 0 < (a : ℝ) / b := by positivity
                                                                               linarith)
  have hpos : 0 < 2 ^ encPlaces * -Real.log (1 - (a : ℝ) / b) := mul_pos (by positivity) (by linarith)
  unfold logLo
  rcases Nat.eq_zero_or_pos (logBelow a b logTerms).2 with h0 | h0
  · rw [h0]; simpa using hpos
  · rw [Nat.cast_sub h0]
    push_cast
    linarith

theorem lt_logHi (a b : ℕ) (hb : 0 < b) (hab : 2 * a ≤ b) :
    2 ^ encPlaces * -Real.log (1 - (a : ℝ) / b) < logHi a b := by
  have h := (le_logAbove a b logTerms hb).2
  have hr := (abs_lt.1 (log_rest a b hb hab)).1
  unfold logHi
  push_cast
  linarith

/-- Bounds of ln 2. -/
theorem ln2_bounds : (logLo 1 2 : ℝ) < 2 ^ encPlaces * Real.log 2 ∧ 2 ^ encPlaces * Real.log 2 < logHi 1 2 := by
  have e : -Real.log (1 - ((1 : ℕ) : ℝ) / ((2 : ℕ) : ℝ)) = Real.log 2 := by
    rw [← Real.log_inv]; norm_num
  have h1 := logLo_lt 1 2 (by decide) (by decide) (by decide)
  have h2 := lt_logHi 1 2 (by decide) (by decide)
  rw [e] at h1 h2
  exact ⟨h1, h2⟩

/-! The functions. -/

/-- A value is exactly a real number, as `round` takes it: its whole units and whether there is more. -/
def FVal.Holds (v : FVal) (r : ℝ) : Prop :=
  ∃ (neg : Bool) (x : ℝ) (e : ℤ), 0 ≤ x ∧ v = FVal.ofReal neg x e ∧ r = (if neg then -1 else 1) * (x * (2 : ℝ) ^ e)

theorem places_split : (2 : ℝ) ^ realPlaces * 2 ^ (encPlaces - realPlaces) = 2 ^ encPlaces := by
  rw [← pow_add]; rfl

theorem logHi_two_le : logHi 1 2 ≤ 2 ^ encPlaces := by decide +kernel

theorem logLo_two_pos : 0 < logLo 1 2 := by decide +kernel

/-- The fraction of a power of two lies between its bounds. -/
theorem exp2_bounds (f s : ℕ) (hf : f ≤ 2 ^ s) :
    (expLo (f * logLo 1 2) (2 ^ (s + encPlaces)) : ℝ) < 2 ^ encPlaces * (2 : ℝ) ^ ((f : ℝ) / 2 ^ s) ∧
    2 ^ encPlaces * (2 : ℝ) ^ ((f : ℝ) / 2 ^ s) < expHi (f * logHi 1 2) (2 ^ (s + encPlaces)) := by
  obtain ⟨h1, h2⟩ := ln2_bounds
  rw [Real.rpow_def_of_pos (by norm_num)]
  have hs : (0 : ℝ) < 2 ^ s := by positivity
  have hq : (0 : ℝ) < 2 ^ encPlaces := by positivity
  constructor
  · refine (expLo_lt _ _).trans_le ?_
    gcongr
    push_cast
    rw [pow_add, div_le_iff₀ (by positivity)]
    calc (f : ℝ) * logLo 1 2 ≤ f * (2 ^ encPlaces * Real.log 2) := by gcongr
      _ = _ := by field_simp
  · refine lt_of_le_of_lt ?_ (lt_expHi _ _ (by positivity) ?_)
    · gcongr
      push_cast
      rw [pow_add, le_div_iff₀ (by positivity)]
      calc Real.log 2 * (f / 2 ^ s) * (2 ^ s * 2 ^ encPlaces) = f * (2 ^ encPlaces * Real.log 2) := by field_simp
        _ ≤ _ := by gcongr
    · rw [pow_add]
      exact Nat.mul_le_mul hf logHi_two_le

/-- A whole number and a fraction over 2^s, of a negative or a positive number. -/
theorem split_fraction (neg : Bool) (m s : ℕ) :
    ((((if neg then -((m / 2 ^ s : ℕ) : ℤ) - 1 else ((m / 2 ^ s : ℕ) : ℤ)) : ℤ) : ℝ)
      + ((if neg then 2 ^ s - m % 2 ^ s else m % 2 ^ s : ℕ) : ℝ) / 2 ^ s)
      = (if neg then -1 else 1) * (m * (2 : ℝ) ^ (-(s : ℤ))) := by
  have hs : (2 : ℝ) ^ s ≠ 0 := by positivity
  have hm : (m : ℝ) = 2 ^ s * ((m / 2 ^ s : ℕ) : ℝ) + ((m % 2 ^ s : ℕ) : ℝ) := by
    exact_mod_cast (Nat.div_add_mod m (2 ^ s)).symm
  have hlt := Nat.mod_lt m (show 2 ^ s > 0 by positivity)
  rw [zpow_neg, zpow_natCast, ← div_eq_mul_inv, hm]
  generalize m / 2 ^ s = q
  generalize m % 2 ^ s = r at hlt
  cases neg
  · simp only [Bool.false_eq_true, if_false]
    push_cast
    field_simp
  · simp only [if_true]
    rw [Nat.cast_sub hlt.le]
    push_cast
    field_simp
    ring

/-- VEXP2 rounds the exact value of 2^a wherever it is no power of two (03 R128). -/
theorem FVal.exp2_exact (neg : Bool) (m : ℕ) (e : ℤ) (st : Bool) (hm : m ≠ 0) (he : e < 0)
    (hf : m % 2 ^ (-e).toNat ≠ 0) :
    (FVal.exp2 (.fin neg m e st)).Holds ((2 : ℝ) ^ ((if neg then -1 else 1) * (m * (2 : ℝ) ^ e))) := by
  have hs : e = -(((-e).toNat : ℕ) : ℤ) := by omega
  have hsplit := split_fraction neg m (-e).toNat
  rw [← hs] at hsplit
  simp only [FVal.exp2, if_neg hm, if_neg (not_le.2 he), if_neg hf]
  generalize (-e).toNat = s at hf hsplit ⊢
  generalize hfd : (if neg then 2 ^ s - m % 2 ^ s else m % 2 ^ s : ℕ) = f at hsplit ⊢
  have hfs : f ≤ 2 ^ s := by
    subst hfd
    have := Nat.mod_lt m (show 2 ^ s > 0 by positivity)
    split <;> omega
  obtain ⟨h1, h2⟩ := exp2_bounds f s hfs
  rw [FVal.enclosed_eq]
  rotate_left
  · rw [mul_right_comm, places_split]; exact h1
  · rw [mul_right_comm, places_split]; exact h2
  refine ⟨false, _, _, by positivity, rfl, ?_⟩
  rw [← hsplit, Real.rpow_add (by norm_num), Real.rpow_intCast]
  simp only [Bool.false_eq_true, if_false, one_mul]
  rw [zpow_sub₀ (by norm_num), zpow_natCast]
  have : (2 : ℝ) ^ realPlaces ≠ 0 := by positivity
  field_simp

/-- Truncated subtraction is not below subtraction. -/
theorem le_cast_sub (a b : ℕ) : (a : ℝ) - b ≤ ((a - b : ℕ) : ℝ) := by
  have h : a ≤ (a - b) + b := by omega
  have : (a : ℝ) ≤ ((a - b : ℕ) : ℝ) + b := by exact_mod_cast h
  linarith

/-- The logarithm of a number in (1, 2) lies between its bounds. -/
theorem log2_bounds (m l : ℕ) (h1 : 2 ^ l < m) (h2 : m < 2 ^ (l + 1)) :
    ((logLo (m - 2 ^ l) m * 2 ^ encPlaces / logHi 1 2 : ℕ) : ℝ) < 2 ^ encPlaces * Real.logb 2 ((m : ℝ) / 2 ^ l) ∧
    2 ^ encPlaces * Real.logb 2 ((m : ℝ) / 2 ^ l) < ((logHi (m - 2 ^ l) m * 2 ^ encPlaces / logLo 1 2 + 1 : ℕ) : ℝ) := by
  obtain ⟨k1, k2⟩ := ln2_bounds
  have hm : 0 < m := by omega
  have hm' : (0 : ℝ) < m := by exact_mod_cast hm
  have hab : 2 * (m - 2 ^ l) ≤ m := by
    have : 2 ^ (l + 1) = 2 * 2 ^ l := by ring
    omega
  have e : -Real.log (1 - ((m - 2 ^ l : ℕ) : ℝ) / m) = Real.log ((m : ℝ) / 2 ^ l) := by
    rw [← Real.log_inv, Nat.cast_sub h1.le]
    congr 1
    push_cast
    rw [← inv_div]
    field_simp
    ring
  have b1 := logLo_lt (m - 2 ^ l) m (by omega) hm hab
  have b2 := lt_logHi (m - 2 ^ l) m hm hab
  rw [e] at b1 b2
  have hl2 : 0 < Real.log 2 := Real.log_pos (by norm_num)
  have hq : (0 : ℝ) < 2 ^ encPlaces := by positivity
  have hlo : (0 : ℝ) < logLo 1 2 := by exact_mod_cast logLo_two_pos
  have hhi : (0 : ℝ) < logHi 1 2 := lt_trans (by positivity) k2
  have hy : 0 < Real.log ((m : ℝ) / 2 ^ l) := by
    refine Real.log_pos ?_
    rw [one_lt_div (by positivity)]
    exact_mod_cast h1
  rw [Real.logb]
  constructor
  · refine (div_below _ _).trans_lt ?_
    push_cast
    rw [div_lt_iff₀ hhi]
    calc (logLo (m - 2 ^ l) m : ℝ) * 2 ^ encPlaces
        < (2 ^ encPlaces * Real.log ((m : ℝ) / 2 ^ l)) * 2 ^ encPlaces := by gcongr
      _ = 2 ^ encPlaces * (Real.log ((m : ℝ) / 2 ^ l) / Real.log 2) * (2 ^ encPlaces * Real.log 2) := by field_simp
      _ ≤ _ := by gcongr
  · rw [Nat.cast_add, Nat.cast_one]
    refine lt_trans ?_ (div_above _ logLo_two_pos)
    push_cast
    rw [lt_div_iff₀ hlo]
    calc 2 ^ encPlaces * (Real.log ((m : ℝ) / 2 ^ l) / Real.log 2) * (logLo 1 2 : ℝ)
        ≤ 2 ^ encPlaces * (Real.log ((m : ℝ) / 2 ^ l) / Real.log 2) * (2 ^ encPlaces * Real.log 2) := by gcongr
      _ = (2 ^ encPlaces * Real.log ((m : ℝ) / 2 ^ l)) * 2 ^ encPlaces := by field_simp
      _ < _ := by gcongr

/-- VLOG2 rounds the exact value of log2 a wherever a is positive and no power of two (03 R128). -/
theorem FVal.log2_exact (m : ℕ) (e : ℤ) (st : Bool) (hm : m ≠ 0) (hp : m ≠ 2 ^ (bitLen m - 1)) :
    (FVal.log2 (.fin false m e st)).Holds (Real.logb 2 (m * (2 : ℝ) ^ e)) := by
  simp only [FVal.log2, if_neg hm, if_neg hp, Bool.false_eq_true, if_false]
  have hl : bitLen m - 1 = Nat.log2 m := by simp [bitLen, hm]
  rw [hl] at hp ⊢
  have h1 : 2 ^ Nat.log2 m < m := lt_of_le_of_ne (Nat.log2_self_le hm) (Ne.symm hp)
  have h2 : m < 2 ^ (Nat.log2 m + 1) := Nat.lt_log2_self
  generalize Nat.log2 m = l at h1 h2 ⊢
  obtain ⟨b1, b2⟩ := log2_bounds m l h1 h2
  have hm' : (0 : ℝ) < m := by exact_mod_cast Nat.pos_of_ne_zero hm
  have hy1 : 1 < (m : ℝ) / 2 ^ l := by
    rw [one_lt_div (by positivity)]
    exact_mod_cast h1
  have hy2 : (m : ℝ) / 2 ^ l < 2 := by
    rw [div_lt_iff₀ (by positivity)]
    have : (m : ℝ) < 2 ^ (l + 1) := by exact_mod_cast h2
    rw [pow_succ] at this
    linarith
  have hval : Real.logb 2 (m * (2 : ℝ) ^ e) = ((e + (l : ℤ) : ℤ) : ℝ) + Real.logb 2 ((m : ℝ) / 2 ^ l) := by
    have : (m : ℝ) * (2 : ℝ) ^ e = (2 : ℝ) ^ (e + (l : ℤ)) * ((m : ℝ) / 2 ^ l) := by
      rw [zpow_add₀ (by norm_num), zpow_natCast]
      field_simp
    rw [this, Real.logb_mul (by positivity) (by positivity), ← Real.rpow_intCast,
      Real.logb_rpow (by norm_num) (by norm_num)]
  have hf0 : 0 < Real.logb 2 ((m : ℝ) / 2 ^ l) := Real.logb_pos (by norm_num) hy1
  have hf1 : Real.logb 2 ((m : ℝ) / 2 ^ l) < 1 := by
    rw [Real.logb_lt_iff_lt_rpow (by norm_num) (by linarith)]
    simpa using hy2
  rw [hval]
  generalize Real.logb 2 ((m : ℝ) / 2 ^ l) = v at b1 b2 hf0 hf1 ⊢
  generalize logLo (m - 2 ^ l) m * 2 ^ encPlaces / logHi 1 2 = lo at b1 ⊢
  generalize logHi (m - 2 ^ l) m * 2 ^ encPlaces / logLo 1 2 + 1 = hi at b2 ⊢
  generalize e + (l : ℤ) = n
  have hz : (2 : ℝ) ^ realPlaces ≠ 0 := by positivity
  split
  next hn =>
    have hc : ((n.toNat : ℕ) : ℝ) = (n : ℝ) := by exact_mod_cast Int.toNat_of_nonneg hn
    have hn' : (0 : ℝ) ≤ n := by exact_mod_cast hn
    rw [abs_of_pos (by linarith), FVal.enclosed_eq]
    rotate_left
    · rw [mul_right_comm, places_split]; push_cast; rw [hc]; linarith
    · rw [mul_right_comm, places_split]; push_cast; rw [hc]; linarith
    refine ⟨false, _, _, by positivity, rfl, ?_⟩
    rw [zpow_neg, zpow_natCast]
    simp only [Bool.false_eq_true, if_false, one_mul]
    field_simp
  next hn =>
    have hn' : (n : ℝ) ≤ -1 := by exact_mod_cast (by omega : n ≤ -1)
    have hc : ((n.natAbs : ℕ) : ℝ) = -(n : ℝ) := by
      rw [← Int.cast_natCast, Int.natCast_natAbs, abs_of_neg (by omega)]
      push_cast
      ring
    have hq : (0 : ℝ) < 2 ^ encPlaces := by positivity
    have hneg : (n : ℝ) + v < 0 := by linarith
    have hx : 0 < 2 ^ encPlaces * -((n : ℝ) + v) := mul_pos hq (by linarith)
    rw [abs_of_neg hneg, FVal.enclosed_eq]
    rotate_left
    · rw [mul_right_comm, places_split]
      rcases Nat.le_total hi (n.natAbs * 2 ^ encPlaces) with h | h
      · rw [Nat.cast_sub h]; push_cast; rw [hc]; linarith
      · rw [Nat.sub_eq_zero_of_le h]; push_cast; linarith
    · rw [mul_right_comm, places_split]
      refine lt_of_lt_of_le ?_ (le_cast_sub _ _)
      push_cast; rw [hc]; linarith
    refine ⟨true, _, _, mul_nonneg (by positivity) (by linarith), rfl, ?_⟩
    rw [zpow_neg, zpow_natCast]
    simp only [if_true]
    field_simp
    try ring

/-! The hyperbolic tangent. -/

theorem tanh_of_exp (x : ℝ) : Real.tanh x = (Real.exp (2 * x) - 1) / (Real.exp (2 * x) + 1) := by
  have h : Real.exp (2 * x) = Real.exp x * Real.exp x := by rw [← Real.exp_add]; ring_nf
  have h1 : Real.exp x * Real.exp (-x) = 1 := by rw [← Real.exp_add]; simp
  have hp := Real.exp_pos x
  have hn := Real.exp_pos (-x)
  rw [Real.tanh_eq_sinh_div_cosh, Real.sinh_eq, Real.cosh_eq, h, div_div_div_cancel_right₀ (by norm_num),
    div_eq_div_iff (by positivity) (by positivity)]
  linear_combination (-2 : ℝ) * Real.exp x * h1

/-- Squaring keeps the bounds. -/
theorem squares_bounds (n : ℕ) : ∀ (l h : ℕ) (y : ℝ), 0 < y → (l : ℝ) < 2 ^ encPlaces * y → 2 ^ encPlaces * y < h →
    ((squares n (l, h)).1 : ℝ) < 2 ^ encPlaces * y ^ 2 ^ n ∧ 2 ^ encPlaces * y ^ 2 ^ n < ((squares n (l, h)).2 : ℝ) := by
  induction n with
  | zero => intro l h y _ h1 h2; simpa [squares] using ⟨h1, h2⟩
  | succ n ih =>
    intro l h y hy h1 h2
    have hq : (0 : ℝ) < 2 ^ encPlaces := by positivity
    have hl : (0 : ℝ) ≤ l := Nat.cast_nonneg _
    simp only [squares]
    have := ih (l * l / 2 ^ encPlaces) (h * h / 2 ^ encPlaces + 1) (y * y) (by positivity) ?_ ?_
    · rw [show y ^ 2 ^ (n + 1) = (y * y) ^ 2 ^ n by rw [← sq, ← pow_mul, pow_succ, mul_comm]]
      exact this
    · refine (div_below _ _).trans_lt ?_
      push_cast
      rw [div_lt_iff₀ hq]
      calc (l : ℝ) * l < (2 ^ encPlaces * y) * (2 ^ encPlaces * y) := by gcongr
        _ = _ := by ring
    · rw [Nat.cast_add, Nat.cast_one]
      refine lt_trans ?_ (div_above _ (by positivity))
      push_cast
      rw [lt_div_iff₀ hq]
      calc _ = (2 ^ encPlaces * y) * (2 ^ encPlaces * y) := by ring
        _ < _ := by gcongr

/-- The quotient (E - 1) / (E + 1) keeps the bounds of E > 1. -/
theorem quotient_bounds (l h : ℕ) (y : ℝ) (hy : 1 < y) (h1 : (l : ℝ) < 2 ^ encPlaces * y) (h2 : 2 ^ encPlaces * y < h) :
    (((l - 2 ^ encPlaces) * 2 ^ encPlaces / (l + 2 ^ encPlaces) : ℕ) : ℝ) < 2 ^ encPlaces * ((y - 1) / (y + 1)) ∧
    2 ^ encPlaces * ((y - 1) / (y + 1)) < (((h - 2 ^ encPlaces) * 2 ^ encPlaces / (h + 2 ^ encPlaces) + 1 : ℕ) : ℝ) := by
  have hq : (0 : ℝ) < 2 ^ encPlaces := by positivity
  have hqn : (0 : ℕ) < 2 ^ encPlaces := by positivity
  constructor
  · refine (div_below _ _).trans_lt ?_
    rcases Nat.le_total l (2 ^ encPlaces) with hl | hl
    · rw [Nat.sub_eq_zero_of_le hl]
      have : 0 < (y - 1) / (y + 1) := div_pos (by linarith) (by linarith)
      simpa using mul_pos hq this
    · push_cast [Nat.cast_sub hl]
      generalize (2 : ℝ) ^ encPlaces = q at *
      rw [← mul_div_assoc, div_lt_div_iff₀ (by positivity) (by linarith)]
      nlinarith
  · rw [Nat.cast_add, Nat.cast_one]
    refine lt_trans ?_ (div_above _ (by positivity))
    have hh : 2 ^ encPlaces ≤ h := by
      have : ((2 ^ encPlaces : ℕ) : ℝ) < h := by
        push_cast
        refine lt_trans ?_ h2
        nlinarith
      exact_mod_cast this.le
    push_cast [Nat.cast_sub hh]
    generalize (2 : ℝ) ^ encPlaces = q at *
    rw [← mul_div_assoc, div_lt_div_iff₀ (by linarith) (by positivity)]
    nlinarith

theorem tanh_lt_self {x : ℝ} (hx : 0 < x) : Real.tanh x < x := by
  obtain ⟨c, hc, h⟩ := exists_deriv_eq_slope Real.sinh hx Real.continuous_sinh.continuousOn
    Real.differentiable_sinh.differentiableOn
  rw [Real.deriv_sinh, Real.sinh_zero, sub_zero, sub_zero] at h
  have hlt : Real.cosh c < Real.cosh x := Real.cosh_lt_cosh.2 (by rw [abs_of_pos hc.1, abs_of_pos hx]; exact hc.2)
  rw [h] at hlt
  rw [Real.tanh_eq_sinh_div_cosh, div_lt_iff₀ (Real.cosh_pos x)]
  rw [div_lt_iff₀ hx] at hlt
  linarith

theorem lt_tanh {x : ℝ} (hx : 0 < x) : x - x ^ 3 < Real.tanh x := by
  have h1 : x < Real.sinh x := Real.self_lt_sinh_iff.2 hx
  have hc : Real.cosh x ≤ Real.exp (x ^ 2 / 2) := Real.cosh_le_exp_half_sq x
  have hcp := Real.cosh_pos x
  rw [Real.tanh_eq_sinh_div_cosh, lt_div_iff₀ hcp]
  refine lt_of_le_of_lt ?_ h1
  rcases le_or_gt (1 - x ^ 2) 0 with h | h
  · have : (x - x ^ 3) * Real.cosh x ≤ 0 := by
      rw [show x - x ^ 3 = x * (1 - x ^ 2) by ring]
      exact mul_nonpos_of_nonpos_of_nonneg (mul_nonpos_of_nonneg_of_nonpos hx.le h) hcp.le
    linarith
  · have he : (1 - x ^ 2) * Real.exp (x ^ 2 / 2) ≤ 1 := by
      have h2 : 1 - x ^ 2 ≤ Real.exp (-(x ^ 2)) := by have := Real.add_one_le_exp (-(x ^ 2)); linarith
      calc (1 - x ^ 2) * Real.exp (x ^ 2 / 2) ≤ Real.exp (-(x ^ 2)) * Real.exp (x ^ 2 / 2) := by gcongr
        _ = Real.exp (-(x ^ 2 / 2)) := by rw [← Real.exp_add]; ring_nf
        _ ≤ 1 := by rw [Real.exp_le_one_iff]; nlinarith [sq_nonneg x]
    calc (x - x ^ 3) * Real.cosh x = x * ((1 - x ^ 2) * Real.cosh x) := by ring
      _ ≤ x * ((1 - x ^ 2) * Real.exp (x ^ 2 / 2)) := by gcongr
      _ ≤ x * 1 := by gcongr
      _ = x := mul_one x

/-- The magnitude of a number whose bits lie below a place. -/
theorem lt_two_zpow (m : ℕ) (e : ℤ) (hm : m ≠ 0) : (m : ℝ) * (2 : ℝ) ^ e < (2 : ℝ) ^ (e + (bitLen m : ℤ)) := by
  have h : m < 2 ^ bitLen m := by simp only [bitLen, if_neg hm]; exact Nat.lt_log2_self
  have h' : (m : ℝ) < 2 ^ bitLen m := by exact_mod_cast h
  rw [zpow_add₀ (by norm_num), zpow_natCast, mul_comm]
  gcongr

theorem two_zpow_le (m : ℕ) (e : ℤ) (hm : m ≠ 0) : (2 : ℝ) ^ (e + (bitLen m : ℤ) - 1) ≤ (m : ℝ) * (2 : ℝ) ^ e := by
  have h : 2 ^ (bitLen m - 1) ≤ m := by simp only [bitLen, if_neg hm]; exact Nat.log2_self_le hm
  have h' : (2 : ℝ) ^ (bitLen m - 1) ≤ m := by exact_mod_cast h
  have hb : 1 ≤ bitLen m := by simp [bitLen, hm]
  rw [show e + (bitLen m : ℤ) - 1 = e + ((bitLen m - 1 : ℕ) : ℤ) by omega, zpow_add₀ (by norm_num), zpow_natCast, mul_comm]
  gcongr

/-- A magnitude is held by its whole units where it lies strictly between two of them. -/
theorem FVal.ofReal_between (neg : Bool) (l : ℕ) (x : ℝ) (e : ℤ) (h1 : (l : ℝ) < x) (h2 : x < l + 1) :
    FVal.fin neg l e true = FVal.ofReal neg x e := by
  have hf : ⌊x⌋₊ = l := (Nat.floor_eq_iff (le_trans (Nat.cast_nonneg _) h1.le)).2 ⟨h1.le, h2⟩
  unfold FVal.ofReal
  rw [hf]
  congr 1
  exact (@decide_eq_true _ (Classical.propDecidable _) (ne_of_lt h1)).symm

/-- VTANH rounds the exact value of tanh a for every finite a but a zero (03 R128). -/
theorem FVal.tanh_exact (neg : Bool) (m : ℕ) (e : ℤ) (st : Bool) (hm : m ≠ 0) :
    (FVal.tanh (.fin neg m e st)).Holds ((if neg then -1 else 1) * Real.tanh ((m : ℝ) * (2 : ℝ) ^ e)) := by
  have hm' : (0 : ℝ) < m := by exact_mod_cast Nat.pos_of_ne_zero hm
  have hx : 0 < (m : ℝ) * (2 : ℝ) ^ e := by positivity
  have htop := lt_two_zpow m e hm
  simp only [FVal.tanh, if_neg hm]
  split
  next h =>
    obtain ⟨ht, hb⟩ := h
    have hbig : (m : ℝ) < 2 ^ 24 := by exact_mod_cast hb
    have hsmall : (m : ℝ) * (2 : ℝ) ^ e < (2 : ℝ) ^ (-48 : ℤ) :=
      htop.trans_le (zpow_le_zpow_right₀ (by norm_num) (by omega))
    have h1 := tanh_lt_self hx
    have h2 := lt_tanh hx
    have he : (0 : ℝ) < (2 : ℝ) ^ e := by positivity
    generalize hX : Real.tanh ((m : ℝ) * (2 : ℝ) ^ e) = t at h1 h2 ⊢
    have hunit : (2 : ℝ) ^ (64 - e) = 2 ^ 64 / (2 : ℝ) ^ e := by
      rw [zpow_sub₀ (by norm_num)]; norm_num
    have hpos : 1 ≤ m * 2 ^ 64 := by
      have := Nat.pos_of_ne_zero hm
      omega
    have hlow : ((m * 2 ^ 64 - 1 : ℕ) : ℝ) < t * (2 : ℝ) ^ (64 - e) := by
      rw [Nat.cast_sub hpos, hunit]
      push_cast
      rw [← mul_div_assoc, lt_div_iff₀ he]
      have hsq : ((m : ℝ) * (2 : ℝ) ^ e) ^ 2 < ((2 : ℝ) ^ (-48 : ℤ)) ^ 2 := by gcongr
      have hsq' : ((m : ℝ) * (2 : ℝ) ^ e) ^ 2 * m * 2 ^ 64 < 1 := by
        calc ((m : ℝ) * (2 : ℝ) ^ e) ^ 2 * m * 2 ^ 64 < ((2 : ℝ) ^ (-48 : ℤ)) ^ 2 * 2 ^ 24 * 2 ^ 64 := by gcongr
          _ ≤ 1 := by norm_num
      have : ((m : ℝ) * (2 : ℝ) ^ e) ^ 3 * 2 ^ 64 < (2 : ℝ) ^ e := by
        calc ((m : ℝ) * (2 : ℝ) ^ e) ^ 3 * 2 ^ 64 = (((m : ℝ) * (2 : ℝ) ^ e) ^ 2 * m * 2 ^ 64) * (2 : ℝ) ^ e := by ring
          _ < 1 * (2 : ℝ) ^ e := by gcongr
          _ = _ := one_mul _
      nlinarith
    have hupp : t * (2 : ℝ) ^ (64 - e) < ((m * 2 ^ 64 - 1 : ℕ) : ℝ) + 1 := by
      rw [Nat.cast_sub hpos, hunit]
      push_cast
      rw [← mul_div_assoc, div_lt_iff₀ he]
      nlinarith
    refine ⟨neg, t * (2 : ℝ) ^ (64 - e), e - 64, le_trans (Nat.cast_nonneg _) hlow.le,
      FVal.ofReal_between _ _ _ _ hlow hupp, ?_⟩
    rw [mul_assoc t, ← zpow_add₀ (by norm_num)]
    simp
  next =>
    split
    next h =>
      have hxl : (64 : ℝ) ≤ (m : ℝ) * (2 : ℝ) ^ e := by
        refine le_trans ?_ (two_zpow_le m e hm)
        calc (64 : ℝ) = (2 : ℝ) ^ (6 : ℤ) := by norm_num
          _ ≤ _ := zpow_le_zpow_right₀ (by norm_num) (by omega)
      rw [tanh_of_exp]
      generalize (m : ℝ) * (2 : ℝ) ^ e = x at hxl
      have hE : (2 : ℝ) ^ 128 < Real.exp (2 * x) := by
        have h1 : Real.exp 1 ^ 128 ≤ Real.exp (2 * x) := by
          rw [← Real.exp_nat_mul]
          apply Real.exp_le_exp.2
          push_cast
          linarith
        have h2 : (2 : ℝ) < Real.exp 1 := by have := Real.exp_one_gt_d9; linarith
        calc (2 : ℝ) ^ 128 < Real.exp 1 ^ 128 := by gcongr
          _ ≤ _ := h1
      generalize Real.exp (2 * x) = E at hE ⊢
      have hE0 : (0 : ℝ) < E := lt_trans (by norm_num) hE
      have hl : ((2 ^ 100 - 1 : ℕ) : ℝ) < (E - 1) / (E + 1) * 2 ^ 100 := by
        rw [div_mul_eq_mul_div, lt_div_iff₀ (by linarith)]
        push_cast
        norm_num at hE ⊢
        linarith
      have hu : (E - 1) / (E + 1) * 2 ^ 100 < ((2 ^ 100 - 1 : ℕ) : ℝ) + 1 := by
        rw [div_mul_eq_mul_div, div_lt_iff₀ (by linarith)]
        push_cast
        norm_num
        linarith
      refine ⟨neg, (E - 1) / (E + 1) * 2 ^ 100, -100, le_trans (Nat.cast_nonneg _) hl.le,
        FVal.ofReal_between _ _ _ _ hl hu, ?_⟩
      rw [mul_assoc ((E - 1) / (E + 1)), show (2 : ℝ) ^ 100 * (2 : ℝ) ^ (-100 : ℤ) = 1 by norm_num, mul_one]
    next h =>
      have hx64 : (m : ℝ) * (2 : ℝ) ^ e ≤ 64 := by
        refine htop.le.trans ?_
        calc _ ≤ (2 : ℝ) ^ (6 : ℤ) := zpow_le_zpow_right₀ (by norm_num) (by omega)
          _ = 64 := by norm_num
      generalize ha : (if 0 ≤ e then m * 2 ^ e.toNat else m : ℕ) = a
      generalize hb : (if 0 ≤ e then 64 else 64 * 2 ^ (-e).toNat : ℕ) = b
      have hb0 : 0 < b := by subst hb; split <;> positivity
      have hb' : (0 : ℝ) < b := by exact_mod_cast hb0
      have hab : (a : ℝ) / b = (m : ℝ) * (2 : ℝ) ^ e / 64 := by
        subst ha hb
        split
        next he =>
          push_cast
          rw [← zpow_natCast, Int.toNat_of_nonneg he]
        next he =>
          push_cast
          rw [← zpow_natCast, Int.toNat_of_nonneg (by omega), zpow_neg]
          field_simp
      have hle : a ≤ b := by
        have : (a : ℝ) / b ≤ 1 := by rw [hab]; linarith
        rw [div_le_one hb'] at this
        exact_mod_cast this
      have e1 := expLo_lt a b
      have e2 := lt_expHi a b hb0 hle
      obtain ⟨s1, s2⟩ := squares_bounds 7 _ _ _ (Real.exp_pos _) e1 e2
      have hpow : Real.exp ((a : ℝ) / b) ^ 2 ^ 7 = Real.exp (2 * ((m : ℝ) * (2 : ℝ) ^ e)) := by
        rw [← Real.exp_nat_mul, hab]
        push_cast
        ring_nf
      rw [hpow] at s1 s2
      obtain ⟨q1, q2⟩ := quotient_bounds _ _ _ (Real.one_lt_exp_iff.2 (by linarith)) s1 s2
      rw [← tanh_of_exp] at q1 q2
      have ht : 0 ≤ Real.tanh ((m : ℝ) * (2 : ℝ) ^ e) := by
        have := (Nat.cast_nonneg (α := ℝ) _).trans q1.le
        exact nonneg_of_mul_nonneg_right this (by positivity)
      rw [FVal.enclosed_eq]
      rotate_left
      · rw [mul_right_comm, places_split]; exact q1
      · rw [mul_right_comm, places_split]; exact q2
      refine ⟨neg, _, _, mul_nonneg (by positivity) ht, rfl, ?_⟩
      rw [zpow_neg, zpow_natCast]
      have : (2 : ℝ) ^ realPlaces ≠ 0 := by positivity
      field_simp

end Sys2Proof.Machine
end

