-- ==== Sys2Proof/Tests/Slice0.lean ====
section
/-! SUPPORT. Tests: words written out from the spec's encodings, ill-formed terms, single steps with results worked out from
the spec's rules, and for each statement a state and operands that meet its hypotheses. -/

namespace Sys2Proof.Tests

set_option maxRecDepth 100000
set_option Elab.async false

open Sys2Proof Sys2Proof.Machine

/-- The words of majors 0x01 (05 R205, R206). -/
theorem test_decode_control :
    decode 0x01004080C280000000918005 = some (.br { gp := 1, y := true } .ltu (.x 3) (.x 5) 0x123) ∧
    decode 0x010440800300000000000000 = some (.jmp { gp := 1, y := true } (.x 6)) ∧
    decode 0x010840814000000000918000 = some (.call { gp := 1, y := true } (.x 5) 0x123) ∧
    decode 0x010C40818400000000000000 = some (.callr { gp := 1, y := true } (.x 6) (.x 8)) ∧
    decode 0x011040800480000000000000 = some (.ret { gp := 1, y := true } (.x 9)) ∧
    decode 0x011440800280000000000001 = some (.pushb { gp := 1, y := true } true 5) ∧
    decode 0x011840800000000000918001 = some (.brq { gp := 1, y := true } true 0x123) ∧
    decode 0x011C40800000000000918137 = some (.loop { gp := 1, y := true } true (.imm 77) 0x123) ∧
    decode 0x012040800000000000000001 = some (.lexit { gp := 1, y := true } true) ∧
    decode 0x012440800000000000000000 = some (.nop { gp := 1, y := true }) := by
  with_unfolding_all exact
    ⟨rfl, rfl, rfl, rfl, rfl, rfl, rfl, rfl, rfl, rfl⟩

/-- The words of majors 0x02 (05 R234). -/
theorem test_decode_trap :
    decode 0x02004080000000005A5A5A5A = some (.trap { gp := 1, y := true } 0x5A5A5A5A) ∧
    decode 0x020440800000000000000000 = some (.eret { gp := 1, y := true }) ∧
    decode 0x02084083C000100800000000 = some (.srr { gp := 1, y := true } (.x 15) 0x201) ∧
    decode 0x020C40800900100800000000 = some (.srw { gp := 1, y := true } 0x201 (.x 18)) ∧
    decode 0x02104080098000005A5A5A5A = some (.wait { gp := 1, y := true } (.x 19) 0x5A5A5A5A) ∧
    decode 0x021440800000000000000000 = some (.yield { gp := 1, y := true }) ∧
    decode 0x021840800000000000000000 = some (.halt { gp := 1, y := true }) ∧
    decode 0x021C40800000000000000000 = some (.fencei { gp := 1, y := true }) := by
  with_unfolding_all exact
    ⟨rfl, rfl, rfl, rfl, rfl, rfl, rfl, rfl⟩

/-- The words of majors 0x10 (05 R213). -/
theorem test_decode_scalar :
    decode 0x100040854B98000000000001 = some (.add { gp := 1, y := true } true (.x 21) (.x 23) (.x 24)) ∧
    decode 0x100440858C19000000000001 = some (.sub { gp := 1, y := true } true (.x 22) (.x 24) (.x 25)) ∧
    decode 0x10084085CC9A000000000001 = some (.mul { gp := 1, y := true } true (.x 23) (.x 25) (.x 26)) ∧
    decode 0x100C40860D1B000000000001 = some (.mulh { gp := 1, y := true } true (.x 24) (.x 26) (.x 27)) ∧
    decode 0x101040864D9C000000000001 = some (.mulhu { gp := 1, y := true } true (.x 25) (.x 27) (.x 28)) ∧
    decode 0x101440868E1D000000000001 = some (.div { gp := 1, y := true } true (.x 26) (.x 28) (.x 29)) ∧
    decode 0x10184086CE9E000000000001 = some (.divu { gp := 1, y := true } true (.x 27) (.x 29) (.x 30)) ∧
    decode 0x101C40870F1F000000000001 = some (.rem { gp := 1, y := true } true (.x 28) (.x 30) (.x 31)) ∧
    decode 0x102040874FA0000000000001 = some (.remu { gp := 1, y := true } true (.x 29) (.x 31) (.x 32)) ∧
    decode 0x102440879021000000000001 = some (.and { gp := 1, y := true } true (.x 30) (.x 32) (.x 33)) ∧
    decode 0x10284087D0A2000000000001 = some (.or { gp := 1, y := true } true (.x 31) (.x 33) (.x 34)) ∧
    decode 0x102C40881123000000000001 = some (.xor { gp := 1, y := true } true (.x 32) (.x 34) (.x 35)) ∧
    decode 0x1030408851A4000000000001 = some (.andn { gp := 1, y := true } true (.x 33) (.x 35) (.x 36)) ∧
    decode 0x103440889225000000000001 = some (.shl { gp := 1, y := true } true (.x 34) (.x 36) (.x 37)) ∧
    decode 0x10384088D2A6000000000001 = some (.shr { gp := 1, y := true } true (.x 35) (.x 37) (.x 38)) ∧
    decode 0x103C40891327000000000001 = some (.sra { gp := 1, y := true } true (.x 36) (.x 38) (.x 39)) ∧
    decode 0x1040408953A8000000000001 = some (.ror { gp := 1, y := true } true (.x 37) (.x 39) (.x 40)) ∧
    decode 0x104440899429000000000001 = some (.min { gp := 1, y := true } true (.x 38) (.x 40) (.x 41)) ∧
    decode 0x10484089D4AA000000000001 = some (.max { gp := 1, y := true } true (.x 39) (.x 41) (.x 42)) ∧
    decode 0x104C408A152B000000000001 = some (.minu { gp := 1, y := true } true (.x 40) (.x 42) (.x 43)) ∧
    decode 0x1050408A55AC000000000001 = some (.maxu { gp := 1, y := true } true (.x 41) (.x 43) (.x 44)) ∧
    decode 0x1054408A9600000000000001 = some (.clz { gp := 1, y := true } true (.x 42) (.x 44)) ∧
    decode 0x10584080C280000000000001 = some (.ctz { gp := 1, y := true } true (.x 3) (.x 5)) ∧
    decode 0x105C40810300000000000001 = some (.popc { gp := 1, y := true } true (.x 4) (.x 6)) ∧
    decode 0x106040814388000000000002 = some (.bfx { gp := 1, y := true } true (.x 5) (.x 7) (.x 8)) ∧
    decode 0x106440818409140000000000 = some (.bfi { gp := 1, y := true } (.x 6) (.x 8) (.x 9) (.x 10)) ∧
    decode 0x10684081C48A0E0000000000 = some (.sel { gp := 1, y := true } (.x 7) (.x 9) (.x 10) 7) ∧
    decode 0x106C4082050B000000000006 = some (.lea { gp := 1, y := true } 3 (.x 8) (.x 10) (.x 11)) := by
  with_unfolding_all exact
    ⟨rfl, rfl, rfl, rfl, rfl, rfl, rfl, rfl, rfl, rfl, rfl, rfl, rfl, rfl, rfl, rfl, rfl, rfl, rfl, rfl, rfl, rfl,
    rfl, rfl, rfl, rfl, rfl, rfl⟩

/-- The words of majors 0x11 (05 R213). -/
theorem test_decode_scalar_imm :
    decode 0x11004082458091A2B3C4D581 = some
      (.addImm { gp := 1, y := true } true (.x 9) (.x 11) 0x123456789AB) ∧
    decode 0x11044082860091A2B3C4D581 = some
      (.subImm { gp := 1, y := true } true (.x 10) (.x 12) 0x123456789AB) ∧
    decode 0x11084082C68091A2B3C4D581 = some
      (.mulImm { gp := 1, y := true } true (.x 11) (.x 13) 0x123456789AB) ∧
    decode 0x110C4083070091A2B3C4D581 = some
      (.mulhImm { gp := 1, y := true } true (.x 12) (.x 14) 0x123456789AB) ∧
    decode 0x11104083478091A2B3C4D581 = some
      (.mulhuImm { gp := 1, y := true } true (.x 13) (.x 15) 0x123456789AB) ∧
    decode 0x11144083880091A2B3C4D581 = some
      (.divImm { gp := 1, y := true } true (.x 14) (.x 16) 0x123456789AB) ∧
    decode 0x11184083C88091A2B3C4D581 = some
      (.divuImm { gp := 1, y := true } true (.x 15) (.x 17) 0x123456789AB) ∧
    decode 0x111C4084090091A2B3C4D581 = some
      (.remImm { gp := 1, y := true } true (.x 16) (.x 18) 0x123456789AB) ∧
    decode 0x11204084498091A2B3C4D581 = some
      (.remuImm { gp := 1, y := true } true (.x 17) (.x 19) 0x123456789AB) ∧
    decode 0x112440848A0091A2B3C4D581 = some
      (.andImm { gp := 1, y := true } true (.x 18) (.x 20) 0x123456789AB) ∧
    decode 0x11284084CA8091A2B3C4D581 = some
      (.orImm { gp := 1, y := true } true (.x 19) (.x 21) 0x123456789AB) ∧
    decode 0x112C40850B0091A2B3C4D581 = some
      (.xorImm { gp := 1, y := true } true (.x 20) (.x 22) 0x123456789AB) ∧
    decode 0x113040854B8091A2B3C4D581 = some
      (.andnImm { gp := 1, y := true } true (.x 21) (.x 23) 0x123456789AB) ∧
    decode 0x113440858C0091A2B3C4D581 = some
      (.shlImm { gp := 1, y := true } true (.x 22) (.x 24) 0x123456789AB) ∧
    decode 0x11384085CC8091A2B3C4D581 = some
      (.shrImm { gp := 1, y := true } true (.x 23) (.x 25) 0x123456789AB) ∧
    decode 0x113C40860D0091A2B3C4D581 = some
      (.sraImm { gp := 1, y := true } true (.x 24) (.x 26) 0x123456789AB) ∧
    decode 0x114040864D8091A2B3C4D581 = some
      (.rorImm { gp := 1, y := true } true (.x 25) (.x 27) 0x123456789AB) ∧
    decode 0x114440868E0091A2B3C4D581 = some
      (.minImm { gp := 1, y := true } true (.x 26) (.x 28) 0x123456789AB) ∧
    decode 0x11484086CE8091A2B3C4D581 = some
      (.maxImm { gp := 1, y := true } true (.x 27) (.x 29) 0x123456789AB) ∧
    decode 0x114C40870F0091A2B3C4D581 = some
      (.minuImm { gp := 1, y := true } true (.x 28) (.x 30) 0x123456789AB) ∧
    decode 0x115040874F8091A2B3C4D581 = some
      (.maxuImm { gp := 1, y := true } true (.x 29) (.x 31) 0x123456789AB) ∧
    decode 0x11604087900091A2B3C4D582 = some
      (.bfxImm { gp := 1, y := true } true (.x 30) (.x 32) 0x123456789AB) ∧
    decode 0x11644087D08091A2B3C4D580 = some (.bfiImm { gp := 1, y := true } 31 (.x 33) 0x123456789AB) ∧
    decode 0x11684088110091A2B3C4D586 = some
      (.selImm { gp := 1, y := true } (.x 32) (.x 34) 0x123456789AB 3) ∧
    decode 0x116C4088518091A2B3C4D586 = some
      (.leaImm { gp := 1, y := true } 3 (.x 33) (.x 35) 0x123456789AB) := by
  with_unfolding_all exact
    ⟨rfl, rfl, rfl, rfl, rfl, rfl, rfl, rfl, rfl, rfl, rfl, rfl, rfl, rfl, rfl, rfl, rfl, rfl, rfl, rfl, rfl, rfl,
    rfl, rfl, rfl⟩

/-- The words of majors 0x12 (05 R217). -/
theorem test_decode_moves :
    decode 0x120040888123456789ABCDEF = some (.movi { gp := 1, y := true } (.x 34) 0x123456789ABCDEF) ∧
    decode 0x12044080D2A60E000000000B = some (.cmp { gp := 1, y := true } .ge true 3 7 (.x 37) (.x 38)) ∧
    decode 0x12084080D30091A2B3C4D58B = some
      (.cmpi { gp := 1, y := true } .ge true 3 (.x 38) 0x123456789AB) ∧
    decode 0x120C4080C286000000000006 = some (.plog { gp := 1, y := true } 0x6 3 5 6) ∧
    decode 0x121040898000000000000000 = some (.pmovToX { gp := 1, y := true } (.x 38)) ∧
    decode 0x121040801480000000000001 = some (.pmovToP { gp := 1, y := true } (.x 41)) := by
  with_unfolding_all exact
    ⟨rfl, rfl, rfl, rfl, rfl, rfl⟩

/-- The words of majors 0x13 (05 R222). -/
theorem test_decode_memory :
    decode 0x1300408A152BFFFFFFF02A00 = some
      (.ld { gp := 1, y := true } .n32 (.x 40) ⟨.x 42, .x 43, 2, 0xFFFFFFF0⟩) ∧
    decode 0x1304408A55ACFFFFFFF02A00 = some
      (.st { gp := 1, y := true } .n32 (.x 41) ⟨.x 43, .x 44, 2, 0xFFFFFFF0⟩) ∧
    decode 0x1308408A962DFFFFFFF02AC0 = some
      (.lda { gp := 1, y := true } .n32 .pkg (.x 42) ⟨.x 44, .x 45, 2, 0xFFFFFFF0⟩) ∧
    decode 0x130C4080C286FFFFFFF02AC0 = some
      (.str { gp := 1, y := true } .n32 .pkg (.x 3) ⟨.x 5, .x 6, 2, 0xFFFFFFF0⟩) ∧
    decode 0x131040810307FFFFFFF02AA0 = some
      (.atomSwap { gp := 1, y := true } .n32 (some .quad) 4 ⟨.x 6, .x 7, 2, 0xFFFFFFF0⟩) ∧
    decode 0x131040814388FFFFFFF02AA1 = some
      (.atomAdd { gp := 1, y := true } .n32 (some .quad) 5 ⟨.x 7, .x 8, 2, 0xFFFFFFF0⟩) ∧
    decode 0x131040818409FFFFFFF02AA2 = some
      (.atomAnd { gp := 1, y := true } .n32 (some .quad) 6 ⟨.x 8, .x 9, 2, 0xFFFFFFF0⟩) ∧
    decode 0x13104081C48AFFFFFFF02AA3 = some
      (.atomOr { gp := 1, y := true } .n32 (some .quad) 7 ⟨.x 9, .x 10, 2, 0xFFFFFFF0⟩) ∧
    decode 0x13104082050BFFFFFFF02AA4 = some
      (.atomXor { gp := 1, y := true } .n32 (some .quad) 8 ⟨.x 10, .x 11, 2, 0xFFFFFFF0⟩) ∧
    decode 0x13104082458CFFFFFFF02AA5 = some
      (.atomMin { gp := 1, y := true } .n32 (some .quad) 9 ⟨.x 11, .x 12, 2, 0xFFFFFFF0⟩) ∧
    decode 0x13104082860DFFFFFFF02AA6 = some
      (.atomMax { gp := 1, y := true } .n32 (some .quad) 10 ⟨.x 12, .x 13, 2, 0xFFFFFFF0⟩) ∧
    decode 0x13104082C68E1234567838A7 = some
      (.atomCas { gp := 1, y := true } .n64 (some .quad) 11 (.x 13) 14 0x12345678) ∧
    decode 0x13144080000000D000000000 = some (.fence { gp := 1, y := true } .rel .pkg) := by
  with_unfolding_all exact
    ⟨rfl, rfl, rfl, rfl, rfl, rfl, rfl, rfl, rfl, rfl, rfl, rfl, rfl⟩

/-- The words of majors 0x20 (08 R360). -/
theorem test_decode_floating :
    decode 0x200040834790000108400000 = some
      (.vadd { gp := 1, y := true } .f32 .rup (.v 13) (.v 15) (.x (.x 16))) ∧
    decode 0x200440838811000108400000 = some
      (.vsub { gp := 1, y := true } .f32 .rup (.v 14) (.v 16) (.x (.x 17))) ∧
    decode 0x20084083C892000108400000 = some
      (.vmul { gp := 1, y := true } .f32 .rup (.v 15) (.v 17) (.x (.x 18))) ∧
    decode 0x200C40840913280108400000 = some
      (.vfma { gp := 1, y := true } .f32 .rup (.v 16) (.v 18) (.x (.x 19)) (.v (.v 20))) ∧
    decode 0x2010408449942A0108400000 = some
      (.vfms { gp := 1, y := true } .f32 .rup (.v 17) (.v 19) (.x (.x 20)) (.v (.v 21))) ∧
    decode 0x201440848A152C0108400000 = some
      (.vfnma { gp := 1, y := true } .f32 .rup (.v 18) (.v 20) (.x (.x 21)) (.v (.v 22))) ∧
    decode 0x20184084CA96000108400000 = some
      (.vdiv { gp := 1, y := true } .f32 .rup (.v 19) (.v 21) (.x (.x 22))) ∧
    decode 0x201C40850B00000108000000 = some (.vsqrt { gp := 1, y := true } .f32 .rup (.v 20) (.v 22)) ∧
    decode 0x202040854B98000100400000 = some
      (.vmin { gp := 1, y := true } .f32 (.v 21) (.v 23) (.x (.x 24))) ∧
    decode 0x202440858C19000100400000 = some
      (.vmax { gp := 1, y := true } .f32 (.v 22) (.v 24) (.x (.x 25))) ∧
    decode 0x20284085CC80000100000000 = some (.vabs { gp := 1, y := true } .f32 (.v 23) (.v 25)) ∧
    decode 0x202C40860D00000100000000 = some (.vneg { gp := 1, y := true } .f32 (.v 24) (.v 26)) ∧
    decode 0x20304080CD9C000100400004 = some (.vcmp { gp := 1, y := true } .gt .f32 3 (.v 27) (.x (.x 28))) ∧
    decode 0x203440868E00000100000000 = some (.vclass { gp := 1, y := true } .f32 (.v 26) (.v 28)) ∧
    decode 0x20384086CE9E008508400000 = some
      (.twosum { gp := 1, y := true } .f32 .rup (.v 27) (.v 33) (.v 29) (.x (.x 30))) := by
  with_unfolding_all exact
    ⟨rfl, rfl, rfl, rfl, rfl, rfl, rfl, rfl, rfl, rfl, rfl, rfl, rfl, rfl, rfl⟩

/-- The words of majors 0x21 (08 R364). -/
theorem test_decode_integer :
    decode 0x210040870F1F0000A0400001 = some
      (.viadd { gp := 1, y := true } true .n32 (.v 28) (.v 30) (.x (.x 31))) ∧
    decode 0x210440874FA00000A0400001 = some
      (.visub { gp := 1, y := true } true .n32 (.v 29) (.v 31) (.x (.x 32))) ∧
    decode 0x2108408790210000A0400000 = some
      (.vimul { gp := 1, y := true } .n32 (.v 30) (.v 32) (.x (.x 33))) ∧
    decode 0x210C4087D0A20000A0400000 = some
      (.vimulh { gp := 1, y := true } .n32 (.v 31) (.v 33) (.x (.x 34))) ∧
    decode 0x2110408811234800A0400000 = some
      (.vimad { gp := 1, y := true } .n32 (.v 32) (.v 34) (.x (.x 35)) (.v (.v 36))) ∧
    decode 0x2114408851A40000A0400000 = some
      (.vimin { gp := 1, y := true } .n32 (.v 33) (.v 35) (.x (.x 36))) ∧
    decode 0x2118408892250000A0400000 = some
      (.vimax { gp := 1, y := true } .n32 (.v 34) (.v 36) (.x (.x 37))) ∧
    decode 0x211C4088D2A60000A0400000 = some
      (.vand { gp := 1, y := true } .n32 (.v 35) (.v 37) (.x (.x 38))) ∧
    decode 0x2120408913270000A0400000 = some
      (.vor { gp := 1, y := true } .n32 (.v 36) (.v 38) (.x (.x 39))) ∧
    decode 0x2124408953A80000A0400000 = some
      (.vxor { gp := 1, y := true } .n32 (.v 37) (.v 39) (.x (.x 40))) ∧
    decode 0x2128408994290000A0400000 = some
      (.vshl { gp := 1, y := true } .n32 (.v 38) (.v 40) (.x (.x 41))) ∧
    decode 0x212C4089D4AA0000A0400000 = some
      (.vshr { gp := 1, y := true } .n32 (.v 39) (.v 41) (.x (.x 42))) ∧
    decode 0x2130408A152B0000A0400000 = some
      (.vsra { gp := 1, y := true } .n32 (.v 40) (.v 42) (.x (.x 43))) ∧
    decode 0x2134408A55AC5A00A0400000 = some
      (.vclip { gp := 1, y := true } .n32 (.v 41) (.v 43) (.x (.x 44)) (.v (.v 45))) := by
  with_unfolding_all exact
    ⟨rfl, rfl, rfl, rfl, rfl, rfl, rfl, rfl, rfl, rfl, rfl, rfl, rfl, rfl⟩

/-- The words of majors 0x22, 0x23 (08 R350, R365). -/
theorem test_decode_tiles :
    decode 0x2200408A96000000A0000000 = some (.vmov { gp := 1, y := true } .n32 (.v 42) (.v 44)) ∧
    decode 0x22044080C2800000A0000000 = some (.vbcast { gp := 1, y := true } .n32 (.v 3) (.x 5)) ∧
    decode 0x2208408100000000A0000001 = some (.viota { gp := 1, y := true } true .n32 (.v 4)) ∧
    decode 0x220C408143880E00A0400000 = some
      (.vsel { gp := 1, y := true } .n32 (.v 5) (.v 7) (.x (.x 8)) 7) ∧
    decode 0x22104081800091A2B3C4D594 = some (.vldi { gp := 1, y := true } .n32 (.v 6) 0x123456789AB) ∧
    decode 0x23004081C4800000A0000000 = some (.setvl { gp := 1, y := true } .n32 (.x 7) 9) ∧
    decode 0x230040820000000000000001 = some (.setvlRel { gp := 1, y := true } (.x 8)) ∧
    decode 0x2304408245800000A0000000 = some (.setrc { gp := 1, y := true } .n32 (.x 9) 11) ∧
    decode 0x230840828600000000000000 = some (.alloc { gp := 1, y := true } (.x 10) 12) ∧
    decode 0x230C4082C680000000000000 = some (.shrink { gp := 1, y := true } (.x 11) 13) ∧
    decode 0x23104083070F2000A000003F = some (.strip { gp := 1, y := true } .n32 12 14 15 16 3 3 3) := by
  with_unfolding_all exact
    ⟨rfl, rfl, rfl, rfl, rfl, rfl, rfl, rfl, rfl, rfl, rfl⟩

/-- The words of majors 0x30, 0x31 (08 R367, R368). -/
theorem test_decode_special :
    decode 0x300040834780000100000000 = some (.vrcp { gp := 1, y := true } .f32 .rne (.v 13) (.v 15)) ∧
    decode 0x300440838800000100000000 = some (.vrsq { gp := 1, y := true } .f32 .rne (.v 14) (.v 16)) ∧
    decode 0x30084083C880000100000000 = some (.vexp2 { gp := 1, y := true } .f32 .rne (.v 15) (.v 17)) ∧
    decode 0x300C40840900000100000000 = some (.vlog2 { gp := 1, y := true } .f32 .rne (.v 16) (.v 18)) ∧
    decode 0x301040844980000100000000 = some (.vtanh { gp := 1, y := true } .f32 .rne (.v 17) (.v 19)) ∧
    decode 0x310040848A00000128200000 = some (.vcvt { gp := 1, y := true } .bf16 .f32 .rup (.v 18) (.v 20)) ∧
    decode 0x31044084CA802E0168210000 = some
      (.vqblk { gp := 1, y := true } .e4m3 .f32 .rup 0x20 (.v 19) (.v 23) (.v 21)) ∧
    decode 0x310840850B003001082D0000 = some
      (.vdqblk { gp := 1, y := true } .f32 .e4m3 .rup 0x20 (.v 20) (.v 22) (.v 24)) ∧
    decode 0x310C40854B80000220000000 = some (.vplane { gp := 1, y := true } (.v 21) (.v 23)) ∧
    decode 0x311040858C00000000000006 = some (.vunplane { gp := 1, y := true } 0x6 (.v 22) (.v 24)) ∧
    decode 0x31144085C000000100000000 = some (.vrand { gp := 1, y := true } .f32 (.v 23)) := by
  with_unfolding_all exact
    ⟨rfl, rfl, rfl, rfl, rfl, rfl, rfl, rfl, rfl, rfl, rfl⟩

/-- The words of majors 0x32 (08 R374). -/
theorem test_decode_masks :
    decode 0x32004080C286000000000006 = some (.klog { gp := 1, y := true } 0x6 3 5 6) ∧
    decode 0x320440864280000000000000 = some (.kcnt { gp := 1, y := true } (.x 25) 5) ∧
    decode 0x320840868280000000000000 = some (.kfirst { gp := 1, y := true } (.x 26) 5) ∧
    decode 0x320C40800280000000000000 = some (.mpush { gp := 1, y := true } 5) ∧
    decode 0x321040800000000000000000 = some (.minv { gp := 1, y := true }) ∧
    decode 0x321440800000000000000000 = some (.mpop { gp := 1, y := true }) ∧
    decode 0x321840800000000000918001 = some (.mbrz { gp := 1, y := true } true 0x123) ∧
    decode 0x321C4087D0800000A0000000 = some (.vtrip { gp := 1, y := true } .n32 (.v 31) (.v 33)) ∧
    decode 0x322040880000000000918005 = some (.mloop { gp := 1, y := true } .n32 (.v 32) 0x123) := by
  with_unfolding_all exact
    ⟨rfl, rfl, rfl, rfl, rfl, rfl, rfl, rfl, rfl⟩

/-- The words of majors 0x40 (09 R390). -/
theorem test_decode_junction :
    decode 0x400040885180000080040000 = some
      (.vred { gp := 1, y := true } .add true .i32 .rne (.v (.v 33)) (.v 35)) ∧
    decode 0x40044088922500A1000C0000 = some
      (.vredp { gp := 1, y := true } true .f32 (.v (.v 34) (.v 40)) (.v 36) (some (.v 37))) ∧
    decode 0x40084088D280000100040000 = some
      (.vscan { gp := 1, y := true } .add true .f32 .rne (.v 35) (.v 37)) ∧
    decode 0x400C408913270000A0040001 = some
      (.vperm { gp := 1, y := true } true true .n32 (.v 36) (.v 38) (.v 39)) ∧
    decode 0x4010408953A80000A0040001 = some
      (.vslide { gp := 1, y := true } true true .n32 (.v 37) (.v 39) (.x 40)) ∧
    decode 0x4014408994290000A0040001 = some
      (.vzip { gp := 1, y := true } true true .n32 (.v 38) (.v 40) (.v 41)) ∧
    decode 0x40184089D4AA0000A0040001 = some
      (.vunzip { gp := 1, y := true } true true .n32 (.v 39) (.v 41) (.v 42)) ∧
    decode 0x401C408A15000000A0000000 = some (.vtrn { gp := 1, y := true } .n32 (.v 40) (.v 42)) ∧
    decode 0x4020408A558000BCA0000001 = some
      (.vcompress { gp := 1, y := true } true .n32 (.v 41) (.v 43) (.x 47)) ∧
    decode 0x4024408A96000000A0000001 = some (.vexpand { gp := 1, y := true } true .n32 (.v 42) (.v 44)) ∧
    decode 0x40284080C2860024A0000001 = some
      (.vsortk { gp := 1, y := true } true .n32 (.v 3) (.v 9) (.v 5) (.x 6)) ∧
    decode 0x402C408103070000A0000000 = some (.vextr { gp := 1, y := true } .n32 (.x 4) (.v 6) (.x 7)) ∧
    decode 0x4030408143880000A0000000 = some (.vinsr { gp := 1, y := true } .n32 (.v 5) (.x 7) (.x 8)) ∧
    decode 0x403440818000000000000000 = some (.rdv { gp := 1, y := true } (.x 6)) := by
  with_unfolding_all exact
    ⟨rfl, rfl, rfl, rfl, rfl, rfl, rfl, rfl, rfl, rfl, rfl, rfl, rfl, rfl⟩

/-- The words of majors 0x50 (07 R297). -/
theorem test_decode_vector_memory :
    decode 0x50004081C48AFFFFFFF02A00 = some
      (.vld { gp := 1, y := true } .n32 (.v 7) ⟨.x 9, .x 10, 2, 0xFFFFFFF0⟩) ∧
    decode 0x50044082050BFFFFFFF02A00 = some
      (.vlds { gp := 1, y := true } .n32 (.v 8) ⟨.x 10, .x 11, 2, 0xFFFFFFF0⟩) ∧
    decode 0x50084082458C123456782A01 = some
      (.vldx { gp := 1, y := true } .n32 true (.v 9) (.x 11) (.v 12) 2 0x12345678) ∧
    decode 0x500C4082860DFFFFFFF02A00 = some
      (.vst { gp := 1, y := true } .n32 (.v 10) ⟨.x 12, .x 13, 2, 0xFFFFFFF0⟩) ∧
    decode 0x50104082C68EFFFFFFF02A00 = some
      (.vsts { gp := 1, y := true } .n32 (.v 11) ⟨.x 13, .x 14, 2, 0xFFFFFFF0⟩) ∧
    decode 0x50144083070F123456782A01 = some
      (.vstx { gp := 1, y := true } .n32 true (.v 12) (.x 14) (.v 15) 2 0x12345678) ∧
    decode 0x501840834790123456782A01 = some
      (.vstu { gp := 1, y := true } .n32 true (.v 13) (.x 15) (.v 16) 2 0x12345678) ∧
    decode 0x501C40838811123456782A01 = some
      (.vstxa { gp := 1, y := true } .n32 true (.v 14) (.x 16) (.v 17) 2 0x12345678) ∧
    decode 0x50204080000000D000000000 = some (.vfence { gp := 1, y := true } .rel .pkg) ∧
    decode 0x502440840913FFFFFFF00201 = some
      (.pref { gp := 1, y := true } true (.x 16) ⟨.x 18, .x 19, 2, 0xFFFFFFF0⟩) := by
  with_unfolding_all exact
    ⟨rfl, rfl, rfl, rfl, rfl, rfl, rfl, rfl, rfl, rfl⟩

/-- The words of majors 0x51, 0x52 (07 R314, R320, R329). -/
theorem test_decode_groups_copies :
    decode 0x51004080C994000000000000 = some (.gset { gp := 1, y := true } 3 (.x 19) (.x 20)) ∧
    decode 0x51004080C000000000000001 = some (.gsetFree { gp := 1, y := true } 3) ∧
    decode 0x51044084CA800E0100000002 = some (.vgred { gp := 1, y := true } .max .f32 (.v 19) (.v 21) 7) ∧
    decode 0x510840850B000E0100000000 = some (.vgall { gp := 1, y := true } .f32 (.v 20) (.v 22) 7) ∧
    decode 0x510C40854B800E0100000002 = some (.vgrs { gp := 1, y := true } .max .f32 (.v 21) (.v 23) 7) ∧
    decode 0x511040858C190E0100000000 = some (.vgbc { gp := 1, y := true } .f32 (.v 22) (.v 24) 7 (.x 25)) ∧
    decode 0x52004085CC80000000000000 = some (.stream { gp := 1, y := true } (.x 23) (.x 25)) ∧
    decode 0x520440860D1BFFFFFFF00200 = some
      (.armw { gp := 1, y := true } (.x 24) ⟨.x 26, .x 27, 2, 0xFFFFFFF0⟩) ∧
    decode 0x520840864D9CFFFFFFF00200 = some
      (.waitw { gp := 1, y := true } (.x 25) ⟨.x 27, .x 28, 2, 0xFFFFFFF0⟩) ∧
    decode 0x520C40868E00000000000000 = some (.jobwait { gp := 1, y := true } (.x 26) (.x 28)) := by
  with_unfolding_all exact
    ⟨rfl, rfl, rfl, rfl, rfl, rfl, rfl, rfl, rfl, rfl⟩

/-- The words of majors 0x60 (10 R422). -/
theorem test_decode_overlay :
    decode 0x60004086C000000000000000 = some (.ovopen { gp := 1, y := true } (.x 27)) ∧
    decode 0x6000408700000E0000000001 = some (.ovopenTry { gp := 1, y := true } (.x 28) 7) ∧
    decode 0x600440800F80000000000000 = some (.ovset { gp := 1, y := true } (.x 31)) ∧
    decode 0x600840879000000000000000 = some (.ovretire { gp := 1, y := true } (.x 30) (.x 32)) ∧
    decode 0x600C4087D080000003000000 = some (.ovcommit { gp := 1, y := true } .pkg (.x 31) (.x 33)) ∧
    decode 0x601040881123123456782800 = some
      (.ldo { gp := 1, y := true } .n32 (.x 32) (.x 34) (.x 35) 0x12345678) ∧
    decode 0x6014408851A4123456782800 = some
      (.vldo { gp := 1, y := true } .n32 (.v 33) (.x 35) (.x 36) 0x12345678) ∧
    decode 0x601840889200000000000000 = some (.ovstat { gp := 1, y := true } 0 (.x 34) (.x 36)) := by
  with_unfolding_all exact
    ⟨rfl, rfl, rfl, rfl, rfl, rfl, rfl, rfl⟩

/-- The words of majors 0x68 (06 R287). -/
theorem test_decode_maintenance :
    decode 0x68004088D280000000000000 = some (.carve { gp := 1, y := true } (.x 35) (.x 37)) ∧
    decode 0x680440891327FFFFFFF00201 = some
      (.cclean { gp := 1, y := true } true (.x 36) ⟨.x 38, .x 39, 2, 0xFFFFFFF0⟩) ∧
    decode 0x6808408953A8FFFFFFF00201 = some
      (.cinv { gp := 1, y := true } true (.x 37) ⟨.x 39, .x 40, 2, 0xFFFFFFF0⟩) ∧
    decode 0x680C40899429FFFFFFF00201 = some
      (.cflush { gp := 1, y := true } true (.x 38) ⟨.x 40, .x 41, 2, 0xFFFFFFF0⟩) ∧
    decode 0x681040800000000000000000 = some (.tlbiAll { gp := 1, y := true }) ∧
    decode 0x681040801500000000000001 = some (.tlbiAsid { gp := 1, y := true } (.x 42)) ∧
    decode 0x6810408015AC5A0000000002 = some (.tlbiRange { gp := 1, y := true } (.x 43) (.x 44) (.x 45)) ∧
    decode 0x6814408A9600000000000000 = some (.digest { gp := 1, y := true } (.x 42) (.x 44)) ∧
    decode 0x68144080C286000000000001 = some (.digestRng { gp := 1, y := true } (.x 3) (.x 5) (.x 6)) ∧
    decode 0x681840810000000000000025 = some (.budget { gp := 1, y := true } (.x 4) 5 .border) ∧
    decode 0x681840814380000000000065 = some (.budgetW { gp := 1, y := true } (.x 5) (.x 7) 5 .border) := by
  with_unfolding_all exact
    ⟨rfl, rfl, rfl, rfl, rfl, rfl, rfl, rfl, rfl, rfl, rfl⟩

/-- The words of majors 0x70 (11 R457). -/
theorem test_decode_matrix :
    decode 0x700040830700000000000000 = some (.mattach { gp := 1, y := true } (.x 12) (.x 14)) ∧
    decode 0x700040834780000000000001 = some (.mattachPair { gp := 1, y := true } (.x 13) (.x 15)) ∧
    decode 0x700440800000000000000000 = some (.mdetach { gp := 1, y := true }) ∧
    decode 0x70084083C880000000000003 = some (.mwld { gp := 1, y := true } .split (.x 15) (.x 17)) ∧
    decode 0x700C40840900080200358709 = some
      (.mstream { gp := 1, y := true } ⟨64, 512, true, true, .e4m3, 7, 9⟩ (.x 16) (.x 18)) ∧
    decode 0x701040800000000000000292 = some (.mzeroFp { gp := 1, y := true } 0x12 0x5) ∧
    decode 0x701040800000000000008292 = some (.mzeroInt { gp := 1, y := true } 0x12 0x5) ∧
    decode 0x701440800A96003689800487 = some
      (.mdrain { gp := 1, y := true } ⟨true, true, 3, .rna, .bf16, 0x100, 9, 7⟩ (.x 21) (.x 22)) ∧
    decode 0x701440850B00003789800487 = some
      (.mdrainIdx { gp := 1, y := true } ⟨true, true, 3, .rna, .bf16, 0x100, 9, 7⟩ (.x 22) (.v 20)) ∧
    decode 0x701840854B98FFFFFFF00200 = some
      (.msave { gp := 1, y := true } (.x 21) ⟨.x 23, .x 24, 2, 0xFFFFFFF0⟩) ∧
    decode 0x701C40858C19FFFFFFF00200 = some
      (.mrestore { gp := 1, y := true } (.x 22) ⟨.x 24, .x 25, 2, 0xFFFFFFF0⟩) ∧
    decode 0x70204085CC9AFFFFFFF00200 = some
      (.mlineEmpty { gp := 1, y := true } (.x 23) ⟨.x 25, .x 26, 2, 0xFFFFFFF0⟩) ∧
    decode 0x702040860D1BFFFFFFF00201 = some
      (.mlineFull { gp := 1, y := true } (.x 24) ⟨.x 26, .x 27, 2, 0xFFFFFFF0⟩) ∧
    decode 0x702040864D9CFFFFFFF00202 = some
      (.mlineWfull { gp := 1, y := true } (.x 25) ⟨.x 27, .x 28, 2, 0xFFFFFFF0⟩) ∧
    decode 0x702040868E1DFFFFFFF00203 = some
      (.mlineWempty { gp := 1, y := true } (.x 26) ⟨.x 28, .x 29, 2, 0xFFFFFFF0⟩) ∧
    decode 0x70244086CE80000000000000 = some (.mwait { gp := 1, y := true } (.x 27) (.x 29)) ∧
    decode 0x702840870F00000000000003 = some (.mstat { gp := 1, y := true } 3 (.x 28) (.x 30)) := by
  with_unfolding_all exact
    ⟨rfl, rfl, rfl, rfl, rfl, rfl, rfl, rfl, rfl, rfl, rfl, rfl, rfl, rfl, rfl, rfl, rfl⟩

/-- The words of majors 0x80 (12 R514). -/
theorem test_decode_traverse :
    decode 0x800040874F86000000000000 = some (.tvload { gp := 1, y := true } (.x 29) (.x 31) 6) ∧
    decode 0x800040801000000000000001 = some (.tvloadFree { gp := 1, y := true } (.x 32)) ∧
    decode 0x80044087D080000000000005 = some (.tvstart { gp := 1, y := true } 5 (.x 31) (.x 33)) ∧
    decode 0x800840881100000000000000 = some (.tvwait { gp := 1, y := true } (.x 32) (.x 34)) ∧
    decode 0x800C40885180000000000002 = some (.tvstat { gp := 1, y := true } 2 (.x 33) (.x 35)) := by
  with_unfolding_all exact
    ⟨rfl, rfl, rfl, rfl, rfl⟩

/-- The words of majors 0x81 (13 R545). -/
theorem test_decode_gazetteer :
    decode 0x810040889200000000000000 = some (.gzlook { gp := 1, y := true } (.x 34) (.x 36)) ∧
    decode 0x81044088D280000000000000 = some (.gzupdate { gp := 1, y := true } (.x 35) (.x 37)) ∧
    decode 0x810840891300000000000003 = some (.gzver { gp := 1, y := true } 3 (.x 36) (.x 38)) ∧
    decode 0x810C408953A8000000000123 = some (.gzpin { gp := 1, y := true } 0x123 (.x 37) (.x 39) (.x 40)) ∧
    decode 0x810C40899429000000002123 = some
      (.gzpinUn { gp := 1, y := true } 0x123 (.x 38) (.x 40) (.x 41)) ∧
    decode 0x81104089D480000000000000 = some (.gzwait { gp := 1, y := true } (.x 39) (.x 41)) := by
  with_unfolding_all exact
    ⟨rfl, rfl, rfl, rfl, rfl, rfl⟩

/-- The words of majors 0x88 (04 R183..R187). -/
theorem test_decode_launch :
    decode 0x880040818400000000000000 = some (.launch { gp := 1, y := true } (.x 6) (.x 8)) ∧
    decode 0x88004081C480000000000001 = some (.launchTry { gp := 1, y := true } (.x 7) (.x 9)) ∧
    decode 0x880440800000000000000000 = some (.trig { gp := 1, y := true }) ∧
    decode 0x880840800000000000000003 = some (.bar { gp := 1, y := true } 3) ∧
    decode 0x880C4082860D000003000000 = some (.waitl { gp := 1, y := true } .pkg (.x 10) (.x 12) (.x 13)) ∧
    decode 0x88104082C00000000000002B = some (.lvlid { gp := 1, y := true } 3 .ey (.x 11)) := by
  with_unfolding_all exact
    ⟨rfl, rfl, rfl, rfl, rfl, rfl⟩

/-- The words of majors 0x90 (14 R571). -/
theorem test_decode_survey :
    decode 0x9000408A0000000000000000 = some (.mtick { gp := 1, y := true } (.x 40)) ∧
    decode 0x9000408A4000000000000001 = some (.mtickOrd { gp := 1, y := true } (.x 41)) ∧
    decode 0x900440801600000000001234 = some (.svmark { gp := 1, y := true } 0x1234 (.x 44)) ∧
    decode 0x900840800000000000000000 = some (.svsampOff { gp := 1, y := true }) ∧
    decode 0x900840800300000000000009 = some (.svsamp { gp := 1, y := true } 0x9 (.x 6)) ∧
    decode 0x900C40814380000000000003 = some (.svread { gp := 1, y := true } 3 (.x 5) (.x 7)) ∧
    decode 0x901040818400000000000000 = some (.svstop { gp := 1, y := true } (.x 6) (.x 8)) ∧
    decode 0x90144081C000000000000003 = some (.clklock { gp := 1, y := true } 3 (.x 7)) ∧
    decode 0x901440820000000000000008 = some (.clklockOff { gp := 1, y := true } (.x 8)) := by
  with_unfolding_all exact
    ⟨rfl, rfl, rfl, rfl, rfl, rfl, rfl, rfl, rfl⟩

/-- The words of majors 0x98 (15 R608). -/
theorem test_decode_datum :
    decode 0x98004082458C000000000000 = some (.dhash { gp := 1, y := true } (.x 9) (.x 11) (.x 12)) ∧
    decode 0x980440828600000000000002 = some (.dverify { gp := 1, y := true } .tok (.x 10) (.x 12)) ∧
    decode 0x98084082C68E000000000000 = some (.dsign { gp := 1, y := true } (.x 11) (.x 13) (.x 14)) ∧
    decode 0x980840830700000000000001 = some (.dsignAtt { gp := 1, y := true } (.x 12) (.x 14)) ∧
    decode 0x980840834000000000000002 = some (.dsignPub { gp := 1, y := true } (.x 13)) ∧
    decode 0x980C40838800000000000000 = some (.fuserd { gp := 1, y := true } (.x 14) (.x 16)) ∧
    decode 0x98104083C880000000000000 = some (.keywipe { gp := 1, y := true } (.x 15) (.x 17)) ∧
    decode 0x981040840000000000000001 = some (.keywipeAll { gp := 1, y := true } (.x 16)) ∧
    decode 0x981440800994000000000003 = some (.mextend { gp := 1, y := true } 3 (.x 19) (.x 20)) ∧
    decode 0x98144084800000000000000F = some (.mextendDbg { gp := 1, y := true } (.x 18)) ∧
    decode 0x98184084C000001800000000 = some (.lcset { gp := 1, y := true } .debug (.x 19)) ∧
    decode 0x981C40850000000012345678 = some (.dbgopen { gp := 1, y := true } 0x12345678 (.x 20)) := by
  with_unfolding_all exact
    ⟨rfl, rfl, rfl, rfl, rfl, rfl, rfl, rfl, rfl, rfl, rfl, rfl⟩

/-- Legs: OP, FL and every field of 128 bits (12 R481..R484). -/
theorem test_decode_legs :
    decodeLeg 0x0000014000000080021FFEE88FFF0201 =
      some (.legSend false true ⟨true, 0xFFF⟩ 1 2 0 ⟨1, -1, true, 0xFFE, 0x140, 0x80⟩) ∧
    decodeLeg 0x0000014000000080003FFEE800053202 =
      some (.legRecv true true true ⟨false, 5⟩ 3 ⟨1, -1, true, 0xFFE, 0x140, 0x80⟩) ∧
    decodeLeg 0x0000014000000080421FFEE800006403 =
      some (.legReduce .min .bf16 false true 1 2 4 ⟨1, -1, true, 0xFFE, 0x140, 0x80⟩) ∧
    decodeLeg 0x0000014000000080F01FFEE800091404 =
      some (.legCopy true true false 9 1 15 ⟨1, -1, true, 0xFFE, 0x140, 0x80⟩) ∧
    decodeLeg 0x00000000000000030070000000000005 =
      some (.legWait (.arr 7 3)) ∧
    decodeLeg 0x00000000000000000000000000000405 =
      some (.legWait .drain) ∧
    decodeLeg 0x0000014000000080007FFEE800000805 =
      some (.legWait (.full 7 ⟨1, -1, true, 0xFFE, 0x140, 0x80⟩)) ∧
    decodeLeg 0x0000014000000080007FFEE800000C05 =
      some (.legWait (.empty 7 ⟨1, -1, true, 0xFFE, 0x140, 0x80⟩)) ∧
    decodeLeg 0x00000000000000110600000000030006 =
      some (.legSignal ⟨false, 3⟩ 6 0x11) ∧
    decodeLeg 0x00000000000000100600000000030407 =
      some (.legReserve true ⟨false, 3⟩ 6 16) ∧
    decodeLeg 0x00000002000001000000002000000008 =
      some (.legRepeat true 0x100 2) ∧
    decodeLeg 0x00000000000000000000000000000009 =
      some (.legEnd) := by
  with_unfolding_all exact ⟨rfl, rfl, rfl, rfl, rfl, rfl, rfl, rfl, rfl, rfl, rfl, rfl⟩

/-! Terms that a check of `Instr.wf` refuses, one for each check. -/

/-- The header: a mask guard, a cache hint and B outside their families (02 R74, R75). -/
theorem test_ill_formed_headers :
    ∀ i ∈ ([.nop { gm := 1 }, .nop { gmn := true }, .add { ch := 1 } false (.x 1) (.x 2) (.x 3),
      .ld { b := true } .i32 (.x 1) ⟨.x 2, .x 0, 0, 0⟩, .vmov { ch := 2 } .n32 (.v 1) (.v 2)] : List Instr),
      i.wf = false := by decide

/-- Element types that an instruction does not accept (02 R83). -/
theorem test_ill_formed_types :
    ∀ i ∈ ([.ld {} .e4m3 (.x 1) ⟨.x 2, .x 0, 0, 0⟩, .st {} .bp8 (.x 1) ⟨.x 2, .x 0, 0, 0⟩,
      .atomAdd {} .i16 none 1 ⟨.x 2, .x 0, 0, 0⟩, .vadd {} .i32 .rne (.v 1) (.v 2) (.v (.v 3)),
      .viadd {} false .f32 (.v 1) (.v 2) (.v (.v 3)), .vmov {} .bp8 (.v 1) (.v 2), .viota {} false .f32 (.v 1),
      .vrcp {} .n32 .rne (.v 1) (.v 2), .vcvt {} .bp8 .f32 .rne (.v 1) (.v 2),
      .vqblk {} .f32 .f32 .rne 0 (.v 1) (.v 2) (.v 3), .vdqblk {} .e4m3 .e4m3 .rne 0 (.v 1) (.v 2) (.v 3),
      .vrand {} .f16 (.v 1), .vtrip {} .i32 (.v 1) (.v 2), .mloop {} .n64 (.v 1) 1,
      .vred {} .add false .e4m3 .rne (.v (.v 1)) (.v 2), .vperm {} false false .e2m1 (.v 1) (.v 2) (.v 3),
      .vsortk {} false .e8m0 (.v 1) (.v 2) (.v 3) (.x 1), .vlds {} .e2m1 (.v 1) ⟨.x 2, .x 0, 0, 0⟩,
      .vstxa {} .n16 false (.v 1) (.x 1) (.v 2) 0 0, .vgred {} .add .n8 (.v 1) (.v 2) 0,
      .ldo {} .e5m2 (.x 1) (.x 2) (.x 3) 0, .mstream {} ⟨1, 0, false, false, .f32, 0, 1⟩ (.x 0) (.x 1),
      .mdrain {} ⟨false, false, 0, .rne, .e3m2, 0, 1, 0⟩ (.x 1) (.x 2)] : List Instr), i.wf = false := by decide

/-- Limits that an instruction's own fields break. -/
theorem test_ill_formed_fields :
    ∀ i ∈ ([.loop {} false (.imm 1) 0, .loop {} false (.imm 1) (-1), .wait {} (.x 0) 0,
      .vcmp {} .un .i32 2 (.v 1) (.v (.v 2)), .vcmp {} .eq .i32 1 (.v 1) (.v (.v 2)),
      .twosum {} .f32 .rne (.v 1) (.v 1) (.v 2) (.v (.v 3)), .vldi {} .bf16 (.v 1) 0x10000,
      .vqblk {} .e4m3 .f32 .rne 0 (.v 1) (.v 1) (.v 3), .vunplane {} 1 (.v 1) (.v 2), .vunplane {} 9 (.v 1) (.v 2),
      .klog {} 0 1 2 3, .vred {} .min false .f32 .rup (.v (.v 1)) (.v 2), .vred {} .add false .f32 .sr (.v (.v 1)) (.v 2),
      .vred {} .xor false .f32 .rne (.v (.v 1)) (.v 2), .vred {} .add true .n32 .rne (.x (.x 1)) (.v 2),
      .vredp {} false .f32 (.v (.v 1) (.v 1)) (.v 2) none, .vredp {} true .f32 (.x (.x 1) (.x 2)) (.v 2) none,
      .vscan {} .argmin false .n32 .rne (.v 1) (.v 2), .vsortk {} false .n32 (.v 1) (.v 1) (.v 3) (.x 1),
      .vextr { gm := 2 } .n32 (.x 1) (.v 1) (.x 2), .pref { gm := 2 } false (.x 1) ⟨.x 2, .x 0, 0, 0⟩,
      .vld { gm := 2 } .e2m1 (.v 1) ⟨.x 2, .x 0, 0, 0⟩, .ovstat {} 1 (.x 1) (.x 2), .ovset { gm := 2 } (.x 1),
      .mstream {} ⟨0, 0, false, false, .bf16, 0, 1⟩ (.x 0) (.x 1), .mstream {} ⟨1, 4097, false, false, .bf16, 0, 1⟩ (.x 0) (.x 1),
      .mstream {} ⟨1, 0, false, true, .bf16, 0, 1⟩ (.x 0) (.x 1), .mstream {} ⟨1, 0, false, false, .bf16, 0, 1⟩ (.x 2) (.x 1),
      .mstream {} ⟨1, 0, false, false, .bf16, 127, 2⟩ (.x 0) (.x 1), .mzeroFp {} 0 0, .mzeroInt {} 127 2,
      .mdrain {} ⟨false, false, 1, .rne, .bf16, 0, 1, 0⟩ (.x 1) (.x 2), .mstat {} 0 (.x 1) (.x 2),
      .gzpin {} 0 (.x 1) (.x 2) (.x 3), .gzpin {} 4097 (.x 1) (.x 2) (.x 3), .lvlid {} 0 .x (.x 1), .svsamp {} 5 (.x 1),
      .svsamp {} 21 (.x 1), .legSend false false ⟨false, 0⟩ 1 2 3 ⟨0, 0, false, 0, 0, 1⟩,
      .legRecv false false false ⟨false, 0⟩ 1 ⟨2, 0, false, 0, 0, 1⟩, .legSignal ⟨false, 0⟩ 1 0,
      .legReserve false ⟨false, 0⟩ 1 17, .legWait (.full 1 ⟨0, 2, false, 0, 0, 1⟩)] : List Instr), i.wf = false := by decide

/-- Reserved words: a major that does not exist, a reserved FN, a register code of no register, a reserved type, a set
unused bit (02 R78, R81, R83, R90). -/
theorem test_reserved_words :
    decode 0x030000000000000000000000 = none ∧ decode 0x012800000000000000000000 = none ∧
    decode 0x100000120000000000000000 = none ∧ decode 0x500000000000000000009000 = none ∧
    decode 0x010440000000000000000001 = none := by
  with_unfolding_all exact ⟨rfl, rfl, rfl, rfl, rfl⟩


/-! Helpers: a small machine, and premises in a form that evaluates. -/

/-- An action succeeds, and what it gives is as asked. -/
def okB {α : Type} (x : EStateM.Result Exc State α) (p : α → State → Bool) : Bool :=
  match x with
  | .ok a t => p a t
  | .error _ _ => false

theorem okB_spec {α : Type} {x : EStateM.Result Exc State α} {p : α → State → Bool} (h : okB x p = true) :
    ∃ a t, x = .ok a t ∧ p a t = true := by
  cases x with
  | ok a t => exact ⟨a, t, rfl, h⟩
  | error e t => simp [okB] at h

/-- Does the instruction issue? -/
def issuesB (i : Instr) (h : Hdr) (s : State) : Bool :=
  ((s.stream? s.cur).any fun st => st.live && st.captured.isNone) && (issueTrap s i).isNone && guardTrue (s.stream s.cur) h &&
    (queueBlocked s i).isNone && !scalarBlocked s i && (marked s i).isNone

theorem issues_of {i : Instr} {h : Hdr} {s : State} (e : issuesB i h s = true) : Issues i h s := by
  simp only [issuesB, Bool.and_eq_true, Option.any_eq_true, Option.isNone_iff_eq_none, Bool.not_eq_true'] at e
  obtain ⟨⟨⟨⟨⟨⟨st, hs, hl⟩, hc⟩, hg⟩, hq⟩, hb⟩, hm⟩ := e
  exact ⟨⟨st, hs, hl⟩, hc, hg, hq, hb, hm⟩

/-- Does an outcome hold a next state as asked? -/
def nextB (o : Host.Outcome State Fault Refusal) (p : State → Bool) : Bool :=
  match o with
  | .next t => p t
  | _ => false

theorem nextB_spec {o : Host.Outcome State Fault Refusal} {p : State → Bool} (h : nextB o p = true) :
    ∃ t, o = .next t ∧ p t = true := by
  cases o with
  | next t => exact ⟨t, rfl, h⟩
  | fault f => simp [nextB] at h
  | refused r => simp [nextB] at h

/-- Five NOPs, each a target (02 R62, R63). -/
def lineNops : Line := 0x407df012400000000000000000000012400000000000000000000012400000000000000000000012400000000000000000000012400000000000000000000

/-- Five NOPs, none a target. -/
def linePlain : Line := 0x4003f012400000000000000000000012400000000000000000000012400000000000000000000012400000000000000000000012400000000000000000000

/-- `add x3, x1, x2 || ld.i32 x4, [x10 + 8]`, the pair of the spec's fetch line (02, Example: one fetch line). -/
def linePair : Line := 0x1080100000000000000000000000000000000000000000000000000000000000000000000000013000001050000000008200010000000c082000000000000

/-- The same pair with the load first. -/
def linePairM : Line := 0x1080200000000000000000000000000000000000000000000000000000000000000000000000010000000c082000000000000130000010500000000082000

/-- One word of a major that does not exist. -/
def lineIll : Line := 0x30000000000000000000000

/-- A scratchpad address of core 0 (06 R251). -/
def spad : Word := 0xFF00000001C00000

/-- A hart of the placed launch on slot 0, stream X executing at instruction 5, both streams live: x1 = 7, x2 = 5, x10 = 64,
x12 = the scratchpad; a lane group, tiles of four elements; lines of instructions at bytes 64 and 128 of a mapped page. -/
def base : State :=
  let s := State.reset.withPlacedLaunch
  let h := s.hart 0
  let x := ((((h.sx.setX 1 7).setX 2 5).setX 10 64).setX 12 spad).setP 1 true
  { s with
    cur := .stream 0 true
    issue := Issue.single 5 0 4
    agenda := []
    harts := [(0, { h with sx := { x with pc := 5 }, lanes := 1, vl := 4 })]
    mem := { s.mem with
      l2 := [(1, ⟨lineNops, false⟩), (2, ⟨linePlain, false⟩)]
      atbase := 1
      tlbs := [(.core 0, placedLeaf), (.quad 0, placedLeaf)] } }

/-- The same with stream X in system mode. -/
def sys : State := base.upStream fun st => { st with priv := true }

/-- The datum core executing. -/
def dat : State :=
  { base with
    cur := .datum
    dc := { base.dc with core := { base.dc.core with live := true, strm := true } } }


/-- Does the instruction issue, and complete with its own effect? -/
noncomputable def doneB (i : Instr) (s : State) : Bool :=
  issuesB i ((Instr.hdr? i).map (·.2) |>.getD {}) s && nextB (Sys2Proof.Machine.exec i s) fun t => t.issue.res == .retired

/-- The events and legs that answer a next state. -/
noncomputable def actsB (i : Instr) (s : State) (p : State → Bool) : Bool := nextB (Sys2Proof.Machine.exec i s) p

/-- The executing stream is there, and is as asked. -/
def stB (s : State) (p : Stream → Bool) : Bool := (s.stream? s.cur).any p

/-- The vector instruction takes its place. -/
def entersB (w : Nat) (s : State) : Bool := okB (vecEnter w false false s) fun _ _ => true

/-- Little-endian fields (offset, bytes, value) in device memory from a place on. -/
def withFields (at_ : Nat) (fs : List (Nat × Nat × Nat)) (s : State) : State :=
  s.setMem { s.mem with
    hbm := fs.foldl (fun m (f : Nat × Nat × Nat) => m.setBytes (at_ + f.1) (leBytes f.2.1 f.2.2)) s.mem.hbm }

/-- x1 = address 4096, where a card or another block of fields stands. -/
def withCard (fs : List (Nat × Nat × Nat)) (s : State) : State :=
  withFields 4096 fs (s.upStream fun st => st.setX 1 4096)

/-- `base` with LE clear in stream X. -/
def plain : State := base.upStream fun st => { st with le := false }

/-- `base` with x5 = w. -/
def withX5 (w : Word) : State := base.upStream fun st => st.setX 5 w

/-! For each statement, a state and operands that meet its hypotheses. -/

/-- The instructions of every family issue in one small state. -/
def issuing : List Instr :=
  [.add {} false (.x 3) (.x 1) (.x 2), .addImm {} true (.x 0) (.x 63) (-1), .br {} .always (.x 0) (.x 0) 1,
   .jmp {} (.x 1), .callr {} (.x 62) (.x 5), .nop {}, .loop {} true (.imm 8191) 1, .lexit {} true,
   .movi {} (.x 0) 0, .pmovToP {} (.x 1), .wait {} (.x 0) 1, .yield {}, .halt {}, .trap {} 0, .srr {} (.x 1) 0x500,
   .srw {} 0x020 (.x 1), .ld {} .i32 (.x 4) ⟨.x 10, .x 0, 0, 0⟩, .atomCas {} .n64 none 1 (.x 2) 3 0,
   .fence {} .full .pkg, .vmov {} .n32 (.v 1) (.v 2), .vadd {} .f32 .rne (.v 0) (.v 63) (.x (.x 1)),
   .vcvt {} .bf16 .f32 .rne (.v 1) (.v 2), .vqblk {} .e4m3 .f32 .rne 0 (.v 1) (.v 2) (.v 3), .klog {} 0 0 7 7,
   .setvl {} .n32 (.x 1) 2, .strip {} .n32 1 2 3 4 0 0 0, .vred {} .add false .f32 .rne (.v (.v 1)) (.v 63),
   .vperm {} true true .n8 (.v 1) (.v 2) (.v 3), .rdv {} (.x 1), .vld {} .n32 (.v 1) ⟨.x 10, .x 0, 0, 0⟩,
   .vfence {} .rel .core, .pref {} false (.x 1) ⟨.x 10, .x 0, 0, 0⟩, .gset {} 7 (.x 1) (.x 2), .gsetFree {} 0,
   .vgall {} .n32 (.v 1) (.v 2) 0, .stream {} (.x 1) (.x 2), .armw {} (.x 1) ⟨.x 12, .x 0, 0, 0⟩, .jobwait {} (.x 1) (.x 2),
   .ovopen {} (.x 1), .ovset {} (.x 0), .ldo {} .i32 (.x 1) (.x 10) (.x 0) 0, .carve {} (.x 1) (.x 2),
   .cclean {} true (.x 1) ⟨.x 10, .x 0, 0, 0⟩, .digest {} (.x 1) (.x 2), .mattach {} (.x 1) (.x 2), .mdetach {},
   .mwld {} .own (.x 1) (.x 2), .mstream {} ⟨1, 0, false, false, .bf16, 127, 1⟩ (.x 0) (.x 1), .mzeroFp {} 0 128,
   .mdrain {} ⟨false, false, 0, .rne, .bf16, 0, 1, 0⟩ (.x 1) (.x 2), .msave {} (.x 1) ⟨.x 10, .x 0, 0, 0⟩,
   .tvload {} (.x 1) (.x 2) 0, .tvstat {} 0 (.x 1) (.x 2), .gzlook {} (.x 1) (.x 2), .gzwait {} (.x 1) (.x 2),
   .launch {} (.x 1) (.x 2), .trig {}, .bar {} 1, .lvlid {} 7 .count (.x 1), .mtick {} (.x 1), .svmark {} 0 (.x 1),
   .svsamp {} 20 (.x 1)]

theorem witness_issues : ∀ i ∈ issuing, Issues i {} base := by
  have h : issuing.all (fun i => issuesB i {} base) = true := by decide +kernel
  exact fun i hi => issues_of (List.all_eq_true.mp h i hi)

theorem witness_issues_system : ∀ i ∈ ([.eret {}, .fencei {}, .tlbiAll {}, .budget {} (.x 1) 15 .ual, .clklock {} 7 (.x 1),
    .svstop {} (.x 1) (.x 2)] : List Instr), Issues i {} sys := by
  have h : ([.eret {}, .fencei {}, .tlbiAll {}, .budget {} (.x 1) 15 .ual, .clklock {} 7 (.x 1),
    .svstop {} (.x 1) (.x 2)] : List Instr).all
    (fun i => issuesB i {} sys) = true := by decide +kernel
  exact fun i hi => issues_of (List.all_eq_true.mp h i hi)

theorem witness_issues_datum : ∀ i ∈ ([.fuserd {} (.x 1) (.x 2), .dsignPub {} (.x 1), .keywipeAll {} (.x 1), .lcset {} .prov (.x 1),
    .dbgopen {} 1 (.x 1), .mextend {} 0 (.x 1) (.x 2), .halt {}] : List Instr), Issues i {} dat := by
  have h : ([.fuserd {} (.x 1) (.x 2), .dsignPub {} (.x 1), .keywipeAll {} (.x 1), .lcset {} .prov (.x 1),
    .dbgopen {} 1 (.x 1), .mextend {} 0 (.x 1) (.x 2), .halt {}] : List Instr).all
    (fun i => issuesB i {} dat) = true := by decide +kernel
  exact fun i hi => issues_of (List.all_eq_true.mp h i hi)

/-- The turn of a stream of `base` whose line is l. -/
def turnOf (l : Line) (isX : Bool) : State :=
  { base with
    order := [.engine, .stream (.stream 0 isX)]
    cur := .stream 0 isX
    issue := Issue.single 5 0 0
    mem := { base.mem with l2 := [(1, ⟨l, false⟩)] } }

/-- StepRunsTheDecodedInstruction: nothing holds either stream, and its line is fetched: NOPs, a word that is no
instruction, a pair with its class S member first, and one with it second. -/
theorem witness_StepRuns_stream : ([lineNops, lineIll, linePair, linePairM].all fun l => [true, false].all fun x =>
    (((turnOf l x).stream? (.stream 0 x)).any fun st => st.live && st.faultWait.isNone && st.waiting.isNone && !st.yielded &&
      st.deferred.isEmpty && st.pc == 5) &&
    ((turnOf l x).hart 0).held.isNone && ((turnOf l x).hart 0).vfault.isNone && !(turnOf l x).sv.stopped &&
    okB (fetchLine 5 (turnOf l x)) (fun a _ => a == l)) = true := by decide +kernel

/-- The pair's members issue one after the other: ADD then LD, and LD then ADD. -/
theorem witness_StepRuns_pair :
    let add : Instr := .add {} false (.x 3) (.x 1) (.x 2)
    let ld : Instr := .ld {} .i32 (.x 4) ⟨.x 10, .x 0, 0, 8⟩
    let at_ := fun (n : Word) (first second : Bool) (t : State) =>
      ({ t with issue := ⟨n, 0, 1, first, second, 5, false, none, .none, none⟩ } : State)
    pairBit linePair 0 = true ∧ pairBit linePairM 0 = true ∧
    (nextB (Sys2Proof.Machine.exec add (at_ 5 true false base)) fun s1 => s1.issue.res == .retired &&
      nextB (Sys2Proof.Machine.exec ld (at_ 6 false true s1)) fun s2 => s2.issue.res != .waits) = true ∧
    (nextB (Sys2Proof.Machine.exec ld (at_ 5 true false base)) fun s1 => s1.issue.res == .retired &&
      nextB (Sys2Proof.Machine.exec add (at_ 6 false true s1)) fun s2 => s2.issue.res != .waits) = true := by
  refine ⟨by decide +kernel, by decide +kernel, by decide +kernel, by decide +kernel⟩

/-- A channel's turn with END, an event, and the lines of the datum core and of a hart's page. -/
theorem witness_StepRuns_others :
    let s : State := { State.reset.withLegWord 9 with
      agenda := []
      order := [.channel 0 0] }
    let d : State := { dat with dc := { dat.dc with sram := dat.dc.sram.setBytes 0 (Line.bytes lineNops) } }
    ((s.runEnv 0).any fun e => cardStopDetail e.k == none && e.k.faultWait.isNone && e.p.legs[e.c.leg]? == some 9) = true ∧
    (decodeLeg 9).isSome = true ∧ isEvent .meridianTick = true ∧
    Line.ofBytes (d.dc.sram.bytes (lineAddr 81920 - 0x100000) 64) = lineNops ∧ parityOk lineNops = true ∧
    lineLegal true lineNops = true ∧
    (let c := base.hartCtx base.cur 0 0
     let r := base.readCached c.core 0 (placedLeaf.phys (lineAddr 5) / 64)
     base.mem.tlbHit c.tlbs c.asid (lineAddr 5) = some placedLeaf ∧ placedLeaf.allows c.user .fetch = true ∧
       placedLeaf.mt = 0 ∧ budgetHeld base c placedLeaf (lineAddr 5) = false ∧ r.2.1 = false ∧ r.1 = lineNops ∧
       (base.stream base.cur).declined = none ∧ (base.hart 0).sideLog = [] ∧ (base.hart 0).trains = [] ∧ base.mem.rounds = []) :=
  by decide +kernel

/-- StepsKeepMemoryCanonical: the machine after reset, and one byte written to device memory. -/
theorem witness_StepsKeep : Memory.wf State.reset.mem.hbm = true ∧ nextB (step State.reset) (fun _ => true) = true ∧
    Memory.wf ({ base with mem := { base.mem with hbm := [(4096, 1)] } } : State).mem.hbm = true := by decide +kernel

/-- ScalarArithmeticIsExact, BitFieldsAndSelects: sources and destinations from either end of the register file and from
queues, every operation. -/
theorem witness_scalar :
    (aluTable.all fun op => issuesB (op.1 {} true (.q 4) (.x 63) (.q 0)) {} (base.upHart fun h => { h with q := [(0, [9])] }) &&
      issuesB (op.2.1 {} false (.x 0) (.x 0) (-1)) {} base) = true ∧
    (aluTable1.all fun op => issuesB (op.1 {} false (.x 63) (.x 1)) {} base) = true ∧
    (([.bfx {} true (.x 1) (.x 2) (.x 3), .bfxImm {} false (.x 1) (.x 2) 0x7FF, .bfi {} (.x 1) (.x 2) (.x 3) (.x 4),
      .bfiImm {} 63 (.x 2) 64, .sel {} (.x 1) (.x 2) (.x 3) 7, .selImm {} (.x 1) (.x 2) (-1) 0,
      .lea {} 3 (.x 1) (.x 2) (.x 3), .leaImm {} 3 (.x 1) (.x 2) 1] : List Instr).all fun i => issuesB i {} base) = true := by
  decide +kernel

/-- MovesAndPredicates: the result of each comparison exists, for `.eq` as for the others. -/
theorem witness_compares (c : CmpCond) (w : Bool) : ∃ res : Word → Word → Bool, ∀ x y, res x y = true ↔ cmpHolds c w x y :=
  ⟨fun x y => by classical exact decide (cmpHolds c w x y), fun _ _ => by simp⟩


/-- ScalarRegisterFrame, RetiringCountsAndGoesOn, TrapEntersTheHandler: no loop or strip ends, alone. -/
theorem witness_plain : PlainEnd plain ∧ Alone plain ∧ plain.reqs = [] ∧ Issues (.add {} false (.x 3) (.x 1) (.x 2)) {} plain ∧
    Issues (.trap {} 5) {} plain ∧ (plain.stream plain.cur).depth ≠ 3 ∧ plain.issue.last ≤ 4 ∧
    nextB (Sys2Proof.Machine.exec (.add {} false (.x 3) (.x 1) (.x 2)) plain) (fun _ => true) = true :=
  ⟨by unfold PlainEnd; decide +kernel, by unfold Alone; decide +kernel, by decide +kernel, issues_of (by decide +kernel),
    issues_of (by decide +kernel), by decide +kernel, by decide +kernel, by decide +kernel⟩


/-- TransfersGoToTheirTargets: a condition that holds and one that fails, a legal target, the first number beyond the last
instruction and the last one, and a slot that is no target. -/
theorem witness_transfers :
    (withX5 6).xval (.x 5) ≠ (withX5 6).xval (.x 1) ∧
    okB (checkTarget 6 (withX5 6)) (fun _ _ => true) = true ∧ okB (checkTarget (5 + (4 : BitVec 40).signExtend 64) base) (fun _ _ => true)
      = true ∧
    issuesB (.callr {} (.x 62) (.x 5)) {} (withX5 (BitVec.ofNat 64 Config.instrEnd)) = true ∧
    Config.instrEnd ≤ ((withX5 (BitVec.ofNat 64 Config.instrEnd)).xval (.x 5)).toNat ∧
    ((withX5 (BitVec.ofNat 64 (Config.instrEnd - 1))).xval (.x 5)).toNat < Config.instrEnd ∧
    okB (fetchTarget 10 (withX5 10)) (fun l _ => l == some linePlain) = true ∧ tgtBit linePlain (10 % 5) = false := by
  decide +kernel

/-- BranchQueuesAndLoops: a full bit each way, a count of 0 and one of 1. -/
theorem witness_queues_loops :
    let s := base.upHart fun h => { h with bqa := [true, false] }
    issuesB (.brq {} true 1) {} s = true ∧ issuesB (.brq {} false 1) {} s = true ∧ (s.hart 0).bqa = [true, false] ∧
    okB (checkTarget 6 s) (fun _ _ => true) = true ∧ issuesB (.pushb {} false 1) {} s = true ∧
    issuesB (.loop {} false (.reg (.x 0)) 1) {} s = true ∧ base.xval (.x 0) = 0 ∧ base.xval (.x 1) ≠ 0 ∧
    okB (succAny (base.issue.n + (4 : BitVec 40).signExtend 64) base) (fun n _ => n == 10) = true := by decide +kernel

/-- `base` with a loop 0 and a loop 1, LE set. -/
def looping (lc0 lc1 ls0 le1 : Word) : State := base.upStream fun st => { st with
  le := true
  le0 := 5
  lc0 := lc0
  ls0 := ls0
  le1 := le1
  lc1 := lc1
  ls1 := 2 }

/-- `base` with a STRIP whose body ends here: the count in x1 = 7, pointers x2 and x10, vl = 4. -/
def striped (n : Word) : State := (base.upStream fun st => { st.setX 1 n with
  stripAct := true
  stripEnd := 5
  stripArgs := [1, 2, 0, 10, 2, 0, 3, 64, 1] })

/-- EndActionsOfLoopsAndStrips: LE clear; loop 0 with two passes left, one left, and with none; loop 1 behind a loop 0 that
is over, with two left; a loop start at the first number beyond the last instruction; a strip with elements left and one
with none. -/
theorem witness_endActions :
    (stB plain (fun st => !st.le && !st.stripAct) && !plain.issue.second &&
    stB (looping 2 0 1 9) (fun st => st.le && !st.stripAct && st.le0 == (looping 2 0 1 9).issue.n && decide (1 < st.lc0.toNat) &&
      decide (st.ls0.toNat < Config.instrEnd)) &&
    stB (looping 1 0 1 9) (fun st => decide (st.lc0.toNat ≤ 1) && st.le1 != 5) &&
    stB (looping 0 2 1 5) (fun st => st.le0 == 5 && st.le1 == 5 && decide (st.lc0.toNat ≤ 1 ∧ 1 < st.lc1.toNat ∧ st.ls1.toNat < Config.instrEnd)) &&
    stB (looping 2 0 (BitVec.ofNat 64 Config.instrEnd) 5) (fun st => decide (Config.instrEnd ≤ st.ls0.toNat)) &&
    stB (striped 7) (fun st => st.getX 1 - BitVec.ofNat 64 ((striped 7).hart 0).vl.toNat != 0) &&
    stB (striped 4) (fun st => st.getX 1 - BitVec.ofNat 64 ((striped 4).hart 0).vl.toNat == 0)) = true := by decide +kernel

/-- StatusRegistersReadAndWritten: registers that user mode reads and writes, one that it only reads, the first of those that
it may not read, a number that names none, and system mode. -/
theorem witness_sregs :
    ([0x011, 0x020, 0x500].all (fun n : BitVec 12 => (base.sreg base.cur n.toNat).isSome) &&
      !sregHidden 0x500 && !sregGuarded 0x020 && !(stB base fun st => st.priv) && stB sys (fun st => st.priv) &&
      sregHidden 0x010 && sregGuarded 0x010 && sregGuarded 0x105 && (base.sreg base.cur 0x105).isSome &&
      (base.sreg base.cur 0xFFF).isNone && [0x020, 0xFFF].all (fun n => issuesB (.srr {} (.x 0) n) {} base &&
        issuesB (.srw {} n (.x 63)) {} base) && issueTrap base (.srr {} (.q 0) 0x010) == some (causePriv, 0) &&
      issueTrap base (.srw {} 0x105 (.q 4)) == some (causePriv, 0) && issueTrap base (.srr {} (.q 0) 0x020) == some (causeQdir, 64) &&
      [0x020, 0x010, 0x508].all (fun n => doneB (.srr {} (.q 4) n) sys && doneB (.srw {} n (.x 1)) sys)) = true := by
  decide +kernel

/-- WaitYieldFenceiHalt: a WAIT with a limit alone and one with a line alone, a partner stream that goes on and one that has
ended, and a hart whose vector and matrix work is done. -/
theorem witness_wait :
    (doneB (.wait {} (.x 0) 1) plain && doneB (.wait {} (.x 10) 0) plain && doneB (.yield {}) plain && doneB (.fencei {}) sys &&
      doneB (.fencei {}) dat && doneB (.halt {}) dat && doneB (.halt {}) base &&
      ((base.hart 0).stream false).live && (base.hart 0).inflight.isEmpty && !base.matrixBusy 0 &&
      (let last := base.upHart fun h => { h with sa := { h.sa with live := false } }
       !((last.hart 0).stream false).live && (last.hart 0).inflight.isEmpty && !last.matrixBusy 0 && doneB (.halt {}) last)) =
      true := by decide +kernel

/-- `base` in system mode at DEPTH d, with the trap return pc given. -/
def trapped (d : Fin 4) (tpc : Word) : State := sys.upStream fun st => { st with
  depth := d
  tpc := tpc }

/-- TrapEntrySavesAndEnters, EretRestores: DEPTH 0, 2 and 3, a tpc at the last instruction and one beyond it. -/
theorem witness_traps :
    (stB base (fun st => st.depth != 3) && stB (trapped 2 7) (fun st => st.depth != 3) && stB (trapped 3 7) (fun st => st.depth == 3) &&
      (base.launch? (base.hart 0).serial).isSome && ({ dat.dc.core with depth := 3 }).depth == 3 &&
      [trapped 0 7, trapped 1 7, trapped 3 (BitVec.ofNat 64 (Config.instrEnd - 1)), trapped 1 (BitVec.ofNat 64 Config.instrEnd)].all
        (fun s => issuesB (.eret {}) {} s && s.reqs.isEmpty)) = true := by decide +kernel

/-- `base` with an allotment of one register. -/
def small : State := base.upHart fun h => { h with allot := 1 }

/-- A guard that is false: not p0. -/
def never : Hdr := { gpn := true, gp := 0 }

/-- IssueChecksComeFirst, GuardsAndQueuesHoldBack: a register at the allotment, a queue against its direction, a privileged
instruction in user mode, a vector instruction for the datum core, a guard that is false, an empty queue, a full one. -/
theorem witness_checks :
    (issueTrap small (.vmov {} .n32 (.v 0) (.v 1)) == some (causeRegallot, 1) && issuesB (.vmov {} .n32 (.v 0) (.v 0)) {} small &&
      issueTrap base (.add {} false (.q 0) (.x 1) (.x 2)) == some (causeQdir, 64) &&
      issueTrap base (.eret {}) == some (causePriv, 0) && systemOnly (.eret {}) && !stepTwoBad base (.eret {}) &&
      stepTwoBad dat (.vmov {} .n32 (.v 0) (.v 0)) && stB dat (fun st => st.live) &&
      !guardTrue (base.stream base.cur) never && !stepTwoBad base (.nop never) &&
      queueBlocked base (.add {} false (.x 1) (.q 0) (.x 2)) == some 0x140 &&
      (let full := base.upHart fun h => { h with q := [(4, List.replicate 16 0)] }
       (issueTrap full (.movi {} (.q 4) 0)).isNone && queueBlocked full (.movi {} (.q 4) 0) == some 0x144)) = true := by decide +kernel

/-- ScalarLoadsAndStores, ScratchpadHolds: the first and last places of a page and of the scratchpad, an aligned and a
misaligned address, a scope with and without work. -/
theorem witness_loads :
    (doneB (.ld {} .i64 (.x 3) ⟨.x 10, .x 0, 0, 0⟩) base && doneB (.lda {} .n16 .pkg (.x 3) ⟨.x 10, .x 0, 0, 0xFFBE⟩) base &&
      doneB (.st {} .n8 (.x 1) ⟨.x 10, .x 1, 3, 0⟩) base && doneB (.str {} .n32 .pod (.x 1) ⟨.x 10, .x 0, 0, 0⟩) base &&
      issuesB (.ld {} .i64 (.x 3) ⟨.x 10, .x 0, 0, 1⟩) {} base && (base.xval (.x 10) + 1).toNat % Ty.size .i64 != 0 &&
      (okB (scalarLoad 0 spad.toNat 8 base) fun v _ => v == 0) && okB (scalarStore 0 (spad.toNat + 65528) 8 7 false base) (fun _ _ => true) &&
      ((base.core 0).scratch? (base.hart 0).serial).isSome && addrKind 0 spad.toNat == .scratch 0 0 && (base.hart 0).sideLog.isEmpty) =
      true := by decide +kernel

/-- AtomicsReturnTheOldValue: each operation, with and without a scope, and CAS. -/
theorem witness_atomics :
    (atomTable.all (fun op => doneB (op.1 {} .n64 none 1 ⟨.x 10, .x 0, 0, 0⟩) base &&
        doneB (op.1 {} .i32 (some .core) 63 ⟨.x 10, .x 0, 0, 4⟩) base) &&
      doneB (.atomCas {} .n64 (some .pod) 1 (.x 10) 3 0) base && doneB (.atomCas {} .i32 none 0 (.x 10) 3 4) base) = true := by
  decide +kernel

/-- FencesDrainAndForget: every kind at the ends of the scopes, for FENCE, VFENCE and the datum core. -/
theorem witness_fences :
    ([FenceKind.rel, .acq, .full].all (fun k => [Scope.core, .pkg, .pod].all fun sc => doneB (.fence {} k sc) base && doneB (.vfence {} k sc) base &&
        doneB (.fence {} k sc) dat) && stB base (fun st => st.stage == 0 && st.hash == st.hashShadow) && entersB 32 base &&
      (base.hart 0).sideLog.isEmpty && (base.hart 0).trains.isEmpty && base.mem.rounds.isEmpty) = true := by decide +kernel

/-- VectorMemoryInstructionsComplete: every form, at 64 + 4 i, over the index 0. -/
theorem witness_vectorMemory :
    (entersB 32 base && entersB 8 base &&
      ([.vld {} .i32 (.v 1) ⟨.x 10, .x 0, 0, 0⟩, .vst {} .n32 (.v 1) ⟨.x 10, .x 0, 0, 0⟩, .vlds {} .n8 (.v 1) ⟨.x 10, .x 2, 3, 0⟩,
        .vsts {} .n8 (.v 1) ⟨.x 10, .x 2, 0, 0⟩, .vldx {} .i32 false (.v 1) (.x 10) (.v 2) 2 0, .vldx {} .n16 true (.v 1) (.x 10) (.v 2) 0 0,
        .vstx {} .i32 false (.v 1) (.x 10) (.v 2) 2 0, 
        .vstxa {} .f32 false (.v 1) (.x 10) (.v 2) 2 0, .pref {} true (.x 1) ⟨.x 10, .x 0, 0, 0⟩] : List Instr).all
          (fun i => doneB i base) &&
      doneB (.vstu {} .i32 true (.v 1) (.x 10) (.v 2) 2 0) (base.upHart fun h => { h with vl := 1 })) = true := by decide +kernel

/-- VectorWritesOnlyItsElements: the last element of a register of each kind of element. -/
theorem witness_vectorWrites : topByte .n8 4095 < 4096 ∧ topByte .i64 511 < 4096 ∧ topByte .e3m2 4095 < 4096 ∧ topByte .e2m1 8191 < 4096 ∧
    (([(4095, 1), (0, 2)] : List (Nat × Nat)).map Prod.fst).Nodup := by decide +kernel

/-- MaintenanceInstructionsComplete, DigestAndBudget: no walk under way; ASID 0 and 65535; a carve of 0 and of all ways;
ranges of one line; a launch that the engine does not hold. -/
theorem witness_maintenance :
    ([.carve {} (.x 3) (.x 0), .carve {} (.x 3) (.x 10), .cclean {} false (.x 1) ⟨.x 10, .x 0, 0, 0⟩, .cinv {} true (.x 1) ⟨.x 10, .x 0, 0, 0⟩,
        .cflush {} true (.x 1) ⟨.x 10, .x 0, 0, 0⟩, .tlbiAll {}, .tlbiAsid {} (.x 1), .tlbiAsid {} (.x 13), .tlbiRange {} (.x 0) (.x 10) (.x 1),
        .digest {} (.x 3) (.x 14), .digestRng {} (.x 3) (.x 10) (.x 10), .budget {} (.x 3) 15 .ual, .budgetW {} (.x 3) (.x 1) 0 .hbm] :
      List Instr).all (fun i => doneB i (sys.upStream fun st => (st.setX 13 65535).setX 14 99)) = true ∧ sys.mem.walks = [] ∧
    (sys.launch? 99).isNone = true ∧ okB (release 2 sys) (fun _ _ => true) = true ∧ sys.la.cards = [] := by decide +kernel

/-- Four NOPs and, in slot 1, `vmov.n32 v1, v2` with E: the end of a strip that stands before it. -/
def lineStrip : Line := 0x407df0124000000000000000000000124000000000000000000000124000000000000000000002200004041000000a0000000012400000000000000000000

/-- `base` before such a line. -/
def stripping : State := { base with mem := { base.mem with l2 := [(1, ⟨lineStrip, false⟩), (2, ⟨linePlain, false⟩)] } }

/-- ElementwiseWithoutRounding: each operation, on registers and on an x register, on signed, unsigned and plain elements. -/
theorem witness_elementwise :
    (entersB (widest [.n8]) base && vecTable1.all (fun op => doneB (op.1 {} .n8 (.v 63) (.v 0)) base && doneB (op.1 {} .n32 (.v 63) (.v 0)) base) &&
      vecTable2.all (fun op => doneB (op.1 {} .n32 (.v 63) (.v 0) (.x (.x 1))) base && doneB (op.1 {} .i8 (.v 1) (.v 2) (.v (.v 3))) base) &&
      doneB (.vimad {} .i16 (.v 1) (.v 2) (.v (.v 3)) (.x (.x 1))) base && doneB (.vclip {} .i16 (.v 1) (.v 2) (.v (.v 3)) (.x (.x 1))) base) = true := by
  decide +kernel

/-- ElementwiseRounded: each operation, under rmode and under modes of its own; a finite value of a floating type. -/
theorem witness_rounded :
    (vecRounded1.all (fun op => doneB (op.1 {} .f32 .dyn (.v 1) (.v 2)) base) &&
      vecRounded2.all (fun op => doneB (op.1 {} .bf16 .rup (.v 1) (.v 2) (.v (.v 3))) base) &&
      vecRounded3.all (fun op => doneB (op.1 {} .f16 .rtz (.v 1) (.v 2) (.v (.v 3)) (.x (.x 2))) base) &&
      doneB (.vcvt {} .e4m3 .f32 .sr (.v 1) (.v 2)) base && doneB (.vcvt {} .i8 .f32 .rne (.v 1) (.v 2)) base &&
      (Ty.fmt .f32).isSome && (match Ty.decode .f32 0x3F800000 with | .fin _ _ _ _ => true | _ => false)) = true := by decide +kernel

/-- MasksBroadcastsAndSelects. -/
theorem witness_masks :
    (doneB (.vcmp {} .lt .f32 1 (.v 1) (.v (.v 2))) base && doneB (.twosum {} .f32 .rne (.v 1) (.v 2) (.v 3) (.v (.v 4))) base &&
      doneB (.vbcast {} .n32 (.v 1) (.x 1)) base && doneB (.viota {} true .n16 (.v 1)) base && doneB (.viota {} false .n32 (.v 1)) base &&
      doneB (.vsel {} .n32 (.v 1) (.v 2) (.x (.x 1)) 7) base && doneB (.vldi {} .f32 (.v 1) 0x3F800000) base &&
      doneB (.vrand {} .f32 (.v 1)) base && doneB (.vrand {} .n32 (.v 1)) base) = true := by decide +kernel

/-- BlockFormats: the first and the last byte of scales. -/
theorem witness_blocks :
    (doneB (.vqblk {} .e4m3 .f32 .rne 0 (.v 1) (.v 2) (.v 3)) base && doneB (.vdqblk {} .f32 .e4m3 .rne 127 (.v 1) (.v 2) (.v 3)) base &&
      doneB (.vplane {} (.v 1) (.v 2)) base && doneB (.vunplane {} 8 (.v 1) (.v 2)) base) = true := by decide +kernel

/-- `base` with a mask stack. -/
def stacked (l : List Mask) : State := base.upHart fun h => { h with mstack := l }

/-- MaskStackInstructions: a stack of 15 takes one more; the top is turned and dropped; a loop goes on and ends. -/
theorem witness_maskStack :
    (doneB (.klog {} 6 2 3 4) base && doneB (.kcnt {} (.x 3) 0) base && doneB (.kfirst {} (.x 3) 1) base && doneB (.kfirst {} (.x 3) 2) base &&
      doneB (.mpush {} 7) (stacked (List.replicate 15 0)) && doneB (.minv {}) (stacked [1, 3]) && doneB (.mpop {}) (stacked [1]) &&
      doneB (.mbrz {} true 1) base && doneB (.mbrz {} false 1) base && doneB (.vtrip {} .n32 (.v 1) (.v 2)) (stacked (List.replicate 15 0)) &&
      doneB (.mloop {} .n32 (.v 1) 1) (stacked [0xF]) && doneB (.mloop {} .n32 (.v 1) 1) ((stacked [0xF]).upHart fun h => h.setV 1 [(0, 2)] none)) =
      true := by decide +kernel

/-- ReductionsAndScans, Permutations, SelectionAndSorting: over the tile and over rows, to registers of either class. -/
theorem witness_junction :
    ([.vred {} .add false .f32 .rne (.v (.v 1)) (.v 2), .vred {} .min true .i8 .rne (.v (.v 1)) (.v 2),
      .vred {} .add false .f32 .rne (.x (.x 3)) (.v 2), .vscan {} .add true .f32 .rne (.v 1) (.v 2),
      .vredp {} false .f32 (.v (.v 1) (.v 2)) (.v 3) none, .vredp {} true .f32 (.v (.v 1) (.v 2)) (.v 3) (some (.v 4)),
      .vredp {} false .f32 (.x (.x 3) (.x 4)) (.v 3) none, .vredp {} false .f32 (.x (.x 3) (.x 4)) (.v 3) (some (.v 4)),
      .vperm {} true true .n8 (.v 1) (.v 2) (.v 3), .vperm {} false false .n8 (.v 1) (.v 2) (.v 3),
      .vslide {} false true .n32 (.v 1) (.v 2) (.x 1), .vzip {} true false .n32 (.v 1) (.v 2) (.v 3),
      .vunzip {} false true .n32 (.v 1) (.v 2) (.v 3), .vtrn {} .n32 (.v 1) (.v 2), .vcompress {} true .n32 (.v 1) (.v 2) (.x 3),
      .vexpand {} true .n32 (.v 1) (.v 2), .vextr {} .n32 (.x 3) (.v 2) (.x 1), .vinsr {} .n32 (.v 2) (.x 1) (.x 0),
      .vsortk {} true .f32 (.v 5) (.v 6) (.v 4) (.x 1), .rdv {} (.x 3)] : List Instr).all (fun i => doneB i base) = true := by
  decide +kernel

/-- TileShapeAndAllotment: nothing asked, something, and all there is; a strip over no elements and over seven. -/
theorem witness_shape :
    (doneB (.setvl {} .n32 (.x 3) 0) base && doneB (.setvl {} .n32 (.x 3) 63) (base.upStream fun st => st.setX 63 (2 ^ 64 - 1)) &&
      doneB (.setvlRel {} (.x 3)) base && doneB (.setrc {} .n32 (.x 3) 1) base && doneB (.setrc {} .n32 (.x 3) 0) base &&
      doneB (.alloc {} (.x 3) 10) (base.upHart fun h => { h with allot := 1 }) && doneB (.shrink {} (.x 3) 1) base && doneB (.shrink {} (.x 3) 0) base &&
      doneB (.strip {} .n32 1 2 3 10 0 0 0) stripping && doneB (.strip {} .n32 0 2 3 10 0 0 0) stripping) = true := by decide +kernel

/-- `base` with its launch changed. -/
def withLaunch (f : Launch → Launch) (s : State) : State := s.updLaunch placedSerial f

/-- A group descriptor: two members, scope clu, an exchange area (07 R313, R314). -/
def groupDesc : List (Nat × Nat × Nat) := [(0, 2, 2), (2, 1, 2), (8, 8, 32768), (16, 8, 12288)]

/-- `base` as the one member of a group in g7. -/
def grouped : State := withLaunch (fun l => { l with groups := [(0, ⟨32768, 12288, 2, true, 1, 0, 0, 0, 0, 0, 0, false⟩)] })
  (base.upHart fun h => { h with g := [(7, ⟨0, 1, 0⟩)] })

/-- A copy of 4 bytes from 8192 to 12288 (07 R320). -/
def copyFields : List (Nat × Nat × Nat) := [(64, 8, 8192), (72, 8, 12288), (96, 8, 4), (104, 8, 1), (112, 8, 1), (120, 8, 1), (144, 8, 1),
  (168, 8, 1), (192, 8, 1), (216, 8, 1)]

/-- A load of weights from the scratchpad: WSRC, PITCH, WFMT of bf16 (11 R447). -/
def weightFields : List (Nat × Nat × Nat) := [(64, 8, spad.toNat), (88, 4, 4096), (92, 4, 9)]

/-- `base` with a completed card of a kind of job, named by x1. -/
def withDone (j : Job) (s : State) : State := (s.upStream fun st => st.setX 1 (BitVec.ofNat 64 (Job.kind j * 2 ^ 60))).setLa
  { s.la with cards := [{ placedCard with
    job := j
    handle := BitVec.ofNat 64 (Job.kind j * 2 ^ 60)
    completed := some .ok }] }

/-- `base` with room for four tags. -/
def tagged : State := withLaunch (fun l => { l with info := { l.info with tagq := 4 } }) base

/-- The same with tag 1 held; its word is in x1. -/
def held : State := ({ tagged with ov := { tagged.ov with holder := [(1, placedSerial)] } } : State).upStream fun st => st.setX 1 16

/-- `base` with one row of its own array, whose weights are bf16; x14 = its tile buffer. -/
def attached : State :=
  let s := base.attach 0 1 false [0]
  (s.setArray 0 { s.array 0 with bank0 := { (s.array 0).bank0 with fmt := 9 } }).upStream fun st =>
    ((st.setX 14 0xFF00000002000000).setX 15 256).setX 16 128

/-- A traverse program at 4096: header and one leg, END (12 R476, R481); its slot table at 8192, all free; TVLOAD's block at 12288. -/
def programmed : State := (withFields 4096 [(0, 4, 0x54524156), (4, 1, 1), (6, 2, 1), (16, 1, 9)] (withFields 12288 [(0, 8, 4096), (8, 8, 8192)] grouped)).upStream
  fun st => st.setX 1 12288

/-- The placed run's program as a loaded one; x1 names it. -/
def loaded : State := ({ grouped with tv := { grouped.tv with progs := [(0, { placedProgram 9 with gidx := 0 })] } } : State).upStream
  fun st => st.setX 1 (progHandle 0 0 0)

/-- A table of 8 f32 rows of two in the directory (13 R527, R528), its entry read: V, FMT, ROWB, NSEG, ROWS, RPITCH, VBASE0, VBASE1. -/
def tabled : State := { base with gz := { base.gz with
  dbase := 1
  dir := [(0, leBytes 128 (2 ^ 16 + 8 * 2 ^ 24 + 8 * 2 ^ 32 + 2 ^ 48 + 8 * 2 ^ 64 + 64 * 2 ^ 96 + 20480 * 2 ^ 128 + 24576 * 2 ^ 192))] } }

/-- The fields of a lookup of no rows (13 R531). -/
def lookFields : List (Nat × Nat × Nat) := [(64, 8, 8192), (88, 8, 12288), (104, 4, 64)]

/-- GroupsAndCollectives: a rank below the count, an entry given up and one never taken, and a group of one, which has arrived. -/
theorem witness_groups :
    (doneB (.gset {} 7 (.x 1) (.x 0)) (withCard groupDesc base) && doneB (.gsetFree {} 7) grouped && doneB (.gsetFree {} 0) grouped &&
      doneB (.vgall {} .n32 (.v 1) (.v 2) 7) grouped && doneB (.vgred {} .add .f32 (.v 1) (.v 2) 7) grouped &&
      doneB (.vgrs {} .add .f32 (.v 1) (.v 2) 7) grouped && doneB (.vgbc {} .n32 (.v 1) (.v 2) 7 (.x 0)) grouped &&
      (List.range 2).all fun k => ([⟨1, 0, 0, k, (0, 0, .n32, 0, 0), 0, false, [k], [], false⟩, ⟨1, 0, 0, 1 - k, (0, 0, .n32, 0, 0), 0, false, [1 - k], [], false⟩] :
        List Arrival).any fun a => a.rank == k && a.contrib == [k]) = true := by decide +kernel

/-- CardsCopiesAndArrivalWords: a card, a word whose generation is 0 and one behind it, a completed copy. -/
theorem witness_cards :
    (doneB (.stream {} (.x 3) (.x 1)) (withCard copyFields base) && doneB (.armw {} (.x 1) ⟨.x 12, .x 0, 0, 0⟩) base &&
      doneB (.waitw {} (.x 3) ⟨.x 12, .x 0, 0, 16⟩) base && doneB (.jobwait {} (.x 3) (.x 1)) (withDone (.stream []) base)) = true := by
  decide +kernel

/-- TagsOpenAndEnd: tags free, one held, and a quota of none. -/
theorem witness_tags :
    (doneB (.ovopen {} (.x 3)) tagged && doneB (.ovopenTry {} (.x 3) 1) tagged && doneB (.ovopenTry {} (.x 3) 1) base &&
      ([.ovset {} (.x 1), .ovretire {} (.x 3) (.x 1), .ovcommit {} .pod (.x 3) (.x 1), .ovcommit {} .core (.x 3) (.x 1),
        .ovstat {} 0 (.x 3) (.x 1), .ovstat {} 1 (.x 3) (.x 1), .ovstat {} 2 (.x 3) (.x 0), .ovstat {} 0 (.x 3) (.x 0),
        .ldo {} .i32 (.x 3) (.x 10) (.x 1) 0, .vldo {} .n32 (.v 3) (.x 10) (.x 1) 0] : List Instr).all fun i => doneB i held) = true := by
  decide +kernel

/-- MatrixCommandsEnterTheOrder, MatrixResultsComeBack: rows asked for and none, the only row, no lines, one and two, each kind of
command that comes back. -/
theorem witness_matrix :
    (doneB (.mattach {} (.x 3) (.x 1)) base && doneB (.mattach {} (.x 3) (.x 0)) base && doneB (.mattachPair {} (.x 3) (.x 1)) base &&
      doneB (.mwld {} .own (.x 3) (.x 1)) (withCard weightFields attached) &&
      ([.mdetach {}, .mzeroFp {} 0 1, .mzeroInt {} 0 1, .mstream {} ⟨1, 0, false, false, .bf16, 0, 1⟩ (.x 0) (.x 14),
        .mdrain {} ⟨false, false, 0, .rne, .bf16, 0, 1, 0⟩ (.x 10) (.x 2), .mdrainIdx {} ⟨false, false, 0, .rne, .bf16, 0, 1, 0⟩ (.x 10) (.v 2),
        .msave {} (.x 3) ⟨.x 10, .x 0, 0, 0⟩, .mstat {} 0 (.x 3) (.x 0), .mstat {} 1 (.x 3) (.x 0), .mstat {} 2 (.x 3) (.x 0),
        .mstat {} 3 (.x 3) (.x 0), .mlineEmpty {} (.x 0) ⟨.x 14, .x 0, 0, 0⟩, .mlineWempty {} (.x 0) ⟨.x 14, .x 0, 0, 0⟩,
        .mlineFull {} (.x 0) ⟨.x 14, .x 0, 0, 0⟩, .mlineWfull {} (.x 0) ⟨.x 14, .x 0, 0, 0⟩, .mlineEmpty {} (.x 16) ⟨.x 14, .x 0, 0, 0⟩,
        .mlineFull {} (.x 16) ⟨.x 14, .x 0, 0, 0⟩, .mlineWempty {} (.x 15) ⟨.x 14, .x 0, 0, 0⟩] : List Instr).all (fun i => doneB i attached) &&
      doneB (.mlineWfull {} (.x 15) ⟨.x 14, .x 0, 0, 0⟩) (attached.setArray 0 { attached.array 0 with full := [0, 1] }) &&
      actsB (.mlineFull {} (.x 15) ⟨.x 14, .x 0, 0, 0⟩) attached (fun t => t.issue.res == .waits && (t.array 0).full == [0] &&
        (stB t fun st => st.stage == 1) && actsB (.mlineFull {} (.x 15) ⟨.x 14, .x 0, 0, 0⟩) { t with issue := attached.issue }
          fun u => u.issue.res == .retired && (u.array 0).full == [0, 1]) &&
      doneB (.mwait {} (.x 3) (.x 1)) (withDone (.weight [] .own []) attached)) = true := by decide +kernel

/-- TraverseInstructionsComplete: a good program, one loaded, its card, a completed run. -/
theorem witness_traverse :
    (doneB (.tvload {} (.x 3) (.x 1) 7) programmed && doneB (.tvloadFree {} (.x 1)) loaded &&
      doneB (.tvstart {} 16 (.x 3) (.x 4)) (withFields 4096 [(64, 8, (progHandle 0 0 0).toNat)] (loaded.upStream fun st => st.setX 4 4096)) &&
      doneB (.tvwait {} (.x 3) (.x 1)) (withDone (.traverse 0 0 0) base) && doneB (.tvstat {} 0 (.x 3) (.x 1)) loaded &&
      doneB (.tvstat {} 1 (.x 3) (.x 0)) loaded && doneB (.tvstat {} 2 (.x 3) (.x 1)) loaded) = true := by decide +kernel

/-- GazetteerInstructionsComplete: a table of eight rows, lookups and updates of none, its first row pinned. -/
theorem witness_gazetteer :
    (doneB (.gzlook {} (.x 3) (.x 1)) (withCard lookFields tabled) && doneB (.gzupdate {} (.x 3) (.x 1)) (withCard lookFields tabled) &&
      doneB (.gzver {} 1 (.x 3) (.x 0)) tabled && doneB (.gzwait {} (.x 3) (.x 1)) (withDone (.lookup [] 0) tabled) &&
      doneB (.gzpin {} 1 (.x 3) (.x 0) (.x 0)) tabled && doneB (.gzpinUn {} 1 (.x 3) (.x 0) (.x 0)) tabled) = true := by decide +kernel

/-- The fields of a launch record of one hart (04 R148). -/
def recordFields : List (Nat × Nat × Nat) := [(0, 4, 1 + 2 ^ 8 + 2 * 2 ^ 15), (8, 8, 5), (80, 4, 4 + 2 ^ 7)]

/-- `base` whose launch has a level of one core's harts (04 R148). -/
def levelled : State := withLaunch (fun l => { l with info := { l.info with
  nlev := 2
  levels := [⟨2, 1, 1, 1⟩] } }) base

/-- The placed run about to run the leg with bits w, its card with the whole scratchpad as its region. -/
def onChannel (w : BitVec 128) : State :=
  let s := State.reset.withLegWord w
  { s with
    agenda := []
    curChan := 0
    la := { s.la with cards := [{ placedCard with regions := [⟨3, 0x400000, 0xFF00000001C00000⟩] }] } }

/-- A leg acts on channel 0, and leaves the channel and its card as asked. -/
noncomputable def legB (i : Instr) (s : State) (p : Chan → Bool) : Bool :=
  ((s.runEnv s.curChan).any fun e => cardStopDetail e.k == none && e.k.faultWait.isNone &&
    e.p.legFault (some i) e.c.it0 e.c.it1 == 0) &&
  actsB i s fun t => ((t.tv.chans.get? 0).any p) && t.la.cards.all fun k => k.stop.isNone && k.faultWait.isNone

/-- Chunk 0 of 32 bytes, the peer itself, an arrival word. -/
def chunk0 : Chunk := ⟨0, 0, false, 0, 0, 32⟩

/-- LaunchInstructionsComplete: a good record and one of zeros, a barrier reached and released, a word that has the value. -/
theorem witness_launch :
    (doneB (.launch {} (.x 3) (.x 1)) (withCard recordFields base) && doneB (.launchTry {} (.x 3) (.x 1)) (withCard recordFields base) &&
      doneB (.launch {} (.x 3) (.x 1)) (withCard [] base) && doneB (.trig {}) base && doneB (.lvlid {} 7 .count (.x 3)) base &&
      doneB (.waitl {} .pkg (.x 3) (.x 10) (.x 0)) base && doneB (.bar {} 1) (levelled.upStream fun st => { st with stage := 1 }) &&
      issuesB (.bar {} 1) {} levelled && actsB (.bar {} 1) levelled fun t => t.issue.res == .waits) = true := by decide +kernel

/-- SurveyInstructionsComplete: no lock, a lock of this launch and one of another's, a point that the limit allows and one below. -/
theorem witness_survey :
    (([.mtick {} (.x 3), .mtickOrd {} (.x 3), .svmark {} 7 (.x 1), .svsamp {} 20 (.x 12), .svsampOff {}, .svread {} 0 (.x 3) (.x 0),
        .svread {} 1 (.x 3) (.x 1), .svread {} 2 (.x 3) (.x 1), .svread {} 3 (.x 3) (.x 0)] : List Instr).all (fun i => doneB i base) &&
      doneB (.svstop {} (.x 3) (.x 1)) { sys with dc := { sys.dc with lc := 0 } } && doneB (.clklockOff {} (.x 3)) sys &&
      ([.clklockOff {} (.x 3), .clklock {} 0 (.x 3)] : List Instr).all (fun i => doneB i { sys with sv := { sys.sv with lock := some (2, 0) } }) &&
      doneB (.clklock {} 0 (.x 3)) { sys with dc := { sys.dc with pcap := 1 } } && issuesB (.clklock {} 0 (.x 3)) {} sys &&
      sys.sv.lock.isNone && decide (sys.dc.limit ≤ 0)) = true := by decide +kernel

/-- `dat` in a life-cycle state and a state of the unlock sequence. -/
def datum (lc dunlk : BitVec 3) : State := { dat with dc := { dat.dc with
  lc := lc
  dunlk := dunlk } }

/-- DatumInstructionsComplete: an empty message, the first byte of SRAM, both answers of a life-cycle change and of the unlock
sequence; for the ML-DSA forms the places where they read and write. -/
theorem witness_datum :
    (doneB (.mextend {} 7 (.x 0) (.x 0)) dat && doneB (.dhash {} (.x 15) (.x 0) (.x 0)) (dat.upStream fun st => st.setX 15 0x100000) &&
      doneB (.fuserd {} (.x 3) (.x 1)) dat && doneB (.keywipe {} (.x 3) (.x 1)) dat && doneB (.keywipeAll {} (.x 3)) dat &&
      doneB (.mextendDbg {} (.x 3)) dat && doneB (.mextendDbg {} (.x 3)) (datum 2 2) && doneB (.lcset {} .depl (.x 3)) (datum 3 0) &&
      ((datum 3 0).lifecycle .depl).isNone && doneB (.lcset {} .depl (.x 3)) (datum 1 0) && ((datum 1 0).lifecycle .depl).isSome &&
      doneB (.dbgopen {} 1 (.x 3)) (datum 3 0) && doneB (.dbgopen {} 1 (.x 3)) (datum 2 4) &&
      issuesB (.dsign {} (.x 15) (.x 0) (.x 0)) {} (datum 2 0) && issuesB (.dsignPub {} (.x 15)) {} (datum 2 0) &&
      issuesB (.dsignAtt {} (.x 15) (.x 15)) {} (datum 2 0) && issuesB (.dverify {} .sig (.x 3) (.x 15)) {} (datum 2 0) &&
      decide (0x100000 + 2772 ≤ 0x200000)) = true := by decide +kernel

/-- LegsComplete: a run of one member, its own peer. -/
def landedMsg : SendMsg := ⟨⟨0, 0, 1, 0⟩, 0, 0, 0, 0, 0, true, 0, 0, [(0, 0, false, [1])], false⟩

/-- LegsComplete: each leg completes, or goes on as it should; the last pass of a REPEAT and one before it. -/
theorem witness_legs :
    (legB (.legSend false true ⟨true, 0⟩ 0 3 0 chunk0) (onChannel 0) (fun c => c.leg == 1) &&
      legB (.legRecv true false false ⟨true, 0⟩ 0 chunk0) { onChannel 0 with tv := { (onChannel 0).tv with landed := [⟨landedMsg, [], true⟩] } }
        (fun c => c.leg == 1) &&
      legB (.legReduce .add .f32 false false 0 3 0 chunk0) (onChannel 0) (fun c => c.leg == 1) &&
      legB (.legCopy false false false 0 0 3 chunk0) (onChannel 0) (fun c => c.leg == 1) &&
      legB (.legWait .drain) (onChannel 0) (fun c => c.leg == 1) && legB (.legWait (.arr 0 0)) (onChannel 0) (fun c => c.leg == 1) &&
      legB (.legSignal ⟨true, 0⟩ 0 1) (onChannel 0) (fun c => c.leg == 1) &&
      legB (.legReserve false ⟨true, 0⟩ 0 16) (onChannel 0) (fun c => c.pendRes.isSome) &&
      legB (.legRepeat false 2 0) (onChannel 0) (fun c => c.leg == 0 && c.it0 == 1) &&
      legB (.legRepeat false 1 0) (onChannel 0) (fun c => c.leg == 1 && c.it0 == 0) &&
      actsB .legEnd (onChannel 0) (fun t => (t.tv.chans.get? 0).isNone)) = true := by decide +kernel

/-- DatumSramHolds, DecodingUndoesEncoding, VectorWritesOnlyItsElements: the first eight bytes of SRAM and the last ones, a
well-formed instruction and a leg. -/
theorem witness_sram :
    (okB (scalarLoad 0 0x100000 8 dat) (fun v _ => v == leNat (dat.dc.sram.bytes 0 8)) && okB (scalarStore 0 0x1FFFF8 8 7 false dat) (fun _ _ => true) &&
      Instr.wf (.movi {} (.x 1) 5) && Instr.wf .legEnd) = true := by decide +kernel

/-- A store of four bytes of line 1 in a side log, on no fault (06 R264). -/
def logged : SideEntry := ⟨0, 0, true, 1, 0, 0, true, 0xF, 0x01020304, none, 64, none, 0, none, 0, 0x20115, false⟩

/-- `base` with its hart changed in one piece that an event looks for. -/
def eventful : State := (base.upHart fun h => { h with
  sideLog := [logged]
  svPend := [⟨0, 5, 64, 1, 0, true, false, spad⟩]
  vfault := some ⟨true, 5, causeAlign, 65, 3, 0⟩
  sa := { h.sa with
    blocked := some 0x144
    deferred := [⟨causePage, 64, 0⟩] } })

/-- `levelled` with both streams at the barrier of level 1. -/
def atBarrier : State := levelled.upHart fun h =>
  let go := fun (st : Stream) => { st with
    barWait := some 1
    bars := [0, 1] }
  { h with sa := go h.sa, sx := go h.sx }

/-- `base` with a vector instruction in its lane's queue. -/
def laned (rendezvous : Bool) (x : LaneSt) : State := base.upHart fun h => { h with
  inflight := [⟨0, true, 5, rendezvous, false, 1, x :: List.replicate 15 .absent, (32, 4, 1), true, [], [], []⟩] }

/-- `attached` with one command in its array's order. -/
def queued (k : MKind) : State := attached.ordered [0] k

/-- HartEventsComeAbout: what each event looks for is there, and the event has its effect. -/
theorem witness_hartEvents :
    ((actsB (.waitWake base.cur) (base.upStream fun st => { st with waiting := some ⟨none, some 1, false⟩ }) fun t => stB t fun st => st.waiting.isNone) &&
      (actsB (.queueDeadlock 0) (eventful.upStream fun st => { st with live := false }) fun t => (t.hart 0).sa.tval == 0x144) &&
      (actsB (.laneComplete 0 0 0) (laned false .absent) fun t => (t.hart 0).inflight.isEmpty) &&
      (actsB (.laneArrive 0 0 0) (laned true .absent) fun t => ((t.hart 0).inflight.any fun e => e.lane 0 == .arrived)) &&
      (actsB (.rendezvousComplete 0 0) (laned true .arrived) fun t => (t.hart 0).inflight.isEmpty) &&
      (actsB (.vectorTrapCommit 0) eventful fun t => (t.hart 0).vfault.isNone && (t.hart 0).sx.tval == 65) &&
      (actsB (.sideLogPerform 0) eventful fun t => (t.hart 0).sideLog.isEmpty) &&
      (actsB (.sideLogPageTrap (.stream 0 false)) eventful fun t => (t.hart 0).sa.deferred.isEmpty && (t.hart 0).sa.tval == 64) &&
      (actsB (.sampleRecord 0 [] 0) eventful fun t => (t.hart 0).svPend.isEmpty) &&
      (actsB (.barRelease 1 1 0) atBarrier fun t => (t.hart 0).sa.barWait.isNone && (t.hart 0).sx.barWait.isNone)) = true := by decide +kernel

/-- ArrayEventsComeAbout: a command of each kind; a sum at the end of 48 bits and one beyond. -/
theorem witness_arrayEvents :
    ((actsB (.mzeroApply 0) (queued (.zero 0 1 true)) fun t => (t.array 0).queue.isEmpty) &&
      (actsB (.streamChunk 0) ((queued (.stream ⟨1, 0, false, false, .bf16, 0, 1⟩ 32 0xFF00000002000000 0 0x20115)).setFull (0, 0) true) fun t => (t.array 0).queue.isEmpty || (t.array 0).queue.any fun c => c.unit == 1) &&
      (actsB (.weightSwap 0) (withDone (.weight [] .own []) (queued (.swap 0 9))) fun t => (t.array 0).queue.isEmpty && (t.array 0).active) &&
      ((Acc.addInt ⟨BitVec.ofInt 48 (2 ^ 47 - 1), false, false, false⟩ 1).sticky && !(Acc.addInt ⟨BitVec.ofInt 48 (2 ^ 47 - 2), false, false, false⟩ 1).sticky)) = true := by decide +kernel

/-- The identity of the placed run. -/
def placedRun : RunId := ⟨0, 0, 1, 0⟩

/-- `onChannel` with a message under way. -/
def mailed (m : TvMsg) : State := let s := onChannel 0
  { s with tv := { s.tv with flight := [m] } }

/-- A control message of the placed run to itself. -/
def ctl (value : BitVec 32) (det : Bool) : CtlMsg := ⟨placedRun, 0, 0, 0, 0, 0, value, 0, det, false⟩

/-- `grouped` with a loaded program and a card that may start. -/
def startable (j : Job) : State := loaded.setLa { loaded.la with cards := [{ placedCard with
  job := j
  started := false }] }

/-- `base` with a started card of a job. -/
def working (j : Job) (prog : Nat) (s : State) : State := s.setLa { s.la with cards := [{ placedCard with
  job := j
  regions := [⟨3, 65536, 0⟩, ⟨3, 0x400000, spad⟩]
  prog := prog }] }

/-- The bytes of a card's fields. -/
def cardBytes (fs : List (Nat × Nat × Nat)) : List Byte :=
  Memory.bytes (fs.foldl (fun m (f : Nat × Nat × Nat) => Memory.setBytes m f.1 (leBytes f.2.1 f.2.2)) []) 0 256

/-- `mailed` with an acknowledgement of the SEND numbered 3. -/
def acked (bad : Nat) : State :=
  let s := mailed (.ack ⟨placedRun, 0, 3, bad, 0, 0⟩)
  { s with tv := { s.tv with chans := s.tv.chans.map fun kv => (kv.1, { kv.2 with unacked := [⟨3, 0, 0⟩] }) } }

/-- `base` with its launch in a phase, its gang in a state. -/
def phased (p : Phase) (g : GangSt) : State := withLaunch (fun l => { l with
  phase := p
  gangs := l.gangs.map fun x => { x with st := g } }) base

/-- `base` whose gang's pre-emption has been asked for, its streams where they may be saved. -/
def asked : State := withLaunch (fun l => { l with gangs := l.gangs.map fun g => { g with asked := true } }) base

/-- `base` without its hart, the gang saved. -/
def away : State := { withLaunch (fun l => { l with gangs := l.gangs.map fun g => { g with
  st := .preempted
  saved := [(0, base.hart 0)] } }) base with
    harts := []
    cores := [] }

/-- RunEventsComeAbout: each message under way to the placed run, rounds of nothing and of four rows, an acknowledgement and one with a fault. -/
theorem witness_runEvents :
    ((actsB (.traverseRunStart placedCard.handle) (startable (.traverse (progHandle 0 0 0) 16 0)) fun t => (t.tv.chans.get? 0).isSome) &&
      (actsB (.sendLand landedMsg) (mailed (.send landedMsg)) fun t => t.tv.landed.length == 1 && t.tv.flight.length == 1) &&
      (actsB (.signalArrive (ctl 1 false)) (mailed (.signal (ctl 1 false))) fun t => t.tv.flight.length == 1 && t.tv.flight.all fun m => match m with | .ack a => a.bad == 0 | _ => false) &&
      (actsB (.reserveClaimArrive (ctl 1 true)) (mailed (.reserve (ctl 1 true))) fun t => t.tv.reserves.length == 1) &&
      (actsB (.reserveClaimArrive (ctl 1 false)) (mailed (.reserve (ctl 1 false))) fun t => t.tv.flight.length == 1) &&
      ((match (mailed (.reserve (ctl 1 false))).receiver placedRun 0 with | some (k, p, c) => (match (mailed (.reserve (ctl 1 false))).claim ((mailed (.reserve (ctl 1 false))).runSource (ctl 1 false).run (ctl 1 false).src) k p c 0 1 with | .value o _ => o == 0 | _ => false) | none => false)) &&
      (actsB (.reserveRound placedRun 0 0) { mailed (.reserve (ctl 1 true)) with tv := { (onChannel 0).tv with reserves := [ctl 0 true] } } fun t => t.tv.roundsDone.length == 1) &&
      (actsB (.reserveRound placedRun 0 0) { mailed (.reserve (ctl 1 true)) with tv := { (onChannel 0).tv with reserves := [ctl 4 true] } } fun t => t.tv.roundsDone.length == 1) &&
      (actsB (.stopNotice placedRun 0) (mailed (.stop placedRun 0)) fun t => t.tv.stops.length == 1) &&
      (actsB (.legAckArrive ⟨placedRun, 0, 3, 0, 0, 0⟩) (acked 0) fun t => (t.tv.chans.get? 0).any fun c => c.unacked.isEmpty) &&
      (actsB (.legAckArrive ⟨placedRun, 0, 3, 4, 0, 0⟩) (acked 4) fun t => t.la.cards.all fun k => k.stop.isSome)) = true := by decide +kernel

/-- CardEventsComeAbout: a card of each kind at its first step, a completed one, counters of the last engine at 2^20 visits. -/
theorem witness_cardEvents :
    ((actsB (.streamCopyJob placedCard.handle) (working (.stream (cardBytes copyFields)) 0 base) fun t => t.la.cards.all fun k => k.prog == 1) &&
      (actsB (.weightLoadJob placedCard.handle) (working (.weight (cardBytes weightFields) .own [0]) 0 (queued (.swap 0 9))) fun t => t.la.cards.all fun k => k.prog == 1 && k.stop.isNone) &&
      (actsB (.gzLookupJob placedCard.handle) (working (.lookup (cardBytes lookFields) 0) 0 tabled) fun t => t.la.cards.all fun k => k.prog == 1 && k.stop.isNone) &&
      (actsB (.gzUpdateJob placedCard.handle) (working (.update (cardBytes lookFields) 0) 0 tabled) fun t => t.la.cards.all fun k => k.prog == 1 && k.stop.isNone) &&
      (actsB (.cardComplete placedCard.handle) (working (.stream (cardBytes copyFields)) 4 base) fun t => t.la.cards.all fun k => k.completed == some .ok) &&
      (actsB (.cardStart placedCard.handle) (startable (.stream (cardBytes copyFields))) fun t => t.la.cards.all fun k => k.started) &&
      (actsB (.gzageHalve 11) { base with gz := { base.gz with age := [(11, 1048576)] } } fun t => t.gz.age.get 11 0 == 0)) = true := by decide +kernel

/-- LaunchEventsComeAbout: a write pointer at the end of the ring, one beyond it and one that steps back; a launch in each phase; a gang asked for, saved and brought back. -/
theorem witness_launchEvents :
    ((actsB (.ringWptrWrite 63 16) base fun t => (t.ring 63).wptr == 16 && !(t.ring 63).overrun) &&
      ((base.ring 63).size == 16) &&
      (actsB (.ringWptrWrite 63 17) base fun t => (t.ring 63).overrun) &&
      (actsB (.ringWptrWrite 0 0) (base.setRing 0 { base.ring 0 with wptr := 1 }) fun t => (t.ring 0).backstep) &&
      (actsB (.ringReset 0 2) base fun t => (t.ring 0).epoch == 1) &&
      (actsB (.ringEntryRead 0) (base.setRing 0 { base.ring 0 with wptr := 1, rctl := 1 }) fun t => (t.ring 0).rptr == 1) &&
      (actsB (.priorityAge 0) { base.setRing 0 { base.ring 0 with aging := some (1, 0) } with sv := { base.sv with mtick := 50000 } } fun t => (t.ring 0).prio == 1) &&
      (actsB (.depEval 1) (phased .waiting .unplaced) fun t => (t.launch? 1).any fun l => l.phase == .eligible) &&
      (actsB (.launchPlace 1) (phased .eligible .unplaced) fun t => (t.launch? 1).any fun l => l.phase == .running) &&
      (actsB (.preemptWrite 1) base fun t => (t.launch? 1).any fun l => l.gangs.all fun g => g.asked) &&
      (actsB (.cancelWrite 1) base fun t => (t.launch? 1).any fun l => l.cancelled) &&
      (actsB (.podAdmission 7 3) base fun t => t.la.admissions.length == 1) &&
      (((phased .running .done).launch? 1).any fun l => (phased .running .done).completes l) &&
      (actsB (.launchComplete 1) (phased .running .done) fun t => (t.launch? 1).all fun l => l.phase == .done) &&
      ((asked.launch? 1).any fun l => l.gangs.all fun g => asked.mayPreempt l g) &&
      (actsB (.gangPreempt 1 0) asked fun t => (t.launch? 1).any fun l => l.gangs.all fun g => g.st == .preempted) &&
      ((away.launch? 1).any fun l => l.gangs.all fun g => (away.resumeSlots l g).isSome) &&
      (actsB (.gangResume 1 0) away fun t => (t.launch? 1).any fun l => l.gangs.all fun g => g.st == .resident)) = true := by decide +kernel

/-- A fault record of quadrant 0, as yet without space (06 R259). -/
def missing (id : Option (BitVec 32)) : FaultRec := ⟨3, 0, id, 5, false, false, 0, 0, true, 0, 70000, 0, 0, [], false, [(.stream (.stream 0 true), 70000, 0, false)]⟩

/-- `base` whose stream X waits on that record. -/
def faulted (id : Option (BitVec 32)) : State :=
  let s := base.upStream fun st => { st with faultWait := some 3 }
  s.setMem { s.mem with
    faults := [missing id]
    fq := [(0, { base.faultQueue 0 with ctl := 1 })] }

/-- `base` without a launch, as a package of which only a hart is left. -/
def alone (s : State) : State := s.setLa { s.la with launches := [] }

/-- A train of one element of four bytes to this package (07 R305). -/
def train1 : Train := ⟨2, false, 9, .n32, 0, [(4096, 4, 7)], 1⟩

/-- `base` with that train of its own under way, sent again or not. -/
def sending (resent : Bool) : State := base.upHart fun h => { h with trains := [⟨9, true, 2, 4096, 0, [64], train1, resent, false, none⟩] }

/-- `base` with a read sent under identifier 4. -/
def asking : State := base.upStream fun st => { st with reads := [⟨4, 0, 4096, 8, none⟩] }

/-- `base` in DET with an add of the next round (07 R308). -/
def rounded : State := withLaunch (fun l => { l with info := { l.info with det := true } })
  ((base.upHart fun h => { h with drains := 1 }).setMem { base.mem with rounds := [⟨1, 0, 0, true, 1, 0, 0, 4096, 4096, none, .i32, 7, 0, 0x20115⟩] })

/-- `base` after the datum controller has been changed. -/
def withDc (f : DcSys → DcSys) : State := { base with dc := f base.dc }

/-- MemoryEventsComeAbout: what each event looks for is there, and the event has its effect. -/
theorem witness_memoryEvents :
    ((actsB (.faultRecordPost 0) (faulted none) fun t => (t.faultQueue 0).wptr == 1 && t.mem.faults.all fun f => f.id == some 0) &&
      (actsB (.fqrespRetry 0 5) (faulted (some 5)) fun t => t.mem.faults.isEmpty && t.mem.walks.length == 1) &&
      (actsB (.fqrespDecline 0 5) (alone (faulted (some 5))) fun t => t.mem.faults.isEmpty && (t.hart 0).sx.declined.isSome) &&
      (actsB .pageWalkDone ((base.setMem { base.mem with walks := [⟨.stream (.stream 0 true), 0, 70000⟩] })) fun t => t.mem.walks.isEmpty) &&
      (actsB (.wcbDrainTimeout 0) (base.setCore 0 { base.core 0 with wcb := [⟨64, 0xF, 7, 0, [⟨1, 0, 4096, none⟩]⟩] }) fun t => (t.core 0).wcb.isEmpty && t.mem.homeRead 4096 4 == 7) &&
      (actsB (.l1LeaseExpire 0) (base.setCore 0 { base.core 0 with l1 := [⟨64, 7, false, 0, false, BitVec.allOnes 64⟩] }) fun t => (t.core 0).l1.isEmpty) &&
      (actsB (.borderCopyInvalidate 1 64) (base.setMem { base.mem with border := [⟨1, 64, 7, false, some 0, []⟩] }) fun t => t.mem.border.isEmpty) &&
      (base.tick % 1000 == 0) &&
      (rounded.roundReady ((rounded.launch? 1).getD placedLaunch) 1 && actsB (.roundApply 1) rounded fun t => t.mem.rounds.isEmpty && t.mem.homeRead 4096 4 == 7) &&
      (actsB (.trainReceive train1) base fun t => t.linkOut == [.trainAck 2 9]) &&
      (actsB (.trainReceive { train1 with tail := 2 }) base fun t => t.linkOut == [.trainRefuse 2 9]) &&
      (actsB (.trainAck 9) (sending false) fun t => (t.hart 0).trains.isEmpty) &&
      (actsB (.trainRefusal 9) (sending false) fun t => t.linkOut.length == 1) &&
      (actsB (.trainRefusal 9) (sending true) fun t => t.linkOut.isEmpty) &&
      (actsB (.ualinkReadServe ⟨2, 4, 4096, 8, none⟩) base fun t => t.linkOut == [.readReply 2 4 true 0]) &&
      (actsB (.ualinkErrorResponse 4) asking fun t => (t.hart 0).sx.reads.all fun r => r.reply == some (false, 0)) &&
      (asking.readQuad 4).isSome &&
      (actsB .tlbicmdDone (base.setMem { base.mem with tlbBusy := true, tlbCmds := [none] }) fun t => t.mem.tlbs.isEmpty && !t.mem.tlbBusy) &&
      (actsB (.scrub 0 true) base fun t => t.mem.ecnt.get 0 0 == 1) &&
      (actsB .poolGrowDone { base with ov := { base.ov with gpend := some (1, 65536), gbusy := true, asize := 65536 } } fun t => !t.ov.gbusy && !t.ov.gfailed) &&
      (actsB (.gzdsyncWrite 3) base fun t => t.gz.dbusy) &&
      (actsB .gzdsyncDone { base with gz := { base.gz with dbusy := true, dlast := 3 } } fun t => !t.gz.dbusy) &&
      (actsB .gzprobeDone { base with gz := { base.gz with probeBusy := true } } fun t => t.gz.pres.getLsbD 0)) = true := by decide +kernel

/-- MemoryEventsComeAbout: an error at each kind of place marks that place (06 R285). -/
theorem witness_errorPlaces :
    ((actsB (.uncorrected (.device 4096)) base fun t => t.mem.poisoned 64) &&
      (actsB (.uncorrected (.scratch 0 placedSerial 64)) base fun t => ((t.core 0).scratch? placedSerial).any fun x => x.poison == [1]) &&
      (actsB (.uncorrected (.tile 127 64)) base fun t => (t.array 127).tpoison == [1]) &&
      (actsB (.uncorrected (.xreg 0 true 63)) base fun t => (t.hart 0).sx.xmarks == [63]) &&
      (actsB (.uncorrected (.vreg 0 0)) base fun t => (t.hart 0).vmarks == [0]) &&
      (actsB (.add {} false (.x 3) (.x 1) (.x 2)) (base.upStream fun st => { st with xmarks := [1] }) fun t =>
        (t.hart 0).sx.tcause == BitVec.ofNat 64 causePoison && (t.hart 0).sx.tval == 2 ^ 63 + 1)) = true := by decide +kernel

/-- PortsAnswer: an address and none, an offset at either end of reach, a port with permissions and one without. -/
theorem witness_ports :
    ((base.dc.i3c.isNone && actsB .i3cGetpid (withDc fun d => { d with i3c := some 9 }) fun t => t.portOut.length == 1) &&
      (actsB (.i3cPrivateRead 0xB000) (withDc fun d => { d with i3c := some 9 }) fun t => t.portOut.all fun m => m != .nack) &&
      (actsB (.i3cPrivateRead 0xB100) (withDc fun d => { d with i3c := some 9 }) fun t => t.portOut == [.nack]) &&
      (actsB (.hostCpl 4 true 7) (base.setRing 0 { base.ring 0 with reads := [⟨4, 0, 0, 8, none⟩] }) fun t => (t.ring 0).reads.all fun r => r.reply == some (true, 7)) &&
      (actsB (.debugMemrd 4096) (withDc fun d => { d with lc := 0 }) fun t => t.portOut == [.mem 0]) &&
      (actsB (.debugMemwr 4096 7) (withDc fun d => { d with lc := 0 }) fun t => t.mem.homeRead 4096 8 == 7) &&
      (actsB (.debugSvstop 1000) (withDc fun d => { d with lc := 4 }) fun t => t.sv.stopAt == some 1000) &&
      (actsB .debugScan { withDc (fun d => { d with lc := 0 }) with sv := { base.sv with stopped := true } } fun t => t.portOut.length == 1) &&
      (actsB (.debugMemrd 4096) (withDc fun d => { d with lc := 2 }) fun t => t.portOut == [.refused])) = true := by decide +kernel

/-- TimePowerAndBringUp: each event at the ends of its range: an armed stop that has come, limits at 0 and 7, slots 0 and 63, words 0 and 7. -/
theorem witness_time :
    ((actsB .meridianTick { base with sv := { base.sv with stopAt := some 1 } } fun t => t.sv.stopped) &&
      (actsB .meridianTick base fun t => t.sv.mtick == 1 && !t.sv.stopped) &&
      (actsB (.tickAlign 9) (withDc fun d => { d with ready := 0 }) fun t => t.sv.mtick == 9 && t.dc.ready.getLsbD 53) &&
      (actsB .tickAlignLoss base fun t => !t.dc.ready.getLsbD 53) &&
      (actsB .stopFire { base with sv := { base.sv with stopAt := some 0 } } fun t => t.sv.stopped) &&
      (actsB (.svrunWrite 1) { base with sv := { base.sv with stopAt := some 0, stopped := true } } fun t => !t.sv.stopped) &&
      (actsB (.svstatDisarm 0) { base with sv := { base.sv with stopAt := some 5 } } fun t => t.sv.stopAt.isNone) &&
      (base.sv.mode == 0 && actsB (.rlctlWrite 2) base fun t => t.sv.mode == 2) &&
      (actsB (.rlwptrSupply 7) { base with sv := { base.sv with rlctl := 2 } } fun t => t.sv.rlwptr == 7) &&
      (base.replayInput ⟨0, 0, 0, 0⟩).isSome &&
      (({ base with sv := { base.sv with rlctl := 2 } } : State).replayInput ⟨0, 0, 0, 0⟩ == none) &&
      lcOfFuses 0 != 4 &&
      (actsB (.dmloadWrite 4096) (withDc fun d => { d with fwok := false }) fun t => t.dc.fwfail) &&
      (!(base.dc.imageGood 4096) && !base.dc.fwok) &&
      (actsB (.unitReady 56) (withDc fun d => { d with fwok := true, ready := 0 }) fun t => t.dc.ready == BitVec.twoPow 57 56) &&
      (actsB (.unitLost 53) base fun t => !t.dc.ready.getLsbD 53) &&
      (actsB (.cdisWrite 7 (2 ^ 63)) base fun t => (t.core 511).removed && !(t.core 510).removed) &&
      (actsB .powerLimitRaise (withDc fun d => { d with dueRaise := true, power := 7 }) fun t => t.dc.power == 7) &&
      (actsB .powerLimitRelax (withDc fun d => { d with dueRelax := true, power := 0 }) fun t => t.dc.power == 0) &&
      (actsB .thermalTrip (withDc fun d => { d with dueTrip := true }) fun t => t.dc.thermal == 7) &&
      (actsB .thermalLimitRaise (withDc fun d => { d with dueHot := true }) fun t => t.dc.thermal == 1) &&
      (actsB .thermalLimitRelax (withDc fun d => { d with dueCold := true, thermal := 7 }) fun t => t.dc.thermal == 6) &&
      (actsB (.kctlLoad 63) (withDc fun d => { d with lc := 1, keys := [(63, { d.slot 63 with base := 0, lim := 64 })] }) fun t => (t.dc.slot 63).v && !(t.dc.slot 63).err) &&
      (actsB (.kctlLoad 0) (withDc fun d => { d with lc := 3 }) fun t => (t.dc.slot 0).err) &&
      (actsB (.kctlClearSeal 0) (withDc fun d => { d with keys := [(0, { d.slot 0 with sealed := true })] }) fun t => !(t.dc.slot 0).sealed) &&
      (actsB .dunlkAbort (withDc fun d => { d with dunlk := 3, perm := 1 }) fun t => t.dc.dunlk == 0 && t.dc.perm == 0)) = true := by decide +kernel


/-- HartEventsComeAbout: the first stream has halted at the barrier of level 1, and the second has arrived. -/
def halfHalted : State := atBarrier.upHart fun h => { h with
  sa := { h.sa with
    live := false
    started := true
    barWait := none } }

/-- `base` with a result for x10 that its lanes have not completed (08 R345). -/
def awaiting : State := base.upHart fun h => { h with
  inflight := [⟨0, true, 5, false, false, 1, .absent :: List.replicate 15 .absent, (32, 4, 1), true, [], [], [(.x 10, 9)]⟩] }

/-- HartEventsComeAbout, TagsOpenAndEnd: an instruction that names an awaited register waits, and another does not; the lane's
completion delivers the result; an instruction that goes on sees what it captured, and leaves the hart its own; a barrier
opens when the streams that still run have arrived. -/
theorem witness_waitsAndResumes :
    (!scalarBlocked awaiting (.add {} false (.x 3) (.x 1) (.x 2)) &&
      actsB (.add {} false (.x 3) (.x 10) (.x 2)) awaiting (fun t => t.issue.res == .waits && t.xval (.x 3) == 0) &&
      actsB (.laneComplete 0 0 0) awaiting (fun t => (t.hart 0).inflight.isEmpty && t.xval (.x 10) == 9) &&
      (let c := { (base.hart 0).capture with vl := 1 }
       let s := base.upStream fun st => { st with captured := some c }
       actsB (.vbcast {} .n32 (.v 1) (.x 1)) s fun t => getElem .n32 ((t.hart 0).getV 1) 0 == 7 &&
         getElem .n32 ((t.hart 0).getV 1) 1 == 0 && (t.hart 0).vl == 4 && stB t fun st => st.captured.isNone) &&
      actsB (.barRelease 1 1 0) halfHalted fun t => (t.hart 0).sx.barWait.isNone) = true := by decide +kernel

/-! One-step tests, each value from the spec's worked examples or tables. -/

/-- `base` with elements in a register. -/
def withV (n : Fin 64) (t : Ty) (l : List Nat) (s : State) : State := s.vputList (.v n) t l.length (placed l)

/-- The first elements of a register. -/
def elems (n : Fin 64) (t : Ty) (k : Nat) (s : State) : List Nat :=
  (List.range k).map fun i => getElem t ((s.hart s.cur.slot).getV n.val) i

/-- An instruction ends with what is asked. -/
noncomputable def endsB (i : Instr) (s : State) (p : State → Bool) : Bool := nextB (Sys2Proof.Machine.exec i s) p

/-- `base` with a tile of vl columns and rc rows. -/
def tile (vl : BitVec 14) (rc : BitVec 5) : State := base.upHart fun h => { h with
  vl := vl
  rc := rc }

/-- 05 R213: 7 + 5 = 12; division by zero gives all ones. -/
theorem test_add_and_div :
    (endsB (.add {} false (.x 3) (.x 1) (.x 2)) base (fun t => t.xval (.x 3) == 12) &&
      endsB (.div {} false (.x 3) (.x 1) (.x 0)) base fun t => t.xval (.x 3) == BitVec.allOnes 64) = true := by decide +kernel

/-- 02 R64, 05 R212: from reset, `addi.w x3, x0, -1` placed where the next step fetches gives all ones and goes on at the next line, number 10. -/
theorem test_step_from_reset :
    nextB (step (State.reset.withFetchWord 96 ((encode (.addImm {} true (.x 3) (.x 0) (-1))).getD 0).toNat)) (fun t =>
      (t.stream t.cur).getX 3 == BitVec.allOnes 64 && (t.stream t.cur).pc == 10 && (t.stream t.cur).icount == 1) = true := by
  decide +kernel

/-- 05 R229, R232: `trap 9` at instruction 5 enters the handler with SWTRAP, 9 and the next number. -/
theorem test_trap :
    endsB (.trap {} 9) plain (fun t => (t.stream t.cur).tcause == BitVec.ofNat 64 causeSwtrap && (t.stream t.cur).tval == 9 &&
      (t.stream t.cur).tpc == 6 && (t.stream t.cur).priv && (t.stream t.cur).depth == 1 && (t.hart 0).held == some false) = true := by
  decide +kernel

/-- 05, Example: an ATOM that orders: the old value comes back, the sum stands in memory. -/
theorem test_atom :
    endsB (.atomAdd {} .i32 (some .pkg) 1 ⟨.x 10, .x 0, 0, 0⟩) (withFields 64 [(0, 4, 41)] { base with mem := { base.mem with l2 := [] } })
      (fun t => t.xval (.x 1) == 41 && t.mem.homeRead 64 4 == 48) = true := by decide +kernel

/-- 03, Example: one partial block to e4m3. -/
theorem test_quantised_block :
    endsB (.vqblk {} .e4m3 .f32 .rne 0 (.v 1) (.v 2) (.v 3)) (withV 3 .f32 [0x41200000, 0x3E99999A, 0xBF800000, 0x3A83126F] (tile 4 1))
      (fun t => elems 1 .e4m3 4 t == [0x7A, 0x52, 0xE0, 0x10] && elems 2 .n8 1 t == [0x7A]) = true := by decide +kernel

/-- 07, Example: colliding adds. -/
theorem test_colliding_adds :
    endsB (.vstxa {} .f32 false (.v 5) (.x 12) (.v 2) 2 0) (withV 5 .f32 [0x3F800000, 0x33800000, 0x33800000] (withV 2 .i32 [0, 0, 0] (tile 3 1)))
      (fun t => ((t.core 0).scratch? 1).any fun x => leNat (x.data.bytes 0 4) == 0x3F800000) = true := by decide +kernel

/-- 09, Example: a row reduction. -/
def rowsOfFour : State := (withV 1 .f32 [0x3F800000, 0x40000000, 0x40400000, 0x40800000, 0xBF800000, 0x7FC00000, 0x40A00000, 0x80000000]
  (tile 4 2)).upHart fun h => h.setK 2 0xBF

/-- 09, Example: a row reduction: the three results. -/
theorem test_row_reductions :
    (endsB (.vred { gm := 2 } .add true .f32 .rne (.v (.v 3)) (.v 1)) rowsOfFour (fun t => elems 3 .f32 2 t == [0x41200000, 0x7FC00000]) &&
      endsB (.vred { gm := 2 } .max true .f32 .rne (.v (.v 3)) (.v 1)) rowsOfFour (fun t => elems 3 .f32 2 t == [0x40800000, 0x80000000]) &&
      endsB (.vred { gm := 2 } .argmax true .f32 .rne (.v (.v 3)) (.v 1)) rowsOfFour fun t => elems 3 .n32 2 t == [3, 3]) = true := by
  decide +kernel

/-- 08, Example: per-element trip counts: the VTRIP, and the first MLOOP, which goes back. -/
theorem test_trip_counts :
    (endsB (.vtrip {} .n32 (.v 9) (.v 8)) (withV 8 .n32 [0, 3, 1, 2, 0, 1, 3, 2] (tile 8 1))
        (fun t => (t.hart 0).mstack == [0xEE] && elems 9 .n32 8 t == [0, 3, 1, 2, 0, 1, 3, 2]) &&
      endsB (.mloop {} .n32 (.v 9) 1) (withV 9 .n32 [0, 3, 1, 2, 0, 1, 3, 2] ((tile 8 1).upHart fun h => { h with mstack := [0xEE] }))
        fun t => (t.hart 0).mstack == [0xCA] && elems 9 .n32 8 t == [0, 2, 0, 1, 0, 0, 2, 1] && (t.stream t.cur).pc == 6) = true := by
  decide +kernel

/-- 03, Example: planes of two values: −37 and 37 from their first 2, 5 and 7 planes. -/
theorem test_planes :
    (endsB (.vplane {} (.v 1) (.v 2)) (withV 2 .i8 [0xDB, 0x25] (tile 2 1)) (fun t => elems 1 .bp8 2 t == [0xDB, 0x25]) &&
      ([(2, [0xC0, 0]), (5, [0xD8, 32]), (7, [0xDA, 36])] : List (BitVec 4 × List Nat)).all fun e =>
        endsB (.vunplane {} e.1 (.v 3) (.v 1)) (withV 1 .bp8 [0xDB, 0x25] (tile 2 1)) fun t => elems 3 .i8 2 t == e.2) = true := by
  decide +kernel

/-- 03, Example: exhausted guard bits. -/
theorem test_guard_bits :
    (((Acc.addInt ⟨BitVec.ofInt 48 (2 ^ 47 - 100), false, false, false⟩ 300).addInt (-1000)) ==
      ⟨BitVec.ofInt 48 (2 ^ 47 - 1), true, false, false⟩) = true := by decide +kernel

/-- 03 R128: 2^1.5 = 2.828427124…, log2 3 = 1.584962500…, tanh 1 = 0.761594155…, each rounded once to f32. -/
theorem test_transcendentals :
    (roundTo .f32 ⟨.rne, 0, 0⟩ false (FVal.exp2 (Ty.decode .f32 0x3FC00000)) == 0x403504F3 &&
      roundTo .f32 ⟨.rne, 0, 0⟩ false (FVal.log2 (Ty.decode .f32 0x40400000)) == 0x3FCAE00D &&
      roundTo .f32 ⟨.rne, 0, 0⟩ false (FVal.tanh (Ty.decode .f32 0x3F800000)) == 0x3F42F7D6) = true := by decide +kernel

end Sys2Proof.Tests
end

section
/-! SUPPORT. What an instruction comes to that the checks, the guard or a queue stops before its body (02 R73, R87; 05 R194). -/

namespace Sys2Proof.Machine

open Sys2Proof

/-! The scalar guard. -/

theorem Stream.getP_zero (st : Stream) : st.getP 0 = true := rfl

/-- The guard holds when the predicate is not the value that GPN asks it not to be. -/
theorem guardTrue_iff (st : Stream) (h : Hdr) : guardTrue st h = true ↔ (st.getP h.gp = true ↔ h.gpn = false) := by
  unfold guardTrue
  cases st.getP h.gp <;> cases h.gpn <;> decide

/-! The checks: ILL comes first, and a false guard passes all others. -/

theorem issueTrap_of_stepTwoBad {s : State} {i : Instr} {maj : Nat} {h : Hdr} (hi : Instr.hdr? i = some (maj, h))
    (hb : stepTwoBad s i = true) : issueTrap s i = some (causeIll, (s.issue.raw >>> 32).setWidth 64) := by
  simp only [issueTrap, hi, hb, if_true]

theorem issueTrap_of_guardFalse {s : State} {i : Instr} {maj : Nat} {h : Hdr} (hi : Instr.hdr? i = some (maj, h))
    (hb : stepTwoBad s i = false) (hg : guardTrue (s.stream s.cur) h = false) : issueTrap s i = none := by
  simp only [issueTrap, hi, hb, hg, Bool.not_false, if_true, Bool.false_eq_true, if_false]

/-! The shared issue, at its two stops before a body. -/

theorem issueHart_trap {i : Instr} {h : Hdr} {body : M Ctl} {own : Option Capture} {s : State} {st : Stream} {cause : Nat}
    {tval : Word} (ht : issueTrap s i = some (cause, tval)) :
    issueHart i h body own s st = .next ((trapAt s (Instr.isVector i) cause tval).putBack own) := by
  simp only [issueHart, ht]

theorem issueHart_queueBlocked {i : Instr} {h : Hdr} {body : M Ctl} {own : Option Capture} {s : State} {st : Stream}
    {code : Nat} (ht : issueTrap s i = none) (hg : guardTrue st h = true) (hs : scalarBlocked s i = false)
    (hq : queueBlocked s i = some code) :
    issueHart i h body own s st =
      .next ((waits (s.setStream s.cur { st with blocked := some code, blockedVec := Instr.isVector i })).putBack own) := by
  simp only [issueHart, ht, hg, hs, hq, Bool.not_true, Bool.false_eq_true, if_false]

/-! What a wait leaves. -/

@[simp] theorem waits_stream (s : State) (p : Party) : (waits s).stream p = s.stream p := by cases p <;> rfl

/-- A stream written is read back. -/
theorem State.stream_setStream_self (s : State) (p : Party) (st : Stream) : (s.setStream p st).stream p = st := by
  cases p with
  | datum => rfl
  | stream slot isX => simp [State.stream, State.stream?, State.setStream, State.hart?, State.setHart, Assoc.get?_put_self]

/-- A stream is no part of any memory, the datum core's SRAM among them. -/
theorem sameMemory_setStream (s : State) (p : Party) (st : Stream) : SameMemory s (s.setStream p st) := by
  cases p <;> exact ⟨rfl, rfl, rfl, rfl, rfl⟩

/-- A wait changes the step's own notes only. -/
theorem SameMemory.waits {s t : State} (h : SameMemory s t) : SameMemory s (waits t) := h

/-! An instruction of a live stream that has none in hand. -/

section Fresh

variable {i : Instr} {maj : Nat} {h : Hdr} {s : State} {st : Stream}

/-- It is issued by `issueHart`, which sees the hart as it is. -/
theorem exec_fresh (hi : Instr.hdr? i = some (maj, h)) (hst : s.stream? s.cur = some st) (hl : st.live = true)
    (hc : st.captured = none) : ∃ body : M Ctl, exec i s = issueHart i h body none s st := by
  obtain ⟨body, hbody⟩ := exec_hart hi
  exact ⟨body, (hbody s).trans (runHart_fresh hst hl hc)⟩

/-- A trap of the checks is all that it does. -/
theorem exec_issueTrap (hi : Instr.hdr? i = some (maj, h)) (hst : s.stream? s.cur = some st) (hl : st.live = true)
    (hc : st.captured = none) {cause : Nat} {tval : Word} (ht : issueTrap s i = some (cause, tval)) :
    exec i s = .next (trapAt s (Instr.isVector i) cause tval) := by
  obtain ⟨body, hbody⟩ := exec_fresh hi hst hl hc
  rw [hbody, issueHart_trap ht, State.putBack_none]

/-- With a false guard it only retires. -/
theorem exec_guardFalse (hi : Instr.hdr? i = some (maj, h)) (hst : s.stream? s.cur = some st) (hl : st.live = true)
    (hc : st.captured = none) (hb : stepTwoBad s i = false) (hg : guardTrue st h = false)
    (hr : badReturn .next s = none) : exec i s = .next (retire i h (!st.priv) .next s) := by
  obtain ⟨body, hbody⟩ := exec_hart hi
  have ht : issueTrap s i = none := issueTrap_of_guardFalse hi hb (by rwa [State.stream_of_some hst])
  rw [hbody, runHart_guarded hst hl hc ht hg hr]

/-- Blocked on a queue it waits, and its stream notes the queue. -/
theorem exec_queueBlocked (hi : Instr.hdr? i = some (maj, h)) (hst : s.stream? s.cur = some st) (hl : st.live = true)
    (hc : st.captured = none) {code : Nat} (ht : issueTrap s i = none) (hg : guardTrue st h = true)
    (hs : scalarBlocked s i = false) (hq : queueBlocked s i = some code) :
    exec i s =
      .next (waits (s.setStream s.cur { st with blocked := some code, blockedVec := Instr.isVector i })) := by
  obtain ⟨body, hbody⟩ := exec_fresh hi hst hl hc
  rw [hbody, issueHart_queueBlocked ht hg hs hq, State.putBack_none]

end Fresh

/-- Settles O21: ILL, the false guard and the blocked queue are the stops of the shared issue before any body, in this
order. -/
theorem guardsAndQueuesHoldBack : Obligations.GuardsAndQueuesHoldBack := by
  unfold Obligations.GuardsAndQueuesHoldBack
  refine ⟨fun st h => ⟨guardTrue_iff st h, st.getP_zero⟩, ?ill, ?guard, ?queue⟩
  case ill =>
    intro i h s st maj hi hst hl hc hb
    exact exec_issueTrap hi hst hl hc (issueTrap_of_stepTwoBad hi hb)
  case guard =>
    intro i h s st maj hi hst hl hc hb hg hr
    exact exec_guardFalse hi hst hl hc hb hg hr
  case queue =>
    intro i h s st maj code hi hst hl hc ht hg hs hq
    refine ⟨_, exec_queueBlocked hi hst hl hc ht hg hs hq, (sameMemory_setStream s s.cur _).waits,
      State.setStream_la .., rfl, ?_⟩
    rw [waits_stream, State.stream_setStream_self]

end Sys2Proof.Machine
end

section
/-! SUPPORT. What the moves, compares and predicate instructions of major 0x12 do (05 R218..R221), with the laws of
conditions and of the predicates as a number. -/

namespace Sys2Proof.Machine

open Sys2Proof

/-! From the body of an instruction to what it does. -/

/-- An instruction does what its body does wherever it issues. -/
theorem Does.of_runHart {i : Instr} {h : Hdr} {body : M Ctl} {s t : State} {ctl : Ctl}
    (he : Sys2Proof.Machine.exec i s = runHart i h body s) (hb : Issues i h s → body s = .ok ctl t) : Does i h s ctl t :=
  fun hi hr => he.trans (runHart_ok hi (hb hi) hr)

/-- An instruction of one effect does it and goes on at the successor. -/
theorem Does.of_runSeq {i : Instr} {h : Hdr} {body : M Unit} {s t : State}
    (he : Sys2Proof.Machine.exec i s = runSeq i h body s) (hb : Issues i h s → body s = .ok () t) : Does i h s .next t :=
  fun hi hr => he.trans (runSeq_ok hi (hb hi) hr)

/-! Conditions (05 R219). -/

/-- A condition on operands of one width is the comparison of their values. -/
def CmpCond.compares (c : CmpCond) (u v : Nat) (x y : Int) : Prop :=
  match c with
  | .eq => u = v
  | .ne => u ≠ v
  | .lt => x < y
  | .ge => y ≤ x
  | .ltu => u < v
  | .geu => v ≤ u
  | .tst => u &&& v ≠ 0

theorem CmpCond.test_iff {w : Nat} (c : CmpCond) (a b : BitVec w) :
    CmpCond.test c a b = true ↔ CmpCond.compares c a.toNat b.toNat a.toInt b.toInt := by
  cases c with
  | eq => simp [CmpCond.test, CmpCond.compares, BitVec.toNat_inj]
  | ne => simp [CmpCond.test, CmpCond.compares, BitVec.toNat_inj]
  | lt => simp [CmpCond.test, CmpCond.compares, BitVec.slt_iff_toInt_lt]
  | ge => simp [CmpCond.test, CmpCond.compares, BitVec.slt_eq_decide]
  | ltu => simp [CmpCond.test, CmpCond.compares, BitVec.ult_iff_lt, BitVec.lt_def]
  | geu => simp [CmpCond.test, CmpCond.compares, BitVec.ult_eq_decide]
  | tst => simp [CmpCond.test, CmpCond.compares, ← BitVec.toNat_inj]

/-- Values of operands at width 64. -/
theorem opU_false (a : Word) : opU false a = a.toNat := Nat.mod_eq_of_lt a.isLt

theorem opS_false (a : Word) : opS false a = a.toInt := by
  rw [opS, opU_false, BitVec.toInt_eq_toNat_bmod]; rfl

/-- Values of operands cut to width 32. -/
theorem opU_true (a : Word) : opU true a = (a.setWidth 32).toNat := (BitVec.toNat_setWidth 32 a).symm

theorem opS_true (a : Word) : opS true a = (a.setWidth 32).toInt := by
  rw [opS, opU_true, BitVec.toInt_eq_toNat_bmod]; rfl

theorem cmpHolds_eq_compares (c : CmpCond) (w : Bool) (a b : Word) :
    cmpHolds c w a b = CmpCond.compares c (opU w a) (opU w b) (opS w a) (opS w b) := by
  cases c <;> rfl

/-- The machine's condition holds where the spec's does. -/
theorem CmpCond.holds_iff (c : CmpCond) (w : Bool) (a b : Word) : CmpCond.holds c w a b = true ↔ cmpHolds c w a b := by
  rw [cmpHolds_eq_compares]
  cases w with
  | false => rw [opU_false, opU_false, opS_false, opS_false]; exact CmpCond.test_iff c a b
  | true => rw [opU_true, opU_true, opS_true, opS_true]; exact CmpCond.test_iff c _ _

/-! Predicates as bits of a number (05 R221). -/

/-- The sum of a number's low bits, each at its place, is its remainder. -/
theorem sum_testBit (x w : Nat) :
    ((List.finRange w).map fun i : Fin w => (x.testBit i).toNat * 2 ^ i.val).sum = x % 2 ^ w := by
  induction w with
  | zero => simp [Nat.mod_one]
  | succ w ih =>
    rw [List.finRange_succ_last, List.map_append, List.sum_append, List.map_map, Nat.mod_pow_succ, ← ih,
      ← Nat.toNat_testBit]
    simp [Function.comp_def, Nat.mul_comm]

/-- PMOV's number holds p1..p7 in its bits 7..1 and p0 as a one. -/
theorem Stream.getP_eq_testBit (st : Stream) (i : Fin 8) : st.getP i = (2 * (st.p.toNat / 2) + 1).testBit i.val := by
  cases i using Fin.cases with
  | zero => simp [Stream.getP]
  | succ j =>
    have half : (2 * (st.p.toNat / 2) + 1) / 2 = st.p.toNat / 2 := by omega
    rw [Fin.val_succ, Nat.testBit_succ, half, ← Nat.testBit_succ]
    simp [Stream.getP, BitVec.getLsbD]

/-- The eight predicates as a number (05 R221). -/
theorem State.sum_pval (s : State) :
    ((List.finRange 8).map fun i => (s.pval i).toNat * 2 ^ i.val).sum = 2 * ((s.stream s.cur).p.toNat / 2) + 1 := by
  have hp := (s.stream s.cur).p.isLt
  simp only [State.pval, Stream.getP_eq_testBit, sum_testBit]
  omega

/-- The predicates p1..p7 taken from a word's bits 7..1 (05 R221). -/
def Stream.takeP (st : Stream) (x : Word) : Stream := { st with p := (st.p &&& 1#8) ||| (x.setWidth 8 &&& 0xFE#8) }

theorem Stream.getP_takeP (st : Stream) (x : Word) (i : Fin 8) :
    (st.takeP x).getP i = if i = 0 then true else x.getLsbD i.val := by
  have high : ∀ j : Fin 7, (0xFE#8).getLsbD (j.val + 1) = true := by decide
  cases i using Fin.cases with
  | zero => rfl
  | succ j =>
    have hj : j.val + 1 < 8 := j.succ.isLt
    simp [Stream.getP, Stream.takeP, high, hj]

theorem State.pval_upStream (s : State) (f : Stream → Stream) (n : Fin 8) :
    (s.upStream f).pval n = (f (s.stream s.cur)).getP n := by
  have hc : (s.upStream f).cur = s.cur := by unfold State.upStream; simp
  rw [State.pval, hc, State.upStream, State.stream_setStream_self]

/-! Major 0x12, one lemma per instruction. -/

section Scalar

variable {s : State} {h : Hdr} {d a b : XOp} {p q r : Fin 8} {w : Bool}

theorem does_movi (imm : BitVec 62) : Does (.movi h d imm) h s .next (s.xput d (imm.signExtend 64)) :=
  .of_runSeq rfl fun _ => writeX_ok ..

/-- CMP writes its result, then the complement. -/
theorem does_cmp (c : CmpCond) : Does (.cmp h c w p q a b) h s .next
    (s.x2 a b fun x y t => (t.pput p (CmpCond.holds c w x y)).pput q (!CmpCond.holds c w x y)) :=
  .of_runSeq rfl fun hi => by
    rw [bind_readX _ (hi.has1 rfl rfl), bind_readX _ (hi.has2 rfl rfl), bind_ok (writeP_ok ..), writeP_ok]
    rfl

theorem does_cmpi (c : CmpCond) (imm : BitVec 48) : Does (.cmpi h c w p a imm) h s .next
    (s.x1 a fun x t => t.pput p (CmpCond.holds c w x (imm.signExtend 64))) :=
  .of_runSeq rfl fun hi => by
    rw [bind_readX _ (hi.has1 rfl rfl), writeP_ok]
    rfl

theorem does_plog (lut : BitVec 4) : Does (.plog h lut p q r) h s .next
    (s.pput p (lut.getLsbD (2 * (s.pval q).toNat + (s.pval r).toNat))) :=
  .of_runSeq rfl fun _ => by
    rw [bind_ok (readP_ok ..), bind_ok (readP_ok ..), writeP_ok, lut2]

theorem does_pmovToX : Does (.pmovToX h d) h s .next
    (s.xput d (BitVec.ofNat 64 (((List.finRange 8).map fun i => (s.pval i).toNat * 2 ^ i.val).sum))) :=
  .of_runSeq rfl fun _ => by
    have hst : curStream s = .ok (s.stream s.cur) s := rfl
    rw [bind_ok hst, writeX_ok, State.sum_pval]

theorem does_pmovToP : Does (.pmovToP h a) h s .next ((s.xpop a).upStream fun st => st.takeP (s.xval a)) :=
  .of_runSeq rfl fun hi => by
    rw [bind_readX _ (hi.has1 rfl rfl), modStream_ok]
    rfl

end Scalar

/-- Settles O9: one lemma per instruction; a condition holds in the machine where it holds on exact values, and the number
of PMOV is the sum of the predicates at their places. -/
theorem movesAndPredicates : Obligations.MovesAndPredicates := by
  unfold Obligations.MovesAndPredicates
  intro s h d a b p q r w
  refine ⟨fun imm => does_movi imm, fun c res hres => ?compares, fun lut => does_plog lut, does_pmovToX, _,
    does_pmovToP, fun i => ?predicates⟩
  case compares =>
    have hr : ∀ x y, res x y = CmpCond.holds c w x y := fun x y => by
      rw [Bool.eq_iff_iff, hres, CmpCond.holds_iff]
    simp only [hr]
    exact ⟨does_cmp c, fun imm => does_cmpi c imm⟩
  case predicates => rw [State.pval_upStream, Stream.getP_takeP]

end Sys2Proof.Machine
end

section
/-! SUPPORT. What the branch-outcome queues, the loops and NOP of major 0x01 do (05 R197, R199, R202, R210, R211). -/

namespace Sys2Proof.Machine

open Sys2Proof

/-! What a body takes from the machine, and a legal transfer. -/

theorem get_ok (s : State) : (get : M State) s = .ok s s := rfl

@[simp] theorem curHart_ok (s : State) : curHart s = .ok (s.hart s.cur.slot) s := rfl

@[simp] theorem successor_ok (s : State) : successor s = .ok s.after s := rfl

/-- A transfer whose target is legal is taken. -/
theorem transfer_ok {n : Word} {s s' : State} (hn : Reaches n s s') : transfer n s = .ok (.taken n) s' := bind_ok hn

/-! NOP and LEXIT. -/

section Plain

variable {s : State} {h : Hdr}

theorem does_nop : Does (.nop h) h s .next s := .of_runSeq rfl fun _ => rfl

theorem does_lexit {l : Bool} :
    Does (.lexit h l) h s .next (s.upStream fun st => if l then { st with lc1 := 0 } else { st with lc0 := 0 }) :=
  .of_runSeq rfl fun _ => modStream_ok ..

end Plain

/-! The branch-outcome queues. -/

/-- The state once a bit has entered the branch-outcome queue that leads away from the executing stream (05 R197). -/
def State.pushBit (s : State) (b : Bool) : State :=
  s.upHart fun k => if s.cur.isX then { k with bqx := k.bqx ++ [b] } else { k with bqa := k.bqa ++ [b] }

/-- The branch-outcome queue that leads toward the executing stream (05 R197). -/
def State.bitsIn (s : State) : List Bool := if s.cur.isX then (s.hart s.cur.slot).bqa else (s.hart s.cur.slot).bqx

/-- The state once the queue that leads toward the executing stream holds `rest`. -/
def State.keepBits (s : State) (rest : List Bool) : State :=
  s.upHart fun k => if s.cur.isX then { k with bqa := rest } else { k with bqx := rest }

/-- What BRQ does with the bit that it has taken: it branches where the bit is not the one that it names (05 R210). -/
noncomputable def brqBody (z : Bool) (off : BitVec 40) (bit : Bool) : M Ctl := do
  if bit != z then transfer (targetOf (← get).issue.n off) else pure .next

section Queues

variable {s s' : State} {h : Hdr} {z bit : Bool} {rest : List Bool} {off : BitVec 40}

theorem does_pushb {inv : Bool} {a : Fin 8} : Does (.pushb h inv a) h s .next (s.pushBit (s.pval a != inv)) :=
  .of_runSeq rfl fun _ => rfl

/-- BRQ takes the oldest bit, then does what the bit says. -/
theorem Does.of_brq {ctl : Ctl} {t : State} (hq : s.bitsIn = bit :: rest)
    (hb : brqBody z off bit (s.keepBits rest) = .ok ctl t) : Does (.brq h z off) h s ctl t := by
  refine .of_runHart rfl fun _ => ?_
  rw [State.bitsIn] at hq
  rw [bind_ok (get_ok s), bind_ok (curHart_ok s), hq]
  exact (bind_ok (modHart_ok _ s)).trans hb

theorem does_brq_stays (hq : s.bitsIn = bit :: rest) (hz : bit = z) :
    Does (.brq h z off) h s .next (s.keepBits rest) :=
  .of_brq hq (by rw [brqBody, hz, bne_self_eq_false]; rfl)

theorem does_brq_branches (hq : s.bitsIn = bit :: rest) (hz : bit ≠ z)
    (hr : Reaches (targetOf s.issue.n off) (s.keepBits rest) s') :
    Does (.brq h z off) h s (.taken (targetOf s.issue.n off)) s' :=
  .of_brq hq (by
    rw [brqBody, if_pos (bne_iff_ne.mpr hz), bind_ok (get_ok _)]
    exact transfer_ok hr)

end Queues

/-! LOOP. -/

/-- The count of a LOOP and the state once it has been read (05 R199). -/
def State.loopCount (s : State) : LoopCount → Word × State
  | .reg a => (s.xval a, s.xpop a)
  | .imm k => (k.setWidth 64, s)

/-- What LOOP does with its count: it arms the loop and goes on, or with a count of 0 leaves for the successor of the loop's
end (05 R199). -/
noncomputable def loopBody (l : Bool) (le count : Word) : M Ctl := do
  let start ← successor
  if count = 0 then
    let out ← succAny le
    modStream fun st => st.armLoop l start le count
    pure (.taken out)
  else
    modStream fun st => st.armLoop l start le count
    pure .next

section Loops

variable {s s' t : State} {h : Hdr} {l : Bool} {c : LoopCount} {off : BitVec 40} {n le count : Word}

theorem State.after_loopCount (s : State) (c : LoopCount) : (s.loopCount c).2.after = s.after := by
  match c with
  | .reg (.x _) => rfl
  | .reg (.q _) => rfl
  | .imm _ => rfl

theorem loopBody_arms (h0 : count ≠ 0) :
    loopBody l le count t = .ok .next (t.upStream fun st => st.armLoop l t.after le count) := by
  rw [loopBody, bind_ok (successor_ok t), if_neg h0, bind_ok (modStream_ok _ t)]
  rfl

theorem loopBody_leaves (h0 : count = 0) (hn : succAny le t = .ok n s') :
    loopBody l le count t = .ok (.taken n) (s'.upStream fun st => st.armLoop l t.after le count) := by
  rw [loopBody, bind_ok (successor_ok t), if_pos h0, bind_ok hn, bind_ok (modStream_ok _ s')]
  rfl

/-- LOOP reads its count, then does what the count says. -/
theorem Does.of_loop {ctl : Ctl} {u : State} (hc : s.loopCount c = (count, t))
    (hb : loopBody l (targetOf s.issue.n off) count t = .ok ctl u) : Does (.loop h l c off) h s ctl u := by
  obtain ⟨rfl, rfl⟩ := Prod.mk.inj hc
  cases c with
  | reg a => exact .of_runHart rfl fun hi => (bind_readX _ (hi.has1 rfl rfl)).trans hb
  | imm k => exact .of_runHart rfl fun _ => hb

theorem does_loop_arms (hc : s.loopCount c = (count, t)) (h0 : count ≠ 0) :
    Does (.loop h l c off) h s .next (t.upStream fun st => st.armLoop l s.after (targetOf s.issue.n off) count) := by
  have ha : t.after = s.after := by rw [← s.after_loopCount c, hc]
  exact .of_loop hc (ha ▸ loopBody_arms h0)

theorem does_loop_leaves (hc : s.loopCount c = (count, t)) (h0 : count = 0)
    (hn : succAny (targetOf s.issue.n off) t = .ok n s') :
    Does (.loop h l c off) h s (.taken n)
      (s'.upStream fun st => st.armLoop l s.after (targetOf s.issue.n off) count) := by
  have ha : t.after = s.after := by rw [← s.after_loopCount c, hc]
  exact .of_loop hc (ha ▸ loopBody_leaves h0 hn)

end Loops

/-- Settles O12: one lemma per instruction and outcome; which queue leads away from the stream and which toward it is read off
the executing party. -/
theorem branchQueuesAndLoops : Obligations.BranchQueuesAndLoops := by
  unfold Obligations.BranchQueuesAndLoops
  intro s s' h l off n
  refine ⟨does_nop, does_lexit, ?pushb, ?brq, ?loop⟩
  case pushb =>
    intro slot isX inv a hs
    have push := does_pushb (s := s) (h := h) (inv := inv) (a := a)
    rwa [State.pushBit, hs] at push
  case brq =>
    intro slot isX z bit rest hs hq
    have bits : s.bitsIn = bit :: rest := by rwa [State.bitsIn, hs]
    have kept : s.keepBits rest = s.upHart fun k =>
        if isX then { k with bqa := rest } else { k with bqx := rest } := by rw [State.keepBits, hs]; rfl
    rw [← kept]
    exact ⟨does_brq_stays bits, does_brq_branches bits⟩
  case loop =>
    intro c count t hc
    exact ⟨does_loop_arms hc, does_loop_leaves hc⟩

end Sys2Proof.Machine
end

section
/-! SUPPORT. Decoding undoes encoding: one lemma per instruction that has a word, one per leg (02 R72..R91; 12 R481..R484). -/

set_option Elab.async false

namespace Sys2Proof

/-! Reading packed fields. -/

@[simp] theorem unpack_pack_fields : (∀ n, unpack [] n = []) ∧ ∀ w v ws r,
    unpack (w :: ws) (pack ((w, v) :: r)) = v % 2 ^ w :: unpack ws (pack r) :=
  ⟨unpack_nil, unpack_cons_pack⟩

@[simp] theorem ofNat_toNat_mod {n : Nat} (b : BitVec n) : BitVec.ofNat n (b.toNat % 2 ^ n) = b := by
  rw [bits_mod b le_rfl, BitVec.ofNat_toNat, BitVec.setWidth_eq]

/-- Every code stands in its field whole. -/
@[simp] theorem code_mods :
    (∀ a, XOp.code a % 2 ^ 7 = a.code) ∧ (∀ a, VOp.code a % 2 ^ 7 = a.code) ∧ (∀ a, VSrc.code a % 2 ^ 7 = a.code) ∧
    (∀ a, RedDst.code a % 2 ^ 7 = a.code) ∧ (∀ a, RedpDst.codeD a % 2 ^ 7 = a.codeD) ∧
    (∀ a, RedpDst.codeE a % 2 ^ 7 = a.codeE) ∧ (∀ a, optVCode a % 2 ^ 7 = optVCode a) ∧
    (∀ a, LoopCount.regCode a % 2 ^ 7 = a.regCode) ∧ (∀ a, LoopCount.immCode a % 2 ^ 13 = a.immCode) ∧
    (∀ a, Ty.code a % 2 ^ 5 = a.code) ∧ (∀ a, Rnd.code a % 2 ^ 3 = a.code) ∧ (∀ a, Scope.code a % 2 ^ 3 = a.code) ∧
    (∀ a, optScopeCode a % 2 ^ 3 = optScopeCode a) ∧ (∀ a, BrCond.code a % 2 ^ 3 = a.code) ∧
    (∀ a, CmpCond.code a % 2 ^ 3 = a.code) ∧ (∀ a, VCond.code a % 2 ^ 3 = a.code) ∧
    (∀ a, FenceKind.code a % 2 ^ 2 = a.code) ∧ (∀ a, RedOp.code a % 2 ^ 3 = a.code) ∧ (∀ a, GOp.code a % 2 ^ 2 = a.code) ∧
    (∀ a, Res.code a % 2 ^ 2 = a.code) ∧ (∀ a, LvlSel.code a % 2 ^ 3 = a.code) ∧ (∀ a, WldDst.code a % 2 ^ 2 = a.code) ∧
    (∀ a, VerMode.code a % 2 ^ 2 = a.code) ∧ ∀ a, LcTarget.code a % 2 ^ 3 = a.code :=
  ⟨XOp.code_mod, VOp.code_mod, VSrc.code_mod, RedDst.code_mod, RedpDst.codeD_mod, RedpDst.codeE_mod, optVCode_mod,
    LoopCount.regCode_mod, LoopCount.immCode_mod, Ty.code_mod, Rnd.code_mod, Scope.code_mod, optScopeCode_mod, BrCond.code_mod,
    CmpCond.code_mod, VCond.code_mod, FenceKind.code_mod, RedOp.code_mod, GOp.code_mod, Res.code_mod, LvlSel.code_mod,
    WldDst.code_mod, VerMode.code_mod, LcTarget.code_mod⟩

/-- So does every flag and every register number. -/
@[simp] theorem number_mods :
    (∀ b : Bool, b.toNat % 2 = b.toNat) ∧ (∀ a : Fin 4, a.val % 2 ^ 2 = a.val) ∧ (∀ a : Fin 4, a.val % 2 ^ 3 = a.val) ∧
    (∀ a : Fin 8, a.val % 2 ^ 3 = a.val) ∧ (∀ a : Fin 8, a.val % 2 ^ 7 = a.val) ∧ (∀ a : Fin 16, a.val % 2 ^ 4 = a.val) ∧
    (∀ a : Fin 64, a.val % 2 ^ 7 = a.val) ∧ (∀ a : Fin 3, a.val % 2 ^ 2 = a.val) ∧ ∀ a : Fin 17, a.val % 2 ^ 5 = a.val :=
  ⟨Bool.toNat_mod_two, (fin_mod · (by decide)), (fin_mod · (by decide)), (fin_mod · (by decide)), (fin_mod · (by decide)),
    (fin_mod · (by decide)), (fin_mod · (by decide)), (fin_mod · (by decide)), (fin_mod · (by decide))⟩

/-- And every selector that is a number. -/
@[simp] theorem selector_mods : 2 % 2 ^ 5 = 2 ∧ 3 % 2 ^ 5 = 3 ∧ 4 % 2 ^ 5 = 4 ∧ 6 % 2 ^ 5 = 6 ∧ 7 % 2 ^ 5 = 7 ∧
    17 % 2 ^ 5 = 17 ∧ 3 % 2 ^ 2 = 3 ∧ 15 % 2 ^ 4 = 15 := by decide

/-! One instruction. -/

/-- The word of the instruction, if it has one, decodes to it where it is well-formed. -/
def Decodes (i : Instr) : Prop := ∀ w, encode i = some w → i.wf = true → decode w = some i

/-- It does when the decoder of its major and function reads it back from the fields of its body. -/
theorem Decodes.of {i : Instr} {h : Hdr} {maj fn : Nat} {fs : List (Nat × Nat)} (dec : Hdr → Nat → Option Instr)
    (he : Laws.Encodable.Statement i) (hf : i.fields = some (h, maj, fn, fs)) (hd : decodeBody maj fn = dec)
    (hi : i.wf = true → dec h (pack fs) = some i) : Decodes i := by
  intro w hw wf
  rw [Laws.Encodable.Statement, hf] at he
  obtain ⟨h69, hmaj, hfn⟩ := he
  have body : pack fs < 2 ^ 69 := h69 ▸ pack_lt fs
  rw [encode, hf] at hw
  obtain rfl := Option.some.inj hw
  rw [decode, parseWord_pack h maj fn _ hmaj hfn body, hd, hi wf]
  simpa using wf

/-- A number of another form than SVSAMP.OFF's, whose body is 0. -/
theorem decSvsampOff_of_ne_zero {h : Hdr} {n : Nat} (hn : n % 2 ^ 69 ≠ 0) : decSvsampOff h n = none := by
  unfold decSvsampOff
  split
  next e => exact absurd (List.cons.inj e).1 hn
  next => rfl

/-- A body with bit 3 set is none of MEXTEND's. -/
theorem decMextend_of_bit {h : Hdr} {n : Nat} (hn : n / 2 ^ 3 % 2 ^ 1 ≠ 0) : decMextend h n = none := by
  unfold decMextend
  split
  next e => exact absurd (List.cons.inj (List.cons.inj e).2).1 hn
  next => rfl

theorem formOk_of_wf {i : Instr} (h : i.wf = true) : i.formOk = true := (Bool.and_eq_true_iff.1 h).2

namespace Decodes

theorem svsamp {a0 a1 a2} : Decodes (.svsamp a0 a1 a2) :=
  .of (fun h body => (decSvsampOff h body).or (decSvsamp h body)) Laws.Encodable.svsamp rfl rfl fun wf => by
    have rate : 6 ≤ a1.toNat := by
      have ok : (decide (6 ≤ a1.toNat) && decide (a1.toNat ≤ 20)) = true := formOk_of_wf wf
      exact of_decide_eq_true (Bool.and_eq_true_iff.1 ok).1
    have lo := a1.isLt
    have hi := pack_lt [(50, 0), (7, a2.code), (7, 0)]
    rw [decSvsampOff_of_ne_zero (by rw [pack]; simp only [packWidth, List.map, List.sum] at hi; omega)]
    simp [-Nat.reducePow, decSvsamp]

theorem mextendDbg {a0 a1} : Decodes (.mextendDbg a0 a1) :=
  .of (fun h body => (decMextend h body).or (decMextendDbg h body)) Laws.Encodable.mextendDbg rfl rfl fun _ => by
    rw [decMextend_of_bit (by rw [pack]; omega)]
    simp [-Nat.reducePow, decMextendDbg]

theorem br {a0 a1 a2 a3 a4} : Decodes (.br a0 a1 a2 a3 a4) :=
  .of decBr Laws.Encodable.br rfl rfl fun _ => by simp [-Nat.reducePow, decBr]
theorem jmp {a0 a1} : Decodes (.jmp a0 a1) := .of decJmp Laws.Encodable.jmp rfl rfl fun _ => by simp [-Nat.reducePow, decJmp]
theorem call {a0 a1 a2} : Decodes (.call a0 a1 a2) :=
  .of decCall Laws.Encodable.call rfl rfl fun _ => by simp [-Nat.reducePow, decCall]
theorem callr {a0 a1 a2} : Decodes (.callr a0 a1 a2) :=
  .of decCallr Laws.Encodable.callr rfl rfl fun _ => by simp [-Nat.reducePow, decCallr]
theorem ret {a0 a1} : Decodes (.ret a0 a1) := .of decRet Laws.Encodable.ret rfl rfl fun _ => by simp [-Nat.reducePow, decRet]
theorem pushb {a0 a1 a2} : Decodes (.pushb a0 a1 a2) :=
  .of decPushb Laws.Encodable.pushb rfl rfl fun _ => by simp [-Nat.reducePow, decPushb]
theorem brq {a0 a1 a2} : Decodes (.brq a0 a1 a2) :=
  .of decBrq Laws.Encodable.brq rfl rfl fun _ => by simp [-Nat.reducePow, decBrq]
theorem loop {a0 a1 a2 a3} : Decodes (.loop a0 a1 a2 a3) :=
  .of decLoop Laws.Encodable.loop rfl rfl fun _ => by simp [-Nat.reducePow, decLoop]
theorem lexit {a0 a1} : Decodes (.lexit a0 a1) :=
  .of decLexit Laws.Encodable.lexit rfl rfl fun _ => by simp [-Nat.reducePow, decLexit]
theorem nop {a0} : Decodes (.nop a0) := .of decNop Laws.Encodable.nop rfl rfl fun _ => by simp [-Nat.reducePow, decNop]
theorem trap {a0 a1} : Decodes (.trap a0 a1) :=
  .of decTrap Laws.Encodable.trap rfl rfl fun _ => by simp [-Nat.reducePow, decTrap]
theorem eret {a0} : Decodes (.eret a0) := .of decEret Laws.Encodable.eret rfl rfl fun _ => by simp [-Nat.reducePow, decEret]
theorem srr {a0 a1 a2} : Decodes (.srr a0 a1 a2) :=
  .of decSrr Laws.Encodable.srr rfl rfl fun _ => by simp [-Nat.reducePow, decSrr]
theorem srw {a0 a1 a2} : Decodes (.srw a0 a1 a2) :=
  .of decSrw Laws.Encodable.srw rfl rfl fun _ => by simp [-Nat.reducePow, decSrw]
theorem wait {a0 a1 a2} : Decodes (.wait a0 a1 a2) :=
  .of decWait Laws.Encodable.wait rfl rfl fun _ => by simp [-Nat.reducePow, decWait]
theorem yield {a0} : Decodes (.yield a0) :=
  .of decYield Laws.Encodable.yield rfl rfl fun _ => by simp [-Nat.reducePow, decYield]
theorem halt {a0} : Decodes (.halt a0) := .of decHalt Laws.Encodable.halt rfl rfl fun _ => by simp [-Nat.reducePow, decHalt]
theorem fencei {a0} : Decodes (.fencei a0) :=
  .of decFencei Laws.Encodable.fencei rfl rfl fun _ => by simp [-Nat.reducePow, decFencei]
theorem add {a0 a1 a2 a3 a4} : Decodes (.add a0 a1 a2 a3 a4) :=
  .of decAdd Laws.Encodable.add rfl rfl fun _ => by simp [-Nat.reducePow, decAdd]
theorem sub {a0 a1 a2 a3 a4} : Decodes (.sub a0 a1 a2 a3 a4) :=
  .of decSub Laws.Encodable.sub rfl rfl fun _ => by simp [-Nat.reducePow, decSub]
theorem mul {a0 a1 a2 a3 a4} : Decodes (.mul a0 a1 a2 a3 a4) :=
  .of decMul Laws.Encodable.mul rfl rfl fun _ => by simp [-Nat.reducePow, decMul]
theorem mulh {a0 a1 a2 a3 a4} : Decodes (.mulh a0 a1 a2 a3 a4) :=
  .of decMulh Laws.Encodable.mulh rfl rfl fun _ => by simp [-Nat.reducePow, decMulh]
theorem mulhu {a0 a1 a2 a3 a4} : Decodes (.mulhu a0 a1 a2 a3 a4) :=
  .of decMulhu Laws.Encodable.mulhu rfl rfl fun _ => by simp [-Nat.reducePow, decMulhu]
theorem div {a0 a1 a2 a3 a4} : Decodes (.div a0 a1 a2 a3 a4) :=
  .of decDiv Laws.Encodable.div rfl rfl fun _ => by simp [-Nat.reducePow, decDiv]
theorem divu {a0 a1 a2 a3 a4} : Decodes (.divu a0 a1 a2 a3 a4) :=
  .of decDivu Laws.Encodable.divu rfl rfl fun _ => by simp [-Nat.reducePow, decDivu]
theorem rem {a0 a1 a2 a3 a4} : Decodes (.rem a0 a1 a2 a3 a4) :=
  .of decRem Laws.Encodable.rem rfl rfl fun _ => by simp [-Nat.reducePow, decRem]
theorem remu {a0 a1 a2 a3 a4} : Decodes (.remu a0 a1 a2 a3 a4) :=
  .of decRemu Laws.Encodable.remu rfl rfl fun _ => by simp [-Nat.reducePow, decRemu]
theorem and {a0 a1 a2 a3 a4} : Decodes (.and a0 a1 a2 a3 a4) :=
  .of decAnd Laws.Encodable.and rfl rfl fun _ => by simp [-Nat.reducePow, decAnd]
theorem or {a0 a1 a2 a3 a4} : Decodes (.or a0 a1 a2 a3 a4) :=
  .of decOr Laws.Encodable.or rfl rfl fun _ => by simp [-Nat.reducePow, decOr]
theorem xor {a0 a1 a2 a3 a4} : Decodes (.xor a0 a1 a2 a3 a4) :=
  .of decXor Laws.Encodable.xor rfl rfl fun _ => by simp [-Nat.reducePow, decXor]
theorem andn {a0 a1 a2 a3 a4} : Decodes (.andn a0 a1 a2 a3 a4) :=
  .of decAndn Laws.Encodable.andn rfl rfl fun _ => by simp [-Nat.reducePow, decAndn]
theorem shl {a0 a1 a2 a3 a4} : Decodes (.shl a0 a1 a2 a3 a4) :=
  .of decShl Laws.Encodable.shl rfl rfl fun _ => by simp [-Nat.reducePow, decShl]
theorem shr {a0 a1 a2 a3 a4} : Decodes (.shr a0 a1 a2 a3 a4) :=
  .of decShr Laws.Encodable.shr rfl rfl fun _ => by simp [-Nat.reducePow, decShr]
theorem sra {a0 a1 a2 a3 a4} : Decodes (.sra a0 a1 a2 a3 a4) :=
  .of decSra Laws.Encodable.sra rfl rfl fun _ => by simp [-Nat.reducePow, decSra]
theorem ror {a0 a1 a2 a3 a4} : Decodes (.ror a0 a1 a2 a3 a4) :=
  .of decRor Laws.Encodable.ror rfl rfl fun _ => by simp [-Nat.reducePow, decRor]
theorem min {a0 a1 a2 a3 a4} : Decodes (.min a0 a1 a2 a3 a4) :=
  .of decMin Laws.Encodable.min rfl rfl fun _ => by simp [-Nat.reducePow, decMin]
theorem max {a0 a1 a2 a3 a4} : Decodes (.max a0 a1 a2 a3 a4) :=
  .of decMax Laws.Encodable.max rfl rfl fun _ => by simp [-Nat.reducePow, decMax]
theorem minu {a0 a1 a2 a3 a4} : Decodes (.minu a0 a1 a2 a3 a4) :=
  .of decMinu Laws.Encodable.minu rfl rfl fun _ => by simp [-Nat.reducePow, decMinu]
theorem maxu {a0 a1 a2 a3 a4} : Decodes (.maxu a0 a1 a2 a3 a4) :=
  .of decMaxu Laws.Encodable.maxu rfl rfl fun _ => by simp [-Nat.reducePow, decMaxu]
theorem clz {a0 a1 a2 a3} : Decodes (.clz a0 a1 a2 a3) :=
  .of decClz Laws.Encodable.clz rfl rfl fun _ => by simp [-Nat.reducePow, decClz]
theorem ctz {a0 a1 a2 a3} : Decodes (.ctz a0 a1 a2 a3) :=
  .of decCtz Laws.Encodable.ctz rfl rfl fun _ => by simp [-Nat.reducePow, decCtz]
theorem popc {a0 a1 a2 a3} : Decodes (.popc a0 a1 a2 a3) :=
  .of decPopc Laws.Encodable.popc rfl rfl fun _ => by simp [-Nat.reducePow, decPopc]
theorem bfx {a0 a1 a2 a3 a4} : Decodes (.bfx a0 a1 a2 a3 a4) :=
  .of decBfx Laws.Encodable.bfx rfl rfl fun _ => by simp [-Nat.reducePow, decBfx]
theorem bfi {a0 a1 a2 a3 a4} : Decodes (.bfi a0 a1 a2 a3 a4) :=
  .of decBfi Laws.Encodable.bfi rfl rfl fun _ => by simp [-Nat.reducePow, decBfi]
theorem sel {a0 a1 a2 a3 a4} : Decodes (.sel a0 a1 a2 a3 a4) :=
  .of decSel Laws.Encodable.sel rfl rfl fun _ => by simp [-Nat.reducePow, decSel]
theorem lea {a0 a1 a2 a3 a4} : Decodes (.lea a0 a1 a2 a3 a4) :=
  .of decLea Laws.Encodable.lea rfl rfl fun _ => by simp [-Nat.reducePow, decLea]
theorem addImm {a0 a1 a2 a3 a4} : Decodes (.addImm a0 a1 a2 a3 a4) :=
  .of decAddImm Laws.Encodable.addImm rfl rfl fun _ => by simp [-Nat.reducePow, decAddImm]
theorem subImm {a0 a1 a2 a3 a4} : Decodes (.subImm a0 a1 a2 a3 a4) :=
  .of decSubImm Laws.Encodable.subImm rfl rfl fun _ => by simp [-Nat.reducePow, decSubImm]
theorem mulImm {a0 a1 a2 a3 a4} : Decodes (.mulImm a0 a1 a2 a3 a4) :=
  .of decMulImm Laws.Encodable.mulImm rfl rfl fun _ => by simp [-Nat.reducePow, decMulImm]
theorem mulhImm {a0 a1 a2 a3 a4} : Decodes (.mulhImm a0 a1 a2 a3 a4) :=
  .of decMulhImm Laws.Encodable.mulhImm rfl rfl fun _ => by simp [-Nat.reducePow, decMulhImm]
theorem mulhuImm {a0 a1 a2 a3 a4} : Decodes (.mulhuImm a0 a1 a2 a3 a4) :=
  .of decMulhuImm Laws.Encodable.mulhuImm rfl rfl fun _ => by simp [-Nat.reducePow, decMulhuImm]
theorem divImm {a0 a1 a2 a3 a4} : Decodes (.divImm a0 a1 a2 a3 a4) :=
  .of decDivImm Laws.Encodable.divImm rfl rfl fun _ => by simp [-Nat.reducePow, decDivImm]
theorem divuImm {a0 a1 a2 a3 a4} : Decodes (.divuImm a0 a1 a2 a3 a4) :=
  .of decDivuImm Laws.Encodable.divuImm rfl rfl fun _ => by simp [-Nat.reducePow, decDivuImm]
theorem remImm {a0 a1 a2 a3 a4} : Decodes (.remImm a0 a1 a2 a3 a4) :=
  .of decRemImm Laws.Encodable.remImm rfl rfl fun _ => by simp [-Nat.reducePow, decRemImm]
theorem remuImm {a0 a1 a2 a3 a4} : Decodes (.remuImm a0 a1 a2 a3 a4) :=
  .of decRemuImm Laws.Encodable.remuImm rfl rfl fun _ => by simp [-Nat.reducePow, decRemuImm]
theorem andImm {a0 a1 a2 a3 a4} : Decodes (.andImm a0 a1 a2 a3 a4) :=
  .of decAndImm Laws.Encodable.andImm rfl rfl fun _ => by simp [-Nat.reducePow, decAndImm]
theorem orImm {a0 a1 a2 a3 a4} : Decodes (.orImm a0 a1 a2 a3 a4) :=
  .of decOrImm Laws.Encodable.orImm rfl rfl fun _ => by simp [-Nat.reducePow, decOrImm]
theorem xorImm {a0 a1 a2 a3 a4} : Decodes (.xorImm a0 a1 a2 a3 a4) :=
  .of decXorImm Laws.Encodable.xorImm rfl rfl fun _ => by simp [-Nat.reducePow, decXorImm]
theorem andnImm {a0 a1 a2 a3 a4} : Decodes (.andnImm a0 a1 a2 a3 a4) :=
  .of decAndnImm Laws.Encodable.andnImm rfl rfl fun _ => by simp [-Nat.reducePow, decAndnImm]
theorem shlImm {a0 a1 a2 a3 a4} : Decodes (.shlImm a0 a1 a2 a3 a4) :=
  .of decShlImm Laws.Encodable.shlImm rfl rfl fun _ => by simp [-Nat.reducePow, decShlImm]
theorem shrImm {a0 a1 a2 a3 a4} : Decodes (.shrImm a0 a1 a2 a3 a4) :=
  .of decShrImm Laws.Encodable.shrImm rfl rfl fun _ => by simp [-Nat.reducePow, decShrImm]
theorem sraImm {a0 a1 a2 a3 a4} : Decodes (.sraImm a0 a1 a2 a3 a4) :=
  .of decSraImm Laws.Encodable.sraImm rfl rfl fun _ => by simp [-Nat.reducePow, decSraImm]
theorem rorImm {a0 a1 a2 a3 a4} : Decodes (.rorImm a0 a1 a2 a3 a4) :=
  .of decRorImm Laws.Encodable.rorImm rfl rfl fun _ => by simp [-Nat.reducePow, decRorImm]
theorem minImm {a0 a1 a2 a3 a4} : Decodes (.minImm a0 a1 a2 a3 a4) :=
  .of decMinImm Laws.Encodable.minImm rfl rfl fun _ => by simp [-Nat.reducePow, decMinImm]
theorem maxImm {a0 a1 a2 a3 a4} : Decodes (.maxImm a0 a1 a2 a3 a4) :=
  .of decMaxImm Laws.Encodable.maxImm rfl rfl fun _ => by simp [-Nat.reducePow, decMaxImm]
theorem minuImm {a0 a1 a2 a3 a4} : Decodes (.minuImm a0 a1 a2 a3 a4) :=
  .of decMinuImm Laws.Encodable.minuImm rfl rfl fun _ => by simp [-Nat.reducePow, decMinuImm]
theorem maxuImm {a0 a1 a2 a3 a4} : Decodes (.maxuImm a0 a1 a2 a3 a4) :=
  .of decMaxuImm Laws.Encodable.maxuImm rfl rfl fun _ => by simp [-Nat.reducePow, decMaxuImm]
theorem bfxImm {a0 a1 a2 a3 a4} : Decodes (.bfxImm a0 a1 a2 a3 a4) :=
  .of decBfxImm Laws.Encodable.bfxImm rfl rfl fun _ => by simp [-Nat.reducePow, decBfxImm]
theorem bfiImm {a0 a1 a2 a3} : Decodes (.bfiImm a0 a1 a2 a3) :=
  .of decBfiImm Laws.Encodable.bfiImm rfl rfl fun _ => by simp [-Nat.reducePow, decBfiImm]
theorem selImm {a0 a1 a2 a3 a4} : Decodes (.selImm a0 a1 a2 a3 a4) :=
  .of decSelImm Laws.Encodable.selImm rfl rfl fun _ => by simp [-Nat.reducePow, decSelImm]
theorem leaImm {a0 a1 a2 a3 a4} : Decodes (.leaImm a0 a1 a2 a3 a4) :=
  .of decLeaImm Laws.Encodable.leaImm rfl rfl fun _ => by simp [-Nat.reducePow, decLeaImm]
theorem movi {a0 a1 a2} : Decodes (.movi a0 a1 a2) :=
  .of decMovi Laws.Encodable.movi rfl rfl fun _ => by simp [-Nat.reducePow, decMovi]
theorem cmp {a0 a1 a2 a3 a4 a5 a6} : Decodes (.cmp a0 a1 a2 a3 a4 a5 a6) :=
  .of decCmp Laws.Encodable.cmp rfl rfl fun _ => by simp [-Nat.reducePow, decCmp]
theorem cmpi {a0 a1 a2 a3 a4 a5} : Decodes (.cmpi a0 a1 a2 a3 a4 a5) :=
  .of decCmpi Laws.Encodable.cmpi rfl rfl fun _ => by simp [-Nat.reducePow, decCmpi]
theorem plog {a0 a1 a2 a3 a4} : Decodes (.plog a0 a1 a2 a3 a4) :=
  .of decPlog Laws.Encodable.plog rfl rfl fun _ => by simp [-Nat.reducePow, decPlog]
theorem pmovToX {a0 a1} : Decodes (.pmovToX a0 a1) :=
  .of (fun h body => (decPmovToX h body).or (decPmovToP h body))
    Laws.Encodable.pmovToX rfl rfl fun _ => by
      simp [-Nat.reducePow, decPmovToX, decPmovToP]
theorem pmovToP {a0 a1} : Decodes (.pmovToP a0 a1) :=
  .of (fun h body => (decPmovToX h body).or (decPmovToP h body))
    Laws.Encodable.pmovToP rfl rfl fun _ => by
      simp [-Nat.reducePow, decPmovToX, decPmovToP]
theorem ld {a0 a1 a2 a3} : Decodes (.ld a0 a1 a2 a3) :=
  .of decLd Laws.Encodable.ld rfl rfl fun _ => by simp [-Nat.reducePow, decLd]
theorem st {a0 a1 a2 a3} : Decodes (.st a0 a1 a2 a3) :=
  .of decSt Laws.Encodable.st rfl rfl fun _ => by simp [-Nat.reducePow, decSt]
theorem lda {a0 a1 a2 a3 a4} : Decodes (.lda a0 a1 a2 a3 a4) :=
  .of decLda Laws.Encodable.lda rfl rfl fun _ => by simp [-Nat.reducePow, decLda]
theorem str {a0 a1 a2 a3 a4} : Decodes (.str a0 a1 a2 a3 a4) :=
  .of decStr Laws.Encodable.str rfl rfl fun _ => by simp [-Nat.reducePow, decStr]
theorem atomSwap {a0 a1 a2 a3 a4} : Decodes (.atomSwap a0 a1 a2 a3 a4) :=
  .of (fun h body => (decAtomSwap h body).or ((decAtomAdd h body).or ((decAtomAnd h body).or ((decAtomOr h body).or ((decAtomXor h body).or ((decAtomMin h body).or ((decAtomMax h body).or (decAtomCas h body))))))))
    Laws.Encodable.atomSwap rfl rfl fun _ => by
      simp [-Nat.reducePow, decAtomSwap, decAtomAdd, decAtomAnd, decAtomOr, decAtomXor, decAtomMin, decAtomMax, decAtomCas]
theorem atomAdd {a0 a1 a2 a3 a4} : Decodes (.atomAdd a0 a1 a2 a3 a4) :=
  .of (fun h body => (decAtomSwap h body).or ((decAtomAdd h body).or ((decAtomAnd h body).or ((decAtomOr h body).or ((decAtomXor h body).or ((decAtomMin h body).or ((decAtomMax h body).or (decAtomCas h body))))))))
    Laws.Encodable.atomAdd rfl rfl fun _ => by
      simp [-Nat.reducePow, decAtomSwap, decAtomAdd, decAtomAnd, decAtomOr, decAtomXor, decAtomMin, decAtomMax, decAtomCas]
theorem atomAnd {a0 a1 a2 a3 a4} : Decodes (.atomAnd a0 a1 a2 a3 a4) :=
  .of (fun h body => (decAtomSwap h body).or ((decAtomAdd h body).or ((decAtomAnd h body).or ((decAtomOr h body).or ((decAtomXor h body).or ((decAtomMin h body).or ((decAtomMax h body).or (decAtomCas h body))))))))
    Laws.Encodable.atomAnd rfl rfl fun _ => by
      simp [-Nat.reducePow, decAtomSwap, decAtomAdd, decAtomAnd, decAtomOr, decAtomXor, decAtomMin, decAtomMax, decAtomCas]
theorem atomOr {a0 a1 a2 a3 a4} : Decodes (.atomOr a0 a1 a2 a3 a4) :=
  .of (fun h body => (decAtomSwap h body).or ((decAtomAdd h body).or ((decAtomAnd h body).or ((decAtomOr h body).or ((decAtomXor h body).or ((decAtomMin h body).or ((decAtomMax h body).or (decAtomCas h body))))))))
    Laws.Encodable.atomOr rfl rfl fun _ => by
      simp [-Nat.reducePow, decAtomSwap, decAtomAdd, decAtomAnd, decAtomOr, decAtomXor, decAtomMin, decAtomMax, decAtomCas]
theorem atomXor {a0 a1 a2 a3 a4} : Decodes (.atomXor a0 a1 a2 a3 a4) :=
  .of (fun h body => (decAtomSwap h body).or ((decAtomAdd h body).or ((decAtomAnd h body).or ((decAtomOr h body).or ((decAtomXor h body).or ((decAtomMin h body).or ((decAtomMax h body).or (decAtomCas h body))))))))
    Laws.Encodable.atomXor rfl rfl fun _ => by
      simp [-Nat.reducePow, decAtomSwap, decAtomAdd, decAtomAnd, decAtomOr, decAtomXor, decAtomMin, decAtomMax, decAtomCas]
theorem atomMin {a0 a1 a2 a3 a4} : Decodes (.atomMin a0 a1 a2 a3 a4) :=
  .of (fun h body => (decAtomSwap h body).or ((decAtomAdd h body).or ((decAtomAnd h body).or ((decAtomOr h body).or ((decAtomXor h body).or ((decAtomMin h body).or ((decAtomMax h body).or (decAtomCas h body))))))))
    Laws.Encodable.atomMin rfl rfl fun _ => by
      simp [-Nat.reducePow, decAtomSwap, decAtomAdd, decAtomAnd, decAtomOr, decAtomXor, decAtomMin, decAtomMax, decAtomCas]
theorem atomMax {a0 a1 a2 a3 a4} : Decodes (.atomMax a0 a1 a2 a3 a4) :=
  .of (fun h body => (decAtomSwap h body).or ((decAtomAdd h body).or ((decAtomAnd h body).or ((decAtomOr h body).or ((decAtomXor h body).or ((decAtomMin h body).or ((decAtomMax h body).or (decAtomCas h body))))))))
    Laws.Encodable.atomMax rfl rfl fun _ => by
      simp [-Nat.reducePow, decAtomSwap, decAtomAdd, decAtomAnd, decAtomOr, decAtomXor, decAtomMin, decAtomMax, decAtomCas]
theorem atomCas {a0 a1 a2 a3 a4 a5 a6} : Decodes (.atomCas a0 a1 a2 a3 a4 a5 a6) :=
  .of (fun h body => (decAtomSwap h body).or ((decAtomAdd h body).or ((decAtomAnd h body).or ((decAtomOr h body).or ((decAtomXor h body).or ((decAtomMin h body).or ((decAtomMax h body).or (decAtomCas h body))))))))
    Laws.Encodable.atomCas rfl rfl fun _ => by
      simp [-Nat.reducePow, decAtomSwap, decAtomAdd, decAtomAnd, decAtomOr, decAtomXor, decAtomMin, decAtomMax, decAtomCas]
theorem fence {a0 a1 a2} : Decodes (.fence a0 a1 a2) :=
  .of decFence Laws.Encodable.fence rfl rfl fun _ => by simp [-Nat.reducePow, decFence]
theorem vadd {a0 a1 a2 a3 a4 a5} : Decodes (.vadd a0 a1 a2 a3 a4 a5) :=
  .of decVadd Laws.Encodable.vadd rfl rfl fun _ => by simp [-Nat.reducePow, decVadd]
theorem vsub {a0 a1 a2 a3 a4 a5} : Decodes (.vsub a0 a1 a2 a3 a4 a5) :=
  .of decVsub Laws.Encodable.vsub rfl rfl fun _ => by simp [-Nat.reducePow, decVsub]
theorem vmul {a0 a1 a2 a3 a4 a5} : Decodes (.vmul a0 a1 a2 a3 a4 a5) :=
  .of decVmul Laws.Encodable.vmul rfl rfl fun _ => by simp [-Nat.reducePow, decVmul]
theorem vfma {a0 a1 a2 a3 a4 a5 a6} : Decodes (.vfma a0 a1 a2 a3 a4 a5 a6) :=
  .of decVfma Laws.Encodable.vfma rfl rfl fun _ => by simp [-Nat.reducePow, decVfma]
theorem vfms {a0 a1 a2 a3 a4 a5 a6} : Decodes (.vfms a0 a1 a2 a3 a4 a5 a6) :=
  .of decVfms Laws.Encodable.vfms rfl rfl fun _ => by simp [-Nat.reducePow, decVfms]
theorem vfnma {a0 a1 a2 a3 a4 a5 a6} : Decodes (.vfnma a0 a1 a2 a3 a4 a5 a6) :=
  .of decVfnma Laws.Encodable.vfnma rfl rfl fun _ => by simp [-Nat.reducePow, decVfnma]
theorem vdiv {a0 a1 a2 a3 a4 a5} : Decodes (.vdiv a0 a1 a2 a3 a4 a5) :=
  .of decVdiv Laws.Encodable.vdiv rfl rfl fun _ => by simp [-Nat.reducePow, decVdiv]
theorem vsqrt {a0 a1 a2 a3 a4} : Decodes (.vsqrt a0 a1 a2 a3 a4) :=
  .of decVsqrt Laws.Encodable.vsqrt rfl rfl fun _ => by simp [-Nat.reducePow, decVsqrt]
theorem vmin {a0 a1 a2 a3 a4} : Decodes (.vmin a0 a1 a2 a3 a4) :=
  .of decVmin Laws.Encodable.vmin rfl rfl fun _ => by simp [-Nat.reducePow, decVmin]
theorem vmax {a0 a1 a2 a3 a4} : Decodes (.vmax a0 a1 a2 a3 a4) :=
  .of decVmax Laws.Encodable.vmax rfl rfl fun _ => by simp [-Nat.reducePow, decVmax]
theorem vabs {a0 a1 a2 a3} : Decodes (.vabs a0 a1 a2 a3) :=
  .of decVabs Laws.Encodable.vabs rfl rfl fun _ => by simp [-Nat.reducePow, decVabs]
theorem vneg {a0 a1 a2 a3} : Decodes (.vneg a0 a1 a2 a3) :=
  .of decVneg Laws.Encodable.vneg rfl rfl fun _ => by simp [-Nat.reducePow, decVneg]
theorem vcmp {a0 a1 a2 a3 a4 a5} : Decodes (.vcmp a0 a1 a2 a3 a4 a5) :=
  .of decVcmp Laws.Encodable.vcmp rfl rfl fun _ => by simp [-Nat.reducePow, decVcmp]
theorem vclass {a0 a1 a2 a3} : Decodes (.vclass a0 a1 a2 a3) :=
  .of decVclass Laws.Encodable.vclass rfl rfl fun _ => by simp [-Nat.reducePow, decVclass]
theorem twosum {a0 a1 a2 a3 a4 a5 a6} : Decodes (.twosum a0 a1 a2 a3 a4 a5 a6) :=
  .of decTwosum Laws.Encodable.twosum rfl rfl fun _ => by simp [-Nat.reducePow, decTwosum]
theorem viadd {a0 a1 a2 a3 a4 a5} : Decodes (.viadd a0 a1 a2 a3 a4 a5) :=
  .of decViadd Laws.Encodable.viadd rfl rfl fun _ => by simp [-Nat.reducePow, decViadd]
theorem visub {a0 a1 a2 a3 a4 a5} : Decodes (.visub a0 a1 a2 a3 a4 a5) :=
  .of decVisub Laws.Encodable.visub rfl rfl fun _ => by simp [-Nat.reducePow, decVisub]
theorem vimul {a0 a1 a2 a3 a4} : Decodes (.vimul a0 a1 a2 a3 a4) :=
  .of decVimul Laws.Encodable.vimul rfl rfl fun _ => by simp [-Nat.reducePow, decVimul]
theorem vimulh {a0 a1 a2 a3 a4} : Decodes (.vimulh a0 a1 a2 a3 a4) :=
  .of decVimulh Laws.Encodable.vimulh rfl rfl fun _ => by simp [-Nat.reducePow, decVimulh]
theorem vimad {a0 a1 a2 a3 a4 a5} : Decodes (.vimad a0 a1 a2 a3 a4 a5) :=
  .of decVimad Laws.Encodable.vimad rfl rfl fun _ => by simp [-Nat.reducePow, decVimad]
theorem vimin {a0 a1 a2 a3 a4} : Decodes (.vimin a0 a1 a2 a3 a4) :=
  .of decVimin Laws.Encodable.vimin rfl rfl fun _ => by simp [-Nat.reducePow, decVimin]
theorem vimax {a0 a1 a2 a3 a4} : Decodes (.vimax a0 a1 a2 a3 a4) :=
  .of decVimax Laws.Encodable.vimax rfl rfl fun _ => by simp [-Nat.reducePow, decVimax]
theorem vand {a0 a1 a2 a3 a4} : Decodes (.vand a0 a1 a2 a3 a4) :=
  .of decVand Laws.Encodable.vand rfl rfl fun _ => by simp [-Nat.reducePow, decVand]
theorem vor {a0 a1 a2 a3 a4} : Decodes (.vor a0 a1 a2 a3 a4) :=
  .of decVor Laws.Encodable.vor rfl rfl fun _ => by simp [-Nat.reducePow, decVor]
theorem vxor {a0 a1 a2 a3 a4} : Decodes (.vxor a0 a1 a2 a3 a4) :=
  .of decVxor Laws.Encodable.vxor rfl rfl fun _ => by simp [-Nat.reducePow, decVxor]
theorem vshl {a0 a1 a2 a3 a4} : Decodes (.vshl a0 a1 a2 a3 a4) :=
  .of decVshl Laws.Encodable.vshl rfl rfl fun _ => by simp [-Nat.reducePow, decVshl]
theorem vshr {a0 a1 a2 a3 a4} : Decodes (.vshr a0 a1 a2 a3 a4) :=
  .of decVshr Laws.Encodable.vshr rfl rfl fun _ => by simp [-Nat.reducePow, decVshr]
theorem vsra {a0 a1 a2 a3 a4} : Decodes (.vsra a0 a1 a2 a3 a4) :=
  .of decVsra Laws.Encodable.vsra rfl rfl fun _ => by simp [-Nat.reducePow, decVsra]
theorem vclip {a0 a1 a2 a3 a4 a5} : Decodes (.vclip a0 a1 a2 a3 a4 a5) :=
  .of decVclip Laws.Encodable.vclip rfl rfl fun _ => by simp [-Nat.reducePow, decVclip]
theorem vmov {a0 a1 a2 a3} : Decodes (.vmov a0 a1 a2 a3) :=
  .of decVmov Laws.Encodable.vmov rfl rfl fun _ => by simp [-Nat.reducePow, decVmov]
theorem vbcast {a0 a1 a2 a3} : Decodes (.vbcast a0 a1 a2 a3) :=
  .of decVbcast Laws.Encodable.vbcast rfl rfl fun _ => by simp [-Nat.reducePow, decVbcast]
theorem viota {a0 a1 a2 a3} : Decodes (.viota a0 a1 a2 a3) :=
  .of decViota Laws.Encodable.viota rfl rfl fun _ => by simp [-Nat.reducePow, decViota]
theorem vsel {a0 a1 a2 a3 a4 a5} : Decodes (.vsel a0 a1 a2 a3 a4 a5) :=
  .of decVsel Laws.Encodable.vsel rfl rfl fun _ => by simp [-Nat.reducePow, decVsel]
theorem vldi {a0 a1 a2 a3} : Decodes (.vldi a0 a1 a2 a3) :=
  .of decVldi Laws.Encodable.vldi rfl rfl fun _ => by simp [-Nat.reducePow, decVldi]
theorem setvl {a0 a1 a2 a3} : Decodes (.setvl a0 a1 a2 a3) :=
  .of (fun h body => (decSetvl h body).or (decSetvlRel h body))
    Laws.Encodable.setvl rfl rfl fun _ => by
      simp [-Nat.reducePow, decSetvl, decSetvlRel]
theorem setvlRel {a0 a1} : Decodes (.setvlRel a0 a1) :=
  .of (fun h body => (decSetvl h body).or (decSetvlRel h body))
    Laws.Encodable.setvlRel rfl rfl fun _ => by
      simp [-Nat.reducePow, decSetvl, decSetvlRel]
theorem setrc {a0 a1 a2 a3} : Decodes (.setrc a0 a1 a2 a3) :=
  .of decSetrc Laws.Encodable.setrc rfl rfl fun _ => by simp [-Nat.reducePow, decSetrc]
theorem alloc {a0 a1 a2} : Decodes (.alloc a0 a1 a2) :=
  .of decAlloc Laws.Encodable.alloc rfl rfl fun _ => by simp [-Nat.reducePow, decAlloc]
theorem shrink {a0 a1 a2} : Decodes (.shrink a0 a1 a2) :=
  .of decShrink Laws.Encodable.shrink rfl rfl fun _ => by simp [-Nat.reducePow, decShrink]
theorem strip {a0 a1 a2 a3 a4 a5 a6 a7 a8} : Decodes (.strip a0 a1 a2 a3 a4 a5 a6 a7 a8) :=
  .of decStrip Laws.Encodable.strip rfl rfl fun _ => by simp [-Nat.reducePow, decStrip]
theorem vrcp {a0 a1 a2 a3 a4} : Decodes (.vrcp a0 a1 a2 a3 a4) :=
  .of decVrcp Laws.Encodable.vrcp rfl rfl fun _ => by simp [-Nat.reducePow, decVrcp]
theorem vrsq {a0 a1 a2 a3 a4} : Decodes (.vrsq a0 a1 a2 a3 a4) :=
  .of decVrsq Laws.Encodable.vrsq rfl rfl fun _ => by simp [-Nat.reducePow, decVrsq]
theorem vexp2 {a0 a1 a2 a3 a4} : Decodes (.vexp2 a0 a1 a2 a3 a4) :=
  .of decVexp2 Laws.Encodable.vexp2 rfl rfl fun _ => by simp [-Nat.reducePow, decVexp2]
theorem vlog2 {a0 a1 a2 a3 a4} : Decodes (.vlog2 a0 a1 a2 a3 a4) :=
  .of decVlog2 Laws.Encodable.vlog2 rfl rfl fun _ => by simp [-Nat.reducePow, decVlog2]
theorem vtanh {a0 a1 a2 a3 a4} : Decodes (.vtanh a0 a1 a2 a3 a4) :=
  .of decVtanh Laws.Encodable.vtanh rfl rfl fun _ => by simp [-Nat.reducePow, decVtanh]
theorem vcvt {a0 a1 a2 a3 a4 a5} : Decodes (.vcvt a0 a1 a2 a3 a4 a5) :=
  .of decVcvt Laws.Encodable.vcvt rfl rfl fun _ => by simp [-Nat.reducePow, decVcvt]
theorem vqblk {a0 a1 a2 a3 a4 a5 a6 a7} : Decodes (.vqblk a0 a1 a2 a3 a4 a5 a6 a7) :=
  .of decVqblk Laws.Encodable.vqblk rfl rfl fun _ => by simp [-Nat.reducePow, decVqblk]
theorem vdqblk {a0 a1 a2 a3 a4 a5 a6 a7} : Decodes (.vdqblk a0 a1 a2 a3 a4 a5 a6 a7) :=
  .of decVdqblk Laws.Encodable.vdqblk rfl rfl fun _ => by simp [-Nat.reducePow, decVdqblk]
theorem vplane {a0 a1 a2} : Decodes (.vplane a0 a1 a2) :=
  .of decVplane Laws.Encodable.vplane rfl rfl fun _ => by simp [-Nat.reducePow, decVplane]
theorem vunplane {a0 a1 a2 a3} : Decodes (.vunplane a0 a1 a2 a3) :=
  .of decVunplane Laws.Encodable.vunplane rfl rfl fun _ => by simp [-Nat.reducePow, decVunplane]
theorem vrand {a0 a1 a2} : Decodes (.vrand a0 a1 a2) :=
  .of decVrand Laws.Encodable.vrand rfl rfl fun _ => by simp [-Nat.reducePow, decVrand]
theorem klog {a0 a1 a2 a3 a4} : Decodes (.klog a0 a1 a2 a3 a4) :=
  .of decKlog Laws.Encodable.klog rfl rfl fun _ => by simp [-Nat.reducePow, decKlog]
theorem kcnt {a0 a1 a2} : Decodes (.kcnt a0 a1 a2) :=
  .of decKcnt Laws.Encodable.kcnt rfl rfl fun _ => by simp [-Nat.reducePow, decKcnt]
theorem kfirst {a0 a1 a2} : Decodes (.kfirst a0 a1 a2) :=
  .of decKfirst Laws.Encodable.kfirst rfl rfl fun _ => by simp [-Nat.reducePow, decKfirst]
theorem mpush {a0 a1} : Decodes (.mpush a0 a1) :=
  .of decMpush Laws.Encodable.mpush rfl rfl fun _ => by simp [-Nat.reducePow, decMpush]
theorem minv {a0} : Decodes (.minv a0) := .of decMinv Laws.Encodable.minv rfl rfl fun _ => by simp [-Nat.reducePow, decMinv]
theorem mpop {a0} : Decodes (.mpop a0) := .of decMpop Laws.Encodable.mpop rfl rfl fun _ => by simp [-Nat.reducePow, decMpop]
theorem mbrz {a0 a1 a2} : Decodes (.mbrz a0 a1 a2) :=
  .of decMbrz Laws.Encodable.mbrz rfl rfl fun _ => by simp [-Nat.reducePow, decMbrz]
theorem vtrip {a0 a1 a2 a3} : Decodes (.vtrip a0 a1 a2 a3) :=
  .of decVtrip Laws.Encodable.vtrip rfl rfl fun _ => by simp [-Nat.reducePow, decVtrip]
theorem mloop {a0 a1 a2 a3} : Decodes (.mloop a0 a1 a2 a3) :=
  .of decMloop Laws.Encodable.mloop rfl rfl fun _ => by simp [-Nat.reducePow, decMloop]
theorem vred {a0 a1 a2 a3 a4 a5 a6} : Decodes (.vred a0 a1 a2 a3 a4 a5 a6) :=
  .of decVred Laws.Encodable.vred rfl rfl fun _ => by simp [-Nat.reducePow, decVred]
theorem vredp {a0 a1 a2 a3 a4 a5} : Decodes (.vredp a0 a1 a2 a3 a4 a5) :=
  .of decVredp Laws.Encodable.vredp rfl rfl fun _ => by simp [-Nat.reducePow, decVredp]
theorem vscan {a0 a1 a2 a3 a4 a5 a6} : Decodes (.vscan a0 a1 a2 a3 a4 a5 a6) :=
  .of decVscan Laws.Encodable.vscan rfl rfl fun _ => by simp [-Nat.reducePow, decVscan]
theorem vperm {a0 a1 a2 a3 a4 a5 a6} : Decodes (.vperm a0 a1 a2 a3 a4 a5 a6) :=
  .of decVperm Laws.Encodable.vperm rfl rfl fun _ => by simp [-Nat.reducePow, decVperm]
theorem vslide {a0 a1 a2 a3 a4 a5 a6} : Decodes (.vslide a0 a1 a2 a3 a4 a5 a6) :=
  .of decVslide Laws.Encodable.vslide rfl rfl fun _ => by simp [-Nat.reducePow, decVslide]
theorem vzip {a0 a1 a2 a3 a4 a5 a6} : Decodes (.vzip a0 a1 a2 a3 a4 a5 a6) :=
  .of decVzip Laws.Encodable.vzip rfl rfl fun _ => by simp [-Nat.reducePow, decVzip]
theorem vunzip {a0 a1 a2 a3 a4 a5 a6} : Decodes (.vunzip a0 a1 a2 a3 a4 a5 a6) :=
  .of decVunzip Laws.Encodable.vunzip rfl rfl fun _ => by simp [-Nat.reducePow, decVunzip]
theorem vtrn {a0 a1 a2 a3} : Decodes (.vtrn a0 a1 a2 a3) :=
  .of decVtrn Laws.Encodable.vtrn rfl rfl fun _ => by simp [-Nat.reducePow, decVtrn]
theorem vcompress {a0 a1 a2 a3 a4 a5} : Decodes (.vcompress a0 a1 a2 a3 a4 a5) :=
  .of decVcompress Laws.Encodable.vcompress rfl rfl fun _ => by simp [-Nat.reducePow, decVcompress]
theorem vexpand {a0 a1 a2 a3 a4} : Decodes (.vexpand a0 a1 a2 a3 a4) :=
  .of decVexpand Laws.Encodable.vexpand rfl rfl fun _ => by simp [-Nat.reducePow, decVexpand]
theorem vsortk {a0 a1 a2 a3 a4 a5 a6} : Decodes (.vsortk a0 a1 a2 a3 a4 a5 a6) :=
  .of decVsortk Laws.Encodable.vsortk rfl rfl fun _ => by simp [-Nat.reducePow, decVsortk]
theorem vextr {a0 a1 a2 a3 a4} : Decodes (.vextr a0 a1 a2 a3 a4) :=
  .of decVextr Laws.Encodable.vextr rfl rfl fun _ => by simp [-Nat.reducePow, decVextr]
theorem vinsr {a0 a1 a2 a3 a4} : Decodes (.vinsr a0 a1 a2 a3 a4) :=
  .of decVinsr Laws.Encodable.vinsr rfl rfl fun _ => by simp [-Nat.reducePow, decVinsr]
theorem rdv {a0 a1} : Decodes (.rdv a0 a1) := .of decRdv Laws.Encodable.rdv rfl rfl fun _ => by simp [-Nat.reducePow, decRdv]
theorem vld {a0 a1 a2 a3} : Decodes (.vld a0 a1 a2 a3) :=
  .of decVld Laws.Encodable.vld rfl rfl fun _ => by simp [-Nat.reducePow, decVld]
theorem vlds {a0 a1 a2 a3} : Decodes (.vlds a0 a1 a2 a3) :=
  .of decVlds Laws.Encodable.vlds rfl rfl fun _ => by simp [-Nat.reducePow, decVlds]
theorem vldx {a0 a1 a2 a3 a4 a5 a6 a7} : Decodes (.vldx a0 a1 a2 a3 a4 a5 a6 a7) :=
  .of decVldx Laws.Encodable.vldx rfl rfl fun _ => by simp [-Nat.reducePow, decVldx]
theorem vst {a0 a1 a2 a3} : Decodes (.vst a0 a1 a2 a3) :=
  .of decVst Laws.Encodable.vst rfl rfl fun _ => by simp [-Nat.reducePow, decVst]
theorem vsts {a0 a1 a2 a3} : Decodes (.vsts a0 a1 a2 a3) :=
  .of decVsts Laws.Encodable.vsts rfl rfl fun _ => by simp [-Nat.reducePow, decVsts]
theorem vstx {a0 a1 a2 a3 a4 a5 a6 a7} : Decodes (.vstx a0 a1 a2 a3 a4 a5 a6 a7) :=
  .of decVstx Laws.Encodable.vstx rfl rfl fun _ => by simp [-Nat.reducePow, decVstx]
theorem vstu {a0 a1 a2 a3 a4 a5 a6 a7} : Decodes (.vstu a0 a1 a2 a3 a4 a5 a6 a7) :=
  .of decVstu Laws.Encodable.vstu rfl rfl fun _ => by simp [-Nat.reducePow, decVstu]
theorem vstxa {a0 a1 a2 a3 a4 a5 a6 a7} : Decodes (.vstxa a0 a1 a2 a3 a4 a5 a6 a7) :=
  .of decVstxa Laws.Encodable.vstxa rfl rfl fun _ => by simp [-Nat.reducePow, decVstxa]
theorem vfence {a0 a1 a2} : Decodes (.vfence a0 a1 a2) :=
  .of decVfence Laws.Encodable.vfence rfl rfl fun _ => by simp [-Nat.reducePow, decVfence]
theorem pref {a0 a1 a2 a3} : Decodes (.pref a0 a1 a2 a3) :=
  .of decPref Laws.Encodable.pref rfl rfl fun _ => by simp [-Nat.reducePow, decPref]
theorem gset {a0 a1 a2 a3} : Decodes (.gset a0 a1 a2 a3) :=
  .of (fun h body => (decGset h body).or (decGsetFree h body))
    Laws.Encodable.gset rfl rfl fun _ => by
      simp [-Nat.reducePow, decGset, decGsetFree]
theorem gsetFree {a0 a1} : Decodes (.gsetFree a0 a1) :=
  .of (fun h body => (decGset h body).or (decGsetFree h body))
    Laws.Encodable.gsetFree rfl rfl fun _ => by
      simp [-Nat.reducePow, decGset, decGsetFree]
theorem vgred {a0 a1 a2 a3 a4 a5} : Decodes (.vgred a0 a1 a2 a3 a4 a5) :=
  .of decVgred Laws.Encodable.vgred rfl rfl fun _ => by simp [-Nat.reducePow, decVgred]
theorem vgall {a0 a1 a2 a3 a4} : Decodes (.vgall a0 a1 a2 a3 a4) :=
  .of decVgall Laws.Encodable.vgall rfl rfl fun _ => by simp [-Nat.reducePow, decVgall]
theorem vgrs {a0 a1 a2 a3 a4 a5} : Decodes (.vgrs a0 a1 a2 a3 a4 a5) :=
  .of decVgrs Laws.Encodable.vgrs rfl rfl fun _ => by simp [-Nat.reducePow, decVgrs]
theorem vgbc {a0 a1 a2 a3 a4 a5} : Decodes (.vgbc a0 a1 a2 a3 a4 a5) :=
  .of decVgbc Laws.Encodable.vgbc rfl rfl fun _ => by simp [-Nat.reducePow, decVgbc]
theorem stream {a0 a1 a2} : Decodes (.stream a0 a1 a2) :=
  .of decStream Laws.Encodable.stream rfl rfl fun _ => by simp [-Nat.reducePow, decStream]
theorem armw {a0 a1 a2} : Decodes (.armw a0 a1 a2) :=
  .of decArmw Laws.Encodable.armw rfl rfl fun _ => by simp [-Nat.reducePow, decArmw]
theorem waitw {a0 a1 a2} : Decodes (.waitw a0 a1 a2) :=
  .of decWaitw Laws.Encodable.waitw rfl rfl fun _ => by simp [-Nat.reducePow, decWaitw]
theorem jobwait {a0 a1 a2} : Decodes (.jobwait a0 a1 a2) :=
  .of decJobwait Laws.Encodable.jobwait rfl rfl fun _ => by simp [-Nat.reducePow, decJobwait]
theorem ovopen {a0 a1} : Decodes (.ovopen a0 a1) :=
  .of (fun h body => (decOvopen h body).or (decOvopenTry h body))
    Laws.Encodable.ovopen rfl rfl fun _ => by
      simp [-Nat.reducePow, decOvopen, decOvopenTry]
theorem ovopenTry {a0 a1 a2} : Decodes (.ovopenTry a0 a1 a2) :=
  .of (fun h body => (decOvopen h body).or (decOvopenTry h body))
    Laws.Encodable.ovopenTry rfl rfl fun _ => by
      simp [-Nat.reducePow, decOvopen, decOvopenTry]
theorem ovset {a0 a1} : Decodes (.ovset a0 a1) :=
  .of decOvset Laws.Encodable.ovset rfl rfl fun _ => by simp [-Nat.reducePow, decOvset]
theorem ovretire {a0 a1 a2} : Decodes (.ovretire a0 a1 a2) :=
  .of decOvretire Laws.Encodable.ovretire rfl rfl fun _ => by simp [-Nat.reducePow, decOvretire]
theorem ovcommit {a0 a1 a2 a3} : Decodes (.ovcommit a0 a1 a2 a3) :=
  .of decOvcommit Laws.Encodable.ovcommit rfl rfl fun _ => by simp [-Nat.reducePow, decOvcommit]
theorem ldo {a0 a1 a2 a3 a4 a5} : Decodes (.ldo a0 a1 a2 a3 a4 a5) :=
  .of decLdo Laws.Encodable.ldo rfl rfl fun _ => by simp [-Nat.reducePow, decLdo]
theorem vldo {a0 a1 a2 a3 a4 a5} : Decodes (.vldo a0 a1 a2 a3 a4 a5) :=
  .of decVldo Laws.Encodable.vldo rfl rfl fun _ => by simp [-Nat.reducePow, decVldo]
theorem ovstat {a0 a1 a2 a3} : Decodes (.ovstat a0 a1 a2 a3) :=
  .of decOvstat Laws.Encodable.ovstat rfl rfl fun _ => by simp [-Nat.reducePow, decOvstat]
theorem carve {a0 a1 a2} : Decodes (.carve a0 a1 a2) :=
  .of decCarve Laws.Encodable.carve rfl rfl fun _ => by simp [-Nat.reducePow, decCarve]
theorem cclean {a0 a1 a2 a3} : Decodes (.cclean a0 a1 a2 a3) :=
  .of decCclean Laws.Encodable.cclean rfl rfl fun _ => by simp [-Nat.reducePow, decCclean]
theorem cinv {a0 a1 a2 a3} : Decodes (.cinv a0 a1 a2 a3) :=
  .of decCinv Laws.Encodable.cinv rfl rfl fun _ => by simp [-Nat.reducePow, decCinv]
theorem cflush {a0 a1 a2 a3} : Decodes (.cflush a0 a1 a2 a3) :=
  .of decCflush Laws.Encodable.cflush rfl rfl fun _ => by simp [-Nat.reducePow, decCflush]
theorem tlbiAll {a0} : Decodes (.tlbiAll a0) :=
  .of (fun h body => (decTlbiAll h body).or ((decTlbiAsid h body).or (decTlbiRange h body)))
    Laws.Encodable.tlbiAll rfl rfl fun _ => by
      simp [-Nat.reducePow, decTlbiAll, decTlbiAsid, decTlbiRange]
theorem tlbiAsid {a0 a1} : Decodes (.tlbiAsid a0 a1) :=
  .of (fun h body => (decTlbiAll h body).or ((decTlbiAsid h body).or (decTlbiRange h body)))
    Laws.Encodable.tlbiAsid rfl rfl fun _ => by
      simp [-Nat.reducePow, decTlbiAll, decTlbiAsid, decTlbiRange]
theorem tlbiRange {a0 a1 a2 a3} : Decodes (.tlbiRange a0 a1 a2 a3) :=
  .of (fun h body => (decTlbiAll h body).or ((decTlbiAsid h body).or (decTlbiRange h body)))
    Laws.Encodable.tlbiRange rfl rfl fun _ => by
      simp [-Nat.reducePow, decTlbiAll, decTlbiAsid, decTlbiRange]
theorem digest {a0 a1 a2} : Decodes (.digest a0 a1 a2) :=
  .of (fun h body => (decDigest h body).or (decDigestRng h body))
    Laws.Encodable.digest rfl rfl fun _ => by
      simp [-Nat.reducePow, decDigest, decDigestRng]
theorem digestRng {a0 a1 a2 a3} : Decodes (.digestRng a0 a1 a2 a3) :=
  .of (fun h body => (decDigest h body).or (decDigestRng h body))
    Laws.Encodable.digestRng rfl rfl fun _ => by
      simp [-Nat.reducePow, decDigest, decDigestRng]
theorem budget {a0 a1 a2 a3} : Decodes (.budget a0 a1 a2 a3) :=
  .of (fun h body => (decBudget h body).or (decBudgetW h body))
    Laws.Encodable.budget rfl rfl fun _ => by
      simp [-Nat.reducePow, decBudget, decBudgetW]
theorem budgetW {a0 a1 a2 a3 a4} : Decodes (.budgetW a0 a1 a2 a3 a4) :=
  .of (fun h body => (decBudget h body).or (decBudgetW h body))
    Laws.Encodable.budgetW rfl rfl fun _ => by
      simp [-Nat.reducePow, decBudget, decBudgetW]
theorem launch {a0 a1 a2} : Decodes (.launch a0 a1 a2) :=
  .of (fun h body => (decLaunch h body).or (decLaunchTry h body))
    Laws.Encodable.launch rfl rfl fun _ => by
      simp [-Nat.reducePow, decLaunch, decLaunchTry]
theorem launchTry {a0 a1 a2} : Decodes (.launchTry a0 a1 a2) :=
  .of (fun h body => (decLaunch h body).or (decLaunchTry h body))
    Laws.Encodable.launchTry rfl rfl fun _ => by
      simp [-Nat.reducePow, decLaunch, decLaunchTry]
theorem trig {a0} : Decodes (.trig a0) := .of decTrig Laws.Encodable.trig rfl rfl fun _ => by simp [-Nat.reducePow, decTrig]
theorem bar {a0 a1} : Decodes (.bar a0 a1) := .of decBar Laws.Encodable.bar rfl rfl fun _ => by simp [-Nat.reducePow, decBar]
theorem waitl {a0 a1 a2 a3 a4} : Decodes (.waitl a0 a1 a2 a3 a4) :=
  .of decWaitl Laws.Encodable.waitl rfl rfl fun _ => by simp [-Nat.reducePow, decWaitl]
theorem lvlid {a0 a1 a2 a3} : Decodes (.lvlid a0 a1 a2 a3) :=
  .of decLvlid Laws.Encodable.lvlid rfl rfl fun _ => by simp [-Nat.reducePow, decLvlid]
theorem mattach {a0 a1 a2} : Decodes (.mattach a0 a1 a2) :=
  .of (fun h body => (decMattach h body).or (decMattachPair h body))
    Laws.Encodable.mattach rfl rfl fun _ => by
      simp [-Nat.reducePow, decMattach, decMattachPair]
theorem mattachPair {a0 a1 a2} : Decodes (.mattachPair a0 a1 a2) :=
  .of (fun h body => (decMattach h body).or (decMattachPair h body))
    Laws.Encodable.mattachPair rfl rfl fun _ => by
      simp [-Nat.reducePow, decMattach, decMattachPair]
theorem mdetach {a0} : Decodes (.mdetach a0) :=
  .of decMdetach Laws.Encodable.mdetach rfl rfl fun _ => by simp [-Nat.reducePow, decMdetach]
theorem mwld {a0 a1 a2 a3} : Decodes (.mwld a0 a1 a2 a3) :=
  .of decMwld Laws.Encodable.mwld rfl rfl fun _ => by simp [-Nat.reducePow, decMwld]
theorem mstream {a0 a1 a2 a3} : Decodes (.mstream a0 a1 a2 a3) :=
  .of decMstream Laws.Encodable.mstream rfl rfl fun _ => by simp [-Nat.reducePow, decMstream]
theorem mzeroFp {a0 a1 a2} : Decodes (.mzeroFp a0 a1 a2) :=
  .of (fun h body => (decMzeroFp h body).or (decMzeroInt h body))
    Laws.Encodable.mzeroFp rfl rfl fun _ => by
      simp [-Nat.reducePow, decMzeroFp, decMzeroInt]
theorem mzeroInt {a0 a1 a2} : Decodes (.mzeroInt a0 a1 a2) :=
  .of (fun h body => (decMzeroFp h body).or (decMzeroInt h body))
    Laws.Encodable.mzeroInt rfl rfl fun _ => by
      simp [-Nat.reducePow, decMzeroFp, decMzeroInt]
theorem mdrain {a0 a1 a2 a3} : Decodes (.mdrain a0 a1 a2 a3) :=
  .of (fun h body => (decMdrain h body).or (decMdrainIdx h body))
    Laws.Encodable.mdrain rfl rfl fun _ => by
      simp [-Nat.reducePow, decMdrain, decMdrainIdx]
theorem mdrainIdx {a0 a1 a2 a3} : Decodes (.mdrainIdx a0 a1 a2 a3) :=
  .of (fun h body => (decMdrain h body).or (decMdrainIdx h body))
    Laws.Encodable.mdrainIdx rfl rfl fun _ => by
      simp [-Nat.reducePow, decMdrain, decMdrainIdx]
theorem msave {a0 a1 a2} : Decodes (.msave a0 a1 a2) :=
  .of decMsave Laws.Encodable.msave rfl rfl fun _ => by simp [-Nat.reducePow, decMsave]
theorem mrestore {a0 a1 a2} : Decodes (.mrestore a0 a1 a2) :=
  .of decMrestore Laws.Encodable.mrestore rfl rfl fun _ => by simp [-Nat.reducePow, decMrestore]
theorem mlineEmpty {a0 a1 a2} : Decodes (.mlineEmpty a0 a1 a2) :=
  .of (fun h body => (decMlineEmpty h body).or ((decMlineFull h body).or ((decMlineWfull h body).or (decMlineWempty h body))))
    Laws.Encodable.mlineEmpty rfl rfl fun _ => by
      simp [-Nat.reducePow, decMlineEmpty, decMlineFull, decMlineWfull, decMlineWempty]
theorem mlineFull {a0 a1 a2} : Decodes (.mlineFull a0 a1 a2) :=
  .of (fun h body => (decMlineEmpty h body).or ((decMlineFull h body).or ((decMlineWfull h body).or (decMlineWempty h body))))
    Laws.Encodable.mlineFull rfl rfl fun _ => by
      simp [-Nat.reducePow, decMlineEmpty, decMlineFull, decMlineWfull, decMlineWempty]
theorem mlineWfull {a0 a1 a2} : Decodes (.mlineWfull a0 a1 a2) :=
  .of (fun h body => (decMlineEmpty h body).or ((decMlineFull h body).or ((decMlineWfull h body).or (decMlineWempty h body))))
    Laws.Encodable.mlineWfull rfl rfl fun _ => by
      simp [-Nat.reducePow, decMlineEmpty, decMlineFull, decMlineWfull, decMlineWempty]
theorem mlineWempty {a0 a1 a2} : Decodes (.mlineWempty a0 a1 a2) :=
  .of (fun h body => (decMlineEmpty h body).or ((decMlineFull h body).or ((decMlineWfull h body).or (decMlineWempty h body))))
    Laws.Encodable.mlineWempty rfl rfl fun _ => by
      simp [-Nat.reducePow, decMlineEmpty, decMlineFull, decMlineWfull, decMlineWempty]
theorem mwait {a0 a1 a2} : Decodes (.mwait a0 a1 a2) :=
  .of decMwait Laws.Encodable.mwait rfl rfl fun _ => by simp [-Nat.reducePow, decMwait]
theorem mstat {a0 a1 a2 a3} : Decodes (.mstat a0 a1 a2 a3) :=
  .of decMstat Laws.Encodable.mstat rfl rfl fun _ => by simp [-Nat.reducePow, decMstat]
theorem tvload {a0 a1 a2 a3} : Decodes (.tvload a0 a1 a2 a3) :=
  .of (fun h body => (decTvload h body).or (decTvloadFree h body))
    Laws.Encodable.tvload rfl rfl fun _ => by
      simp [-Nat.reducePow, decTvload, decTvloadFree]
theorem tvloadFree {a0 a1} : Decodes (.tvloadFree a0 a1) :=
  .of (fun h body => (decTvload h body).or (decTvloadFree h body))
    Laws.Encodable.tvloadFree rfl rfl fun _ => by
      simp [-Nat.reducePow, decTvload, decTvloadFree]
theorem tvstart {a0 a1 a2 a3} : Decodes (.tvstart a0 a1 a2 a3) :=
  .of decTvstart Laws.Encodable.tvstart rfl rfl fun _ => by simp [-Nat.reducePow, decTvstart]
theorem tvwait {a0 a1 a2} : Decodes (.tvwait a0 a1 a2) :=
  .of decTvwait Laws.Encodable.tvwait rfl rfl fun _ => by simp [-Nat.reducePow, decTvwait]
theorem tvstat {a0 a1 a2 a3} : Decodes (.tvstat a0 a1 a2 a3) :=
  .of decTvstat Laws.Encodable.tvstat rfl rfl fun _ => by simp [-Nat.reducePow, decTvstat]
theorem gzlook {a0 a1 a2} : Decodes (.gzlook a0 a1 a2) :=
  .of decGzlook Laws.Encodable.gzlook rfl rfl fun _ => by simp [-Nat.reducePow, decGzlook]
theorem gzupdate {a0 a1 a2} : Decodes (.gzupdate a0 a1 a2) :=
  .of decGzupdate Laws.Encodable.gzupdate rfl rfl fun _ => by simp [-Nat.reducePow, decGzupdate]
theorem gzver {a0 a1 a2 a3} : Decodes (.gzver a0 a1 a2 a3) :=
  .of decGzver Laws.Encodable.gzver rfl rfl fun _ => by simp [-Nat.reducePow, decGzver]
theorem gzpin {a0 a1 a2 a3 a4} : Decodes (.gzpin a0 a1 a2 a3 a4) :=
  .of (fun h body => (decGzpin h body).or (decGzpinUn h body))
    Laws.Encodable.gzpin rfl rfl fun _ => by
      simp [-Nat.reducePow, decGzpin, decGzpinUn]
theorem gzpinUn {a0 a1 a2 a3 a4} : Decodes (.gzpinUn a0 a1 a2 a3 a4) :=
  .of (fun h body => (decGzpin h body).or (decGzpinUn h body))
    Laws.Encodable.gzpinUn rfl rfl fun _ => by
      simp [-Nat.reducePow, decGzpin, decGzpinUn]
theorem gzwait {a0 a1 a2} : Decodes (.gzwait a0 a1 a2) :=
  .of decGzwait Laws.Encodable.gzwait rfl rfl fun _ => by simp [-Nat.reducePow, decGzwait]
theorem mtick {a0 a1} : Decodes (.mtick a0 a1) :=
  .of (fun h body => (decMtick h body).or (decMtickOrd h body))
    Laws.Encodable.mtick rfl rfl fun _ => by
      simp [-Nat.reducePow, decMtick, decMtickOrd]
theorem mtickOrd {a0 a1} : Decodes (.mtickOrd a0 a1) :=
  .of (fun h body => (decMtick h body).or (decMtickOrd h body))
    Laws.Encodable.mtickOrd rfl rfl fun _ => by
      simp [-Nat.reducePow, decMtick, decMtickOrd]
theorem svmark {a0 a1 a2} : Decodes (.svmark a0 a1 a2) :=
  .of decSvmark Laws.Encodable.svmark rfl rfl fun _ => by simp [-Nat.reducePow, decSvmark]
theorem svsampOff {a0} : Decodes (.svsampOff a0) :=
  .of (fun h body => (decSvsampOff h body).or (decSvsamp h body))
    Laws.Encodable.svsampOff rfl rfl fun _ => by
      simp [-Nat.reducePow, decSvsampOff, decSvsamp]
theorem svread {a0 a1 a2 a3} : Decodes (.svread a0 a1 a2 a3) :=
  .of decSvread Laws.Encodable.svread rfl rfl fun _ => by simp [-Nat.reducePow, decSvread]
theorem svstop {a0 a1 a2} : Decodes (.svstop a0 a1 a2) :=
  .of decSvstop Laws.Encodable.svstop rfl rfl fun _ => by simp [-Nat.reducePow, decSvstop]
theorem clklock {a0 a1 a2} : Decodes (.clklock a0 a1 a2) :=
  .of (fun h body => (decClklock h body).or (decClklockOff h body))
    Laws.Encodable.clklock rfl rfl fun _ => by
      simp [-Nat.reducePow, decClklock, decClklockOff]
theorem clklockOff {a0 a1} : Decodes (.clklockOff a0 a1) :=
  .of (fun h body => (decClklock h body).or (decClklockOff h body))
    Laws.Encodable.clklockOff rfl rfl fun _ => by
      simp [-Nat.reducePow, decClklock, decClklockOff]
theorem dhash {a0 a1 a2 a3} : Decodes (.dhash a0 a1 a2 a3) :=
  .of decDhash Laws.Encodable.dhash rfl rfl fun _ => by simp [-Nat.reducePow, decDhash]
theorem dverify {a0 a1 a2 a3} : Decodes (.dverify a0 a1 a2 a3) :=
  .of decDverify Laws.Encodable.dverify rfl rfl fun _ => by simp [-Nat.reducePow, decDverify]
theorem dsign {a0 a1 a2 a3} : Decodes (.dsign a0 a1 a2 a3) :=
  .of (fun h body => (decDsign h body).or ((decDsignAtt h body).or (decDsignPub h body)))
    Laws.Encodable.dsign rfl rfl fun _ => by
      simp [-Nat.reducePow, decDsign, decDsignAtt, decDsignPub]
theorem dsignAtt {a0 a1 a2} : Decodes (.dsignAtt a0 a1 a2) :=
  .of (fun h body => (decDsign h body).or ((decDsignAtt h body).or (decDsignPub h body)))
    Laws.Encodable.dsignAtt rfl rfl fun _ => by
      simp [-Nat.reducePow, decDsign, decDsignAtt, decDsignPub]
theorem dsignPub {a0 a1} : Decodes (.dsignPub a0 a1) :=
  .of (fun h body => (decDsign h body).or ((decDsignAtt h body).or (decDsignPub h body)))
    Laws.Encodable.dsignPub rfl rfl fun _ => by
      simp [-Nat.reducePow, decDsign, decDsignAtt, decDsignPub]
theorem fuserd {a0 a1 a2} : Decodes (.fuserd a0 a1 a2) :=
  .of decFuserd Laws.Encodable.fuserd rfl rfl fun _ => by simp [-Nat.reducePow, decFuserd]
theorem keywipe {a0 a1 a2} : Decodes (.keywipe a0 a1 a2) :=
  .of (fun h body => (decKeywipe h body).or (decKeywipeAll h body))
    Laws.Encodable.keywipe rfl rfl fun _ => by
      simp [-Nat.reducePow, decKeywipe, decKeywipeAll]
theorem keywipeAll {a0 a1} : Decodes (.keywipeAll a0 a1) :=
  .of (fun h body => (decKeywipe h body).or (decKeywipeAll h body))
    Laws.Encodable.keywipeAll rfl rfl fun _ => by
      simp [-Nat.reducePow, decKeywipe, decKeywipeAll]
theorem mextend {a0 a1 a2 a3} : Decodes (.mextend a0 a1 a2 a3) :=
  .of (fun h body => (decMextend h body).or (decMextendDbg h body))
    Laws.Encodable.mextend rfl rfl fun _ => by
      simp [-Nat.reducePow, decMextend, decMextendDbg]
theorem lcset {a0 a1 a2} : Decodes (.lcset a0 a1 a2) :=
  .of decLcset Laws.Encodable.lcset rfl rfl fun _ => by simp [-Nat.reducePow, decLcset]
theorem dbgopen {a0 a1 a2} : Decodes (.dbgopen a0 a1 a2) :=
  .of decDbgopen Laws.Encodable.dbgopen rfl rfl fun _ => by simp [-Nat.reducePow, decDbgopen]

end Decodes

/-- Every instruction decodes from its word; an event and a leg have none. -/
theorem decodes (i : Instr) : Decodes i := by
  cases i with
  | br => exact .br
  | jmp => exact .jmp
  | call => exact .call
  | callr => exact .callr
  | ret => exact .ret
  | pushb => exact .pushb
  | brq => exact .brq
  | loop => exact .loop
  | lexit => exact .lexit
  | nop => exact .nop
  | trap => exact .trap
  | eret => exact .eret
  | srr => exact .srr
  | srw => exact .srw
  | wait => exact .wait
  | yield => exact .yield
  | halt => exact .halt
  | fencei => exact .fencei
  | add => exact .add
  | sub => exact .sub
  | mul => exact .mul
  | mulh => exact .mulh
  | mulhu => exact .mulhu
  | div => exact .div
  | divu => exact .divu
  | rem => exact .rem
  | remu => exact .remu
  | and => exact .and
  | or => exact .or
  | xor => exact .xor
  | andn => exact .andn
  | shl => exact .shl
  | shr => exact .shr
  | sra => exact .sra
  | ror => exact .ror
  | min => exact .min
  | max => exact .max
  | minu => exact .minu
  | maxu => exact .maxu
  | clz => exact .clz
  | ctz => exact .ctz
  | popc => exact .popc
  | bfx => exact .bfx
  | bfi => exact .bfi
  | sel => exact .sel
  | lea => exact .lea
  | addImm => exact .addImm
  | subImm => exact .subImm
  | mulImm => exact .mulImm
  | mulhImm => exact .mulhImm
  | mulhuImm => exact .mulhuImm
  | divImm => exact .divImm
  | divuImm => exact .divuImm
  | remImm => exact .remImm
  | remuImm => exact .remuImm
  | andImm => exact .andImm
  | orImm => exact .orImm
  | xorImm => exact .xorImm
  | andnImm => exact .andnImm
  | shlImm => exact .shlImm
  | shrImm => exact .shrImm
  | sraImm => exact .sraImm
  | rorImm => exact .rorImm
  | minImm => exact .minImm
  | maxImm => exact .maxImm
  | minuImm => exact .minuImm
  | maxuImm => exact .maxuImm
  | bfxImm => exact .bfxImm
  | bfiImm => exact .bfiImm
  | selImm => exact .selImm
  | leaImm => exact .leaImm
  | movi => exact .movi
  | cmp => exact .cmp
  | cmpi => exact .cmpi
  | plog => exact .plog
  | pmovToX => exact .pmovToX
  | pmovToP => exact .pmovToP
  | ld => exact .ld
  | st => exact .st
  | lda => exact .lda
  | str => exact .str
  | atomSwap => exact .atomSwap
  | atomAdd => exact .atomAdd
  | atomAnd => exact .atomAnd
  | atomOr => exact .atomOr
  | atomXor => exact .atomXor
  | atomMin => exact .atomMin
  | atomMax => exact .atomMax
  | atomCas => exact .atomCas
  | fence => exact .fence
  | vadd => exact .vadd
  | vsub => exact .vsub
  | vmul => exact .vmul
  | vfma => exact .vfma
  | vfms => exact .vfms
  | vfnma => exact .vfnma
  | vdiv => exact .vdiv
  | vsqrt => exact .vsqrt
  | vmin => exact .vmin
  | vmax => exact .vmax
  | vabs => exact .vabs
  | vneg => exact .vneg
  | vcmp => exact .vcmp
  | vclass => exact .vclass
  | twosum => exact .twosum
  | viadd => exact .viadd
  | visub => exact .visub
  | vimul => exact .vimul
  | vimulh => exact .vimulh
  | vimad => exact .vimad
  | vimin => exact .vimin
  | vimax => exact .vimax
  | vand => exact .vand
  | vor => exact .vor
  | vxor => exact .vxor
  | vshl => exact .vshl
  | vshr => exact .vshr
  | vsra => exact .vsra
  | vclip => exact .vclip
  | vmov => exact .vmov
  | vbcast => exact .vbcast
  | viota => exact .viota
  | vsel => exact .vsel
  | vldi => exact .vldi
  | setvl => exact .setvl
  | setvlRel => exact .setvlRel
  | setrc => exact .setrc
  | alloc => exact .alloc
  | shrink => exact .shrink
  | strip => exact .strip
  | vrcp => exact .vrcp
  | vrsq => exact .vrsq
  | vexp2 => exact .vexp2
  | vlog2 => exact .vlog2
  | vtanh => exact .vtanh
  | vcvt => exact .vcvt
  | vqblk => exact .vqblk
  | vdqblk => exact .vdqblk
  | vplane => exact .vplane
  | vunplane => exact .vunplane
  | vrand => exact .vrand
  | klog => exact .klog
  | kcnt => exact .kcnt
  | kfirst => exact .kfirst
  | mpush => exact .mpush
  | minv => exact .minv
  | mpop => exact .mpop
  | mbrz => exact .mbrz
  | vtrip => exact .vtrip
  | mloop => exact .mloop
  | vred => exact .vred
  | vredp => exact .vredp
  | vscan => exact .vscan
  | vperm => exact .vperm
  | vslide => exact .vslide
  | vzip => exact .vzip
  | vunzip => exact .vunzip
  | vtrn => exact .vtrn
  | vcompress => exact .vcompress
  | vexpand => exact .vexpand
  | vsortk => exact .vsortk
  | vextr => exact .vextr
  | vinsr => exact .vinsr
  | rdv => exact .rdv
  | vld => exact .vld
  | vlds => exact .vlds
  | vldx => exact .vldx
  | vst => exact .vst
  | vsts => exact .vsts
  | vstx => exact .vstx
  | vstu => exact .vstu
  | vstxa => exact .vstxa
  | vfence => exact .vfence
  | pref => exact .pref
  | gset => exact .gset
  | gsetFree => exact .gsetFree
  | vgred => exact .vgred
  | vgall => exact .vgall
  | vgrs => exact .vgrs
  | vgbc => exact .vgbc
  | stream => exact .stream
  | armw => exact .armw
  | waitw => exact .waitw
  | jobwait => exact .jobwait
  | ovopen => exact .ovopen
  | ovopenTry => exact .ovopenTry
  | ovset => exact .ovset
  | ovretire => exact .ovretire
  | ovcommit => exact .ovcommit
  | ldo => exact .ldo
  | vldo => exact .vldo
  | ovstat => exact .ovstat
  | carve => exact .carve
  | cclean => exact .cclean
  | cinv => exact .cinv
  | cflush => exact .cflush
  | tlbiAll => exact .tlbiAll
  | tlbiAsid => exact .tlbiAsid
  | tlbiRange => exact .tlbiRange
  | digest => exact .digest
  | digestRng => exact .digestRng
  | budget => exact .budget
  | budgetW => exact .budgetW
  | launch => exact .launch
  | launchTry => exact .launchTry
  | trig => exact .trig
  | bar => exact .bar
  | waitl => exact .waitl
  | lvlid => exact .lvlid
  | mattach => exact .mattach
  | mattachPair => exact .mattachPair
  | mdetach => exact .mdetach
  | mwld => exact .mwld
  | mstream => exact .mstream
  | mzeroFp => exact .mzeroFp
  | mzeroInt => exact .mzeroInt
  | mdrain => exact .mdrain
  | mdrainIdx => exact .mdrainIdx
  | msave => exact .msave
  | mrestore => exact .mrestore
  | mlineEmpty => exact .mlineEmpty
  | mlineFull => exact .mlineFull
  | mlineWfull => exact .mlineWfull
  | mlineWempty => exact .mlineWempty
  | mwait => exact .mwait
  | mstat => exact .mstat
  | tvload => exact .tvload
  | tvloadFree => exact .tvloadFree
  | tvstart => exact .tvstart
  | tvwait => exact .tvwait
  | tvstat => exact .tvstat
  | gzlook => exact .gzlook
  | gzupdate => exact .gzupdate
  | gzver => exact .gzver
  | gzpin => exact .gzpin
  | gzpinUn => exact .gzpinUn
  | gzwait => exact .gzwait
  | mtick => exact .mtick
  | mtickOrd => exact .mtickOrd
  | svmark => exact .svmark
  | svsampOff => exact .svsampOff
  | svsamp => exact .svsamp
  | svread => exact .svread
  | svstop => exact .svstop
  | clklock => exact .clklock
  | clklockOff => exact .clklockOff
  | dhash => exact .dhash
  | dverify => exact .dverify
  | dsign => exact .dsign
  | dsignAtt => exact .dsignAtt
  | dsignPub => exact .dsignPub
  | fuserd => exact .fuserd
  | keywipe => exact .keywipe
  | keywipeAll => exact .keywipeAll
  | mextend => exact .mextend
  | mextendDbg => exact .mextendDbg
  | lcset => exact .lcset
  | dbgopen => exact .dbgopen
  | _ => exact fun _ hw => nomatch hw

theorem hdr_isSome_iff_fields (i : Instr) : (Instr.hdr? i).isSome = i.fields.isSome := by cases i <;> rfl

/-! Legs. -/

/-- Every field of the leg fits its width (12 R481). -/
structure LegRaw.Fits (r : LegRaw) : Prop where
  op : r.op < 2 ^ 8
  fl : r.fl < 2 ^ 8
  p : r.p < 2 ^ 12
  rel : r.rel < 2 ^ 1
  kr : r.kr < 2 ^ 2
  lv : r.lv < 2 ^ 1
  ki : r.ki < 2 ^ 2
  k0 : r.k0 < 2 ^ 12
  sa : r.sa < 2 ^ 4
  sb : r.sb < 2 ^ 4
  sc : r.sc < 2 ^ 4
  len : r.len < 2 ^ 32
  off : r.off < 2 ^ 32

theorem LegRaw.pack_lt (r : LegRaw) : r.pack < 2 ^ 128 := by
  have lt := Sys2Proof.pack_lt [(8, r.op), (8, r.fl), (12, r.p), (3, 0), (1, r.rel), (3, 0), (2, r.kr), (1, r.lv), (2, r.ki),
    (12, r.k0), (4, r.sa), (4, r.sb), (4, r.sc), (32, r.len), (32, r.off)]
  simp only [packWidth, List.map_cons, List.map_nil, List.sum_cons, List.sum_nil, Nat.reduceAdd] at lt
  exact lt

/-- The fields of a leg come back from its bits. -/
theorem legRaw?_pack {r : LegRaw} (h : r.Fits) : legRaw? (BitVec.ofNat 128 r.pack).toNat = some r := by
  rw [BitVec.toNat_ofNat, Nat.mod_eq_of_lt r.pack_lt, legRaw?, LegRaw.pack, legWidths]
  simp only [unpack_pack_fields, Nat.zero_mod, Nat.mod_eq_of_lt h.op, Nat.mod_eq_of_lt h.fl, Nat.mod_eq_of_lt h.p,
    Nat.mod_eq_of_lt h.rel, Nat.mod_eq_of_lt h.kr, Nat.mod_eq_of_lt h.lv, Nat.mod_eq_of_lt h.ki, Nat.mod_eq_of_lt h.k0,
    Nat.mod_eq_of_lt h.sa, Nat.mod_eq_of_lt h.sb, Nat.mod_eq_of_lt h.sc, Nat.mod_eq_of_lt h.len, Nat.mod_eq_of_lt h.off]

@[simp] theorem coefCode_lt (k : Int) : coefCode k < 4 := by
  unfold coefCode
  split
  · decide
  · split <;> decide

/-- A legal coefficient comes back from its code (12 R481). -/
theorem coef?_code {k : Int} (h : (k == 0 || k == 1 || k == -1) = true) : coef? (coefCode k) = some k := by
  simp only [Bool.or_eq_true, beq_iff_eq] at h
  obtain (rfl | rfl) | rfl := h <;> rfl

theorem legRawChunk_fits {op fl : Nat} {p : Peer} {sa sb sc : Nat} {c : Chunk} (hop : op < 2 ^ 8) (hfl : fl < 2 ^ 8)
    (ha : sa < 16) (hb : sb < 16) (hc : sc < 16) : (legRawChunk op fl p sa sb sc c).Fits :=
  ⟨hop, hfl, p.p.isLt, p.rel.toNat_lt, coefCode_lt _, c.lv.toNat_lt, coefCode_lt _, c.k0.isLt, ha, hb, hc, c.len.isLt, c.off.isLt⟩

theorem legRawPlain_fits {op fl : Nat} {p : Peer} {sa sb sc len : Nat} (hop : op < 2 ^ 8) (hfl : fl < 2 ^ 8)
    (ha : sa < 16) (hb : sb < 16) (hc : sc < 16) (hl : len < 2 ^ 32) : (legRawPlain op fl p sa sb sc len).Fits :=
  ⟨hop, hfl, p.p.isLt, p.rel.toNat_lt, Nat.two_pow_pos 2, Nat.two_pow_pos 1, Nat.two_pow_pos 2, Nat.two_pow_pos 12, ha, hb, hc, hl,
    Nat.two_pow_pos 32⟩

theorem legRawChunk_chunk? {op fl : Nat} {p : Peer} {sa sb sc : Nat} {c : Chunk} (h : c.ok = true) :
    (legRawChunk op fl p sa sb sc c).chunk? = some c := by
  rw [Chunk.ok, Bool.and_eq_true] at h
  simp [legRawChunk, LegRaw.chunk?, coef?_code h.1, coef?_code h.2]

/-- The bits of the leg, if it is one, decode to it where it is well-formed. -/
def LegDecodes (i : Instr) : Prop := ∀ w, encodeLeg i = some w → i.wf = true → decodeLeg w = some i

theorem LegDecodes.of {i : Instr} {r : LegRaw} (hr : i.legFields = some r) (hf : r.Fits)
    (hi : i.wf = true → legOf r = some i) : LegDecodes i := by
  intro w hw wf
  rw [encodeLeg, hr] at hw
  obtain rfl := Option.some.inj hw
  rw [decodeLeg, legRaw?_pack hf, Option.bind_some, hi wf]
  simpa using wf

namespace LegDecodes

variable {full fin arr : Bool} {p : Peer} {sa sb sc : Fin 16} {c : Chunk}

theorem legSend {row} : LegDecodes (.legSend row fin p sa sb sc c) :=
  .of rfl (legRawChunk_fits (by decide) (by cases row <;> cases fin <;> decide) sa.isLt sb.isLt sc.isLt) fun wf => by
    have ok : (p.ok && c.ok && (row || sc == 0)) = true := formOk_of_wf wf
    simp only [Bool.and_eq_true] at ok
    obtain ⟨⟨-, hc⟩, hrow⟩ := ok
    simp only [legOf, legRawChunk_chunk? hc]
    cases row <;> cases fin <;> simp_all [LegRaw.peer, fl1, legRawChunk]

theorem legRecv : LegDecodes (.legRecv fin full arr p sa c) :=
  .of rfl (legRawChunk_fits (by decide) (by cases fin <;> cases full <;> cases arr <;> decide) sa.isLt (by decide) (by decide))
    fun wf => by
    have ok : (p.ok && c.ok) = true := formOk_of_wf wf
    obtain ⟨-, hc⟩ := Bool.and_eq_true_iff.1 ok
    simp only [legOf, legRawChunk_chunk? hc]
    cases fin <;> cases full <;> cases arr <;> simp [LegRaw.peer, fl1, fl2, legRawChunk]

theorem legReduce {op dt} : LegDecodes (.legReduce op dt full arr sa sb sc c) :=
  .of rfl (legRawChunk_fits (by decide) (by cases op <;> cases dt <;> cases full <;> cases arr <;> decide) sa.isLt sb.isLt sc.isLt)
    fun wf => by
    have hc : c.ok = true := formOk_of_wf wf
    simp only [legOf, legRawChunk_chunk? hc]
    cases op <;> cases dt <;> cases full <;> cases arr <;> 
      simp [LegRaw.noPeer, fl1, fl2, legRawChunk, gOp?, legTy?, GOp.code, LegTy.code]

theorem legCopy {cvt stride} : LegDecodes (.legCopy cvt full arr stride sa sc c) :=
  .of rfl (legRawChunk_fits (by decide) (by cases cvt <;> cases full <;> cases arr <;> decide) sa.isLt (by decide) sc.isLt)
    fun wf => by
    have hc : c.ok = true := formOk_of_wf wf
    simp only [legOf, legRawChunk_chunk? hc]
    cases cvt <;> cases full <;> cases arr <;> simp [fl1, fl2, legRawChunk]

theorem legWait : ∀ {k}, LegDecodes (.legWait k)
  | .arr sa n => .of rfl (legRawPlain_fits (by decide) (by decide) sa.isLt (by decide) (by decide) n.isLt) fun _ => by
    simp [legOf, legRawPlain, LegRaw.noPeer, LegRaw.noChunk]
  | .drain => .of rfl (legRawPlain_fits (by decide) (by decide) (by decide) (by decide) (by decide) (by decide)) fun _ => by
    simp [legOf, legRawPlain, LegRaw.noPeer, LegRaw.noChunk]
  | .full sa c => .of rfl (legRawChunk_fits (by decide) (by decide) sa.isLt (by decide) (by decide)) fun wf => by
    have hc : c.ok = true := formOk_of_wf wf
    simp only [legOf, legRawChunk_chunk? hc]
    simp [legRawChunk, LegRaw.noPeer]
  | .empty sa c => .of rfl (legRawChunk_fits (by decide) (by decide) sa.isLt (by decide) (by decide)) fun wf => by
    have hc : c.ok = true := formOk_of_wf wf
    simp only [legOf, legRawChunk_chunk? hc]
    simp [legRawChunk, LegRaw.noPeer]

theorem legSignal {v} : LegDecodes (.legSignal p sb v) :=
  .of rfl (legRawPlain_fits (by decide) (by decide) (by decide) sb.isLt (by decide) v.isLt) fun _ => by
    simp [legOf, legRawPlain, LegRaw.peer, LegRaw.noChunk]

theorem legReserve {spill rows} : LegDecodes (.legReserve spill p sb rows) :=
  .of rfl (legRawPlain_fits (by decide) (by cases spill <;> decide) (by decide) sb.isLt (by decide) rows.isLt) fun _ => by
    cases spill <;> simp [legOf, legRawPlain, LegRaw.peer, LegRaw.noChunk]

theorem legRepeat {lv count target} : LegDecodes (.legRepeat lv count target) :=
  .of rfl ⟨(by decide : 8 < 2 ^ 8), Nat.two_pow_pos 8, Nat.two_pow_pos 12, Nat.two_pow_pos 1, Nat.two_pow_pos 2, lv.toNat_lt,
    Nat.two_pow_pos 2, Nat.two_pow_pos 12, Nat.two_pow_pos 4, Nat.two_pow_pos 4, Nat.two_pow_pos 4, count.isLt, target.isLt⟩ fun _ => by
    simp [legOf, LegRaw.noPeer]

theorem legEnd : LegDecodes .legEnd :=
  .of rfl (legRawPlain_fits (by decide) (by decide) (by decide) (by decide) (by decide) (by decide)) fun _ => by
    simp [legOf, legRawPlain, LegRaw.noPeer, LegRaw.noChunk]

end LegDecodes

/-- Every leg decodes from its bits; no other instruction has any. -/
theorem legDecodes (i : Instr) : LegDecodes i := by
  cases i with
  | legSend => exact .legSend
  | legRecv => exact .legRecv
  | legReduce => exact .legReduce
  | legCopy => exact .legCopy
  | legWait => exact .legWait
  | legSignal => exact .legSignal
  | legReserve => exact .legReserve
  | legRepeat => exact .legRepeat
  | legEnd => exact .legEnd
  | _ => exact fun _ hw => nomatch hw

/-- Settles O2: the fields of a word are read back from it and give the operands back; a leg likewise. -/
theorem decodingUndoesEncoding : Obligations.DecodingUndoesEncoding := by
  unfold Obligations.DecodingUndoesEncoding
  intro i
  refine ⟨fun h => ?word, fun h => ?leg, fun wf => ⟨fun w hw => decodes i w hw wf, fun w hw => legDecodes i w hw wf⟩⟩
  case word => rwa [encode, Option.isSome_map, ← hdr_isSome_iff_fields]
  case leg => rwa [encodeLeg, Option.isSome_map]

end Sys2Proof
end

section
/-! SUPPORT. Whatever an instruction, a leg, an event or a step does, it answers a next state wherever it has a party that acts
(00 R1; 01 R32; 12 R485): branches of a definition answer, and a wrapper answers where what it wraps does. -/

set_option Elab.async false

namespace Sys2Proof.Machine

open Sys2Proof

/-- The outcome is a next state. -/
def Answers (o : Host.Outcome State Fault Refusal) : Prop := ∃ t, o = .next t

/-! Events, those whose definition branches: every branch answers. -/

theorem execWaitWake_answers {s} {p} : Answers (execWaitWake p s) := by
  unfold execWaitWake
  (repeat' split) <;> exact ⟨_, rfl⟩

theorem execQueueDeadlock_answers {s} {hart} : Answers (execQueueDeadlock hart s) := by
  unfold execQueueDeadlock
  dsimp only
  (repeat' split) <;> exact ⟨_, rfl⟩

theorem execRendezvousComplete_answers {s} {hart} {serial} : Answers (execRendezvousComplete hart serial s) := by
  unfold execRendezvousComplete
  dsimp only
  (repeat' split) <;> exact ⟨_, rfl⟩

theorem execLaneArrive_answers {s} {hart} {serial} {lane} : Answers (execLaneArrive hart serial lane s) := by
  unfold execLaneArrive
  dsimp only
  (repeat' split) <;> exact ⟨_, rfl⟩

theorem execVectorTrapCommit_answers {s} {hart} : Answers (execVectorTrapCommit hart s) := by
  unfold execVectorTrapCommit
  dsimp only
  (repeat' split) <;> exact ⟨_, rfl⟩

theorem execMzeroApply_answers {s} {array} : Answers (execMzeroApply array s) := by
  unfold execMzeroApply
  dsimp only
  (repeat' split) <;> exact ⟨_, rfl⟩

theorem execStreamChunk_answers {s} {array} : Answers (execStreamChunk array s) := by
  unfold execStreamChunk
  (repeat' split) <;> exact ⟨_, rfl⟩

theorem execWeightSwap_answers {s} {array} : Answers (execWeightSwap array s) := by
  unfold execWeightSwap
  dsimp only
  (repeat' split) <;> exact ⟨_, rfl⟩

theorem execBarRelease_answers {s} {serial} {level} {group} : Answers (execBarRelease serial level group s) := by
  unfold execBarRelease
  dsimp only
  (repeat' split) <;> exact ⟨_, rfl⟩

theorem execTraverseRunStart_answers {s} {card} : Answers (execTraverseRunStart card s) := by
  unfold execTraverseRunStart
  dsimp only
  (repeat' split) <;> exact ⟨_, rfl⟩

theorem execSendLand_answers {s} {m} : Answers (execSendLand m s) := by
  unfold execSendLand
  dsimp only
  (repeat' split) <;> exact ⟨_, rfl⟩

theorem execSignalArrive_answers {s} {m} : Answers (execSignalArrive m s) := by
  unfold execSignalArrive
  dsimp only
  (repeat' split) <;> exact ⟨_, rfl⟩

theorem execReserveClaimArrive_answers {s} {m} : Answers (execReserveClaimArrive m s) := by
  unfold execReserveClaimArrive
  dsimp only
  (repeat' split) <;> exact ⟨_, rfl⟩

theorem execReserveRound_answers {s} {run} {dst} {round} : Answers (execReserveRound run dst round s) := by
  unfold execReserveRound
  dsimp only
  (repeat' split) <;> exact ⟨_, rfl⟩

theorem execLegAckArrive_answers {s} {m} : Answers (execLegAckArrive m s) := by
  unfold execLegAckArrive
  dsimp only
  (repeat' split) <;> exact ⟨_, rfl⟩

theorem execStopNotice_answers {s} {run} {dst} : Answers (execStopNotice run dst s) := by
  unfold execStopNotice
  dsimp only
  (repeat' split) <;> exact ⟨_, rfl⟩

theorem execCardStart_answers {s} {card} : Answers (execCardStart card s) := by
  unfold execCardStart
  (repeat' split) <;> exact ⟨_, rfl⟩

theorem execStreamCopyJob_answers {s} {card} : Answers (execStreamCopyJob card s) := by
  unfold execStreamCopyJob
  dsimp only
  (repeat' split) <;> exact ⟨_, rfl⟩

theorem execWeightLoadJob_answers {s} {card} : Answers (execWeightLoadJob card s) := by
  unfold execWeightLoadJob
  dsimp only
  (repeat' split) <;> exact ⟨_, rfl⟩

theorem execGzLookupJob_answers {s} {card} : Answers (execGzLookupJob card s) := by
  unfold execGzLookupJob
  dsimp only
  (repeat' split) <;> exact ⟨_, rfl⟩

theorem execGzUpdateJob_answers {s} {card} : Answers (execGzUpdateJob card s) := by
  unfold execGzUpdateJob
  dsimp only
  (repeat' split) <;> exact ⟨_, rfl⟩

theorem execGzageHalve_answers {s} {s1} : Answers (execGzageHalve s1 s) := by
  unfold execGzageHalve
  dsimp only
  (repeat' split) <;> exact ⟨_, rfl⟩

theorem execCardComplete_answers {s} {card} : Answers (execCardComplete card s) := by
  unfold execCardComplete
  dsimp only
  (repeat' split) <;> exact ⟨_, rfl⟩

theorem execRingWptrWrite_answers {s} {n} {w} : Answers (execRingWptrWrite n w s) := by
  unfold execRingWptrWrite
  dsimp only
  (repeat' split) <;> exact ⟨_, rfl⟩

theorem execRingEntryRead_answers {s} {n} : Answers (execRingEntryRead n s) := by
  unfold execRingEntryRead
  dsimp only
  (repeat' split) <;> exact ⟨_, rfl⟩

theorem execPriorityAge_answers {s} {n} : Answers (execPriorityAge n s) := by
  unfold execPriorityAge
  dsimp only
  (repeat' split) <;> exact ⟨_, rfl⟩

theorem execLaunchPlace_answers {s} {serial} : Answers (execLaunchPlace serial s) := by
  unfold execLaunchPlace
  dsimp only
  (repeat' split) <;> exact ⟨_, rfl⟩

theorem execPodAdmission_answers {s} {podid} {rank} : Answers (execPodAdmission podid rank s) := by
  unfold execPodAdmission
  dsimp only
  (repeat' split) <;> exact ⟨_, rfl⟩

theorem execLaunchComplete_answers {s} {serial} : Answers (execLaunchComplete serial s) := by
  unfold execLaunchComplete
  (repeat' split) <;> exact ⟨_, rfl⟩

theorem execPreemptWrite_answers {s} {serial} : Answers (execPreemptWrite serial s) := by
  unfold execPreemptWrite
  (repeat' split) <;> exact ⟨_, rfl⟩

theorem execCancelWrite_answers {s} {serial} : Answers (execCancelWrite serial s) := by
  unfold execCancelWrite
  (repeat' split) <;> exact ⟨_, rfl⟩

theorem execGangPreempt_answers {s} {serial} {gang} : Answers (execGangPreempt serial gang s) := by
  unfold execGangPreempt
  (repeat' split) <;> exact ⟨_, rfl⟩

theorem execGangResume_answers {s} {serial} {gang} : Answers (execGangResume serial gang s) := by
  unfold execGangResume
  (repeat' split) <;> exact ⟨_, rfl⟩

theorem execFqrespRetry_answers {s} {quad} {id} : Answers (execFqrespRetry quad id s) := by
  unfold execFqrespRetry
  dsimp only
  (repeat' split) <;> exact ⟨_, rfl⟩

theorem execFqrespDecline_answers {s} {quad} {id} : Answers (execFqrespDecline quad id s) := by
  unfold execFqrespDecline
  dsimp only
  (repeat' split) <;> exact ⟨_, rfl⟩

theorem execPageWalkDone_answers {s} : Answers (execPageWalkDone s) := by
  unfold execPageWalkDone
  dsimp only
  (repeat' split) <;> exact ⟨_, rfl⟩

theorem execFaultRecordPost_answers {s} {quad} : Answers (execFaultRecordPost quad s) := by
  unfold execFaultRecordPost
  dsimp only
  (repeat' split) <;> exact ⟨_, rfl⟩

theorem execSideLogPerform_answers {s} {hart} : Answers (execSideLogPerform hart s) := by
  unfold execSideLogPerform
  dsimp only
  (repeat' split) <;> exact ⟨_, rfl⟩

theorem execL1LeaseExpire_answers {s} {core} : Answers (execL1LeaseExpire core s) := by
  unfold execL1LeaseExpire
  dsimp only
  (repeat' split) <;> exact ⟨_, rfl⟩

theorem execBorderCopyInvalidate_answers {s} {quad} {sector} : Answers (execBorderCopyInvalidate quad sector s) := by
  unfold execBorderCopyInvalidate
  dsimp only
  (repeat' split) <;> exact ⟨_, rfl⟩

theorem execRoundApply_answers {s} {serial} : Answers (execRoundApply serial s) := by
  unfold execRoundApply
  dsimp only
  (repeat' split) <;> exact ⟨_, rfl⟩

theorem execTrainReceive_answers {s} {t} : Answers (execTrainReceive t s) := by
  unfold execTrainReceive
  dsimp only
  (repeat' split) <;> exact ⟨_, rfl⟩

theorem execTrainAck_answers {s} {serial} : Answers (execTrainAck serial s) := by
  unfold execTrainAck
  dsimp only
  (repeat' split) <;> exact ⟨_, rfl⟩

theorem execTrainRefusal_answers {s} {serial} : Answers (execTrainRefusal serial s) := by
  unfold execTrainRefusal
  dsimp only
  (repeat' split) <;> exact ⟨_, rfl⟩

theorem execUalinkReadServe_answers {s} {r} : Answers (execUalinkReadServe r s) := by
  unfold execUalinkReadServe
  dsimp only
  (repeat' split) <;> exact ⟨_, rfl⟩

theorem execTlbicmdDone_answers {s} : Answers (execTlbicmdDone s) := by
  unfold execTlbicmdDone
  dsimp only
  (repeat' split) <;> exact ⟨_, rfl⟩

theorem execPoolGrowDone_answers {s} : Answers (execPoolGrowDone s) := by
  unfold execPoolGrowDone
  dsimp only
  (repeat' split) <;> exact ⟨_, rfl⟩

theorem execGzprobeDone_answers {s} : Answers (execGzprobeDone s) := by
  unfold execGzprobeDone
  dsimp only
  (repeat' split) <;> exact ⟨_, rfl⟩

theorem execTickAlign_answers {s} {tick} : Answers (execTickAlign tick s) := by
  unfold execTickAlign
  dsimp only
  (repeat' split) <;> exact ⟨_, rfl⟩

theorem execTickAlignLoss_answers {s} : Answers (execTickAlignLoss s) := by
  unfold execTickAlignLoss
  dsimp only
  (repeat' split) <;> exact ⟨_, rfl⟩

theorem execSampleRecord_answers {s} {hart} {stages} {total} : Answers (execSampleRecord hart stages total s) := by
  unfold execSampleRecord
  dsimp only
  (repeat' split) <;> exact ⟨_, rfl⟩

theorem execSvrunWrite_answers {s} {v} : Answers (execSvrunWrite v s) := by
  unfold execSvrunWrite
  dsimp only
  (repeat' split) <;> exact ⟨_, rfl⟩

theorem execReplayInputArrive_answers {s} {i1} : Answers (execReplayInputArrive i1 s) := by
  unfold execReplayInputArrive
  dsimp only
  (repeat' split) <;> exact ⟨_, rfl⟩

theorem execDmloadWrite_answers {s} {v} : Answers (execDmloadWrite v s) := by
  unfold execDmloadWrite
  dsimp only
  (repeat' split) <;> exact ⟨_, rfl⟩

theorem execUnitLost_answers {s} {bit} : Answers (execUnitLost bit s) := by
  unfold execUnitLost
  dsimp only
  split
  · exact execTickAlignLoss_answers
  · split <;> exact ⟨_, rfl⟩

theorem execPointChange_answers {s} : Answers (execPointChange s) := by
  unfold execPointChange
  dsimp only
  (repeat' split) <;> exact ⟨_, rfl⟩

theorem execDebugScan_answers {s} : Answers (execDebugScan s) := by
  unfold execDebugScan
  dsimp only
  (repeat' split) <;> exact ⟨_, rfl⟩

theorem execDebugMemrd_answers {s} {pa} : Answers (execDebugMemrd pa s) := by
  unfold execDebugMemrd
  dsimp only
  (repeat' split) <;> exact ⟨_, rfl⟩

theorem execDebugMemwr_answers {s} {pa} {v} : Answers (execDebugMemwr pa v s) := by
  unfold execDebugMemwr
  (repeat' split) <;> exact ⟨_, rfl⟩

theorem execDebugSvstop_answers {s} {tick} : Answers (execDebugSvstop tick s) := by
  unfold execDebugSvstop
  dsimp only
  (repeat' split) <;> exact ⟨_, rfl⟩

theorem execI3cEntdaa_answers {s} {addr} : Answers (execI3cEntdaa addr s) := by
  unfold execI3cEntdaa
  dsimp only
  (repeat' split) <;> exact ⟨_, rfl⟩

theorem execLaneComplete_answers {s} {hart} {serial} {lane} : Answers (execLaneComplete hart serial lane s) := by
  unfold execLaneComplete
  dsimp only
  (repeat' split) <;> exact ⟨_, rfl⟩

theorem execMeridianTick_answers {s} : Answers (execMeridianTick s) := by
  unfold execMeridianTick
  dsimp only
  (repeat' split) <;> exact ⟨_, rfl⟩

theorem execUalinkErrorResponse_answers {s} {id} : Answers (execUalinkErrorResponse id s) := by
  unfold execUalinkErrorResponse
  (repeat' split) <;> exact ⟨_, rfl⟩

/-- Every event answers: of an unconditional one, the answer stands in its definition. -/
theorem exec_event_answers {i : Instr} (hi : isEvent i = true) (s : State) : Answers (Sys2Proof.Machine.exec i s) := by
  cases i
  case legWait k => cases k <;> cases hi
  all_goals cases hi
  case waitWake => exact execWaitWake_answers
  case queueDeadlock => exact execQueueDeadlock_answers
  case rendezvousComplete => exact execRendezvousComplete_answers
  case laneArrive => exact execLaneArrive_answers
  case vectorTrapCommit => exact execVectorTrapCommit_answers
  case mzeroApply => exact execMzeroApply_answers
  case streamChunk => exact execStreamChunk_answers
  case weightSwap => exact execWeightSwap_answers
  case barRelease => exact execBarRelease_answers
  case traverseRunStart => exact execTraverseRunStart_answers
  case sendLand => exact execSendLand_answers
  case signalArrive => exact execSignalArrive_answers
  case reserveClaimArrive => exact execReserveClaimArrive_answers
  case reserveRound => exact execReserveRound_answers
  case legAckArrive => exact execLegAckArrive_answers
  case stopNotice => exact execStopNotice_answers
  case cardStart => exact execCardStart_answers
  case streamCopyJob => exact execStreamCopyJob_answers
  case weightLoadJob => exact execWeightLoadJob_answers
  case gzLookupJob => exact execGzLookupJob_answers
  case gzUpdateJob => exact execGzUpdateJob_answers
  case gzageHalve => exact execGzageHalve_answers
  case cardComplete => exact execCardComplete_answers
  case ringWptrWrite => exact execRingWptrWrite_answers
  case ringEntryRead => exact execRingEntryRead_answers
  case priorityAge => exact execPriorityAge_answers
  case launchPlace => exact execLaunchPlace_answers
  case podAdmission => exact execPodAdmission_answers
  case launchComplete => exact execLaunchComplete_answers
  case preemptWrite => exact execPreemptWrite_answers
  case cancelWrite => exact execCancelWrite_answers
  case gangPreempt => exact execGangPreempt_answers
  case gangResume => exact execGangResume_answers
  case fqrespRetry => exact execFqrespRetry_answers
  case fqrespDecline => exact execFqrespDecline_answers
  case pageWalkDone => exact execPageWalkDone_answers
  case faultRecordPost => exact execFaultRecordPost_answers
  case sideLogPerform => exact execSideLogPerform_answers
  case l1LeaseExpire => exact execL1LeaseExpire_answers
  case borderCopyInvalidate => exact execBorderCopyInvalidate_answers
  case roundApply => exact execRoundApply_answers
  case trainReceive => exact execTrainReceive_answers
  case trainAck => exact execTrainAck_answers
  case trainRefusal => exact execTrainRefusal_answers
  case ualinkReadServe => exact execUalinkReadServe_answers
  case tlbicmdDone => exact execTlbicmdDone_answers
  case poolGrowDone => exact execPoolGrowDone_answers
  case gzprobeDone => exact execGzprobeDone_answers
  case tickAlign => exact execTickAlign_answers
  case tickAlignLoss => exact execTickAlignLoss_answers
  case sampleRecord => exact execSampleRecord_answers
  case svrunWrite => exact execSvrunWrite_answers
  case replayInputArrive => exact execReplayInputArrive_answers
  case dmloadWrite => exact execDmloadWrite_answers
  case unitLost => exact execUnitLost_answers
  case pointChange => exact execPointChange_answers
  case debugScan => exact execDebugScan_answers
  case debugMemrd => exact execDebugMemrd_answers
  case debugMemwr => exact execDebugMemwr_answers
  case debugSvstop => exact execDebugSvstop_answers
  case i3cEntdaa => exact execI3cEntdaa_answers
  case laneComplete => exact execLaneComplete_answers
  case meridianTick => exact execMeridianTick_answers
  case ualinkErrorResponse => exact execUalinkErrorResponse_answers
  all_goals exact ⟨_, rfl⟩

/-! Legs. -/

/-- A leg answers where its channel holds a run. -/
theorem runLeg_answers (i : Instr) (body : LegBody) (s : State) :
    Answers (runLeg i body s) ∨ runLeg i body s = .fault .noActor ∧ s.runEnv s.curChan = none := by
  unfold runLeg
  cases s.runEnv s.curChan with
  | none => exact .inr ⟨rfl, rfl⟩
  | some e =>
    left
    dsimp only
    (repeat' split) <;> exact ⟨_, rfl⟩

/-- Every leg is run by `runLeg`. -/
theorem exec_leg_answers {i : Instr} (hl : i.legFields.isSome = true) (s : State) :
    Answers (Sys2Proof.Machine.exec i s) ∨
    Sys2Proof.Machine.exec i s = .fault .noActor ∧ s.runEnv s.curChan = none := by
  cases i
  case legSend => exact runLeg_answers ..
  case legRecv => exact runLeg_answers ..
  case legReduce => exact runLeg_answers ..
  case legCopy => exact runLeg_answers ..
  case legWait => exact runLeg_answers ..
  case legSignal => exact runLeg_answers ..
  case legReserve => exact runLeg_answers ..
  case legRepeat => exact runLeg_answers ..
  case legEnd => exact runLeg_answers ..
  all_goals cases hl

/-! Steps. -/

/-- The outcome is a next state, or nothing acts. -/
def Steps (o : Host.Outcome State Fault Refusal) : Prop := Answers o ∨ o = .fault .noActor

theorem steps_next (s : State) : Steps (.next s) := .inl ⟨s, rfl⟩

theorem Steps.andThen {o : Host.Outcome State Fault Refusal} {f : State → Host.Outcome State Fault Refusal} (ho : Steps o)
    (hf : ∀ t, Steps (f t)) : Steps (andThen o f) := by
  obtain ⟨t, rfl⟩ | rfl := ho
  · exact hf t
  · exact .inr rfl

/-- What an instruction, a leg or an event comes to. -/
theorem exec_cases (i : Instr) (s : State) : Answers (Sys2Proof.Machine.exec i s) ∨
    Sys2Proof.Machine.exec i s = .fault .noActor ∧
      ((Instr.hdr? i).isSome = true ∧ (∀ st, s.stream? s.cur = some st → st.live = false) ∨
        i.legFields.isSome = true ∧ s.runEnv s.curChan = none) := by
  cases hh : Instr.hdr? i with
  | some m =>
    obtain ⟨body, hb⟩ := exec_hart hh
    rw [hb]
    exact (runHart_next i m.2 body s).imp_right fun ⟨hf, hn⟩ => ⟨hf, .inl ⟨rfl, hn⟩⟩
  | none =>
    cases hl : i.legFields with
    | some r =>
      exact (exec_leg_answers (by rw [hl]; rfl) s).imp_right fun ⟨hf, hn⟩ => ⟨hf, .inr ⟨rfl, hn⟩⟩
    | none => exact .inl (exec_event_answers (by rw [isEvent, hh, hl]; rfl) s)

theorem exec_steps (i : Instr) (s : State) : Steps (Sys2Proof.Machine.exec i s) :=
  (exec_cases i s).imp_right And.left

theorem answerExc_steps (vec : Bool) (restart : Nat → BitVec 13) (scalar : Bool) (s0 : State) (e : Exc) (s : State) :
    Steps (answerExc vec restart scalar s0 e s) := .inl (answerExc_next ..)

theorem issueSlot_steps (w : Word96) (is : Issue) (s : State) : Steps (issueSlot w is s) := by
  unfold issueSlot
  cases decode w with
  | none => exact steps_next _
  | some i => exact exec_steps ..

theorem pairScalarFirst_steps (n : Word) (i1 i2 : Instr) (w1 w2 : Word96) (last : Nat) (s : State) :
    Steps (pairScalarFirst n i1 i2 w1 w2 last s) := by
  refine (exec_steps ..).andThen fun s1 => ?_
  dsimp only
  split
  · exact steps_next _
  · refine (exec_steps ..).andThen fun s2 => ?_
    split <;> exact steps_next _

theorem pairScalarSecond_steps (n : Word) (i1 i2 : Instr) (w1 w2 : Word96) (last : Nat) (s : State) :
    Steps (pairScalarSecond n i1 i2 w1 w2 last s) := by
  refine (exec_steps ..).andThen fun s1 => ?_
  dsimp only
  split
  · exact (exec_steps ..).andThen fun s2 => steps_next _
  · exact steps_next _

theorem issuePair_steps (n : Word) (w1 w2 : Word96) (last : Nat) (s : State) : Steps (issuePair n w1 w2 last s) := by
  unfold issuePair
  dsimp only
  split
  · exact steps_next _
  · split
    · exact exec_steps ..
    · exact steps_next _
  · split
    · exact exec_steps ..
    split
    · exact exec_steps ..
    split
    · exact steps_next _
    split
    · exact steps_next _
    split
    · exact pairScalarFirst_steps ..
    · exact pairScalarSecond_steps ..

theorem fetchAndIssue_steps (s : State) : Steps (fetchAndIssue s) := by
  unfold fetchAndIssue
  dsimp only
  split
  · exact answerExc_steps ..
  · split
    · exact issuePair_steps ..
    · split <;> exact issueSlot_steps ..

theorem goOn_steps (st : Stream) (s : State) : Steps (goOn st s) := by
  unfold goOn
  split
  · exact steps_next _
  split
  · exact steps_next _
  split <;> split
  · exact fetchAndIssue_steps _
  · exact steps_next _
  · exact steps_next _
  · exact fetchAndIssue_steps _

theorem heldTurn_steps (st : Stream) (s : State) : Steps (heldTurn st s) := by
  unfold heldTurn
  split
  · exact steps_next _
  · exact (fetchAndIssue_steps s).andThen fun t => steps_next _

theorem takeTurn_steps (s : State) : Steps (takeTurn s) := by
  unfold takeTurn
  split
  · exact steps_next _
  split
  · exact steps_next _
  split
  · exact goOn_steps ..
  dsimp only
  split
  · exact heldTurn_steps ..
  split
  · exact goOn_steps ..
  split
  · exact .inl execVectorTrapCommit_answers
  split
  · exact goOn_steps ..
  · exact steps_next _

theorem channelTurn_steps (s : State) : Steps (channelTurn s) := by
  unfold channelTurn
  split
  · exact steps_next _
  split
  · exact steps_next _
  split
  · exact steps_next _
  split
  · exact steps_next _
  split
  · exact steps_next _
  · exact exec_steps ..

theorem runEvent_steps (i : Instr) (s : State) : Steps (runEvent i s) := by
  unfold runEvent
  split <;> exact exec_steps ..

theorem firstDue_steps (s : State) (l : List Instr) : Steps (firstDue s l) := by
  induction l with
  | nil => exact steps_next s
  | cons i rest ih =>
    unfold firstDue
    obtain ⟨t, ht⟩ | hf := runEvent_steps i s
    · rw [ht]
      dsimp only
      split
      · exact ih
      · exact steps_next t
    · rw [hf]
      exact .inr rfl

theorem runAct_steps (a : Act) (s : State) : Steps (runAct a s) := by
  cases a with
  | stream p => exact takeTurn_steps _
  | streamLate p => exact takeTurn_steps _
  | channel quad ch => exact channelTurn_steps _
  | event i =>
    rw [runAct]
    split
    · exact exec_steps ..
    · exact steps_next _
  | engine => exact firstDue_steps ..
  | clock => exact .inl execMeridianTick_answers
  | evict quad line => exact steps_next _

theorem stoppedTurn_steps (s : State) : Steps (stoppedTurn s) := by
  unfold stoppedTurn
  split
  · exact runAct_steps ..
  · exact .inl execMeridianTick_answers

theorem runningTurn_steps (s : State) : Steps (runningTurn s) := by
  unfold runningTurn
  split
  · unfold agendaTurn
    split <;> exact runAct_steps ..
  · exact runAct_steps ..
  · exact .inl execMeridianTick_answers

theorem step_steps (s : State) : Steps (step s) := by
  unfold step
  split
  · exact stoppedTurn_steps s
  · exact runningTurn_steps s

/-- Settles O4: an instruction is issued by the shared operation, a leg run by the shared one for legs, and every branch of an
event answers; a step is one of them, or a turn of its own that answers. -/
theorem noInstructionStops : Obligations.NoInstructionStops := by
  unfold Obligations.NoInstructionStops
  exact ⟨exec_cases, step_steps⟩

end Sys2Proof.Machine
end

section
/-! SUPPORT. The two-operand arithmetic of majors 0x10 and 0x11 on exact integers (05 R212, R213): at any width an operation
gives an exact result reduced to that width; the instruction takes it at width 64 or at width 32 and extends it. -/

set_option Elab.async false

namespace Sys2Proof.Machine

open Sys2Proof

/-! The operations at width n. -/

section Width

variable {n : Nat} (a b : BitVec n)

theorem aluAdd_eq : aluAdd n a b = BitVec.ofInt n (a.toInt + b.toInt) := by
  rw [BitVec.ofInt_add, BitVec.ofInt_toInt, BitVec.ofInt_toInt, aluAdd]

theorem aluSub_eq : aluSub n a b = BitVec.ofInt n (a.toInt - b.toInt) := by
  rw [aluSub, ← BitVec.ofInt_toInt (x := a - b), BitVec.toInt_sub]
  exact BitVec.eq_of_toInt_eq (by simp)

theorem aluMul_eq : aluMul n a b = BitVec.ofInt n (a.toInt * b.toInt) := by
  rw [BitVec.ofInt_mul, BitVec.ofInt_toInt, BitVec.ofInt_toInt, aluMul]

/-- The high half of a number of two widths. -/
theorem Int.emod_mul_self_ediv {m : Int} (hm : 0 < m) (z : Int) : z % (m * m) / m % m = z / m % m := by
  have e : z / m = z % (m * m) / m + m * (z / (m * m)) := by
    conv_lhs => rw [← Int.emod_add_mul_ediv z (m * m), mul_assoc]
    exact Int.add_mul_ediv_left _ _ hm.ne'
  rw [e, Int.add_mul_emod_self_left]

theorem setWidth_ushiftRight_ofInt (z : Int) :
    ((BitVec.ofInt (n + n) z) >>> n).setWidth n = BitVec.ofInt n (z / 2 ^ n) := by
  apply BitVec.eq_of_toNat_eq
  rw [BitVec.toNat_setWidth, BitVec.toNat_ushiftRight, BitVec.toNat_ofInt, BitVec.toNat_ofInt, Nat.shiftRight_eq_div_pow]
  have hp : (0 : Int) < 2 ^ n := by positivity
  have h0 : 0 ≤ z % 2 ^ (n + n) := Int.emod_nonneg _ (by positivity)
  zify
  rw [Int.toNat_of_nonneg h0, Int.toNat_of_nonneg (Int.emod_nonneg _ hp.ne'), pow_add, Int.emod_mul_self_ediv hp]

theorem aluMulh_eq : aluMulh n a b = BitVec.ofInt n (a.toInt * b.toInt / 2 ^ n) := by
  rw [← setWidth_ushiftRight_ofInt, BitVec.ofInt_mul]
  rfl

theorem aluMulhu_eq : aluMulhu n a b = BitVec.ofInt n (a.toNat * b.toNat / 2 ^ n : Nat) := by
  have e : a.setWidth (n + n) * b.setWidth (n + n) = BitVec.ofInt (n + n) (a.toNat * b.toNat) := by
    rw [BitVec.ofInt_mul, BitVec.ofInt_natCast, BitVec.ofInt_natCast, BitVec.ofNat_toNat, BitVec.ofNat_toNat]
  rw [aluMulhu, e, setWidth_ushiftRight_ofInt]
  norm_cast

theorem toNat_eq_zero_iff {b : BitVec n} : b.toNat = 0 ↔ b = 0 := by
  rw [← BitVec.toNat_inj]
  rfl

/-- All ones are -1. -/
theorem allOnes_eq_ofInt : BitVec.allOnes n = BitVec.ofInt n (-1) := by
  rw [← BitVec.neg_one_eq_allOnes, BitVec.ofInt_neg]
  rfl

theorem aluDiv_eq : aluDiv n a b = BitVec.ofInt n (if b.toNat = 0 then -1 else a.toInt.tdiv b.toInt) := by
  simp only [aluDiv, toNat_eq_zero_iff]
  split
  · exact allOnes_eq_ofInt
  · exact BitVec.eq_of_toInt_eq (by rw [BitVec.toInt_sdiv, BitVec.toInt_ofInt])

theorem aluDivu_eq : aluDivu n a b = BitVec.ofInt n (if b.toNat = 0 then -1 else (a.toNat / b.toNat : Nat)) := by
  simp only [aluDivu, toNat_eq_zero_iff]
  split
  · exact allOnes_eq_ofInt
  · rw [BitVec.ofInt_natCast, ← BitVec.toNat_udiv, BitVec.ofNat_toNat, BitVec.setWidth_eq]
    rfl

theorem aluRem_eq : aluRem n a b = BitVec.ofInt n (if b.toNat = 0 then a.toInt else a.toInt.tmod b.toInt) := by
  simp only [aluRem, toNat_eq_zero_iff]
  split
  · exact BitVec.ofInt_toInt.symm
  · rw [← BitVec.toInt_srem, BitVec.ofInt_toInt]

theorem aluRemu_eq : aluRemu n a b = BitVec.ofInt n (if b.toNat = 0 then a.toNat else (a.toNat % b.toNat : Nat)) := by
  simp only [aluRemu, toNat_eq_zero_iff]
  split
  · simp
  · rw [BitVec.ofInt_natCast, ← BitVec.toNat_umod, BitVec.ofNat_toNat, BitVec.setWidth_eq]
    rfl

theorem aluAnd_eq : aluAnd n a b = BitVec.ofInt n (a.toNat &&& b.toNat : Nat) := by
  rw [BitVec.ofInt_natCast, ← BitVec.toNat_and, BitVec.ofNat_toNat, BitVec.setWidth_eq, aluAnd]

theorem aluOr_eq : aluOr n a b = BitVec.ofInt n (a.toNat ||| b.toNat : Nat) := by
  rw [BitVec.ofInt_natCast, ← BitVec.toNat_or, BitVec.ofNat_toNat, BitVec.setWidth_eq, aluOr]

theorem aluXor_eq : aluXor n a b = BitVec.ofInt n (a.toNat ^^^ b.toNat : Nat) := by
  rw [BitVec.ofInt_natCast, ← BitVec.toNat_xor, BitVec.ofNat_toNat, BitVec.setWidth_eq, aluXor]

theorem aluAndn_eq : aluAndn n a b = BitVec.ofInt n (a.toNat &&& (2 ^ n - 1 - b.toNat) : Nat) := by
  rw [BitVec.ofInt_natCast, ← BitVec.toNat_not, ← BitVec.toNat_and, BitVec.ofNat_toNat, BitVec.setWidth_eq, aluAndn]

theorem aluShl_eq : aluShl n a b = BitVec.ofInt n (a.toNat * 2 ^ (b.toNat % n) : Nat) := by
  rw [BitVec.ofInt_natCast, ← Nat.shiftLeft_eq]
  exact BitVec.eq_of_toNat_eq (by rw [aluShl, BitVec.toNat_shiftLeft, BitVec.toNat_ofNat])

theorem aluShr_eq : aluShr n a b = BitVec.ofInt n (a.toNat / 2 ^ (b.toNat % n) : Nat) := by
  rw [BitVec.ofInt_natCast, ← Nat.shiftRight_eq_div_pow, ← BitVec.toNat_ushiftRight, BitVec.ofNat_toNat, BitVec.setWidth_eq, aluShr]

theorem aluSra_eq : aluSra n a b = BitVec.ofInt n (a.toInt / 2 ^ (b.toNat % n)) := by
  rw [aluSra, ← BitVec.ofInt_toInt (x := a.sshiftRight _), BitVec.toInt_sshiftRight, Int.shiftRight_eq_div_pow]
  norm_cast

/-- The bits that a rotation puts above do not meet those that it keeps below. -/
theorem aluRor_eq : aluRor n a b = BitVec.ofInt n
    (a.toNat / 2 ^ (b.toNat % n) + a.toNat * 2 ^ (n - b.toNat % n) : Nat) := by
  have apart : a >>> (b.toNat % n) &&& a <<< (n - b.toNat % n) = 0#n := by
    ext i hi
    have above : i < n - b.toNat % n ∨ n ≤ b.toNat % n + i := by omega
    rcases above with below | beyond
    · simp [below]
    · simp [BitVec.getLsbD_of_ge _ _ beyond]
  rw [aluRor, BitVec.rotateRight_def, Nat.mod_mod, ← BitVec.add_eq_or_of_and_eq_zero _ _ apart, BitVec.ofInt_natCast,
    BitVec.ofNat_add, ← Nat.shiftRight_eq_div_pow, ← Nat.shiftLeft_eq, ← BitVec.toNat_ushiftRight, BitVec.ofNat_toNat,
    BitVec.setWidth_eq]
  exact congrArg _ (BitVec.eq_of_toNat_eq (by rw [BitVec.toNat_shiftLeft, BitVec.toNat_ofNat]))

theorem aluMin_eq : aluMin n a b = BitVec.ofInt n (min a.toInt b.toInt) := by
  simp only [aluMin, BitVec.slt_iff_toInt_lt]
  split <;> rename_i h
  · rw [min_eq_left h.le, BitVec.ofInt_toInt]
  · rw [min_eq_right (not_lt.1 h), BitVec.ofInt_toInt]

theorem aluMax_eq : aluMax n a b = BitVec.ofInt n (max a.toInt b.toInt) := by
  simp only [aluMax, BitVec.slt_iff_toInt_lt]
  split <;> rename_i h
  · rw [max_eq_right h.le, BitVec.ofInt_toInt]
  · rw [max_eq_left (not_lt.1 h), BitVec.ofInt_toInt]

theorem aluMinu_eq : aluMinu n a b = BitVec.ofInt n (min a.toNat b.toNat : Nat) := by
  simp only [aluMinu, BitVec.ult_iff_lt, BitVec.lt_def, BitVec.ofInt_natCast]
  split <;> rename_i h
  · rw [min_eq_left h.le, BitVec.ofNat_toNat, BitVec.setWidth_eq]
  · rw [min_eq_right (not_lt.1 h), BitVec.ofNat_toNat, BitVec.setWidth_eq]

theorem aluMaxu_eq : aluMaxu n a b = BitVec.ofInt n (max a.toNat b.toNat : Nat) := by
  simp only [aluMaxu, BitVec.ult_iff_lt, BitVec.lt_def, BitVec.ofInt_natCast]
  split <;> rename_i h
  · rw [max_eq_right h.le, BitVec.ofNat_toNat, BitVec.setWidth_eq]
  · rw [max_eq_left (not_lt.1 h), BitVec.ofNat_toNat, BitVec.setWidth_eq]

end Width

/-! The width of an operation. -/

/-- The exact result of an operation, reduced. -/
theorem alu2_eq_opResult {f : (n : Nat) → BitVec n → BitVec n → BitVec n} {r : (n : Nat) → BitVec n → BitVec n → Int}
    (hf : ∀ (n : Nat) (a b : BitVec n), f n a b = BitVec.ofInt n (r n a b)) (w : Bool) (a b : Word) :
    alu2 f w a b = opResult w (r (opWidth w) (a.setWidth _) (b.setWidth _)) := by
  cases w with
  | false =>
    show f 64 a b = BitVec.ofInt 64 (r 64 (a.setWidth 64) (b.setWidth 64))
    rw [hf, BitVec.setWidth_eq, BitVec.setWidth_eq]
  | true =>
    show (f 32 (a.setWidth 32) (b.setWidth 32)).signExtend 64 = _
    rw [hf, BitVec.signExtend, BitVec.toInt_ofInt]
    rfl

theorem toInt_setWidth_opWidth (w : Bool) (a : Word) : (a.setWidth (opWidth w)).toInt = opS w a := by
  cases w with
  | false => rw [opS_false]; exact congrArg BitVec.toInt (BitVec.setWidth_eq a)
  | true => rw [opS_true]; rfl

theorem toNat_setWidth_opWidth (w : Bool) (a : Word) : (a.setWidth (opWidth w)).toNat = opU w a := BitVec.toNat_setWidth ..

/-! From the body of an instruction to its effect. -/

section Forms

variable {s : State} {i : Instr} {h : Hdr} {w : Bool} {d a b : XOp} {imm : BitVec 48} {rest : List Use}
  {f : (n : Nat) → BitVec n → BitVec n → BitVec n}

theorem does_alu2 (he : Sys2Proof.Machine.exec i s = runSeq i h (bodyAlu2 f w d a b) s)
    (hn : queueNeeds s i = i.uses.filterMap Use.queue?) (hu : i.uses = .rx a :: .rx b :: rest) :
    Does i h s .next (s.x2 a b fun x y t => t.xput d (alu2 f w x y)) :=
  .of_runSeq he fun hi => by
    rw [bodyAlu2, bind_readX _ (hi.has1 hn hu), bind_readX _ (hi.has2 hn hu), writeX_ok]
    rfl

theorem does_aluImm (he : Sys2Proof.Machine.exec i s = runSeq i h (bodyAluImm f w d a imm) s)
    (hn : queueNeeds s i = i.uses.filterMap Use.queue?) (hu : i.uses = .rx a :: rest) :
    Does i h s .next (s.x1 a fun x t => t.xput d (alu2 f w x (imm.signExtend 64))) :=
  .of_runSeq he fun hi => by
    rw [bodyAluImm, bind_readX _ (hi.has1 hn hu), writeX_ok]
    rfl

end Forms

/-- A line of the table of 05 R213: the forms with a register and with an immediate run an operation that gives the line's
result. -/
structure AluLine (op : (Hdr → Bool → XOp → XOp → XOp → Instr) × (Hdr → Bool → XOp → XOp → BitVec 48 → Instr) ×
    (Bool → Word → Word → Word)) (f : (n : Nat) → BitVec n → BitVec n → BitVec n) : Prop where
  result : ∀ w a b, alu2 f w a b = op.2.2 w a b
  exec2 : ∀ h w d a b s, Sys2Proof.Machine.exec (op.1 h w d a b) s = runSeq (op.1 h w d a b) h (bodyAlu2 f w d a b) s := by
    intros; rfl
  execImm : ∀ h w d a imm s,
    Sys2Proof.Machine.exec (op.2.1 h w d a imm) s = runSeq (op.2.1 h w d a imm) h (bodyAluImm f w d a imm) s := by
    intros; rfl
  uses2 : ∀ h w d a b, (op.1 h w d a b).uses = [.rx a, .rx b, .wx d] := by intros; rfl
  usesImm : ∀ h w d a imm, (op.2.1 h w d a imm).uses = [.rx a, .wx d] := by intros; rfl
  needs2 : ∀ h w d a b s, queueNeeds s (op.1 h w d a b) = (op.1 h w d a b).uses.filterMap Use.queue? := by intros; rfl
  needsImm : ∀ h w d a imm s,
    queueNeeds s (op.2.1 h w d a imm) = (op.2.1 h w d a imm).uses.filterMap Use.queue? := by intros; rfl
  scalar2 : ∀ h w d a b, Instr.isVector (op.1 h w d a b) = false := by intros; rfl
  scalarImm : ∀ h w d a imm, Instr.isVector (op.2.1 h w d a imm) = false := by intros; rfl

/-- Every line of the table runs the model's operation of its name. -/
theorem aluTable_lines : ∀ op ∈ aluTable, ∃ f, AluLine op f := by
  have exact_ : ∀ {f : (n : Nat) → BitVec n → BitVec n → BitVec n} {r : (n : Nat) → BitVec n → BitVec n → Int}
      {res : Bool → Word → Word → Word}, (∀ (n : Nat) (a b : BitVec n), f n a b = BitVec.ofInt n (r n a b)) →
      (∀ w a b, opResult w (r (opWidth w) (a.setWidth _) (b.setWidth _)) = res w a b) → ∀ w a b, alu2 f w a b = res w a b :=
    fun hf hr w a b => (alu2_eq_opResult hf w a b).trans (hr w a b)
  simp only [aluTable, List.forall_mem_cons, List.not_mem_nil, false_implies, implies_true, and_true]
  refine ⟨⟨aluAdd, { result := exact_ (fun _ => aluAdd_eq) ?_ }⟩, ⟨aluSub, { result := exact_ (fun _ => aluSub_eq) ?_ }⟩,
    ⟨aluMul, { result := exact_ (fun _ => aluMul_eq) ?_ }⟩, ⟨aluMulh, { result := exact_ (fun _ => aluMulh_eq) ?_ }⟩,
    ⟨aluMulhu, { result := exact_ (fun _ => aluMulhu_eq) ?_ }⟩, ⟨aluDiv, { result := exact_ (fun _ => aluDiv_eq) ?_ }⟩,
    ⟨aluDivu, { result := exact_ (fun _ => aluDivu_eq) ?_ }⟩, ⟨aluRem, { result := exact_ (fun _ => aluRem_eq) ?_ }⟩,
    ⟨aluRemu, { result := exact_ (fun _ => aluRemu_eq) ?_ }⟩, ⟨aluAnd, { result := exact_ (fun _ => aluAnd_eq) ?_ }⟩,
    ⟨aluOr, { result := exact_ (fun _ => aluOr_eq) ?_ }⟩, ⟨aluXor, { result := exact_ (fun _ => aluXor_eq) ?_ }⟩,
    ⟨aluAndn, { result := exact_ (fun _ => aluAndn_eq) ?_ }⟩, ⟨aluShl, { result := exact_ (fun _ => aluShl_eq) ?_ }⟩,
    ⟨aluShr, { result := exact_ (fun _ => aluShr_eq) ?_ }⟩, ⟨aluSra, { result := exact_ (fun _ => aluSra_eq) ?_ }⟩,
    ⟨aluRor, { result := exact_ (fun _ => aluRor_eq) ?_ }⟩, ⟨aluMin, { result := exact_ (fun _ => aluMin_eq) ?_ }⟩,
    ⟨aluMax, { result := exact_ (fun _ => aluMax_eq) ?_ }⟩, ⟨aluMinu, { result := exact_ (fun _ => aluMinu_eq) ?_ }⟩,
    ⟨aluMaxu, { result := exact_ (fun _ => aluMaxu_eq) ?_ }⟩⟩
  all_goals intro w a b; simp only [toInt_setWidth_opWidth, toNat_setWidth_opWidth]

/-- Settles O7: each line of the table runs one operation, which gives the exact result at either width. -/
theorem scalarArithmeticIsExact : Obligations.ScalarArithmeticIsExact := by
  unfold Obligations.ScalarArithmeticIsExact
  intro op hop s h w d a b imm
  obtain ⟨f, line⟩ := aluTable_lines op hop
  simp only [← line.result]
  exact ⟨does_alu2 (line.exec2 ..) (line.needs2 ..) (line.uses2 ..),
    does_aluImm (line.execImm ..) (line.needsImm ..) (line.usesImm ..)⟩

end Sys2Proof.Machine
end

section
/-! SUPPORT. Counts of bits, bit fields, SEL and LEA (05 R213..R215), and the sources of an instruction that reads several. -/

set_option Elab.async false

namespace Sys2Proof.Machine

open Sys2Proof

/-! Several sources in field order. -/

/-- The state once sources have been read in order. -/
def State.xpops (s : State) (l : List XOp) : State := l.foldl State.xpop s

@[simp] theorem State.xpops_cur (s : State) (l : List XOp) : (s.xpops l).cur = s.cur := by
  induction l generalizing s with
  | nil => rfl
  | cons a l ih => exact (ih (s.xpop a)).trans (s.xpop_cur a)

/-- Each reading of a queue takes one of its entries. -/
theorem State.xpops_q_get (s : State) (l : List XOp) (m : Fin 8) :
    ((s.xpops l).hart s.cur.slot).q.get m.val [] = ((s.hart s.cur.slot).q.get m.val []).drop (l.count (.q m)) := by
  induction l generalizing s with
  | nil => simp [State.xpops]
  | cons a l ih =>
    have step := ih (s.xpop a)
    rw [State.xpop_cur] at step
    refine step.trans ?_
    cases a with
    | x n => simp [State.xpop]
    | q n =>
      rw [State.xpop_q_get]
      by_cases e : n = m
      · simp [e, Nat.add_comm]
      · simp [e]

theorem queue_needs_of_reads (l : List XOp) (m : Fin 8) :
    (((l.map Use.rx).filterMap Use.queue?).filter fun d => d.1 == 64 + m.val && d.2 == false).length = l.count (.q m) := by
  induction l with
  | nil => rfl
  | cons a l ih =>
    cases a with
    | x n =>
      rw [List.map_cons, List.filterMap_cons_none (show Use.queue? (.rx (.x n)) = none from rfl), ih]
      simp
    | q n =>
      rw [List.map_cons, List.filterMap_cons_some (show Use.queue? (.rx (.q n)) = some (64 + n.val, false) from rfl),
        List.count_cons, ← ih]
      by_cases e : n = m <;> simp [e, Fin.val_inj]

/-- A source of an instruction that issues can be read once those before it have been. -/
theorem Issues.hasNext {i : Instr} {h : Hdr} {s : State} {l : List XOp} {a : XOp} {rest : List Use} (hi : Issues i h s)
    (hn : queueNeeds s i = i.uses.filterMap Use.queue?) (hu : i.uses = l.map .rx ++ .rx a :: rest) :
    (s.xpops l).hasX a := by
  match a with
  | .x _ => trivial
  | .q m =>
    have hb := hi.unblocked hn
    rw [hu, List.filterMap_append, List.filterMap_cons_some (show Use.queue? (.rx (.q m)) = some (64 + m.val, false) from rfl)] at hb
    have left := firstBlocked_read hb
    rw [List.nil_append, queue_needs_of_reads, queueLen_x] at left
    apply hasX_of_len
    rw [State.xpops_cur, State.xpops_q_get, List.length_drop]
    omega

/-- A hart's stream is read back from a context written. -/
theorem State.stream_setHart_self (s : State) (slot : Nat) (h : Hart) (isX : Bool) :
    (s.setHart slot h).stream (.stream slot isX) = h.stream isX := by
  simp [State.stream, State.stream?, State.hart?, Assoc.get?_put_self]

theorem State.stream_setHart_ne (s : State) {slot slot' : Nat} (h : Hart) (isX : Bool) (hs : slot' ≠ slot) :
    (s.setHart slot h).stream (.stream slot' isX) = s.stream (.stream slot' isX) := by
  simp [State.stream, State.stream?, State.hart?, Assoc.get?_put_ne _ _ hs]

/-- What a stream holds is read from its hart's context, but for its kind, which a slot without a context has not. -/
theorem State.proj_stream {α : Type} (g : Stream → α) (hg : g { Stream.blank with strm := true } = g Stream.blank) (s : State)
    (slot : Nat) (isX : Bool) : g (s.stream (.stream slot isX)) = g ((s.hart slot).stream isX) := by
  simp only [State.stream, State.stream?, State.hart, State.hart?, Assoc.get]
  cases s.harts.get? slot with
  | none =>
    cases isX with
    | false => rfl
    | true => exact hg.symm
  | some h => rfl

/-- A change of a hart's context that keeps something of both its streams keeps it of every stream. -/
theorem State.proj_stream_setHart {α : Type} (g : Stream → α) (hg : g { Stream.blank with strm := true } = g Stream.blank)
    {s : State} {slot : Nat} {h : Hart} (hh : ∀ isX, g (h.stream isX) = g ((s.hart slot).stream isX)) (p : Party) :
    g ((s.setHart slot h).stream p) = g (s.stream p) := by
  cases p with
  | datum => rfl
  | stream slot' isX =>
    by_cases e : slot' = slot
    · rw [e, State.stream_setHart_self, hh, State.proj_stream g hg]
    · rw [State.stream_setHart_ne _ _ _ e]

/-- Reading a source changes no predicate. -/
theorem State.pval_xpop (s : State) (a : XOp) (p : Fin 8) : (s.xpop a).pval p = s.pval p := by
  cases a with
  | x n => rfl
  | q n =>
    rw [State.pval, State.pval, State.xpop_cur]
    unfold State.xpop
    exact State.proj_stream_setHart (fun st => st.getP p) rfl (fun isX => by cases isX <;> rfl) s.cur

/-! Counts of bits. -/

/-- The leading zeros of a word are those above its highest one. -/
theorem find_leading {n : Nat} (a : BitVec n) :
    ((List.range n).find? fun k => a.getLsbD (n - 1 - k)).getD n = n - bitLen a.toNat := by
  by_cases h0 : a.toNat = 0
  · have none : ((List.range n).find? fun k => a.getLsbD (n - 1 - k)) = none := by
      simp [BitVec.getLsbD, h0]
    rw [none, h0]
    rfl
  · have lt : Nat.log2 a.toNat < n := (Nat.log2_lt h0).2 a.isLt
    have top : ((List.range n).find? fun k => a.getLsbD (n - 1 - k)) = some (n - 1 - Nat.log2 a.toNat) := by
      rw [List.find?_range_eq_some]
      refine ⟨?one, by rw [List.mem_range]; omega, fun j hj => ?zeros⟩
      case one =>
        rw [show n - 1 - (n - 1 - Nat.log2 a.toNat) = Nat.log2 a.toNat by omega]
        exact Nat.testBit_log2 h0
      case zeros =>
        have above : a.toNat < 2 ^ (n - 1 - j) := (Nat.log2_lt h0).1 (by omega)
        simp [BitVec.getLsbD, Nat.testBit_lt_two_pow above]
    rw [top, bitLen, if_neg h0, Option.getD_some]
    omega

/-- The trailing zeros of a number are those below its lowest one. -/
theorem find_trailing (w n : Nat) : ((List.range w).find? fun k => n.testBit k).getD w = trailing w n := by
  induction w generalizing n with
  | zero => rfl
  | succ w ih =>
    rw [List.range_succ_eq_map, List.find?_cons, trailing, Nat.testBit_zero]
    by_cases odd : n % 2 = 1
    · simp [odd]
    · simp only [odd, decide_false, if_false, List.find?_map, ← ih (n / 2)]
      rw [show ((fun k => n.testBit k) ∘ Nat.succ) = fun k => (n / 2).testBit k from funext fun k => Nat.testBit_succ n k]
      cases (List.range w).find? fun k => (n / 2).testBit k <;> simp [Nat.add_comm]

theorem trailing_le (w n : Nat) : trailing w n ≤ w := by
  induction w generalizing n with
  | zero => exact le_rfl
  | succ w ih =>
    rw [trailing]
    have := ih (n / 2)
    split <;> omega

/-- A count of at most 32 is itself at width 32 as at width 64. -/
theorem alu1_ofNat {f : (n : Nat) → BitVec n → BitVec n} {r : (n : Nat) → BitVec n → Nat}
    (hf : ∀ (n : Nat) (a : BitVec n), f n a = BitVec.ofNat n (r n a)) (hr : ∀ a : BitVec 32, r 32 a ≤ 32) (w : Bool) (a : Word) :
    alu1 f w a = BitVec.ofNat 64 (r (opWidth w) (a.setWidth _)) := by
  cases w with
  | false =>
    show f 64 a = BitVec.ofNat 64 (r 64 (a.setWidth 64))
    rw [hf, BitVec.setWidth_eq]
  | true =>
    show (f 32 (a.setWidth 32)).signExtend 64 = BitVec.ofNat 64 (r 32 (a.setWidth 32))
    have small := hr (a.setWidth 32)
    rw [hf, BitVec.signExtend_eq_setWidth_of_msb_false]
    · apply BitVec.eq_of_toNat_eq
      simp only [BitVec.toNat_setWidth, BitVec.toNat_ofNat]
      omega
    · rw [BitVec.msb_eq_false_iff_two_mul_lt, BitVec.toNat_ofNat]
      omega

theorem opWidth_le (w : Bool) : opWidth w ≤ 64 := by cases w <;> decide

/-- The bits of a word cut to the width of an operation. -/
theorem getLsbD_setWidth_opWidth {w : Bool} {a : Word} {k : Nat} (hk : k < opWidth w) :
    (a.setWidth (opWidth w)).getLsbD k = a.getLsbD k := by
  simp [hk]

theorem alu1_clz (w : Bool) (a : Word) : alu1 aluClz w a = BitVec.ofNat 64
    (((List.range (opWidth w)).find? fun k => a.getLsbD (opWidth w - 1 - k)).getD (opWidth w)) := by
  rw [alu1_ofNat (f := aluClz) (fun _ _ => rfl) fun b => Nat.sub_le .., ← find_leading]
  congr 2
  refine List.find?_congr fun k hk => ?_
  have := List.mem_range.1 hk
  exact getLsbD_setWidth_opWidth (by omega)

theorem alu1_ctz (w : Bool) (a : Word) : alu1 aluCtz w a = BitVec.ofNat 64
    (((List.range (opWidth w)).find? fun k => a.getLsbD k).getD (opWidth w)) := by
  rw [alu1_ofNat (f := aluCtz) (fun _ _ => rfl) fun b => trailing_le .., ← find_trailing]
  congr 2
  exact List.find?_congr fun k hk => getLsbD_setWidth_opWidth (List.mem_range.1 hk)

theorem alu1_popc (w : Bool) (a : Word) : alu1 aluPopc w a = BitVec.ofNat 64
    ((List.range (opWidth w)).filter fun k => a.getLsbD k).length := by
  rw [alu1_ofNat (f := aluPopc) (fun _ _ => rfl) fun b => List.countP_le_length.trans (List.length_range ..).le, ← List.countP_eq_length_filter]
  congr 1
  exact List.countP_congr fun k hk => by rw [getLsbD_setWidth_opWidth (List.mem_range.1 hk)]

/-! Bit fields. -/

/-- The signed reading of f bits. -/
theorem signedOf_eq_bmod {f n : Nat} (hf : 0 < f) (hn : n < 2 ^ f) : signedOf f n = (n : Int).bmod (2 ^ f) := by
  have half : (2 : Nat) ^ f = 2 * 2 ^ (f - 1) := by rw [← Nat.pow_succ', Nat.succ_eq_add_one, Nat.sub_add_cancel hf]
  have mod : (n : Int) % (2 ^ f : Nat) = n := Int.emod_eq_of_lt (by omega) (by exact_mod_cast hn)
  simp only [signedOf, Nat.mod_eq_of_lt hn, Int.bmod, mod]
  split <;> split <;> omega

theorem bfExtract_eq (sx : Bool) (a c : Word) : bfExtract sx a c = fieldTaken sx a c := by
  have field : bfField c = (fieldPos c, fieldLen c) := rfl
  have lt : a.toNat / 2 ^ fieldPos c % 2 ^ fieldLen c < 2 ^ fieldLen c := Nat.mod_lt _ (Nat.two_pow_pos _)
  simp only [bfExtract, field, fieldTaken]
  cases sx with
  | false => exact (BitVec.ofInt_natCast ..).symm
  | true =>
    by_cases h0 : 0 < fieldLen c
    · simp [h0, signedOf_eq_bmod h0 lt]
    · simp [Nat.eq_zero_of_not_pos h0, Nat.mod_one]

/-- Bit k of a number with a field of f bits put in at pos. -/
theorem testBit_splice (base a pos f k : Nat) :
    (base / 2 ^ (pos + f) * 2 ^ (pos + f) + a % 2 ^ f * 2 ^ pos + base % 2 ^ pos).testBit k =
      if pos ≤ k ∧ k < pos + f then a.testBit (k - pos) else base.testBit k := by
  have lo : base % 2 ^ pos < 2 ^ pos := Nat.mod_lt _ (Nat.two_pow_pos _)
  have mid : a % 2 ^ f < 2 ^ f := Nat.mod_lt _ (Nat.two_pow_pos _)
  have e : base / 2 ^ (pos + f) * 2 ^ (pos + f) + a % 2 ^ f * 2 ^ pos + base % 2 ^ pos =
      2 ^ pos * (2 ^ f * (base / 2 ^ (pos + f)) + a % 2 ^ f) + base % 2 ^ pos := by rw [Nat.pow_add]; ring
  rw [e, Nat.testBit_two_pow_mul_add _ lo, Nat.testBit_two_pow_mul_add _ mid, Nat.testBit_mod_two_pow,
    Nat.testBit_mod_two_pow, Nat.testBit_div_two_pow]
  by_cases h1 : k < pos
  · simp [h1, show ¬ pos ≤ k by omega]
  · by_cases h2 : k < pos + f
    · simp [h1, h2, show k - pos < f by omega, show pos ≤ k by omega]
    · simp [h1, h2, show ¬ k - pos < f by omega, show k - pos - f + (pos + f) = k by omega]

theorem bfInsert_eq (base a c : Word) : bfInsert base a c = spliced base a (fieldPos c) (fieldLen c) := by
  have field : bfField c = (fieldPos c, fieldLen c) := rfl
  simp only [bfInsert, field, spliced]
  ext k hk
  have mask : ((2 ^ fieldLen c - 1) * 2 ^ fieldPos c).testBit k = decide (fieldPos c ≤ k ∧ k < fieldPos c + fieldLen c) := by
    rw [Nat.testBit_mul_two_pow, Nat.testBit_two_pow_sub_one]
    by_cases h1 : fieldPos c ≤ k <;> simp [h1]; omega
  simp only [← BitVec.getLsbD_eq_getElem, BitVec.getLsbD_or, BitVec.getLsbD_and, BitVec.getLsbD_not, BitVec.getLsbD_shiftLeft,
    BitVec.getLsbD_ofNat, hk, mask, testBit_splice, decide_true, Bool.true_and]
  by_cases inside : fieldPos c ≤ k ∧ k < fieldPos c + fieldLen c
  · simp [inside, BitVec.getLsbD]
  · simp [inside, BitVec.getLsbD]

/-- A shift to the left multiplies. -/
theorem shiftLeft_eq_mul_pow (x : Word) (k : Nat) : x <<< k = x * 2#64 ^ k := by
  rw [BitVec.shiftLeft_eq_mul_twoPow]
  congr 1
  induction k with
  | zero => rfl
  | succ k ih => rw [pow_succ, ← ih, ← BitVec.twoPow_mul_twoPow_eq k 1]; rfl

/-! One lemma per form. -/

section Forms

variable {s : State} {i : Instr} {h : Hdr} {w sx : Bool} {d a b c : XOp} {r : Fin 64} {p : Fin 8} {k : Fin 4} {imm : BitVec 48}
  {rest : List Use} {f : (n : Nat) → BitVec n → BitVec n}

theorem does_alu1 (he : Sys2Proof.Machine.exec i s = runSeq i h (bodyAlu1 f w d a) s)
    (hn : queueNeeds s i = i.uses.filterMap Use.queue?) (hu : i.uses = .rx a :: rest) :
    Does i h s .next (s.x1 a fun x t => t.xput d (alu1 f w x)) :=
  .of_runSeq he fun hi => by
    rw [bodyAlu1, bind_readX _ (hi.has1 hn hu), writeX_ok]
    rfl

theorem does_bfx : Does (.bfx h sx d a b) h s .next (s.x2 a b fun x y t => t.xput d (fieldTaken sx x y)) :=
  .of_runSeq rfl fun hi => by
    rw [bind_readX _ (hi.has1 rfl rfl), bind_readX _ (hi.has2 rfl rfl), writeX_ok, bfExtract_eq]
    rfl

theorem does_bfxImm : Does (.bfxImm h sx d a imm) h s .next
    (s.x1 a fun x t => t.xput d (fieldTaken sx x (imm.setWidth 64))) :=
  .of_runSeq rfl fun hi => by
    rw [bind_readX _ (hi.has1 rfl rfl), writeX_ok, bfExtract_eq]
    rfl

theorem does_bfi : Does (.bfi h d a b c) h s .next
    (s.x3 a b c fun x y z t => t.xput d (spliced z x (fieldPos y) (fieldLen y))) :=
  .of_runSeq rfl fun hi => by
    have third : ((s.xpop a).xpop b).hasX c := hi.hasNext (l := [a, b]) rfl rfl
    rw [bind_readX _ (hi.has1 rfl rfl), bind_readX _ (hi.has2 rfl rfl), bind_readX _ third, writeX_ok, bfInsert_eq]
    rfl

theorem does_bfiImm : Does (.bfiImm h r a imm) h s .next (s.x1 a fun x t =>
    t.xput (.x r) (spliced (t.xval (.x r)) x (fieldPos (imm.setWidth 64)) (fieldLen (imm.setWidth 64)))) :=
  .of_runSeq rfl fun hi => by
    refine (bind_readX _ (hi.has1 rfl rfl)).trans ?_
    simp only [State.x1, ← bfInsert_eq]
    rfl

theorem does_sel : Does (.sel h d a b p) h s .next
    (s.x2 a b fun x y t => t.xput d (if s.pval p then x else y)) :=
  .of_runSeq rfl fun hi => by
    have kept : ((s.xpop a).xpop b).pval p = s.pval p := by rw [State.pval_xpop, State.pval_xpop]
    rw [bind_readX _ (hi.has1 rfl rfl), bind_readX _ (hi.has2 rfl rfl), bind_ok (readP_ok ..), writeX_ok, kept]
    rfl

theorem does_selImm : Does (.selImm h d a imm p) h s .next
    (s.x1 a fun x t => t.xput d (if s.pval p then x else imm.signExtend 64)) :=
  .of_runSeq rfl fun hi => by
    rw [bind_readX _ (hi.has1 rfl rfl), bind_ok (readP_ok ..), writeX_ok, State.pval_xpop]
    rfl

theorem does_lea : Does (.lea h k d a b) h s .next (s.x2 a b fun x y t => t.xput d (x + y * 2#64 ^ k.val)) :=
  .of_runSeq rfl fun hi => by
    rw [bind_readX _ (hi.has1 rfl rfl), bind_readX _ (hi.has2 rfl rfl), writeX_ok, shiftLeft_eq_mul_pow]
    rfl

theorem does_leaImm : Does (.leaImm h k d a imm) h s .next
    (s.x1 a fun x t => t.xput d (x + imm.signExtend 64 * 2#64 ^ k.val)) :=
  .of_runSeq rfl fun hi => by
    rw [bind_readX _ (hi.has1 rfl rfl), writeX_ok, shiftLeft_eq_mul_pow]
    rfl

end Forms

/-- Settles O8: a lemma per form; the machine's counts and field operations are those of the spec on numbers. -/
theorem bitFieldsAndSelects : Obligations.BitFieldsAndSelects := by
  unfold Obligations.BitFieldsAndSelects
  intro s h d a b c r p k sx w imm
  refine ⟨?counts, does_bfx, does_bfxImm, does_bfi, does_bfiImm, does_sel, does_selImm, does_lea, does_leaImm⟩
  case counts =>
    simp only [aluTable1, List.forall_mem_cons, List.not_mem_nil, false_implies, implies_true, and_true, ← alu1_clz, ← alu1_ctz,
      ← alu1_popc]
    exact ⟨does_alu1 rfl rfl rfl, does_alu1 rfl rfl rfl, does_alu1 rfl rfl rfl⟩

end Sys2Proof.Machine
end

section
/-! SUPPORT. What changes of one stream leave alone, and what retiring an instruction leaves: the frame of the scalar
instructions (02 R64; 03 R119; 05 R200, R236; 06 R285). -/

set_option Elab.async false

namespace Sys2Proof.Machine

open Sys2Proof

/-! Changes of one stream. -/

/-- The step's own notes, and of all harts and the datum core one party's stream alone, may have changed. -/
structure OnlyStream (p : Party) (s t : State) : Prop where
  rest : SameButHarts s t
  cur : t.cur = s.cur
  live : (t.stream? p).isSome = (s.stream? p).isSome
  others : ∀ q, q ≠ p → t.stream q = s.stream q
  harts : ∀ slot, t.hart slot = { s.hart slot with sa := (t.hart slot).sa, sx := (t.hart slot).sx }

theorem SameButHarts.trans {s t u : State} (h1 : SameButHarts s t) (h2 : SameButHarts t u) : SameButHarts s u := by
  obtain ⟨harts, dc, issue, reqs, rfl⟩ : ∃ harts core issue reqs,
      t = { s with harts := harts, dc := { s.dc with core := core }, issue := issue, reqs := reqs } := ⟨_, _, _, _, h1⟩
  exact h2

/-- A party's stream is there: the datum core's always, a hart's with its context. -/
theorem State.present_of_live {s : State} {p : Party} {st : Stream} (h : s.stream? p = some st) : (s.stream? p).isSome := by
  rw [h]; rfl

/-- A stream of a hart that has a context stands in it. -/
theorem State.stream_eq_hart {s : State} {slot : Nat} {isX : Bool} (hp : (s.stream? (.stream slot isX)).isSome) :
    s.stream (.stream slot isX) = (s.hart slot).stream isX := by
  simp only [State.stream?, Option.isSome_map] at hp
  obtain ⟨k, hk⟩ := Option.isSome_iff_exists.1 hp
  rw [State.stream, State.stream?, State.hart, Assoc.get, ← State.hart?, hk]
  rfl

theorem OnlyStream.refl (p : Party) (s : State) : OnlyStream p s s := ⟨rfl, rfl, rfl, fun _ _ => rfl, fun _ => rfl⟩

theorem OnlyStream.trans {p : Party} {s t u : State} (h1 : OnlyStream p s t) (h2 : OnlyStream p t u) : OnlyStream p s u where
  rest := h1.rest.trans h2.rest
  cur := h2.cur.trans h1.cur
  live := h2.live.trans h1.live
  others q hq := (h2.others q hq).trans (h1.others q hq)
  harts slot := by rw [h2.harts slot, h1.harts slot]

/-- The step's notes about the unit in issue are its own. -/
theorem OnlyStream.issue {p : Party} {s t : State} (h : OnlyStream p s t) (is : Issue) : OnlyStream p s { t with issue := is } :=
  h.trans ⟨rfl, rfl, rfl, fun _ _ => rfl, fun _ => rfl⟩

/-- A hart's context with one stream changed. -/
theorem OnlyStream.setHart {s : State} {slot : Nat} {isX : Bool} {h : Hart} (hp : (s.stream? (.stream slot isX)).isSome)
    (hh : h = { s.hart slot with sa := h.sa, sx := h.sx }) (ho : h.stream (!isX) = (s.hart slot).stream (!isX)) :
    OnlyStream (.stream slot isX) s (s.setHart slot h) where
  rest := rfl
  cur := rfl
  live := by
    rw [hp]
    simp [State.stream?, State.hart?, Assoc.get?_put_self]
  others q hq := by
    cases q with
    | datum => rfl
    | stream slot' isX' =>
      by_cases e : slot' = slot
      · subst e
        have other : isX' = !isX := by
          cases isX <;> cases isX' <;> first | rfl | exact absurd rfl hq
        have present : s.hart? slot' = some (s.hart slot') := by
          simp only [State.stream?, Option.isSome_map] at hp
          obtain ⟨k, hk⟩ := Option.isSome_iff_exists.1 hp
          rw [hk, State.hart, Assoc.get, ← State.hart?, hk, Option.getD_some]
        rw [State.stream_setHart_self, other, ho, State.stream, State.stream?, present]
        rfl
      · exact State.stream_setHart_ne _ _ _ e
  harts slot' := by
    by_cases e : slot' = slot
    · rw [e, State.hart_setHart]
      exact hh
    · rw [State.hart, State.setHart_harts, Assoc.get_put_ne _ _ _ e]
      rfl

theorem OnlyStream.setStream {s : State} {p : Party} (hp : (s.stream? p).isSome) (st : Stream) :
    OnlyStream p s (s.setStream p st) := by
  cases p with
  | datum =>
    refine ⟨rfl, rfl, rfl, fun q hq => ?_, fun _ => rfl⟩
    cases q with
    | datum => exact absurd rfl hq
    | stream slot isX => rfl
  | stream slot isX =>
    exact .setHart hp (by cases isX <;> rfl) (Hart.stream_setStream_other ..)

/-- Two states whose memories are the same where only a stream has changed. -/
theorem OnlyStream.sameMemory {p : Party} {s t : State} (h : OnlyStream p s t) : SameMemory s t := by
  rw [h.rest]
  exact ⟨rfl, rfl, rfl, rfl, rfl⟩


/-! Marks of registers (06 R285). -/

/-- An instruction that writes no v register clears marks of its own stream's registers only. -/
theorem clearMarks_onlyStream {i : Instr} {s : State} (hp : (s.stream? s.cur).isSome)
    (hw : ∀ r, 128 ≤ r → r ∉ Instr.regsWritten i) : OnlyStream s.cur s (clearMarks i s) ∧
      (clearMarks i s).stream s.cur =
        { s.stream s.cur with xmarks := (s.stream s.cur).xmarks.filter fun r => !(Instr.regsWritten i).contains r } := by
  have marked : ∃ t, OnlyStream s.cur s t ∧ t.stream s.cur =
      { s.stream s.cur with xmarks := (s.stream s.cur).xmarks.filter fun r => !(Instr.regsWritten i).contains r } ∧
      clearMarks i s = match s.cur with
        | .datum => t
        | .stream slot _ => if (t.hart slot).vmarks.isEmpty then t else t.setHart slot (t.hart slot) := by
    have kept : ∀ l : List Nat, (l.filter fun r => !(Instr.regsWritten i).contains (r + 128)) = l := fun l =>
      List.filter_eq_self.2 fun r _ => by simpa using hw (r + 128) (by omega)
    unfold clearMarks
    simp only [kept]
    cases hx : (s.stream s.cur).xmarks.isEmpty with
    | true =>
      refine ⟨s, .refl _ _, ?_, by rw [if_pos rfl] <;> rfl⟩
      rw [List.isEmpty_iff] at hx
      rw [hx, List.filter_nil, ← hx]
    | false => exact ⟨_, .setStream hp _, State.stream_setStream_self .., by
        rw [if_neg Bool.false_ne_true, State.setStream_cur] <;> rfl⟩
  obtain ⟨t, only, stream, e⟩ := marked
  rw [e]
  have there : (t.stream? s.cur).isSome := only.live.trans hp
  match hc : s.cur with
  | .datum =>
    rw [hc] at only stream
    exact ⟨only, stream⟩
  | .stream slot isX =>
    rw [hc] at only stream there
    dsimp only
    split
    · exact ⟨only, stream⟩
    · refine ⟨only.trans (.setHart there (by rfl) rfl), ?_⟩
      rw [State.stream_setHart_self, ← State.stream_eq_hart there, stream]

/-! Retiring (02 R64; 03 R119; 05 R236). -/

/-- A stream whose instruction has retired, before control goes on. -/
def Stream.retired (st : Stream) (user y : Bool) (n : Word) : Stream :=
  { st with
    icount := if user then st.icount + 1 else st.icount
    yielded := st.yielded || y
    stage := 0
    logSerial := none
    reads := []
    faultWait := none
    captured := none
    storing := none
    copied := []
    drained := if user then [] else st.drained.filter (· != n)
    declined := if st.targetFault then st.declined else none
    targetFault := false }

/-- The machine once an instruction has retired, before control goes on. -/
def State.retired (i : Instr) (h : Hdr) (user : Bool) (s : State) : State :=
  let p := s.cur
  let s := if Instr.isVector i then s.closeEntry i else s
  let s := s.setStream p ((s.stream p).retired user h.y s.issue.n)
  let s := if (queueNeeds s i).isEmpty then s else s.unblock p.slot
  { s with issue := { s.issue with res := .retired } }

theorem closeEntry_cur (i : Instr) (s : State) : (s.closeEntry i).cur = s.cur := by
  unfold State.closeEntry
  split
  · rfl
  · dsimp only
    split <;> rfl

theorem unblock_cur (s : State) (slot : Nat) : (s.unblock slot).cur = s.cur := by
  unfold State.unblock
  split <;> rfl

end Sys2Proof.Machine
end

section
/-! SUPPORT. Retiring an instruction: what it leaves of its stream, and where control goes (02 R64; 03 R119; 05 R230, R236). -/

set_option Elab.async false

namespace Sys2Proof.Machine

open Sys2Proof

/-! Streams that differ in their x registers and in what they are blocked on. -/

/-- A scalar result delivered and a queue entry moved change x registers and what a stream is blocked on. -/
def Stream.Delivered (a b : Stream) : Prop := b = { a with x := b.x, blocked := b.blocked }

theorem Stream.Delivered.trans {a b c : Stream} (h1 : a.Delivered b) (h2 : b.Delivered c) : a.Delivered c := by
  rw [Stream.Delivered, h2, h1]

theorem Hart.deliver_stream (h : Hart) (e : VEntry) (isX : Bool) : (h.stream isX).Delivered ((h.deliver e).stream isX) := by
  have step : ∀ (r : XOp × Word) (h : Hart), (h.stream isX).Delivered ((match r.1 with
      | .x n => h.setStream e.isX ((h.stream e.isX).setX n r.2)
      | .q n => { h with q := h.q.put n.val (h.q.get n.val [] ++ [r.2]), sa := { h.sa with blocked := none }
                         sx := { h.sx with blocked := none } } : Hart).stream isX) := by
    rintro ⟨d, w⟩ h
    cases d with
    | q n => cases isX <;> rfl
    | x n =>
      by_cases he : isX = e.isX
      · rw [he, Hart.stream_setStream_self, Stream.setX]
        split <;> rfl
      · rw [Bool.eq_not_of_ne he, Hart.stream_setStream_other]
        rfl
  unfold Hart.deliver
  generalize e.scalars = l
  induction l generalizing h with
  | nil => rfl
  | cons r l ih => exact (step r h).trans (ih _)

theorem Hart.commitFrom_stream (l : List VEntry) (h : Hart) (isX : Bool) :
    (h.stream isX).Delivered ((Hart.commitFrom l h).stream isX) := by
  induction l generalizing h with
  | nil => cases isX <;> rfl
  | cons e l ih =>
    unfold Hart.commitFrom
    split
    · exact (h.deliver_stream e isX).trans (ih _)
    · cases isX <;> rfl

/-- A stream of a hart is the hart's own once the hart has been written. -/
theorem State.stream_setHart_delivered {s : State} {slot : Nat} {h : Hart} {isX : Bool}
    (hp : (s.stream? (.stream slot isX)).isSome) (hh : ((s.hart slot).stream isX).Delivered (h.stream isX)) :
    (s.stream (.stream slot isX)).Delivered ((s.setHart slot h).stream (.stream slot isX)) := by
  rw [State.stream_setHart_self, State.stream_eq_hart hp]
  exact hh

/-! The entry closed and the streams unblocked. -/

theorem closeEntry_cases (i : Instr) (s : State) :
    s.closeEntry i = s ∨ ∃ slot isX l, s.cur = .stream slot isX ∧
      s.closeEntry i = s.setHart slot (({ s.hart slot with inflight := l } : Hart).commit) := by
  unfold State.closeEntry
  split
  · exact .inl rfl
  · rename_i slot isX hc
    dsimp only
    split
    · exact .inl rfl
    · exact .inr ⟨slot, isX, _, hc, rfl⟩

theorem closeEntry_sameMemory (i : Instr) (s : State) : SameMemory s (s.closeEntry i) ∧ (s.closeEntry i).issue = s.issue := by
  rcases closeEntry_cases i s with e | ⟨slot, isX, l, -, e⟩ <;> rw [e] <;> exact ⟨⟨rfl, rfl, rfl, rfl, rfl⟩, rfl⟩

theorem closeEntry_stream (i : Instr) {s : State} (hp : (s.stream? s.cur).isSome) :
    (s.stream s.cur).Delivered ((s.closeEntry i).stream s.cur) := by
  rcases closeEntry_cases i s with e | ⟨slot, isX, l, hc, e⟩
  · rw [e]
    rfl
  · rw [hc] at hp
    rw [e, hc]
    exact State.stream_setHart_delivered hp (.trans (by cases isX <;> rfl) (Hart.commitFrom_stream l _ isX))

theorem unblock_sameMemory (s : State) (slot : Nat) :
    SameMemory s (s.unblock slot) ∧ (s.unblock slot).issue = s.issue := by
  unfold State.unblock
  split <;> exact ⟨⟨rfl, rfl, rfl, rfl, rfl⟩, rfl⟩

theorem unblock_stream (s : State) (p : Party) : (s.stream p).Delivered ((s.unblock p.slot).stream p) ∧
    ((s.unblock p.slot).stream p).x = (s.stream p).x := by
  cases p with
  | datum =>
    unfold State.unblock
    split <;> exact ⟨rfl, rfl⟩
  | stream slot isX =>
    rw [State.unblock, Party.slot]
    cases hh : s.hart? slot with
    | none => exact ⟨rfl, rfl⟩
    | some k =>
      dsimp only
      rw [State.stream_setHart_self, State.stream, State.stream?, hh]
      cases isX <;> exact ⟨rfl, rfl⟩

theorem SameMemory.trans {s t u : State} (h1 : SameMemory s t) (h2 : SameMemory t u) : SameMemory s u := by
  obtain ⟨a1, a2, a3, a4, a5⟩ := h1
  obtain ⟨b1, b2, b3, b4, b5⟩ := h2
  exact ⟨b1.trans a1, b2.trans a2, b3.trans a3, b4.trans a4, b5.trans a5⟩

/-! The machine once an instruction has retired. -/

section
variable (i : Instr) (h : Hdr) (user : Bool) (s : State)

theorem State.retired_cur : (s.retired i h user).cur = s.cur := by
  unfold State.retired
  dsimp only
  split <;> split <;> simp [closeEntry_cur, unblock_cur]

theorem State.retired_issue : (s.retired i h user).issue = { s.issue with res := .retired } := by
  unfold State.retired
  dsimp only
  split <;> split <;> simp [(unblock_sameMemory _ _).2, (closeEntry_sameMemory _ _).2]

theorem State.retired_sameMemory : SameMemory s (s.retired i h user) := by
  have close : SameMemory s (if Instr.isVector i then s.closeEntry i else s) := by
    split
    · exact (closeEntry_sameMemory i s).1
    · exact ⟨rfl, rfl, rfl, rfl, rfl⟩
  unfold State.retired
  dsimp only
  generalize (if Instr.isVector i then s.closeEntry i else s) = s1 at close ⊢
  have stream := close.trans (sameMemory_setStream s1 s.cur ((s1.stream s.cur).retired user h.y s1.issue.n))
  generalize s1.setStream s.cur ((s1.stream s.cur).retired user h.y s1.issue.n) = s2 at stream ⊢
  split
  · exact stream
  · exact stream.trans (unblock_sameMemory _ _).1

variable {s}

/-- A scalar instruction that moves no queue entry retires in its own stream only. -/
theorem State.retired_scalar (hv : Instr.isVector i = false) (hn : ∀ s, queueNeeds s i = []) :
    s.retired i h user = { s.setStream s.cur ((s.stream s.cur).retired user h.y s.issue.n) with
      issue := { s.issue with res := .retired } } := by
  unfold State.retired
  simp [hv, hn]

/-- The stream of an instruction that retires: it has retired, and scalar results and moved entries have reached it. -/
theorem State.retired_stream (hp : (s.stream? s.cur).isSome) :
    ∃ st, (s.stream s.cur).Delivered st ∧ (Instr.isVector i = false → st = s.stream s.cur) ∧
      (st.retired user h.y s.issue.n).Delivered ((s.retired i h user).stream s.cur) ∧
      ((s.retired i h user).stream s.cur).x = st.x := by
  obtain ⟨s1, hs1, hc, his, hd, hv⟩ : ∃ s1, (if Instr.isVector i then s.closeEntry i else s) = s1 ∧ s1.cur = s.cur ∧
      s1.issue = s.issue ∧ (s.stream s.cur).Delivered (s1.stream s.cur) ∧
      (Instr.isVector i = false → s1.stream s.cur = s.stream s.cur) := by
    cases hv : Instr.isVector i with
    | false => exact ⟨s, rfl, rfl, rfl, rfl, fun _ => rfl⟩
    | true =>
      exact ⟨_, rfl, closeEntry_cur i s, (closeEntry_sameMemory i s).2, closeEntry_stream i hp, fun e => nomatch e⟩
  refine ⟨s1.stream s.cur, hd, hv, ?_⟩
  unfold State.retired
  dsimp only
  rw [hs1, his]
  generalize hs2 : s1.setStream s.cur ((s1.stream s.cur).retired user h.y s.issue.n) = s2
  have self : s2.stream s.cur = (s1.stream s.cur).retired user h.y s.issue.n := by
    rw [← hs2, State.stream_setStream_self]
  rw [← self, show (s1.stream s.cur).x = (s2.stream s.cur).x from (congrArg Stream.x self).symm]
  split
  · exact ⟨rfl, rfl⟩
  · exact unblock_stream s2 s.cur

end

end Sys2Proof.Machine
end

section
/-! SUPPORT. Where control goes after an instruction with no end action at hand, and the obligations about retiring, traps
and returns (02 R64; 03 R119; 05 R200, R230..R236). -/

set_option Elab.async false

namespace Sys2Proof.Machine

open Sys2Proof

/-! Where control goes. -/

/-- With neither a STRIP nor loop ends armed there is no end action (05 R200; 08 R357). -/
theorem endActions_plain {s : State} {p : Party} (hs : (s.stream p).stripAct = false) (hl : (s.stream p).le = false) :
    endActions s p = s := by
  simp [endActions, hs, hl]

section
variable {i : Instr} {h : Hdr} {user : Bool} {s : State}

/-- The machine at another instruction number. -/
def State.atPc (s : State) (p : Party) (n : Word) : State := s.setStream p { s.stream p with pc := n }

/-- The number after the unit issued: of a pair the one that its first member chose (02 R64, R70). -/
def Issue.seqPc (i : Issue) : Word := i.skip.getD (succOf i.lastN i.last)

theorem retire_next_eq : retire i h user .next s =
    if s.issue.first || s.issue.jumped then s.retired i h user
    else endActions ((s.retired i h user).atPc s.cur s.issue.seqPc) s.cur := by
  rw [show s.issue.first = (s.retired i h user).issue.first by rw [State.retired_issue],
    show s.issue.jumped = (s.retired i h user).issue.jumped by rw [State.retired_issue],
    show s.issue.seqPc = (s.retired i h user).issue.seqPc by rw [State.retired_issue]; rfl]
  rfl

theorem retire_swtrap_eq (code : Word) : retire i h user (.swtrap code) s =
    let t := endActions ((s.retired i h user).atPc s.cur s.issue.seqPc) s.cur
    t.enterTrap s.cur causeSwtrap code (t.stream s.cur).pc 0 noLane := by
  rw [show s.issue.seqPc = (s.retired i h user).issue.seqPc by rw [State.retired_issue]; rfl]
  rfl

theorem retire_eret_eq : retire i h user .eret s = (s.retired i h user).leaveTrap s.cur := rfl

/-- The end registers of a stream are as they were once its instruction has retired. -/
theorem State.retired_plain (hp : (s.stream? s.cur).isSome) :
    ((s.retired i h user).stream s.cur).stripAct = (s.stream s.cur).stripAct ∧
    ((s.retired i h user).stream s.cur).le = (s.stream s.cur).le := by
  obtain ⟨st, hst, -, hu, -⟩ := s.retired_stream i h user hp
  rw [hu, hst]
  exact ⟨rfl, rfl⟩

/-- With no end action at hand control is at the number chosen. -/
theorem endActions_retired (hp : (s.stream? s.cur).isSome) (he : PlainEnd s) (n : Word) :
    endActions ((s.retired i h user).atPc s.cur n) s.cur = (s.retired i h user).atPc s.cur n := by
  obtain ⟨hs, hl⟩ := he
  obtain ⟨e1, e2⟩ := State.retired_plain (i := i) (h := h) (user := user) hp
  apply endActions_plain
  · rw [State.atPc, State.stream_setStream_self]
    exact e1.trans hs
  · rw [State.atPc, State.stream_setStream_self]
    exact e2.trans hl

/-- An instruction alone goes on after its own number (02 R64). -/
theorem Alone.seqPc (ha : Alone s) : s.issue.seqPc = s.after := by
  obtain ⟨-, h2, -, h4⟩ := ha
  rw [Issue.seqPc, h4, Issue.lastN, h2]
  rfl

/-- With no end action at hand an instruction goes on at the next number. -/
theorem retire_next_plain (hp : (s.stream? s.cur).isSome) (he : PlainEnd s) (ha : Alone s) :
    retire i h user .next s = (s.retired i h user).atPc s.cur s.after := by
  rw [retire_next_eq, ha.1, ha.2.2.1, endActions_retired hp he, ha.seqPc]
  rfl

/-- An instruction of a pair or none leaves its stream retired, at some number. -/
theorem retire_next_atPc (hp : (s.stream? s.cur).isSome) (he : PlainEnd s) : ∃ t, retire i h user .next s = t ∧
    (t = s.retired i h user ∨ ∃ n, t = (s.retired i h user).atPc s.cur n) := by
  rw [retire_next_eq, endActions_retired hp he]
  split
  · exact ⟨_, rfl, .inl rfl⟩
  · exact ⟨_, rfl, .inr ⟨_, rfl⟩⟩

/-- No end action makes no return. -/
theorem badReturn_plain (he : PlainEnd s) (ctl : Ctl) : badReturn ctl s = none := by
  simp [badReturn, he.2]

end

/-! The successor as a number (02 R64). -/

theorem succOf_eq (n : Word) {last : Nat} (hl : last ≤ 4) :
    succOf n last = if n.toNat % 5 < last then n + 1 else BitVec.ofNat 64 ((n.toNat / 5 + 1) * 5) := by
  have lt : n % 5 < BitVec.ofNat 64 last ↔ n.toNat % 5 < last := by
    rw [BitVec.lt_def]
    simp
    omega
  have top : (n / 5 + 1) * 5 = BitVec.ofNat 64 ((n.toNat / 5 + 1) * 5) := by
    apply BitVec.eq_of_toNat_eq
    simp
  rw [succOf, top]
  simp only [lt]

/-- Settles O22: the stream is the one before with its instruction retired, and no end action moves it on. -/
theorem retiringCountsAndGoesOn : Obligations.RetiringCountsAndGoesOn := by
  unfold Obligations.RetiringCountsAndGoesOn
  intro i h s user st hst he ha hl
  have hp := State.present_of_live hst
  obtain ⟨k, hk, hv, hu, hx⟩ := s.retired_stream i h user hp
  rw [State.stream_of_some hst] at hk hv
  rw [retire_next_plain hp he ha, State.atPc]
  dsimp only
  rw [State.stream_setStream_self, hu, hx]
  refine ⟨by rw [hk]; rfl, by rw [hk]; rfl, succOf_eq _ hl, fun hs => by rw [hv hs], by rw [hk]; rfl, ?_, ?_⟩
  · rw [State.setStream_issue, State.retired_issue]
  · exact (s.retired_sameMemory i h user).trans (sameMemory_setStream ..)

/-! Scalar instructions. -/

theorem flushReqs_nil {i : Instr} {t : State} (hr : t.reqs = []) : flushReqs i t = t := by
  unfold flushReqs
  rw [hr]
  split
  · contradiction
  · rfl

theorem clearMarks_issue (i : Instr) (t : State) : (clearMarks i t).issue = t.issue := by
  unfold clearMarks
  dsimp only
  split
  · split
    · rfl
    · exact State.setStream_issue ..
  · split <;> split <;> first | rfl | exact State.setStream_issue ..

theorem clearMarks_cur (i : Instr) (t : State) : (clearMarks i t).cur = t.cur := by
  unfold clearMarks
  dsimp only
  split
  · split
    · rfl
    · exact State.setStream_cur ..
  · split <;> split <;> first | rfl | exact State.setStream_cur ..

/-- Where no end action is at hand no loop return is forbidden. -/
theorem returnLegal_plain {i : Instr} {ctl : Ctl} {t : State} (hw : ∀ r, 128 ≤ r → r ∉ Instr.regsWritten i) (hr : t.reqs = [])
    (ht : (t.stream? t.cur).isSome) (he : PlainEnd t) : ReturnLegal i ctl t := by
  obtain ⟨only, stream⟩ := clearMarks_onlyStream (i := i) ht hw
  rw [ReturnLegal, flushReqs_nil hr]
  apply badReturn_plain
  rw [PlainEnd, only.cur, stream]
  exact he

/-- Of a scalar instruction that moves no queue entry and writes no v register, retiring and the marks that it clears change
its stream only. -/
theorem finish_scalar {i : Instr} {h : Hdr} {t : State} (hv : Instr.isVector i = false) (hn : ∀ s, queueNeeds s i = [])
    (hw : ∀ r, 128 ≤ r → r ∉ Instr.regsWritten i) (hr : t.reqs = []) (ht : (t.stream? t.cur).isSome) (user : Bool) :
    OnlyStream t.cur t ((clearMarks i (flushReqs i t)).retired i h user) ∧
    ((clearMarks i (flushReqs i t)).retired i h user).stream t.cur = { (t.stream t.cur).retired user h.y t.issue.n with
      xmarks := (t.stream t.cur).xmarks.filter fun r => !(Instr.regsWritten i).contains r } := by
  obtain ⟨only, stream⟩ := clearMarks_onlyStream (i := i) ht hw
  have there : ((clearMarks i t).stream? t.cur).isSome := only.live.trans ht
  rw [flushReqs_nil hr, State.retired_scalar i h user hv hn, only.cur, clearMarks_issue, stream]
  refine ⟨only.trans (.issue (.setStream there _) _), ?_⟩
  exact State.stream_setStream_self ..

end Sys2Proof.Machine
end

section
/-! SUPPORT. The frame of the scalar register instructions (05 R213). -/

set_option Elab.async false

namespace Sys2Proof.Machine

open Sys2Proof

/-! Registers written. -/

theorem regsWritten_of_uses {i : Instr} {l : List Use} {d : Fin 64} (hu : i.uses = l ++ [.wx (.x d)])
    (hl : l.filter Use.writes = []) {r : Nat} (hr : r ∈ Instr.regsWritten i) : r = d.val := by
  rw [Instr.regsWritten, hu, List.filter_append, hl] at hr
  simp [Use.writes, Use.reg] at hr
  exact hr.1.symm

/-! The frame. -/

section
variable {i : Instr} {h : Hdr} {s u : State}

/-- What a scalar instruction that changes its stream only leaves, its end actions and pc aside. -/
theorem finish_scalar_stream (hv : Instr.isVector i = false) (hn : ∀ s, queueNeeds s i = [])
    (hw : ∀ r, 128 ≤ r → r ∉ Instr.regsWritten i) (hp : (s.stream? s.cur).isSome) (hu : OnlyStream s.cur s u)
    (hr : u.reqs = []) (he : PlainEnd u) :
    OnlyStream s.cur s (finish i h s .next u) ∧ ∃ pc, (finish i h s .next u).stream s.cur =
      { (u.stream s.cur).retired (!(s.stream s.cur).priv) h.y u.issue.n with
        pc, xmarks := (u.stream s.cur).xmarks.filter fun r => !(Instr.regsWritten i).contains r } := by
  have there : (u.stream? u.cur).isSome := by rw [hu.cur, hu.live, hp]
  obtain ⟨only, stream⟩ := finish_scalar (h := h) hv hn hw hr there (!(s.stream s.cur).priv)
  obtain ⟨hs, hl⟩ := he
  rw [hu.cur] at only stream hs hl there
  have flushed : (clearMarks i (flushReqs i u)).cur = s.cur := by rw [clearMarks_cur, flushReqs_nil hr, hu.cur]
  have end_ : finish i h s .next u = (clearMarks i (flushReqs i u)).retired i h (!(s.stream s.cur).priv) ∨
      ∃ n, finish i h s .next u = ((clearMarks i (flushReqs i u)).retired i h (!(s.stream s.cur).priv)).atPc s.cur n := by
    rw [finish, retire_next_eq, flushed]
    split
    · exact .inl rfl
    · refine .inr ⟨_, endActions_plain ?_ ?_⟩ <;> rw [State.atPc, State.stream_setStream_self, stream]
      · exact hs
      · exact hl
  have there' : (((clearMarks i (flushReqs i u)).retired i h (!(s.stream s.cur).priv)).stream? s.cur).isSome :=
    only.live.trans there
  rcases end_ with e | ⟨n, e⟩ <;> rw [e]
  · exact ⟨hu.trans only, _, stream⟩
  · refine ⟨(hu.trans only).trans (.setStream there' _), n, ?_⟩
    rw [State.atPc, State.stream_setStream_self, stream]

end

theorem Stream.setX_eq (st : Stream) (n : Fin 64) (v : Word) : st.setX n v = { st with x := (st.setX n v).x } := by
  unfold Stream.setX
  split <;> rfl

theorem Stream.getX_setX_ne (st : Stream) {n m : Fin 64} (v : Word) (hm : m ≠ n) : (st.setX n v).getX m = st.getX m := by
  have hn : n.val ≠ m.val := fun e => hm (Fin.ext e.symm)
  unfold Stream.getX Stream.setX
  by_cases h0 : n = 0
  · rw [if_pos h0]
  · rw [if_neg h0]
    simp [hn]

/-- Settles O10: such an instruction changes its own stream only, there the destination, its mark and what retiring changes. -/
theorem scalarRegisterFrame : Obligations.ScalarRegisterFrame := by
  unfold Obligations.ScalarRegisterFrame
  intro op hop s t h w d a b imm i hi his he hr ht
  obtain ⟨f, line⟩ := aluTable_lines op hop
  obtain ⟨does2, doesImm⟩ := scalarArithmeticIsExact op hop s h w (.x d) (.x a) (.x b) imm
  obtain ⟨hv, hn, hw, v, hd⟩ : Instr.isVector i = false ∧ (∀ s, queueNeeds s i = []) ∧
      (∀ r, r ∈ Instr.regsWritten i → r = d.val) ∧ ∃ v, Does i h s .next (s.xput (.x d) v) := by
    rcases hi with e | e <;> rw [e]
    · exact ⟨line.scalar2 .., fun s => by rw [line.needs2, line.uses2]; rfl,
        fun r => regsWritten_of_uses (l := [.rx (.x a), .rx (.x b)]) (line.uses2 ..) rfl, _, does2⟩
    · exact ⟨line.scalarImm .., fun s => by rw [line.needsImm, line.usesImm]; rfl,
        fun r => regsWritten_of_uses (l := [.rx (.x a)]) (line.usesImm ..) rfl, _, doesImm⟩
  obtain ⟨st, hst, -, -⟩ := his.live
  have hp := State.present_of_live hst
  have put : OnlyStream s.cur s (s.xput (.x d) v) := .setStream hp _
  have self : (s.xput (.x d) v).stream s.cur = (s.stream s.cur).setX d v := State.stream_setStream_self ..
  have reqs : (s.xput (.x d) v).reqs = [] := by
    rw [← hr]
    exact State.setStream_reqs ..
  have plain : PlainEnd (s.xput (.x d) v) := by
    rw [PlainEnd, put.cur, self, Stream.setX_stripAct, Stream.setX_le]
    exact he
  have noV : ∀ r, 128 ≤ r → r ∉ Instr.regsWritten i := fun r h128 hm => by
    have := hw r hm
    omega
  rw [hd his (returnLegal_plain noV reqs (by rw [put.cur, put.live, hp]) plain), Host.Outcome.next.injEq] at ht
  obtain ⟨only, pc, stream⟩ := finish_scalar_stream (h := h) hv hn noV hp put reqs plain
  rw [ht, self] at stream
  rw [ht] at only
  refine ⟨only.rest, only.others, only.harts, fun n hne => ?_, ?_, fun n hne => ?_⟩
  · rw [stream]
    exact Stream.getX_setX_ne _ _ hne
  · rw [stream, Stream.setX_eq, Stream.retired]
    have count : (s.stream s.cur).icount + (if (s.stream s.cur).priv then 0 else 1)
        = if !(s.stream s.cur).priv then (s.stream s.cur).icount + 1 else (s.stream s.cur).icount := by
      cases (s.stream s.cur).priv <;> simp
    rw [count]
  · rw [stream]
    have : n ∉ Instr.regsWritten i := fun hm => hne (hw n hm)
    simp [this]

end Sys2Proof.Machine
end

section
/-! SUPPORT. Taking an exception and returning from one (05 R229..R235). -/

set_option Elab.async false

namespace Sys2Proof.Machine

open Sys2Proof

/-! Taking an exception below DEPTH 3. -/

section
variable {s : State} {p : Party} {cause : Nat} {tval tpc telem tlane : Word}

theorem enterTrap_below (hd : (s.stream p).depth ≠ 3) : s.enterTrap p cause tval tpc telem tlane =
    (s.holdPartner p).setStream p ((s.stream p).enter cause tval tpc telem tlane) := by
  rw [State.enterTrap, if_neg hd]

/-- Holding the partner changes its hart alone. -/
theorem holdPartner_sameMemory (s : State) (p : Party) : SameMemory s (s.holdPartner p) ∧ (s.holdPartner p).la = s.la ∧
    (s.holdPartner p).dc = s.dc := by
  unfold State.holdPartner
  split
  · exact ⟨⟨rfl, rfl, rfl, rfl, rfl⟩, rfl, rfl⟩
  · dsimp only
    split <;> exact ⟨⟨rfl, rfl, rfl, rfl, rfl⟩, rfl, rfl⟩

/-- The partner is held. -/
theorem holdPartner_held (s : State) (slot : Nat) (isX : Bool) :
    ((s.holdPartner (.stream slot isX)).hart slot).held = some (!isX) := by
  unfold State.holdPartner
  dsimp only
  split
  · rw [State.hart_setHart]
  · rw [State.hart_setHart]
    cases isX <;> rfl

/-- What the held partner has issued is abandoned where it has performed no access; no other stream is touched (05 R231). -/
theorem holdPartner_others {slot slot' : Nat} {isX isX' : Bool} (hp : (s.stream? (.stream slot isX)).isSome)
    (hq : Party.stream slot isX ≠ .stream slot' isX') :
    { (s.holdPartner (.stream slot isX)).stream (.stream slot' isX') with captured := none } =
      { s.stream (.stream slot' isX') with captured := none } ∧
    ((s.stream (.stream slot' isX')).midAccess = true →
      (s.holdPartner (.stream slot isX)).stream (.stream slot' isX') = s.stream (.stream slot' isX')) := by
  by_cases e : slot' = slot
  · subst e
    have other : isX' = !isX := Bool.eq_not_of_ne fun e => hq (e ▸ rfl)
    have there : (s.stream? (.stream slot' isX')).isSome := by
      simpa only [State.stream?, Option.isSome_map] using hp
    rw [State.stream_eq_hart there, State.holdPartner, other]
    dsimp only
    split
    · rw [State.stream_setHart_self]
      cases isX <;> exact ⟨rfl, fun _ => rfl⟩
    · rename_i h
      rw [State.stream_setHart_self, Hart.stream_setStream_self]
      exact ⟨rfl, fun h' => absurd h' h⟩
  · unfold State.holdPartner
    dsimp only
    split <;> rw [State.stream_setHart_ne _ _ _ e] <;> exact ⟨rfl, fun _ => rfl⟩

theorem holdPartner_present (hp : (s.stream? p).isSome) : ((s.holdPartner p).stream? p).isSome := by
  cases p with
  | datum => rfl
  | stream slot isX =>
    unfold State.holdPartner
    dsimp only
    split <;> simp [State.stream?, State.hart?, Assoc.get?_put_self]

/-- Writing one stream leaves the others. -/
theorem State.stream_setStream_ne (s : State) {p q : Party} (st : Stream) (hs : (s.stream? p).isSome) (hq : q ≠ p) :
    (s.setStream p st).stream q = s.stream q := (OnlyStream.setStream hs st).others q hq

theorem State.held_setStream (s : State) (slot : Nat) (isX : Bool) (st : Stream) :
    ((s.setStream (.stream slot isX) st).hart slot).held = (s.hart slot).held := by
  rw [State.setStream, State.hart_setHart]
  cases isX <;> rfl

theorem enterTrap_below_stream (hd : (s.stream p).depth ≠ 3) :
    (s.enterTrap p cause tval tpc telem tlane).stream p = (s.stream p).enter cause tval tpc telem tlane := by
  rw [enterTrap_below hd, State.stream_setStream_self]

theorem enterTrap_below_sameMemory (hd : (s.stream p).depth ≠ 3) : SameMemory s (s.enterTrap p cause tval tpc telem tlane) := by
  rw [enterTrap_below hd]
  exact (holdPartner_sameMemory s p).1.trans (sameMemory_setStream ..)

end

/-! The launch of a trap at DEPTH 3. -/

theorem launch?_serial {s : State} {serial : Word} {l : Launch} (h : s.launch? serial = some l) : l.serial = serial := by
  have := List.find?_some h
  simp only [Bool.and_eq_true, beq_iff_eq] at this
  exact this.1

theorem Assoc.get?_map {α β : Type} (f : α → β) (l : Assoc α) (n : Nat) :
    Assoc.get? (l.map fun nh => (nh.1, f nh.2)) n = (l.get? n).map f := by
  induction l with
  | nil => rfl
  | cons kv r ih =>
    simp only [List.map_cons, Assoc.get?]
    split
    · rfl
    · exact ih

/-- A hart of a launch that is cancelled. -/
def Hart.discarded (h : Hart) : Hart :=
  { h with sa := { h.sa with live := false, waiting := none }, sx := { h.sx with live := false, waiting := none }
           sideLog := [], held := none }

theorem cancel_harts (s : State) (serial : Word) :
    (s.cancel serial).harts = s.harts.map fun nh => (nh.1, if nh.2.serial == serial then nh.2.discarded else nh.2) := by
  have upd : ∀ (s : State) f, (s.updLaunch serial f).harts = s.harts := by
    intro s f
    unfold State.updLaunch
    split <;> rfl
  unfold State.cancel
  refine (upd _ _).trans (List.map_congr_left fun nh _ => ?_)
  dsimp only
  split <;> rfl

/-- No hart of a cancelled launch has a live stream. -/
theorem cancel_dead {s : State} {serial : Word} {n : Nat} {k : Hart} (hk : (s.cancel serial).hart? n = some k)
    (hs : k.serial = serial) : k.sa.live = false ∧ k.sx.live = false := by
  rw [State.hart?, cancel_harts] at hk
  obtain ⟨h, -, rfl⟩ := Option.map_eq_some_iff.1 ((Assoc.get?_map (fun h : Hart =>
    if h.serial == serial then h.discarded else h) s.harts n).symm.trans hk)
  split
  · exact ⟨rfl, rfl⟩
  · rename_i hne
    rw [if_neg hne] at hs
    exact absurd (beq_iff_eq.2 hs) hne

/-- Settles O17: the trap record is `Stream.enter`, the partner is held, and at DEPTH 3 the trap stops. -/
theorem trapEntrySavesAndEnters : Obligations.TrapEntrySavesAndEnters := by
  unfold Obligations.TrapEntrySavesAndEnters
  refine ⟨?_, ?_, ?_⟩
  · intro s p cause tval tpc telem tlane st hst hd
    have self := State.stream_of_some hst
    rw [← self] at hd ⊢
    dsimp only
    rw [enterTrap_below_stream hd]
    refine ⟨⟨rfl, rfl, rfl, rfl, rfl, rfl⟩, ⟨rfl, rfl, rfl, rfl⟩, ⟨rfl, rfl, rfl, rfl, rfl, rfl⟩, ?_,
      enterTrap_below_sameMemory hd, ?_⟩
    · rintro slot isX rfl
      rw [enterTrap_below hd, State.held_setStream, holdPartner_held]
    · obtain ⟨-, hla, hdc⟩ := holdPartner_sameMemory s p
      have hp := State.present_of_live hst
      rw [enterTrap_below hd, State.setStream_la]
      refine ⟨hla, fun hne => ?_, fun slot' isX' hq => ?_⟩
      · cases p with
        | datum => exact absurd rfl hne
        | stream slot isX => exact hdc
      · rw [State.stream_setStream_ne _ _ (holdPartner_present hp) hq.symm]
        cases p with
        | datum => exact ⟨rfl, fun _ => rfl⟩
        | stream slot isX => exact holdPartner_others hp hq
  · intro s slot isX cause tval tpc telem tlane l hd hl
    have serial := launch?_serial hl
    refine ⟨?_, fun n k hk hs => cancel_dead hk hs⟩
    rw [State.enterTrap, if_pos hd]
    simp only [State.trapStop, hl, serial]
  · intro s cause tval tpc telem tlane hd
    rw [State.enterTrap, if_pos (show (s.stream .datum).depth = 3 from hd)]
    rfl

end Sys2Proof.Machine
end

section
/-! SUPPORT. TRAP, ERET and the checks at issue (02 R79, R87; 05 R230, R231, R235). -/

set_option Elab.async false

namespace Sys2Proof.Machine

open Sys2Proof

/-! Bodies that trap. -/

theorem flushReqs_cur (i : Instr) (s : State) : (flushReqs i s).cur = s.cur := by
  unfold flushReqs
  split <;> rfl

/-- An instruction that issues and whose body traps takes the trap, its queues as they were (02 R80; 05 R230). -/
theorem runHart_trap {i : Instr} {h : Hdr} {body : M Ctl} {s t : State} {cause : Nat} {tval : Word} (hi : Issues i h s)
    (hb : body s = .error (.trap cause tval) t) : runHart i h body s =
      .next (trapAt (restoreQueues s (flushReqs i t) t.cur) (Instr.isVector i) cause tval) := by
  rw [runHart_issues hi, hb, ← flushReqs_cur i t]
  rfl

theorem runSeq_trap {i : Instr} {h : Hdr} {body : M Unit} {s t : State} {cause : Nat} {tval : Word} (hi : Issues i h s)
    (hb : body s = .error (.trap cause tval) t) : runSeq i h body s =
      .next (trapAt (restoreQueues s (flushReqs i t) t.cur) (Instr.isVector i) cause tval) := by
  apply runHart_trap hi
  simp [seqBody, bind, EStateM.bind, hb]

/-- Settles O19: TRAP retires, and the handler is entered at the number where control would have gone on. -/
theorem trapEntersTheHandler : Obligations.TrapEntersTheHandler := by
  unfold Obligations.TrapEntersTheHandler
  intro s h code hr he ha hd hi
  obtain ⟨st, hst, -, -⟩ := hi.live
  have hp := State.present_of_live hst
  have noV : ∀ r, 128 ≤ r → r ∉ Instr.regsWritten (.trap h code) := fun r _ hm => nomatch hm
  have does : Does (.trap h code) h s (.swtrap (code.setWidth 64)) s := .of_runHart rfl fun _ => rfl
  refine ⟨_, does hi (returnLegal_plain noV hr hp he), ?_⟩
  obtain ⟨only, stream⟩ := finish_scalar (i := .trap h code) (h := h) rfl (fun _ => rfl) noV hr hp (!(s.stream s.cur).priv)
  rw [flushReqs_nil hr] at only stream
  have plain : ∀ n, endActions (((clearMarks (.trap h code) s).retired (.trap h code) h
      (!(s.stream s.cur).priv)).atPc s.cur n) s.cur = _ := fun n => endActions_plain
    (by rw [State.atPc, State.stream_setStream_self, stream]; exact he.1)
    (by rw [State.atPc, State.stream_setStream_self, stream]; exact he.2)
  rw [finish, retire_swtrap_eq, flushReqs_nil hr, clearMarks_cur, clearMarks_issue, ha.seqPc, plain]
  generalize (clearMarks (.trap h code) s).retired (.trap h code) h (!(s.stream s.cur).priv) = v at *
  have self : (v.atPc s.cur s.after).stream s.cur = { v.stream s.cur with pc := s.after } := State.stream_setStream_self ..
  have below : ((v.atPc s.cur s.after).stream s.cur).depth ≠ 3 := by
    rw [self, stream]
    exact hd
  dsimp only
  rw [enterTrap_below_stream below, self, stream]
  refine ⟨rfl, rfl, rfl, rfl, rfl, rfl, rfl, rfl, rfl, ?_, rfl, ?_⟩
  · rw [Stream.enter, Stream.retired]
    cases (s.stream s.cur).priv <;> simp
  · exact only.sameMemory.trans ((sameMemory_setStream ..).trans (enterTrap_below_sameMemory below))

/-! Return from an exception. -/

theorem leaveTrap_stream (s : State) (p : Party) (hp : (s.stream? p).isSome) :
    (s.leaveTrap p).stream p = (s.stream p).leave := by
  unfold State.leaveTrap
  cases p with
  | datum => rfl
  | stream slot isX =>
    dsimp only
    split
    · rw [State.stream_setHart_self]
      rw [State.setStream, State.hart_setHart]
      cases isX <;> rfl
    · exact State.stream_setStream_self ..

theorem leaveTrap_sameMemory (s : State) (p : Party) : SameMemory s (s.leaveTrap p) := by
  unfold State.leaveTrap
  cases p with
  | datum => exact ⟨rfl, rfl, rfl, rfl, rfl⟩
  | stream slot isX =>
    dsimp only
    split <;> exact ⟨rfl, rfl, rfl, rfl, rfl⟩

theorem leaveTrap_held (s : State) (slot : Nat) (isX : Bool) : ((s.leaveTrap (.stream slot isX)).hart slot).held =
    if (s.stream (.stream slot isX)).depth - 1 = 0 then none else (s.hart slot).held := by
  have depth : (s.stream (.stream slot isX)).leave.depth = (s.stream (.stream slot isX)).depth - 1 := rfl
  unfold State.leaveTrap
  dsimp only
  rw [depth]
  split
  · rw [State.hart_setHart]
  · exact State.held_setStream ..

/-- Settles O18: ERET's body either traps or leaves the machine as it is, and retiring it is the return. -/
theorem eretRestores : Obligations.EretRestores := by
  unfold Obligations.EretRestores
  have exec_eq : ∀ s h, Sys2Proof.Machine.exec (.eret h) s = runHart (.eret h) h (do
      let st ← curStream
      if st.depth = 0 then trapIll
      else if Config.instrEnd ≤ st.tpc.toNat then trap causeProt st.tpc
      else pure .eret) s := fun _ _ => rfl
  refine ⟨fun s h slot isX hc hd ht hr hi => ?_, fun s h hr hi => ⟨fun hd => ?_, fun hd ht => ?_⟩⟩
  · obtain ⟨st, hst, -, -⟩ := hi.live
    have hp := State.present_of_live hst
    have noV : ∀ r, 128 ≤ r → r ∉ Instr.regsWritten (.eret h) := fun r _ hm => nomatch hm
    have does : Does (.eret h) h s .eret s := .of_runHart (exec_eq s h) fun _ => by
      rw [bind_ok (show curStream s = .ok (s.stream s.cur) s from rfl), if_neg hd, if_neg (by omega)]
      rfl
    refine ⟨_, does hi rfl, ?_⟩
    obtain ⟨only, stream⟩ := finish_scalar (i := .eret h) (h := h) rfl (fun _ => rfl) noV hr hp (!(s.stream s.cur).priv)
    have there := only.live.trans hp
    have held := only.harts slot
    rw [finish, retire_eret_eq, clearMarks_cur, flushReqs_cur]
    generalize (clearMarks (.eret h) (flushReqs (.eret h) s)).retired (.eret h) h (!(s.stream s.cur).priv) = v at *
    dsimp only
    rw [leaveTrap_stream v _ there, stream]
    refine ⟨rfl, rfl, rfl, rfl, rfl, rfl, rfl, only.sameMemory.trans (leaveTrap_sameMemory ..), ?_⟩
    rw [hc, leaveTrap_held, ← hc, stream, held]
    rfl
  · rw [exec_eq, runHart_trap hi (cause := causeIll) (tval := (s.issue.raw >>> 32).setWidth 64) (t := s), flushReqs_nil hr]
    · rfl
    · rw [bind_ok (show curStream s = .ok (s.stream s.cur) s from rfl), if_pos hd]
      rfl
  · rw [exec_eq, runHart_trap hi (cause := causeProt) (tval := (s.stream s.cur).tpc) (t := s), flushReqs_nil hr]
    · rfl
    · rw [bind_ok (show curStream s = .ok (s.stream s.cur) s from rfl), if_neg hd, if_pos ht]
      rfl

end Sys2Proof.Machine
end

section
/-! SUPPORT. The checks at issue, and the status registers (02 R79, R87, R93; 05 R190, R236). -/

set_option Elab.async false

namespace Sys2Proof.Machine

open Sys2Proof

/-! The checks at issue (02 R87). -/

section
variable {i : Instr} {h : Hdr} {s : State} {maj cause : Nat} {tval : Word}

/-- An instruction of system mode traps PRIV in user mode (02 R87 step 4). -/
theorem issueTrap_priv (hi : Instr.hdr? i = some (maj, h)) (hs : systemOnly i = true) (hn : namesHartSreg s i = false)
    (hp : (s.stream s.cur).priv = false) (hb : stepTwoBad s i = false) (hg : guardTrue (s.stream s.cur) h = true) :
    issueTrap s i = some (causePriv, 0) := by
  simp [issueTrap, hi, hs, hn, hp, hb, hg]

/-- A trap of the checks after step 2 needs a true guard. -/
theorem guardTrue_of_issueTrap (hi : Instr.hdr? i = some (maj, h)) (ht : issueTrap s i = some (cause, tval))
    (hb : stepTwoBad s i = false) : guardTrue (s.stream s.cur) h = true := by
  cases hg : guardTrue (s.stream s.cur) h with
  | true => rfl
  | false => simp [issueTrap_of_guardFalse hi hb hg] at ht

theorem vreg_lt {u : Use} {n : Nat} (hu : u.vreg? = some n) : n < 2 ^ 64 := by
  unfold Use.vreg? at hu
  split at hu <;> simp at hu <;> omega

/-- A REGALLOT trap names a v register of the instruction beyond the allotment (02 R87 step 5). -/
theorem regallot_of_issueTrap (ht : issueTrap s i = some (causeRegallot, tval)) :
    (s.hart s.cur.slot).allot.toNat ≤ tval.toNat ∧ ∃ u ∈ i.uses, u.vreg? = some tval.toNat := by
  unfold issueTrap at ht
  split at ht
  · exact nomatch ht
  · dsimp only at ht
    split at ht
    · simp [causeIll, causeRegallot] at ht
    split at ht
    · exact nomatch ht
    split at ht
    · simp [causePriv, causeRegallot] at ht
    split at ht
    · rename_i n hn
      obtain ⟨u, hu, hf⟩ := List.exists_of_findSome?_eq_some hn
      obtain ⟨hv, hle⟩ := Option.filter_eq_some_iff.1 hf
      have value : tval.toNat = n := by
        simp only [Option.some.injEq, Prod.mk.injEq, true_and] at ht
        rw [← ht, BitVec.toNat_ofNat]
        exact Nat.mod_eq_of_lt (vreg_lt hv)
      rw [value]
      exact ⟨by simpa using hle, u, hu, hv⟩
    · split at ht
      · simp [causeQdir, causeRegallot] at ht
      · simp [causeQdir, causeRegallot] at ht

end

/-- Settles O20: a trap of the checks is all that the instruction does, and the checks stand in the order of R87. -/
theorem issueChecksComeFirst : Obligations.IssueChecksComeFirst := by
  unfold Obligations.IssueChecksComeFirst
  refine ⟨fun i h s st maj cause tval hi hst hl hc ht => ⟨exec_issueTrap hi hst hl hc ht, fun hb => ?_, fun hb => ?_, ?_⟩,
    fun i h s st maj hi hs hn hst hl hc hp hb hg => ?_⟩
  · rw [issueTrap_of_stepTwoBad hi hb] at ht
    simp only [Option.some.injEq, Prod.mk.injEq] at ht
    exact ⟨ht.1.symm, ht.2.symm⟩
  · rw [← State.stream_of_some hst]
    exact guardTrue_of_issueTrap hi ht hb
  · rintro rfl
    exact regallot_of_issueTrap ht
  · rw [← State.stream_of_some hst] at hp hg
    exact exec_issueTrap hi hst hl hc (issueTrap_priv hi hs hn hp hb hg)

/-! Which numbers name a status register (02 R93). -/

theorem readSreg_isSome (st st' : Stream) (n : Nat) : (st.readSreg n).isSome = (st'.readSreg n).isSome := by
  unfold Stream.readSreg
  split <;> rfl

/-- Whether a number names a register of a party is the same in every state. -/
theorem sreg_isSome (s t : State) (p : Party) (n : Nat) : (s.sreg p n).isSome = (t.sreg p n).isSome := by
  cases p with
  | datum =>
    simp only [State.sreg, State.datumSreg]
    split
    · exact readSreg_isSome ..
    split
    · rw [Option.isSome_some, Option.isSome_some]
    split <;> simp only [Option.isSome_some, Option.isSome_none]
  | stream slot isX =>
    simp only [State.sreg, State.hartSreg]
    split
    · exact readSreg_isSome ..
    split
    · rw [Option.isSome_some, Option.isSome_some]
    split
    · rw [Option.isSome_some, Option.isSome_some]
    split
    · rw [Option.isSome_some, Option.isSome_some]
    split <;> simp only [Option.isSome_some, Option.isSome_none]

theorem sregHidden_iff (n : Nat) :
    sregHidden n = true ↔ (0x010 ≤ n ∧ n ≤ 0x016) ∨ (0x018 ≤ n ∧ n ≤ 0x01B) ∨ n = 0x508 ∨ n = 0x509 := by
  simp only [sregHidden, Bool.or_eq_true, decide_eq_true_eq, beq_iff_eq]
  omega

theorem sregGuarded_iff (n : Nat) : sregGuarded n = true ↔ sregHidden n = true ∨ n = 0x001 ∨ n = 0x105 ∨
    (0x210 ≤ n ∧ n ≤ 0x217) ∨ n = 0x300 ∨ (0x480 ≤ n ∧ n ≤ 0x48F) := by
  simp only [sregGuarded, Bool.or_eq_true, decide_eq_true_eq, beq_iff_eq, sregHidden_iff]
  omega

/-- Settles O14: SRR and SRW do what `State.sreg` and `State.sregWrite` say, or trap before any effect. -/
theorem statusRegistersReadAndWritten : Obligations.StatusRegistersReadAndWritten := by
  unfold Obligations.StatusRegistersReadAndWritten
  refine ⟨fun s h d a sr v hv => ⟨?_, ?_⟩, fun s h n d sr hr hv => ⟨fun hi => ?_, fun hi => ?_⟩,
    fun s slot isX st h d a sr hc hst hl hn hp hg => ⟨fun hh hb => ?_, fun hh hb => ?_⟩, fun n => ⟨sregHidden_iff n, sregGuarded_iff n⟩⟩
  · refine .of_runSeq rfl fun hi => ?_
    rw [bind_ok (show (get : M State) s = .ok s s from rfl), hv]
    exact writeX_ok ..
  · refine .of_runSeq rfl fun hi => ?_
    have named : ((s.xpop a).sreg (s.xpop a).cur sr.toNat).isNone = false := by
      rw [State.xpop_cur, ← Option.not_isSome, sreg_isSome _ s, hv]
      rfl
    rw [bind_readX _ (hi.has1 rfl rfl), bind_ok (show (get : M State) (s.xpop a) = .ok _ _ from rfl), if_neg (by rw [named]; exact Bool.false_ne_true), State.xpop_cur]
    rfl
  · refine (runSeq_trap hi (t := s) ?_).trans (by rw [flushReqs_nil hr]; rfl)
    rw [bind_ok (show (get : M State) s = .ok s s from rfl), hv]
    rfl
  · refine (runSeq_trap hi (t := s) ?_).trans (by rw [flushReqs_nil hr]; rfl)
    rw [bind_readX _ (show s.hasX (.x n) from trivial), bind_ok (show (get : M State) (s.xpop (.x n)) = .ok s s from rfl), hv]
    rfl
  · rw [← State.stream_of_some hst] at hp hg
    exact exec_issueTrap rfl hst hl hn (issueTrap_priv rfl hh (by simp [namesHartSreg, hc, Party.isDatum]) hp hb hg)
  · rw [← State.stream_of_some hst] at hp hg
    exact exec_issueTrap rfl hst hl hn (issueTrap_priv rfl hh (by simp [namesHartSreg, hc, Party.isDatum]) hp hb hg)

/-- Settles O15: each register has its own field. -/
theorem sequencerRegistersHold : Obligations.SequencerRegistersHold := by
  unfold Obligations.SequencerRegistersHold
  intro st n w
  refine ⟨fun hn => ?_, fun hw => ?_, fun hw => ?_, rfl, rfl⟩
  · simp only [List.mem_cons, List.not_mem_nil, or_false] at hn
    rcases hn with rfl | rfl | rfl | rfl | rfl | rfl | rfl | rfl | rfl | rfl | rfl | rfl | rfl | rfl | rfl | rfl <;>
      refine ⟨rfl, fun m hm => ?_⟩ <;> unfold Stream.readSreg <;> split <;> first | rfl | exact absurd rfl hm
  · rw [Stream.writeSreg, if_neg (by omega)]
    rfl
  · rw [Stream.writeSreg, if_pos hw]

end Sys2Proof.Machine
end

section
/-! SUPPORT. End actions of loops and strips (05 R200; 08 R357). -/

set_option Elab.async false

namespace Sys2Proof.Machine

open Sys2Proof

/-! Loop ends (05 R200). -/

section
variable {st : Stream} {ns : List Word}

theorem one_lt_iff (w : Word) : 1#64 < w ↔ 1 < w.toNat := by
  rw [BitVec.lt_def]
  rfl

/-- Loop 0 ends here with a pass left, and its start is an instruction number: it returns. -/
theorem loopEnd_return0 (h0 : st.le0 ∈ ns) (hc : 1 < st.lc0.toNat) (hs : st.ls0.toNat < Config.instrEnd) :
    loopEnd st ns = ({ st with lc0 := st.lc0 - 1, pc := st.ls0 }, none) := by
  simp [loopEnd, h0, one_lt_iff, hc, Nat.not_le.2 hs]

/-- Loop 0 would return to a start that is no instruction number. -/
theorem loopEnd_bad0 (h0 : st.le0 ∈ ns) (hc : 1 < st.lc0.toNat) (hs : Config.instrEnd ≤ st.ls0.toNat) :
    loopEnd st ns = (st, some (st.le0, st.ls0)) := by
  simp [loopEnd, h0, one_lt_iff, hc, hs]

/-- Loop 0 ends here with no pass left, and loop 1 does not end here. -/
theorem loopEnd_last0 (h0 : st.le0 ∈ ns) (hc : st.lc0.toNat ≤ 1) (h1 : st.le1 ∉ ns) :
    loopEnd st ns = ({ st with lc0 := 0 }, none) := by
  simp [loopEnd, h0, one_lt_iff, Nat.not_lt.2 hc, h1]

/-- Loop 0 makes no return, and loop 1 ends here with a pass left. -/
theorem loopEnd_return1 (h0 : st.le0 ∈ ns → st.lc0.toNat ≤ 1) (h1 : st.le1 ∈ ns) (hc : 1 < st.lc1.toNat)
    (hs : st.ls1.toNat < Config.instrEnd) :
    loopEnd st ns = ({ st with lc0 := if st.le0 ∈ ns then 0 else st.lc0, lc1 := st.lc1 - 1, pc := st.ls1 }, none) := by
  by_cases h : st.le0 ∈ ns
  · simp [loopEnd, h, one_lt_iff, Nat.not_lt.2 (h0 h), h1, hc, Nat.not_le.2 hs]
  · simp [loopEnd, h, one_lt_iff, h1, hc, Nat.not_le.2 hs]

variable {s : State}

/-- With loop ends armed and no STRIP, the end action of an instruction is that of the loops. -/
theorem endActions_loops (hst : s.stream? s.cur = some st) (ha : st.stripAct = false) (hl : st.le = true) :
    (endActions s s.cur).stream s.cur = { (loopEnd st s.issue.ends).1 with
      line := if (loopEnd st s.issue.ends).1.pc = st.pc then st.line else none } := by
  have self := State.stream_of_some hst
  simp only [endActions, self, ha, hl, Bool.false_and, Bool.false_eq_true, if_false, Bool.not_true, State.stream_setStream_self]

/-- Outside a STRIP, a pair's first member and a transfer, what forbids a return is the start of the loop. -/
theorem badReturn_loops (hst : s.stream? s.cur = some st) (ha : st.stripAct = false) (hl : st.le = true) :
    badReturn .next s = if s.issue.first || s.issue.jumped then none else (loopEnd st s.issue.ends).2 := by
  have self := State.stream_of_some hst
  simp [badReturn, self, ha, hl]

theorem ends_single (h : s.issue.second = false) : s.issue.ends = [s.issue.n] := by
  simp [Issue.ends, h]

end

/-! The end of a STRIP body (08 R357). -/

theorem Stream.getX_setX_self (st : Stream) {n : Fin 64} (v : Word) (hn : n ≠ 0) : (st.setX n v).getX n = v := by
  unfold Stream.getX Stream.setX
  rw [if_neg hn, if_neg hn]
  simp

/-- A pointer register of a STRIP advances; x0 names none. -/
theorem getX_advanced (st : Stream) {n : Nat} (hn : n < 64) (step : Word) (m : Fin 64) :
    (if n = 0 then st else st.setX ⟨n % 64, Nat.mod_lt n (by decide)⟩
      (st.getX ⟨n % 64, Nat.mod_lt n (by decide)⟩ + step)).getX m =
    if m.val ≠ 0 ∧ m.val = n then st.getX m + step else st.getX m := by
  have reg : (⟨n % 64, Nat.mod_lt n (by decide)⟩ : Fin 64).val = n := Nat.mod_eq_of_lt hn
  generalize (⟨n % 64, Nat.mod_lt n (by decide)⟩ : Fin 64) = r at reg
  by_cases h0 : n = 0
  · rw [if_pos h0, if_neg (by omega)]
  · rw [if_neg h0]
    by_cases hm : m = r
    · subst hm
      rw [Stream.getX_setX_self _ _ (fun e => h0 (by rw [← reg, e]; rfl)), if_pos ⟨by omega, reg⟩]
    · rw [Stream.getX_setX_ne _ _ hm, if_neg fun h => hm (Fin.ext (by omega))]

/-- A pointer register of a STRIP advanced: x0 names none. -/
def Stream.advanced (st : Stream) (vl n sc : Nat) : Stream :=
  if n = 0 then st
  else st.setX ⟨n % 64, Nat.mod_lt n (by decide)⟩
    (st.getX ⟨n % 64, Nat.mod_lt n (by decide)⟩ + BitVec.ofNat 64 (vl * 2 ^ sc))

/-- The stream at the end of a STRIP body: the count down by vl, the three pointers advanced. -/
def Stream.stripped (st : Stream) (vl d a b c sa sb sc : Nat) : Stream :=
  let reg : Fin 64 := ⟨d % 64, Nat.mod_lt d (by decide)⟩
  (((st.setX reg (st.getX reg - BitVec.ofNat 64 vl)).advanced vl a sa).advanced vl b sb).advanced vl c sc

theorem stripEndAct_eq {s : State} {p : Party} {st : Stream} {d a b c sa sb sc cap ret : Nat} (hst : s.stream p = st)
    (hargs : st.stripArgs = [d, a, b, c, sa, sb, sc, cap, ret]) : stripEndAct s p =
      let st' := st.stripped (s.hart p.slot).vl.toNat d a b c sa sb sc
      let left := (st'.getX ⟨d % 64, Nat.mod_lt d (by decide)⟩).toNat
      if 0 < left then
        let s := s.setStream p { st' with pc := BitVec.ofNat 64 ret }
        (s.setHart p.slot { s.hart p.slot with vl := BitVec.ofNat 14 (min left cap) }, true)
      else (s.setStream p { st' with stripAct := false, stripBody := [] }, false) := by
  subst hst
  unfold stripEndAct
  dsimp only
  rw [hargs]
  rfl

/-- The registers at the end of a STRIP body, its four registers being different. -/
theorem getX_stripped (st : Stream) {vl d a b c : Nat} (sa sb sc : Nat) (hd0 : 0 < d) (hd : d < 64) (ha : a < 64) (hb : b < 64)
    (hc : c < 64) (had : a ≠ d) (hbd : b ≠ d) (hcd : c ≠ d) (hab : a = 0 ∨ a ≠ b) (hac : a = 0 ∨ a ≠ c)
    (hbc : b = 0 ∨ b ≠ c) (n : Fin 64) : (st.stripped vl d a b c sa sb sc).getX n =
      if n.val = d then st.getX (Fin.ofNat 64 d) - BitVec.ofNat 64 vl
      else if n.val ≠ 0 ∧ n.val = a then st.getX n + BitVec.ofNat 64 (vl * 2 ^ sa)
      else if n.val ≠ 0 ∧ n.val = b then st.getX n + BitVec.ofNat 64 (vl * 2 ^ sb)
      else if n.val ≠ 0 ∧ n.val = c then st.getX n + BitVec.ofNat 64 (vl * 2 ^ sc)
      else st.getX n := by
  have reg : (⟨d % 64, Nat.mod_lt d (by decide)⟩ : Fin 64) = Fin.ofNat 64 d := rfl
  have val : (Fin.ofNat 64 d).val = d := Nat.mod_eq_of_lt hd
  have count : ∀ v : Word, (st.setX (Fin.ofNat 64 d) v).getX n = if n.val = d then v else st.getX n := fun v => by
    by_cases h : n = Fin.ofNat 64 d
    · rw [h, Stream.getX_setX_self _ _ (fun e => by rw [e] at val; exact hd0.ne val), if_pos val]
    · rw [Stream.getX_setX_ne _ _ h, if_neg fun e => h (Fin.ext (e.trans val.symm))]
  rw [Stream.stripped, Stream.advanced, getX_advanced _ hc, Stream.advanced, getX_advanced _ hb, Stream.advanced, getX_advanced _ ha, reg, count]
  split_ifs <;> first | rfl | omega

/-- Settles O13: `loopEnd` is what the loops do, and a STRIP's end counts down and advances its registers in order. -/
theorem endActionsOfLoopsAndStrips : Obligations.EndActionsOfLoopsAndStrips := by
  unfold Obligations.EndActionsOfLoopsAndStrips
  refine ⟨fun s st hst h2 ha => ?_, ?_⟩
  · have ends := ends_single h2
    have self := State.stream_of_some hst
    refine ⟨fun hl => ?_, fun hl h0 hc hs => ?_, fun hl h0 hc h1 => ?_, fun hl h0 h1 hc hs => ?_,
      fun hl h0 hc hs hf hj i h before => ?_⟩
    · exact endActions_plain (by rw [self, ha]) (by rw [self, hl])
    · rw [badReturn_loops hst ha hl, endActions_loops hst ha hl, ends, loopEnd_return0 (by simp [h0]) hc hs]
      exact ⟨by simp, rfl⟩
    · rw [badReturn_loops hst ha hl, endActions_loops hst ha hl, ends, loopEnd_last0 (by simp [h0]) hc (by simp [h1])]
      exact ⟨by simp, by simp⟩
    · rw [badReturn_loops hst ha hl, endActions_loops hst ha hl, ends,
        loopEnd_return1 (fun h => h0 (List.mem_singleton.1 h)) (by simp [h1]) hc hs]
      exact ⟨by simp, by simp⟩
    · have bad : badReturn .next s = some (st.le0, st.ls0) := by
        rw [badReturn_loops hst ha hl, ends, loopEnd_bad0 (by simp [h0]) hc hs, hf, hj]
        rfl
      rw [conclude, State.putBack_none, bad]
      rfl
  · intro s slot isX st d a b c sa sb sc cap ret hc hst hargs hd0 hd ha hb hcc had hbd hcd hab hac hbc
    have self := State.stream_of_some hst
    have regs := fun n => getX_stripped st (vl := (s.hart slot).vl.toNat) sa sb sc hd0 hd ha hb hcc had hbd hcd hab hac hbc n
    have count : (st.stripped (s.hart slot).vl.toNat d a b c sa sb sc).getX ⟨d % 64, Nat.mod_lt d (by decide)⟩ =
        st.getX (Fin.ofNat 64 d) - BitVec.ofNat 64 (s.hart slot).vl.toNat := by
      rw [regs, if_pos (Nat.mod_eq_of_lt hd)]
    rw [hc] at self
    rw [hc, stripEndAct_eq self hargs, Party.slot]
    dsimp only
    rw [count]
    generalize st.getX (Fin.ofNat 64 d) - BitVec.ofNat 64 (s.hart slot).vl.toNat = left at regs ⊢
    generalize st.stripped (s.hart slot).vl.toNat d a b c sa sb sc = st' at regs ⊢
    by_cases hl : left = 0
    · rw [hl, if_neg (by decide)]
      rw [hl] at regs
      dsimp only
      rw [State.stream_setStream_self]
      exact ⟨regs, fun h => absurd rfl h, fun _ => ⟨rfl, rfl⟩⟩
    · have pos : 0 < left.toNat := Nat.pos_of_ne_zero fun e => hl (BitVec.eq_of_toNat_eq e)
      rw [if_pos pos]
      dsimp only
      rw [State.stream_setHart_self, State.hart_setHart]
      have kept : ({ (s.setStream (.stream slot isX) { st' with pc := BitVec.ofNat 64 ret }).hart slot with
          vl := BitVec.ofNat 14 (min left.toNat cap) } : Hart).stream isX = { st' with pc := BitVec.ofNat 64 ret } := by
        rw [State.setStream, State.hart_setHart]
        cases isX <;> rfl
      rw [kept]
      exact ⟨regs, fun _ => ⟨rfl, rfl, rfl⟩, fun h => absurd h hl⟩

end Sys2Proof.Machine
end

section
/-! SUPPORT. Transfers of control, and WAIT, YIELD, FENCEI and HALT (02 R65, R68; 05 R207..R209, R236..R239). -/

set_option Elab.async false

namespace Sys2Proof.Machine

open Sys2Proof

/-! Branches, jumps, calls and returns (05 R207..R209). -/

theorem BrCond.holds_iff (c : BrCond) (a b : Word) : BrCond.holds c a b = true ↔ brHolds c a b := by
  cases c <;> simp [BrCond.holds, brHolds, BitVec.slt, BitVec.ult]

theorem State.xpop_issue (s : State) (a : XOp) : (s.xpop a).issue = s.issue := by
  cases a <;> rfl

section
variable {s s' : State} {h : Hdr} {d a b : XOp} {c : BrCond} {off : BitVec 40} {t : Word}

/-- A transfer to a number beyond the last instruction traps PROT (02 R65). -/
theorem transfer_prot (ht : Config.instrEnd ≤ t.toNat) : transfer t s = .error (.trap causeProt t) s := by
  unfold transfer checkTarget
  rw [if_pos ht]
  rfl

/-- A transfer to an unmarked slot of a line that can be fetched traps BRTGT (02 R68). -/
theorem transfer_unmarked {l : Line} (ht : t.toNat < Config.instrEnd) (hf : fetchTarget t s = .ok (some l) s')
    (hm : tgtBit l (t.toNat % 5) = false) : transfer t s = .error (.trap causeBrtgt t) s' := by
  unfold transfer checkTarget
  rw [if_neg (by omega)]
  simp only [bind, EStateM.bind, hf, hm]
  rfl

/-- A transfer that traps with the link unwritten. -/
theorem exec_callr_trap {n : Fin 64} {cause : Nat} (hi : Issues (.callr h d (.x n)) h s)
    (ht : transfer (s.xval (.x n)) s = .error (.trap cause (s.xval (.x n))) s') :
    Sys2Proof.Machine.exec (.callr h d (.x n)) s = .next (trapAt (restoreQueues s (flushReqs (.callr h d (.x n)) s') s'.cur)
      false cause (s.xval (.x n))) := by
  refine runHart_trap hi ?_
  rw [bind_readX _ (show s.hasX (.x n) from trivial)]
  simp only [bind, EStateM.bind, State.xpop, ht]

theorem does_br_not (hc : ¬brHolds c (s.xval a) ((s.xpop a).xval b)) :
    Does (.br h c a b off) h s .next ((s.xpop a).xpop b) := by
  refine .of_runHart rfl fun hi => ?_
  rw [bind_readX _ (hi.has1 rfl rfl), bind_readX _ (hi.has2 rfl rfl), if_neg (by rwa [BrCond.holds_iff])]
  rfl

theorem does_br (hc : brHolds c (s.xval a) ((s.xpop a).xval b))
    (hr : Reaches (s.issue.n + off.signExtend 64) ((s.xpop a).xpop b) s') :
    Does (.br h c a b off) h s (.taken (s.issue.n + off.signExtend 64)) s' := by
  refine .of_runHart rfl fun hi => ?_
  rw [bind_readX _ (hi.has1 rfl rfl), bind_readX _ (hi.has2 rfl rfl), if_pos (by rwa [BrCond.holds_iff]),
    bind_ok (show (get : M State) ((s.xpop a).xpop b) = .ok _ _ from rfl), State.xpop_issue, State.xpop_issue]
  exact transfer_ok hr

theorem does_jmp (hr : Reaches (s.xval a) (s.xpop a) s') : Does (.jmp h a) h s (.taken (s.xval a)) s' :=
  .of_runHart rfl fun hi => (bind_readX _ (hi.has1 rfl rfl)).trans (transfer_ok hr)

theorem does_ret (hr : Reaches (s.xval a) (s.xpop a) s') : Does (.ret h a) h s (.taken (s.xval a)) s' :=
  .of_runHart rfl fun hi => (bind_readX _ (hi.has1 rfl rfl)).trans (transfer_ok hr)

theorem does_callr (hr : Reaches (s.xval a) (s.xpop a) s') :
    Does (.callr h d a) h s (.taken (s.xval a)) (s'.xput d s'.after) := by
  refine .of_runHart rfl fun hi => ?_
  rw [bind_readX _ (hi.has1 rfl rfl), bind_ok (transfer_ok hr), bind_ok (successor_ok s'), bind_ok (writeX_ok ..)]
  rfl

theorem does_call (hr : Reaches (s.issue.n + off.signExtend 64) s s') :
    Does (.call h d off) h s (.taken (s.issue.n + off.signExtend 64)) (s'.xput d s'.after) := by
  refine .of_runHart rfl fun _ => ?_
  rw [bind_ok (show (get : M State) s = .ok s s from rfl), targetOf, bind_ok (transfer_ok hr), bind_ok (successor_ok s'),
    bind_ok (writeX_ok ..)]
  rfl

end

/-- Settles O11: one lemma for each transfer, and CALLR's two traps. -/
theorem transfersGoToTheirTargets : Obligations.TransfersGoToTheirTargets := by
  unfold Obligations.TransfersGoToTheirTargets
  refine ⟨fun s s' h d a b off => ⟨fun c hc => does_br_not hc, fun c hc hr => does_br hc hr,
    fun hr => ⟨does_jmp hr, does_ret hr, does_callr hr⟩, fun hr => does_call hr⟩, ?_⟩
  rintro s s' h _ d n l rfl hi
  exact ⟨fun ht => exec_callr_trap hi (transfer_prot ht), fun ht hf hm => exec_callr_trap hi (transfer_unmarked ht hf hm)⟩

/-! What stores at home leave of the write-combining buffers (06 R245..R248). -/

theorem Assoc.get?_mapKey {α β : Type} (f : Nat → α → β) (l : Assoc α) (n : Nat) :
    Assoc.get? (l.map fun kv => (kv.1, f kv.1 kv.2)) n = (l.get? n).map (f n) := by
  induction l with
  | nil => rfl
  | cons kv r ih =>
    simp only [List.map_cons, Assoc.get?]
    split
    · rename_i h
      rw [h]
      rfl
    · exact ih

/-- Every core's write-combining buffer is as it was. -/
def SameBuffers (s t : State) : Prop := ∀ c, (t.core c).wcb = (s.core c).wcb

theorem SameBuffers.refl (s : State) : SameBuffers s s := fun _ => rfl

theorem SameBuffers.trans {s t u : State} (h1 : SameBuffers s t) (h2 : SameBuffers t u) : SameBuffers s u :=
  fun c => (h2 c).trans (h1 c)

theorem SameBuffers.of_cores {s t : State} (h : t.cores = s.cores) : SameBuffers s t := fun c => by
  rw [State.core, h]
  rfl

theorem SameBuffers.foldl {α : Type} {f : State → α → State} (h : ∀ s a, SameBuffers s (f s a)) (l : List α) (s : State) :
    SameBuffers s (l.foldl f s) := by
  induction l generalizing s with
  | nil => exact .refl s
  | cons a l ih => exact (h s a).trans (ih _)

theorem evictL2_buffers (s : State) (quad line : Nat) : SameBuffers s (s.evictL2 quad line) := fun c => by
  have get := Assoc.get?_mapKey (fun n (k : Core) => if quadOf n = quad then
    { k with l1 := k.l1.filter fun l => !(l2Sectors line).contains l.key } else k) s.cores c
  have get' : (s.evictL2 quad line).cores.get? c = _ := get
  rw [State.core, Assoc.get, get', State.core, Assoc.get]
  cases s.cores.get? c with
  | none => rfl
  | some k =>
    rw [Option.map_some, Option.getD_some, Option.getD_some]
    split <;> rfl

theorem touchL2_buffers (s : State) (quad line : Nat) (last : Bool) : SameBuffers s (s.touchL2 quad line last) := by
  unfold State.touchL2
  dsimp only
  split
  · exact fun c => evictL2_buffers s quad _ c
  · exact .refl s

theorem homeWriteBytes_buffers (s : State) (pa : Nat) (bs : List Byte) : SameBuffers s (s.homeWriteBytes pa bs) := by
  unfold State.homeWriteBytes
  have rows : SameBuffers s (s.dropRows pa bs.length) := .of_cores rfl
  have lines := rows.trans (SameBuffers.foldl (fun s i => touchL2_buffers s (homeQuad pa) (pa / 256 + i) false)
    (List.range ((pa % 256 + bs.length + 255) / 256)) _)
  dsimp only
  generalize List.foldl _ _ _ = t at lines ⊢
  refine .trans (lines.trans (.of_cores ?_)) (SameBuffers.foldl (fun s i => .of_cores (t := s.wakeLine (pa / 64 + i)) rfl) _ _)
  rfl

theorem noteWrite_buffers (s : State) (serial : Word) (va pa : Nat) : SameBuffers s (s.noteWrite serial va pa) := by
  unfold State.noteWrite
  split
  · exact .refl s
  split
  · exact .refl s
  dsimp only
  split
  · exact .refl s
  split
  · exact .refl s
  · exact (homeWriteBytes_buffers s _ _).trans (.of_cores rfl)

theorem homePerform_buffers (s : State) (quad : Option Nat) (through : Bool) (orders : List (Nat × Nat)) (sec : Nat)
    (mask : BitVec 64) (data : Line) : SameBuffers s (s.homePerform quad through orders sec mask data) := by
  have rows : SameBuffers s (s.dropRows (64 * sec) 64) := .of_cores rfl
  have line := rows.trans (touchL2_buffers _ (homeQuad (64 * sec)) (sec / 4) false)
  unfold State.homePerform
  dsimp only
  generalize State.touchL2 _ _ _ _ = t at line ⊢
  exact line.trans (.of_cores rfl)

theorem drainEntry_buffers (s : State) (core : Nat) (e : WcbEntry) : SameBuffers s (s.drainEntry core e) := by
  unfold State.drainEntry
  exact (homePerform_buffers s _ _ _ _ _ _).trans (SameBuffers.foldl (fun s p => noteWrite_buffers s _ _ _) _ _)

theorem State.core_setCore (s : State) (c : Nat) (k : Core) : (s.setCore c k).core c = k := by
  simp [State.core, Assoc.get, Assoc.get?_put_self]

/-- A buffer that drains whole is empty. -/
theorem drainSome_wcb (s : State) (core n : Nat) : ((s.drainSome core n).core core).wcb = (s.core core).wcb.drop n := by
  unfold State.drainSome
  refine (SameBuffers.foldl (fun s e => drainEntry_buffers s core e) _ _ core).trans ?_
  rw [State.core_setCore]

theorem drainGate_ok {s : State} {core n : Nat} (h : min n (s.core core).wcb.length ≤ s.drainable core n) :
    drainGate core n s = .ok () (s.drainSome core n) := by
  unfold drainGate
  rw [bind_ok (show (get : M State) s = .ok s s from rfl), if_neg (Nat.not_lt.2 h)]
  rfl

/-! WAIT, YIELD, FENCEI and HALT (05 R236..R239). -/

section
variable {s : State} {h : Hdr} {slot : Nat} {isX : Bool}

theorem does_wait {a : XOp} {limit : BitVec 35} (hw : a ≠ .x 0 ∨ limit ≠ 0) :
    Does (.wait h a limit) h s .next ((s.xpop a).upStream fun st => { st with
      waiting := some ⟨if a = .x 0 then none else (s.xpop a).waitKey s.cur (s.xval a).toNat,
        if limit = 0 then none else some (s.tick + limit.toNat), false⟩ }) := by
  refine .of_runSeq rfl fun hi => ?_
  have tick : (s.xpop a).tick = s.tick := by cases a <;> rfl
  dsimp only
  rw [if_neg (by simpa [or_iff_not_imp_left] using hw), bind_readX _ (hi.has1 rfl rfl),
    bind_ok (show (get : M State) (s.xpop a) = .ok _ _ from rfl), modStream_ok, State.xpop_cur, tick]

/-- The FENCEI of a stream: its core's buffer has drained, and no line or copy of an older store is left (05 R239). -/
theorem does_fencei (hc : s.cur = .stream slot isX) (hd : s.drains (coreOf slot) = true) :
    ∃ t : State, Does (.fencei h) h s .next t ∧ (t.core (coreOf slot)).wcb = [] ∧ (t.core (coreOf slot)).l1 = [] ∧
      ∀ b ∈ t.mem.border, b.stale = none := by
  let n := (s.core (coreOf slot)).wcb.length
  let u := s.drainSome (coreOf slot) n
  refine ⟨(u.clearL1 (coreOf slot)).setMem (u.clearL1 (coreOf slot)).mem.dropStale, .of_runSeq rfl fun _ => ?_, ?_, ?_, ?_⟩
  · have core : curCore s = .ok (coreOf slot) s := by
      show EStateM.Result.ok (coreOf s.cur.slot) s = _
      rw [hc]
      rfl
    have all : min n (s.core (coreOf slot)).wcb.length ≤ s.drainable (coreOf slot) n := by
      rw [Nat.min_self]
      exact of_decide_eq_true hd
    rw [bind_ok (show (get : M State) s = .ok s s from rfl), if_neg (by simp [hc, Party.isDatum]), bind_ok core,
      bind_ok (show (get : M State) s = .ok s s from rfl), bind_ok (drainGate_ok all)]
    rfl
  · show (((u.clearL1 (coreOf slot)).core (coreOf slot)).wcb) = []
    rw [State.clearL1, State.core_setCore]
    exact (drainSome_wcb ..).trans (by simp [n])
  · show (((u.clearL1 (coreOf slot)).core (coreOf slot)).l1) = []
    rw [State.clearL1, State.core_setCore]
  · intro b hb
    simp only [State.setMem_mem, MemSys.dropStale, List.mem_filter, Option.isNone_iff_eq_none] at hb
    exact hb.2

theorem does_halt (hc : s.cur = .stream slot isX)
    (hl : ((s.hart slot).stream (!isX)).live = true ∨ (s.hart slot).inflight = [] ∧ s.matrixBusy slot = false) :
    Does (.halt h) h s .halted (s.endStream slot isX) := by
  refine .of_runHart rfl fun _ => ?_
  rw [bind_ok (show (get : M State) s = .ok s s from rfl), hc]
  dsimp only
  rw [bind_ok (show (get : M State) s = .ok s s from rfl), if_neg]
  · rfl
  · rcases hl with h | ⟨h1, h2⟩
    · simp [h]
    · simp [h1, h2]

/-- While the partner goes on, the end of a stream changes that stream and what its hart holds back. -/
theorem endStream_partner (hl : ((s.hart slot).stream (!isX)).live = true) :
    (s.endStream slot isX).mem = s.mem ∧ ((s.endStream slot isX).stream (.stream slot isX)).live = false ∧
    (s.endStream slot isX).stream (.stream slot (!isX)) = s.stream (.stream slot (!isX)) := by
  have present : (s.stream? (.stream slot (!isX))).isSome := by
    rw [State.hart, Assoc.get, ← State.hart?] at hl
    rw [State.stream?, Option.isSome_map]
    cases hh : s.hart? slot with
    | some k => rfl
    | none =>
      rw [hh] at hl
      cases isX <;> exact nomatch hl
  unfold State.endStream
  dsimp only
  rw [if_pos (by rw [Hart.stream_setStream_other]; exact hl), State.stream_setHart_self, State.stream_setHart_self,
    State.stream_eq_hart present]
  cases isX <;> exact ⟨rfl, rfl, rfl⟩

end

/-- Settles O16: one lemma for each instruction. -/
theorem waitYieldFenceiHalt : Obligations.WaitYieldFenceiHalt := by
  unfold Obligations.WaitYieldFenceiHalt
  intro s h a limit
  refine ⟨fun hw => does_wait hw, .of_runSeq rfl fun _ => rfl, fun hc => ⟨.of_runSeq rfl fun _ => ?_, .of_runHart rfl fun _ => ?_⟩,
    fun slot isX hc => ⟨fun hd => does_fencei hc hd, fun hl => does_halt hc hl, fun hl => hc ▸ endStream_partner hl⟩⟩
  · rw [bind_ok (show (get : M State) s = .ok s s from rfl), if_pos (by simp [hc, Party.isDatum])]
    rfl
  · rw [bind_ok (show (get : M State) s = .ok s s from rfl), hc]
    rfl

end Sys2Proof.Machine
end

section
/-! SUPPORT. Scalar memory instructions: addresses, loads, stores and atomics (05 R222..R226). -/

set_option Elab.async false

namespace Sys2Proof.Machine

open Sys2Proof

/-! Addresses (02 R86; 05 R224). -/

section
variable {i : Instr} {h : Hdr} {s : State} {m : MemOp} {n : Nat}

/-- The address of a format M operand. -/
def State.eaOf (s : State) (m : MemOp) : Nat :=
  (s.xval m.base + (s.xpop m.base).xval m.idx <<< m.scl.val + m.disp.signExtend 64).toNat

/-- The state once the address has been read. -/
def State.eaPop (s : State) (m : MemOp) : State := (s.xpop m.base).xpop m.idx

theorem State.ea_eq {α : Type} (s : State) (m : MemOp) (f : Nat → State → α) : s.ea m f = f (s.eaOf m) (s.eaPop m) := rfl

/-- The base and the index of a format M operand can be read. -/
def State.hasEA (s : State) (m : MemOp) : Prop := s.hasX m.base ∧ (s.xpop m.base).hasX m.idx

theorem Issues.hasEA {rest : List Use} (hi : Issues i h s) (hn : queueNeeds s i = i.uses.filterMap Use.queue?)
    (hu : i.uses = .rx m.base :: .rx m.idx :: rest) : s.hasEA m := ⟨hi.has1 hn hu, hi.has2 hn hu⟩

theorem readEA_ok (he : s.hasEA m) : readEA m s = .ok (s.eaOf m) (s.eaPop m) := by
  unfold readEA
  rw [bind_readX _ he.1, bind_readX _ he.2]
  rfl

theorem scalarEA_ok (he : s.hasEA m) (ha : s.eaOf m % n = 0) : scalarEA m n s = .ok (s.eaOf m) (s.eaPop m) := by
  unfold scalarEA
  rw [bind_ok (readEA_ok he), if_neg (by simpa using ha)]
  rfl

/-- An address that is no multiple of the size traps ALIGN. -/
theorem scalarEA_trap (he : s.hasEA m) (ha : s.eaOf m % n ≠ 0) :
    scalarEA m n s = .error (.trap causeAlign (BitVec.ofNat 64 (s.eaOf m))) (s.eaPop m) := by
  unfold scalarEA
  rw [bind_ok (readEA_ok he), if_pos ha]
  rfl

end

/-! Loads and stores (05 R222..R224). -/

section
variable {s s' s1 : State} {h : Hdr} {t : Ty} {sc : Scope} {d : XOp} {m : MemOp} {v : Nat}

theorem bodyLd_ok (he : s.hasEA m) (ha : s.eaOf m % Ty.size t = 0)
    (hv : Loads h.ch (s.eaOf m) (Ty.size t) (s.eaPop m) s' v) : bodyLd h t d m s = .ok () (s'.xput d (extTy t v)) := by
  unfold bodyLd
  rw [bind_ok (scalarEA_ok he ha), bind_ok (show scalarLoad _ _ _ _ = _ from hv), writeX_ok]

theorem does_ld (ha : s.eaOf m % Ty.size t = 0) (hv : Loads h.ch (s.eaOf m) (Ty.size t) (s.eaPop m) s' v) :
    Does (.ld h t d m) h s .next (s'.xput d (extTy t v)) :=
  .of_runSeq rfl fun hi => bodyLd_ok (hi.hasEA rfl rfl) ha hv

theorem does_lda {s2 : State} (ha : s.eaOf m % Ty.size t = 0) (hv : Loads h.ch (s.eaOf m) (Ty.size t) (s.eaPop m) s' v)
    (hq : Acquires (Scope.rank sc) (s'.xput d (extTy t v)) s2) : Does (.lda h t sc d m) h s .next s2 :=
  .of_runSeq rfl fun hi => (bind_ok (bodyLd_ok (hi.hasEA rfl rfl) ha hv)).trans hq

theorem does_st (ha : s.eaOf m % Ty.size t = 0)
    (hs : Stores false h.ch (s.eaOf m) (Ty.size t) ((s.eaPop m).xval d) ((s.eaPop m).xpop d) s') :
    Does (.st h t d m) h s .next s' := by
  refine .of_runSeq rfl fun hi => ?_
  have third : (s.eaPop m).hasX d := hi.hasNext (l := [m.base, m.idx]) rfl rfl
  rw [bind_ok (scalarEA_ok (hi.hasEA rfl rfl) ha), bind_readX _ third]
  exact hs

theorem does_str (ha : s.eaOf m % Ty.size t = 0) (hr : Releases (Scope.rank sc) ((s.eaPop m).xpop d) s1)
    (hs : Stores true h.ch (s.eaOf m) (Ty.size t) ((s.eaPop m).xval d) s1 s') : Does (.str h t sc d m) h s .next s' := by
  refine .of_runSeq rfl fun hi => ?_
  have third : (s.eaPop m).hasX d := hi.hasNext (l := [m.base, m.idx]) rfl rfl
  rw [bind_ok (scalarEA_ok (hi.hasEA rfl rfl) ha), bind_readX _ third, bind_ok (show release _ _ = _ from hr)]
  exact hs

end

/-- Settles O23: one lemma for each instruction, and the trap of the address that they share. -/
theorem scalarLoadsAndStores : Obligations.ScalarLoadsAndStores := by
  unfold Obligations.ScalarLoadsAndStores
  refine ⟨fun s h t sc d m => ?_, fun s h t d a b scl disp hr => ?_⟩
  · rw [State.ea_eq]
    exact fun ha => ⟨fun v s' hv => ⟨does_ld ha hv, fun s2 hq => does_lda ha hv hq⟩,
      fun s' hs => does_st ha hs, fun s1 s' hq hs => does_str ha hq hs⟩
  · intro m ea ha
    have plain : s.hasEA m := ⟨trivial, trivial⟩
    have value : BitVec.ofNat 64 (s.eaOf m) = ea := BitVec.ofNat_toNat ..
    have trap : scalarEA m (Ty.size t) s = .error (.trap causeAlign ea) s := by
      rw [← value]
      exact scalarEA_trap plain ha
    refine ⟨fun hi => (runSeq_trap hi (t := s) ?_).trans (by rw [flushReqs_nil hr]; rfl),
      fun hi => (runSeq_trap hi (t := s) ?_).trans (by rw [flushReqs_nil hr]; rfl)⟩
    · simp only [bodyLd, bind, EStateM.bind, trap]
    · simp only [bind, EStateM.bind, trap]

/-! Atomics (05 R225, R226). -/

section
variable {s u s1 s2 s3 : State} {h : Hdr} {t : Ty} {sc : Option Scope} {d b : Fin 64} {a : XOp} {m : MemOp} {old op ea : Nat}
  {cmp : Word}

theorem readReg_ok (n : Fin 64) (s : State) : readReg n s = .ok (s.xval (.x n)) s := rfl

theorem writeReg_ok (n : Fin 64) (w : Word) (s : State) : writeReg n w s = .ok () (s.xput (.x n) w) := rfl

theorem bodyAtom_ok (hr : Releases (rankOf sc) u s1) (ha : Atomically h.ch op t ea (s1.xval (.x d)) cmp s1 s2 old)
    (hq : Acquires (rankOf sc) (s2.xput (.x d) (extTy t old)) s3) : bodyAtom h op t sc d ea cmp u = .ok () s3 := by
  unfold bodyAtom
  rw [← rankOf, bind_ok (show release _ _ = _ from hr), bind_ok (readReg_ok d s1), bind_ok (show scalarAtom _ _ _ _ _ _ _ = _ from ha),
    bind_ok (writeReg_ok ..)]
  exact hq

/-- Every operation but CAS runs the same body, with its number. -/
theorem atomTable_exec : ∀ op ∈ atomTable, ∀ h t sc d m s,
    Sys2Proof.Machine.exec (op.1 h t sc d m) s = runSeq (op.1 h t sc d m) h (bodyAtomOp h op.2 t sc d m) s ∧
    (op.1 h t sc d m).uses = [.rx m.base, .rx m.idx, .rx (.x d), .wx (.x d)] ∧
    queueNeeds s (op.1 h t sc d m) = (op.1 h t sc d m).uses.filterMap Use.queue? := by
  simp only [atomTable, List.forall_mem_cons, List.not_mem_nil, false_implies, implies_true, and_true]
  exact ⟨fun _ _ _ _ _ _ => ⟨rfl, rfl, rfl⟩, fun _ _ _ _ _ _ => ⟨rfl, rfl, rfl⟩, fun _ _ _ _ _ _ => ⟨rfl, rfl, rfl⟩,
    fun _ _ _ _ _ _ => ⟨rfl, rfl, rfl⟩, fun _ _ _ _ _ _ => ⟨rfl, rfl, rfl⟩, fun _ _ _ _ _ _ => ⟨rfl, rfl, rfl⟩,
    fun _ _ _ _ _ _ => ⟨rfl, rfl, rfl⟩⟩

theorem does_atomCas {disp : BitVec 32} (he : (s.xval a + disp.signExtend 64).toNat % Ty.size t = 0)
    (hr : Releases (rankOf sc) (s.xpop a) s1)
    (ha : Atomically h.ch 7 t (s.xval a + disp.signExtend 64).toNat (s1.xval (.x d)) ((s.xpop a).xval (.x b)) s1 s2 old)
    (hq : Acquires (rankOf sc) (s2.xput (.x d) (extTy t old)) s3) : Does (.atomCas h t sc d a b disp) h s .next s3 := by
  refine .of_runSeq rfl fun hi => ?_
  dsimp only
  rw [bind_readX _ (hi.has1 rfl rfl), if_neg (by simpa using he), bind_ok (readReg_ok b (s.xpop a))]
  exact bodyAtom_ok hr ha hq

end

/-- What an atomic stores, on operands of n bytes (05 R225). -/
theorem atomValue_eq (signed : Bool) {n old x cmp : Nat} (hn : 0 < n) (ho : old < 2 ^ (8 * n)) (hx : x < 2 ^ (8 * n))
    (hc : cmp < 2 ^ (8 * n)) : let num := fun (v : Nat) => if signed then (v : Int).bmod (2 ^ (8 * n)) else (v : Int)
    (∃ v, atomValue 5 signed n old x cmp = some v ∧ num v = min (num old) (num x)) ∧
    (∃ v, atomValue 6 signed n old x cmp = some v ∧ num v = max (num old) (num x)) ∧
    atomValue 7 signed n old x cmp = if old = cmp then some x else none := by
  intro num
  have mx : x % 2 ^ (8 * n) = x := Nat.mod_eq_of_lt hx
  have mc : cmp % 2 ^ (8 * n) = cmp := Nat.mod_eq_of_lt hc
  have key : ∀ v < 2 ^ (8 * n), (if signed then signedOf (8 * n) v else (v : Int)) = num v := fun v hv => by
    rw [signedOf_eq_bmod (by omega) hv]
  refine ⟨⟨if num x < num old then x else old, ?_, ?_⟩, ⟨if num old < num x then x else old, ?_, ?_⟩, ?_⟩
  · simp only [atomValue, mx, key x hx, key old ho]
  · split <;> omega
  · simp only [atomValue, mx, key x hx, key old ho]
  · split <;> omega
  · simp only [atomValue, mx, mc]

/-- Settles O27: the operations share a body, and what they store is arithmetic on n bytes. -/
theorem atomicsReturnTheOldValue : Obligations.AtomicsReturnTheOldValue := by
  unfold Obligations.AtomicsReturnTheOldValue
  refine ⟨fun s h t sc d b a m disp => ⟨fun op hop => ?_, fun he s1 s2 s3 old hr ha hq => does_atomCas he hr ha hq⟩,
    fun signed n old x cmp hn ho hx hc => ?_⟩
  · rw [State.ea_eq]
    intro he s1 s2 s3 old hr ha hq
    obtain ⟨hexec, huses, hneeds⟩ := atomTable_exec op hop h t sc d m s
    refine .of_runSeq hexec fun hi => ?_
    unfold bodyAtomOp
    rw [bind_ok (scalarEA_ok (hi.hasEA hneeds huses) he)]
    exact bodyAtom_ok hr ha hq
  · have mod : x % 2 ^ (8 * n) = x := Nat.mod_eq_of_lt hx
    refine ⟨?_, ?_, ?_, ?_, ?_, atomValue_eq signed hn ho hx hc⟩ <;> simp only [atomValue, mod]

end Sys2Proof.Machine
end

section
/-! SUPPORT. Bytes of lines, device memory at its home, and the datum core's SRAM (06 R248, R285; 15 R580, R581, R592). -/

set_option Elab.async false

namespace Sys2Proof.Machine

open Sys2Proof

/-! Bytes of a line. -/

theorem Line.getLsbD_byte (l : Line) (k j : Nat) : (Line.byte l k).getLsbD j = (decide (j < 8) && l.getLsbD (8 * k + j)) := by
  simp [Line.byte]

theorem Line.byte_setByte (l : Line) {i k : Nat} (hk : k < 64) (b : Byte) :
    Line.byte (Line.setByte l i b) k = if i = k then b else Line.byte l k := by
  apply BitVec.eq_of_getLsbD_eq
  intro j hj
  have hp : 8 * k + j < 512 := by omega
  have mask : (0xFF#512).getLsbD = fun n => decide (n < 8) := by
    funext n
    rw [BitVec.getLsbD_ofNat, show (0xFF : Nat) = 2 ^ 8 - 1 from rfl, Nat.testBit_two_pow_sub_one]
    by_cases h : n < 8 <;> simp [h]
    omega
  rw [Line.getLsbD_byte]
  simp only [Line.setByte, BitVec.getLsbD_or, BitVec.getLsbD_and, BitVec.getLsbD_not, BitVec.getLsbD_shiftLeft, hp, mask,
    BitVec.getLsbD_setWidth, hj, decide_true, Bool.true_and]
  by_cases e : i = k
  · subst e
    have h1 : ¬8 * i + j < 8 * i := by omega
    have h2 : 8 * i + j - 8 * i = j := by omega
    have h3 : j < 512 := by omega
    simp [h1, h2, h3, hj]
  · rw [if_neg e, Line.getLsbD_byte]
    by_cases lo : 8 * k + j < 8 * i
    · simp [lo, hj]
    · have h1 : ¬8 * k + j - 8 * i < 8 := by omega
      simp [lo, h1, hj, BitVec.getLsbD_of_ge b _ (Nat.not_lt.1 h1)]

/-- A merged line takes the masked bytes from the new one. -/
theorem Line.byte_merge (old new : Line) (mask : BitVec 64) {k : Nat} (hk : k < 64) :
    Line.byte (Line.merge old new mask) k = if mask.getLsbD k then Line.byte new k else Line.byte old k := by
  have fold : ∀ (l : List Nat) (acc : Line),
      Line.byte (l.foldl (fun acc i => if mask.getLsbD i then Line.setByte acc i (Line.byte new i) else acc) acc) k =
        if k ∈ l ∧ mask.getLsbD k = true then Line.byte new k else Line.byte acc k := by
    intro l
    induction l with
    | nil => simp
    | cons i l ih =>
      intro acc
      rw [List.foldl_cons, ih]
      by_cases hm : mask.getLsbD k = true
      · by_cases hl : k ∈ l
        · simp [hl, hm]
        · by_cases e : i = k
          · subst e
            simp [hl, hm, Line.byte_setByte _ hk]
          · have e' : k ≠ i := fun h => e h.symm
            by_cases hi : mask.getLsbD i = true <;> simp [hl, hi, e, e', Line.byte_setByte _ hk]
      · by_cases hi : mask.getLsbD i = true
        · have e : i ≠ k := fun h => hm (h ▸ hi)
          simp [hm, hi, e, Line.byte_setByte _ hk]
        · simp [hm, hi]
  rw [Line.merge, fold]
  simp [hk]

theorem leNat_div (bs : List Byte) (k : Nat) : leNat bs / 256 ^ k % 256 = (bs.getD k 0).toNat := by
  induction bs generalizing k with
  | nil => simp [leNat]
  | cons b bs ih =>
    have hb : b.toNat < 256 := b.isLt
    cases k with
    | zero =>
      simp [leNat]
      exact hb
    | succ k =>
      rw [leNat, Nat.pow_succ', ← Nat.div_div_eq_div_mul, show (b.toNat + 256 * leNat bs) / 256 = leNat bs by omega, ih]
      rfl

/-- A line made of bytes has them, and zero from there on. -/
theorem Line.byte_ofBytes (bs : List Byte) {k : Nat} (hk : k < 64) : Line.byte (Line.ofBytes bs) k = bs.getD k 0 := by
  apply BitVec.eq_of_toNat_eq
  have split : (512 : Nat) = 8 * k + (512 - 8 * k) := by omega
  have low : 512 - 8 * k = 8 + (504 - 8 * k) := by omega
  rw [← leNat_div, Line.byte, Line.ofBytes, BitVec.toNat_setWidth, BitVec.toNat_ushiftRight, BitVec.toNat_ofNat,
    Nat.shiftRight_eq_div_pow, split, Nat.pow_add, Nat.mod_mul_right_div_self, low, Nat.pow_add, Nat.mod_mul_right_mod,
    Nat.pow_mul]

theorem Line.ofBytes_bytes_byte (l : Line) {k : Nat} (hk : k < 64) : Line.byte (Line.ofBytes (Line.bytes l)) k = Line.byte l k := by
  rw [Line.byte_ofBytes _ hk, Line.bytes]
  simp [hk]

/-! Ranges of sectors. -/

theorem rangesDel_any (l : List (Nat × Nat)) (sec n : Nat) :
    ((rangesDel l sec (sec + 1)).any fun r => decide (r.1 ≤ n) && decide (n < r.2)) =
      (decide (n ≠ sec) && l.any fun r => decide (r.1 ≤ n) && decide (n < r.2)) := by
  have piece : ∀ r : Nat × Nat, ((([(r.1, min r.2 sec), (max r.1 (sec + 1), r.2)] : List (Nat × Nat)).filter fun q => q.1 < q.2).any
      fun r => decide (r.1 ≤ n) && decide (n < r.2)) = (decide (n ≠ sec) && (decide (r.1 ≤ n) && decide (n < r.2))) := fun r => by
    rw [Bool.eq_iff_iff]
    simp
    omega
  induction l with
  | nil => simp [rangesDel]
  | cons r l ih =>
    rw [rangesDel, List.flatMap_cons, List.any_append, piece, List.any_cons, Bool.and_or_distrib_left, ← ih]
    rfl

theorem rangeInsert_any (r : Nat × Nat) (l : List (Nat × Nat)) (f : Nat × Nat → Bool) :
    (rangeInsert r l).any f = (f r || l.any f) := by
  induction l with
  | nil => simp [rangeInsert]
  | cons q l ih =>
    rw [rangeInsert]
    split
    · simp
    · simp only [List.any_cons, ih]
      cases f r <;> cases f q <;> rfl

/-- Of the ciphertext ranges without one sector, what another sector finds is as before. -/
theorem cipherDel_find (l : List (Nat × Nat × Nat)) (sec n : Nat) :
    ((cipherDel l sec).find? fun r => decide (r.1 ≤ n) && decide (n < r.2.1)).map (fun r => r.2.2) =
      if n = sec then none else (l.find? fun r => decide (r.1 ≤ n) && decide (n < r.2.1)).map (fun r => r.2.2) := by
  have piece : ∀ r : Nat × Nat × Nat, ((([(r.1, min r.2.1 sec, r.2.2), (max r.1 (sec + 1), r.2.1, r.2.2)] :
      List (Nat × Nat × Nat)).filter fun q => q.1 < q.2.1).find? fun r => decide (r.1 ≤ n) && decide (n < r.2.1)).map (fun r => r.2.2)
      = if n ≠ sec ∧ r.1 ≤ n ∧ n < r.2.1 then some r.2.2 else none := fun r => by
    by_cases h : n ≠ sec ∧ r.1 ≤ n ∧ n < r.2.1
    · obtain ⟨hn, h1, h2⟩ := h
      rw [if_pos ⟨hn, h1, h2⟩]
      rcases Nat.lt_or_gt_of_ne hn with lt | gt
      · have c1 : r.1 < r.2.1 := by omega
        have c2 : r.1 < sec := by omega
        simp [h1, h2, lt, c1, c2]
      · have c1 : sec + 1 < r.2.1 := by omega
        have c2 : ¬n < sec := by omega
        have c3 : r.1 < r.2.1 := by omega
        by_cases c4 : r.1 < sec <;> simp [h1, h2, gt, c1, c2, c3, c4]
    · rw [if_neg h, List.find?_eq_none.2]
      · rfl
      · intro q hq
        simp only [List.mem_filter, List.mem_cons, List.not_mem_nil, or_false, decide_eq_true_eq] at hq
        obtain ⟨rfl | rfl, -⟩ := hq <;> simp <;> omega
  induction l with
  | nil => simp [cipherDel]
  | cons r l ih =>
    rw [cipherDel, List.flatMap_cons, List.find?_append, Option.map_or, piece]
    rw [cipherDel] at ih
    rw [ih, List.find?_cons]
    by_cases hn : n = sec
    · simp [hn]
    · by_cases hr : r.1 ≤ n ∧ n < r.2.1
      · simp [hn, hr]
      · have : (decide (r.1 ≤ n) && decide (n < r.2.1)) = false := by simpa using hr
        simp only [hn, hr, this]
        simp

end Sys2Proof.Machine
end

section
/-! SUPPORT. Device memory at its home, and the datum core's SRAM (06 R248, R285; 15 R580, R581, R592). -/

set_option Elab.async false

namespace Sys2Proof.Machine

open Sys2Proof

/-! Device memory at its home. -/

/-- A store at home changes its own sector only, there the masked bytes; a sealed one changes nothing. -/
theorem homeStore_sector (m : MemSys) (isSealed : Nat → Bool) (tick : Nat) (quad : Option Nat) (through : Bool)
    (orders : List (Nat × Nat)) (sec : Nat) (mask : BitVec 64) (data : Line) (n : Nat) :
    (m.homeStore isSealed tick quad through orders sec mask data).sector n =
      if isSealed sec = false ∧ n = sec then Line.merge (m.sector sec) data mask else m.sector n := by
  unfold MemSys.homeStore
  cases hs : isSealed sec with
  | true => simp
  | false =>
    by_cases e : n = sec
    · subst e
      simp [MemSys.sector, Assoc.get?_put_self]
    · simp [MemSys.sector, Assoc.get?_put_ne _ _ e, e]
      rfl

section
variable {m : MemSys} {sec : Nat} {x : L2Sector}

theorem writeBack_none (h : m.l2.get? sec = none) : m.writeBack sec = m := by
  rw [MemSys.writeBack, h]

/-- What the stack holds of a sector that was written back is what L2 held. -/
theorem writeBack_byte_self (h : m.l2.get? sec = some x) {k : Nat} (hk : k < 64) :
    Line.byte ((m.writeBack sec).sector sec) k = Line.byte x.data k := by
  have cipher : ((m.writeBack sec).cipher.find? fun r => decide (r.1 ≤ sec) && decide (sec < r.2.1)) = none := by
    have := cipherDel_find m.cipher sec sec
    rw [if_pos rfl, Option.map_eq_none_iff] at this
    rw [MemSys.writeBack, h]
    exact this
  have l2 : (m.writeBack sec).l2.get? sec = none := by
    rw [MemSys.writeBack, h]
    exact Assoc.get?_del_self ..
  have hbm : (m.writeBack sec).hbm.bytes (64 * sec) 64 = Line.bytes x.data := by
    have len : (Line.bytes x.data).length = 64 := by simp [Line.bytes]
    rw [MemSys.writeBack, h]
    exact (congrArg _ len.symm).trans (Memory.bytes_setBytes m.hbm (64 * sec) (Line.bytes x.data))
  rw [MemSys.sector, l2]
  dsimp only
  rw [MemSys.stack, cipher]
  dsimp only
  rw [hbm, Line.ofBytes_bytes_byte _ hk]

/-- Another sector keeps its bytes and where they stand. -/
theorem writeBack_sector_ne {n : Nat} (hn : n ≠ sec) : (m.writeBack sec).sector n = m.sector n := by
  cases h : m.l2.get? sec with
  | none => rw [writeBack_none h]
  | some x =>
    have cipher := cipherDel_find m.cipher sec n
    rw [if_neg hn] at cipher
    have hbm : (m.hbm.setBytes (64 * sec) (Line.bytes x.data)).bytes (64 * n) 64 = m.hbm.bytes (64 * n) 64 := by
      refine List.map_congr_left fun i hi => Memory.get_setBytes_out _ _ _ _ ?_
      rw [List.mem_range] at hi
      simp only [Line.bytes, List.length_map, List.length_range]
      omega
    rw [MemSys.writeBack, h]
    simp only [MemSys.sector, Assoc.get?_del_ne _ hn, MemSys.stack, hbm]
    cases m.l2.get? n with
    | some y => rfl
    | none =>
      dsimp only
      generalize (cipherDel m.cipher sec).find? _ = a at cipher ⊢
      generalize m.cipher.find? _ = b at cipher ⊢
      cases a <;> cases b <;> simp_all

theorem writeBack_poisoned (n : Nat) : (m.writeBack sec).poisoned n = m.poisoned n := by
  cases h : m.l2.get? sec with
  | none => rw [writeBack_none h]
  | some x =>
    have own : (decide (sec ≤ n) && decide (n < sec + 1)) = decide (n = sec) := by
      rw [Bool.eq_iff_iff]
      simp
      omega
    have mark : ((if x.poison then rangeInsert (sec, sec + 1) (rangesDel m.poison sec (sec + 1))
        else rangesDel m.poison sec (sec + 1)).any fun r => decide (r.1 ≤ n) && decide (n < r.2)) =
        if n = sec then x.poison else m.poison.any fun r => decide (r.1 ≤ n) && decide (n < r.2) := by
      cases x.poison with
      | true =>
        rw [if_pos rfl, rangeInsert_any, rangesDel_any]
        dsimp only
        rw [own]
        by_cases e : n = sec <;> simp [e]
      | false =>
        rw [if_neg Bool.false_ne_true, rangesDel_any]
        by_cases e : n = sec <;> simp [e]
    rw [MemSys.writeBack, h]
    simp only [MemSys.poisoned, mark]
    by_cases e : n = sec
    · subst e
      rw [Assoc.get?_del_self, h, if_pos rfl]
    · rw [Assoc.get?_del_ne _ e, if_neg e]

end

/-- Settles O26: a store at home is a merge in one sector, and a sector written back keeps bytes and mark. -/
theorem homeMemoryHolds : Obligations.HomeMemoryHolds := by
  unfold Obligations.HomeMemoryHolds
  refine ⟨fun m isSealed tick quad through orders sec mask data pa => ?_, fun m sec pa => ⟨?_, writeBack_poisoned pa⟩⟩
  · have low : pa % 64 < 64 := Nat.mod_lt _ (by decide)
    rw [MemSys.homeByte, homeStore_sector]
    by_cases h : isSealed sec = false ∧ pa / 64 = sec
    · obtain ⟨h1, h2⟩ := h
      rw [if_pos ⟨h1, h2⟩, Line.byte_merge _ _ _ low, MemSys.homeByte, h2]
      simp [h1]
    · rw [if_neg h, if_neg fun h' => h ⟨h'.1, h'.2.1⟩]
      rfl
  · have low : pa % 64 < 64 := Nat.mod_lt _ (by decide)
    rw [MemSys.homeByte, MemSys.homeByte]
    by_cases e : pa / 64 = sec
    · cases h : m.l2.get? sec with
      | none => rw [writeBack_none h]
      | some x =>
        rw [e, writeBack_byte_self h low, MemSys.sector, h]
    · rw [writeBack_sector_ne e]

/-! The datum core's SRAM (15 R580, R581). -/

theorem leBytes_getElem (n v : Nat) {k : Nat} (hk : k < (leBytes n v).length) : (leBytes n v)[k] = BitVec.ofNat 8 (v / 256 ^ k) := by
  induction n generalizing v k with
  | zero => simp at hk
  | succ n ih =>
    cases k with
    | zero => simp [leBytes]
    | succ k =>
      simp only [leBytes, List.getElem_cons_succ]
      rw [ih, Nat.div_div_eq_div_mul, Nat.pow_succ']

theorem wakeLine_foldl_dc (l : List Nat) (s : State) : (l.foldl State.wakeLine s).mem = s.mem ∧
    (l.foldl State.wakeLine s).cores = s.cores ∧ (l.foldl State.wakeLine s).dc.sram = s.dc.sram := by
  induction l generalizing s with
  | nil => exact ⟨rfl, rfl, rfl⟩
  | cons a l ih => exact ih _

/-- A store to SRAM changes its bytes and no other memory. -/
theorem sramStore_fields (s : State) (firmware : Bool) (off : Nat) (bs : List Byte) :
    (s.sramStore firmware off bs).mem = s.mem ∧ (s.sramStore firmware off bs).cores = s.cores ∧
    (s.sramStore firmware off bs).dc.sram = s.dc.sram.setBytes off bs := by
  unfold State.sramStore
  dsimp only
  generalize List.map _ _ = lines
  have woken := wakeLine_foldl_dc lines { s with dc := { s.dc with sram := s.dc.sram.setBytes off bs } }
  split
  · unfold State.raiseIbi
    split <;> exact woken
  · exact woken

theorem datumAddr_sram {a n : Nat} (h1 : 0x100000 ≤ a) (h2 : a + n ≤ 0x200000) : datumAddr a n = .sram (a - 0x100000) := by
  have rom : (decide (0 ≤ a) && decide (a + n ≤ 0 + 0x10000)) = false := by
    simp
    omega
  have sram : (decide (0x100000 ≤ a) && decide (a + n ≤ 0x100000 + 0x100000)) = true := by
    simp
    omega
  unfold datumAddr
  dsimp only
  rw [if_neg (by rw [rom]; exact Bool.false_ne_true), if_pos sram]

/-- Settles O25: an address in range is one of SRAM, and a store to SRAM writes its bytes. -/
theorem datumSramHolds : Obligations.DatumSramHolds := by
  unfold Obligations.DatumSramHolds
  intro s through ch ea n w hc hn0 hn8 h1 h2
  have addr := datumAddr_sram h1 h2
  refine ⟨?_, s.sramStore true (ea - 0x100000) (leBytes n w.toNat), ?_, ?_⟩
  · rw [Loads, scalarLoad, bind_ok (get_ok s), if_pos (by rw [hc]; rfl), datumLoad, bind_ok (get_ok s), addr]
    rfl
  · rw [Stores, scalarStore, bind_ok (get_ok s), if_pos (by rw [hc]; rfl), datumStore, bind_ok (get_ok s)]
    dsimp only
    rw [leBytes_length, addr]
    rfl
  · obtain ⟨hm, hk, hs⟩ := sramStore_fields s true (ea - 0x100000) (leBytes n w.toNat)
    rw [hs]
    refine ⟨hm, hk, fun k hkn => ?_, fun a ha => ?_⟩
    · have len : k < (leBytes n w.toNat).length := by rwa [leBytes_length]
      rw [Memory.get_setBytes_in _ _ _ _ len, leBytes_getElem]
    · exact Memory.get_setBytes_out _ _ _ _ (by rwa [leBytes_length])

end Sys2Proof.Machine
end

section
/-! SUPPORT. Meanings taken apart, and what a hart's stores to and loads from its scratchpad do (06 R251, R252, R285). -/

set_option Elab.async false

namespace Sys2Proof.Machine

open Sys2Proof

/-! Meanings taken apart. -/

/-- A sequence that ends well has two parts that do. -/
theorem bind_eq_ok {α β : Type} {x : M α} {f : α → M β} {s t : State} {b : β} (h : (x >>= f) s = .ok b t) :
    ∃ a u, x s = .ok a u ∧ f a u = .ok b t := by
  simp only [bind, EStateM.bind] at h
  cases hx : x s with
  | ok a u =>
    rw [hx] at h
    exact ⟨a, u, rfl, h⟩
  | error e u =>
    rw [hx] at h
    exact nomatch h

theorem get_bind_eq_ok {β : Type} {f : State → M β} {s t : State} {b : β} (h : ((get : M State) >>= f) s = .ok b t) :
    f s s = .ok b t := h

theorem pure_eq_ok {α : Type} {a b : α} {s t : State} (h : (pure a : M α) s = .ok b t) : b = a ∧ t = s := by
  simp only [pure, EStateM.pure, EStateM.Result.ok.injEq] at h
  exact ⟨h.1.symm, h.2.symm⟩

theorem modify_bind_eq_ok {β : Type} {g : State → State} {f : PUnit → M β} {s t : State} {b : β}
    (h : ((modify g : M PUnit) >>= f) s = .ok b t) : f ⟨⟩ (g s) = .ok b t := h

/-- A meaning that ends well has passed its checks. -/
theorem check_eq_ok {α : Type} {p : Prop} [Decidable p] {e : Exc} {y : M α} {s t : State} {b : α}
    (h : (if p then throw e else y) s = .ok b t) : ¬p ∧ y s = .ok b t := by
  split at h
  · exact nomatch h
  · exact ⟨‹_›, h⟩

theorem tryCatch_ok {α : Type} {x : M α} {f : Exc → M α} {s t : State} {a : α} (h : x s = .ok a t) :
    tryCatch x f s = .ok a t := by
  simp only [tryCatch, tryCatchThe, MonadExceptOf.tryCatch, EStateM.tryCatch, h]

theorem tryCatch_error {α : Type} {x : M α} {f : Exc → M α} {s t : State} {e : Exc} (h : x s = .error e t) :
    tryCatch x f s = f e t := by
  simp only [tryCatch, tryCatchThe, MonadExceptOf.tryCatch, EStateM.tryCatch, h]
  rfl

theorem bind_error {α β : Type} {x : M α} {f : α → M β} {s t : State} {e : Exc} (h : x s = .error e t) :
    (x >>= f) s = .error e t := by
  simp only [bind, EStateM.bind, h]

/-! Changes of the step's notes. -/

/-- The memories, the launches and the executing party are as they were, and so are the serials and side logs of harts. -/
structure NotesOnly (s t : State) : Prop where
  mem : t.mem = s.mem
  cores : t.cores = s.cores
  arrays : t.arrays = s.arrays
  ov : t.ov = s.ov
  sram : t.dc.sram = s.dc.sram
  launches : t.la.launches = s.la.launches
  cur : t.cur = s.cur
  harts : ∀ slot, (t.hart slot).serial = (s.hart slot).serial ∧ (t.hart slot).sideLog = (s.hart slot).sideLog

theorem NotesOnly.refl (s : State) : NotesOnly s s := ⟨rfl, rfl, rfl, rfl, rfl, rfl, rfl, fun _ => ⟨rfl, rfl⟩⟩

theorem NotesOnly.trans {s t u : State} (h1 : NotesOnly s t) (h2 : NotesOnly t u) : NotesOnly s u :=
  ⟨h2.mem.trans h1.mem, h2.cores.trans h1.cores, h2.arrays.trans h1.arrays, h2.ov.trans h1.ov, h2.sram.trans h1.sram,
    h2.launches.trans h1.launches, h2.cur.trans h1.cur,
    fun slot => ⟨(h2.harts slot).1.trans (h1.harts slot).1, (h2.harts slot).2.trans (h1.harts slot).2⟩⟩

theorem NotesOnly.sameMemory {s t : State} (h : NotesOnly s t) : SameMemory s t := ⟨h.mem, h.cores, h.arrays, h.ov, h.sram⟩

/-- A hart changed in neither its serial nor its log. -/
theorem NotesOnly.setHart {s : State} {slot : Nat} {h : Hart} (h1 : h.serial = (s.hart slot).serial)
    (h2 : h.sideLog = (s.hart slot).sideLog) : NotesOnly s (s.setHart slot h) := by
  refine ⟨rfl, rfl, rfl, rfl, rfl, rfl, rfl, fun slot' => ?_⟩
  by_cases e : slot' = slot
  · rw [e, State.hart_setHart]
    exact ⟨h1, h2⟩
  · rw [State.hart, State.setHart_harts, Assoc.get_put_ne _ _ _ e]
    exact ⟨rfl, rfl⟩

theorem NotesOnly.setStream (s : State) (p : Party) (st : Stream) : NotesOnly s (s.setStream p st) := by
  cases p with
  | datum => exact ⟨rfl, rfl, rfl, rfl, rfl, rfl, rfl, fun _ => ⟨rfl, rfl⟩⟩
  | stream slot isX => exact .setHart (by cases isX <;> rfl) (by cases isX <;> rfl)

theorem NotesOnly.upHart {s : State} {f : Hart → Hart} (h : ∀ k, (f k).serial = k.serial ∧ (f k).sideLog = k.sideLog) :
    NotesOnly s (s.upHart f) := .setHart (h _).1 (h _).2

theorem NotesOnly.upStream (s : State) (f : Stream → Stream) : NotesOnly s (s.upStream f) := .setStream ..

section
variable {s t : State} {c : Ctx} {va n elem : Nat} {k : AKind}

theorem checkWatch_ok {u : Unit} (h : checkWatch va n k s = .ok u t) : t = s := by
  unfold checkWatch at h
  rw [bind_ok (curHart_ok s)] at h
  exact (pure_eq_ok (check_eq_ok h).2).2

theorem noteReq_ok {u : Unit} (h : noteReq elem va k s = .ok u t) : NotesOnly s t := by
  unfold noteReq at h
  rw [bind_ok (curHart_ok s)] at h
  split at h
  · rw [(pure_eq_ok h).2]
    exact .refl s
  · cases h
    exact ⟨rfl, rfl, rfl, rfl, rfl, rfl, rfl, fun _ => ⟨rfl, rfl⟩⟩

theorem loadGate_ok {u : Unit} (h : loadGate c va n s = .ok u t) : t = s := by
  unfold loadGate at h
  rw [bind_ok (curHart_ok s)] at h
  split at h
  · exact nomatch h
  cases hf : (s.hart s.cur.slot).trains.find? fun t => t.covers va n with
  | some tr =>
    rw [hf] at h
    dsimp only at h
    split at h
    · obtain ⟨a, u, -, h⟩ := bind_eq_ok h
      exact nomatch h
    · exact nomatch h
  | none =>
    rw [hf] at h
    have h := get_bind_eq_ok h
    split at h
    · exact nomatch h
    · exact (pure_eq_ok h).2

theorem meetArea_ok {b : Bool} (h : meetArea c va n s = .ok b t) : NotesOnly s t := by
  unfold meetArea at h
  have h := get_bind_eq_ok h
  cases hx : s.exchangeHit c.serial va n with
  | none =>
    rw [hx] at h
    rw [(pure_eq_ok h).2]
    exact .refl s
  | some x =>
    rw [hx] at h
    cases h
    exact ⟨rfl, rfl, rfl, rfl, rfl, rfl, rfl, fun _ => ⟨rfl, rfl⟩⟩

/-- No exchange area lies in a window: those are global addresses (06 R251; 07 R313). -/
theorem meetArea_window (h : va / 2 ^ 57 ≠ 0) : meetArea c va n s = .ok false s := by
  unfold meetArea
  rw [bind_ok (get_ok s)]
  have none : s.exchangeHit c.serial va n = none := by
    unfold State.exchangeHit
    split
    · rfl
    · rw [if_pos h]
  rw [none]
  rfl

theorem foldHash_ok {bs : List Byte} {u : Unit} (h : foldHash va bs s = .ok u t) : NotesOnly s t := by
  unfold foldHash at h
  rw [bind_ok (show curLaunch? s = .ok (s.launchOf s.cur.slot) s from rfl)] at h
  cases hl : s.launchOf s.cur.slot with
  | none =>
    rw [hl] at h
    rw [(pure_eq_ok h).2]
    exact .refl s
  | some l =>
    rw [hl] at h
    dsimp only at h
    split at h
    · rw [modStream_ok] at h
      cases h
      exact .setStream ..
    · rw [(pure_eq_ok h).2]
      exact .refl s

theorem takeSerial_ok {i : Nat} (h : takeSerial s = .ok i t) : NotesOnly s t := by
  unfold takeSerial at h
  rw [bind_ok (show curStream s = .ok (s.stream s.cur) s from rfl)] at h
  cases hs : (s.stream s.cur).logSerial with
  | some x =>
    rw [hs] at h
    rw [(pure_eq_ok h).2]
    exact .refl s
  | none =>
    rw [hs] at h
    dsimp only at h
    rw [bind_ok (curHart_ok s), bind_ok (modHart_ok ..), bind_ok (modStream_ok ..)] at h
    rw [(pure_eq_ok h).2]
    refine NotesOnly.trans ?_ (NotesOnly.upStream _ _)
    exact NotesOnly.upHart fun _ => ⟨rfl, rfl⟩

/-! The scratchpad window (06 R252). -/

theorem addrKind_scratch_top {core off own : Nat} (h : addrKind own va = .scratch core off) : va / 2 ^ 57 ≠ 0 := by
  intro h0
  rw [addrKind, if_pos h0] at h
  exact nomatch h

/-- A window access reaches its launch's scratchpad there, or traps with nothing done (06 R252). -/
theorem scratchAt_cases (c : Ctx) (va core off n : Nat) (s : State) :
    (∃ x, scratchAt c va core off n s = .ok x s ∧ (s.core core).scratch? c.serial = some x) ∨
    ∃ cause tval, scratchAt c va core off n s = .error (.trap cause tval) s := by
  unfold scratchAt
  rw [bind_ok (get_ok s)]
  cases hy : (s.core core).scratch? c.serial with
  | none => exact .inr ⟨_, _, rfl⟩
  | some y =>
    dsimp only
    split
    · exact .inr ⟨_, _, rfl⟩
    split
    · exact .inr ⟨_, _, rfl⟩
    · exact .inl ⟨y, rfl, rfl⟩

end

/-! The scratchpad of a launch on a core. -/

/-- What a store leaves of a launch's scratchpad. -/
def Scratch.stored (x : Scratch) (off : Nat) (bs : List Byte) : Scratch :=
  { x with data := x.data.setBytes off bs
           written := insertNat (off / 64) x.written
           dirty := insertNat (off / 64) x.dirty
           poison := if off % 64 = 0 && bs.length = 64 then x.poison.filter (· != off / 64) else x.poison }

/-- A core with a launch's scratchpad changed. -/
def Core.updScratch (k : Core) (serial : Word) (f : Scratch → Scratch) : Core :=
  { k with scratch := k.scratch.map fun x => if x.serial == serial then f x else x }

theorem scratch?_updScratch (k : Core) (serial serial' : Word) (f : Scratch → Scratch) (hf : ∀ x, (f x).serial = x.serial) :
    (k.updScratch serial f).scratch? serial' =
      if serial' = serial then (k.scratch? serial).map f else k.scratch? serial' := by
  unfold Core.scratch? Core.updScratch
  dsimp only
  generalize k.scratch = l
  induction l with
  | nil => simp
  | cons x l ih =>
    rw [List.map_cons, List.find?_cons, List.find?_cons, List.find?_cons, ih]
    by_cases e : x.serial = serial
    · rw [if_pos (beq_iff_eq.2 e), hf]
      by_cases e' : serial' = serial
      · simp [e, e']
      · have ne : (x.serial == serial') = false := beq_false_of_ne fun h => e' (h.symm.trans e)
        rw [ne, if_neg e', if_neg e']
    · rw [if_neg (fun h => e (beq_iff_eq.1 h)), beq_false_of_ne e]
      by_cases e' : serial' = serial
      · rw [if_pos e', e', beq_false_of_ne e, if_pos rfl]
      · rw [if_neg e', if_neg e']

theorem wakeLine_cores (s : State) (key : Nat) : (s.wakeLine key).cores = s.cores := rfl

/-- A store to a scratchpad changes that launch's bytes on the core, and on the shadow's under PAIR (04 R175). -/
theorem scratchStore_cores (s : State) (core : Nat) (serial : Word) (off : Nat) (bs : List Byte) :
    (∀ c, c ≠ core → (s.lockstep serial = true → c ≠ core + 4) → (s.scratchStore core serial off bs).core c = s.core c) ∧
    (∀ serial', serial' ≠ serial →
      ((s.scratchStore core serial off bs).core core).scratch? serial' = (s.core core).scratch? serial') ∧
    ((s.scratchStore core serial off bs).core core).scratch? serial =
      ((s.core core).scratch? serial).map fun x => x.stored off bs := by
  have self := fun (k : Core) serial' => scratch?_updScratch k serial serial' (fun x => x.stored off bs) fun _ => rfl
  have ne : ∀ (s : State) (c c' : Nat) (k : Core), c ≠ c' → (s.setCore c' k).core c = s.core c := fun s c c' k h => by
    rw [State.core, State.setCore_cores, Assoc.get_put_ne _ _ _ h]
    rfl
  have cores : (s.scratchStore core serial off bs).cores = (s.updScratch core serial fun x => x.stored off bs).cores := rfl
  have at_ : ∀ c, (s.scratchStore core serial off bs).core c = (s.updScratch core serial fun x => x.stored off bs).core c :=
    fun c => by rw [State.core, cores]; rfl
  simp only [at_]
  have upd : (s.updScratch core serial fun x => x.stored off bs) =
      let t := s.setCore core ((s.core core).updScratch serial fun x => x.stored off bs)
      if s.lockstep serial then t.setCore (core + 4) ((t.core (core + 4)).updScratch serial fun x => x.stored off bs) else t := rfl
  rw [upd]
  dsimp only
  split
  · rename_i hl
    have other : core ≠ core + 4 := by omega
    refine ⟨fun c h1 h2 => ?_, fun serial' hs => ?_, ?_⟩
    · rw [ne _ _ _ _ (h2 hl), ne _ _ _ _ h1]
    · rw [ne _ _ _ _ other, State.core_setCore, self, if_neg hs]
    · rw [ne _ _ _ _ other, State.core_setCore, self, if_pos rfl]
  · refine ⟨fun c h1 _ => ne _ _ _ _ h1, fun serial' hs => ?_, ?_⟩
    · rw [State.core_setCore, self, if_neg hs]
    · rw [State.core_setCore, self, if_pos rfl]

theorem scratchStore_fields (s : State) (core : Nat) (serial : Word) (off : Nat) (bs : List Byte) :
    (s.scratchStore core serial off bs).mem = s.mem ∧ (s.scratchStore core serial off bs).arrays = s.arrays ∧
    (s.scratchStore core serial off bs).ov = s.ov := by
  unfold State.scratchStore State.updScratch
  dsimp only
  split <;> exact ⟨rfl, rfl, rfl⟩

/-! A store and a load of a hart there. -/

section
variable {s t : State} {c : Ctx} {va : Nat} {bs : List Byte} {core off : Nat}

theorem storeRaw_scratch (ha : addrKind c.core va = .scratch core off) (ho : c.order = none) :
    storeRaw c va bs s = .ok none (s.scratchStore core c.serial off bs) ∨
    ∃ cause tval, storeRaw c va bs s = .error (.trap cause tval) s := by
  have after : afterOrder c s = .ok () s := by
    unfold afterOrder
    rw [ho]
    rfl
  unfold storeRaw
  dsimp only
  rw [ha]
  dsimp only
  rcases scratchAt_cases c va core off bs.length s with ⟨x, hx, -⟩ | ⟨cause, tval, hx⟩
  · rw [bind_ok hx, bind_ok after]
    exact .inl rfl
  · refine .inr ⟨cause, tval, ?_⟩
    simp only [bind, EStateM.bind, hx]

/-- Behind nothing logged, a hart's store to its scratchpad performs at once (06 R264, R265). -/
theorem hartStoreCore_scratch {serial : Nat} {r : Option (Nat × Nat) × Bool} (ha : addrKind c.core va = .scratch core off)
    (ho : c.order = none) (hl : (s.hart s.cur.slot).sideLog = []) (h : hartStoreCore c va bs serial false s = .ok r t) :
    r.1 = none ∧ NotesOnly (s.scratchStore core c.serial off bs) t := by
  unfold hartStoreCore at h
  obtain ⟨_, u, hw, h1⟩ := bind_eq_ok h
  rw [checkWatch_ok hw] at h1
  have free : ¬(false || (s.hart s.cur.slot).logged c.asid va bs.length) = true := by
    rw [Hart.logged, hl]
    exact Bool.false_ne_true
  dsimp only at h1
  rw [bind_ok (curHart_ok s), if_neg free] at h1
  rcases storeRaw_scratch (s := s) (bs := bs) ha ho with hs | ⟨cause, tval, hs⟩
  · have done : (storeRaw c va bs >>= fun x => (pure (Sum.inl x) : M (Option (Nat × Nat) ⊕ Option Nat))) s =
        .ok (.inl none) (s.scratchStore core c.serial off bs) := bind_ok hs
    rw [bind_ok (tryCatch_ok done)] at h1
    obtain ⟨_, v, hr, h2⟩ := bind_eq_ok h1
    obtain ⟨rfl, rfl⟩ := pure_eq_ok hr
    obtain ⟨_, v, hn, h3⟩ := bind_eq_ok h2
    obtain ⟨rfl, rfl⟩ := pure_eq_ok h3
    exact ⟨rfl, noteReq_ok hn⟩
  · have failed : (storeRaw c va bs >>= fun x => (pure (Sum.inl x) : M (Option (Nat × Nat) ⊕ Option Nat))) s =
        .error (.trap cause tval) s := bind_error hs
    obtain ⟨_, v, ht, -⟩ := bind_eq_ok h1
    exact nomatch (tryCatch_error failed).symm.trans ht

/-- A hart's scalar store to its scratchpad leaves the bytes there and the step's notes (05 R224). -/
theorem scalarStore_scratch {slot : Nat} {isX through : Bool} {ch : Fin 4} {n : Nat} {w : Word} (hc : s.cur = .stream slot isX)
    (hl : (s.hart slot).sideLog = []) (ha : addrKind (coreOf slot) va = .scratch core off)
    (h : scalarStore ch va n w through s = .ok () t) :
    ∃ s1, NotesOnly s s1 ∧ NotesOnly (s1.scratchStore core (s.hart slot).serial off (leBytes n w.toNat)) t := by
  unfold scalarStore at h
  have h := get_bind_eq_ok h
  rw [if_neg (by rw [hc]; exact Bool.false_ne_true), bind_ok (show curTag s = .ok s.ovtWord s from rfl),
    bind_ok (show hartCtx ch s.ovtWord s = .ok (s.ctx ch) s from rfl)] at h
  have h := get_bind_eq_ok h
  obtain ⟨serial, u, hu, h1⟩ := bind_eq_ok h
  obtain ⟨⟨r, b⟩, v, hv, h2⟩ := bind_eq_ok h1
  have taken := takeSerial_ok hu
  obtain ⟨r', v1, hv1, h3⟩ := bind_eq_ok hv
  obtain ⟨_, v2, hf, h4⟩ := bind_eq_ok h3
  obtain ⟨rfl, rfl⟩ := pure_eq_ok h4
  obtain ⟨r'', v3, hv3, h5⟩ := bind_eq_ok hv1
  obtain ⟨_, v4, hm, h6⟩ := bind_eq_ok h5
  obtain ⟨rfl, rfl⟩ := pure_eq_ok h6
  have log : (u.hart u.cur.slot).sideLog = [] := by
    rw [(taken.harts _).2, taken.cur, hc]
    exact hl
  have kind : addrKind (s.ctx ch).core va = .scratch core off := by
    show addrKind (coreOf s.cur.slot) va = _
    rw [hc]
    exact ha
  obtain ⟨none, stored⟩ := hartStoreCore_scratch (c := { s.ctx ch with through, late := s.lateTurn && !through }) kind rfl log hv3
  have none : r = .none := none
  subst none
  have serial : (s.ctx ch).serial = (s.hart slot).serial := by
    show (s.hart s.cur.slot).serial = _
    rw [hc]
    rfl
  rw [← serial, (pure_eq_ok h2).2]
  exact ⟨u, taken, (stored.trans (meetArea_ok hm)).trans (foldHash_ok hf)⟩

/-- A hart's scalar load from its scratchpad gives the bytes there. -/
theorem scalarLoad_scratch {slot : Nat} {isX : Bool} {ch : Fin 4} {n v : Nat} {x : Scratch} (hc : s.cur = .stream slot isX)
    (ha : addrKind (coreOf slot) va = .scratch core off) (hx : (s.core core).scratch? (s.hart slot).serial = some x)
    (h : scalarLoad ch va n s = .ok v t) : v = leNat (x.data.bytes off n) ∧ NotesOnly s t := by
  unfold scalarLoad at h
  have h := get_bind_eq_ok h
  rw [if_neg (by rw [hc]; exact Bool.false_ne_true), bind_ok (show curTag s = .ok s.ovtWord s from rfl),
    bind_ok (show hartCtx ch s.ovtWord s = .ok (s.ctx ch) s from rfl)] at h
  obtain ⟨v0, u, hv, h1⟩ := bind_eq_ok h
  rw [bind_ok (meetArea_window (addrKind_scratch_top ha))] at h1
  obtain ⟨rfl, rfl⟩ := pure_eq_ok h1
  obtain ⟨_, u1, hw, h2⟩ := bind_eq_ok hv
  obtain ⟨_, u2, hn, h3⟩ := bind_eq_ok h2
  obtain ⟨_, u3, hg, h4⟩ := bind_eq_ok h3
  obtain ⟨⟨v1, po⟩, u4, hr, h5⟩ := bind_eq_ok h4
  obtain ⟨-, h6⟩ := check_eq_ok h5
  obtain ⟨rfl, rfl⟩ := pure_eq_ok h6
  rw [checkWatch_ok hw] at hn
  have notes := noteReq_ok hn
  rw [loadGate_ok hg] at hr
  have kind : addrKind (s.ctx ch).core va = .scratch core off := by
    show addrKind (coreOf s.cur.slot) va = _
    rw [hc]
    exact ha
  unfold loadRaw at hr
  rw [kind] at hr
  dsimp only at hr
  rcases scratchAt_cases (s.ctx ch) va core off n u2 with ⟨y, hy, hfind⟩ | ⟨cause, tval, hy⟩
  · rw [bind_ok hy, bind_ok (get_ok u2)] at hr
    have same : y = x := by
      have : (u2.core core).scratch? (s.hart s.cur.slot).serial = some y := hfind
      rw [State.core, notes.cores, hc] at this
      exact Option.some.inj (this.symm.trans hx)
    cases hr
    rw [same]
    exact ⟨rfl, notes⟩
  · rw [bind_error hy] at hr
    exact nomatch hr

end

/-- Settles O24: a scratchpad is `Scratch.stored` by a store, and a load reads it; the rest is the step's notes. -/
theorem scratchpadHolds : Obligations.ScratchpadHolds := by
  unfold Obligations.ScratchpadHolds
  refine ⟨fun s s' slot isX through ch ea n core off w x hc hl ha hx hs => ?_,
    fun s s' slot isX ch ea n core off v x hc ha hx hv => ?_⟩
  · obtain ⟨s1, before, after⟩ := scalarStore_scratch hc hl ha hs
    obtain ⟨other, serials, self⟩ := scratchStore_cores s1 core (s.hart slot).serial off (leBytes n w.toNat)
    obtain ⟨mem, arrays, ov⟩ := scratchStore_fields s1 core (s.hart slot).serial off (leBytes n w.toNat)
    have cores : ∀ c, s'.core c = (s1.scratchStore core (s.hart slot).serial off (leBytes n w.toNat)).core c := fun c => by
      rw [State.core, after.cores]
      rfl
    have cores1 : ∀ c, s1.core c = s.core c := fun c => by
      rw [State.core, before.cores]
      rfl
    have pair : s1.lockstep (s.hart slot).serial = s.lockstep (s.hart slot).serial := by
      unfold State.lockstep State.launch?
      rw [before.launches]
    refine ⟨after.mem.trans (mem.trans before.mem), after.arrays.trans (arrays.trans before.arrays),
      after.ov.trans (ov.trans before.ov), fun c h1 h2 => ?_, fun serial h1 => ?_, x.stored off (leBytes n w.toNat), ?_, ?_, ?_⟩
    · rw [cores, other c h1 (by rwa [pair]), cores1]
    · rw [cores, serials serial h1, cores1]
    · rw [cores, self, cores1, hx]
      rfl
    · intro k hk
      have len : k < (leBytes n w.toNat).length := by rwa [leBytes_length]
      exact (Memory.get_setBytes_in _ _ _ _ len).trans (leBytes_getElem ..)
    · exact fun a h => Memory.get_setBytes_out _ _ _ _ (by rwa [leBytes_length])
  · obtain ⟨value, notes⟩ := scalarLoad_scratch hc ha hx hv
    exact ⟨value, notes.sameMemory⟩

end Sys2Proof.Machine
end

section
/-! SUPPORT. What writes at home leave alone, and fences (01 R44, R58; 05 R227; 06 R245..R248; 07 R308, R310). -/

set_option Elab.async false

namespace Sys2Proof.Machine

open Sys2Proof

/-- A fold whose steps keep what a function gives keeps it. -/
theorem foldl_keeps {α β γ : Type} (g : α → γ) {f : α → β → α} (h : ∀ a b, g (f a b) = g a) (l : List β) (a : α) :
    g (l.foldl f a) = g a := by
  induction l generalizing a with
  | nil => rfl
  | cons b l ih => exact (ih _).trans (h a b)

theorem ite_keeps {α β : Type} (g : α → β) {p : Prop} [Decidable p] {a b : α} {c : β} (ha : g a = c) (hb : g b = c) :
    g (if p then a else b) = c := by
  split
  · exact ha
  · exact hb

/-! Writes at home. -/

/-- What the writes of engines and of drained entries leave: of harts only the waits of streams change, of memory neither
budgets nor rounds, the readiness map stays, and of a buffer its oldest entries may be gone. -/
structure HomeOnly (s t : State) : Prop where
  cur : t.cur = s.cur
  issue : t.issue = s.issue
  ready : t.dc.ready = s.dc.ready
  budget : t.mem.budget = s.mem.budget
  rounds : t.mem.rounds = s.mem.rounds
  hart : ∀ slot, t.hart slot = { s.hart slot with sa := (t.hart slot).sa, sx := (t.hart slot).sx }
  stream : ∀ p, t.stream p = { s.stream p with waiting := (t.stream p).waiting }
  buffers : ∀ c, (t.core c).wcb <:+ (s.core c).wcb

theorem HomeOnly.refl (s : State) : HomeOnly s s := ⟨rfl, rfl, rfl, rfl, rfl, fun _ => rfl, fun _ => rfl, fun _ => List.suffix_rfl⟩

theorem HomeOnly.trans {s t u : State} (h1 : HomeOnly s t) (h2 : HomeOnly t u) : HomeOnly s u where
  cur := h2.cur.trans h1.cur
  issue := h2.issue.trans h1.issue
  ready := h2.ready.trans h1.ready
  budget := h2.budget.trans h1.budget
  rounds := h2.rounds.trans h1.rounds
  hart slot := by rw [h2.hart, h1.hart]
  stream p := by rw [h2.stream, h1.stream]
  buffers c := (h2.buffers c).trans (h1.buffers c)

theorem HomeOnly.foldl {α : Type} {f : State → α → State} (h : ∀ s a, HomeOnly s (f s a)) (l : List α) (s : State) :
    HomeOnly s (l.foldl f s) := by
  induction l generalizing s with
  | nil => exact .refl s
  | cons a l ih => exact (h s a).trans (ih _)

/-- A stream that sees a store to a line that it waits on. -/
def Stream.woken (st : Stream) (key : Nat) : Stream :=
  match st.waiting with
  | some ws => if ws.line = some key then { st with waiting := some { ws with stored := true } } else st
  | none => st

theorem Stream.woken_eq (st : Stream) (key : Nat) : st.woken key = { st with waiting := (st.woken key).waiting } := by
  unfold Stream.woken
  split
  · split <;> rfl
  · rfl

/-- A hart whose streams see a store to a line. -/
def Hart.woken (h : Hart) (key : Nat) : Hart := { h with sa := h.sa.woken key, sx := h.sx.woken key }

theorem wakeLine_hart? (s : State) (key slot : Nat) : (s.wakeLine key).hart? slot = (s.hart? slot).map fun h => h.woken key :=
  Assoc.get?_map (fun h : Hart => h.woken key) s.harts slot

theorem wakeLine_homeOnly (s : State) (key : Nat) : HomeOnly s (s.wakeLine key) where
  cur := rfl
  issue := rfl
  ready := rfl
  budget := rfl
  rounds := rfl
  hart slot := by
    rw [State.hart, State.hart, Assoc.get, Assoc.get, ← State.hart?, ← State.hart?, wakeLine_hart?]
    cases s.hart? slot <;> rfl
  stream p := by
    cases p with
    | datum => exact Stream.woken_eq ..
    | stream slot isX =>
      rw [State.stream, State.stream, State.stream?, State.stream?, wakeLine_hart?]
      cases s.hart? slot with
      | none => rfl
      | some h => cases isX <;> exact Stream.woken_eq ..
  buffers _ := List.suffix_rfl

theorem evictL2_homeOnly (s : State) (quad line : Nat) : HomeOnly s (s.evictL2 quad line) := by
  have step : ∀ (m : MemSys) (a : Nat), (m.writeBack a).budget = m.budget ∧ (m.writeBack a).rounds = m.rounds := by
    intro m a
    unfold MemSys.writeBack
    split <;> exact ⟨rfl, rfl⟩
  have back := fun (l : List Nat) (m : MemSys) => And.intro (foldl_keeps MemSys.budget (fun m a => (step m a).1) l m)
    (foldl_keeps MemSys.rounds (fun m a => (step m a).2) l m)
  refine ⟨rfl, rfl, rfl, ?_, ?_, fun _ => rfl, fun _ => rfl, fun c => (evictL2_buffers s quad line c) ▸ List.suffix_rfl⟩
  · unfold State.evictL2
    dsimp only
    split
    · exact (back _ _).1
    · rfl
  · unfold State.evictL2
    dsimp only
    split
    · exact (back _ _).2
    · rfl

/-- A change of memory that keeps budgets and rounds. -/
theorem HomeOnly.setMem {s : State} {m : MemSys} (h1 : m.budget = s.mem.budget) (h2 : m.rounds = s.mem.rounds) :
    HomeOnly s (s.setMem m) := ⟨rfl, rfl, rfl, h1, h2, fun _ => rfl, fun _ => rfl, fun _ => List.suffix_rfl⟩

theorem touchL2_homeOnly (s : State) (quad line : Nat) (last : Bool) : HomeOnly s (s.touchL2 quad line last) := by
  unfold State.touchL2
  dsimp only
  split
  · exact (evictL2_homeOnly s quad _).trans ⟨rfl, rfl, rfl, rfl, rfl, fun _ => rfl, fun _ => rfl, fun _ => List.suffix_rfl⟩
  · exact ⟨rfl, rfl, rfl, rfl, rfl, fun _ => rfl, fun _ => rfl, fun _ => List.suffix_rfl⟩

theorem dropRows_homeOnly (s : State) (pa n : Nat) : HomeOnly s (s.dropRows pa n) :=
  ⟨rfl, rfl, rfl, rfl, rfl, fun _ => rfl, fun _ => rfl, fun _ => List.suffix_rfl⟩

theorem MemSys.homeStore_budget (m : MemSys) (f : Nat → Bool) (tick : Nat) (quad : Option Nat) (through : Bool)
    (orders : List (Nat × Nat)) (sec : Nat) (mask : BitVec 64) (data : Line) :
    (m.homeStore f tick quad through orders sec mask data).budget = m.budget ∧
    (m.homeStore f tick quad through orders sec mask data).rounds = m.rounds := by
  unfold MemSys.homeStore
  split <;> exact ⟨rfl, rfl⟩

theorem MemSys.homeWriteBytes_budget (m : MemSys) (f : Nat → Bool) (tick pa : Nat) (bs : List Byte) :
    (m.homeWriteBytes f tick pa bs).budget = m.budget ∧ (m.homeWriteBytes f tick pa bs).rounds = m.rounds := by
  unfold MemSys.homeWriteBytes
  exact ⟨foldl_keeps _ (fun m i => ite_keeps _ rfl (m.homeStore_budget ..).1) _ _,
    foldl_keeps _ (fun m i => ite_keeps _ rfl (m.homeStore_budget ..).2) _ _⟩

theorem homeWriteBytes_homeOnly (s : State) (pa : Nat) (bs : List Byte) : HomeOnly s (s.homeWriteBytes pa bs) := by
  have lines := (dropRows_homeOnly s pa bs.length).trans (HomeOnly.foldl
    (fun s i => touchL2_homeOnly s (homeQuad pa) (pa / 256 + i) false) (List.range ((pa % 256 + bs.length + 255) / 256)) _)
  unfold State.homeWriteBytes
  dsimp only
  generalize List.foldl _ _ _ = t at lines ⊢
  obtain ⟨h1, h2⟩ := t.mem.homeWriteBytes_budget t.sealedSec t.tick pa bs
  exact (lines.trans (.setMem h1 h2)).trans (HomeOnly.foldl (fun s i => wakeLine_homeOnly s (pa / 64 + i)) _ _)

theorem HomeOnly.setLaunch (s : State) (l : Launch) : HomeOnly s (s.setLaunch l) :=
  ⟨rfl, rfl, rfl, rfl, rfl, fun _ => rfl, fun _ => rfl, fun _ => List.suffix_rfl⟩

theorem noteWrite_homeOnly (s : State) (serial : Word) (va pa : Nat) : HomeOnly s (s.noteWrite serial va pa) := by
  unfold State.noteWrite
  split
  · exact .refl s
  split
  · exact .refl s
  dsimp only
  split
  · exact .refl s
  split
  · exact .setLaunch ..
  · exact (homeWriteBytes_homeOnly s _ _).trans (.setLaunch ..)

theorem homePerform_homeOnly (s : State) (quad : Option Nat) (through : Bool) (orders : List (Nat × Nat)) (sec : Nat)
    (mask : BitVec 64) (data : Line) : HomeOnly s (s.homePerform quad through orders sec mask data) := by
  have line := (dropRows_homeOnly s (64 * sec) 64).trans (touchL2_homeOnly _ (homeQuad (64 * sec)) (sec / 4) false)
  unfold State.homePerform
  dsimp only
  generalize State.touchL2 _ _ _ _ = t at line ⊢
  obtain ⟨h1, h2⟩ := t.mem.homeStore_budget t.sealedSec t.tick quad through orders sec mask data
  exact (line.trans (.setMem h1 h2)).trans (wakeLine_homeOnly ..)

theorem drainEntry_homeOnly (s : State) (core : Nat) (e : WcbEntry) : HomeOnly s (s.drainEntry core e) := by
  unfold State.drainEntry
  exact (homePerform_homeOnly s _ _ _ _ _ _).trans (HomeOnly.foldl (fun s p => noteWrite_homeOnly s _ _ _) _ _)

/-- The oldest entries of a buffer drain. -/
theorem drainSome_homeOnly (s : State) (core n : Nat) : HomeOnly s (s.drainSome core n) := by
  unfold State.drainSome
  refine .trans (t := s.setCore core { s.core core with wcb := (s.core core).wcb.drop n })
    ⟨rfl, rfl, rfl, rfl, rfl, fun _ => rfl, fun _ => rfl, fun c => ?_⟩ (HomeOnly.foldl (fun s e => drainEntry_homeOnly s core e) _ _)
  by_cases e : c = core
  · rw [e, State.core_setCore]
    exact List.drop_suffix n _
  · rw [State.core, State.setCore_cores, Assoc.get_put_ne _ _ _ e]
    exact List.suffix_rfl

end Sys2Proof.Machine
end

section
/-! SUPPORT. What taking a place in the vector issue order leaves alone (04 R161, R162; 08 R335, R342, R343, R352). -/

set_option Elab.async false

namespace Sys2Proof.Machine

open Sys2Proof

/-- Of harts only groups, claims, entries and captures may have changed, and of cores who is owed groups. -/
structure Entered (s t : State) : Prop where
  rest : t = { s with harts := t.harts, cores := t.cores, dc := { s.dc with core := t.dc.core } }
  hart : ∀ slot, t.hart slot = { s.hart slot with
    lanes := (t.hart slot).lanes
    claim := (t.hart slot).claim
    inflight := (t.hart slot).inflight
    nextSerial := (t.hart slot).nextSerial
    sa := { (s.hart slot).sa with captured := (t.hart slot).sa.captured }
    sx := { (s.hart slot).sx with captured := (t.hart slot).sx.captured } }
  present : ∀ slot, (s.hart? slot).isSome → (t.hart? slot).isSome
  datum : t.dc.core = { s.dc.core with captured := t.dc.core.captured }
  core : ∀ c, t.core c = { s.core c with claims := (t.core c).claims, owed := (t.core c).owed }

theorem Entered.refl (s : State) : Entered s s := ⟨rfl, fun _ => rfl, fun _ h => h, rfl, fun _ => rfl⟩

theorem Entered.trans {s t u : State} (h1 : Entered s t) (h2 : Entered t u) : Entered s u where
  rest := by
    obtain ⟨harts, cores, core, rfl⟩ : ∃ harts cores core,
        t = { s with harts := harts, cores := cores, dc := { s.dc with core := core } } := ⟨_, _, _, h1.rest⟩
    exact h2.rest
  hart slot := by rw [h2.hart, h1.hart]
  present slot h := h2.present slot (h1.present slot h)
  datum := by rw [h2.datum, h1.datum]
  core c := by rw [h2.core, h1.core]

theorem Entered.foldl {α : Type} {f : State → α → State} (h : ∀ s a, Entered s (f s a)) (l : List α) (s : State) :
    Entered s (l.foldl f s) := by
  induction l generalizing s with
  | nil => exact .refl s
  | cons a l ih => exact (h s a).trans (ih _)

/-- A hart's groups, claim, entries and captures changed. -/
theorem Entered.setHart {s : State} {slot : Nat} {h : Hart} (hh : h = { s.hart slot with
      lanes := h.lanes
      claim := h.claim
      inflight := h.inflight
      nextSerial := h.nextSerial
      sa := { (s.hart slot).sa with captured := h.sa.captured }
      sx := { (s.hart slot).sx with captured := h.sx.captured } }) : Entered s (s.setHart slot h) where
  rest := rfl
  hart slot' := by
    by_cases e : slot' = slot
    · rw [e, State.hart_setHart]
      exact hh
    · rw [State.hart, State.setHart_harts, Assoc.get_put_ne _ _ _ e]
      rfl
  present slot' hs := by
    by_cases e : slot' = slot
    · rw [e, State.hart?, State.setHart_harts, Assoc.get?_put_self]
      rfl
    · rwa [State.hart?, State.setHart_harts, Assoc.get?_put_ne _ _ e]
  datum := rfl
  core _ := rfl

/-- A core's claims and debts changed. -/
theorem Entered.setCore {s : State} {c : Nat} {k : Core} (hk : k = { s.core c with claims := k.claims, owed := k.owed }) :
    Entered s (s.setCore c k) where
  rest := rfl
  hart _ := rfl
  present _ h := h
  datum := rfl
  core c' := by
    by_cases e : c' = c
    · rw [e, State.core_setCore]
      exact hk
    · rw [State.core, State.setCore_cores, Assoc.get_put_ne _ _ _ e]
      rfl

/-! Lane requests (04 R161, R162). -/

theorem setLanes_entered (s : State) (slot : Nat) (g : BitVec 4) : Entered s (s.setLanes slot g) := by
  unfold State.setLanes
  split
  · exact .setHart rfl
  · exact .refl s

theorem setClaim_entered (s : State) (slot n : Nat) : Entered s (s.setClaim slot n) :=
  (Entered.setHart (s := s) (slot := slot) rfl).trans (.setCore rfl)

theorem handOwed_entered (s : State) (slot : Nat) : Entered s (s.handOwed slot) := by
  refine (Entered.foldl (fun s j => ?_) _ s).trans (.setCore rfl)
  dsimp only
  split
  · exact .refl s
  · exact ((setLanes_entered ..).trans (setLanes_entered ..)).trans (setClaim_entered ..)

theorem laneRequest_entered (s : State) (slot g : Nat) : Entered s (s.laneRequest slot g) :=
  (((handOwed_entered s slot).trans (setLanes_entered ..)).trans (setClaim_entered ..)).trans (.setCore rfl)

theorem requestLanes_entered {g : Nat} {s t : State} {u : Unit} (h : requestLanes g s = .ok u t) :
    t = s.laneRequest s.cur.slot g ∧ (t.hart s.cur.slot).lanes ≠ 0 := by
  change (if _ then _ else _ : M Unit) s = _ at h
  split at h
  · replace h := bind_eq_ok h
    obtain ⟨_, v, hv, h⟩ := h
    obtain rfl : s.laneRequest s.cur.slot g = v := by injection hv
    split at h
    · exact nomatch h
    · exact ⟨(pure_eq_ok h).2, by rw [(pure_eq_ok h).2]; assumption⟩
  · exact nomatch h

theorem needLanes_entered {b : Nat} {s t : State} {u : Unit} (h : needLanes b s = .ok u t) : Entered s t := by
  change (if _ then _ else _ : M Unit) s = _ at h
  split at h
  · rw [(requestLanes_entered h).1]
    exact laneRequest_entered ..
  · rw [(pure_eq_ok h).2]
    exact .refl s

/-! The issue order (08 R342, R343). -/

theorem vecRoom_ok {s t : State} {u : Unit} (h : vecRoom s = .ok u t) : t = s := by
  change (if _ then _ else _ : M Unit) s = _ at h
  split at h
  · exact nomatch h
  · exact (pure_eq_ok h).2

theorem enterOrder_entered (s : State) (b : Nat) (rendezvous barrier : Bool) : Entered s (s.enterOrder b rendezvous barrier) := by
  unfold State.enterOrder
  dsimp only
  split
  · exact .refl s
  · exact .setHart rfl

theorem State.stream?_isSome_hart? {s : State} {slot : Nat} {isX : Bool} (h : (s.stream? (.stream slot isX)).isSome) :
    (s.hart? slot).isSome := by
  simpa only [State.stream?, Option.isSome_map] using h

theorem issued_entered {s : State} {p : Party} (hp : (s.stream? p).isSome) (c : Capture) :
    Entered s (s.setStream p ((s.stream p).issued c)) := by
  cases p with
  | datum => exact ⟨rfl, fun _ => rfl, fun _ h => h, rfl, fun _ => rfl⟩
  | stream slot isX =>
    rw [State.stream_eq_hart hp]
    cases isX <;> exact .setHart rfl

theorem Entered.cur {s t : State} (h : Entered s t) : t.cur = s.cur := by rw [h.rest]

theorem Entered.issue {s t : State} (h : Entered s t) : t.issue = s.issue := by rw [h.rest]

theorem Entered.stream? {s t : State} (h : Entered s t) {p : Party} (hp : (s.stream? p).isSome) : (t.stream? p).isSome := by
  cases p with
  | datum => rfl
  | stream slot isX => simpa only [State.stream?, Option.isSome_map] using h.present slot (State.stream?_isSome_hart? hp)

theorem Entered.stream {s t : State} (h : Entered s t) {p : Party} (hp : (s.stream? p).isSome) :
    t.stream p = { s.stream p with captured := (t.stream p).captured } := by
  cases p with
  | datum => exact h.datum
  | stream slot isX =>
    rw [State.stream_eq_hart (h.stream? hp), State.stream_eq_hart hp, h.hart slot]
    cases isX <;> rfl

/-- An instruction that takes its place changes nothing that a body reads but groups and entries. -/
theorem enters_entered {b : Nat} {rendezvous barrier : Bool} {s t : State} (hp : (s.stream? s.cur).isSome)
    (h : Enters b rendezvous barrier s t) : Entered s t := by
  change (if _ then _ else _ : M Unit) s = _ at h
  split at h
  · rw [(pure_eq_ok h).2]
    exact .refl s
  · obtain ⟨_, u, hu, h⟩ := bind_eq_ok h
    obtain ⟨_, v, hv, h⟩ := bind_eq_ok h
    have lanes := needLanes_entered hu
    rw [vecRoom_ok hv] at h
    obtain rfl : ((u.enterOrder b rendezvous barrier).upStream fun st => st.issued (u.hart u.cur.slot).capture) = t := by
      injection h
    have order := lanes.trans (enterOrder_entered u b rendezvous barrier)
    exact order.trans (issued_entered (order.cur ▸ order.stream? hp) _)

end Sys2Proof.Machine
end

section
/-! SUPPORT. Fences (01 R44, R58; 05 R227; 07 R308, R310). -/

set_option Elab.async false

namespace Sys2Proof.Machine

open Sys2Proof

section
variable {s t : State} {slot : Nat} {isX : Bool} {rank : Nat}

theorem Settled.homeOnly (h : HomeOnly s t) (hs : Settled s slot) : Settled t slot := by
  obtain ⟨hlog, htrains, hrounds, hhash⟩ := hs
  refine ⟨?_, ?_, ?_, ?_⟩
  · rwa [h.hart]
  · rwa [h.hart]
  · rw [h.rounds, h.hart]
    exact hrounds
  · rw [h.cur, h.stream]
    exact hhash

theorem Unheld.homeOnly (h : HomeOnly s t) (hu : Unheld s) : Unheld t := by
  obtain ⟨hb, hr⟩ := hu
  refine ⟨fun cls res => ?_, fun core e he => ?_⟩
  · rw [MemSys.budgetLow, MemSys.budgetOf, h.budget]
    exact hb cls res
  · rw [h.ready]
    exact hr core e ((h.buffers core).subset he)

/-- Entries that nothing holds drain. -/
theorem drainGate_unheld (hu : Unheld s) (core n : Nat) : drainGate core n s = .ok () (s.drainSome core n) := by
  refine drainGate_ok ?_
  have free : ∀ e ∈ (s.core core).wcb.take n, (!s.entryHeld core e) = true := fun e he => by
    have ready := hu.2 core e (List.take_subset n _ he)
    unfold State.entryHeld State.deviceHeld
    split
    · simp [-Nat.reducePow, ready, hu.1]
    · rfl
  rw [State.drainable, List.takeWhile_eq_self_iff.2 free, List.length_take]

/-- Two sides with the same stores compare equal. -/
theorem compareHere_ok (hs : Settled s slot) : compareHere s = .ok () s := by
  have same : s.compareHash s.cur = (s, true) := by
    unfold State.compareHash
    dsimp only
    split
    · rfl
    · split
      · rfl
      · rw [if_neg]
        have := hs.2.2.2
        simp_all
  unfold compareHere
  change (set (s.compareHash s.cur).1 >>= fun _ => if (s.compareHash s.cur).2 = true then _ else _ : M Unit) s = _
  rw [same]
  rfl

/-- A release drains the buffer of its core. -/
theorem release_ok (hc : s.cur = .stream slot isX) (hs : Settled s slot) (hu : Unheld s) : ∃ t, release rank s = .ok () t ∧
    HomeOnly s t ∧ (2 ≤ rank → (t.core (coreOf slot)).wcb = []) := by
  unfold release
  by_cases hr : rank < 2
  · refine ⟨s, ?_, .refl s, fun h => absurd h (by omega)⟩
    simp only [hr, decide_true, Bool.true_or, if_true]
    rfl
  · obtain ⟨hlog, htrains, hrounds, -⟩ := id hs
    have hrounds' : (s.mem.rounds.any fun r => r.serial == (s.hart slot).serial && r.hartIndex == (s.hart slot).index) = false := by
      rw [List.any_eq_false]
      intro r hr
      simpa using hrounds r hr
    have gate := drainGate_unheld hu (coreOf slot) (s.core (coreOf slot)).wcb.length
    have drained : ∀ u, u = s.drainSome (coreOf slot) (s.core (coreOf slot)).wcb.length →
        HomeOnly s u ∧ (u.core (coreOf slot)).wcb = [] := by
      rintro u rfl
      exact ⟨drainSome_homeOnly .., by rw [drainSome_wcb, List.drop_length]⟩
    generalize s.drainSome (coreOf slot) (s.core (coreOf slot)).wcb.length = u at gate drained
    obtain ⟨home, empty⟩ := drained u rfl
    by_cases h6 : 6 ≤ rank
    · have home' : HomeOnly s (u.setMem u.mem.dropStale) := home.trans (.setMem rfl rfl)
      refine ⟨u.setMem u.mem.dropStale, ?_, home', fun _ => empty⟩
      rw [bind_ok (get_ok s)]
      simp only [hr, decide_false, Bool.false_or, hc, Party.isDatum, Bool.false_eq_true, if_false]
      rw [bind_ok (curHart_ok s), bind_ok (show curSlot s = .ok s.cur.slot s from rfl)]
      simp only [hc, Party.slot, hlog, htrains, List.isEmpty_nil, Bool.not_true, Bool.false_eq_true, if_false, List.find?_nil]
      rw [bind_ok (get_ok s)]
      simp only [hrounds', Bool.false_eq_true, if_false]
      rw [bind_ok (get_ok s), bind_ok gate, if_pos h6]
      exact compareHere_ok (hs.homeOnly home')
    · refine ⟨u, ?_, home, fun _ => empty⟩
      rw [bind_ok (get_ok s)]
      simp only [hr, decide_false, Bool.false_or, hc, Party.isDatum, Bool.false_eq_true, if_false]
      rw [bind_ok (curHart_ok s), bind_ok (show curSlot s = .ok s.cur.slot s from rfl)]
      simp only [hc, Party.slot, hlog, htrains, List.isEmpty_nil, Bool.not_true, Bool.false_eq_true, if_false, List.find?_nil]
      rw [bind_ok (get_ok s)]
      simp only [hrounds', Bool.false_eq_true, if_false]
      rw [bind_ok (get_ok s), bind_ok gate, if_neg h6]
      exact compareHere_ok (hs.homeOnly home)

theorem clearL1_homeOnly (s : State) (core : Nat) : HomeOnly s (s.clearL1 core) := by
  refine ⟨rfl, rfl, rfl, rfl, rfl, fun _ => rfl, fun _ => rfl, fun c => ?_⟩
  unfold State.clearL1
  by_cases e : c = core
  · rw [e, State.core_setCore]
  · rw [State.core, State.setCore_cores, Assoc.get_put_ne _ _ _ e]
    exact List.suffix_rfl

/-- An acquire drops its core's L1 lines. -/
theorem acquire_ok (hc : s.cur = .stream slot isX) (hs : Settled s slot) : ∃ t, acquire rank s = .ok () t ∧ HomeOnly s t ∧
    (2 ≤ rank → (t.core (coreOf slot)).l1 = []) := by
  unfold acquire
  by_cases hr : rank < 2
  · refine ⟨s, ?_, .refl s, fun h => absurd h (by omega)⟩
    simp only [hr, decide_true, Bool.true_or, if_true]
    rfl
  · refine ⟨s.clearL1 (coreOf slot), ?_, clearL1_homeOnly .., fun _ => ?_⟩
    · rw [bind_ok (get_ok s)]
      simp only [hr, decide_false, Bool.false_or, hc, Party.isDatum, Bool.false_eq_true, if_false]
      rw [bind_ok (show curCore s = .ok (coreOf slot) s by rw [show coreOf slot = coreOf s.cur.slot by rw [hc]; rfl]; rfl)]
      exact compareHere_ok (hs.homeOnly (clearL1_homeOnly ..))
    · rw [State.clearL1, State.core_setCore]

/-- Draining the cores of a DET launch waits for nothing that is not held. -/
theorem drainLaunchCores_ok (hu : Unheld s) : ∃ t, drainLaunchCores rank s = .ok () t ∧ HomeOnly s t := by
  have each : ∀ (l : Launch) (cores : List (Nat × Nat)) (s : State), Unheld s →
      ∃ t, forM' cores (fun kc => drainLogical l kc.1 kc.2) s = .ok () t ∧ HomeOnly s t := by
    intro l cores
    induction cores with
    | nil => exact fun s _ => ⟨s, rfl, .refl s⟩
    | cons kc cores ih =>
      intro s hu
      obtain ⟨t, ht, home⟩ := ih _ (hu.homeOnly (drainSome_homeOnly s kc.2 _))
      exact ⟨t, (bind_ok (drainGate_unheld hu ..)).trans ht, (drainSome_homeOnly ..).trans home⟩
  unfold drainLaunchCores
  rw [bind_ok (show curLaunch? s = .ok (s.launchOf s.cur.slot) s from rfl)]
  cases s.launchOf s.cur.slot with
  | none => exact ⟨s, rfl, .refl s⟩
  | some l =>
    dsimp only
    split
    · exact each l _ s hu
    · exact ⟨s, rfl, .refl s⟩

theorem settleStores_ok (hc : s.cur = .stream slot isX) (hs : Settled s slot) : settleStores s = .ok () s := by
  obtain ⟨hlog, htrains, -⟩ := hs
  unfold settleStores
  rw [bind_ok (curHart_ok s)]
  simp [hc, Party.slot, hlog, htrains]
  rfl

/-- A fence orders what stands before it against what comes after. -/
theorem fenceBody_ok {k : FenceKind} {sc : Scope} (hc : s.cur = .stream slot isX) (hs : Settled s slot) (hu : Unheld s) :
    ∃ t, fenceBody k sc s = .ok () t ∧ HomeOnly s t ∧ (k ≠ .acq → 2 ≤ Scope.rank sc → (t.core (coreOf slot)).wcb = []) ∧
      (k ≠ .rel → 2 ≤ Scope.rank sc → (t.core (coreOf slot)).l1 = []) := by
  cases k with
  | acq =>
    obtain ⟨t, ht, home, gone⟩ := acquire_ok (rank := Scope.rank sc) hc hs
    exact ⟨t, ht, home, fun h => absurd rfl h, fun _ => gone⟩
  | rel =>
    obtain ⟨t, ht, home, empty⟩ := release_ok (rank := Scope.rank sc) hc hs hu
    exact ⟨t, ht, home, fun _ => empty, fun h => absurd rfl h⟩
  | full =>
    obtain ⟨t, ht, home, empty⟩ := release_ok (rank := Scope.rank sc) hc hs hu
    obtain ⟨u, hu, home', gone⟩ := acquire_ok (rank := Scope.rank sc) (home.cur.trans hc) (hs.homeOnly home)
    exact ⟨u, (bind_ok ht).trans hu, home.trans home', fun _ h2 => List.suffix_nil.1 (empty h2 ▸ home'.buffers _), fun _ => gone⟩

/-! Drain points (07 R308). -/

/-- A hart that has passed a drain point, by the instruction in issue. -/
def State.drainPassed (s : State) : State :=
  (s.upHart fun h => { h with drains := h.drains + 1 }).upStream fun st => { st with drained := s.issue.n :: st.drained }

theorem passDrain_ok (hn : s.issue.n ∉ (s.stream s.cur).drained) : passDrain s = .ok () s.drainPassed := by
  unfold passDrain
  change (if _ then _ else _ : M Unit) s = _
  rw [if_neg (by simpa using hn)]
  rfl

end

section
variable {s : State} {slot : Nat} {isX : Bool}

/-- Passing a drain point counts it, and leaves the rest of the hart but its streams. -/
theorem drainPassed_hart (hc : s.cur = .stream slot isX) : ∃ sa sx,
    s.drainPassed.hart slot = { s.hart slot with drains := (s.hart slot).drains + 1, sa := sa, sx := sx } := by
  have slot_eq : slot = s.cur.slot := by rw [hc]; rfl
  unfold State.drainPassed State.upStream
  rw [show (s.upHart fun h => { h with drains := h.drains + 1 }).cur = .stream slot isX from hc, State.setStream, State.hart_setHart,
    State.upHart, ← slot_eq, State.hart_setHart]
  cases isX <;> exact ⟨_, _, rfl⟩

theorem drainPassed_stream {α : Type} (g : Stream → α) (hg : g { Stream.blank with strm := true } = g Stream.blank)
    (hd : ∀ (st : Stream) (l : List Word), g { st with drained := l } = g st) (s : State) :
    g (s.drainPassed.stream s.cur) = g (s.stream s.cur) := by
  unfold State.drainPassed State.upStream
  rw [show (s.upHart fun h => { h with drains := h.drains + 1 }).cur = s.cur from rfl, State.stream_setStream_self, hd]
  exact State.proj_stream_setHart g hg (fun isX => by cases isX <;> rfl) s.cur

theorem drainPassed_rest (s : State) : s.drainPassed =
    { s with harts := s.drainPassed.harts, dc := { s.dc with core := s.drainPassed.dc.core } } := by
  unfold State.drainPassed State.upStream
  generalize (s.upHart fun h => { h with drains := h.drains + 1 }).stream _ = st
  cases hc : (s.upHart fun h => { h with drains := h.drains + 1 }).cur <;> rfl

theorem Settled.drainPassed (hc : s.cur = .stream slot isX) (hs : Settled s slot) :
    Settled s.drainPassed slot := by
  obtain ⟨hlog, htrains, hrounds, hhash⟩ := hs
  obtain ⟨sa, sx, hart⟩ := drainPassed_hart hc
  have h1 := drainPassed_stream Stream.hash rfl (fun _ _ => rfl) s
  have h2 := drainPassed_stream Stream.hashShadow rfl (fun _ _ => rfl) s
  have rest := drainPassed_rest s
  have cur : s.drainPassed.cur = s.cur := by rw [rest]
  have mem : s.drainPassed.mem = s.mem := by rw [rest]
  refine ⟨?_, ?_, ?_, ?_⟩
  · rwa [hart]
  · rwa [hart]
  · rw [mem, hart]
    exact hrounds
  · rw [cur, h1, h2]
    exact hhash

theorem Unheld.drainPassed (hu : Unheld s) : Unheld s.drainPassed := by
  rw [drainPassed_rest]
  exact hu

/-- A fence of scope pkg or pod, and every VFENCE, drains the launch's cores before its own ordering. -/
theorem fence_ok {k : FenceKind} {sc : Scope} {rank : Nat} (hc : s.cur = .stream slot isX) (hs : Settled s slot) (hu : Unheld s) :
    ∃ t, (do drainLaunchCores rank; fenceBody k sc) s = .ok () t ∧ HomeOnly s t ∧
      (k ≠ .acq → 2 ≤ Scope.rank sc → (t.core (coreOf slot)).wcb = []) ∧
      (k ≠ .rel → 2 ≤ Scope.rank sc → (t.core (coreOf slot)).l1 = []) := by
  obtain ⟨t, ht, home⟩ := drainLaunchCores_ok (rank := rank) hu
  obtain ⟨u, hu, home', after⟩ := fenceBody_ok (k := k) (sc := sc) (home.cur.trans hc) (hs.homeOnly home) (hu.homeOnly home)
  exact ⟨u, (bind_ok ht).trans hu, home.trans home', after⟩

/-- FENCE. -/
theorem does_fence {h : Hdr} {k : FenceKind} {sc : Scope} (hc : s.cur = .stream slot isX)
    (hn : s.issue.n ∉ (s.stream s.cur).drained) (hs : Settled s slot) (hu : Unheld s) : ∃ t : State,
    Does (.fence h k sc) h s .next t ∧ (k ≠ .acq → 2 ≤ Scope.rank sc → (t.core (coreOf slot)).wcb = []) ∧
      (k ≠ .rel → 2 ≤ Scope.rank sc → (t.core (coreOf slot)).l1 = []) ∧
      (t.hart slot).drains = (s.hart slot).drains + if 6 ≤ Scope.rank sc then 1 else 0 := by
  by_cases h6 : 6 ≤ Scope.rank sc
  · have hc' : s.drainPassed.cur = .stream slot isX := by rw [drainPassed_rest]; exact hc
    obtain ⟨t, ht, home, empty, gone⟩ := fence_ok (k := k) (sc := sc) (rank := Scope.rank sc) hc' (hs.drainPassed hc) hu.drainPassed
    obtain ⟨sa, sx, hart⟩ := drainPassed_hart hc
    have passed : (do passDrain; drainLaunchCores (Scope.rank sc); fenceBody k sc) s = .ok () t := (bind_ok (passDrain_ok hn)).trans ht
    refine ⟨t, .of_runSeq rfl fun hi => ?_, empty, gone, ?_⟩
    · rw [bind_ok (get_ok s)]
      simp only [hc, Party.isDatum, Bool.false_eq_true, if_false, h6, if_true]
      cases k with
      | acq => exact passed
      | rel => exact (bind_ok (settleStores_ok hc hs)).trans passed
      | full => exact (bind_ok (settleStores_ok hc hs)).trans passed
    · rw [home.hart, hart, if_pos h6]
  · obtain ⟨t, ht, home, empty, gone⟩ := fence_ok (k := k) (sc := sc) (rank := Scope.rank sc) hc hs hu
    refine ⟨t, .of_runSeq rfl fun hi => ?_, empty, gone, ?_⟩
    · rw [bind_ok (get_ok s)]
      simp only [hc, Party.isDatum, Bool.false_eq_true, if_false, h6]
      exact ht
    · rw [home.hart, if_neg h6]
      rfl

theorem vecCommitted_ok (hd : (s.hart s.cur.slot).earlierDone s.cur.isX = true) : vecCommitted s = .ok () s := by
  change (if _ then _ else _ : M Unit) s = _
  rw [if_pos hd]
  rfl

/-- VFENCE. -/
theorem does_vfence {h : Hdr} {k : FenceKind} {sc : Scope} {s0 : State} (hc : s.cur = .stream slot isX)
    (he : Enters 0 true true s s0) (hd : (s0.hart slot).earlierDone isX = true) (hn : s.issue.n ∉ (s0.stream s.cur).drained)
    (hs : Settled s0 slot) (hu : Unheld s0) : ∃ t : State, Does (.vfence h k sc) h s .next t ∧
      (k ≠ .acq → 2 ≤ Scope.rank sc → (t.core (coreOf slot)).wcb = []) ∧
      (k ≠ .rel → 2 ≤ Scope.rank sc → (t.core (coreOf slot)).l1 = []) ∧
      (t.hart slot).drains = (s0.hart slot).drains + 1 ∧ (t.hart slot).vstart = 0 := by
  by_cases hp : (s.stream? s.cur).isSome
  · have entered := enters_entered hp he
    have hc0 : s0.cur = .stream slot isX := entered.cur.trans hc
    have hn0 : s0.issue.n ∉ (s0.stream s0.cur).drained := by rwa [entered.cur, entered.issue]
    have hc' : s0.drainPassed.cur = .stream slot isX := by rw [drainPassed_rest]; exact hc0
    obtain ⟨t, ht, home, empty, gone⟩ := fence_ok (k := k) (sc := sc) (rank := 6) hc' (hs.drainPassed hc0) hu.drainPassed
    obtain ⟨sa, sx, hart⟩ := drainPassed_hart hc0
    have ct : t.cur.slot = slot := by rw [home.cur, hc']; rfl
    have left : (do drainLaunchCores 6; fenceBody k sc; vecLeave) s0.drainPassed = .ok () t.vleave := by
      rw [← bind_assoc, bind_ok ht]
      rfl
    have passed : (do passDrain; drainLaunchCores 6; fenceBody k sc; vecLeave) s0 = .ok () t.vleave :=
      (bind_ok (passDrain_ok hn0)).trans left
    refine ⟨t.vleave, .of_runSeq rfl fun hi => ?_, empty, gone, ?_, ?_⟩
    · rw [bind_ok he, bind_ok (vecCommitted_ok (by rw [hc0]; exact hd)), bind_ok (curHart_ok s0)]
      simp only [hc0, Party.slot, hs.2.1, List.isEmpty_nil, Bool.not_true, Bool.false_eq_true, if_false]
      cases k with
      | acq => exact passed
      | rel => exact (bind_ok (settleStores_ok hc0 hs)).trans passed
      | full => exact (bind_ok (settleStores_ok hc0 hs)).trans passed
    · rw [State.vleave, State.upHart, ct, State.hart_setHart, home.hart, hart]
    · rw [State.vleave, State.upHart, ct, State.hart_setHart]
  · let k0 := s0.hart slot
    let c0 := s0.core (coreOf slot)
    refine ⟨(s0.setHart slot { k0 with drains := k0.drains + 1, vstart := 0 }).setCore (coreOf slot) { c0 with wcb := [], l1 := [] },
      fun hi => ?_, ?_, ?_, ?_, ?_⟩
    · obtain ⟨st, hst, -⟩ := hi.live
      exact absurd (State.present_of_live hst) hp
    · intros
      rw [State.core_setCore]
    · intros
      rw [State.core_setCore]
    · exact congrArg Hart.drains (State.hart_setHart ..)
    · exact congrArg Hart.vstart (State.hart_setHart ..)

end

/-- Settles O28: nothing of the hart's waits, so a release empties the buffer and an acquire drops the lines. -/
theorem fencesDrainAndForget : Obligations.FencesDrainAndForget := by
  intro s h k sc
  refine ⟨fun hc => .of_runSeq rfl fun _ => ?_, fun slot isX hc => ⟨fun hn hs hu => does_fence hc hn hs hu, ?_⟩⟩
  · rw [bind_ok (get_ok s)]
    simp only [hc, Party.isDatum, if_true]
    rfl
  · exact fun s0 he hd hn hs hu => does_vfence hc he hd hn hs hu

end Sys2Proof.Machine
end

section
/-! SUPPORT. Operands of vector instructions: what they take from their queues and leave there, and the shape of a body in the
issue order (02 R80; 08 R335, R342, R347, R348, R359). -/

set_option Elab.async false

namespace Sys2Proof.Machine

open Sys2Proof

/-! Sources of either class. -/

/-- A v-class source can be read: a queue has an entry. -/
def State.hasV (s : State) : VOp → Prop
  | .v _ => True
  | .q n => (s.hart s.cur.slot).vq.get n.val [] ≠ []

/-- A source of either class can be read. -/
def State.hasS (s : State) : VSrc → Prop
  | .v o => s.hasV o
  | .x o => s.hasX o

/-- The state once a source of either class has been read. -/
def State.spop (s : State) : VSrc → State
  | .v o => s.vpop o
  | .x o => s.xpop o

/-- The state once sources have been read in field order. -/
def State.spops (s : State) (l : List VSrc) : State := l.foldl State.spop s

@[simp] theorem State.vpop_cur (s : State) (a : VOp) : (s.vpop a).cur = s.cur := by cases a <;> rfl

@[simp] theorem State.spop_cur (s : State) (a : VSrc) : (s.spop a).cur = s.cur := by
  cases a with
  | v o => exact s.vpop_cur o
  | x o => exact s.xpop_cur o

@[simp] theorem State.spops_cur (s : State) (l : List VSrc) : (s.spops l).cur = s.cur := by
  induction l generalizing s with
  | nil => rfl
  | cons a l ih => exact (ih (s.spop a)).trans (s.spop_cur a)

theorem readV_ok {a : VOp} {s : State} (h : s.hasV a) : readV a s = .ok (s.vval a) (s.vpop a) := by
  cases a with
  | v n => rfl
  | q n =>
    obtain ⟨w, r, hq⟩ := List.exists_cons_of_ne_nil h
    have e : readV (.q n) s = (match (s.hart s.cur.slot).vq.get n.val [] with
      | [] => (waitHere : M Memory)
      | w :: r => do
        modHart fun h => { h with vq := h.vq.put n.val r }
        pure (Memory.setBytes [] 0 w)) s := rfl
    rw [e, hq]
    simp only [State.vval, State.vpop, State.upHart, hq, List.headD_cons, List.tail_cons]
    rfl

theorem readTile_ok {t : Ty} {a : VOp} {s : State} (h : s.hasV a) :
    readTile t a s = .ok (fun i => getElem t (s.vval a) i) (s.vpop a) := by
  unfold readTile
  rw [bind_ok (readV_ok h)]
  rfl

/-- The elements that a source of either class stands for. -/
def State.sval (s : State) (t : Ty) : VSrc → Nat → Nat
  | .v o => fun i => getElem t (s.vval o) i
  | .x o => fun _ => (s.xval o).toNat % 2 ^ Ty.width t

theorem readSrc_ok {t : Ty} {a : VSrc} {s : State} (h : s.hasS a) : readSrc t a s = .ok (s.sval t a) (s.spop a) := by
  cases a with
  | v o =>
    change (readV o >>= fun m => pure fun i => getElem t m i) s = _
    rw [bind_ok (readV_ok h)]
    rfl
  | x o =>
    change (readX o >>= fun w => pure fun _ => w.toNat % 2 ^ Ty.width t) s = _
    rw [bind_ok (readX_ok h)]
    rfl

theorem State.v1_eq {α : Type} (s : State) (t : Ty) (a : VOp) (f : (Nat → Nat) → State → α) :
    s.v1 t a f = f (fun i => getElem t (s.vval a) i) (s.vpop a) := rfl

theorem State.vs1_eq {α : Type} (s : State) (t : Ty) (b : VSrc) (f : (Nat → Nat) → State → α) :
    s.vs1 t b f = f (s.sval t b) (s.spop b) := by
  cases b <;> rfl

/-! What queues hold. -/

theorem queueLen_v (h : Hart) (n : Fin 6) : (queueLen h (72 + n.val)).1 = (h.vq.get n.val []).length := by
  have h1 : 72 + n.val ≠ 0x100 := by omega
  have h2 : 72 + n.val ≠ 0x101 := by omega
  simp [queueLen, h1, h2]

/-- A source reads the queue of a code. -/
def VSrc.takes (a : VSrc) (c : Nat) : Bool := (VSrc.use a).queue? == some (c, false)

theorem VSrc.takes_of_code {a : VSrc} {c d : Nat} (h : (VSrc.use a).queue? = some (d, false)) : VSrc.takes a c = true ↔ c = d := by
  rw [VSrc.takes, h, beq_iff_eq, Option.some.injEq, Prod.mk.injEq]
  exact ⟨fun e => e.1.symm, fun e => ⟨e.symm, rfl⟩⟩

theorem VSrc.queue?_cases (a : VSrc) : (VSrc.use a).queue? = none ∨ ∃ c, (VSrc.use a).queue? = some (c, false) ∧ 64 ≤ c ∧ c < 78 := by
  match a with
  | .v (.v n) => exact .inl rfl
  | .x (.x n) => exact .inl rfl
  | .v (.q n) => exact .inr ⟨72 + n.val, rfl, by omega, by omega⟩
  | .x (.q n) => exact .inr ⟨64 + n.val, rfl, by omega, by omega⟩

/-- A source takes one entry of its own queue. -/
theorem queueLen_spop (s : State) (a : VSrc) (c : Nat) (hc : 64 ≤ c) (hc' : c < 78) :
    (queueLen ((s.spop a).hart s.cur.slot) c).1 = (queueLen (s.hart s.cur.slot) c).1 - if VSrc.takes a c = true then 1 else 0 := by
  match a with
  | .v (.v n) => rfl
  | .x (.x n) => rfl
  | .v (.q n) =>
    have taken : (VSrc.takes (.v (.q n)) c = true) ↔ c = 72 + n.val := VSrc.takes_of_code rfl
    have hart : (s.spop (.v (.q n))).hart s.cur.slot =
        { s.hart s.cur.slot with vq := (s.hart s.cur.slot).vq.put n.val ((s.hart s.cur.slot).vq.get n.val []).tail } :=
      State.hart_setHart ..
    rw [hart]
    by_cases e : c = 72 + n.val
    · rw [if_pos (taken.2 e), e, queueLen_v, queueLen_v, Assoc.get_put_self, List.length_tail]
    · rw [if_neg (taken.not.2 e)]
      have other : c - 72 = n.val → c < 72 := by omega
      unfold queueLen
      by_cases h72 : c < 72
      · simp [h72, show c ≠ 0x100 by omega, show c ≠ 0x101 by omega]
      · simp [h72, show c ≠ 0x100 by omega, show c ≠ 0x101 by omega, Assoc.get_put_ne _ _ _ fun x => h72 (other x)]
  | .x (.q n) =>
    have taken : (VSrc.takes (.x (.q n)) c = true) ↔ c = 64 + n.val := VSrc.takes_of_code rfl
    have hart : (s.spop (.x (.q n))).hart s.cur.slot =
        { s.hart s.cur.slot with q := (s.hart s.cur.slot).q.put n.val ((s.hart s.cur.slot).q.get n.val []).tail } :=
      State.hart_setHart ..
    rw [hart]
    by_cases e : c = 64 + n.val
    · rw [if_pos (taken.2 e), e, queueLen_x, queueLen_x, Assoc.get_put_self, List.length_tail]
    · rw [if_neg (taken.not.2 e)]
      have other : c < 72 → c - 64 ≠ n.val := by omega
      unfold queueLen
      by_cases h72 : c < 72
      · simp [h72, show c ≠ 0x100 by omega, show c ≠ 0x101 by omega, Assoc.get_put_ne _ _ _ (other h72)]
      · simp [h72, show c ≠ 0x100 by omega, show c ≠ 0x101 by omega]

theorem queueLen_spops (s : State) (l : List VSrc) (c : Nat) (hc : 64 ≤ c) (hc' : c < 78) :
    (queueLen ((s.spops l).hart s.cur.slot) c).1 = (queueLen (s.hart s.cur.slot) c).1 - l.countP fun a => VSrc.takes a c := by
  induction l generalizing s with
  | nil => rfl
  | cons a l ih =>
    have step := ih (s.spop a)
    rw [State.spop_cur, queueLen_spop s a c hc hc', Nat.sub_sub] at step
    refine step.trans ?_
    rw [List.countP_cons, Nat.add_comm]

theorem needs_of_sources (l : List VSrc) (c : Nat) :
    (((l.map VSrc.use).filterMap Use.queue?).filter fun d => d.1 == c && d.2 == false).length = l.countP fun a => VSrc.takes a c := by
  induction l with
  | nil => rfl
  | cons a l ih =>
    rw [List.countP_cons, ← ih]
    rcases VSrc.queue?_cases a with e | ⟨c', e, -⟩
    · rw [List.map_cons, List.filterMap_cons_none e, VSrc.takes, e]
      rfl
    · rw [List.map_cons, List.filterMap_cons_some e, VSrc.takes, e]
      by_cases h : c' = c <;> simp [h]

theorem hasS_of_len {s : State} {a : VSrc} (h : ∀ c, 64 ≤ c → c < 78 → VSrc.takes a c = true → 0 < (queueLen (s.hart s.cur.slot) c).1) :
    s.hasS a := by
  match a with
  | .v (.v n) => trivial
  | .x (.x n) => trivial
  | .v (.q n) =>
    have := h (72 + n.val) (by omega) (by omega) ((VSrc.takes_of_code rfl).2 rfl)
    rw [queueLen_v] at this
    exact fun e => by simp [e] at this
  | .x (.q n) =>
    have := h (64 + n.val) (by omega) (by omega) ((VSrc.takes_of_code rfl).2 rfl)
    rw [queueLen_x] at this
    exact hasX_of_len this

/-- The queues of the executing hart are as they were at issue. -/
def SameQueues (s s0 : State) : Prop :=
  s0.cur = s.cur ∧ ∀ c, 64 ≤ c → c < 78 → (queueLen (s0.hart s0.cur.slot) c).1 = (queueLen (s.hart s.cur.slot) c).1

theorem SameQueues.refl (s : State) : SameQueues s s := ⟨rfl, fun _ _ _ => rfl⟩

theorem Entered.queues {s s0 : State} (h : Entered s s0) : SameQueues s s0 :=
  ⟨h.cur, fun c _ _ => by rw [h.cur, h.hart]; rfl⟩

/-- A source of an instruction that issues can be read once those before it have been. -/
theorem Issues.hasSrc {i : Instr} {h : Hdr} {s s0 : State} {l : List VSrc} {a : VSrc} {rest : List Use} (hi : Issues i h s)
    (hq : SameQueues s s0) (hn : queueNeeds s i = i.uses.filterMap Use.queue?) (hu : i.uses = l.map VSrc.use ++ VSrc.use a :: rest) :
    (s0.spops l).hasS a := by
  refine hasS_of_len fun c hc hc' ht => ?_
  have hb := hi.unblocked hn
  have code : (VSrc.use a).queue? = some (c, false) := by simpa [VSrc.takes] using ht
  rw [hu, List.filterMap_append, List.filterMap_cons_some code] at hb
  have left := firstBlocked_read hb
  rw [List.nil_append, needs_of_sources] at left
  rw [State.spops_cur, queueLen_spops _ _ _ hc hc', hq.2 c hc hc']
  omega

theorem Issues.hasV1 {i : Instr} {h : Hdr} {s s0 : State} {a : VOp} {rest : List Use} (hi : Issues i h s)
    (hq : SameQueues s s0) (hn : queueNeeds s i = i.uses.filterMap Use.queue?) (hu : i.uses = .rv a :: rest) : s0.hasV a :=
  hi.hasSrc (l := []) (a := .v a) hq hn hu

/-- Issue, entry and the first source of an instruction. -/
theorem Issues.entered {i : Instr} {h : Hdr} {s s0 : State} {b : Nat} {rendezvous barrier : Bool} (hi : Issues i h s)
    (he : Enters b rendezvous barrier s s0) : Entered s s0 := by
  obtain ⟨st, hst, -⟩ := hi.live
  exact enters_entered (State.present_of_live hst) he

/-! Destinations. -/

@[simp] theorem writeElems_ok (d : VOp) (t : Ty) (n : Nat) (vals : List (Nat × Nat)) (s : State) :
    writeElems d t n vals s = .ok () (s.vputList d t n vals) := by
  cases d <;> rfl

@[simp] theorem mapElems_ok (hd : Hdr) (t : Ty) (d : VOp) (f : Nat → Nat) (s : State) :
    mapElems hd t d f s = .ok () (s.vput hd t d f) := by
  cases d <;> rfl

@[simp] theorem writeCommit_ok (d : XOp) (w : Word) (s : State) : writeCommit d w s = .ok () (s.xcommit d w) := by
  unfold writeCommit State.xcommit
  change (if _ then _ else _ : M Unit) s = _
  dsimp only
  split
  · rfl
  · rw [writeX_ok]

/-! Bodies. -/

theorem vecLeave_ok (s : State) : vecLeave s = .ok () s.vleave := rfl

/-- A vector instruction that takes its place does its body's effect and leaves vstart 0. -/
theorem Does.of_runVec {i : Instr} {h : Hdr} {body : M Unit} {s s0 t : State}
    (hx : Sys2Proof.Machine.exec i s = runVec i h body s) (he : Enters (widest i.tileTys) h.b h.b s s0)
    (hb : Issues i h s → SameQueues s s0 → body s0 = .ok () t) : Does i h s .next t.vleave := by
  refine .of_runSeq hx fun hi => ?_
  rw [vecRun, bind_ok he, bind_ok (hb hi (hi.entered he).queues)]
  rfl

end Sys2Proof.Machine
end

section
/-! SUPPORT. Element-wise instructions (03 R116..R119; 08 R359, R360, R362, R364, R365, R367, R369). -/

set_option Elab.async false

namespace Sys2Proof.Machine

open Sys2Proof

section
variable {s s0 : State} {h : Hdr} {t : Ty} {d a : VOp} {b c : VSrc} {i : Instr}

theorem mapOne_ok {f : Nat → Nat → Nat} (ha : s.hasS (.v a)) :
    mapOne h t d a f s = .ok () (s.v1 t a fun x u => u.vput h t d fun i => f i (x i)) := by
  unfold mapOne
  rw [bind_ok (readTile_ok ha), mapElems_ok]
  rfl

theorem mapTwo_ok {f : Nat → Nat → Nat → Nat} (ha : s.hasS (.v a)) (hb : (s.spops [.v a]).hasS b) :
    mapTwo h t d a b f s = .ok () (s.v1 t a fun x u => u.vs1 t b fun y u => u.vput h t d fun i => f i (x i) (y i)) := by
  unfold mapTwo
  rw [bind_ok (readTile_ok ha), bind_ok (readSrc_ok (s := s.vpop a) hb), mapElems_ok, State.v1_eq, State.vs1_eq]

theorem mapThree_ok {f : Nat → Nat → Nat → Nat → Nat} (ha : s.hasS (.v a)) (hb : (s.spops [.v a]).hasS b)
    (hc : (s.spops [.v a, b]).hasS c) : mapThree h t d a b c f s = .ok () (s.v1 t a fun x u => u.vs1 t b fun y u =>
      u.vs1 t c fun z u => u.vput h t d fun i => f i (x i) (y i) (z i)) := by
  unfold mapThree
  rw [bind_ok (readTile_ok ha), bind_ok (readSrc_ok (s := s.vpop a) hb), bind_ok (readSrc_ok (s := (s.vpop a).spop b) hc), mapElems_ok, State.v1_eq, State.vs1_eq,
    State.vs1_eq]

theorem rctx_ok (rm : Rnd) (s : State) : rctx rm s = .ok (s.rounding rm) s := rfl

variable (hn : queueNeeds s i = i.uses.filterMap Use.queue?) (he : Enters (widest i.tileTys) h.b h.b s s0)
include hn he

/-- An instruction of one source maps its elements. -/
theorem does_mapOne {f : Nat → Nat → Nat} {rest : List Use} (hu : i.uses = .rv a :: rest)
    (hx : Sys2Proof.Machine.exec i s = runVec i h (mapOne h t d a f) s) :
    Does i h s .next ((s0.v1 t a fun x u => u.vput h t d fun i => f i (x i)).vleave) :=
  .of_runVec hx he fun hi hq => mapOne_ok (hi.hasSrc (l := []) hq hn hu)

theorem does_mapTwo {f : Nat → Nat → Nat → Nat} {rest : List Use} (hu : i.uses = .rv a :: VSrc.use b :: rest)
    (hx : Sys2Proof.Machine.exec i s = runVec i h (mapTwo h t d a b f) s) : Does i h s .next
      ((s0.v1 t a fun x u => u.vs1 t b fun y u => u.vput h t d fun i => f i (x i) (y i)).vleave) :=
  .of_runVec hx he fun hi hq => mapTwo_ok (hi.hasSrc (l := []) hq hn hu) (hi.hasSrc (l := [.v a]) hq hn hu)

theorem does_mapThree {f : Nat → Nat → Nat → Nat → Nat} {rest : List Use}
    (hu : i.uses = .rv a :: VSrc.use b :: VSrc.use c :: rest)
    (hx : Sys2Proof.Machine.exec i s = runVec i h (mapThree h t d a b c f) s) : Does i h s .next
      ((s0.v1 t a fun x u => u.vs1 t b fun y u => u.vs1 t c fun z u => u.vput h t d fun i => f i (x i) (y i) (z i)).vleave) :=
  .of_runVec hx he fun hi hq => mapThree_ok (hi.hasSrc (l := []) hq hn hu) (hi.hasSrc (l := [.v a]) hq hn hu)
    (hi.hasSrc (l := [.v a, b]) hq hn hu)

/-- A rounded instruction maps its elements under the context at its issue. -/
theorem does_float1 {f : FVal → FVal} {rm : Rnd} {rest : List Use} (hu : i.uses = .rv a :: rest)
    (hx : Sys2Proof.Machine.exec i s = runVec i h (bodyFloat1 f h t rm d a) s) : Does i h s .next
      ((s0.v1 t a fun x u => u.vput h t d fun i => roundTo t (s0.rounding rm i) false (f (Ty.decode t (x i)))).vleave) :=
  .of_runVec hx he fun hi hq => (bind_ok (rctx_ok rm s0)).trans (mapOne_ok (hi.hasSrc (l := []) hq hn hu))

theorem does_float2 {f : Rnd → FVal → FVal → FVal} {rm : Rnd} {rest : List Use} (hu : i.uses = .rv a :: VSrc.use b :: rest)
    (hx : Sys2Proof.Machine.exec i s = runVec i h (bodyFloat2 f h t rm d a b) s) : Does i h s .next
      ((s0.v1 t a fun x u => u.vs1 t b fun y u => u.vput h t d fun i =>
        roundTo t (s0.rounding rm i) false (f (s0.rounding rm i).mode (Ty.decode t (x i)) (Ty.decode t (y i)))).vleave) :=
  .of_runVec hx he fun hi hq => (bind_ok (rctx_ok rm s0)).trans
    (mapTwo_ok (hi.hasSrc (l := []) hq hn hu) (hi.hasSrc (l := [.v a]) hq hn hu))

theorem does_float3 {f : Rnd → FVal → FVal → FVal → FVal} {rm : Rnd} {rest : List Use}
    (hu : i.uses = .rv a :: VSrc.use b :: VSrc.use c :: rest)
    (hx : Sys2Proof.Machine.exec i s = runVec i h (bodyFloat3 f h t rm d a b c) s) : Does i h s .next
      ((s0.v1 t a fun x u => u.vs1 t b fun y u => u.vs1 t c fun z u => u.vput h t d fun i =>
        roundTo t (s0.rounding rm i) false (f (s0.rounding rm i).mode (Ty.decode t (x i)) (Ty.decode t (y i))
          (Ty.decode t (z i)))).vleave) :=
  .of_runVec hx he fun hi hq => (bind_ok (rctx_ok rm s0)).trans (mapThree_ok (hi.hasSrc (l := []) hq hn hu)
    (hi.hasSrc (l := [.v a]) hq hn hu) (hi.hasSrc (l := [.v a, b]) hq hn hu))

end

/-! Integer results (08 R364). -/

theorem Ty.bits_pos (t : Ty) : 0 < Ty.bits t := by cases t <;> decide

theorem wrapTy_eq (t : Ty) (z : Int) : wrapTy t z = (z % 2 ^ Ty.bits t).toNat := by
  rw [wrapTy, wrapTo, Nat.cast_pow]
  rfl

/-- An element read as signed is its value modulo the range. -/
theorem signedOf_bmod {w : Nat} (hw : 0 < w) (x : Nat) : signedOf w x = (x : Int).bmod (2 ^ w) := by
  obtain ⟨k, rfl⟩ : ∃ k, w = k + 1 := ⟨w - 1, by omega⟩
  have half : ((((2 ^ (k + 1) : Nat) : Int) + 1) / 2) = ((2 ^ k : Nat) : Int) := by
    rw [Nat.pow_succ]
    omega
  rw [signedOf, Int.bmod_def, half, ← Int.natCast_emod, Nat.add_sub_cancel]
  simp only [Nat.cast_lt]

theorem intVal_emod (t : Ty) (x : Nat) : intVal t x % 2 ^ Ty.bits t = (x : Int) % 2 ^ Ty.bits t := by
  have signed : ∀ w : Nat, 0 < w → signedOf w x % 2 ^ w = (x : Int) % 2 ^ w := fun w hw => by
    rw [signedOf_bmod hw]
    exact_mod_cast Int.bmod_emod (x := (x : Int)) (m := 2 ^ w)
  cases t <;> first | rfl | exact signed _ (by decide)

theorem clampTy_eq (t : Ty) (z : Int) : clampTy t z = clamped t z := by
  have hw : (2 : Int) ^ Ty.bits t = 2 * 2 ^ (Ty.bits t - 1) := by
    rw [← Int.pow_succ', Nat.sub_add_cancel (Ty.bits_pos t)]
  have hp : (0 : Int) < 2 ^ (Ty.bits t - 1) := Int.pow_pos (by decide)
  unfold clampTy clamped
  rw [wrapTy_eq]
  push_cast
  have range : ∀ lo hi : Int, lo ≤ hi → (if z < lo then lo else if hi < z then hi else z) = max lo (min z hi) := by
    intro lo hi h
    split
    · omega
    · split <;> omega
  rw [range]
  split <;> omega

theorem wrapTy_intVal_add (t : Ty) (x y : Nat) : wrapTy t (intVal t x + intVal t y) = (x + y) % 2 ^ Ty.bits t := by
  rw [wrapTy_eq, Int.add_emod, intVal_emod, intVal_emod, ← Int.add_emod]
  exact_mod_cast Int.toNat_natCast ((x + y) % 2 ^ Ty.bits t)

theorem wrapTy_intVal_sub (t : Ty) (x y : Nat) : wrapTy t (intVal t x - intVal t y) = (((x : Int) - y) % 2 ^ Ty.bits t).toNat := by
  rw [wrapTy_eq, Int.sub_emod, intVal_emod, intVal_emod, ← Int.sub_emod]

theorem mulHigh_eq (t : Ty) (x y : Nat) :
    mulHigh t x y = (intVal t x * intVal t y / 2 ^ Ty.bits t % 2 ^ Ty.bits t).toNat := by
  rw [mulHigh, wrapTy_eq, Nat.cast_pow]
  rfl

theorem sraElem_eq (t : Ty) (x y : Nat) :
    sraElem t x y = ((x : Int).bmod (2 ^ Ty.bits t) / 2 ^ (y % Ty.bits t) % 2 ^ Ty.bits t).toNat := by
  rw [sraElem, wrapTy_eq, signedOf_bmod (Ty.bits_pos t), Nat.cast_pow]
  rfl

/-! The tables of the element-wise instructions. -/

/-- An instruction of one source maps an operation over it. -/
def MapsOne (op : (Hdr → Ty → VOp → VOp → Instr) × (Ty → Nat → Nat)) : Prop :=
  ∀ (s : State) (h : Hdr) (t : Ty) (d a : VOp), queueNeeds s (op.1 h t d a) = (op.1 h t d a).uses.filterMap Use.queue? ∧
    (op.1 h t d a).tileTys = [t] ∧ (op.1 h t d a).uses = [.rv a, .wv d] ∧
    Sys2Proof.Machine.exec (op.1 h t d a) s = runVec (op.1 h t d a) h (mapOne h t d a fun _ x => op.2 t x) s

/-- An instruction of two sources maps an operation over them. -/
def MapsTwo (op : (Hdr → Ty → VOp → VOp → VSrc → Instr) × (Ty → Nat → Nat → Nat)) : Prop :=
  ∀ (s : State) (h : Hdr) (t : Ty) (d a : VOp) (b : VSrc),
    queueNeeds s (op.1 h t d a b) = (op.1 h t d a b).uses.filterMap Use.queue? ∧
    (op.1 h t d a b).tileTys = [t] ∧ (op.1 h t d a b).uses = [.rv a, VSrc.use b, .wv d] ∧
    Sys2Proof.Machine.exec (op.1 h t d a b) s = runVec (op.1 h t d a b) h (mapTwo h t d a b fun _ x y => op.2 t x y) s

theorem vecTable1_maps : ∀ op ∈ vecTable1, MapsOne op := by
  simp only [vecTable1, List.forall_mem_cons]
  exact ⟨fun _ _ _ _ _ => ⟨rfl, rfl, rfl, rfl⟩, fun _ _ _ _ _ => ⟨rfl, rfl, rfl, rfl⟩, fun _ _ _ _ _ => ⟨rfl, rfl, rfl, rfl⟩,
    fun _ _ _ _ _ => ⟨rfl, rfl, rfl, rfl⟩, fun _ h => nomatch h⟩

theorem vecTable2_maps : ∀ op ∈ vecTable2, MapsTwo op := by
  simp only [vecTable2, List.forall_mem_cons, ← clampTy_eq, ← wrapTy_intVal_add, ← wrapTy_intVal_sub, ← mulHigh_eq, ← sraElem_eq]
  exact ⟨fun _ _ _ _ _ _ => ⟨rfl, rfl, rfl, rfl⟩, fun _ _ _ _ _ _ => ⟨rfl, rfl, rfl, rfl⟩,
    fun _ _ _ _ _ _ => ⟨rfl, rfl, rfl, rfl⟩, fun _ _ _ _ _ _ => ⟨rfl, rfl, rfl, rfl⟩,
    fun _ _ _ _ _ _ => ⟨rfl, rfl, rfl, rfl⟩, fun _ _ _ _ _ _ => ⟨rfl, rfl, rfl, rfl⟩,
    fun _ _ _ _ _ _ => ⟨rfl, rfl, rfl, rfl⟩, fun _ _ _ _ _ _ => ⟨rfl, rfl, rfl, rfl⟩,
    fun _ _ _ _ _ _ => ⟨rfl, rfl, rfl, rfl⟩, fun _ _ _ _ _ _ => ⟨rfl, rfl, rfl, rfl⟩,
    fun _ _ _ _ _ _ => ⟨rfl, rfl, rfl, rfl⟩, fun _ _ _ _ _ _ => ⟨rfl, rfl, rfl, rfl⟩,
    fun _ _ _ _ _ _ => ⟨rfl, rfl, rfl, rfl⟩, fun _ _ _ _ _ _ => ⟨rfl, rfl, rfl, rfl⟩,
    fun _ _ _ _ _ _ => ⟨rfl, rfl, rfl, rfl⟩, fun _ _ _ _ _ _ => ⟨rfl, rfl, rfl, rfl⟩, fun _ h => nomatch h⟩

/-- Settles O33: each instruction maps its operation over the active elements. -/
theorem elementwiseWithoutRounding : Obligations.ElementwiseWithoutRounding := by
  intro s s0 h t d a b c he
  refine ⟨fun op hop => ?_, fun op hop => ?_, ?_, ?_⟩
  · obtain ⟨hn, ht, hu, hx⟩ := vecTable1_maps op hop s h t d a
    exact does_mapOne hn (ht ▸ he) hu hx
  · obtain ⟨hn, ht, hu, hx⟩ := vecTable2_maps op hop s h t d a b
    exact does_mapTwo hn (ht ▸ he) hu hx
  · have does := does_mapThree (i := .vimad h t d a b c) (f := fun _ x y z => (x * y + z) % 2 ^ Ty.bits t) rfl he rfl rfl
    exact does
  · have does := does_mapThree (i := .vclip h t d a b c) (f := fun _ => clipElem t) rfl he rfl rfl
    exact does

end Sys2Proof.Machine
end

section
/-! SUPPORT. Rounded element-wise instructions, and that rounding keeps what is representable (03 R105..R107, R116; 08 R360). -/

set_option Elab.async false

namespace Sys2Proof.Machine

open Sys2Proof

/-- A rounded instruction of one source. -/
def RoundsOne (op : (Hdr → Ty → Rnd → VOp → VOp → Instr) × (FVal → FVal)) : Prop :=
  ∀ (s : State) (h : Hdr) (t : Ty) (rm : Rnd) (d a : VOp),
    queueNeeds s (op.1 h t rm d a) = (op.1 h t rm d a).uses.filterMap Use.queue? ∧
    (op.1 h t rm d a).tileTys = [t] ∧ (op.1 h t rm d a).uses = [.rv a, .wv d] ∧
    Sys2Proof.Machine.exec (op.1 h t rm d a) s = runVec (op.1 h t rm d a) h (bodyFloat1 op.2 h t rm d a) s

/-- A rounded instruction of two sources. -/
def RoundsTwo (op : (Hdr → Ty → Rnd → VOp → VOp → VSrc → Instr) × (Rnd → FVal → FVal → FVal)) : Prop :=
  ∀ (s : State) (h : Hdr) (t : Ty) (rm : Rnd) (d a : VOp) (b : VSrc),
    queueNeeds s (op.1 h t rm d a b) = (op.1 h t rm d a b).uses.filterMap Use.queue? ∧
    (op.1 h t rm d a b).tileTys = [t] ∧ (op.1 h t rm d a b).uses = [.rv a, VSrc.use b, .wv d] ∧
    Sys2Proof.Machine.exec (op.1 h t rm d a b) s = runVec (op.1 h t rm d a b) h (bodyFloat2 op.2 h t rm d a b) s

/-- A rounded instruction of three sources. -/
def RoundsThree (op : (Hdr → Ty → Rnd → VOp → VOp → VSrc → VSrc → Instr) × (Rnd → FVal → FVal → FVal → FVal)) : Prop :=
  ∀ (s : State) (h : Hdr) (t : Ty) (rm : Rnd) (d a : VOp) (b c : VSrc),
    queueNeeds s (op.1 h t rm d a b c) = (op.1 h t rm d a b c).uses.filterMap Use.queue? ∧
    (op.1 h t rm d a b c).tileTys = [t] ∧ (op.1 h t rm d a b c).uses = [.rv a, VSrc.use b, VSrc.use c, .wv d] ∧
    Sys2Proof.Machine.exec (op.1 h t rm d a b c) s = runVec (op.1 h t rm d a b c) h (bodyFloat3 op.2 h t rm d a b c) s

theorem vecRounded1_rounds : ∀ op ∈ vecRounded1, RoundsOne op := by
  simp only [vecRounded1, List.forall_mem_cons]
  exact ⟨fun _ _ _ _ _ _ => ⟨rfl, rfl, rfl, rfl⟩, fun _ _ _ _ _ _ => ⟨rfl, rfl, rfl, rfl⟩,
    fun _ _ _ _ _ _ => ⟨rfl, rfl, rfl, rfl⟩, fun _ _ _ _ _ _ => ⟨rfl, rfl, rfl, rfl⟩,
    fun _ _ _ _ _ _ => ⟨rfl, rfl, rfl, rfl⟩, fun _ _ _ _ _ _ => ⟨rfl, rfl, rfl, rfl⟩, fun _ h => nomatch h⟩

theorem vecRounded2_rounds : ∀ op ∈ vecRounded2, RoundsTwo op := by
  simp only [vecRounded2, List.forall_mem_cons]
  exact ⟨fun _ _ _ _ _ _ _ => ⟨rfl, rfl, rfl, rfl⟩, fun _ _ _ _ _ _ _ => ⟨rfl, rfl, rfl, rfl⟩,
    fun _ _ _ _ _ _ _ => ⟨rfl, rfl, rfl, rfl⟩, fun _ _ _ _ _ _ _ => ⟨rfl, rfl, rfl, rfl⟩, fun _ h => nomatch h⟩

theorem vecRounded3_rounds : ∀ op ∈ vecRounded3, RoundsThree op := by
  simp only [vecRounded3, List.forall_mem_cons]
  exact ⟨fun _ _ _ _ _ _ _ _ => ⟨rfl, rfl, rfl, rfl⟩, fun _ _ _ _ _ _ _ _ => ⟨rfl, rfl, rfl, rfl⟩,
    fun _ _ _ _ _ _ _ _ => ⟨rfl, rfl, rfl, rfl⟩, fun _ h => nomatch h⟩

theorem does_vcvt {s s0 : State} {h : Hdr} {t v : Ty} {rm : Rnd} {d a : VOp} (he : Enters (widest [t, v]) h.b h.b s s0) :
    Does (.vcvt h t v rm d a) h s .next ((s0.v1 v a fun x u => u.vput h t d fun i =>
      roundTo t (s0.rounding rm i) (Ty.isInt v) (Ty.decode v (x i))).vleave) := by
  refine .of_runVec rfl he fun hi hq => ?_
  rw [bind_ok (rctx_ok rm s0), bind_ok (readTile_ok (hi.hasV1 hq rfl rfl))]
  exact mapElems_ok ..

/-! Rounding what is representable (03 R116 step 2). -/

theorem bitLen_le {m k : Nat} (h : m < 2 ^ k) : bitLen m ≤ k := by
  unfold bitLen
  split
  · exact Nat.zero_le k
  · exact (Nat.log2_lt (by assumption)).2 h

theorem bitLen_implicit {mb m : Nat} (h : m < 2 ^ mb) : bitLen (2 ^ mb + m) = mb + 1 := by
  have pos : 2 ^ mb + m ≠ 0 := by have := Nat.two_pow_pos mb; omega
  have log : Nat.log2 (2 ^ mb + m) = mb := (Nat.log2_eq_iff pos).2 ⟨by omega, by rw [Nat.pow_succ]; omega⟩
  rw [bitLen, if_neg pos, log]

/-- A value on the grid is a point of it. -/
theorem roundGrid_self (c : RCtx) (neg : Bool) (m : Nat) (e : Int) : roundGrid c neg m e false e = m := by
  simp [roundGrid]

/-- An encoding is its sign over its magnitude. -/
theorem Fmt.withSign_split (f : Fmt) {x : Nat} (hw : 0 < f.width) (hx : x < 2 ^ f.width) :
    f.withSign (bitOf x (f.width - 1)) (x % 2 ^ (f.width - 1)) = x := by
  have half : 2 ^ f.width = 2 * 2 ^ (f.width - 1) := by rw [← Nat.pow_succ', Nat.succ_eq_add_one, Nat.sub_add_cancel hw]
  have pos := Nat.two_pow_pos (f.width - 1)
  have split := Nat.div_add_mod x (2 ^ (f.width - 1))
  have bound : x / 2 ^ (f.width - 1) < 2 := Nat.div_lt_of_lt_mul (by omega)
  unfold Fmt.withSign bitOf
  generalize x / 2 ^ (f.width - 1) = q at split bound ⊢
  rcases (show q = 0 ∨ q = 1 by omega) with rfl | rfl
  · simpa using split
  · simpa using split

/-- A subnormal value of a format rounds to its own magnitude. -/
theorem Fmt.round_subnormal (f : Fmt) (t : Ty) (c : RCtx) (neg : Bool) {m : Nat} (hm : m < 2 ^ f.mb) (hx : m ≤ f.maxEnc) :
    f.round t c (.fin neg m (1 - f.bias - f.mb) false) = f.withSign neg m := by
  by_cases h0 : m = 0
  · subst h0
    rfl
  have top : ((1 - f.bias - f.mb : Int) + (bitLen m : Int) - 1 < 1 - f.bias) := by have := bitLen_le hm; omega
  have grid := roundGrid_self c neg m (1 - f.bias - f.mb)
  have small : m ≠ 2 ^ (f.mb + 1) := by rw [Nat.pow_succ]; omega
  unfold Fmt.round
  simp [h0, top, grid, small, hm, hx]

/-- A normal value of a format rounds to its own magnitude. -/
theorem Fmt.round_normal (f : Fmt) (t : Ty) (c : RCtx) (neg : Bool) {ex m : Nat} (he : ex ≠ 0) (hm : m < 2 ^ f.mb)
    (hx : ex * 2 ^ f.mb + m ≤ f.maxEnc) :
    f.round t c (.fin neg (2 ^ f.mb + m) ((ex : Int) - f.bias - f.mb) false) = f.withSign neg (ex * 2 ^ f.mb + m) := by
  have pos := Nat.two_pow_pos f.mb
  have top : ¬((ex : Int) - f.bias - f.mb + ((f.mb + 1 : Nat) : Int) - 1 < 1 - f.bias) := by omega
  have place : ((ex : Int) - f.bias - f.mb + ((f.mb + 1 : Nat) : Int) - 1) - f.mb = (ex : Int) - f.bias - f.mb := by omega
  have grid := roundGrid_self c neg (2 ^ f.mb + m) ((ex : Int) - f.bias - f.mb)
  have small : 2 ^ f.mb + m ≠ 2 ^ (f.mb + 1) := by rw [Nat.pow_succ]; omega
  have large : ¬(2 ^ f.mb + m < 2 ^ f.mb) := by omega
  have code : ((ex : Int) - f.bias - f.mb + f.mb + f.bias) * ((2 ^ f.mb : Nat) : Int) +
      (((2 ^ f.mb + m : Nat) : Int) - ((2 ^ f.mb : Nat) : Int)) = ((ex * 2 ^ f.mb + m : Nat) : Int) := by
    push_cast
    ring
  unfold Fmt.round
  dsimp only
  rw [if_neg (by simp), bitLen_implicit hm, if_neg top, place, grid, if_neg small]
  dsimp only
  rw [if_neg large, code, if_pos (by exact_mod_cast hx), Int.toNat_natCast]

/-- A format whose magnitudes above the largest finite one are its infinity and its NaNs. -/
def Fmt.Sound (f : Fmt) : Prop :=
  0 < f.width ∧ ∀ mag, mag < 2 ^ (f.width - 1) →
    mag ≤ f.maxEnc ∨ (∃ i, f.infEnc = some i ∧ i ≤ mag ∧ f.nanEnc.isSome) ∨ (f.nanEnc = some mag ∧ f.infEnc = none)

/-- A magnitude is a NaN's. -/
def Fmt.nanAt (f : Fmt) (mag : Nat) : Bool :=
  match f.nanEnc, f.infEnc with
  | some _, some i => decide (i < mag)
  | some c, none => mag == c
  | none, _ => false

/-- A magnitude is the infinity's. -/
def Fmt.infAt (f : Fmt) (mag : Nat) : Bool :=
  match f.infEnc with
  | some i => mag == i
  | none => false

/-- The value of a finite magnitude under a sign. -/
def Fmt.finiteAt (f : Fmt) (neg : Bool) (mag : Nat) : FVal :=
  if mag / 2 ^ f.mb = 0 then .fin neg (mag % 2 ^ f.mb) (1 - f.bias - f.mb) false
  else .fin neg (2 ^ f.mb + mag % 2 ^ f.mb) (((mag / 2 ^ f.mb : Nat) : Int) - f.bias - f.mb) false

theorem Fmt.decode_eq (f : Fmt) {x : Nat} (hx : x < 2 ^ f.width) : f.decode x =
    if f.nanAt (x % 2 ^ (f.width - 1)) = true then .nan
    else if f.infAt (x % 2 ^ (f.width - 1)) = true then .inf (bitOf x (f.width - 1))
    else f.finiteAt (bitOf x (f.width - 1)) (x % 2 ^ (f.width - 1)) := by
  unfold Fmt.decode
  rw [Nat.mod_eq_of_lt hx]
  rfl

/-- What is neither a NaN nor an infinity is at most the largest finite magnitude. -/
theorem Fmt.Sound.finite {f : Fmt} (hf : f.Sound) {mag : Nat} (hm : mag < 2 ^ (f.width - 1)) (hn : ¬f.nanAt mag = true)
    (hi : ¬f.infAt mag = true) : mag ≤ f.maxEnc := by
  rcases hf.2 mag hm with le | ⟨i, ei, le, en⟩ | ⟨en, ei⟩
  · exact le
  · obtain ⟨n, en⟩ := Option.isSome_iff_exists.1 en
    simp only [Fmt.nanAt, en, ei, decide_eq_true_eq] at hn
    simp only [Fmt.infAt, ei, beq_iff_eq] at hi
    omega
  · simp [Fmt.nanAt, en, ei] at hn

theorem Fmt.round_finiteAt (f : Fmt) (t : Ty) (c : RCtx) (neg : Bool) {mag : Nat} (le : mag ≤ f.maxEnc) :
    f.round t c (f.finiteAt neg mag) = f.withSign neg mag := by
  have split := Nat.div_add_mod' mag (2 ^ f.mb)
  have low := Nat.mod_lt mag (Nat.two_pow_pos f.mb)
  unfold Fmt.finiteAt
  by_cases he : mag / 2 ^ f.mb = 0
  · have same : mag % 2 ^ f.mb = mag := by rwa [he, Nat.zero_mul, Nat.zero_add] at split
    rw [if_pos he, f.round_subnormal t c _ low (by rwa [same]), same]
  · rw [if_neg he, f.round_normal t c _ he low (by rwa [split]), split]

theorem Fmt.decode_round (f : Fmt) (hf : f.Sound) (t : Ty) (c : RCtx) {x : Nat} (hx : x < 2 ^ f.width)
    (hd : ∃ n m e st, f.decode x = .fin n m e st) : f.round t c (f.decode x) = x := by
  obtain ⟨n, m, e, st, hd⟩ := hd
  rw [f.decode_eq hx] at hd ⊢
  split at hd
  · exact nomatch hd
  split at hd
  · exact nomatch hd
  rename_i notNan notInf
  have le := hf.finite (Nat.mod_lt x (Nat.two_pow_pos (f.width - 1))) notNan notInf
  rw [if_neg notNan, if_neg notInf, f.round_finiteAt t c _ le, f.withSign_split hf.1 hx]

theorem Ty.fmt_sound {t : Ty} {f : Fmt} (h : Ty.fmt t = some f) :
    f.Sound ∧ f.width = if t = .e3m2 ∨ t = .e2m3 then 6 else Ty.width t := by
  cases t <;> simp only [Ty.fmt, Option.some.injEq, reduceCtorEq] at h <;> subst h <;>
    refine ⟨⟨by decide, fun mag hm => ?_⟩, by decide⟩ <;> simp at hm ⊢ <;> omega

/-- Settles O34: each instruction rounds the exact value under the context at its issue, and a finite value of a floating type
lies on the grid that it is rounded to. -/
theorem elementwiseRounded : Obligations.ElementwiseRounded := by
  refine ⟨fun s s0 h t v rm d a b c => ⟨fun he => ⟨fun op hop => ?_, fun op hop => ?_, fun op hop => ?_⟩, does_vcvt⟩, ?_⟩
  · obtain ⟨hn, ht, hu, hx⟩ := vecRounded1_rounds op hop s h t rm d a
    exact does_float1 hn (ht ▸ he) hu hx
  · obtain ⟨hn, ht, hu, hx⟩ := vecRounded2_rounds op hop s h t rm d a b
    exact does_float2 hn (ht ▸ he) hu hx
  · obtain ⟨hn, ht, hu, hx⟩ := vecRounded3_rounds op hop s h t rm d a b c
    exact does_float3 hn (ht ▸ he) hu hx
  · intro t c x hf hx hd
    obtain ⟨f, hf⟩ := Option.isSome_iff_exists.1 hf
    obtain ⟨sound, width⟩ := Ty.fmt_sound hf
    rw [← width] at hx
    have dec : Ty.decode t x = f.decode x := by rw [Ty.decode, hf]
    rw [dec] at hd ⊢
    rw [roundTo, hf]
    exact f.decode_round sound t c hx hd

end Sys2Proof.Machine
end

section
/-! SUPPORT. Elements in registers: what is read after a write (03 R110, R114; 08 R332, R338, R359). -/

set_option Elab.async false

namespace Sys2Proof.Machine

open Sys2Proof

/-! Reads of bytes. -/

/-- What an element is read from. -/
theorem getElem_congr {t : Ty} {m m' : Memory} {i n : Nat} (h : ∀ a, a < n → m.get a = m'.get a) (hi : topByte t i < n) :
    getElem t m i = getElem t m' i := by
  have read : ∀ a k, a + k - 1 < n → m.read a k = m'.read a k := fun a k hk => by
    unfold Memory.read Memory.bytes
    congr 1
    exact List.map_congr_left fun j hj => h _ (by have := List.mem_range.1 hj; omega)
  cases t
  case e2m1 => rw [getElem, getElem, h (i / 2) hi]
  case e3m2 => rw [getElem, getElem, h _ (by simpa [topByte, Ty.bits] using hi)]
  case e2m3 => rw [getElem, getElem, h _ (by simpa [topByte, Ty.bits] using hi)]
  case bp8 =>
    unfold getElem
    dsimp only [topByte] at hi ⊢
    refine List.foldl_ext _ _ _ fun acc j hj => ?_
    rw [h _ (by have := List.mem_range.1 hj; omega)]
  all_goals exact read _ _ hi

/-- Bytes set at distinct places, each from what stood there. -/
theorem get_foldl_set (f : Nat → Nat) (g : Nat → Byte → Byte) (m : Memory) (n : Nat)
    (hf : ∀ j k, j < n → k < n → f j = f k → j = k) :
    (∀ a, (∀ j, j < n → f j ≠ a) → ((List.range n).foldl (fun m j => m.set (f j) (g j (m.get (f j)))) m).get a = m.get a) ∧
    ∀ j, j < n → ((List.range n).foldl (fun m j => m.set (f j) (g j (m.get (f j)))) m).get (f j) = g j (m.get (f j)) := by
  induction n with
  | zero => exact ⟨fun _ _ => rfl, fun j hj => absurd hj (Nat.not_lt_zero j)⟩
  | succ n ih =>
    obtain ⟨out, inside⟩ := ih fun j k hj hk => hf j k (by omega) (by omega)
    have last : ∀ j, j < n → f j ≠ f n := fun j hj e => by have := hf j n (by omega) (by omega) e; omega
    refine ⟨fun a ha => ?_, fun j hj => ?_⟩
    · rw [List.range_succ, List.foldl_append]
      exact (Memory.get_set_ne _ _ (Ne.symm (ha n (by omega)))).trans (out a fun j hj => ha j (by omega))
    · rw [List.range_succ, List.foldl_append]
      rcases Nat.lt_succ_iff_lt_or_eq.1 hj with hj' | rfl
      · exact (Memory.get_set_ne _ _ (last j hj')).trans (inside j hj')
      · refine (Memory.get_set_self ..).trans ?_
        rw [out _ last]

/-! Bit planes (03 R114). -/

/-- The byte of a bit plane that holds element i. -/
def planeByte (i j : Nat) : Nat := 128 * (i / 128) + i % 128 / 8 + 16 * j

/-- A byte with one bit replaced. -/
def putBit (k : Nat) (b : Bool) (old : Byte) : Byte := if b = true then old ||| (1#8) <<< k else old &&& ~~~((1#8) <<< k)

theorem putBit_getLsbD {k : Nat} (b : Bool) (old : Byte) {i : Nat} (hi : i < 8) :
    (putBit k b old).getLsbD i = if i = k then b else old.getLsbD i := by
  unfold putBit
  have shifted : ((1#8) <<< k).getLsbD i = decide (i = k) := by
    rw [BitVec.getLsbD_shiftLeft, BitVec.getLsbD_one]
    by_cases e : i = k
    · simp [e, e ▸ hi]
    · by_cases l : i < k <;> simp [e, l, hi]
      omega
  cases b with
  | false =>
    rw [if_neg Bool.false_ne_true, BitVec.getLsbD_and, BitVec.getLsbD_not, shifted]
    by_cases e : i = k <;> simp [e, hi]
  | true =>
    rw [if_pos rfl, BitVec.getLsbD_or, shifted]
    by_cases e : i = k <;> simp [e]

theorem setElem_bp8 (m : Memory) (i v : Nat) : setElem .bp8 m i v =
    (List.range 8).foldl (fun m j => m.set (planeByte i j) (putBit (i % 8) (bitOf v (7 - j)) (m.get (planeByte i j)))) m := rfl

theorem getElem_bp8 (m : Memory) (i : Nat) : getElem .bp8 m i =
    (List.range 8).foldl (fun acc j => if (m.get (planeByte i j)).getLsbD (i % 8) then acc + 2 ^ (7 - j) else acc) 0 := rfl

theorem planeByte_inj {i i' j j' : Nat} (hj : j < 8) (hj' : j' < 8) (h : planeByte i j = planeByte i' j') :
    j = j' ∧ i / 8 = i' / 8 := by
  unfold planeByte at h
  omega

/-- A number below 256 is the sum of its bits. -/
theorem sum_bits (v : Nat) : (List.range 8).foldl (fun acc j => if bitOf v (7 - j) then acc + 2 ^ (7 - j) else acc) 0 = v % 256 := by
  have bit : ∀ acc k, (if bitOf v k = true then acc + 2 ^ k else acc) = acc + 2 ^ k * (v / 2 ^ k % 2) := fun acc k => by
    unfold bitOf
    rcases Nat.mod_two_eq_zero_or_one (v / 2 ^ k) with e | e <;> simp [e]
  rw [show List.range 8 = [0, 1, 2, 3, 4, 5, 6, 7] from rfl]
  simp only [bit, List.foldl_cons, List.foldl_nil]
  norm_num
  omega

/-! Elements. -/

/-- The bits that an element of a type keeps. -/
def elemBits (t : Ty) : Nat := if t = .e3m2 ∨ t = .e2m3 then 6 else Ty.width t

theorem getElem_setElem_self (t : Ty) (m : Memory) (i v : Nat) : getElem t (setElem t m i v) i = v % 2 ^ elemBits t := by
  cases t
  case e2m1 =>
    rw [getElem, setElem, Memory.get_set_self]
    have := (m.get (i / 2)).isLt
    rcases Nat.mod_two_eq_zero_or_one i with e | e <;> simp [e, elemBits, Ty.width] <;> omega
  case e3m2 =>
    rw [getElem, setElem, Memory.get_set_self]
    simp [elemBits]
  case e2m3 =>
    rw [getElem, setElem, Memory.get_set_self]
    simp [elemBits]
  case bp8 =>
    rw [getElem_bp8, setElem_bp8]
    have inside := (get_foldl_set (planeByte i) (fun j => putBit (i % 8) (bitOf v (7 - j))) m 8 fun j k hj hk e =>
      (planeByte_inj hj hk e).1).2
    refine (List.foldl_ext _ _ _ fun acc j hj => ?_).trans (sum_bits v)
    rw [inside j (List.mem_range.1 hj), putBit_getLsbD _ _ (Nat.mod_lt i (by decide)), if_pos rfl]
  all_goals exact Memory.read_write ..

/-- Places that two elements of a type do not share. -/
theorem getElem_setElem_ne (t : Ty) (m : Memory) {i k : Nat} (v : Nat) (h : k ≠ i) :
    getElem t (setElem t m i v) k = getElem t m k := by
  have apart : ∀ n : Nat, 0 < n → (m.write (i * n) n v).read (k * n) n = m.read (k * n) n := fun n hn => by
    unfold Memory.read Memory.bytes
    congr 1
    refine List.map_congr_left fun j hj => ?_
    have hj := List.mem_range.1 hj
    refine Memory.get_setBytes_out _ _ _ _ ?_
    rw [leBytes_length]
    rcases Nat.lt_or_gt_of_ne h with l | l
    · have : (k + 1) * n ≤ i * n := Nat.mul_le_mul_right n l
      rw [Nat.succ_mul] at this
      omega
    · have : (i + 1) * n ≤ k * n := Nat.mul_le_mul_right n l
      rw [Nat.succ_mul] at this
      omega
  cases t
  case e2m1 =>
    rw [getElem, getElem, setElem]
    by_cases e : k / 2 = i / 2
    · rw [e, Memory.get_set_self]
      have := (m.get (i / 2)).isLt
      rcases Nat.mod_two_eq_zero_or_one i with e1 | e1 <;> rcases Nat.mod_two_eq_zero_or_one k with e2 | e2 <;> simp [e1, e2]
      all_goals omega
    · rw [Memory.get_set_ne _ _ e]
  case e3m2 => rw [getElem, getElem, setElem, Memory.get_set_ne _ _ h]
  case e2m3 => rw [getElem, getElem, setElem, Memory.get_set_ne _ _ h]
  case bp8 =>
    rw [getElem_bp8, getElem_bp8, setElem_bp8]
    obtain ⟨out, inside⟩ := get_foldl_set (planeByte i) (fun j => putBit (i % 8) (bitOf v (7 - j))) m 8 fun j k hj hk e =>
      (planeByte_inj hj hk e).1
    refine List.foldl_ext _ _ _ fun acc j hj => ?_
    have hj := List.mem_range.1 hj
    by_cases e : k / 8 = i / 8
    · have same : planeByte k j = planeByte i j := by
        unfold planeByte
        rw [show k / 128 = i / 128 by omega, show k % 128 / 8 = i % 128 / 8 by omega]
      rw [same, inside j hj, putBit_getLsbD _ _ (Nat.mod_lt k (by decide)),
        if_neg (show ¬k % 8 = i % 8 by omega)]
    · rw [out]
      exact fun j' hj' e' => e (planeByte_inj hj' hj e').2.symm
  all_goals exact apart _ (by decide)

/-- What a list of elements leaves at a place: the element put there, or what stood there. -/
theorem getElem_foldl_setElem (t : Ty) (vals : List (Nat × Nat)) (hn : (vals.map Prod.fst).Nodup) (m : Memory) (i : Nat) :
    getElem t (vals.foldl (fun m (iv : Nat × Nat) => setElem t m iv.1 iv.2) m) i =
      match vals.find? fun v => v.1 = i with
      | some v => v.2 % 2 ^ elemBits t
      | none => getElem t m i := by
  induction vals generalizing m with
  | nil => rfl
  | cons v vals ih =>
    rw [List.map_cons, List.nodup_cons] at hn
    rw [List.foldl_cons, ih hn.2]
    by_cases e : v.1 = i
    · have none : vals.find? (fun v => v.1 = i) = none := List.find?_eq_none.2 fun u hu hi =>
        hn.1 (List.mem_map.2 ⟨u, hu, by simpa [e] using hi⟩)
      rw [none, List.find?_cons_of_pos (by simpa using e)]
      dsimp only
      rw [← e, getElem_setElem_self]
    · rw [List.find?_cons_of_neg (by simpa using e), getElem_setElem_ne t m v.2 (Ne.symm e)]

/-! Registers. -/

theorem Assoc.get?_filter {α : Type} (l : Assoc α) (p : Nat → Bool) {a : Nat} (h : p a = true) :
    Assoc.get? (l.filter fun c => p c.1) a = l.get? a := by
  induction l with
  | nil => rfl
  | cons c l ih =>
    obtain ⟨k, v⟩ := c
    by_cases e : a = k
    · subst e
      rw [List.filter_cons_of_pos (p := fun c : Nat × α => p c.1) h, Assoc.get?, Assoc.get?, if_pos rfl, if_pos rfl]
    · rw [Assoc.get?, if_neg e, ← ih]
      by_cases hk : p k = true
      · rw [List.filter_cons_of_pos (p := fun c : Nat × α => p c.1) hk, Assoc.get?, if_neg e]
      · rw [List.filter_cons_of_neg (p := fun c : Nat × α => p c.1) hk]

/-- What is read of a register that was written: the bytes below 4,096. -/
theorem Hart.getV_setV_self (h : Hart) (n : Nat) (m : Memory) (b : Nat) :
    (h.setV n m (some b)).getV n = m.filter fun c => decide (c.1 < 4096) := by
  have low : (h.v.filter fun c => c.1 < 4096 * n).filter (fun c => 4096 * n ≤ c.1 && c.1 < 4096 * (n + 1)) = [] := by
    rw [List.filter_filter, List.filter_eq_nil_iff]
    intro c _
    simp
    exact fun h _ => h
  have high : (h.v.filter fun c => 4096 * (n + 1) ≤ c.1).filter (fun c => 4096 * n ≤ c.1 && c.1 < 4096 * (n + 1)) = [] := by
    rw [List.filter_filter, List.filter_eq_nil_iff]
    intro c _
    simp
  have own : ((m.filter fun c => c.1 < 4096).map fun c => (c.1 + 4096 * n, c.2)).filter
      (fun c => 4096 * n ≤ c.1 && c.1 < 4096 * (n + 1)) = (m.filter fun c => c.1 < 4096).map fun c => (c.1 + 4096 * n, c.2) := by
    rw [List.filter_eq_self]
    intro c hc
    obtain ⟨d, hd, rfl⟩ := List.mem_map.1 hc
    have := (List.mem_filter.1 hd).2
    simp at this ⊢
    omega
  unfold Hart.setV Hart.getV
  dsimp only
  rw [List.filter_append, List.filter_append, low, own, high, List.nil_append, List.append_nil, List.map_map]
  conv_rhs => rw [← List.map_id (m.filter fun c => decide (c.1 < 4096))]
  exact List.map_congr_left fun c _ => by simp

theorem getElem_setV_self (h : Hart) (n : Nat) (m : Memory) (b : Nat) {t : Ty} {i : Nat} (hi : topByte t i < 4096) :
    getElem t ((h.setV n m (some b)).getV n) i = getElem t m i := by
  rw [Hart.getV_setV_self]
  refine getElem_congr (n := 4096) (fun a ha => ?_) hi
  rw [Memory.get, Memory.get, Assoc.get, Assoc.get, Assoc.get?_filter m (fun k => decide (k < 4096)) (by simpa using ha)]

theorem maxOf_none {l : List Nat} (h : maxOf l = none) : l = [] := by
  cases l with
  | nil => rfl
  | cons a r => exact nomatch h

/-- Settles O30: elements share no bits, and a register keeps the bytes below 4,096. -/
theorem vectorWritesOnlyItsElements : Obligations.VectorWritesOnlyItsElements := by
  intro s t d n vals i _ hi hn
  rw [State.vputList, State.upHart, State.hart_setHart]
  refine Eq.trans ?_ (getElem_foldl_setElem t vals hn _ i)
  cases hm : maxOf (vals.map fun iv => topByte t iv.1) with
  | none =>
    rw [List.map_eq_nil_iff.1 (maxOf_none hm)]
    rfl
  | some b => exact getElem_setV_self _ _ _ _ hi

end Sys2Proof.Machine
end

section
/-! SUPPORT. Masks under guard, and the element-wise instructions that write masks, broadcasts, indices and selections
(08 R339..R341, R361, R363, R365, R366, R373). -/

set_option Elab.async false

namespace Sys2Proof.Machine

open Sys2Proof

/-! Reading sources leaves the rest of the hart. -/

theorem State.spop_hart (s : State) (a : VSrc) : (s.spop a).hart s.cur.slot =
    { s.hart s.cur.slot with q := ((s.spop a).hart s.cur.slot).q, vq := ((s.spop a).hart s.cur.slot).vq } := by
  match a with
  | .v (.v n) => rfl
  | .x (.x n) => rfl
  | .v (.q n) =>
    rw [show (s.spop (.v (.q n))).hart s.cur.slot =
      { s.hart s.cur.slot with vq := (s.hart s.cur.slot).vq.put n.val ((s.hart s.cur.slot).vq.get n.val []).tail } from
      State.hart_setHart ..]
  | .x (.q n) =>
    rw [show (s.spop (.x (.q n))).hart s.cur.slot =
      { s.hart s.cur.slot with q := (s.hart s.cur.slot).q.put n.val ((s.hart s.cur.slot).q.get n.val []).tail } from
      State.hart_setHart ..]

/-- Sources read in field order leave the hart but its queues. -/
theorem State.spops_hart (s : State) (l : List VSrc) : (s.spops l).hart s.cur.slot =
    { s.hart s.cur.slot with q := ((s.spops l).hart s.cur.slot).q, vq := ((s.spops l).hart s.cur.slot).vq } := by
  induction l generalizing s with
  | nil => rfl
  | cons a l ih =>
    have step := ih (s.spop a)
    rw [State.spop_cur, State.spop_hart] at step
    exact step

theorem State.spops_curHart (s : State) (l : List VSrc) : ∃ q vq,
    (s.spops l).hart (s.spops l).cur.slot = { s.hart s.cur.slot with q := q, vq := vq } := by
  rw [State.spops_cur]
  exact ⟨_, _, s.spops_hart l⟩

/-! Masks. -/

theorem Mask.getLsbD_low {n i : Nat} (hi : i < 1024) : (Mask.low n).getLsbD i = decide (i < n) := by
  rw [Mask.low, BitVec.getLsbD_ofNat, Nat.testBit_two_pow_sub_one]
  simp [hi]

theorem Mask.getLsbD_put (m : Mask) (j : Nat) (b : Bool) {i : Nat} (hi : i < 1024) :
    (Mask.put m j b).getLsbD i = if i = j then b else m.getLsbD i := by
  have shifted : ((1#1024) <<< j).getLsbD i = decide (i = j) := by
    rw [BitVec.getLsbD_shiftLeft, BitVec.getLsbD_one]
    by_cases e : i = j
    · subst e
      simp [hi]
    · by_cases l : i < j
      · simp [e, l]
      · have : i - j ≠ 0 := by omega
        simp [e, l, this]
  unfold Mask.put
  cases b with
  | false =>
    rw [if_neg Bool.false_ne_true, BitVec.getLsbD_and, BitVec.getLsbD_not, shifted]
    by_cases e : i = j <;> simp [e, hi]
  | true =>
    rw [if_pos rfl, BitVec.getLsbD_or, shifted]
    by_cases e : i = j <;> simp [e]

/-- A mask with bits put at some places. -/
theorem Mask.getLsbD_foldl_put (l : List Nat) (f : Nat → Bool) (m : Mask) {i : Nat} (hi : i < 1024) :
    ((l.map fun i => (i, f i)).foldl (fun m (ib : Nat × Bool) => Mask.put m ib.1 ib.2) m).getLsbD i =
      if i ∈ l then f i else m.getLsbD i := by
  induction l generalizing m with
  | nil => rfl
  | cons a l ih =>
    rw [List.map_cons, List.foldl_cons, ih, Mask.getLsbD_put _ _ _ hi]
    by_cases e : i = a
    · simp [e]
    · simp [e]

theorem Hart.mem_actives (h : Hart) (hd : Hdr) (i : Nat) : i ∈ h.actives hd ↔ h.active hd i = true := by
  unfold Hart.actives
  rw [List.mem_filter, List.mem_range]
  refine ⟨fun e => e.2, fun e => ⟨?_, e⟩⟩
  simp only [Hart.active, Bool.and_eq_true, decide_eq_true_eq] at e
  exact e.1.2

/-- A mask written under guard (08 R341). -/
theorem maskWrite_getLsbD (h : Hart) (hd : Hdr) (old : Mask) (f : Nat → Bool) {i : Nat} (hi : i < 1024) :
    (maskWrite old h.tileN ((h.actives hd).map fun i => (i, f i))).getLsbD i =
      if h.active hd i = true then f i else decide (i < h.tileN) && old.getLsbD i := by
  rw [maskWrite, BitVec.getLsbD_and, Mask.getLsbD_foldl_put _ _ _ hi, Mask.getLsbD_low hi]
  simp only [Hart.mem_actives]
  by_cases e : h.active hd i = true
  · have : i < h.tileN := List.mem_range.1 (List.mem_filter.1 ((h.mem_actives hd i).2 e)).1
    simp [e, this]
  · simp [e, Bool.and_comm]

theorem State.upHart_congr {s : State} {f g : Hart → Hart} (h : f (s.hart s.cur.slot) = g (s.hart s.cur.slot)) :
    s.upHart f = s.upHart g := by
  rw [State.upHart, State.upHart, h]

section
variable {s s0 : State} {h : Hdr} {t : Ty} {d e a : VOp} {b : VSrc}

theorem does_vcmp {cond : VCond} {k : Fin 8} (he : Enters (widest [t]) h.b h.b s s0) :
    s0.v1 t a fun x u => u.vs1 t b fun y u => ∃ m : Mask,
      Does (.vcmp h cond t k a b) h s .next ((u.upHart fun k' => k'.setK k.val m).vleave) ∧
      ∀ i, i < 1024 → m.getLsbD i = if (s0.hart s0.cur.slot).active h i then VCond.holds cond t (x i) (y i)
        else decide (i < (s0.hart s0.cur.slot).tileN) && ((s0.hart s0.cur.slot).getK k.val).getLsbD i := by
  rw [State.v1_eq, State.vs1_eq]
  refine ⟨maskWrite ((s0.hart s0.cur.slot).getK k.val) (s0.hart s0.cur.slot).tileN
    (((s0.hart s0.cur.slot).actives h).map fun i => (i, VCond.holds cond t (getElem t (s0.vval a) i) ((s0.vpop a).sval t b i))),
    .of_runVec rfl he fun hi hq => ?_, fun i hi => maskWrite_getLsbD _ h _ _ hi⟩
  rw [bind_ok (readTile_ok (hi.hasV1 hq rfl rfl)), bind_ok (readSrc_ok (s := s0.vpop a) (hi.hasSrc (l := [.v a]) hq rfl rfl)),
    writeMask, modHart_ok]
  refine congrArg _ (State.upHart_congr ?_)
  obtain ⟨q, vq, hart⟩ := s0.spops_curHart [.v a, b]
  rw [show ((s0.vpop a).spop b).hart ((s0.vpop a).spop b).cur.slot = _ from hart]
  rfl

theorem does_twosum {rm : Rnd} (he : Enters (widest [t]) h.b h.b s s0) : Does (.twosum h t rm d e a b) h s .next
    ((s0.v1 t a fun x u => u.vs1 t b fun y u =>
      (u.vput h t d fun i => (twosum t (s0.hart s0.cur.slot).ovft.toNat (x i) (y i)).1).vput h t e
        fun i => (twosum t (s0.hart s0.cur.slot).ovft.toNat (x i) (y i)).2).vleave) := by
  rw [State.v1_eq, State.vs1_eq]
  refine .of_runVec rfl he fun hi hq => ?_
  rw [bind_ok (readTile_ok (hi.hasV1 hq rfl rfl)), bind_ok (readSrc_ok (s := s0.vpop a) (hi.hasSrc (l := [.v a]) hq rfl rfl)),
    bind_ok (curHart_ok _), bind_ok (mapElems_ok ..), mapElems_ok]
  obtain ⟨q, vq, hart⟩ := s0.spops_curHart [.v a, b]
  rw [show ((s0.vpop a).spop b).hart ((s0.vpop a).spop b).cur.slot = _ from hart]

theorem does_vbcast {x : XOp} (he : Enters (widest [t]) h.b h.b s s0) : Does (.vbcast h t d x) h s .next
    ((s0.x1 x fun w u => u.vput h t d fun _ => w.toNat % 2 ^ Ty.width t).vleave) := by
  refine .of_runVec rfl he fun hi hq => ?_
  rw [bind_ok (readSrc_ok (s := s0) (hi.hasSrc (l := []) (a := .x x) hq rfl rfl)), mapElems_ok]
  rfl

theorem does_viota {row : Bool} (he : Enters (widest [t]) h.b h.b s s0) : Does (.viota h row t d) h s .next
    ((s0.vput h t d fun i => (if row then i % (s0.hart s0.cur.slot).vl.toNat else i) % 2 ^ Ty.bits t).vleave) :=
  .of_runVec rfl he fun _ _ => (bind_ok (curHart_ok s0)).trans (mapElems_ok ..)

theorem does_vsel {c : Fin 8} (he : Enters (widest [t]) h.b h.b s s0) : Does (.vsel h t d a b c) h s .next
    ((s0.v1 t a fun x u => u.vs1 t b fun y u => u.vput h t d fun i =>
      if ((s0.hart s0.cur.slot).getK c.val).getLsbD i then x i else y i).vleave) :=
  .of_runVec rfl he fun hi hq => (bind_ok (curHart_ok s0)).trans
    (mapTwo_ok (hi.hasSrc (l := []) hq rfl rfl) (hi.hasSrc (l := [.v a]) hq rfl rfl))

theorem ldiElem_eq (t : Ty) (imm : BitVec 48) :
    ldiElem t imm = if Ty.isInt t then (imm.toInt % 2 ^ Ty.bits t).toNat else imm.toNat % 2 ^ Ty.width t := by
  rw [ldiElem, wrapTy_eq]

theorem does_vldi {imm : BitVec 48} (he : Enters (widest [t]) h.b h.b s s0) : Does (.vldi h t d imm) h s .next
    ((s0.vput h t d fun _ => if Ty.isInt t then (imm.toInt % 2 ^ Ty.bits t).toNat else imm.toNat % 2 ^ Ty.width t).vleave) := by
  rw [← ldiElem_eq]
  exact .of_runVec rfl he fun _ _ => mapElems_ok ..

end

/-- An element of VRAND. -/
def randElem (t : Ty) (key n : Word) (i : Nat) : Nat :=
  let z := (rnd32 key (elemCtr n i)).toNat
  if t = .f32 then roundTo .f32 ⟨.rne, 0, 0⟩ false (.fin false (z / 256) (-24) false) else z

theorem does_vrand {s s0 : State} {h : Hdr} {t : Ty} {d : VOp} (he : Enters (widest [t]) h.b h.b s s0) : Does (.vrand h t d) h s .next
    ((s0.vput h t d (randElem t (s0.hart s0.cur.slot).srseed (s0.stream s0.cur).icount)).vleave) :=
  .of_runVec rfl he fun _ _ => mapElems_ok ..

/-- Settles O35: each body in turn; a mask keeps its inactive bits below N. -/
theorem masksBroadcastsAndSelects : Obligations.MasksBroadcastsAndSelects := by
  intro s s0 h t rm d e a b k x row cond imm he
  exact ⟨does_vcmp he, does_twosum he, does_vbcast he, does_viota he, does_vsel he, does_vldi he, _, does_vrand he, fun _ => rfl⟩

end Sys2Proof.Machine
end

section
/-! SUPPORT. Mask logic, counts and the mask stack (08 R374..R377). -/

set_option Elab.async false

namespace Sys2Proof.Machine

open Sys2Proof

/-- A vector instruction of a fixed lane width does its body's effect and leaves vstart 0. -/
theorem Does.of_vecRun {i : Instr} {h : Hdr} {body : M Unit} {s s0 t : State} {b : Nat}
    (hx : Sys2Proof.Machine.exec i s = runSeq i h (vecRun h b body) s) (he : Enters b h.b h.b s s0)
    (hb : Issues i h s → SameQueues s s0 → body s0 = .ok () t) : Does i h s .next t.vleave := by
  refine .of_runSeq hx fun hi => ?_
  rw [vecRun, bind_ok he, bind_ok (hb hi (hi.entered he).queues)]
  rfl

theorem klogMask_getLsbD (lut : BitVec 4) (a b : Mask) {i : Nat} (hi : i < 1024) :
    (klogMask lut a b).getLsbD i = lut.getLsbD (2 * (a.getLsbD i).toNat + (b.getLsbD i).toNat) := by
  have pick : ∀ (c : Bool) (m : Mask), (if c = true then m else 0).getLsbD i = (c && m.getLsbD i) := fun c m => by
    cases c <;> simp
  unfold klogMask
  simp only [BitVec.getLsbD_or, pick, BitVec.getLsbD_and, BitVec.getLsbD_not, hi, decide_true, Bool.true_and]
  cases a.getLsbD i <;> cases b.getLsbD i <;> simp

section
variable {s s0 : State} {h : Hdr} {a b d : Fin 8} {x : XOp}

theorem does_klog {lut : BitVec 4} (he : Enters 32 h.b h.b s s0) : Does (.klog h lut d a b) h s .next
    ((s0.upHart fun q => q.setK d.val (klogMask lut ((s0.hart s0.cur.slot).getK a.val) ((s0.hart s0.cur.slot).getK b.val))).vleave) :=
  .of_vecRun rfl he fun _ _ => rfl

variable (hd : (s0.hart s0.cur.slot).earlierDone s0.cur.isX = true)
include hd

theorem does_kcnt (he : Enters 32 h.b h.b s s0) : Does (.kcnt h x a) h s .next ((s0.xcommit x (BitVec.ofNat 64
    ((List.range (min (s0.hart s0.cur.slot).tileN 1024)).filter fun i =>
      ((s0.hart s0.cur.slot).getK a.val).getLsbD i).length)).vleave) := by
  refine .of_vecRun rfl he fun _ _ => ?_
  rw [bind_ok (vecCommitted_ok hd), bind_ok (curHart_ok s0), writeCommit_ok, List.countP_eq_length_filter]
  rfl

theorem does_kfirst (he : Enters 32 h.b h.b s s0) : Does (.kfirst h x a) h s .next ((s0.xcommit x
    (match (List.range (min (s0.hart s0.cur.slot).tileN 1024)).find? fun i => ((s0.hart s0.cur.slot).getK a.val).getLsbD i with
      | some i => BitVec.ofNat 64 i
      | none => allOnes64)).vleave) := by
  refine .of_vecRun rfl he fun _ _ => ?_
  rw [bind_ok (vecCommitted_ok hd), bind_ok (curHart_ok s0), writeCommit_ok]
  rfl

end

section
variable {s s0 s' : State} {h : Hdr} {t : Ty} {v w : VOp} {top : Mask} {rest : List Mask}

theorem does_mpush {a : Fin 8} (he : Enters 32 h.b h.b s s0) (hm : (s0.hart s0.cur.slot).mstack.length < 16) :
    Does (.mpush h a) h s .next
      ((s0.upHart fun q => { q with mstack := (q.getK 1 &&& q.getK a.val) :: q.mstack }).vleave) := by
  refine .of_vecRun rfl he fun _ _ => ?_
  rw [bind_ok (curHart_ok s0), if_neg (by omega)]
  rfl

theorem does_minv (he : Enters 32 h.b h.b s s0) (hm : (s0.hart s0.cur.slot).mstack = top :: rest) : Does (.minv h) h s .next
    ((s0.upHart fun q => { q with mstack := (rest.headD (BitVec.allOnes 1024) &&& ~~~top) :: rest }).vleave) := by
  refine .of_vecRun rfl he fun _ _ => ?_
  rw [bind_ok (curHart_ok s0), hm, List.headD_eq_head?_getD]
  rfl

theorem does_mpop (he : Enters 32 h.b h.b s s0) (hm : (s0.hart s0.cur.slot).mstack = top :: rest) :
    Does (.mpop h) h s .next ((s0.upHart fun q => { q with mstack := rest }).vleave) := by
  refine .of_vecRun rfl he fun _ _ => ?_
  rw [bind_ok (curHart_ok s0), hm]
  rfl

theorem topAny_iff (k : Hart) : k.topAny = true ↔ ∃ i, i < min k.tileN 1024 ∧ (k.getK 1).getLsbD i = true := by
  simp only [Hart.topAny, Hart.maskN, List.any_eq_true, List.mem_range]

theorem does_mbrz {nz : Bool} {off : BitVec 40} (he : Enters 32 h.b h.b s s0)
    (hd : (s0.hart s0.cur.slot).earlierDone s0.cur.isX = true) :
    (((s0.hart s0.cur.slot).topAny == nz) = true → Reaches (s0.issue.n + off.signExtend 64) s0 s' →
      Does (.mbrz h nz off) h s (.taken (s0.issue.n + off.signExtend 64)) (s'.vleave)) ∧
    (((s0.hart s0.cur.slot).topAny == nz) = false → Does (.mbrz h nz off) h s .next (s0.vleave)) := by
  refine ⟨fun hz hr => .of_runHart rfl fun _ => ?_, fun hz => .of_runHart rfl fun _ => ?_⟩
  · rw [bind_ok he, bind_ok (vecCommitted_ok hd), bind_ok (curHart_ok s0)]
    simp only [hz, if_true]
    rw [bind_ok (get_ok s0), targetOf, bind_ok (transfer_ok hr)]
    rfl
  · rw [bind_ok he, bind_ok (vecCommitted_ok hd), bind_ok (curHart_ok s0)]
    simp only [hz, Bool.false_eq_true, if_false]
    rfl

end

/-! VTRIP and MLOOP. -/

/-- Writing elements leaves the hart but its registers and vector queues. -/
theorem vputList_hart (s : State) (d : VOp) (t : Ty) (n : Nat) (vals : List (Nat × Nat)) : ∃ v vdirty vhw vq,
    (s.vputList d t n vals).hart (s.vputList d t n vals).cur.slot =
      { s.hart s.cur.slot with v := v, vdirty := vdirty, vhw := vhw, vq := vq } := by
  cases d with
  | v k =>
    rw [show (s.vputList (.v k) t n vals).hart (s.vputList (.v k) t n vals).cur.slot = _ from State.hart_setHart ..]
    unfold Hart.setV
    split
    · exact ⟨_, _, _, _, rfl⟩
    · exact ⟨_, _, _, _, rfl⟩
  | q k => exact ⟨_, _, _, _, State.hart_setHart ..⟩

theorem foldl_put_true (l : List Nat) (p : Nat → Bool) (m : Mask) {i : Nat} (hi : i < 1024) :
    (l.foldl (fun (m : Mask) i => if p i = true then Mask.put m i true else m) m).getLsbD i =
      (decide (i ∈ l) && p i || m.getLsbD i) := by
  induction l generalizing m with
  | nil => simp
  | cons a l ih =>
    rw [List.foldl_cons, ih]
    by_cases ha : p a = true
    · rw [if_pos ha, Mask.getLsbD_put _ _ _ hi]
      by_cases e : i = a
      · subst e
        simp [ha]
      · simp [e]
    · rw [if_neg ha]
      by_cases e : i = a
      · subst e
        simp [ha]
      · simp [e]

section
variable {s s0 s' : State} {h : Hdr} {t : Ty} {v w : VOp} {top : Mask} {rest : List Mask}

theorem does_vtrip (he : Enters (widest [t]) h.b h.b s s0) (hm : (s0.hart s0.cur.slot).mstack.length < 16)
    (hn : (s0.hart s0.cur.slot).tileN ≤ 1024) : s0.v1 t w fun c u =>
      ∃ top : Mask, Does (.vtrip h t v w) h s .next
        (((((u.upHart fun q => { q with vstart := 0 }).vput h t v c).upHart fun q => { q with mstack := top :: q.mstack }).vleave)) ∧
        ∀ i, i < 1024 → top.getLsbD i = (({ s0.hart s0.cur.slot with vstart := 0 } : Hart).active h i && decide (c i ≠ 0) &&
          ((s0.hart s0.cur.slot).getK 1).getLsbD i) := by
  rw [State.v1_eq]
  refine ⟨(({ s0.hart s0.cur.slot with vstart := 0 } : Hart).actives h).foldl (fun (m : Mask) i =>
    if (decide (getElem t (s0.vval w) i ≠ 0) && ((s0.hart s0.cur.slot).getK 1).getLsbD i) = true then Mask.put m i true else m) 0,
    .of_runVec rfl he fun hi hq => ?_, fun i hi => ?_⟩
  · have guard : ¬((decide (16 ≤ (s0.hart s0.cur.slot).mstack.length) || decide (1024 < (s0.hart s0.cur.slot).tileN)) = true) := by
      simp
      omega
    rw [bind_ok (curHart_ok s0), if_neg guard, bind_ok (readTile_ok (hi.hasV1 hq rfl rfl)), bind_ok (modHart_ok ..),
      bind_ok (mapElems_ok ..), bind_ok (curHart_ok _), modHart_ok]
    refine congrArg _ (State.upHart_congr ?_)
    obtain ⟨q, vq, hart⟩ := s0.spops_curHart [.v w]
    have first : ((s0.vpop w).upHart fun q => { q with vstart := 0 }).hart
        ((s0.vpop w).upHart fun q => { q with vstart := 0 }).cur.slot = { s0.hart s0.cur.slot with vstart := 0, q := q, vq := vq } := by
      rw [show ((s0.vpop w).upHart fun q => { q with vstart := 0 }).hart ((s0.vpop w).upHart fun q => { q with vstart := 0 }).cur.slot =
        { (s0.vpop w).hart (s0.vpop w).cur.slot with vstart := 0 } from State.hart_setHart ..,
        show (s0.vpop w).hart (s0.vpop w).cur.slot = _ from hart]
    unfold State.vput
    obtain ⟨v', vdirty, vhw, vq', put⟩ := vputList_hart ((s0.vpop w).upHart fun q => { q with vstart := 0 }) v t
      (((s0.vpop w).upHart fun q => { q with vstart := 0 }).hart ((s0.vpop w).upHart fun q => { q with vstart := 0 }).cur.slot).tileN
      (((((s0.vpop w).upHart fun q => { q with vstart := 0 }).hart
        ((s0.vpop w).upHart fun q => { q with vstart := 0 }).cur.slot).actives h).map fun i => (i, getElem t (s0.vval w) i))
    dsimp only
    rw [put, first]
    rfl
  · rw [foldl_put_true _ (fun i => decide (getElem t (s0.vval w) i ≠ 0) && ((s0.hart s0.cur.slot).getK 1).getLsbD i) _ hi]
    simp only [Hart.mem_actives]
    simp [Bool.and_assoc]

/-- What MLOOP's pass does to the top: an element whose count is used up goes (08 R377). -/
theorem mloopPass_top (m : Nat) (top : Mask) (x : Nat → Nat) {i : Nat} (hi : i < 1024) : (mloopPass m top x).2.getLsbD i =
    if i ∈ (List.range m).filter (fun i => top.getLsbD i) then decide (1 < x i) else top.getLsbD i := by
  have fold : ∀ (l : List Nat) (u : Mask), (l.foldl (fun (t : Mask) i => if x i ≤ 1 then Mask.put t i false else t) u).getLsbD i =
      (u.getLsbD i && !(decide (i ∈ l) && decide (x i ≤ 1))) := by
    intro l
    induction l with
    | nil => simp
    | cons a l ih =>
      intro u
      rw [List.foldl_cons, ih]
      by_cases ha : x a ≤ 1
      · rw [if_pos ha, Mask.getLsbD_put _ _ _ hi]
        by_cases e : i = a
        · subst e
          simp [ha]
        · simp [e]
      · rw [if_neg ha]
        by_cases e : i = a
        · subst e
          simp [ha]
        · simp [e]
  unfold mloopPass
  dsimp only
  rw [fold]
  by_cases e : i ∈ (List.range m).filter (fun i => top.getLsbD i)
  · have on := (List.mem_filter.1 e).2
    simp only [on, e, if_true]
    by_cases l : x i ≤ 1 <;> simp [l]
    omega
  · simp [e]

theorem does_mloop {k : Fin 64} {off : BitVec 40} (he : Enters (widest [t]) h.b h.b s s0)
    (hd : (s0.hart s0.cur.slot).earlierDone s0.cur.isX = true) (hm : (s0.hart s0.cur.slot).mstack = top :: rest)
    {pass : List (Nat × Nat) × Mask} (hp : mloopPass (s0.hart s0.cur.slot).maskN top (fun i => getElem t (s0.vval (.v k)) i) = pass) :
    ((List.range (s0.hart s0.cur.slot).maskN).any (fun i => pass.2.getLsbD i) = true →
      Reaches (s0.issue.n + off.signExtend 64) s0 s' → Does (.mloop h t (.v k) off) h s (.taken (s0.issue.n + off.signExtend 64))
        (((s'.vputList (.v k) t (s0.hart s0.cur.slot).tileN pass.1).upHart fun q => { q with mstack := pass.2 :: rest }).vleave)) ∧
    ((List.range (s0.hart s0.cur.slot).maskN).any (fun i => pass.2.getLsbD i) = false → Does (.mloop h t (.v k) off) h s .next
      (((s0.vputList (.v k) t (s0.hart s0.cur.slot).tileN pass.1).upHart fun q => { q with mstack := rest }).vleave)) := by
  have he' : vecEnter (Ty.width t) h.b h.b s = .ok () s0 := by
    have : widest [t] = Ty.width t := Nat.zero_max ..
    rwa [Enters, this] at he
  have tile : readTile t (.v k) s0 = .ok (fun i => getElem t (s0.vval (.v k)) i) s0 := readTile_ok trivial
  refine ⟨fun more hr => .of_runHart rfl fun _ => ?_, fun done => .of_runHart rfl fun _ => ?_⟩
  · rw [bind_ok he', bind_ok (vecCommitted_ok hd), bind_ok (curHart_ok s0), hm]
    dsimp only
    rw [bind_ok tile, hp]
    simp only [more, if_true]
    rw [bind_ok (get_ok s0), targetOf, bind_ok (transfer_ok hr), bind_ok (writeElems_ok ..), bind_ok (modHart_ok ..)]
    rfl
  · rw [bind_ok he', bind_ok (vecCommitted_ok hd), bind_ok (curHart_ok s0), hm]
    dsimp only
    rw [bind_ok tile, hp]
    simp only [done, Bool.false_eq_true, if_false]
    rw [bind_ok (show (pure Ctl.next : M Ctl) s0 = .ok .next s0 from rfl), bind_ok (writeElems_ok ..), bind_ok (modHart_ok ..)]
    rfl

end

theorem some_below_iff (n : Nat) (m : Mask) :
    (List.range n).any (fun i => m.getLsbD i) = true ↔ ∃ i, i < n ∧ m.getLsbD i = true := by
  simp only [List.any_eq_true, List.mem_range]

/-- Settles O37: each body in turn, and what its masks hold. -/
theorem maskStackInstructions : Obligations.MaskStackInstructions := by
  intro s s0 s' h t lut d a b x v w nz off
  refine ⟨fun he => ⟨⟨_, does_klog he, fun i hi => klogMask_getLsbD _ _ _ hi⟩, fun hd => ⟨does_kcnt hd he, ?_, ?_⟩,
    does_mpush he, fun top rest hm => ⟨does_minv he hm, does_mpop he hm⟩, fun hd => ?_⟩, fun he => ⟨does_vtrip he, ?_⟩⟩
  · intro i hi on before
    have found : (List.range (min (s0.hart s0.cur.slot).tileN 1024)).find?
        (fun i => ((s0.hart s0.cur.slot).getK a.val).getLsbD i) = some i :=
      List.find?_range_eq_some.2 ⟨on, List.mem_range.2 hi, fun j hj => by simp [before j hj]⟩
    have does := does_kfirst (x := x) (a := a) hd he
    rwa [found] at does
  · intro none
    have missed : (List.range (min (s0.hart s0.cur.slot).tileN 1024)).find?
        (fun i => ((s0.hart s0.cur.slot).getK a.val).getLsbD i) = .none :=
      List.find?_eq_none.2 fun i hi => by simp [none i (List.mem_range.1 hi)]
    have does := does_kfirst (x := x) (a := a) hd he
    rwa [missed] at does
  · intro any
    have zero : ((s0.hart s0.cur.slot).topAny == nz) = true ↔ (nz = true ↔ any) := by
      rw [← show (s0.hart s0.cur.slot).topAny = true ↔ any from topAny_iff _]
      cases nz <;> cases (s0.hart s0.cur.slot).topAny <;> simp
    obtain ⟨taken, passed⟩ := does_mbrz (s' := s') (nz := nz) (off := off) he hd
    exact ⟨fun hz => taken (zero.2 hz), fun hz => passed (Bool.eq_false_iff.2 (zero.not.2 hz))⟩
  · intro top rest k hd hm hv c on counts
    subst hv
    obtain ⟨more, done⟩ := does_mloop (s' := s') (k := k) (off := off) he hd hm rfl
    refine ⟨_, fun i hi => mloopPass_top (min (s0.hart s0.cur.slot).tileN 1024) top c hi, fun some hr => more ?_ hr, fun none => done ?_⟩
    · exact (some_below_iff _ _).2 some
    · refine Bool.eq_false_iff.2 fun some => ?_
      obtain ⟨i, hi, bit⟩ := (some_below_iff _ _).1 some
      exact absurd bit (by rw [Bool.not_eq_true]; exact none i hi)

end Sys2Proof.Machine
end

section
/-! SUPPORT. Block formats and bit planes (03 R110, R114, R137; 08 R368..R372). -/

set_option Elab.async false

namespace Sys2Proof.Machine

open Sys2Proof

section
variable {s s0 : State} {h : Hdr} {t v : Ty} {rm : Rnd} {off : BitVec 7} {d c a : VOp}

theorem vpop_tileN (s : State) (a : VOp) : ((s.vpop a).hart (s.vpop a).cur.slot).tileN = (s.hart s.cur.slot).tileN := by
  obtain ⟨q, vq, hart⟩ := s.spops_curHart [.v a]
  rw [show (s.vpop a).hart (s.vpop a).cur.slot = _ from hart]
  rfl

theorem does_vqblk {k : Fin 64} (he : Enters (widest [t, v]) h.b h.b s s0) : s0.v1 v a fun x u =>
    let n := (s0.hart s0.cur.slot).tileN
    let blocks := (blocksOf n).map fun b => quantBlock t (s0.rounding rm 0).mode (fun i => (s0.rounding rm (b.1 + i)).u)
      ((List.range b.2).map fun i => Ty.decode v (x (b.1 + i)))
    let scales := (u.vval (.v k)).setBytes (32 * off.toNat) (blocks.map fun b => BitVec.ofNat 8 b.1)
    Does (.vqblk h t v rm off d (.v k) a) h s .next
      (((u.upHart fun q => q.setV k.val scales (some (32 * off.toNat + blocks.length - 1))).vputList d t n
        (placed (blocks.flatMap fun b => b.2))).vleave) := by
  rw [State.v1_eq]
  refine .of_runVec rfl he fun hi hq => ?_
  rw [bind_ok (rctx_ok rm s0), bind_ok (readTile_ok (hi.hasV1 hq rfl rfl)), bind_ok (curHart_ok _), vpop_tileN]
  exact writeElems_ok ..

theorem does_vdqblk (he : Enters (widest [t, v]) h.b h.b s s0) : s0.v1 v a fun x u =>
    Does (.vdqblk h t v rm off d a c) h s .next (((u.vpop c).vput h t d fun i => roundTo t (s0.rounding rm i) false
      (descale v ((u.vval c).get (32 * off.toNat + i / 32)).toNat (x i))).vleave) := by
  rw [State.v1_eq]
  refine .of_runVec rfl he fun hi hq => ?_
  rw [bind_ok (rctx_ok rm s0), bind_ok (readTile_ok (hi.hasV1 hq rfl rfl)),
    bind_ok (readV_ok (s := s0.vpop a) (hi.hasSrc (l := [.v a]) (a := .v c) hq rfl rfl)), mapElems_ok]

/-- The planes of values, one element after the other. -/
theorem getElem_planes (m : Memory) (f : Nat → Nat) {len i : Nat} (hi : i < len) :
    getElem .bp8 ((List.range len).foldl (fun m i => setElem .bp8 m i (f i)) m) i = f i % 256 := by
  have whole := getElem_foldl_setElem .bp8 ((List.range len).map fun i => (i, f i))
    (by rw [List.map_map]; exact (List.map_id (List.range len)).symm ▸ List.nodup_range) m i
  rw [List.foldl_map] at whole
  refine whole.trans ?_
  have found : ((List.range len).map fun i => (i, f i)).find? (fun v => v.1 = i) = some (i, f i) := by
    rw [List.find?_map]
    have : (List.range len).find? ((fun v : Nat × Nat => decide (v.1 = i)) ∘ fun i => (i, f i)) = some i :=
      List.find?_range_eq_some.2 ⟨by simp, List.mem_range.2 hi, fun j hj => by simp; omega⟩
    rw [this]
    rfl
  rw [found]
  rfl

theorem does_vplane (he : Enters (widest [.bp8]) h.b h.b s s0) : s0.v1 .i8 a fun x u =>
    let len := Ty.bytesFor .bp8 (s0.hart s0.cur.slot).tileN
    ∃ m : Memory, Does (.vplane h d a) h s .next
      ((match d with
        | .v k => u.upHart fun q => q.setV k.val m (some (len - 1))
        | .q k => u.upHart fun q =>
          { q with vq := q.vq.put k.val (q.vq.get k.val [] ++ [m.bytes 0 len]) }).vleave) ∧
      ∀ i, i < len → getElem .bp8 m i = if i < (s0.hart s0.cur.slot).tileN then x i % 256 else 0 := by
  rw [State.v1_eq]
  intro len
  refine ⟨(List.range len).foldl (fun m i => setElem .bp8 m i (if i < (s0.hart s0.cur.slot).tileN then getElem .i8 (s0.vval a) i else 0))
    (match d with
      | .v k => ((s0.vpop a).hart (s0.vpop a).cur.slot).getV k.val
      | .q _ => []), .of_runVec rfl he fun hi hq => ?_, fun i hi => ?_⟩
  · rw [bind_ok (readTile_ok (hi.hasV1 hq rfl rfl)), bind_ok (curHart_ok _), vpop_tileN]
    cases d <;> rfl
  · rw [getElem_planes _ _ hi]
    split <;> rfl

theorem planeValue_eq (x : Nat) (p : BitVec 4) : wrapTo 8 (planeValue (BitVec.ofNat 8 x) p.toNat) =
    ((BitVec.ofNat 8 x).toInt / 2 ^ (8 - p.toNat) * 2 ^ (8 - p.toNat) % 256).toNat := by
  rw [planeValue, wrapTo, Nat.cast_pow]
  rfl

theorem does_vunplane {p : BitVec 4} (he : Enters (widest [.i8]) h.b h.b s s0) : Does (.vunplane h p d a) h s .next
    ((s0.v1 .bp8 a fun x u => u.vputList d .i8 (s0.hart s0.cur.slot).tileN
      (((List.range (s0.hart s0.cur.slot).tileN)).map fun i =>
        (i, ((BitVec.ofNat 8 (x i)).toInt / 2 ^ (8 - p.toNat) * 2 ^ (8 - p.toNat) % 256).toNat))).vleave) := by
  refine .of_runVec rfl he fun hi hq => ?_
  rw [bind_ok (readTile_ok (hi.hasV1 hq rfl rfl)), bind_ok (curHart_ok _), vpop_tileN, writeElems_ok]
  simp only [planeValue_eq]
  rfl

end

/-- Settles O36: each body in turn; the planes of VPLANE are those of the values below N and zero beyond. -/
theorem blockFormats : Obligations.BlockFormats := by
  intro s s0 h t v rm off p d c a
  refine ⟨fun he => ⟨fun k hk => ?_, does_vdqblk he⟩, does_vplane, does_vunplane⟩
  subst hk
  exact does_vqblk he

end Sys2Proof.Machine
end

section
/-! SUPPORT. Reductions and scans (03 R130..R135; 08 R345, R348; 09 R391..R395). -/

set_option Elab.async false

namespace Sys2Proof.Machine

open Sys2Proof

/-- An instruction that carries data between lanes does its body's effect and leaves vstart 0. -/
theorem Does.of_runJunction {i : Instr} {h : Hdr} {body : M Unit} {s s0 t : State}
    (hx : Sys2Proof.Machine.exec i s = runJunction i h body s) (he : Enters (widest i.tileTys) true h.b s s0)
    (hb : Issues i h s → SameQueues s s0 → body s0 = .ok () t) : Does i h s .next t.vleave := by
  refine .of_runSeq hx fun hi => ?_
  rw [bind_ok he, bind_ok (hb hi (hi.entered he).queues)]
  rfl

/-- Reading a vector source changes no rounding context. -/
theorem rounding_vpop (s : State) (a : VOp) (rm : Rnd) : (s.vpop a).rounding rm = s.rounding rm := by
  obtain ⟨q, vq, hart⟩ := s.spops_curHart [.v a]
  have count : ((s.vpop a).stream (s.vpop a).cur).icount = (s.stream s.cur).icount := by
    rw [State.vpop_cur]
    cases a with
    | v n => rfl
    | q n => exact State.proj_stream_setHart Stream.icount rfl (fun isX => by cases isX <;> rfl) s.cur
  funext i
  rw [State.rounding, show (s.vpop a).hart (s.vpop a).cur.slot = _ from hart, count]
  rfl

section
variable {s s0 : State} {h : Hdr} {op : RedOp} {seg : Bool} {t : Ty} {rm : Rnd} {v e a b : VOp} {x y : XOp}

/-- The results of VRED as a hart sees its lists. -/
def redResults (k : Hart) (h : Hdr) (op : RedOp) (seg : Bool) (t : Ty) (c : Nat → RCtx) (el : Nat → Nat) : List Nat :=
  (k.lists seg).zipIdx.map fun l => reduceList op t c (k.active h) el l.2 l.1

theorem does_vred (he : Enters (widest (Instr.tileTys (.vred h op seg t rm (.v v) a))) true h.b s s0) : s0.v1 t a fun el u =>
    Does (.vred h op seg t rm (.v v) a) h s .next ((u.vputList v (RedOp.resTy op t) (s0.hart s0.cur.slot).tileN
      (placed (redResults (s0.hart s0.cur.slot) h op seg t (s0.rounding rm) el))).vleave) := by
  rw [State.v1_eq]
  refine .of_runJunction rfl he fun hi hq => ?_
  obtain ⟨q, vq, hart⟩ := s0.spops_curHart [.v a]
  rw [bind_ok (readTile_ok (hi.hasV1 hq rfl rfl)), bind_ok (rctx_ok rm _), rounding_vpop, bind_ok (curHart_ok _),
    show (s0.vpop a).hart (s0.vpop a).cur.slot = _ from hart]
  exact writeElems_ok ..

theorem does_vred_scalar (he : Enters (widest (Instr.tileTys (.vred h op seg t rm (.x x) a))) true h.b s s0) : s0.v1 t a fun el u =>
    Does (.vred h op seg t rm (.x x) a) h s .next ((u.xcommit x (extTy (RedOp.resTy op t)
      ((redResults { s0.hart s0.cur.slot with vstart := 0 } h op seg t (s0.rounding rm) el).headD 0))).vleave) := by
  rw [State.v1_eq]
  refine .of_runJunction rfl he fun hi hq => ?_
  obtain ⟨q, vq, hart⟩ := s0.spops_curHart [.v a]
  rw [bind_ok (readTile_ok (hi.hasV1 hq rfl rfl)), bind_ok (rctx_ok rm _), rounding_vpop, bind_ok (curHart_ok _),
    show (s0.vpop a).hart (s0.vpop a).cur.slot = _ from hart, List.headD_eq_head?_getD]
  exact writeCommit_ok ..

theorem does_vscan (he : Enters (widest [t]) true h.b s s0) : s0.v1 t a fun el u =>
    Does (.vscan h op seg t rm v a) h s .next ((u.vputList v t (s0.hart s0.cur.slot).tileN
      ((((s0.hart s0.cur.slot).lists seg).flatMap fun l => scanFold op t (s0.rounding rm) none (l.map fun i =>
        (i, if (s0.hart s0.cur.slot).active h i then el i else RedOp.identity op t))).filter fun o =>
          (s0.hart s0.cur.slot).active h o.1)).vleave) := by
  rw [State.v1_eq]
  refine .of_runJunction rfl he fun hi hq => ?_
  obtain ⟨q, vq, hart⟩ := s0.spops_curHart [.v a]
  rw [bind_ok (readTile_ok (hi.hasV1 hq rfl rfl)), bind_ok (rctx_ok rm _), rounding_vpop, bind_ok (curHart_ok _),
    show (s0.vpop a).hart (s0.vpop a).cur.slot = _ from hart]
  exact writeElems_ok ..

/-- The compensated sums of a hart's lists. -/
def compSums (k : Hart) (h : Hdr) (seg : Bool) (t : Ty) (ovft : Nat) (el lo : Nat → Nat) : List (Nat × Nat) :=
  (k.lists seg).map fun l => compSum t ovft (l.map fun i => if k.active h i then (el i, lo i) else (minusZero t, minusZero t))

theorem placed_map {α : Type} (f : α → Nat) (l : List α) : placed (l.map f) = l.zipIdx.map fun x => (x.2, f x.1) := by
  rw [placed, List.zipIdx_map, List.map_map]
  rfl

/-- The elements of the low parts: of a source, or zero. -/
def lowParts (t : Ty) (b : Option VOp) : M (Nat → Nat) :=
  match b with
  | some o => readTile t o
  | none => pure fun _ => 0

/-- VREDP after its sources have been read. -/
theorem does_vredp {b : Option VOp} {lo : Nat → Nat} {u : State} {l : List VSrc} (he : Enters (widest [t]) true h.b s s0)
    (hu : u = s0.spops l)
    (hy : ∀ d, Issues (.vredp h seg t d a b) h s → SameQueues s s0 → lowParts t b (s0.vpop a) = .ok lo u) :
    let k := s0.hart s0.cur.slot
    let first : Hart := { k with vstart := 0 }
    let el := fun i => getElem t (s0.vval a) i
    Does (.vredp h seg t (.v v e) a b) h s .next
      (((u.vputList v t k.tileN (placed ((compSums k h seg t k.ovft.toNat el lo).map Prod.fst))).vputList e t k.tileN
          (placed ((compSums k h seg t k.ovft.toNat el lo).map Prod.snd))).vleave) ∧
    Does (.vredp h seg t (.x x y) a b) h s .next
      (((u.xcommit x (BitVec.ofNat 64 ((compSums first h seg t k.ovft.toNat el lo).headD (0, 0)).1)).xcommit y
        (BitVec.ofNat 64 ((compSums first h seg t k.ovft.toNat el lo).headD (0, 0)).2)).vleave) := by
  intro k first el
  obtain ⟨q, vq, hart⟩ := s0.spops_curHart l
  rw [← hu] at hart
  refine ⟨.of_runJunction rfl he fun hi hq => ?_, .of_runJunction rfl he fun hi hq => ?_⟩
  · have hy := hy _ hi hq
    rw [bind_ok (readTile_ok (hi.hasV1 hq rfl rfl))]
    cases b <;>
    · refine (bind_ok hy).trans ?_
      beta_reduce
      rw [bind_ok (curHart_ok _), hart, placed_map, placed_map]
      exact (bind_ok (writeElems_ok ..)).trans (writeElems_ok ..)
  · have hy := hy _ hi hq
    rw [bind_ok (readTile_ok (hi.hasV1 hq rfl rfl))]
    cases b <;>
    · refine (bind_ok hy).trans ?_
      beta_reduce
      rw [bind_ok (curHart_ok _), hart, List.headD_eq_head?_getD]
      exact (bind_ok (writeCommit_ok ..)).trans (writeCommit_ok ..)

end

/-- Settles O38: each body in turn, with the hart as it was when the sources were read. -/
theorem reductionsAndScans : Obligations.ReductionsAndScans := by
  intro s s0 h op seg t rm v e a b x y
  refine ⟨fun he => ⟨does_vred he, does_vred_scalar he⟩, fun he => ⟨does_vscan he, ?_, ?_, ?_, ?_⟩⟩
  · exact (does_vredp (x := x) (y := y) (b := none) (l := [.v a]) he rfl fun _ _ _ => rfl).1
  · exact (does_vredp (v := v) (e := e) (b := none) (l := [.v a]) he rfl fun _ _ _ => rfl).2
  · exact (does_vredp (x := x) (y := y) (b := some b) (l := [.v a, .v b]) he rfl fun d hi hq =>
      readTile_ok (s := s0.vpop a) (hi.hasSrc (l := [.v a]) (a := .v b) hq rfl rfl)).1
  · exact (does_vredp (v := v) (e := e) (b := some b) (l := [.v a, .v b]) he rfl fun d hi hq =>
      readTile_ok (s := s0.vpop a) (hi.hasSrc (l := [.v a]) (a := .v b) hq rfl rfl)).2

end Sys2Proof.Machine
end

section
/-! SUPPORT. Permutations, selection, sorting and single elements (03 R136; 09 R396..R400). -/

set_option Elab.async false

namespace Sys2Proof.Machine

open Sys2Proof

/-! Permutations (09 R396). -/

/-- The element that a permutation takes from a place of the tile, or with SEG of the row of i; zero beyond. -/
def elemAt (k : Hart) (seg : Bool) (el : Nat → Nat) (i j : Nat) : Nat :=
  if j < (if seg then k.vl.toNat else k.tileN) then el ((if seg then i / k.vl.toNat * k.vl.toNat else 0) + j) else 0

theorem inTile_getD (k : Hart) (seg : Bool) (el : Nat → Nat) (i j : Nat) : (inTile k seg el i j).getD 0 = elemAt k seg el i j := by
  unfold inTile elemAt
  cases seg with
  | false =>
    rw [if_neg Bool.false_ne_true, if_neg Bool.false_ne_true, if_neg Bool.false_ne_true, Nat.zero_add]
    split <;> rfl
  | true =>
    rw [if_pos rfl, if_pos rfl, if_pos rfl]
    split <;> rfl

theorem moveElems_ok (h : Hdr) (t : Ty) (d : VOp) (src : Hart → Nat → Option Nat) (s : State) :
    moveElems h t d src s = .ok () (s.vput h t d fun i => (src (s.hart s.cur.slot) i).getD 0) :=
  (bind_ok (curHart_ok s)).trans (mapElems_ok ..)

/-- The same element of a hart that has taken entries from its queues. -/
theorem elemAt_queues (k : Hart) (q vq) (seg : Bool) (el : Nat → Nat) (i j : Nat) :
    elemAt { k with q := q, vq := vq } seg el i j = elemAt k seg el i j := rfl

theorem posIn_eq (k : Hart) (seg : Bool) (i : Nat) :
    posIn k seg i = (if seg then i % k.vl.toNat else i, if seg then k.vl.toNat else k.tileN) := by
  cases seg <;> rfl

/-- VSLIDE's source. -/
theorem slide_getD (k : Hart) (seg wrap : Bool) (el : Nat → Nat) (i p : Nat) (z : Int) :
    ((slideSrc wrap p (if seg then k.vl.toNat else k.tileN) z).bind fun j => inTile k seg el i j).getD 0 =
      if wrap then elemAt k seg el i (((p : Int) - z) % ((if seg then k.vl.toNat else k.tileN : Nat) : Int)).toNat
      else if 0 ≤ (p : Int) - z then elemAt k seg el i ((p : Int) - z).toNat else 0 := by
  unfold slideSrc
  dsimp only
  cases wrap with
  | true => exact inTile_getD ..
  | false =>
    simp only [Bool.false_eq_true, if_false]
    by_cases h0 : 0 ≤ (p : Int) - z
    · rw [if_pos h0]
      by_cases hl : (p : Int) - z < ((if seg then k.vl.toNat else k.tileN : Nat) : Int)
      · rw [if_pos ⟨h0, hl⟩]
        exact inTile_getD ..
      · rw [if_neg fun h => hl h.2, elemAt, if_neg (by omega)]
        rfl
    · rw [if_neg fun h => h0 h.1, if_neg h0]
      rfl

section
variable {s s0 : State} {h : Hdr} {seg ix flag : Bool} {t : Ty} {d a b : VOp} {x : XOp}

theorem does_vperm (he : Enters (widest [t, if ix then .n16 else .n32]) true h.b s s0) : s0.v1 t a fun el u =>
    u.v1 (if ix then .n16 else .n32) b fun idx u =>
      Does (.vperm h seg ix t d a b) h s .next ((u.vput h t d fun i => elemAt (s0.hart s0.cur.slot) seg el i (idx i)).vleave) := by
  rw [State.v1_eq, State.v1_eq]
  refine .of_runJunction rfl he fun hi hq => ?_
  obtain ⟨q, vq, hart⟩ := s0.spops_curHart [.v a, .v b]
  rw [bind_ok (readTile_ok (hi.hasV1 hq rfl rfl)), bind_ok (readTile_ok (s := s0.vpop a) (hi.hasSrc (l := [.v a]) (a := .v b) hq rfl rfl)),
    moveElems_ok, show ((s0.vpop a).vpop b).hart ((s0.vpop a).vpop b).cur.slot = _ from hart]
  simp only [inTile_getD, elemAt_queues]

variable (he : Enters (widest [t]) true h.b s s0)
include he

theorem does_vslide : s0.v1 t a fun el u => u.x1 x fun k u => Does (.vslide h seg flag t d a x) h s .next ((u.vput h t d fun i =>
    let j := (((if seg then i % (s0.hart s0.cur.slot).vl.toNat else i : Nat) : Int)) - k.toInt
    if flag then elemAt (s0.hart s0.cur.slot) seg el i
      (j % ((if seg then (s0.hart s0.cur.slot).vl.toNat else (s0.hart s0.cur.slot).tileN : Nat) : Int)).toNat
    else if 0 ≤ j then elemAt (s0.hart s0.cur.slot) seg el i j.toNat else 0).vleave) := by
  rw [State.v1_eq, State.x1]
  refine .of_runJunction rfl he fun hi hq => ?_
  obtain ⟨q, vq, hart⟩ := s0.spops_curHart [.v a, .x x]
  rw [bind_ok (readTile_ok (hi.hasV1 hq rfl rfl)), bind_ok (readX_ok (s := s0.vpop a) (hi.hasSrc (l := [.v a]) (a := .x x) hq rfl rfl)),
    moveElems_ok, show ((s0.vpop a).xpop x).hart ((s0.vpop a).xpop x).cur.slot = _ from hart]
  simp only [posIn_eq]
  exact congrArg (fun f => EStateM.Result.ok () (((s0.vpop a).xpop x).vput h t d f)) (funext fun i => slide_getD _ _ _ _ _ _ _)

theorem does_vzip : s0.v1 t a fun el u => u.v1 t b fun el' u => Does (.vzip h seg flag t d a b) h s .next ((u.vput h t d fun i =>
    elemAt (s0.hart s0.cur.slot) seg (if (if seg then i % (s0.hart s0.cur.slot).vl.toNat else i) % 2 = 0 then el else el') i
      ((if seg then i % (s0.hart s0.cur.slot).vl.toNat else i) / 2 +
        if flag then (if seg then (s0.hart s0.cur.slot).vl.toNat else (s0.hart s0.cur.slot).tileN) / 2 else 0)).vleave) := by
  rw [State.v1_eq, State.v1_eq]
  refine .of_runJunction rfl he fun hi hq => ?_
  obtain ⟨q, vq, hart⟩ := s0.spops_curHart [.v a, .v b]
  rw [bind_ok (readTile_ok (hi.hasV1 hq rfl rfl)), bind_ok (readTile_ok (s := s0.vpop a) (hi.hasSrc (l := [.v a]) (a := .v b) hq rfl rfl)),
    moveElems_ok, show ((s0.vpop a).vpop b).hart ((s0.vpop a).vpop b).cur.slot = _ from hart]
  simp only [posIn_eq, inTile_getD, elemAt_queues]
  rfl

theorem does_vunzip : s0.v1 t a fun el u => u.v1 t b fun el' u => Does (.vunzip h seg flag t d a b) h s .next ((u.vput h t d fun i =>
    let j := 2 * (if seg then i % (s0.hart s0.cur.slot).vl.toNat else i) + flag.toNat
    let len := if seg then (s0.hart s0.cur.slot).vl.toNat else (s0.hart s0.cur.slot).tileN
    if j < len then elemAt (s0.hart s0.cur.slot) seg el i j else elemAt (s0.hart s0.cur.slot) seg el' i (j - len)).vleave) := by
  rw [State.v1_eq, State.v1_eq]
  refine .of_runJunction rfl he fun hi hq => ?_
  obtain ⟨q, vq, hart⟩ := s0.spops_curHart [.v a, .v b]
  rw [bind_ok (readTile_ok (hi.hasV1 hq rfl rfl)), bind_ok (readTile_ok (s := s0.vpop a) (hi.hasSrc (l := [.v a]) (a := .v b) hq rfl rfl)),
    moveElems_ok, show ((s0.vpop a).vpop b).hart ((s0.vpop a).vpop b).cur.slot = _ from hart]
  simp only [posIn_eq, apply_ite (fun o : Option Nat => o.getD 0), inTile_getD, elemAt_queues]
  rfl

theorem does_vtrn : s0.v1 t a fun el u => Does (.vtrn h t d a) h s .next ((u.vput h t d fun i =>
    let j := i % (s0.hart s0.cur.slot).rc.toNat * (s0.hart s0.cur.slot).vl.toNat + i / (s0.hart s0.cur.slot).rc.toNat
    if j < (s0.hart s0.cur.slot).tileN then el j else 0).vleave) := by
  rw [State.v1_eq]
  refine .of_runJunction rfl he fun hi hq => ?_
  obtain ⟨q, vq, hart⟩ := s0.spops_curHart [.v a]
  rw [bind_ok (readTile_ok (hi.hasV1 hq rfl rfl)), moveElems_ok, show (s0.vpop a).hart (s0.vpop a).cur.slot = _ from hart]
  simp only [inTile_getD, elemAt, Bool.false_eq_true, if_false, Nat.zero_add]
  rfl

end

/-- Settles O39: each body in turn; an element is taken from its place of the tile or row. -/
theorem permutations : Obligations.Permutations := by
  intro s s0 h seg ix flag t d a b x
  exact ⟨fun he => does_vperm he, fun he => ⟨does_vslide he, ⟨does_vzip he, does_vunzip he⟩, does_vtrn he⟩⟩

/-! Selection, sorting and single elements (09 R397..R400). -/

section
variable {s s0 : State} {h : Hdr} {z : Bool} {t : Ty} {d e a : VOp} {x y : XOp}

theorem does_vcompress (he : Enters (widest [t]) true h.b s s0) : s0.v1 t a fun el u =>
    let sel := (s0.hart s0.cur.slot).actives h
    Does (.vcompress h z t d a x) h s .next
      (((u.vputList d t (s0.hart s0.cur.slot).tileN ((sel.zipIdx.map fun im => (im.2, el im.1)) ++
        (if z then ((List.range (s0.hart s0.cur.slot).tileN).filter fun i => sel.length ≤ i).map fun i => (i, 0) else []))).xcommit x
          (BitVec.ofNat 64 sel.length)).vleave) := by
  rw [State.v1_eq]
  refine .of_runJunction rfl he fun hi hq => ?_
  obtain ⟨q, vq, hart⟩ := s0.spops_curHart [.v a]
  rw [bind_ok (readTile_ok (hi.hasV1 hq rfl rfl)), bind_ok (curHart_ok _), show (s0.vpop a).hart (s0.vpop a).cur.slot = _ from hart]
  exact (bind_ok (writeElems_ok ..)).trans (writeCommit_ok ..)

theorem does_vexpand (he : Enters (widest [t]) true h.b s s0) : s0.v1 t a fun el u =>
    Does (.vexpand h z t d a) h s .next
      ((u.vputList d t (s0.hart s0.cur.slot).tileN ((((s0.hart s0.cur.slot).actives h).zipIdx.map fun im => (im.1, el im.2)) ++
        (if z then ((List.range (s0.hart s0.cur.slot).tileN).filter fun i => !(s0.hart s0.cur.slot).active h i).map fun i => (i, 0)
          else []))).vleave) := by
  rw [State.v1_eq]
  refine .of_runJunction rfl he fun hi hq => ?_
  obtain ⟨q, vq, hart⟩ := s0.spops_curHart [.v a]
  rw [bind_ok (readTile_ok (hi.hasV1 hq rfl rfl)), bind_ok (curHart_ok _), show (s0.vpop a).hart (s0.vpop a).cur.slot = _ from hart]
  exact writeElems_ok ..

theorem does_vextr (he : Enters (widest [t]) true h.b s s0) : s0.v1 t a fun el u => u.x1 x fun j u =>
    Does (.vextr h t y a x) h s .next
      ((u.xcommit y (if j.toNat < (s0.hart s0.cur.slot).tileN then extTy t (el j.toNat) else 0)).vleave) := by
  rw [State.v1_eq, State.x1]
  refine .of_runJunction rfl he fun hi hq => ?_
  obtain ⟨q, vq, hart⟩ := s0.spops_curHart [.v a, .x x]
  rw [bind_ok (readTile_ok (hi.hasV1 hq rfl rfl)), bind_ok (readX_ok (s := s0.vpop a) (hi.hasSrc (l := [.v a]) (a := .x x) hq rfl rfl)),
    bind_ok (curHart_ok _), show ((s0.vpop a).xpop x).hart ((s0.vpop a).xpop x).cur.slot = _ from hart]
  exact writeCommit_ok ..

theorem does_vinsr (he : Enters (widest [t]) true h.b s s0) : s0.x2 x y fun w j u => Does (.vinsr h t d x y) h s .next
    ((u.vputList d t (s0.hart s0.cur.slot).tileN
      (if j.toNat < (s0.hart s0.cur.slot).tileN ∧ (s0.hart s0.cur.slot).active h j.toNat = true
        then [(j.toNat, w.toNat % 2 ^ Ty.width t)] else [])).vleave) := by
  rw [State.x2, State.x1, State.x1]
  refine .of_runJunction rfl he fun hi hq => ?_
  obtain ⟨q, vq, hart⟩ := s0.spops_curHart [.x x, .x y]
  rw [bind_ok (readX_ok (s := s0) (hi.hasSrc (l := []) (a := .x x) hq rfl rfl)),
    bind_ok (readX_ok (s := s0.xpop x) (hi.hasSrc (l := [.x x]) (a := .x y) hq rfl rfl)),
    bind_ok (curHart_ok _), show ((s0.xpop x).xpop y).hart ((s0.xpop x).xpop y).cur.slot = _ from hart]
  simp only [Bool.and_eq_true, decide_eq_true_eq]
  exact writeElems_ok ..

theorem does_vsortk (he : Enters (widest [t, .n32]) true h.b s s0) : s0.v1 t a fun el u => u.x1 x fun n u =>
    let sel := (s0.hart s0.cur.slot).actives h
    let order := sel.foldl (fun l i => insertKey (fun i j => keyBefore z t (el i) (el j)) i l) []
    let top := order.take (min n.toNat sel.length)
    let perm := top ++ sel.filter fun i => !top.contains i
    Does (.vsortk h z t d e a x) h s .next
      (((u.vputList d t (s0.hart s0.cur.slot).tileN (placed (perm.map el))).vputList e .n32 (s0.hart s0.cur.slot).tileN
        (placed perm)).vleave) := by
  rw [State.v1_eq, State.x1]
  refine .of_runJunction rfl he fun hi hq => ?_
  obtain ⟨q, vq, hart⟩ := s0.spops_curHart [.v a, .x x]
  rw [bind_ok (readTile_ok (hi.hasV1 hq rfl rfl)), bind_ok (readX_ok (s := s0.vpop a) (hi.hasSrc (l := [.v a]) (a := .x x) hq rfl rfl)),
    bind_ok (curHart_ok _), show ((s0.vpop a).xpop x).hart ((s0.vpop a).xpop x).cur.slot = _ from hart, placed_map]
  exact (bind_ok (writeElems_ok ..)).trans (writeElems_ok ..)

theorem does_rdv (he : Enters 8 true true s s0) (hd : (s0.hart s0.cur.slot).earlierDone s0.cur.isX = true) :
    Does (.rdv h y) h s .next ((s0.xcommit y ((laneSet (s0.hart s0.cur.slot).lanesOf).setWidth 64)).vleave) := by
  refine .of_runSeq rfl fun _ => ?_
  rw [bind_ok he, bind_ok (vecCommitted_ok hd), bind_ok (curHart_ok s0), bind_ok (writeCommit_ok ..)]
  rfl

end

/-- Settles O40: each body in turn, with the hart as it was when the sources were read. -/
theorem selectionAndSorting : Obligations.SelectionAndSorting := by
  intro s s0 h z t d e a x y
  exact ⟨fun he => ⟨⟨does_vcompress he, does_vexpand he, does_vextr he⟩, does_vinsr he⟩, does_vsortk, does_rdv⟩

end Sys2Proof.Machine
end

section
/-! SUPPORT. Tile shape, allotment and strips (08 R342, R343, R350..R357). -/

set_option Elab.async false

namespace Sys2Proof.Machine

open Sys2Proof

theorem configRun_ok {hd : Hdr} {wait body : M Unit} {s s1 t : State} (hr : Room s) (hw : wait s = .ok () s1)
    (hb : body (s1.enterOrder 0 hd.b hd.b) = .ok () t) : configRun hd wait body s = .ok () t.vleave := by
  rw [configRun, bind_ok hr, bind_ok hw]
  exact bind_ok hb

section
variable {s s' : State} {h : Hdr} {t : Ty} {d : XOp} {a : Fin 64} {slot : Nat} {isX : Bool}

theorem does_setvl (hr : Room s) :
    let rc := (s.hart s.cur.slot).rc.toNat
    let n := (s.xval (.x a)).toNat
    let cap := max 1 (min 8192 (32768 / (Ty.width t * rc)))
    let vl := max 1 (min n cap)
    requestLanes (groupsNeeded vl rc (Ty.width t)) s = .ok () s' →
    Does (.setvl h t d a) h s .next
      ((((s'.enterOrder 0 h.b h.b).upHart fun q => { q with vl := BitVec.ofNat 14 vl }).xcommit d (BitVec.ofNat 64 (min n cap))).vleave) := by
  intro rc n cap vl hl
  refine .of_runSeq rfl fun _ => ?_
  rw [bind_ok (readReg_ok a s), bind_ok (curHart_ok s)]
  exact configRun_ok hr hl ((bind_ok (modHart_ok ..)).trans (writeCommit_ok ..))

theorem does_setvlRel (hc : s.cur = .stream slot isX) (hr : Room s) (hd : (s.hart slot).earlierDone isX = true) :
    Does (.setvlRel h d) h s .next (((s.enterOrder 0 h.b h.b).xcommit d 0).releaseLanes slot).vleave := by
  refine .of_runSeq rfl fun _ => configRun_ok hr (vecCommitted_ok (by rw [hc]; exact hd)) ?_
  have here : curSlot (s.enterOrder 0 h.b h.b) = .ok slot (s.enterOrder 0 h.b h.b) := by
    rw [show slot = (s.enterOrder 0 h.b h.b).cur.slot by rw [(enterOrder_entered ..).cur, hc]; rfl]
    rfl
  rw [bind_ok here, bind_ok (writeCommit_ok ..)]
  rfl

/-- What an instruction of the configuration reads once its entry stands in the order. -/
theorem readReg_entered (hi : ∃ st, s.stream? s.cur = some st ∧ st.live = true ∧ st.captured = none) (b r w : _) :
    readReg a (s.enterOrder b r w) = .ok (s.xval (.x a)) (s.enterOrder b r w) := by
  obtain ⟨st, hst, -⟩ := hi
  have entered := enterOrder_entered s b r w
  rw [readReg_ok, State.xval, entered.cur, entered.stream (State.present_of_live hst)]
  rfl

theorem does_setrc (hr : Room s) :
    let n := (s.xval (.x a)).toNat
    let rows := max 1 (min n (min 16 (32768 / (Ty.width t * (s.hart s.cur.slot).vl.toNat))))
    Does (.setrc h t d a) h s .next
      (((s.enterOrder 0 h.b h.b).upHart fun q => { q with rc := BitVec.ofNat 5 rows }).xcommit d (BitVec.ofNat 64 rows)).vleave := by
  intro n rows
  refine .of_runSeq rfl fun hi => configRun_ok hr rfl ?_
  have entered := enterOrder_entered s 0 h.b h.b
  rw [bind_ok (readReg_entered hi.live ..), bind_ok (curHart_ok _), entered.hart, entered.cur]
  exact (bind_ok (modHart_ok ..)).trans (writeCommit_ok ..)

end

/-! ALLOC and SHRINK (08 R354, R355). -/

/-- The hart with registers old .. new - 1 gained: zero, dirty, and nothing written yet. -/
def Hart.gain (h : Hart) (old new : Nat) : Hart :=
  { h with
    allot := BitVec.ofNat 7 new
    v := h.v.filter fun c => c.1 < 4096 * old || 4096 * new ≤ c.1
    vdirty := ((List.range new).filter fun j => old ≤ j).foldl (fun (w : Word) j => w ||| (1#64) <<< j) h.vdirty
    vhw := ((List.range new).filter fun j => old ≤ j).foldl (fun l j => l.put j 0) h.vhw }

/-- The hart with its registers from new on released. -/
def Hart.lose (h : Hart) (new : Nat) : Hart :=
  { h with
    allot := BitVec.ofNat 7 new
    v := h.v.filter fun c => c.1 < 4096 * new
    vdirty := h.vdirty &&& BitVec.ofNat 64 (2 ^ new - 1)
    vhw := h.vhw.filter fun kv => kv.1 < new }

theorem foldl_setBit (l : List Nat) (w : Word) {r : Nat} (hr : r < 64) :
    (l.foldl (fun (w : Word) j => w ||| (1#64) <<< j) w).getLsbD r = (decide (r ∈ l) || w.getLsbD r) := by
  induction l generalizing w with
  | nil => simp
  | cons a l ih =>
    have shifted : ((1#64) <<< a).getLsbD r = decide (r = a) := by
      rw [BitVec.getLsbD_shiftLeft, BitVec.getLsbD_one]
      by_cases e : r = a
      · subst e
        simp [hr]
      · by_cases lt : r < a
        · simp [e, lt]
        · have : r - a ≠ 0 := by omega
          simp [e, lt, this]
    rw [List.foldl_cons, ih, BitVec.getLsbD_or, shifted]
    by_cases e : r = a <;> simp [e, Bool.or_comm]

theorem foldl_putZero (l : List Nat) (m : Assoc (BitVec 12)) {r : Nat} (hr : r ∈ l ∨ m.get r 0 = 0) :
    (l.foldl (fun m j => m.put j 0) m).get r 0 = 0 := by
  induction l generalizing m with
  | nil => simpa using hr
  | cons a l ih =>
    refine ih _ ?_
    by_cases e : r = a
    · exact .inr (by rw [e, Assoc.get_put_self])
    · rw [Assoc.get_put_ne _ _ _ e]
      rcases hr with hr | hr
      · exact .inl ((List.mem_cons.1 hr).resolve_left e)
      · exact .inr hr

theorem Hart.gain_spec (h : Hart) {old new r : Nat} (h1 : old ≤ r) (h2 : r < new) (h3 : r < 64) :
    (∀ k, k < 4096 → ((h.gain old new).getV r).get k = unlistedByte) ∧ (h.gain old new).vdirty.getLsbD r = true ∧
    (h.gain old new).vhw.get r 0 = 0 := by
  have gained : r ∈ (List.range new).filter fun j => old ≤ j := List.mem_filter.2 ⟨List.mem_range.2 h2, by simpa using h1⟩
  refine ⟨fun k _ => ?_, ?_, ?_⟩
  · have empty : (h.gain old new).getV r = [] := by
      unfold Hart.getV Hart.gain
      rw [List.filter_filter, List.map_eq_nil_iff, List.filter_eq_nil_iff]
      intro c _
      simp
      omega
    rw [empty]
    rfl
  · exact (foldl_setBit _ _ h3).trans (by simp only [gained, decide_true, Bool.true_or])
  · exact foldl_putZero _ _ (.inl gained)

theorem Hart.lose_spec (h : Hart) (new : Nat) : (∀ r, r < new → (h.lose new).getV r = h.getV r) ∧
    ∀ r, new ≤ r → r < 64 → (h.lose new).vdirty.getLsbD r = false := by
  refine ⟨fun r hr => ?_, fun r hr h64 => ?_⟩
  · unfold Hart.getV Hart.lose
    dsimp only
    rw [List.filter_filter]
    refine congrArg _ (List.filter_congr fun c _ => ?_)
    rw [Bool.eq_iff_iff]
    simp
    omega
  · unfold Hart.lose
    rw [BitVec.getLsbD_and, BitVec.getLsbD_ofNat, Nat.testBit_two_pow_sub_one]
    simp
    omega

theorem Entered.freeRegs {s u : State} (h : Entered s u) (core : Nat) : u.freeRegs core = s.freeRegs core := by
  unfold State.freeRegs
  congr 2
  refine List.map_congr_left fun j _ => ?_
  rw [h.hart]

section
variable {s s' : State} {h : Hdr} {t : Ty} {d : XOp} {a : Fin 64} {slot : Nat} {isX : Bool} {old new : Nat}

theorem does_alloc (hc : s.cur = .stream slot isX) (hr : Room s) (ho : (s.hart slot).allot.toNat = old)
    (hn : min (max (s.xval (.x a)).toNat old) (min 64 (old + s.freeRegs (coreOf slot))) = new) :
    Does (.alloc h d a) h s .next (((s.enterOrder 0 h.b h.b).upHart fun k => k.gain old new).xcommit d (BitVec.ofNat 64 new)).vleave := by
  refine .of_runSeq rfl fun hi => configRun_ok hr rfl ?_
  have entered := enterOrder_entered s 0 h.b h.b
  have here : curCore (s.enterOrder 0 h.b h.b) = .ok (coreOf slot) (s.enterOrder 0 h.b h.b) := by
    rw [show coreOf slot = coreOf (s.enterOrder 0 h.b h.b).cur.slot by rw [entered.cur, hc]; rfl]
    rfl
  have allot : ((s.enterOrder 0 h.b h.b).hart (s.enterOrder 0 h.b h.b).cur.slot).allot.toNat = old := by
    rw [entered.hart, entered.cur, hc]
    exact ho
  rw [bind_ok (readReg_entered hi.live ..), bind_ok (curHart_ok _), bind_ok (get_ok _), bind_ok here]
  simp only [allot, entered.freeRegs, hn]
  exact (bind_ok (modHart_ok ..)).trans (writeCommit_ok ..)

theorem does_shrink (hc : s.cur = .stream slot isX) (hr : Room s) (hd : (s.hart slot).earlierDone isX = true)
    (hn : min (s.hart slot).allot.toNat (s.xval (.x a)).toNat = new) :
    Does (.shrink h d a) h s .next (((s.enterOrder 0 h.b h.b).upHart fun k => k.lose new).xcommit d (BitVec.ofNat 64 new)).vleave := by
  refine .of_runSeq rfl fun hi => configRun_ok hr (vecCommitted_ok (by rw [hc]; exact hd)) ?_
  have entered := enterOrder_entered s 0 h.b h.b
  have allot : ((s.enterOrder 0 h.b h.b).hart (s.enterOrder 0 h.b h.b).cur.slot).allot = (s.hart slot).allot := by
    rw [entered.hart, entered.cur, hc]
    rfl
  rw [bind_ok (readReg_entered hi.live ..), bind_ok (curHart_ok _)]
  simp only [allot, hn]
  exact (bind_ok (modHart_ok ..)).trans (writeCommit_ok ..)

/-! STRIP (08 R356, R357). -/

variable {p q r : Fin 64} {sa sb sc : Fin 4} {line eLine : Line} {e : Word} {count : Nat} {s1 s2 s3 : State}
  (hpriv : (s.stream s.cur).priv = false) (hact : (s.stream s.cur).stripAct = false) (h1 : fetchLine s.after s = .ok line s1)
  (h2 : stripScan 32 s.after line 0 s1 = .ok (e, count) s2) (h3 : fetchLine e s2 = .ok eLine s3) (hr : Room s3)
include hpriv hact h1 h2 h3 hr

theorem does_strip_none (hz : s.xval (.x a) = 0) :
    Does (.strip h t a p q r sa sb sc) h s (.goto (succOf e (lastOf eLine))) (s3.enterOrder 0 h.b h.b).vleave := by
  refine .of_runHart rfl fun _ => ?_
  rw [bind_ok (show curStream s = .ok (s.stream s.cur) s from rfl), bind_ok (get_ok s)]
  simp only [hpriv, hact, Bool.or_self, Bool.false_eq_true, if_false]
  rw [bind_ok (get_ok s), bind_ok (show fetchLine (succOf s.issue.n s.issue.last) s = _ from h1),
    bind_ok (show stripScan 32 (succOf s.issue.n s.issue.last) line 0 s1 = _ from h2)]
  dsimp only
  rw [bind_ok h3, if_pos (show ((s.stream s.cur).getX a).toNat = 0 from congrArg BitVec.toNat hz),
    bind_ok (configRun_ok (wait := pure ()) (body := pure ()) hr rfl rfl)]
  rfl

theorem does_strip_some (hz : s.xval (.x a) ≠ 0) :
    let n := (s.xval (.x a)).toNat
    let cap := min 8192 (32768 / Ty.width t)
    requestLanes (groupsNeeded (min n cap) 1 (Ty.width t)) s3 = .ok () s' →
    let s4 := (s'.enterOrder 0 h.b h.b).upHart fun k => { k with rc := 1, vl := BitVec.ofNat 14 (min n cap) }
    Does (.strip h t a p q r sa sb sc) h s .next (s4.upStream fun st =>
      { st with stripAct := true, stripNum := s.issue.n.setWidth 54, stripEnd := e.setWidth 54
                stripLen := BitVec.ofNat 5 count, stripBody := []
                stripArgs := [a.val, p.val, q.val, r.val, sa.val, sb.val, sc.val, cap, s.after.toNat] }).vleave := by
  intro n cap hl s4
  refine .of_runHart rfl fun _ => ?_
  have left : ¬((s.stream s.cur).getX a).toNat = 0 := fun e => hz (BitVec.eq_of_toNat_eq e)
  rw [bind_ok (show curStream s = .ok (s.stream s.cur) s from rfl), bind_ok (get_ok s)]
  simp only [hpriv, hact, Bool.or_self, Bool.false_eq_true, if_false]
  rw [bind_ok (get_ok s), bind_ok (show fetchLine (succOf s.issue.n s.issue.last) s = _ from h1),
    bind_ok (show stripScan 32 (succOf s.issue.n s.issue.last) line 0 s1 = _ from h2)]
  dsimp only
  rw [bind_ok h3, if_neg left]
  exact bind_ok (configRun_ok hr hl ((bind_ok (modHart_ok ..)).trans (modStream_ok ..)))

end

/-- Settles O41: each body once its waits are over. -/
theorem tileShapeAndAllotment : Obligations.TileShapeAndAllotment := by
  intro s s' h t d a slot isX hc hart n entered hr
  have slot_eq : slot = s.cur.slot := by rw [hc]; rfl
  have inside : ∀ f : Hart → Hart, (((s.enterOrder 0 h.b h.b).upHart f).hart slot) = f ((s.enterOrder 0 h.b h.b).hart slot) := by
    intro f
    rw [State.upHart, (enterOrder_entered ..).cur, ← slot_eq, State.hart_setHart]
  refine ⟨?_, does_setvlRel hc hr, ?_, ?_, fun hd => ?_, ?_⟩
  · have does := does_setvl (s' := s') (h := h) (t := t) (d := d) (a := a) hr
    rwa [← slot_eq] at does
  · have does := does_setrc (h := h) (t := t) (d := d) (a := a) hr
    rwa [← slot_eq] at does
  · intro old new
    refine ⟨_, does_alloc hc hr rfl rfl, ?_, fun r h1 h2 h3 => ?_⟩
    · rw [inside]
      rfl
    · rw [inside]
      exact Hart.gain_spec _ h1 h2 h3
  · intro new
    refine ⟨_, does_shrink hc hr hd rfl, ?_, ?_⟩
    · rw [inside]
      rfl
    · rw [inside, (enterOrder_entered ..).hart]
      exact Hart.lose_spec _ _
  · intro p q r sa sb sc line eLine e count s1 s2 s3 hpriv hact h1 h2 h3 hr3
    exact ⟨does_strip_none hpriv hact h1 h2 h3 hr3, does_strip_some hpriv hact h1 h2 h3 hr3⟩

end Sys2Proof.Machine
end

section
/-! SUPPORT. Vector memory instructions (07 R297..R311). -/

set_option Elab.async false

namespace Sys2Proof.Machine

open Sys2Proof

section
variable {s s0 s' : State} {h : Hdr} {t : Ty} {m : MemOp} {i : Instr}

theorem awaitInputs_ok (hr : Ready i s0) : awaitInputs i s0 = .ok () s0 := by
  unfold awaitInputs
  rw [bind_ok (curHart_ok s0), if_pos (show (s0.hart s0.cur.slot).inputsReady i = true from hr)]
  rfl

/-- An access whose inputs stand in every lane is its body, in its place in the issue order. -/
theorem Does.of_runAccess {body : M Unit} (hx : Sys2Proof.Machine.exec i s = runAccess i h body s)
    (he : Enters (widest i.tileTys) h.b h.b s s0) (hr : Ready i s0)
    (hb : Issues i h s → SameQueues s s0 → body s0 = .ok () s') : Does i h s .next s'.vleave :=
  .of_runVec hx he fun hi hq => (bind_ok (awaitInputs_ok hr)).trans (hb hi hq)

/-! Addresses (07 R297). -/

theorem Issues.hasEAIn {rest : List Use} (hi : Issues i h s) (hq : SameQueues s s0)
    (hn : queueNeeds s i = i.uses.filterMap Use.queue?) (hu : i.uses = .rx m.base :: .rx m.idx :: rest) : s0.hasEA m :=
  ⟨hi.hasSrc (l := []) (a := .x m.base) hq hn hu, hi.hasSrc (l := [.x m.base]) (a := .x m.idx) hq hn hu⟩

theorem flatAddr_ok {n : Nat} (he : s0.hasEA m) :
    flatAddr m n s0 = .ok (fun i => (s0.eaOf m + i * n) % 2 ^ 64) (s0.eaPop m) := by
  unfold flatAddr
  rw [bind_ok (readEA_ok he)]
  rfl

/-- The addresses of a strided access. -/
def strided (m : MemOp) (base stride : Word) (i : Nat) : Nat :=
  (base + m.disp.signExtend 64 + BitVec.ofNat 64 i * (stride <<< m.scl.val)).toNat

theorem stridedAddr_ok (he : s0.hasEA m) :
    stridedAddr m s0 = .ok (strided m (s0.xval m.base) ((s0.xpop m.base).xval m.idx)) (s0.eaPop m) := by
  unfold stridedAddr
  rw [bind_readX _ he.1, bind_readX _ he.2]
  rfl

/-- The addresses of an indexed access. -/
def indexed (ix : Bool) (scl : Fin 4) (disp : BitVec 32) (base : Word) (index : Nat → Nat) (i : Nat) : Nat :=
  (base + disp.signExtend 64 +
    (if ix then BitVec.ofNat 64 (index i) else (BitVec.ofNat 32 (index i)).signExtend 64) <<< scl.val).toNat

theorem indexedAddr_ok {ix : Bool} {a : XOp} {b : VOp} {scl : Fin 4} {disp : BitVec 32} (ha : s0.hasX a) (hb : (s0.xpop a).hasV b) :
    indexedAddr ix a b scl disp s0 = .ok (indexed ix scl disp (s0.xval a)
      fun i => getElem (if ix then .i64 else .i32) ((s0.xpop a).vval b) i) ((s0.xpop a).vpop b) := by
  unfold indexedAddr
  rw [bind_readX _ ha, bind_ok (readTile_ok hb)]
  rfl

/-! The forms of address before an access. -/

theorem does_flat {rest : List Use} {body : (Nat → Nat) → M Unit} (he : Enters (widest i.tileTys) h.b h.b s s0)
    (hn : queueNeeds s i = i.uses.filterMap Use.queue?) (hu : i.uses = .rx m.base :: .rx m.idx :: rest)
    (hx : Sys2Proof.Machine.exec i s = runAccess i h (do
      let addr ← flatAddr m (vecShape (← curHart) t).size
      body addr) s)
    (hb : body (fun i => (s0.eaOf m + i * (vecShape (s0.hart s0.cur.slot) t).size) % 2 ^ 64) (s0.eaPop m) = .ok () s')
    (hr : Ready i s0) : Does i h s .next s'.vleave :=
  .of_runAccess hx he hr fun hi hq => (bind_ok (curHart_ok s0)).trans ((bind_ok (flatAddr_ok (hi.hasEAIn hq hn hu))).trans hb)

theorem does_strided {rest : List Use} {body : (Nat → Nat) → M Unit} (he : Enters (widest i.tileTys) h.b h.b s s0)
    (hn : queueNeeds s i = i.uses.filterMap Use.queue?) (hu : i.uses = .rx m.base :: .rx m.idx :: rest)
    (hx : Sys2Proof.Machine.exec i s = runAccess i h (stridedAddr m >>= body) s)
    (hb : body (strided m (s0.xval m.base) ((s0.xpop m.base).xval m.idx)) (s0.eaPop m) = .ok () s')
    (hr : Ready i s0) : Does i h s .next s'.vleave :=
  .of_runAccess hx he hr fun hi hq => (bind_ok (stridedAddr_ok (hi.hasEAIn hq hn hu))).trans hb

theorem does_indexed {ix : Bool} {a : XOp} {b : VOp} {scl : Fin 4} {disp : BitVec 32} {rest : List Use}
    {body : (Nat → Nat) → M Unit} (he : Enters (widest i.tileTys) h.b h.b s s0)
    (hn : queueNeeds s i = i.uses.filterMap Use.queue?) (hu : i.uses = .rx a :: .rv b :: rest)
    (hx : Sys2Proof.Machine.exec i s = runAccess i h (indexedAddr ix a b scl disp >>= body) s)
    (hb : body (indexed ix scl disp (s0.xval a) fun i => getElem (if ix then .i64 else .i32) ((s0.xpop a).vval b) i)
      ((s0.xpop a).vpop b) = .ok () s') (hr : Ready i s0) : Does i h s .next s'.vleave :=
  .of_runAccess hx he hr fun hi hq => (bind_ok (indexedAddr_ok (hi.hasSrc (l := []) (a := .x a) hq hn hu)
    (hi.hasSrc (l := [.x a]) (a := .v b) hq hn hu))).trans hb

end

/-! Bringing lines nearer (07 R311). -/

/-- Only memory, cores, launches, the gazetteer, harts and the datum controller change. -/
def MemoryOnly (s t : State) : Prop :=
  t = { s with mem := t.mem, cores := t.cores, la := t.la, gz := t.gz, harts := t.harts, dc := t.dc }

theorem MemoryOnly.refl (s : State) : MemoryOnly s s := rfl

theorem MemoryOnly.trans {s t u : State} (h1 : MemoryOnly s t) (h2 : MemoryOnly t u) : MemoryOnly s u := by
  unfold MemoryOnly at *
  rw [h2, h1]

theorem MemoryOnly.foldl {α : Type} {f : State → α → State} (h : ∀ s a, MemoryOnly s (f s a)) (l : List α) (s : State) :
    MemoryOnly s (l.foldl f s) := by
  induction l generalizing s with
  | nil => exact .refl s
  | cons a l ih => exact (h s a).trans (ih _)

theorem touchL2_memoryOnly (s : State) (quad line : Nat) (last : Bool) : MemoryOnly s (s.touchL2 quad line last) := by
  unfold State.touchL2
  dsimp only
  split
  · exact (show MemoryOnly s (s.evictL2 quad _) from rfl).trans rfl
  · rfl

theorem homeWriteBytes_memoryOnly (s : State) (pa : Nat) (bs : List Byte) : MemoryOnly s (s.homeWriteBytes pa bs) := by
  have lines := (show MemoryOnly s (s.dropRows pa bs.length) from rfl).trans (MemoryOnly.foldl
    (fun s i => touchL2_memoryOnly s (homeQuad pa) (pa / 256 + i) false) (List.range ((pa % 256 + bs.length + 255) / 256)) _)
  unfold State.homeWriteBytes
  dsimp only
  generalize List.foldl _ _ _ = t at lines ⊢
  exact (lines.trans (u := t.setMem _) rfl).trans (.foldl (fun s i => (rfl : MemoryOnly s (s.wakeLine (pa / 64 + i)))) _ _)

theorem noteWrite_memoryOnly (s : State) (serial : Word) (va pa : Nat) : MemoryOnly s (s.noteWrite serial va pa) := by
  unfold State.noteWrite
  split
  · rfl
  split
  · rfl
  dsimp only
  split
  · rfl
  split
  · rfl
  · exact (homeWriteBytes_memoryOnly s _ _).trans rfl

theorem homePerform_memoryOnly (s : State) (quad : Option Nat) (through : Bool) (orders : List (Nat × Nat)) (sec : Nat)
    (mask : BitVec 64) (data : Line) : MemoryOnly s (s.homePerform quad through orders sec mask data) := by
  exact (show MemoryOnly s (s.dropRows (64 * sec) 64) from rfl).trans
    ((touchL2_memoryOnly _ (homeQuad (64 * sec)) (sec / 4) false).trans rfl)

theorem drainSome_memoryOnly (s : State) (core n : Nat) : MemoryOnly s (s.drainSome core n) := by
  unfold State.drainSome
  refine .trans (t := s.setCore core _) rfl (.foldl (fun s e => ?_) _ _)
  unfold State.drainEntry
  exact (homePerform_memoryOnly s ..).trans (.foldl (fun s p => noteWrite_memoryOnly s ..) _ _)

/-- What bringing a line nearer leaves. -/
def PrefOnly (s t : State) : Prop := HomeOnly s t ∧ MemoryOnly s t

theorem PrefOnly.trans {s t u : State} (h1 : PrefOnly s t) (h2 : PrefOnly t u) : PrefOnly s u :=
  ⟨h1.1.trans h2.1, h1.2.trans h2.2⟩

theorem touchL2_prefOnly (s : State) (quad line : Nat) (last : Bool) : PrefOnly s (s.touchL2 quad line last) :=
  ⟨touchL2_homeOnly .., touchL2_memoryOnly ..⟩

theorem readL2_prefOnly (s : State) (quad sec : Nat) (last : Bool) : PrefOnly s (s.readL2 quad sec last).2.2 := by
  have home := touchL2_prefOnly s (homeQuad (64 * sec)) (sec / 4) last
  unfold State.readL2
  dsimp only
  split
  · exact home
  have near := home.trans (touchL2_prefOnly _ quad (sec / 4) last)
  split
  · exact near
  · exact near.trans ⟨.setMem rfl rfl, rfl⟩

/-- A core whose L1 alone changes. -/
theorem setCore_prefOnly (s : State) (core : Nat) {k : Core} (hk : k.wcb = (s.core core).wcb) : PrefOnly s (s.setCore core k) := by
  refine ⟨⟨rfl, rfl, rfl, rfl, rfl, fun _ => rfl, fun _ => rfl, fun c => ?_⟩, rfl⟩
  by_cases e : c = core
  · rw [e, State.core_setCore, hk]
  · rw [State.core, State.setCore_cores, Assoc.get_put_ne _ _ _ e]
    exact List.suffix_rfl

theorem l1Fill_wcb (k : Core) (hint : Fin 4) (l : L1Line) : (k.l1Fill hint l).wcb = k.wcb := by
  unfold Core.l1Fill
  dsimp only
  split <;> rfl

theorem readCached_prefOnly (s : State) (core : Nat) (hint : Fin 4) (sec : Nat) :
    PrefOnly s (s.readCached core hint sec).2.2 := by
  have line : PrefOnly s (s.drainLine core sec) := ⟨drainSome_homeOnly .., drainSome_memoryOnly ..⟩
  unfold State.readCached
  dsimp only
  split
  · exact line.trans (setCore_prefOnly _ _ rfl)
  have read := line.trans (readL2_prefOnly _ (quadOf core) sec (hint == 1))
  split
  · exact read
  · exact read.trans (setCore_prefOnly _ _ (l1Fill_wcb ..))

theorem prefetch_prefOnly (s : State) (c : Ctx) (l2 : Bool) (va : Nat) : PrefOnly s (s.prefetch c l2 va) := by
  have same : PrefOnly s s := ⟨.refl s, .refl s⟩
  unfold State.prefetch
  split
  · split
    · exact same
    split
    · exact readL2_prefOnly ..
    · exact readCached_prefOnly ..
  · exact same

/-- The lines of a PREF's bytes brought nearer. -/
def State.prefetched (s : State) (h : Hdr) (l2 : Bool) (ea len : Nat) : State :=
  if len = 0 then s else (List.range ((ea % 64 + len + 63) / 64)).foldl (fun u i =>
    u.prefetch (s.hartCtx s.cur h.ch 0) l2 ((alignDown ea 64 + 64 * i) % 2 ^ 64)) s

theorem prefetched_prefOnly (s : State) (h : Hdr) (l2 : Bool) (ea len : Nat) : PrefOnly s (s.prefetched h l2 ea len) := by
  unfold State.prefetched
  split
  · exact ⟨.refl s, .refl s⟩
  · exact ⟨.foldl (fun s i => (prefetch_prefOnly s ..).1) _ _, .foldl (fun s i => (prefetch_prefOnly s ..).2) _ _⟩

/-! What the operands leave. -/

/-- Operands taken from queues leave everything but the queues of the executing hart. -/
theorem State.spop_rest (s : State) (a : VSrc) : (s.spop a).arrays = s.arrays ∧ (s.spop a).ov = s.ov ∧ ∀ slot,
    ((s.spop a).hart slot).v = (s.hart slot).v ∧ ((s.spop a).hart slot).sa = (s.hart slot).sa ∧
    ((s.spop a).hart slot).sx = (s.hart slot).sx := by
  have pops : ∀ f : Hart → Hart, (∀ h, (f h).v = h.v ∧ (f h).sa = h.sa ∧ (f h).sx = h.sx) → ∀ slot,
      ((s.upHart f).hart slot).v = (s.hart slot).v ∧ ((s.upHart f).hart slot).sa = (s.hart slot).sa ∧
      ((s.upHart f).hart slot).sx = (s.hart slot).sx := by
    intro f hf slot
    by_cases e : slot = s.cur.slot
    · rw [e, State.upHart, State.hart_setHart]
      exact hf _
    · rw [State.upHart, State.hart, State.hart, State.setHart, Assoc.get_put_ne _ _ _ e]
      exact ⟨rfl, rfl, rfl⟩
  match a with
  | .v (.v n) | .x (.x n) => exact ⟨rfl, rfl, fun _ => ⟨rfl, rfl, rfl⟩⟩
  | .v (.q n) => exact ⟨rfl, rfl, pops (fun h => { h with vq := h.vq.put n.val (h.vq.get n.val []).tail }) fun _ => ⟨rfl, rfl, rfl⟩⟩
  | .x (.q n) => exact ⟨rfl, rfl, pops (fun h => { h with q := h.q.put n.val (h.q.get n.val []).tail }) fun _ => ⟨rfl, rfl, rfl⟩⟩

/-- PREF leaves registers, tile buffers and overlays as they were. -/
theorem does_pref {s s0 : State} {h : Hdr} {l2 : Bool} {x : XOp} {m : MemOp} (he : Enters 8 h.b h.b s s0) :
    ∃ t : State, Does (.pref h l2 x m) h s .next t.vleave ∧
      (∀ slot, (t.hart slot).v = (s0.hart slot).v ∧ (t.hart slot).sa.x = (s0.hart slot).sa.x ∧
        (t.hart slot).sx.x = (s0.hart slot).sx.x) ∧ t.arrays = s0.arrays ∧ t.ov = s0.ov := by
  let u := (s0.eaPop m).xpop x
  let len := min ((s0.eaPop m).xval x).toNat (2 ^ 20)
  obtain ⟨home, rest⟩ := prefetched_prefOnly u h l2 (s0.eaOf m) len
  obtain ⟨a1, o1, h1⟩ := s0.spop_rest (.x m.base)
  obtain ⟨a2, o2, h2⟩ := (s0.xpop m.base).spop_rest (.x m.idx)
  obtain ⟨a3, o3, h3⟩ := (s0.eaPop m).spop_rest (.x x)
  have file : ∀ slot isX, ((u.prefetched h l2 (s0.eaOf m) len).stream (.stream slot isX)).x = (u.stream (.stream slot isX)).x :=
    fun slot isX => by rw [home.stream]
  have files := fun slot isX => (State.proj_stream Stream.x rfl _ slot isX).symm.trans
    ((file slot isX).trans (State.proj_stream Stream.x rfl u slot isX))
  refine ⟨u.prefetched h l2 (s0.eaOf m) len, ?_, fun slot => ?_, ?_, ?_⟩
  · refine .of_runSeq rfl fun hi => ?_
    have hq := (hi.entered he).queues
    have third : (s0.eaPop m).hasX x := hi.hasSrc (l := [.x m.base, .x m.idx]) (a := .x x) hq rfl rfl
    rw [bind_ok he, bind_ok (readEA_ok (hi.hasEAIn hq rfl rfl)), bind_readX _ third]
    refine (bind_ok (show hartCtx h.ch 0 u = .ok (u.hartCtx u.cur h.ch 0) u from rfl)).trans ?_
    by_cases e : len = 0
    · rw [State.prefetched, if_pos e, if_neg (show ¬(len != 0) = true by simpa using e)]
      rfl
    · rw [State.prefetched, if_neg e, if_pos (show (len != 0) = true by simpa using e)]
      rfl
  · obtain ⟨v1, sa1, sx1⟩ := h1 slot
    obtain ⟨v2, sa2, sx2⟩ := h2 slot
    obtain ⟨v3, sa3, sx3⟩ := h3 slot
    have v0 : ((u.prefetched h l2 (s0.eaOf m) len).hart slot).v = (u.hart slot).v := by rw [home.hart]
    exact ⟨v0.trans (v3.trans (v2.trans v1)), (files slot false).trans (congrArg Stream.x (sa3.trans (sa2.trans sa1))),
      (files slot true).trans (congrArg Stream.x (sx3.trans (sx2.trans sx1)))⟩
  · exact (congrArg State.arrays rest).trans (a3.trans (a2.trans a1))
  · exact (congrArg State.ov rest).trans (o3.trans (o2.trans o1))

/-- Settles O29: the form of the address before the access of each instruction. -/
theorem vectorMemoryInstructionsComplete : Obligations.VectorMemoryInstructionsComplete := by
  unfold Obligations.VectorMemoryInstructionsComplete
  intro s s0 h t ix l2 d b x m a scl disp
  refine ⟨fun he => ⟨?_, ?_⟩, fun he => ?_, fun he => does_pref he⟩
  · exact ⟨fun s' hb hr => does_flat (i := .vld h t d m) (t := t) he rfl rfl rfl hb hr,
      fun s' hb hr => does_flat (i := .vst h t d m) (t := t) he rfl rfl rfl hb hr⟩
  · exact ⟨fun s' hb hr => does_strided (i := .vlds h t d m) he rfl rfl rfl hb hr,
      fun s' hb hr => does_strided (i := .vsts h t d m) he rfl rfl rfl hb hr⟩
  · exact ⟨fun s' hb hr => does_indexed (i := .vldx h t ix d a b scl disp) he rfl rfl rfl hb hr,
      fun s' hb hr => does_indexed (i := .vstx h t ix d a b scl disp) he rfl rfl rfl hb hr,
      fun s' hb hr => does_indexed (i := .vstu h t ix d a b scl disp) he rfl rfl rfl hb hr,
      fun s' hb hr => does_indexed (i := .vstxa h t ix d a b scl disp) he rfl rfl rfl hb hr⟩

end Sys2Proof.Machine
end

section
/-! SUPPORT. DIGEST and BUDGET (06 R274, R281..R283, R291, R292). -/

set_option Elab.async false

namespace Sys2Proof.Machine

open Sys2Proof

theorem modify_ok (f : State → State) (s : State) : (modify f : M Unit) s = .ok () (f s) := rfl

/-- What a loop over consecutive numbers gives when its step's result goes through a function. -/
theorem mapM'_range_map {α β : Type} {f : Nat → M α} (g : Nat → α → β) {n k : Nat} {s s' : State} {xs : List α}
    (h : mapM' (List.range' k n) f s = .ok xs s') :
    mapM' (List.range' k n) (fun i => do return g i (← f i)) s = .ok ((xs.zipIdx k).map fun x => g x.2 x.1) s' := by
  induction n generalizing k s xs with
  | zero =>
    obtain ⟨rfl, rfl⟩ := pure_eq_ok h
    rfl
  | succ n ih =>
    rw [List.range'_succ] at h ⊢
    obtain ⟨x, u, hx, h⟩ := bind_eq_ok h
    obtain ⟨r, v, hr, h⟩ := bind_eq_ok h
    obtain ⟨rfl, rfl⟩ := pure_eq_ok h
    have step : (f k >>= fun b => pure (g k b)) s = .ok (g k x) u := bind_ok hx
    refine (bind_ok step).trans ?_
    exact bind_ok (ih hr)

section
variable {s s' : State} {h : Hdr} {d a b : XOp}

theorem leaveDigest_ok (v : Word) (kind : BitVec 3) (s : State) :
    leaveDigest d v kind s = .ok () ((s.upStream fun st => { st with dval := v, dkind := kind }).xput d v) := by
  unfold leaveDigest
  rw [bind_ok (modStream_ok _ s), writeX_ok]

theorem does_digest {v : Word} {kind : BitVec 3} (hn : s.named? (s.xval a) = none)
    (hd : ((s.mem.digests.find? fun e => e.1 == s.xval a).map fun e => (e.2.1, e.2.2)).getD (0, 0) = (v, kind)) :
    Does (.digest h d a) h s .next (((s.xpop a).upStream fun st => { st with dval := v, dkind := kind }).xput d v) := by
  have named : ((s.xpop a).named? (s.xval a)).isSome = false := by
    rw [Option.isSome_eq_false_iff, Option.isNone_iff_eq_none, ← hn]
    cases a <;> rfl
  have digests : (s.xpop a).mem.digests = s.mem.digests := by cases a <;> rfl
  refine .of_runSeq rfl fun hi => ?_
  rw [bind_readX _ (hi.has1 rfl rfl), bind_ok (get_ok _), named, if_neg Bool.false_ne_true, digests]
  cases e : s.mem.digests.find? fun e => e.1 == s.xval a with
  | none =>
    obtain ⟨rfl, rfl⟩ := Prod.mk.inj (show ((0, 0) : Word × BitVec 3) = (v, kind) by rw [← hd, e]; rfl)
    exact leaveDigest_ok ..
  | some x =>
    obtain ⟨rfl, rfl⟩ := Prod.mk.inj (show (x.2.1, x.2.2) = (v, kind) by rw [← hd, e]; rfl)
    exact leaveDigest_ok ..

end

/-- Settles O32: the recorded value, the sum over a range's sectors, and the two forms of BUDGET. -/
theorem digestAndBudget : Obligations.DigestAndBudget := by
  unfold Obligations.DigestAndBudget
  intro s s' h d a b cls res
  refine ⟨fun hn => ⟨_, _, rfl, does_digest hn rfl⟩, ?_, .of_runSeq rfl fun _ => ?_, .of_runSeq rfl fun hi => ?_⟩
  · intro hva hlen lines
    dsimp only
    intro hm
    refine .of_runSeq rfl fun hi => ?_
    rw [bind_readX _ (hi.has1 rfl rfl), bind_readX _ (hi.has2 rfl rfl), if_neg (not_not.2 hva), if_neg (not_not.2 hlen)]
    rw [List.range_eq_range'] at hm
    let u := (s.xpop a).xpop b
    have tag : curTag u = .ok ((u.hart u.cur.slot).ovt.setWidth 64) u := rfl
    have ctx : hartCtx 0 ((u.hart u.cur.slot).ovt.setWidth 64) u =
      .ok (u.hartCtx u.cur 0 ((u.hart u.cur.slot).ovt.setWidth 64)) u := rfl
    rw [bind_ok tag, bind_ok ctx, List.range_eq_range']
    refine (bind_ok (mapM'_range_map (fun i x =>
      sectorHash (BitVec.ofNat 64 (((s.xval a).toNat + 64 * i) % 2 ^ 64)) (BitVec.ofNat 512 x)) hm)).trans ?_
    exact leaveDigest_ok ..
  · rw [bind_ok (get_ok _), writeX_ok]
  · have mem : (s.xpop a).mem = s.mem := by cases a <;> rfl
    rw [bind_readX _ (hi.has1 rfl rfl), bind_ok (get_ok _), mem]
    rw [bind_ok (modify_ok _ _), writeX_ok, mem]
    rfl

end Sys2Proof.Machine
end

section
/-! SUPPORT. Instructions that wait at their place, and cache maintenance (06 R287..R290). -/

set_option Elab.async false

namespace Sys2Proof.Machine

open Sys2Proof

theorem SameButHarts.mem {s t : State} (h : SameButHarts s t) : t.mem = s.mem := by unfold SameButHarts at h; rw [h]

theorem SameButHarts.cores {s t : State} (h : SameButHarts s t) : t.cores = s.cores := by unfold SameButHarts at h; rw [h]

/-! Waiting (02 R80; 06 R259). -/

/-- What an instruction that waits keeps of what its body left: everything but its queues, its requests and what its stream
captured. -/
structure Waited (t w : State) : Prop where
  rest : SameButHarts t w
  cur : w.cur = t.cur
  stream : ∀ {α : Type} (g : Stream → α), g { Stream.blank with strm := true } = g Stream.blank →
    (∀ (st : Stream) (c : Option Capture), g { st with captured := c } = g st) → g (w.stream t.cur) = g (t.stream t.cur)

theorem Waited.trans {t u w : State} (h1 : Waited t u) (h2 : Waited u w) : Waited t w where
  rest := h1.rest.trans h2.rest
  cur := h2.cur.trans h1.cur
  stream g hb hg := by
    rw [← h1.stream g hb hg, ← h1.cur]
    exact h2.stream g hb hg

/-- A hart changed in neither of its streams. -/
theorem Waited.setHart {t : State} {slot : Nat} {h : Hart} (hs : ∀ isX, h.stream isX = (t.hart slot).stream isX) :
    Waited t (t.setHart slot h) :=
  ⟨rfl, rfl, fun g hb _ => State.proj_stream_setHart g hb (fun isX => congrArg g (hs isX)) _⟩

theorem countReq_stream (h : Hart) (tick : Nat) (n : Word) (isX gather : Bool) (remote : Nat → Bool) (r : ReqNote × Nat)
    (x : Bool) : (h.countReq tick n isX gather remote r).stream x = h.stream x := by
  unfold Hart.countReq
  dsimp only
  split <;> cases x <;> rfl

theorem flushReqs_waited (i : Instr) (t : State) : Waited t (flushReqs i t) := by
  unfold flushReqs
  split
  · refine (Waited.setHart fun x => ?_).trans (u := t.setHart _ _) ⟨rfl, rfl, fun _ _ _ => rfl⟩
    exact foldl_keeps (fun h : Hart => h.stream x) (fun h r => countReq_stream h ..) _ _
  · exact ⟨rfl, rfl, fun _ _ _ => rfl⟩

theorem restoreQueues_waited (s t : State) (p : Party) : Waited t (restoreQueues s t p) := by
  unfold restoreQueues
  cases p with
  | datum => exact ⟨rfl, rfl, fun _ _ _ => rfl⟩
  | stream slot isX =>
    dsimp only
    split
    · exact ⟨rfl, rfl, fun _ _ _ => rfl⟩
    next h hh =>
      have hart : t.hart slot = h := by rw [State.hart, Assoc.get, ← State.hart?, hh]; rfl
      exact .setHart fun x => by cases x <;> rw [hart] <;> rfl

/-- An instruction that issues and whose body waits stays at its place. -/
theorem runHart_waits {i : Instr} {h : Hdr} {body : M Ctl} {s t : State} (hi : Issues i h s) (hb : body s = .error .wait t) :
    ∃ w, runHart i h body s = .next w ∧ w.issue.res = .waits ∧ Waited t w := by
  have flushed : Waited t (flushExc i .wait t) := by
    unfold flushExc
    dsimp only
    split
    · exact flushReqs_waited i t
    · exact ⟨rfl, rfl, fun _ _ _ => rfl⟩
  have queues := flushed.trans (restoreQueues_waited s (flushExc i .wait t) (flushExc i .wait t).cur)
  rw [runHart_issues hi, hb]
  refine ⟨_, rfl, rfl, queues.trans ?_⟩
  generalize restoreQueues s _ _ = u
  dsimp only
  split
  · exact ⟨rfl, rfl, fun _ _ _ => rfl⟩
  · refine ⟨?_, ?_, fun g _ hg => ?_⟩
    · cases hc : u.cur <;> rfl
    · cases hc : u.cur <;> exact hc
    · exact (congrArg g (State.stream_setStream_self ..)).trans (hg ..)

theorem runSeq_waits {i : Instr} {h : Hdr} {body : M Unit} {s t : State} (hi : Issues i h s) (hb : body s = .error .wait t) :
    ∃ w, runSeq i h body s = .next w ∧ w.issue.res = .waits ∧ Waited t w :=
  runHart_waits hi (bind_error hb)

theorem State.upStream_cur (s : State) (f : Stream → Stream) : (s.upStream f).cur = s.cur := by
  unfold State.upStream
  cases hc : s.cur <;> exact hc

theorem State.upStream_stream (s : State) (f : Stream → Stream) : (s.upStream f).stream (s.upStream f).cur = f (s.stream s.cur) := by
  rw [s.upStream_cur]
  exact State.stream_setStream_self ..

theorem State.upStream_rest (s : State) (f : Stream → Stream) : SameButHarts s (s.upStream f) := by
  unfold State.upStream
  cases hc : s.cur <;> rfl

/-! Releases that went through (01 R44; 04 R176). -/

theorem compareHere_eq_ok {s t : State} (h : compareHere s = .ok () t) : s.compareHash s.cur = (s, true) ∧ t = s := by
  have step : compareHere s = (do set (s.compareHash s.cur).1; if (s.compareHash s.cur).2 = true then pure () else waitHere) s :=
    rfl
  have whole : s.compareHash s.cur = (s, true) ∨ (s.compareHash s.cur).2 = false := by
    unfold State.compareHash
    dsimp only
    split
    · exact .inl rfl
    split
    · exact .inl rfl
    split
    · exact .inr rfl
    · exact .inl rfl
  rcases whole with same | differs
  · rw [step, same] at h
    exact ⟨same, (pure_eq_ok h).2⟩
  · rw [step, differs] at h
    exact nomatch h

theorem compareHere_of_eq {s : State} (h : s.compareHash s.cur = (s, true)) : compareHere s = .ok () s := by
  have step : compareHere s = (do set (s.compareHash s.cur).1; if (s.compareHash s.cur).2 = true then pure () else waitHere) s :=
    rfl
  rw [step, h]
  rfl

/-- The comparison of a lockstep pair looks at no core. -/
theorem compareHash_cores {s : State} {p : Party} (h : s.compareHash p = (s, true)) (l : Assoc Core) :
    { s with cores := l }.compareHash p = ({ s with cores := l }, true) := by
  cases p with
  | datum => rfl
  | stream slot isX =>
    unfold State.compareHash at h ⊢
    dsimp only at h ⊢
    change (match s.launchOf slot with | none => _ | some l => _) = _
    cases hl : s.launchOf slot with
    | none => rfl
    | some l =>
      rw [hl] at h
      dsimp only at h ⊢
      split at h
      · exact nomatch congrArg Prod.snd h
      next same => exact if_neg same

/-- A release of scope core or wider has emptied its core's buffer. -/
theorem Releases.inv {s t : State} {slot : Nat} {isX : Bool} {rank : Nat} (h : Releases rank s t) (hr : 2 ≤ rank)
    (hc : s.cur = .stream slot isX) :
    t.cur = s.cur ∧ (t.core (coreOf slot)).wcb = [] ∧ t.compareHash t.cur = (t, true) := by
  unfold Releases release at h
  have datum : s.cur.isDatum = false := by rw [hc]; rfl
  have h := get_bind_eq_ok h
  rw [if_neg (by simp [datum]; omega)] at h
  rw [bind_ok (curHart_ok s), bind_ok (show curSlot s = .ok s.cur.slot s from rfl), hc] at h
  obtain ⟨-, h⟩ := check_eq_ok h
  change (match (s.hart slot).trains.find? (·.failed) with | some t => _ | none => _ : M Unit) s = _ at h
  cases e : (s.hart slot).trains.find? (·.failed) with
  | some x =>
    rw [e] at h
    exact nomatch h
  | none =>
    rw [e] at h
    obtain ⟨-, h⟩ := check_eq_ok h
    obtain ⟨-, h⟩ := check_eq_ok (get_bind_eq_ok h)
    obtain ⟨v, u, e, h⟩ := bind_eq_ok (get_bind_eq_ok h)
    obtain ⟨-, e⟩ := check_eq_ok (get_bind_eq_ok e)
    obtain rfl := (EStateM.Result.ok.inj e).2
    clear e
    have drained : ∀ d, d = s.drainSome (coreOf slot) (s.core (coreOf slot)).wcb.length →
        d.cur = s.cur ∧ (d.core (coreOf slot)).wcb = [] := by
      rintro d rfl
      exact ⟨(drainSome_homeOnly ..).cur, (drainSome_wcb ..).trans (List.drop_length ..)⟩
    change (if 6 ≤ rank then modify (fun s : State => s.setMem s.mem.dropStale) >>= fun _ => compareHere else compareHere)
      (s.drainSome (coreOf slot) (s.core (coreOf slot)).wcb.length) = _ at h
    generalize s.drainSome (coreOf slot) (s.core (coreOf slot)).wcb.length = d at h drained
    obtain ⟨cur, empty⟩ := drained d rfl
    by_cases h6 : 6 ≤ rank
    · rw [if_pos h6] at h
      obtain ⟨same, rfl⟩ := compareHere_eq_ok (modify_bind_eq_ok h)
      exact ⟨cur, empty, same⟩
    · rw [if_neg h6] at h
      obtain ⟨same, rfl⟩ := compareHere_eq_ok h
      exact ⟨cur, empty, same⟩

/-- An acquire of a pair whose sides agree drops its core's L1 lines. -/
theorem acquire_agrees {s : State} {slot : Nat} {isX : Bool} {rank : Nat} (hr : 2 ≤ rank) (hc : s.cur = .stream slot isX)
    (h : s.compareHash s.cur = (s, true)) : acquire rank s = .ok () (s.clearL1 (coreOf slot)) := by
  have datum : s.cur.isDatum = false := by rw [hc]; rfl
  unfold acquire
  rw [bind_ok (get_ok s), if_neg (by simp [datum]; omega),
    bind_ok (show curCore s = .ok (coreOf slot) s by rw [show coreOf slot = coreOf s.cur.slot by rw [hc]; rfl]; rfl),
    bind_ok (modify_ok _ s)]
  exact compareHere_of_eq (compareHash_cores h _)

/-! CARVE (06 R288). -/

/-- A buffer without entries has nothing to drain. -/
theorem drainGate_empty {s : State} {core n : Nat} (h : (s.core core).wcb = []) :
    drainGate core n s = .ok () (s.setCore core { s.core core with wcb := [] }) := by
  rw [drainGate_ok (by simp [h])]
  unfold State.drainSome
  simp [h]

/-- The state once a launch's scratchpad on a core of an empty buffer has other ways and L1 has been dropped. -/
def State.carved (s : State) (core : Nat) (serial : Word) (w : Nat) : State :=
  ((s.setCore core { s.core core with wcb := [] }).updScratch core serial fun x => x.resize w).clearL1 core

theorem updScratch_core (s : State) (core : Nat) (serial : Word) (f : Scratch → Scratch) :
    (s.updScratch core serial f).core core = (s.core core).updScratch serial f ∧
    ∃ l, s.updScratch core serial f = { s with cores := l } := by
  unfold State.updScratch
  dsimp only
  split
  · refine ⟨?_, _, rfl⟩
    rw [State.core, State.setCore_cores, Assoc.get_put_ne _ _ _ (show core ≠ core + 4 by omega)]
    exact State.core_setCore ..
  · exact ⟨State.core_setCore .., _, rfl⟩

theorem carved_core (s : State) (core : Nat) (serial : Word) (w : Nat) : (s.carved core serial w).core core =
    { ({ s.core core with wcb := [] } : Core).updScratch serial fun x => x.resize w with l1 := [] } := by
  unfold State.carved State.clearL1
  rw [State.core_setCore, (updScratch_core ..).1, State.core_setCore]

theorem does_carve {s s1 : State} {h : Hdr} {d a : XOp} {x : Scratch} {slot : Nat} {isX : Bool} (hc : s.cur = .stream slot isX)
    (hr : Releases 2 (s.xpop a) s1)
    (hk : ∀ k ∈ s1.la.cards, k.serial = (s.hart slot).serial → k.completed = none → k.onCore (coreOf slot) = false)
    (hx : (s1.core (coreOf slot)).scratch? (s.hart slot).serial = some x) :
    Does (.carve h d a) h s .next ((s1.carved (coreOf slot) (s.hart slot).serial (min (s.xval a).toNat x.rsv)).xput d
      (BitVec.ofNat 64 (min (s.xval a).toNat x.rsv))) := by
  refine .of_runSeq rfl fun hi => ?_
  obtain ⟨cur, empty, same⟩ := hr.inv (Nat.le_refl 2) ((s.xpop_cur a).trans hc)
  have free : (s1.la.cards.any fun k => k.serial == (s.hart slot).serial && k.completed.isNone && k.onCore (coreOf slot)) = false := by
    rw [List.any_eq_false]
    intro k hk'
    by_cases e : k.serial = (s.hart slot).serial ∧ k.completed = none
    · simp [hk k hk' e.1 e.2]
    · simpa using fun e1 e2 => absurd ⟨e1, e2⟩ e
  have hslot : (s.xpop a).cur.slot = slot := by rw [s.xpop_cur a, hc]; rfl
  have serial : ((s.xpop a).hart (s.xpop a).cur.slot).serial = (s.hart slot).serial := by
    obtain ⟨q, vq, e⟩ := State.spops_curHart s [.x a]
    rw [show slot = s.cur.slot by rw [hc]; rfl]
    exact (congrArg Hart.serial e :)
  rw [bind_readX _ (hi.has1 rfl rfl),
    bind_ok (show curCore (s.xpop a) = .ok (coreOf slot) (s.xpop a) by rw [← hslot]; rfl), bind_ok (curHart_ok _),
    bind_ok (show release 2 _ = _ from hr), bind_ok (get_ok s1), serial]
  simp only [free, Bool.false_eq_true, if_false, hx]
  rw [bind_ok (drainGate_empty empty), bind_ok (modify_ok _ _)]
  have left : acquire 2 ((s1.setCore (coreOf slot) { s1.core (coreOf slot) with wcb := [] }).updScratch (coreOf slot)
      (s.hart slot).serial fun y => y.resize (min (s.xval a).toNat x.rsv)) =
      .ok () (s1.carved (coreOf slot) (s.hart slot).serial (min (s.xval a).toNat x.rsv)) := by
    obtain ⟨-, l, e⟩ := updScratch_core (s1.setCore (coreOf slot) { s1.core (coreOf slot) with wcb := [] }) (coreOf slot)
      (s.hart slot).serial fun y => y.resize (min (s.xval a).toNat x.rsv)
    unfold State.carved
    rw [e]
    exact acquire_agrees (Nat.le_refl 2) (cur.trans ((s.xpop_cur a).trans hc)) (compareHash_cores same l)
  rw [bind_ok left, writeX_ok]

/-! Cache maintenance and TLBI (06 R289, R290). -/

section
variable {s s1 : State} {h : Hdr} {i : Instr} {d a b c : XOp} {m : MemOp} {op : Maint} {l2 : Bool} {len : Nat} {rest : List Use}

/-- One turn of a maintenance instruction over the lines that are left. -/
def maintTurn (hd : Hdr) (op : Maint) (l2 : Bool) (done : Nat) (lines : List Nat) : M Unit := do
  let c ← hartCtx hd.ch 0
  match lines with
  | [] => pure ()
  | va :: rest => do
    maintLine c op l2 va
    if rest.isEmpty then pure ()
    else
      modStream fun st => { st with stage := done + 1 }
      waitHere

/-- A maintenance instruction reads its range, then treats the first line that is left. -/
theorem bodyMaint_eq (hi : Issues i h s) (hn : queueNeeds s i = i.uses.filterMap Use.queue?)
    (hu : i.uses = .rx m.base :: .rx m.idx :: .rx d :: rest) :
    let u := (s.eaPop m).xpop d
    bodyMaint h op l2 d m s = maintTurn h op l2 (u.stream u.cur).stage
      ((maintLines (s.eaOf m) ((s.eaPop m).xval d).toNat (if l2 then 256 else 64)).drop (u.stream u.cur).stage) u := by
  have third : (s.eaPop m).hasX d := hi.hasNext (l := [m.base, m.idx]) hn hu
  unfold bodyMaint
  rw [bind_ok (readEA_ok (hi.hasEA hn hu)), bind_readX _ third]
  rfl

/-- The state once one line has been treated. -/
def State.maintained (s : State) (hd : Hdr) (op : Maint) (l2 : Bool) (va : Nat) : State :=
  let c := s.hartCtx s.cur hd.ch 0
  (s.maintSectors c (if l2 then 256 else 64) va).foldl (fun t sec => t.maintain c.core op l2 sec) s

theorem maintain_cur (s : State) (core : Nat) (op : Maint) (l2 : Bool) (sec : Nat) : (s.maintain core op l2 sec).cur = s.cur := by
  unfold State.maintain
  have drained : (s.drainLine core sec).cur = s.cur := (drainSome_homeOnly ..).cur
  generalize s.drainLine core sec = u at drained
  rw [← drained]
  cases op <;> cases l2 <;> rfl

theorem maintained_cur (s : State) (h : Hdr) (op : Maint) (l2 : Bool) (va : Nat) : (s.maintained h op l2 va).cur = s.cur :=
  foldl_keeps State.cur (fun s _ => maintain_cur s ..) _ _

theorem maintTurn_last {done va : Nat} (ha : addrKind (s.hartCtx s.cur h.ch 0).core va ≠ .bad) :
    maintTurn h op l2 done [va] s = .ok () (s.maintained h op l2 va) := by
  unfold maintTurn maintLine
  rw [bind_ok (show hartCtx h.ch 0 s = .ok (s.hartCtx s.cur h.ch 0) s from rfl)]
  dsimp only
  rw [if_neg ha, bind_ok (modify_ok _ s)]
  rfl

theorem maintTurn_more {done va : Nat} {more : List Nat} (ha : addrKind (s.hartCtx s.cur h.ch 0).core va ≠ .bad)
    (hm : more ≠ []) : maintTurn h op l2 done (va :: more) s =
      .error .wait ((s.maintained h op l2 va).upStream fun st => { st with stage := done + 1 }) := by
  unfold maintTurn maintLine
  rw [bind_ok (show hartCtx h.ch 0 s = .ok (s.hartCtx s.cur h.ch 0) s from rfl)]
  dsimp only
  rw [if_neg ha, bind_ok (modify_ok _ s), if_neg (by simpa using hm)]
  rfl

end

section
variable {s : State} {h : Hdr} {i : Instr} {d : XOp} {m : MemOp} {op : Maint} {l2 : Bool} {rest : List Use}
  (hn : queueNeeds s i = i.uses.filterMap Use.queue?) (hu : i.uses = .rx m.base :: .rx m.idx :: .rx d :: rest)
  (hx : Sys2Proof.Machine.exec i s = runSeq i h (bodyMaint h op l2 d m) s)
include hn hu hx

/-- The lines of an instruction's range that are left. -/
theorem does_maint : s.ea m fun ea u => u.x1 d fun len u1 =>
    let left := (maintLines ea len.toNat (if l2 then 256 else 64)).drop (u1.stream u1.cur).stage
    (left = [] → Does i h s .next u1) ∧
    ∀ va more, left = va :: more → addrKind (u1.hartCtx u1.cur h.ch 0).core va ≠ .bad →
      (more = [] → Does i h s .next (u1.maintained h op l2 va)) ∧
      (more ≠ [] → Issues i h s → ∃ t, Sys2Proof.Machine.exec i s = .next t ∧ t.issue.res = .waits ∧
        (t.stream s.cur).stage = (u1.stream u1.cur).stage + 1 ∧ t.mem = (u1.maintained h op l2 va).mem ∧
        t.cores = (u1.maintained h op l2 va).cores) := by
  rw [State.ea_eq, State.x1]
  refine ⟨fun hl => .of_runSeq hx fun hi => ?_, fun va more hl ha => ⟨fun hm => .of_runSeq hx fun hi => ?_, fun hm hi => ?_⟩⟩
  · rw [bodyMaint_eq hi hn hu, hl]
    rfl
  · rw [bodyMaint_eq hi hn hu, hl, hm]
    exact maintTurn_last ha
  · have turn := bodyMaint_eq (op := op) (l2 := l2) hi hn hu
    dsimp only at turn
    rw [hl, maintTurn_more ha hm] at turn
    obtain ⟨t, ht, hw, after⟩ := runSeq_waits hi turn
    refine ⟨t, hx.trans ht, hw, ?_, ?_, ?_⟩
    · have cur : (((s.eaPop m).xpop d).maintained h op l2 va).cur = s.cur := by
        rw [maintained_cur, State.xpop_cur, State.eaPop, State.xpop_cur, State.xpop_cur]
      have stage := (after.stream Stream.stage rfl fun _ _ => rfl).trans (congrArg Stream.stage (State.upStream_stream ..))
      rwa [State.upStream_cur, cur] at stage
    · exact ((State.upStream_rest ..).trans after.rest).mem
    · exact ((State.upStream_rest ..).trans after.rest).cores

end

theorem asid_beq {w : Word} (h : w.toNat < 2 ^ 16) (x : BitVec 16) : (x == w.setWidth 16) = decide (x.toNat = w.toNat) := by
  rw [Bool.eq_iff_iff, beq_iff_eq, decide_eq_true_iff, ← BitVec.toNat_inj, BitVec.toNat_setWidth, Nat.mod_eq_of_lt h]

/-- An invalidation that waits for no walk removes the translations that it hits. -/
theorem bodyTlbi_ok {s t : State} {walk : Walk → Bool} {hit : Leaf → Bool} (hr : Releases 6 s t)
    (hw : t.mem.walks.any walk = false) : bodyTlbi walk hit s = .ok () (t.setMem (t.mem.invalidate hit)) := by
  unfold bodyTlbi
  rw [bind_ok (show release 6 s = _ from hr), bind_ok (get_ok t), hw]
  rfl

/-- Settles O31: CARVE, one turn of a range, and the three forms of TLBI. -/
theorem maintenanceInstructionsComplete : Obligations.MaintenanceInstructionsComplete := by
  unfold Obligations.MaintenanceInstructionsComplete
  intro s s1 s2 h l2 d a b c m
  refine ⟨fun x slot isX hc hr hk hx => ?_, ?_, ?_, ?_, ?_⟩
  · refine ⟨_, does_carve hc hr hk hx, ?_, ?_, ?_⟩
    · rw [carved_core]
      have found := scratch?_updScratch { s1.core (coreOf slot) with wcb := [] } (s.hart slot).serial (s.hart slot).serial
        (fun y => y.resize (min (s.xval a).toNat x.rsv)) fun _ => rfl
      rw [if_pos rfl] at found
      exact found.trans (congrArg (Option.map _) hx)
    · rw [carved_core]
    · rw [carved_core]
      rfl
  · have clean := does_maint (s := s) (h := h) (i := .cclean h l2 d m) (op := .clean) rfl rfl rfl
    have inval := does_maint (s := s) (h := h) (i := .cinv h l2 d m) (op := .inval) rfl rfl rfl
    have flush := does_maint (s := s) (h := h) (i := .cflush h l2 d m) (op := .flush) rfl rfl rfl
    rw [State.ea_eq, State.x1] at clean inval flush ⊢
    refine ⟨fun hl => ⟨clean.1 hl, inval.1 hl, flush.1 hl⟩, fun va rest hl ha => ⟨fun hm => ?_, fun hm => ?_⟩⟩
    · exact ⟨(clean.2 va rest hl ha).1 hm, (inval.2 va rest hl ha).1 hm, (flush.2 va rest hl ha).1 hm⟩
    · exact ⟨(clean.2 va rest hl ha).2 hm, (inval.2 va rest hl ha).2 hm, (flush.2 va rest hl ha).2 hm⟩
  · intro hr hw
    refine .of_runSeq rfl fun _ => ?_
    rw [bodyTlbi_ok hr (by simp [hw])]
    simp [MemSys.invalidate]
  · intro hr hlt hw
    refine .of_runSeq rfl fun hi => ?_
    rw [bind_readX _ (hi.has1 rfl rfl), if_neg (by omega), bodyTlbi_ok hr]
    · simp only [MemSys.invalidate, asid_beq hlt, decide_not]
    · rw [List.any_eq_false]
      exact fun k hk => by rw [asid_beq hlt]; simpa using hw k hk
  · intro hr hw hlt hlen
    refine .of_runSeq rfl fun hi => ?_
    have third : ((s.xpop a).xpop b).hasX c := hi.hasNext (l := [a, b]) rfl rfl
    rw [bind_readX _ (hi.has1 rfl rfl), bind_readX _ (hi.has2 rfl rfl), bind_readX _ third, if_neg (by omega),
      bodyTlbi_ok hr (by simp [hw])]
    simp only [MemSys.invalidate, asid_beq hlt, hlen, decide_true, Bool.and_true, decide_not, Bool.decide_and]

end Sys2Proof.Machine
end

section
/-! SUPPORT. Groups and their collectives (07 R312..R318). -/

set_option Elab.async false

namespace Sys2Proof.Machine

open Sys2Proof

/-! What a collective gives (07 R317). -/

section
variable {g : GroupEntry} {n : Nat} {arr : List Arrival} {tile : Nat → List Nat} {f : Nat → Arrival}

/-- The arrivals of a call in ascending rank. -/
def ranked (g : GroupEntry) (arr : List Arrival) : List Arrival :=
  (List.range g.count).filterMap fun r => arr.find? fun a => a.rank == r

theorem ranked_eq (hf : ∀ k, k < g.count → arr.find? (fun a => a.rank == k) = some (f k)) :
    ranked g arr = (List.range g.count).map f := by
  unfold ranked
  rw [List.filterMap_congr (g := fun r => some (f r)) fun r hr => hf r (List.mem_range.1 hr), List.filterMap_eq_map']

theorem mem_result_all {t : Ty} {e r : Nat} (hf : ∀ k, k < g.count → arr.find? (fun a => a.rank == k) = some (f k))
    (hr : r < g.count) (he : e < n) :
    (r * n + e, ((f r).contrib[e]?).getD 0) ∈ CollOp.result .all t true g n arr := by
  have rank : (f r).rank = r := by simpa using List.find?_some (hf r hr)
  have member : f r ∈ ranked g arr := by
    rw [ranked_eq hf]
    exact List.mem_map_of_mem (List.mem_range.2 hr)
  exact List.mem_flatMap.2 ⟨f r, member, List.mem_map.2 ⟨e, List.mem_range.2 he, by rw [rank]⟩⟩

theorem mem_result_bc {t : Ty} {e root : Nat} (hf : ∀ k, k < g.count → arr.find? (fun a => a.rank == k) = some (f k))
    (hr : root < g.count) (he : e < n) :
    (e, ((f root).contrib[e]?).getD 0) ∈ CollOp.result (.bc root) t true g n arr := by
  have rank := fun k hk => show (f k).rank = k by simpa using List.find?_some (hf k hk)
  have found : (ranked g arr).find? (fun a => a.rank == root) = some (f root) := by
    have first : (List.range g.count).find? ((fun a : Arrival => a.rank == root) ∘ f) = some root := by
      refine List.find?_range_eq_some.2 ⟨by simp [rank root hr], List.mem_range.2 hr, fun j hj => ?_⟩
      simp [rank j (hj.trans hr), Nat.ne_of_lt hj]
    rw [ranked_eq hf, List.find?_map, first]
    rfl
  change _ ∈ (match (ranked g arr).find? (fun a => a.rank == root) with | some a => _ | none => _)
  rw [found]
  exact List.mem_map.2 ⟨e, List.mem_range.2 he, rfl⟩

/-- Under DET an element is the tree over the ranks (07 R318; log 64). -/
theorem mem_result_tree {t : Ty} {op : GOp} {e : Nat} {first : Arrival}
    (hf : ∀ k, k < g.count → arr.find? (fun a => a.rank == k) = some (f k)) (h0 : arr.find? (fun a => a.rank == 0) = some first)
    (hg : 0 < g.count) :
    (e < n → (e, combineTree op t first.ovft.toNat ((List.range g.count).map fun k => ((f k).contrib[e]?).getD 0))
      ∈ CollOp.result (.red op) t true g n arr) ∧
    (e < n / g.count → (e, combineTree op t first.ovft.toNat ((List.range g.count).map fun k =>
      ((f k).contrib[g.rank * (n / g.count) + e]?).getD 0)) ∈ CollOp.result (.rs op) t true g n arr) := by
  have zero : f 0 = first := Option.some.inj ((hf 0 hg).symm.trans h0)
  have tree : ∀ i : Nat, combineTree op t ((((ranked g arr).head?).map fun a => a.ovft.toNat).getD 0)
      ((ranked g arr).map fun a : Arrival => (a.contrib[i]?).getD 0) =
      combineTree op t first.ovft.toNat ((List.range g.count).map fun k => ((f k).contrib[i]?).getD 0) := by
    intro i
    have head : ((List.range g.count).map f).head? = some first := by
      obtain ⟨m, hm⟩ := Nat.exists_eq_add_of_lt hg
      rw [show g.count = m + 1 by omega, List.range_succ_eq_map, List.map_cons, List.head?_cons, zero]
    rw [ranked_eq hf, head, List.map_map]
    rfl
  refine ⟨fun he => List.mem_map.2 ⟨e, List.mem_range.2 he, ?_⟩, fun he => ?_⟩
  · exact congrArg (Prod.mk e) (tree e)
  · have m : n / max 1 g.count = n / g.count := by rw [Nat.max_eq_right hg]
    refine List.mem_map.2 ⟨e, List.mem_range.2 (m ▸ he), ?_⟩
    rw [← m]
    exact congrArg (Prod.mk e) (tree _)

end

/-! GSET (07 R312..R315). -/

theorem launch?_live {s : State} {l : Launch} {serial : Word} (h : s.launch? serial = some l) : (l.phase != .done) = true := by
  have := List.find?_some h
  simp only [Bool.and_eq_true] at this
  exact this.2

theorem setLaunch_launch? {s : State} {l l' : Launch} {serial : Word} (h : s.launch? serial = some l) (hs : l'.serial = serial)
    (hp : (l'.phase != .done) = true) : (s.setLaunch l').launch? serial = some l' := by
  let p := fun m : Launch => m.serial == serial && m.phase != .done
  have hit : p l' = true := by simp only [p, hs, beq_self_eq_true, hp, Bool.and_self]
  have same : (p ∘ fun m => if (m.serial == l'.serial && m.phase != .done) = true then l' else m) = p := by
    funext m
    rw [Function.comp_apply, hs]
    split
    next hm => exact hit.trans hm.symm
    · rfl
  have found : s.la.launches.find? p = some l := h
  change (s.la.launches.map fun m => if (m.serial == l'.serial && m.phase != .done) = true then l' else m).find? p = some l'
  rw [List.find?_map, same, found, Option.map_some, if_pos]
  rw [hs]
  exact List.find?_some (p := p) found

/-- The state once a group's entry stands in the launch's table and in the register. -/
def State.grouped (s : State) (l : Launch) (g idx : Nat) (e : GroupEntry) : State :=
  ((s.setLaunch { l with groups := l.groups.put idx e }).forgetRuns l.lid e.exb e.rank).upHart fun h =>
    { h with g := h.g.put g ⟨BitVec.ofNat 6 idx, BitVec.ofNat 16 e.count, BitVec.ofNat 16 e.rank⟩ }

theorem ownLaunch_ok {s : State} {l : Launch} (h : s.launchOf s.cur.slot = some l) : ownLaunch s = .ok l s := by
  unfold ownLaunch
  rw [bind_ok (show curLaunch? s = .ok (some l) s from h ▸ rfl)]
  rfl

/-- The launch of the register's old entry gives that up before it takes another. -/
def Launch.leaves (l : Launch) (own : GroupReg) : Launch := if own.count = 0 then l else l.freeGroup own.idx.toNat

/-- The entry that GSET makes of a descriptor. -/
def entryOf (desc rank slot : Nat) : GroupEntry :=
  { exb := BitVec.ofNat 64 (fieldOf desc 64 64), exs := BitVec.ofNat 64 (fieldOf desc 128 64)
    scope := fieldOf desc 16 3, det := bitOf desc 19, count := fieldOf desc 0 16, rank, hart := slot, calls := 0, step := 0
    held := 0, runs := 0, freed := false }

theorem does_gset {s s0 u1 : State} {h : Hdr} {g : Fin 8} {x y : XOp} {desc idx : Nat} {l : Launch} (he : Enters 0 h.b h.b s s0) :
    s0.x2 x y fun va rank u => va.toNat % 64 = 0 → hartLoadWide (u.ctx h.ch) va.toNat 64 u = .ok desc u1 →
      groupDescOk desc = true → rank.toNat < fieldOf desc 0 16 → u1.launchOf u1.cur.slot = some l →
      let l0 := l.leaves ((u1.hart u1.cur.slot).g.get g.val ⟨0, 0, 0⟩)
      idx < 64 → l0.groups.get? idx = none → (∀ j, j < idx → (l0.groups.get? j).isSome) →
      Does (.gset h g x y) h s .next (u1.grouped l0 g.val idx (entryOf desc rank.toNat u1.cur.slot)).vleave := by
  intro hva hload hok hrank hl l0 hidx hnone hsome
  refine .of_vecRun rfl he fun hi hq => ?_
  have second : (s0.xpop x).hasX y := hi.hasSrc (l := [.x x]) (a := .x y) hq rfl rfl
  have first : (List.range 64).find? (fun j => (l0.groups.get? j).isNone) = some idx := by
    refine List.find?_range_eq_some.2 ⟨by simp [hnone], List.mem_range.2 hidx, fun j hj => ?_⟩
    obtain ⟨e, h⟩ := Option.isSome_iff_exists.1 (hsome j hj)
    simp [h]
  rw [bind_readX _ (show s0.hasX x from hi.hasSrc (l := []) (a := .x x) hq rfl rfl), bind_readX _ second, if_neg (not_not.2 hva)]
  rw [bind_ok (show curTag _ = .ok ((s0.xpop x).xpop y).ovtWord ((s0.xpop x).xpop y) from rfl),
    bind_ok (show hartCtx h.ch _ _ = .ok (((s0.xpop x).xpop y).ctx h.ch) ((s0.xpop x).xpop y) from rfl), bind_ok hload,
    if_neg (by simp [hok, hrank]), bind_ok (show curSlot u1 = .ok u1.cur.slot u1 from rfl), bind_ok (ownLaunch_ok hl),
    bind_ok (curHart_ok u1)]
  change (match (List.range 64).find? (fun j => (l0.groups.get? j).isNone) with | none => _ | some idx => _ : M Unit) u1 = _
  rw [first]
  rfl

theorem grouped_hart (s : State) (l : Launch) (g idx : Nat) (e : GroupEntry) :
    ((s.grouped l g idx e).hart s.cur.slot).g.get g ⟨0, 0, 0⟩ =
      ⟨BitVec.ofNat 6 idx, BitVec.ofNat 16 e.count, BitVec.ofNat 16 e.rank⟩ := by
  refine (congrArg (fun h : Hart => h.g.get g ⟨0, 0, 0⟩) (State.hart_setHart ..)).trans ?_
  exact Assoc.get_put_self ..

theorem leaves_same (l : Launch) (own : GroupReg) : (l.leaves own).serial = l.serial ∧ (l.leaves own).phase = l.phase := by
  unfold Launch.leaves Launch.freeGroup
  split
  · exact ⟨rfl, rfl⟩
  split
  · split <;> exact ⟨rfl, rfl⟩
  · exact ⟨rfl, rfl⟩

theorem does_gsetFree {s s0 : State} {h : Hdr} {g : Fin 8} {l : Launch} (he : Enters 0 h.b h.b s s0)
    (hl : s0.launchOf s0.cur.slot = some l) :
    let own := (s0.hart s0.cur.slot).g.get g.val ⟨0, 0, 0⟩
    Does (.gsetFree h g) h s .next ((if own.count = 0 then s0
      else (s0.setLaunch (l.freeGroup own.idx.toNat)).upHart fun k => { k with g := k.g.put g.val ⟨0, 0, 0⟩ }).vleave) := by
  refine .of_vecRun rfl he fun hi hq => ?_
  rw [bind_ok (curHart_ok s0), bind_ok (ownLaunch_ok hl)]
  split <;> rfl

/-! Collectives (07 R316..R319). -/

theorem does_collective {s s0 s' : State} {h : Hdr} {i : Instr} {k : CollOp} {t : Ty} {d a : VOp} {g : Fin 8}
    (hx : Sys2Proof.Machine.exec i s = runJunction i h (do awaitInputs i; bodyColl h k t d a g) s)
    (he : Enters (widest i.tileTys) true h.b s s0) (hc : Collects h k t d a g s0 s') (hr : Ready i s0) :
    Does i h s .next s'.vleave :=
  .of_runJunction hx he fun _ _ => (bind_ok (awaitInputs_ok hr)).trans hc

theorem does_vgbc {s s0 : State} {h : Hdr} {t : Ty} {d a : VOp} {g : Fin 8} {x : XOp} (he : Enters (widest [t]) true h.b s s0) :
    s0.x1 x fun root u => ∀ s' : State, Collects h (.bc root.toNat) t d a g u s' → Ready (.vgbc h t d a g x) s0 →
      Does (.vgbc h t d a g x) h s .next s'.vleave := by
  intro s' hc hr
  refine .of_runJunction rfl he fun hi hq => ?_
  have later : (s0.vpop a).hasX x := hi.hasSrc (l := [.v a]) (a := .x x) hq rfl rfl
  have root : s0.hasX x := by
    match a, x with
    | _, .x n | .v _, .q n => exact later
    | .q m, .q n => exact (show (((s0.vpop (.q m)).hart s0.cur.slot).q.get n.val []) ≠ [] from later) ∘ (Eq.trans (by
        rw [State.vpop, State.upHart, State.hart_setHart]))
  rw [bind_ok (awaitInputs_ok hr), bind_readX _ root]
  exact hc

/-- Settles O42: the group's entry, the collectives' runs, and what the arrivals of a call give. -/
theorem groupsAndCollectives : Obligations.GroupsAndCollectives := by
  unfold Obligations.GroupsAndCollectives
  refine ⟨fun s s0 h g op t d a x y => ⟨fun he => ?_, fun he l hl => does_gsetFree he hl, fun he s' => ?_⟩, ?_⟩
  · intro u1 desc l idx hva hload hok hrank hl own l0 hidx hnone hsome
    have does := does_gset (g := g) (x := x) (y := y) he hva hload hok hrank hl hidx hnone hsome
    obtain ⟨serial, phase⟩ := leaves_same l own
    have named := launch?_serial hl
    have live : (l.phase != .done) = true := launch?_live hl
    let e := entryOf desc ((s0.xpop x).xval y).toNat u1.cur.slot
    have stands := setLaunch_launch? (l' := { l0 with groups := l0.groups.put idx e }) hl (serial.trans named) (by rw [← phase] at live; exact live)
    rw [← named] at stands
    exact ⟨_, does, grouped_hart .., _, _, stands, Assoc.get?_put_self .., rfl, rfl, rfl, rfl, rfl, rfl⟩
  · refine ⟨fun hc hr => ?_, fun hc hr => ?_, fun hc hr => ?_, fun hc hr => does_vgbc he s' hc hr⟩
    · exact does_collective (i := .vgred h op t d a g) rfl he hc hr
    · exact does_collective (i := .vgall h t d a g) rfl he hc hr
    · exact does_collective (i := .vgrs h op t d a g) rfl he hc hr
  · intro t g n arr first tile op e root r h0 htile hg hgr hroot hr he
    have all : ∀ k, ∃ x, k < g.count → arr.find? (fun a => a.rank == k) = some x ∧ x.contrib = tile k := fun k => by
      by_cases hk : k < g.count
      · obtain ⟨x, hx, hc, -⟩ := htile k hk
        exact ⟨x, fun _ => ⟨hx, hc⟩⟩
      · exact ⟨first, fun h => absurd h hk⟩
    choose f hf using all
    have found := fun k hk => (hf k hk).1
    have tiles : ∀ i : Nat, ((List.range g.count).map fun k => ((f k).contrib[i]?).getD 0) =
        (List.range g.count).map fun k => (tile k)[i]?.getD 0 := fun i =>
      List.map_congr_left fun k hk => by rw [(hf k (List.mem_range.1 hk)).2]
    obtain ⟨red, rs⟩ := mem_result_tree (t := t) (op := op) (n := n) (e := e) found h0 hg
    rw [tiles] at red rs
    refine ⟨?_, ?_, red he, rs⟩
    · rw [← (hf r hr).2]
      exact mem_result_all found hr he
    · rw [← (hf root hroot).2]
      exact mem_result_bc found hroot he

end Sys2Proof.Machine
end

section
/-! SUPPORT. WAITW against its statement (07 R330): the wait's acquire first drops border copies that await invalidation. -/

set_option Elab.async false

namespace Sys2Proof.Machine

open Sys2Proof

/-! Runs of meanings on a given state. -/

/-- The state that a meaning leaves, well or not. -/
def stateOf {α : Type} : EStateM.Result Exc State α → State
  | .ok _ t => t
  | .error _ t => t

/-- The meaning ends well with a value. -/
def gives {α : Type} [DecidableEq α] (x : EStateM.Result Exc State α) (v : α) : Bool :=
  match x with
  | .ok a _ => a = v
  | .error _ _ => false

theorem eq_of_gives {α : Type} [DecidableEq α] {x : EStateM.Result Exc State α} {v : α} (h : gives x v = true) :
    x = .ok v (stateOf x) := by
  cases x with
  | ok a t => rw [show a = v from of_decide_eq_true h]; rfl
  | error e t => exact nomatch h

/-- The instruction issues, by its checks in order. -/
def issuing (i : Instr) (h : Hdr) (s : State) : Bool :=
  ((s.stream? s.cur).any fun st => st.live && st.captured.isNone) && (issueTrap s i).isNone && guardTrue (s.stream s.cur) h &&
    (queueBlocked s i).isNone && !scalarBlocked s i && (marked s i).isNone

theorem Issues.of_issuing {i : Instr} {h : Hdr} {s : State} (e : issuing i h s = true) : Issues i h s := by
  simp only [issuing, Bool.and_eq_true, Option.any_eq_true, Option.isNone_iff_eq_none, Bool.not_eq_true'] at e
  obtain ⟨⟨⟨⟨⟨⟨st, hs, live⟩, clear⟩, guard⟩, queues⟩, scalars⟩, marks⟩ := e
  exact ⟨⟨st, hs, live⟩, clear, guard, queues, scalars, marks⟩

/-- The border copies that an outcome leaves. -/
def bordersOf : Host.Outcome State Fault Refusal → Option Nat
  | .next t => some t.mem.border.length
  | _ => none

/-! A hart whose quadrant holds a border copy that awaits invalidation; x12 is a place of its scratchpad. -/

def waitwState : State :=
  let s := State.reset.withPlacedLaunch
  let h := s.hart 0
  { s with
    cur := .stream 0 true
    issue := Issue.single 5 0 4
    agenda := []
    harts := [(0, { h with sx := { h.sx.setX 12 0xFF00000001C00000 with pc := 5 }, lanes := 1, vl := 4 })]
    mem := { s.mem with border := [⟨0, 5, 0, false, some 0, []⟩] } }

def waitwMem : MemOp := ⟨.x 12, .x 0, 0, 0⟩

def waitwEntered : State := stateOf (vecEnter 0 false false waitwState)

def waitwPlace := arrivalPlace 0xFF00000001C00000 waitwEntered

def waitwLoad := hartLoad ((stateOf waitwPlace).hartCtx (stateOf waitwPlace).cur 0 0) 0xFF00000001C00000 16 (stateOf waitwPlace)

def waitwAcquire := acquire 6 (stateOf waitwLoad)

theorem waitw_enters : Enters 0 false false waitwState waitwEntered :=
  eq_of_gives (v := ()) (by decide +kernel)

theorem waitw_place : waitwPlace = .ok (0, 0) (stateOf waitwPlace) := eq_of_gives (by decide +kernel)

theorem waitw_load : waitwLoad = .ok 0 (stateOf waitwLoad) := eq_of_gives (by decide +kernel)

theorem waitw_acquire : waitwAcquire = .ok () (stateOf waitwAcquire) := eq_of_gives (v := ()) (by decide +kernel)

theorem waitw_issues : Issues (.waitw {} (.x 3) waitwMem) {} waitwState := .of_issuing (by decide +kernel)

/-- WAITW leaves no copy that awaits invalidation. -/
theorem waitw_borders : bordersOf (Sys2Proof.Machine.exec (.waitw {} (.x 3) waitwMem) waitwState) = some 0 := by decide +kernel

/-- The state that the statement gives WAITW before it finishes. -/
def waitwClaimed : State := ((stateOf waitwAcquire).xput (.x 3) (BitVec.ofNat 64 0)).vleave

theorem waitw_returnLegal : ReturnLegal (.waitw {} (.x 3) waitwMem) .next waitwClaimed := by
  have h : (badReturn .next (clearMarks (.waitw {} (.x 3) waitwMem) (flushReqs (.waitw {} (.x 3) waitwMem) waitwClaimed))).isNone = true := by
    decide +kernel
  exact Option.isNone_iff_eq_none.1 h

/-- The state that the statement claims keeps the copy. -/
theorem waitw_claimed_borders :
    (finish (.waitw {} (.x 3) waitwMem) {} waitwState .next waitwClaimed).mem.border.length = 1 := by decide +kernel

/-- Refutes O43: where WAITW's condition holds, its acquire drops the border copies that await invalidation before the state of
`Acquires 6`, so the state that the clause names keeps a copy which the execution has dropped. -/
theorem not_cardsCopiesAndArrivalWords : ¬ Obligations.CardsCopiesAndArrivalWords := by
  unfold Obligations.CardsCopiesAndArrivalWords
  intro holds
  obtain ⟨-, -, wait, -⟩ := holds.2 waitwState waitwEntered (stateOf waitwPlace) (stateOf waitwLoad) waitwState
    (stateOf waitwAcquire) {} (.x 3) (.x 3) waitwMem [] 0 waitw_enters
  have claimed : Does (.waitw {} (.x 3) waitwMem) {} waitwState .next waitwClaimed :=
    wait 0 0 0 waitw_place waitw_load (.inr (by decide)) waitw_acquire
  have run := waitw_borders
  rw [claimed waitw_issues waitw_returnLegal, bordersOf, waitw_claimed_borders] at run
  exact absurd run (by decide)

end Sys2Proof.Machine
end

section
/-! SUPPORT. What an instruction that goes on uses, against its statement (08 R335, R357; 10 R413). -/

set_option Elab.async false

namespace Sys2Proof.Machine

open Sys2Proof

/-- What a hart with vl = n captures. -/
def captureOf (n : BitVec 14) : Capture := ⟨n, 1, 0, 0, 0, 0, 0⟩

/-- A hart of vl 4 whose instruction 5 goes on, at the end of a STRIP's body that counts in x1 = 7. -/
def stripState : State :=
  let s := State.reset.withPlacedLaunch
  let h := s.hart 0
  { s with
    cur := .stream 0 true
    issue := Issue.single 5 0 4
    agenda := []
    harts := [(0, { h with
      lanes := 1
      vl := 4
      sx := { h.sx.setX 1 7 with
        pc := 5
        captured := some (captureOf 4)
        stripAct := true
        stripEnd := 5
        stripArgs := [1, 0, 0, 0, 0, 0, 0, 64, 1] } })] }

/-- x1 of stream X of hart 0 after an outcome. -/
def countAfter : Host.Outcome State Fault Refusal → Option Word
  | .next t => some ((t.hart 0).sx.getX 1)
  | _ => none

/-- The hart's own vl, 4, comes off the count. -/
theorem strip_count : countAfter (Sys2Proof.Machine.exec (.nop {}) stripState) = some 3 := by decide +kernel

/-- With another own vl, 2, that one does. -/
theorem strip_count_resumed :
    countAfter (Sys2Proof.Machine.exec (.nop {}) (stripState.resumed (captureOf 2))) = some 5 := by decide +kernel

/-- Values of the hart do not touch its streams. -/
theorem resumed_getX (t : State) (c : Capture) (ht : t.cur.slot = 0) : ((t.resumed c).hart 0).sx.getX 1 = (t.hart 0).sx.getX 1 := by
  unfold State.resumed
  rw [ht, State.hart_setHart]
  rfl

/-- The slot that acts after an outcome, and whether its hart is there. -/
def presentAfter : Host.Outcome State Fault Refusal → Bool
  | .next t => t.cur.slot = 0 && (t.hart? 0).isSome
  | _ => false

theorem strip_present : presentAfter (Sys2Proof.Machine.exec (.nop {}) stripState) = true := by decide +kernel

/-- Refutes O44: an instruction that goes on at the end of a STRIP's body takes the hart's own vl off the count, so what the
partner has made of vl since shows in the count register. -/
theorem not_tagsOpenAndEnd : ¬ Obligations.TagsOpenAndEnd := by
  unfold Obligations.TagsOpenAndEnd
  rintro ⟨-, -, same⟩
  have count := strip_count
  have resumed := strip_count_resumed
  have present := strip_present
  cases run : Sys2Proof.Machine.exec (.nop {}) stripState with
  | fault e | refused e => rw [run] at count; exact nomatch count
  | next t =>
    rw [run] at count present
    obtain ⟨slot, there⟩ := Bool.and_eq_true_iff.1 present
    have goes := same (.nop {}) 0x1 {} stripState t 0 true ((stripState.stream? (.stream 0 true)).getD Stream.blank) (captureOf 4)
      (captureOf 2) rfl rfl rfl rfl run there
    rw [goes, countAfter, resumed_getX _ _ (of_decide_eq_true slot)] at resumed
    exact absurd (count.symm.trans resumed) (by decide)

end Sys2Proof.Machine
end

section
/-! SUPPORT. Detachment against its statement (04 R175; 11 R459): under PAIR the two arrays of a pair mirror each other. -/

set_option Elab.async false

namespace Sys2Proof.Machine

open Sys2Proof

/-- A hart at slot 32 of a launch of lockstep pairs, attached to both arrays of its pair; slot 0 is attached to the even one, so
that its rows stand at slot 16 on the shadow's side, and at slot 32 on that side's own. -/
def detachState : State :=
  let s := State.reset.withPlacedLaunch
  let h := s.hart 0
  let pair := { placedLaunch with info := { placedLaunch.info with pair := true } }
  { s with
    cur := .stream 32 true
    issue := Issue.single 5 0 4
    agenda := []
    harts := [(32, { h with sx := { h.sx with pc := 5 }, lanes := 1, vl := 4 })]
    la := { s.la with launches := [pair] }
    arrays := [(2, { MArray.blank with holder := some placedSerial, attached := [(32, 1, true), (0, 1, true)] })] }

def detachEntered : State := stateOf (vecEnter 32 true true detachState)

theorem detach_enters : EntersMatrix 32 true detachState detachEntered :=
  ⟨by decide +kernel, eq_of_gives (v := ()) (by decide +kernel)⟩

theorem detach_idle : detachEntered.matrixBusy detachEntered.cur.slot = false := by decide +kernel

/-- Detached in the even array, the hart's rows come back with the odd one's mirror. -/
theorem detach_rows : (detachEntered.detachHart detachEntered.cur.slot).matrixReg detachEntered.cur.slot 0 = 257 := by
  decide +kernel

/-- Refutes O45: the detachment of the odd array of a lockstep pair writes its mirror over the even one, where slot 0's rows,
mirrored twice, stand at the hart's own slot; MATRIXREG then still gives a row. -/
theorem not_matrixCommandsEnterTheOrder : ¬ Obligations.MatrixCommandsEnterTheOrder := by
  unfold Obligations.MatrixCommandsEnterTheOrder
  intro holds
  obtain ⟨detach, -⟩ := holds detachState detachEntered detachState detachState detachState {} (.x 1) (.x 1) ⟨.x 0, .x 0, 0, 0⟩
    .own [] 0 ⟨1, 0, false, false, .bf16, 127, 1⟩ 0 0 detach_enters
  obtain ⟨-, gone, -⟩ := detach detach_idle
  exact absurd (detach_rows.symm.trans gone) (by decide)

end Sys2Proof.Machine
end

section
/-! SUPPORT. Cards at issue and their waits, and the traverse instructions (04 R163; 12 R475..R479, R515..R519). -/

set_option Elab.async false

namespace Sys2Proof.Machine

open Sys2Proof

/-! Waits, footprints and units (01 R17; 04 R163; 15 R601). -/

section
variable {s s' : State}

theorem needUnit_ok {n : Nat} (h : s.dc.ready.getLsbD n = true) : needUnit n s = .ok () s := by
  unfold needUnit
  rw [bind_ok (get_ok s), if_pos h]
  rfl

theorem checkFootprint_ok {b : List Byte} (h : RegionsOk b) : checkFootprint b s = .ok (regionsOf b) s := by
  have none : (regionsOf b).zipIdx.find? (fun ri => regionBad b ri.2 ri.1) = none :=
    List.find?_eq_none.2 fun r hr => by simp [h r hr]
  unfold checkFootprint
  rw [none]
  rfl

theorem ownCard_ok {kinds : List Nat} {w : Word} {l : Launch} {k : Card} (hl : s.launchOf s.cur.slot = some l)
    (hk : fieldOf w.toNat 60 4 ∈ kinds) (hs : fieldOf w.toNat 40 20 = l.lslot)
    (hf : (s.la.cards.find? fun c => c.serial == l.serial && c.seq % 2 ^ 40 == w.toNat % 2 ^ 40) = some k) :
    ownCard kinds w s = .ok k s := by
  unfold ownCard
  rw [bind_ok (get_ok s), hl]
  dsimp only
  rw [if_neg (by simp [hk, hs]), hf]
  rfl

theorem acquireJob_ok (h : Acquires 6 (s.setMem s.mem.dropStale) s') : acquireJob s = .ok () s' :=
  (bind_ok (modify_ok _ s)).trans h

/-- Reading an operand leaves the executing hart's launch. -/
theorem State.ours_xpop {l : Launch} (a : XOp) (h : s.ours l) : (s.xpop a).ours l := by
  obtain ⟨q, vq, e⟩ := State.spops_curHart s [.x a]
  have serial : ((s.xpop a).hart (s.xpop a).cur.slot).serial = (s.hart s.cur.slot).serial := (congrArg Hart.serial e :)
  have launches : (s.xpop a).la = s.la := by cases a <;> rfl
  unfold State.ours State.launchOf State.launch? at h ⊢
  rw [serial, launches]
  exact h

end

/-! TVLOAD and TVLOAD.FREE (12 R515, R516). -/

section
variable {s u : State} {h : Hdr} {d a : XOp} {l : Launch}

theorem takeEntryFor_ok {q key first : Nat} {p : TProg} (hk : key < 64) (hfree : (s.tv.progs.get? (q * 64 + key)).any (·.used) = false)
    (hused : ∀ k, k < key → (s.tv.progs.get? (q * 64 + k)).any (·.used) = true) (hu : s.freeUnits q p.units = some first) :
    let gen := ((s.tv.progs.get? (q * 64 + key)).map (·.gen)).getD 0
    (s.takeEntryFor l q p).1 = progHandle (q * 64 + key) gen l.lslot ∧
      (s.takeEntryFor l q p).2.tv.progs.get? (q * 64 + key) = some { p with gen := gen, first := first } := by
  have lowest : (List.range 64).find? (fun e => !((s.tv.progs.get? (q * 64 + e)).any fun p => p.used)) = some key :=
    List.find?_range_eq_some.2 ⟨by simp [hfree], List.mem_range.2 hk, fun j hj => by simp [hused j hj]⟩
  unfold State.takeEntryFor
  rw [lowest, hu]
  refine ⟨rfl, ?_⟩
  unfold State.updLaunch
  dsimp only
  split
  · exact Assoc.get?_put_self ..
  · exact Assoc.get?_put_self ..

/-- A current handle names its own entry. -/
theorem progOf_key {w : Word} {key : Nat} {p : TProg} (h : s.progOf l w = some (key, p)) :
    key = fieldOf w.toNat 10 2 * 64 + w.toNat % 64 := by
  unfold State.progOf at h
  dsimp only at h
  split at h
  · exact nomatch h
  · split at h
    · exact (congrArg Prod.fst (Option.some.inj h)).symm
    · exact nomatch h

/-- A handle whose entry has been freed is stale. -/
theorem freeProg_progOf {w : Word} {key : Nat} {p : TProg} (h : s.progOf l w = some (key, p)) :
    (s.freeProg key p).progOf l w = none := by
  have progs : (s.freeProg key p).tv.progs = s.tv.progs.put key { p with used := false, gen := p.gen + 1, legs := [], slots := [] } := by
    unfold State.freeProg State.updLaunch
    dsimp only
    split <;> rfl
  unfold State.progOf
  dsimp only
  rw [progs, ← progOf_key h, Assoc.get?_put_self]
  rfl

theorem does_tvloadFree {w : Word} {key : Nat} {p : TProg} (ho : (s.xpop a).ours l) (hw : s.xval a = w)
    (hp : (s.xpop a).progOf l w = some (key, p)) (hr : (s.xpop a).dc.ready.getLsbD (28 + key / 64) = true)
    (hb : (s.xpop a).progBusy l.serial w = false) : Does (.tvloadFree h a) h s .next ((s.xpop a).freeProg key p) := by
  refine .of_runSeq rfl fun hi => ?_
  rw [bind_readX _ (hi.has1 rfl rfl), hw, bind_ok (ownLaunch_ok ho), bind_ok (get_ok _), hp]
  dsimp only
  rw [bind_ok (needUnit_ok hr), bind_ok (get_ok _), hb]
  rfl

/-! TVSTART, TVWAIT, TVSTAT (12 R517..R519). -/

theorem does_tvstart {b : List Byte} {s1 s2 : State} {chn : Fin 17} {key : Nat} {p : TProg} {handle : Word}
    (ha : (s.xval a).toNat % 64 = 0) (hc : ReadsCard h (s.xval a).toNat 128 (s.xpop a) s1 b) (hr : RegionsOk b) (ho : s1.ours l)
    (hp : s1.progOf l (BitVec.ofNat 64 (cardField b 64 8)) = some (key, p)) (hz : cardField b 72 56 = 0)
    (hi : IssuesCard (.traverse (BitVec.ofNat 64 (cardField b 64 8)) chn (((l.groups.get? p.gidx).map (·.runs)).getD 0))
      (regionsOf b) s1 s2 handle) :
    Does (.tvstart h chn d a) h s .next ((s2.updLaunch l.serial fun k =>
      match k.groups.get? p.gidx with
      | some x => { k with groups := k.groups.put p.gidx { x with runs := x.runs + 1 } }
      | none => k).xput d handle) := by
  refine .of_runSeq rfl fun his => ?_
  rw [bind_readX _ (his.has1 rfl rfl), if_neg (not_not.2 ha)]
  beta_reduce
  rw [bind_ok (show readCard _ _ _ _ = _ from hc), bind_ok (checkFootprint_ok hr), bind_ok (ownLaunch_ok ho), bind_ok (get_ok _), hp]
  dsimp only
  rw [if_neg (not_not.2 hz)]
  rw [bind_ok (show issueCard _ _ _ = _ from hi), bind_ok (modify_ok _ _)]
  exact writeX_ok ..

theorem does_tvwait {k : Card} {st : CardStatus} {s' : State} (ho : (s.xpop a).ours l) (hk : fieldOf (s.xval a).toNat 60 4 = 3)
    (hs : fieldOf (s.xval a).toNat 40 20 = l.lslot)
    (hf : ((s.xpop a).la.cards.find? fun x => x.serial == l.serial && x.seq % 2 ^ 40 == (s.xval a).toNat % 2 ^ 40) = some k)
    (hc : k.completed = some st) (hq : Acquires 6 ((s.xpop a).setMem (s.xpop a).mem.dropStale) s') :
    Does (.tvwait h d a) h s .next (s'.xput d (BitVec.ofNat 64 (CardStatus.code st))) := by
  refine .of_runSeq rfl fun hi => ?_
  rw [bind_readX _ (hi.has1 rfl rfl), bind_ok (ownCard_ok (kinds := [3]) ho (by simp [hk]) hs hf), hc]
  dsimp only
  rw [bind_ok (acquireJob_ok hq), writeX_ok]

theorem does_tvstat (ho : (s.xpop a).ours l) :
    Does (.tvstat h 0 d a) h s .next ((s.xpop a).xput d ((s.xpop a).tvCardStat l.serial (s.xval a))) ∧
    (s.xval a = 0 → Does (.tvstat h 1 d a) h s .next
      ((s.xpop a).xput d ((s.xpop a).tvEngineStat (quadOf (coreOf (s.xpop a).cur.slot))))) ∧
    Does (.tvstat h 2 d a) h s .next ((s.xpop a).xput d ((s.xpop a).tvProgStat l (s.xval a))) := by
  refine ⟨.of_runSeq rfl fun hi => ?_, fun hw => .of_runSeq rfl fun hi => ?_, .of_runSeq rfl fun hi => ?_⟩
  · rw [bind_readX _ (hi.has1 rfl rfl), bind_ok (ownLaunch_ok ho), bind_ok (get_ok _)]
    exact writeX_ok ..
  · rw [bind_readX _ (hi.has1 rfl rfl), bind_ok (ownLaunch_ok ho), bind_ok (get_ok _)]
    exact (congrFun (if_neg (not_not.2 hw)) _).trans (writeX_ok ..)
  · rw [bind_readX _ (hi.has1 rfl rfl), bind_ok (ownLaunch_ok ho), bind_ok (get_ok _)]
    exact writeX_ok ..

end

/-- Settles O47: a program's life from TVLOAD to TVLOAD.FREE, and its runs' cards. -/
theorem traverseInstructionsComplete : Obligations.TraverseInstructionsComplete := by
  unfold Obligations.TraverseInstructionsComplete
  intro s s' h d a g chn l ho
  have ho' := State.ours_xpop a ho
  refine ⟨ho', ?_, fun key p hp hr hb => ⟨does_tvloadFree ho' rfl hp hr hb, freeProg_progOf hp⟩, ?_, ?_, does_tvstat ho'⟩
  · intro e card head tab legs s1 s2 s3 key first own c b hd paddr stab slots words p q
      ha hready hcard hown hgroup hc0 hc1 hb hpaddr hstab hhead hn hlegs htab hhdr hslots howner hkey hfree hused hfirst
    obtain ⟨handle, entry⟩ := takeEntryFor_ok (l := l) hkey hfree hused hfirst
    refine ⟨.of_runSeq rfl fun hi => ?_, handle, entry⟩
    rw [bind_readX _ (hi.has1 rfl rfl), if_neg (not_not.2 ha)]
    beta_reduce
    rw [bind_ok (show curCore _ = .ok (coreOf (s.xpop a).cur.slot) (s.xpop a) from rfl), bind_ok (needUnit_ok hready),
      bind_ok (show curTag _ = .ok (s.xpop a).ovtWord (s.xpop a) from rfl),
      bind_ok (show hartCtx h.ch _ _ = .ok ((s.xpop a).ctx h.ch) (s.xpop a) from rfl), bind_ok hcard, bind_ok (curHart_ok s1),
      bind_ok (ownLaunch_ok hown)]
    change (match l.groups.get? own.idx.toNat with | none => _ | some e => _ : M Unit) s1 = _
    rw [hgroup]
    dsimp only
    have counted : ¬(decide (own.count = 0) || decide (4096 < own.count.toNat)) = true := by
      have members : ¬own.count = 0#16 := fun e => by simp [e] at hc0
      simp [members, Nat.not_lt.2 hc1]
    have fields : ¬(decide (cardField b 16 48 ≠ 0) || decide (paddr % 16 ≠ 0) || decide (stab % 64 ≠ 0)) = true := by
      simp [hb, hpaddr, hstab]
    have legal : ¬(!slots.all slotLegal) = true := by simpa using hslots
    have owner : (if p.det = true then p.ownerCheck (words.map decodeLeg) else none) = none := by
      split
      · exact howner ‹_›
      · rfl
    rw [if_neg counted, if_neg fields, bind_ok hhead, if_pos hn, bind_ok hlegs, bind_ok htab,
      if_neg (Bool.eq_false_iff.1 hhdr), if_neg legal]
    change (match (if p.det = true then p.ownerCheck (words.map decodeLeg) else none) with | some code => _ | none => _ : M Unit) s' = _
    rw [owner]
    refine (bind_ok (get_ok s')).trans ((bind_ok (show curCore s' = .ok (coreOf s'.cur.slot) s' from rfl)).trans ?_)
    exact (bind_ok (show (set (s'.takeEntryFor l q p).2 : M PUnit) s' = .ok () (s'.takeEntryFor l q p).2 from rfl)).trans (writeX_ok ..)
  · intro b s1 s2 key p handle ha hc hr ho1 hp hz hi
    exact does_tvstart ha hc hr ho1 hp hz hi
  · intro k st hk hs hf hc hq
    have waits := does_tvwait (h := h) (d := d) ho' hk hs hf hc hq
    cases st <;> exact waits

end Sys2Proof.Machine
end


section
/-! SUPPORT. The gazetteer instructions (13 R531, R546..R549). -/

set_option Elab.async false

namespace Sys2Proof.Machine

open Sys2Proof

section
variable {s s1 s2 s' u : State} {h : Hdr} {d a b : XOp} {l : Launch}

/-! GZLOOK and GZUPDATE (13 R546): both run `bodyGzCard`. -/

theorem bodyGzCard_ok {look : Bool} {v w : Word} {bytes : List Byte} {entry : Option TableEntry} (ha : s.hasX a)
    (hv : s.xval a = v) (hal : v.toNat % 64 = 0) (hc : ReadsCard h v.toNat 128 (s.xpop a) s1 bytes) (hr : RegionsOk bytes)
    (ho : s1.ours l) (he : tableEntry (parseSpb bytes).tid s1 = .ok entry s2)
    (hb : spbBadField bytes look ((entry.map fun e => if e.usable l.info.asid none then e.elems else 0).getD 0) = none)
    (hi : let use := if (parseSpb bytes).expl then (parseSpb bytes).vsel else (s2.gz.cur.get (parseSpb bytes).tid 0).toNat
      IssuesCard (if look then .lookup bytes use else .update bytes use) (regionsOf bytes) s2 s' w) :
    bodyGzCard look h d a s = .ok () (s'.xput d w) := by
  unfold bodyGzCard
  rw [bind_readX _ ha, hv, if_neg (not_not.2 hal)]
  beta_reduce
  rw [bind_ok (show readCard _ _ _ _ = _ from hc), bind_ok (checkFootprint_ok hr), bind_ok (ownLaunch_ok ho), bind_ok he]
  cases entry with
  | none =>
    change (match spbBadField bytes look 0 with | some _ => _ | none => _ : M Unit) s2 = _
    rw [show spbBadField bytes look 0 = none from hb]
    exact (bind_ok (get_ok s2)).trans ((bind_ok (show issueCard _ _ _ = _ from hi)).trans (writeX_ok ..))
  | some e =>
    change (match spbBadField bytes look (if e.usable l.info.asid none then e.elems else 0) with
      | some _ => _ | none => _ : M Unit) s2 = _
    rw [show spbBadField bytes look (if e.usable l.info.asid none then e.elems else 0) = none from hb]
    exact (bind_ok (get_ok s2)).trans ((bind_ok (show issueCard _ _ _ = _ from hi)).trans (writeX_ok ..))

/-! GZVER and GZWAIT (13 R547, R549). -/

theorem does_gzver {ver : Fin 4} {v : Word} {e : TableEntry} (ho : (s.xpop a).ours l) (hv : s.xval a = v) (hle : v.toNat ≤ 255)
    (he : tableEntry v.toNat (s.xpop a) = .ok (some e) s1) (hev : e.v = true) (has : e.asid = l.info.asid.toNat)
    (hr : s1.dc.ready.getLsbD (16 + e.lead) = true) (hq : Releases 6 s1 s2) :
    Does (.gzver h ver d a) h s .next
      ((s2.setGz { s2.gz with cur := s2.gz.cur.put v.toNat (BitVec.ofNat 2 ver.val) }).xput d
        ((s2.gz.cur.get v.toNat 0).setWidth 64)) := by
  refine .of_runSeq rfl fun hi => ?_
  rw [bind_readX _ (hi.has1 rfl rfl), hv, bind_ok (ownLaunch_ok ho), if_neg (Nat.not_lt.2 hle)]
  beta_reduce
  rw [bind_ok he]
  dsimp only
  rw [if_neg (by simp [hev, has]), bind_ok (needUnit_ok hr), bind_ok (show release 6 s1 = _ from hq), bind_ok (get_ok _),
    bind_ok (modify_ok _ _)]
  exact writeX_ok ..

theorem does_gzwait {k : Card} {st : CardStatus} (ho : (s.xpop a).ours l) (hk : fieldOf (s.xval a).toNat 60 4 = 4)
    (hs : fieldOf (s.xval a).toNat 40 20 = l.lslot)
    (hf : ((s.xpop a).la.cards.find? fun x => x.serial == l.serial && x.seq % 2 ^ 40 == (s.xval a).toNat % 2 ^ 40) = some k)
    (hc : k.completed = some st) (hq : Acquires 6 ((s.xpop a).setMem (s.xpop a).mem.dropStale) s') :
    Does (.gzwait h d a) h s .next (s'.xput d (BitVec.ofNat 64 (gzResult k st))) := by
  refine .of_runSeq rfl fun hi => ?_
  rw [bind_readX _ (hi.has1 rfl rfl), bind_ok (ownCard_ok (kinds := [4]) ho (by simp [hk]) hs hf), hc]
  dsimp only
  rw [bind_ok (acquireJob_ok hq), writeX_ok]

/-! GZPIN and GZPIN.UN (13 R548). -/

theorem bodyGzpin_ok {un : Bool} {n : BitVec 13} {v r0 : Word} {e : TableEntry} {done : Nat} (ha : s.hasX a)
    (hb : (s.xpop a).hasX b) (hv : s.xval a = v) (hr0 : (s.xpop a).xval b = r0) (ho : ((s.xpop a).xpop b).ours l)
    (hlt : v.toNat < 1024) (he : tableEntry (v.toNat % 256) ((s.xpop a).xpop b) = .ok (some e) s1)
    (hu : e.usable l.info.asid (some (v.toNat / 256)) = true) (hn : r0.toNat + n.toNat ≤ e.rows)
    (hp : PinsRows un e (v.toNat % 256) (v.toNat / 256) r0.toNat n.toNat l.serial s1 s' done) :
    bodyGzpin un n d a b s = .ok () (s'.xput d (BitVec.ofNat 64 done)) := by
  have ver : v.toNat / 256 % 4 = v.toNat / 256 := by omega
  unfold bodyGzpin
  rw [bind_readX _ ha, hv, bind_readX _ hb, hr0, bind_ok (ownLaunch_ok ho), ver,
    if_neg (not_not.2 (show v.toNat / 1024 = 0 by omega))]
  beta_reduce
  rw [bind_ok he]
  dsimp only
  rw [hu, if_neg (by simp), if_neg (Nat.not_lt.2 hn), bind_ok (show curTag s1 = .ok s1.ovtWord s1 from rfl),
    bind_ok (show hartCtx 0 _ s1 = .ok (s1.ctx 0) s1 from rfl), bind_ok hp]
  exact writeX_ok ..

/-- Unpinning passes over every row. -/
theorem pinRows_un_done {c : Ctx} {e : TableEntry} {tid ver : Nat} {serial : Word} {rows : List Nat} {from_ done : Nat}
    (h : pinRows true c e tid ver serial rows from_ s = .ok done s') : done = from_ + rows.length := by
  induction rows generalizing from_ s with
  | nil => exact (pure_eq_ok h).1
  | cons r rest ih =>
    unfold pinRows at h
    dsimp only at h
    rw [if_pos rfl] at h
    obtain ⟨-, v, -, unpinned⟩ := bind_eq_ok h
    have later := modify_bind_eq_ok unpinned
    rw [ih later, List.length_cons]
    omega

end

/-- Settles O48: the gazetteer's cards, versions, pins and waits. -/
theorem gazetteerInstructionsComplete : Obligations.GazetteerInstructionsComplete := by
  unfold Obligations.GazetteerInstructionsComplete
  intro s s1 s2 s' h d a b n ver l e w ho
  have ho' := State.ours_xpop a ho
  rw [State.x1, State.x2, State.x1, State.x1]
  refine ⟨⟨?_, ?_, ?_⟩, ?_⟩
  · intro bytes entry hal hc hr hown sp he
    dsimp only
    refine ⟨fun hb hi => ?_, fun hb hi => ?_⟩
    · exact .of_runSeq rfl fun his => bodyGzCard_ok (his.has1 rfl rfl) rfl hal hc hr hown he hb hi
    · exact .of_runSeq rfl fun his => bodyGzCard_ok (his.has1 rfl rfl) rfl hal hc hr hown he hb hi
  · intro hle he hev has hready hq
    exact does_gzver ho' rfl hle he hev has hready hq
  · intro k st hown hk hs hf hc hq
    exact does_gzwait hown hk hs hf hc hq
  · intro done hlt he hown hu hn
    refine ⟨fun hp => ?_, fun hp => ⟨?_, ?_⟩⟩
    · exact .of_runSeq rfl fun his => bodyGzpin_ok (his.has1 rfl rfl) (his.has2 rfl rfl) rfl rfl hown hlt he hu hn hp
    · exact .of_runSeq rfl fun his => bodyGzpin_ok (his.has1 rfl rfl) (his.has2 rfl rfl) rfl rfl hown hlt he hu hn hp
    · have all := pinRows_un_done hp
      rw [List.length_map, List.length_range, Nat.zero_add] at all
      exact all

end Sys2Proof.Machine
end


section
/-! SUPPORT. The launch instructions (04 R154, R182..R187). -/

set_option Elab.async false

namespace Sys2Proof.Machine

open Sys2Proof

theorem SameButHarts.la {s t : State} (h : SameButHarts s t) : t.la = s.la := by unfold SameButHarts at h; rw [h]

theorem SameButHarts.ready {s t : State} (h : SameButHarts s t) : t.dc.ready = s.dc.ready := by unfold SameButHarts at h; rw [h]

section
variable {s s1 s2 s3 : State} {h : Hdr} {d a c : XOp} {l : Launch} {b : List Byte}

/-! LAUNCH (04 R183). -/

/-- The record of a LAUNCH that is to be accepted: what the executing stream's launch may not exceed is cut. -/
def State.recordOf (s : State) (l : Launch) (b : List Byte) : LaunchRec :=
  let r := parseRecord b
  { r with
    asid := if (s.stream s.cur).priv then r.asid else l.info.asid
    prio := min r.prio l.info.prio }

/-- The state once a LAUNCH has copied its record. -/
def State.keepRecord (s : State) (b : List Byte) : State := s.upStream fun st => { st with copied := b }

/-- The quad of the executing stream's core, whose launch engine takes its records. -/
def State.home (s : State) : Nat := quadOf (coreOf s.cur.slot)

theorem keepRecord_la : (s.keepRecord b).la = s.la := (State.upStream_rest ..).la

theorem keepRecord_recordOf : (s.keepRecord b).recordOf l b = s.recordOf l b := by
  unfold State.recordOf
  rw [show ((s.keepRecord b).stream (s.keepRecord b).cur).priv = (s.stream s.cur).priv from
    (congrArg Stream.priv (State.upStream_stream s fun st => { st with copied := b }) :)]

theorem keepRecord_home : (s.keepRecord b).home = s.home := by
  unfold State.home
  rw [show (s.keepRecord b).cur = s.cur from State.upStream_cur ..]

theorem keepRecord_ready (hr : s.dc.ready.getLsbD (32 + s.home) = true) :
    (s.keepRecord b).dc.ready.getLsbD (32 + (s.keepRecord b).home) = true := by
  rw [keepRecord_home, show (s.keepRecord b).dc.ready = s.dc.ready from (State.upStream_rest ..).ready, hr]

theorem keepRecord_queued : (s.keepRecord b).deviceQueued (s.keepRecord b).home = s.deviceQueued s.home := by
  unfold State.deviceQueued
  rw [keepRecord_home, keepRecord_la]

/-- A stream that has copied no record reads one. -/
theorem launchRecord_ok (hb : (s.stream s.cur).copied = []) (ha : s.hasX a) (hal : (s.xval a).toNat % 64 = 0)
    (ho : (s.xpop a).ours l) (hr : Releases (if l.info.pod then 7 else 6) (s.xpop a) s1)
    (hc : ReadsCard h (s.xval a).toNat 256 s1 s2 b) :
    launchRecord d a h s = if s2.refusal b ≠ 0 then .ok none (s2.xput d (BitVec.ofNat 64 (2 ^ 63 + s2.refusal b)))
      else .ok (some b) (s2.keepRecord b) := by
  unfold launchRecord
  rw [bind_ok (show curStream s = .ok (s.stream s.cur) s from rfl), if_neg (by simp [hb]), bind_readX _ ha,
    if_neg (not_not.2 hal), bind_ok (ownLaunch_ok ho),
    bind_ok (show release (if l.info.pod then 7 else 6) _ = _ from hr), bind_ok (show readCard _ _ _ _ = _ from hc),
    bind_ok (get_ok _)]
  split
  · rw [bind_ok (writeX_ok ..)]
    rfl
  · rw [bind_ok (modStream_ok ..)]
    rfl

theorem bodyLaunch_refused {try_ : Bool} {t : State} (ho : s.ours l) (hl : launchRecord d a h s = .ok none t) :
    bodyLaunch try_ d a h s = .ok () t := by
  unfold bodyLaunch
  rw [bind_ok (ownLaunch_ok ho), bind_ok hl]
  rfl

theorem bodyLaunch_full {t : State} (ho : s.ours l) (hl : launchRecord d a h s = .ok (some b) t)
    (hr : t.dc.ready.getLsbD (32 + t.home) = true) (hq : 256 ≤ t.deviceQueued t.home) :
    bodyLaunch true d a h s = .ok () (t.xput d 0) := by
  unfold bodyLaunch
  rw [bind_ok (ownLaunch_ok ho), bind_ok hl]
  dsimp only
  rw [bind_ok (get_ok t), if_neg (by simpa [State.home] using hr), if_pos (show 256 ≤ t.deviceQueued (quadOf (coreOf t.cur.slot)) from hq),
    if_pos rfl]
  exact writeX_ok ..

theorem bodyLaunch_ok {try_ : Bool} {t : State} {home n : Nat} {r : LaunchRec} (ho : s.ours l)
    (hl : launchRecord d a h s = .ok (some b) t) (hr : t.dc.ready.getLsbD (32 + t.home) = true) (hq : t.deviceQueued t.home < 256)
    (hh : t.home = home) (hn : t.la.devCount.get home 0 = n) (hrec : t.recordOf l b = r) :
    let serial := BitVec.ofNat 64 ((65 + home) * 2 ^ 56 + n % 2 ^ 48)
    bodyLaunch try_ d a h s = .ok () (((t.setLa { t.la with devCount := t.la.devCount.put home (n + 1) }).accept r serial home
      l.evq none none).xput d serial) := by
  subst hh hn hrec
  unfold bodyLaunch
  rw [bind_ok (ownLaunch_ok ho), bind_ok hl]
  dsimp only
  rw [bind_ok (get_ok t), if_neg (by simpa [State.home] using hr),
    if_neg (Nat.not_le.2 (show t.deviceQueued (quadOf (coreOf t.cur.slot)) < 256 from hq))]
  exact writeX_ok ..

/-! BAR (04 R185). -/

theorem does_bar_released {lev : Fin 8} (ho : s.ours l) (h0 : lev ≠ 0) (hn : lev.val < l.info.nlev)
    (hs : (s.stream s.cur).stage ≠ 0) (hw : (s.stream s.cur).barWait = none) (hq : Acquires (l.info.level lev.val).dom s s1) :
    Does (.bar h lev) h s .next s1 := by
  refine .of_runSeq rfl fun hi => ?_
  rw [bind_ok (ownLaunch_ok ho), if_neg (by simp [h0, hn]), bind_ok (show curStream s = .ok (s.stream s.cur) s from rfl),
    if_neg hs, if_neg (by simp [hw])]
  exact hq

theorem bar_arrives {lev : Fin 8} (ho : s.ours l) (h0 : lev ≠ 0) (hn : lev.val < l.info.nlev)
    (hs : (s.stream s.cur).stage = 0) (hr : Releases (l.info.level lev.val).dom s s1) (hi : Issues (.bar h lev) h s) :
    ∃ t, Sys2Proof.Machine.exec (.bar h lev) s = .next t ∧ (t.stream s1.cur).barWait = some lev.val ∧
      (t.stream s1.cur).barCount lev.val = (s1.stream s1.cur).barCount lev.val + 1 ∧ t.issue.res = .waits := by
  have arrived := State.upStream_stream s1 fun st => st.arriveBar lev.val
  rw [State.upStream_cur] at arrived
  have count : ((s1.stream s1.cur).arriveBar lev.val).barCount lev.val = (s1.stream s1.cur).barCount lev.val + 1 := by
    simp [Stream.barCount, Stream.arriveBar]
  have later : ∃ w, execBar h lev s = .next w ∧ w.issue.res = .waits ∧
      Waited (s1.upStream fun st => st.arriveBar lev.val) w := by
    refine runSeq_waits hi ?_
    rw [bind_ok (ownLaunch_ok ho), if_neg (by simp [h0, hn]), bind_ok (show curStream s = .ok (s.stream s.cur) s from rfl),
      if_pos hs, bind_ok (show release _ s = _ from hr), bind_ok (modStream_ok ..)]
    rfl
  obtain ⟨t, ht, hw, after⟩ := later
  have wait := after.stream Stream.barWait rfl fun _ _ => rfl
  have counts := after.stream (fun st => st.barCount lev.val) rfl fun _ _ => rfl
  rw [State.upStream_cur, arrived] at wait counts
  exact ⟨t, ht, wait, counts.trans count, hw⟩

/-! TRIG, LVLID, WAITL (04 R154, R184, R186, R187). -/

theorem does_trig (ho : s.ours l) (hr : Releases l.info.sigscope s s1) :
    let t := s1.updLaunch l.serial fun k => { k with trigCount := k.trigCount + 1 }
    Does (.trig h) h s .next (if l.info.trigcnt ≠ 0 ∧ l.trigCount + 1 = l.info.trigcnt then t.triggerAdd l.serial else t) := by
  refine .of_runSeq rfl fun hi => ?_
  rw [bind_ok (ownLaunch_ok ho), bind_ok (show release _ s = _ from hr), modify_ok]
  simp only [Bool.and_eq_true, decide_eq_true_eq]

theorem does_lvlid {lev : Fin 8} {sel : LvlSel} (ho : s.ours l) (h0 : lev ≠ 0) :
    Does (.lvlid h lev sel d) h s .next (s.xput d (BitVec.ofNat 64 (l.info.lvlid (s.hart s.cur.slot).index lev.val sel))) := by
  refine .of_runSeq rfl fun hi => ?_
  rw [if_neg h0, bind_ok (ownLaunch_ok ho), bind_ok (curHart_ok s)]
  exact writeX_ok ..

theorem does_waitl {sc : Scope} {v : Nat} {least : Word} (ha : (s.xval a).toNat % 8 = 0) (hc : (s.xpop a).xval c = least)
    (hv : hartLoad (((s.xpop a).xpop c).ctx h.ch) (s.xval a).toNat 8 ((s.xpop a).xpop c) = .ok v s1)
    (hq : Acquires (Scope.rank sc) s1 s3) (hl : least.toNat ≤ v) :
    Does (.waitl h sc d a c) h s .next
      ((if 6 ≤ Scope.rank sc then s3.setMem s3.mem.dropStale else s3).xput d (BitVec.ofNat 64 v)) := by
  refine .of_runSeq rfl fun hi => ?_
  rw [bind_readX _ (hi.has1 rfl rfl), bind_readX _ (hi.has2 rfl rfl), hc, if_neg (not_not.2 ha),
    bind_ok (show curTag _ = .ok ((s.xpop a).xpop c).ovtWord _ from rfl),
    bind_ok (show hartCtx h.ch _ _ = .ok (((s.xpop a).xpop c).ctx h.ch) _ from rfl), bind_ok hv,
    bind_ok (show acquire _ s1 = _ from hq), if_pos hl]
  split
  · exact writeX_ok ..
  · exact writeX_ok ..

end

/-- Settles O49: launches, triggers, barriers and waits of the launch engine's instructions. -/
theorem launchInstructionsComplete : Obligations.LaunchInstructionsComplete := by
  unfold Obligations.LaunchInstructionsComplete
  intro s s1 s2 s3 h d a c l b lev sel sc ho
  have ho' := State.ours_xpop a ho
  rw [State.x1, State.x2, State.x1]
  refine ⟨fun hb hal hr hc => ?_, does_trig ho, fun h0 hn => ⟨does_bar_released ho h0 hn, bar_arrives ho h0 hn⟩,
    does_lvlid ho, fun v ha hv hq hl => does_waitl ha rfl hv hq hl⟩
  dsimp only
  refine ⟨fun hz => ?_, fun hz hready => ⟨fun hq => ?_, fun hq => ?_⟩⟩
  · have refused (hi : s.hasX a) := (launchRecord_ok (d := d) hb hi hal ho' hr hc).trans (if_pos hz)
    exact ⟨.of_runSeq rfl fun hi => bodyLaunch_refused ho (refused (hi.has1 rfl rfl)),
      .of_runSeq rfl fun hi => bodyLaunch_refused ho (refused (hi.has1 rfl rfl))⟩
  · have read (hi : s.hasX a) := (launchRecord_ok (d := d) hb hi hal ho' hr hc).trans (if_neg (not_not.2 hz))
    have launched {try_ : Bool} (hi : s.hasX a) := bodyLaunch_ok (try_ := try_) ho (read hi) (keepRecord_ready hready)
      (keepRecord_queued.trans_lt hq) keepRecord_home (congrArg (fun la => la.devCount.get s2.home 0) keepRecord_la)
      keepRecord_recordOf
    refine ⟨?_, ?_, ?_⟩
    · exact .of_runSeq rfl fun hi => launched (hi.has1 rfl rfl)
    · exact .of_runSeq rfl fun hi => launched (hi.has1 rfl rfl)
    · refine ⟨_, congrArg (fun la => la.launches ++ _) (keepRecord_la (b := b)), ?_⟩
      exact ⟨rfl, rfl, rfl, rfl, rfl⟩
  · have read (hi : s.hasX a) := (launchRecord_ok (d := d) hb hi hal ho' hr hc).trans (if_neg (not_not.2 hz))
    exact .of_runSeq rfl fun hi => bodyLaunch_full ho (read (hi.has1 rfl rfl)) (keepRecord_ready hready)
      (hq.trans_eq keepRecord_queued.symm)

end Sys2Proof.Machine
end


section
/-! SUPPORT. The survey instructions (14 R560, R566, R572..R577). -/

set_option Elab.async false

namespace Sys2Proof.Machine

open Sys2Proof

theorem State.xpop_sv (s : State) (a : XOp) : (s.xpop a).sv = s.sv := by cases a <;> rfl

theorem State.xpop_dc (s : State) (a : XOp) : (s.xpop a).dc = s.dc := by cases a <;> rfl

theorem State.xpop_la (s : State) (a : XOp) : (s.xpop a).la = s.la := by cases a <;> rfl

/-- Reading an operand changes nothing of the executing hart but its queues. -/
theorem State.xpop_curHart {α : Type} (s : State) (a : XOp) (g : Hart → α) (hg : ∀ h q vq, g { h with q := q, vq := vq } = g h) :
    g ((s.xpop a).hart (s.xpop a).cur.slot) = g (s.hart s.cur.slot) := by
  obtain ⟨q, vq, e⟩ := State.spops_curHart s [.x a]
  rw [show (s.xpop a).hart (s.xpop a).cur.slot = _ from e, hg]

theorem State.xpop_launchOf (s : State) (a : XOp) : (s.xpop a).launchOf (s.xpop a).cur.slot = s.launchOf s.cur.slot := by
  unfold State.launchOf State.launch?
  rw [State.xpop_la, s.xpop_curHart a Hart.serial fun _ _ _ => rfl]

section
variable {s s1 : State} {h : Hdr} {d a : XOp}

/-- An instruction of the survey engine does what its body does, once the engine is up. -/
theorem Does.of_runSurvey {i : Instr} {body : M Unit} {t : State} (hx : exec i s = runSurvey i h body s)
    (hr : s.dc.ready.getLsbD 55 = true) (hb : Issues i h s → body s = .ok () t) : Does i h s .next t :=
  .of_runSeq hx fun hi => (bind_ok (needUnit_ok hr)).trans (hb hi)

/-! MTICK and SVMARK (14 R572, R573). -/

theorem awaitOwn_ok (hf : ∀ e ∈ (s.hart s.cur.slot).inflight, e.isX ≠ s.cur.isX)
    (ht : ∀ t ∈ (s.hart s.cur.slot).trains, t.isX = s.cur.isX → t.failed = true ∨ t.round.isSome)
    (hc : ∀ kv ∈ s.arrays, ∀ c ∈ kv.2.queue, c.hart = s.cur.slot → c.isX ≠ s.cur.isX) : awaitOwn s = .ok () s := by
  have vectors : ((s.hart s.cur.slot).inflight.any fun e => e.isX == s.cur.isX) = false := by simpa using hf
  have trains : ((s.hart s.cur.slot).trains.any fun t => t.isX == s.cur.isX && !t.failed && t.round.isNone) = false := by
    simp only [List.any_eq_false]
    intro t mem own
    simp only [Bool.and_eq_true, beq_iff_eq, Bool.not_eq_true', Option.isNone_iff_eq_none] at own
    rcases ht t mem own.1.1 with failed | round
    · rw [own.1.2] at failed
      exact nomatch failed
    · rw [own.2] at round
      exact nomatch round
  have commands : (s.arrays.any fun kv => kv.2.queue.any fun c => c.hart == s.cur.slot && c.isX == s.cur.isX) = false := by
    simp only [List.any_eq_false, Bool.not_eq_true, Bool.and_eq_false_imp, beq_iff_eq, beq_eq_false_iff_ne]
    exact hc
  have closed : s.ownOpen s.cur.slot s.cur.isX = false := by
    unfold State.ownOpen
    dsimp only
    rw [vectors, trains, commands]
    rfl
  unfold awaitOwn
  rw [bind_ok (get_ok s), if_neg (by simp [closed])]
  rfl

theorem does_svmark {code : BitVec 16} (hr : s.dc.ready.getLsbD 55 = true) (hw : awaitOwn s = .ok () s) :
    let u := s.xpop a
    let cls := ((s.launchOf s.cur.slot).map fun l => l.info.bclass).getD 15
    Does (.svmark h code a) h s .next (if (s.traceRing (quadOf (coreOf s.cur.slot))).ctl.getLsbD (7 + cls) = true
      then u.traceRecord (quadOf (coreOf s.cur.slot)) (coreOf s.cur.slot) 1 (s.cur.slot % 4) s.cur.isX code.toNat s.issue.n (s.xval a)
      else u) := by
  refine .of_runSurvey rfl hr fun hi => ?_
  rw [bind_ok hw, bind_readX _ (hi.has1 rfl rfl), bind_ok (get_ok _)]
  have ring (q : Nat) : (s.xpop a).traceRing q = s.traceRing q := congrArg (fun v => v.trace.get q TraceRing.blank) (s.xpop_sv a)
  have launch := s.xpop_launchOf a
  rw [s.xpop_cur] at launch
  rw [← launch, ← s.xpop_cur a, ← s.xpop_issue a, ← ring]
  cases (s.xpop a).launchOf (s.xpop a).cur.slot <;> dsimp only [Option.map, Option.getD] <;> split <;> rfl

/-! SVSAMP, SVREAD, SVSTOP (14 R574..R576). -/

theorem does_svsamp {n : BitVec 5} {off : Nat} {x : Scratch} (hr : s.dc.ready.getLsbD 55 = true)
    (ha : (s.xval a).toNat % 64 = 0) (hk : addrKind (coreOf s.cur.slot) (s.xval a).toNat = .scratch (coreOf s.cur.slot) off)
    (hx : scratchAt ((s.xpop a).hartCtx (s.xpop a).cur 0 0) (s.xval a).toNat (coreOf s.cur.slot) off 2048 (s.xpop a) =
      .ok x (s.xpop a)) :
    Does (.svsamp h n a) h s .next ((s.xpop a).upHart fun k => { k with
      svN := n, svBuf := s.xval a, svRd := 0, svOcc := 0, svLost := 0, svCount := 0 }) := by
  refine .of_runSurvey rfl hr fun hi => ?_
  have core : ((s.xpop a).hartCtx (s.xpop a).cur 0 0).core = coreOf s.cur.slot := by
    rw [← s.xpop_cur a]
    rfl
  rw [bind_readX _ (hi.has1 rfl rfl), bind_ok (show hartCtx 0 0 _ = .ok ((s.xpop a).hartCtx (s.xpop a).cur 0 0) _ from rfl),
    if_neg (not_not.2 ha), core, hk]
  dsimp only
  rw [if_neg (not_not.2 rfl), bind_ok hx]
  rfl

theorem does_svread_occupancy (hr : s.dc.ready.getLsbD 55 = true) (hv : s.xval a = 0) (hq : Acquires 2 (s.xpop a) s1) :
    Does (.svread h 0 d a) h s .next (s1.xput d (s1.hart s1.cur.slot).svsoccReg) := by
  refine .of_runSurvey rfl hr fun hi => ?_
  rw [bind_readX _ (hi.has1 rfl rfl), hv, if_neg (by simp), if_pos rfl, bind_ok (show acquire 2 _ = _ from hq),
    bind_ok (curHart_ok s1)]
  exact writeX_ok ..

theorem does_svread_free (hr : s.dc.ready.getLsbD 55 = true) :
    let k := min (s.xval a).toNat (s.hart s.cur.slot).svOcc.toNat
    Does (.svread h 1 d a) h s .next (((s.xpop a).upHart fun q => { q with
      svRd := q.svRd + BitVec.ofNat 5 k, svOcc := q.svOcc - BitVec.ofNat 6 k }).xput d (BitVec.ofNat 64 k)) := by
  refine .of_runSurvey rfl hr fun hi => ?_
  have occ := s.xpop_curHart a Hart.svOcc fun _ _ _ => rfl
  rw [bind_readX _ (hi.has1 rfl rfl), if_neg (by simp), if_neg (by simp), if_pos rfl, bind_ok (curHart_ok _), occ,
    bind_ok (modHart_ok ..)]
  exact writeX_ok ..

theorem does_svread_energy {l : Launch} (hr : s.dc.ready.getLsbD 55 = true) (ho : s.ours l) :
    Does (.svread h 2 d a) h s .next
      ((s.xpop a).xput d (if (s.xval a).toNat < 10 then l.energy.get (s.xval a).toNat 0 else 0)) := by
  refine .of_runSurvey rfl hr fun hi => ?_
  have launch : (s.xpop a).launchOf (s.xpop a).cur.slot = some l := State.ours_xpop a ho
  rw [bind_readX _ (hi.has1 rfl rfl), if_neg (by simp), if_neg (by simp), if_neg (by simp), if_pos rfl,
    bind_ok (show curLaunch? (s.xpop a) = .ok (some l) (s.xpop a) from launch ▸ rfl)]
  exact writeX_ok ..

theorem does_svread_ring (hr : s.dc.ready.getLsbD 55 = true) (hv : s.xval a = 0) :
    let ring := s.traceRing (quadOf (coreOf s.cur.slot))
    Does (.svread h 3 d a) h s .next
      ((s.xpop a).xput d (BitVec.ofNat 64 ((ring.ctl.getLsbD 0).toNat + if 0 < ring.lost then 2 else 0))) := by
  refine .of_runSurvey rfl hr fun hi => ?_
  have ring (q : Nat) : (s.xpop a).traceRing q = s.traceRing q := congrArg (fun v => v.trace.get q TraceRing.blank) (s.xpop_sv a)
  rw [bind_readX _ (hi.has1 rfl rfl), hv, if_neg (by simp), if_neg (by simp), if_neg (by simp), if_neg (by simp), bind_ok (get_ok _), ring,
    s.xpop_cur, writeX_ok]
  split <;> simp [*]

theorem does_svstop (hr : s.dc.ready.getLsbD 55 = true) :
    Does (.svstop h d a) h s .next (((s.xpop a).armStop (s.xval a)).1.xput d ((s.xpop a).armStop (s.xval a)).2) := by
  refine .of_runSurvey rfl hr fun hi => ?_
  rw [bind_readX _ (hi.has1 rfl rfl), bind_ok (get_ok _)]
  exact writeX_ok ..

/-- What a stop is judged by stands as before the operand was read. -/
theorem armStop_popped :
    let u := s.xpop a
    let v := s.xval a
    u.armStop v = if u.dc.portPerm.getLsbD 3 = false then (u, 3) else if v.toNat < s.tick + 1000 then (u, 1)
      else if s.sv.stopAt.isSome then (u, 2) else ({ u with sv := { u.sv with stopAt := some v } }, 0) := by
  have tick : (s.xpop a).tick = s.tick := congrArg (fun v => v.mtick.toNat) (s.xpop_sv a)
  have stop : (s.xpop a).sv.stopAt = s.sv.stopAt := congrArg SvSys.stopAt (s.xpop_sv a)
  unfold State.armStop
  dsimp only
  simp only [tick, stop, Bool.not_eq_true']

/-! CLKLOCK (14 R577). -/

theorem does_clklock {p : Fin 8} (hr : s.dc.ready.getLsbD 55 = true) :
    let r := s.takeLock (s.hart s.cur.slot).serial p
    Does (.clklock h p d) h s .next (r.1.xput d r.2) := by
  refine .of_runSurvey rfl hr fun hi => ?_
  rw [bind_ok (get_ok _), bind_ok (curHart_ok _)]
  exact writeX_ok ..

theorem does_clklockOff (hr : s.dc.ready.getLsbD 55 = true) :
    Does (.clklockOff h d) h s .next (if s.sv.heldBy (s.hart s.cur.slot).serial then s.releaseLock.xput d 0 else s.xput d 1) := by
  refine .of_runSurvey rfl hr fun hi => ?_
  rw [bind_ok (get_ok _), bind_ok (curHart_ok _)]
  split <;> exact writeX_ok ..

theorem not_heldBy {v : SvSys} {serial : Word} (h : ∀ q, v.lock = some q → q.1 ≠ serial) : v.heldBy serial = false := by
  unfold SvSys.heldBy
  cases e : v.lock with
  | none => rfl
  | some q => simp [h q e]

theorem heldBy_of_lock {v : SvSys} {serial : Word} (h : ∀ q, v.lock = some q → q.1 = serial) :
    v.heldBy serial = v.lock.isSome := by
  unfold SvSys.heldBy
  cases e : v.lock with
  | none => rfl
  | some q => simp [h q e]

/-- The lock of another launch is not taken. -/
theorem takeLock_held {serial : Word} {p : Fin 8} (h : ∃ q, s.sv.lock = some q ∧ q.1 ≠ serial) : s.takeLock serial p = (s, 1) := by
  obtain ⟨q, lock, other⟩ := h
  have held : s.sv.heldBy serial = false := not_heldBy fun q' e => by
    rw [lock] at e
    exact Option.some.inj e ▸ other
  exact if_pos (by rw [lock, held]; rfl)

/-- A lock that no other launch holds is judged by the point asked for. -/
theorem takeLock_free {serial : Word} {p : Fin 8} (h : ∀ q, s.sv.lock = some q → q.1 = serial) :
    s.takeLock serial p = if p < s.dc.limit then (s, 2) else
      ((({ s with sv := { s.sv with lock := some (serial, p), broken := false } } : State).settlePoint).tracePackage 2 p.val 0, 0) :=
  if_neg (by rw [heldBy_of_lock h]; cases s.sv.lock <;> simp)

end

/-- Settles O50: ticks, marks, samples, stops and the clock lock. -/
theorem surveyInstructionsComplete : Obligations.SurveyInstructionsComplete := by
  unfold Obligations.SurveyInstructionsComplete
  intro s s1 h d a code n p
  simp only [State.x1]
  refine ⟨.of_runSeq rfl fun hi => ?_, fun hf ht hc => ⟨.of_runSeq rfl fun hi => ?_, fun hr => does_svmark hr (awaitOwn_ok hf ht hc)⟩,
    fun hr => ⟨⟨fun off x ha hk hx => does_svsamp hr ha hk hx, fun hv hq => does_svread_occupancy hr hv hq, does_svread_free hr,
      fun l ho => does_svread_energy hr ho, fun hv => does_svread_ring hr hv, ?_⟩, ?_, fun held => ?_, fun held => ?_,
      fun own => ⟨fun low => ?_, fun high => ?_, fun some => ?_⟩⟩⟩
  · rw [bind_ok (get_ok _)]
    exact writeX_ok ..
  · rw [bind_ok (awaitOwn_ok hf ht hc), bind_ok (get_ok _)]
    exact writeX_ok ..
  · have does := does_svstop (h := h) (d := d) (a := a) hr
    have armed := armStop_popped (s := s) (a := a)
    dsimp only at armed
    rw [armed] at does
    exact does
  · exact .of_runSurvey rfl hr fun hi => rfl
  · have does := does_clklock (h := h) (d := d) (p := p) hr
    rw [takeLock_held held] at does
    exact does
  · have does := does_clklockOff (h := h) (d := d) hr
    rw [if_neg (by simp [not_heldBy held])] at does
    exact does
  · have does := does_clklock (h := h) (d := d) (p := p) hr
    rw [takeLock_free own, if_pos low] at does
    exact does
  · have does := does_clklock (h := h) (d := d) (p := p) hr
    rw [takeLock_free own, if_neg (not_lt.2 high)] at does
    exact does
  · have does := does_clklockOff (h := h) (d := d) hr
    rw [if_pos (by simp [heldBy_of_lock own, some])] at does
    exact does

end Sys2Proof.Machine
end


section
/-! SUPPORT. The instructions of the datum controller (15 R583..R589, R593..R599, R608..R616). -/

set_option Elab.async false

namespace Sys2Proof.Machine

open Sys2Proof

/-- An operand or output of n bytes lies in the datum SRAM, or has no bytes (15 R588). -/
def InSram (a n : Nat) : Prop := n = 0 ∨ 0x100000 ≤ a ∧ a + n ≤ 0x200000

/-- The bytes of an operand in the datum SRAM. -/
def State.unitBytes (s : State) (a n : Nat) : List Byte := s.dc.sram.bytes (a - 0x100000) n

/-- The state once an output stands in the datum SRAM. -/
def State.unitPut (s : State) (a : Nat) (l : List Byte) : State := s.sramStore true (a - 0x100000) l

section
variable {s u : State} {h : Hdr} {d a b : XOp}

/-! Operands and outputs of the unit (15 R588). -/

theorem sramCheck_ok {x n : Nat} (hi : InSram x n) : sramCheck x n s = .ok () s :=
  congrFun (if_pos (by simpa [InSram] using hi)) s

theorem sramGet_ok {x n : Nat} (hi : InSram x n) : sramGet x n s = .ok (s.unitBytes x n) s := by
  unfold sramGet
  rw [bind_ok (sramCheck_ok hi), bind_ok (get_ok s)]
  rfl

theorem sramPut_ok {x n : Nat} {l : List Byte} (hi : InSram x n) : sramPut x n l s = .ok () (s.unitPut x l) :=
  bind_ok (sramCheck_ok hi)

theorem unitMessage_ok {va len : Word} (hl : len.toNat ≤ 2 ^ 20) (hi : InSram va.toNat len.toNat) :
    unitMessage va len s = .ok (s.unitBytes va.toNat len.toNat) s := by
  unfold unitMessage
  rw [if_neg (Nat.not_lt.2 (show len.toNat ≤ unitMax from hl))]
  exact sramGet_ok hi

theorem datum_ok (s : State) : datum s = .ok s.dc s := rfl

theorem signGate_ok (hl : s.dc.lc ≠ 0) : signGate s = .ok () s := by
  unfold signGate
  rw [bind_ok (datum_ok s), if_neg hl]
  rfl

/-- An output address in SRAM is not what an empty queue reads as. -/
theorem State.hasX_of_inSram {n : Nat} (hn : n ≠ 0) (hi : InSram (s.xval a).toNat n) : s.hasX a := by
  match a with
  | .x _ => trivial
  | .q m =>
    intro empty
    have zero : s.xval (.q m) = 0 := by simp [State.xval, empty]
    rcases hi with h0 | ⟨low, -⟩
    · exact hn h0
    · rw [zero] at low
      exact absurd low (by decide)

/-! DHASH, MEXTEND and DSIGN (15 R593, R594, R609, R611, R614). -/

theorem does_mextend {idx : Fin 8} {va len : Word} (hv : s.xval a = va) (hn : (s.xpop a).xval b = len)
    (hu : (s.xpop a).xpop b = u) (hl : len.toNat ≤ 2 ^ 20) (hm : InSram va.toNat len.toNat) :
    Does (.mextend h idx a b) h s .next { u with dc := u.dc.extend idx.val (u.unitBytes va.toNat len.toNat) } := by
  refine .of_runSeq rfl fun hi => ?_
  rw [bind_readX _ (hi.has1 rfl rfl), bind_readX _ (hi.has2 rfl rfl), hv, hn, hu, bind_ok (unitMessage_ok hl hm)]
  rfl

theorem extend_get (dc : DcSys) (i : Nat) (record : List Byte) :
    (dc.extend i record).meas.get i 0 = BitVec.ofNat 256 (leNat (sha3 (leBytes 32 (dc.meas.get i 0).toNat ++ record))) := by
  unfold DcSys.extend Assoc.get
  rw [Assoc.get?_put_self]
  rfl

theorem does_dhash {va len out : Word} (hv : s.xval a = va) (hn : (s.xpop a).xval b = len) (hu : (s.xpop a).xpop b = u)
    (hl : len.toNat ≤ 2 ^ 20) (hm : InSram va.toNat len.toNat) (ho : u.xval d = out) (hs : InSram out.toNat 32) :
    Does (.dhash h d a b) h s .next ((u.xpop d).unitPut out.toNat (sha3 (u.unitBytes va.toNat len.toNat))) := by
  refine .of_runSeq rfl fun hi => ?_
  have third : u.hasX d := hu ▸ hi.hasNext (l := [a, b]) rfl rfl
  rw [bind_readX _ (hi.has1 rfl rfl), bind_readX _ (hi.has2 rfl rfl), hv, hn, hu, bind_ok (unitMessage_ok hl hm),
    bind_readX _ third, ho]
  exact sramPut_ok hs

theorem does_dsign {va len out : Word} (hlc : s.dc.lc ≠ 0) (hv : s.xval a = va) (hn : (s.xpop a).xval b = len)
    (hu : (s.xpop a).xpop b = u) (hl : len.toNat ≤ 2 ^ 20) (hm : InSram va.toNat len.toNat) (ho : u.xval d = out)
    (hs : InSram out.toNat 2420) :
    Does (.dsign h d a b) h s .next ((u.xpop d).unitPut out.toNat
      (MlDsa.sign s.dc.identity (ascii "MNX-MSG") (u.unitBytes va.toNat len.toNat))) := by
  refine .of_runSeq rfl fun hi => ?_
  have third : u.hasX d := hu ▸ hi.hasNext (l := [a, b]) rfl rfl
  have same : (u.xpop d).dc = s.dc := by rw [State.xpop_dc, ← hu, State.xpop_dc, State.xpop_dc]
  rw [bind_ok (signGate_ok hlc), bind_readX _ (hi.has1 rfl rfl), bind_readX _ (hi.has2 rfl rfl), hv, hn, hu,
    bind_ok (unitMessage_ok hl hm), bind_readX _ third, ho, bind_ok (datum_ok _), same]
  exact sramPut_ok hs

theorem does_dsignPub {out : Word} (hlc : s.dc.lc ≠ 0) (ho : s.xval d = out) (hs : InSram out.toNat 1312) :
    Does (.dsignPub h d) h s .next ((s.xpop d).unitPut out.toNat s.dc.identity.pk) := by
  refine .of_runSeq rfl fun hi => ?_
  rw [bind_ok (signGate_ok hlc), bind_readX _ (State.hasX_of_inSram (by decide) (ho ▸ hs)), ho, bind_ok (datum_ok _), State.xpop_dc]
  exact sramPut_ok hs

theorem does_dsignAtt {va out : Word} (hlc : s.dc.lc ≠ 0) (hv : s.xval a = va) (hu : s.xpop a = u) (hm : InSram va.toNat 32)
    (ho : u.xval d = out) (hs : InSram out.toNat 2772) :
    let rep := s.dc.report (u.unitBytes va.toNat 32) s.tick
    Does (.dsignAtt h d a) h s .next
      ((u.xpop d).unitPut out.toNat (rep ++ MlDsa.sign s.dc.identity (ascii "MNX-ATT") rep)) := by
  refine .of_runSeq rfl fun hi => ?_
  have same : u.dc = s.dc := by rw [← hu, State.xpop_dc]
  have tick : u.tick = s.tick := hu ▸ congrArg (fun v => v.mtick.toNat) (s.xpop_sv a)
  rw [bind_ok (signGate_ok hlc), bind_readX _ (hi.has1 rfl rfl), hv, hu, bind_ok (sramGet_ok hm), bind_ok (datum_ok _),
    bind_ok (get_ok _), bind_readX _ (State.hasX_of_inSram (by decide) (ho ▸ hs)), ho, bind_ok (datum_ok _), State.xpop_dc, same,
    tick]
  exact sramPut_ok hs

/-! DVERIFY (15 R596, R610). -/

theorem judgeToken_passes (dc : DcSys) (t : List Byte) :
    (dc.judgeToken t).1.chal0 = 0 ∧ (dc.judgeToken t).1.chal1 = 0 ∧ ((dc.judgeToken t).2 = 0 ↔ dc.tokenCode t = 0) := by
  unfold DcSys.judgeToken
  dsimp only
  split
  · next zero => exact ⟨rfl, rfl, by simp [zero]⟩
  · exact ⟨rfl, rfl, Iff.rfl⟩

theorem does_dverify_tok {va : Word} (hv : s.xval a = va) (hu : s.xpop a = u) (hd : InSram va.toNat 64)
    (hz : cardField (u.unitBytes va.toNat 64) 8 56 = 0) (ht : InSram (cardField (u.unitBytes va.toNat 64) 0 8) 3796) :
    let r := u.dc.judgeToken (u.unitBytes (cardField (u.unitBytes va.toNat 64) 0 8) 3796)
    Does (.dverify h .tok d a) h s .next (({ u with dc := r.1 } : State).xput d (BitVec.ofNat 64 r.2)) := by
  refine .of_runSeq rfl fun hi => ?_
  rw [bind_readX _ (hi.has1 rfl rfl), hv, hu, bind_ok (sramGet_ok hd)]
  dsimp only
  rw [if_neg (not_not.2 hz)]
  rw [bind_ok (sramGet_ok (show InSram (cardField _ (8 * 0) 8) 3796 from ht)), bind_ok (datum_ok u),
    bind_ok (show modDatum _ u = .ok () { u with dc := _ } from rfl), pure_bind]
  exact writeX_ok ..

/-- What DVERIFY judges of a signature: its operands lie in SRAM, and the reserved bytes are 0 (15 R610). -/
structure SignatureAt (desc : List Byte) : Prop where
  reserved : cardField desc 41 23 = 0
  long : cardField desc (8 * 2) 8 ≤ 2 ^ 20
  key : InSram (cardField desc (8 * 0) 8) 1312
  message : InSram (cardField desc (8 * 1) 8) (cardField desc (8 * 2) 8)
  signature : InSram (cardField desc (8 * 3) 8) 2420
  context : InSram (cardField desc (8 * 4) 8) (cardField desc 40 1)

theorem SignatureAt.judged {desc : List Byte} (hs : SignatureAt desc) :
    ¬(decide (cardField desc 41 23 ≠ 0) || decide (unitMax < cardField desc (8 * 2) 8)) = true := by
  have short : ¬unitMax < cardField desc (8 * 2) 8 := Nat.not_lt.2 hs.long
  simp [hs.reserved, short]

theorem does_dverify_sig {va : Word} {desc : List Byte} (hv : s.xval a = va) (hu : s.xpop a = u) (hd : InSram va.toNat 64)
    (hb : u.unitBytes va.toNat 64 = desc) (hs : SignatureAt desc) :
    let good := MlDsa.verify (u.unitBytes (cardField desc (8 * 0) 8) 1312)
      (u.unitBytes (cardField desc (8 * 4) 8) (cardField desc 40 1))
      (u.unitBytes (cardField desc (8 * 1) 8) (cardField desc (8 * 2) 8)) (u.unitBytes (cardField desc (8 * 3) 8) 2420)
    Does (.dverify h .sig d a) h s .next (u.xput d (if good then 0 else 1)) := by
  refine .of_runSeq rfl fun hi => ?_
  rw [bind_readX _ (hi.has1 rfl rfl), hv, hu, bind_ok (sramGet_ok hd), hb]
  dsimp only
  rw [if_neg hs.judged, bind_ok (sramGet_ok hs.key), bind_ok (sramGet_ok hs.message), bind_ok (sramGet_ok hs.signature),
    bind_ok (sramGet_ok hs.context), bind_ok (datum_ok u), if_neg (by simp), pure_bind, writeX_ok]
  split <;> rfl

theorem does_dverify_fw {va : Word} {desc : List Byte} (hv : s.xval a = va) (hu : s.xpop a = u) (hd : InSram va.toNat 64)
    (hb : u.unitBytes va.toNat 64 = desc) (hs : SignatureAt desc) :
    let pk := u.unitBytes (cardField desc (8 * 0) 8) 1312
    let good := MlDsa.verify pk (u.unitBytes (cardField desc (8 * 4) 8) (cardField desc 40 1))
      (u.unitBytes (cardField desc (8 * 1) 8) (cardField desc (8 * 2) 8)) (u.unitBytes (cardField desc (8 * 3) 8) 2420)
    Does (.dverify h .fw d a) h s .next (u.xput d (if sha3 pk ≠ u.dc.fuseHash 7 then 2 else if good then 0 else 1)) := by
  refine .of_runSeq rfl fun hi => ?_
  rw [bind_readX _ (hi.has1 rfl rfl), hv, hu, bind_ok (sramGet_ok hd), hb]
  dsimp only
  rw [if_neg hs.judged, bind_ok (sramGet_ok hs.key), bind_ok (sramGet_ok hs.message), bind_ok (sramGet_ok hs.signature),
    bind_ok (sramGet_ok hs.context), bind_ok (datum_ok u)]
  by_cases key : sha3 (u.unitBytes (cardField desc (8 * 0) 8) 1312) = u.dc.fuseHash 7
  · rw [if_neg (by simpa using key), if_neg (not_not.2 key), pure_bind, writeX_ok]
    split <;> rfl
  · rw [if_pos (by simpa using key), if_pos key, pure_bind]
    exact writeX_ok ..

/-! FUSERD and KEYWIPE (15 R612, R613). -/

theorem does_fuserd {n : Word} (hn : n.toNat < 64) (hv : s.xval a = n) (hu : s.xpop a = u) :
    Does (.fuserd h d a) h s .next (u.xput d (u.dc.fuseRead n.toNat)) := by
  refine .of_runSeq rfl fun hi => ?_
  rw [bind_readX _ (hi.has1 rfl rfl), hv, hu, if_neg (Nat.not_le.2 hn), bind_ok (datum_ok _)]
  exact writeX_ok ..

theorem does_keywipe {n : Word} (hn : n.toNat < 64) (hv : s.xval a = n) (hu : s.xpop a = u) :
    let c := ((u.dc.slot n.toNat).v).toNat
    Does (.keywipe h d a) h s .next (((u.wipeSlot n.toNat).postDatum 26 c []).xput d (BitVec.ofNat 64 c)) := by
  refine .of_runSeq rfl fun hi => ?_
  have count : [n.toNat].countP (fun n => (u.dc.slot n).v) = ((u.dc.slot n.toNat).v).toNat := by
    rw [List.countP_singleton]
    cases (u.dc.slot n.toNat).v <;> rfl
  rw [bind_readX _ (hi.has1 rfl rfl), hv, hu, if_neg (Nat.not_lt.2 (Nat.le_of_lt_succ hn))]
  unfold wipeBody
  rw [bind_ok (datum_ok _), count, bind_ok (modify_ok _ _)]
  exact writeX_ok ..

theorem does_keywipeAll :
    let c := (List.range 64).countP fun n => (s.dc.slot n).v
    let u := (List.range 64).foldl State.wipeSlot s
    let u := if u.dc.dunlk = 1 then { u with dc := { u.dc with dunlk := 2 } } else u
    Does (.keywipeAll h d) h s .next ((u.postDatum 26 c []).xput d (BitVec.ofNat 64 c)) := by
  refine .of_runSeq rfl fun hi => ?_
  unfold wipeBody
  rw [bind_ok (datum_ok _), bind_ok (modify_ok _ _)]
  simp only [Bool.true_and, decide_eq_true_eq]
  exact writeX_ok ..

/-! MEXTEND.DBG, LCSET and DBGOPEN (15 R585, R599, R615, R616). -/

theorem does_mextendDbg :
    Does (.mextendDbg h d) h s .next (if s.dc.dunlk ≠ 2 then s.xput d 1 else
      ({ s with dc := { s.dc.extend 7 s.dc.debugRecord with dunlk := 3 } } : State).xput d 0) := by
  refine .of_runSeq rfl fun hi => ?_
  rw [bind_ok (datum_ok _)]
  split <;> exact writeX_ok ..

theorem does_lcset {t : LcTarget} :
    Does (.lcset h t d) h s .next (match s.lifecycle t with
      | none => s.xput d 1
      | some u => (u.postDatum 27 u.dc.lc.toNat []).xput d 0) := by
  refine .of_runSeq rfl fun hi => ?_
  rw [bind_ok (get_ok _)]
  cases s.lifecycle t <;> exact writeX_ok ..

theorem does_dbgopen {mask : BitVec 32} :
    Does (.dbgopen h mask d) h s .next (if s.dc.dunlk = 4 then
      ({ s with dc := { s.dc with dunlk := 5, dbgMask := mask &&& s.dc.perm } } : State).xput d ((mask &&& s.dc.perm).setWidth 64)
      else s.xput d (BitVec.ofNat 64 (2 ^ 63 + if s.dc.lc = 0 ∨ s.dc.lc = 4 then 2 else 1))) := by
  refine .of_runSeq rfl fun hi => ?_
  rw [bind_ok (datum_ok _)]
  split
  · exact writeX_ok ..
  · split <;> exact writeX_ok ..

/-! LCSET's states (15 R583, R585). -/

/-- The state that the fuses give after a burn. -/
theorem burn_lc (s : State) (bits : Word) : (s.burn bits).dc.lc = lcOfFuses (s.dc.fuses.get 2 0 ||| bits) := rfl

theorem lcOfFuses_rma (w : Word) : lcOfFuses (w ||| 7) = 4 := by
  have big : 7 ≤ (w ||| 7).toNat := by
    rw [BitVec.toNat_or]
    exact Nat.right_le_or
  have differs (n : Word) (hn : n.toNat < 7) : w ||| 7 ≠ n := fun e => by
    rw [e] at big
    exact absurd big (Nat.not_le.2 hn)
  unfold lcOfFuses
  rw [if_neg (differs 0 (by decide)), if_neg (differs 1 (by decide)), if_neg (differs 3 (by decide))]

/-- The lifecycle state that a transition enters. -/
def enteredState : LcTarget → BitVec 3
  | .prov => 1
  | .depl => 2
  | .debug => 3
  | .rma => 4

/-- A transition enters its state: from DEBUG, or where the fuses hold the pattern of the state it leaves. -/
theorem lifecycle_lc {t : LcTarget} (hl : s.lifecycle t = some u) (hf : s.dc.lc = 3 ∨ s.dc.fuses.get 2 0 = fusePattern s.dc.lc) :
    u.dc.lc = enteredState t := by
  have fused (x : BitVec 3) (hx : x ≠ 3) (e : s.dc.lc = x) : s.dc.fuses.get 2 0 = fusePattern x := by
    rcases hf with h3 | hp
    · exact absurd (e.symm.trans h3) hx
    · rw [hp, e]
  unfold State.lifecycle at hl
  cases t with
  | prov =>
    dsimp only at hl
    split at hl
    · next ready =>
      have lc : s.dc.lc = 0 := by simp at ready; exact ready.1.1
      obtain rfl := Option.some.inj hl
      rw [burn_lc, fused 0 (by decide) lc]
      rfl
    · exact nomatch hl
  | depl =>
    dsimp only at hl
    split at hl
    · next lc =>
      obtain rfl := Option.some.inj hl
      rw [burn_lc, fused 1 (by decide) lc]
      rfl
    · exact nomatch hl
  | debug =>
    dsimp only at hl
    split at hl
    · obtain rfl := Option.some.inj hl
      rfl
    · exact nomatch hl
  | rma =>
    dsimp only at hl
    split at hl
    · obtain rfl := Option.some.inj hl
      rw [burn_lc, lcOfFuses_rma]
      rfl
    · exact nomatch hl

end

/-- Settles O51: hashes, signatures, fuses, keys, measurements and the unlock. -/
theorem datumInstructionsComplete : Obligations.DatumInstructionsComplete := by
  unfold Obligations.DatumInstructionsComplete
  intro s h d a b idx t mask
  simp only [State.x1, State.x2]
  refine ⟨fun hl hm => ⟨does_mextend rfl rfl rfl hl hm, extend_get .., fun hs => does_dhash rfl rfl rfl hl hm rfl hs,
      fun hlc hs => does_dsign hlc rfl rfl rfl hl hm rfl hs⟩, fun hlc hs => does_dsignPub hlc rfl hs,
    ⟨fun hlc hm hs => does_dsignAtt hlc rfl rfl hm rfl hs, fun hd => ⟨fun hz ht => ⟨does_dverify_tok rfl rfl hd hz ht, ?_⟩,
      fun hz hl hk hm hs hc => ?_⟩, fun hn => ⟨does_fuserd hn rfl rfl, does_keywipe hn rfl rfl⟩⟩,
    does_keywipeAll, fun hn => ?_, fun hn => ?_, fun hl => ?_, fun u hl => ⟨?_, fun hf => ?_⟩, fun hn => ?_, fun hn => ?_⟩
  · exact judgeToken_passes ..
  · have judged := SignatureAt.mk hz hl hk hm hs hc
    exact ⟨does_dverify_sig rfl rfl hd rfl judged, does_dverify_fw rfl rfl hd rfl judged⟩
  · have does := does_mextendDbg (s := s) (h := h) (d := d)
    rwa [if_pos hn] at does
  · have does := does_mextendDbg (s := s) (h := h) (d := d)
    rwa [if_neg (not_not.2 hn)] at does
  · have does := does_lcset (s := s) (h := h) (d := d) (t := t)
    rwa [hl] at does
  · have does := does_lcset (s := s) (h := h) (d := d) (t := t)
    rwa [hl] at does
  · cases t <;> exact lifecycle_lc hl hf
  · have does := does_dbgopen (s := s) (h := h) (d := d) (mask := mask)
    rwa [if_pos hn] at does
  · have does := does_dbgopen (s := s) (h := h) (d := d) (mask := mask)
    rwa [if_neg hn] at does

end Sys2Proof.Machine
end


section
/-! SUPPORT. The legs of a traverse run (12 R485..R498, R500, R501). -/

set_option Elab.async false

namespace Sys2Proof.Machine

open Sys2Proof

section
variable {s s1 s2 s' t : State} {e : RunEnv} {i : Instr}

/-- A leg that acts does what its body does. -/
theorem LegActs.runs {body : LegBody} (h : LegActs i s e) (hb : body e s = .ok none t) : runLeg i body s = .next t := by
  unfold runLeg
  rw [h.env]
  dsimp only
  rw [h.going]
  dsimp only
  rw [h.free, if_neg (by simp), h.sound, if_neg (by simp), hb]

theorem nextLeg_ok (e : RunEnv) (s : State) : nextLeg e s = .ok () (s.legDone e) := rfl

theorem runAcquire_ok (s : State) : runAcquire s = .ok () (s.setMem s.mem.dropStale) := rfl

theorem needPeer_ok {r : Nat} {place : Place} (h : s.knows e r place) : needPeer e r s = .ok place s := by
  obtain ⟨rfl, known, port⟩ := h
  unfold needPeer
  rw [bind_ok (get_ok s)]
  cases hp : s.placeOf e.p e.c.run r with
  | unknown => exact absurd hp known
  | here => rfl
  | pkg rpkg =>
    dsimp only
    rw [port rpkg hp]
    rfl

/-- The state once a message of the run has been numbered and noted as unacknowledged (12 R485). -/
def State.numbered (s : State) (e : RunEnv) (dst kind : Nat) : State :=
  ({ s with nextId := s.nextId + 1 } : State).updChan e.key fun c => { c with unacked := c.unacked ++ [⟨s.nextId, dst, kind⟩] }

theorem sendSeq_ok (e : RunEnv) (dst kind : Nat) (s : State) : sendSeq e dst kind s = .ok s.nextId (s.numbered e dst kind) := rfl

/-! What a change of a channel and a message leave unchanged. -/

theorem State.updChan_rest (s : State) (key : Nat) (f : Chan → Chan) :
    (s.updChan key f).linkOut = s.linkOut ∧ (s.updChan key f).tv.flight = s.tv.flight ∧ SameMemory s (s.updChan key f) := by
  unfold State.updChan
  cases s.tv.chans.get? key
  · exact ⟨rfl, rfl, rfl, rfl, rfl, rfl, rfl⟩
  · exact ⟨rfl, rfl, rfl, rfl, rfl, rfl, rfl⟩

theorem State.tvSend_memory (s : State) (place : Place) (m : TvMsg) : SameMemory s (s.tvSend place m) := by
  cases place <;> exact ⟨rfl, rfl, rfl, rfl, rfl⟩

theorem State.tvSend_sent (s : State) (place : Place) (m : TvMsg) :
    match place with
    | .pkg r => (s.tvSend place m).linkOut = s.linkOut ++ [.tv r m]
    | _ => (s.tvSend place m).tv.flight = s.tv.flight ++ [m] := by
  cases place <;> rfl

/-! SEND and RECV (12 R487, R489, R496). -/

section
variable {row fin : Bool} {p : Peer} {sa sb sc : Fin 16} {c : Chunk} {data : List (Byte × Bool)}

/-- Where a SEND's chunk lands in its receiver's slot. -/
def RunEnv.offset (e : RunEnv) (c : Chunk) : Nat := c.off.toNat + e.p.index c e.c.it0 e.c.it1 * c.len.toNat

/-- The message of a SEND that has read its chunk. -/
def sentMessage (e : RunEnv) (row fin : Bool) (dst : Nat) (sb sc : Fin 16) (c : Chunk) (seq : Nat) (data : List (Byte × Bool)) :
    SendMsg :=
  let (g, m, n, spill) := e.c.claim.getD (0, 0, 1, false)
  let bs := data.map Prod.fst
  { run := e.c.run, src := e.c.rank, dst, srcChan := e.key, seq, k := e.c.sent.get dst 0, fin, sb
    row := if !row then 0 else if c.len.toNat % n ≠ 0 then 2 ^ 32 else c.len.toNat / n
    pieces := if row then rowPieces sb sc g m n spill (e.offset c) bs else [(sb, e.offset c, false, bs)]
    poison := data.any Prod.snd }

/-- The state once a SEND's message has left. -/
def State.sent (s : State) (e : RunEnv) (row : Bool) (dst : Nat) (place : Place) (msg : SendMsg) : State :=
  let (_, m, n, spill) := e.c.claim.getD (0, 0, 1, false)
  ((s.numbered e dst 0).tvSend place (.send msg)).updChan e.key fun c =>
    { c with sent := c.sent.put dst (c.sent.get dst 0 + 1), claim := if row then none else c.claim
             drops := if row && !spill then c.drops + (n - m) else c.drops }

theorem bodySend_ok {place : Place} (hk : s.knows e (e.p.peer p) place) (hr : RunReads e (e.at_ c sa) c.len.toNat s s1 data)
    (hc : row = true → e.c.claim.isSome) :
    bodySend row fin p sa sb sc c e s = .ok none
      ((s1.sent e row (e.p.peer p) place (sentMessage e row fin (e.p.peer p) sb sc c s1.nextId data)).legDone e) := by
  have claimed : ¬(row && e.c.claim.isNone) = true := by
    cases row
    · simp
    · have := hc rfl
      simp [Option.isSome_iff_ne_none.1 this]
  unfold bodySend
  dsimp only
  rw [if_neg claimed, bind_ok (needPeer_ok hk), 
    bind_ok (show runRead e.k e.ctx (e.p.addr (Chunk.at_ c sa) (e.p.index c e.c.it0 e.c.it1)) c.len.toNat s = _ from hr)]
  rfl

theorem sent_leaves {place : Place} {dst : Nat} {msg : SendMsg} :
    match place with
    | .pkg r => (s1.sent e row dst place msg).linkOut = s1.linkOut ++ [.tv r (.send msg)]
    | _ => (s1.sent e row dst place msg).tv.flight = s1.tv.flight ++ [.send msg] := by
  have link : (s1.sent e row dst place msg).linkOut = ((s1.numbered e dst 0).tvSend place (.send msg)).linkOut :=
    (State.updChan_rest ..).1
  have flight : (s1.sent e row dst place msg).tv.flight = ((s1.numbered e dst 0).tvSend place (.send msg)).tv.flight :=
    (State.updChan_rest ..).2.1
  have numberedLink : (s1.numbered e dst 0).linkOut = s1.linkOut := (State.updChan_rest ..).1
  have numberedFlight : (s1.numbered e dst 0).tv.flight = s1.tv.flight := (State.updChan_rest ..).2.1
  cases place with
  | pkg r =>
    dsimp only
    rw [link, ← numberedLink]
    rfl
  | here | unknown =>
    dsimp only
    rw [flight, ← numberedFlight]
    rfl

theorem sentMessage_rows {g n0 n : Nat} {sp : Bool} {dst seq : Nat} (hc : e.c.claim = some (g, n0, n, sp)) :
    (sentMessage e true fin dst sb sc c seq data).pieces = rowPieces sb sc g n0 n sp (e.offset c) (data.map Prod.fst) := by
  unfold sentMessage
  rw [hc]
  rfl

end

/-! REDUCE and COPY (12 R490, R491, R501). -/

theorem poisonIn_none {n : Nat} {data : List (Byte × Bool)} (h : ∀ b ∈ data, b.2 = false) : poisonIn n data = none := by
  unfold poisonIn
  rw [List.findIdx?_eq_none_iff.2 h]
  rfl

theorem noteWrites_ok (e : RunEnv) (ws : List (Nat × List Byte × Bool)) (s : State) :
    noteWrites e ws s = .ok () (s.updChan e.key fun c => { c with writing := true, buf := ws }) := rfl

/-! END (12 R498). -/

theorem lastCounts_memory (s : State) (e : RunEnv) : SameMemory s (s.lastCounts e) := by
  unfold State.lastCounts
  split
  · exact List.foldlRecOn _ _ ⟨rfl, rfl, rfl, rfl, rfl⟩ fun t ht r _ => ht.trans (State.tvSend_memory ..)
  · exact ⟨rfl, rfl, rfl, rfl, rfl⟩

/-- The state in which an END waits for its acknowledgements: the member's last counts have left (12 R495). -/
def State.ending (s : State) (e : RunEnv) : State :=
  if e.c.writing then s else (s.lastCounts e).updChan e.key fun c => { c with writing := true }

theorem ending_memory (s : State) (e : RunEnv) : SameMemory s (s.ending e) := by
  unfold State.ending
  split
  · exact ⟨rfl, rfl, rfl, rfl, rfl⟩
  · exact (lastCounts_memory s e).trans (State.updChan_rest ..).2.2

theorem legEnd_frees (hu : e.c.unacked = []) (hk : e.k.trains = []) (hi : LegActs .legEnd s e) :
    ∃ t, Sys2Proof.Machine.exec .legEnd s = .next t ∧ t.tv.chans.get? e.key = none ∧ SameMemory s t ∧
      ∃ x ∈ t.tv.ended, x.run = e.c.run ∧ x.rank = e.c.rank ∧ x.card = e.c.card := by
  have drained : drained e = true := by simp [drained, hu, hk]
  refine ⟨((s.ending e).updCard e.c.serial e.c.seqNo fun k => { k with prog := 1 }).freeChan e.key e.c 0, hi.runs ?_, ?_, ?_, ?_⟩
  · unfold State.ending
    cases hw : e.c.writing
    · rw [if_pos (show (!false) = true from rfl), bind_ok (modify_ok _ _)]
      beta_reduce
      rw [if_neg (by simp [drained])]
      rfl
    · rw [if_neg (by simp), if_neg (by simp [drained])]
      rfl
  · exact Assoc.get?_del_self ..
  · exact ending_memory s e
  · exact ⟨_, List.mem_append_right _ (List.mem_singleton.2 rfl), rfl, rfl, rfl⟩

/-! WAIT (12 R492). -/

/-- The condition of a WAIT holds. -/
def WaitHolds (s : State) (e : RunEnv) : LegWaitKind → Prop
  | .arr sl n => ∃ v, arrivalCount e.ctx (e.p.slot sl).arrw.toNat s = .ok v s ∧ n.toNat ≤ v
  | .drain => e.c.unacked = [] ∧ e.k.trains = []
  | .full sl ch => ∀ l ∈ linesOf e.k.core (e.at_ ch sl) ch.len.toNat, l.2 ∈ (s.array l.1).full
  | .empty sl ch => ∀ l ∈ linesOf e.k.core (e.at_ ch sl) ch.len.toNat, l.2 ∉ (s.array l.1).full

/-- A WAIT whose condition holds goes on behind an acquire. -/
theorem wait_passes {k : LegWaitKind} (hi : LegActs (.legWait k) s e) (hk : WaitHolds s e k) :
    Sys2Proof.Machine.exec (.legWait k) s = .next ((s.setMem s.mem.dropStale).legDone e) := by
  refine hi.runs ?_
  cases k with
  | arr sl n =>
    obtain ⟨v, count, reached⟩ := hk
    dsimp only
    rw [bind_ok count, pure_bind, if_neg (by simp [reached])]
    rfl
  | drain =>
    have drained : drained e = true := by simp [drained, hk.1, hk.2]
    dsimp only
    rw [pure_bind, if_neg (by simp [drained])]
    rfl
  | full sl ch =>
    have all : ((linesOf e.k.core (e.at_ ch sl) ch.len.toNat).all fun l => (s.array l.1).full.contains l.2 == true) = true := by
      simpa [WaitHolds] using hk
    unfold RunEnv.at_ at all
    dsimp only
    rw [bind_ok (get_ok s), pure_bind, all]
    rfl
  | empty sl ch =>
    have all : ((linesOf e.k.core (e.at_ ch sl) ch.len.toNat).all fun l => (s.array l.1).full.contains l.2 == false) = true := by
      simpa [WaitHolds] using hk
    unfold RunEnv.at_ at all
    dsimp only
    rw [bind_ok (get_ok s), pure_bind, all]
    rfl

end

/-- Settles O52: every leg that acts completes as its rule says. -/
theorem legsComplete : Obligations.LegsComplete := by
  unfold Obligations.LegsComplete
  intro s s1 s2 s' e row fin full arr spill cvt lv p sa sb sc c op dt stride k value rows count target place data data'
  dsimp only
  refine ⟨fun hi hk hr hc => ?_, fun x hi hx hf hm => hi.runs ?_, fun hi hw hal hr hr' hp ho => hi.runs ?_,
    fun hi hw hr hp ho => hi.runs ?_, fun hi hk => ?_, fun hi hk hu => hi.runs ?_,
    fun hi => ⟨fun hp hs => hi.runs ?_, fun o total hp hg => hi.runs ?_⟩, fun hi hc hl => hi.runs ?_,
    fun hi hu hk => legEnd_frees hu hk hi⟩
  · refine ⟨sentMessage e row fin (e.p.peer p) sb sc c s1.nextId data, s1.sent e row (e.p.peer p) place _,
      hi.runs (bodySend_ok hk hr hc), ⟨rfl, rfl, rfl, rfl, rfl, rfl, rfl, fun hrow => ?_, fun g n0 n sp hrow hcl => ?_⟩,
      ?_⟩
    · rw [hrow]
      rfl
    · rw [hrow]
      exact sentMessage_rows hcl
    · have sent := sent_leaves (s1 := s1) (e := e) (row := row) (place := place) (dst := e.p.peer p)
        (msg := sentMessage e row fin (e.p.peer p) sb sc c s1.nextId data)
      cases place <;> exact sent
  · have found : (s.tv.landed.find? fun y => (y.msg.run == e.c.run && y.msg.dst == e.c.rank && y.msg.src == e.p.peer p &&
        y.msg.k == e.c.recvd.get (e.p.peer p) 0) && y.done) = some x := hx
    unfold RunEnv.at_ at hm
    dsimp only
    rw [bind_ok (get_ok s), found]
    dsimp only
    rw [if_neg (by simp [hf]), bind_ok (runAcquire_ok s), bind_ok (show runMark _ _ _ _ _ _ _ = _ from hm)]
    rfl
  · have aligned : ([e.at_ c sa, e.at_ c sb, e.at_ c sc].find? fun a => a % Ty.size (LegTy.ty dt) != 0) = none := by
      simpa [List.find?_eq_none] using hal
    unfold RunEnv.at_ at aligned hr hr' ho
    dsimp only
    rw [aligned]
    dsimp only
    rw [hw, if_pos (show (!false) = true from rfl), bind_ok (show runRead _ _ _ _ s = _ from hr), bind_ok (show runRead _ _ _ _ s1 = _ from hr')]
    rw [poisonIn_none fun b hb => hp b (List.mem_append_left _ hb)]
    dsimp only
    rw [poisonIn_none fun b hb => hp b (List.mem_append_right _ hb)]
    dsimp only
    rw [bind_ok (noteWrites_ok ..)]
    exact ho
  · unfold RunEnv.at_ at hr
    dsimp only
    rw [hw, if_pos (show (!false) = true from rfl), bind_ok (show runRead _ _ _ _ s = _ from hr)]
    cases cvt with
    | false =>
      rw [if_neg (by simp), bind_ok (noteWrites_ok ..)]
      exact ho
    | true =>
      rw [if_pos rfl, poisonIn_none (hp rfl), List.map_flatMap]
      dsimp only
      rw [bind_ok (noteWrites_ok ..)]
      exact ho
  · cases k <;> exact wait_passes hi hk
  · dsimp only
    rw [bind_ok (needPeer_ok hk), if_neg (by simpa using hu), bind_ok (sendSeq_ok ..)]
    rfl
  · rw [hp]
    dsimp only
    rw [bind_ok hs]
    rfl
  · obtain ⟨seq, hseq⟩ := Option.isSome_iff_exists.1 hp
    rw [hseq, hg]
    rfl
  · have fits : ¬(decide (count = 0) || decide (e.c.leg < target.toNat)) = true := by
      simpa [Nat.not_lt.2 hl] using hc
    dsimp only
    rw [if_neg fits]
    simp only [decide_eq_true_eq]
    rw [bind_ok (modify_ok ..)]
    rfl

end Sys2Proof.Machine
end


section
/-! SUPPORT. What comes about in harts and their lanes (04 R185; 05 R195, R231, R237; 06 R268, R270; 08 R344..R346;
09 R381..R384; 14 R561). -/

set_option Elab.async false

namespace Sys2Proof.Machine

open Sys2Proof

section
variable {s s' : State} {slot serial : Nat} {h : Hart}

/-- A trap below DEPTH 3 leaves its record in its stream (05 R231, R232). -/
theorem enterTrap_record {p : Party} {cause : Nat} {tval tpc telem tlane : Word} (hd : (s.stream p).depth ≠ 3) :
    let u := (s.enterTrap p cause tval tpc telem tlane).stream p
    u.tcause = BitVec.ofNat 64 cause ∧ u.tval = tval ∧ u.tpc = tpc ∧ u.telem = telem ∧ u.tlane = tlane ∧
      u.pc = (s.stream p).tvec ∧ u.priv = true ∧ u.deferred = (s.stream p).deferred := by
  rw [enterTrap_below_stream hd]
  exact ⟨rfl, rfl, rfl, rfl, rfl, rfl, rfl, rfl⟩

/-- The trap of a deadlocked stream (05 R195). -/
theorem queueDeadlock_traps {isX : Bool} (hs : s.hart? slot = some h) (hd : h.deadlocked isX = true)
    (hx : isX = false → h.deadlocked true = false) (hdepth : (h.stream isX).depth ≠ 3) :
    ∃ t : State, Sys2Proof.Machine.exec (.queueDeadlock slot) s = .next t ∧
      let u := t.stream (.stream slot isX)
      u.tcause = BitVec.ofNat 64 causeQdir ∧ u.tval = BitVec.ofNat 64 ((h.stream isX).blocked.getD 0) ∧
      u.tpc = (h.stream isX).pc ∧ u.pc = (h.stream isX).tvec ∧ u.priv = true := by
  have stream : s.stream (.stream slot isX) = h.stream isX := by simp [State.stream, State.stream?, hs]
  let elem : Word := if (h.stream isX).blockedVec then h.vstart.setWidth 64 else 0
  refine ⟨s.enterTrap (.stream slot isX) causeQdir (BitVec.ofNat 64 ((h.stream isX).blocked.getD 0)) (h.stream isX).pc elem noLane,
    ?_, ?_⟩
  · change (match s.hart? slot with | none => _ | some h => _ : Host.Outcome State Fault Refusal) = _
    rw [hs]
    dsimp only
    cases isX
    · rw [hx rfl, if_neg (by simp), hd, if_pos rfl]
    · rw [hd, if_pos rfl]
  · obtain ⟨cause, tval, tpc, -, -, pc, priv, -⟩ := enterTrap_record (s := s) (p := .stream slot isX) (cause := causeQdir)
      (tval := BitVec.ofNat 64 ((h.stream isX).blocked.getD 0)) (tpc := (h.stream isX).pc) (telem := elem) (tlane := noLane)
      (by rwa [stream])
    exact ⟨cause, tval, tpc, pc.trans (congrArg Stream.tvec stream), priv⟩

/-! Lanes (08 R344, R345; 09 R381..R384). -/

section
variable {lane : Fin 16} {e : VEntry} (hf : ((s.hart slot).inflight.find? fun e => e.serial == serial) = some e)
include hf

theorem laneComplete_ok (ht : e.takes lane.val = true) (ha : e.lane lane.val = .absent)
    (hfree : laneFree (s.hart slot).inflight serial lane.val = true) (hslip : laneSlip (s.hart slot).inflight serial = true)
    (hr : e.rendezvous = false) (hd : e.done = true) :
    Sys2Proof.Machine.exec (.laneComplete slot serial lane) s = .next (s.setHart slot { s.hart slot with
      inflight := (s.hart slot).inflight.map fun (e : VEntry) => if e.serial == serial then e.setLane lane.val .released else e }.commit) := by
  change execLaneComplete slot serial lane s = _
  unfold execLaneComplete
  dsimp only
  rw [hf]
  dsimp only
  rw [if_pos (by simp [ht, ha, hfree, hslip, hr, hd])]

theorem laneArrive_ok (ht : e.takes lane.val = true) (ha : e.lane lane.val = .absent)
    (hfree : laneFree (s.hart slot).inflight serial lane.val = true) (hslip : laneSlip (s.hart slot).inflight serial = true)
    (hr : e.rendezvous = true) :
    Sys2Proof.Machine.exec (.laneArrive slot serial lane) s = .next (s.setHart slot { s.hart slot with
      inflight := (s.hart slot).inflight.map fun (e : VEntry) => if e.serial == serial then e.setLane lane.val .arrived else e }) := by
  change execLaneArrive slot serial lane s = _
  unfold execLaneArrive
  dsimp only
  rw [hf]
  dsimp only
  rw [if_pos (by simp [ht, ha, hfree, hslip, hr])]

theorem rendezvousComplete_ok (hr : e.rendezvous = true) (hd : e.done = true)
    (ha : ∀ l, l < 16 → e.takes l = true → e.lane l = .arrived) :
    Sys2Proof.Machine.exec (.rendezvousComplete slot serial) s = .next (s.setHart slot { s.hart slot with
      inflight := (s.hart slot).inflight.map fun (e : VEntry) => if e.serial == serial then e.release else e }.commit) := by
  have all : e.all .arrived = true := by
    simp only [VEntry.all, List.all_eq_true, List.mem_range, Bool.or_eq_true, Bool.not_eq_true', beq_iff_eq]
    intro l hl
    cases takes : e.lanes.getLsbD l
    · exact .inl rfl
    · exact .inr (ha l hl takes)
  change execRendezvousComplete slot serial s = _
  unfold execRendezvousComplete
  dsimp only
  rw [hf]
  dsimp only
  rw [if_pos (by simp [hr, hd, all])]

end

/-- An instruction that names a result still to be delivered waits (08 R345). -/
theorem scalarBlocked_waits {i : Instr} {maj : Nat} {hd : Hdr} {st : Stream} (hi : Instr.hdr? i = some (maj, hd))
    (hs : s.stream? s.cur = some st) (hl : st.live = true) (hc : st.captured = none) (ht : issueTrap s i = none)
    (hg : guardTrue st hd = true) (hb : scalarBlocked s i = true) : Sys2Proof.Machine.exec i s = .next (waits s) := by
  obtain ⟨body, runs⟩ := exec_hart hi
  rw [runs, runHart_fresh hs hl hc]
  unfold issueHart
  rw [ht]
  dsimp only
  rw [hg, if_neg (by simp), if_pos hb]
  rfl

/-! A vector trap (08 R346). -/

theorem deliver_stream {α : Type} (g : Stream → α) (hx : ∀ st n w, g (Stream.setX st n w) = g st)
    (hb : ∀ st : Stream, g { st with blocked := none } = g st) (k : Hart) (e : VEntry) (isX : Bool) :
    g ((k.deliver e).stream isX) = g (k.stream isX) := by
  unfold Hart.deliver
  refine foldl_keeps (fun k : Hart => g (k.stream isX)) (fun k r => ?_) e.scalars k
  match r with
  | (.x n, w) =>
    cases hi : e.isX <;> cases isX <;> simp [Hart.setStream, Hart.stream, hx]
  | (.q n, w) =>
    cases isX <;> exact hb _

theorem commitDone_stream {α : Type} (g : Stream → α) (hx : ∀ st n w, g (Stream.setX st n w) = g st)
    (hb : ∀ st : Stream, g { st with blocked := none } = g st) (k : Hart) (isX : Bool) :
    g (k.commitDone.stream isX) = g (k.stream isX) :=
  foldl_keeps (fun k : Hart => g (k.stream isX)) (fun k e => deliver_stream g hx hb k e isX) _ k

theorem holdPartner_hart (s : State) (slot : Nat) (isX : Bool) :
    ((s.holdPartner (.stream slot isX)).hart slot).vfault = (s.hart slot).vfault ∧
    ∀ e ∈ ((s.holdPartner (.stream slot isX)).hart slot).inflight, e ∈ (s.hart slot).inflight := by
  unfold State.holdPartner
  dsimp only
  split
  · rw [State.hart_setHart]
    exact ⟨rfl, fun e he => he⟩
  · rw [State.hart_setHart]
    cases isX
    · exact ⟨rfl, fun e he => (List.mem_filter.1 he).1⟩
    · exact ⟨rfl, fun e he => (List.mem_filter.1 he).1⟩

theorem enterTrap_hart {isX : Bool} {cause : Nat} {tval tpc telem tlane : Word} (hd : (s.stream (.stream slot isX)).depth ≠ 3) :
    let t := s.enterTrap (.stream slot isX) cause tval tpc telem tlane
    (t.hart slot).vfault = (s.hart slot).vfault ∧ ∀ e ∈ (t.hart slot).inflight, e ∈ (s.hart slot).inflight := by
  rw [enterTrap_below hd]
  have hart (u : State) (st : Stream) : ((u.setStream (.stream slot isX) st).hart slot).vfault = (u.hart slot).vfault ∧
      ((u.setStream (.stream slot isX) st).hart slot).inflight = (u.hart slot).inflight := by
    unfold State.setStream
    rw [State.hart_setHart]
    cases isX <;> exact ⟨rfl, rfl⟩
  obtain ⟨vfault, inflight⟩ := hart (s.holdPartner (.stream slot isX)) ((s.stream (.stream slot isX)).enter cause tval tpc telem tlane)
  dsimp only
  rw [vfault, inflight]
  exact holdPartner_hart s slot isX

theorem vectorTrap_taken {v : VFault} (hv : (s.hart slot).vfault = some v) (hh : (s.hart slot).held ≠ some v.isX)
    (hl : ((s.hart slot).stream v.isX).live = true) (hd : ((s.hart slot).stream v.isX).depth ≠ 3) :
    ∃ t : State, Sys2Proof.Machine.exec (.vectorTrapCommit slot) s = .next t ∧
      let u := t.stream (.stream slot v.isX)
      (t.hart slot).vfault = none ∧ (∀ e ∈ (t.hart slot).inflight, e.done = false) ∧
      u.tcause = BitVec.ofNat 64 v.cause ∧ u.tval = v.tval ∧
      u.tpc = v.pc ∧ u.telem = BitVec.ofNat 64 v.elem ∧ u.tlane = BitVec.ofNat 64 v.lane ∧
      u.pc = ((s.hart slot).stream v.isX).tvec := by
  let before := s.setHart slot { (s.hart slot).commitDone with vfault := none }
  have stream : before.stream (.stream slot v.isX) = (s.hart slot).commitDone.stream v.isX := by
    unfold before
    rw [State.stream_setHart_self]
    rfl
  have depth : (before.stream (.stream slot v.isX)).depth ≠ 3 := by
    rwa [stream, commitDone_stream Stream.depth (fun st n w => by simp) fun _ => rfl]
  have hart : before.hart slot = { (s.hart slot).commitDone with vfault := none } := State.hart_setHart ..
  refine ⟨before.enterTrap (.stream slot v.isX) v.cause v.tval v.pc (BitVec.ofNat 64 v.elem) (BitVec.ofNat 64 v.lane), ?_, ?_⟩
  · change execVectorTrapCommit slot s = _
    unfold execVectorTrapCommit
    dsimp only
    rw [hv]
    dsimp only
    rw [if_neg (by simp [hh, hl])]
  · obtain ⟨cause, tval, tpc, telem, tlane, pc, -, -⟩ := enterTrap_record (cause := v.cause) (tval := v.tval) (tpc := v.pc)
      (telem := BitVec.ofNat 64 v.elem) (tlane := BitVec.ofNat 64 v.lane) depth
    obtain ⟨vfault, inflight⟩ := enterTrap_hart (cause := v.cause) (tval := v.tval) (tpc := v.pc)
      (telem := BitVec.ofNat 64 v.elem) (tlane := BitVec.ofNat 64 v.lane) depth
    refine ⟨vfault.trans (congrArg Hart.vfault hart), fun e he => ?_, cause, tval, tpc, telem, tlane, pc.trans ?_⟩
    · have left := inflight e he
      rw [hart] at left
      simpa using (List.mem_filter.1 left).2
    · rw [stream, commitDone_stream Stream.tvec (fun st n w => by simp) fun _ => rfl]

/-! Deferred traps (06 R270; 07 R309; 10 R428). -/

section
variable {p : Party} {st : Stream} {cause : Nat} {d : Deferred} (hs : s.stream? p = some st) (hl : st.live = true)
  (hb : st.atBoundary = true) (hh : ∀ slot isX, p = .stream slot isX → (s.hart slot).held ≠ some isX)
  (hf : (st.deferred.find? fun d => d.cause == cause) = some d)
include hs hl hb hh hf

theorem takeDeferred_eq : s.takeDeferred p cause =
    (((s.leaveTagQueue p).dropInHand p).setStream p { st with deferred := st.deferred.erase d }).enterTrap p cause d.tval st.pc
      d.telem noLane := by
  unfold State.takeDeferred
  rw [hs]
  dsimp only
  rw [hf]
  dsimp only
  cases p with
  | datum => exact if_neg (by simp [hl, hb])
  | stream slot isX => exact if_neg (by simpa [hl, hb] using hh slot isX rfl)

theorem takeDeferred_traps (hd : st.depth ≠ 3) :
    let u := (s.takeDeferred p cause).stream p
    u.tcause = BitVec.ofNat 64 cause ∧ u.tval = d.tval ∧ u.tpc = st.pc ∧ u.telem = d.telem ∧ u.pc = st.tvec ∧
      u.deferred = st.deferred.erase d := by
  rw [takeDeferred_eq hs hl hb hh hf]
  have stream := State.stream_setStream_self ((s.leaveTagQueue p).dropInHand p) p { st with deferred := st.deferred.erase d }
  have depth : Stream.depth (State.stream (((s.leaveTagQueue p).dropInHand p).setStream p
      { st with deferred := st.deferred.erase d }) p) ≠ 3 := by
    rw [stream]
    exact hd
  obtain ⟨hcause, tval, tpc, telem, -, pc, -, deferred⟩ := enterTrap_record (cause := cause) (tval := d.tval) (tpc := st.pc)
    (telem := d.telem) (tlane := noLane) depth
  exact ⟨hcause, tval, tpc, telem, pc.trans (congrArg Stream.tvec stream :),
    deferred.trans (congrArg Stream.deferred stream :)⟩

end

/-! Samples and barriers (04 R185; 14 R561). -/

theorem sampleRecord_ok {r : SampleReq} {rest : List SampleReq} {x : Scratch} {stages : List (Nat × Nat)} {total : Nat}
    (hs : s.hart? slot = some h) (hp : h.svPend = r :: rest) (ho : h.svOcc ≠ 32)
    (hx : (s.core (coreOf slot)).scratch? h.serial = some x) :
    let off := r.buf.toNat % 0x400000 + 64 * ((h.svRd.toNat + h.svOcc.toNat) % 32)
    off + 64 ≤ x.spw * 65536 →
    Sys2Proof.Machine.exec (.sampleRecord slot stages total) s = .next ((s.setHart slot { h with
      svPend := rest
      svOcc := if r.buf = h.svBuf then h.svOcc + 1 else h.svOcc }).scratchStore (coreOf slot) h.serial off
        (r.bytes stages total)) := by
  intro off fits
  change execSampleRecord slot stages total s = _
  unfold execSampleRecord
  rw [hs]
  dsimp only
  rw [hp]
  dsimp only
  rw [hx]
  dsimp only
  rw [if_neg (by simpa using And.intro ho fits)]

theorem foldl_max_eq {n a : Nat} {l : List Nat} (hb : ∀ x ∈ l, x ≤ n) (ha : a ≤ n) (hm : n ∈ l ∨ a = n) : l.foldl max a = n := by
  induction l generalizing a with
  | nil => exact hm.resolve_left List.not_mem_nil
  | cons x l ih =>
    have hx := hb x List.mem_cons_self
    refine ih (fun y hy => hb y (List.mem_cons_of_mem x hy)) (Nat.max_le.2 ⟨ha, hx⟩) ?_
    rcases hm with hm | rfl
    · rcases List.mem_cons.1 hm with rfl | hm
      · exact .inr (Nat.max_eq_right ha)
      · exact .inl hm
    · exact .inr (Nat.max_eq_left hx)

theorem barRelease_ok {l : Launch} {lev group n : Nat} (hs : s.launch? l.serial = some l) :
    let mine := fun (k : Hart) => k.serial == l.serial && !k.shadow && l.info.groupOf k.index lev == group
    let streams := ((s.launchHarts l).filter mine).flatMap fun k => [k.sa, k.sx].filter fun st => st.live
    (∀ st ∈ streams, st.barWait = some lev → st.barCount lev ≤ n) → (∀ st ∈ streams, n ≤ st.barCount lev) →
    (∃ st ∈ streams, st.barWait = some lev ∧ st.barCount lev = n) →
    (∀ k ∈ (s.launchHarts l).filter mine, k.haltedIn = true → k.sideLog = [] ∧ ∀ t ∈ k.trains, t.failed = true) →
    let cores := ((s.harts.filter fun kv => mine kv.2 && kv.2.haltedIn).map fun kv => coreOf kv.1).dedup
    (∀ c ∈ cores, s.drains c = true) →
    let u := cores.foldl State.drainCore s
    let go := fun (st : Stream) => if st.barWait == some lev then { st with barWait := none } else st
    Sys2Proof.Machine.exec (.barRelease l.serial lev group) s =
      .next ((if cores = [] then s else u.setMem u.mem.dropStale).mapHarts fun k =>
        if mine k then { k with sa := go k.sa, sx := go k.sx } else k) := by
  intro mine streams hle hge hex hdone cores hdrains u go
  have count : ((streams.filter fun st => st.barWait == some lev).map fun st => st.barCount lev).foldl max 0 = n := by
    obtain ⟨st, mem, waits, at_⟩ := hex
    refine foldl_max_eq (fun x hx => ?_) (Nat.zero_le n) (.inl ?_)
    · obtain ⟨st, mem, rfl⟩ := List.mem_map.1 hx
      obtain ⟨mem, waits⟩ := List.mem_filter.1 mem
      exact hle st mem (by simpa using waits)
    · exact List.mem_map.2 ⟨st, List.mem_filter.2 ⟨mem, by simpa using waits⟩, at_⟩
  have waiting : (streams.filter fun st => st.barWait == some lev).isEmpty = false := by
    obtain ⟨st, mem, waits, -⟩ := hex
    exact List.isEmpty_eq_false_iff_exists_mem.2 ⟨st, List.mem_filter.2 ⟨mem, by simpa using waits⟩⟩
  have closed : (((s.launchHarts l).filter mine).any fun h =>
      h.haltedIn && (!h.sideLog.isEmpty || h.trains.any fun t => !t.failed)) = false := by
    refine List.any_eq_false.2 fun k hk => ?_
    cases halted : k.haltedIn
    · simp
    · obtain ⟨log, trains⟩ := hdone k hk halted
      simpa [log] using trains
  have drains : cores.all s.drains = true := List.all_eq_true.2 hdrains
  have reached : (streams.all fun st => decide (n ≤ st.barCount lev)) = true := by simpa using hge
  change execBarRelease l.serial lev group s = _
  unfold execBarRelease
  rw [hs]
  dsimp only
  rw [if_neg]
  · have start : (if cores.isEmpty = true then s else u.setMem u.mem.dropStale) =
        if cores = [] then s else u.setMem u.mem.dropStale := by simp only [List.isEmpty_iff]
    rw [← start]
  · change ¬((streams.filter fun st => st.barWait == some lev).isEmpty || _ || !cores.all s.drains || !streams.all fun st =>
      decide (((streams.filter fun st => st.barWait == some lev).map fun st => st.barCount lev).foldl max 0 ≤ st.barCount lev)) = true
    rw [count, waiting, drains, reached]
    refine Bool.eq_false_iff.1 ?_
    rw [Bool.false_or, Bool.not_true, Bool.or_false, Bool.or_false]
    exact closed

end

/-- Settles O53: the events of harts, lanes, traps, samples and barriers. -/
theorem hartEventsComeAbout : Obligations.HartEventsComeAbout := by
  unfold Obligations.HartEventsComeAbout
  intro s s' slot serial lane p st
  dsimp only
  refine ⟨fun hs hw => ?_, fun isX hs hd hx hdepth => queueDeadlock_traps hs hd hx hdepth,
    fun e hf ht ha hfree hslip => ⟨fun hr hd => laneComplete_ok hf ht ha hfree hslip hr hd, laneArrive_ok hf ht ha hfree hslip⟩,
    fun e hf hr hd ha => rendezvousComplete_ok hf hr hd ha,
    fun i maj hd hi hs hl hc ht hg hb => ⟨waits s, scalarBlocked_waits hi hs hl hc ht hg hb, rfl, rfl, rfl, rfl⟩,
    fun v hv hh hl hd => vectorTrap_taken hv hh hl hd, fun e rest hl hf hp => ?_, fun cause i d hi hs hl hb hd hh hf => ?_,
    fun r rest x stages total hs hp ho hx fits => sampleRecord_ok hs hp ho hx fits,
    fun l lev group n hs => barRelease_ok hs⟩
  · change execWaitWake p s = _
    unfold execWaitWake
    rw [hs]
    dsimp only
    rw [if_pos hw]
  · change execSideLogPerform slot s = _
    unfold execSideLogPerform
    rw [hl]
    dsimp only
    rw [hf, hp]
    rfl
  · have trap := takeDeferred_traps (cause := cause) hs hl hb hh hf hd
    simp only [List.mem_cons, Prod.mk.injEq, List.not_mem_nil, or_false] at hi
    rcases hi with ⟨rfl, rfl⟩ | ⟨rfl, rfl⟩ | ⟨rfl, rfl⟩
    · exact ⟨_, rfl, trap⟩
    · exact ⟨_, rfl, trap⟩
    · exact ⟨_, rfl, trap⟩

end Sys2Proof.Machine
end


section
/-! SUPPORT. What comes about in the arrays and their cells (03 R139, R140; 11 R440, R449, R453, R462, R463). -/

set_option Elab.async false

namespace Sys2Proof.Machine

open Sys2Proof

theorem mem_insertNat {x a : Nat} {l : List Nat} : x ∈ insertNat a l ↔ x = a ∨ x ∈ l := by
  induction l with
  | nil => simp [insertNat]
  | cons b l ih =>
    unfold insertNat
    split
    · exact List.mem_cons
    · split
      · next e => simp [e]
      · simp only [List.mem_cons, ih]
        tauto

theorem mem_foldl_insertNat {x : Nat} {rows l : List Nat} :
    x ∈ rows.foldl (fun l r => insertNat r l) l ↔ x ∈ rows ∨ x ∈ l := by
  induction rows generalizing l with
  | nil => simp
  | cons r rows ih =>
    simp only [List.foldl_cons, ih, mem_insertNat, List.mem_cons]
    tauto

theorem Assoc.get?_filter_out {α : Type} (l : Assoc α) (p : Nat → Bool) {a : Nat} (h : p a = false) :
    Assoc.get? (l.filter fun c => p c.1) a = none := by
  induction l with
  | nil => rfl
  | cons c l ih =>
    obtain ⟨k, v⟩ := c
    by_cases e : a = k
    · subst e
      rw [List.filter_cons_of_neg (by simp [h])]
      exact ih
    · cases hk : p k
      · rw [List.filter_cons_of_neg (by simp [hk])]
        exact ih
      · rw [List.filter_cons_of_pos (by simp [hk])]
        simp only [Assoc.get?, e, if_false]
        exact ih

theorem partnerArray_ne (a : Nat) : partnerArray a ≠ a := by
  unfold partnerArray
  split <;> omega

theorem State.array_setArray (s : State) (n : Nat) (m : MArray) : (s.setArray n m).array n = m := by
  unfold State.array State.setArray Assoc.get
  dsimp only
  split
  · rw [Assoc.get?_put_ne _ _ (partnerArray_ne n).symm, Assoc.get?_put_self]
    rfl
  · rw [Assoc.get?_put_self]
    rfl

section
variable {s : State} {n : Fin 128} {c : MCmd}

/-! MZERO (11 R463). -/

theorem zeroRows_cell (a : MArray) {slot row m r col : Nat} {int : Bool} (hc : col < 256) :
    (a.zeroRows slot row m int).cell slot r col =
      if row ≤ r ∧ r < row + m then ⟨0, false, false, false⟩ else a.cell slot r col := by
  have key : accKey slot r col / 256 = slot * 128 + r := by unfold accKey; omega
  let kept := fun (k : Nat) => decide (k / 256 < slot * 128 + row) || decide (slot * 128 + row + m ≤ k / 256)
  have cells : (a.zeroRows slot row m int).cell slot r col =
      Assoc.get (a.acc.filter fun kv => kept kv.1) (accKey slot r col) Acc.blank := rfl
  rw [cells]
  unfold Assoc.get
  split
  · next inside =>
    rw [Assoc.get?_filter_out _ kept (by simp only [kept, key]; simp; omega)]
    rfl
  · next outside =>
    rw [Assoc.get?_filter _ kept (by simp only [kept, key]; simp; omega)]
    rfl

theorem zeroRows_mode (a : MArray) {slot row m r : Nat} {int : Bool} (hl : row ≤ r) (hu : r < row + m) :
    (slot * 128 + r) ∈ (a.zeroRows slot row m int).intRows ↔ int = true := by
  have named : slot * 128 + r ∈ (List.range m).map fun i => slot * 128 + row + i :=
    List.mem_map.2 ⟨r - row, List.mem_range.2 (by omega), by omega⟩
  unfold MArray.zeroRows
  cases int
  · simp only [Bool.false_eq_true, if_false, iff_false, List.mem_filter, not_and]
    intro _
    simpa using named
  · simp only [if_true, iff_true]
    exact mem_foldl_insertNat.2 (.inl named)

/-! Swaps (11 R449). -/

theorem weightSwap_swaps {seq : Nat} {fmt : Word} {rest : List MCmd} {serial : Word} {k : Card}
    (hq : (s.array n.val).queue = c :: rest) (hk : c.kind = .swap seq fmt) (hh : (s.array n.val).holder = some serial)
    (hc : s.card? serial seq = some k) (he : k.ended = true) :
    let a := s.array n.val
    ∃ t : State, Sys2Proof.Machine.exec (.weightSwap n) s = .next t ∧ (t.array n.val).queue = rest ∧
      (t.array n.val).active = !a.active ∧
      (k.stop = none → (t.array n.val).activeBank = a.stagingBank) ∧
      (k.stop.isSome → (t.array n.val).activeBank.valid = false ∧ (t.array n.val).activeBank.fmt = fmt) := by
  intro a
  let staged := if k.stop.isSome then { a.stagingBank with fmt := fmt, valid := false } else a.stagingBank
  let swapped := { a.setStaging staged with active := !(a.setStaging staged).active, staging := 0, queue := rest }
  have active : swapped.active = !a.active := by
    unfold swapped MArray.setStaging
    dsimp only
    split <;> rfl
  have bank : swapped.activeBank = staged := by
    unfold MArray.activeBank
    rw [active]
    unfold swapped MArray.setStaging
    cases a.active <;> rfl
  refine ⟨s.setArray n.val swapped, ?_, ?_⟩
  · change execWeightSwap n s = _
    unfold execWeightSwap
    dsimp only
    rw [hq]
    dsimp only
    rw [hk]
    dsimp only
    rw [hh, Option.bind_some, hc]
    dsimp only
    rw [he, if_neg (by simp)]
  · rw [State.array_setArray]
    refine ⟨rfl, active, fun none => ?_, fun some => ?_⟩
    · rw [bank]
      exact if_neg (by simp [none])
    · rw [bank, show staged = { a.stagingBank with fmt := fmt, valid := false } from if_pos some]
      exact ⟨rfl, rfl⟩

/-! Cells (03 R140; 11 R453). -/

theorem toInt_ofInt_48 {x : Int} (hl : -(2 ^ 47) ≤ x) (hu : x < 2 ^ 47) : (BitVec.ofInt 48 x).toInt = x := by
  rw [BitVec.toInt_ofInt]
  exact Int.bmod_eq_of_le (by omega) (by omega)

theorem addInt_exact {cell : Acc} {z : Int} (hs : cell.sticky = false) :
    (cell.addInt z).val.toInt = max (-(2 ^ 47)) (min (cell.val.toInt + z) (2 ^ 47 - 1)) ∧
    ((cell.addInt z).sticky = true ↔ ¬(-(2 ^ 47) ≤ cell.val.toInt + z ∧ cell.val.toInt + z < 2 ^ 47)) := by
  unfold Acc.addInt
  rw [hs, if_neg (by simp)]
  dsimp only
  split
  · next low =>
    refine ⟨?_, by simp; omega⟩
    rw [toInt_ofInt_48 (by omega) (by omega)]
    omega
  · split
    · next high =>
      refine ⟨?_, by simp; omega⟩
      rw [toInt_ofInt_48 (by omega) (by omega)]
      omega
    · refine ⟨?_, by simp; omega⟩
      rw [toInt_ofInt_48 (by omega) (by omega)]
      omega

end

/-- Settles O54: MZERO, streams and swaps of an array, and its cells. -/
theorem arrayEventsComeAbout : Obligations.ArrayEventsComeAbout := by
  unfold Obligations.ArrayEventsComeAbout
  intro s n c a
  refine ⟨fun row m int hz => ?_, fun cmd kl base sbase ovft hf hk => ?_,
    fun seq fmt rest serial k hq hk hh hc he => weightSwap_swaps hq hk hh hc he,
    fun cell z b t int ovft kl c col acts sa po => ⟨addInt_exact, fun hs => ?_, fun hv => ?_⟩⟩
  · refine ⟨s.setArray n.val ((a.zeroRows c.hart row m int).stepCmd c true), ?_, ?_⟩
    · change execMzeroApply n s = _
      unfold execMzeroApply
      dsimp only
      generalize hf : List.findSome? _ (readyCmds [] (s.array n.val).queue) = found
      obtain rfl : found = some (c, row, m, int) := hf.symm.trans hz
      rfl
    · rw [State.array_setArray]
      exact ⟨rfl, fun r col _ hc => zeroRows_cell a (int := int) hc, fun r _ hl hu => zeroRows_mode a (int := int) hl hu⟩
  · change execStreamChunk n s = _
    unfold execStreamChunk
    rw [hf]
    dsimp only
    rw [hk]
  · unfold Acc.addInt
    rw [if_pos hs]
  · unfold Acc.addChunk
    rw [hv]
    rfl

end Sys2Proof.Machine
end


section
/-! SUPPORT. What comes about in traverse runs (12 R479, R480, R488, R493..R495, R508..R511). -/

set_option Elab.async false

namespace Sys2Proof.Machine

open Sys2Proof

section
variable {s s' : State}

theorem arrives_of_flight {m : TvMsg} {run : RunId} (h : m ∈ s.tv.flight) : s.arrives m run = true := by
  simp [State.arrives, h]

/-! The start of a run (12 R479, R480). -/

/-- The state once a card's run stands on its channel. -/
def State.runStarted (s : State) (k : Card) (ck : Nat) (c : Chan) : State :=
  let s := (s.setMem s.mem.dropStale).updCard k.serial k.seq fun k => { k with started := true }
  { s.setTv { s.tv with chans := s.tv.chans.put ck c } with order := s.order ++ [chanAct ck] }

theorem runStart_takes {card prog : Word} {k : Card} {chn : Fin 17} {num key n : Nat} {l : Launch} {p : TProg}
    (hf : s.findCard card (fun k => Job.kind k.job == 3 && s.cardReady k) = some k) (hj : k.job = .traverse prog chn num)
    (hl : s.launch? k.serial = some l) (hp : s.progOf l prog = some (key, p))
    (hr : s.dc.ready.getLsbD (28 + key / 64) = true) (hc : s.freeChannel (key / 64) chn = some n)
    (hs : (p.runId l num, p.rank) ∉ s.tv.stops) :
    ∃ t : State, Sys2Proof.Machine.exec (.traverseRunStart card) s = .next t ∧
      t.tv.chans.get? (key / 64 * 16 + n) = some (Chan.fresh k key (p.runId l num) p.rank) ∧
      t.order = s.order ++ [chanAct (key / 64 * 16 + n)] := by
  refine ⟨s.runStarted k (key / 64 * 16 + n) (Chan.fresh k key (p.runId l num) p.rank), ?_, Assoc.get?_put_self .., rfl⟩
  · change execTraverseRunStart card s = _
    unfold execTraverseRunStart
    rw [hf]
    dsimp only
    rw [hj]
    dsimp only
    rw [hl, Option.bind_some, hp, Option.map_some]
    dsimp only
    rw [if_pos hr, hc]
    dsimp only
    have going : ¬(List.contains s.tv.stops (p.runId l num, p.rank)) = true := by simpa using hs
    exact congrArg Host.Outcome.next (if_neg going)

/-! SENDs that land (12 R488). -/

theorem sendLand_lands {m : SendMsg} {key : Nat} {c : Chan} {e : RunEnv} {k : Card} (hm : .send m ∈ s.tv.flight)
    (ho : s.runOver m.run m.dst = false)
    (hc : (s.tv.chans.find? fun kv => kv.2.run == m.run && kv.2.rank == m.dst) = some (key, c)) (he : s.runEnv key = some e)
    (hn : ∀ x ∈ s.tv.landed, x.msg ≠ m) (hw : e.k.faultWait = none) (hs : e.k.stop = none) (hk : sendCheck m e.p e.k = none)
    (hl : landSend m e (landWrites m e.p) s = .ok () s') (hcard : s'.card? e.c.serial e.c.seqNo = some k) (ht : k.trains = []) :
    Sys2Proof.Machine.exec (.sendLand m) s =
      .next (((s'.setLanded m [] true).taken (.send m)).tvAck e.p m.run m.src m.seq 0 0 0) := by
  have here : s.tv.flight.contains (.send m) = true := by simpa using hm
  have fresh : (s.tv.landed.find? fun x => x.msg == m) = none := by simpa [List.find?_eq_none] using hn
  change execSendLand m s = _
  unfold execSendLand
  rw [arrives_of_flight hm, if_neg (by simp), ho, if_neg (by simp), if_pos here]
  dsimp only
  rw [hc]
  dsimp only
  rw [he]
  dsimp only
  rw [hw, hs, if_neg (by simp), fresh, if_neg (by simp), hk]
  dsimp only
  rw [hl]
  dsimp only
  rw [hcard, Option.map_some, ht]
  rfl

/-! SIGNALs and claims (12 R493..R495). -/

theorem signalArrive_adds {m : CtlMsg} {key : Option Nat} {p : TProg} {k : Card} (hm : .signal m ∈ s.tv.flight)
    (hr : s.receiver m.run m.dst = some (key, p, k)) (hz : (p.slot m.slot).size ≠ 0) (hw : (p.slot m.slot).arrw ≠ 0)
    (ha : arrivalAdd (s.jobCtx k (quadOf k.core) []) (p.slot m.slot).arrw.toNat m.value.toNat (s.taken (.signal m)) = .ok () s') :
    Sys2Proof.Machine.exec (.signalArrive m) s = .next (s'.tvAck p m.run m.src m.seq 0 0 0) := by
  change execSignalArrive m s = _
  unfold execSignalArrive
  rw [arrives_of_flight hm, if_neg (by simp)]
  dsimp only
  rw [hr]
  dsimp only
  rw [if_neg (by simpa using And.intro hz hw), ha]

theorem reserveClaimArrive_keeps {m : CtlMsg} (hm : .reserve m ∈ s.tv.flight) (hd : m.det = true) (hn : m ∉ s.tv.reserves) :
    ∃ t : State, Sys2Proof.Machine.exec (.reserveClaimArrive m) s = .next t ∧ t.tv.reserves = s.tv.reserves ++ [m] ∧
      .reserve m ∉ t.tv.flight := by
  refine ⟨(s.taken (.reserve m)).setTv { (s.taken (.reserve m)).tv with reserves := s.tv.reserves ++ [m] }, ?_, rfl, ?_⟩
  · change execReserveClaimArrive m s = _
    unfold execReserveClaimArrive
    rw [arrives_of_flight hm, if_neg (by simp), if_pos hd]
    dsimp only
    have new : ¬(List.contains s.tv.reserves m) = true := by simpa using hn
    exact congrArg Host.Outcome.next (if_neg new)
  · intro still
    exact absurd (List.mem_filter.1 still).2 (by simp)

theorem reserveClaimArrive_grants {m : CtlMsg} {key : Option Nat} {p : TProg} {k : Card} {o : Nat}
    (hm : .reserve m ∈ s.tv.flight) (hd : m.det = false) (hr : s.receiver m.run m.dst = some (key, p, k))
    (hc : s.claim (s.runSource m.run m.src) key p k m.slot m.value.toNat = .value o s') :
    Sys2Proof.Machine.exec (.reserveClaimArrive m) s =
      .next ((s'.taken (.reserve m)).tvAck p m.run m.src m.seq 0 (BitVec.ofNat 64 o) (p.slot m.slot).rows) := by
  change execReserveClaimArrive m s = _
  unfold execReserveClaimArrive
  rw [arrives_of_flight hm, if_neg (by simp), hd, if_neg (by simp), hr]
  dsimp only
  rw [hc]

section
variable {run : RunId} {dst round : Nat} {counts : List CtlMsg}
  (hc : (List.range run.count).map (fun r => s.roundCount run dst round r) = counts.map some)
  (hb : round = 0 ∨ (run, dst, round - 1) ∈ s.tv.roundsDone) (hn : (run, dst, round) ∉ s.tv.roundsDone)
include hc hb hn

/-- A round whose counts have all come is served. -/
theorem round_ready :
    let held := (List.range run.count).filterMap fun r => s.roundCount run dst round r
    held = counts ∧ ¬(decide (held.length ≠ run.count) || !(round == 0 || s.tv.roundsDone.contains (run, dst, round - 1)) ||
      s.tv.roundsDone.contains (run, dst, round)) = true := by
  have held : ((List.range run.count).filterMap fun r => s.roundCount run dst round r) = counts := by
    have all := congrArg (List.filterMap id) hc
    simpa [List.filterMap_map, Function.comp_def] using all
  have length : counts.length = run.count := by
    have := congrArg List.length hc
    simpa using this.symm
  refine ⟨held, ?_⟩
  rw [held]
  simpa [length, hn] using hb.resolve_left

theorem reserveRound_empty (hz : ∀ m ∈ counts, m.value = 0) (hr : (s.receiver run dst).isSome) :
    Sys2Proof.Machine.exec (.reserveRound run dst round) s =
      .next (s.setTv { s.tv with roundsDone := s.tv.roundsDone ++ [(run, dst, round)] }) := by
  obtain ⟨held, ready⟩ := round_ready hc hb hn
  obtain ⟨⟨key, p, k⟩, receiver⟩ := Option.isSome_iff_exists.1 hr
  have asks : (counts.filter fun m => m.value != 0) = [] := List.filter_eq_nil_iff.2 fun m hm => by simp [hz m hm]
  change execReserveRound run dst round s = _
  unfold execReserveRound
  dsimp only
  rw [if_neg ready, receiver, held]
  dsimp only
  rw [asks]

/-- The state once the claims `mine` of a round are served and the round is done. -/
def State.roundServed (s : State) (run : RunId) (dst round : Nat) (mine : List CtlMsg) : State :=
  s.setTv { s.tv with
    reserves := s.tv.reserves.map fun x => if mine.contains x then { x with value := 0 } else x
    roundsDone := s.tv.roundsDone ++ [(run, dst, round)] }

theorem reserveRound_grants {m : CtlMsg} {more : List CtlMsg} {key : Option Nat} {p : TProg} {k : Card} {o : Nat}
    (ha : (counts.filter fun m => m.value != 0) = m :: more) (hs : ∀ x ∈ more, x.slot = m.slot)
    (hr : s.receiver run dst = some (key, p, k))
    (hv : s.claim none key p k m.slot (((m :: more).map fun x => x.value.toNat).sum) = .value o s') :
    ∃ t : State, Sys2Proof.Machine.exec (.reserveRound run dst round) s = .next t ∧ (run, dst, round) ∈ t.tv.roundsDone ∧
      let g := s'.grantAll p run (p.slot m.slot).rows (m :: more) o
      t.tv.flight = g.tv.flight ∧ t.linkOut = g.linkOut := by
  obtain ⟨held, ready⟩ := round_ready hc hb hn
  have mine : ((m :: more).filter fun x => x.slot == m.slot) = m :: more :=
    List.filter_eq_self.2 fun x hx => by
      rcases List.mem_cons.1 hx with rfl | hx
      · simp
      · simp [hs x hx]
  refine ⟨(s'.grantAll p run (p.slot m.slot).rows (m :: more) o).roundServed run dst round (m :: more), ?_,
    List.mem_append_right _ (List.mem_singleton.2 rfl), rfl, rfl⟩
  · change execReserveRound run dst round s = _
    unfold execReserveRound
    dsimp only
    rw [if_neg ready, hr, held]
    dsimp only
    rw [ha]
    dsimp only
    rw [mine, hv]
    dsimp only
    rw [if_pos (by simp)]
    rfl

end

/-! Acknowledgements and stop notices (12 R485, R488, R511). -/

theorem legAckArrive_eq {m : AckMsg} {key : Nat} {c : Chan} {u : Unack} (hm : .ack m ∈ s.tv.flight)
    (hc : ((s.taken (.ack m)).tv.chans.find? fun kv => kv.2.run == m.run && kv.2.rank == m.dst) = some (key, c))
    (hu : (c.unacked.find? fun u => u.seq == m.seq) = some u) :
    Sys2Proof.Machine.exec (.legAckArrive m) s = .next (if m.bad ≠ 0 then (s.taken (.ack m)).endRun key c m.bad 0
      else (s.taken (.ack m)).updChan key fun c =>
        { c with
          unacked := c.unacked.filter fun u => u.seq != m.seq
          grant := if u.kind = 2 then some (m.value.toNat, m.rows) else c.grant }) := by
  change execLegAckArrive m s = _
  unfold execLegAckArrive
  rw [arrives_of_flight hm, if_neg (by simp)]
  dsimp only
  rw [hc]
  dsimp only
  rw [hu]
  dsimp only
  split <;> rfl

theorem stopNotice_stops {run : RunId} {dst key : Nat} {c : Chan} (hm : .stop run dst ∈ s.tv.flight)
    (hs : (run, dst) ∉ s.tv.stops) (hc : (s.tv.chans.find? fun kv => kv.2.run == run && kv.2.rank == dst) = some (key, c)) :
    let t := (s.taken (.stop run dst)).setTv { (s.taken (.stop run dst)).tv with stops := s.tv.stops ++ [(run, dst)] }
    Sys2Proof.Machine.exec (.stopNotice run dst) s = .next (t.endRun key c 11 0) := by
  intro t
  change execStopNotice run dst s = _
  unfold execStopNotice
  rw [arrives_of_flight hm, if_neg (by simp)]
  dsimp only
  have new : ¬(List.contains s.tv.stops (run, dst)) = true := by simpa using hs
  have noted : (if List.contains s.tv.stops (run, dst) = true then s.taken (.stop run dst) else t) = t := if_neg new
  change (match (if List.contains s.tv.stops (run, dst) = true then s.taken (.stop run dst) else t).tv.chans.find? _ with
    | none => .next (if List.contains s.tv.stops (run, dst) = true then s.taken (.stop run dst) else t)
    | some (key, c) => .next (State.endRun (if List.contains s.tv.stops (run, dst) = true then s.taken (.stop run dst) else t)
        key c 11 0) : Host.Outcome State Fault Refusal) = _
  rw [noted]
  change (match t.tv.chans.find? _ with | none => _ | some (key, c) => _ : Host.Outcome State Fault Refusal) = _
  rw [show t.tv.chans = s.tv.chans from rfl, hc]

end

/-- Settles O55: runs start, SENDs land, SIGNALs and claims come, and runs are acknowledged or stopped. -/
theorem runEventsComeAbout : Obligations.RunEventsComeAbout := by
  unfold Obligations.RunEventsComeAbout
  intro s s'
  refine ⟨fun card k prog chn num key n l p hf hj hl hp hr hc hs => runStart_takes hf hj hl hp hr hc hs,
    fun m key c e hm ho hc he hn hw hs hk hl k hcard ht => sendLand_lands hm ho hc he hn hw hs hk hl hcard ht,
    fun m key p k hm hr hz hw ha => signalArrive_adds hm hr hz hw ha,
    fun m hm => ⟨fun hd hn => reserveClaimArrive_keeps hm hd hn, fun key p k o hd hr hc => reserveClaimArrive_grants hm hd hr hc⟩,
    fun run dst round counts hc hb hn => ⟨fun hz hr => reserveRound_empty hc hb hn hz hr,
      fun m more key p k o ha hs hr hv => reserveRound_grants hc hb hn ha hs hr hv⟩,
    fun m key c u hm hc hu => ⟨fun hg => ?_, fun hb => ?_⟩, fun run dst key c hm hs hc => stopNotice_stops hm hs hc⟩
  · have ack := legAckArrive_eq hm hc hu
    rwa [if_neg (not_not.2 hg)] at ack
  · have ack := legAckArrive_eq hm hc hu
    rwa [if_pos hb] at ack

end Sys2Proof.Machine
end


section
/-! SUPPORT. What comes about to cards (01 R19; 04 R165, R166; 07 R325; 11 R448; 13 R532..R541). -/

set_option Elab.async false

namespace Sys2Proof.Machine

open Sys2Proof

section
variable {s s' : State} {k : Card} {c : Ctx}

/-- A job whose step goes through has taken it. -/
theorem runJob_ok {body : M Unit} (hb : body s = .ok () s') : runJob k c body s = s' := by
  unfold runJob
  rw [hb]

/-- A gazetteer job whose step goes through has taken it. -/
theorem runGz_ok {pos : Nat} {body : M (Option GzStop)} (hb : body s = .ok none s') : runGz k pos c body s = s' := by
  unfold runGz
  rw [hb]

theorem streamCopyJob_steps {card : Word} {b : List Byte} (hf : s.findCard card (fun k => k.active && Job.kind k.job == 1) = some k)
    (hj : k.job = .stream b) (hp : k.prog < (copyCard b).total) (ht : k.trains = [])
    (hc : copyElement k (s.jobCtx k (quadOf k.core) [.quad (quadOf k.core)]) (copyCard b) k.prog s = .ok () s') :
    Sys2Proof.Machine.exec (.streamCopyJob card) s = .next s' := by
  change execStreamCopyJob card s = _
  unfold execStreamCopyJob
  dsimp only
  rw [hf]
  dsimp only
  rw [hj]
  dsimp only
  rw [if_neg (by simp [ht, hp]), runJob_ok hc]

theorem weightLoadJob_steps {card : Word} {b : List Byte} {dst : WldDst} {arrays : List Nat}
    (hf : s.findCard card (fun k => k.active && Job.kind k.job == 2 && k.prog < 641) = some k) (hj : k.job = .weight b dst arrays)
    (ht : s.loadTurn k arrays = true) (hw : weightStep k (s.jobCtx k (quadOf k.core) []) (weightCard b) dst arrays s = .ok () s')
    (hs : ((s'.card? k.serial k.seq).bind fun k => k.stop) = none) :
    Sys2Proof.Machine.exec (.weightLoadJob card) s = .next s' := by
  change execWeightLoadJob card s = _
  unfold execWeightLoadJob
  dsimp only
  rw [hf]
  dsimp only
  rw [hj]
  dsimp only
  rw [ht, if_neg (by simp), runJob_ok hw, hs]
  rfl

/-- GZAGE_HALVE halves an engine's counters (13 R537). -/
theorem gzageHalve_halves {e : Fin 12} (ha : 2 ^ 20 ≤ s.gz.age.get e.val 0) :
    ∃ t : State, Sys2Proof.Machine.exec (.gzageHalve e) s = .next t ∧ t.gz.age.get e.val 0 = 0 ∧
      t.gz.cache.get e.val [] = (s.gz.cache.get e.val []).map fun r => { r with ctr := r.ctr / 2 } := by
  refine ⟨_, if_neg (Nat.not_lt.2 ha), ?_, ?_⟩
  · exact congrArg (Option.getD · 0) (Assoc.get?_put_self ..)
  · exact congrArg (Option.getD · []) (Assoc.get?_put_self ..)

end

/-- Settles O56: cards start, step and complete. -/
theorem cardEventsComeAbout : Obligations.CardEventsComeAbout := by
  unfold Obligations.CardEventsComeAbout
  intro s s' card k b ver
  dsimp only
  refine ⟨fun hf => ?_, fun hf hj hp ht hc => streamCopyJob_steps hf hj hp ht hc,
    fun dst arrays hf hj ht hw hs => weightLoadJob_steps hf hj ht hw hs, fun hf hj hb => ?_, fun hf hj hb => ?_,
    fun e ha => gzageHalve_halves ha, fun st hf ho => ?_⟩
  · change execCardStart card s = _
    unfold execCardStart
    rw [hf]
  · change execGzLookupJob card s = _
    unfold execGzLookupJob
    dsimp only
    generalize found_eq : State.findCard s card _ = found
    obtain rfl : found = some k := found_eq.symm.trans hf
    dsimp only
    rw [hj]
    dsimp only
    rw [runGz_ok hb]
  · change execGzUpdateJob card s = _
    unfold execGzUpdateJob
    dsimp only
    generalize found_eq : State.findCard s card _ = found
    obtain rfl : found = some k := found_eq.symm.trans hf
    dsimp only
    rw [hj]
    dsimp only
    rw [runGz_ok hb]
  · change execCardComplete card s = _
    unfold execCardComplete
    rw [hf]
    dsimp only
    rw [ho]

end Sys2Proof.Machine
end


section
/-! SUPPORT. What comes about to rings and launches (01 R55; 04 R143..R147, R151, R153..R160, R167..R174). -/

set_option Elab.async false

namespace Sys2Proof.Machine

open Sys2Proof

section
variable {s : State} {n : Fin 64} {v serial : Word} {l : Launch}

/-! Events leave the rings as they are (04 R178..R180). -/

theorem touchL2_la (s : State) (quad line : Nat) (last : Bool) : (s.touchL2 quad line last).la = s.la := by
  unfold State.touchL2
  dsimp only
  split <;> rfl

theorem homeWriteBytes_la (s : State) (pa : Nat) (bs : List Byte) : (s.homeWriteBytes pa bs).la = s.la := by
  have lines := foldl_keeps State.la (fun (s : State) i => touchL2_la s (homeQuad pa) (pa / 256 + i) false)
    (List.range ((pa % 256 + bs.length + 255) / 256)) (s.dropRows pa bs.length)
  exact (foldl_keeps State.la (f := fun (s : State) i => s.wakeLine (pa / 64 + i)) (fun _ _ => rfl) _ _).trans lines

theorem recordOut_la (s : State) (host : Bool) (addr : Nat) (bs : List Byte) : (s.recordOut host addr bs).la = s.la := by
  unfold State.recordOut
  split
  · exact foldl_keeps State.la (f := fun (s : State) i => s.wakeLine (hostKey (addr + 64 * i))) (fun _ _ => rfl) _ _
  · exact homeWriteBytes_la ..

theorem postEvent_rings (s : State) (q src code detail : Nat) (serial : Word) (data : List Byte) :
    (s.postEvent q src code detail serial data).la.rings = s.la.rings := by
  unfold State.postEvent
  dsimp only
  split
  · rfl
  · change (State.recordOut _ _ _ _).la.rings = _
    rw [recordOut_la]
    rfl

/-! Rings (04 R143..R147). -/

theorem ring_setRing (s : State) (n : Nat) (r : Ring) : (s.setRing n r).ring n = r :=
  congrArg (Option.getD · Ring.blank) (Assoc.get?_put_self ..)

theorem takeEntry_rptr (s : State) (n : Nat) (r : Ring) (b : List Byte) : ((s.takeEntry n r b).ring n).rptr = r.rptr + 1 := by
  unfold State.takeEntry
  dsimp only
  split
  · unfold State.ring
    rw [postEvent_rings]
    exact congrArg Ring.rptr (ring_setRing ..)
  · exact congrArg Ring.rptr (ring_setRing s ..)

theorem ringWptrWrite_moves (ho : v.toNat ≤ (s.ring n.val).rptr.toNat + (s.ring n.val).size)
    (hb : (s.ring n.val).wptr.toNat ≤ v.toNat) :
    Sys2Proof.Machine.exec (.ringWptrWrite n v) s =
      .next (s.setRing n.val { s.ring n.val with behind := s.hostWrites, wptr := v }) := by
  change execRingWptrWrite n v s = _
  unfold execRingWptrWrite
  exact (if_neg (Nat.not_lt.2 ho)).trans (if_neg (Nat.not_lt.2 hb))

theorem ringEntryRead_takes {r : Ring} (hr : s.ring n.val = r) (he : r.rctl.getLsbD 0 = true) (hh : r.halted = false)
    (hp : r.rptr.toNat < r.wptr.toNat) (hw : s.ringPending n.val < 64) (hu : s.dc.ready.getLsbD (32 + n.val / 16) = true)
    (hd : r.rctl.getLsbD 10 = false) (hb : ∀ id ∈ r.behind, id ∉ s.hostWrites) :
    let b := s.mem.homeBytes (r.rbase.toNat + 256 * (r.rptr.toNat % r.size)) 256
    s.replays (parseRecord b).asid = false →
      Sys2Proof.Machine.exec (.ringEntryRead n) s = .next (s.takeEntry n.val r b) := by
  intro b hn
  have bytes : s.entryBytes r (r.rbase.toNat + 256 * (r.rptr.toNat % r.size)) = some b := by
    unfold State.entryBytes
    rw [hd]
    rfl
  change execRingEntryRead n s = _
  unfold execRingEntryRead
  dsimp only
  rw [hr, if_neg (by simpa [he, hh, hp, hw, hu] using hb), bytes]
  dsimp only
  rw [hn]
  rfl

theorem priorityAge_raises {k : Word} {t : Nat} (ha : (s.ring n.val).aging = some (k, t)) (ht : t + 50000 ≤ s.tick) :
    Sys2Proof.Machine.exec (.priorityAge n) s =
      .next (s.setRing n.val { s.ring n.val with raised := (s.ring n.val).raised + 1, aging := some (k, t + 50000) }) := by
  change execPriorityAge n s = _
  unfold execPriorityAge
  dsimp only
  rw [ha]
  dsimp only
  rw [if_pos ht]

theorem prio_raised (r : Ring) : ({ r with raised := r.raised + 1 } : Ring).prio = min 7 (r.prio + 1) := by
  unfold Ring.prio
  dsimp only
  omega

/-! Dependences (04 R153). -/

theorem settleRing_keeps (s : State) (l : Launch) :
    (s.settleRing l).mem = s.mem ∧ (s.settleRing l).la.launches = s.la.launches := by
  unfold State.settleRing
  split
  · unfold State.settleAging
    dsimp only
    split <;> exact ⟨rfl, rfl⟩
  · exact ⟨rfl, rfl⟩

/-- A launch found after it has been replaced is what has replaced it. -/
theorem setLaunch_found {l m : Launch} (h : (s.setLaunch l).launch? l.serial = some m) : m = l := by
  unfold State.launch? at h
  obtain ⟨o, -, e⟩ := List.mem_map.1 (List.mem_of_find?_eq_some h)
  have holds := List.find?_some h
  by_cases hit : (o.serial == l.serial && o.phase != .done) = true
  · rw [if_pos hit] at e
    exact e.symm
  · rw [if_neg hit] at e
    exact absurd (e ▸ holds) hit

theorem depEval_evaluates (hl : s.launch? serial = some l) (hp : l.phase = .waiting) :
    let e := (s.setMem s.mem.dropStale).evalDeps l l.info.deps
    ∃ t : State, Sys2Proof.Machine.exec (.depEval serial) s = .next t ∧ t.mem = e.1.mem ∧
      ∀ m, t.launch? l.serial = some m → (m.phase = .eligible ↔ (∀ d ∈ e.2, d.holds = true) ∧
        ∀ p, l.after = some p → e.1.launch? p = none) := by
  intro e
  let ok : Bool := e.2.all (·.holds) && (match l.after with
    | none => true
    | some p => (e.1.launch? p).isNone)
  let l' : Launch := { l with info := { l.info with deps := e.2 }, phase := if ok then .eligible else .waiting, evalAt := e.1.tick }
  have result : s.evaluate serial = (e.1.setLaunch l').settleRing l := by
    unfold State.evaluate
    rw [hl]
    dsimp only
    rw [hp]
    exact if_neg (by decide)
  refine ⟨s.evaluate serial, rfl, ?_, fun m hm => ?_⟩
  · rw [result, (settleRing_keeps ..).1]
    rfl
  · rw [result] at hm
    have found : (e.1.setLaunch l').launch? l'.serial = some m := by
      unfold State.launch? at hm ⊢
      rwa [(settleRing_keeps ..).2] at hm
    rw [setLaunch_found found]
    have holds : ok = true ↔ (∀ d ∈ e.2, d.holds = true) ∧ ∀ p, l.after = some p → e.1.launch? p = none := by
      unfold ok
      cases l.after <;> simp
    rw [← holds, show l'.phase = if ok then .eligible else .waiting from rfl]
    split <;> simp [*]

end

/-- Settles O57: the life of ring entries and launches. -/
theorem launchEventsComeAbout : Obligations.LaunchEventsComeAbout := by
  unfold Obligations.LaunchEventsComeAbout
  intro s n v serial l r
  refine ⟨ringWptrWrite_moves, fun ho => if_pos ho, fun ho hb => (if_neg (Nat.not_lt.2 ho)).trans (if_pos hb), fun hv => ?_,
    fun he hh hp hw hu hd hb => fun hn => ⟨ringEntryRead_takes rfl he hh hp hw hu hd hb hn, takeEntry_rptr ..⟩,
    fun k t ha ht => ⟨priorityAge_raises ha ht, prio_raised r⟩,
    fun hl => ⟨fun hp => depEval_evaluates hl hp, fun hw hg hn hf => ?_, fun hc => ?_, fun g hg => ⟨fun hm => ?_,
      fun news hp hr hn hw hs => ?_⟩⟩, fun hl => ⟨fun hp => ?_, fun hc => ?_⟩, fun podid rank hn => ?_⟩
  · refine ⟨_, rfl, ?_⟩
    dsimp only
    rw [ring_setRing, if_pos hv]
    exact ⟨rfl, rfl, rfl, rfl, rfl, rfl, rfl⟩
  · change execLaunchPlace serial s = _
    unfold execLaunchPlace
    rw [hl]
    dsimp only
    rw [if_neg (by simp [hg]), hw, hn, if_neg (by simp), if_pos hf]
  · change execLaunchComplete serial s = _
    unfold execLaunchComplete
    rw [hl]
    dsimp only
    rw [if_pos (by simpa [or_comm] using hc)]
  · change execGangPreempt serial g.index s = _
    unfold execGangPreempt
    rw [hl]
    dsimp only
    rw [hg]
    dsimp only
    rw [if_pos hm]
  · change execGangResume serial g.index s = _
    unfold execGangResume
    rw [hl]
    dsimp only
    rw [hg]
    dsimp only
    rw [hp, hr, hn, hw, if_neg (by decide), hs]
  · change execPreemptWrite serial s = _
    unfold execPreemptWrite
    rw [hl]
    dsimp only
    rw [hp, if_pos (by decide)]
  · change execCancelWrite serial s = _
    unfold execCancelWrite
    rw [hl]
    dsimp only
    rw [hc, if_neg (by decide)]
  · change execPodAdmission podid rank s = _
    unfold execPodAdmission
    dsimp only
    rw [if_neg (by simpa using hn)]
    change (match List.find? _ s.la.launches with | none => _ | some l => _ : Host.Outcome State Fault Refusal) = _
    generalize List.find? _ s.la.launches = found
    cases found <;> rfl

end Sys2Proof.Machine
end


section
/-! SUPPORT. What stores at home, records and events leave alone (04 R178; 06 R247, R248, R279). -/

set_option Elab.async false

namespace Sys2Proof.Machine

open Sys2Proof

/-! Of memory only the contents, the lines, the marks and the copies. -/

/-- A memory that differs from another in what stores at home change. -/
def MemSys.StoresOnly (m n : MemSys) : Prop :=
  n = { m with
    hbm := n.hbm, l2 := n.l2, l2lines := n.l2lines, poison := n.poison, cipher := n.cipher, border := n.border }

theorem MemSys.StoresOnly.trans {m n o : MemSys} (h1 : m.StoresOnly n) (h2 : n.StoresOnly o) : m.StoresOnly o := by
  unfold MemSys.StoresOnly at *
  rw [h2, h1]

theorem MemSys.StoresOnly.foldl {α : Type} {f : MemSys → α → MemSys} (h : ∀ (m : MemSys) a, m.StoresOnly (f m a))
    (l : List α) (m : MemSys) : m.StoresOnly (l.foldl f m) := by
  induction l generalizing m with
  | nil => rfl
  | cons a l ih => exact (h m a).trans (ih _)

theorem MemSys.writeBack_storesOnly (m : MemSys) (sec : Nat) : m.StoresOnly (m.writeBack sec) := by
  unfold MemSys.writeBack
  split <;> rfl

theorem MemSys.homeStore_storesOnly (m : MemSys) (f : Nat → Bool) (tick : Nat) (quad : Option Nat) (through : Bool)
    (orders : List (Nat × Nat)) (sec : Nat) (mask : BitVec 64) (data : Line) :
    m.StoresOnly (m.homeStore f tick quad through orders sec mask data) := by
  unfold MemSys.homeStore
  split <;> rfl

theorem MemSys.homeWriteBytes_storesOnly (m : MemSys) (f : Nat → Bool) (tick pa : Nat) (bs : List Byte) :
    m.StoresOnly (m.homeWriteBytes f tick pa bs) := by
  unfold MemSys.homeWriteBytes
  refine .foldl (fun m i => ?_) _ _
  exact iteInduction (motive := m.StoresOnly) (fun _ => rfl) fun _ => m.homeStore_storesOnly ..

/-! Of the rest only cores, the waits of streams, launches' digest lists, cached rows and messages to the host. -/

/-- A state that differs from another in what stores at home change. -/
structure StoresOnly (s t : State) : Prop where
  mem : s.mem.StoresOnly t.mem
  rest : t = { s with
    mem := t.mem, harts := t.harts, cores := t.cores, la := t.la, gz := t.gz, dc := { s.dc with core := t.dc.core }
    hostOut := t.hostOut }

theorem StoresOnly.refl (s : State) : StoresOnly s s := ⟨rfl, rfl⟩

theorem StoresOnly.trans {s t u : State} (h1 : StoresOnly s t) (h2 : StoresOnly t u) : StoresOnly s u :=
  ⟨h1.mem.trans h2.mem, by rw [h2.rest, h1.rest]⟩

theorem StoresOnly.foldl {α : Type} {f : State → α → State} (h : ∀ s a, StoresOnly s (f s a)) (l : List α) (s : State) :
    StoresOnly s (l.foldl f s) := by
  induction l generalizing s with
  | nil => exact .refl s
  | cons a l ih => exact (h s a).trans (ih _)

theorem StoresOnly.setMem {s : State} {m : MemSys} (h : s.mem.StoresOnly m) : StoresOnly s (s.setMem m) := ⟨h, rfl⟩

theorem StoresOnly.setLa (s : State) (la : LaunchSys) : StoresOnly s (s.setLa la) := ⟨rfl, rfl⟩

theorem StoresOnly.hostOut (s : State) (o : List HostMsg) : StoresOnly s { s with hostOut := o } := ⟨rfl, rfl⟩

theorem StoresOnly.dropStale (s : State) : StoresOnly s (s.setMem s.mem.dropStale) := ⟨rfl, rfl⟩

theorem wakeLine_storesOnly (s : State) (key : Nat) : StoresOnly s (s.wakeLine key) := ⟨rfl, rfl⟩

theorem evictL2_storesOnly (s : State) (quad line : Nat) : StoresOnly s (s.evictL2 quad line) := by
  have back := MemSys.StoresOnly.foldl MemSys.writeBack_storesOnly (l2Sectors line) s.mem
  refine ⟨.trans (n := if homeQuad (256 * line) = quad then (l2Sectors line).foldl MemSys.writeBack s.mem else s.mem) ?_ rfl, rfl⟩
  split
  · exact back
  · rfl

theorem touchL2_storesOnly (s : State) (quad line : Nat) (last : Bool) : StoresOnly s (s.touchL2 quad line last) := by
  unfold State.touchL2
  dsimp only
  split
  · exact (evictL2_storesOnly s quad _).trans ⟨rfl, rfl⟩
  · exact ⟨rfl, rfl⟩

theorem dropRows_storesOnly (s : State) (pa n : Nat) : StoresOnly s (s.dropRows pa n) := ⟨rfl, rfl⟩

theorem homeWriteBytes_storesOnly (s : State) (pa : Nat) (bs : List Byte) : StoresOnly s (s.homeWriteBytes pa bs) := by
  have lines := (dropRows_storesOnly s pa bs.length).trans (StoresOnly.foldl
    (fun s i => touchL2_storesOnly s (homeQuad pa) (pa / 256 + i) false) (List.range ((pa % 256 + bs.length + 255) / 256)) _)
  unfold State.homeWriteBytes
  dsimp only
  generalize List.foldl _ _ _ = t at lines ⊢
  exact (lines.trans (.setMem (t.mem.homeWriteBytes_storesOnly t.sealedSec t.tick pa bs))).trans
    (StoresOnly.foldl (fun s i => wakeLine_storesOnly s (pa / 64 + i)) _ _)

theorem hostWrite_storesOnly (s : State) (pa : Nat) (bs : List Byte) : StoresOnly s (s.hostWrite pa bs) :=
  .trans (t := { s with hostOut := s.hostOut ++ [.hwr pa bs] }) ⟨rfl, rfl⟩
    (StoresOnly.foldl (fun s i => wakeLine_storesOnly s (hostKey (pa + 64 * i))) _ _)

theorem recordOut_storesOnly (s : State) (host : Bool) (addr : Nat) (bs : List Byte) :
    StoresOnly s (s.recordOut host addr bs) := by
  unfold State.recordOut
  split
  · exact hostWrite_storesOnly ..
  · exact homeWriteBytes_storesOnly ..

theorem postEvent_storesOnly (s : State) (q src code detail : Nat) (serial : Word) (data : List Byte) :
    StoresOnly s (s.postEvent q src code detail serial data) := by
  unfold State.postEvent
  dsimp only
  split
  · exact ⟨rfl, rfl⟩
  · exact (((StoresOnly.setLa s _).trans (.dropStale _)).trans (recordOut_storesOnly ..)).trans
      ((StoresOnly.dropStale _).trans (.hostOut ..))

theorem postFault_storesOnly (s : State) (quad code detail : Nat) (serial : Word) (data : List Byte) :
    StoresOnly s (s.postFault quad code detail serial data) := postEvent_storesOnly ..

theorem noteWrite_storesOnly (s : State) (serial : Word) (va pa : Nat) : StoresOnly s (s.noteWrite serial va pa) := by
  unfold State.noteWrite
  split
  · exact .refl s
  split
  · exact .refl s
  dsimp only
  split
  · exact .refl s
  split
  · exact ⟨rfl, rfl⟩
  · exact (homeWriteBytes_storesOnly s _ _).trans ⟨rfl, rfl⟩

theorem homePerform_storesOnly (s : State) (quad : Option Nat) (through : Bool) (orders : List (Nat × Nat)) (sec : Nat)
    (mask : BitVec 64) (data : Line) : StoresOnly s (s.homePerform quad through orders sec mask data) := by
  have line := (dropRows_storesOnly s (64 * sec) 64).trans (touchL2_storesOnly _ (homeQuad (64 * sec)) (sec / 4) false)
  unfold State.homePerform
  dsimp only
  generalize State.touchL2 _ _ _ _ = t at line ⊢
  exact (line.trans (.setMem (t.mem.homeStore_storesOnly t.sealedSec t.tick quad through orders sec mask data))).trans
    (wakeLine_storesOnly ..)

theorem homeWrite_storesOnly (s : State) (quad : Option Nat) (serial : Word) (va pa n v : Nat) :
    StoresOnly s (s.homeWrite quad serial va pa n v) :=
  (homePerform_storesOnly s _ _ _ _ _ _).trans (noteWrite_storesOnly _ _ _ _)

theorem addHome_storesOnly (s : State) (quad : Option Nat) (serial : Word) (va pa : Nat) (t : Ty) (ovft data : Nat) :
    StoresOnly s (s.addHome quad serial va pa t ovft data) :=
  (homePerform_storesOnly s _ _ _ _ _ _).trans (noteWrite_storesOnly _ _ _ _)

theorem StoresOnly.linkOut {s t : State} (h : StoresOnly s t) : t.linkOut = s.linkOut := by rw [h.rest]

theorem StoresOnly.faults {s t : State} (h : StoresOnly s t) : t.mem.faults = s.mem.faults := by rw [h.mem]

theorem StoresOnly.faultQueue {s t : State} (h : StoresOnly s t) (q : Nat) : t.faultQueue q = s.faultQueue q := by
  unfold State.faultQueue
  rw [h.mem]

end Sys2Proof.Machine
end


section
/-! SUPPORT. What comes about in memory and on the links (06 R245..R248, R254..R263, R284..R292; 07 R305..R309, R619;
10 R421; 13 R527, R528, R539). -/

set_option Elab.async false

namespace Sys2Proof.Machine

open Sys2Proof

section
variable {s : State} {quad : Fin 4} {id : BitVec 32} {core sector pa n : Nat} {serial : BitVec 16} {v : Word}

/-! Fault records and walks (06 R254..R263). -/

theorem faultRecordPost_posts {f : FaultRec}
    (hf : (s.mem.faults.find? fun f => f.quad == quad.val && f.id.isNone) = some f)
    (he : (s.faultQueue quad.val).ctl.getLsbD 0 = true)
    (hr : ((s.faultQueue quad.val).wptr - (s.faultQueue quad.val).rptr).toNat <
      logSize (fieldOf (s.faultQueue quad.val).ctl.toNat 2 5)) :
    ∃ u : State, Sys2Proof.Machine.exec (.faultRecordPost quad) s = .next u ∧
      (u.faultQueue quad.val).wptr = (s.faultQueue quad.val).wptr + 1 ∧
      (u.faultQueue quad.val).nextId = (s.faultQueue quad.val).nextId + 1 ∧
      ∀ g ∈ u.mem.faults, g.num = f.num → g.id = some (s.faultQueue quad.val).nextId := by
  change ∃ u, execFaultRecordPost quad s = _ ∧ _
  unfold execFaultRecordPost
  rw [hf]
  dsimp only
  rw [if_neg (by simpa [he] using hr)]
  generalize hm : ({ s.mem with faults := _, fq := _ } : MemSys) = m
  have posted : StoresOnly (s.setMem m) ((s.setMem m).recordOut ((s.faultQueue quad.val).ctl.getLsbD 1)
    ((s.faultQueue quad.val).base.toNat + 256 * ((s.faultQueue quad.val).wptr.toNat %
      logSize (fieldOf (s.faultQueue quad.val).ctl.toNat 2 5))) (f.bytes (s.faultQueue quad.val).nextId)) :=
    recordOut_storesOnly ..
  have told := iteInduction (c := ((s.faultQueue quad.val).wptr == (s.faultQueue quad.val).rptr) = true)
    (motive := StoresOnly (s.setMem m)) (fun _ => posted.trans (postFault_storesOnly _ quad.val 17 0 0 [])) fun _ => posted
  have queue : (s.setMem m).faultQueue quad.val = { s.faultQueue quad.val with
      wptr := (s.faultQueue quad.val).wptr + 1, nextId := (s.faultQueue quad.val).nextId + 1 } := by
    rw [← hm]
    exact Assoc.get_put_self ..
  refine ⟨_, rfl, ?_, ?_, fun g hg num => ?_⟩
  · rw [told.faultQueue, queue]
  · rw [told.faultQueue, queue]
  · rw [told.faults, ← hm] at hg
    obtain ⟨g', -, rfl⟩ := List.mem_map.1 hg
    by_cases same : (g'.num == f.num) = true
    · rw [if_pos same]
    · rw [if_neg same] at num
      exact absurd (beq_iff_eq.2 num) same

theorem fqrespRetry_walks {f : FaultRec} (hf : s.faultById quad.val id = some f) :
    ∃ u : State, Sys2Proof.Machine.exec (.fqrespRetry quad id) s = .next u ∧
      u.mem.faults = s.mem.faults.filter (fun g => g.num != f.num) ∧
      u.mem.walks = s.mem.walks ++ f.waiters.filterMap fun w =>
        match w.1 with
        | .sideLog _ _ => none
        | a => some ⟨a, f.asid, w.2.1⟩ := by
  change ∃ u, execFqrespRetry quad id s = _ ∧ _
  unfold execFqrespRetry
  rw [hf]
  refine ⟨_, rfl, rfl, congrArg (s.mem.walks ++ List.filterMap · f.waiters) (funext fun w => ?_)⟩
  obtain ⟨a, va, _, _⟩ := w
  cases a <;> rfl

theorem mapHarts_declineLog_nothing (num cause : Nat) (hl : ∀ k : Hart, k ∈ s.harts.map Prod.snd → k.sideLog = [])
    (hn : s.la.launches = []) : (s.mapHarts fun h => h.declineLog num cause) = s := by
  have same : (s.harts.map fun kv => (kv.1, kv.2.declineLog num cause)) = s.harts := by
    refine (List.map_congr_left fun kv hkv => ?_).trans (List.map_id _)
    have empty := hl kv.2 (List.mem_map_of_mem hkv)
    unfold Hart.declineLog
    rw [empty]
    rfl
  have none : ∀ g : Launch → Launch, s.la.launches.map g = s.la.launches := fun g => by
    rw [hn]
    rfl
  unfold State.mapHarts
  dsimp only
  rw [same, none]

theorem fqrespDecline_traps {f : FaultRec} {p : Party} {va elem : Nat} {st : Stream} {pool : Bool}
    (hf : s.faultById quad.val id = some f) (hw : f.waiters = [(.stream p, va, elem, pool)]) (hs : s.stream? p = some st)
    (ht : st.faultWait = some f.num) (hl : ∀ k : Hart, k ∈ s.harts.map Prod.snd → k.sideLog = [])
    (hn : s.la.launches = []) :
    ∃ u : State, Sys2Proof.Machine.exec (.fqrespDecline quad id) s = .next u ∧
      u.mem.faults = s.mem.faults.filter (fun g => g.num != f.num) ∧
      (u.stream p).faultWait = none ∧ (u.stream p).declined =
        some ⟨if pool = true then causeOvpool else causePage, BitVec.ofNat 64 va, BitVec.ofNat 64 elem⟩ := by
  change ∃ u, execFqrespDecline quad id s = _ ∧ _
  unfold execFqrespDecline
  rw [hf]
  dsimp only
  rw [hw, mapHarts_declineLog_nothing f.num causePage
    (s := s.setMem { s.mem with faults := s.mem.faults.filter fun g => g.num != f.num }) hl hn]
  have stream : State.stream (s.setMem { s.mem with faults := s.mem.faults.filter fun g => g.num != f.num }) p = st :=
    congrArg (Option.getD · Stream.blank) hs
  rw [List.foldl_cons, List.foldl_nil]
  dsimp only
  rw [stream, if_pos ht]
  refine ⟨_, rfl, ?_, ?_, ?_⟩
  · cases p <;> rfl
  · rw [State.stream_setStream_self]
  · rw [State.stream_setStream_self]

theorem pageWalkDone_ends {p : Party} {asid : BitVec 16} {va : Nat} {rest : List Walk}
    (hw : s.mem.walks = ⟨.stream p, asid, va⟩ :: rest) :
    ∃ u : State, Sys2Proof.Machine.exec .pageWalkDone s = .next u ∧ u.mem.walks = rest ∧
      (∀ l, s.mem.walk asid va = .leaf l → u.mem.tlbs =
        tlbInsert (tlbInsert s.mem.tlbs (.core (coreOf p.slot)) l) (.quad (quadOf (coreOf p.slot))) l) ∧
      ∀ st, s.stream? p = some st → (u.stream p).faultWait = none := by
  change ∃ u, execPageWalkDone s = _ ∧ _
  unfold execPageWalkDone
  rw [hw]
  refine ⟨_, rfl, ?_, fun l hl => ?_, fun st hs => ?_⟩
  · cases p <;> rfl
  · dsimp only
    rw [hl]
    cases p <;> rfl
  · exact congrArg Stream.faultWait (State.stream_setStream_self ..)

/-! Buffers and copies (06 R245..R248). -/

theorem wcbDrainTimeout_drains {e : WcbEntry} {r : List WcbEntry} (hw : (s.core core).wcb = e :: r)
    (he : s.entryHeld core e = false) : Sys2Proof.Machine.exec (.wcbDrainTimeout core) s =
      .next ((s.setCore core { s.core core with wcb := r }).drainEntry core e) := by
  have one : s.drainable core 1 = 1 := by
    unfold State.drainable
    rw [hw]
    simp [he]
  change Host.Outcome.next (s.drainSome core (s.drainable core 1)) = _
  rw [one]
  unfold State.drainSome
  dsimp only
  rw [hw]
  rfl

theorem l1LeaseExpire_drops {l : L1Line} (hl : l ∈ (s.core core).l1) :
    ∃ u : State, Sys2Proof.Machine.exec (.l1LeaseExpire core) s = .next u ∧
      (∀ k ∈ (u.core core).l1, k ∈ (s.core core).l1) ∧ (u.core core).l1.length < (s.core core).l1.length ∧ u.mem = s.mem := by
  obtain ⟨t, ht⟩ : ∃ t, ((s.core core).l1.map (·.tick)).min? = some t :=
    Option.isSome_iff_exists.1 (List.isSome_min?_of_mem (List.mem_map_of_mem hl))
  change ∃ u, execL1LeaseExpire core s = _ ∧ _
  unfold execL1LeaseExpire
  dsimp only
  rw [ht]
  obtain ⟨oldest, hm, rfl⟩ := List.mem_map.1 (List.min?_mem ht)
  refine ⟨_, rfl, fun k hk => ?_, ?_, rfl⟩
  · rw [State.core_setCore] at hk
    exact List.mem_of_mem_filter hk
  · rw [State.core_setCore]
    exact List.length_filter_lt_length_iff_exists.2 ⟨oldest, hm, by simp⟩

theorem borderCopyInvalidate_drops {b : BorderCopy} (hb : b ∈ s.mem.border) (hq : b.quad = quad.val) (hs : b.sector = sector)
    (ht : b.stale.isSome) : ∃ u : State, Sys2Proof.Machine.exec (.borderCopyInvalidate quad sector) s = .next u ∧
      ∀ x, x ∈ u.mem.border ↔ x ∈ s.mem.border ∧ ¬(x.quad = quad.val ∧ x.sector = sector ∧ x.stale.isSome) := by
  change ∃ u, execBorderCopyInvalidate quad sector s = _ ∧ _
  unfold execBorderCopyInvalidate
  dsimp only
  rw [if_pos (List.any_eq_true.2 ⟨b, hb, by simp [hq, hs, ht]⟩)]
  refine ⟨_, rfl, fun x => List.mem_filter.trans (and_congr_right fun _ => ?_)⟩
  rw [Bool.not_eq_true', ← Bool.not_eq_true]
  exact not_congr (by simp [and_assoc])

/-! Rounds (07 R308, R309). -/

theorem applyRound_false (s : State) (l : List RoundEntry) : s.applyRound false l = (l.foldl State.applyEntry s, []) := by
  induction l generalizing s with
  | nil => rfl
  | cons e l ih => exact ih _

theorem RoundEntry.mem_insert {a e : RoundEntry} {l : List RoundEntry} : e ∈ a.insert l ↔ e = a ∨ e ∈ l := by
  induction l with
  | nil => exact List.mem_cons
  | cons b l ih =>
    unfold RoundEntry.insert
    split
    · exact List.mem_cons
    · rw [List.mem_cons, ih, List.mem_cons]
      exact or_left_comm

theorem RoundEntry.before_iff (a b : RoundEntry) : a.before b = true ↔
    a.logCore < b.logCore ∨ a.logCore = b.logCore ∧ (a.hartIndex < b.hartIndex ∨
      a.hartIndex = b.hartIndex ∧ (a.order < b.order ∨ a.order = b.order ∧ a.elem < b.elem)) := by
  simp [RoundEntry.before]

theorem RoundEntry.not_before_of_before {a b : RoundEntry} (h : a.before b = true) : b.before a = false := by
  rw [before_iff] at h
  rw [← Bool.not_eq_true, before_iff]
  omega

/-- What is not before an entry is not before one that comes before it. -/
theorem RoundEntry.not_before_trans {a b c : RoundEntry} (h1 : a.before b = true) (h2 : c.before b = false) :
    c.before a = false := by
  rw [before_iff] at h1
  rw [← Bool.not_eq_true, before_iff] at h2 ⊢
  omega

theorem RoundEntry.insert_sorted {a : RoundEntry} {l : List RoundEntry} (h : l.Pairwise fun a b => b.before a = false) :
    (a.insert l).Pairwise fun a b => b.before a = false := by
  induction l with
  | nil => exact List.pairwise_singleton ..
  | cons b l ih =>
    obtain ⟨first, rest⟩ := List.pairwise_cons.1 h
    unfold RoundEntry.insert
    split
    next hab =>
      refine List.pairwise_cons.2 ⟨fun c hc => ?_, h⟩
      rcases List.mem_cons.1 hc with rfl | hc
      · exact not_before_of_before hab
      · exact not_before_trans hab (first c hc)
    next hab =>
      refine List.pairwise_cons.2 ⟨fun c hc => ?_, ih rest⟩
      rcases mem_insert.1 hc with rfl | hc
      · exact Bool.eq_false_iff.2 hab
      · exact first c hc

theorem RoundEntry.mem_sorted {e : RoundEntry} {l acc : List RoundEntry} :
    e ∈ l.foldl (fun acc e => e.insert acc) acc ↔ e ∈ acc ∨ e ∈ l := by
  induction l generalizing acc with
  | nil => simp
  | cons a l ih => rw [List.foldl_cons, ih, mem_insert, List.mem_cons, or_comm (a := e = a), or_assoc]

theorem RoundEntry.sorted_pairwise {l acc : List RoundEntry} (h : acc.Pairwise fun a b => b.before a = false) :
    (l.foldl (fun acc e => e.insert acc) acc).Pairwise fun a b => b.before a = false := by
  induction l generalizing acc with
  | nil => exact h
  | cons a l ih => exact ih (insert_sorted h)

/-! The round of a launch stands while entries apply. -/

/-- A launch takes the place of the one of its serial, whose number of rounds it keeps. -/
theorem setLaunch_rounds {l m : Launch} (h : s.launch? l.serial = some m) (hp : (l.phase != .done) = true)
    (hr : l.rounds = m.rounds) : ((s.setLaunch l).launch? v).map Launch.rounds = (s.launch? v).map Launch.rounds := by
  by_cases e : l.serial = v
  · rw [← e, setLaunch_launch? h rfl hp, h]
    exact congrArg some hr
  · let p := fun m : Launch => m.serial == v && m.phase != .done
    let f := fun m : Launch => if (m.serial == l.serial && m.phase != .done) = true then l else m
    have out : ∀ m : Launch, (m.serial == l.serial && m.phase != .done) = true → p m = false := fun m hm => by
      simp only [Bool.and_eq_true, beq_iff_eq] at hm
      simp [p, hm.1, e]
    have same : p ∘ f = p := by
      funext m
      by_cases hm : (m.serial == l.serial && m.phase != .done) = true
      · exact (congrArg p (if_pos hm)).trans ((out l (by simp [hp])).trans (out m hm).symm)
      · exact congrArg p (if_neg hm)
    change ((s.la.launches.map f).find? p).map Launch.rounds = (s.la.launches.find? p).map Launch.rounds
    rw [List.find?_map, same]
    cases found : s.la.launches.find? p with
    | none => rfl
    | some m =>
      refine congrArg (some ∘ Launch.rounds) (if_neg fun hm => ?_)
      exact Bool.false_ne_true ((out m hm).symm.trans (List.find?_some found))

theorem mapHarts_rounds (f : Hart → Hart) :
    ((s.mapHarts f).launch? v).map Launch.rounds = (s.launch? v).map Launch.rounds := by
  change Option.map _ (List.find? _ (List.map _ _)) = _
  rw [List.find?_map, Option.map_map]
  rfl

theorem noteWrite_rounds (serial : Word) (va pa : Nat) :
    ((s.noteWrite serial va pa).launch? v).map Launch.rounds = (s.launch? v).map Launch.rounds := by
  unfold State.noteWrite
  split
  · rfl
  next l hl =>
    have own : s.launch? l.serial = some l := (launch?_serial hl).symm ▸ hl
    have live := launch?_live hl
    split
    · rfl
    dsimp only
    split
    · rfl
    split
    · exact setLaunch_rounds (m := l) own live rfl
    · generalize hb : s.homeWriteBytes _ _ = t
      have la : t.la = s.la := hb ▸ homeWriteBytes_la ..
      have same : ∀ k, t.launch? k = s.launch? k := fun k => by rw [State.launch?, la]; rfl
      rw [← same v]
      exact setLaunch_rounds (m := l) ((same _).trans own) live rfl

theorem homePerform_la (quad : Option Nat) (through : Bool) (orders : List (Nat × Nat)) (sec : Nat) (mask : BitVec 64)
    (data : Line) : (s.homePerform quad through orders sec mask data).la = s.la := by
  have touched := touchL2_la (s.dropRows (64 * sec) 64) (homeQuad (64 * sec)) (sec / 4) false
  unfold State.homePerform
  dsimp only
  generalize State.touchL2 _ _ _ _ = t at touched ⊢
  exact touched

theorem addHome_rounds (quad : Option Nat) (serial : Word) (va pa : Nat) (t : Ty) (ovft data : Nat) :
    ((s.addHome quad serial va pa t ovft data).launch? v).map Launch.rounds = (s.launch? v).map Launch.rounds := by
  unfold State.addHome State.homeThrough
  dsimp only
  rw [noteWrite_rounds, State.launch?, homePerform_la]
  rfl

theorem dropNear_launch? (core sec : Nat) : (s.dropNear core sec).launch? v = s.launch? v := rfl

theorem applyEntry_rounds (e : RoundEntry) :
    ((s.applyEntry e).launch? v).map Launch.rounds = (s.launch? v).map Launch.rounds := by
  unfold State.applyEntry
  dsimp only
  split
  · exact (noteWrite_rounds ..).trans (mapHarts_rounds _)
  split
  · split <;> rfl
  · rw [dropNear_launch?]
    exact addHome_rounds ..

theorem applyEntries_rounds (l : List RoundEntry) (s : State) :
    ((l.foldl State.applyEntry s).launch? v).map Launch.rounds = (s.launch? v).map Launch.rounds :=
  foldl_keeps (fun s => (State.launch? s v).map Launch.rounds) (fun _ e => applyEntry_rounds e) l s

theorem roundApply_applies {l : Launch} (hl : s.launch? v = some l) (hd : l.info.det = true)
    (hr : s.roundReady l (l.rounds + 1) = true) (hp : s.replays l.info.asid = false) :
    let mine := s.mem.rounds.filter fun e => e.serial == v && e.round == l.rounds + 1
    let left := s.mem.rounds.filter fun e => !(e.serial == v && e.round == l.rounds + 1)
    let sorted := mine.foldl (fun acc e => e.insert acc) []
    Sys2Proof.Machine.exec (.roundApply v) s =
      .next ((sorted.foldl State.applyEntry (s.setMem { s.mem with rounds := left })).updLaunch v fun l =>
        { l with rounds := l.rounds + 1 }) := by
  intro mine left sorted
  change execRoundApply v s = _
  unfold execRoundApply
  rw [hl]
  dsimp only
  have quiet : (s.setMem { s.mem with rounds := left }).replays l.info.asid = false := hp
  rw [if_pos (by simp [hd, hr]), quiet, applyRound_false]
  have rounds := (applyEntries_rounds (v := v) sorted (s.setMem { s.mem with rounds := left })).trans
    (congrArg (Option.map Launch.rounds) hl)
  refine congrArg Host.Outcome.next ((if_pos rfl).trans ?_)
  change State.updLaunch (sorted.foldl State.applyEntry (s.setMem { s.mem with rounds := left })) v _ = _
  generalize sorted.foldl State.applyEntry _ = t at rounds ⊢
  unfold State.updLaunch
  cases found : t.launch? v with
  | none => rfl
  | some m =>
    rw [found] at rounds
    have same : m.rounds = l.rounds := Option.some.inj rounds
    dsimp only
    rw [same]

/-! UALink (07 R305..R307, R619). -/

theorem trainReceive_refuses {t : Train}
    (h : ¬(t.tail = t.elems.length ∧ ∀ e ∈ t.elems, e.1 + e.2.1 ≤ Config.deviceEnd)) :
    Sys2Proof.Machine.exec (.trainReceive t) s =
      .next { s with linkOut := s.linkOut ++ [.trainRefuse t.srcRank.toNat t.serial] } :=
  if_neg (by simpa using h)

theorem trainReceive_acknowledges {t : Train}
    (h : t.tail = t.elems.length ∧ ∀ e ∈ t.elems, e.1 + e.2.1 ≤ Config.deviceEnd) :
    ∃ u : State, Sys2Proof.Machine.exec (.trainReceive t) s = .next u ∧
      u.linkOut = s.linkOut ++ [.trainAck t.srcRank.toNat t.serial] := by
  change ∃ u, execTrainReceive t s = _ ∧ _
  unfold execTrainReceive
  dsimp only
  rw [if_pos (by simpa using h)]
  refine ⟨_, rfl, congrArg (· ++ _) ?_⟩
  refine (StoresOnly.foldl (fun s e => ?_) t.elems s).linkOut
  exact iteInduction (motive := StoresOnly s) (fun _ => addHome_storesOnly ..) fun _ => homeWrite_storesOnly ..

theorem ualinkReadServe_replies {r : RemoteReq} (ha : r.pa + r.size ≤ Config.deviceEnd)
    (hp : s.mem.poisoned (r.pa / 64) = false) :
    ∃ u : State, Sys2Proof.Machine.exec (.ualinkReadServe r) s = .next u ∧
      u.linkOut = s.linkOut ++ [.readReply r.srcRank.toNat r.id true (BitVec.ofNat 64 (s.mem.homeRead r.pa r.size))] ∧
      (r.atom = none → u.mem = s.mem) := by
  change ∃ u, execUalinkReadServe r s = _ ∧ _
  unfold execUalinkReadServe
  dsimp only
  rw [if_neg (by simpa [hp] using ha)]
  refine ⟨_, rfl, congrArg (· ++ _) ?_, fun h => ?_⟩
  · split
    · rfl
    split
    · exact (homeWrite_storesOnly ..).linkOut
    · rfl
  · rw [h]

theorem trainRefusal_resends {x : TrainSt} (hx : (((s.harts.map fun kv => kv.2) ++ s.la.launches.flatMap fun l =>
      (l.gangs.flatMap fun g => g.saved).map fun ih => ih.2).flatMap (fun h => h.trains) ++
      (s.la.cards.flatMap fun k => k.trains)).find? (fun t => t.train.serial == serial && !t.failed) = some x) :
    (x.resent = false → ∃ u : State, Sys2Proof.Machine.exec (.trainRefusal serial) s = .next u ∧
      u.linkOut = s.linkOut ++ [.train x.rpkg x.train]) ∧
    (x.resent = true → Sys2Proof.Machine.exec (.trainRefusal serial) s = .next (s.failTrain serial)) := by
  refine ⟨fun h => ?_, fun h => ?_⟩
  · change ∃ u, execTrainRefusal serial s = _ ∧ _
    unfold execTrainRefusal
    dsimp only
    rw [hx]
    dsimp only
    rw [if_neg (by simp [h])]
    exact ⟨_, rfl, rfl⟩
  · change execTrainRefusal serial s = _
    unfold execTrainRefusal
    dsimp only
    rw [hx]
    exact if_pos h

/-! Translation caches (06 R286, R290). -/

theorem tlbicmdDone_removes {cmd : Option (BitVec 16)} {rest : List (Option (BitVec 16))} (hc : s.mem.tlbCmds = cmd :: rest)
    (hw : ∀ w ∈ s.mem.walks, cmd ≠ none ∧ cmd ≠ some w.asid) :
    ∃ u : State, Sys2Proof.Machine.exec .tlbicmdDone s = .next u ∧ (u.mem.tlbBusy = false ↔ rest = []) ∧
      u.mem.tlbCmds = rest ∧ ∀ e, e ∈ u.mem.tlbs ↔ e ∈ s.mem.tlbs ∧ cmd ≠ none ∧ cmd ≠ some e.2.asid := by
  have busy : (!rest.isEmpty) = false ↔ rest = [] := by cases rest <;> simp
  change ∃ u, execTlbicmdDone s = _ ∧ _
  unfold execTlbicmdDone
  rw [hc]
  dsimp only
  cases cmd with
  | none =>
    have idle : s.mem.walks = [] := List.eq_nil_iff_forall_not_mem.2 fun w hm => (hw w hm).1 rfl
    rw [idle, if_neg (by simp)]
    exact ⟨_, rfl, busy, rfl, fun e => List.mem_filter.trans (and_congr_right fun _ => by simp)⟩
  | some b =>
    have free : (s.mem.walks.any fun w => w.asid == b) = false :=
      List.any_eq_false.2 fun w hm => by simpa using fun e => (hw w hm).2 (congrArg some e.symm)
    rw [free, if_neg Bool.false_ne_true]
    refine ⟨_, rfl, busy, rfl, fun e => List.mem_filter.trans (and_congr_right fun _ => ?_)⟩
    rw [Bool.not_eq_true', beq_eq_false_iff_ne]
    exact ⟨fun h => ⟨Option.some_ne_none b, fun e => h (Option.some.inj e).symm⟩, fun h e => h.2 (congrArg some e.symm)⟩

/-! Errors (06 R284, R285). -/

theorem MemSys.poisoned_setPoison (m : MemSys) (sec : Nat) : (m.setPoison sec true).poisoned sec = true := by
  unfold MemSys.setPoison
  split
  next x hx =>
    unfold MemSys.poisoned
    dsimp only
    rw [Assoc.get?_put_self]
  next hx =>
    unfold MemSys.poisoned
    dsimp only
    rw [hx, if_pos rfl]
    exact (rangeInsert_any ..).trans (by simp)

theorem markError_xreg (r : Fin 64) (isX : Bool) (h : (s.hart? core).isSome) :
    r.val ∈ (((s.markError (.xreg core isX r)).hart core).stream isX).xmarks := by
  obtain ⟨k, hk⟩ := Option.isSome_iff_exists.1 h
  unfold State.markError
  dsimp only
  rw [hk]
  dsimp only
  rw [State.hart_setHart]
  cases isX <;> exact mem_insertNat.2 (.inl rfl)

theorem markError_vreg (r : Fin 64) (h : (s.hart? core).isSome) : r.val ∈ ((s.markError (.vreg core r)).hart core).vmarks := by
  obtain ⟨k, hk⟩ := Option.isSome_iff_exists.1 h
  unfold State.markError
  dsimp only
  rw [hk]
  dsimp only
  rw [State.hart_setHart]
  exact mem_insertNat.2 (.inl rfl)

theorem markError_scratch {k : Scratch} {key : Word} (hk : k ∈ (s.core core).scratch) (hs : k.serial = key) :
    ∃ x ∈ ((s.markError (.scratch core key n)).core core).scratch, x.serial = key ∧ n / 64 ∈ x.poison := by
  unfold State.markError
  dsimp only
  rw [State.core_setCore]
  refine ⟨_, List.mem_map_of_mem hk, ?_⟩
  rw [if_pos (beq_iff_eq.2 hs)]
  exact ⟨hs, mem_insertNat.2 (.inl rfl)⟩

theorem markError_tile : n / 64 ∈ ((s.markError (.tile core n)).array core).tpoison := by
  unfold State.markError
  dsimp only
  rw [State.array_setArray]
  exact mem_insertNat.2 (.inl rfl)

theorem scrub_counts (h : s.mem.ecnt.get quad.val 0 ≠ BitVec.allOnes 64) :
    ∃ u : State, Sys2Proof.Machine.exec (.scrub quad true) s = .next u ∧
      u.mem.ecnt.get quad.val 0 = s.mem.ecnt.get quad.val 0 + 1 := by
  change ∃ u, execScrub quad true s = _ ∧ _
  unfold execScrub
  dsimp only
  rw [if_pos (by simpa [allOnes64] using h)]
  exact ⟨_, rfl, Assoc.get_put_self ..⟩

/-! The arena and the gazetteer's registers (10 R421; 13 R527, R528, R539). -/

theorem poolGrowDone_grows {w : Word} {k : Nat} (hp : s.ov.gpend = some (w, k)) :
    ∃ u : State, Sys2Proof.Machine.exec .poolGrowDone s = .next u ∧ u.ov.gbusy = false ∧ u.ov.gpend = none ∧
      (u.ov.gfailed = false ↔ (s.named? w).isSome ∧ s.arenaUsed + k ≤ s.ov.asize.toNat) := by
  change ∃ u, execPoolGrowDone s = _ ∧ _
  unfold execPoolGrowDone
  rw [hp]
  dsimp only
  refine ⟨_, rfl, ?_⟩
  split <;> exact ⟨rfl, rfl, by simp [State.setLaunch]⟩

theorem gzdsyncDone_rereads (h : s.gz.dbusy = true) :
    ∃ u : State, Sys2Proof.Machine.exec .gzdsyncDone s = .next u ∧ u.gz.dbusy = false ∧
      u.gz.cur.get (s.gz.dlast.toNat % 256) 0 = 0 ∧
      u.gz.dir.get? (s.gz.dlast.toNat % 256) = s.directoryBytes (s.gz.dlast.toNat % 256) := by
  refine ⟨s.syncTable, rfl, ?_⟩
  unfold State.syncTable
  rw [if_neg (by simp [h])]
  dsimp only [State.setGz]
  refine ⟨rfl, congrArg (Option.getD · 0) (Assoc.get?_del_self ..), ?_⟩
  cases found : s.directoryBytes (s.gz.dlast.toNat % 256) with
  | none => exact Assoc.get?_del_self ..
  | some b => exact Assoc.get?_put_self ..

theorem gzprobeDone_answers (h : s.gz.probeBusy = true) :
    ∃ u : State, Sys2Proof.Machine.exec .gzprobeDone s = .next u ∧ u.gz.probeBusy = false ∧ u.gz.pres.getLsbD 0 = true := by
  change ∃ u, execGzprobeDone s = _ ∧ _
  unfold execGzprobeDone
  rw [if_neg (by simp [h])]
  refine ⟨_, rfl, rfl, ?_⟩
  dsimp only [State.setGz]
  rw [BitVec.getLsbD_ofNat]
  split
  · simp
  · simp [Nat.testBit_zero]
    omega

end

/-- Settles O58, event by event: records and walks, buffers and copies, rounds, the links, errors, pools and directories. -/
theorem memoryEventsComeAbout : Obligations.MemoryEventsComeAbout := by
  unfold Obligations.MemoryEventsComeAbout
  intro s quad id core sector pa n serial v t
  refine ⟨fun f hf he hr => faultRecordPost_posts hf he hr,
    fun f hf => ⟨fqrespRetry_walks hf, fun p va elem st pool hw hs ht hl hn => fqrespDecline_traps hf hw hs ht hl hn⟩,
    fun p asid va rest hw => pageWalkDone_ends hw, fun e r hw he => wcbDrainTimeout_drains hw he,
    fun l hl => l1LeaseExpire_drops hl, fun b hb hq hs ht => borderCopyInvalidate_drops hb hq hs ht, ?period, ?rounds,
    ⟨trainReceive_acknowledges, trainReceive_refuses⟩, ?acked, fun x hx => trainRefusal_resends hx,
    fun r ha hp => ualinkReadServe_replies ha hp, ?response, ?refused, ?commands,
    fun cmd rest hc hw => tlbicmdDone_removes hc hw, ?uncorrected, MemSys.poisoned_setPoison .., ?place, ?mark,
    fun r isX h => ⟨markError_xreg r isX h, markError_vreg r h⟩, fun k key hk hs => markError_scratch hk hs, markError_tile,
    ?scrub, ?quiet, ?grow, fun w k hp => poolGrowDone_grows hp, ?sync, fun h => gzdsyncDone_rereads h, ?probe,
    fun h => gzprobeDone_answers h⟩
  case period => exact fun h => congrArg Host.Outcome.next (if_pos h)
  case response => exact fun data => rfl
  case commands => exact ⟨rfl, rfl, rfl⟩
  case uncorrected => exact fun p => rfl
  case place => rfl
  case mark => rfl
  case quiet => rfl
  case grow => rfl
  case probe => rfl
  case rounds =>
    intro l hl hd hr hp
    exact ⟨roundApply_applies hl hd hr hp, fun e => RoundEntry.mem_sorted.trans (by simp),
      RoundEntry.sorted_pairwise List.Pairwise.nil⟩
  case acked =>
    intro h
    change execTrainAck serial s = _
    unfold execTrainAck
    rw [h]
  case refused =>
    intro q w h
    change execUalinkErrorResponse n s = _
    unfold execUalinkErrorResponse
    rw [h]
  case scrub =>
    rintro c rfl hc
    exact scrub_counts hc
  case sync =>
    intro h
    change Host.Outcome.next (s.syncTable.setGz _) = _
    unfold State.syncTable
    rw [if_pos (by simp [h])]

end Sys2Proof.Machine
end


section
/-! SUPPORT. What the host, the management target and the debug port get (00 R8; 04 R182; 06 R259; 15 R582, R598, R607). -/

set_option Elab.async false

namespace Sys2Proof.Machine

open Sys2Proof

section
variable {s : State} {v : Word} {id pa : Nat} {ok : Bool}

/-! What held inputs leave of the rings (14 R568..R570). -/

theorem replayInput_rings {i : ReplayInput} {t : State} (h : s.replayInput i = some t) : t.la.rings = s.la.rings := by
  unfold State.replayInput at h
  split at h
  · split at h
    · cases h
    · obtain rfl := Option.some.inj h
      exact congrArg LaunchSys.rings (recordOut_la ..)
  split at h
  · split at h
    · cases h
    split at h
    · obtain rfl := Option.some.inj h
      rfl
    split at h
    · obtain rfl := Option.some.inj h
      exact postEvent_rings ..
    · cases h
  · obtain rfl := Option.some.inj h
    rfl

theorem retryHeld_rings (l : List ReplayInput) (s : State) : (s.retryHeld l).la.rings = s.la.rings := by
  induction l generalizing s with
  | nil => rfl
  | cons i l ih =>
    unfold State.retryHeld
    split
    · exact ih s
    next t ht => exact (ih _).trans (show t.la.rings = _ from replayInput_rings ht)

theorem retryInputs_rings (s : State) : s.retryInputs.la.rings = s.la.rings := by
  unfold State.retryInputs
  generalize s.sv.held.length = n
  induction n generalizing s with
  | zero => rfl
  | succ n ih => exact (ih _).trans (retryHeld_rings ..)

/-! Completions of reads of host memory (04 R182). -/

theorem addReplied_rings : (s.addReplied id ok).la.rings = s.la.rings := by
  unfold State.addReplied
  split
  · rfl
  dsimp only
  split
  · exact postEvent_rings ..
  · rfl

theorem addReplied_nobody (h : ∀ l ∈ s.la.launches, ∀ r ∈ l.adds, r.id ≠ id) : s.addReplied id ok = s := by
  have nobody : (s.la.launches.find? fun l => l.adds.any fun r => r.id == id) = none :=
    List.find?_eq_none.2 fun l hl => by simpa using h l hl
  unfold State.addReplied
  rw [nobody]

theorem deliver_rings : (s.deliver id ok v).la.rings = s.la.rings := addReplied_rings

theorem deliver_sv_mem (h : ∀ l ∈ s.la.launches, ∀ r ∈ l.adds, r.id ≠ id) :
    (s.deliver id ok v).sv = s.sv ∧ (s.deliver id ok v).mem = s.mem := by
  unfold State.deliver
  dsimp only
  rw [addReplied_nobody]
  · exact ⟨rfl, rfl⟩
  · intro l hl
    obtain ⟨m, hm, rfl⟩ := List.mem_map.1 hl
    obtain ⟨k, hk, rfl⟩ := List.mem_map.1 hm
    exact h k hk

theorem logReplied_rings : (s.logReplied id ok v).la.rings = s.la.rings := by
  unfold State.logReplied
  split
  · exact retryInputs_rings _
  · rfl

/-- A ring whose reads have seen a completion. -/
def Ring.replied (id : Nat) (ok : Bool) (data : Word) (r : Ring) : Ring := { r with reads := replyTo id ok data r.reads }

theorem hostCpl_reaches (n : Nat) {r : PendRead} (hr : r ∈ (s.ring n).reads) (hi : r.id = id) (hn : r.reply = none) :
    ∃ t : State, Sys2Proof.Machine.exec (.hostCpl id ok v) s = .next t ∧
      { r with reply := some (ok, v) } ∈ (t.ring n).reads := by
  refine ⟨_, rfl, ?_⟩
  have rings : ∀ t : State, t.la.rings = s.la.rings.map (fun kv => (kv.1, kv.2.replied id ok v)) →
      { r with reply := some (ok, v) } ∈ (t.ring n).reads := fun t ht => by
    unfold State.ring Assoc.get at hr ⊢
    rw [ht, Assoc.get?_map (Ring.replied id ok v)]
    cases found : s.la.rings.get? n with
    | none =>
      rw [found] at hr
      cases hr
    | some g =>
      rw [found] at hr
      refine List.mem_map.2 ⟨r, hr, if_pos ?_⟩
      simp [hi, hn]
  refine rings _ (logReplied_rings.trans ?_)
  exact congrArg (List.map fun kv => (kv.1, kv.2.replied id ok v)) deliver_rings

theorem hostCpl_mem (ha : ∀ l ∈ s.la.launches, ∀ r ∈ l.adds, r.id ≠ id) (hl : ∀ r ∈ s.sv.logReads, r.id ≠ id) :
    ∃ t : State, Sys2Proof.Machine.exec (.hostCpl id ok v) s = .next t ∧ t.mem = s.mem := by
  refine ⟨_, rfl, ?_⟩
  obtain ⟨sv, mem⟩ := deliver_sv_mem (s := s) (ok := ok) (v := v) ha
  have nobody : ((s.deliver id ok v).sv.logReads.any fun r => r.id == id) = false :=
    List.any_eq_false.2 fun r hr => by simpa using hl r (sv ▸ hr)
  exact (congrArg State.mem (if_neg (Bool.eq_false_iff.1 nobody))).trans mem

/-! The management target and the debug port (15 R598, R607). -/

theorem i3cAnswer_addressed (h : s.dc.i3c.isSome) (b : List Byte) :
    s.i3cAnswer b = { s with portOut := s.portOut ++ [.i3c b] } := if_pos h

theorem i3cEntdaa_takes {addr : BitVec 7} (h : s.dc.i3c = none) :
    ∃ t : State, Sys2Proof.Machine.exec (.i3cEntdaa addr) s = .next t ∧ t.dc.i3c = some addr ∧ t.dc.ibi = false := by
  change ∃ t, execI3cEntdaa addr s = _ ∧ _
  unfold execI3cEntdaa
  rw [h]
  dsimp only [Option.isSome_none]
  rw [if_neg Bool.false_ne_true]
  refine ⟨_, rfl, ?_⟩
  split <;> exact ⟨rfl, rfl⟩

theorem i3cReaches_iff {off : Nat} : i3cReaches off = true ↔ (0xB000 ≤ off ∧ off < 0xB100) ∨ 0xC000 ≤ off := by
  simp [i3cReaches]

theorem i3cPrivate_reached {off : BitVec 16} (h : s.dc.i3c.isSome) (hr : i3cReaches off.toNat = true) :
    Sys2Proof.Machine.exec (.i3cPrivateWrite off v) s = .next (s.writeMmio .board off.toNat v) ∧
    Sys2Proof.Machine.exec (.i3cPrivateRead off) s =
      .next { s with portOut := s.portOut ++ [.i3c (leBytes 8 (s.readMmio off.toNat).toNat)] } :=
  ⟨congrArg Host.Outcome.next (if_pos (by simp [h, hr])), congrArg Host.Outcome.next ((if_pos hr).trans (i3cAnswer_addressed h _))⟩

theorem i3cPrivate_unreached {off : BitVec 16} (hr : i3cReaches off.toNat = false) :
    Sys2Proof.Machine.exec (.i3cPrivateWrite off v) s = .next { s with portOut := s.portOut ++ [.nack] } ∧
    Sys2Proof.Machine.exec (.i3cPrivateRead off) s = .next { s with portOut := s.portOut ++ [.nack] } :=
  ⟨congrArg Host.Outcome.next (if_neg (by simp [hr])), congrArg Host.Outcome.next (if_neg (by simp [hr]))⟩

theorem debugMemrd_reads (hp : s.dc.portPerm.getLsbD 1 = true) (ha : pa + 8 ≤ Config.deviceEnd)
    (h1 : s.mem.poisoned (pa / 64) = false) (h2 : s.mem.poisoned ((pa + 7) / 64) = false) :
    Sys2Proof.Machine.exec (.debugMemrd pa) s =
      .next { s with portOut := s.portOut ++ [.mem (BitVec.ofNat 64 (s.mem.homeRead pa 8))] } := by
  change execDebugMemrd pa s = _
  unfold execDebugMemrd
  rw [if_neg (by simpa [hp] using ha), if_neg (by simp [h1, h2])]
  rfl

theorem debugSvstop_arms (hp : s.dc.portPerm.getLsbD 3 = true) (ht : s.tick + 1000 ≤ v.toNat) (hs : s.sv.stopAt = none) :
    Sys2Proof.Machine.exec (.debugSvstop v) s =
      .next { s with sv := { s.sv with stopAt := some v }, portOut := s.portOut ++ [.stop 0] } := by
  have armed : s.armStop v = ({ s with sv := { s.sv with stopAt := some v } }, 0) := by
    unfold State.armStop
    rw [if_neg (by simp [hp]), if_neg (Nat.not_lt.2 ht), if_neg (by simp [hs])]
  change execDebugSvstop v s = _
  unfold execDebugSvstop
  rw [if_pos hp, armed]
  rfl

theorem debugPort_refuses (h : s.dc.portPerm = 0) :
    ∀ i ∈ [Instr.debugScan, .debugMemrd pa, .debugMemwr pa v, .debugSvstop v],
      Sys2Proof.Machine.exec i s = .next { s with portOut := s.portOut ++ [.refused] } := by
  simp only [List.forall_mem_cons]
  refine ⟨?_, ?_, ?_, ?_, List.forall_mem_nil _⟩
  · exact if_neg (by simp [h])
  · exact if_pos (by simp [h])
  · exact if_pos (by simp [h])
  · exact if_neg (by simp [h])

end

/-- Settles O59: each port's message leads to its answer; a completion finds its read whatever else it releases. -/
theorem portsAnswer : Obligations.PortsAnswer := by
  unfold Obligations.PortsAnswer
  intro s off v quad asid len id pa data addr ok answer inReach
  refine ⟨rfl, rfl, rfl, rfl, ⟨_, rfl, fun ha hl => ?mem, fun n r hr hi hn => ?read⟩, fun h => i3cEntdaa_takes h, rfl, ?target,
    fun hp hs => ⟨_, if_pos (by simp [hp, hs])⟩, fun hp ha h1 h2 => debugMemrd_reads hp ha h1 h2,
    fun hp ha => if_neg (by simpa [hp] using ha), fun hp ht hs => debugSvstop_arms hp ht hs, fun h => debugPort_refuses h⟩
  case mem =>
    obtain ⟨t, ht, mem⟩ := hostCpl_mem (s := s) (ok := ok) (v := v) ha hl
    exact (Host.Outcome.next.inj ht) ▸ mem
  case read =>
    obtain ⟨t, ht, reads⟩ := hostCpl_reaches (ok := ok) (v := v) n.val hr hi hn
    exact (Host.Outcome.next.inj ht) ▸ reads
  case target =>
    intro h
    refine ⟨congrArg Host.Outcome.next (i3cAnswer_addressed h _), congrArg Host.Outcome.next (i3cAnswer_addressed h _),
      congrArg Host.Outcome.next (i3cAnswer_addressed h _), ⟨_, ?_,
        congrArg Host.Outcome.next (i3cAnswer_addressed (s := { s with fresh := s.fresh + 1 }) h _)⟩,
      fun reach => i3cPrivate_reached h (i3cReaches_iff.2 reach), fun reach => i3cPrivate_unreached ?_⟩
    · rfl
    · exact Bool.eq_false_iff.2 fun r => reach (i3cReaches_iff.1 r)

end Sys2Proof.Machine
end


section
/-! SUPPORT. The spec's worked words (02 R72..R86; 12 R481). -/

set_option Elab.async false

namespace Sys2Proof.Machine

open Sys2Proof

/-- Settles O1: each word is decoded; 24 instructions, three legs and four reserved words. -/
theorem wordsOfTheSpecDecode : Obligations.WordsOfTheSpecDecode := by
  unfold Obligations.WordsOfTheSpecDecode
  simp only [List.forall_mem_cons, List.not_mem_nil, IsEmpty.forall_iff, implies_true, and_true]
  refine ⟨⟨?_, ?_, ?_, ?_, ?_, ?_, ?_, ?_, ?_, ?_, ?_, ?_, ?_, ?_, ?_, ?_, ?_, ?_, ?_, ?_, ?_, ?_, ?_, ?_, ?_⟩, ⟨?_, ?_, ?_⟩,
    ?_, ?_, ?_, ?_⟩
  all_goals rfl

end Sys2Proof.Machine
end


section
/-! SUPPORT. The machine after power-good reset and a hart at its start (04 R142, R150; 05 R190..R193; 06 R274; 15 R600). -/

set_option Elab.async false

namespace Sys2Proof.Machine

open Sys2Proof

theorem Stream.blank_getX (n : Fin 64) : Stream.blank.getX n = 0 := by
  unfold Stream.getX
  split
  · rfl
  · exact Vector.getElem_replicate ..

/-- The registers of a stream as it starts: the launch's argument in x1, the hart's stack in x63, zero elsewhere. -/
theorem startStream_getX (r : LaunchRec) (tvec : Word) (h : Nat) (isX live : Bool) (n : Fin 64) :
    (startStream r tvec h isX live).getX n =
      if n = 1 then r.arg else if n = 63 then r.stack + BitVec.ofNat 64 ((h + 1) * r.stride) else 0 := by
  unfold startStream
  dsimp only
  by_cases last : n = 63
  · rw [last, Stream.getX_setX_self _ _ (by decide)]
    rfl
  rw [Stream.getX_setX_ne _ _ last, if_neg last]
  by_cases first : n = 1
  · rw [first, Stream.getX_setX_self _ _ (by decide)]
    rfl
  · rw [Stream.getX_setX_ne _ _ first, if_neg first]
    exact Stream.blank_getX n

theorem readMmio_reset_ring (n : Fin 64) : State.reset.readMmio (0x40 * n.val) = 0 ∧
    State.reset.readMmio (0x40 * n.val + 8) = 0x10 ∧ State.reset.readMmio (0x40 * n.val + 0x10) = 0 ∧
    State.reset.readMmio (0x40 * n.val + 0x18) = 0 := by
  revert n
  decide +kernel

theorem readMmio_reset_budget (c : Fin 16) :
    (List.range 4).map (fun r => State.reset.readMmio (0x4600 + 0x20 * c.val + 8 * r)) = [2812, 84, 8789, 87] := by
  revert c
  decide +kernel

/-- Settles O6: the reset state's fields, and the fields of a hart that has not run. -/
theorem resetAndStart : Obligations.ResetAndStart := by
  unfold Obligations.ResetAndStart
  refine ⟨rfl, ⟨rfl, rfl, rfl, rfl, rfl, rfl, ⟨rfl, rfl, rfl, rfl, rfl, rfl, rfl⟩,
    ⟨rfl, rfl, rfl, rfl, rfl, rfl, Stream.blank_getX⟩, fun i => rfl, fun n => ⟨rfl, rfl⟩, readMmio_reset_ring,
    readMmio_reset_budget, rfl, rfl⟩, fun r serial tvec h isX => ?_⟩
  have regs := startStream_getX r tvec h isX true
  have preds : ∀ n : Fin 8, Stream.blank.getP n = decide (n = 0) := by decide
  cases isX with
  | false =>
    refine ⟨regs, preds, rfl, rfl, rfl, rfl, rfl, rfl, rfl, ?_, rfl, rfl, rfl, fun n => rfl, rfl, rfl, fun n => rfl, fun n => rfl,
      rfl, rfl, rfl, rfl, rfl, rfl, rfl, rfl⟩
    change (r.aent != 0 && true) = true ↔ _
    simp
  | true =>
    exact ⟨regs, preds, rfl, rfl, rfl, rfl, rfl, rfl, rfl, by simp [startHart, startStream, Hart.stream, Stream.setX], rfl, rfl, rfl,
      fun n => rfl, rfl, rfl, fun n => rfl, fun n => rfl, rfl, rfl, rfl, rfl, rfl, rfl, rfl, rfl⟩

end Sys2Proof.Machine
end


section
/-! SUPPORT. A step runs the decoded instruction (01 R32; 02 R64, R66, R70, R71; 08 R357; 12 R485). -/

set_option Elab.async false

namespace Sys2Proof.Machine

open Sys2Proof

section
variable {s u : State} {p : Party} {st : Stream}

/-! A stream's turn. -/

theorem goOn_issues (hf : st.faultWait = none) (hw : st.waiting = none) (hy : st.yielded = false)
    (hd : st.atBoundary = true → st.deferred = []) : goOn st s = fetchAndIssue s := by
  have owed : (if st.atBoundary = true then st.deferred else []) = [] := by
    split
    next h => exact hd h
    · rfl
  unfold goOn
  rw [hf, owed, hw, hy]
  rfl

theorem takeTurn_issues (hs : s.stream? s.cur = some st) (hl : st.live = true) (hf : st.faultWait = none)
    (hw : st.waiting = none) (hy : st.yielded = false) (hd : st.atBoundary = true → st.deferred = [])
    (hh : ∀ slot isX, s.cur = .stream slot isX → (s.hart slot).held ≠ some isX ∧ (s.hart slot).vfault = none) :
    takeTurn s = fetchAndIssue s := by
  unfold takeTurn
  rw [hs]
  dsimp only
  rw [if_neg (by simp [hl])]
  cases party : s.cur with
  | datum => exact goOn_issues hf hw hy hd
  | stream slot isX =>
    obtain ⟨held, fault⟩ := hh slot isX party
    dsimp only
    rw [if_neg held, fault]
    exact goOn_issues hf hw hy hd

/-- The state in which a stream's turn of the order is taken. -/
def State.turnOf (s : State) (p : Party) (rest : List Act) : State :=
  { s with order := rest ++ [.stream p], cur := p, reqs := [], lateTurn := false }

theorem runningTurn_order {a : Act} {rest : List Act} (ha : s.agenda = []) (ho : s.order = a :: rest) :
    runningTurn s = runAct a { s with order := rest ++ [a] } := by
  unfold runningTurn
  split
  next h => exact nomatch ha.symm.trans h
  next h =>
    obtain ⟨rfl, rfl⟩ := List.cons.inj (ho.symm.trans h)
    rfl
  next h => exact nomatch ho.symm.trans h

theorem runningTurn_agenda {a : Act} {rest : List Act} (ha : s.agenda = a :: rest) :
    runningTurn s = agendaTurn a { s with agenda := rest } := by
  unfold runningTurn
  split
  next h =>
    obtain ⟨rfl, rfl⟩ := List.cons.inj (ha.symm.trans h)
    rfl
  next h _ => exact nomatch ha.symm.trans h
  next h _ => exact nomatch ha.symm.trans h

theorem step_turn {rest : List Act} (hp : s.sv.stopped = false) (ha : s.agenda = []) (ho : s.order = .stream p :: rest)
    (hs : s.stream? p = some st) (hl : st.live = true) (hf : st.faultWait = none)
    (hw : st.waiting = none) (hy : st.yielded = false) (hd : st.atBoundary = true → st.deferred = [])
    (hh : ∀ slot isX, p = .stream slot isX → (s.hart slot).held ≠ some isX ∧ (s.hart slot).vfault = none) :
    step s = fetchAndIssue (s.turnOf p rest) := by
  unfold step
  rw [if_neg (by simp [hp]), runningTurn_order ha ho]
  exact takeTurn_issues (s := s.turnOf p rest) hs hl hf hw hy hd hh

/-! What stands at the pc: a slot alone, or a pair. -/

section
variable {n : Word} {l : Line} (hn : (s.stream s.cur).pc = n)
  (hl : lineHere n { s with issue := Issue.single n 0 0 } = .ok l u)
include hn hl

theorem fetchAndIssue_slot (hk : n.toNat % 5 < 4 → pairBit l (n.toNat % 5) = false) :
    fetchAndIssue s = issueSlot (slotWord l (n.toNat % 5))
      (if 0 < n.toNat % 5 ∧ pairBit l (n.toNat % 5 - 1) = true
        then Issue.rest n (slotWord l (n.toNat % 5)) (lastOf l) else Issue.single n (slotWord l (n.toNat % 5)) (lastOf l)) u := by
  unfold fetchAndIssue
  rw [hn]
  dsimp only
  rw [hl]
  dsimp only
  rw [if_neg (by simpa using hk)]
  by_cases rest : 0 < n.toNat % 5 ∧ pairBit l (n.toNat % 5 - 1) = true
  · rw [if_pos rest, if_pos (by simpa using rest)]
  · rw [if_neg rest, if_neg (by simpa using rest)]

theorem fetchAndIssue_pair (hk : n.toNat % 5 < 4) (hb : pairBit l (n.toNat % 5) = true) :
    fetchAndIssue s = issuePair n (slotWord l (n.toNat % 5)) (slotWord l (n.toNat % 5 + 1)) (lastOf l) u.inOrder := by
  unfold fetchAndIssue
  rw [hn]
  dsimp only
  rw [hl]
  dsimp only
  rw [if_pos (by simp [hk, hb])]

end

theorem issueSlot_some {w : Word96} {is : Issue} {i : Instr} (h : decode w = some i) :
    issueSlot w is s = Sys2Proof.Machine.exec i
      (if overtakes i = true then { s with issue := is } else ({ s with issue := is } : State).inOrder) := by
  unfold issueSlot
  rw [h]

theorem issueSlot_none {w : Word96} {is : Issue} (h : decode w = none) :
    issueSlot w is s = illegalWord { s with issue := is } := by
  unfold issueSlot
  rw [h]

/-! A pair (02 R70, R71). -/

section
variable {n : Word} {w1 w2 : Word96} {last : Nat} {i1 i2 : Instr}

theorem issuePair_issues (h1 : decode w1 = some i1) (h2 : decode w2 = some i2)
    (t1 : issueTrap { s with issue := Issue.single n w1 last } i1 = none)
    (t2 : issueTrap { s with issue := Issue.single n w2 last } i2 = none)
    (b1 : heldBack { s with issue := { Issue.single n w1 last with first := true } } i1 = false)
    (b2 : heldBack { s with issue := { Issue.single n w1 last with first := true } } i2 = false)
    (hq : firstBlocked (s.hart s.cur.slot) [] (guardedNeeds { s with issue := Issue.single n w1 last } i1 ++
      guardedNeeds { s with issue := Issue.single n w2 last } i2) = none) :
    issuePair n w1 w2 last s = if classOf (majorOf w1) = some .s then pairScalarFirst n i1 i2 w1 w2 last s
      else pairScalarSecond n i1 i2 w1 w2 last s := by
  unfold issuePair
  dsimp only
  rw [h1, h2]
  dsimp only
  rw [t1, t2, b1, b2, hq]
  rfl

theorem pairTrap_stands {vec : Bool} {t : State} (h : ∀ c, t.issue.trap = some c → sparesBoth n c = false) :
    pairTrap n vec s t = t := by
  unfold pairTrap
  split
  next c hc => rw [h c hc, if_neg Bool.false_ne_true]
  · rfl

theorem pairTrap_undone {vec : Bool} {t : State} {c : Nat × Word × Word} (hc : t.issue.trap = some c)
    (hs : sparesBoth n c = true) : pairTrap n vec s t = trapAt s vec c.1 c.2.1 := by
  unfold pairTrap
  rw [hc]
  exact if_pos hs

/-- The issue of a pair's first slot, and of its second. -/
def Issue.firstOf (n : Word) (w : Word96) (last : Nat) : Issue := ⟨n, w, last, true, false, n, false, none, .none, none⟩

def Issue.secondOf (n : Word) (w : Word96) (last : Nat) (jumped : Bool) (skip : Option Word) : Issue :=
  ⟨n + 1, w, last, false, true, n, jumped, skip, .none, none⟩

variable {s1 s2 : State} (e1 : Sys2Proof.Machine.exec i1 { s with issue := Issue.firstOf n w1 last } = .next s1)
  (hr : s1.issue.res = .retired)
include e1 hr

theorem pairScalarFirst_ends (e2 : Sys2Proof.Machine.exec i2
      { s1.setStream s.cur ((s1.stream s.cur).carry (s.stream s.cur)) with
        issue := Issue.secondOf n w2 last false s1.issue.skip } = .next s2) (hw : s2.issue.res ≠ .waits) :
    pairScalarFirst n i1 i2 w1 w2 last s = .next (pairTrap n (Instr.isVector i2) { s with issue := s1.issue } s2) := by
  unfold pairScalarFirst
  change andThen (Sys2Proof.Machine.exec i1 { s with issue := Issue.firstOf n w1 last }) _ = _
  rw [e1]
  dsimp only [andThen]
  rw [if_neg (not_not_intro hr)]
  change andThen (Sys2Proof.Machine.exec i2
      { s1.setStream s.cur ((s1.stream s.cur).carry (s.stream s.cur)) with
        issue := Issue.secondOf n w2 last false s1.issue.skip }) _ = _
  rw [e2]
  exact if_neg hw

theorem pairScalarSecond_ends (e2 : Sys2Proof.Machine.exec i2
      { s1.setStream s.cur { s1.stream s.cur with x := (s.stream s.cur).x, p := (s.stream s.cur).p } with
        issue := Issue.secondOf n w2 last s1.issue.jumped s1.issue.skip } = .next s2) :
    pairScalarSecond n i1 i2 w1 w2 last s = .next (pairTrap n (Instr.isVector i1) { s with issue := s1.issue }
      (s2.setStream s.cur (mergeRegs i2 (s1.stream s.cur) (s2.stream s.cur)))) := by
  unfold pairScalarSecond
  change andThen (Sys2Proof.Machine.exec i1 { s with issue := Issue.firstOf n w1 last }) _ = _
  rw [e1]
  dsimp only [andThen]
  rw [if_pos hr]
  change andThen (Sys2Proof.Machine.exec i2
      { s1.setStream s.cur { s1.stream s.cur with x := (s.stream s.cur).x, p := (s.stream s.cur).p } with
        issue := Issue.secondOf n w2 last s1.issue.jumped s1.issue.skip }) _ = _
  rw [e2]
  rfl

end

/-! Lines (02 R66; 08 R357). -/

theorem lineHere_held {n : Word} {l : Line} (h : (s.stream s.cur).lineAt (n.toNat / 5) = some l) :
    lineHere n s = .ok l (s.setStream s.cur ((s.stream s.cur).inLine (n.toNat / 5) l)) := by
  unfold lineHere
  rw [bind_ok (show curStream s = .ok (s.stream s.cur) s from rfl), h]
  rfl

theorem lineHere_fetched {n : Word} {l : Line} {t : State} (h : (s.stream s.cur).lineAt (n.toNat / 5) = none)
    (hf : fetchLine n s = .ok l t) : lineHere n s = .ok l (t.setStream t.cur ((t.stream t.cur).inLine (n.toNat / 5) l)) := by
  unfold lineHere
  rw [bind_ok (show curStream s = .ok (s.stream s.cur) s from rfl), h]
  dsimp only
  rw [bind_ok hf]
  rfl

/-- A line whose parity holds and that is legal is fetched as it stands. -/
theorem fetchLine_ok {n : Word} {l : Line} {t : State} (hr : fetchRaw n false s = .ok l t) (hp : parityOk l = true)
    (hl : lineLegal t.cur.isDatum l = true) : fetchLine n s = .ok l t := by
  unfold fetchLine
  rw [bind_ok hr]
  dsimp only
  rw [if_pos hp, bind_ok (show (pure l : M Line) t = .ok l t from rfl), if_neg (by simp [hp]), bind_ok (get_ok _)]
  exact congrFun (if_neg (by simp [hl])) t

theorem fetchRaw_datum {n : Word} (hc : s.cur = .datum) (h1 : 0x100000 ≤ lineAddr n) (h2 : lineAddr n + 64 ≤ 0x200000) :
    fetchRaw n false s = .ok (Line.ofBytes (s.dc.sram.bytes (lineAddr n - 0x100000) 64)) s := by
  unfold fetchRaw
  dsimp only
  rw [bind_ok (get_ok _), hc, datumAddr_sram h1 h2]
  rfl

theorem readCached_cur (s : State) (core : Nat) (hint : Fin 4) (sec : Nat) : (s.readCached core hint sec).2.2.cur = s.cur := by
  have line : (s.drainLine core sec).cur = s.cur := (drainSome_homeOnly s core _).cur
  have l2 : ∀ (t : State) quad last, (t.readL2 quad sec last).2.2.cur = t.cur := fun t quad last => by
    have home := (touchL2_homeOnly t (homeQuad (64 * sec)) (sec / 4) last).cur
    unfold State.readL2
    dsimp only
    split
    · exact home
    · have near := (touchL2_homeOnly (t.touchL2 (homeQuad (64 * sec)) (sec / 4) last) quad (sec / 4) last).cur.trans home
      split
      · exact near
      · exact near
  unfold State.readCached
  dsimp only
  split
  · exact line
  · split
    · exact (l2 ..).trans line
    · exact (l2 ..).trans line

theorem loadGate_free {c : Ctx} {va n : Nat} (hl : (s.hart s.cur.slot).sideLog = []) (ht : (s.hart s.cur.slot).trains = [])
    (hr : s.mem.rounds = []) : loadGate c va n s = .ok () s := by
  unfold loadGate
  rw [bind_ok (curHart_ok s)]
  have unlogged : (s.hart s.cur.slot).logged c.asid va n = false := by
    unfold Hart.logged
    rw [hl]
    rfl
  rw [unlogged, if_neg Bool.false_ne_true, ht]
  dsimp only [List.find?_nil]
  rw [bind_ok (get_ok _), hr]
  rfl

theorem translate_hit {c : Ctx} {va : Nat} {k : AKind} {f : Leaf} (hd : declinedAt s c va = none)
    (ht : s.mem.tlbHit c.tlbs c.asid va = some f) (ha : f.allows c.user k = true) : translate c va k s = .ok f s := by
  unfold translate
  rw [bind_ok (get_ok _), hd]
  dsimp only
  rw [ht]
  dsimp only
  rw [if_pos ha]
  rfl

theorem fetchRaw_hart {slot : Nat} {isX : Bool} {n : Word} {f : Leaf} (hc : s.cur = .stream slot isX)
    (hv : lineAddr n < 2 ^ 57) (hd : (s.stream s.cur).declined = none) (hl : (s.hart slot).sideLog = [])
    (ht : (s.hart slot).trains = []) (hr : s.mem.rounds = []) :
    let c := s.hartCtx s.cur 0 0
    let r := s.readCached c.core 0 (f.phys (lineAddr n) / 64)
    s.mem.tlbHit c.tlbs c.asid (lineAddr n) = some f → f.allows c.user .fetch = true → f.mt = 0 →
    budgetHeld s c f (lineAddr n) = false → r.2.1 = false → fetchRaw n false s = .ok r.1 r.2.2 := by
  intro c r hit allowed mt budget clean
  have hart : s.cur.isDatum = false := by rw [hc]; rfl
  have slotEq : s.cur.slot = slot := by rw [hc]; rfl
  have global : addrKind c.core (lineAddr n) = .global := if_pos (Nat.div_eq_of_lt hv)
  have free : declinedAt s c (lineAddr n) = none := by
    change ((s.stream s.cur).declined.filter _).map _ = none
    rw [hd]
    rfl
  unfold fetchRaw
  dsimp only
  rw [bind_ok (get_ok _), hart, if_neg Bool.false_ne_true, bind_ok (show hartCtx 0 0 s = .ok c s from rfl), global]
  dsimp only
  rw [bind_ok (loadGate_free (slotEq.symm ▸ hl) (slotEq.symm ▸ ht) hr), bind_ok (translate_hit free hit allowed)]
  have gate : budgetGate c f (lineAddr n) s = .ok () s := by
    unfold budgetGate
    rw [bind_ok (get_ok _), budget]
    rfl
  rw [bind_ok gate, if_pos mt, bind_ok (get_ok _)]
  change (if r.2.1 = true then trap causePoison (BitVec.ofNat 64 (lineAddr n)) else pure r.1 : M Line) r.2.2 = _
  rw [clean]
  rfl

end

/-- Settles O3: the turn leads to the slot or the pair at the pc, and each of the two to `exec` of what its word decodes to. -/
theorem stepRunsTheDecodedInstruction : Obligations.StepRunsTheDecodedInstruction := by
  unfold Obligations.StepRunsTheDecodedInstruction
  refine ⟨?stream, fun s n l => ⟨lineHere_held, fun t => lineHere_fetched⟩, ?channel, ?event, ?sram, ?hart⟩
  case stream =>
    intro s u p rest st l hp ha ho hs hl hf hw hy hd hh turn n k line w1 w2
    have start : step s = fetchAndIssue turn := step_turn hp ha ho hs hl hf hw hy hd hh
    have pc : (turn.stream turn.cur).pc = n := congrArg (Stream.pc ∘ (Option.getD · Stream.blank)) hs
    refine ⟨?slot, ?pair⟩
    case slot =>
      intro single one
      rw [start, fetchAndIssue_slot pc line single]
      refine ⟨fun i hi => issueSlot_some hi, fun hi => (issueSlot_none hi).trans ?_⟩
      have raw : one.issue.raw = w1 := by
        dsimp only [one]
        split <;> rfl
      change illegalWord one = _
      unfold illegalWord
      rw [raw]
    case pair =>
      intro hk hb i1 i2 h1 h2 v one two unit t1 t2 b1 b2 hq second s1 s2 e1 hr ends
      have pair := start.trans ((fetchAndIssue_pair pc line hk hb).trans (issuePair_issues (s := v) h1 h2 t1 t2 b1 b2 hq))
      refine ⟨?first, ?second⟩
      case first =>
        intro hc e2 hw
        rw [if_pos hc, pairScalarFirst_ends e1 hr e2 hw] at pair
        refine ⟨fun h => ?_, fun c hc hs => ?_⟩
        · rw [pair, pairTrap_stands h]
        · rw [pair, pairTrap_undone hc hs]
      case second =>
        intro hc before e2
        rw [if_neg hc, pairScalarSecond_ends e1 hr e2] at pair
        refine ⟨fun h => ?_, fun c hc hs => ?_⟩
        · rw [pair, pairTrap_stands fun c hc => h c (by simpa using hc)]
        · rw [pair, pairTrap_undone (by simpa using hc) hs]
  case channel =>
    intro s quad ch rest e w i hp ha ho turn he hstop hfault hw hi
    unfold step
    rw [if_neg (by simp [hp]), runningTurn_order ha ho]
    change channelTurn turn = _
    unfold channelTurn
    rw [he]
    dsimp only
    rw [hstop, hfault]
    dsimp only [Option.isSome_none]
    rw [if_neg Bool.false_ne_true, hw]
    dsimp only
    rw [hi]
  case event =>
    intro s i rest hp ha hi
    unfold step
    rw [if_neg (by simp [hp]), runningTurn_agenda ha]
    exact if_pos hi
  case sram =>
    intro s n hc h1 h2 l hp hl
    exact fetchLine_ok (fetchRaw_datum hc h1 h2) hp (by rw [hc]; exact hl)
  case hart =>
    intro s slot isX n f hc hv c r hd hl ht hr hit ha hm hb hpo hp hlegal
    refine fetchLine_ok (fetchRaw_hart hc hv hd hl ht hr hit ha hm hb hpo) hp ?_
    have cur : r.2.2.cur = s.cur := readCached_cur ..
    rw [cur, hc]
    exact hlegal

end Sys2Proof.Machine
end

section
/-! SUPPORT. What every function of the model keeps: device memory in its canonical form, the meridian counter, the party
that acts. A lemma `f_keeps` says it of the function `f`; its proof follows the definition of `f`. -/

set_option Elab.async false

namespace Sys2Proof.Machine

open Sys2Proof

/-! What is kept, by a state, by a meaning and by an outcome. -/

/-- What stands in a state as it did in an origin: device memory canonical if it was, the counter, the party that acts. -/
structure Keeps (o s : State) : Prop where
  canonical : Memory.wf o.mem.hbm = true → Memory.wf s.mem.hbm = true
  mtick : s.sv.mtick = o.sv.mtick
  cur : s.cur = o.cur

/-- A meaning leaves, well or not, a state that keeps what its own start has kept. -/
def Holds {α : Type} (o : State) (x : M α) : Prop := ∀ s, Keeps o s → Keeps o (stateOf (x s))

/-- The next state of an outcome, if there is one, keeps what the origin has. -/
def Goes (o : State) (r : Host.Outcome State Fault Refusal) : Prop := ∀ t, r = .next t → Keeps o t

variable {o s t : State} {α β : Type}

theorem Keeps.refl (s : State) : Keeps s s := ⟨id, rfl, rfl⟩

/-- A change of parts that are not kept. -/
theorem Keeps.upd (h : Keeps o s) (hm : t.mem.hbm = s.mem.hbm) (ht : t.sv.mtick = s.sv.mtick) (hc : t.cur = s.cur) :
    Keeps o t :=
  ⟨fun hw => hm ▸ h.canonical hw, ht.trans h.mtick, hc.trans h.cur⟩

/-- A change of parts that are not kept, over the state whose party stands. -/
theorem Keeps.put {agenda order engineAt curChan issue reqs fresh late lateTurn nextId harts cores} {mem : MemSys}
    {la ov arrays tv gz} {sv : SvSys} {dc hostOut linkOut portOut nextTrain} (h : Keeps o s) (hm : mem.hbm = s.mem.hbm)
    (ht : sv.mtick = s.sv.mtick) :
    Keeps o { agenda, order, engineAt, cur := s.cur, curChan, issue, reqs, fresh, late, lateTurn, nextId, harts, cores, mem, la
              ov, arrays, tv, gz, sv, dc, hostOut, linkOut, portOut, nextTrain } :=
  h.upd hm ht rfl

theorem Keeps.setMem {m : MemSys} (h : Keeps o s) (hm : m.hbm = s.mem.hbm) : Keeps o (s.setMem m) := h.upd hm rfl rfl

theorem Keeps.ite {c : Prop} [Decidable c] (hs : Keeps o s) (ht : Keeps o t) : Keeps o (if c then s else t) :=
  iteInduction (fun _ => hs) fun _ => ht

theorem Keeps.dite {c : Prop} [Decidable c] {f : c → State} {g : ¬c → State} (hf : ∀ h, Keeps o (f h))
    (hg : ∀ h, Keeps o (g h)) : Keeps o (if h : c then f h else g h) := by
  split
  · exact hf _
  · exact hg _

theorem Keeps.ite_fst {c : Prop} [Decidable c] {p q : State × α} (hp : Keeps o p.1) (hq : Keeps o q.1) :
    Keeps o (if c then p else q).1 :=
  iteInduction (motive := fun r : State × α => Keeps o r.1) (fun _ => hp) fun _ => hq

theorem Keeps.ite_snd {c : Prop} [Decidable c] {p q : α × State} (hp : Keeps o p.2) (hq : Keeps o q.2) :
    Keeps o (if c then p else q).2 :=
  iteInduction (motive := fun r : α × State => Keeps o r.2) (fun _ => hp) fun _ => hq

theorem Keeps.ite_snd_snd {c : Prop} [Decidable c] {p q : α × β × State} (hp : Keeps o p.2.2) (hq : Keeps o q.2.2) :
    Keeps o (if c then p else q).2.2 :=
  iteInduction (motive := fun r : α × β × State => Keeps o r.2.2) (fun _ => hp) fun _ => hq

theorem Keeps.foldl {f : State → α → State} {l : List α} (hs : Keeps o s) (hf : ∀ t a, Keeps o t → Keeps o (f t a)) :
    Keeps o (l.foldl f s) := by
  induction l generalizing s with
  | nil => exact hs
  | cons a l ih => exact ih (hf s a hs)

theorem Keeps.foldl_fst {f : State × β → α → State × β} {l : List α} {p : State × β} (hp : Keeps o p.1)
    (hf : ∀ q a, Keeps o q.1 → Keeps o (f q a).1) : Keeps o (l.foldl f p).1 := by
  induction l generalizing p with
  | nil => exact hp
  | cons a l ih => exact ih (hf p a hp)

theorem Keeps.foldl_snd {f : β × State → α → β × State} {l : List α} {p : β × State} (hp : Keeps o p.2)
    (hf : ∀ q a, Keeps o q.2 → Keeps o (f q a).2) : Keeps o (l.foldl f p).2 := by
  induction l generalizing p with
  | nil => exact hp
  | cons a l ih => exact ih (hf p a hp)

theorem Holds.ok {x : M α} {a : α} (hx : Holds o x) (hs : Keeps o s) (h : x s = .ok a t) : Keeps o t := by
  have ht := hx s hs
  rwa [h] at ht

theorem Holds.error {x : M α} {e : Exc} (hx : Holds o x) (hs : Keeps o s) (h : x s = .error e t) : Keeps o t := by
  have ht := hx s hs
  rwa [h] at ht

theorem Holds.pure (a : α) : Holds o (Pure.pure a : M α) := fun _ hs => hs

theorem Holds.throw (e : Exc) : Holds o (throw e : M α) := fun _ hs => hs

theorem Holds.get : Holds o (MonadState.get : M State) := fun _ hs => hs

theorem Holds.set (ht : Keeps o t) : Holds o (set t : M Unit) := fun _ _ => ht

theorem Holds.modify {f : State → State} (hf : ∀ s, Keeps o s → Keeps o (f s)) : Holds o (modify f : M Unit) := hf

theorem Holds.bind {x : M α} {f : α → M β} (hx : Holds o x) (hf : ∀ a, Holds o (f a)) : Holds o (x >>= f) := by
  intro s hs
  have ht := hx s hs
  cases h : x s with
  | ok a t =>
    rw [h] at ht
    rw [show (x >>= f) s = f a t from bind_ok h]
    exact hf a t ht
  | error e t =>
    rw [h] at ht
    rw [show (x >>= f) s = .error e t from bind_error h]
    exact ht

theorem Holds.get_bind {f : State → M β} (hf : ∀ s, Keeps o s → Holds o (f s)) : Holds o (MonadState.get >>= f) :=
  fun s hs => hf s hs s hs

theorem Holds.map {x : M α} (f : α → β) (hx : Holds o x) : Holds o (f <$> x) := .bind hx fun _ => .pure _

theorem Holds.tryCatch {x : M α} {f : Exc → M α} (hx : Holds o x) (hf : ∀ e, Holds o (f e)) :
    Holds o (tryCatch x f) := by
  intro s hs
  have ht := hx s hs
  change Keeps o (stateOf (EStateM.tryCatch x f s))
  unfold EStateM.tryCatch
  cases h : x s with
  | ok a t => rwa [h] at ht
  | error e t =>
    rw [h] at ht
    exact hf e t ht

theorem Holds.ite {c : Prop} [Decidable c] {x y : M α} (hx : Holds o x) (hy : Holds o y) : Holds o (if c then x else y) :=
  iteInduction (fun _ => hx) fun _ => hy

/-- Under a condition something comes first. -/
theorem Holds.when {c : Prop} [Decidable c] {x : M β} {y : M α} (hx : Holds o x) (hy : Holds o y) :
    Holds o (if c then x >>= fun _ => y else y) :=
  .ite (.bind hx fun _ => hy) hy

/-- Two ways to a value that one rest goes on with. -/
theorem Holds.ite_bind {c : Prop} [Decidable c] {x y : M β} {f : β → M α} (hx : Holds o x) (hy : Holds o y)
    (hf : ∀ a, Holds o (f a)) : Holds o (if c then x >>= f else y >>= f) :=
  .ite (.bind hx hf) (.bind hy hf)

theorem Holds.forM {l : List α} {f : α → M PUnit} (hf : ∀ a, Holds o (f a)) : Holds o (l.forM f) := by
  induction l with
  | nil => exact .pure _
  | cons a l ih => exact .bind (hf a) fun _ => ih

theorem Holds.filterM {l : List α} {f : α → M Bool} (hf : ∀ a, Holds o (f a)) : Holds o (l.filterM f) := by
  have haux : ∀ acc : List α, Holds o (l.filterAuxM f acc) := by
    induction l with
    | nil => exact fun _ => .pure _
    | cons a l ih => exact fun _ => .bind (hf a) fun _ => ih _
  exact .bind (haux []) fun _ => .pure _

theorem Holds.dite {c : Prop} [Decidable c] {x : c → M α} {y : ¬c → M α} (hx : ∀ h, Holds o (x h)) (hy : ∀ h, Holds o (y h)) :
    Holds o (if h : c then x h else y h) := by
  split
  · exact hx _
  · exact hy _

theorem Goes.next (hs : Keeps o s) : Goes o (.next s) := by
  intro t ht
  cases ht
  exact hs

theorem Goes.fault (e : Fault) : Goes o (.fault e) := fun _ h => nomatch h

theorem Goes.refused (e : Refusal) : Goes o (.refused e) := fun _ h => nomatch h

theorem Goes.ite {c : Prop} [Decidable c] {x y : Host.Outcome State Fault Refusal} (hx : Goes o x) (hy : Goes o y) :
    Goes o (if c then x else y) :=
  iteInduction (fun _ => hx) fun _ => hy

/-- Device memory is in its canonical form. -/
def Canonical (s : State) : Prop := Memory.wf s.mem.hbm = true

/-- The next state of an outcome, if there is one, has device memory in its canonical form. -/
def Ends (r : Host.Outcome State Fault Refusal) : Prop := ∀ t, r = .next t → Canonical t

theorem Goes.ends {r : Host.Outcome State Fault Refusal} (hr : Goes o r) (ho : Canonical o) : Ends r :=
  fun t ht => (hr t ht).canonical ho

/-! The memory engine's own functions: only a write-back reaches a stack (06 R248). -/

theorem MemSys.writeBack_canonical {m : MemSys} (sec : Nat) (h : Memory.wf m.hbm = true) :
    Memory.wf (m.writeBack sec).hbm = true := by
  unfold MemSys.writeBack
  split
  · exact h
  · exact Memory.wf_setBytes _ _ _ h

theorem MemSys.writeBacks_canonical {m : MemSys} (l : List Nat) (h : Memory.wf m.hbm = true) :
    Memory.wf (l.foldl MemSys.writeBack m).hbm = true := by
  induction l generalizing m with
  | nil => exact h
  | cons sec l ih => exact ih (m.writeBack_canonical sec h)

@[simp] theorem MemSys.dropStale_hbm (m : MemSys) : m.dropStale.hbm = m.hbm := rfl

@[simp] theorem MemSys.invalidate_hbm (m : MemSys) (hit : Leaf → Bool) : (m.invalidate hit).hbm = m.hbm := rfl

@[simp] theorem MemSys.setBudget_hbm (m : MemSys) (cls res : Nat) (v : Word) : (m.setBudget cls res v).hbm = m.hbm := rfl

@[simp] theorem MemSys.tlbicmd_hbm (m : MemSys) (cmd : Option (BitVec 16)) : (m.tlbicmd cmd).hbm = m.hbm := rfl

@[simp] theorem MemSys.forget_hbm (m : MemSys) (slots : List Nat) : (m.forget slots).hbm = m.hbm := rfl

@[simp] theorem MemSys.setPoison_hbm (m : MemSys) (sec : Nat) (b : Bool) : (m.setPoison sec b).hbm = m.hbm := by
  unfold MemSys.setPoison
  split <;> rfl

@[simp] theorem MemSys.poisonRange_hbm (m : MemSys) (lo hi : Nat) : (m.poisonRange lo hi).hbm = m.hbm :=
  ite_keeps MemSys.hbm rfl rfl

@[simp] theorem MemSys.homeStore_hbm (m : MemSys) (isSealed : Nat → Bool) (tick : Nat) (quad : Option Nat) (through : Bool)
    (orders : List (Nat × Nat)) (sec : Nat) (mask : BitVec 64) (data : Line) :
    (m.homeStore isSealed tick quad through orders sec mask data).hbm = m.hbm :=
  ite_keeps MemSys.hbm rfl rfl

@[simp] theorem MemSys.homeWriteBytes_hbm (m : MemSys) (isSealed : Nat → Bool) (tick pa : Nat) (bs : List Byte) :
    (m.homeWriteBytes isSealed tick pa bs).hbm = m.hbm :=
  foldl_keeps MemSys.hbm (fun m _ => ite_keeps MemSys.hbm rfl (m.homeStore_hbm ..)) _ _

/-- A sector goes back to its stack: what stands there stays canonical (06 R248). -/
theorem Keeps.writeBack {sec : Nat} (h : Keeps o s) : Keeps o (s.setMem (s.mem.writeBack sec)) :=
  ⟨fun hw => MemSys.writeBack_canonical sec (h.canonical hw), h.mtick, h.cur⟩

end Sys2Proof.Machine
end

section
/-! SUPPORT. What memory accesses, operands and the issue of an instruction keep (02 R61..R87; 05 R229..R232; 06 R245..R263). -/

set_option Elab.async false

namespace Sys2Proof.Machine

open Sys2Proof

variable {o : State}

/-! Harts, streams, cores, launches; device memory with its caches; events and traps. -/

theorem State.setHart_keeps {s slot h} (hs : Keeps o s) : Keeps o (s.setHart slot h) :=
  .put hs rfl rfl

theorem State.setStream_keeps {s p st} (hs : Keeps o s) : Keeps o (s.setStream p st) := by
  unfold State.setStream
  dsimp only
  split
  · exact .put hs rfl rfl
  · exact State.setHart_keeps hs

theorem State.setCore_keeps {s c k} (hs : Keeps o s) : Keeps o (s.setCore c k) :=
  .put hs rfl rfl

theorem State.setLaunch_keeps {s l} (hs : Keeps o s) : Keeps o (s.setLaunch l) :=
  .put hs rfl rfl

theorem State.updLaunch_keeps {s serial f} (hs : Keeps o s) : Keeps o (s.updLaunch serial f) := by
  unfold State.updLaunch
  split
  · exact State.setLaunch_keeps hs
  · exact hs

theorem State.setArray_keeps {s a m} (hs : Keeps o s) : Keeps o (s.setArray a m) :=
  .put hs rfl rfl

theorem State.updCard_keeps {s serial seq f} (hs : Keeps o s) : Keeps o (s.updCard serial seq f) :=
  .put hs rfl rfl

theorem State.setLa_keeps {s m} (hs : Keeps o s) : Keeps o (s.setLa m) :=
  .put hs rfl rfl

theorem State.draw_keeps {s} (hs : Keeps o s) : Keeps o s.draw.2 :=
  .put hs rfl rfl

theorem State.evictL2_keeps {s quad line} (hs : Keeps o s) : Keeps o (s.evictL2 quad line) :=
  ⟨fun h => iteInduction (motive := fun m : MemSys => Memory.wf m.hbm = true)
    (fun _ => MemSys.writeBacks_canonical (l2Sectors line) (hs.canonical h)) fun _ => hs.canonical h, hs.mtick, hs.cur⟩

theorem State.touchL2_keeps {s quad line last} (hs : Keeps o s) : Keeps o (s.touchL2 quad line last) := by
  unfold State.touchL2
  dsimp only
  exact .put
      (by
         split
         · exact State.evictL2_keeps hs
         · exact hs)
       rfl rfl

theorem State.dropRows_keeps {s pa n} (hs : Keeps o s) : Keeps o (s.dropRows pa n) :=
  .put hs rfl rfl

theorem State.wakeLine_keeps {s lineKey} (hs : Keeps o s) : Keeps o (s.wakeLine lineKey) :=
  .put hs rfl rfl

theorem State.homeWriteBytes_keeps {s pa bs} (hs : Keeps o s) : Keeps o (s.homeWriteBytes pa bs) := by
  unfold State.homeWriteBytes
  exact .foldl (.put (.foldl (State.dropRows_keeps hs) fun _ _ ht => State.touchL2_keeps ht) (by simp) rfl)
      fun _ _ ht => State.wakeLine_keeps ht

theorem State.hostWrite_keeps {s pa bs} (hs : Keeps o s) : Keeps o (s.hostWrite pa bs) :=
  .foldl (.put hs rfl rfl) fun _ _ ht => State.wakeLine_keeps ht

theorem State.recordOut_keeps {s host addr bs} (hs : Keeps o s) : Keeps o (s.recordOut host addr bs) :=
  .ite (State.hostWrite_keeps hs) (State.homeWriteBytes_keeps hs)

theorem State.noteWrite_keeps {s serial va pa} (hs : Keeps o s) : Keeps o (s.noteWrite serial va pa) := by
  unfold State.noteWrite
  dsimp only
  split
  · exact hs
  · split
    · exact hs
    · exact .ite hs (.ite (State.setLaunch_keeps hs) (State.setLaunch_keeps (State.homeWriteBytes_keeps hs)))

theorem State.homePerform_keeps {s quad through orders sec mask data} (hs : Keeps o s) :
    Keeps o (s.homePerform quad through orders sec mask data) := by
  unfold State.homePerform
  exact State.wakeLine_keeps (.setMem (State.touchL2_keeps (State.dropRows_keeps hs)) (by simp))

theorem State.homeStore_keeps {s quad serial va pa mask data} (hs : Keeps o s) :
    Keeps o (s.homeStore quad serial va pa mask data) :=
  State.noteWrite_keeps (State.homePerform_keeps hs)

theorem State.homeThrough_keeps {s quad serial va pa mask data} (hs : Keeps o s) :
    Keeps o (s.homeThrough quad serial va pa mask data) :=
  State.noteWrite_keeps (State.homePerform_keeps hs)

theorem State.homeWrite_keeps {s quad serial va pa n v} (hs : Keeps o s) :
    Keeps o (s.homeWrite quad serial va pa n v) :=
  State.homeStore_keeps hs

theorem State.drainEntry_keeps {s core e} (hs : Keeps o s) : Keeps o (s.drainEntry core e) := by
  unfold State.drainEntry
  exact .foldl (State.homePerform_keeps hs) fun _ _ ht => State.noteWrite_keeps ht

theorem State.drainSome_keeps {s core n} (hs : Keeps o s) : Keeps o (s.drainSome core n) := by
  unfold State.drainSome
  exact .foldl (State.setCore_keeps hs) fun _ _ ht => State.drainEntry_keeps ht

theorem State.drainCore_keeps {s core} (hs : Keeps o s) : Keeps o (s.drainCore core) :=
  State.drainSome_keeps hs

theorem State.drainLine_keeps {s core line} (hs : Keeps o s) : Keeps o (s.drainLine core line) :=
  State.drainSome_keeps hs

theorem State.wcbStore_keeps {s core part pa n v} (hs : Keeps o s) : Keeps o (s.wcbStore core part pa n v) := by
  unfold State.wcbStore
  exact State.setCore_keeps (State.drainSome_keeps hs)

theorem State.lateStore_keeps {s l} (hs : Keeps o s) : Keeps o (s.lateStore l) :=
  State.wcbStore_keeps hs

theorem State.performLate_keeps {s f} (hs : Keeps o s) : Keeps o (s.performLate f) :=
  .foldl (.put hs rfl rfl) fun _ _ ht => State.lateStore_keeps ht

theorem State.allPerformed_keeps {s} (hs : Keeps o s) : Keeps o s.allPerformed :=
  .ite hs (State.performLate_keeps hs)

theorem State.inOrder_keeps {s} (hs : Keeps o s) : Keeps o s.inOrder := by
  unfold State.inOrder
  exact .ite (.put hs rfl rfl) (.put (State.performLate_keeps hs) rfl rfl)

theorem State.clearL1_keeps {s core} (hs : Keeps o s) : Keeps o (s.clearL1 core) :=
  State.setCore_keeps hs

theorem State.readL2_keeps {s quad sec last} (hs : Keeps o s) : Keeps o (((s.readL2 quad sec last).2).2) := by
  unfold State.readL2
  dsimp only
  exact .ite_snd_snd (State.touchL2_keeps hs)
      (by
         split
         · exact State.touchL2_keeps (State.touchL2_keeps hs)
         · exact .setMem (State.touchL2_keeps (State.touchL2_keeps hs)) rfl)

theorem State.readCached_keeps {s core hint sec} (hs : Keeps o s) :
    Keeps o (((s.readCached core hint sec).2).2) := by
  unfold State.readCached
  dsimp only
  split
  · exact State.setCore_keeps (State.drainLine_keeps hs)
  · exact .ite_snd_snd (State.readL2_keeps (State.drainLine_keeps hs))
        (State.setCore_keeps (State.readL2_keeps (State.drainLine_keeps hs)))

theorem State.dropL1_keeps {s core key} (hs : Keeps o s) : Keeps o (s.dropL1 core key) :=
  State.setCore_keeps hs

theorem State.dropNear_keeps {s core sec} (hs : Keeps o s) : Keeps o (s.dropNear core sec) := by
  unfold State.dropNear
  exact State.dropL1_keeps (.setMem hs rfl)

theorem State.postEvent_keeps {s q src code detail serial data} (hs : Keeps o s) :
    Keeps o (s.postEvent q src code detail serial data) := by
  unfold State.postEvent
  exact .ite (State.setLa_keeps hs)
      (.put (.setMem (State.recordOut_keeps (.setMem (State.setLa_keeps hs) (by simp))) (by simp)) rfl rfl)

theorem State.postLaunch_keeps {s l code detail data} (hs : Keeps o s) :
    Keeps o (s.postLaunch l code detail data) :=
  State.postEvent_keeps hs

theorem State.postFault_keeps {s quad code detail serial data} (hs : Keeps o s) :
    Keeps o (s.postFault quad code detail serial data) :=
  State.postEvent_keeps hs

theorem State.cancel_keeps {s serial} (hs : Keeps o s) : Keeps o (s.cancel serial) := by
  unfold State.cancel
  exact .put (State.updLaunch_keeps (.put hs rfl rfl)) rfl rfl

theorem State.trapStop_keeps {s p cause tval tpc} (hs : Keeps o s) : Keeps o (s.trapStop p cause tval tpc) := by
  unfold State.trapStop
  dsimp only
  split
  · exact State.postEvent_keeps (State.setStream_keeps hs)
  · split
    · exact State.postLaunch_keeps (State.cancel_keeps hs)
    · exact hs

theorem State.holdPartner_keeps {s p} (hs : Keeps o s) : Keeps o (s.holdPartner p) := by
  unfold State.holdPartner
  dsimp only
  split
  · exact hs
  · exact .ite (State.setHart_keeps hs) (State.setHart_keeps hs)

theorem State.enterTrap_keeps {s p cause tval tpc telem tlane} (hs : Keeps o s) :
    Keeps o (s.enterTrap p cause tval tpc telem tlane) := by
  unfold State.enterTrap
  exact .ite (State.trapStop_keeps hs) (State.setStream_keeps (State.holdPartner_keeps hs))

theorem State.leaveTrap_keeps {s p} (hs : Keeps o s) : Keeps o (s.leaveTrap p) := by
  unfold State.leaveTrap
  dsimp only
  split
  · exact State.setStream_keeps hs
  · exact .ite (State.setHart_keeps (State.setStream_keeps hs)) (State.setStream_keeps hs)

theorem trap_keeps {cause tval} : Holds o (trap (α := α) cause tval) :=
  .throw _

theorem waitHere_keeps : Holds o (waitHere (α := α)) :=
  .throw _

theorem curStream_keeps : Holds o curStream :=
  .get_bind fun _ _ => .get_bind fun _ _ => .pure _

theorem modStream_keeps {f} : Holds o (modStream f) :=
  .modify fun _ hs => State.setStream_keeps hs

theorem curHart_keeps : Holds o curHart :=
  .get_bind fun _ _ => .get_bind fun _ _ => .pure _

theorem modHart_keeps {f} : Holds o (modHart f) :=
  .modify fun _ hs => State.setHart_keeps hs

theorem curSlot_keeps : Holds o curSlot :=
  .get_bind fun _ _ => .pure _

theorem curCore_keeps : Holds o curCore :=
  .get_bind fun _ _ => .pure _

theorem curLaunch?_keeps : Holds o curLaunch? :=
  .get_bind fun _ _ => .get_bind fun _ _ => .pure _

theorem trapIll_keeps : Holds o (trapIll (α := α)) :=
  .get_bind fun _ _ => trap_keeps

theorem needUnit_keeps {bit} : Holds o (needUnit bit) :=
  .get_bind fun _ _ => .ite (.pure _) waitHere_keeps

theorem forM'_keeps {α : Type} {l : List α} {f : α → M Unit} (hf : ∀ a, Holds o (f a)) : Holds o (forM' l f) := by
  induction l with
  | nil => exact .pure _
  | cons a l ih => exact .bind (hf a) fun _ => ih

theorem mapM'_keeps {α β : Type} {l : List α} {f : α → M β} (hf : ∀ a, Holds o (f a)) : Holds o (mapM' l f) := by
  induction l with
  | nil => exact .pure _
  | cons a l ih => exact .bind (hf a) fun _ => .bind ih fun _ => .pure _

/-! What the survey engine writes of its own accord. -/

theorem State.traceAt_keeps {s tick q core kind hart isX code n payload} (hs : Keeps o s) :
    Keeps o (s.traceAt tick q core kind hart isX code n payload) := by
  unfold State.traceAt
  exact .ite hs (.ite (.put hs rfl rfl) (State.recordOut_keeps (.put hs rfl rfl)))

theorem State.traceRecord_keeps {s q core kind hart isX code n payload} (hs : Keeps o s) :
    Keeps o (s.traceRecord q core kind hart isX code n payload) :=
  State.traceAt_keeps hs

theorem State.tracePackage_keeps {s kind code payload} (hs : Keeps o s) :
    Keeps o (s.tracePackage kind code payload) :=
  State.traceRecord_keeps hs

theorem State.postCollector_keeps {s code detail data} (hs : Keeps o s) :
    Keeps o (s.postCollector code detail data) :=
  State.postEvent_keeps hs

theorem State.requestLog_keeps {s} (hs : Keeps o s) : Keeps o s.requestLog := by
  unfold State.requestLog
  exact .ite hs (.put hs rfl rfl)

theorem State.replayDiverge_keeps {s n} (hs : Keeps o s) : Keeps o (s.replayDiverge n) := by
  unfold State.replayDiverge
  exact .put (State.postEvent_keeps hs) rfl rfl

theorem State.replayInput_keeps {s i} (hs : Keeps o s) : ∀ t, s.replayInput i = some t → Keeps o t := by
  have htold : ∀ {s : State} {n}, Keeps o s → ∀ {r : ReplayInput} t,
      (if r == i then some { s with sv := s.sv.eat n }
        else if listedGone r i then some (s.replayDiverge n) else none) = some t → Keeps o t := by
    intro s n hs r t ht
    split at ht
    · cases ht
      exact .put hs rfl rfl
    · split at ht
      · cases ht
        exact State.replayDiverge_keeps hs
      · exact nomatch ht
  intro t ht
  unfold State.replayInput at ht
  split at ht
  · split at ht
    · exact nomatch ht
    · cases ht
      exact State.recordOut_keeps (.put hs rfl rfl)
  · split at ht
    · split at ht
      · exact nomatch ht
      · exact htold hs t ht
    · cases ht
      exact hs

theorem State.retryHeld_keeps {s l} (hs : Keeps o s) : Keeps o (s.retryHeld l) := by
  induction l generalizing s with
  | nil => exact hs
  | cons i r ih =>
    unfold State.retryHeld
    split
    · exact ih hs
    · next t ht => exact ih (.put (State.replayInput_keeps hs t ht) rfl rfl)

theorem State.releaseHeld_keeps {n s} (hs : Keeps o s) : Keeps o (State.releaseHeld n s) := by
  induction n generalizing s with
  | zero => exact hs
  | succ n ih => exact ih (State.retryHeld_keeps hs)

theorem State.retryInputs_keeps {s} (hs : Keeps o s) : Keeps o s.retryInputs :=
  State.releaseHeld_keeps hs

theorem replayFrom_keeps {p asid line} : Holds o (replayFrom p asid line) := by
  unfold replayFrom
  dsimp only
  exact .get_bind fun _ hs =>
    .ite (.pure _)
      (by
         split
         · exact waitHere_keeps
         · next _ ht =>
             exact .set
                 (.ite (State.setStream_keeps (State.replayInput_keeps hs _ ht))
                    (State.replayInput_keeps hs _ ht)))

theorem replayAtom_keeps {asid line} : Holds o (replayAtom asid line) :=
  .get_bind fun _ _ => replayFrom_keeps

/-! Loads, stores and atomics of harts and jobs. -/

theorem budgetGate_keeps {c l va} : Holds o (budgetGate c l va) :=
  .get_bind fun _ _ => .ite waitHere_keeps (.pure _)

theorem drainGate_keeps {core n} : Holds o (drainGate core n) :=
  .get_bind fun _ hs => .ite waitHere_keeps (.set (State.drainSome_keeps hs))

theorem translate_keeps {c va k} : Holds o (translate c va k) := by
  unfold translate
  dsimp only
  exact .get_bind fun _ hs => by
      split
      · exact .bind trap_keeps fun _ => by
            split
            · exact .ite (.pure _) trap_keeps
            · exact .when waitHere_keeps
                  (by
                     split
                     · exact .throw _
                     · exact .throw _
                     · exact .bind (.set (.setMem hs rfl)) fun _ => .ite (.pure _) trap_keeps)
      · split
        · exact .ite (.pure _) trap_keeps
        · exact .when waitHere_keeps
              (by
                 split
                 · exact .throw _
                 · exact .throw _
                 · exact .bind (.set (.setMem hs rfl)) fun _ => .ite (.pure _) trap_keeps)

theorem State.raiseFault_keeps {s c kind k va mask pages more} (hs : Keeps o s) :
    Keeps o ((s.raiseFault c kind k va mask pages more).1) := by
  unfold State.raiseFault
  dsimp only
  split
  · exact .setMem hs rfl
  · exact .setMem hs rfl

theorem materialise_keeps {c l va} : Holds o (materialise c l va) := by
  unfold materialise
  dsimp only
  exact .get_bind fun _ _ => by
      split
      · exact .pure _
      · exact .get_bind fun _ _ =>
          .get_bind fun _ _ =>
          .ite (.throw _)
            (.ite
               (.get_bind fun _ _ =>
                .bind drainGate_keeps fun _ => .get_bind fun _ hw => .bind (.set (.put hw rfl rfl)) fun _ => .pure _)
                (.get_bind fun _ hv => .bind (.set (.put hv rfl rfl)) fun _ => .pure _))

theorem State.putCell_keeps {s k} (hs : Keeps o s) : Keeps o (s.putCell k) :=
  .put hs rfl rfl

theorem tagged_keeps {c l} : Holds o (tagged c l) :=
  .ite (.pure _) (.get_bind fun _ _ => .ite (.pure _) trap_keeps)

theorem scratchAt_keeps {c va core off n} : Holds o (scratchAt c va core off n) := by
  unfold scratchAt
  exact .get_bind fun _ _ => by
      split
      · exact trap_keeps
      · exact .ite trap_keeps (.ite trap_keeps (.pure _))

theorem tileAt_keeps {c va array} : Holds o (tileAt c va array) := by
  unfold tileAt
  exact .get_bind fun _ _ => .ite (.pure _) trap_keeps

theorem State.updScratch_keeps {s core serial f} (hs : Keeps o s) : Keeps o (s.updScratch core serial f) := by
  unfold State.updScratch
  exact .ite (State.setCore_keeps (State.setCore_keeps hs)) (State.setCore_keeps hs)

theorem State.scratchStore_keeps {s core serial off bs} (hs : Keeps o s) :
    Keeps o (s.scratchStore core serial off bs) := by
  unfold State.scratchStore
  exact State.wakeLine_keeps (State.updScratch_keeps hs)

theorem State.tileStore_keeps {s array off bs} (hs : Keeps o s) : Keeps o (s.tileStore array off bs) := by
  unfold State.tileStore
  exact State.wakeLine_keeps (State.setArray_keeps hs)

theorem awaitReply_keeps {c elem va size send} (hsend : ∀ a, ∀ t, Keeps o t → Keeps o (send a t)) :
    Holds o (awaitReply c elem va size send) := by
  unfold awaitReply
  dsimp only
  exact .get_bind fun _ hs => by
      split
      · split
        · exact .pure _
        · exact waitHere_keeps
        · exact .bind (.set (State.setStream_keeps (hsend _ _ (.put hs rfl rfl)))) fun _ => waitHere_keeps
      · split
        · exact .pure _
        · exact waitHere_keeps
        · exact .bind (.set (State.updCard_keeps (hsend _ _ (.put hs rfl rfl)))) fun _ => waitHere_keeps
      · exact waitHere_keeps
      · exact waitHere_keeps

theorem loadDevice_keeps {c l va n} : Holds o (loadDevice c l va n) := by
  unfold loadDevice
  exact .ite
      (.get_bind fun _ _ =>
       .bind drainGate_keeps fun _ =>
       .get_bind fun _ _ =>
       .when budgetGate_keeps (.get_bind fun _ hu => .bind (.set (State.readCached_keeps hu)) fun _ => .pure _))
       (.bind budgetGate_keeps fun _ => .get_bind fun _ _ => .pure _)

theorem loadRemote_keeps {c l va n} : Holds o (loadRemote c l va n) := by
  unfold loadRemote
  dsimp only
  exact .get_bind fun _ _ => by
      split
      · exact .bind (.modify fun _ ht => State.setCore_keeps ht) fun _ => .pure _
      · exact .bind budgetGate_keeps fun _ =>
          .bind (awaitReply_keeps fun _ _ ht => .put ht rfl rfl)
            fun _ => .ite trap_keeps (.when (.modify fun _ ht => .ite ht (State.setCore_keeps ht)) (.pure _))

theorem loadLeaf_keeps {c l va n} : Holds o (loadLeaf c l va n) := by
  unfold loadLeaf
  dsimp only
  exact .ite
      (.bind budgetGate_keeps fun _ => .bind (awaitReply_keeps fun _ _ hs => .put hs rfl rfl) fun _ => .pure _)
      (.ite (.bind loadRemote_keeps fun _ => .pure _)
         (.bind tagged_keeps fun _ =>
          .ite
            (.get_bind fun _ _ => by
               split
               · exact .bind budgetGate_keeps fun _ => .pure _
               · exact loadDevice_keeps)
             loadDevice_keeps))

theorem loadRaw_keeps {c va n} : Holds o (loadRaw c va n) := by
  unfold loadRaw
  split
  · exact trap_keeps
  · exact .bind scratchAt_keeps fun _ => .get_bind fun _ _ => .pure _
  · exact .bind tileAt_keeps fun _ => .get_bind fun _ _ => .pure _
  · exact .bind translate_keeps fun _ => loadLeaf_keeps

theorem afterOrder_keeps {c} : Holds o (afterOrder c) := by
  unfold afterOrder
  split
  · exact .pure _
  · exact .get_bind fun _ _ => drainGate_keeps

theorem storeDevice_keeps {c va pa bs} : Holds o (storeDevice c va pa bs) := by
  unfold storeDevice
  exact .ite
      (.bind (.modify fun _ hs => State.performLate_keeps hs) fun _ =>
       .get_bind fun _ _ =>
       .bind drainGate_keeps fun _ => .modify fun _ ht => .ite (.put ht rfl rfl) (State.lateStore_keeps ht))
      (.ite
         (.get_bind fun _ _ =>
          .bind drainGate_keeps fun _ => .modify fun _ ht => State.dropL1_keeps (State.homeThrough_keeps ht))
          (.modify fun _ hs => State.homeStore_keeps hs))

theorem State.l1Update_keeps {s core key a3 n v} (hs : Keeps o s) : Keeps o (s.l1Update core key a3 n v) :=
  State.setCore_keeps hs

theorem storeRaw_keeps {c va bs} : Holds o (storeRaw c va bs) := by
  unfold storeRaw
  dsimp only
  split
  · exact trap_keeps
  · exact .bind scratchAt_keeps fun _ =>
      .bind afterOrder_keeps fun _ => .bind (.modify fun _ hs => State.scratchStore_keeps hs) fun _ => .pure _
  · exact .bind tileAt_keeps fun _ =>
      .bind afterOrder_keeps fun _ => .bind (.modify fun _ hs => State.tileStore_keeps hs) fun _ => .pure _
  · exact .bind translate_keeps fun _ =>
      .bind budgetGate_keeps fun _ =>
      .ite
        (.bind afterOrder_keeps fun _ => .bind (.modify fun _ hs => State.hostWrite_keeps hs) fun _ => .pure _)
        (.ite (.bind (.modify fun _ hs => .ite (State.l1Update_keeps hs) hs) fun _ => .pure _)
           (.bind tagged_keeps fun _ =>
            .ite
              (.bind afterOrder_keeps fun _ =>
               .bind materialise_keeps fun _ =>
               .bind (.modify fun _ hs => State.wakeLine_keeps (State.putCell_keeps hs)) fun _ => .pure _)
               (.bind storeDevice_keeps fun _ => .pure _)))

theorem atomRaw_keeps {c va n f remote} (hremote : ∀ a, ∀ b, ∀ c, ∀ v, Keeps o v → Keeps o (remote a b c v)) :
    Holds o (atomRaw c va n f remote) := by
  unfold atomRaw
  dsimp only
  split
  · exact trap_keeps
  · exact trap_keeps
  · exact .bind scratchAt_keeps fun _ =>
      .get_bind fun _ _ =>
      .ite trap_keeps
        (by
           split
           · exact .bind (.modify fun _ ht => State.scratchStore_keeps ht) fun _ => .pure _
           · exact .pure _)
  · exact .bind translate_keeps fun _ =>
      .bind budgetGate_keeps fun _ =>
      .ite trap_keeps
        (.ite
           (.bind (awaitReply_keeps fun _ _ hs => hremote _ _ _ _ hs) fun _ =>
            .bind (.modify fun _ hs => .ite (State.dropL1_keeps hs) hs)
              fun _ => .ite (.when (.modify fun _ hs => State.noteWrite_keeps hs) (.pure _)) trap_keeps)
           (.bind tagged_keeps fun _ =>
            .ite
              (.bind materialise_keeps fun _ =>
               .ite trap_keeps
                 (by
                    split
                    · exact .bind (.modify fun _ hs => State.wakeLine_keeps (State.putCell_keeps hs)) fun _ => .pure _
                    · exact .pure _))
              (.ite
                 (.get_bind fun _ _ =>
                  .bind drainGate_keeps fun _ =>
                  .get_bind fun _ _ =>
                  .ite trap_keeps
                    (.when replayAtom_keeps
                       (.get_bind fun _ _ => by
                          split
                          · exact .bind (.modify fun _ hv => State.homeThrough_keeps hv)
                                fun _ => .when (.modify fun _ hv => State.dropNear_keeps hv) (.pure _)
                          · exact .when (.modify fun _ hv => State.dropNear_keeps hv) (.pure _))))
                 (.get_bind fun _ _ =>
                  .ite trap_keeps
                    (.when replayAtom_keeps
                       (.get_bind fun _ _ => by
                          split
                          · exact .bind (.modify fun _ hu => State.homeThrough_keeps hu)
                                fun _ => .when (.modify fun _ hu => State.dropNear_keeps hu) (.pure _)
                          · exact .when (.modify fun _ hu => State.dropNear_keeps hu) (.pure _)))))))

theorem hartCtx_keeps {hint tag} : Holds o (hartCtx hint tag) :=
  .get_bind fun _ _ => .get_bind fun _ _ => .pure _

theorem curTag_keeps : Holds o curTag :=
  .bind curHart_keeps fun _ => .pure _

theorem trainTrap_keeps {t} : Holds o (trainTrap (α := α) t) :=
  .bind modHart_keeps fun _ => .throw _

theorem loadGate_keeps {c va n} : Holds o (loadGate c va n) := by
  unfold loadGate
  exact .bind curHart_keeps fun _ =>
    .ite waitHere_keeps
      (by
         split
         · exact .ite trainTrap_keeps waitHere_keeps
         · exact .get_bind fun _ _ => .ite waitHere_keeps (.pure _))

theorem checkWatch_keeps {va n k} : Holds o (checkWatch va n k) := by
  unfold checkWatch
  exact .bind curHart_keeps fun _ => .ite trap_keeps (.pure _)

theorem noteReq_keeps {elem va k} : Holds o (noteReq elem va k) :=
  .bind curHart_keeps fun _ => .ite (.pure _) (.modify fun _ hs => .put hs rfl rfl)

theorem loadChecked_keeps {c va n} : Holds o (loadChecked c va n) := by
  unfold loadChecked
  exact .bind checkWatch_keeps fun _ =>
    .bind noteReq_keeps fun _ => .bind loadGate_keeps fun _ => .bind loadRaw_keeps fun _ => .ite trap_keeps (.pure _)

theorem State.spoil_keeps {s serial exb} (hs : Keeps o s) : Keeps o (s.spoil serial exb) :=
  State.setLa_keeps hs

theorem meetArea_keeps {c va n} : Holds o (meetArea c va n) := by
  unfold meetArea
  exact .get_bind fun _ _ => by
      split
      · exact .pure _
      · exact .bind (.modify fun _ ht => State.spoil_keeps ht) fun _ => .pure _

theorem hartLoad_keeps {c va n} : Holds o (hartLoad c va n) := by
  unfold hartLoad
  exact .bind loadChecked_keeps fun _ =>
    .bind meetArea_keeps
      fun _ => .ite (.get_bind fun _ hs => .bind (.set (State.draw_keeps hs)) fun _ => .pure _) (.pure _)

theorem hartLoadWide_keeps {c va n} : Holds o (hartLoadWide c va n) :=
  .bind (mapM'_keeps fun _ => .bind hartLoad_keeps fun _ => .pure _) fun _ => .pure _

theorem foldHash_keeps {va bs} : Holds o (foldHash va bs) := by
  unfold foldHash
  exact .bind curLaunch?_keeps fun _ => by
      split
      · exact .pure _
      · exact .ite modStream_keeps (.pure _)

theorem takeSerial_keeps : Holds o takeSerial := by
  unfold takeSerial
  dsimp only
  exact .bind curStream_keeps fun _ => by
      split
      · exact .pure _
      · exact .bind curHart_keeps fun _ => .bind modHart_keeps fun _ => .bind modStream_keeps fun _ => .pure _

theorem declining_keeps {serial} : Holds o (declining serial) :=
  .bind curStream_keeps fun _ => .pure _

theorem logging_keeps {serial} : Holds o (logging serial) :=
  .bind declining_keeps fun _ => .ite (.pure _) (.bind curHart_keeps fun _ => .pure _)

theorem logStore_keeps {c va bs add fault serial} : Holds o (logStore c va bs add fault serial) := by
  unfold logStore
  exact .bind curHart_keeps fun _ =>
    .get_bind fun _ _ =>
    .bind declining_keeps fun _ => .ite (.pure _) (.ite modHart_keeps (.ite waitHere_keeps modHart_keeps))

theorem storeFault_keeps {c va kind} : Holds o (storeFault c va kind) := by
  unfold storeFault
  exact .get_bind fun _ hs => .bind (.set (State.raiseFault_keeps hs)) fun _ => .pure _

theorem loggedFault_keeps {c va kind serial} : Holds o (loggedFault c va kind serial) :=
  .bind declining_keeps fun _ =>
  .ite (.pure _) (.bind curHart_keeps fun _ => .ite waitHere_keeps (.bind storeFault_keeps fun _ => .pure _))

theorem logUnderFault_keeps {c va k serial log} (hlog : ∀ a, Holds o (log a)) :
    Holds o (logUnderFault (α := α) c va k serial log) := by
  unfold logUnderFault
  split
  · exact .get_bind fun _ _ => by
        split
        · exact .ite (hlog _) trap_keeps
        · exact .bind loggedFault_keeps fun _ => hlog _
  · exact trap_keeps
  · exact hlog _

theorem hartStoreCore_keeps {c va bs serial force} : Holds o (hartStoreCore c va bs serial force) := by
  unfold hartStoreCore
  dsimp only
  exact .bind checkWatch_keeps fun _ =>
    .bind curHart_keeps fun _ =>
    .ite
      (.bind (logUnderFault_keeps fun _ => .bind logStore_keeps fun _ => .pure _)
         fun _ => .bind noteReq_keeps fun _ => .pure _)
      (.bind
         (.tryCatch (.bind storeRaw_keeps fun _ => .pure _) fun _ => by
            split
            · exact .bind loggedFault_keeps fun _ => .pure _
            · exact .bind loggedFault_keeps fun _ => .pure _
            · exact .throw _)
          fun _ => by
         split
         · exact .bind (.pure _) fun _ => .bind noteReq_keeps fun _ => .pure _
         · exact .bind (.bind logStore_keeps fun _ => .pure _) fun _ => .bind noteReq_keeps fun _ => .pure _)

theorem hartStoreMarked_keeps {c va bs serial force} : Holds o (hartStoreMarked c va bs serial force) :=
  .bind hartStoreCore_keeps fun _ => .bind meetArea_keeps fun _ => .pure _

theorem hartStore_keeps {c va bs serial force} : Holds o (hartStore c va bs serial force) :=
  .bind hartStoreMarked_keeps fun _ => .bind foldHash_keeps fun _ => .pure _

theorem sendTrain_keeps {rpkg add ty elems} : Holds o (sendTrain rpkg add ty elems) := by
  unfold sendTrain
  dsimp only
  split
  · exact .pure _
  · exact .get_bind
        fun _ hs => .set (State.setHart_keeps (.put (.foldl hs fun _ _ ht => State.noteWrite_keeps ht) rfl rfl))

theorem State.compareHash_keeps {s p} (hs : Keeps o s) : Keeps o ((s.compareHash p).1) := by
  unfold State.compareHash
  dsimp only
  split
  · exact hs
  · split
    · exact hs
    · exact .ite_fst (State.postEvent_keeps (State.cancel_keeps hs)) hs

theorem compareHere_keeps : Holds o compareHere := by
  unfold compareHere
  exact .get_bind fun _ hs =>
    .get_bind fun _ _ => .bind (.set (State.compareHash_keeps hs)) fun _ => .ite (.pure _) waitHere_keeps

theorem release_keeps {rank} : Holds o (release rank) := by
  unfold release
  dsimp only
  exact .get_bind fun _ _ =>
    .ite (.pure _)
      (.bind curHart_keeps fun _ =>
       .bind curSlot_keeps fun _ =>
       .ite waitHere_keeps
         (by
            split
            · exact trainTrap_keeps
            · exact .ite waitHere_keeps
                  (.get_bind fun _ _ =>
                   .ite waitHere_keeps
                     (.get_bind fun _ _ =>
                      .bind drainGate_keeps
                        fun _ => .when (.modify fun _ hv => .setMem hv (by simp)) compareHere_keeps))))

theorem acquire_keeps {rank} : Holds o (acquire rank) :=
  .get_bind fun _ _ =>
  .ite (.pure _)
    (.bind curCore_keeps fun _ => .bind (.modify fun _ ht => State.clearL1_keeps ht) fun _ => compareHere_keeps)

/-! Operands. -/

theorem readX_keeps {a0} : Holds o (readX a0) := by
  unfold readX
  split
  · exact .bind curStream_keeps fun _ => .pure _
  · exact .bind curHart_keeps fun _ => by
        split
        · exact waitHere_keeps
        · exact .bind modHart_keeps fun _ => .pure _

theorem readReg_keeps {n} : Holds o (readReg n) :=
  .bind curStream_keeps fun _ => .pure _

theorem writeX_keeps {a0 w} : Holds o (writeX a0 w) := by
  unfold writeX
  split
  · exact modStream_keeps
  · exact modHart_keeps

theorem writeReg_keeps {n w} : Holds o (writeReg n w) :=
  modStream_keeps

theorem readP_keeps {n} : Holds o (readP n) :=
  .bind curStream_keeps fun _ => .pure _

theorem writeP_keeps {n b} : Holds o (writeP n b) :=
  modStream_keeps

theorem readEA_keeps {m} : Holds o (readEA m) :=
  .bind readX_keeps fun _ => .bind readX_keeps fun _ => .pure _

theorem readV_keeps {a0} : Holds o (readV a0) := by
  unfold readV
  split
  · exact .bind curHart_keeps fun _ => .pure _
  · exact .bind curHart_keeps fun _ => by
        split
        · exact waitHere_keeps
        · exact .bind modHart_keeps fun _ => .pure _

theorem oldV_keeps {a0} : Holds o (oldV a0) := by
  unfold oldV
  split
  · exact .bind curHart_keeps fun _ => .pure _
  · exact .pure _

theorem writeV_keeps {a0 m len top} : Holds o (writeV a0 m len top) := by
  unfold writeV
  split
  · exact modHart_keeps
  · exact modHart_keeps

theorem writeElems_keeps {a0 t n vals} : Holds o (writeElems a0 t n vals) := by
  unfold writeElems
  exact .bind oldV_keeps fun _ => writeV_keeps

theorem readSrc_keeps {t a1} : Holds o (readSrc t a1) := by
  unfold readSrc
  split
  · exact .bind readV_keeps fun _ => .pure _
  · exact .bind readX_keeps fun _ => .pure _

theorem readTile_keeps {t a1} : Holds o (readTile t a1) :=
  .bind readV_keeps fun _ => .pure _

/-! Issuing one instruction. -/

theorem State.resumed_keeps {s c} (hs : Keeps o s) : Keeps o (s.resumed c) :=
  State.setHart_keeps hs

theorem State.putBack_keeps {s own} (hs : Keeps o s) : Keeps o (s.putBack own) := by
  unfold State.putBack
  split
  · exact hs
  · exact .ite (State.setHart_keeps hs) hs

theorem State.closeEntry_keeps {i s} (hs : Keeps o s) : Keeps o (State.closeEntry i s) := by
  unfold State.closeEntry
  dsimp only
  split
  · exact hs
  · exact .ite hs (State.setHart_keeps hs)

theorem stripEndAct_keeps {s p} (hs : Keeps o s) : Keeps o ((stripEndAct s p).1) := by
  unfold stripEndAct
  dsimp only
  split
  · exact .ite_fst (State.setHart_keeps (State.setStream_keeps hs)) (State.setStream_keeps hs)
  · exact hs

theorem endActions_keeps {s p} (hs : Keeps o s) : Keeps o (endActions s p) := by
  unfold endActions
  exact .ite (.ite_fst (stripEndAct_keeps hs) hs)
      (.ite (.ite_fst (stripEndAct_keeps hs) hs) (State.setStream_keeps (.ite_fst (stripEndAct_keeps hs) hs)))

theorem State.unblock_keeps {s slot} (hs : Keeps o s) : Keeps o (s.unblock slot) := by
  unfold State.unblock
  dsimp only
  split
  · exact hs
  · exact State.setHart_keeps hs

theorem retire_keeps {i h user ctl s} (hs : Keeps o s) : Keeps o (retire i h user ctl s) := by
  have hclose : Keeps o (if Instr.isVector i then s.closeEntry i else s) := .ite (State.closeEntry_keeps hs) hs
  have hdone : ∀ {c : Prop} [Decidable c] {p st slot is}, Keeps o
      { (if c then (if Instr.isVector i then s.closeEntry i else s).setStream p st
        else ((if Instr.isVector i then s.closeEntry i else s).setStream p st).unblock slot : State) with issue := is } :=
    .put (.ite (State.setStream_keeps hclose) (State.unblock_keeps (State.setStream_keeps hclose))) rfl rfl
  unfold retire
  dsimp only
  split
  · exact .put (State.setStream_keeps hdone) rfl rfl
  · exact State.leaveTrap_keeps hdone
  · exact hdone
  · exact .ite hdone (endActions_keeps (State.setStream_keeps hdone))
  · exact .ite (.put hdone rfl rfl) (.ite hdone (endActions_keeps (State.setStream_keeps hdone)))
  · exact State.enterTrap_keeps (endActions_keeps (State.setStream_keeps hdone))

theorem restoreQueues_keeps {s0 s p} (ht : Keeps o s) : Keeps o (restoreQueues s0 s p) := by
  unfold restoreQueues
  dsimp only
  split
  · exact ht
  · split
    · exact ht
    · exact State.setHart_keeps ht

theorem State.trapping_keeps {s cause tval tpc} (hs : Keeps o s) : Keeps o (s.trapping cause tval tpc) := by
  unfold State.trapping
  dsimp only
  split
  · exact .put hs rfl rfl
  · exact .ite (.put hs rfl rfl) (State.setHart_keeps (.put hs rfl rfl))

theorem trapAt_keeps {s vec cause tval} (hs : Keeps o s) : Keeps o (trapAt s vec cause tval) := by
  unfold trapAt
  exact State.enterTrap_keeps (State.trapping_keeps hs)

theorem elemTrapAt_keeps {s cause tval elem} (hs : Keeps o s) : Keeps o (elemTrapAt s cause tval elem) := by
  unfold elemTrapAt
  exact State.enterTrap_keeps (State.trapping_keeps hs)

theorem waits_keeps {s} (hs : Keeps o s) : Keeps o (waits s) :=
  .put hs rfl rfl

theorem vectorFault_keeps {s vstart cause tval elem lane} (hs : Keeps o s) :
    Keeps o (vectorFault s vstart cause tval elem lane) := by
  unfold vectorFault
  exact State.setHart_keeps (State.trapping_keeps hs)

theorem faultWaitOn_keeps {s va kind k elem} (hs : Keeps o s) : Keeps o (faultWaitOn s va kind k elem) := by
  unfold faultWaitOn
  exact waits_keeps (State.setStream_keeps (State.raiseFault_keeps hs))

theorem answerExc_keeps {vec restart scalar s0 e s} (ht : Keeps o s) :
    Goes o (answerExc vec restart scalar s0 e s) := by
  unfold answerExc
  dsimp only
  split
  · exact .next (trapAt_keeps (restoreQueues_keeps ht))
  · exact .next (vectorFault_keeps (restoreQueues_keeps ht))
  · exact .next (elemTrapAt_keeps (restoreQueues_keeps ht))
  · exact .next (faultWaitOn_keeps (.ite (restoreQueues_keeps ht) (State.setStream_keeps (restoreQueues_keeps ht))))
  · exact .next (faultWaitOn_keeps (.ite (restoreQueues_keeps ht) (State.setStream_keeps (restoreQueues_keeps ht))))
  · exact .next (waits_keeps (.ite (restoreQueues_keeps ht) (State.setStream_keeps (restoreQueues_keeps ht))))

theorem flushReqs_keeps {i s} (hs : Keeps o s) : Keeps o (flushReqs i s) := by
  unfold flushReqs
  dsimp only
  split
  · exact .put (State.setHart_keeps hs) rfl rfl
  · exact hs

theorem flushExc_keeps {i e s} (hs : Keeps o s) : Keeps o (flushExc i e s) := by
  unfold flushExc
  split
  · exact flushReqs_keeps hs
  · exact flushReqs_keeps hs
  · exact flushReqs_keeps hs
  · exact .ite (flushReqs_keeps hs) (.put hs rfl rfl)

theorem clearMarks_keeps {i s} (hs : Keeps o s) : Keeps o (clearMarks i s) := by
  unfold clearMarks
  dsimp only
  split
  · exact .ite hs (State.setStream_keeps hs)
  · exact .ite (.ite hs (State.setStream_keeps hs)) (State.setHart_keeps (.ite hs (State.setStream_keeps hs)))

theorem conclude_keeps {i h own s ctl t} (hs : Keeps o s) (ht : Keeps o t) :
    Keeps o (conclude i h own s ctl t) := by
  unfold conclude
  dsimp only
  split
  · exact State.enterTrap_keeps (State.trapping_keeps (State.putBack_keeps hs))
  · exact retire_keeps (State.putBack_keeps ht)

theorem mapNext_keeps {a0 f} (ha0 : Goes o a0) (hf : ∀ s, Keeps o s → Keeps o (f s)) :
    Goes o (mapNext a0 f) := by
  unfold mapNext
  split
  · exact .next (hf _ (ha0 _ rfl))
  · exact .fault _
  · exact .refused _

theorem issueHart_keeps {i h body own s st} (hbody : Holds o body) (hs : Keeps o s) :
    Goes o (issueHart i h body own s st) := by
  unfold issueHart
  split
  · exact .next (State.putBack_keeps (trapAt_keeps hs))
  · exact .ite (.next (conclude_keeps hs hs))
        (.ite (.next (State.putBack_keeps (waits_keeps hs)))
           (by
              split
              · exact .next (State.putBack_keeps (waits_keeps (State.setStream_keeps hs)))
              · split
                · exact .next (State.putBack_keeps (trapAt_keeps hs))
                · split
                  · next _ _ ht =>
                      exact .next (conclude_keeps hs (clearMarks_keeps (flushReqs_keeps (Holds.ok hbody hs ht))))
                  · next _ _ ht =>
                      exact mapNext_keeps (answerExc_keeps (flushExc_keeps (Holds.error hbody hs ht)))
                          fun _ ht => State.putBack_keeps ht))

theorem runHart_keeps {i h body s} (hbody : Holds o body) (hs : Keeps o s) : Goes o (runHart i h body s) := by
  unfold runHart
  split
  · exact .fault _
  · exact .ite (.fault _)
        (by
           split
           · exact issueHart_keeps hbody hs
           · exact issueHart_keeps hbody (State.resumed_keeps hs))

theorem seqBody_keeps {b} (hb : Holds o b) : Holds o (seqBody b) :=
  .bind hb fun _ => .pure _

theorem runSeq_keeps {i h body s} (hbody : Holds o body) (hs : Keeps o s) : Goes o (runSeq i h body s) :=
  runHart_keeps (seqBody_keeps hbody) hs

/-! The datum core's own memory. -/

theorem State.abortUnlock_keeps {s} (hs : Keeps o s) : Keeps o s.abortUnlock := by
  unfold State.abortUnlock
  exact .ite (.put hs rfl rfl) hs

theorem State.drawNonce_keeps {s} (hs : Keeps o s) : Keeps o s.drawNonce := by
  unfold State.drawNonce
  exact .put (State.draw_keeps (State.draw_keeps hs)) rfl rfl

/-! Fetch lines. -/

theorem fetchRaw_keeps {n again} : Holds o (fetchRaw n again) := by
  unfold fetchRaw
  dsimp only
  exact .get_bind fun _ _ =>
    .ite
      (by
         split
         · exact .pure _
         · exact .get_bind fun _ _ => .pure _
         · exact trap_keeps)
      (.bind hartCtx_keeps fun _ => by
         split
         · exact .bind loadGate_keeps fun _ =>
             .bind translate_keeps fun _ =>
             .bind budgetGate_keeps fun _ =>
             .ite
               (.get_bind fun _ ht =>
                .bind (.set (State.readCached_keeps (.ite (State.dropL1_keeps ht) ht)))
                  fun _ => .ite trap_keeps (.pure _))
               (.bind (mapM'_keeps fun _ => .bind loadLeaf_keeps fun _ => .pure _) fun _ => .pure _)
         · exact trap_keeps)

theorem fetchLine_keeps {n} : Holds o (fetchLine n) := by
  unfold fetchLine
  exact .bind fetchRaw_keeps fun _ =>
    .ite_bind (.pure _) fetchRaw_keeps fun _ => .ite trap_keeps (.get_bind fun _ _ => .ite trap_keeps (.pure _))

theorem lineHere_keeps {n} : Holds o (lineHere n) := by
  unfold lineHere
  dsimp only
  exact .bind curStream_keeps fun _ => by
      split
      · exact .bind (.pure _) fun _ => .bind modStream_keeps fun _ => .pure _
      · exact .bind fetchLine_keeps fun _ => .bind modStream_keeps fun _ => .pure _

theorem fetchTarget_keeps {t} : Holds o (fetchTarget t) := by
  unfold fetchTarget
  dsimp only
  exact .tryCatch (.bind fetchLine_keeps fun _ => .pure _) fun _ => by
      split
      · exact .pure _
      · exact .bind (.modify fun _ hs => State.setStream_keeps (faultWaitOn_keeps hs)) fun _ => waitHere_keeps
      · exact .throw _

theorem checkTarget_keeps {t} : Holds o (checkTarget t) := by
  unfold checkTarget
  exact .ite trap_keeps
      (.bind fetchTarget_keeps fun _ => by
         split
         · exact .pure _
         · exact .ite (.pure _) trap_keeps)

theorem succAny_keeps {n} : Holds o (succAny n) := by
  unfold succAny
  exact .get_bind fun _ _ =>
    .ite (.get_bind fun _ _ => .pure _)
      (.bind fetchTarget_keeps fun _ => by
         split
         · exact .pure _
         · exact .pure _)

/-! Branches, calls and loops. -/

theorem transfer_keeps {t} : Holds o (transfer t) :=
  .bind checkTarget_keeps fun _ => .pure _

theorem execBr_keeps {h c a b off s} (hs : Keeps o s) : Goes o (execBr h c a b off s) :=
  runHart_keeps
    (.bind readX_keeps fun _ => .bind readX_keeps fun _ => .ite (.get_bind fun _ _ => transfer_keeps) (.pure _))
    hs

theorem execJmp_keeps {h a s} (hs : Keeps o s) : Goes o (execJmp h a s) :=
  runHart_keeps (.bind readX_keeps fun _ => transfer_keeps) hs

theorem successor_keeps : Holds o successor :=
  .get_bind fun _ _ => .get_bind fun _ _ => .pure _

theorem execCall_keeps {h d off s} (hs : Keeps o s) : Goes o (execCall h d off s) :=
  runHart_keeps
    (.get_bind
       fun _ _ => .bind transfer_keeps fun _ => .bind successor_keeps fun _ => .bind writeX_keeps fun _ => .pure _)
     hs

theorem execCallr_keeps {h d a s} (hs : Keeps o s) : Goes o (execCallr h d a s) :=
  runHart_keeps
    (.bind readX_keeps
       fun _ => .bind transfer_keeps fun _ => .bind successor_keeps fun _ => .bind writeX_keeps fun _ => .pure _)
     hs

theorem execRet_keeps {h a s} (hs : Keeps o s) : Goes o (execRet h a s) :=
  runHart_keeps (.bind readX_keeps fun _ => transfer_keeps) hs

theorem execPushb_keeps {h inv a s} (hs : Keeps o s) : Goes o (execPushb h inv a s) := by
  unfold execPushb
  exact runSeq_keeps (.bind readP_keeps fun _ => .get_bind fun _ _ => modHart_keeps) hs

theorem execBrq_keeps {h z off s} (hs : Keeps o s) : Goes o (execBrq h z off s) := by
  unfold execBrq
  dsimp only
  exact runHart_keeps
      (.get_bind fun _ _ =>
       .bind curHart_keeps fun _ => by
         split
         · exact waitHere_keeps
         · exact .bind modHart_keeps fun _ => .ite (.get_bind fun _ _ => transfer_keeps) (.pure _))
       hs

theorem execLoop_keeps {h l c off s} (hs : Keeps o s) : Goes o (execLoop h l c off s) := by
  unfold execLoop
  dsimp only
  exact runHart_keeps
      (.get_bind fun _ _ => by
         split
         · exact .bind readX_keeps fun _ =>
             .bind successor_keeps fun _ =>
             .ite (.bind succAny_keeps fun _ => .bind modStream_keeps fun _ => .pure _)
               (.bind modStream_keeps fun _ => .pure _)
         · exact .bind (.pure _) fun _ =>
             .bind successor_keeps fun _ =>
             .ite (.bind succAny_keeps fun _ => .bind modStream_keeps fun _ => .pure _)
               (.bind modStream_keeps fun _ => .pure _))
       hs

theorem execLexit_keeps {h l s} (hs : Keeps o s) : Goes o (execLexit h l s) :=
  runSeq_keeps modStream_keeps hs

theorem execNop_keeps {h s} (hs : Keeps o s) : Goes o (execNop h s) :=
  runSeq_keeps (.pure _) hs

end Sys2Proof.Machine
end

section
/-! SUPPORT. What vector instructions, cards, copies and collectives keep (07; 08 R342..R377; 09). -/

set_option Elab.async false

namespace Sys2Proof.Machine

open Sys2Proof

variable {o : State}

/-! Lane groups and the vector issue order. -/

theorem State.setLanes_keeps {s slot g} (hs : Keeps o s) : Keeps o (s.setLanes slot g) := by
  unfold State.setLanes
  exact .ite (State.setHart_keeps hs) hs

theorem State.setClaim_keeps {s slot n} (hs : Keeps o s) : Keeps o (s.setClaim slot n) := by
  unfold State.setClaim
  exact State.setCore_keeps (State.setHart_keeps hs)

theorem State.handOwed_keeps {s slot} (hs : Keeps o s) : Keeps o (s.handOwed slot) := by
  unfold State.handOwed
  dsimp only
  exact State.setCore_keeps
      (.foldl hs fun _ _ ht => by
         split
         · exact ht
         · exact State.setClaim_keeps (State.setLanes_keeps (State.setLanes_keeps ht)))

theorem State.laneRequest_keeps {s slot g} (hs : Keeps o s) : Keeps o (s.laneRequest slot g) := by
  unfold State.laneRequest
  exact State.setCore_keeps (State.setClaim_keeps (State.setLanes_keeps (State.handOwed_keeps hs)))

theorem State.releaseLanes_keeps {s slot} (hs : Keeps o s) : Keeps o (s.releaseLanes slot) := by
  unfold State.releaseLanes
  exact State.setCore_keeps (State.setClaim_keeps (State.setLanes_keeps hs))

theorem requestLanes_keeps {g} : Holds o (requestLanes g) := by
  unfold requestLanes
  exact .bind curSlot_keeps fun _ =>
    .get_bind fun _ hs =>
    .ite (.bind (.set (State.laneRequest_keeps hs)) fun _ => .ite waitHere_keeps (.pure _)) waitHere_keeps

theorem needLanes_keeps {b} : Holds o (needLanes b) :=
  .bind curHart_keeps fun _ => .ite requestLanes_keeps (.pure _)

theorem State.enterOrder_keeps {s b rendezvous barrier} (hs : Keeps o s) :
    Keeps o (s.enterOrder b rendezvous barrier) := by
  unfold State.enterOrder
  exact .ite hs (State.setHart_keeps hs)

theorem vecRoom_keeps : Holds o vecRoom := by
  unfold vecRoom
  exact .bind curHart_keeps fun _ => .get_bind fun _ _ => .ite waitHere_keeps (.pure _)

theorem vecEnter_keeps {b rendezvous barrier} : Holds o (vecEnter b rendezvous barrier) := by
  unfold vecEnter
  exact .get_bind fun _ _ =>
    .bind curStream_keeps fun _ =>
    .bind curHart_keeps fun _ =>
    .ite (.pure _)
      (.bind needLanes_keeps fun _ =>
       .bind vecRoom_keeps fun _ =>
       .bind curHart_keeps fun _ => .bind (.modify fun _ ht => State.enterOrder_keeps ht) fun _ => modStream_keeps)

theorem vecLeave_keeps : Holds o vecLeave :=
  modHart_keeps

theorem vecCommitted_keeps : Holds o vecCommitted :=
  .bind curHart_keeps fun _ => .get_bind fun _ _ => .ite (.pure _) waitHere_keeps

theorem vecRun_keeps {h b body} (hbody : Holds o body) : Holds o (vecRun h b body) :=
  .bind vecEnter_keeps fun _ => .bind hbody fun _ => vecLeave_keeps

theorem awaitInputs_keeps {i} : Holds o (awaitInputs i) :=
  .bind curHart_keeps fun _ => .ite (.pure _) waitHere_keeps

theorem writeCommit_keeps {a0 w} : Holds o (writeCommit a0 w) := by
  unfold writeCommit
  exact .get_bind fun _ _ => .bind curHart_keeps fun _ => .ite modHart_keeps writeX_keeps

theorem execLaneComplete_keeps {hart serial lane s} (hs : Keeps o s) :
    Goes o (execLaneComplete hart serial lane s) := by
  unfold execLaneComplete
  dsimp only
  split
  · exact .next hs
  · exact .ite (.next (State.setHart_keeps hs)) (.next hs)

theorem execLaneArrive_keeps {hart serial lane s} (hs : Keeps o s) :
    Goes o (execLaneArrive hart serial lane s) := by
  unfold execLaneArrive
  dsimp only
  split
  · exact .next hs
  · exact .ite (.next (State.setHart_keeps hs)) (.next hs)

theorem execRendezvousComplete_keeps {hart serial s} (hs : Keeps o s) :
    Goes o (execRendezvousComplete hart serial s) := by
  unfold execRendezvousComplete
  dsimp only
  split
  · exact .next hs
  · exact .ite (.next (State.setHart_keeps hs)) (.next hs)

theorem execVectorTrapCommit_keeps {hart s} (hs : Keeps o s) : Goes o (execVectorTrapCommit hart s) := by
  unfold execVectorTrapCommit
  dsimp only
  split
  · exact .next hs
  · exact .ite (.next hs) (.next (State.enterTrap_keeps (State.setHart_keeps hs)))

/-! Element-wise instructions. -/

theorem runVec_keeps {i hd body s} (hbody : Holds o body) (hs : Keeps o s) : Goes o (runVec i hd body s) :=
  runSeq_keeps (vecRun_keeps hbody) hs

theorem rctx_keeps {rm} : Holds o (rctx rm) := by
  unfold rctx
  exact .bind curHart_keeps fun _ => .bind curStream_keeps fun _ => .pure _

theorem mapElems_keeps {hd t d f} : Holds o (mapElems hd t d f) :=
  .bind curHart_keeps fun _ => writeElems_keeps

theorem mapOne_keeps {hd t d a f} : Holds o (mapOne hd t d a f) :=
  .bind readTile_keeps fun _ => mapElems_keeps

theorem mapTwo_keeps {hd t d a b f} : Holds o (mapTwo hd t d a b f) :=
  .bind readTile_keeps fun _ => .bind readSrc_keeps fun _ => mapElems_keeps

theorem mapThree_keeps {hd t d a b c f} : Holds o (mapThree hd t d a b c f) :=
  .bind readTile_keeps fun _ => .bind readSrc_keeps fun _ => .bind readSrc_keeps fun _ => mapElems_keeps

theorem bodyFloat1_keeps {f hd t rm d a} : Holds o (bodyFloat1 f hd t rm d a) :=
  .bind rctx_keeps fun _ => mapOne_keeps

theorem bodyFloat2_keeps {f hd t rm d a b} : Holds o (bodyFloat2 f hd t rm d a b) :=
  .bind rctx_keeps fun _ => mapTwo_keeps

theorem bodyFloat3_keeps {f hd t rm d a b c} : Holds o (bodyFloat3 f hd t rm d a b c) :=
  .bind rctx_keeps fun _ => mapThree_keeps

theorem execVadd_keeps {h t rm d a b s} (hs : Keeps o s) : Goes o (execVadd h t rm d a b s) :=
  runVec_keeps bodyFloat2_keeps hs

theorem execVsub_keeps {h t rm d a b s} (hs : Keeps o s) : Goes o (execVsub h t rm d a b s) :=
  runVec_keeps bodyFloat2_keeps hs

theorem execVmul_keeps {h t rm d a b s} (hs : Keeps o s) : Goes o (execVmul h t rm d a b s) :=
  runVec_keeps bodyFloat2_keeps hs

theorem execVdiv_keeps {h t rm d a b s} (hs : Keeps o s) : Goes o (execVdiv h t rm d a b s) :=
  runVec_keeps bodyFloat2_keeps hs

theorem execVfma_keeps {h t rm d a b c s} (hs : Keeps o s) : Goes o (execVfma h t rm d a b c s) :=
  runVec_keeps bodyFloat3_keeps hs

theorem execVfms_keeps {h t rm d a b c s} (hs : Keeps o s) : Goes o (execVfms h t rm d a b c s) :=
  runVec_keeps bodyFloat3_keeps hs

theorem execVfnma_keeps {h t rm d a b c s} (hs : Keeps o s) : Goes o (execVfnma h t rm d a b c s) :=
  runVec_keeps bodyFloat3_keeps hs

theorem execVsqrt_keeps {h t rm d a s} (hs : Keeps o s) : Goes o (execVsqrt h t rm d a s) :=
  runVec_keeps bodyFloat1_keeps hs

theorem execVrcp_keeps {h t rm d a s} (hs : Keeps o s) : Goes o (execVrcp h t rm d a s) :=
  runVec_keeps bodyFloat1_keeps hs

theorem execVrsq_keeps {h t rm d a s} (hs : Keeps o s) : Goes o (execVrsq h t rm d a s) :=
  runVec_keeps bodyFloat1_keeps hs

theorem execVexp2_keeps {h t rm d a s} (hs : Keeps o s) : Goes o (execVexp2 h t rm d a s) :=
  runVec_keeps bodyFloat1_keeps hs

theorem execVlog2_keeps {h t rm d a s} (hs : Keeps o s) : Goes o (execVlog2 h t rm d a s) :=
  runVec_keeps bodyFloat1_keeps hs

theorem execVtanh_keeps {h t rm d a s} (hs : Keeps o s) : Goes o (execVtanh h t rm d a s) :=
  runVec_keeps bodyFloat1_keeps hs

theorem execVmin_keeps {h t d a b s} (hs : Keeps o s) : Goes o (execVmin h t d a b s) :=
  runVec_keeps mapTwo_keeps hs

theorem execVmax_keeps {h t d a b s} (hs : Keeps o s) : Goes o (execVmax h t d a b s) :=
  runVec_keeps mapTwo_keeps hs

theorem execVabs_keeps {h t d a s} (hs : Keeps o s) : Goes o (execVabs h t d a s) :=
  runVec_keeps mapOne_keeps hs

theorem execVneg_keeps {h t d a s} (hs : Keeps o s) : Goes o (execVneg h t d a s) :=
  runVec_keeps mapOne_keeps hs

theorem execVclass_keeps {h t d a s} (hs : Keeps o s) : Goes o (execVclass h t d a s) :=
  runVec_keeps mapOne_keeps hs

theorem writeMask_keeps {hd d f} : Holds o (writeMask hd d f) :=
  modHart_keeps

theorem execVcmp_keeps {h c t d a b s} (hs : Keeps o s) : Goes o (execVcmp h c t d a b s) :=
  runVec_keeps (.bind readTile_keeps fun _ => .bind readSrc_keeps fun _ => writeMask_keeps) hs

theorem execTwosum_keeps {h t rm d e a b s} (hs : Keeps o s) : Goes o (execTwosum h t rm d e a b s) := by
  unfold execTwosum
  exact runVec_keeps
      (.bind readTile_keeps fun _ =>
       .bind readSrc_keeps fun _ => .bind curHart_keeps fun _ => .bind mapElems_keeps fun _ => mapElems_keeps)
       hs

theorem execViadd_keeps {h sat t d a b s} (hs : Keeps o s) : Goes o (execViadd h sat t d a b s) :=
  runVec_keeps mapTwo_keeps hs

theorem execVisub_keeps {h sat t d a b s} (hs : Keeps o s) : Goes o (execVisub h sat t d a b s) :=
  runVec_keeps mapTwo_keeps hs

theorem execVimul_keeps {h t d a b s} (hs : Keeps o s) : Goes o (execVimul h t d a b s) :=
  runVec_keeps mapTwo_keeps hs

theorem execVimulh_keeps {h t d a b s} (hs : Keeps o s) : Goes o (execVimulh h t d a b s) :=
  runVec_keeps mapTwo_keeps hs

theorem execVimad_keeps {h t d a b c s} (hs : Keeps o s) : Goes o (execVimad h t d a b c s) :=
  runVec_keeps mapThree_keeps hs

theorem execVimin_keeps {h t d a b s} (hs : Keeps o s) : Goes o (execVimin h t d a b s) :=
  runVec_keeps mapTwo_keeps hs

theorem execVimax_keeps {h t d a b s} (hs : Keeps o s) : Goes o (execVimax h t d a b s) :=
  runVec_keeps mapTwo_keeps hs

theorem execVand_keeps {h t d a b s} (hs : Keeps o s) : Goes o (execVand h t d a b s) :=
  runVec_keeps mapTwo_keeps hs

theorem execVor_keeps {h t d a b s} (hs : Keeps o s) : Goes o (execVor h t d a b s) :=
  runVec_keeps mapTwo_keeps hs

theorem execVxor_keeps {h t d a b s} (hs : Keeps o s) : Goes o (execVxor h t d a b s) :=
  runVec_keeps mapTwo_keeps hs

theorem execVshl_keeps {h t d a b s} (hs : Keeps o s) : Goes o (execVshl h t d a b s) :=
  runVec_keeps mapTwo_keeps hs

theorem execVshr_keeps {h t d a b s} (hs : Keeps o s) : Goes o (execVshr h t d a b s) :=
  runVec_keeps mapTwo_keeps hs

theorem execVsra_keeps {h t d a b s} (hs : Keeps o s) : Goes o (execVsra h t d a b s) :=
  runVec_keeps mapTwo_keeps hs

theorem execVclip_keeps {h t d a b c s} (hs : Keeps o s) : Goes o (execVclip h t d a b c s) :=
  runVec_keeps mapThree_keeps hs

theorem execVmov_keeps {h t d a s} (hs : Keeps o s) : Goes o (execVmov h t d a s) :=
  runVec_keeps mapOne_keeps hs

theorem execVbcast_keeps {h t d a s} (hs : Keeps o s) : Goes o (execVbcast h t d a s) :=
  runVec_keeps (.bind readSrc_keeps fun _ => mapElems_keeps) hs

theorem execViota_keeps {h row t d s} (hs : Keeps o s) : Goes o (execViota h row t d s) := by
  unfold execViota
  exact runVec_keeps (.bind curHart_keeps fun _ => mapElems_keeps) hs

theorem execVsel_keeps {h t d a b c s} (hs : Keeps o s) : Goes o (execVsel h t d a b c s) := by
  unfold execVsel
  exact runVec_keeps (.bind curHart_keeps fun _ => mapTwo_keeps) hs

theorem execVldi_keeps {h t d imm s} (hs : Keeps o s) : Goes o (execVldi h t d imm s) :=
  runVec_keeps mapElems_keeps hs

theorem execVcvt_keeps {h t u rm d a s} (hs : Keeps o s) : Goes o (execVcvt h t u rm d a s) :=
  runVec_keeps (.bind rctx_keeps fun _ => .bind readTile_keeps fun _ => mapElems_keeps) hs

theorem execVqblk_keeps {h t u rm off d c a s} (hs : Keeps o s) : Goes o (execVqblk h t u rm off d c a s) := by
  unfold execVqblk
  exact runVec_keeps
      (.bind rctx_keeps fun _ =>
       .bind readTile_keeps fun _ =>
       .bind curHart_keeps fun _ => .bind oldV_keeps fun _ => .bind writeV_keeps fun _ => writeElems_keeps)
       hs

theorem execVdqblk_keeps {h t u rm off d a c s} (hs : Keeps o s) : Goes o (execVdqblk h t u rm off d a c s) :=
  runVec_keeps
    (.bind rctx_keeps fun _ => .bind readTile_keeps fun _ => .bind readV_keeps fun _ => mapElems_keeps) hs

theorem execVplane_keeps {h d a s} (hs : Keeps o s) : Goes o (execVplane h d a s) := by
  unfold execVplane
  exact runVec_keeps
      (.bind readTile_keeps fun _ => .bind curHart_keeps fun _ => .bind oldV_keeps fun _ => writeV_keeps) hs

theorem execVunplane_keeps {h p d a s} (hs : Keeps o s) : Goes o (execVunplane h p d a s) := by
  unfold execVunplane
  exact runVec_keeps (.bind readTile_keeps fun _ => .bind curHart_keeps fun _ => writeElems_keeps) hs

theorem execVrand_keeps {h t d s} (hs : Keeps o s) : Goes o (execVrand h t d s) := by
  unfold execVrand
  exact runVec_keeps (.bind curStream_keeps fun _ => .bind curHart_keeps fun _ => mapElems_keeps) hs

/-! Vector memory instructions. -/

theorem attempt_keeps {x} (hx : Holds o x) : ∀ s, Keeps o s → Keeps o (stateOf (attempt (α := α) x s)) := by
  unfold attempt
  exact fun _ hs => by
      split
      · next _ _ ht =>
          exact Holds.ok hx hs ht
      · next _ _ ht =>
          exact Holds.error hx hs ht

theorem elemCheck_keeps {c va n k} : Holds o (elemCheck c va n k) := by
  unfold elemCheck
  dsimp only
  split
  · exact .bind trap_keeps fun _ => .ite trap_keeps (.pure _)
  · exact .bind scratchAt_keeps fun _ => .ite trap_keeps (.pure _)
  · exact .bind tileAt_keeps fun _ => .ite trap_keeps (.pure _)
  · exact .get_bind fun _ _ => .when trap_keeps (.ite trap_keeps (.pure _))

theorem loadElem_keeps {c va n} : Holds o (loadElem c va n) :=
  .bind elemCheck_keeps fun _ => hartLoad_keeps

theorem loadElems_keeps {c sh h addr l acc} : Holds o (loadElems c sh h addr l acc) := by
  induction l generalizing acc with
  | nil => exact .pure _
  | cons i l ih =>
    unfold loadElems
    refine .bind (attempt_keeps loadElem_keeps) fun r => ?_
    cases r with
    | ok v => exact ih
    | error e => exact .pure _

theorem loadInto_keeps {c sh h d addr is} : Holds o (loadInto c sh h d addr is) := by
  unfold loadInto
  dsimp only
  exact .bind loadElems_keeps fun _ => by
      split
      · exact writeElems_keeps
      · exact .bind writeElems_keeps fun _ => .throw _
      · exact .throw _
      · exact .throw _

theorem runAccess_keeps {i hd body s} (hbody : Holds o body) (hs : Keeps o s) :
    Goes o (runAccess i hd body s) :=
  runVec_keeps (.bind awaitInputs_keeps fun _ => hbody) hs

theorem bodyLoad_keeps {hd t d tag addr} : Holds o (bodyLoad hd t d tag addr) := by
  unfold bodyLoad
  exact .bind curHart_keeps fun _ => .bind hartCtx_keeps fun _ => loadInto_keeps

theorem stridedAddr_keeps {m} : Holds o (stridedAddr m) :=
  .bind readX_keeps fun _ => .bind readX_keeps fun _ => .pure _

theorem flatAddr_keeps {m size} : Holds o (flatAddr m size) :=
  .bind readEA_keeps fun _ => .pure _

theorem indexedAddr_keeps {ix a b scl disp} : Holds o (indexedAddr ix a b scl disp) := by
  unfold indexedAddr
  exact .bind readX_keeps fun _ => .bind readTile_keeps fun _ => .pure _

theorem execVld_keeps {h t d m s} (hs : Keeps o s) : Goes o (execVld h t d m s) :=
  runAccess_keeps
    (.bind curHart_keeps fun _ => .bind flatAddr_keeps fun _ => .bind curTag_keeps fun _ => bodyLoad_keeps) hs

theorem execVlds_keeps {h t d m s} (hs : Keeps o s) : Goes o (execVlds h t d m s) :=
  runAccess_keeps (.bind stridedAddr_keeps fun _ => .bind curTag_keeps fun _ => bodyLoad_keeps) hs

theorem gatherProbe_keeps {c va n} : Holds o (gatherProbe c va n) := by
  unfold gatherProbe
  exact .bind
      (attempt_keeps
         (.bind elemCheck_keeps fun _ =>
          .bind checkWatch_keeps fun _ => by
            split
            · exact .bind translate_keeps fun _ => .pure _
            · exact .pure _))
       fun _ => by
      split
      · exact .pure _
      · exact .pure _

theorem gatherProbes_keeps {c sh h addr l} : Holds o (gatherProbes c sh h addr l) := by
  induction l with
  | nil => exact .pure _
  | cons i l ih => exact .bind gatherProbe_keeps fun _ => .bind ih fun _ => .pure _

theorem bodyGather_keeps {hd t d addr} : Holds o (bodyGather hd t d addr) := by
  unfold bodyGather
  dsimp only
  exact .bind curHart_keeps fun _ =>
    .bind curTag_keeps fun _ =>
    .bind hartCtx_keeps fun _ =>
    .bind gatherProbes_keeps fun _ => by
      split
      · exact loadInto_keeps
      · exact .ite
            (.get_bind fun _ hs =>
             .bind (.set (State.setStream_keeps (State.raiseFault_keeps hs))) fun _ => waitHere_keeps)
             (.bind loadInto_keeps fun _ => .throw _)

theorem execVldx_keeps {h t ix d a b scl disp s} (hs : Keeps o s) :
    Goes o (execVldx h t ix d a b scl disp s) :=
  runAccess_keeps (.bind indexedAddr_keeps fun _ => bodyGather_keeps) hs

theorem sendTrains_keeps {add t l} : Holds o (sendTrains add t l) := by
  unfold sendTrains
  exact forM'_keeps fun _ => forM'_keeps fun _ => sendTrain_keeps

theorem State.addHome_keeps {s quad serial va pa t ovft data} (hs : Keeps o s) :
    Keeps o (s.addHome quad serial va pa t ovft data) :=
  State.homeThrough_keeps hs

theorem holdAdd_keeps {c l va pa rpkg t data} : Holds o (holdAdd c l va pa rpkg t data) := by
  unfold holdAdd
  exact .bind takeSerial_keeps fun _ => .get_bind fun _ hs => .ite (.throw _) (.set (.setMem hs rfl))

theorem addRaw_keeps {c va t data} : Holds o (addRaw c va t data) := by
  unfold addRaw
  dsimp only
  exact .bind curHart_keeps fun _ => by
      split
      · exact trap_keeps
      · exact .bind scratchAt_keeps fun _ => .bind (.modify fun _ hs => State.scratchStore_keeps hs) fun _ => .pure _
      · exact .bind tileAt_keeps fun _ => .bind (.modify fun _ hs => State.tileStore_keeps hs) fun _ => .pure _
      · exact .bind translate_keeps fun _ =>
          .bind budgetGate_keeps fun _ =>
          .bind curLaunch?_keeps fun _ =>
          .ite trap_keeps
            (by
               split
               · exact .bind tagged_keeps fun _ => .bind holdAdd_keeps fun _ => .pure _
               · exact .ite (.pure _)
                     (.bind tagged_keeps fun _ =>
                      .ite
                        (.bind materialise_keeps fun _ =>
                         .bind (.modify fun _ hs => State.wakeLine_keeps (State.putCell_keeps hs)) fun _ => .pure _)
                        (.get_bind fun _ _ =>
                         .bind drainGate_keeps fun _ =>
                         .bind replayAtom_keeps fun _ =>
                         .bind (.modify fun _ ht => State.dropNear_keeps (State.addHome_keeps ht)) fun _ => .pure _)))

theorem hartAdd_keeps {c va t data serial force} : Holds o (hartAdd c va t data serial force) := by
  unfold hartAdd
  dsimp only
  exact .bind checkWatch_keeps fun _ =>
    .bind curHart_keeps fun _ =>
    .ite
      (.bind (logUnderFault_keeps fun _ => .bind logStore_keeps fun _ => .pure _)
         fun _ => .bind noteReq_keeps fun _ => .pure _)
      (.bind (attempt_keeps addRaw_keeps) fun _ => by
         split
         · exact .bind (.pure _) fun _ => .bind noteReq_keeps fun _ => .pure _
         · exact .bind loggedFault_keeps fun _ =>
             .bind (.bind logStore_keeps fun _ => .pure _) fun _ => .bind noteReq_keeps fun _ => .pure _
         · exact .bind loggedFault_keeps fun _ =>
             .bind (.bind logStore_keeps fun _ => .pure _) fun _ => .bind noteReq_keeps fun _ => .pure _
         · exact .bind (.throw _) fun _ => .bind noteReq_keeps fun _ => .pure _)

theorem storeElem_keeps {k c sh va data serial force} : Holds o (storeElem k c sh va data serial force) := by
  unfold storeElem
  dsimp only
  exact .bind elemCheck_keeps fun _ => by
      split
      · exact .bind hartAdd_keeps fun _ => .bind meetArea_keeps fun _ => .bind (.pure _) fun _ => .pure _
      · exact .bind hartStoreMarked_keeps fun _ => .pure _

theorem storeTraps_keeps {k c sh va data serial} : Holds o (storeTraps k c sh va data serial) := by
  unfold storeTraps
  exact .get_bind fun _ _ => by
      split
      · exact .pure _
      · exact .pure _

theorem storeOrder_keeps {k c sh addr data serial is} : Holds o (storeOrder k c sh addr data serial is) := by
  unfold storeOrder
  dsimp only
  exact .get_bind fun _ _ =>
    .ite (.pure _)
      (.bind (.filterM fun _ => storeTraps_keeps) fun _ => by
         split
         · exact .pure _
         · exact .pure _)

theorem State.scratchClean_keeps {s core serial unit} (hs : Keeps o s) :
    Keeps o (s.scratchClean core serial unit) :=
  State.updScratch_keeps hs

theorem State.tileClean_keeps {s array unit} (hs : Keeps o s) : Keeps o (s.tileClean array unit) :=
  State.setArray_keeps hs

theorem State.cellClean_keeps {s c l} (hs : Keeps o s) : Keeps o (s.cellClean c l) := by
  unfold State.cellClean
  split
  · exact .ite
        (by
           split
           · exact State.putCell_keeps hs
           · exact hs)
         hs
  · exact hs

theorem clearWhole_keeps {c l} : Holds o (clearWhole c l) := by
  unfold clearWhole
  exact .bind curHart_keeps fun _ =>
    .ite (.pure _)
      (by
         split
         · exact .pure _
         · exact .modify fun _ hs => State.scratchClean_keeps hs
         · exact .modify fun _ hs => State.tileClean_keeps hs
         · exact .modify fun _ hs => State.cellClean_keeps hs)

theorem groupLogs_keeps {c sh k addr mates} : Holds o (groupLogs c sh k addr mates) := by
  unfold groupLogs
  exact .get_bind fun _ _ => .bind curHart_keeps fun _ => .pure _

theorem groupRoom_keeps {addr mates} : Holds o (groupRoom addr mates) :=
  .bind curHart_keeps fun _ => .ite waitHere_keeps (.pure _)

theorem settle_keeps {p} : Holds o (settle p) :=
  .bind sendTrains_keeps fun _ => forM'_keeps fun _ => foldHash_keeps

theorem storeElems_keeps {pl c serial l p} (hone : ∀ c i b, Holds o (pl.one c i b)) :
    Holds o (storeElems pl c serial l p) := by
  induction l generalizing c p with
  | nil => exact .pure _
  | cons i l ih =>
    unfold storeElems
    dsimp only
    have hrest : ∀ logs : Bool, Holds o (do
        if logs && !(← declining serial) then groupRoom pl.addr ((i :: l).filter fun j =>
          pl.sh.group pl.hart j == pl.sh.group pl.hart i)
        pl.one (pl.sh.ctx c pl.hart i) i logs) := fun _ =>
      .bind declining_keeps fun _ => .ite (.bind groupRoom_keeps fun _ => hone _ _ _) (hone _ _ _)
    refine .bind (attempt_keeps (.ite (.bind (.pure _) hrest) (.bind groupLogs_keeps hrest))) fun r => ?_
    cases r with
    | ok v => exact ih
    | error e => exact .pure _

theorem runStore_keeps {pl c order} (hone : ∀ c i b, Holds o (pl.one c i b)) (horder : Holds o order) :
    Holds o (runStore pl c order) := by
  have hend : ∀ {p : StoreSt} {bad : Option (Nat × Exc)}, Holds o (match bad with
      | none => do
        settle p
        modStream fun st => { st with storing := none }
      | some (i, e) =>
        match if pl.vec then atElem pl.sh pl.hart i e else e with
        | .vtrap cause tval i lane => do
          settle p
          throw (.vtrap cause tval i lane)
        | .trap cause tval => do
          settle p
          throw (.trap cause tval)
        | e => do
          modStream fun st => { st with storing := some p }
          throw e : M Unit) := by
    intro p bad
    split
    · exact .bind settle_keeps fun _ => modStream_keeps
    · split
      · exact .bind settle_keeps fun _ => .throw _
      · exact .bind settle_keeps fun _ => .throw _
      · exact .bind modStream_keeps fun _ => .throw _
  unfold runStore
  dsimp only
  refine .bind takeSerial_keeps fun _ => .bind curSlot_keeps fun _ => .bind curStream_keeps fun _ => ?_
  split
  · exact .bind (.pure _) fun _ => .bind (storeElems_keeps hone) fun _ =>
      .ite (.bind (.forM fun _ => clearWhole_keeps) fun _ => hend) hend
  · exact .bind horder fun _ => .bind logging_keeps fun _ => .bind (.pure _) fun _ => .bind (storeElems_keeps hone) fun _ =>
      .ite (.bind (.forM fun _ => clearWhole_keeps) fun _ => hend) hend

theorem bodyStore_keeps {hd k t d addr} : Holds o (bodyStore hd k t d addr) :=
  .bind curHart_keeps fun _ =>
  .bind readTile_keeps fun _ =>
  .bind curTag_keeps fun _ =>
  .bind hartCtx_keeps fun _ =>
  .bind takeSerial_keeps fun _ =>
  runStore_keeps (fun _ _ _ => .bind storeElem_keeps fun _ => .pure _) storeOrder_keeps

theorem execVst_keeps {h t d m s} (hs : Keeps o s) : Goes o (execVst h t d m s) :=
  runAccess_keeps (.bind curHart_keeps fun _ => .bind flatAddr_keeps fun _ => bodyStore_keeps) hs

theorem execVsts_keeps {h t d m s} (hs : Keeps o s) : Goes o (execVsts h t d m s) :=
  runAccess_keeps (.bind stridedAddr_keeps fun _ => bodyStore_keeps) hs

theorem execVstx_keeps {h t ix d a b scl disp s} (hs : Keeps o s) :
    Goes o (execVstx h t ix d a b scl disp s) :=
  runAccess_keeps (.bind indexedAddr_keeps fun _ => bodyStore_keeps) hs

theorem execVstu_keeps {h t ix d a b scl disp s} (hs : Keeps o s) :
    Goes o (execVstu h t ix d a b scl disp s) :=
  runAccess_keeps (.bind indexedAddr_keeps fun _ => bodyStore_keeps) hs

theorem execVstxa_keeps {h t ix d a b scl disp s} (hs : Keeps o s) :
    Goes o (execVstxa h t ix d a b scl disp s) :=
  runAccess_keeps (.bind indexedAddr_keeps fun _ => bodyStore_keeps) hs

theorem fenceBody_keeps {k sc} : Holds o (fenceBody k sc) := by
  unfold fenceBody
  split
  · exact acquire_keeps
  · exact release_keeps
  · exact .bind release_keeps fun _ => acquire_keeps

theorem drainLogical_keeps {l k core} : Holds o (drainLogical l k core) :=
  .get_bind fun _ _ => drainGate_keeps

theorem drainLaunchCores_keeps {scope} : Holds o (drainLaunchCores scope) := by
  unfold drainLaunchCores
  exact .bind curLaunch?_keeps fun _ => by
      split
      · exact .pure _
      · exact .ite (.get_bind fun _ _ => forM'_keeps fun _ => drainLogical_keeps) (.pure _)

theorem settleStores_keeps : Holds o settleStores := by
  unfold settleStores
  exact .bind curHart_keeps fun _ =>
    .ite waitHere_keeps
      (by
         split
         · exact trainTrap_keeps
         · exact .ite (.pure _) waitHere_keeps)

theorem passDrain_keeps : Holds o passDrain := by
  unfold passDrain
  exact .get_bind fun _ _ => .bind curStream_keeps fun _ => .ite (.pure _) (.bind modHart_keeps fun _ => modStream_keeps)

theorem execVfence_keeps {h k sc s} (hs : Keeps o s) : Goes o (execVfence h k sc s) := by
  unfold execVfence
  dsimp only
  exact runSeq_keeps
      (.bind vecEnter_keeps fun _ =>
       .bind vecCommitted_keeps fun _ =>
       .bind curHart_keeps fun _ =>
       .ite
         (.bind curHart_keeps fun _ => by
            split
            · exact .bind trainTrap_keeps fun _ =>
                .when settleStores_keeps
                  (.bind passDrain_keeps
                     fun _ => .bind drainLaunchCores_keeps fun _ => .bind fenceBody_keeps fun _ => vecLeave_keeps)
            · exact .bind waitHere_keeps fun _ =>
                .when settleStores_keeps
                  (.bind passDrain_keeps
                     fun _ => .bind drainLaunchCores_keeps fun _ => .bind fenceBody_keeps fun _ => vecLeave_keeps))
         (.when settleStores_keeps
            (.bind passDrain_keeps
               fun _ => .bind drainLaunchCores_keeps fun _ => .bind fenceBody_keeps fun _ => vecLeave_keeps)))
       hs

theorem State.prefetch_keeps {s c l2 va} (hs : Keeps o s) : Keeps o (s.prefetch c l2 va) := by
  unfold State.prefetch
  split
  · exact .ite hs (.ite (State.readL2_keeps hs) (State.readCached_keeps hs))
  · exact hs

theorem execPref_keeps {h l2 d m s} (hs : Keeps o s) : Goes o (execPref h l2 d m s) := by
  unfold execPref
  exact runSeq_keeps
      (.bind vecEnter_keeps fun _ =>
       .bind readEA_keeps fun _ =>
       .bind readX_keeps fun _ =>
       .bind hartCtx_keeps
         fun _ => .when (.modify fun _ ht => .foldl ht fun _ _ hu => State.prefetch_keeps hu) vecLeave_keeps)
       hs

/-! Job cards. -/

theorem checkFootprint_keeps {b} : Holds o (checkFootprint b) := by
  unfold checkFootprint
  dsimp only
  split
  · exact trap_keeps
  · exact .pure _

theorem releaseRegions_keeps {regions} : Holds o (releaseRegions regions) := by
  unfold releaseRegions
  dsimp only
  exact .bind curHart_keeps fun _ =>
    .get_bind fun _ _ => by
      split
      · exact trainTrap_keeps
      · exact .ite waitHere_keeps (.bind curCore_keeps fun _ => .get_bind fun _ _ => drainGate_keeps)

theorem issueCard_keeps {job regions} : Holds o (issueCard job regions) := by
  unfold issueCard
  dsimp only
  exact .bind releaseRegions_keeps fun _ =>
    .get_bind fun _ hs => by
      split
      · exact waitHere_keeps
      · exact .ite waitHere_keeps (.bind (.set (State.updLaunch_keeps (State.setLa_keeps hs))) fun _ => .pure _)

theorem ownCard_keeps {kinds h} : Holds o (ownCard kinds h) := by
  unfold ownCard
  exact .get_bind fun _ _ => by
      split
      · exact waitHere_keeps
      · exact .ite trap_keeps
            (by
               split
               · exact .pure _
               · exact trap_keeps)

theorem jobGate_keeps {k va n write} : Holds o (jobGate k va n write) :=
  .ite (.pure _) trap_keeps

theorem jobRead_keeps {k c va n} : Holds o (jobRead k c va n) := by
  unfold jobRead
  exact .bind jobGate_keeps fun _ => .bind (mapM'_keeps fun _ => .bind loadRaw_keeps fun _ => .pure _) fun _ => .pure _

theorem poisonAt_keeps {c va} : Holds o (poisonAt c va) := by
  unfold poisonAt
  dsimp only
  split
  · exact .pure _
  · exact .modify fun _ hs => State.updScratch_keeps hs
  · exact .modify fun _ hs => State.setArray_keeps hs
  · exact .bind translate_keeps fun _ =>
      .ite (.pure _)
        (.bind tagged_keeps fun _ =>
         .ite (.bind materialise_keeps fun _ => .modify fun _ hs => State.putCell_keeps hs)
           (.modify fun _ hs => .setMem hs (by simp)))

theorem jobTrain_keeps {k rpkg va elem elems} : Holds o (jobTrain k rpkg va elem elems) := by
  unfold jobTrain
  exact .get_bind fun _ hs => .set (State.updCard_keeps (.put (.foldl hs fun _ _ ht => State.noteWrite_keeps ht) rfl rfl))

theorem jobWrite_keeps {k c va bs poison} : Holds o (jobWrite k c va bs poison) := by
  unfold jobWrite
  dsimp only
  exact .bind jobGate_keeps fun _ =>
    .bind storeRaw_keeps fun _ => by
      split
      · exact .ite poisonAt_keeps (.pure _)
      · exact jobTrain_keeps

theorem State.stopCard_keeps {s k cause va detail} (hs : Keeps o s) :
    Keeps o (s.stopCard k cause va detail) :=
  State.updCard_keeps hs

theorem runJob_keeps {k c body s} (hbody : Holds o body) (hs : Keeps o s) : Keeps o (runJob k c body s) := by
  unfold runJob
  dsimp only
  split
  · next _ _ ht =>
      exact Holds.ok hbody hs ht
  · next _ _ ht =>
      split
      · exact State.stopCard_keeps (Holds.error hbody hs ht)
      · exact State.stopCard_keeps (Holds.error hbody hs ht)
      · exact State.stopCard_keeps (Holds.error hbody hs ht)
      · exact State.updCard_keeps (State.raiseFault_keeps (Holds.error hbody hs ht))
      · exact State.updCard_keeps (State.raiseFault_keeps (Holds.error hbody hs ht))
      · exact Holds.error hbody hs ht

theorem arrivalAdd_keeps {c va n} : Holds o (arrivalAdd c va n) := by
  unfold arrivalAdd
  dsimp only
  split
  · exact .bind scratchAt_keeps fun _ => .modify fun _ hs => State.scratchStore_keeps hs
  · exact trap_keeps

/-! Masks and the mask stack. -/

theorem runMask_keeps {i hd body s} (hbody : Holds o body) (hs : Keeps o s) : Goes o (runMask i hd body s) :=
  runSeq_keeps (vecRun_keeps hbody) hs

theorem runPlain_keeps {i hd body s} (hbody : Holds o body) (hs : Keeps o s) :
    Goes o (runPlain i hd body s) :=
  runSeq_keeps (vecRun_keeps hbody) hs

theorem execKlog_keeps {h lut d a b s} (hs : Keeps o s) : Goes o (execKlog h lut d a b s) :=
  runMask_keeps modHart_keeps hs

theorem execKcnt_keeps {h d a s} (hs : Keeps o s) : Goes o (execKcnt h d a s) := by
  unfold execKcnt
  exact runMask_keeps (.bind vecCommitted_keeps fun _ => .bind curHart_keeps fun _ => writeCommit_keeps) hs

theorem execKfirst_keeps {h d a s} (hs : Keeps o s) : Goes o (execKfirst h d a s) := by
  unfold execKfirst
  exact runMask_keeps (.bind vecCommitted_keeps fun _ => .bind curHart_keeps fun _ => writeCommit_keeps) hs

theorem execMpush_keeps {h a s} (hs : Keeps o s) : Goes o (execMpush h a s) :=
  runMask_keeps (.bind curHart_keeps fun _ => .ite trapIll_keeps modHart_keeps) hs

theorem execMinv_keeps {h s} (hs : Keeps o s) : Goes o (execMinv h s) := by
  unfold execMinv
  dsimp only
  exact runMask_keeps
      (.bind curHart_keeps fun _ => by
         split
         · exact trapIll_keeps
         · exact modHart_keeps)
       hs

theorem execMpop_keeps {h s} (hs : Keeps o s) : Goes o (execMpop h s) := by
  unfold execMpop
  exact runMask_keeps
      (.bind curHart_keeps fun _ => by
         split
         · exact trapIll_keeps
         · exact modHart_keeps)
       hs

theorem execMbrz_keeps {h nz off s} (hs : Keeps o s) : Goes o (execMbrz h nz off s) := by
  unfold execMbrz
  exact runHart_keeps
      (.bind vecEnter_keeps fun _ =>
       .bind vecCommitted_keeps fun _ =>
       .bind curHart_keeps fun _ =>
       .ite (.get_bind fun _ _ => .bind transfer_keeps fun _ => .bind vecLeave_keeps fun _ => .pure _)
         (.bind (.pure _) fun _ => .bind vecLeave_keeps fun _ => .pure _))
       hs

theorem execVtrip_keeps {h t d a s} (hs : Keeps o s) : Goes o (execVtrip h t d a s) := by
  unfold execVtrip
  exact runVec_keeps
      (.bind curHart_keeps fun _ =>
       .ite trapIll_keeps
         (.bind readTile_keeps fun _ =>
          .bind modHart_keeps fun _ => .bind mapElems_keeps fun _ => .bind curHart_keeps fun _ => modHart_keeps))
       hs

theorem execMloop_keeps {h t a off s} (hs : Keeps o s) : Goes o (execMloop h t a off s) := by
  unfold execMloop
  dsimp only
  exact runHart_keeps
      (.bind vecEnter_keeps fun _ =>
       .bind vecCommitted_keeps fun _ =>
       .bind curHart_keeps fun _ => by
         split
         · exact trapIll_keeps
         · exact .bind readTile_keeps fun _ =>
             .ite
               (.get_bind fun _ _ =>
                .bind transfer_keeps fun _ =>
                .bind writeElems_keeps fun _ => .bind modHart_keeps fun _ => .bind vecLeave_keeps fun _ => .pure _)
               (.bind (.pure _) fun _ =>
                .bind writeElems_keeps fun _ => .bind modHart_keeps fun _ => .bind vecLeave_keeps fun _ => .pure _))
       hs

/-! Stream copies and arrival words. -/

theorem readCard_keeps {h va n} : Holds o (readCard h va n) :=
  .bind curTag_keeps fun _ =>
  .bind hartCtx_keeps fun _ => .bind (mapM'_keeps fun _ => .bind hartLoadWide_keeps fun _ => .pure _) fun _ => .pure _

theorem execStream_keeps {h d a s} (hs : Keeps o s) : Goes o (execStream h d a s) := by
  unfold execStream
  dsimp only
  exact runPlain_keeps
      (.bind readX_keeps fun _ =>
       .ite trap_keeps
         (.bind readCard_keeps fun _ =>
          .bind checkFootprint_keeps fun _ =>
          .get_bind fun _ _ => by
            split
            · exact trap_keeps
            · exact .bind issueCard_keeps fun _ => writeX_keeps))
       hs

theorem copyElement_keeps {k c cc i} : Holds o (copyElement k c cc i) := by
  unfold copyElement
  dsimp only
  split
  · dsimp only
    exact .bind jobGate_keeps fun _ =>
      .bind tileAt_keeps fun _ =>
      .when waitHere_keeps
        (.bind jobRead_keeps fun _ =>
         .bind jobWrite_keeps fun _ =>
         .when (.modify fun _ hs => State.wakeLine_keeps (State.setArray_keeps hs))
           (.bind (.modify fun _ hs => State.updCard_keeps hs)
              fun _ => .get_bind fun _ _ => .ite arrivalAdd_keeps (.pure _)))
  · exact .bind jobRead_keeps fun _ =>
      .bind jobWrite_keeps fun _ => by
        split
        · exact .when (.modify fun _ hs => State.wakeLine_keeps (State.setArray_keeps hs))
              (.bind (.modify fun _ hs => State.updCard_keeps hs)
                 fun _ => .get_bind fun _ _ => .ite arrivalAdd_keeps (.pure _))
        · exact .bind (.modify fun _ hs => State.updCard_keeps hs)
              fun _ => .get_bind fun _ _ => .ite arrivalAdd_keeps (.pure _)

theorem execStreamCopyJob_keeps {card s} (hs : Keeps o s) : Goes o (execStreamCopyJob card s) := by
  unfold execStreamCopyJob
  dsimp only
  split
  · exact .next hs
  · split
    · exact .ite (.next hs) (.next (runJob_keeps copyElement_keeps hs))
    · exact .next hs

theorem arrivalPlace_keeps {va} : Holds o (arrivalPlace va) := by
  unfold arrivalPlace
  exact .ite trap_keeps
      (.bind hartCtx_keeps fun _ => by
         split
         · exact .bind scratchAt_keeps fun _ => .pure _
         · exact trap_keeps)

theorem execArmw_keeps {h d m s} (hs : Keeps o s) : Goes o (execArmw h d m s) := by
  unfold execArmw
  exact runPlain_keeps
      (.bind readEA_keeps fun _ =>
       .bind readX_keeps fun _ =>
       .bind arrivalPlace_keeps fun _ =>
       .bind hartCtx_keeps fun _ =>
       .bind checkWatch_keeps fun _ =>
       .bind hartLoad_keeps fun _ => .bind (.modify fun _ ht => State.scratchStore_keeps ht) fun _ => writeX_keeps)
       hs

theorem acquireJob_keeps : Holds o acquireJob :=
  .bind (.modify fun _ hs => .setMem hs (by simp)) fun _ => acquire_keeps

theorem execWaitw_keeps {h d m s} (hs : Keeps o s) : Goes o (execWaitw h d m s) :=
  runPlain_keeps
    (.bind readEA_keeps fun _ =>
     .bind readX_keeps fun _ =>
     .bind arrivalPlace_keeps fun _ =>
     .bind hartCtx_keeps
       fun _ => .bind hartLoad_keeps fun _ => .ite (.bind acquireJob_keeps fun _ => writeX_keeps) waitHere_keeps)
     hs

theorem execJobwait_keeps {h d a s} (hs : Keeps o s) : Goes o (execJobwait h d a s) := by
  unfold execJobwait
  dsimp only
  exact runPlain_keeps
      (.bind readX_keeps fun _ =>
       .bind ownCard_keeps fun _ => by
         split
         · exact waitHere_keeps
         · split
           · exact .bind (.modify fun _ ht => State.updCard_keeps ht) fun _ => trap_keeps
           · exact .bind acquireJob_keeps fun _ => writeX_keeps)
       hs

theorem execCardStart_keeps {card s} (hs : Keeps o s) : Goes o (execCardStart card s) := by
  unfold execCardStart
  split
  · exact .next hs
  · exact .next (State.updCard_keeps (.setMem hs (by simp)))

/-! Reductions, scans, permutations and sorting. -/

theorem runJunction_keeps {i hd body s} (hbody : Holds o body) (hs : Keeps o s) :
    Goes o (runJunction i hd body s) :=
  runSeq_keeps (.bind vecEnter_keeps fun _ => .bind hbody fun _ => vecLeave_keeps) hs

theorem execVred_keeps {h op seg t rm d a s} (hs : Keeps o s) : Goes o (execVred h op seg t rm d a s) := by
  unfold execVred
  dsimp only
  exact runJunction_keeps
      (.bind readTile_keeps fun _ =>
       .bind rctx_keeps fun _ =>
       .bind curHart_keeps fun _ => by
         split
         · exact writeElems_keeps
         · exact writeCommit_keeps)
       hs

theorem execVredp_keeps {h seg t d a b s} (hs : Keeps o s) : Goes o (execVredp h seg t d a b s) := by
  unfold execVredp
  dsimp only
  exact runJunction_keeps
      (.bind readTile_keeps fun _ => by
         split
         · exact .bind readTile_keeps fun _ =>
             .bind curHart_keeps fun _ => by
               split
               · exact .bind writeElems_keeps fun _ => writeElems_keeps
               · exact .bind writeCommit_keeps fun _ => writeCommit_keeps
         · exact .bind (.pure _) fun _ =>
             .bind curHart_keeps fun _ => by
               split
               · exact .bind writeElems_keeps fun _ => writeElems_keeps
               · exact .bind writeCommit_keeps fun _ => writeCommit_keeps)
       hs

theorem execVscan_keeps {h op seg t rm d a s} (hs : Keeps o s) : Goes o (execVscan h op seg t rm d a s) := by
  unfold execVscan
  exact runJunction_keeps
      (.bind readTile_keeps fun _ => .bind rctx_keeps fun _ => .bind curHart_keeps fun _ => writeElems_keeps)
      hs

theorem moveElems_keeps {hd t d src} : Holds o (moveElems hd t d src) :=
  .bind curHart_keeps fun _ => mapElems_keeps

theorem execVperm_keeps {h seg ix t d a b s} (hs : Keeps o s) : Goes o (execVperm h seg ix t d a b s) :=
  runJunction_keeps (.bind readTile_keeps fun _ => .bind readTile_keeps fun _ => moveElems_keeps) hs

theorem execVslide_keeps {h seg wrap t d a b s} (hs : Keeps o s) : Goes o (execVslide h seg wrap t d a b s) := by
  unfold execVslide
  exact runJunction_keeps (.bind readTile_keeps fun _ => .bind readX_keeps fun _ => moveElems_keeps) hs

theorem execVzip_keeps {h seg hi t d a b s} (hs : Keeps o s) : Goes o (execVzip h seg hi t d a b s) :=
  runJunction_keeps (.bind readTile_keeps fun _ => .bind readTile_keeps fun _ => moveElems_keeps) hs

theorem execVunzip_keeps {h seg odd t d a b s} (hs : Keeps o s) : Goes o (execVunzip h seg odd t d a b s) := by
  unfold execVunzip
  exact runJunction_keeps (.bind readTile_keeps fun _ => .bind readTile_keeps fun _ => moveElems_keeps) hs

theorem execVtrn_keeps {h t d a s} (hs : Keeps o s) : Goes o (execVtrn h t d a s) :=
  runJunction_keeps (.bind readTile_keeps fun _ => moveElems_keeps) hs

theorem execVcompress_keeps {h z t d a e s} (hs : Keeps o s) : Goes o (execVcompress h z t d a e s) := by
  unfold execVcompress
  exact runJunction_keeps
      (.bind readTile_keeps fun _ => .bind curHart_keeps fun _ => .bind writeElems_keeps fun _ => writeCommit_keeps)
       hs

theorem execVexpand_keeps {h z t d a s} (hs : Keeps o s) : Goes o (execVexpand h z t d a s) := by
  unfold execVexpand
  exact runJunction_keeps (.bind readTile_keeps fun _ => .bind curHart_keeps fun _ => writeElems_keeps) hs

theorem execVsortk_keeps {h desc t d e a b s} (hs : Keeps o s) : Goes o (execVsortk h desc t d e a b s) := by
  unfold execVsortk
  exact runJunction_keeps
      (.bind readTile_keeps fun _ =>
       .bind readX_keeps fun _ => .bind curHart_keeps fun _ => .bind writeElems_keeps fun _ => writeElems_keeps)
       hs

theorem execVextr_keeps {h t d a b s} (hs : Keeps o s) : Goes o (execVextr h t d a b s) := by
  unfold execVextr
  exact runJunction_keeps
      (.bind readTile_keeps fun _ => .bind readX_keeps fun _ => .bind curHart_keeps fun _ => writeCommit_keeps)
      hs

theorem execVinsr_keeps {h t d a b s} (hs : Keeps o s) : Goes o (execVinsr h t d a b s) := by
  unfold execVinsr
  exact runJunction_keeps
      (.bind readX_keeps fun _ => .bind readX_keeps fun _ => .bind curHart_keeps fun _ => writeElems_keeps)
      hs

theorem execRdv_keeps {h d s} (hs : Keeps o s) : Goes o (execRdv h d s) :=
  runSeq_keeps
    (.bind vecEnter_keeps fun _ =>
     .bind vecCommitted_keeps fun _ => .bind curHart_keeps fun _ => .bind writeCommit_keeps fun _ => vecLeave_keeps)
     hs

/-! Groups and their collectives. -/

theorem ownLaunch_keeps : Holds o ownLaunch := by
  unfold ownLaunch
  exact .bind curLaunch?_keeps fun _ => by
      split
      · exact .pure _
      · exact waitHere_keeps

theorem State.forgetRuns_keeps {s lid exb rank} (hs : Keeps o s) : Keeps o (s.forgetRuns lid exb rank) :=
  .put hs rfl rfl

theorem execGset_keeps {h d a b s} (hs : Keeps o s) : Goes o (execGset h d a b s) := by
  unfold execGset
  dsimp only
  exact runPlain_keeps
      (.bind readX_keeps fun _ =>
       .bind readX_keeps fun _ =>
       .ite trap_keeps
         (.bind curTag_keeps fun _ =>
          .bind hartCtx_keeps fun _ =>
          .bind hartLoadWide_keeps fun _ =>
          .ite trap_keeps
            (.bind curSlot_keeps fun _ =>
             .bind ownLaunch_keeps fun _ =>
             .bind curHart_keeps fun _ => by
               split
               · exact trap_keeps
               · exact .bind (.modify fun _ ht => State.forgetRuns_keeps (State.setLaunch_keeps ht))
                     fun _ => modHart_keeps)))
       hs

theorem execGsetFree_keeps {h d s} (hs : Keeps o s) : Goes o (execGsetFree h d s) := by
  unfold execGsetFree
  exact runPlain_keeps
      (.bind curHart_keeps fun _ =>
       .bind ownLaunch_keeps
         fun _ => .ite (.pure _) (.bind (.modify fun _ ht => State.setLaunch_keeps ht) fun _ => modHart_keeps))
       hs

theorem exchangeOut_keeps {op t serial addr} : ∀ a, ∀ b, ∀ c, Holds o (exchangeOut op t serial addr a b c) := by
  unfold exchangeOut
  dsimp only
  exact fun _ _ _ =>
    .get_bind fun _ hs =>
    .bind (.set (State.draw_keeps hs)) fun _ =>
    .bind elemCheck_keeps fun _ => by
      split
      · exact .bind hartStoreCore_keeps fun _ => .pure _
      · exact .bind hartAdd_keeps fun _ => .pure _
      · exact .bind checkWatch_keeps fun _ =>
          .bind noteReq_keeps fun _ =>
          .bind loadGate_keeps fun _ => .bind (atomRaw_keeps fun _ _ _ _ ht => .put ht rfl rfl) fun _ => .pure _

theorem exchangeSend_keeps {c h t op data l} : Holds o (exchangeSend c h t op data l) :=
  .bind takeSerial_keeps fun _ => runStore_keeps exchangeOut_keeps (.pure _)

theorem exchangeGather_keeps {c h t l} : Holds o (exchangeGather c h t l) := by
  unfold exchangeGather
  dsimp only
  exact forM'_keeps fun _ =>
    .bind (attempt_keeps (.bind elemCheck_keeps fun _ => loadChecked_keeps)) fun _ => by
      split
      · exact .pure _
      · exact .throw _

theorem drawElems_keeps {t l} : Holds o (drawElems t l) := by
  induction l with
  | nil => exact .pure _
  | cons i l ih => exact .get_bind fun _ hs => .bind (.set (State.draw_keeps hs)) fun _ => .bind ih fun _ => .pure _

theorem collArrive_keeps {c k t det idx l g act x} : Holds o (collArrive c k t det idx l g act x) := by
  unfold collArrive
  exact .bind curHart_keeps fun _ =>
    .bind release_keeps fun _ =>
    .bind exchangeSend_keeps fun _ =>
    .bind (.modify fun _ hs => State.setLa_keeps hs) fun _ => .modify fun _ hs => State.updLaunch_keeps hs

theorem collFinish_keeps {c hd k t d det idx l g arr} : Holds o (collFinish c hd k t d det idx l g arr) := by
  unfold collFinish
  exact .bind curHart_keeps fun _ =>
    .bind exchangeGather_keeps fun _ =>
    .ite_bind (.pure _) drawElems_keeps fun _ =>
    .bind acquire_keeps
      fun _ => .bind writeElems_keeps fun _ => .modify fun _ hs => State.updLaunch_keeps (State.setLa_keeps hs)

theorem drawList_keeps {n} : Holds o (drawList n) := by
  induction n with
  | zero => exact .pure _
  | succ n ih => exact .get_bind fun _ hs => .bind (.set (State.draw_keeps hs)) fun _ => .bind ih fun _ => .pure _

theorem remoteArrive_keeps {l g shape n rank} : Holds o (remoteArrive l g shape n rank) := by
  unfold remoteArrive
  exact .get_bind fun _ hs =>
    .ite (.pure _)
      (.bind (.set (State.draw_keeps hs)) fun _ =>
       .ite
         (.bind drawList_keeps fun _ => .bind drawList_keeps fun _ => .modify fun _ ht => State.setLa_keeps ht)
         (.pure _))

theorem bodyColl_keeps {hd k t d a gr} : Holds o (bodyColl hd k t d a gr) := by
  unfold bodyColl
  dsimp only
  exact .bind curHart_keeps fun _ =>
    .bind ownLaunch_keeps fun _ =>
    .bind readTile_keeps fun _ => by
      split
      · exact trap_keeps
      · exact .ite trap_keeps
            (.ite trapIll_keeps
               (by
                  split
                  · exact trap_keeps
                  · exact .bind curTag_keeps fun _ =>
                      .bind hartCtx_keeps fun _ =>
                      .when collArrive_keeps
                        (.bind (forM'_keeps fun _ => remoteArrive_keeps)
                           fun _ => .get_bind fun _ _ => .ite collFinish_keeps waitHere_keeps)))

theorem execVgred_keeps {h op t d a c s} (hs : Keeps o s) : Goes o (execVgred h op t d a c s) :=
  runJunction_keeps (.bind awaitInputs_keeps fun _ => bodyColl_keeps) hs

theorem execVgall_keeps {h t d a c s} (hs : Keeps o s) : Goes o (execVgall h t d a c s) :=
  runJunction_keeps (.bind awaitInputs_keeps fun _ => bodyColl_keeps) hs

theorem execVgrs_keeps {h op t d a c s} (hs : Keeps o s) : Goes o (execVgrs h op t d a c s) :=
  runJunction_keeps (.bind awaitInputs_keeps fun _ => bodyColl_keeps) hs

theorem execVgbc_keeps {h t d a c b s} (hs : Keeps o s) : Goes o (execVgbc h t d a c b s) :=
  runJunction_keeps (.bind awaitInputs_keeps fun _ => .bind readX_keeps fun _ => bodyColl_keeps) hs

end Sys2Proof.Machine
end

section
/-! SUPPORT. What status registers, tags, memory events, tile shapes and the launch engine keep (04; 06; 08 R350..R357; 10). -/

set_option Elab.async false

namespace Sys2Proof.Machine

open Sys2Proof

variable {o : State}

/-! Status registers. -/

theorem State.hartSregWrite_keeps {s slot isX n w} (hs : Keeps o s) :
    Keeps o (s.hartSregWrite slot isX n w) := by
  unfold State.hartSregWrite
  exact .ite (State.setHart_keeps hs) (State.setHart_keeps hs)

theorem State.datumSregWrite_keeps {s n w} (hs : Keeps o s) : Keeps o (s.datumSregWrite n w) := by
  unfold State.datumSregWrite
  dsimp only
  exact .ite (.put hs rfl rfl)
      (by
         split
         · exact .ite hs (State.abortUnlock_keeps hs)
         · exact State.drawNonce_keeps hs
         · exact hs)

theorem State.sregWrite_keeps {s x x' x''} (hs : Keeps o s) : Keeps o (s.sregWrite x x' x'') := by
  unfold State.sregWrite
  split
  · exact State.datumSregWrite_keeps hs
  · exact State.hartSregWrite_keeps hs

/-! Tags and loads through them. -/

theorem State.takeTag_keeps {s serial n} (hs : Keeps o s) : Keeps o ((s.takeTag serial n).2) :=
  .put hs rfl rfl

theorem State.commitCell_keeps {core s c} (hs : Keeps o s) : Keeps o (State.commitCell core s c) := by
  unfold State.commitCell
  exact .ite hs
      (.ite (.setMem (State.dropL1_keeps (State.homeStore_keeps hs)) (by simp))
         (State.dropL1_keeps (State.homeStore_keeps hs)))

theorem State.endTag_keeps {s serial n commit own} (hs : Keeps o s) :
    Keeps o ((s.endTag serial n commit own).2) := by
  unfold State.endTag
  exact .put
      (.ite (.foldl (State.updLaunch_keeps (.put hs rfl rfl)) fun _ _ ht => State.commitCell_keeps ht)
         (State.updLaunch_keeps (.put hs rfl rfl)))
       rfl rfl

theorem execOvopen_keeps {h d s} (hs : Keeps o s) : Goes o (execOvopen h d s) := by
  unfold execOvopen
  dsimp only
  exact runSeq_keeps
      (.bind ownLaunch_keeps fun _ =>
       .bind needUnit_keeps fun _ =>
       .get_bind fun _ ht =>
       .ite trap_keeps
         (by
            split
            · exact .bind (.set (State.updLaunch_keeps (State.takeTag_keeps ht))) fun _ => writeX_keeps
            · exact .when (.set (State.setLaunch_keeps ht)) waitHere_keeps))
       hs

theorem execOvopenTry_keeps {h d c s} (hs : Keeps o s) : Goes o (execOvopenTry h d c s) := by
  unfold execOvopenTry
  dsimp only
  exact runSeq_keeps
      (.bind ownLaunch_keeps fun _ =>
       .bind needUnit_keeps fun _ =>
       .get_bind fun _ ht => by
         split
         · exact .bind (.set (State.takeTag_keeps ht)) fun _ => .bind writeX_keeps fun _ => writeP_keeps
         · exact .bind writeX_keeps fun _ => writeP_keeps)
       hs

theorem execOvset_keeps {h a s} (hs : Keeps o s) : Goes o (execOvset h a s) :=
  runSeq_keeps
    (.bind readX_keeps fun _ => .get_bind fun _ _ => .bind curHart_keeps fun _ => .ite modHart_keeps trap_keeps)
    hs

theorem endable_keeps {t} : Holds o (endable t) :=
  .get_bind fun _ _ => .bind curHart_keeps fun _ => .ite trap_keeps needUnit_keeps

theorem execOvretire_keeps {h d a s} (hs : Keeps o s) : Goes o (execOvretire h d a s) := by
  unfold execOvretire
  exact runSeq_keeps
      (.bind readX_keeps fun _ =>
       .bind endable_keeps fun _ =>
       .get_bind fun _ ht =>
       .bind curHart_keeps
         fun _ => .bind curSlot_keeps fun _ => .bind (.set (State.endTag_keeps ht)) fun _ => writeX_keeps)
       hs

theorem execOvcommit_keeps {h sc d a s} (hs : Keeps o s) : Goes o (execOvcommit h sc d a s) := by
  unfold execOvcommit
  exact runSeq_keeps
      (.bind readX_keeps fun _ =>
       .bind endable_keeps fun _ =>
       .bind release_keeps fun _ =>
       .bind curHart_keeps fun _ =>
       .when waitHere_keeps
         (.get_bind fun _ _ =>
          .bind curSlot_keeps fun _ =>
          .when waitHere_keeps
            (.bind curCore_keeps fun _ =>
             .get_bind fun _ _ =>
             .bind drainGate_keeps fun _ =>
             .bind endable_keeps fun _ =>
             .get_bind fun _ hv =>
             .bind curHart_keeps
               fun _ => .bind curSlot_keeps fun _ => .bind (.set (State.endTag_keeps hv)) fun _ => writeX_keeps)))
       hs

theorem liveWord_keeps {tw} : Holds o (liveWord tw) :=
  .get_bind fun _ _ => .bind curHart_keeps fun _ => .ite (.pure _) trap_keeps

theorem execLdo_keeps {h t d a b disp s} (hs : Keeps o s) : Goes o (execLdo h t d a b disp s) := by
  unfold execLdo
  exact runSeq_keeps
      (vecRun_keeps
         (.bind readX_keeps fun _ =>
          .bind readX_keeps fun _ =>
          .bind liveWord_keeps
            fun _ => .ite trap_keeps (.bind hartCtx_keeps fun _ => .bind hartLoad_keeps fun _ => writeX_keeps)))
       hs

theorem execVldo_keeps {h t d a b disp s} (hs : Keeps o s) : Goes o (execVldo h t d a b disp s) := by
  unfold execVldo
  exact runVec_keeps
      (.bind readX_keeps fun _ =>
       .bind readX_keeps fun _ => .bind liveWord_keeps fun _ => .bind curHart_keeps fun _ => bodyLoad_keeps)
       hs

theorem execOvstat_keeps {h sel d a s} (hs : Keeps o s) : Goes o (execOvstat h sel d a s) := by
  unfold execOvstat
  exact runSeq_keeps (.bind readX_keeps fun _ => .get_bind fun _ _ => writeX_keeps) hs

/-! Cache maintenance, DIGEST and BUDGET. -/

theorem execCarve_keeps {h d a s} (hs : Keeps o s) : Goes o (execCarve h d a s) := by
  unfold execCarve
  exact runSeq_keeps
      (.bind readX_keeps fun _ =>
       .bind curCore_keeps fun _ =>
       .bind curHart_keeps fun _ =>
       .bind release_keeps fun _ =>
       .get_bind fun _ _ =>
       .ite waitHere_keeps
         (.bind drainGate_keeps fun _ =>
          .bind (.modify fun _ hu => State.updScratch_keeps hu) fun _ => .bind acquire_keeps fun _ => writeX_keeps))
       hs

theorem State.dropSector_keeps {s sec} (hs : Keeps o s) : Keeps o (s.dropSector sec) :=
  .put hs rfl rfl

theorem State.maintain_keeps {s core op l2 sec} (hs : Keeps o s) : Keeps o (s.maintain core op l2 sec) := by
  unfold State.maintain
  dsimp only
  exact .ite (.ite (State.drainLine_keeps hs) (State.dropL1_keeps (State.drainLine_keeps hs)))
      (by
         split
         · exact .writeBack (.ite (State.drainLine_keeps hs) (State.dropL1_keeps (State.drainLine_keeps hs)))
         · exact State.dropSector_keeps
               (.setMem (.ite (State.drainLine_keeps hs) (State.dropL1_keeps (State.drainLine_keeps hs))) rfl)
         · exact State.dropSector_keeps
               (.writeBack (.ite (State.drainLine_keeps hs) (State.dropL1_keeps (State.drainLine_keeps hs)))))

theorem maintLine_keeps {c op l2 va} : Holds o (maintLine c op l2 va) :=
  .ite trap_keeps (.modify fun _ hs => .foldl hs fun _ _ ht => State.maintain_keeps ht)

theorem bodyMaint_keeps {hd op l2 d m} : Holds o (bodyMaint hd op l2 d m) := by
  unfold bodyMaint
  dsimp only
  exact .bind readEA_keeps fun _ =>
    .bind readX_keeps fun _ =>
    .bind hartCtx_keeps fun _ =>
    .bind curStream_keeps fun _ => by
      split
      · exact .pure _
      · exact .bind maintLine_keeps fun _ => .ite (.pure _) (.bind modStream_keeps fun _ => waitHere_keeps)

theorem execCclean_keeps {h l2 d m s} (hs : Keeps o s) : Goes o (execCclean h l2 d m s) :=
  runSeq_keeps bodyMaint_keeps hs

theorem execCinv_keeps {h l2 d m s} (hs : Keeps o s) : Goes o (execCinv h l2 d m s) :=
  runSeq_keeps bodyMaint_keeps hs

theorem execCflush_keeps {h l2 d m s} (hs : Keeps o s) : Goes o (execCflush h l2 d m s) :=
  runSeq_keeps bodyMaint_keeps hs

theorem bodyTlbi_keeps {walk hit} : Holds o (bodyTlbi walk hit) :=
  .bind release_keeps fun _ => .get_bind fun _ _ => .ite waitHere_keeps (.modify fun _ ht => .setMem ht (by simp))

theorem execTlbiAll_keeps {h s} (hs : Keeps o s) : Goes o (execTlbiAll h s) :=
  runSeq_keeps bodyTlbi_keeps hs

theorem execTlbiAsid_keeps {h a s} (hs : Keeps o s) : Goes o (execTlbiAsid h a s) :=
  runSeq_keeps (.bind readX_keeps fun _ => .ite trapIll_keeps bodyTlbi_keeps) hs

theorem execTlbiRange_keeps {h a b c s} (hs : Keeps o s) : Goes o (execTlbiRange h a b c s) := by
  unfold execTlbiRange
  exact runSeq_keeps
      (.bind readX_keeps
         fun _ => .bind readX_keeps fun _ => .bind readX_keeps fun _ => .ite trapIll_keeps bodyTlbi_keeps)
       hs

theorem leaveDigest_keeps {d v kind} : Holds o (leaveDigest d v kind) :=
  .bind modStream_keeps fun _ => writeX_keeps

theorem execDigest_keeps {h d a s} (hs : Keeps o s) : Goes o (execDigest h d a s) := by
  unfold execDigest
  exact runSeq_keeps
      (.bind readX_keeps fun _ =>
       .get_bind fun _ _ =>
       .ite waitHere_keeps
         (by
            split
            · exact leaveDigest_keeps
            · exact leaveDigest_keeps))
       hs

theorem execDigestRng_keeps {h d a b s} (hs : Keeps o s) : Goes o (execDigestRng h d a b s) := by
  unfold execDigestRng
  exact runSeq_keeps
      (.bind readX_keeps fun _ =>
       .bind readX_keeps fun _ =>
       .ite trap_keeps
         (.ite trap_keeps
            (.bind curTag_keeps fun _ =>
             .bind hartCtx_keeps fun _ =>
             .bind (mapM'_keeps fun _ => .bind hartLoadWide_keeps fun _ => .pure _) fun _ => leaveDigest_keeps)))
       hs

theorem execBudget_keeps {h d cls res s} (hs : Keeps o s) : Goes o (execBudget h d cls res s) :=
  runSeq_keeps (.get_bind fun _ _ => writeX_keeps) hs

theorem execBudgetW_keeps {h d a cls res s} (hs : Keeps o s) : Goes o (execBudgetW h d a cls res s) := by
  unfold execBudgetW
  exact runSeq_keeps
      (.bind readX_keeps
         fun _ => .get_bind fun _ _ => .bind (.modify fun _ hu => .setMem hu (by simp)) fun _ => writeX_keeps)
       hs

/-! Events of the memory engine and of UALink. -/

theorem State.mapHarts_keeps {s f} (hs : Keeps o s) : Keeps o (s.mapHarts f) :=
  .put hs rfl rfl

theorem execFaultRecordPost_keeps {quad s} (hs : Keeps o s) : Goes o (execFaultRecordPost quad s) := by
  unfold execFaultRecordPost
  dsimp only
  split
  · exact .next hs
  · exact .ite (.next hs)
        (.next
           (.ite (State.postFault_keeps (State.recordOut_keeps (.setMem hs rfl)))
              (State.recordOut_keeps (.setMem hs rfl))))

theorem execFqrespRetry_keeps {quad id s} (hs : Keeps o s) : Goes o (execFqrespRetry quad id s) := by
  unfold execFqrespRetry
  dsimp only
  split
  · exact .next hs
  · exact .next (State.mapHarts_keeps (.setMem (.setMem hs rfl) (by simp)))

theorem State.hostFail_keeps {s r} (hs : Keeps o s) : Keeps o (s.hostFail r) := by
  unfold State.hostFail
  exact State.postFault_keeps (.ite (.put (.setMem hs rfl) rfl rfl) (.setMem hs rfl))

theorem execFqrespDecline_keeps {quad id s} (hs : Keeps o s) : Goes o (execFqrespDecline quad id s) := by
  unfold execFqrespDecline
  dsimp only
  split
  · exact .next hs
  · exact .next
        (.foldl (State.mapHarts_keeps (.setMem hs rfl)) fun _ _ ht => by
           split
           · exact .ite (State.setStream_keeps ht) ht
           · split
             · exact .ite (State.updCard_keeps (State.stopCard_keeps ht)) ht
             · exact ht
           · split
             · exact State.hostFail_keeps ht
             · exact ht
           · exact ht)

theorem hostLines_keeps {r n} : Holds o (hostLines r n) := by
  unfold hostLines
  dsimp only
  exact mapM'_keeps fun _ => by
      split
      · exact .bind translate_keeps fun _ => .bind budgetGate_keeps fun _ => .ite (.pure _) trap_keeps
      · exact trap_keeps

theorem State.serveHost_keeps {s r} (hs : Keeps o s) : Keeps o (s.serveHost r) := by
  unfold State.serveHost
  dsimp only
  split
  · next _ _ ht =>
      split
      · exact .put (.setMem (Holds.ok hostLines_keeps hs ht) rfl) rfl rfl
      · exact .foldl (.setMem (Holds.ok hostLines_keeps hs ht) rfl) fun _ _ ht => State.homeWriteBytes_keeps ht
  · next _ _ _ _ _ ht =>
      exact .setMem (State.raiseFault_keeps (Holds.error hostLines_keeps hs ht)) rfl
  · next _ ht =>
      exact (Holds.error hostLines_keeps hs ht)
  · next _ _ ht =>
      exact State.hostFail_keeps (Holds.error hostLines_keeps hs ht)

theorem State.serveHosts_keeps {s} (hs : Keeps o s) : Keeps o s.serveHosts := by
  unfold State.serveHosts
  exact .foldl hs fun _ _ ht => by
      split
      · exact .ite ht (State.serveHost_keeps ht)
      · exact ht

theorem State.hostRequest_keeps {s quad asid va len data} (hs : Keeps o s) :
    Keeps o (s.hostRequest quad asid va len data) := by
  unfold State.hostRequest
  exact State.serveHosts_keeps (.put hs rfl rfl)

theorem execHostDrd_keeps {quad asid va len s} (hs : Keeps o s) : Goes o (execHostDrd quad asid va len s) :=
  .next (State.hostRequest_keeps hs)

theorem execHostDwr_keeps {quad asid va data s} (hs : Keeps o s) : Goes o (execHostDwr quad asid va data s) :=
  .next (State.hostRequest_keeps hs)

theorem execPageWalkDone_keeps {s} (hs : Keeps o s) : Goes o (execPageWalkDone s) := by
  unfold execPageWalkDone
  dsimp only
  split
  · exact .next hs
  · exact .next
        (by
           split
           · exact State.setStream_keeps (.setMem hs rfl)
           · exact .setMem hs rfl
           · exact State.updCard_keeps (.setMem hs rfl)
           · exact State.serveHosts_keeps (.setMem (.setMem hs rfl) rfl))

theorem State.sendTrainOf_keeps {s serial idx isX rpkg add ty va elem elems round} (hs : Keeps o s) :
    Keeps o (s.sendTrainOf serial idx isX rpkg add ty va elem elems round) := by
  unfold State.sendTrainOf
  exact State.mapHarts_keeps (.put hs rfl rfl)

theorem State.doneElem_keeps {s slot a2 n} (hs : Keeps o s) : Keeps o (s.doneElem slot a2 n) := by
  unfold State.doneElem
  dsimp only
  split
  · exact State.setHart_keeps hs
  · exact hs

theorem performEntry_keeps {slot e} : Holds o (performEntry slot e) := by
  unfold performEntry
  dsimp only
  exact .get_bind fun _ _ =>
    .bind translate_keeps fun _ =>
    .bind budgetGate_keeps fun _ => by
      split
      · exact .ite (.modify fun _ ht => .foldl ht fun _ _ hu => State.hostWrite_keeps hu)
            (.ite (.modify fun _ ht => State.noteWrite_keeps (State.sendTrainOf_keeps ht))
               (.bind tagged_keeps fun _ =>
                .ite
                  (.bind materialise_keeps fun _ => .modify fun _ ht => State.wakeLine_keeps (State.putCell_keeps ht))
                  (.bind drainGate_keeps fun _ =>
                   .modify
                     fun _ ht => State.dropL1_keeps (.ite (State.homeThrough_keeps ht) (State.homeStore_keeps ht)))))
      · exact .ite trap_keeps
            (by
               split
               · exact .bind tagged_keeps fun _ =>
                   forM'_keeps fun _ =>
                   .get_bind fun _ ht => .when (.throw _) (.set (State.doneElem_keeps (.setMem ht rfl)))
               · exact .ite (.modify fun _ ht => State.noteWrite_keeps (State.sendTrainOf_keeps ht))
                     (.bind tagged_keeps fun _ =>
                      .ite
                        (.bind materialise_keeps
                           fun _ => .modify fun _ ht => State.wakeLine_keeps (State.putCell_keeps ht))
                        (.bind drainGate_keeps fun _ =>
                         forM'_keeps fun _ =>
                         .bind replayFrom_keeps fun _ =>
                         .modify fun _ ht => State.doneElem_keeps (State.dropNear_keeps (State.addHome_keeps ht)))))

theorem execSideLogPerform_keeps {hart s} (hs : Keeps o s) : Goes o (execSideLogPerform hart s) := by
  unfold execSideLogPerform
  dsimp only
  split
  · exact .next hs
  · exact .ite (.next hs)
        (by
           split
           · next _ _ ht =>
               exact .next (State.setHart_keeps (Holds.ok performEntry_keeps hs ht))
           · next _ _ _ _ _ ht =>
               exact .next (State.setHart_keeps (State.raiseFault_keeps (Holds.error performEntry_keeps hs ht)))
           · next _ _ _ ht =>
               exact .next (State.setHart_keeps (State.raiseFault_keeps (Holds.error performEntry_keeps hs ht)))
           · next _ _ _ ht =>
               exact .next (State.setHart_keeps (Holds.error performEntry_keeps hs ht))
           · next _ _ ht =>
               exact .next (Holds.error performEntry_keeps hs ht))

theorem State.performDue_keeps {slot n s} (hs : Keeps o s) : Keeps o (s.performDue slot n) := by
  induction n generalizing s with
  | zero => exact hs
  | succ n ih =>
    unfold State.performDue
    split
    · exact hs
    · split
      · split
        · next _ ht => exact ih (execSideLogPerform_keeps hs _ ht)
        · exact hs
        · exact hs
      · exact hs

theorem State.leaveTagQueue_keeps {s p} (hs : Keeps o s) : Keeps o (s.leaveTagQueue p) := by
  unfold State.leaveTagQueue
  split
  · exact hs
  · exact State.updLaunch_keeps hs

theorem State.dropInHand_keeps {s p} (hs : Keeps o s) : Keeps o (s.dropInHand p) := by
  unfold State.dropInHand
  split
  · exact hs
  · exact .ite hs (State.setHart_keeps hs)

theorem State.takeDeferred_keeps {s p cause} (hs : Keeps o s) : Keeps o (s.takeDeferred p cause) := by
  unfold State.takeDeferred
  dsimp only
  split
  · exact hs
  · split
    · exact hs
    · exact .ite hs
          (State.enterTrap_keeps (State.setStream_keeps (State.dropInHand_keeps (State.leaveTagQueue_keeps hs))))

theorem execSideLogPageTrap_keeps {p s} (hs : Keeps o s) : Goes o (execSideLogPageTrap p s) :=
  .next (State.takeDeferred_keeps hs)

theorem execTagEndOvstaleTrap_keeps {p s} (hs : Keeps o s) : Goes o (execTagEndOvstaleTrap p s) :=
  .next (State.takeDeferred_keeps hs)

theorem execRoundProtTrap_keeps {p s} (hs : Keeps o s) : Goes o (execRoundProtTrap p s) :=
  .next (State.takeDeferred_keeps hs)

theorem execWcbDrainTimeout_keeps {core s} (hs : Keeps o s) : Goes o (execWcbDrainTimeout core s) :=
  .next (State.drainSome_keeps hs)

theorem execL1LeaseExpire_keeps {core s} (hs : Keeps o s) : Goes o (execL1LeaseExpire core s) := by
  unfold execL1LeaseExpire
  dsimp only
  split
  · exact .next hs
  · exact .next (State.setCore_keeps hs)

theorem execBorderCopyInvalidate_keeps {quad sector s} (hs : Keeps o s) :
    Goes o (execBorderCopyInvalidate quad sector s) := by
  unfold execBorderCopyInvalidate
  exact .ite (.next (.put (.setMem hs rfl) rfl rfl)) (.next hs)

theorem State.energyUpdate_keeps {s} (hs : Keeps o s) : Keeps o s.energyUpdate := by
  unfold State.energyUpdate
  exact .put (State.setLa_keeps hs) rfl rfl

theorem State.startPeriod_keeps {s} (hs : Keeps o s) : Keeps o s.startPeriod := by
  unfold State.startPeriod
  exact State.serveHosts_keeps (.setMem (State.energyUpdate_keeps hs) rfl)

theorem execBudgetPeriod_keeps {s} (hs : Keeps o s) : Goes o (execBudgetPeriod s) :=
  .next (.ite (State.startPeriod_keeps hs) hs)

theorem State.applyEntry_keeps {s e} (hs : Keeps o s) : Keeps o (s.applyEntry e) := by
  unfold State.applyEntry
  dsimp only
  split
  · exact State.noteWrite_keeps (State.sendTrainOf_keeps hs)
  · exact .ite
        (State.wakeLine_keeps
           (State.putCell_keeps
              (by
                 split
                 · exact hs
                 · exact .put hs rfl rfl)))
         (State.dropNear_keeps (State.addHome_keeps hs))

theorem State.replayEntry_keeps {s e} (hs : Keeps o s) : ∀ t, s.replayEntry e = some t → Keeps o t := by
  intro t ht
  obtain ⟨u, hu, rfl⟩ := Option.map_eq_some_iff.mp ht
  exact State.mapHarts_keeps (State.replayInput_keeps hs u hu)

theorem State.applyRound_keeps {log s l} (hs : Keeps o s) : Keeps o (s.applyRound log l).1 := by
  induction l generalizing s with
  | nil => exact hs
  | cons e r ih =>
    unfold State.applyRound
    split
    · split
      · exact hs
      · next _ ht => exact ih (State.applyEntry_keeps (State.replayEntry_keeps hs _ ht))
    · exact ih (State.applyEntry_keeps hs)

theorem execRoundApply_keeps {serial s} (hs : Keeps o s) : Goes o (execRoundApply serial s) := by
  unfold execRoundApply
  dsimp only
  split
  · exact .next hs
  · exact .ite
        (.next
           (.ite (State.updLaunch_keeps (State.applyRound_keeps (.setMem hs rfl)))
              (.setMem (State.applyRound_keeps (.setMem hs rfl)) rfl)))
         (.next hs)

theorem execTrainReceive_keeps {t s} (hs : Keeps o s) : Goes o (execTrainReceive t s) := by
  unfold execTrainReceive
  exact .ite
      (.next (.put (.foldl hs fun _ _ ht => .ite (State.addHome_keeps ht) (State.homeWrite_keeps ht)) rfl rfl))
      (.next (.put hs rfl rfl))

theorem execTrainAck_keeps {serial s} (hs : Keeps o s) : Goes o (execTrainAck serial s) := by
  unfold execTrainAck
  dsimp only
  split
  · exact .next (State.mapHarts_keeps hs)
  · exact .next
        (by
           split
           · exact .ite (runJob_keeps arrivalAdd_keeps (State.updCard_keeps hs)) (State.updCard_keeps hs)
           · exact State.updCard_keeps hs)

theorem State.failTrain_keeps {s serial} (hs : Keeps o s) : Keeps o (s.failTrain serial) := by
  unfold State.failTrain
  dsimp only
  split
  · exact State.postFault_keeps (State.stopCard_keeps (State.updCard_keeps hs))
  · split
    · exact hs
    · exact State.postFault_keeps (State.mapHarts_keeps hs)

theorem execTrainRefusal_keeps {serial s} (hs : Keeps o s) : Goes o (execTrainRefusal serial s) := by
  unfold execTrainRefusal
  dsimp only
  split
  · exact .next hs
  · exact .ite (.next (State.failTrain_keeps hs))
        (.next (.put (State.setLa_keeps (State.mapHarts_keeps hs)) rfl rfl))

theorem execUalinkReadServe_keeps {r s} (hs : Keeps o s) : Goes o (execUalinkReadServe r s) := by
  unfold execUalinkReadServe
  dsimp only
  exact .ite (.next (.put hs rfl rfl))
      (.next
         (.put
            (by
               split
               · exact hs
               · split
                 · exact State.homeWrite_keeps hs
                 · exact hs)
             rfl rfl))

theorem State.addReplied_keeps {s id ok} (hs : Keeps o s) : Keeps o (s.addReplied id ok) := by
  unfold State.addReplied
  dsimp only
  split
  · exact hs
  · split
    · exact State.postLaunch_keeps (State.setLaunch_keeps hs)
    · exact State.setLaunch_keeps hs

theorem State.deliver_keeps {s id ok data} (hs : Keeps o s) : Keeps o (s.deliver id ok data) := by
  unfold State.deliver
  exact State.addReplied_keeps (State.setLa_keeps (State.mapHarts_keeps hs))

theorem execUalinkResponse_keeps {id data s} (hs : Keeps o s) : Goes o (execUalinkResponse id data s) :=
  .next (State.deliver_keeps hs)

theorem execTlbicmdAll_keeps {s} (hs : Keeps o s) : Goes o (execTlbicmdAll s) :=
  .next (.setMem hs (by simp))

theorem execTlbicmdAsid_keeps {asid s} (hs : Keeps o s) : Goes o (execTlbicmdAsid asid s) :=
  .next (.setMem hs (by simp))

theorem execTlbicmdRange_keeps {asid s} (hs : Keeps o s) : Goes o (execTlbicmdRange asid s) :=
  .next (.setMem hs (by simp))

theorem execTlbicmdDone_keeps {s} (hs : Keeps o s) : Goes o (execTlbicmdDone s) := by
  unfold execTlbicmdDone
  dsimp only
  split
  · exact .next hs
  · exact .ite (.next hs) (.next (.setMem hs (by simp)))

theorem State.markError_keeps {s x} (hs : Keeps o s) : Keeps o (s.markError x) := by
  unfold State.markError
  dsimp only
  split
  · exact .setMem hs (by simp)
  · exact State.setCore_keeps hs
  · exact State.setArray_keeps hs
  · split
    · exact State.setHart_keeps hs
    · exact hs
  · split
    · exact State.setHart_keeps hs
    · exact hs

theorem execUncorrected_keeps {at_ s} (hs : Keeps o s) : Goes o (execUncorrected at_ s) := by
  unfold execUncorrected
  exact .next (State.postFault_keeps (State.markError_keeps hs))

theorem execScrub_keeps {quad corrected s} (hs : Keeps o s) : Goes o (execScrub quad corrected s) := by
  unfold execScrub
  exact .next (.ite (.setMem hs rfl) hs)

theorem execOvgaddWrite_keeps {v s} (hs : Keeps o s) : Goes o (execOvgaddWrite v s) := by
  unfold execOvgaddWrite
  exact .next (.put hs rfl rfl)

theorem execPoolGrowDone_keeps {s} (hs : Keeps o s) : Goes o (execPoolGrowDone s) := by
  unfold execPoolGrowDone
  dsimp only
  split
  · exact .next hs
  · exact .next
        (by
           split
           · exact State.setLaunch_keeps (.put hs rfl rfl)
           · exact .put hs rfl rfl)

/-! Tile shape, allotment and strips. -/

theorem configRun_keeps {hd wait body} (hwait : Holds o wait) (hbody : Holds o body) :
    Holds o (configRun hd wait body) :=
  .bind vecRoom_keeps fun _ =>
  .bind hwait
    fun _ => .bind (.modify fun _ hs => State.enterOrder_keeps hs) fun _ => .bind hbody fun _ => vecLeave_keeps

theorem execSetvl_keeps {h t d a s} (hs : Keeps o s) : Goes o (execSetvl h t d a s) := by
  unfold execSetvl
  exact runSeq_keeps
      (.bind readReg_keeps fun _ =>
       .bind curHart_keeps
         fun _ => configRun_keeps requestLanes_keeps (.bind modHart_keeps fun _ => writeCommit_keeps))
       hs

theorem execSetvlRel_keeps {h d s} (hs : Keeps o s) : Goes o (execSetvlRel h d s) :=
  runSeq_keeps
    (configRun_keeps vecCommitted_keeps
       (.bind curSlot_keeps fun _ => .bind writeCommit_keeps fun _ => .modify fun _ ht => State.releaseLanes_keeps ht))
     hs

theorem execSetrc_keeps {h t d a s} (hs : Keeps o s) : Goes o (execSetrc h t d a s) := by
  unfold execSetrc
  exact runSeq_keeps
      (configRun_keeps (.pure _)
         (.bind readReg_keeps fun _ => .bind curHart_keeps fun _ => .bind modHart_keeps fun _ => writeCommit_keeps))
       hs

theorem execAlloc_keeps {h d a s} (hs : Keeps o s) : Goes o (execAlloc h d a s) := by
  unfold execAlloc
  exact runSeq_keeps
      (configRun_keeps (.pure _)
         (.bind readReg_keeps fun _ =>
          .bind curHart_keeps fun _ =>
          .get_bind fun _ _ => .bind curCore_keeps fun _ => .bind modHart_keeps fun _ => writeCommit_keeps))
       hs

theorem execShrink_keeps {h d a s} (hs : Keeps o s) : Goes o (execShrink h d a s) := by
  unfold execShrink
  exact runSeq_keeps
      (configRun_keeps vecCommitted_keeps
         (.bind readReg_keeps fun _ => .bind curHart_keeps fun _ => .bind modHart_keeps fun _ => writeCommit_keeps))
       hs

theorem stripScan_keeps {fuel n line count} : Holds o (stripScan fuel n line count) := by
  induction fuel generalizing n line count with
  | zero => exact trap_keeps
  | succ fuel ih =>
    unfold stripScan
    exact .ite trap_keeps (.ite (.pure _) (.ite (.bind (.pure _) fun _ => ih) (.bind fetchLine_keeps fun _ => ih)))

theorem execStrip_keeps {h t d a b c sa sb sc s} (hs : Keeps o s) :
    Goes o (execStrip h t d a b c sa sb sc s) := by
  unfold execStrip
  exact runHart_keeps
      (.bind curStream_keeps fun _ =>
       .get_bind fun _ _ =>
       .ite trap_keeps
         (.get_bind fun _ _ =>
          .bind fetchLine_keeps fun _ =>
          .bind stripScan_keeps fun _ =>
          .bind fetchLine_keeps fun _ =>
          .ite (.bind (configRun_keeps (.pure _) (.pure _)) fun _ => .pure _)
            (.bind (configRun_keeps requestLanes_keeps (.bind modHart_keeps fun _ => modStream_keeps))
               fun _ => .pure _)))
       hs

/-! The launch engine. -/

theorem State.accept_keeps {s r name home evq ring after} (hs : Keeps o s) :
    Keeps o (s.accept r name home evq ring after) := by
  unfold State.accept
  exact State.setLa_keeps (.put hs rfl rfl)

theorem State.setRing_keeps {s n r} (hs : Keeps o s) : Keeps o (s.setRing n r) :=
  State.setLa_keeps hs

theorem State.postRing_keeps {s n code} (hs : Keeps o s) : Keeps o (s.postRing n code) :=
  State.postEvent_keeps hs

theorem execRingWptrWrite_keeps {n w s} (hs : Keeps o s) : Goes o (execRingWptrWrite n w s) := by
  unfold execRingWptrWrite
  exact .ite (.next (State.postRing_keeps (State.setRing_keeps hs)))
      (.ite (.next (State.postRing_keeps (State.setRing_keeps hs))) (.next (State.setRing_keeps hs)))

theorem execRingReset_keeps {n v s} (hs : Keeps o s) : Goes o (execRingReset n v s) := by
  unfold execRingReset
  exact .next (State.setRing_keeps hs)

theorem State.startRingReads_keeps {s n addr} (hs : Keeps o s) : Keeps o (s.startRingReads n addr) := by
  unfold State.startRingReads
  exact State.setRing_keeps (.put hs rfl rfl)

theorem State.takeEntry_keeps {s n r b} (hs : Keeps o s) : Keeps o (s.takeEntry n r b) := by
  unfold State.takeEntry
  exact .ite (State.postEvent_keeps (State.setRing_keeps hs)) (State.accept_keeps (State.setRing_keeps hs))

theorem execRingEntryRead_keeps {n s} (hs : Keeps o s) : Goes o (execRingEntryRead n s) := by
  unfold execRingEntryRead
  dsimp only
  exact .ite (.next hs)
      (by
         split
         · exact .next (.ite (State.startRingReads_keeps hs) hs)
         · exact .ite
               (by
                  split
                  · exact .next hs
                  · next _ ht =>
                      exact .next (State.takeEntry_keeps (State.replayInput_keeps hs _ ht)))
                (.next (State.takeEntry_keeps hs)))

theorem State.logReplied_keeps {s id ok data} (hs : Keeps o s) : Keeps o (s.logReplied id ok data) := by
  unfold State.logReplied
  exact .ite (State.retryInputs_keeps (.put hs rfl rfl)) hs

theorem execHostCpl_keeps {id ok data s} (hs : Keeps o s) : Goes o (execHostCpl id ok data s) := by
  unfold execHostCpl
  exact .next (State.logReplied_keeps (State.setLa_keeps (State.deliver_keeps hs)))

theorem execPriorityAge_keeps {n s} (hs : Keeps o s) : Goes o (execPriorityAge n s) := by
  unfold execPriorityAge
  dsimp only
  split
  · exact .next hs
  · exact .next (.ite (State.setRing_keeps hs) hs)

theorem State.settleAging_keeps {s n} (hs : Keeps o s) : Keeps o (s.settleAging n) := by
  unfold State.settleAging
  exact .ite hs (State.setRing_keeps hs)

theorem State.settleRing_keeps {s l} (hs : Keeps o s) : Keeps o (s.settleRing l) := by
  unfold State.settleRing
  split
  · exact State.settleAging_keeps hs
  · exact hs

theorem State.engineWord_keeps {s asid va} (hs : Keeps o s) : ∀ p, s.engineWord asid va = some p → Keeps o p.2 := by
  intro p hp
  unfold State.engineWord at hp
  split at hp
  · exact nomatch hp
  · split at hp
    · exact nomatch hp
    · split at hp
      · exact Option.some.inj hp ▸ State.draw_keeps hs
      · split at hp
        · exact nomatch hp
        · exact Option.some.inj hp ▸ hs

theorem State.evalDeps_keeps {s l r} (hs : Keeps o s) : Keeps o (s.evalDeps l r).1 := by
  induction r generalizing s with
  | nil => exact hs
  | cons d r ih =>
    unfold State.evalDeps
    split
    · exact ih hs
    · split
      · exact ih (.ite hs (State.postLaunch_keeps hs))
      · next _ ht => exact ih (State.engineWord_keeps hs _ ht)

theorem State.evaluate_keeps {s serial} (hs : Keeps o s) : Keeps o (s.evaluate serial) := by
  unfold State.evaluate
  dsimp only
  split
  · exact hs
  · exact .ite hs (State.settleRing_keeps (State.setLaunch_keeps (State.evalDeps_keeps (.setMem hs (by simp)))))

theorem execDepEval_keeps {serial s} (hs : Keeps o s) : Goes o (execDepEval serial s) :=
  .next (State.evaluate_keeps hs)

theorem State.wordSignalled_keeps {s pa} (hs : Keeps o s) : Keeps o (s.wordSignalled pa) := by
  unfold State.wordSignalled
  exact .foldl hs fun _ _ ht => State.evaluate_keeps ht

theorem State.reevaluate_keeps {s} (hs : Keeps o s) : Keeps o s.reevaluate :=
  .foldl hs fun _ _ ht => State.evaluate_keeps ht

theorem State.seat_keeps {s l hs'} (hs : Keeps o s) : Keeps o (s.seat l hs') := by
  unfold State.seat
  exact .put
      (.ite
         (State.clearL1_keeps
            (State.setCore_keeps
               (State.setHart_keeps (State.clearL1_keeps (State.setCore_keeps (State.setHart_keeps hs))))))
          (State.clearL1_keeps (State.setCore_keeps (State.setHart_keeps hs))))
       rfl rfl

theorem State.takeResources_keeps {s l} (hs : Keeps o s) : Keeps o ((s.takeResources l).1) := by
  unfold State.takeResources
  dsimp only
  exact .ite_fst hs
      (by
         split
         · exact hs
         · exact .setMem hs rfl)

theorem State.traceStart_keeps {s l} (hs : Keeps o s) : Keeps o (s.traceStart l) :=
  State.traceRecord_keeps hs

theorem State.seatGang_keeps {s l i slots} (hs : Keeps o s) : Keeps o (s.seatGang l i slots) := by
  unfold State.seatGang
  exact State.setLa_keeps
      (State.setLaunch_keeps
         (.foldl (.ite (State.traceStart_keeps (State.takeResources_keeps hs)) (State.takeResources_keeps hs))
            fun _ _ ht => State.seat_keeps ht))

theorem State.placeGangs_keeps {s serial r} (hs : Keeps o s) : Keeps o (s.placeGangs serial r) := by
  induction r generalizing s with
  | nil => exact hs
  | cons i r ih =>
    unfold State.placeGangs
    split
    · exact hs
    · split
      · exact hs
      · exact ih (State.seatGang_keeps hs)

theorem State.without_keeps {s v} (hs : Keeps o s) : Keeps o (s.without v) :=
  .put hs rfl rfl

theorem State.askPreempt_keeps {s vs} (hs : Keeps o s) : Keeps o (s.askPreempt vs) :=
  .foldl hs fun _ _ ht => State.updLaunch_keeps ht

theorem State.ringServed_keeps {s l} (hs : Keeps o s) : Keeps o (s.ringServed l) := by
  unfold State.ringServed
  dsimp only
  split
  · exact hs
  · exact State.settleAging_keeps (State.setLa_keeps hs)

theorem State.startPod_keeps {s l} (hs : Keeps o s) : Keeps o (s.startPod l) := by
  unfold State.startPod
  exact .ite (State.traceStart_keeps (State.setLaunch_keeps (.put hs rfl rfl))) hs

theorem State.admitSelf_keeps {s serial} (hs : Keeps o s) : Keeps o (s.admitSelf serial) := by
  unfold State.admitSelf
  dsimp only
  split
  · exact hs
  · exact .ite (State.startPod_keeps (State.setLa_keeps (State.setLaunch_keeps (.put hs rfl rfl)))) hs

theorem execPodAdmission_keeps {podid rank s} (hs : Keeps o s) : Goes o (execPodAdmission podid rank s) := by
  unfold execPodAdmission
  dsimp only
  split
  · exact .next (.ite hs (State.setLa_keeps hs))
  · exact .next (State.startPod_keeps (.ite hs (State.setLa_keeps hs)))

theorem State.signalAdd_keeps {s l inc detail} (hs : Keeps o s) : Keeps o (s.signalAdd l inc detail) := by
  unfold State.signalAdd
  dsimp only
  exact .ite hs
      (by
         split
         · exact State.postLaunch_keeps hs
         · exact .ite (State.postLaunch_keeps hs)
               (.ite (.put (State.updLaunch_keeps hs) rfl rfl)
                  (.ite (State.postLaunch_keeps hs) (State.wordSignalled_keeps (State.homePerform_keeps hs)))))

theorem State.triggerAdd_keeps {s serial} (hs : Keeps o s) : Keeps o (s.triggerAdd serial) := by
  unfold State.triggerAdd
  split
  · exact hs
  · exact .ite hs (State.signalAdd_keeps (State.setLaunch_keeps hs))

theorem launchRecord_keeps {d a hd} : Holds o (launchRecord d a hd) := by
  unfold launchRecord
  exact .bind curStream_keeps fun _ =>
    .ite (.pure _)
      (.bind readX_keeps fun _ =>
       .ite trap_keeps
         (.bind ownLaunch_keeps fun _ =>
          .bind release_keeps fun _ =>
          .bind readCard_keeps fun _ =>
          .get_bind fun _ _ => .ite (.bind writeX_keeps fun _ => .pure _) (.bind modStream_keeps fun _ => .pure _)))

theorem bodyLaunch_keeps {try_ d a hd} : Holds o (bodyLaunch try_ d a hd) := by
  unfold bodyLaunch
  dsimp only
  exact .bind ownLaunch_keeps fun _ =>
    .bind launchRecord_keeps fun _ => by
      split
      · exact .pure _
      · exact .get_bind fun _ hs =>
          .ite waitHere_keeps
            (.ite (.ite writeX_keeps waitHere_keeps)
               (.bind (.set (State.accept_keeps (State.setLa_keeps hs))) fun _ => writeX_keeps))

theorem execLaunch_keeps {h d a s} (hs : Keeps o s) : Goes o (execLaunch h d a s) :=
  runSeq_keeps bodyLaunch_keeps hs

theorem execLaunchTry_keeps {h d a s} (hs : Keeps o s) : Goes o (execLaunchTry h d a s) :=
  runSeq_keeps bodyLaunch_keeps hs

theorem execTrig_keeps {h s} (hs : Keeps o s) : Goes o (execTrig h s) := by
  unfold execTrig
  exact runSeq_keeps
      (.bind ownLaunch_keeps fun _ =>
       .bind release_keeps fun _ =>
       .modify fun _ ht => .ite (State.triggerAdd_keeps (State.updLaunch_keeps ht)) (State.updLaunch_keeps ht))
       hs

theorem execBar_keeps {h lev s} (hs : Keeps o s) : Goes o (execBar h lev s) := by
  unfold execBar
  exact runSeq_keeps
      (.bind ownLaunch_keeps fun _ =>
       .ite trapIll_keeps
         (.bind curStream_keeps fun _ =>
          .ite (.bind release_keeps fun _ => .bind modStream_keeps fun _ => waitHere_keeps)
            (.ite waitHere_keeps acquire_keeps)))
       hs

theorem execBarRelease_keeps {serial level group s} (hs : Keeps o s) :
    Goes o (execBarRelease serial level group s) := by
  unfold execBarRelease
  dsimp only
  split
  · exact .next hs
  · exact .ite (.next hs)
        (.next
           (State.mapHarts_keeps
              (.ite hs (.setMem (.foldl hs fun _ _ ht => State.drainCore_keeps ht) (by simp)))))

theorem execWaitl_keeps {h sc d a b s} (hs : Keeps o s) : Goes o (execWaitl h sc d a b s) := by
  unfold execWaitl
  exact runSeq_keeps
      (.bind readX_keeps fun _ =>
       .bind readX_keeps fun _ =>
       .ite trap_keeps
         (.bind curTag_keeps fun _ =>
          .bind hartCtx_keeps fun _ =>
          .bind hartLoad_keeps fun _ =>
          .bind acquire_keeps fun _ =>
          .when (.modify fun _ ht => .setMem ht (by simp))
            (.ite writeX_keeps (.bind modStream_keeps fun _ => waitHere_keeps))))
       hs

theorem execLvlid_keeps {h lev sel d s} (hs : Keeps o s) : Goes o (execLvlid h lev sel d s) :=
  runSeq_keeps (.ite trapIll_keeps (.bind ownLaunch_keeps fun _ => .bind curHart_keeps fun _ => writeX_keeps))
    hs

end Sys2Proof.Machine
end

section
/-! SUPPORT. What the survey engine, the datum controller and the arrays keep (11; 14; 15). -/

set_option Elab.async false

namespace Sys2Proof.Machine

open Sys2Proof

variable {o : State}

/-! Operating points and their limits. -/

theorem State.settlePoint_keeps {s} (hs : Keeps o s) : Keeps o s.settlePoint :=
  .put hs rfl rfl

theorem State.forceBreak_keeps {s cause} (hs : Keeps o s) : Keeps o (s.forceBreak cause) := by
  unfold State.forceBreak
  exact State.postCollector_keeps (State.tracePackage_keeps (State.settlePoint_keeps (.put hs rfl rfl)))

theorem State.limitRose_keeps {s cause p} (hs : Keeps o s) : Keeps o (s.limitRose cause p) := by
  unfold State.limitRose
  dsimp only
  split
  · exact State.postEvent_keeps hs
  · exact .ite (State.forceBreak_keeps (State.postEvent_keeps hs)) (State.postEvent_keeps hs)

theorem State.setThermal_keeps {s p} (hs : Keeps o s) : Keeps o (s.setThermal p) := by
  unfold State.setThermal
  exact .ite (State.limitRose_keeps (.put hs rfl rfl)) (.put hs rfl rfl)

theorem State.setPower_keeps {s p} (hs : Keeps o s) : Keeps o (s.setPower p) := by
  unfold State.setPower
  exact .ite (State.limitRose_keeps (.put hs rfl rfl)) (.put hs rfl rfl)

theorem State.setPcap_keeps {s p} (hs : Keeps o s) : Keeps o (s.setPcap p) := by
  unfold State.setPcap
  exact .ite (State.limitRose_keeps (.put hs rfl rfl)) (.put hs rfl rfl)

theorem execPcapWrite_keeps {_board v s} (hs : Keeps o s) : Goes o (execPcapWrite _board v s) :=
  .next (State.setPcap_keeps hs)

theorem execPowerLimitRaise_keeps {s} (hs : Keeps o s) : Goes o (execPowerLimitRaise s) := by
  unfold execPowerLimitRaise
  exact .next (.ite (State.setPower_keeps (.put hs rfl rfl)) hs)

theorem execPowerLimitRelax_keeps {s} (hs : Keeps o s) : Goes o (execPowerLimitRelax s) := by
  unfold execPowerLimitRelax
  exact .next (.ite (State.setPower_keeps (.put hs rfl rfl)) hs)

theorem execThermalLimitRaise_keeps {s} (hs : Keeps o s) : Goes o (execThermalLimitRaise s) := by
  unfold execThermalLimitRaise
  exact .next (.ite (State.setThermal_keeps (.put hs rfl rfl)) hs)

theorem execThermalTrip_keeps {s} (hs : Keeps o s) : Goes o (execThermalTrip s) := by
  unfold execThermalTrip
  exact .next (.ite (State.setThermal_keeps (.put hs rfl rfl)) hs)

theorem execThermalLimitRelax_keeps {s} (hs : Keeps o s) : Goes o (execThermalLimitRelax s) := by
  unfold execThermalLimitRelax
  exact .next (.ite (State.setThermal_keeps (.put hs rfl rfl)) hs)

theorem execPointChange_keeps {s} (hs : Keeps o s) : Goes o (execPointChange s) := by
  unfold execPointChange
  exact .ite (.next (State.settlePoint_keeps hs))
      (.next (State.settlePoint_keeps (.put (State.draw_keeps hs) rfl rfl)))

theorem dueSteps_keeps : ∀ f ∈ dueSteps, ∀ s, Keeps o s → Goes o (f s) := by
  unfold dueSteps
  intro f hf s hs
  simp only [List.mem_cons, List.not_mem_nil, or_false] at hf
  obtain rfl | rfl | rfl | rfl | rfl := hf
  · exact execThermalTrip_keeps hs
  · exact execThermalLimitRaise_keeps hs
  · exact execPowerLimitRaise_keeps hs
  · exact execPowerLimitRelax_keeps hs
  · exact execThermalLimitRelax_keeps hs

theorem State.settleLimits_keeps {s} (hs : Keeps o s) : Keeps o s.settleLimits := by
  unfold State.settleLimits
  have hsteps := dueSteps_keeps (o := o)
  generalize dueSteps = l at hsteps ⊢
  induction l generalizing s with
  | nil => exact hs
  | cons f l ih =>
    refine ih ?_ fun g hg => hsteps g (List.mem_cons_of_mem _ hg)
    dsimp only
    split
    · next _ ht => exact hsteps f List.mem_cons_self s hs _ ht
    · exact hs

theorem State.senseTick_keeps {s} (hs : Keeps o s) : Keeps o s.senseTick := by
  unfold State.senseTick
  exact .put (State.draw_keeps hs) rfl rfl

theorem State.sensePeriod_keeps {s} (hs : Keeps o s) : Keeps o s.sensePeriod := by
  unfold State.sensePeriod
  exact .put (State.draw_keeps hs) rfl rfl

theorem State.pointDeadline_keeps {s} (hs : Keeps o s) : Keeps o s.pointDeadline := by
  unfold State.pointDeadline
  dsimp only
  exact .ite (.put hs rfl rfl)
      (by
         split
         · exact .put hs rfl rfl
         · exact .ite (State.settlePoint_keeps hs) hs)

/-! The survey engine and the tick. -/

theorem awaitOwn_keeps : Holds o awaitOwn :=
  .get_bind fun _ _ => .ite waitHere_keeps (.pure _)

theorem execMtick_keeps {h d s} (hs : Keeps o s) : Goes o (execMtick h d s) :=
  runSeq_keeps (.get_bind fun _ _ => writeX_keeps) hs

theorem execMtickOrd_keeps {h d s} (hs : Keeps o s) : Goes o (execMtickOrd h d s) :=
  runSeq_keeps (.bind awaitOwn_keeps fun _ => .get_bind fun _ _ => writeX_keeps) hs

theorem runSurvey_keeps {i h body s} (hbody : Holds o body) (hs : Keeps o s) :
    Goes o (runSurvey i h body s) :=
  runSeq_keeps (.bind needUnit_keeps fun _ => hbody) hs

theorem execSvmark_keeps {h code a s} (hs : Keeps o s) : Goes o (execSvmark h code a s) := by
  unfold execSvmark
  exact runSurvey_keeps
      (.bind awaitOwn_keeps fun _ =>
       .bind readX_keeps fun _ => .get_bind fun _ ht => .ite (.set (State.traceRecord_keeps ht)) (.pure _))
       hs

theorem execSvsamp_keeps {h n a s} (hs : Keeps o s) : Goes o (execSvsamp h n a s) := by
  unfold execSvsamp
  dsimp only
  exact runSurvey_keeps
      (.bind readX_keeps fun _ =>
       .bind hartCtx_keeps fun _ =>
       .ite trap_keeps
         (by
            split
            · exact .ite trap_keeps (.bind scratchAt_keeps fun _ => modHart_keeps)
            · exact trap_keeps))
       hs

theorem execSvsampOff_keeps {h s} (hs : Keeps o s) : Goes o (execSvsampOff h s) :=
  runSurvey_keeps modHart_keeps hs

theorem execSvread_keeps {h sel d a s} (hs : Keeps o s) : Goes o (execSvread h sel d a s) := by
  unfold execSvread
  exact runSurvey_keeps
      (.bind readX_keeps fun _ =>
       .ite trapIll_keeps
         (.ite (.bind acquire_keeps fun _ => .bind curHart_keeps fun _ => writeX_keeps)
            (.ite (.bind curHart_keeps fun _ => .bind modHart_keeps fun _ => writeX_keeps)
               (.ite (.bind curLaunch?_keeps fun _ => writeX_keeps) (.get_bind fun _ _ => writeX_keeps)))))
       hs

theorem execSampleRecord_keeps {hart stages total s} (hs : Keeps o s) :
    Goes o (execSampleRecord hart stages total s) := by
  unfold execSampleRecord
  dsimp only
  split
  · exact .next hs
  · split
    · exact .next hs
    · exact .ite (.next (State.setHart_keeps hs)) (.next (State.scratchStore_keeps (State.setHart_keeps hs)))

theorem State.armStop_keeps {s t} (hs : Keeps o s) : Keeps o ((s.armStop t).1) := by
  unfold State.armStop
  exact .ite_fst hs (.ite_fst hs (.ite_fst hs (.put hs rfl rfl)))

theorem execSvstop_keeps {h d a s} (hs : Keeps o s) : Goes o (execSvstop h d a s) := by
  unfold execSvstop
  exact runSurvey_keeps
      (.bind readX_keeps fun _ => .get_bind fun _ ht => .bind (.set (State.armStop_keeps ht)) fun _ => writeX_keeps)
       hs

theorem State.fireStop_keeps {s} (hs : Keeps o s) : Keeps o s.fireStop := by
  unfold State.fireStop
  dsimp only
  split
  · exact .ite (.put hs rfl rfl) hs
  · exact hs

theorem execStopFire_keeps {s} (hs : Keeps o s) : Goes o (execStopFire s) :=
  .next (State.fireStop_keeps hs)

theorem State.shiftAges_keeps {s d} (hs : Keeps o s) : Keeps o (s.shiftAges d) :=
  .put hs rfl rfl

theorem execSvrunWrite_keeps {v s} (hs : Keeps o s) : Goes o (execSvrunWrite v s) := by
  unfold execSvrunWrite
  dsimp only
  split
  · exact .ite (.next (State.traceAt_keeps (State.shiftAges_keeps (.put hs rfl rfl)))) (.next hs)
  · exact .next hs

theorem keeps_execSvstatDisarm {v s} (hs : Keeps o s) : Goes o (execSvstatDisarm v s) := by
  unfold execSvstatDisarm
  exact .next (.ite (.put hs rfl rfl) hs)

theorem State.releaseLock_keeps {s} (hs : Keeps o s) : Keeps o s.releaseLock := by
  unfold State.releaseLock
  exact State.tracePackage_keeps (.put hs rfl rfl)

theorem State.dropLock_keeps {s serial} (hs : Keeps o s) : Keeps o (s.dropLock serial) :=
  .ite (State.releaseLock_keeps hs) hs

theorem State.takeLock_keeps {s serial p} (hs : Keeps o s) : Keeps o ((s.takeLock serial p).1) := by
  unfold State.takeLock
  exact .ite_fst hs (.ite_fst hs (State.tracePackage_keeps (State.settlePoint_keeps (.put hs rfl rfl))))

theorem execClklock_keeps {h p d s} (hs : Keeps o s) : Goes o (execClklock h p d s) := by
  unfold execClklock
  exact runSurvey_keeps
      (.get_bind fun _ ht => .bind curHart_keeps fun _ => .bind (.set (State.takeLock_keeps ht)) fun _ => writeX_keeps)
       hs

theorem execClklockOff_keeps {h d s} (hs : Keeps o s) : Goes o (execClklockOff h d s) :=
  runSurvey_keeps
    (.get_bind fun _ ht =>
     .bind curHart_keeps fun _ => .ite (.bind (.set (State.releaseLock_keeps ht)) fun _ => writeX_keeps) writeX_keeps)
     hs

theorem execRlctlWrite_keeps {v s} (hs : Keeps o s) : Goes o (execRlctlWrite v s) := by
  unfold execRlctlWrite
  exact .next (State.retryInputs_keeps (State.requestLog_keeps (.put hs rfl rfl)))

theorem execRlwptrSupply_keeps {v s} (hs : Keeps o s) : Goes o (execRlwptrSupply v s) := by
  unfold execRlwptrSupply
  exact .next (.ite (State.retryInputs_keeps (State.requestLog_keeps (.put hs rfl rfl))) hs)

theorem execReplayInputArrive_keeps {i s} (hs : Keeps o s) : Goes o (execReplayInputArrive i s) := by
  unfold execReplayInputArrive
  dsimp only
  split
  · exact .next (.put hs rfl rfl)
  · next _ ht =>
      exact .next (State.retryInputs_keeps (State.replayInput_keeps hs _ ht))

theorem execTickAlign_ends {tick s} (hs : Canonical s) : Ends (execTickAlign tick s) :=
  iteInduction (fun _ => (Goes.next (.refl s)).ends hs)
    fun _ => (Goes.next (State.fireStop_keeps (.refl _))).ends hs

theorem execTickAlignLoss_keeps {s} (hs : Keeps o s) : Goes o (execTickAlignLoss s) := by
  unfold execTickAlignLoss
  exact .ite (.next (State.postCollector_keeps (.put hs rfl rfl))) (.next hs)

theorem State.ageCaches_keeps {s} (hs : Keeps o s) : Keeps o s.ageCaches := by
  unfold State.ageCaches
  exact .ite
      (.put (.foldl (.foldl hs fun _ _ ht => State.drainSome_keeps ht) fun _ _ ht => State.performDue_keeps ht)
         rfl rfl)
      (.put
         (.setMem
            (.put
               (.foldl (.foldl hs fun _ _ ht => State.drainSome_keeps ht) fun _ _ ht => State.performDue_keeps ht)
                rfl rfl)
             rfl)
          rfl rfl)

/-- Of a tick, all but the counter itself. -/
theorem execMeridianTick_keeps {s} :
    Goes { s with sv := { s.sv with mtick := s.sv.mtick + 1 } } (execMeridianTick s) := by
  have hstart := Keeps.refl { s with sv := { s.sv with mtick := s.sv.mtick + 1 } }
  have hfire := State.fireStop_keeps hstart
  have htick := State.reevaluate_keeps (State.ageCaches_keeps (State.senseTick_keeps (State.settleLimits_keeps hfire)))
  unfold execMeridianTick
  exact .ite (.next hstart) (.ite (.next hfire) (.next (State.pointDeadline_keeps
    (.ite (State.startPeriod_keeps (State.sensePeriod_keeps htick)) htick))))

/-! The datum controller. -/

theorem State.raiseIbi_keeps {s} (hs : Keeps o s) : Keeps o s.raiseIbi := by
  unfold State.raiseIbi
  exact .ite (.put hs rfl rfl) (.put hs rfl rfl)

theorem State.sramStore_keeps {s firmware off bs} (hs : Keeps o s) : Keeps o (s.sramStore firmware off bs) := by
  unfold State.sramStore
  exact .ite (State.raiseIbi_keeps (.foldl (.put hs rfl rfl) fun _ _ ht => State.wakeLine_keeps ht))
      (.foldl (.put hs rfl rfl) fun _ _ ht => State.wakeLine_keeps ht)

theorem sramCheck_keeps {a n} : Holds o (sramCheck a n) :=
  .ite (.pure _) (.ite trap_keeps trap_keeps)

theorem sramGet_keeps {a n} : Holds o (sramGet a n) :=
  .bind sramCheck_keeps fun _ => .get_bind fun _ _ => .pure _

theorem sramPut_keeps {a n bs} : Holds o (sramPut a n bs) :=
  .bind sramCheck_keeps fun _ => .modify fun _ hs => State.sramStore_keeps hs

theorem unitMessage_keeps {a n} : Holds o (unitMessage a n) :=
  .ite trap_keeps sramGet_keeps

theorem runUnit_keeps {i h body s} (hbody : Holds o body) (hs : Keeps o s) : Goes o (runUnit i h body s) :=
  runSeq_keeps hbody hs

theorem modDatum_keeps {f} : Holds o (modDatum f) :=
  .modify fun _ hs => .put hs rfl rfl

theorem datum_keeps : Holds o datum :=
  .get_bind fun _ _ => .pure _

theorem execDhash_keeps {h d a b s} (hs : Keeps o s) : Goes o (execDhash h d a b s) :=
  runUnit_keeps
    (.bind readX_keeps fun _ =>
     .bind readX_keeps fun _ => .bind unitMessage_keeps fun _ => .bind readX_keeps fun _ => sramPut_keeps)
     hs

theorem execDverify_keeps {h mode d a s} (hs : Keeps o s) : Goes o (execDverify h mode d a s) := by
  unfold execDverify
  dsimp only
  exact runUnit_keeps
      (.bind readX_keeps fun _ =>
       .bind sramGet_keeps fun _ => by
         split
         · exact .ite (.bind (.pure _) fun _ => writeX_keeps)
               (.bind sramGet_keeps fun _ =>
                .bind datum_keeps fun _ => .bind modDatum_keeps fun _ => .bind (.pure _) fun _ => writeX_keeps)
         · exact .ite (.bind (.pure _) fun _ => writeX_keeps)
               (.bind sramGet_keeps fun _ =>
                .bind sramGet_keeps fun _ =>
                .bind sramGet_keeps fun _ =>
                .bind sramGet_keeps
                  fun _ => .bind datum_keeps fun _ => .ite_bind (.pure _) (.pure _) fun _ => writeX_keeps))
       hs

theorem signGate_keeps : Holds o signGate :=
  .bind datum_keeps fun _ => .ite trap_keeps (.pure _)

theorem execDsign_keeps {h d a b s} (hs : Keeps o s) : Goes o (execDsign h d a b s) := by
  unfold execDsign
  exact runUnit_keeps
      (.bind signGate_keeps fun _ =>
       .bind readX_keeps fun _ =>
       .bind readX_keeps fun _ =>
       .bind unitMessage_keeps fun _ => .bind readX_keeps fun _ => .bind datum_keeps fun _ => sramPut_keeps)
       hs

theorem execDsignAtt_keeps {h d a s} (hs : Keeps o s) : Goes o (execDsignAtt h d a s) := by
  unfold execDsignAtt
  exact runUnit_keeps
      (.bind signGate_keeps fun _ =>
       .bind readX_keeps fun _ =>
       .bind sramGet_keeps fun _ =>
       .bind datum_keeps
         fun _ => .get_bind fun _ _ => .bind readX_keeps fun _ => .bind datum_keeps fun _ => sramPut_keeps)
       hs

theorem execDsignPub_keeps {h d s} (hs : Keeps o s) : Goes o (execDsignPub h d s) := by
  unfold execDsignPub
  exact runUnit_keeps
      (.bind signGate_keeps fun _ => .bind readX_keeps fun _ => .bind datum_keeps fun _ => sramPut_keeps) hs

theorem execFuserd_keeps {h d a s} (hs : Keeps o s) : Goes o (execFuserd h d a s) :=
  runUnit_keeps (.bind readX_keeps fun _ => .ite trap_keeps (.bind datum_keeps fun _ => writeX_keeps)) hs

theorem State.postDatum_keeps {s code detail data} (hs : Keeps o s) :
    Keeps o (s.postDatum code detail data) :=
  State.postEvent_keeps hs

theorem State.setSlot_keeps {s n k} (hs : Keeps o s) : Keeps o (s.setSlot n k) :=
  .put hs rfl rfl

theorem State.discardRange_keeps {s lo hi} (hs : Keeps o s) : Keeps o (s.discardRange lo hi) :=
  .put hs (by simp) rfl

theorem State.wipeSlot_keeps {s n} (hs : Keeps o s) : Keeps o (s.wipeSlot n) := by
  unfold State.wipeSlot
  exact .ite (State.discardRange_keeps (State.setSlot_keeps hs))
      (.ite (State.discardRange_keeps (State.setSlot_keeps hs)) hs)

theorem State.wipeAll_keeps {s} (hs : Keeps o s) : Keeps o s.wipeAll := by
  unfold State.wipeAll
  exact .put (.foldl hs fun _ _ ht => State.wipeSlot_keeps ht) rfl rfl

theorem State.scramble_keeps {s r} (hs : Keeps o s) : Keeps o (s.scramble r) := by
  unfold State.scramble
  exact .put (.setMem hs rfl) rfl rfl

theorem State.loadSlot_keeps {s n} (hs : Keeps o s) : Keeps o (s.loadSlot n) := by
  unfold State.loadSlot
  exact .ite (State.discardRange_keeps (State.setSlot_keeps (.ite (State.scramble_keeps hs) hs)))
      (State.setSlot_keeps hs)

theorem State.clearSeal_keeps {s n} (hs : Keeps o s) : Keeps o (s.clearSeal n) := by
  unfold State.clearSeal
  exact .ite hs (.ite (.setMem (State.setSlot_keeps hs) (by simp)) (State.setSlot_keeps hs))

theorem execKctlLoad_keeps {slot s} (hs : Keeps o s) : Goes o (execKctlLoad slot s) :=
  .next (State.loadSlot_keeps hs)

theorem execKctlClearSeal_keeps {slot s} (hs : Keeps o s) : Goes o (execKctlClearSeal slot s) :=
  .next (State.clearSeal_keeps hs)

theorem State.privWrite_keeps {s off v} (hs : Keeps o s) : Keeps o (s.privWrite off v) := by
  unfold State.privWrite
  exact .ite hs
      (.ite (State.setSlot_keeps hs)
         (.ite (State.setSlot_keeps hs)
            (.ite (.ite (State.loadSlot_keeps hs) (State.clearSeal_keeps hs))
               (.ite (State.setSlot_keeps hs) (.ite (State.setSlot_keeps hs) hs)))))

theorem wipeBody_keeps {all slots d} : Holds o (wipeBody all slots d) := by
  unfold wipeBody
  exact .bind datum_keeps fun _ =>
    .bind
      (.modify fun _ hs =>
       State.postDatum_keeps
         (.ite (.put (.foldl hs fun _ _ ht => State.wipeSlot_keeps ht) rfl rfl)
            (.foldl hs fun _ _ ht => State.wipeSlot_keeps ht)))
       fun _ => writeX_keeps

theorem execKeywipe_keeps {h d a s} (hs : Keeps o s) : Goes o (execKeywipe h d a s) :=
  runUnit_keeps (.bind readX_keeps fun _ => .ite trap_keeps wipeBody_keeps) hs

theorem execKeywipeAll_keeps {h d s} (hs : Keeps o s) : Goes o (execKeywipeAll h d s) :=
  runUnit_keeps wipeBody_keeps hs

theorem execMextend_keeps {h idx a b s} (hs : Keeps o s) : Goes o (execMextend h idx a b s) :=
  runUnit_keeps
    (.bind readX_keeps fun _ => .bind readX_keeps fun _ => .bind unitMessage_keeps fun _ => modDatum_keeps) hs

theorem execMextendDbg_keeps {h d s} (hs : Keeps o s) : Goes o (execMextendDbg h d s) := by
  unfold execMextendDbg
  exact runUnit_keeps (.bind datum_keeps fun _ => .ite writeX_keeps (.bind modDatum_keeps fun _ => writeX_keeps)) hs

theorem State.burn_keeps {s bits} (hs : Keeps o s) : Keeps o (s.burn bits) :=
  .put hs rfl rfl

theorem State.lifecycle_keeps {s} (hs : Keeps o s) {t} : ∀ u, s.lifecycle t = some u → Keeps o u := by
  intro u hu
  cases t with
  | prov =>
    obtain ⟨_, hu⟩ := Option.ite_none_right_eq_some.mp hu
    cases hu
    exact State.burn_keeps hs
  | depl =>
    obtain ⟨_, hu⟩ := Option.ite_none_right_eq_some.mp hu
    cases hu
    exact State.burn_keeps hs
  | debug =>
    obtain ⟨_, hu⟩ := Option.ite_none_right_eq_some.mp hu
    cases hu
    exact .put hs rfl rfl
  | rma =>
    obtain ⟨_, hu⟩ := Option.ite_none_right_eq_some.mp hu
    cases hu
    exact State.burn_keeps (State.wipeAll_keeps hs)

theorem execLcset_keeps {h t d s} (hs : Keeps o s) : Goes o (execLcset h t d s) := by
  unfold execLcset
  exact runUnit_keeps
      (.get_bind fun _ ht => by
         split
         · exact writeX_keeps
         · next _ hu =>
             exact .bind (.set (State.postDatum_keeps (State.lifecycle_keeps ht _ hu))) fun _ => writeX_keeps)
       hs

theorem execDbgopen_keeps {h mask d s} (hs : Keeps o s) : Goes o (execDbgopen h mask d s) :=
  runUnit_keeps
    (.bind datum_keeps fun _ => .ite (.bind modDatum_keeps fun _ => writeX_keeps) (.ite writeX_keeps writeX_keeps))
     hs

theorem execDunlkAbort_keeps {s} (hs : Keeps o s) : Goes o (execDunlkAbort s) :=
  .next (State.abortUnlock_keeps hs)

theorem execDchalDraw_keeps {s} (hs : Keeps o s) : Goes o (execDchalDraw s) :=
  .next (State.drawNonce_keeps hs)

theorem execPowerGoodReset_ends {s} (hs : Canonical s) : Ends (execPowerGoodReset s) := by
  have hwiped := Keeps.ite (c := lcOfFuses (s.dc.fuses.get 2 0) = 4) (State.wipeAll_keeps (.refl s)) (.refl s)
  intro t ht
  cases ht
  exact (Keeps.foldl hwiped fun _ _ hu => State.scramble_keeps hu).canonical hs

theorem execDwinWrite_keeps {v s} (hs : Keeps o s) : Goes o (execDwinWrite v s) := by
  unfold execDwinWrite
  exact .next (.put hs rfl rfl)

theorem execDmloadWrite_keeps {v s} (hs : Keeps o s) : Goes o (execDmloadWrite v s) := by
  unfold execDmloadWrite
  exact .ite (.next hs) (.ite (.next (.put hs rfl rfl)) (.next (.put hs rfl rfl)))

theorem execUnitReady_keeps {bit s} (hs : Keeps o s) : Goes o (execUnitReady bit s) := by
  unfold execUnitReady
  exact .next (.ite (.put hs rfl rfl) hs)

theorem execUnitLost_keeps {bit s} (hs : Keeps o s) : Goes o (execUnitLost bit s) := by
  unfold execUnitLost
  exact .ite (execTickAlignLoss_keeps hs) (.ite (.next (.put hs rfl rfl)) (.next hs))

theorem State.setCdis_keeps {s w v} (hs : Keeps o s) : Keeps o (s.setCdis w v) := by
  unfold State.setCdis
  exact State.askPreempt_keeps (.put (.foldl hs fun _ _ ht => .ite ht (State.setCore_keeps ht)) rfl rfl)

theorem execCdisWrite_keeps {w v s} (hs : Keeps o s) : Goes o (execCdisWrite w v s) :=
  .next (State.setCdis_keeps hs)

theorem State.answer_keeps {s m} (hs : Keeps o s) : Keeps o (s.answer m) :=
  .put hs rfl rfl

theorem execDebugScan_keeps {s} (hs : Keeps o s) : Goes o (execDebugScan s) := by
  unfold execDebugScan
  exact .ite (.next (State.answer_keeps (State.draw_keeps hs))) (.next (State.answer_keeps hs))

theorem execDebugMemrd_keeps {pa s} (hs : Keeps o s) : Goes o (execDebugMemrd pa s) := by
  unfold execDebugMemrd
  exact .ite (.next (State.answer_keeps hs))
      (.ite (.next (State.answer_keeps (State.draw_keeps hs))) (.next (State.answer_keeps hs)))

theorem execDebugMemwr_keeps {pa v s} (hs : Keeps o s) : Goes o (execDebugMemwr pa v s) :=
  .ite (.next (State.answer_keeps hs))
    (.next (State.wakeLine_keeps (State.wakeLine_keeps (State.homeWriteBytes_keeps hs))))

theorem execDebugSvstop_keeps {tick s} (hs : Keeps o s) : Goes o (execDebugSvstop tick s) := by
  unfold execDebugSvstop
  exact .ite (.next (State.answer_keeps (State.armStop_keeps hs))) (.next (State.answer_keeps hs))

theorem State.i3cAnswer_keeps {s b} (hs : Keeps o s) : Keeps o (s.i3cAnswer b) :=
  .ite (State.answer_keeps hs) (State.answer_keeps hs)

theorem execI3cEntdaa_keeps {addr s} (hs : Keeps o s) : Goes o (execI3cEntdaa addr s) := by
  unfold execI3cEntdaa
  exact .ite (.next (State.answer_keeps hs))
      (.next
         (.ite (State.raiseIbi_keeps (State.answer_keeps (.put hs rfl rfl)))
            (State.answer_keeps (.put hs rfl rfl))))

theorem execI3cRstdaa_keeps {s} (hs : Keeps o s) : Goes o (execI3cRstdaa s) := by
  unfold execI3cRstdaa
  exact .next (.put hs rfl rfl)

theorem execI3cGetpid_keeps {s} (hs : Keeps o s) : Goes o (execI3cGetpid s) :=
  .next (State.i3cAnswer_keeps hs)

theorem execI3cGetbcr_keeps {s} (hs : Keeps o s) : Goes o (execI3cGetbcr s) :=
  .next (State.i3cAnswer_keeps hs)

theorem execI3cGetdcr_keeps {s} (hs : Keeps o s) : Goes o (execI3cGetdcr s) :=
  .next (State.i3cAnswer_keeps hs)

theorem execI3cGetstatus_keeps {s} (hs : Keeps o s) : Goes o (execI3cGetstatus s) := by
  unfold execI3cGetstatus
  exact .next (State.i3cAnswer_keeps (State.draw_keeps hs))

/-! The matrix arrays. -/

theorem State.setFull_keeps {s l full} (hs : Keeps o s) : Keeps o (s.setFull l full) := by
  unfold State.setFull
  exact State.wakeLine_keeps (State.setArray_keeps hs)

theorem State.streamStep_keeps {s a c cmd kl base sbase ovft} (hs : Keeps o s) :
    Keeps o (s.streamStep a c cmd kl base sbase ovft) := by
  unfold State.streamStep
  dsimp only
  split
  · exact hs
  · exact .foldl (.ite (State.setHart_keeps (State.setArray_keeps hs)) (State.setArray_keeps hs))
        fun _ _ ht => State.setFull_keeps ht

theorem execStreamChunk_keeps {array s} (hs : Keeps o s) : Goes o (execStreamChunk array s) := by
  unfold execStreamChunk
  split
  · split
    · exact .next (State.streamStep_keeps hs)
    · exact .next hs
  · exact .next hs

theorem execMzeroApply_keeps {array s} (hs : Keeps o s) : Goes o (execMzeroApply array s) := by
  unfold execMzeroApply
  dsimp only
  split
  · exact .next (State.setArray_keeps hs)
  · exact .next hs

theorem execWeightSwap_keeps {array s} (hs : Keeps o s) : Goes o (execWeightSwap array s) := by
  unfold execWeightSwap
  dsimp only
  split
  · exact .next hs
  · split
    · split
      · exact .next hs
      · exact .ite (.next hs) (.next (State.setArray_keeps hs))
    · exact .next hs

theorem loadSource_keeps {k c p} : Holds o (loadSource k c p) := by
  unfold loadSource
  exact mapM'_keeps fun _ => .ite (.bind jobRead_keeps fun _ => .pure _) (.pure _)

theorem weightStep_keeps {k c w dst arrays} : Holds o (weightStep k c w dst arrays) := by
  unfold weightStep
  dsimp only
  exact .when (.modify fun _ hs => .foldl hs fun _ _ ht => State.setArray_keeps ht)
      (.ite
         (by
            split
            · exact .modify fun _ hs => State.updCard_keeps hs
            · exact .bind loadSource_keeps fun _ =>
                .bind (.modify fun _ hs => .foldl hs fun _ _ ht => State.setArray_keeps ht)
                  fun _ => .modify fun _ hs => State.updCard_keeps hs)
         (.ite
            (.ite
               (.get_bind fun _ _ => by
                  split
                  · exact .bind trap_keeps fun _ =>
                      .bind (.modify fun _ ht => .foldl ht fun _ _ hu => State.setArray_keeps hu)
                        fun _ => .modify fun _ ht => State.updCard_keeps ht
                  · exact .bind (.modify fun _ ht => .foldl ht fun _ _ hu => State.setArray_keeps hu)
                        fun _ => .modify fun _ ht => State.updCard_keeps ht)
               (.bind (.modify fun _ hs => .foldl hs fun _ _ ht => State.setArray_keeps ht)
                  fun _ => .modify fun _ hs => State.updCard_keeps hs))
             (.pure _)))

theorem execWeightLoadJob_keeps {card s} (hs : Keeps o s) : Goes o (execWeightLoadJob card s) := by
  unfold execWeightLoadJob
  dsimp only
  split
  · exact .next hs
  · split
    · exact .ite (.next hs)
          (.ite (.next (.foldl (runJob_keeps weightStep_keeps hs) fun _ _ ht => State.setArray_keeps ht))
             (.next (runJob_keeps weightStep_keeps hs)))
    · exact .next hs

/-! Matrix instructions. -/

theorem State.freeArray_keeps {s a} (hs : Keeps o s) : Keeps o (s.freeArray a) :=
  .ite (State.setArray_keeps hs) hs

theorem State.detachHart_keeps {s slot} (hs : Keeps o s) : Keeps o (s.detachHart slot) := by
  unfold State.detachHart
  dsimp only
  split
  · exact hs
  · exact State.setHart_keeps (.foldl hs fun _ _ ht => State.freeArray_keeps (State.setArray_keeps ht))

theorem State.attach_keeps {s slot rows pair arrays} (hs : Keeps o s) :
    Keeps o (s.attach slot rows pair arrays) := by
  unfold State.attach
  exact State.setHart_keeps (.foldl hs fun _ _ ht => State.setArray_keeps ht)

theorem matRun_keeps {w barrier body} (hbody : Holds o body) : Holds o (matRun w barrier body) := by
  unfold matRun
  exact .bind curStream_keeps fun _ =>
    .get_bind fun _ _ =>
    .bind curSlot_keeps
      fun _ => .when waitHere_keeps (.bind vecEnter_keeps fun _ => .bind hbody fun _ => vecLeave_keeps)

theorem runMatrix_keeps {i hd body s} (hbody : Holds o body) (hs : Keeps o s) :
    Goes o (runMatrix i hd body s) :=
  runSeq_keeps (matRun_keeps hbody) hs

theorem trapMattach_keeps {reason row} : Holds o (trapMattach (α := α) reason row) :=
  trap_keeps

theorem ownAttachment_keeps : Holds o ownAttachment := by
  unfold ownAttachment
  exact .get_bind fun _ _ =>
    .bind curSlot_keeps fun _ => by
      split
      · exact .pure _
      · exact trapMattach_keeps

theorem checkRows_keeps {rows row0 m} : Holds o (checkRows rows row0 m) :=
  .ite trapMattach_keeps (.pure _)

theorem waitRows_keeps {arrays rows} : Holds o (waitRows arrays rows) :=
  .bind curSlot_keeps fun _ => .get_bind fun _ _ => .ite waitHere_keeps (.pure _)

theorem enterOrder_keeps {arrays kind} : Holds o (enterOrder arrays kind) := by
  unfold enterOrder
  exact .bind curSlot_keeps fun _ => .modify fun _ hs => .foldl (.put hs rfl rfl) fun _ _ ht => State.setArray_keeps ht

theorem bodyDetach_keeps : Holds o bodyDetach := by
  unfold bodyDetach
  exact .bind curSlot_keeps
      fun _ => .get_bind fun _ _ => .when waitHere_keeps (.modify fun _ ht => State.detachHart_keeps ht)

theorem bodyMattach_keeps {pair d a} : Holds o (bodyMattach pair d a) := by
  unfold bodyMattach
  exact .bind readX_keeps fun _ =>
    .bind curLaunch?_keeps fun _ =>
    .bind bodyDetach_keeps fun _ =>
    .bind curSlot_keeps fun _ => .get_bind fun _ hs => .when (.set (State.attach_keeps hs)) writeX_keeps

theorem execMattach_keeps {h d a s} (hs : Keeps o s) : Goes o (execMattach h d a s) :=
  runMatrix_keeps bodyMattach_keeps hs

theorem execMattachPair_keeps {h d a s} (hs : Keeps o s) : Goes o (execMattachPair h d a s) :=
  runMatrix_keeps bodyMattach_keeps hs

theorem execMdetach_keeps {h s} (hs : Keeps o s) : Goes o (execMdetach h s) :=
  runMatrix_keeps bodyDetach_keeps hs

theorem execMwld_keeps {h dst d a s} (hs : Keeps o s) : Goes o (execMwld h dst d a s) := by
  unfold execMwld
  dsimp only
  exact runMatrix_keeps
      (.bind ownAttachment_keeps fun _ =>
       .when trapMattach_keeps
         (.bind release_keeps fun _ =>
          .bind readX_keeps fun _ =>
          .when trap_keeps
            (.bind readCard_keeps fun _ =>
             .bind checkFootprint_keeps fun _ =>
             .get_bind fun _ _ => by
               split
               · exact trap_keeps
               · exact .bind issueCard_keeps fun _ => .bind enterOrder_keeps fun _ => writeX_keeps)))
       hs

theorem execMwait_keeps {h d a s} (hs : Keeps o s) : Goes o (execMwait h d a s) := by
  unfold execMwait
  exact runMatrix_keeps
      (.bind readX_keeps fun _ =>
       .bind ownCard_keeps fun _ => by
         split
         · exact waitHere_keeps
         · split
           · exact .bind (.modify fun _ ht => State.updCard_keeps ht) fun _ => trap_keeps
           · exact .bind acquireJob_keeps fun _ => writeX_keeps)
       hs

theorem checkWindowByte_keeps {c va} : Holds o (checkWindowByte c va) := by
  unfold checkWindowByte
  split
  · exact .bind scratchAt_keeps fun _ => .pure _
  · exact .bind tileAt_keeps fun _ => .pure _
  · exact trap_keeps

theorem execMstream_keeps {h c d a s} (hs : Keeps o s) : Goes o (execMstream h c d a s) := by
  unfold execMstream
  dsimp only
  exact runMatrix_keeps
      (.bind readX_keeps fun _ =>
       .bind readX_keeps fun _ =>
       .bind ownAttachment_keeps fun _ =>
       .get_bind fun _ _ => by
         split
         · exact .when trapMattach_keeps
               (.bind checkRows_keeps fun _ =>
                .bind curHart_keeps fun _ => by
                  split
                  · exact trapMattach_keeps
                  · exact .bind hartCtx_keeps fun _ =>
                      .bind (forM'_keeps fun _ => forM'_keeps fun _ => checkWindowByte_keeps)
                        fun _ => enterOrder_keeps)
         · exact trapMattach_keeps)
       hs

theorem bodyMzero_keeps {int row0 m} : Holds o (bodyMzero int row0 m) := by
  unfold bodyMzero
  exact .bind ownAttachment_keeps fun _ => .bind checkRows_keeps fun _ => .bind modHart_keeps fun _ => enterOrder_keeps

theorem execMzeroFp_keeps {h row0 m s} (hs : Keeps o s) : Goes o (execMzeroFp h row0 m s) :=
  runMatrix_keeps bodyMzero_keeps hs

theorem execMzeroInt_keeps {h row0 m s} (hs : Keeps o s) : Goes o (execMzeroInt h row0 m s) :=
  runMatrix_keeps bodyMzero_keeps hs

theorem drainElem_keeps {c sh cmd arrays addr r serial force} :
    Holds o (drainElem c sh cmd arrays addr r serial force) := by
  unfold drainElem
  exact .bind curHart_keeps fun _ =>
    .get_bind fun _ _ =>
    .bind curSlot_keeps fun _ => .when trapMattach_keeps (.when trap_keeps (.when trap_keeps storeElem_keeps))

theorem zeroBlock_keeps {arrays cmd vl slot s} (hs : Keeps o s) : Keeps o (zeroBlock arrays cmd vl slot s) := by
  unfold zeroBlock
  exact .foldl hs fun _ _ ht => State.setArray_keeps ht

theorem bodyMdrain_keeps {hd cmd addr} : Holds o (bodyMdrain hd cmd addr) := by
  have hend : ∀ {i : Bool} {f : State → State}, (∀ s, Keeps o s → Keeps o (f s)) →
      Holds o (if i then modify f else pure () : M Unit) := fun hf => .ite (.modify hf) (.pure _)
  unfold bodyMdrain
  dsimp only
  refine .bind ownAttachment_keeps fun _ => .bind checkRows_keeps fun _ => .bind curHart_keeps fun _ => ?_
  refine .ite (.bind trapMattach_keeps fun _ => ?_) ?_
  all_goals
    exact .bind waitRows_keeps fun _ => .bind curTag_keeps fun _ => .bind hartCtx_keeps fun _ => .bind rctx_keeps fun _ =>
      .bind takeSerial_keeps fun _ => .bind curSlot_keeps fun _ => .get_bind fun _ _ =>
      .bind (runStore_keeps (fun _ _ _ => .bind drainElem_keeps fun _ => .pure _) (.pure _)) fun _ =>
      hend fun _ hs => zeroBlock_keeps hs

theorem execMdrain_keeps {h c a b s} (hs : Keeps o s) : Goes o (execMdrain h c a b s) :=
  runSeq_keeps
    (matRun_keeps
       (.bind awaitInputs_keeps fun _ => .bind readX_keeps fun _ => .bind readX_keeps fun _ => bodyMdrain_keeps))
     hs

theorem execMdrainIdx_keeps {h c a d s} (hs : Keeps o s) : Goes o (execMdrainIdx h c a d s) :=
  runSeq_keeps
    (matRun_keeps
       (.bind awaitInputs_keeps fun _ => .bind readX_keeps fun _ => .bind readTile_keeps fun _ => bodyMdrain_keeps))
     hs

theorem imageStart_keeps {m} : Holds o (imageStart m) := by
  unfold imageStart
  dsimp only
  exact .bind readEA_keeps fun _ =>
    .bind ownAttachment_keeps fun _ =>
    .when trap_keeps
      (.bind curCore_keeps fun _ => by
         split
         · exact trap_keeps
         · exact .pure _)

theorem waitCommands_keeps : Holds o waitCommands := by
  unfold waitCommands
  exact .bind curSlot_keeps fun _ => .get_bind fun _ _ => .ite waitHere_keeps (.pure _)

theorem storeImage_keeps {ch ea img} : Holds o (storeImage ch ea img) :=
  .bind takeSerial_keeps fun _ =>
  .bind curHart_keeps fun _ =>
  .bind curTag_keeps fun _ =>
  .bind hartCtx_keeps fun _ =>
  runStore_keeps (fun _ _ _ => .bind hartStoreMarked_keeps fun _ => .pure _) (.pure _)

theorem execMsave_keeps {h d m s} (hs : Keeps o s) : Goes o (execMsave h d m s) := by
  unfold execMsave
  exact runMatrix_keeps
      (.bind imageStart_keeps fun _ =>
       .bind waitRows_keeps
         fun _ => .get_bind fun _ _ => .bind curSlot_keeps fun _ => .bind storeImage_keeps fun _ => writeX_keeps)
       hs

theorem execMrestore_keeps {h d m s} (hs : Keeps o s) : Goes o (execMrestore h d m s) := by
  unfold execMrestore
  exact runMatrix_keeps
      (.bind imageStart_keeps fun _ =>
       .bind waitCommands_keeps fun _ =>
       .bind curTag_keeps fun _ =>
       .bind hartCtx_keeps fun _ =>
       .bind hartLoadWide_keeps fun _ =>
       .bind (mapM'_keeps fun _ => hartLoad_keeps) fun _ =>
       .when trapMattach_keeps
         (.bind curSlot_keeps fun _ =>
          .bind (.modify fun _ ht => .foldl ht fun _ _ hu => State.setArray_keeps hu)
            fun _ => .bind modHart_keeps fun _ => writeX_keeps))
       hs

theorem lineRange_keeps {d m} : Holds o (lineRange d m) := by
  unfold lineRange
  exact .bind readEA_keeps fun _ =>
    .bind readX_keeps fun _ =>
    .bind curCore_keeps fun _ => by
      split
      · exact .ite trap_keeps
            (.ite trap_keeps
               (.ite trap_keeps (.bind hartCtx_keeps fun _ => .bind tileAt_keeps fun _ => .pure _)))
      · exact trap_keeps

theorem bodySetLines_keeps {full d m} : Holds o (bodySetLines full d m) := by
  unfold bodySetLines
  dsimp only
  exact .bind lineRange_keeps fun _ =>
    .bind curStream_keeps fun _ =>
    .ite
      (by
         split
         · exact .pure _
         · exact .bind (.modify fun _ hs => State.setFull_keeps hs)
               fun _ => .ite (.pure _) (.bind modStream_keeps fun _ => waitHere_keeps))
      (.bind release_keeps fun _ => by
         split
         · exact .pure _
         · exact .bind (.modify fun _ hs => State.setFull_keeps hs)
               fun _ => .ite (.pure _) (.bind modStream_keeps fun _ => waitHere_keeps))

theorem bodyWaitLines_keeps {full d m} : Holds o (bodyWaitLines full d m) := by
  unfold bodyWaitLines
  exact .bind lineRange_keeps fun _ => .get_bind fun _ _ => .when waitHere_keeps (.ite (.pure _) acquire_keeps)

theorem execMlineEmpty_keeps {h d m s} (hs : Keeps o s) : Goes o (execMlineEmpty h d m s) :=
  runMatrix_keeps bodySetLines_keeps hs

theorem execMlineFull_keeps {h d m s} (hs : Keeps o s) : Goes o (execMlineFull h d m s) :=
  runMatrix_keeps bodySetLines_keeps hs

theorem execMlineWfull_keeps {h d m s} (hs : Keeps o s) : Goes o (execMlineWfull h d m s) :=
  runMatrix_keeps bodyWaitLines_keeps hs

theorem execMlineWempty_keeps {h d m s} (hs : Keeps o s) : Goes o (execMlineWempty h d m s) :=
  runMatrix_keeps bodyWaitLines_keeps hs

theorem execMstat_keeps {h sel d a s} (hs : Keeps o s) : Goes o (execMstat h sel d a s) :=
  runMatrix_keeps
    (.bind readX_keeps
       fun _ => .bind waitCommands_keeps fun _ => .bind curSlot_keeps fun _ => .get_bind fun _ _ => writeX_keeps)
     hs

end Sys2Proof.Machine
end

section
/-! SUPPORT. What traverse runs and the gazetteer engines keep (12; 13). -/

set_option Elab.async false

namespace Sys2Proof.Machine

open Sys2Proof

variable {o : State}

/-! Traverse programs. -/

theorem State.takeEntryFor_keeps {s l q p} (hs : Keeps o s) : Keeps o ((s.takeEntryFor l q p).2) := by
  unfold State.takeEntryFor
  dsimp only
  split
  · exact State.updLaunch_keeps (.put hs rfl rfl)
  · exact hs

theorem execTvload_keeps {h d a g s} (hs : Keeps o s) : Goes o (execTvload h d a g s) := by
  unfold execTvload
  dsimp only
  exact runSeq_keeps
      (.bind readX_keeps fun _ =>
       .when trap_keeps
         (.bind curCore_keeps fun _ =>
          .bind needUnit_keeps fun _ =>
          .bind curTag_keeps fun _ =>
          .bind hartCtx_keeps fun _ =>
          .bind hartLoadWide_keeps fun _ =>
          .bind curHart_keeps fun _ =>
          .bind ownLaunch_keeps fun _ => by
            split
            · exact writeX_keeps
            · exact .ite writeX_keeps
                  (.ite writeX_keeps
                     (.bind hartLoadWide_keeps fun _ =>
                      .bind (mapM'_keeps fun _ => hartLoadWide_keeps) fun _ =>
                      .bind hartLoadWide_keeps fun _ =>
                      .ite writeX_keeps
                        (.ite writeX_keeps
                           (by
                              split
                              · exact writeX_keeps
                              · exact .get_bind fun _ ht =>
                                  .bind curCore_keeps
                                    fun _ => .bind (.set (State.takeEntryFor_keeps ht)) fun _ => writeX_keeps))))))
       hs

theorem State.freeProg_keeps {s key p} (hs : Keeps o s) : Keeps o (s.freeProg key p) := by
  unfold State.freeProg
  exact State.updLaunch_keeps (.put hs rfl rfl)

theorem execTvloadFree_keeps {h a s} (hs : Keeps o s) : Goes o (execTvloadFree h a s) := by
  unfold execTvloadFree
  dsimp only
  exact runSeq_keeps
      (.bind readX_keeps fun _ =>
       .bind ownLaunch_keeps fun _ =>
       .get_bind fun _ _ => by
         split
         · exact trap_keeps
         · exact .bind needUnit_keeps
               fun _ => .get_bind fun _ _ => .when waitHere_keeps (.modify fun _ hv => State.freeProg_keeps hv))
       hs

theorem execTvstart_keeps {h chn d a s} (hs : Keeps o s) : Goes o (execTvstart h chn d a s) := by
  unfold execTvstart
  dsimp only
  exact runSeq_keeps
      (.bind readX_keeps fun _ =>
       .when trap_keeps
         (.bind readCard_keeps fun _ =>
          .bind checkFootprint_keeps fun _ =>
          .bind ownLaunch_keeps fun _ =>
          .get_bind fun _ _ => by
            split
            · exact trap_keeps
            · exact .when trap_keeps
                  (.bind issueCard_keeps
                     fun _ => .bind (.modify fun _ hu => State.updLaunch_keeps hu) fun _ => writeX_keeps)))
       hs

theorem execTvwait_keeps {h d a s} (hs : Keeps o s) : Goes o (execTvwait h d a s) := by
  unfold execTvwait
  exact runSeq_keeps
      (.bind readX_keeps fun _ =>
       .bind ownCard_keeps fun _ => by
         split
         · exact waitHere_keeps
         · exact .bind acquireJob_keeps fun _ => writeX_keeps)
       hs

theorem execTvstat_keeps {h sel d a s} (hs : Keeps o s) : Goes o (execTvstat h sel d a s) := by
  unfold execTvstat
  exact runSeq_keeps
      (.bind readX_keeps fun _ =>
       .bind ownLaunch_keeps fun _ =>
       .get_bind fun _ _ => by
         split
         · exact writeX_keeps
         · exact .ite trapIll_keeps (.bind curCore_keeps fun _ => writeX_keeps)
         · exact writeX_keeps)
       hs

/-! Traverse runs. -/

theorem State.setTv_keeps {s t} (hs : Keeps o s) : Keeps o (s.setTv t) :=
  .put hs rfl rfl

theorem State.updChan_keeps {s key f} (hs : Keeps o s) : Keeps o (s.updChan key f) := by
  unfold State.updChan
  dsimp only
  split
  · exact State.setTv_keeps hs
  · exact hs

theorem State.tvSend_keeps {s place m} (hs : Keeps o s) : Keeps o (s.tvSend place m) := by
  unfold State.tvSend
  dsimp only
  split
  · exact .put hs rfl rfl
  · exact State.setTv_keeps hs

theorem State.taken_keeps {s m} (hs : Keeps o s) : Keeps o (s.taken m) :=
  State.setTv_keeps hs

theorem State.freeChan_keeps {s key c detail} (hs : Keeps o s) : Keeps o (s.freeChan key c detail) := by
  unfold State.freeChan
  exact .put (State.setTv_keeps hs) rfl rfl

theorem State.tellStop_keeps {s quad c detail addr} (hs : Keeps o s) :
    Keeps o (s.tellStop quad c detail addr) := by
  unfold State.tellStop
  exact State.postEvent_keeps (.foldl hs fun _ _ ht => .ite ht (State.tvSend_keeps ht))

theorem State.endRun_keeps {s key c detail addr} (hs : Keeps o s) : Keeps o (s.endRun key c detail addr) := by
  unfold State.endRun
  exact State.tellStop_keeps (State.freeChan_keeps (State.updCard_keeps hs))

theorem runRead_keeps {k c va n} : Holds o (runRead k c va n) := by
  unfold runRead
  exact .bind (mapM'_keeps fun _ => .bind jobRead_keeps fun _ => .pure _) fun _ => .pure _

theorem feGate_keeps {t core va n} : Holds o (feGate t core va n) :=
  .get_bind fun _ _ => .ite waitHere_keeps (.pure _)

theorem runMark_keeps {e t full arr va n} : Holds o (runMark e t full arr va n) := by
  unfold runMark
  exact .when (.modify fun _ hs => .foldl hs fun _ _ ht => State.setFull_keeps ht) (.ite arrivalAdd_keeps (.pure _))

theorem nextLeg_keeps {e} : Holds o (nextLeg e) :=
  .modify fun _ hs => State.updCard_keeps (State.updChan_keeps hs)

theorem runAcquire_keeps : Holds o runAcquire :=
  .modify fun _ hs => .setMem hs (by simp)

theorem needPeer_keeps {e r} : Holds o (needPeer e r) := by
  unfold needPeer
  exact .get_bind fun _ _ => by
      split
      · exact waitHere_keeps
      · exact .ite waitHere_keeps (.pure _)
      · exact .pure _

theorem State.runFault_keeps {s e bad pool a va elem} (hs : Keeps o s) :
    Keeps o (s.runFault e bad pool a va elem) := by
  unfold State.runFault
  exact State.updCard_keeps (State.raiseFault_keeps hs)

theorem runLeg_keeps {i body s} (hbody : ∀ a, Holds o (body a)) (hs : Keeps o s) : Goes o (runLeg i body s) := by
  unfold runLeg
  dsimp only
  split
  · exact .fault _
  · split
    · exact .next (State.endRun_keeps hs)
    · exact .ite (.next hs)
          (.ite (.next (State.endRun_keeps hs))
             (by
                split
                · next _ ht =>
                    exact .next (Holds.ok (hbody _) hs ht)
                · next _ _ _ ht =>
                    exact .next (State.endRun_keeps (Holds.ok (hbody _) hs ht))
                · next _ _ ht =>
                    split
                    · exact .next (State.endRun_keeps (Holds.error (hbody _) hs ht))
                    · exact .next (State.endRun_keeps (Holds.error (hbody _) hs ht))
                    · exact .next (State.endRun_keeps (Holds.error (hbody _) hs ht))
                    · exact .next (State.runFault_keeps (Holds.error (hbody _) hs ht))
                    · exact .next (State.runFault_keeps (Holds.error (hbody _) hs ht))
                    · exact .next (Holds.error (hbody _) hs ht)))

theorem sendSeq_keeps {e dst kind} : Holds o (sendSeq e dst kind) := by
  unfold sendSeq
  exact .get_bind fun _ _ => .bind (.modify fun _ ht => State.updChan_keeps (.put ht rfl rfl)) fun _ => .pure _

theorem bodySend_keeps {row fin p sa sb sc c} : ∀ a, Holds o (bodySend row fin p sa sb sc c a) := by
  unfold bodySend
  exact fun _ =>
    .ite (.pure _)
      (.bind needPeer_keeps fun _ =>
       .bind runRead_keeps fun _ =>
       .bind sendSeq_keeps fun _ =>
       .bind (.modify fun _ hs => State.updChan_keeps (State.tvSend_keeps hs))
         fun _ => .bind nextLeg_keeps fun _ => .pure _)

theorem execLegSend_keeps {row fin p sa sb sc c s} (hs : Keeps o s) :
    Goes o (execLegSend row fin p sa sb sc c s) :=
  runLeg_keeps (fun _ => bodySend_keeps _) hs

theorem execLegRecv_keeps {fin full arr p sa c s} (hs : Keeps o s) :
    Goes o (execLegRecv fin full arr p sa c s) := by
  unfold execLegRecv
  dsimp only
  exact runLeg_keeps
      (fun _ =>
       .get_bind fun _ _ => by
         split
         · exact waitHere_keeps
         · exact .ite (.pure _)
               (.bind runAcquire_keeps fun _ =>
                .bind runMark_keeps fun _ =>
                .bind (.modify fun _ hu => State.updChan_keeps (State.setTv_keeps hu))
                  fun _ => .bind nextLeg_keeps fun _ => .pure _))
       hs

theorem performBuf_keeps {e t l} : Holds o (performBuf e t l) := by
  induction l with
  | nil => exact .pure _
  | cons w l ih =>
    exact .bind feGate_keeps fun _ => .bind jobWrite_keeps fun _ => .bind (.modify fun _ hs => State.updChan_keeps hs)
      fun _ => ih

theorem finishWrites_keeps {e t full arr va n} : Holds o (finishWrites e t full arr va n) := by
  unfold finishWrites
  exact .get_bind fun _ _ =>
    .bind performBuf_keeps fun _ =>
    .get_bind fun _ _ => .when waitHere_keeps (.bind runMark_keeps fun _ => .bind nextLeg_keeps fun _ => .pure _)

theorem noteWrites_keeps {e ws} : Holds o (noteWrites e ws) :=
  .modify fun _ hs => State.updChan_keeps hs

theorem execLegReduce_keeps {op dt full arr sa sb sc c s} (hs : Keeps o s) :
    Goes o (execLegReduce op dt full arr sa sb sc c s) := by
  unfold execLegReduce
  dsimp only
  exact runLeg_keeps
      (fun _ => by
         split
         · exact .pure _
         · exact .ite
               (.bind runRead_keeps fun _ =>
                .bind runRead_keeps fun _ => by
                  split
                  · exact .pure _
                  · split
                    · exact .pure _
                    · exact .bind noteWrites_keeps fun _ => finishWrites_keeps)
                finishWrites_keeps)
       hs

theorem execLegCopy_keeps {cvt full arr stride sa sc c s} (hs : Keeps o s) :
    Goes o (execLegCopy cvt full arr stride sa sc c s) := by
  unfold execLegCopy
  dsimp only
  exact runLeg_keeps
      (fun _ =>
       .ite
         (.bind runRead_keeps fun _ =>
          .ite
            (by
               split
               · exact .pure _
               · exact .bind noteWrites_keeps fun _ => finishWrites_keeps)
             (.bind noteWrites_keeps fun _ => finishWrites_keeps))
          finishWrites_keeps)
       hs

theorem arrivalCount_keeps {c va} : Holds o (arrivalCount c va) := by
  unfold arrivalCount
  split
  · exact .bind scratchAt_keeps fun _ => .pure _
  · exact trap_keeps

theorem execLegWait_keeps {k s} (hs : Keeps o s) : Goes o (execLegWait k s) := by
  unfold execLegWait
  dsimp only
  exact runLeg_keeps
      (fun _ => by
         split
         · exact .bind arrivalCount_keeps fun _ =>
             .bind (.pure _) fun _ =>
             .when waitHere_keeps (.bind runAcquire_keeps fun _ => .bind nextLeg_keeps fun _ => .pure _)
         · exact .bind (.pure _) fun _ =>
             .when waitHere_keeps (.bind runAcquire_keeps fun _ => .bind nextLeg_keeps fun _ => .pure _)
         · exact .get_bind fun _ _ =>
             .bind (.pure _) fun _ =>
             .when waitHere_keeps (.bind runAcquire_keeps fun _ => .bind nextLeg_keeps fun _ => .pure _)
         · exact .get_bind fun _ _ =>
             .bind (.pure _) fun _ =>
             .when waitHere_keeps (.bind runAcquire_keeps fun _ => .bind nextLeg_keeps fun _ => .pure _))
       hs

theorem execLegSignal_keeps {p sb value s} (hs : Keeps o s) : Goes o (execLegSignal p sb value s) := by
  unfold execLegSignal
  exact runLeg_keeps
      (fun _ =>
       .bind needPeer_keeps fun _ =>
       .when waitHere_keeps
         (.bind sendSeq_keeps fun _ =>
          .bind (.modify fun _ ht => State.tvSend_keeps ht) fun _ => .bind nextLeg_keeps fun _ => .pure _))
       hs

theorem sendClaim_keeps {e dst sb rows} : Holds o (sendClaim e dst sb rows) := by
  unfold sendClaim
  exact .bind (mapM'_keeps fun _ => .bind needPeer_keeps fun _ => .pure _) fun _ =>
    .bind sendSeq_keeps fun _ =>
    .bind (forM'_keeps fun _ => .modify fun _ hs => State.tvSend_keeps hs)
      fun _ => .modify fun _ hs => State.updChan_keeps hs

theorem execLegReserve_keeps {spill p sb rows s} (hs : Keeps o s) :
    Goes o (execLegReserve spill p sb rows s) := by
  unfold execLegReserve
  dsimp only
  exact runLeg_keeps
      (fun _ => by
         split
         · exact .bind sendClaim_keeps fun _ => .pure _
         · exact waitHere_keeps
         · exact .bind (.modify fun _ ht => State.updChan_keeps ht) fun _ => .bind nextLeg_keeps fun _ => .pure _)
       hs

theorem execLegRepeat_keeps {lv count target s} (hs : Keeps o s) : Goes o (execLegRepeat lv count target s) := by
  unfold execLegRepeat
  exact runLeg_keeps (fun _ => .ite (.pure _) (.bind (.modify fun _ ht => State.updChan_keeps ht) fun _ => .pure _))
      hs

theorem State.lastCounts_keeps {s e} (hs : Keeps o s) : Keeps o (s.lastCounts e) :=
  .ite (.foldl hs fun _ _ ht => State.tvSend_keeps ht) hs

theorem execLegEnd_keeps {s} (hs : Keeps o s) : Goes o (execLegEnd s) := by
  unfold execLegEnd
  exact runLeg_keeps
      (fun _ =>
       .when (.modify fun _ ht => State.updChan_keeps (State.lastCounts_keeps ht))
         (.when waitHere_keeps
            (.bind (.modify fun _ ht => State.freeChan_keeps (State.updCard_keeps ht)) fun _ => .pure _)))
       hs

theorem execTraverseRunStart_keeps {card s} (hs : Keeps o s) : Goes o (execTraverseRunStart card s) := by
  unfold execTraverseRunStart
  dsimp only
  split
  · exact .next hs
  · split
    · split
      · exact .next hs
      · split
        · exact .next hs
        · exact .next
              (.ite
                 (State.endRun_keeps
                    (.put (State.setTv_keeps (State.updCard_keeps (.setMem hs (by simp)))) rfl rfl))
                  (.put (State.setTv_keeps (State.updCard_keeps (.setMem hs (by simp)))) rfl rfl))
    · exact .next hs

theorem State.tvAck_keeps {s p run src seq bad value rows} (hs : Keeps o s) :
    Keeps o (s.tvAck p run src seq bad value rows) :=
  State.tvSend_keeps hs

theorem State.setLanded_keeps {s m left done} (hs : Keeps o s) : Keeps o (s.setLanded m left done) :=
  State.setTv_keeps hs

theorem landSend_keeps {m e l} : Holds o (landSend m e l) := by
  induction l with
  | nil => exact .pure _
  | cons w l ih =>
    exact .bind feGate_keeps fun _ => .bind jobWrite_keeps fun _ => .bind (.modify fun _ hs => State.setLanded_keeps hs)
      fun _ => ih

theorem State.stopReceiver_keeps {s m e src seq d va} (hs : Keeps o s) :
    Keeps o (s.stopReceiver m e src seq d va) :=
  State.endRun_keeps (State.tvAck_keeps (State.taken_keeps hs))

theorem execSendLand_keeps {m s} (hs : Keeps o s) : Goes o (execSendLand m s) := by
  unfold execSendLand
  dsimp only
  exact .ite (.next hs)
      (.ite (.next (State.tvAck_keeps (State.taken_keeps hs)))
         (by
            split
            · exact .next (.ite hs (State.setTv_keeps hs))
            · split
              · exact .next (.ite hs (State.setTv_keeps hs))
              · exact .ite (.next (.ite hs (State.setTv_keeps hs)))
                    (by
                       split
                       · exact .next (State.stopReceiver_keeps (.ite hs (State.setTv_keeps hs)))
                       · split
                         · next _ _ ht =>
                             exact .next
                                 (.ite
                                    (State.tvAck_keeps
                                       (State.taken_keeps
                                          (State.setLanded_keeps
                                             (Holds.ok landSend_keeps (.ite hs (State.setTv_keeps hs)) ht))))
                                    (State.setLanded_keeps
                                       (Holds.ok landSend_keeps (.ite hs (State.setTv_keeps hs)) ht)))
                         · next _ _ _ ht =>
                             exact .next
                                 (State.stopReceiver_keeps
                                    (Holds.error landSend_keeps (.ite hs (State.setTv_keeps hs)) ht))
                         · next _ _ _ _ _ ht =>
                             exact .next
                                 (State.stopReceiver_keeps
                                    (Holds.error landSend_keeps (.ite hs (State.setTv_keeps hs)) ht))
                         · next _ _ _ _ _ ht =>
                             exact .next
                                 (State.runFault_keeps
                                    (Holds.error landSend_keeps (.ite hs (State.setTv_keeps hs)) ht))
                         · next _ _ _ ht =>
                             exact .next
                                 (State.runFault_keeps
                                    (Holds.error landSend_keeps (.ite hs (State.setTv_keeps hs)) ht))
                         · next _ _ ht =>
                             exact .next (Holds.error landSend_keeps (.ite hs (State.setTv_keeps hs)) ht))))

theorem execSignalArrive_keeps {m s} (hs : Keeps o s) : Goes o (execSignalArrive m s) := by
  unfold execSignalArrive
  dsimp only
  exact .ite (.next hs)
      (by
         split
         · exact .ite (.next (State.tvAck_keeps (State.taken_keeps hs))) (.next (.ite hs (State.setTv_keeps hs)))
         · exact .ite (.next (State.tvAck_keeps (State.taken_keeps hs)))
               (by
                  split
                  · next _ _ ht =>
                      exact .next (State.tvAck_keeps (Holds.ok arrivalAdd_keeps (State.taken_keeps hs) ht))
                  · exact .next (State.tvAck_keeps (State.taken_keeps hs))))

theorem claimAdd_keeps {c va n} : Holds o (claimAdd c va n) :=
  atomRaw_keeps fun _ _ _ _ hs => .put hs rfl rfl

theorem claimLog_keeps {src c va} : Holds o (claimLog src c va) := by
  unfold claimLog
  split
  · exact .bind translate_keeps fun _ =>
      .bind budgetGate_keeps fun _ => .bind tagged_keeps fun _ => .get_bind fun _ _ => .ite replayFrom_keeps (.pure _)
  · exact .pure _

/-- The state that a claim leaves. -/
def ClaimRes.state : ClaimRes → State
  | .value _ s => s
  | .remote s => s
  | .held s => s

theorem State.claim_keeps {s src key p k slot n r} (hs : Keeps o s) (hr : s.claim src key p k slot n = r) :
    Keeps o r.state := by
  have hbody : ∀ {c : Ctx} {src : Party} {va n : Nat}, Holds o (do claimLog src c va; claimAdd c va n : M Nat) :=
    .bind claimLog_keeps fun _ => claimAdd_keeps
  subst hr
  unfold State.claim
  dsimp only
  split
  · exact hs
  · split
    · exact hs
    · split
      · next _ _ ht => exact State.updCard_keeps (hbody.ok hs ht)
      · next _ _ _ _ _ ht => exact State.updCard_keeps (State.raiseFault_keeps (hbody.error hs ht))
      · next _ _ _ ht => exact State.updCard_keeps (State.raiseFault_keeps (hbody.error hs ht))
      · next _ ht => exact hbody.error hs ht
      · next _ _ ht => exact hbody.error hs ht

theorem execReserveClaimArrive_keeps {m s} (hs : Keeps o s) : Goes o (execReserveClaimArrive m s) := by
  unfold execReserveClaimArrive
  dsimp only
  refine .ite (.next hs) (.ite (.next (.ite (State.taken_keeps hs) (State.setTv_keeps (State.taken_keeps hs)))) ?_)
  split
  · exact .ite (.next (State.tvAck_keeps (State.taken_keeps hs))) (.next (.ite hs (State.setTv_keeps hs)))
  · split
    · next ht => exact .next (State.tvAck_keeps (State.taken_keeps (State.claim_keeps hs ht)))
    · next ht => exact .next (State.tvAck_keeps (State.taken_keeps (State.claim_keeps hs ht)))
    · next ht => exact .next (State.claim_keeps hs ht)

theorem State.grantAll_keeps {s p run rows l n} (hs : Keeps o s) : Keeps o (s.grantAll p run rows l n) := by
  induction l generalizing s n with
  | nil => exact hs
  | cons m l ih => exact ih (State.tvAck_keeps hs)

theorem execReserveRound_keeps {run dst round s} (hs : Keeps o s) : Goes o (execReserveRound run dst round s) := by
  have hacks : ∀ {f : State → TProg} {l : List CtlMsg}, Keeps o s → Keeps o (l.foldl (fun s m =>
      s.tvAck (f s) run m.src m.seq 12 0 0) s) := fun hs => .foldl hs fun _ _ ht => State.tvAck_keeps ht
  unfold execReserveRound
  dsimp only
  refine .ite (.next hs) ?_
  split
  · exact .ite (.next (State.setTv_keeps (hacks hs))) (.next hs)
  · split
    · exact .next (State.setTv_keeps hs)
    · have hclose : ∀ {t : State} {tv tv' : TvSys} {c : Prop} [Decidable c], Keeps o t →
          Keeps o (if c then (t.setTv tv).setTv tv' else t.setTv tv) :=
        fun ht => .ite (State.setTv_keeps (State.setTv_keeps ht)) (State.setTv_keeps ht)
      split
      · next ht => exact .next (hclose (State.grantAll_keeps (State.claim_keeps hs ht)))
      · next ht => exact .next (hclose (.foldl (State.claim_keeps hs ht) fun _ _ hu => State.tvAck_keeps hu))
      · next ht => exact .next (State.claim_keeps hs ht)

theorem execLegAckArrive_keeps {m s} (hs : Keeps o s) : Goes o (execLegAckArrive m s) := by
  unfold execLegAckArrive
  dsimp only
  exact .ite (.next hs)
      (by
         split
         · exact .next (State.taken_keeps hs)
         · split
           · exact .next (State.taken_keeps hs)
           · exact .ite (.next (State.endRun_keeps (State.taken_keeps hs)))
                 (.next (State.updChan_keeps (State.taken_keeps hs))))

theorem execStopNotice_keeps {run dst s} (hs : Keeps o s) : Goes o (execStopNotice run dst s) := by
  unfold execStopNotice
  dsimp only
  exact .ite (.next hs)
      (by
         split
         · exact .next (.ite (State.taken_keeps hs) (State.setTv_keeps (State.taken_keeps hs)))
         · exact .next (State.endRun_keeps (.ite (State.taken_keeps hs) (State.setTv_keeps (State.taken_keeps hs)))))

theorem execUalinkErrorResponse_keeps {id s} (hs : Keeps o s) : Goes o (execUalinkErrorResponse id s) := by
  unfold execUalinkErrorResponse
  split
  · exact .next (State.postFault_keeps (State.deliver_keeps hs))
  · exact .next (State.endRun_keeps hs)
  · exact .next (State.failTrain_keeps hs)

theorem State.freeProgs_keeps {s l} (hs : Keeps o s) : Keeps o (s.freeProgs l) := by
  unfold State.freeProgs
  exact State.setTv_keeps (.foldl hs fun _ _ ht => State.freeProg_keeps ht)

/-! The gazetteer engines. -/

theorem State.setGz_keeps {s g} (hs : Keeps o s) : Keeps o (s.setGz g) :=
  .put hs rfl rfl

theorem State.gzEntry_keeps {s tid} (hs : Keeps o s) : Keeps o ((s.gzEntry tid).2) := by
  unfold State.gzEntry
  dsimp only
  exact .ite_snd hs
      (by
         split
         · exact hs
         · split
           · exact State.setGz_keeps hs
           · exact hs)

theorem tableEntry_keeps {tid} : Holds o (tableEntry tid) := by
  unfold tableEntry
  exact .get_bind fun _ hs => .bind (.set (State.gzEntry_keeps hs)) fun _ => .pure _

theorem execGzageHalve_keeps {e s} (hs : Keeps o s) : Goes o (execGzageHalve e s) := by
  unfold execGzageHalve
  exact .ite (.next hs) (.next (State.setGz_keeps hs))

theorem bodyGzCard_keeps {look hd d a} : Holds o (bodyGzCard look hd d a) := by
  unfold bodyGzCard
  dsimp only
  exact .bind readX_keeps fun _ =>
    .when trap_keeps
      (.bind readCard_keeps fun _ =>
       .bind checkFootprint_keeps fun _ =>
       .bind ownLaunch_keeps fun _ =>
       .bind tableEntry_keeps fun _ => by
         split
         · exact trap_keeps
         · exact .get_bind fun _ _ => .bind issueCard_keeps fun _ => writeX_keeps)

theorem execGzlook_keeps {h d a s} (hs : Keeps o s) : Goes o (execGzlook h d a s) :=
  runSeq_keeps bodyGzCard_keeps hs

theorem execGzupdate_keeps {h d a s} (hs : Keeps o s) : Goes o (execGzupdate h d a s) :=
  runSeq_keeps bodyGzCard_keeps hs

theorem State.gzStop_keeps {s k st} (hs : Keeps o s) : Keeps o (s.gzStop k st) := by
  unfold State.gzStop
  exact State.postEvent_keeps (State.updCard_keeps hs)

theorem runGz_keeps {k pos c body s} (hbody : Holds o body) (hs : Keeps o s) :
    Keeps o (runGz k pos c body s) := by
  unfold runGz
  dsimp only
  split
  · next _ ht =>
      exact Holds.ok hbody hs ht
  · next _ _ ht =>
      exact State.gzStop_keeps (Holds.ok hbody hs ht)
  · next _ _ _ ht =>
      exact State.gzStop_keeps (Holds.error hbody hs ht)
  · next _ _ _ _ _ ht =>
      exact State.gzStop_keeps (Holds.error hbody hs ht)
  · next _ _ _ _ _ ht =>
      exact State.updCard_keeps (State.raiseFault_keeps (Holds.error hbody hs ht))
  · next _ _ _ ht =>
      exact State.updCard_keeps (State.raiseFault_keeps (Holds.error hbody hs ht))
  · next _ _ ht =>
      exact Holds.error hbody hs ht

theorem updJob_keeps {k f} : Holds o (updJob k f) :=
  .modify fun _ hs => State.updCard_keeps hs

theorem atPos_keeps {pos m} (hm : Holds o m) : Holds o (atPos (α := α) pos m) := by
  unfold atPos
  exact .tryCatch hm fun _ => by
      split
      · exact .throw _
      · exact .throw _

theorem gzWords_keeps {k c va n} : Holds o (gzWords k c va n) := by
  unfold gzWords
  exact mapM'_keeps fun _ => .bind jobRead_keeps fun _ => .when trap_keeps (.pure _)

theorem gzStart_keeps {k c ver} : Holds o (gzStart k c ver) := by
  unfold gzStart
  dsimp only
  exact .get_bind fun _ hs =>
    .bind (.set (State.gzEntry_keeps hs)) fun _ => by
      split
      · exact .pure _
      · exact .bind updJob_keeps fun _ => .pure _

theorem placeFault_keeps {c e r a ver} : Holds o (placeFault c e r a ver) := by
  unfold placeFault
  exact .bind (mapM'_keeps fun _ => mapM'_keeps fun _ => .bind translate_keeps fun _ => .pure _) fun _ => .pure _

theorem gzRow_keeps {k e ver r pos} : Holds o (gzRow k e ver r pos) := by
  unfold gzRow
  dsimp only
  exact .get_bind fun _ _ =>
    .bind jobGate_keeps fun _ =>
    .bind placeFault_keeps fun _ => by
      split
      · exact .pure _
      · exact .bind runRead_keeps fun _ => .pure _

theorem gzEmit_keeps {k sp q i v po engine} : Holds o (gzEmit k sp q i v po engine) := by
  unfold gzEmit
  exact .get_bind fun _ _ => .ite jobWrite_keeps jobWrite_keeps

theorem readIds_keeps {k c sp} : Holds o (readIds k c sp) :=
  .bind (mapM'_keeps fun _ => atPos_keeps gzWords_keeps) fun _ => .pure _

theorem gzReadStreams_keeps {k sp e} : Holds o (gzReadStreams k sp e) := by
  unfold gzReadStreams
  exact .get_bind fun _ _ =>
    .bind readIds_keeps
      fun _ => .ite_bind (.pure _) gzWords_keeps fun _ => .ite (.pure _) (.bind updJob_keeps fun _ => .pure _)

theorem gzVisit_keeps {k e sp ver pos r} : Holds o (gzVisit k e sp ver pos r) := by
  unfold gzVisit
  dsimp only
  exact .ite (.pure _)
      (.bind needUnit_keeps fun _ =>
       .get_bind fun _ _ =>
       .when waitHere_keeps
         (.bind gzRow_keeps fun _ => by
            split
            · exact .pure _
            · exact .get_bind fun _ _ => .bind (.modify fun _ hu => State.setGz_keeps hu) fun _ => .pure _))

theorem lookDone_keeps {k} : Holds o (lookDone k) :=
  .bind updJob_keeps fun _ => .pure _

theorem lookEmit_keeps {k sp e q i vals po part} : Holds o (lookEmit k sp e q i vals po part) :=
  .bind gzEmit_keeps fun _ => .bind updJob_keeps fun _ => .pure _

theorem gatherStep_keeps {k sp e ver} : Holds o (gatherStep k sp e ver) := by
  unfold gatherStep
  dsimp only
  exact .ite lookDone_keeps
      (.ite
         (.bind gzVisit_keeps fun _ => by
            split
            · exact .pure _
            · exact .ite (.pure _) (.bind updJob_keeps fun _ => .pure _))
          lookEmit_keeps)

theorem poolStep_keeps {k sp e ver} : Holds o (poolStep k sp e ver) := by
  unfold poolStep
  dsimp only
  exact .ite lookDone_keeps
      (.ite
         (.ite
            (.get_bind fun _ _ =>
             .bind (atPos_keeps gzWords_keeps) fun _ =>
             .bind gzVisit_keeps fun _ => by
               split
               · exact .pure _
               · exact .ite (.pure _) (.bind updJob_keeps fun _ => .pure _))
            (.bind (.pure _) fun _ =>
             .bind gzVisit_keeps fun _ => by
               split
               · exact .pure _
               · exact .ite (.pure _) (.bind updJob_keeps fun _ => .pure _)))
          lookEmit_keeps)

theorem execGzLookupJob_keeps {card s} (hs : Keeps o s) : Goes o (execGzLookupJob card s) := by
  unfold execGzLookupJob
  dsimp only
  split
  · exact .next hs
  · split
    · exact .next
          (runGz_keeps (.ite gzStart_keeps (.ite gzReadStreams_keeps (.ite gatherStep_keeps poolStep_keeps))) hs)
    · exact .next hs

theorem updateReads_keeps {k sp e} : Holds o (updateReads k sp e) := by
  unfold updateReads
  dsimp only
  exact .ite (.pure _)
      (.get_bind fun _ _ =>
       .bind readIds_keeps fun _ => by
         split
         · exact .pure _
         · exact .bind (mapM'_keeps fun _ => atPos_keeps gzWords_keeps) fun _ => .bind updJob_keeps fun _ => .pure _)

theorem gzReserve_keeps {k c va n} : Holds o (gzReserve k c va n) :=
  .bind jobGate_keeps fun _ =>
  forM'_keeps fun _ =>
  .bind translate_keeps
    fun _ => .bind budgetGate_keeps fun _ => .bind tagged_keeps fun _ => .when materialise_keeps (.pure _)

theorem updateStep_keeps {k sp e ver} : Holds o (updateStep k sp e ver) := by
  unfold updateStep
  dsimp only
  split
  · exact .get_bind fun _ _ =>
      .bind needUnit_keeps fun _ =>
      .bind jobGate_keeps fun _ =>
      .when jobGate_keeps
        (.bind placeFault_keeps fun _ => by
           split
           · exact .pure _
           · exact .bind gzReserve_keeps fun _ =>
               .when gzReserve_keeps
                 (.bind runRead_keeps fun _ =>
                  .ite_bind jobRead_keeps (.pure _) fun _ =>
                  .ite (.pure _)
                    (.ite (.pure _)
                       (.get_bind fun _ _ =>
                        .bind (forM'_keeps fun _ => jobWrite_keeps) fun _ =>
                        .when jobWrite_keeps
                          (.bind
                             (.modify fun _ hu => by
                                split
                                · exact hu
                                · exact State.setGz_keeps hu)
                              fun _ => .bind updJob_keeps fun _ => .pure _)))))
  · exact .bind updJob_keeps fun _ => .pure _

theorem execGzUpdateJob_keeps {card s} (hs : Keeps o s) : Goes o (execGzUpdateJob card s) := by
  unfold execGzUpdateJob
  dsimp only
  split
  · exact .next hs
  · split
    · exact .next (runGz_keeps (.ite gzStart_keeps (.ite updateReads_keeps updateStep_keeps)) hs)
    · exact .next hs

theorem execGzver_keeps {h ver d a s} (hs : Keeps o s) : Goes o (execGzver h ver d a s) := by
  unfold execGzver
  dsimp only
  exact runSeq_keeps
      (.bind readX_keeps fun _ =>
       .bind ownLaunch_keeps fun _ =>
       .when trap_keeps
         (.bind tableEntry_keeps fun _ => by
            split
            · exact trap_keeps
            · exact .when trap_keeps
                  (.bind needUnit_keeps fun _ =>
                   .bind release_keeps fun _ =>
                   .get_bind fun _ _ => .bind (.modify fun _ hu => State.setGz_keeps hu) fun _ => writeX_keeps)))
       hs

theorem pinRows_keeps {un c e tid ver serial l done} : Holds o (pinRows un c e tid ver serial l done) := by
  have hgz : ∀ {f : State → GzSys}, Holds o (modify fun s => s.setGz (f s) : M Unit) :=
    .modify fun _ hs => State.setGz_keeps hs
  induction l generalizing done with
  | nil => exact .pure _
  | cons r l ih =>
    unfold pinRows
    exact .bind needUnit_keeps fun _ => .ite (.bind hgz fun _ => ih) (.get_bind fun _ _ => .get_bind fun _ _ =>
      .ite (.pure _) (.bind (forM'_keeps fun _ => .bind translate_keeps fun _ => .pure _) fun _ => .bind hgz fun _ => ih))

theorem bodyGzpin_keeps {un n d a b} : Holds o (bodyGzpin un n d a b) := by
  unfold bodyGzpin
  dsimp only
  exact .bind readX_keeps fun _ =>
    .bind readX_keeps fun _ =>
    .bind ownLaunch_keeps fun _ =>
    .when trap_keeps
      (.bind tableEntry_keeps fun _ => by
         split
         · exact trap_keeps
         · exact .when trap_keeps
               (.when trap_keeps
                  (.bind curTag_keeps fun _ => .bind hartCtx_keeps fun _ => .bind pinRows_keeps fun _ => writeX_keeps)))

theorem execGzpin_keeps {h n d a b s} (hs : Keeps o s) : Goes o (execGzpin h n d a b s) :=
  runSeq_keeps bodyGzpin_keeps hs

theorem execGzpinUn_keeps {h n d a b s} (hs : Keeps o s) : Goes o (execGzpinUn h n d a b s) :=
  runSeq_keeps bodyGzpin_keeps hs

theorem execGzwait_keeps {h d a s} (hs : Keeps o s) : Goes o (execGzwait h d a s) := by
  unfold execGzwait
  exact runSeq_keeps
      (.bind readX_keeps fun _ =>
       .bind ownCard_keeps fun _ => by
         split
         · exact waitHere_keeps
         · exact .bind acquireJob_keeps fun _ => writeX_keeps)
       hs

theorem State.syncTable_keeps {s} (hs : Keeps o s) : Keeps o s.syncTable := by
  unfold State.syncTable
  exact .ite hs (State.setGz_keeps hs)

theorem execGzdsyncWrite_keeps {v s} (hs : Keeps o s) : Goes o (execGzdsyncWrite v s) := by
  unfold execGzdsyncWrite
  exact .next (State.setGz_keeps (State.syncTable_keeps hs))

theorem execGzdsyncDone_keeps {s} (hs : Keeps o s) : Goes o (execGzdsyncDone s) :=
  .next (State.syncTable_keeps hs)

theorem execGzprobeWrite_keeps {v s} (hs : Keeps o s) : Goes o (execGzprobeWrite v s) := by
  unfold execGzprobeWrite
  exact .next (State.setGz_keeps hs)

theorem execGzprobeDone_keeps {s} (hs : Keeps o s) : Goes o (execGzprobeDone s) := by
  unfold execGzprobeDone
  exact .ite (.next hs) (.next (State.setGz_keeps (State.gzEntry_keeps hs)))

end Sys2Proof.Machine
end

section
/-! SUPPORT. What ends of launches, the MMIO window and scalar instructions keep (04 R155..R174; 05 R212..R239). -/

set_option Elab.async false

namespace Sys2Proof.Machine

open Sys2Proof

variable {o : State}

/-! HALT, deadlocks and the completion of cards. -/

theorem State.hartEnds_keeps {s slot} (hs : Keeps o s) : Keeps o (s.hartEnds slot) := by
  unfold State.hartEnds
  exact State.updLaunch_keeps (State.releaseLanes_keeps (State.detachHart_keeps hs))

theorem State.endStream_keeps {s slot isX} (hs : Keeps o s) : Keeps o (s.endStream slot isX) := by
  unfold State.endStream
  exact .ite (State.setHart_keeps hs) (State.hartEnds_keeps (State.setHart_keeps hs))

theorem execHalt_keeps {h s} (hs : Keeps o s) : Goes o (execHalt h s) := by
  unfold execHalt
  dsimp only
  exact runHart_keeps
      (.get_bind fun _ _ => by
         split
         · exact .bind modStream_keeps fun _ => .pure _
         · exact .get_bind fun _ hu => .ite waitHere_keeps (.bind (.set (State.endStream_keeps hu)) fun _ => .pure _))
       hs

theorem execQueueDeadlock_keeps {hart s} (hs : Keeps o s) : Goes o (execQueueDeadlock hart s) := by
  unfold execQueueDeadlock
  dsimp only
  split
  · exact .next hs
  · exact .next (.ite (State.enterTrap_keeps hs) (.ite (State.enterTrap_keeps hs) hs))

theorem State.stopUnstarted_keeps {s k} (hs : Keeps o s) : Keeps o (s.stopUnstarted k) := by
  unfold State.stopUnstarted
  dsimp only
  split
  · exact .ite hs
        (by
           split
           · exact hs
           · exact State.tellStop_keeps (State.setTv_keeps hs))
  · exact hs

theorem State.stopLookup_keeps {s k} (hs : Keeps o s) : Keeps o (s.stopLookup k) := by
  unfold State.stopLookup
  split
  · exact .ite (State.gzStop_keeps hs) hs
  · exact hs

theorem State.leaveArrays_keeps {s k} (hs : Keeps o s) : Keeps o (s.leaveArrays k) := by
  unfold State.leaveArrays
  split
  · exact .foldl hs fun _ _ ht => State.freeArray_keeps ht
  · exact hs

theorem execCardComplete_keeps {card s} (hs : Keeps o s) : Goes o (execCardComplete card s) := by
  unfold execCardComplete
  dsimp only
  split
  · exact .next hs
  · split
    · exact .next hs
    · exact .next
          (State.leaveArrays_keeps
             (.setMem (State.updCard_keeps (State.stopLookup_keeps (State.stopUnstarted_keeps hs))) (by simp)))

/-! How launches end and gangs leave and come back. -/

theorem State.readListed_keeps {s l} (hs : Keeps o s) : Keeps o (s.readListed l) := by
  unfold State.readListed
  exact .put (State.updLaunch_keeps hs) rfl rfl

theorem State.farSector_keeps {s l i} (hs : Keeps o s) : Keeps o ((s.farSector l i).2) := by
  unfold State.farSector
  dsimp only
  exact .foldl_snd hs fun _ _ ht => by
      split
      · exact ht
      · exact State.draw_keeps ht

theorem State.sumHashes_keeps {s l r acc} (hs : Keeps o s) : Keeps o (s.sumHashes l r acc).2 := by
  induction r generalizing s acc with
  | nil => exact hs
  | cons e r ih =>
    unfold State.sumHashes
    dsimp only
    exact ih (.ite_snd hs (State.farSector_keeps hs))

theorem State.digestOf_keeps {s l} (hs : Keeps o s) : Keeps o (((s.digestOf l).2).2) := by
  unfold State.digestOf
  exact .ite_snd_snd hs (.ite_snd_snd hs (.ite_snd_snd hs (State.sumHashes_keeps hs)))

theorem State.vacate_keeps {s serial slots} (hs : Keeps o s) : Keeps o (s.vacate serial slots) := by
  unfold State.vacate
  exact .put (.foldl hs fun _ _ ht => State.releaseLanes_keeps ht) rfl rfl

theorem State.drainLaunch_keeps {s serial} (hs : Keeps o s) : Keeps o (s.drainLaunch serial) :=
  .foldl hs fun _ _ ht => State.drainSome_keeps ht

theorem State.freeLaunch_keeps {s l} (hs : Keeps o s) : Keeps o (s.freeLaunch l) := by
  unfold State.freeLaunch
  exact State.setLa_keeps
      (State.dropLock_keeps
         (State.freeProgs_keeps
            (.put
               (State.vacate_keeps
                  (.foldl (.foldl hs fun _ _ ht => State.endTag_keeps ht) fun _ _ ht => State.detachHart_keeps ht))
                rfl rfl)))

theorem State.traceEnd_keeps {s l} (hs : Keeps o s) : Keeps o (s.traceEnd l) :=
  .ite (State.traceRecord_keeps hs) hs

theorem State.finish_keeps {s l} (hs : Keeps o s) : Keeps o (s.finish l) := by
  unfold State.finish
  exact State.postLaunch_keeps
      (State.settleRing_keeps (.setMem (State.freeLaunch_keeps (State.traceEnd_keeps hs)) rfl))

theorem State.beginEnd_keeps {s l} (hs : Keeps o s) : Keeps o (s.beginEnd l) := by
  unfold State.beginEnd
  exact .ite (State.drainLaunch_keeps hs) (State.readListed_keeps (.setMem (State.drainLaunch_keeps hs) (by simp)))

theorem State.endDigest_keeps {s l} (hs : Keeps o s) : Keeps o (s.endDigest l) := by
  unfold State.endDigest
  exact .ite (State.triggerAdd_keeps (State.updLaunch_keeps (State.digestOf_keeps hs))) hs

theorem State.endTrigger_keeps {s l} (hs : Keeps o s) : Keeps o (s.endTrigger l) :=
  .ite (State.signalAdd_keeps (State.updLaunch_keeps hs)) hs

theorem State.endSignal_keeps {s l} (hs : Keeps o s) : Keeps o (s.endSignal l) :=
  .ite (State.finish_keeps hs) hs

theorem State.onLaunch_keeps {s serial f} (hs : Keeps o s) (hf : ∀ s, Keeps o s → ∀ b, Keeps o (f s b)) :
    Keeps o (s.onLaunch serial f) := by
  unfold State.onLaunch
  split
  · exact hf _ hs _
  · exact hs

theorem State.complete_keeps {s l} (hs : Keeps o s) : Keeps o (s.complete l) := by
  unfold State.complete
  exact .ite (State.finish_keeps (State.drainLaunch_keeps hs))
      (State.onLaunch_keeps
         (State.onLaunch_keeps
            (State.onLaunch_keeps
               (.ite (State.beginEnd_keeps (State.drainLaunch_keeps hs)) (State.drainLaunch_keeps hs))
               fun _ ht _ => State.endDigest_keeps ht)
             fun _ ht _ => State.endTrigger_keeps ht)
          fun _ ht _ => State.endSignal_keeps ht)

theorem execLaunchComplete_keeps {serial s} (hs : Keeps o s) : Goes o (execLaunchComplete serial s) := by
  unfold execLaunchComplete
  split
  · exact .next hs
  · exact .next (.ite (State.complete_keeps hs) hs)

theorem execCancelWrite_keeps {serial s} (hs : Keeps o s) : Goes o (execCancelWrite serial s) := by
  unfold execCancelWrite
  split
  · exact .next hs
  · exact .next (.ite hs (State.settleRing_keeps (State.dropLock_keeps (State.cancel_keeps hs))))

theorem execPreemptWrite_keeps {serial s} (hs : Keeps o s) : Goes o (execPreemptWrite serial s) := by
  unfold execPreemptWrite
  split
  · exact .next hs
  · exact .next (.ite (State.askPreempt_keeps hs) hs)

theorem State.stopStore_keeps {slot s isX} (hs : Keeps o s) : Keeps o (State.stopStore slot s isX) := by
  unfold State.stopStore
  dsimp only
  split
  · split
    · next ht =>
      have hsent := settle_keeps.ok (.refl _) ht
      exact ⟨fun hw => hsent.canonical (hs.canonical hw), hsent.mtick.trans hs.mtick, hs.cur⟩
    · exact hs
  · exact hs

theorem State.preempt_keeps {s l g} (hs : Keeps o s) : Keeps o (s.preempt l g) := by
  unfold State.preempt
  exact State.postLaunch_keeps
      (State.updLaunch_keeps
         (State.vacate_keeps
            (.put
               (.foldl (.foldl hs fun _ _ ht => .foldl ht fun _ _ hu => State.stopStore_keeps hu)
                  fun _ _ ht => State.drainCore_keeps ht)
                (by simp) rfl)))

theorem execGangPreempt_keeps {serial gang s} (hs : Keeps o s) : Goes o (execGangPreempt serial gang s) := by
  unfold execGangPreempt
  split
  · exact .next hs
  · split
    · exact .next hs
    · exact .next (.ite (State.preempt_keeps hs) hs)

theorem State.restoreArray_keeps {s n m} (hs : Keeps o s) : Keeps o (s.restoreArray n m) := by
  unfold State.restoreArray
  exact .ite (State.setArray_keeps hs) (State.setArray_keeps hs)

theorem State.reseat_keeps {s l h slot} (hs : Keeps o s) : Keeps o (s.reseat l h slot) := by
  unfold State.reseat
  exact .put
      (.ite (.ite (State.setHart_keeps (State.setHart_keeps hs)) (State.setHart_keeps hs))
         (State.setClaim_keeps (.ite (State.setHart_keeps (State.setHart_keeps hs)) (State.setHart_keeps hs))))
       rfl rfl

theorem State.resume_keeps {s l g news} (hs : Keeps o s) : Keeps o (s.resume l g news) := by
  unfold State.resume
  dsimp only
  exact State.postLaunch_keeps
      (State.setLa_keeps
         (State.updLaunch_keeps
            (.foldl
               (.foldl
                  (.foldl hs fun _ _ ht => by
                     split
                     · exact State.reseat_keeps ht
                     · exact ht)
                   fun _ _ ht =>
                .ite ht
                  (by
                     split
                     · exact State.setCore_keeps ht
                     · exact ht))
                fun _ _ ht => State.restoreArray_keeps ht)))

theorem execGangResume_keeps {serial gang s} (hs : Keeps o s) : Goes o (execGangResume serial gang s) := by
  unfold execGangResume
  split
  · exact .next hs
  · split
    · exact .next hs
    · exact .ite (.next hs)
          (by
             split
             · exact .next hs
             · exact .next (State.resume_keeps hs))

theorem State.retireGangs_keeps {s l} (hs : Keeps o s) : Keeps o (s.retireGangs l) := by
  unfold State.retireGangs
  exact .foldl hs
      fun _ _ ht => State.updLaunch_keeps (State.vacate_keeps (.foldl ht fun _ _ hu => State.drainSome_keeps hu))

theorem execLaunchPlace_keeps {serial s} (hs : Keeps o s) : Goes o (execLaunchPlace serial s) := by
  unfold execLaunchPlace
  dsimp only
  split
  · exact .next hs
  · exact .ite (.next (.ite (State.complete_keeps hs) hs))
        (.ite (.next hs)
           (.ite (.next (State.admitSelf_keeps (State.ringServed_keeps (State.placeGangs_keeps hs))))
              (.ite
                 (.next
                    (State.admitSelf_keeps
                       (State.ringServed_keeps (State.placeGangs_keeps (State.retireGangs_keeps hs)))))
                 (.ite (.next (State.askPreempt_keeps hs))
                    (by
                       split
                       · exact .next hs
                       · exact .next (State.askPreempt_keeps hs))))))

/-! The MMIO window. -/

theorem State.through_keeps {s f} (hs : Keeps o s) (hf : ∀ s, Keeps o s → Goes o (f s)) :
    Keeps o (s.through f) := by
  unfold State.through
  split
  · next _ ht =>
      exact ((hf _ hs) _ ht)
  · exact hs
  · exact hs

theorem State.writeRingReg_keeps {s n a2 v} (hs : Keeps o s) : Keeps o (s.writeRingReg n a2 v) := by
  unfold State.writeRingReg
  dsimp only
  split
  · exact State.setRing_keeps hs
  · exact State.through_keeps hs fun _ ht => execRingReset_keeps ht
  · exact State.through_keeps hs fun _ ht => execRingWptrWrite_keeps ht
  · exact hs

theorem State.writeQueueReg_keeps {s e a2 v} (hs : Keeps o s) : Keeps o (s.writeQueueReg e a2 v) := by
  unfold State.writeQueueReg
  dsimp only
  split
  · exact State.setLa_keeps hs
  · exact State.setLa_keeps hs
  · exact State.setLa_keeps hs
  · exact hs

theorem State.writeFaultReg_keeps {s q off v} (hs : Keeps o s) : Keeps o (s.writeFaultReg q off v) := by
  unfold State.writeFaultReg
  dsimp only
  split
  · exact .setMem hs rfl
  · exact .setMem hs rfl
  · exact .setMem hs rfl
  · refine State.through_keeps hs fun t ht => ?_
    split
    · exact execFqrespDecline_keeps ht
    · exact execFqrespRetry_keeps ht
  · exact .setMem hs rfl
  · exact hs

theorem State.writeTlbicmd_keeps {s v} (hs : Keeps o s) : Keeps o (s.writeTlbicmd v) := by
  unfold State.writeTlbicmd
  split
  · exact State.through_keeps hs fun _ ht => execTlbicmdAll_keeps ht
  · exact State.through_keeps hs fun _ ht => execTlbicmdAsid_keeps ht
  · exact State.through_keeps hs fun _ ht => execTlbicmdRange_keeps ht
  · exact hs

theorem State.writeOverlayReg_keeps {s a1 v} (hs : Keeps o s) : Keeps o (s.writeOverlayReg a1 v) := by
  unfold State.writeOverlayReg
  dsimp only
  split
  · exact .put hs rfl rfl
  · exact .put hs rfl rfl
  · exact .put hs rfl rfl
  · exact State.through_keeps hs fun _ ht => execOvgaddWrite_keeps ht
  · exact hs

theorem State.writeGzReg_keeps {s a1 v} (hs : Keeps o s) : Keeps o (s.writeGzReg a1 v) := by
  unfold State.writeGzReg
  dsimp only
  split
  · exact State.setGz_keeps hs
  · exact State.through_keeps hs fun _ ht => execGzdsyncWrite_keeps ht
  · exact State.through_keeps hs fun _ ht => execGzprobeWrite_keeps ht
  · exact hs

theorem State.writeTraceReg_keeps {s q a2 v} (hs : Keeps o s) : Keeps o (s.writeTraceReg q a2 v) := by
  unfold State.writeTraceReg
  dsimp only
  split
  · exact .put hs rfl rfl
  · exact .put hs rfl rfl
  · exact .put hs rfl rfl
  · exact hs

theorem State.writeSurveyReg_keeps {s a1 v} (hs : Keeps o s) : Keeps o (s.writeSurveyReg a1 v) := by
  unfold State.writeSurveyReg
  dsimp only
  split
  · exact .put hs rfl rfl
  · exact State.through_keeps hs fun _ ht => execRlctlWrite_keeps ht
  · exact State.through_keeps hs fun _ ht => execRlwptrSupply_keeps ht
  · exact .ite hs (State.retryInputs_keeps (.put hs rfl rfl))
  · exact State.through_keeps hs fun _ ht => execSvrunWrite_keeps ht
  · exact State.through_keeps hs fun _ ht => keeps_execSvstatDisarm ht
  · exact hs

theorem State.writeDatumReg_keeps {s w a2 v} (hs : Keeps o s) : Keeps o (s.writeDatumReg w a2 v) := by
  unfold State.writeDatumReg
  dsimp only
  exact .ite (.ite (State.setCdis_keeps hs) hs)
      (by
         split
         · exact .put hs rfl rfl
         · exact State.through_keeps hs fun _ ht => execPcapWrite_keeps ht
         · exact State.through_keeps hs fun _ ht => execDwinWrite_keeps ht
         · exact State.through_keeps hs fun _ ht => execDmloadWrite_keeps ht
         · exact hs)

theorem State.writeMmio_keeps {s w off v} (hs : Keeps o s) : Keeps o (s.writeMmio w off v) := by
  unfold State.writeMmio
  exact .ite hs
      (.dite (fun _ => State.writeRingReg_keeps hs) fun _ =>
       .ite (State.through_keeps hs fun _ ht => execPreemptWrite_keeps ht)
         (.ite (State.through_keeps hs fun _ ht => execCancelWrite_keeps ht)
            (.ite (.ite hs (State.setLa_keeps hs))
               (.ite (State.writeQueueReg_keeps hs)
                  (.dite (fun _ => State.writeFaultReg_keeps hs) fun _ =>
                   .ite (.setMem hs rfl)
                     (.ite (State.writeTlbicmd_keeps hs)
                        (.ite (.ite (.setMem hs rfl) (.setMem hs rfl))
                           (.ite (.setMem hs (by simp))
                              (.ite (State.writeOverlayReg_keeps hs)
                                 (.ite (State.setTv_keeps hs)
                                    (.ite (State.setGz_keeps hs)
                                       (.ite (State.writeGzReg_keeps hs)
                                          (.ite (State.writeTraceReg_keeps hs)
                                             (.ite (State.writeSurveyReg_keeps hs)
                                                (.ite (.put hs rfl rfl)
                                                   (.ite (State.writeDatumReg_keeps hs)
                                                      (.ite (State.sramStore_keeps hs) hs)))))))))))))))))

theorem execRegWrite_keeps {off v s} (hs : Keeps o s) : Goes o (execRegWrite off v s) :=
  .next (State.writeMmio_keeps hs)

theorem execHostMrd_keeps {off s} (hs : Keeps o s) : Goes o (execHostMrd off s) :=
  .next (State.answer_keeps hs)

theorem execI3cPrivateWrite_keeps {off v s} (hs : Keeps o s) : Goes o (execI3cPrivateWrite off v s) :=
  .next (.ite (State.writeMmio_keeps hs) (State.answer_keeps hs))

theorem execI3cPrivateRead_keeps {off s} (hs : Keeps o s) : Goes o (execI3cPrivateRead off s) :=
  .next (.ite (State.i3cAnswer_keeps hs) (State.answer_keeps hs))

/-! Scalar integers, moves, compares and predicates. -/

theorem bodyAlu2_keeps {f w d a b} : Holds o (bodyAlu2 f w d a b) :=
  .bind readX_keeps fun _ => .bind readX_keeps fun _ => writeX_keeps

theorem bodyAluImm_keeps {f w d a imm} : Holds o (bodyAluImm f w d a imm) :=
  .bind readX_keeps fun _ => writeX_keeps

theorem bodyAlu1_keeps {f w d a} : Holds o (bodyAlu1 f w d a) :=
  .bind readX_keeps fun _ => writeX_keeps

theorem execAdd_keeps {h w d a b s} (hs : Keeps o s) : Goes o (execAdd h w d a b s) :=
  runSeq_keeps bodyAlu2_keeps hs

theorem execSub_keeps {h w d a b s} (hs : Keeps o s) : Goes o (execSub h w d a b s) :=
  runSeq_keeps bodyAlu2_keeps hs

theorem execMul_keeps {h w d a b s} (hs : Keeps o s) : Goes o (execMul h w d a b s) :=
  runSeq_keeps bodyAlu2_keeps hs

theorem execMulh_keeps {h w d a b s} (hs : Keeps o s) : Goes o (execMulh h w d a b s) :=
  runSeq_keeps bodyAlu2_keeps hs

theorem execMulhu_keeps {h w d a b s} (hs : Keeps o s) : Goes o (execMulhu h w d a b s) :=
  runSeq_keeps bodyAlu2_keeps hs

theorem execDiv_keeps {h w d a b s} (hs : Keeps o s) : Goes o (execDiv h w d a b s) :=
  runSeq_keeps bodyAlu2_keeps hs

theorem execDivu_keeps {h w d a b s} (hs : Keeps o s) : Goes o (execDivu h w d a b s) :=
  runSeq_keeps bodyAlu2_keeps hs

theorem execRem_keeps {h w d a b s} (hs : Keeps o s) : Goes o (execRem h w d a b s) :=
  runSeq_keeps bodyAlu2_keeps hs

theorem execRemu_keeps {h w d a b s} (hs : Keeps o s) : Goes o (execRemu h w d a b s) :=
  runSeq_keeps bodyAlu2_keeps hs

theorem execAnd_keeps {h w d a b s} (hs : Keeps o s) : Goes o (execAnd h w d a b s) :=
  runSeq_keeps bodyAlu2_keeps hs

theorem execOr_keeps {h w d a b s} (hs : Keeps o s) : Goes o (execOr h w d a b s) :=
  runSeq_keeps bodyAlu2_keeps hs

theorem execXor_keeps {h w d a b s} (hs : Keeps o s) : Goes o (execXor h w d a b s) :=
  runSeq_keeps bodyAlu2_keeps hs

theorem execAndn_keeps {h w d a b s} (hs : Keeps o s) : Goes o (execAndn h w d a b s) :=
  runSeq_keeps bodyAlu2_keeps hs

theorem execShl_keeps {h w d a b s} (hs : Keeps o s) : Goes o (execShl h w d a b s) :=
  runSeq_keeps bodyAlu2_keeps hs

theorem execShr_keeps {h w d a b s} (hs : Keeps o s) : Goes o (execShr h w d a b s) :=
  runSeq_keeps bodyAlu2_keeps hs

theorem execSra_keeps {h w d a b s} (hs : Keeps o s) : Goes o (execSra h w d a b s) :=
  runSeq_keeps bodyAlu2_keeps hs

theorem execRor_keeps {h w d a b s} (hs : Keeps o s) : Goes o (execRor h w d a b s) :=
  runSeq_keeps bodyAlu2_keeps hs

theorem execMin_keeps {h w d a b s} (hs : Keeps o s) : Goes o (execMin h w d a b s) :=
  runSeq_keeps bodyAlu2_keeps hs

theorem execMax_keeps {h w d a b s} (hs : Keeps o s) : Goes o (execMax h w d a b s) :=
  runSeq_keeps bodyAlu2_keeps hs

theorem execMinu_keeps {h w d a b s} (hs : Keeps o s) : Goes o (execMinu h w d a b s) :=
  runSeq_keeps bodyAlu2_keeps hs

theorem execMaxu_keeps {h w d a b s} (hs : Keeps o s) : Goes o (execMaxu h w d a b s) :=
  runSeq_keeps bodyAlu2_keeps hs

theorem execClz_keeps {h w d a s} (hs : Keeps o s) : Goes o (execClz h w d a s) :=
  runSeq_keeps bodyAlu1_keeps hs

theorem execCtz_keeps {h w d a s} (hs : Keeps o s) : Goes o (execCtz h w d a s) :=
  runSeq_keeps bodyAlu1_keeps hs

theorem execPopc_keeps {h w d a s} (hs : Keeps o s) : Goes o (execPopc h w d a s) :=
  runSeq_keeps bodyAlu1_keeps hs

theorem execBfx_keeps {h sx d a b s} (hs : Keeps o s) : Goes o (execBfx h sx d a b s) :=
  runSeq_keeps (.bind readX_keeps fun _ => .bind readX_keeps fun _ => writeX_keeps) hs

theorem execBfi_keeps {h d a b c s} (hs : Keeps o s) : Goes o (execBfi h d a b c s) :=
  runSeq_keeps (.bind readX_keeps fun _ => .bind readX_keeps fun _ => .bind readX_keeps fun _ => writeX_keeps)
    hs

theorem execSel_keeps {h d a b p s} (hs : Keeps o s) : Goes o (execSel h d a b p s) :=
  runSeq_keeps (.bind readX_keeps fun _ => .bind readX_keeps fun _ => .bind readP_keeps fun _ => writeX_keeps)
    hs

theorem execLea_keeps {h k d a b s} (hs : Keeps o s) : Goes o (execLea h k d a b s) :=
  runSeq_keeps (.bind readX_keeps fun _ => .bind readX_keeps fun _ => writeX_keeps) hs

theorem execAddImm_keeps {h w d a imm s} (hs : Keeps o s) : Goes o (execAddImm h w d a imm s) :=
  runSeq_keeps bodyAluImm_keeps hs

theorem execSubImm_keeps {h w d a imm s} (hs : Keeps o s) : Goes o (execSubImm h w d a imm s) :=
  runSeq_keeps bodyAluImm_keeps hs

theorem execMulImm_keeps {h w d a imm s} (hs : Keeps o s) : Goes o (execMulImm h w d a imm s) :=
  runSeq_keeps bodyAluImm_keeps hs

theorem execMulhImm_keeps {h w d a imm s} (hs : Keeps o s) : Goes o (execMulhImm h w d a imm s) :=
  runSeq_keeps bodyAluImm_keeps hs

theorem execMulhuImm_keeps {h w d a imm s} (hs : Keeps o s) : Goes o (execMulhuImm h w d a imm s) :=
  runSeq_keeps bodyAluImm_keeps hs

theorem execDivImm_keeps {h w d a imm s} (hs : Keeps o s) : Goes o (execDivImm h w d a imm s) :=
  runSeq_keeps bodyAluImm_keeps hs

theorem execDivuImm_keeps {h w d a imm s} (hs : Keeps o s) : Goes o (execDivuImm h w d a imm s) :=
  runSeq_keeps bodyAluImm_keeps hs

theorem execRemImm_keeps {h w d a imm s} (hs : Keeps o s) : Goes o (execRemImm h w d a imm s) :=
  runSeq_keeps bodyAluImm_keeps hs

theorem execRemuImm_keeps {h w d a imm s} (hs : Keeps o s) : Goes o (execRemuImm h w d a imm s) :=
  runSeq_keeps bodyAluImm_keeps hs

theorem execAndImm_keeps {h w d a imm s} (hs : Keeps o s) : Goes o (execAndImm h w d a imm s) :=
  runSeq_keeps bodyAluImm_keeps hs

theorem execOrImm_keeps {h w d a imm s} (hs : Keeps o s) : Goes o (execOrImm h w d a imm s) :=
  runSeq_keeps bodyAluImm_keeps hs

theorem execXorImm_keeps {h w d a imm s} (hs : Keeps o s) : Goes o (execXorImm h w d a imm s) :=
  runSeq_keeps bodyAluImm_keeps hs

theorem execAndnImm_keeps {h w d a imm s} (hs : Keeps o s) : Goes o (execAndnImm h w d a imm s) :=
  runSeq_keeps bodyAluImm_keeps hs

theorem execShlImm_keeps {h w d a imm s} (hs : Keeps o s) : Goes o (execShlImm h w d a imm s) :=
  runSeq_keeps bodyAluImm_keeps hs

theorem execShrImm_keeps {h w d a imm s} (hs : Keeps o s) : Goes o (execShrImm h w d a imm s) :=
  runSeq_keeps bodyAluImm_keeps hs

theorem execSraImm_keeps {h w d a imm s} (hs : Keeps o s) : Goes o (execSraImm h w d a imm s) :=
  runSeq_keeps bodyAluImm_keeps hs

theorem execRorImm_keeps {h w d a imm s} (hs : Keeps o s) : Goes o (execRorImm h w d a imm s) :=
  runSeq_keeps bodyAluImm_keeps hs

theorem execMinImm_keeps {h w d a imm s} (hs : Keeps o s) : Goes o (execMinImm h w d a imm s) :=
  runSeq_keeps bodyAluImm_keeps hs

theorem execMaxImm_keeps {h w d a imm s} (hs : Keeps o s) : Goes o (execMaxImm h w d a imm s) :=
  runSeq_keeps bodyAluImm_keeps hs

theorem execMinuImm_keeps {h w d a imm s} (hs : Keeps o s) : Goes o (execMinuImm h w d a imm s) :=
  runSeq_keeps bodyAluImm_keeps hs

theorem execMaxuImm_keeps {h w d a imm s} (hs : Keeps o s) : Goes o (execMaxuImm h w d a imm s) :=
  runSeq_keeps bodyAluImm_keeps hs

theorem execBfxImm_keeps {h sx d a imm s} (hs : Keeps o s) : Goes o (execBfxImm h sx d a imm s) :=
  runSeq_keeps (.bind readX_keeps fun _ => writeX_keeps) hs

theorem execBfiImm_keeps {h d a imm s} (hs : Keeps o s) : Goes o (execBfiImm h d a imm s) :=
  runSeq_keeps (.bind readX_keeps fun _ => .bind readReg_keeps fun _ => writeReg_keeps) hs

theorem execSelImm_keeps {h d a imm p s} (hs : Keeps o s) : Goes o (execSelImm h d a imm p s) :=
  runSeq_keeps (.bind readX_keeps fun _ => .bind readP_keeps fun _ => writeX_keeps) hs

theorem execLeaImm_keeps {h k d a imm s} (hs : Keeps o s) : Goes o (execLeaImm h k d a imm s) :=
  runSeq_keeps (.bind readX_keeps fun _ => writeX_keeps) hs

theorem execMovi_keeps {h d imm s} (hs : Keeps o s) : Goes o (execMovi h d imm s) :=
  runSeq_keeps writeX_keeps hs

theorem execCmp_keeps {h c w pd pc a b s} (hs : Keeps o s) : Goes o (execCmp h c w pd pc a b s) :=
  runSeq_keeps (.bind readX_keeps fun _ => .bind readX_keeps fun _ => .bind writeP_keeps fun _ => writeP_keeps)
    hs

theorem execCmpi_keeps {h c w pd a imm s} (hs : Keeps o s) : Goes o (execCmpi h c w pd a imm s) :=
  runSeq_keeps (.bind readX_keeps fun _ => writeP_keeps) hs

theorem execPlog_keeps {h lut d a b s} (hs : Keeps o s) : Goes o (execPlog h lut d a b s) :=
  runSeq_keeps (.bind readP_keeps fun _ => .bind readP_keeps fun _ => writeP_keeps) hs

theorem execPmovToX_keeps {h d s} (hs : Keeps o s) : Goes o (execPmovToX h d s) :=
  runSeq_keeps (.bind curStream_keeps fun _ => writeX_keeps) hs

theorem execPmovToP_keeps {h a s} (hs : Keeps o s) : Goes o (execPmovToP h a s) :=
  runSeq_keeps (.bind readX_keeps fun _ => modStream_keeps) hs

/-! Scalar loads, stores, atomics and fences. -/

theorem datumLoad_keeps {va n} : Holds o (datumLoad va n) := by
  unfold datumLoad
  exact .get_bind fun _ _ => by
      split
      · exact .pure _
      · exact .pure _
      · exact .ite (.pure _) trap_keeps
      · exact .ite (.pure _) trap_keeps
      · exact .ite waitHere_keeps (.ite trap_keeps (.pure _))
      · exact trap_keeps

theorem datumStore_keeps {va bs} : Holds o (datumStore va bs) := by
  unfold datumStore
  dsimp only
  exact .get_bind fun _ hs => by
      split
      · exact trap_keeps
      · exact .set (State.sramStore_keeps hs)
      · exact .ite (.set (State.privWrite_keeps hs)) trap_keeps
      · exact .ite (.set (State.writeMmio_keeps hs)) trap_keeps
      · exact .ite waitHere_keeps (.set (.setMem (State.homeWrite_keeps hs) (by simp)))
      · exact trap_keeps

theorem datumAtom_keeps {va n f} : Holds o (datumAtom va n f) := by
  unfold datumAtom
  dsimp only
  exact .get_bind fun _ hs => by
      split
      · exact .ite waitHere_keeps
            (.ite trap_keeps
               (by
                  split
                  · exact .bind (.set (.setMem (State.homeWrite_keeps hs) (by simp))) fun _ => .pure _
                  · exact .pure _))
      · exact trap_keeps

theorem scalarEA_keeps {m n} : Holds o (scalarEA m n) :=
  .bind readEA_keeps fun _ => .ite trap_keeps (.pure _)

theorem scalarLoad_keeps {ch ea n} : Holds o (scalarLoad ch ea n) :=
  .get_bind fun _ _ => .ite datumLoad_keeps (.bind curTag_keeps fun _ => .bind hartCtx_keeps fun _ => hartLoad_keeps)

theorem scalarStore_keeps {ch ea n w through} : Holds o (scalarStore ch ea n w through) := by
  unfold scalarStore
  dsimp only
  exact .get_bind fun _ _ =>
    .ite datumStore_keeps
      (.bind curTag_keeps fun _ =>
       .bind hartCtx_keeps fun _ =>
       .get_bind fun _ _ =>
       .bind takeSerial_keeps fun _ =>
       .bind hartStore_keeps fun _ => by
         split
         · exact sendTrain_keeps
         · exact .pure _)

theorem bodyLd_keeps {h t d m} : Holds o (bodyLd h t d m) := by
  unfold bodyLd
  exact .bind scalarEA_keeps fun _ => .bind scalarLoad_keeps fun _ => writeX_keeps

theorem execLd_keeps {h t d m s} (hs : Keeps o s) : Goes o (execLd h t d m s) :=
  runSeq_keeps bodyLd_keeps hs

theorem execLda_keeps {h t sc d m s} (hs : Keeps o s) : Goes o (execLda h t sc d m s) :=
  runSeq_keeps (.bind bodyLd_keeps fun _ => acquire_keeps) hs

theorem execSt_keeps {h t d m s} (hs : Keeps o s) : Goes o (execSt h t d m s) :=
  runSeq_keeps (.bind scalarEA_keeps fun _ => .bind readX_keeps fun _ => scalarStore_keeps) hs

theorem execStr_keeps {h t sc d m s} (hs : Keeps o s) : Goes o (execStr h t sc d m s) :=
  runSeq_keeps
    (.bind scalarEA_keeps fun _ => .bind readX_keeps fun _ => .bind release_keeps fun _ => scalarStore_keeps)
    hs

theorem scalarAtom_keeps {ch op t ea x cmp} : Holds o (scalarAtom ch op t ea x cmp) := by
  unfold scalarAtom
  exact .get_bind fun _ _ =>
    .ite datumAtom_keeps
      (.bind curTag_keeps fun _ =>
       .bind hartCtx_keeps fun _ =>
       .bind checkWatch_keeps fun _ =>
       .bind noteReq_keeps fun _ => .bind loadGate_keeps fun _ => atomRaw_keeps fun _ _ _ _ ht => .put ht rfl rfl)

theorem bodyAtom_keeps {h op t sc d ea cmp} : Holds o (bodyAtom h op t sc d ea cmp) := by
  unfold bodyAtom
  exact .bind release_keeps fun _ =>
    .bind readReg_keeps fun _ => .bind scalarAtom_keeps fun _ => .bind writeReg_keeps fun _ => acquire_keeps

theorem bodyAtomOp_keeps {h op t sc d m} : Holds o (bodyAtomOp h op t sc d m) :=
  .bind scalarEA_keeps fun _ => bodyAtom_keeps

theorem execAtomSwap_keeps {h t sc d m s} (hs : Keeps o s) : Goes o (execAtomSwap h t sc d m s) :=
  runSeq_keeps bodyAtomOp_keeps hs

theorem execAtomAdd_keeps {h t sc d m s} (hs : Keeps o s) : Goes o (execAtomAdd h t sc d m s) :=
  runSeq_keeps bodyAtomOp_keeps hs

theorem execAtomAnd_keeps {h t sc d m s} (hs : Keeps o s) : Goes o (execAtomAnd h t sc d m s) :=
  runSeq_keeps bodyAtomOp_keeps hs

theorem execAtomOr_keeps {h t sc d m s} (hs : Keeps o s) : Goes o (execAtomOr h t sc d m s) :=
  runSeq_keeps bodyAtomOp_keeps hs

theorem execAtomXor_keeps {h t sc d m s} (hs : Keeps o s) : Goes o (execAtomXor h t sc d m s) :=
  runSeq_keeps bodyAtomOp_keeps hs

theorem execAtomMin_keeps {h t sc d m s} (hs : Keeps o s) : Goes o (execAtomMin h t sc d m s) :=
  runSeq_keeps bodyAtomOp_keeps hs

theorem execAtomMax_keeps {h t sc d m s} (hs : Keeps o s) : Goes o (execAtomMax h t sc d m s) :=
  runSeq_keeps bodyAtomOp_keeps hs

theorem execAtomCas_keeps {h t sc d a b disp s} (hs : Keeps o s) : Goes o (execAtomCas h t sc d a b disp s) := by
  unfold execAtomCas
  exact runSeq_keeps (.bind readX_keeps fun _ => .ite trap_keeps (.bind readReg_keeps fun _ => bodyAtom_keeps)) hs

theorem execFence_keeps {h k sc s} (hs : Keeps o s) : Goes o (execFence h k sc s) := by
  unfold execFence
  exact runSeq_keeps
      (.get_bind fun _ _ =>
       .ite (.pure _)
         (.ite
            (.when settleStores_keeps
               (.bind passDrain_keeps fun _ => .bind drainLaunchCores_keeps fun _ => fenceBody_keeps))
             (.bind drainLaunchCores_keeps fun _ => fenceBody_keeps)))
       hs

/-! TRAP, ERET, WAIT, YIELD and FENCEI. -/

theorem execTrap_keeps {h code s} (hs : Keeps o s) : Goes o (execTrap h code s) :=
  runHart_keeps (.pure _) hs

theorem execEret_keeps {h s} (hs : Keeps o s) : Goes o (execEret h s) :=
  runHart_keeps (.bind curStream_keeps fun _ => .ite trapIll_keeps (.ite trap_keeps (.pure _))) hs

theorem execSrr_keeps {h d sr s} (hs : Keeps o s) : Goes o (execSrr h d sr s) := by
  unfold execSrr
  exact runSeq_keeps
      (.get_bind fun _ _ => by
         split
         · exact trap_keeps
         · exact writeX_keeps)
       hs

theorem execSrw_keeps {h sr a s} (hs : Keeps o s) : Goes o (execSrw h sr a s) :=
  runSeq_keeps
    (.bind readX_keeps fun _ => .get_bind fun _ ht => .ite trap_keeps (.set (State.sregWrite_keeps ht))) hs

theorem execWait_keeps {h a limit s} (hs : Keeps o s) : Goes o (execWait h a limit s) := by
  unfold execWait
  exact runSeq_keeps (.ite trapIll_keeps (.bind readX_keeps fun _ => .get_bind fun _ _ => modStream_keeps)) hs

theorem execWaitWake_keeps {p s} (hs : Keeps o s) : Goes o (execWaitWake p s) := by
  unfold execWaitWake
  split
  · exact .next hs
  · exact .next (.ite (State.setStream_keeps hs) hs)

theorem execYield_keeps {h s} (hs : Keeps o s) : Goes o (execYield h s) :=
  runSeq_keeps modStream_keeps hs

theorem execFencei_keeps {h s} (hs : Keeps o s) : Goes o (execFencei h s) :=
  runSeq_keeps
    (.get_bind fun _ _ =>
     .ite (.pure _)
       (.bind curCore_keeps fun _ =>
        .get_bind
          fun _ _ => .bind drainGate_keeps fun _ => .modify fun _ hv => .setMem (State.clearL1_keeps hv) (by simp)))
     hs

end Sys2Proof.Machine
end

section
/-! SUPPORT. Device memory stays canonical through every turn and every step (01 R32; 06 R250). -/

set_option Elab.async false

namespace Sys2Proof.Machine

open Sys2Proof

variable {o : State}

/-! The dispatch. -/

/-- What any instruction, leg or event leaves. -/
theorem exec_ends {i s} (hs : Canonical s) : Ends (exec i s) := by
  have hends : ∀ {r}, Goes s r → Ends r := fun hr => hr.ends hs
  have hrefl := Keeps.refl s
  cases i
  case br => exact hends (execBr_keeps hrefl)
  case jmp => exact hends (execJmp_keeps hrefl)
  case call => exact hends (execCall_keeps hrefl)
  case callr => exact hends (execCallr_keeps hrefl)
  case ret => exact hends (execRet_keeps hrefl)
  case pushb => exact hends (execPushb_keeps hrefl)
  case brq => exact hends (execBrq_keeps hrefl)
  case loop => exact hends (execLoop_keeps hrefl)
  case lexit => exact hends (execLexit_keeps hrefl)
  case nop => exact hends (execNop_keeps hrefl)
  case trap => exact hends (execTrap_keeps hrefl)
  case eret => exact hends (execEret_keeps hrefl)
  case srr => exact hends (execSrr_keeps hrefl)
  case srw => exact hends (execSrw_keeps hrefl)
  case wait => exact hends (execWait_keeps hrefl)
  case yield => exact hends (execYield_keeps hrefl)
  case halt => exact hends (execHalt_keeps hrefl)
  case fencei => exact hends (execFencei_keeps hrefl)
  case add => exact hends (execAdd_keeps hrefl)
  case sub => exact hends (execSub_keeps hrefl)
  case mul => exact hends (execMul_keeps hrefl)
  case mulh => exact hends (execMulh_keeps hrefl)
  case mulhu => exact hends (execMulhu_keeps hrefl)
  case div => exact hends (execDiv_keeps hrefl)
  case divu => exact hends (execDivu_keeps hrefl)
  case rem => exact hends (execRem_keeps hrefl)
  case remu => exact hends (execRemu_keeps hrefl)
  case and => exact hends (execAnd_keeps hrefl)
  case or => exact hends (execOr_keeps hrefl)
  case xor => exact hends (execXor_keeps hrefl)
  case andn => exact hends (execAndn_keeps hrefl)
  case shl => exact hends (execShl_keeps hrefl)
  case shr => exact hends (execShr_keeps hrefl)
  case sra => exact hends (execSra_keeps hrefl)
  case ror => exact hends (execRor_keeps hrefl)
  case min => exact hends (execMin_keeps hrefl)
  case max => exact hends (execMax_keeps hrefl)
  case minu => exact hends (execMinu_keeps hrefl)
  case maxu => exact hends (execMaxu_keeps hrefl)
  case clz => exact hends (execClz_keeps hrefl)
  case ctz => exact hends (execCtz_keeps hrefl)
  case popc => exact hends (execPopc_keeps hrefl)
  case bfx => exact hends (execBfx_keeps hrefl)
  case bfi => exact hends (execBfi_keeps hrefl)
  case sel => exact hends (execSel_keeps hrefl)
  case lea => exact hends (execLea_keeps hrefl)
  case addImm => exact hends (execAddImm_keeps hrefl)
  case subImm => exact hends (execSubImm_keeps hrefl)
  case mulImm => exact hends (execMulImm_keeps hrefl)
  case mulhImm => exact hends (execMulhImm_keeps hrefl)
  case mulhuImm => exact hends (execMulhuImm_keeps hrefl)
  case divImm => exact hends (execDivImm_keeps hrefl)
  case divuImm => exact hends (execDivuImm_keeps hrefl)
  case remImm => exact hends (execRemImm_keeps hrefl)
  case remuImm => exact hends (execRemuImm_keeps hrefl)
  case andImm => exact hends (execAndImm_keeps hrefl)
  case orImm => exact hends (execOrImm_keeps hrefl)
  case xorImm => exact hends (execXorImm_keeps hrefl)
  case andnImm => exact hends (execAndnImm_keeps hrefl)
  case shlImm => exact hends (execShlImm_keeps hrefl)
  case shrImm => exact hends (execShrImm_keeps hrefl)
  case sraImm => exact hends (execSraImm_keeps hrefl)
  case rorImm => exact hends (execRorImm_keeps hrefl)
  case minImm => exact hends (execMinImm_keeps hrefl)
  case maxImm => exact hends (execMaxImm_keeps hrefl)
  case minuImm => exact hends (execMinuImm_keeps hrefl)
  case maxuImm => exact hends (execMaxuImm_keeps hrefl)
  case bfxImm => exact hends (execBfxImm_keeps hrefl)
  case bfiImm => exact hends (execBfiImm_keeps hrefl)
  case selImm => exact hends (execSelImm_keeps hrefl)
  case leaImm => exact hends (execLeaImm_keeps hrefl)
  case movi => exact hends (execMovi_keeps hrefl)
  case cmp => exact hends (execCmp_keeps hrefl)
  case cmpi => exact hends (execCmpi_keeps hrefl)
  case plog => exact hends (execPlog_keeps hrefl)
  case pmovToX => exact hends (execPmovToX_keeps hrefl)
  case pmovToP => exact hends (execPmovToP_keeps hrefl)
  case ld => exact hends (execLd_keeps hrefl)
  case st => exact hends (execSt_keeps hrefl)
  case lda => exact hends (execLda_keeps hrefl)
  case str => exact hends (execStr_keeps hrefl)
  case atomSwap => exact hends (execAtomSwap_keeps hrefl)
  case atomAdd => exact hends (execAtomAdd_keeps hrefl)
  case atomAnd => exact hends (execAtomAnd_keeps hrefl)
  case atomOr => exact hends (execAtomOr_keeps hrefl)
  case atomXor => exact hends (execAtomXor_keeps hrefl)
  case atomMin => exact hends (execAtomMin_keeps hrefl)
  case atomMax => exact hends (execAtomMax_keeps hrefl)
  case atomCas => exact hends (execAtomCas_keeps hrefl)
  case fence => exact hends (execFence_keeps hrefl)
  case vadd => exact hends (execVadd_keeps hrefl)
  case vsub => exact hends (execVsub_keeps hrefl)
  case vmul => exact hends (execVmul_keeps hrefl)
  case vfma => exact hends (execVfma_keeps hrefl)
  case vfms => exact hends (execVfms_keeps hrefl)
  case vfnma => exact hends (execVfnma_keeps hrefl)
  case vdiv => exact hends (execVdiv_keeps hrefl)
  case vsqrt => exact hends (execVsqrt_keeps hrefl)
  case vmin => exact hends (execVmin_keeps hrefl)
  case vmax => exact hends (execVmax_keeps hrefl)
  case vabs => exact hends (execVabs_keeps hrefl)
  case vneg => exact hends (execVneg_keeps hrefl)
  case vcmp => exact hends (execVcmp_keeps hrefl)
  case vclass => exact hends (execVclass_keeps hrefl)
  case twosum => exact hends (execTwosum_keeps hrefl)
  case viadd => exact hends (execViadd_keeps hrefl)
  case visub => exact hends (execVisub_keeps hrefl)
  case vimul => exact hends (execVimul_keeps hrefl)
  case vimulh => exact hends (execVimulh_keeps hrefl)
  case vimad => exact hends (execVimad_keeps hrefl)
  case vimin => exact hends (execVimin_keeps hrefl)
  case vimax => exact hends (execVimax_keeps hrefl)
  case vand => exact hends (execVand_keeps hrefl)
  case vor => exact hends (execVor_keeps hrefl)
  case vxor => exact hends (execVxor_keeps hrefl)
  case vshl => exact hends (execVshl_keeps hrefl)
  case vshr => exact hends (execVshr_keeps hrefl)
  case vsra => exact hends (execVsra_keeps hrefl)
  case vclip => exact hends (execVclip_keeps hrefl)
  case vmov => exact hends (execVmov_keeps hrefl)
  case vbcast => exact hends (execVbcast_keeps hrefl)
  case viota => exact hends (execViota_keeps hrefl)
  case vsel => exact hends (execVsel_keeps hrefl)
  case vldi => exact hends (execVldi_keeps hrefl)
  case setvl => exact hends (execSetvl_keeps hrefl)
  case setvlRel => exact hends (execSetvlRel_keeps hrefl)
  case setrc => exact hends (execSetrc_keeps hrefl)
  case alloc => exact hends (execAlloc_keeps hrefl)
  case shrink => exact hends (execShrink_keeps hrefl)
  case strip => exact hends (execStrip_keeps hrefl)
  case vrcp => exact hends (execVrcp_keeps hrefl)
  case vrsq => exact hends (execVrsq_keeps hrefl)
  case vexp2 => exact hends (execVexp2_keeps hrefl)
  case vlog2 => exact hends (execVlog2_keeps hrefl)
  case vtanh => exact hends (execVtanh_keeps hrefl)
  case vcvt => exact hends (execVcvt_keeps hrefl)
  case vqblk => exact hends (execVqblk_keeps hrefl)
  case vdqblk => exact hends (execVdqblk_keeps hrefl)
  case vplane => exact hends (execVplane_keeps hrefl)
  case vunplane => exact hends (execVunplane_keeps hrefl)
  case vrand => exact hends (execVrand_keeps hrefl)
  case klog => exact hends (execKlog_keeps hrefl)
  case kcnt => exact hends (execKcnt_keeps hrefl)
  case kfirst => exact hends (execKfirst_keeps hrefl)
  case mpush => exact hends (execMpush_keeps hrefl)
  case minv => exact hends (execMinv_keeps hrefl)
  case mpop => exact hends (execMpop_keeps hrefl)
  case mbrz => exact hends (execMbrz_keeps hrefl)
  case vtrip => exact hends (execVtrip_keeps hrefl)
  case mloop => exact hends (execMloop_keeps hrefl)
  case vred => exact hends (execVred_keeps hrefl)
  case vredp => exact hends (execVredp_keeps hrefl)
  case vscan => exact hends (execVscan_keeps hrefl)
  case vperm => exact hends (execVperm_keeps hrefl)
  case vslide => exact hends (execVslide_keeps hrefl)
  case vzip => exact hends (execVzip_keeps hrefl)
  case vunzip => exact hends (execVunzip_keeps hrefl)
  case vtrn => exact hends (execVtrn_keeps hrefl)
  case vcompress => exact hends (execVcompress_keeps hrefl)
  case vexpand => exact hends (execVexpand_keeps hrefl)
  case vsortk => exact hends (execVsortk_keeps hrefl)
  case vextr => exact hends (execVextr_keeps hrefl)
  case vinsr => exact hends (execVinsr_keeps hrefl)
  case rdv => exact hends (execRdv_keeps hrefl)
  case vld => exact hends (execVld_keeps hrefl)
  case vlds => exact hends (execVlds_keeps hrefl)
  case vldx => exact hends (execVldx_keeps hrefl)
  case vst => exact hends (execVst_keeps hrefl)
  case vsts => exact hends (execVsts_keeps hrefl)
  case vstx => exact hends (execVstx_keeps hrefl)
  case vstu => exact hends (execVstu_keeps hrefl)
  case vstxa => exact hends (execVstxa_keeps hrefl)
  case vfence => exact hends (execVfence_keeps hrefl)
  case pref => exact hends (execPref_keeps hrefl)
  case gset => exact hends (execGset_keeps hrefl)
  case gsetFree => exact hends (execGsetFree_keeps hrefl)
  case vgred => exact hends (execVgred_keeps hrefl)
  case vgall => exact hends (execVgall_keeps hrefl)
  case vgrs => exact hends (execVgrs_keeps hrefl)
  case vgbc => exact hends (execVgbc_keeps hrefl)
  case stream => exact hends (execStream_keeps hrefl)
  case armw => exact hends (execArmw_keeps hrefl)
  case waitw => exact hends (execWaitw_keeps hrefl)
  case jobwait => exact hends (execJobwait_keeps hrefl)
  case ovopen => exact hends (execOvopen_keeps hrefl)
  case ovopenTry => exact hends (execOvopenTry_keeps hrefl)
  case ovset => exact hends (execOvset_keeps hrefl)
  case ovretire => exact hends (execOvretire_keeps hrefl)
  case ovcommit => exact hends (execOvcommit_keeps hrefl)
  case ldo => exact hends (execLdo_keeps hrefl)
  case vldo => exact hends (execVldo_keeps hrefl)
  case ovstat => exact hends (execOvstat_keeps hrefl)
  case carve => exact hends (execCarve_keeps hrefl)
  case cclean => exact hends (execCclean_keeps hrefl)
  case cinv => exact hends (execCinv_keeps hrefl)
  case cflush => exact hends (execCflush_keeps hrefl)
  case tlbiAll => exact hends (execTlbiAll_keeps hrefl)
  case tlbiAsid => exact hends (execTlbiAsid_keeps hrefl)
  case tlbiRange => exact hends (execTlbiRange_keeps hrefl)
  case digest => exact hends (execDigest_keeps hrefl)
  case digestRng => exact hends (execDigestRng_keeps hrefl)
  case budget => exact hends (execBudget_keeps hrefl)
  case budgetW => exact hends (execBudgetW_keeps hrefl)
  case mattach => exact hends (execMattach_keeps hrefl)
  case mattachPair => exact hends (execMattachPair_keeps hrefl)
  case mdetach => exact hends (execMdetach_keeps hrefl)
  case mwld => exact hends (execMwld_keeps hrefl)
  case mstream => exact hends (execMstream_keeps hrefl)
  case mzeroFp => exact hends (execMzeroFp_keeps hrefl)
  case mzeroInt => exact hends (execMzeroInt_keeps hrefl)
  case mdrain => exact hends (execMdrain_keeps hrefl)
  case mdrainIdx => exact hends (execMdrainIdx_keeps hrefl)
  case msave => exact hends (execMsave_keeps hrefl)
  case mrestore => exact hends (execMrestore_keeps hrefl)
  case mlineEmpty => exact hends (execMlineEmpty_keeps hrefl)
  case mlineFull => exact hends (execMlineFull_keeps hrefl)
  case mlineWfull => exact hends (execMlineWfull_keeps hrefl)
  case mlineWempty => exact hends (execMlineWempty_keeps hrefl)
  case mwait => exact hends (execMwait_keeps hrefl)
  case mstat => exact hends (execMstat_keeps hrefl)
  case tvload => exact hends (execTvload_keeps hrefl)
  case tvloadFree => exact hends (execTvloadFree_keeps hrefl)
  case tvstart => exact hends (execTvstart_keeps hrefl)
  case tvwait => exact hends (execTvwait_keeps hrefl)
  case tvstat => exact hends (execTvstat_keeps hrefl)
  case gzlook => exact hends (execGzlook_keeps hrefl)
  case gzupdate => exact hends (execGzupdate_keeps hrefl)
  case gzver => exact hends (execGzver_keeps hrefl)
  case gzpin => exact hends (execGzpin_keeps hrefl)
  case gzpinUn => exact hends (execGzpinUn_keeps hrefl)
  case gzwait => exact hends (execGzwait_keeps hrefl)
  case launch => exact hends (execLaunch_keeps hrefl)
  case launchTry => exact hends (execLaunchTry_keeps hrefl)
  case trig => exact hends (execTrig_keeps hrefl)
  case bar => exact hends (execBar_keeps hrefl)
  case waitl => exact hends (execWaitl_keeps hrefl)
  case lvlid => exact hends (execLvlid_keeps hrefl)
  case mtick => exact hends (execMtick_keeps hrefl)
  case mtickOrd => exact hends (execMtickOrd_keeps hrefl)
  case svmark => exact hends (execSvmark_keeps hrefl)
  case svsamp => exact hends (execSvsamp_keeps hrefl)
  case svsampOff => exact hends (execSvsampOff_keeps hrefl)
  case svread => exact hends (execSvread_keeps hrefl)
  case svstop => exact hends (execSvstop_keeps hrefl)
  case waitWake => exact hends (execWaitWake_keeps hrefl)
  case queueDeadlock => exact hends (execQueueDeadlock_keeps hrefl)
  case rendezvousComplete => exact hends (execRendezvousComplete_keeps hrefl)
  case laneArrive => exact hends (execLaneArrive_keeps hrefl)
  case vectorTrapCommit => exact hends (execVectorTrapCommit_keeps hrefl)
  case mzeroApply => exact hends (execMzeroApply_keeps hrefl)
  case streamChunk => exact hends (execStreamChunk_keeps hrefl)
  case weightSwap => exact hends (execWeightSwap_keeps hrefl)
  case barRelease => exact hends (execBarRelease_keeps hrefl)
  case clklock => exact hends (execClklock_keeps hrefl)
  case clklockOff => exact hends (execClklockOff_keeps hrefl)
  case dhash => exact hends (execDhash_keeps hrefl)
  case dverify => exact hends (execDverify_keeps hrefl)
  case dsign => exact hends (execDsign_keeps hrefl)
  case dsignAtt => exact hends (execDsignAtt_keeps hrefl)
  case dsignPub => exact hends (execDsignPub_keeps hrefl)
  case fuserd => exact hends (execFuserd_keeps hrefl)
  case keywipe => exact hends (execKeywipe_keeps hrefl)
  case keywipeAll => exact hends (execKeywipeAll_keeps hrefl)
  case mextend => exact hends (execMextend_keeps hrefl)
  case mextendDbg => exact hends (execMextendDbg_keeps hrefl)
  case lcset => exact hends (execLcset_keeps hrefl)
  case dbgopen => exact hends (execDbgopen_keeps hrefl)
  case legSend => exact hends (execLegSend_keeps hrefl)
  case legRecv => exact hends (execLegRecv_keeps hrefl)
  case legReduce => exact hends (execLegReduce_keeps hrefl)
  case legCopy => exact hends (execLegCopy_keeps hrefl)
  case legWait => exact hends (execLegWait_keeps hrefl)
  case legSignal => exact hends (execLegSignal_keeps hrefl)
  case legReserve => exact hends (execLegReserve_keeps hrefl)
  case legRepeat => exact hends (execLegRepeat_keeps hrefl)
  case legEnd => exact hends (execLegEnd_keeps hrefl)
  case traverseRunStart => exact hends (execTraverseRunStart_keeps hrefl)
  case sendLand => exact hends (execSendLand_keeps hrefl)
  case signalArrive => exact hends (execSignalArrive_keeps hrefl)
  case reserveClaimArrive => exact hends (execReserveClaimArrive_keeps hrefl)
  case reserveRound => exact hends (execReserveRound_keeps hrefl)
  case legAckArrive => exact hends (execLegAckArrive_keeps hrefl)
  case stopNotice => exact hends (execStopNotice_keeps hrefl)
  case cardStart => exact hends (execCardStart_keeps hrefl)
  case streamCopyJob => exact hends (execStreamCopyJob_keeps hrefl)
  case weightLoadJob => exact hends (execWeightLoadJob_keeps hrefl)
  case gzLookupJob => exact hends (execGzLookupJob_keeps hrefl)
  case gzUpdateJob => exact hends (execGzUpdateJob_keeps hrefl)
  case gzageHalve => exact hends (execGzageHalve_keeps hrefl)
  case cardComplete => exact hends (execCardComplete_keeps hrefl)
  case ringWptrWrite => exact hends (execRingWptrWrite_keeps hrefl)
  case ringReset => exact hends (execRingReset_keeps hrefl)
  case ringEntryRead => exact hends (execRingEntryRead_keeps hrefl)
  case priorityAge => exact hends (execPriorityAge_keeps hrefl)
  case depEval => exact hends (execDepEval_keeps hrefl)
  case launchPlace => exact hends (execLaunchPlace_keeps hrefl)
  case podAdmission => exact hends (execPodAdmission_keeps hrefl)
  case launchComplete => exact hends (execLaunchComplete_keeps hrefl)
  case preemptWrite => exact hends (execPreemptWrite_keeps hrefl)
  case cancelWrite => exact hends (execCancelWrite_keeps hrefl)
  case gangPreempt => exact hends (execGangPreempt_keeps hrefl)
  case gangResume => exact hends (execGangResume_keeps hrefl)
  case hostMrd => exact hends (execHostMrd_keeps hrefl)
  case hostDrd => exact hends (execHostDrd_keeps hrefl)
  case hostDwr => exact hends (execHostDwr_keeps hrefl)
  case hostCpl => exact hends (execHostCpl_keeps hrefl)
  case regWrite => exact hends (execRegWrite_keeps hrefl)
  case fqrespRetry => exact hends (execFqrespRetry_keeps hrefl)
  case fqrespDecline => exact hends (execFqrespDecline_keeps hrefl)
  case pageWalkDone => exact hends (execPageWalkDone_keeps hrefl)
  case faultRecordPost => exact hends (execFaultRecordPost_keeps hrefl)
  case sideLogPerform => exact hends (execSideLogPerform_keeps hrefl)
  case sideLogPageTrap => exact hends (execSideLogPageTrap_keeps hrefl)
  case tagEndOvstaleTrap => exact hends (execTagEndOvstaleTrap_keeps hrefl)
  case roundProtTrap => exact hends (execRoundProtTrap_keeps hrefl)
  case wcbDrainTimeout => exact hends (execWcbDrainTimeout_keeps hrefl)
  case l1LeaseExpire => exact hends (execL1LeaseExpire_keeps hrefl)
  case borderCopyInvalidate => exact hends (execBorderCopyInvalidate_keeps hrefl)
  case budgetPeriod => exact hends (execBudgetPeriod_keeps hrefl)
  case roundApply => exact hends (execRoundApply_keeps hrefl)
  case trainReceive => exact hends (execTrainReceive_keeps hrefl)
  case trainAck => exact hends (execTrainAck_keeps hrefl)
  case trainRefusal => exact hends (execTrainRefusal_keeps hrefl)
  case ualinkReadServe => exact hends (execUalinkReadServe_keeps hrefl)
  case ualinkResponse => exact hends (execUalinkResponse_keeps hrefl)
  case tlbicmdAll => exact hends (execTlbicmdAll_keeps hrefl)
  case tlbicmdAsid => exact hends (execTlbicmdAsid_keeps hrefl)
  case tlbicmdRange => exact hends (execTlbicmdRange_keeps hrefl)
  case tlbicmdDone => exact hends (execTlbicmdDone_keeps hrefl)
  case uncorrected => exact hends (execUncorrected_keeps hrefl)
  case scrub => exact hends (execScrub_keeps hrefl)
  case ovgaddWrite => exact hends (execOvgaddWrite_keeps hrefl)
  case poolGrowDone => exact hends (execPoolGrowDone_keeps hrefl)
  case gzdsyncWrite => exact hends (execGzdsyncWrite_keeps hrefl)
  case gzprobeWrite => exact hends (execGzprobeWrite_keeps hrefl)
  case gzprobeDone => exact hends (execGzprobeDone_keeps hrefl)
  case tickAlign => exact execTickAlign_ends hs
  case tickAlignLoss => exact hends (execTickAlignLoss_keeps hrefl)
  case sampleRecord => exact hends (execSampleRecord_keeps hrefl)
  case stopFire => exact hends (execStopFire_keeps hrefl)
  case svrunWrite => exact hends (execSvrunWrite_keeps hrefl)
  case svstatDisarm => exact hends (keeps_execSvstatDisarm hrefl)
  case rlctlWrite => exact hends (execRlctlWrite_keeps hrefl)
  case rlwptrSupply => exact hends (execRlwptrSupply_keeps hrefl)
  case replayInputArrive => exact hends (execReplayInputArrive_keeps hrefl)
  case powerGoodReset => exact execPowerGoodReset_ends hs
  case dwinWrite => exact hends (execDwinWrite_keeps hrefl)
  case dmloadWrite => exact hends (execDmloadWrite_keeps hrefl)
  case unitReady => exact hends (execUnitReady_keeps hrefl)
  case unitLost => exact hends (execUnitLost_keeps hrefl)
  case cdisWrite => exact hends (execCdisWrite_keeps hrefl)
  case pcapWrite board v => exact hends (execPcapWrite_keeps (_board := board) hrefl)
  case powerLimitRaise => exact hends (execPowerLimitRaise_keeps hrefl)
  case powerLimitRelax => exact hends (execPowerLimitRelax_keeps hrefl)
  case thermalLimitRaise => exact hends (execThermalLimitRaise_keeps hrefl)
  case thermalTrip => exact hends (execThermalTrip_keeps hrefl)
  case thermalLimitRelax => exact hends (execThermalLimitRelax_keeps hrefl)
  case pointChange => exact hends (execPointChange_keeps hrefl)
  case kctlLoad => exact hends (execKctlLoad_keeps hrefl)
  case kctlClearSeal => exact hends (execKctlClearSeal_keeps hrefl)
  case dunlkAbort => exact hends (execDunlkAbort_keeps hrefl)
  case dchalDraw => exact hends (execDchalDraw_keeps hrefl)
  case debugScan => exact hends (execDebugScan_keeps hrefl)
  case debugMemrd => exact hends (execDebugMemrd_keeps hrefl)
  case debugMemwr => exact hends (execDebugMemwr_keeps hrefl)
  case debugSvstop => exact hends (execDebugSvstop_keeps hrefl)
  case i3cEntdaa => exact hends (execI3cEntdaa_keeps hrefl)
  case i3cRstdaa => exact hends (execI3cRstdaa_keeps hrefl)
  case i3cGetpid => exact hends (execI3cGetpid_keeps hrefl)
  case i3cGetbcr => exact hends (execI3cGetbcr_keeps hrefl)
  case i3cGetdcr => exact hends (execI3cGetdcr_keeps hrefl)
  case i3cGetstatus => exact hends (execI3cGetstatus_keeps hrefl)
  case i3cPrivateWrite => exact hends (execI3cPrivateWrite_keeps hrefl)
  case laneComplete => exact hends (execLaneComplete_keeps hrefl)
  case meridianTick => exact execMeridianTick_keeps.ends hs
  case ualinkErrorResponse => exact hends (execUalinkErrorResponse_keeps hrefl)
  case gzdsyncDone => exact hends (execGzdsyncDone_keeps hrefl)
  case i3cPrivateRead => exact hends (execI3cPrivateRead_keeps hrefl)

/-! A stream's turn. -/

theorem Ends.next {s} (hs : Canonical s) : Ends (.next s) := by
  intro t ht
  cases ht
  exact hs

theorem Ends.andThen {r f} (hr : Ends r) (hf : ∀ t, Canonical t → Ends (f t)) : Ends (andThen r f) := by
  cases r with
  | next s => exact hf s (hr s rfl)
  | fault e => exact fun _ h => nomatch h
  | refused e => exact fun _ h => nomatch h

theorem illegalWord_keeps {s} (hs : Keeps o s) : Goes o (illegalWord s) :=
  .next (trapAt_keeps hs)

theorem issueSlot_ends {w is s} (hs : Canonical s) : Ends (issueSlot w is s) := by
  unfold issueSlot
  dsimp only
  split
  · exact (illegalWord_keeps (.refl _)).ends hs
  · exact exec_ends ((Keeps.ite (.refl _) (State.inOrder_keeps (.refl _))).canonical hs)

theorem pairTrap_canonical {n vec s t} (hs : Canonical s) (ht : Canonical t) : Canonical (pairTrap n vec s t) := by
  unfold pairTrap
  split
  · exact iteInduction (fun _ => (trapAt_keeps (.refl s)).canonical hs) fun _ => ht
  · exact ht

theorem pairScalarFirst_endsCanonical {n i1 i2 w1 w2 last s} (hs : Canonical s) :
    Ends (pairScalarFirst n i1 i2 w1 w2 last s) := by
  unfold pairScalarFirst
  refine Ends.andThen (exec_ends hs) fun t ht => ?_
  dsimp only
  split
  · exact .next ht
  · refine Ends.andThen (exec_ends ((State.setStream_keeps (.refl t)).canonical ht)) fun u hu => ?_
    split
    · exact .next ((State.setStream_keeps (restoreQueues_keeps (.refl u))).canonical hu)
    · exact .next (pairTrap_canonical hs hu)

theorem pairScalarSecond_endsCanonical {n i1 i2 w1 w2 last s} (hs : Canonical s) :
    Ends (pairScalarSecond n i1 i2 w1 w2 last s) := by
  unfold pairScalarSecond
  refine Ends.andThen (exec_ends hs) fun t ht => ?_
  dsimp only
  split
  · exact Ends.andThen (exec_ends ((State.setStream_keeps (.refl t)).canonical ht)) fun u hu =>
      .next (pairTrap_canonical hs ((State.setStream_keeps (.refl u)).canonical hu))
  · exact .next ht

theorem issuePair_ends {n w1 w2 last s} (hs : Canonical s) : Ends (issuePair n w1 w2 last s) := by
  unfold issuePair
  dsimp only
  split
  · exact (illegalWord_keeps (.refl _)).ends hs
  · split
    · exact exec_ends hs
    · exact (illegalWord_keeps (.refl _)).ends hs
  · split
    · exact exec_ends hs
    · split
      · exact exec_ends hs
      · split
        · exact (Goes.next (waits_keeps (.refl _))).ends hs
        · split
          · exact (Goes.next (waits_keeps (State.setStream_keeps (.refl _)))).ends hs
          · split
            · exact pairScalarFirst_endsCanonical hs
            · exact pairScalarSecond_endsCanonical hs

theorem fetchAndIssue_ends {s} (hs : Canonical s) : Ends (fetchAndIssue s) := by
  unfold fetchAndIssue
  dsimp only
  split
  · next ht => exact (answerExc_keeps (lineHere_keeps.error (.refl _) ht)).ends hs
  · next ht =>
    have hline := lineHere_keeps.ok (.refl _) ht
    split
    · exact issuePair_ends ((State.inOrder_keeps hline).canonical hs)
    · split
      · exact issueSlot_ends (hline.canonical hs)
      · exact issueSlot_ends (hline.canonical hs)

theorem goOn_ends {st s} (hs : Canonical s) : Ends (goOn st s) := by
  have hset : ∀ {st : Stream}, Canonical (s.setStream s.cur st) := (State.setStream_keeps (.refl s)).canonical hs
  unfold goOn
  split
  · exact .next hs
  · split
    · exact .next ((State.takeDeferred_keeps (.refl s)).canonical hs)
    · split
      · split
        · exact fetchAndIssue_ends hset
        · exact .next hs
      · split
        · exact .next hset
        · exact fetchAndIssue_ends hs

theorem heldTurn_ends {st s} (hs : Canonical s) : Ends (heldTurn st s) := by
  unfold heldTurn
  split
  · exact .next hs
  · exact Ends.andThen (fetchAndIssue_ends hs) fun t ht => .next (iteInduction (fun _ => hs) fun _ => ht)

theorem takeTurn_ends {s} (hs : Canonical s) : Ends (takeTurn s) := by
  unfold takeTurn
  split
  · exact .next hs
  · split
    · exact .next hs
    · split
      · exact goOn_ends hs
      · dsimp only
        split
        · exact heldTurn_ends hs
        · split
          · exact goOn_ends hs
          · split
            · exact (execVectorTrapCommit_keeps (.refl s)).ends hs
            · split
              · exact goOn_ends hs
              · exact .next hs

theorem channelTurn_ends {s} (hs : Canonical s) : Ends (channelTurn s) := by
  unfold channelTurn
  split
  · exact .next hs
  · split
    · exact (Goes.next (State.endRun_keeps (.refl s))).ends hs
    · split
      · exact .next hs
      · split
        · exact (Goes.next (State.endRun_keeps (.refl s))).ends hs
        · split
          · exact (Goes.next (State.endRun_keeps (.refl s))).ends hs
          · exact exec_ends hs

/-! The turn of the engines and of every act. -/

theorem State.sampleTimes_keeps {s} (hs : Keeps o s) : Keeps o s.sampleTimes.2.2 :=
  .put hs rfl rfl

theorem runEvent_ends {i s} (hs : Canonical s) : Ends (runEvent i s) := by
  unfold runEvent
  split
  · exact exec_ends ((State.sampleTimes_keeps (.refl s)).canonical hs)
  · exact exec_ends hs

theorem firstDue_ends {l s} (hs : Canonical s) : Ends (firstDue s l) := by
  induction l with
  | nil => exact .next hs
  | cons i l ih =>
    have hi := runEvent_ends (i := i) hs
    unfold firstDue
    split
    · next ht => exact iteInduction (fun _ => ih) fun _ => .next (hi _ ht)
    · exact fun _ h => nomatch h
    · exact fun _ h => nomatch h

theorem engineTurn_ends {s} (hs : Canonical s) : Ends (engineTurn s) := firstDue_ends hs

theorem runAct_ends {a s} (hs : Canonical s) : Ends (runAct a s) := by
  have hlate : Canonical s.allPerformed := (State.allPerformed_keeps (.refl s)).canonical hs
  unfold runAct
  split
  · exact takeTurn_ends hs
  · exact takeTurn_ends hs
  · exact channelTurn_ends hlate
  · split
    · exact exec_ends hlate
    · exact .next hs
  · exact engineTurn_ends hlate
  · exact execMeridianTick_keeps.ends hlate
  · exact (Goes.next (State.evictL2_keeps (.refl s))).ends hs

theorem stoppedTurn_ends {s} (hs : Canonical s) : Ends (stoppedTurn s) := by
  unfold stoppedTurn
  split
  · exact runAct_ends hs
  · exact execMeridianTick_keeps.ends hs

theorem State.hadTurn_keeps {s p} (hs : Keeps o s) : Keeps o (s.hadTurn p) :=
  .ite (.put hs rfl rfl) hs

theorem agendaTurn_ends {a s} (hs : Canonical s) : Ends (agendaTurn a s) := by
  have hturn : ∀ {p}, Canonical (s.hadTurn p) := (State.hadTurn_keeps (.refl s)).canonical hs
  unfold agendaTurn
  split
  · exact runAct_ends hturn
  · exact runAct_ends hturn
  · exact runAct_ends hs

theorem runningTurn_ends {s} (hs : Canonical s) : Ends (runningTurn s) := by
  unfold runningTurn
  split
  · exact agendaTurn_ends hs
  · exact runAct_ends hs
  · exact execMeridianTick_keeps.ends hs

/-! One step. -/

/-- Settles O5: every step is one act, and what any act does to device memory is to write lines back to it. -/
theorem stepsKeepMemoryCanonical : Obligations.StepsKeepMemoryCanonical := by
  unfold Obligations.StepsKeepMemoryCanonical
  intro s t hs ht
  refine (?_ : Ends (step s)) t ht
  unfold step
  exact iteInduction (fun _ => stoppedTurn_ends hs) fun _ => runningTurn_ends hs

end Sys2Proof.Machine
end

section
/-! SUPPORT. Drains, images, waits and status of the arrays (11 R464..R468, R470, R471). -/

set_option Elab.async false

namespace Sys2Proof.Machine

open Sys2Proof

section
variable {s s0 s1 s' t : State} {i : Instr} {h : Hdr} {w : Nat} {barrier : Bool} {slot rows : Nat} {arrays : List Nat}

/-- An instruction that enters the array order does its body's effect and leaves vstart 0. -/
theorem matRun_ok {body : M Unit} (he : EntersMatrix w barrier s s0) (hb : body s0 = .ok () t) :
    matRun w barrier body s = .ok () t.vleave := by
  obtain ⟨room, entered⟩ := he
  refine (congrFun (if_neg (by simp [room])) s).trans ?_
  rw [bind_ok entered, bind_ok hb]
  rfl

theorem Does.of_matRun {body : M Unit} (hx : Sys2Proof.Machine.exec i s = runSeq i h (matRun w barrier body) s)
    (he : EntersMatrix w barrier s s0) (hb : Issues i h s → SameQueues s s0 → body s0 = .ok () t) :
    Does i h s .next t.vleave :=
  .of_runSeq hx fun hi => matRun_ok he (hb hi (hi.entered he.2).queues)

/-- The first source of an instruction in its place can be read. -/
theorem Issues.hasXIn {a : XOp} {rest : List Use} (hi : Issues i h s) (hq : SameQueues s s0)
    (hn : queueNeeds s i = i.uses.filterMap Use.queue?) (hu : i.uses = .rx a :: rest) : s0.hasX a :=
  hi.hasSrc (l := []) (a := .x a) hq hn hu

/-! The rows that an instruction names (11 R440, R454). -/

theorem ownAttachment_ok (ha : s.attachment s.cur.slot = some (rows, arrays)) : ownAttachment s = .ok (rows, arrays) s := by
  change (match s.attachment s.cur.slot with | some t => pure t | none => trapMattach 0 0 : M (Nat × List Nat)) s = _
  rw [ha]
  rfl

theorem waitRows_ok {rs : List Nat} (free : RowsFree s arrays) : waitRows arrays rs s = .ok () s := by
  refine congrFun (if_neg ?_) s
  simp only [List.any_eq_true, Bool.and_eq_true, beq_iff_eq, not_exists, not_and]
  exact fun n hn c hc own => absurd own (free n hn c hc)

theorem waitCommands_ok (free : ∀ rows arrays, s.attachment s.cur.slot = some (rows, arrays) → RowsFree s arrays) :
    waitCommands s = .ok () s := by
  refine congrFun (if_neg ?_) s
  split
  next rows arrays ha =>
    simp only [List.any_eq_true, beq_iff_eq, not_exists, not_and]
    exact fun n hn c hc => free rows arrays ha n hn c hc
  next => decide

/-! Drains (11 R465). -/

theorem does_mdrain {c : DrainCmd} {a b : XOp} (he : EntersMatrix (Ty.width c.t) false s s0) (hr : Ready (.mdrain h c a b) s0) :
    s0.x2 a b fun base stride u =>
      Drains h c (fun k i => (base + BitVec.ofNat 64 (i / k.vl.toNat) * stride
        + BitVec.ofNat 64 (i % k.vl.toNat * Ty.size c.t)).toNat) u s' →
      Does (.mdrain h c a b) h s .next (s'.vleave) := by
  intro drains
  refine .of_matRun rfl he fun hi hq => ?_
  rw [bind_ok (awaitInputs_ok hr), bind_readX _ (hi.hasXIn hq rfl rfl),
    bind_readX _ (show (s0.xpop a).hasX b from hi.hasSrc (l := [.x a]) (a := .x b) hq rfl rfl)]
  exact drains

theorem does_mdrainIdx {c : DrainCmd} {a : XOp} {v : VOp} (he : EntersMatrix (Ty.width c.t) false s s0)
    (hr : Ready (.mdrainIdx h c a v) s0) :
    s0.x1 a fun base u => u.v1 .i32 v fun idx u =>
      Drains h c (fun _ i => (base + (BitVec.ofNat 32 (idx i)).signExtend 64).toNat) u s' →
      Does (.mdrainIdx h c a v) h s .next (s'.vleave) := by
  intro drains
  refine .of_matRun rfl he fun hi hq => ?_
  rw [bind_ok (awaitInputs_ok hr), bind_readX _ (hi.hasXIn hq rfl rfl),
    bind_ok (readTile_ok (show (s0.xpop a).hasV v from hi.hasSrc (l := [.x a]) (a := .v v) hq rfl rfl))]
  exact drains

/-! Images (11 R466..R468). -/

theorem imageStart_ok {m : MemOp} (he : s.hasEA m) (ha : (s.eaPop m).attachment (s.eaPop m).cur.slot = some (rows, arrays))
    (aligned : s.eaOf m % 64 = 0) (plain : ∀ k off, addrKind (coreOf (s.eaPop m).cur.slot) (s.eaOf m) ≠ .tile k off) :
    imageStart m s = .ok (s.eaOf m, rows, arrays) (s.eaPop m) := by
  unfold imageStart
  rw [bind_ok (readEA_ok he), bind_ok (ownAttachment_ok ha)]
  refine (congrFun (if_neg (not_not.2 aligned)) _).trans ?_
  change (match addrKind (coreOf (s.eaPop m).cur.slot) (s.eaOf m) with
    | .tile _ _ => trap causeProt (BitVec.ofNat 64 (s.eaOf m))
    | _ => pure (s.eaOf m, rows, arrays) : M (Nat × Nat × List Nat)) (s.eaPop m) = _
  generalize addrKind (coreOf (s.eaPop m).cur.slot) (s.eaOf m) = k at plain ⊢
  cases k with
  | tile k off => exact absurd rfl (plain k off)
  | _ => rfl

theorem length_flatMap_const {α : Type} {f : α → List Byte} {n : Nat} (hf : ∀ a, (f a).length = n) (l : List α) :
    (l.flatMap f).length = l.length * n := by
  rw [List.length_flatMap, List.map_congr_left fun a _ => hf a, List.map_const', List.sum_replicate, smul_eq_mul]

/-- An image is a head of 64 bytes and eight bytes for each cell. -/
theorem length_matrixImage (s : State) (slot rows : Nat) (arrays : List Nat) :
    (s.matrixImage slot rows arrays).length = 64 + rows * (256 * arrays.length) * 8 := by
  unfold State.matrixImage
  have cells (r n : Nat) : ((List.range 256).flatMap fun col => leBytes 8 ((s.array n).cell slot r col).word).length = 256 * 8 :=
    (length_flatMap_const (fun _ => leBytes_length ..) _).trans (by rw [List.length_range])
  have rowsLength := length_flatMap_const (n := arrays.length * (256 * 8)) (f := fun r => arrays.flatMap fun n =>
    (List.range 256).flatMap fun col => leBytes 8 ((s.array n).cell slot r col).word)
    (fun r => length_flatMap_const (cells r) arrays) (List.range rows)
  rw [List.length_range] at rowsLength
  simp only [List.length_append, leBytes_length, rowsLength]
  ring

theorem does_msave {m : MemOp} {d : XOp} (he : EntersMatrix 32 true s s0)
    (ha : (s0.eaPop m).attachment s0.cur.slot = some (rows, arrays))
    (aligned : s0.eaOf m % 64 = 0) (plain : ∀ k off, addrKind (coreOf s0.cur.slot) (s0.eaOf m) ≠ .tile k off)
    (free : RowsFree (s0.eaPop m) arrays)
    (saves : SavesImage h (s0.eaOf m) ((s0.eaPop m).matrixImage s0.cur.slot rows arrays) (s0.eaPop m) s') :
    Does (.msave h d m) h s .next
      ((s'.xput d (BitVec.ofNat 64 ((s0.eaPop m).matrixImage s0.cur.slot rows arrays).length)).vleave) := by
  have cur : (s0.eaPop m).cur = s0.cur := (State.xpop_cur ..).trans (State.xpop_cur ..)
  refine .of_matRun rfl he fun hi hq => ?_
  rw [← cur] at ha plain saves ⊢
  refine (bind_ok (imageStart_ok (hi.hasEAIn hq rfl rfl) ha aligned plain)).trans ((bind_ok (waitRows_ok free)).trans ?_)
  exact (bind_ok saves).trans (writeX_ok ..)

theorem does_mrestore {m : MemOp} {d : XOp} {hd : Nat} {cells : List Nat} (he : EntersMatrix 32 true s s0)
    (ha : (s0.eaPop m).attachment s0.cur.slot = some (rows, arrays))
    (aligned : s0.eaOf m % 64 = 0) (plain : ∀ k off, addrKind (coreOf s0.cur.slot) (s0.eaOf m) ≠ .tile k off)
    (free : RowsFree (s0.eaPop m) arrays)
    (x : Ctx) (hx : x = (s0.eaPop m).hartCtx (s0.eaPop m).cur h.ch (s0.eaPop m).ovtWord)
    (first : hartLoadWide x (s0.eaOf m) 64 (s0.eaPop m) = .ok hd s1)
    (good : imageBad (leBytes 64 hd) rows arrays.length = false)
    (rest : mapM' (List.range (cardField (leBytes 64 hd) 5 1 * (256 * arrays.length))) (fun i =>
      hartLoad { x with elem := 8 + i } ((s0.eaOf m + 64 + 8 * i) % 2 ^ 64) 8) s1 = .ok cells s')
    (small : ∀ k ∈ cells, k < 2 ^ 51) :
    Does (.mrestore h d m) h s .next ((((arrays.zipIdx.foldl (fun (t : State) (k : Nat × Nat) =>
      t.setArray k.1 ((t.array k.1).restoreRows s0.cur.slot (cardField (leBytes 64 hd) 5 1) (256 * arrays.length) (256 * k.2)
        (cardField (leBytes 64 hd) 24 16) cells)) s').upHart fun k =>
          { k with mmodes := (List.range (cardField (leBytes 64 hd) 5 1)).foldl (fun l r =>
            l.put r (bitOf (cardField (leBytes 64 hd) 24 16) r)) k.mmodes }).xput d
              (BitVec.ofNat 64 (cardField (leBytes 64 hd) 8 8))).vleave) := by
  have cur : (s0.eaPop m).cur = s0.cur := (State.xpop_cur ..).trans (State.xpop_cur ..)
  have read : Keeps (s0.eaPop m) s' :=
    (mapM'_keeps fun _ => hartLoad_keeps).ok (hartLoadWide_keeps.ok (.refl _) first) rest
  have slot : s0.cur.slot = s'.cur.slot := by rw [read.cur, cur]
  have sound : ¬ ((imageBad (leBytes 64 hd) rows arrays.length || cells.any fun x => decide (2 ^ 51 ≤ x)) = true) := by
    simpa [good] using small
  refine .of_matRun rfl he fun hi hq => ?_
  rw [slot]
  rw [← cur] at ha plain
  refine (bind_ok (imageStart_ok (hi.hasEAIn hq rfl rfl) ha aligned plain)).trans ?_
  refine (bind_ok (waitCommands_ok fun r l hl => ?_)).trans ?_
  · rw [ha] at hl
    cases hl
    exact free
  · subst hx
    refine (bind_ok first).trans ((bind_ok rest).trans ((congrFun (if_neg sound) _).trans ?_))
    exact writeX_ok ..

/-! Waits and status (11 R470, R471). -/

theorem does_mwait {d a : XOp} {l : Launch} {k : Card} {st : CardStatus} (he : EntersMatrix 32 true s s0)
    (ho : (s0.xpop a).ours l) (hk : fieldOf (s0.xval a).toNat 60 4 = 2) (hs : fieldOf (s0.xval a).toNat 40 20 = l.lslot)
    (hf : ((s0.xpop a).la.cards.find? fun x => x.serial == l.serial && x.seq % 2 ^ 40 == (s0.xval a).toNat % 2 ^ 40) = some k)
    (hc : k.completed = some st) (told : k.stop = none ∨ k.trapped = true)
    (hq : Acquires 6 ((s0.xpop a).setMem (s0.xpop a).mem.dropStale) s') :
    Does (.mwait h d a) h s .next ((s'.xput d (BitVec.ofNat 64 (CardStatus.code st))).vleave) := by
  have quiet : (if k.trapped then none else k.stop.filter fun t => t.2.1 != 0) = none := by
    obtain stop | trapped := told
    · simp [stop]
    · simp [trapped]
  refine .of_matRun rfl he fun hi hq' => ?_
  rw [bind_readX _ (hi.hasXIn hq' rfl rfl), bind_ok (ownCard_ok (kinds := [2]) ho (by simp [hk]) hs hf), hc]
  dsimp only
  rw [quiet]
  dsimp only
  rw [bind_ok (acquireJob_ok hq), writeX_ok]

theorem does_mstat {d a : XOp} (he : EntersMatrix 32 true s s0)
    (free : ∀ rows arrays, (s0.xpop a).attachment s0.cur.slot = some (rows, arrays) → RowsFree (s0.xpop a) arrays)
    (sel : Fin 4) :
    Does (.mstat h sel d a) h s .next (((s0.xpop a).xput d (match sel with
      | 0 => (s0.xpop a).matrixReg s0.cur.slot 2
      | 1 => (s0.xpop a).matrixReg s0.cur.slot 1
      | 2 => (s0.xpop a).matrixReg s0.cur.slot 0
      | 3 => (s0.xpop a).rowState s0.cur.slot (s0.xval a))).vleave) := by
  have cur : (s0.xpop a).cur = s0.cur := State.xpop_cur ..
  rw [← cur] at free ⊢
  refine .of_matRun rfl he fun hi hq => ?_
  rw [bind_readX _ (hi.hasXIn hq rfl rfl), bind_ok (waitCommands_ok free)]
  exact writeX_ok ..

end

/-- Settles O46: each instruction's checks pass, its body is the step that the hypothesis names; an image's reads leave the
executing party as it was. -/
theorem matrixResultsComeBack : Obligations.MatrixResultsComeBack := by
  intro s s0 s1 s' h c d a b v m rows arrays
  refine ⟨fun he => ⟨fun hr => does_mdrain he hr, fun hr => does_mdrainIdx he hr⟩, fun he => ⟨?_, ?_, ?_⟩⟩
  · rw [State.ea_eq]
    intro ha aligned plain free
    refine ⟨fun saves => ⟨length_matrixImage .., does_msave he ha aligned plain free saves⟩, ?_⟩
    intro hd cells x head n width modes first good rest small
    exact does_mrestore he ha aligned plain free x rfl first good rest small
  · intro l k st ho hk hs hf hc told hq
    have ours : (s0.xpop a).ours l := by rwa [State.ours, State.xpop_cur]
    have done := does_mwait (h := h) (d := d) he ours hk hs hf hc told hq
    cases st <;> exact done
  · exact fun free => ⟨does_mstat he free 0, does_mstat he free 1, does_mstat he free 2, does_mstat he free 3⟩

end Sys2Proof.Machine
end

section
/-! SUPPORT. Time, stops, replay, power and bring-up (14 R553, R554, R564..R570; 15 R583..R586, R590..R592, R597, R600..R604). -/

set_option Elab.async false

namespace Sys2Proof.Machine

open Sys2Proof

/-! Readiness bits (15 R601). -/

theorem getLsbD_bit (b : Fin 57) (k : Nat) : (1#57 <<< b.val).getLsbD k = (k == b.val) := by
  rw [BitVec.getLsbD_shiftLeft, BitVec.getLsbD_one, Bool.eq_iff_iff]
  simp only [Bool.and_eq_true, decide_eq_true_eq, Bool.not_eq_true', decide_eq_false_iff_not, beq_iff_eq]
  omega

/-- Setting one readiness bit. -/
theorem getLsbD_or_bit (x : BitVec 57) (b : Fin 57) (k : Nat) :
    (x ||| (1#57 <<< b.val)).getLsbD k = (x.getLsbD k || k == b.val) := by
  rw [BitVec.getLsbD_or, getLsbD_bit]

/-- Clearing one readiness bit. -/
theorem getLsbD_and_not_bit (x : BitVec 57) (b : Fin 57) (k : Nat) :
    (x &&& ~~~(1#57 <<< b.val)).getLsbD k = (x.getLsbD k && k != b.val) := by
  rw [BitVec.getLsbD_and, BitVec.getLsbD_not, getLsbD_bit]
  by_cases hk : k < 57
  · simp [hk, bne]
  · rw [BitVec.getLsbD_of_ge x k (by omega)]
    simp

/-! The meridian counter and precise stops (14 R553, R554, R564). -/

section
variable {s : State} {a v tick : Word}

/-- A stop fires once the counter has reached its tick. -/
theorem fireStop_due (ha : s.sv.stopAt = some a) (armed : a ≠ BitVec.allOnes 64) (due : a.toNat ≤ s.sv.mtick.toNat) :
    s.fireStop = { s with sv := { s.sv with stopped := true } } := by
  unfold State.fireStop
  rw [ha]
  refine if_pos ?_
  rw [Bool.and_eq_true]
  exact ⟨bne_iff_ne.2 armed, decide_eq_true due⟩

theorem fireStop_dc (s : State) : s.fireStop.dc = s.dc := by
  unfold State.fireStop
  split
  · split <;> rfl
  · rfl

theorem fireStop_mtick (s : State) : s.fireStop.sv.mtick = s.sv.mtick := by
  unfold State.fireStop
  split
  · split <;> rfl
  · rfl

theorem execMeridianTick_next (s : State) : ∃ t, execMeridianTick s = .next t := by
  unfold execMeridianTick
  dsimp only
  split
  · exact ⟨_, rfl⟩
  split
  · exact ⟨_, rfl⟩
  · exact ⟨_, rfl⟩

theorem meridianTick_comes (s : State) : ∃ t : State, Sys2Proof.Machine.exec .meridianTick s = .next t ∧
    t.sv.mtick = s.sv.mtick + 1 ∧
    (s.sv.stopped = true → t = { s with sv := { s.sv with mtick := s.sv.mtick + 1 } }) ∧
    (∀ a, s.sv.stopped = false → s.sv.stopAt = some a → a ≠ BitVec.allOnes 64 → a.toNat ≤ (s.sv.mtick + 1).toNat →
      t.sv.stopped = true) := by
  change ∃ t : State, execMeridianTick s = .next t ∧ _
  obtain ⟨t, ht⟩ := execMeridianTick_next s
  refine ⟨t, ht, (execMeridianTick_keeps t ht).mtick, fun stopped => ?_, fun a going ha armed due => ?_⟩
  · unfold execMeridianTick at ht
    dsimp only at ht
    rw [if_pos stopped] at ht
    cases ht
    rfl
  · unfold execMeridianTick at ht
    dsimp only at ht
    rw [if_neg (by simp [going]), fireStop_due (s := { s with sv := { s.sv with mtick := s.sv.mtick + 1 } }) ha armed due,
      if_pos rfl] at ht
    cases ht
    rfl

theorem tickAlign_comes (lost : s.dc.ready.getLsbD 53 = false) : ∃ t : State,
    Sys2Proof.Machine.exec (.tickAlign tick) s = .next t ∧ t.dc.ready.getLsbD 53 = true ∧
      t.sv.mtick = if s.sv.mtick.toNat < tick.toNat then tick else s.sv.mtick := by
  change ∃ t : State, execTickAlign tick s = .next t ∧ _
  unfold execTickAlign
  rw [if_neg (Bool.not_eq_true _ ▸ lost)]
  refine ⟨_, rfl, ?_, fireStop_mtick _⟩
  rw [fireStop_dc]
  exact (getLsbD_or_bit s.dc.ready 53 53).trans (by simp)

theorem StoresOnly.ready {t : State} (h : StoresOnly s t) : t.dc.ready = s.dc.ready := by rw [h.rest]

theorem tickAlignLoss_comes (aligned : s.dc.ready.getLsbD 53 = true) : ∃ t : State,
    Sys2Proof.Machine.exec .tickAlignLoss s = .next t ∧ t.dc.ready = s.dc.ready &&& ~~~(1#57 <<< 53) := by
  change ∃ t : State, execTickAlignLoss s = .next t ∧ _
  unfold execTickAlignLoss
  rw [if_pos aligned]
  exact ⟨_, rfl, (postEvent_storesOnly ..).ready⟩

/-- Of the survey engine only the trace rings, of the datum controller only its core. -/
structure TracesOnly (s t : State) : Prop where
  sv : t.sv = { s.sv with trace := t.sv.trace }
  dc : t.dc = { s.dc with core := t.dc.core }

theorem TracesOnly.refl (s : State) : TracesOnly s s := ⟨rfl, rfl⟩

theorem TracesOnly.trans {s t u : State} (h1 : TracesOnly s t) (h2 : TracesOnly t u) : TracesOnly s u :=
  ⟨by rw [h2.sv, h1.sv], by rw [h2.dc, h1.dc]⟩

theorem StoresOnly.tracesOnly {s t : State} (h : StoresOnly s t) : TracesOnly s t := by
  constructor <;> rw [h.rest]

theorem withTrace_tracesOnly (s : State) (rings : Assoc TraceRing) :
    TracesOnly s { s with sv := { s.sv with trace := rings } } := ⟨rfl, rfl⟩

theorem traceAt_tracesOnly (s : State) (tick q core kind hart : Nat) (isX : Bool) (code : Nat) (n payload : Word) :
    TracesOnly s (s.traceAt tick q core kind hart isX code n payload) := by
  unfold State.traceAt
  dsimp only
  split
  · exact .refl s
  split
  · exact ⟨rfl, rfl⟩
  · exact (withTrace_tracesOnly s _).trans (recordOut_storesOnly ..).tracesOnly

theorem svrunWrite_comes (armed : s.sv.stopAt.isSome) (stopped : s.sv.stopped = true) : ∃ t : State,
    Sys2Proof.Machine.exec (.svrunWrite 1) s = .next t ∧ t.sv.stopped = false ∧ t.sv.stopAt = none := by
  change ∃ t : State, execSvrunWrite 1 s = .next t ∧ _
  obtain ⟨a, ha⟩ := Option.isSome_iff_exists.1 armed
  unfold execSvrunWrite
  rw [ha]
  dsimp only
  rw [if_pos ⟨rfl, stopped⟩]
  refine ⟨_, rfl, ?_, ?_⟩
  · rw [(traceAt_tracesOnly ..).sv]
    rfl
  · rw [(traceAt_tracesOnly ..).sv]
    rfl

end

/-! Operating points (15 R604). -/

section
variable {s : State}

/-- Of the datum controller only its core and the point's deadline. -/
def PointOnly (s t : State) : Prop := t.dc = { s.dc with core := t.dc.core, pointBy := t.dc.pointBy }

theorem PointOnly.trans {s t u : State} (h1 : PointOnly s t) (h2 : PointOnly t u) : PointOnly s u := by
  unfold PointOnly at *
  rw [h2, h1]

theorem TracesOnly.pointOnly {s t : State} (h : TracesOnly s t) : PointOnly s t := by
  unfold PointOnly
  rw [h.dc]

theorem forceBreak_pointOnly (s : State) (cause : Nat) : PointOnly s (s.forceBreak cause) := by
  have settled : PointOnly s ({ s with sv := { s.sv with broken := true } } : State).settlePoint := rfl
  unfold State.forceBreak
  dsimp only
  generalize State.settlePoint _ = t at settled ⊢
  exact settled.trans ((traceAt_tracesOnly ..).trans (postEvent_storesOnly ..).tracesOnly).pointOnly

theorem limitRose_pointOnly (s : State) (cause : Nat) (p : Fin 8) : PointOnly s (s.limitRose cause p) := by
  have posted := (postEvent_storesOnly s (s.dc.dmctl.toNat % 16) 216 25 cause 0 (leBytes 8 p.val)).tracesOnly.pointOnly
  unfold State.limitRose
  dsimp only
  split
  · exact posted
  split
  · exact posted.trans (forceBreak_pointOnly ..)
  · exact posted

theorem setPower_dc (s : State) (p : Fin 8) :
    ∃ core by_, (s.setPower p).dc = { s.dc with power := p, core := core, pointBy := by_ } := by
  unfold State.setPower
  dsimp only
  split
  · exact ⟨_, _, limitRose_pointOnly ..⟩
  · exact ⟨_, _, rfl⟩

theorem setThermal_dc (s : State) (p : Fin 8) :
    ∃ core by_, (s.setThermal p).dc = { s.dc with thermal := p, core := core, pointBy := by_ } := by
  unfold State.setThermal
  dsimp only
  split
  · exact ⟨_, _, limitRose_pointOnly ..⟩
  · exact ⟨_, _, rfl⟩

theorem setPcap_dc (s : State) (p : Fin 8) :
    ∃ core by_, (s.setPcap p).dc = { s.dc with pcap := p, core := core, pointBy := by_ } := by
  unfold State.setPcap
  dsimp only
  split
  · exact ⟨_, _, limitRose_pointOnly ..⟩
  · exact ⟨_, _, rfl⟩

theorem pcapWrite_comes (board : Bool) (v : Word) : ∃ t : State,
    Sys2Proof.Machine.exec (.pcapWrite board v) s = .next t ∧ t.dc.pcap.val = v.toNat % 8 := by
  obtain ⟨core, by_, hdc⟩ := setPcap_dc s ⟨v.toNat % 8, Nat.mod_lt _ (by decide)⟩
  exact ⟨_, rfl, by rw [hdc]⟩

theorem powerLimitRaise_comes (due : s.dc.dueRaise = true) : ∃ t : State,
    Sys2Proof.Machine.exec .powerLimitRaise s = .next t ∧ t.dc.power = pointUp s.dc.power ∧ t.dc.dueRaise = false := by
  obtain ⟨core, by_, hdc⟩ := setPower_dc { s with dc := { s.dc with dueRaise := false } } (pointUp s.dc.power)
  exact ⟨_, show execPowerLimitRaise s = _ from congrArg Host.Outcome.next (if_pos due), by rw [hdc], by rw [hdc]⟩

theorem powerLimitRelax_comes (due : s.dc.dueRelax = true) : ∃ t : State,
    Sys2Proof.Machine.exec .powerLimitRelax s = .next t ∧ t.dc.power = pointDown s.dc.power := by
  obtain ⟨core, by_, hdc⟩ := setPower_dc { s with dc := { s.dc with dueRelax := false } } (pointDown s.dc.power)
  exact ⟨_, show execPowerLimitRelax s = _ from congrArg Host.Outcome.next (if_pos due), by rw [hdc]⟩

theorem thermalLimitRaise_comes (due : s.dc.dueHot = true) : ∃ t : State,
    Sys2Proof.Machine.exec .thermalLimitRaise s = .next t ∧ t.dc.thermal = pointUp s.dc.thermal := by
  obtain ⟨core, by_, hdc⟩ := setThermal_dc { s with dc := { s.dc with dueHot := false } } (pointUp s.dc.thermal)
  exact ⟨_, show execThermalLimitRaise s = _ from congrArg Host.Outcome.next (if_pos due), by rw [hdc]⟩

theorem thermalTrip_comes (due : s.dc.dueTrip = true) : ∃ t : State,
    Sys2Proof.Machine.exec .thermalTrip s = .next t ∧ t.dc.thermal = 7 := by
  obtain ⟨core, by_, hdc⟩ := setThermal_dc { s with dc := { s.dc with dueTrip := false } } 7
  exact ⟨_, show execThermalTrip s = _ from congrArg Host.Outcome.next (if_pos due), by rw [hdc]⟩

theorem thermalLimitRelax_comes (due : s.dc.dueCold = true) : ∃ t : State,
    Sys2Proof.Machine.exec .thermalLimitRelax s = .next t ∧ t.dc.thermal = pointDown s.dc.thermal := by
  obtain ⟨core, by_, hdc⟩ := setThermal_dc { s with dc := { s.dc with dueCold := false } } (pointDown s.dc.thermal)
  exact ⟨_, show execThermalLimitRelax s = _ from congrArg Host.Outcome.next (if_pos due), by rw [hdc]⟩

/-- The point that governs is not below a limit, nor below the locked point. -/
theorem targetPoint_bounds (s : State) : s.dc.pcap ≤ s.targetPoint ∧ s.dc.thermal ≤ s.targetPoint ∧
    s.dc.power ≤ s.targetPoint ∧ ∀ q, s.sv.lockedAt = some q → q ≤ s.targetPoint := by
  unfold State.targetPoint DcSys.limit
  refine ⟨by simp, by simp, by simp, fun q hq => ?_⟩
  rw [hq]
  exact le_max_left ..

/-- Under a lock the locked point governs; without one any point may be chosen. -/
theorem pointChange_settles (s : State) : ∃ fresh choice,
    execPointChange s = .next ({ s with fresh := fresh, dc := { s.dc with choice := choice } } : State).settlePoint := by
  unfold execPointChange
  split
  · exact ⟨s.fresh, s.dc.choice, rfl⟩
  · exact ⟨_, _, rfl⟩

theorem pointChange_comes (s : State) : ∃ t : State, Sys2Proof.Machine.exec .pointChange s = .next t ∧
    s.dc.pcap ≤ t.sv.point ∧ s.dc.thermal ≤ t.sv.point ∧ s.dc.power ≤ t.sv.point ∧
      ∀ q, s.sv.lockedAt = some q → q ≤ t.sv.point := by
  obtain ⟨fresh, choice, settles⟩ := pointChange_settles s
  exact ⟨_, settles, targetPoint_bounds { s with fresh := fresh, dc := { s.dc with choice := choice } }⟩

end

/-! Bring-up, readiness and removed cores (15 R600..R602). -/

section
variable {s : State}

theorem dmloadWrite_comes {v : Word} (wait : s.dc.fwok = false) (good : s.dc.imageGood v.toNat = true) : ∃ t : State,
    Sys2Proof.Machine.exec (.dmloadWrite v) s = .next t ∧ t.dc.fwok = true ∧ t.dc.ready.getLsbD 56 = true ∧
      t.order = s.order ++ [.stream .datum] ∧ t.dc.core.pc = BitVec.ofNat 64 (cardField (s.dc.sram.bytes 0 64) 16 8) := by
  change ∃ t : State, execDmloadWrite v s = .next t ∧ _
  unfold execDmloadWrite
  rw [if_neg (by simp [wait]), if_pos good]
  exact ⟨_, rfl, rfl, by simp, rfl, rfl⟩

theorem dmloadWrite_bad {v : Word} (wait : s.dc.fwok = false) (bad : s.dc.imageGood v.toNat = false) :
    Sys2Proof.Machine.exec (.dmloadWrite v) s = .next { s with dc := { s.dc with fwfail := true } } := by
  change execDmloadWrite v s = _
  unfold execDmloadWrite
  rw [if_neg (by simp [wait])]
  exact if_neg (by simp [bad])

theorem unitReady_comes {bit : Fin 57} (running : s.dc.fwok = true) : ∃ t : State,
    Sys2Proof.Machine.exec (.unitReady bit) s = .next t ∧
      ∀ k, t.dc.ready.getLsbD k = (s.dc.ready.getLsbD k || k == bit.val) :=
  ⟨_, show execUnitReady bit s = _ from congrArg Host.Outcome.next (if_pos running), getLsbD_or_bit _ _⟩

theorem unitLost_comes {bit : Fin 57} (lossy : (4 ≤ bit.val ∧ bit.val < 16) ∨ (36 ≤ bit.val ∧ bit.val < 52) ∨ bit.val = 53) :
    ∃ t : State, Sys2Proof.Machine.exec (.unitLost bit) s = .next t ∧
      ∀ k, t.dc.ready.getLsbD k = (s.dc.ready.getLsbD k && k != bit.val) := by
  change ∃ t : State, execUnitLost bit s = .next t ∧ _
  unfold execUnitLost
  dsimp only
  by_cases tick : bit.val = 53
  · rw [if_pos tick]
    have cleared := getLsbD_and_not_bit s.dc.ready bit
    cases aligned : s.dc.ready.getLsbD 53 with
    | true =>
      obtain ⟨t, ht, ready⟩ := tickAlignLoss_comes aligned
      rw [tick] at cleared
      exact ⟨t, ht, fun k => by rw [ready, tick]; exact cleared k⟩
    | false =>
      refine ⟨s, if_neg (Bool.not_eq_true _ ▸ aligned), fun k => ?_⟩
      by_cases hk : k = 53
      · rw [hk, aligned]
        rfl
      · simp [tick, hk]
  · rw [if_neg tick, if_pos (by omega)]
    exact ⟨_, rfl, getLsbD_and_not_bit _ _⟩

theorem core_setCore_ne (s : State) {c k : Nat} (x : Core) (h : k ≠ c) : (s.setCore c x).core k = s.core k :=
  Assoc.get_put_ne _ _ _ h

/-- A core is removed or returns as its bit says. -/
def State.setRemoved (s : State) (c : Nat) (b : Bool) : State :=
  if (s.core c).removed == b then s else s.setCore c { s.core c with removed := b }

theorem setRemoved_removed (s : State) (c k : Nat) (b : Bool) :
    ((s.setRemoved c b).core k).removed = if k = c then b else (s.core k).removed := by
  unfold State.setRemoved
  by_cases same : ((s.core c).removed == b) = true
  · rw [if_pos same]
    split
    next hk => rw [hk, beq_iff_eq.1 same]
    next => rfl
  · rw [if_neg same]
    split
    next hk => rw [hk, State.core_setCore]
    next hk => rw [core_setCore_ne _ _ hk]

theorem foldl_setRemoved (first n k : Nat) (v : Word) (s : State) (hk : k < n) :
    (((List.range n).foldl (fun s i => s.setRemoved (first + i) (v.getLsbD i)) s).core (first + k)).removed = v.getLsbD k := by
  induction n with
  | zero => omega
  | succ n ih =>
    rw [List.range_succ, List.foldl_append, List.foldl_cons, List.foldl_nil, setRemoved_removed]
    split
    next h => rw [show k = n by omega]
    next h => exact ih (by omega)

theorem updLaunch_cores (s : State) (serial : Word) (f : Launch → Launch) : (s.updLaunch serial f).cores = s.cores := by
  unfold State.updLaunch
  split <;> rfl

theorem updLaunch_dc (s : State) (serial : Word) (f : Launch → Launch) : (s.updLaunch serial f).dc = s.dc := by
  unfold State.updLaunch
  split <;> rfl

theorem askPreempt_cores (s : State) (vs : List (Word × Gang)) : (s.askPreempt vs).cores = s.cores := by
  unfold State.askPreempt
  refine foldl_keeps State.cores (fun s v => ?_) vs s
  exact updLaunch_cores s v.1 _

theorem askPreempt_dc (s : State) (vs : List (Word × Gang)) : (s.askPreempt vs).dc = s.dc := by
  unfold State.askPreempt
  refine foldl_keeps State.dc (fun s v => ?_) vs s
  exact updLaunch_dc s v.1 _

/-- The cores that a removal register's word names. -/
def State.coresRemoved (s : State) (w : Nat) (v : Word) : State :=
  (List.range 64).foldl (fun s i => s.setRemoved (64 * w + i) (v.getLsbD i)) s

theorem setCdis_eq (s : State) (w : Nat) (v : Word) : ∃ vs, s.setCdis w v = ({ s.coresRemoved w v with
    dc := { (s.coresRemoved w v).dc with cdis := (s.coresRemoved w v).dc.cdis.put w v } } : State).askPreempt vs := by
  unfold State.setCdis State.coresRemoved State.setRemoved
  dsimp only
  generalize List.foldl _ _ _ = r
  exact ⟨_, rfl⟩

theorem cdisWrite_comes (w : Fin 8) (v : Word) : ∃ t : State, Sys2Proof.Machine.exec (.cdisWrite w v) s = .next t ∧
    t.dc.cdis.get w.val 0 = v ∧ ∀ k, k < 64 → (t.core (64 * w.val + k)).removed = v.getLsbD k := by
  obtain ⟨vs, written⟩ := setCdis_eq s w.val v
  refine ⟨_, congrArg Host.Outcome.next written, ?_, fun k hk => ?_⟩
  · rw [askPreempt_dc]
    generalize s.coresRemoved w.val v = r
    exact Assoc.get_put_self ..
  · have removed : ((s.coresRemoved w.val v).core (64 * w.val + k)).removed = v.getLsbD k := foldl_setRemoved _ _ _ _ _ hk
    generalize s.coresRemoved w.val v = r at removed ⊢
    unfold State.core at removed ⊢
    rw [askPreempt_cores]
    exact removed

end

/-! Key slots (15 R590..R592). -/

section
variable {s : State} {slot : Fin 64}

theorem slot_setSlot (s : State) (n : Nat) (k : KeySlot) : (s.setSlot n k).dc.slot n = k := Assoc.get_put_self ..

theorem kctlLoad_comes : let k := s.dc.slot slot.val
    ∃ t : State, Sys2Proof.Machine.exec (.kctlLoad slot) s = .next t ∧
      ((t.dc.slot slot.val).err = false ↔ (s.dc.lc = 1 ∨ s.dc.lc = 2) ∧ s.dc.dunlk = 0 ∧ k.base.toNat < k.lim.toNat ∧
        k.lim.toNat ≤ Config.deviceEnd ∧ s.dc.slotClash k.base.toNat k.lim.toNat = false) ∧
      ((t.dc.slot slot.val).err = false → (t.dc.slot slot.val).v = true) := by
  intro k
  refine ⟨_, show execKctlLoad slot s = .next (s.loadSlot slot.val) from rfl, ?_⟩
  have allowed : (((s.dc.lc == 1 || s.dc.lc == 2) && s.dc.dunlk == 0) && decide (k.base.toNat < k.lim.toNat) &&
      decide (k.lim.toNat ≤ Config.deviceEnd) && !s.dc.slotClash k.base.toNat k.lim.toNat) = true ↔
      (s.dc.lc = 1 ∨ s.dc.lc = 2) ∧ s.dc.dunlk = 0 ∧ k.base.toNat < k.lim.toNat ∧
        k.lim.toNat ≤ Config.deviceEnd ∧ s.dc.slotClash k.base.toNat k.lim.toNat = false := by
    simp only [Bool.and_eq_true, Bool.or_eq_true, beq_iff_eq, decide_eq_true_eq, Bool.not_eq_true', and_assoc]
  rw [← allowed]
  unfold State.loadSlot
  dsimp only
  split
  next loads =>
    rw [show ∀ t lo hi, (State.discardRange t lo hi).dc = t.dc from fun _ _ _ => rfl, slot_setSlot]
    exact ⟨⟨fun _ => loads, fun _ => rfl⟩, fun _ => rfl⟩
  next refused =>
    rw [slot_setSlot]
    exact ⟨⟨fun h => absurd h (by simp), fun h => absurd h refused⟩, fun h => absurd h (by simp)⟩

theorem kctlClearSeal_comes : let k := s.dc.slot slot.val
    ∃ t : State, Sys2Proof.Machine.exec (.kctlClearSeal slot) s = .next t ∧
      (k.sealed = true → ((t.dc.slot slot.val).sealed = false ↔ k.base = k.lim)) ∧ (k.sealed = false → t = s) := by
  intro k
  refine ⟨_, show execKctlClearSeal slot s = .next (s.clearSeal slot.val) from rfl, fun isSealed => ?_, fun unsealed => ?_⟩
  · unfold State.clearSeal
    dsimp only
    rw [if_neg (by simp [isSealed, k])]
    split
    next same =>
      rw [show ∀ (t : State) m, (t.setMem m).dc = t.dc from fun _ _ => rfl, slot_setSlot]
      exact ⟨fun _ => same, fun _ => rfl⟩
    next differ =>
      rw [slot_setSlot]
      exact ⟨fun h => absurd (isSealed.symm.trans h) (by decide), fun h => absurd h differ⟩
  · exact if_pos (by simp [unsealed, k])

end

/-! Power-good (15 R584, R600). -/

section
variable {s : State}

/-- The stacks and the fuses. -/
def State.chips (s : State) : Memory × Assoc Word := (s.mem.hbm, s.dc.fuses)

theorem discardRange_chips (s : State) (lo hi : Nat) : (s.discardRange lo hi).chips = s.chips := by
  unfold State.discardRange MemSys.poisonRange State.chips
  dsimp only
  split <;> rfl

theorem wipeSlot_chips (s : State) (n : Nat) : (s.wipeSlot n).chips = s.chips := by
  unfold State.wipeSlot
  dsimp only
  split
  · exact discardRange_chips ..
  split
  · exact discardRange_chips ..
  · rfl

theorem wipeAll_chips (s : State) : s.wipeAll.chips = s.chips := foldl_keeps State.chips wipeSlot_chips _ s

theorem powerGoodReset_comes : ∃ t : State, Sys2Proof.Machine.exec .powerGoodReset s = .next t ∧ t.dc.fuses = s.dc.fuses ∧
    t.mem.hbm = s.mem.hbm ∧ t.harts = State.reset.harts ∧ t.arrays = State.reset.arrays ∧ t.la = State.reset.la ∧
    t.sv = State.reset.sv ∧ (lcOfFuses (s.dc.fuses.get 2 0) ≠ 4 → t.mem.poison = s.mem.poison) := by
  let wiped := if lcOfFuses (s.dc.fuses.get 2 0) = 4 then s.wipeAll else s
  have chips : (wiped.lostRanges.foldl State.scramble wiped).chips = s.chips := by
    refine (foldl_keeps (f := State.scramble) State.chips (fun _ _ => rfl) _ _).trans ?_
    exact (apply_ite State.chips ..).trans (ite_eq_right_iff.2 fun _ => wipeAll_chips s)
  obtain ⟨hbm, fuses⟩ := Prod.ext_iff.1 chips
  refine ⟨_, rfl, fuses, hbm, rfl, rfl, rfl, rfl, fun other => ?_⟩
  refine (foldl_keeps (f := State.scramble) (fun u : State => u.mem.poison) (fun _ _ => rfl) _ _).trans ?_
  exact congrArg (fun u : State => u.mem.poison) (if_neg other)

theorem dchalDraw_comes : ∃ t : State, Sys2Proof.Machine.exec .dchalDraw s = .next t ∧ ¬(t.dc.chal0 = 0 ∧ t.dc.chal1 = 0) := by
  refine ⟨_, show execDchalDraw s = .next s.drawNonce from rfl, ?_⟩
  unfold State.drawNonce
  dsimp only
  rintro ⟨first, second⟩
  split at first
  · exact absurd first (by decide)
  next other => exact other ⟨first, second⟩

end

/-- Settles O60: each event or write in turn; what a limit posts and records touches no limit, and a reset's wipes neither
stacks' bytes nor fuses. -/
theorem timePowerAndBringUp : Obligations.TimePowerAndBringUp := by
  intro s v tick bit w board slot i ex up down
  refine ⟨meridianTick_comes s, tickAlign_comes, fun aligned => ?_, fun a ha armed due => ?_, svrunWrite_comes,
    fun going clear => ?_, rfl, fun m => ?_, fun m => ?_, fun h => ?_, fun t h => ?_, powerGoodReset_comes, rfl, fun h => ?_,
    dmloadWrite_bad, dmloadWrite_comes, unitReady_comes, unitLost_comes, cdisWrite_comes w v, pcapWrite_comes board v,
    powerLimitRaise_comes, powerLimitRelax_comes, thermalLimitRaise_comes, thermalTrip_comes, thermalLimitRelax_comes,
    pointChange_comes s, kctlLoad_comes, kctlClearSeal_comes, rfl, dchalDraw_comes⟩
  · obtain ⟨t, ht, ready⟩ := tickAlignLoss_comes aligned
    refine ⟨t, ht, ?_⟩
    rw [ready]
    exact (getLsbD_and_not_bit s.dc.ready 53 53).trans (Bool.and_false _)
  · exact congrArg Host.Outcome.next (fireStop_due ha armed due)
  · exact congrArg Host.Outcome.next (if_pos (by rw [going, clear]; rfl))
  · exact congrArg Host.Outcome.next (if_pos m)
  · exact congrArg Host.Outcome.next (if_neg m)
  · change execReplayInputArrive i s = _
    unfold execReplayInputArrive
    rw [h]
  · change execReplayInputArrive i s = _
    unfold execReplayInputArrive
    rw [h]
  · exact if_pos h

end Sys2Proof.Machine
end
